-- ==== Sys2Proof/Word.lean ====
section
/-!
DEFINITION. The word types of the BN7216 and the two carriers of sparse data: a table keyed by a number and a
byte memory keyed by an address (both kept in rising order of their keys). R8-R10, R12.
-/

namespace Sys2Proof

/-- One byte; multi-byte fields are little-endian (R10). -/
abbrev Byte := BitVec 8

/-- A 32-bit register value (R12). -/
abbrev Word := BitVec 32

/-- A 64-bit value: a handle, a flag, a RMO operand. -/
abbrev Dword := BitVec 64

/-- An X13 operand: S in bit 12, E in bits 11:7, F in bits 6:0 (R58). -/
abbrev X13 := BitVec 13

/-- A sparse table keyed by a number, keys strictly rising. -/
abbrev Tab (α : Type) := List (Nat × α)

/-- A sparse table of 32-bit words in which an absent word reads 0 and no listed word is 0. -/
abbrev WordTab := Tab Word

end Sys2Proof
end

