-- ==== Sys2Proof/Syntax.lean ====
section
/-!
DEFINITION. The commands of the BN7216: one constructor of Instr per row of the table of operations and events, with the
operands that come from outside the block. The table gives no operands and no bits: the operands are the model's
(log entry 1). An index of a unit is a Fin of that unit's count (R17), so a command cannot name a unit that does not exist.
-/

namespace Sys2Proof

/-- Lantern LN0-LN15 (R17). -/
abbrev LnIx := Fin 16
/-- Ingot quota index, which is also the sequencer context (R90, R92). -/
abbrev QIx := Fin 4
/-- Smelter SM0-SM11. -/
abbrev SmIx := Fin 12
/-- Shaper SH0-SH3. -/
abbrev ShIx := Fin 4
/-- Quad post-processing block Q0-Q3. -/
abbrev QuadIx := Fin 4
/-- Snapshot encoder SE0, SE1. -/
abbrev SeIx := Fin 2
/-- Dispatcher DS0-DS7. -/
abbrev DsIx := Fin 8
/-- DRAM controller MC0-MC7. -/
abbrev McIx := Fin 8
/-- Channel of a DRAM controller. -/
abbrev ChIx := Fin 4
/-- Crucible bank CB0-CB7. -/
abbrev CbIx := Fin 8
/-- Ethernet port EP0, EP1, or the cage of the same number. -/
abbrev EpIx := Fin 2
/-- Partition 0-63. -/
abbrev PartIx := Fin 64
/-- Ring 0-16,383 (R229). -/
abbrev RingIx := Fin 16384
/-- PCIe function: 0 is the PF, 1-255 the VFs. -/
abbrev FnIx := Fin 256
/-- Partition-local stream index, stream-table entry or decode context, 0-1,023. -/
abbrev StreamIx := Fin 1024
/-- Pewter pool P0-P7. -/
abbrev PoolIx := Fin 8
/-- Switched power domain (R380). -/
abbrev DomIx := Fin 120

/-- Array A or B of a Lantern. -/
inductive ArrayId
  | a
  | b
deriving DecidableEq, Repr

/-- The window through which an access arrives: PF BAR0, the BAR0 of one function, PF BAR2, or the configuration space of one function
(R311, R313, R314). -/
inductive RegBar
  | pf
  | vf (f : FnIx)
  | doorbells
  | config (f : FnIx)
deriving DecidableEq, Repr

/-- Size of a register access (R12). -/
inductive AccessSize
  | b8
  | b16
  | b32
  | b64
deriving DecidableEq, Repr

/-- A unit with a rate ring (R30). -/
inductive RateUnit
  | lantern (n : LnIx)
  | smelter (n : SmIx)
deriving DecidableEq, Repr

/-- An issuer of remote memory operations (R51). -/
inductive Issuer
  | lantern (n : LnIx)
  | dispatcher (d : DsIx)
  | smelter (n : SmIx)
  | shaper (n : ShIx)
  | snuffer (n : QuadIx)
  | tracker (n : QuadIx)
  | encoder (n : SeIx)
  | ozmel
  | hostBar4
deriving DecidableEq, Repr

/-- The operands of a remote memory operation, in the terms of the RMO descriptor (R45, R134). Addresses are PDAs of the
issuer's partition, or DAs for Ozmel. -/
structure RmoReq where
  /-- Source of PUT and GET, word address otherwise. -/
  a : Nat
  /-- Destination of PUT and GET, result address otherwise. -/
  b : Nat
  len : Nat := 0
  rows : Nat := 1
  srcStride : Nat := 0
  dstStride : Nat := 0
  val : Dword := 0
  exp : Dword := 0
  /-- WAIT: 0 GE, 1 EQ, 2 NE. SIGNAL: 0 SET, 1 ADD. -/
  cond : Nat := 0
  /-- WAIT: microseconds, 0 without limit. -/
  timeout : Nat := 0
  /-- The FENCE flag of R51. -/
  fence : Bool := false
  /-- The old value or the flag value is returned to b (R46). -/
  ret : Bool := false
  /-- GET: b is an offset in the issuing unit's local buffer, which has no device address (R45). -/
  toLocal : Bool := false
deriving DecidableEq, Repr

/-- Where a remote memory operation comes from: the RMO descriptor that a Lantern context has issued, or another issuer
with its operands and its partition. -/
inductive RmoSrc
  | descriptor (n : LnIx) (q : QIx)
  | unit (i : Issuer) (p : PartIx) (r : RmoReq)
deriving DecidableEq, Repr

/-- What an idle cycle of an Ingot or a Crucible bank comes with: nothing more; a read by any unit that has corrected a single-bit error in
the word at an offset; or a word whose bits have flipped, so that the next read of it finds an uncorrectable error (R89, R432). -/
inductive EccEvent
  | none
  | corrected (offset : BitVec 23)
  | upset (offset : BitVec 23)
deriving DecidableEq, Repr

/-- An idle cycle of an Ingot, and what it comes with. -/
structure IngotCycle where
  n : LnIx
  e : EccEvent
deriving DecidableEq, Repr

/-- An idle cycle of a Crucible bank, and what it comes with. -/
structure BankCycle where
  k : CbIx
  e : EccEvent
deriving DecidableEq, Repr

/-- Token IDs of the token buffer of a chain: the object they belong to, 0xFFFF for the frame, and the IDs (R167, R168). No field of the
specification names the buffer or lays it out, so TRACK takes what it holds (DESIGN CHOICE, log entry 164). -/
structure TokenList where
  obj : BitVec 16
  ids : List Word
deriving DecidableEq, Repr

/-- A TRACK in flight, and what the token buffer of its chain holds. -/
structure TrackCall where
  id : Nat
  tokens : List TokenList
deriving DecidableEq, Repr

/-- What else happens in an array step: nothing, a bubble (R37), a failed array check (R94), a fault of both arrays (R99),
an Ingot ECC error in an operand (R89) or a control parity error (R96). -/
inductive StepEvent
  | none
  | bubble
  | fault (kind : Fin 4) (dpu : Fin 64)
  | faultBoth (kind : Fin 4) (dpu : Fin 64)
  | eccCorrected (offset : BitVec 23)
  | eccUncorrectable (offset : BitVec 23)
  | controlParity
deriving DecidableEq, Repr

/-- How the tensors that a compute descriptor reads are stored: 0 plain, 1 AM2, 2 AM83, for its input and for its side tensor. No field
of a descriptor says so, and "any reader decompresses at its input" (R121) (DESIGN CHOICE, log entry 173). -/
structure InputModes where
  main : Fin 3 := 0
  side : Fin 3 := 0
deriving DecidableEq, Repr

/-- A descriptor to issue: its context, and how the tensors that it reads are stored. -/
structure IssueCall where
  q : QIx
  modes : InputModes
deriving DecidableEq, Repr

/-- Profiles of the supported bitstreams (R192); any other profile, or one of another codec, is `other`. -/
inductive CodecProfile
  | constrainedBaseline
  | main
  | high
  | high10
  | hevcMain
  | hevcMain10
  | hevcMain42210
  | av1Main
  | vp9Profile0
  | vp9Profile2
  | jpegBaseline
  | other
deriving DecidableEq, Repr

/-- Chroma sampling of a sequence or an image. -/
inductive ChromaFormat
  | mono
  | c420
  | c422
  | c444
deriving DecidableEq, Repr

/-- Kind of a picture: the random access points of R204, an RASL picture (R201), or another. `key` is an AV1 or VP9 key frame. -/
inductive PicKind
  | idr
  | cra
  | bla
  | key
  | rasl
  | other
deriving DecidableEq, Repr

/-- The syntax that Ozmel's bitstream reader finds ahead of the next picture of an access unit (R192-R204). The codecs are published
standards that the specification names and does not restate, so the parsed syntax elements are inputs (log entry 33). -/
structure PictureInfo where
  profile : CodecProfile
  /-- Ten times the level. -/
  level : Nat := 10
  /-- frame_mbs_only_flag (H.264). -/
  frameMbsOnly : Bool := true
  /-- nuh_layer_id (H.265), or the spatial layer (AV1). -/
  layer : Nat := 0
  /-- The frame belongs to operating point 0 (AV1). -/
  opPoint0 : Bool := true
  /-- A tool that R192 does not list, or a bit depth other than 8 and 10. -/
  otherTool : Bool := false
  /-- The access unit activates a sequence other than the present one. -/
  newSequence : Bool := false
  /-- The picture header cannot be parsed (R207). -/
  badHeader : Bool := false
  /-- The picture refers to a parameter set or sequence header that was never received (R207). -/
  noParams : Bool := false
  kind : PicKind := .other
  /-- show_frame, or pic_output_flag. -/
  shown : Bool := true
  /-- show_existing_frame: the frame of the context that is put out, with no picture to decode (AV1, VP9). -/
  existing : Option Nat := none
  /-- The access unit ends with this header (a show_existing_frame). -/
  ends : Bool := false
  /-- Place in output order (H.264, H.265). -/
  order : Int := 0
  /-- max_num_reorder, as signalled or inferred. -/
  reorder : Nat := 0
  /-- The number of pictures that max_latency allows, where it is signalled. -/
  latency : Option Nat := none
  /-- no_output_of_prior_pics_flag. -/
  noPriorOut : Bool := false
  /-- Size of the decoded picture, and what cropping takes from each side (R196). -/
  codedW : Nat
  codedH : Nat
  cropL : Nat := 0
  cropR : Nat := 0
  cropT : Nat := 0
  cropB : Nat := 0
  tenBit : Bool := false
  chroma : ChromaFormat := .c420
deriving DecidableEq, Repr

/-- Output width and height (R196). -/
def PictureInfo.width (i : PictureInfo) : Nat := i.codedW - i.cropL - i.cropR
def PictureInfo.height (i : PictureInfo) : Nat := i.codedH - i.cropT - i.cropB

/-- How an area of a picture decoded: in full, to an early end, or to broken syntax (R207). -/
inductive AreaEnd
  | good
  | cut
  | broken
deriving DecidableEq, Repr

/-- An area of the output picture in decoding order, in luma samples, and the bins that its entropy decoding took (R206). -/
structure PicArea where
  x : Nat
  y : Nat
  w : Nat
  h : Nat
  bins : Nat := 0
  state : AreaEnd := .good
deriving DecidableEq, Repr

/-- A frame that a picture refers to: its identity in the context, and its place in output order. -/
structure RefUse where
  frame : Nat
  order : Int := 0
deriving DecidableEq, Repr

/-- The AV1 film grain parameters in force for a frame (R202). -/
structure FilmGrain where
  applyGrain : Bool
  seed : BitVec 16 := 0
  pointsY : List (Byte × Byte) := []
  chromaFromLuma : Bool := false
  pointsCb : List (Byte × Byte) := []
  pointsCr : List (Byte × Byte) := []
  scalingMinus8 : BitVec 2 := 0
  arLag : BitVec 2 := 0
  arY : List Byte := []
  arCb : List Byte := []
  arCr : List Byte := []
  arShiftMinus6 : BitVec 2 := 0
  scaleShift : BitVec 2 := 0
  cb : Byte × Byte × BitVec 9 := (0, 0, 0)
  cr : Byte × Byte × BitVec 9 := (0, 0, 0)
  overlap : Bool := false
  clip : Bool := false
  /-- The frame is an inter frame, whose syntax carries update_grain. -/
  inter : Bool := false
deriving DecidableEq, Repr

/-- What the decoding of one picture gave (R193, R196, R199, R202, R205-R207): samples before cropping in raster order, where they were
decoded, and the facts of its headers. -/
structure PictureResult where
  luma : List Nat
  cb : List Nat
  cr : List Nat
  /-- Areas in decoding order; what none of them covers is missing. -/
  areas : List PicArea
  /-- Bytes of the motion field. -/
  motion : List Byte := []
  grain : Option FilmGrain := none
  /-- Frames that the picture refers to. -/
  refs : List RefUse := []
  /-- Coded bits of CAVLC and JPEG Huffman data (R193). -/
  codedBits : Nat := 0
  /-- A parity error of the Smelter during the picture (R209): its kind, and the areas decoded before it. -/
  parity : Option (Fin 3 × Nat) := none
  /-- The frame becomes a reference or enters the decoded picture buffer. -/
  isRef : Bool := false
  /-- Frames that the codec's reference process drops. -/
  dropRefs : List Nat := []
  /-- The access unit ends with this frame. -/
  last : Bool := true
  prim : Byte := 2
  transfer : Byte := 2
  matrix : Byte := 2
  fullRange : Bool := false
deriving DecidableEq, Repr

/-- Where a command waits to be issued: a ring, or the template chain of one analysed frame of a stream. -/
inductive CmdSrc
  | ring (r : RingIx)
  | frame (p : PartIx) (ix : StreamIx) (slot : Nat)
deriving DecidableEq, Repr

/-- A doorbell block: ring r of PF BAR2, or VF-local ring v of a function (R231, R314). -/
inductive Door
  | pf (r : RingIx)
  | vf (f : FnIx) (v : Nat)
deriving DecidableEq, Repr

/-- An engine unit at which partitions are arbitrated (R267). -/
inductive ArbUnit
  | lantern (n : LnIx)
  | smelter (n : SmIx)
  | shaper (n : ShIx)
  | snuffer (n : QuadIx)
  | tracker (n : QuadIx)
  | encoder (n : SeIx)
deriving DecidableEq, Repr

/-- A DRAM request as it reaches a channel queue (R291, R293, R294). -/
structure DramReq where
  id : Nat
  write : Bool
  /-- Service class: 0 LIVE, 1 MODEL, 2 BULK, 3 MGMT. -/
  cls : Fin 4
  /-- Device address of the access. -/
  da : Nat
  /-- Bytes written, or as many bytes as are read. -/
  bytes : List Byte
  issuer : Nat
deriving DecidableEq, Repr

/-- What happens to the read served in a command slot or by the patrol (R303-R305). -/
inductive DramEvent
  | none
  | linkRetry
  | linkFail
  | corrected
  | uncorrectable
deriving DecidableEq, Repr

/-- The lane measurement of a margin scan (R301). -/
inductive ScanDir
  | rdLow
  | rdHigh
  | wrLow
  | wrHigh
deriving DecidableEq, Repr

/-- Why a DRAM controller is declared failed (R306). -/
inductive McFailKind
  | phyLock
  | noWindow
  | errors
deriving DecidableEq, Repr

/-- A host write to configuration space (R323, R310, R312, R313). -/
inductive ConfigItem
  | busMaster (on : Bool)
  | msixEnable (on : Bool)
  | functionMask (on : Bool)
  | bar4Size (gib : Nat)
  | completionTimeout (value : Fin 16)
deriving DecidableEq, Repr

/-- The end of a transfer of I2C master 0 (R407). -/
inductive I2cEnd
  | done (read : List Byte)
  | nack
  | err
deriving DecidableEq, Repr

/-- A JTAG instruction (R414). -/
inductive JtagInstr
  | bypass
  | idcode
  | samplePreload
  | extest
  | debug
deriving DecidableEq, Repr

/-- The unit whose scrub ends (R91). -/
inductive ScrubUnit
  | ingot (n : LnIx)
  | crucible (k : CbIx)
deriving DecidableEq, Repr

/-- The cause of a warm reset (R365). -/
inductive WarmCause
  | perst
  | wdog
  | swGlobal
  | thermal
  | safe
deriving DecidableEq, Repr

/-- What an idle timer switches off (R382). -/
inductive GateUnit
  | array (a : ArrayId)
  | spill
deriving DecidableEq, Repr

/-- The commands of the BN7216, in the order of the table of operations. -/
inductive Instr
  | registerWrite (bar : RegBar) (off : Nat) (size : AccessSize) (v : Dword)
  | rcRegisterRead (bar : RegBar) (off : Nat) (size : AccessSize)
  | fabRateWindow (u : RateUnit) (cycles steps : Nat)
  | ageRingWindow (n : Fin 48) (period : BitVec 16)
  | marginReplan
  | vddFabUndervoltage (mv : Nat)
  | sysRefclkStop
  | sysRefclkReturn
  | safeAutoExit
  | winSelWrite (v : Word)
  | winLoWrite (v : Word)
  | winHiWrite (v : Word)
  | rmoPut (src : RmoSrc)
  | rmoGet (src : RmoSrc)
  | rmoAdd32 (src : RmoSrc)
  | rmoAddf32 (src : RmoSrc)
  | rmoSwap64 (src : RmoSrc)
  | rmoCas64 (src : RmoSrc)
  | rmoSignal (src : RmoSrc)
  | rmoWait (src : RmoSrc)
  | rmoFence (src : RmoSrc)
  | rmoComplete (id : Nat)
  | waitRetest (da : Nat)
  | waitPoll (id : Nat)
  | waitTimeout (id : Nat)
  | ingotEccWriteback (x : IngotCycle)
  | crucibleEccWriteback (x : BankCycle)
  | arrayStep (n : LnIx) (arr : ArrayId) (e : StepEvent)
  | weightBufferSwitch (n : LnIx) (arr : ArrayId)
  | accumulatorDrain (n : LnIx) (arr : ArrayId)
  | arrayReadmit (n : LnIx) (arr : ArrayId) (selfTestOk : Bool)
  | lanternReadmit (n : LnIx) (selfTestOk : Bool)
  | lnQselClr (n : LnIx) (v : Word)
  | descriptorFetch (n : LnIx) (q : QIx)
  | descriptorIssue (n : LnIx) (x : IssueCall)
  | descriptorComplete (n : LnIx) (q : QIx) (seq : Nat)
  | nopDescriptor (n : LnIx) (q : QIx)
  | ctrlEnd (n : LnIx) (q : QIx)
  | ctrlJump (n : LnIx) (q : QIx)
  | ctrlJumpErr (n : LnIx) (q : QIx)
  | ctrlLoop (n : LnIx) (q : QIx)
  | loadVuTable (n : LnIx) (q : QIx)
  | loadTaperWeights (n : LnIx) (q : QIx)
  | loadOutCodebook (n : LnIx) (q : QIx)
  | digFold (n : LnIx) (q : QIx)
  | clipStore (n : LnIx) (q : QIx)
  | clipClr (n : LnIx) (q : QIx)
  | out (n : LnIx) (q : QIx)
  | sync (n : LnIx) (q : QIx)
  | mma (n : LnIx) (q : QIx)
  | spill (n : LnIx) (q : QIx)
  | taper (n : LnIx) (q : QIx)
  | vuDepthwise (n : LnIx) (q : QIx)
  | vuMaxPool (n : LnIx) (q : QIx)
  | vuAvgPoolPadCounted (n : LnIx) (q : QIx)
  | vuAvgPoolPadNotCounted (n : LnIx) (q : QIx)
  | vuSoftmax (n : LnIx) (q : QIx)
  | vuLayerNorm (n : LnIx) (q : QIx)
  | vuGroupNorm (n : LnIx) (q : QIx)
  | vuResizeNearest (n : LnIx) (q : QIx)
  | vuResizeBilinear (n : LnIx) (q : QIx)
  | vuStagesOnly (n : LnIx) (q : QIx)
  | ticketTake (n : LnIx) (q : QIx)
  | orderedReduction (n : LnIx) (q : QIx)
  | indexRebuildPass (n : QuadIx)
  | bmrWrite (p : PartIx) (ix : StreamIx)
  | bmrDatagramSend (p : PartIx) (ix : StreamIx)
  | ethFrameReceive (port : EpIx) (link : Fin 4) (frame : List Byte) (fcsOk full : Bool)
  | gapHoldExpiry (e : StreamIx)
  | auIdleClose (e : StreamIx)
  | ingSselSnap (v : Word)
  | ethLinkChange (port : EpIx) (link : Fin 4) (up : Bool)
  | pictureStart (n : SmIx) (info : PictureInfo)
  | pictureComplete (n : SmIx) (r : PictureResult)
  | frameRelease (c : StreamIx) (frame : Nat)
  | frameBufferGrant (c : StreamIx)
  | recordedSuspend (n : SmIx)
  | recMinWindow (n : SmIx) (recRan allRan : Nat)
  | contextRehome (c : StreamIx) (stateOk : Bool)
  | smCselSnap (n : SmIx) (v : Word)
  | snapshotObjectEncode (n : SeIx)
  | rqSelWrite (v : Word)
  | rqCtxStage (k : Fin 7) (v : Word)
  | rqCtx7Commit (v : Word)
  | sqTailDoorbell (d : Door) (v : Word)
  | cqHeadDoorbell (d : Door) (v : Word)
  | irqArm (d : Door) (v : Word)
  | commandFetch (d : DsIx)
  | commandIssue (src : CmdSrc)
  | commandComplete (id : Nat)
  | moderationTimeout (r : RingIx)
  | nop (id : Nat)
  | fence (id : Nat)
  | timestamp (id : Nat)
  | streamBind (id : Nat)
  | streamFeed (id : Nat)
  | streamUnbind (id : Nat)
  | shape (id : Nat)
  | run (id : Nat)
  | runChain (id : Nat)
  | rangeScan (id : Nat)
  | modelLoad (id : Nat)
  | modelEvict (id : Nat)
  | snuff (id : Nat)
  | track (x : TrackCall)
  | trackReset (id : Nat)
  | snapshot (id : Nat)
  | copy (id : Nat)
  | fill (id : Nat)
  | poolAlloc (id : Nat)
  | poolFree (id : Nat)
  | poolShare (id : Nat)
  | frameChainIssue (p : PartIx) (ix : StreamIx)
  | partWriteShadow (id : Nat)
  | partSwap (id : Nat)
  | swapDrainTimeout
  | swapDrainEnd (loadFault : Bool)
  | shareSet (id : Nat)
  | shadeSet (id : Nat)
  | runAbort (id : Nat)
  | gangReform (p : PartIx) (entry : Fin 64) (n : LnIx)
  | arbitrationDecision (u : ArbUnit) (steps : Nat)
  | shadeGrant (p : PartIx) (path : Fin 7)
  | ptDataWrite (v : Word)
  | ptDataRead
  | acctSelSnap (v : Word)
  | poolEnable (k : PoolIx)
  | poolDisable (k : PoolIx)
  | poolStateInitDone (k : PoolIx)
  | channelCommandSlot (n : McIx) (c : ChIx) (arrivals : List DramReq) (ev : DramEvent)
  | refresh (n : McIx) (c : ChIx)
  | mr4Poll (n : McIx) (c0 c1 c2 c3 : Fin 5)
  | pageIdleClose (n : McIx) (c : ChIx) (bank : Fin 16)
  | marginScanStep (n : McIx) (c : ChIx) (lane : Fin 2) (dir : ScanDir) (passed : Bool)
  | delayPlanSave
  | patrolRead (n : McIx) (c : ChIx) (ev : DramEvent)
  | controllerFailure (n : McIx) (kind : McFailKind)
  | pcieLinkUp (speed : Fin 7) (width : Nat) (flit : Bool)
  | pcieLinkLost
  | perst
  | hotReset
  | flr (f : FnIx)
  | flrComplete (f : FnIx)
  | bar4Read (off : Nat) (len : Nat)
  | bar4Write (off : Nat) (bytes : List Byte)
  | completionTimeout (id : Nat)
  | powerStateChange (d3 : Bool)
  | vfEnable (enable mse : Bool) (num : Nat)
  | msixPendingSend (f : FnIx) (vec : Fin 2048)
  | tbTick
  | tbSet
  | tbStep
  | tbTimeLatch
  | tbIncrCommit (v : Word)
  | tbSlewWrite (v : Word)
  | offsetSample (r : Fin 2) (theta : Word)
  | ppsEdge (r : Fin 2)
  | refMeasurement (r : Fin 2) (dev : Int)
  | refFailTimeout (r : Fin 2)
  | refCfgWrite (r : Fin 2) (v : Word)
  | trigArm (k : Fin 8) (v : Word)
  | triggerFire (k : Fin 8)
  | captureEdge (k : Fin 8) (falling : Bool)
  | capPop (k : Fin 8)
  | controlCycleInterrupt
  | mbPost (f : FnIx)
  | mbRequestCopy (f : FnIx)
  | mbResponseWrite (f : FnIx)
  | mbRelease (f : FnIx)
  | getInfo (f : FnIx)
  | getTable (f : FnIx)
  | poolInfo (f : FnIx)
  | ringCtx (f : FnIx)
  | streamStats (f : FnIx)
  | acct (f : FnIx)
  | netCfg (f : FnIx)
  | mcast (f : FnIx)
  | excRead (f : FnIx)
  | ptpCfg (f : FnIx)
  | updateBegin (f : FnIx)
  | updateData (f : FnIx)
  | updateCommit (f : FnIx)
  | updateActivate (f : FnIx)
  | handoverResume (accepted : Bool)
  | logRead (f : FnIx)
  | powerSet (f : FnIx)
  | thermalSet (f : FnIx)
  | sensors (f : FnIx)
  | slotConfirmed
  | avsCycle (vout : Option Nat)
  | powerWindow (watts : Nat)
  | thermalLoop (tj : Int)
  | fanLoop (tj : Int) (inlet : Option Int) (tach0 tach1 : Nat)
  | troubleLogFlush
  | powerOnReset
  | ozmelReady
  | warmReset (cause : WarmCause)
  | rstGlobal (v : Word)
  | rstPart (v : Word)
  | rstBlock (v : Word)
  | thermalTrip (tj : Int)
  | thermalTripRelease (tj : Int)
  | watchdogExpiry
  | startTimeout
  | domainPowerUp (d : DomIx)
  | domainPowerDown (d : DomIx) (retain : Bool)
  | arrayIdleGate (n : LnIx) (u : GateUnit)
  | lanternPark (n : LnIx)
  | lanternUnpark (n : LnIx)
  | sootRecordWrite
  | sootRdataLatch
  | cagePresenceChange (c : EpIx) (present : Bool)
  | cageButtonPress (c : EpIx)
  | cagePwrEnWrite (c : EpIx) (v : Word)
  | cagePowerFault (c : EpIx)
  | pwrGoodTimeout (c : EpIx)
  | moduleResetRelease (c : EpIx)
  | moduleIntChange (c : EpIx) (low : Bool)
  | i2c0XferGo (v : Word)
  | i2c0XferEnd (e : I2cEnd)
  | smbusReadByte (cmd : Byte)
  | gpioInputChange (pin : Fin 16) (level : Bool)
  | uartDataWrite (v : Word)
  | uartDataRead
  | uartCharacterReceive (samples : List Bool)
  | uartCharacterSent
  | spiXferGo (v : Word)
  | spiXferEnd (read : List Byte)
  | jtagInstruction (i : JtagInstr)
  | cagePwrGood (c : EpIx)
  | perstNRelease
  | configSpaceWrite (f : FnIx) (item : ConfigItem)
  | hostReadCompletion (id : Nat) (bytes : List Byte)
  | smelterReadmit (n : SmIx) (selfTestOk : Bool)
  | crucibleBankReadmit (k : CbIx) (selfTestOk : Bool)
  | scrubComplete (u : ScrubUnit)
  | exceptionFrameHandle
deriving DecidableEq, Repr

end Sys2Proof
end

