-- ==== Sys2Proof/Decode.lean ====
section
/-!
DEFINITION. The commands of the block have no bits in the table of operations: no word spells one.
-/

namespace Sys2Proof

/-- The command that a word spells by the table's bits: the table gives no row bits, so there is none. -/
def decodeTableWord (_nbits _w : Nat) : Option Instr := none

end Sys2Proof
end

