-- ==== Sys2Proof/Config.lean ====
section
/-!
DEFINITION. What the specification leaves open and the model therefore leaves free: opaque constants, of which no proof can
see a value.
-/

namespace Sys2Proof

/-- The k-th free value drawn (log entry 2). -/
opaque Config.freeValue : Nat → Dword

/-- Ozmel's normalisation of an ageing ring's period in ps to the rated point, from PERIOD, TCOEF, VDD_FAB in mV and Tj
(R31, R32: a fused format that only Ozmel interprets) (DESIGN CHOICE, log entry 45). -/
opaque Config.normalisePeriod : Nat → Nat → Nat → Int → Nat

/-- tREFIpb in ns for a channel capacity code, which JESD209-5 gives (R297). -/
opaque Config.tRefiPb : Nat → Nat

/-- Choice among the results that "within 1 ulp" permits for exp and sigmoid of a binary32 word (R150, R155) (DESIGN CHOICE, log entry 63). -/
opaque Config.expPick : Word → Bool
opaque Config.sigmoidPick : Word → Bool

/-- Whether TB_FREQ rounds a correction up that lies between two of its values (R331, R338 give no rounding of F) (DESIGN CHOICE, log entry 22). -/
opaque Config.roundUpF : Int → Bool

/-- Whether a tick's slew INCR * SLEW_RATE / 10^6, which is no whole number of 2^-32 ns, is rounded up (R340 gives no rounding)
(DESIGN CHOICE, log entry 23). -/
opaque Config.roundUpSlew : Nat → Bool

/-- A bilinear sample from its four taps and the numerators and denominators of its two weights: the order in which its
binary32 operations round is not stated (R85). -/
opaque Config.bilinear : List Word → List Nat → Word

/-- Entry of the codebook that a Taper applies to a CB4 or CB8 operand, which R83 and R136 permit and for which no field names a codebook:
the draw of the descriptor, whether the operand is a weight, the code and the index (log entry 174). -/
opaque Config.taperEntry : Nat → Bool → Nat → Nat → X13

/-- Whether steps / cycles, which is no whole number of 0.1 %, is rounded up in FAB_RATE.UTIL (R30 gives no rounding)
(DESIGN CHOICE, log entry 109). -/
opaque Config.roundUpUtil : Nat → Nat → Bool

/-- Kaduell's JEDEC manufacturer identity in the JTAG IDCODE (R414 gives no value) (DESIGN CHOICE, log entry 138). -/
opaque Config.jtagMaker : BitVec 11

/-- PCI Vendor ID of every function (R311 gives none) (DESIGN CHOICE, log entry 170). -/
opaque Config.pciVendor : BitVec 16

/-- Word w of the configuration space of function f, where R311 gives it no content (DESIGN CHOICE, log entry 170). -/
opaque Config.configWord : Nat → Nat → Word

/-- The kind byte of the Soot event that the setting of bit b of CG_STATUS records (R406 gives the source alone). -/
opaque Config.cageKind : Nat → Byte

end Sys2Proof
end

