-- ==== Sys2Proof/Machine/State.lean ====
section
/-!
DEFINITION. The state of the BN7216, all of it plain data: the register file, the memories, every table, queue, counter,
mode and pin that the specification gives the block, and the queue of waiting commands; the faults and refusals; and the
machine after power-on reset. Sparse tables are lists in rising order of their key (Tab); what an absent entry stands for
is said where the table is read.
-/

namespace Sys2Proof.Machine

/-- Why the machine stops. -/
inductive Fault
  /-- Raised by a command whose operands lie outside the shape that WellFormed asks for (a list of the wrong length, a
  value wider than its wire). No such event can reach the device, so stopping is safe. -/
  | illFormed
deriving DecidableEq, Repr

/-- Why a command has no meaning. -/
inductive Refusal
  /-- Raised by Dispatch alone, for a command whose meaning is not written yet; safe. -/
  | notModelled (mnemonic : String)
  /-- Raised by JTAG_INSTRUCTION with a debug instruction while DBG_CTRL.DBG_EN is 1: R414 gives the instruction to a debug
  unit of the management cores and says nothing of what it does there; safe. -/
  | debugUnit
deriving DecidableEq, Repr

/-- Access codes of R14. -/
inductive Acc
  | rw
  | ro
  | w1c
  | wo1
  | rwl
  | rc
  | wo
deriving DecidableEq, Repr

/-- One field of a register: its bits and its access code. -/
structure Fld where
  hi : Nat
  lo : Nat
  acc : Acc
deriving DecidableEq, Repr

/-- One kind of register: the offset of its first instance, the strides and counts of its instances, its reset word, its
fields and the LOCK bit (register offset and bit) that locks its RWL fields. -/
structure RegKind where
  base : Nat
  dims : List (Nat × Nat)
  reset : Word
  fields : List Fld
  lock : Option (Nat × Nat)
deriving DecidableEq, Repr

/-- Status codes of R238. -/
inductive Status
  | ok
  | partialOk
  | staleEpoch
  | bounds
  | align
  | noBuffer
  | notOwner
  | quota
  | badOpcode
  | badVersion
  | detForbidden
  | aborted
  | timeout
  | locked
  | unitFault
  | isolated
  | detMapChanged
deriving DecidableEq, Repr

/-- Fuse shadows (R4, R31, R368, R374, R376). -/
structure Fuses where
  /-- 32, 28 or 24. -/
  grade : Nat
  /-- Temperature variant I. -/
  industrial : Bool
  /-- ARRAY_FUSE_MAP. -/
  arrayOff : Word
  keyHash : List Byte
  dieId : Dword
  stepping : BitVec 4
  /-- AGE_BASEn by ring; an unlisted ring has the BASE of ageDefault. -/
  ageBase : WordTab
  ageDefault : Word
  /-- The fused option table; the empty list is an unprogrammed table. -/
  options : List Byte
deriving DecidableEq, Repr

/-- Supply, temperature, ageing and clock of the fabric (R27-R37, R369). -/
structure Fabric where
  vddMv : Nat
  /-- The regulator command in mV, which the supply follows in steps of 10 mV (R34, R359). -/
  vCmdMv : Nat
  /-- Control cycles in a row without an answer of the regulator (R359). -/
  vSilent : Nat
  tj : Int
  /-- SYS_REFCLK runs. -/
  refclk : Bool
  /-- VDD_FAB lies below the limit of R29. -/
  vddLow : Bool
  /-- The device is in SAFE state, and the Discovery header as it stood on entry (R321). -/
  safe : Bool
  safeHeader : WordTab
  /-- The last 360 computed rated rates, newest first (R32). -/
  ratedHist : List Nat
  /-- The lowest RATED_RATE published, kept in flash; 0: none. -/
  flashRated : Nat
  /-- Period of the slowest normalised ring at the last re-plan in ps; 0: no re-plan yet. -/
  worstPs : Nat
  /-- Domains, and ageing rings, that have been off or stopped since their last window (R30, R31). -/
  rateGap : List Nat
  ageGap : List Nat
  /-- A warm reset is asserted and not yet released (R369, R373). -/
  resetHeld : Bool
deriving DecidableEq, Repr

/-- States of the servo (R339, TB_STATUS.STATE). -/
inductive ServoState
  | freerun
  | acquire
  | pullin
  | locked
  | holdover
deriving DecidableEq, Repr

/-- The monitor of one time reference (R335-R337), beside REF_CFGr, REF_STATr and TB_OFFSETr. -/
structure TimeRef where
  /-- Consecutive measurements in tolerance since the last one out of tolerance or failure. -/
  inRun : Nat
  /-- The last measurement in 0.01 ppm. -/
  lastDev : Int
  /-- Frequency word at the last measurement, and the word on record one second before the present run out of tolerance. -/
  prevWord : Option Int
  word : Option Int
  /-- A sample has arrived since the last outright failure. -/
  sampled : Bool
deriving DecidableEq, Repr

/-- A trigger output (R343). The next edge is kept while the trigger is armed. -/
structure Trig where
  level : Bool
  /-- Next edge in ns modulo 2^32 s, when armed. -/
  next : Option Nat
  /-- Ticks left of the running pulse; 0: no pulse. -/
  pulse : Nat
deriving DecidableEq, Repr

/-- One captured edge (R344): falling, seconds and nanoseconds. -/
structure Capture where
  fall : Bool
  sec : Nat
  ns : Nat
deriving DecidableEq, Repr

/-- A committed SET: seconds, nanoseconds, fraction (R332). -/
structure TimeSet where
  sec : Nat
  ns : Nat
  frac : Nat
deriving DecidableEq, Repr

/-- The timebase (R330-R347). -/
structure Timebase where
  sec : Nat
  /-- Nanoseconds and 32 fraction bits: FRAC and the hidden bits. -/
  sub : Nat
  /-- Increment in units of 2^-32 ns. -/
  incr : BitVec 40
  incrStaged : Option Word
  latchNs : Word
  latchSl : Word
  latchSh : Word
  pendingSet : Option TimeSet
  pendingStep : Option Int
  servo : ServoState
  /-- Integral and present correction in units of 2^-32 ppb. -/
  fInt : Int
  f : Int
  good : Nat
  /-- The slew not yet applied, TB_SLEW.ADJ, in 2^-32 ns (R340). -/
  slewRem : Int
  /-- An interrupt of the control cycle stands for the management complex (R345). -/
  cycleIrq : Bool
  refs : List TimeRef
  trigs : List Trig
  caps : List (List Capture)
deriving DecidableEq, Repr

/-- A Shade of one partition on one path (R271, R272). -/
structure Shade where
  rate : Nat
  depth : Nat
  /-- Tokens in 10^-3 bytes, as they stood at the time in ns. -/
  tokens : Int
  last : Nat
  /-- Waiting requests in arrival order: key and bytes. -/
  waiting : List (Nat × Nat)
  /-- Keys of requests granted and not yet performed. -/
  granted : List Nat
deriving DecidableEq, Repr

/-- A residency tag (R265): model identity and, for each member, the epochs of its logic and Ingot domains. -/
structure ResTag where
  model : Nat
  epochs : List (Nat × Byte × Byte)
  /-- DA and length of the sections placed in quotas, and of those placed elsewhere. -/
  sections : List (Nat × Nat)
  shared : List (Nat × Nat)
  /-- A bank that held a shared section was quarantined (R402). -/
  lost : Bool
deriving DecidableEq, Repr

/-- The residency record of one gang entry (R263-R265). -/
structure Residency where
  resident : Option ResTag
  swapped : List ResTag
  /-- A RES_LOAD load of the entry has not completed. -/
  loadPending : Bool
deriving DecidableEq, Repr

/-- One partition (R251-R275). Tables are word tables keyed by TABLE * 512 + word. -/
structure Part where
  active : WordTab
  shadow : WordTab
  shares : List Nat
  shades : List Shade
  /-- Charged ns and steps of each engine class (R270). -/
  acct : List (Nat × Nat)
  /-- Residency by gang entry. -/
  residency : Tab Residency
deriving DecidableEq, Repr

/-- A PART_SWAP at Ozmel: the command (none for a re-form), its mask, and the timebase ns of its arrival. -/
structure SwapReq where
  cmd : Option Nat
  mask : Dword
  arrived : Nat
  /-- Re-form of one gang entry: partition, entry and Lantern removed (R257). -/
  reform : Option (Nat × Nat × Nat)
  /-- Timebase ns at which its drain began. -/
  began : Nat := 0
  /-- DRAIN_US are over (R258). -/
  late : Bool := false
  /-- RUN_ABORT has aborted it (R249). -/
  aborted : Bool := false
  /-- In its scrub phase, the units still to be scrubbed, Ingots 0-15 and Crucible banks 16-23, and whether its load phase meets an error. -/
  scrubs : List Nat := []
  loadFault : Bool := false
deriving DecidableEq, Repr

/-- The swap in progress and what waits for it (R258-R262, R275). The phase is PSWAP_STATUS.PHASE. -/
structure Swap where
  current : Option SwapReq
  queue : List SwapReq
  /-- Shadow word writes held until the flip: partition, key and word (R55, R275). -/
  held : List (Nat × Nat × Word)
  /-- PART_WRITE_SHADOW commands held until the flip. -/
  heldCmds : List Nat
  /-- RST_PART and RST_BLOCK requests that wait for the swap (R386, R387). -/
  resetPart : Option Nat
  resetBlock : Option (Nat × Nat)
deriving DecidableEq, Repr

/-- The kind of a remote memory operation (R45). -/
inductive RmoKind
  | put
  | get
  | add32
  | addf32
  | swap64
  | cas64
  | signal
  | wait
  | fence
deriving DecidableEq, Repr

/-- A remote memory operation that its issuer has issued and that has not completed (R51). -/
structure Rmo where
  id : Nat
  issuer : Issuer
  part : Nat
  kind : RmoKind
  req : RmoReq
  /-- Device addresses of the operands a and b, as translated at issue (R43). -/
  da : Nat
  db : Nat
  /-- The operation has been performed at its memory, with this status. -/
  done : Bool
  status : Status
  /-- Old value or flag value. -/
  old : Dword
  /-- WAIT: it holds a waiter entry of its memory; otherwise it polls (R48). -/
  entry : Bool
  /-- The descriptor that issued it: Lantern, context and descriptor sequence. -/
  desc : Option (LnIx × QIx × Nat)
  detail : Word
deriving DecidableEq, Repr

/-- Where a command stands. -/
inductive CmdPhase
  /-- Read by the Dispatcher and checked, not issued. -/
  | fetched
  /-- Issued to its engine. -/
  | issued
  /-- Its engine works on it. -/
  | active
  /-- Its status is known; the completion record is due. -/
  | ended
deriving DecidableEq, Repr

/-- A command that a Dispatcher has fetched (R234-R238) or that a frame template issues (R243). -/
structure Cmd where
  id : Nat
  src : CmdSrc
  opcode : Nat
  ordered : Bool
  chain : Bool
  irq : Bool
  fence : Bool
  tag : Nat
  index : Nat
  part : Nat
  fn : Nat
  params : List Byte
  /-- DET_MODE as captured (R389). -/
  det : Bool
  phase : CmdPhase
  status : Status
  detail : Word
  /-- Progress: members running, stage, objects left. -/
  aux : Nat
  /-- Arrays of the gangs that the run has involved so far (R95). -/
  mapMask : Word
  /-- Gang entry it runs on at present, and that gang's members. -/
  gang : Nat
  members : List Nat
  /-- First slot of its ring, or place in its frame's chain. -/
  pos : Nat
  /-- The 16 bytes of TIMESTAMP, latched when the command is interpreted. -/
  latched : List Byte
  /-- Its place in the order of issue (R51). -/
  place : Nat := 0
  /-- Its engine has begun it and works on it or stalls (R223, R268). -/
  begun : Bool := false
  /-- Profiles that it has read, by address (R148). -/
  profiles : List (Nat × List Byte) := []
  /-- The enabled-array map of a gang involved changed during the run; for a TRACK, a member before it in its ring's chain ended with
  DET_MAP_CHANGED (R95, R167). -/
  mapChanged : Bool := false
deriving DecidableEq, Repr

/-- A ring: its committed context and its free-running positions (R229-R239). -/
structure Ring where
  ctx : List Word
  sqHead : Word
  sqTail : Word
  cqHead : Word
  cqTail : Word
  armed : Bool
  counted : Nat
  statusCount : Word
  /-- A chain of the ring is open: commands of it interpreted so far, and the TAG of the member that failed. -/
  chainLen : Nat
  chainFail : Option Nat
  /-- The member of the open chain that was interpreted last. -/
  chainPrev : Option Nat
  /-- A member of the open chain ended with DET_MAP_CHANGED (R167). -/
  chainDet : Bool := false
deriving DecidableEq, Repr

/-- State of one Pewter buffer: generation and four owner slots (R278, R282). -/
structure PBuf where
  gen : Byte
  slots : List (Option Nat)
deriving DecidableEq, Repr

/-- An outstanding read request of the endpoint (R312). -/
structure HostRead where
  id : Nat
  fn : Nat
  cmd : Nat
  addr : Nat
  len : Nat
  /-- Device address that receives the data. -/
  dst : Nat
deriving DecidableEq, Repr

/-- One PCIe function (R313, R322-R327). -/
structure Func where
  busMaster : Bool
  msixEnable : Bool
  functionMask : Bool
  timeoutVal : Nat
  /-- An FLR of the function is in progress. -/
  flr : Bool
  /-- MSI-X table words that differ from reset, keyed by vector * 4 + word. -/
  table : WordTab
  pba : List Nat
deriving DecidableEq, Repr

/-- The endpoint (R309-R329), beside PE_STATUS, PE_BAR4 and PE_ERR. -/
structure Pcie where
  funcs : Tab Func
  vfEnable : Bool
  vfMse : Bool
  numVf : Nat
  bar4Gib : Nat
  d3 : Bool
  perst : Bool
  reads : List HostRead
  /-- Errors logged in AER, newest first: 0 Unsupported Request, 1 Completer Abort, 2 Completion Timeout. -/
  aer : List (Nat × Nat)
deriving DecidableEq, Repr

/-- An event on its way to Soot (R395-R399). -/
structure SootEvent where
  code : Nat
  arg : Dword
  part : Option Nat
  sec : Nat
  ns : Nat
  frozen : Bool
  trig : Option Nat
  regs : List Word
  suppressed : Nat
deriving DecidableEq, Repr

/-- The event recorder (R395-R404). -/
structure Soot where
  queue : List SootEvent
  /-- Tokens of a code in 10^-9 records and the time of their last refill in ns; an unlisted bucket is full. -/
  buckets : Tab (Nat × Nat)
  suppressed : Tab Nat
  /-- SOOT_RATE words that differ from the default of R398, by code. -/
  rates : Tab Word
  /-- Trigger words, keyed by trigger * 16: SOOT_TCFG at 0, SOOT_TREGj at 1 + j. -/
  trigs : WordTab
  /-- The ring of 4,096 records, as words keyed by slot * 16 + word. -/
  ring : WordTab
  latched : List Word
deriving DecidableEq, Repr

/-- A mailbox of one function, beside its message areas and controls in the register file (R349-R352). -/
structure Mailbox where
  /-- Requests copied by Ozmel, oldest first, as bytes (header and payload). -/
  requests : List (List Byte)
  responses : List (List Byte)
  notifs : List (List Byte)
  lost : Nat
deriving DecidableEq, Repr

/-- A trouble-log entry (R363) (DESIGN CHOICE, log entry 119). -/
structure LogEntry where
  sec : Nat
  ns : Nat
  seq : Nat
  code : Nat
  severity : Nat
  boot : Nat
  data : List Byte
  /-- It stands in flash. -/
  saved : Bool
deriving DecidableEq, Repr

/-- Constants of Ozmel's control loops (R358). -/
structure LoopConsts where
  pwrLimit : Nat
  avsGuard : Nat
  boostTj : Nat
  tjTarget : Nat
  tjThrottle : Nat
  tau : Nat
  fanKp : Nat
  fanMin : Nat
  slewUp : Nat
  slewDn : Nat
  ffBase : Nat
  ffSlope : Nat
deriving DecidableEq, Repr

/-- State of an Ozmel image slot (R376). -/
inductive SlotState
  | invalid
  | trial
  | confirmed
  | rejected
deriving DecidableEq, Repr

/-- Network settings of one link (NET_CFG) as the message gives them. -/
structure NetCfg where
  port : Nat
  link : Nat
  bytes : List Byte
deriving DecidableEq, Repr

/-- The management complex and Ozmel (R348-R364). -/
structure Ozmel where
  running : Bool
  ready : Bool
  /-- The watchdog of R371 is armed. -/
  wdogArmed : Bool
  bootCount : Nat
  /-- Version word and build sequence of the running image. -/
  version : Word
  buildSeq : Word
  slotStates : List SlotState
  /-- Slot that failed its start, to be passed over at the next start and rejected at READY (R377). -/
  failedSlot : Option Nat
  /-- TRIAL slot passed over after a warm reset, to be rejected at READY (R357). -/
  passedTrial : Option Nat
  /-- The start to come passes the failed slot over (R377), or takes the slot that UPDATE_ACTIVATE asked for (R354). -/
  skipFailed : Bool
  bootWanted : Option Nat
  /-- UPDATE: announced length, end of the data received, committed slot. -/
  updLen : Option Nat
  updEnd : Nat
  updCommitted : Option Nat
  /-- A handover is in progress, for the request with this header (R355). -/
  handover : Option (List Byte)
  /-- When UPDATE_ACTIVATE was handled, in ns. -/
  handoverStart : Nat
  /-- A handover waits for the PART_SWAP in progress. -/
  activateWaits : Option (List Byte)
  mailboxes : Tab Mailbox
  consts : LoopConsts
  /-- Power and thermal loop values in k steps/s; boost; windows since the last lowering; windows that met the boost conditions. -/
  powerRate : Nat
  thermalRate : Nat
  boosted : Bool
  lowWindows : Nat
  boostWindows : Nat
  lastWatts : Nat
  lastInlet : Int
  throttled : Bool
  fanFail : Bool
  fanFailRuns : List Nat
  /-- Fan integral and duty in units of 1/1,000,000 °C and 1/1,000,000 %. -/
  fanInt : Int
  fanDuty : Int
  /-- Fan loops for which a HOT bit keeps the target at 100 %. -/
  hotHold : Nat
  tach : List Nat
  log : List LogEntry
  logSeq : Nat
  /-- Repeats suppressed, and time in ns of the last entry, by code. -/
  logRepeat : Tab (Nat × Nat)
  net : List NetCfg
  /-- Multicast memberships: function, request bytes. -/
  mcast : List (Nat × List Byte)
  ptp : Tab (List Byte)
deriving DecidableEq, Repr

/-- What the block has put out: the answer of the last read, messages, datagrams, characters and pins. -/
structure Outs where
  busData : Dword
  /-- Answer of the last BAR4 read: bytes, or none for an error completion; poisoned. -/
  bar4Data : Option (List Byte)
  bar4Poison : Bool
  /-- MSI-X messages sent, newest first: function and vector. -/
  msix : List (Nat × Nat)
  /-- Ethernet frames sent, newest first: port, link, bytes. -/
  eth : List (Nat × Nat × List Byte)
  /-- Characters sent on UART_TX, newest first: the bits of each, in their order. -/
  uart : List (List Bool)
  smbus : Byte
  /-- THERMTRIP_N driven low. -/
  thermtrip : Bool
  /-- Commands handed to the boot flash by SPI_XFER, newest first. -/
  spi : List (List Byte)
  i2c : List (List Byte)
  dramResetN : Bool
  /-- What the JTAG data register captured under the last instruction. -/
  jtagData : Word
deriving DecidableEq, Repr

/-- Error and scrub bookkeeping of one Ingot (R89, R91, R96, R97): times in ns of its recent uncorrectable errors, DAs of corrected
words to be written back, ranges being scrubbed (first DA and length), and whether the scrub is that of a re-admission. -/
structure IngotErr where
  errors : List Nat
  writeback : List Nat
  ranges : List (Nat × Nat)
  readmit : Bool
deriving DecidableEq, Repr

/-- A Crucible bank (R402, R432): quarantined, times in ns of its recent uncorrectable errors, DAs of corrected words to be written
back, ranges being scrubbed. -/
structure Bank where
  quarantined : Bool
  errors : List Nat
  writeback : List Nat
  ranges : List (Nat × Nat)
deriving DecidableEq, Repr

/-- A request in a channel queue: when it arrived in ns, and its place in the order of arrival at the controller. -/
structure QReq where
  req : DramReq
  arrived : Nat
  seq : Nat
deriving DecidableEq, Repr

/-- Progress of a margin scan of one lane in one direction: taps tried so far (R301). -/
structure ScanPos where
  taps : Nat
  result : Option Nat
deriving DecidableEq, Repr

/-- One DRAM channel (R294-R304). -/
structure Chan where
  /-- Requests that a full queue or the order of R294 holds at the gasket. -/
  gasket : List QReq
  rq : List QReq
  wq : List QReq
  /-- Open row of each bank. -/
  rows : Tab Nat
  /-- Time in ns up to which each bank's refreshes are done. -/
  refreshed : Tab Nat
  derated : Bool
  draining : Bool
  /-- Writes drained while an aged read waits. -/
  drained : Nat
  /-- Scan positions, keyed by lane * 4 + direction. -/
  scan : Tab ScanPos
  /-- Delay words to apply at the next refresh, by register offset (R302). -/
  pendingDelay : WordTab
  patrol : Nat
deriving DecidableEq, Repr

/-- The DRAM subsystem beside its registers (DESIGN CHOICE, log entry 44). -/
structure Dram where
  /-- Channels by controller * 4 + channel. -/
  chans : Tab Chan
  nextSeq : Nat
  /-- Reads performed, newest first: request, data and whether the data reports an error. -/
  served : List (Nat × List Byte × Bool)
  /-- The moved plan as saved in flash, by register offset; and whether it is valid (R300, R302). -/
  plan : WordTab
  /-- Times in ns of each controller's uncorrectable errors of the last second (R306). -/
  errors : Tab (List Nat)
deriving DecidableEq, Repr

/-- A descriptor's bytes with the sums of its address references, by 8-byte slot (R126). -/
structure Cap where
  bytes : List Byte
  adr : List Nat
deriving DecidableEq, Repr

/-- A descriptor that a sequencer context has issued and not completed (R128, R129). -/
structure Desc where
  seq : Nat
  cap : Cap
  /-- The OUT and SYNC states captured at issue. -/
  out : Option Cap
  sync : Option Cap
  /-- When it issued, in ns. -/
  at_ : Nat
  /-- Its engine has begun, so CLIPCLR has taken effect. -/
  started : Bool
  /-- Units of its work that are done: blocks or rows. -/
  prog : Nat
  /-- Tiles of the present unit that the arrays have drained. -/
  drained : List Nat
  /-- LN_CTRL as it stood at issue, which enables arrays from one descriptor boundary to the next (R98, R99). -/
  ctl : Word
  /-- How its input and side tensor are stored (R121). -/
  modes : InputModes
  /-- The draw of the codebook entries that no field names (log entry 174). -/
  free : Nat
  /-- The tensor's weight codebook and the activation codebook, loaded as its engine began (R60, R77). -/
  wcb : List X13
  acb : List X13
  /-- Under a K-split, tiles of the present unit part of whose K blocks are summed: tile, K blocks, accumulators in drain order (R80). -/
  sums : List (Nat × Nat × List (Word × Bool))
  /-- Blocks of the present unit whose input rows stand in their staging half (R140). -/
  staged : List Nat
  /-- Arrays between the start of their first tile of the descriptor and the drain of their last (R98). -/
  runs : List Nat
  /-- Output codes of the blocks in progress, for the digest: position, channel and code (R145). -/
  codes : List (Nat × Nat × Nat)
  /-- Ticket counter instance, tickets held (the one being computed first), ticket 0 was taken here, and END was returned. -/
  counter : Option Nat
  tickets : List Nat
  tookZero : Bool
  ticketEnd : Bool
  /-- The RMO that it has issued and waits for. -/
  rmo : Option Nat
  /-- Its status, once its engine has finished. -/
  done : Option Status
  detail : Word
deriving DecidableEq, Repr

/-- A LOAD record of a sequencer context (R433). -/
structure LoadRec where
  src : Nat
  len : Nat
  code : Nat
  rtag : Word
deriving DecidableEq, Repr

/-- The first error of a RUN (LN_SEQST). -/
structure SeqErr where
  status : Status
  ty : Nat
  tag : Nat
deriving DecidableEq, Repr

/-- A sequencer context (R123-R134). PDAs throughout. -/
structure SeqCtx where
  /-- The command that runs, if any. -/
  cmd : Option Nat
  part : Nat
  start : Nat
  bases : List Nat
  lcs : List Nat
  /-- Next descriptor to issue; bytes fetched from there on; end of what has been fetched. -/
  pc : Nat
  fetched : List Byte
  lastPc : Nat
  out : Option Cap
  sync : Option Cap
  issued : List Desc
  nextSeq : Nat
  /-- Records of the six targets of LOAD: VU tables 0-3, Taper weights, output codebooks. -/
  recs : List (Option LoadRec)
  err : Option SeqErr
  /-- No further descriptor issues; END has been reached. -/
  stop : Bool
  ended : Bool
  /-- Arrivals at dispatched MMAs, by DISP_ID (R141). -/
  arrivals : Tab Nat
deriving DecidableEq, Repr

/-- A table or store of a Lantern with its owner mark: partition and the epochs of the logic and Ingot domains (R92, R136). -/
structure Held where
  owner : Option (Nat × Byte × Byte)
  rtag : Word
  code : Nat
  data : List Byte
deriving DecidableEq, Repr

/-- Activation register of the Spill pair: its owner, its identity (A_ADDR, A_PITCH, ACODE, N, K) and its X13 values by column and group
of 64, in high and low parts with their group offset (R82, R143). -/
structure SpillReg where
  owner : Option (Nat × Byte × Byte)
  key : List Nat
  acts : List (List (List X13 × List X13 × Int))
deriving DecidableEq, Repr

/-- One stationary weight buffer: the operands of 64 DPUs in high and low parts, their group offsets and shifts (R76, R77). -/
structure WBuf where
  hi : List (List X13)
  lo : List (List X13)
  d : List Int
  sh : List Int
  /-- Tile of the unit, K block of the tile under a K-split, positions, K group, and whether it is the array's first and last there. -/
  tile : Nat
  span : Nat
  nt : Nat
  kg : Nat
  first : Bool
  last : Bool
deriving DecidableEq, Repr

/-- A tile in the accumulator bank: positions by channel * 256 + position; an unlisted position holds +0 (R78). -/
structure Tile where
  tile : Nat
  span : Nat
  nt : Nat
  acc : Tab (Word × Bool)
  complete : Bool
deriving DecidableEq, Repr

/-- What an array's feeders hold: their owner mark, the identities of the weights and of the two codebooks, the first row, the codebooks,
and the weight buffer of the last pass (R92). -/
structure FeedHeld where
  owner : Option (Nat × Byte × Byte)
  wkey : List Nat
  ckey : List Nat
  akey : List Nat
  m0 : Nat
  wcb : List X13
  acb : List X13
  buf : Option WBuf
deriving DecidableEq, Repr

/-- One dot-product array (R76-R79). -/
structure Arr where
  front : Option WBuf
  back : Option WBuf
  /-- Steps issued on the front buffer. -/
  steps : Nat
  i32 : Bool
  cur : Option Tile
  /-- The other accumulator half, which drains. -/
  half : Option Tile
  /-- The descriptor that it works for: context and sequence. -/
  job : Option (Nat × Nat)
  /-- Per-channel codebooks of the row block filled last: its first row and one codebook per row (R77). -/
  books : Option (Nat × List (List X13))
  held : FeedHeld
deriving DecidableEq, Repr

/-- One Lantern, beside its registers. -/
structure Lantern where
  ctxs : List SeqCtx
  held : List Held
  spill : SpillReg
  arrs : List Arr
  /-- Clip counter pairs CLIPPED, TOTAL by quota * 16 + slot (R69). -/
  clips : Tab (Nat × Nat)
deriving DecidableEq, Repr

/-- A ticket counter instance (R114, R141). -/
structure Counter where
  id : Nat
  cmd : Nat
  dispId : Nat
  k : Nat
  total : Nat
  next : Nat
  reissue : List Nat
  finished : List Nat
  /-- Output rows complete from row 0, as last set in OUT_DONE and IN_FREE (R139). -/
  rows : Nat
deriving DecidableEq, Repr

/-- Arbitration at one unit (R268): the partition chosen and not yet served, the partition whose work was begun last and when, in
ns, and the partition chosen last. -/
structure Arb where
  chosen : Option Nat
  work : Option (Nat × Nat)
  last : Nat
deriving DecidableEq, Repr

/-- A received RTP packet that is held for a stream (R180, R181, R185): its number, its receive time in ns, its RTP timestamp, marker
and payload, and the handle and size of its stored bytes. -/
structure Packet where
  num : Int
  ssrc : Nat
  arrived : Nat
  ts : Nat
  marker : Bool
  payload : List Byte
  handle : Nat
  size : Nat
deriving DecidableEq, Repr

/-- A fragmented unit in progress (R183): none, its bytes so far, or one that has been discarded and whose end is awaited. -/
inductive Frag
  | idle
  | good (bytes : List Byte)
  | bad
deriving DecidableEq, Repr

/-- The access unit that the depacketiser builds (R182): RTP timestamp, earliest receive time and last release in ns, its units in
order, GAP and INCOMPLETE. -/
structure AuOpen where
  ts : Nat
  first : Nat
  last : Nat
  units : List (List Byte)
  frag : Frag
  gap : Bool
  inc : Bool
  /-- It was open when the stream was reset: it comes before the first access unit after the reset (R184). -/
  pre : Bool := false
  /-- Spatial layer of the VP9 frame in progress. -/
  layer : Nat := 0
deriving DecidableEq, Repr

/-- An access unit queued to a decode context (R182, R187): buffer, length, flags, FRAME_TIME, SRC_TS, the STREAM_FEED that waits
for it, when it was queued in ns, and the parameter sets placed ahead of it when they lie outside the buffer (R184)
(DESIGN CHOICE, log entry 28). -/
structure Au where
  handle : Nat
  len : Nat
  gap : Bool
  inc : Bool
  time : Nat
  srcTs : Nat
  cmd : Option Nat
  queued : Nat
  param : List Byte
deriving DecidableEq, Repr

/-- A sender report in force (R186): NTP seconds and fraction, RTP timestamp. -/
structure SenderReport where
  sec : Nat
  frac : Nat
  ts : Nat
deriving DecidableEq, Repr

/-- A bound entry of the stream table (R174-R191), with its owner, its 64-byte ingest block and its decode context (DEDUCED, log entry 58). -/
structure Entry where
  part : Nat
  stream : Nat
  ctx : Nat
  ingest : List Byte
  ssrc : Option Nat
  sr : Option SenderReport
  /-- HIGH and NEXT; none until the first packet. -/
  seq : Option (Int × Int)
  packets : List Packet
  cands : List Packet
  open_ : Option AuOpen
  /-- A lost number has not yet been given to an access unit; the next queued access unit carries GAP. -/
  lost : Bool
  gap : Bool
  /-- PKTS, LOST, LATE, DUP, BAD, RESETS, AU_OUT, DROP. -/
  counts : List Nat
  /-- RFC 3550 jitter, scaled by 16, and the transit of the last packet. -/
  jitter : Nat
  transit : Option Int
deriving DecidableEq, Repr

/-- A decoded frame (R196-R200): segments, marks, and its descriptor with the fields that do not change between outputs
(DESIGN CHOICE, log entry 50). -/
structure DFrame where
  id : Nat
  segs : List Nat
  ref : Bool
  disp : Bool
  chain : Nat
  taint : Bool
  desc : List Byte
  grain : List Byte
  /-- Place in output order, pictures decoded since it was, random access point, spatial layer, and put out before (R201). -/
  order : Int := 0
  waited : Nat := 0
  key : Bool := false
  layer : Nat := 0
  done : Bool := false
deriving DecidableEq, Repr

/-- A picture that a Smelter decodes: what the reader found, the frame it writes, and its start in ns. -/
structure Pic where
  info : PictureInfo
  frame : Nat
  start : Nat
  /-- Decoding starts, or starts again, with it (R201). -/
  starts : Bool := false
  /-- Times that it has been suspended (R203). -/
  suspends : Nat := 0
deriving DecidableEq, Repr

/-- Progress within the access unit at the front of a queue: frames decoded and output, flags of R208, whether an output had TAINT. -/
structure AuWork where
  frames : Nat
  outs : Nat
  flags : Nat
  taint : Bool
  /-- Output luma samples and bins of its frames (R206). -/
  samples : Nat := 0
  bins : Nat := 0
  /-- AV1 frames shown in it, in order (R201). -/
  shown : List Nat := []
deriving DecidableEq, Repr

/-- A decode context (R194-R209). -/
structure DecCtx where
  part : Nat
  stream : Nat
  home : Nat
  live : Bool
  codec : Nat
  /-- The 16-byte decode block of STREAM_BIND. -/
  block : List Byte
  queue : List Au
  work : AuWork
  frames : List DFrame
  nextFrame : Nat
  /-- FRAME_SEQ of the next output. -/
  nextSeq : Nat
  waitRap : Bool
  /-- Its place among the contexts that wait for a frame (R198). -/
  waitFb : Option Nat
  /-- A frame of its group is set aside for it. -/
  granted : Bool
  /-- Its place while the frame that it asked for has not been taken, and the segments of that frame. -/
  asked : Option Nat := none
  askedSegs : Nat := 0
  /-- Decoding has started (R201), RASL pictures are not put out, and the frame put out last. -/
  started : Bool := false
  noRasl : Bool := false
  lastOut : Option Nat := none
  /-- The flags of R208 for which the present sequence cannot be decoded, 0 when it can; none before the first picture (R195). -/
  seqBad : Option Nat
  susp : Option Pic
  /-- The parameter sets are due ahead of the next access unit (R184, R209). -/
  paramDue : Bool
  /-- Those parameter sets, as they were read at the binding or at the last reset of the stream. -/
  params : List Byte
  /-- A PART_SWAP or a quarantine asks for another home (R209, R253). -/
  rehome : Bool
  /-- STREAM_UNBIND has been taken. -/
  unbound : Bool
  /-- The ten counters of SM_CCNT. -/
  counts : List Nat
deriving DecidableEq, Repr

/-- A Smelter beside its registers: the context and picture in progress, times of recent parity errors in ns, and its 10 ms window
(R203). -/
structure Smelter where
  pic : Option (Nat × Pic)
  errors : List Nat
  /-- Steps of RECORDED pictures and of all pictures in the present 10 ms window, and REC_MIN in force in it. -/
  recSteps : Nat
  allSteps : Nat
  recMin : Nat
  /-- Steps that unfinished RECORDED pictures, and all unfinished pictures, had run when the present window began. -/
  recRan : Nat
  allRan : Nat
deriving DecidableEq, Repr

/-- A detection (R154): corners in source pixels, score, class and embedding codes. -/
structure Det where
  x1 : Word
  y1 : Word
  x2 : Word
  y2 : Word
  score : Word
  cls : Nat
  emb : List Byte
deriving DecidableEq, Repr

/-- What a SNUFF leaves in the output buffer of its Quad. -/
structure SnuffOut where
  dets : List Det
  count : Nat
  candTrunc : Bool
  detTrunc : Bool
deriving DecidableEq, Repr

/-- An object of a BMR (R167). -/
structure Obj where
  det : Det
  id : Nat
  /-- 0 no track, 1 TENTATIVE, 2 CONFIRMED, 3 LOST. -/
  state : Nat
  isNew : Bool
  coast : Bool
  vx : Word
  vy : Word
  hits : Nat
  misses : Nat
  first : Nat
deriving DecidableEq, Repr

/-- What a TRACK found: objects, IDs retired, TRACK_FULL, GREEDY_FORCED, tracks of the stream, digest, the SNUFF it read, and the token
IDs of its objects and of the frame (R167). -/
structure TrackOut where
  objs : List Obj
  retired : List Nat
  full : Bool
  forced : Bool
  tracks : Nat
  digest : Nat
  snuff : SnuffOut
  tokens : List TokenList := []
deriving DecidableEq, Repr

/-- A snapshot reference: object, handle, JPEG bytes, width and height. -/
structure SnapRef where
  obj : Nat
  handle : Nat
  bytes : Nat
  w : Nat
  h : Nat
deriving DecidableEq, Repr

/-- A frame of a stream from its output to its BMR (R20, R23): the in-flight slot it holds once it is taken up, the frame of the
decode context, its descriptor, the state of its chain, and what the chain has found. -/
structure FrameJob where
  slot : Option Nat
  frame : Nat
  desc : List Byte
  grain : List Byte
  /-- Its chain has been issued as commands; members not yet complete. -/
  issued : Bool
  left : Nat
  /-- Readers (SHAPE, SNAPSHOT) of the chain not yet complete. -/
  readers : Nat
  /-- The first failing status, or DET_MAP_CHANGED, or OK. -/
  status : Status
  snuff : Option SnuffOut
  track : Option TrackOut
  snaps : List SnapRef
  snapMiss : Bool
deriving DecidableEq, Repr

/-- A BMR that waits for its outputs (R169, R245): its bytes, the slot it holds, the ring TRACK that waits for it, and where it has
yet to go. -/
structure Bmr where
  bytes : List Byte
  seq : Nat
  slot : Option Nat
  cmd : Option Nat
  ring : Bool
  eth : Bool
  /-- SKIPPED has been written into it (R23). -/
  fixed : Bool := false
deriving DecidableEq, Repr

/-- A bound stream (R242): the 192 parameter bytes, the template's packets, the ring that bound it, its entry and context, its
present Quad and slot range. -/
structure Stream where
  bind : List Byte
  template : List (List Byte)
  ring : Nat
  entry : Option Nat
  ctx : Nat
  quad : Nat
  base : Nat
  count : Nat
  nextTrack : Nat
  /-- FRAME_SEQ of the previous TRACK. -/
  lastSeq : Option Nat
  jobs : List FrameJob
  skipped : Nat
  /-- List of the last SNUFF of the stream that no TRACK has read (R241). -/
  snuff : Option SnuffOut
  /-- Objects of the stream's last TRACK (R241). -/
  objs : List Obj
  bmrs : List Bmr
  unbind : Bool
  /-- AU_OUT of a host-fed stream, which has no entry (R187). -/
  auOut : Nat
deriving DecidableEq, Repr

/-- A track slot (R157-R163): owner, ID, state, the eight state values x, y, w, h, vx, vy, vw, vh, the covariances of the four
coordinates, embedding and counters. -/
structure Track where
  part : Nat
  stream : Nat
  id : Nat
  state : Nat
  vals : List Word
  cov : List (Word × Word × Word)
  emb : List Byte
  hits : Nat
  misses : Nat
  consec : Nat
  first : Nat
deriving DecidableEq, Repr

/-- One copy of the grid index: the cell size it was built with in pixels, and the cells in which each slot is entered (R165). -/
structure IndexCopy where
  cell : Nat
  entries : List (Nat × Int × Int × Int × Int)
  complete : Bool
deriving DecidableEq, Repr

/-- A Quad's Tracker: slots, the two index copies, the copy in use, and the overflow list as slots (R165, R166). -/
structure Quad where
  tracks : Tab Track
  copies : List IndexCopy
  active : Nat
  overflow : List Nat
deriving DecidableEq, Repr

/-- A SNAPSHOT with objects left (R224): command, partition, stream, frame descriptor, profile, and its objects still to be encoded. -/
structure SnapJob where
  cmd : Nat
  part : Nat
  stream : Nat
  desc : List Byte
  profile : List Byte
  left : List (Nat × Det)
  done : Nat
  miss : Nat
  /-- The encoder that works on its first object, or stalls (R226, R268). -/
  begun : Option Nat := none
deriving DecidableEq, Repr

/-- The low-speed peripherals beside their registers (R405-R414). -/
structure Periph where
  /-- By cage: the hold of CGc_RESET_N after PWR_GOOD is over, and the pin follows MOD_RST. -/
  cgReleased : List Bool
  /-- The transfer in progress on I2C master 0, as its I2C0_XFER word. -/
  i2c : Option Word
  /-- The flash transfer in progress: its SPI_XFER and SPI_ADDR words. -/
  spi : Option (Word × Word)
  /-- Levels that the board drives on the GPIO pins. -/
  gpioExt : Word
  /-- Debug UART: the two FIFOs, oldest first, and the character being sent. -/
  uartTx : List Byte
  uartRx : List Byte
  uartSending : Option Byte
  /-- The instruction in the JTAG port. -/
  jtag : JtagInstr
deriving DecidableEq, Repr

/-- A range of device memory that a power-up left undefined: first DA, bytes, and the free values that its bytes show, counted from the
DA org (R381, log entry 2). -/
structure Undef where
  base : Nat
  len : Nat
  org : Nat
  ctr : Nat
deriving DecidableEq, Repr

/-- The whole state. -/
structure State where
  /-- Commands that wait, first in, first out. -/
  pending : List Instr
  /-- The model's own counter of free values drawn (log entry 2). -/
  freeCtr : Nat
  /-- Register words that differ from their reset word, by offset; the registers of VF f lie from 0x1000_0000 + f * 0x1_0000. -/
  regs : List (Nat × Word)
  /-- Device memory by DA (R38). -/
  mem : List Host.Cell
  /-- Ranges whose unlisted bytes are undefined, disjoint and rising. -/
  undef : List Undef
  /-- 64-bit words that report an uncorrectable error, as DA / 8, rising (R54, R89, R305, R432). -/
  poison : List Nat
  /-- Host memory by PCIe address. -/
  host : List Host.Cell
  /-- SPI flash (R412). -/
  flash : List Host.Cell
  fuses : Fuses
  fabric : Fabric
  tb : Timebase
  /-- WIN_LO as staged (R44); RQ_CTX words as staged (R230). -/
  winLoStaged : Option Word
  rqStaged : Tab Word
  parts : Tab Part
  swap : Swap
  /-- Credits in ns, keyed by unit code * 64 + partition (R268). -/
  credits : Tab Int
  rmos : List Rmo
  /-- Local buffers that the GETs of issuers other than Lanterns fill, by issuer number and offset (R45). -/
  localBufs : Tab (List Host.Cell)
  /-- Units that have failed their self-test since power-on reset (R97): arrays 2n and 2n + 1, Lanterns 32 + n, Smelters 64 + n. -/
  failedTests : List Nat
  nextId : Nat
  cmds : List Cmd
  rings : Tab Ring
  /-- Ring at which each Dispatcher's round robin stands. -/
  dsNext : List Nat
  /-- Pewter buffers by pool * 2^24 + index; an unlisted buffer has GEN 0 and no owner. -/
  bufs : Tab PBuf
  /-- Pools whose state entries are being written (R277). -/
  poolInit : List Nat
  pcie : Pcie
  soot : Soot
  ozmel : Ozmel
  /-- The option table in force, 256 bytes, empty when none (R374). -/
  options : List Byte
  outs : Outs
  /-- Crucible banks. -/
  banks : Tab Bank
  /-- Ingot error bookkeeping by Lantern. -/
  ingots : Tab IngotErr
  dram : Dram
  /-- Lanterns by number. -/
  lanterns : Tab Lantern
  counters : List Counter
  arbs : Tab Arb
  /-- Stream table entries, decode contexts, Smelters, and bound streams by partition * 1,024 + index. -/
  entries : Tab Entry
  decs : Tab DecCtx
  smelters : Tab Smelter
  streams : Tab Stream
  quads : Tab Quad
  snaps : List SnapJob
  /-- Frames in Ozmel's exception queue, oldest first: port, link, and the 8-byte receive stamp with the frame after it. -/
  excq : List (Nat × Nat × List Byte)
  /-- The next place among the contexts that wait for a frame. -/
  nextWait : Nat
  periph : Periph
deriving DecidableEq, Repr

/-- A device with every array enabled and an unprogrammed option table, as State.reset holds it (log entry 3). -/
def Fuses.reset : Fuses where
  grade := 32
  industrial := false
  arrayOff := 0
  keyHash := List.replicate 32 0
  dieId := 0
  stepping := 0
  ageBase := []
  ageDefault := 500
  options := []

/-- The fabric at reset: the rated supply, 25 °C (log entry 4). -/
def Fabric.reset : Fabric where
  vddMv := 800
  vCmdMv := 800
  vSilent := 0
  tj := 25
  refclk := true
  vddLow := false
  safe := false
  safeHeader := []
  ratedHist := []
  flashRated := 0
  worstPs := 0
  rateGap := []
  ageGap := []
  resetHeld := false

/-- A reference that has measured nothing. -/
def TimeRef.reset : TimeRef := ⟨0, 0, none, none, false⟩

/-- The timebase at power-on reset: the counter at 0 and the nominal increment (R330, R331, R368, R385). -/
def Timebase.reset : Timebase where
  sec := 0
  sub := 0
  incr := 0x0200000000
  incrStaged := none
  latchNs := 0
  latchSl := 0
  latchSh := 0
  pendingSet := none
  pendingStep := none
  servo := .freerun
  fInt := 0
  f := 0
  good := 0
  slewRem := 0
  cycleIrq := false
  refs := List.replicate 2 TimeRef.reset
  trigs := List.replicate 8 ⟨false, none, 0⟩
  caps := List.replicate 8 []

/-- An unregulated Shade (R271). -/
def Shade.reset : Shade := ⟨0, 0, 0, 0, [], []⟩

/-- A partition that holds nothing (R251, R267, R271). -/
def Part.reset : Part where
  active := []
  shadow := []
  shares := List.replicate 5 256
  shades := List.replicate 7 Shade.reset
  acct := List.replicate 5 (0, 0)
  residency := []

/-- No swap. -/
def Swap.reset : Swap := ⟨none, [], [], [], none, none⟩

/-- A disabled ring with a context of zeros. -/
def Ring.reset : Ring := ⟨List.replicate 8 0, 0, 0, 0, 0, false, 0, 0, 0, none, none, false⟩

/-- A free buffer of GEN 0 (R277). -/
def PBuf.reset : PBuf := ⟨0, [none, none, none, none]⟩

/-- A function in its reset state. -/
def Func.reset : Func := ⟨false, false, false, 0, false, [], []⟩

/-- The endpoint at reset (R313: BAR4 of 1 GiB). -/
def Pcie.reset : Pcie := ⟨[], false, false, 0, 1, false, false, [], []⟩

/-- Soot at power-on reset (R398, R403). -/
def Soot.reset : Soot := ⟨[], [], [], [], [], [], List.replicate 16 0⟩

/-- The defaults of R358. -/
def LoopConsts.reset : LoopConsts := ⟨300, 10, 85, 80, 95, 60, 4, 20, 5, 2, 30, 2⟩

/-- The management complex at power-on reset: Ozmel does not run yet (R372). -/
def Ozmel.reset : Ozmel where
  running := false
  ready := false
  wdogArmed := false
  bootCount := 0
  version := 0
  buildSeq := 0
  slotStates := [.invalid, .invalid]
  failedSlot := none
  passedTrial := none
  skipFailed := false
  bootWanted := none
  updLen := none
  updEnd := 0
  updCommitted := none
  handover := none
  handoverStart := 0
  activateWaits := none
  mailboxes := []
  consts := LoopConsts.reset
  powerRate := 2350000
  thermalRate := 2350000
  boosted := false
  lowWindows := 0
  boostWindows := 0
  lastWatts := 0
  lastInlet := 25
  throttled := false
  fanFail := false
  fanFailRuns := [0, 0]
  fanInt := 0
  fanDuty := 100000000
  hotHold := 0
  tach := [0, 0]
  log := []
  logSeq := 0
  logRepeat := []
  net := []
  mcast := []
  ptp := []

/-- Nothing put out. -/
def Outs.reset : Outs := ⟨0, none, false, [], [], [], 0, false, [], [], false, 0⟩

/-- A Crucible bank at reset. -/
def Bank.reset : Bank := ⟨false, [], [], []⟩

/-- An Ingot at reset. -/
def IngotErr.reset : IngotErr := ⟨[], [], [], false⟩

/-- An idle channel. -/
def Chan.reset : Chan := ⟨[], [], [], [], [], false, false, 0, [], [], 0⟩

/-- The DRAM subsystem at reset. -/
def Dram.reset : Dram := ⟨[], 0, [], [], []⟩

/-- A context that runs nothing. -/
def SeqCtx.reset : SeqCtx where
  cmd := none
  part := 0
  start := 0
  bases := List.replicate 8 0
  lcs := List.replicate 4 0
  pc := 0
  fetched := []
  lastPc := 0
  out := none
  sync := none
  issued := []
  nextSeq := 0
  recs := List.replicate 6 none
  err := none
  stop := false
  ended := false
  arrivals := []

/-- A table or store owned by no partition. -/
def Held.reset : Held := ⟨none, 0, 0, []⟩

/-- Feeders that hold nothing. -/
def FeedHeld.reset : FeedHeld := ⟨none, [], [], [], 0, [], [], none⟩

/-- An array that holds nothing. -/
def Arr.reset : Arr := ⟨none, none, 0, false, none, none, none, none, FeedHeld.reset⟩

/-- A Lantern whose logic domain has just been powered up (R69, R92). -/
def Lantern.reset : Lantern where
  ctxs := List.replicate 4 SeqCtx.reset
  held := List.replicate 6 Held.reset
  spill := ⟨none, [], []⟩
  arrs := [Arr.reset, Arr.reset]
  clips := []

/-- A unit that has chosen nothing. -/
def Arb.reset : Arb := ⟨none, none, 63⟩

/-- A Smelter without work. -/
def Smelter.reset : Smelter := ⟨none, [], 0, 0, 10, 0, 0⟩

/-- A Tracker without tracks. -/
def Quad.reset : Quad := ⟨[], [⟨64, [], true⟩, ⟨64, [], true⟩], 0, []⟩

/-- The peripherals at reset: cage resets low, nothing in progress, FIFOs empty (PRESUMED, log entry 145; DESIGN CHOICE, log entry 146). -/
def Periph.reset : Periph := ⟨[false, false], none, none, 0, [], [], none, .idcode⟩

/-- The device right after power-on reset: every register at its reset word, memories with nothing listed. -/
def State.reset : State where
  pending := []
  freeCtr := 0
  regs := []
  mem := []
  undef := []
  poison := []
  host := []
  flash := []
  fuses := Fuses.reset
  fabric := Fabric.reset
  tb := Timebase.reset
  winLoStaged := none
  rqStaged := []
  parts := []
  swap := Swap.reset
  credits := []
  rmos := []
  localBufs := []
  failedTests := []
  nextId := 0
  cmds := []
  rings := []
  dsNext := List.replicate 8 0
  bufs := []
  poolInit := []
  pcie := Pcie.reset
  soot := Soot.reset
  ozmel := Ozmel.reset
  options := []
  outs := Outs.reset
  banks := []
  ingots := []
  dram := Dram.reset
  lanterns := []
  counters := []
  arbs := []
  entries := []
  decs := []
  smelters := []
  streams := []
  quads := []
  snaps := []
  excq := []
  nextWait := 0
  periph := Periph.reset

end Sys2Proof.Machine
end

