-- ==== Sys2Proof/Machine/RegTable.lean ====
section
/-!
DEFINITION. The register map of the BN7216 (R12): the offset of every register as a function of its instance numbers, and
the table of register kinds with their reset words, their fields with access codes (R14) and the LOCK bit that locks their
RWL fields (R15). Offsets count from the register space base, which is also PF BAR0 (R38, R313).
-/

namespace Sys2Proof.Machine

/-- FAB_RATE_LNn: Measured rate, Lantern n. Chapter 02. -/
def Reg.fabRateLn (n : Nat) : Nat := 0xa0100 + 0x4 * n

/-- FAB_RATE_SMn: Measured rate, Smelter n. Chapter 02. -/
def Reg.fabRateSm (n : Nat) : Nat := 0xa0140 + 0x4 * n

/-- AGE_RINGn: Ageing ring period. Chapter 02. -/
def Reg.ageRing (n : Nat) : Nat := 0xa0200 + 0x4 * n

/-- AGE_BASEn: Fused rated-point period. Chapter 02. -/
def Reg.ageBase (n : Nat) : Nat := 0xa0300 + 0x4 * n

/-- FAB_CTRL: Fabric monitor control. Chapter 02. -/
def Reg.fabCtrl : Nat := 0xa0000

/-- FAB_RATED: Published rated-point figures. Chapter 02. -/
def Reg.fabRated : Nat := 0xa0004

/-- FAB_AGE: Worst-ring ageing. Chapter 02. -/
def Reg.fabAge : Nat := 0xa0008

/-- WIN_SEL: Window entry select. Chapter 03. -/
def Reg.winSel : Nat := 0x8f000

/-- WIN_LO: Window entry low word. Chapter 03. -/
def Reg.winLo : Nat := 0x8f004

/-- WIN_HI: Window entry high word. Chapter 03. -/
def Reg.winHi : Nat := 0x8f008

/-- LN_QSEL: Clip counter select, Lantern n. Chapter 04. -/
def Reg.lnQsel (n : Nat) : Nat := 0x100800 + 0x10000 * n

/-- LN_QCLIP: Clipped count of the selected pair, Lantern n. Chapter 04. -/
def Reg.lnQclip (n : Nat) : Nat := 0x100804 + 0x10000 * n

/-- LN_QTOT: Total count of the selected pair, Lantern n. Chapter 04. -/
def Reg.lnQtot (n : Nat) : Nat := 0x100808 + 0x10000 * n

/-- LN_CTRL: Lantern control. Chapter 05. -/
def Reg.lnCtrl (n : Nat) : Nat := 0x100000 + 0x10000 * n

/-- LN_STATUS: Lantern status. Chapter 05. -/
def Reg.lnStatus (n : Nat) : Nat := 0x100004 + 0x10000 * n

/-- LN_QUOTAq: Active Ingot quota q. Chapter 05. -/
def Reg.lnQuota (n q : Nat) : Nat := 0x100010 + 0x10000 * n + 0x4 * q

/-- LN_FAULT: First array or Lantern fault. Chapter 05. -/
def Reg.lnFault (n : Nat) : Nat := 0x100020 + 0x10000 * n

/-- LN_ECC: Ingot ECC counts. Chapter 05. -/
def Reg.lnEcc (n : Nat) : Nat := 0x100024 + 0x10000 * n

/-- LN_ECC_ADDR: First uncorrectable Ingot error. Chapter 05. -/
def Reg.lnEccAddr (n : Nat) : Nat := 0x100028 + 0x10000 * n

/-- ARRAY_FUSE_MAP: Fused-off arrays. Chapter 05. -/
def Reg.arrayFuseMap : Nat := 0x10040

/-- ARRAY_RUNTIME_MAP: Arrays disabled at runtime. Chapter 05. -/
def Reg.arrayRuntimeMap : Nat := 0x10044

/-- LN_BCAST_MASK: Lantern broadcast selection. Chapter 05. -/
def Reg.lnBcastMask : Nat := 0xffff0

/-- LN_SEQq: Sequencer context q. Chapter 07. -/
def Reg.lnSeq (n q : Nat) : Nat := 0x100040 + 0x10000 * n + 0x8 * q

/-- LN_SEQSTq: First error of context q. Chapter 07. -/
def Reg.lnSeqst (n q : Nat) : Nat := 0x100044 + 0x10000 * n + 0x8 * q

/-- PP_CTRL: Post-processing control. Chapter 08. -/
def Reg.ppCtrl (n : Nat) : Nat := 0x340000 + 0x10000 * n

/-- SN_STAT: Snuffer counts. Chapter 08. -/
def Reg.snStat (n : Nat) : Nat := 0x340004 + 0x10000 * n

/-- TK_STAT: Tracker index counts. Chapter 08. -/
def Reg.tkStat (n : Nat) : Nat := 0x340008 + 0x10000 * n

/-- TK_OCC: Track table occupancy. Chapter 08. -/
def Reg.tkOcc (n : Nat) : Nat := 0x34000c + 0x10000 * n

/-- ETH_PORTp: Port configuration, port p. Chapter 09. -/
def Reg.ethPort (p : Nat) : Nat := 0x480000 + 0x100 * p

/-- ETH_DROPp: Receive drops, port p. Chapter 09. -/
def Reg.ethDrop (p : Nat) : Nat := 0x480004 + 0x100 * p

/-- ING_CTRL: Ingest control. Chapter 09. -/
def Reg.ingCtrl : Nat := 0x480200

/-- ING_UNM: Unmatched frames. Chapter 09. -/
def Reg.ingUnm : Nat := 0x480204

/-- ING_SSEL: Stream counter select. Chapter 09. -/
def Reg.ingSsel : Nat := 0x480210

/-- ING_SSTAT: Latched stream status. Chapter 09. -/
def Reg.ingSstat : Nat := 0x480214

/-- ING_SCNTk: Latched stream counter k. Chapter 09. -/
def Reg.ingScnt (k : Nat) : Nat := 0x480220 + 0x4 * k

/-- SM_CTRL: Smelter control. Chapter 10. -/
def Reg.smCtrl (n : Nat) : Nat := 0x200000 + 0x10000 * n

/-- SM_STATUS: Smelter status. Chapter 10. -/
def Reg.smStatus (n : Nat) : Nat := 0x200004 + 0x10000 * n

/-- SM_ERR: Smelter damage counts. Chapter 10. -/
def Reg.smErr (n : Nat) : Nat := 0x200008 + 0x10000 * n

/-- SM_FAULT: First parity fault. Chapter 10. -/
def Reg.smFault (n : Nat) : Nat := 0x20000c + 0x10000 * n

/-- SM_CSEL: Context counter select. Chapter 10. -/
def Reg.smCsel (n : Nat) : Nat := 0x200010 + 0x10000 * n

/-- SM_CSTAT: Latched context status. Chapter 10. -/
def Reg.smCstat (n : Nat) : Nat := 0x200014 + 0x10000 * n

/-- SM_CCNTk: Latched context counter k. Chapter 10. -/
def Reg.smCcnt (n k : Nat) : Nat := 0x200020 + 0x10000 * n + 0x4 * k

/-- SM_BCAST_MASK: Smelter broadcast selection. Chapter 10. -/
def Reg.smBcastMask : Nat := 0x2ffff0

/-- SH_CTRL: Shaper control. Chapter 11. -/
def Reg.shCtrl (n : Nat) : Nat := 0x300000 + 0x10000 * n

/-- SH_STAT: Shaper counts. Chapter 11. -/
def Reg.shStat (n : Nat) : Nat := 0x300004 + 0x10000 * n

/-- SE_CTRL: Snapshot encoder control. Chapter 11. -/
def Reg.seCtrl : Nat := 0x380000

/-- SE_STATm: Snapshot encoder m counts. Chapter 11. -/
def Reg.seStat (m : Nat) : Nat := 0x380004 + 0x4 * m

/-- QM_CTRL: Queue manager control. Chapter 12. -/
def Reg.qmCtrl : Nat := 0x60000

/-- RQ_SEL: Ring select. Chapter 12. -/
def Reg.rqSel : Nat := 0x60010

/-- RQ_CTXk: Ring context word k. Chapter 12. -/
def Reg.rqCtx (k : Nat) : Nat := 0x60020 + 0x4 * k

/-- PT_SEL: Partition table select. Chapter 13. -/
def Reg.ptSel : Nat := 0x8f010

/-- PT_DATA: Partition table word. Chapter 13. -/
def Reg.ptData : Nat := 0x8f014

/-- PSWAP_CTRL: Swap control. Chapter 13. -/
def Reg.pswapCtrl : Nat := 0x8f020

/-- PSWAP_STATUS: Swap status. Chapter 13. -/
def Reg.pswapStatus : Nat := 0x8f024

/-- ACCT_SEL: Accounting select. Chapter 13. -/
def Reg.acctSel : Nat := 0x8e000

/-- ACCT_NS_LO: Charged time, bits [31:0]. Chapter 13. -/
def Reg.acctNsLo : Nat := 0x8e004

/-- ACCT_NS_HI: Charged time, bits [63:32]. Chapter 13. -/
def Reg.acctNsHi : Nat := 0x8e008

/-- ACCT_STEP_LO: Steps, bits [31:0]. Chapter 13. -/
def Reg.acctStepLo : Nat := 0x8e00c

/-- ACCT_STEP_HI: Steps, bits [63:32]. Chapter 13. -/
def Reg.acctStepHi : Nat := 0x8e010

/-- PW_CTRL: Pool enables and lock. Chapter 14. -/
def Reg.pwCtrl : Nat := 0x70000

/-- PW_STATE: Buffer state table. Chapter 14. -/
def Reg.pwState : Nat := 0x70004

/-- PW_POOLk_BASE: Pool k base. Chapter 14. -/
def Reg.pwPoolBase (k : Nat) : Nat := 0x70010 + 0x10 * k

/-- PW_POOLk_COUNT: Pool k count. Chapter 14. -/
def Reg.pwPoolCount (k : Nat) : Nat := 0x70014 + 0x10 * k

/-- PW_POOLk_FREE: Pool k free buffers. Chapter 14. -/
def Reg.pwPoolFree (k : Nat) : Nat := 0x70018 + 0x10 * k

/-- PW_ERR: Refused handle uses. Chapter 14. -/
def Reg.pwErr : Nat := 0x70090

/-- PW_QSEL: Holding select. Chapter 14. -/
def Reg.pwQsel : Nat := 0x700a0

/-- PW_QHELD: Buffers held by the selected partition. Chapter 14. -/
def Reg.pwQheld : Nat := 0x700a4

/-- DRAM_CFG: Subsystem configuration. Chapter 15. -/
def Reg.dramCfg : Nat := 0x400f00

/-- DRAM_STATUS: Subsystem status. Chapter 15. -/
def Reg.dramStatus : Nat := 0x400f04

/-- MC_CTRL: Controller control. Chapter 15. -/
def Reg.mcCtrl (n : Nat) : Nat := 0x400000 + 0x10000 * n

/-- MC_AGE: Class age limits. Chapter 15. -/
def Reg.mcAge (n : Nat) : Nat := 0x400004 + 0x10000 * n

/-- MC_STATUS: Controller status. Chapter 15. -/
def Reg.mcStatus (n : Nat) : Nat := 0x400008 + 0x10000 * n

/-- MC_ECC: Error counts. Chapter 15. -/
def Reg.mcEcc (n : Nat) : Nat := 0x40000c + 0x10000 * n

/-- MC_ECC_ADDR: First uncorrectable error. Chapter 15. -/
def Reg.mcEccAddr (n : Nat) : Nat := 0x400010 + 0x10000 * n

/-- MC_SCAN: Margin scan control. Chapter 15. -/
def Reg.mcScan (n : Nat) : Nat := 0x400020 + 0x10000 * n

/-- MC_DLYc_b: Lane delays, channel c, byte lane b. Chapter 15. -/
def Reg.mcDly (n c b : Nat) : Nat := 0x400100 + 0x10000 * n + 0x8 * c + 0x4 * b

/-- MC_CADLYc: Command-address delay, channel c. Chapter 15. -/
def Reg.mcCadly (n c : Nat) : Nat := 0x400120 + 0x10000 * n + 0x4 * c

/-- MC_MARGINc_b: Last scan, channel c, byte lane b. Chapter 15. -/
def Reg.mcMargin (n c b : Nat) : Nat := 0x400140 + 0x10000 * n + 0x8 * c + 0x4 * b

/-- PE_STATUS: Link status. Chapter 16. -/
def Reg.peStatus : Nat := 0x500000

/-- PE_BAR4: DRAM window control and block lock. Chapter 16. -/
def Reg.peBar4 : Nat := 0x500004

/-- PE_ERR: Endpoint error counts. Chapter 16. -/
def Reg.peErr : Nat := 0x500008

/-- TB_CTRL: Timebase control. Chapter 17. -/
def Reg.tbCtrl : Nat := 0x40000

/-- TB_STATUS: Timebase status. Chapter 17. -/
def Reg.tbStatus : Nat := 0x40004

/-- TB_TIME_NS: Time, nanoseconds. Chapter 17. -/
def Reg.tbTimeNs : Nat := 0x40010

/-- TB_TIME_SL: Time, seconds [31:0]. Chapter 17. -/
def Reg.tbTimeSl : Nat := 0x40014

/-- TB_TIME_SH: Time, seconds [47:32] and fraction. Chapter 17. -/
def Reg.tbTimeSh : Nat := 0x40018

/-- TB_SET_NS: Time to set. Chapter 17. -/
def Reg.tbSetNs : Nat := 0x40020

/-- TB_SET_SL: Time to set. Chapter 17. -/
def Reg.tbSetSl : Nat := 0x40024

/-- TB_SET_SH: Time to set. Chapter 17. -/
def Reg.tbSetSh : Nat := 0x40028

/-- TB_STEP: Step value. Chapter 17. -/
def Reg.tbStep : Nat := 0x4002c

/-- TB_CMD: Set and step. Chapter 17. -/
def Reg.tbCmd : Nat := 0x40030

/-- TB_INCR_LO: Increment, fraction. Chapter 17. -/
def Reg.tbIncrLo : Nat := 0x40040

/-- TB_INCR_HI: Increment, nanoseconds. Chapter 17. -/
def Reg.tbIncrHi : Nat := 0x40044

/-- TB_FREQ: Servo correction. Chapter 17. -/
def Reg.tbFreq : Nat := 0x40048

/-- TB_SERVO: Servo gains. Chapter 17. -/
def Reg.tbServo : Nat := 0x40050

/-- TB_SERVO2: Servo thresholds. Chapter 17. -/
def Reg.tbServo2 : Nat := 0x40054

/-- TB_OFFSETr: Offset sample, reference r. Chapter 17. -/
def Reg.tbOffset (r : Nat) : Nat := 0x40058 + 0x4 * r

/-- TB_SLEW: Remaining slew. Chapter 17. -/
def Reg.tbSlew : Nat := 0x40060

/-- TB_SLEW_RATE: Slew rate. Chapter 17. -/
def Reg.tbSlewRate : Nat := 0x40064

/-- REF_CFGr: Reference configuration. Chapter 17. -/
def Reg.refCfg (r : Nat) : Nat := 0x40080 + 0x10 * r

/-- REF_STATr: Reference status. Chapter 17. -/
def Reg.refStat (r : Nat) : Nat := 0x40084 + 0x10 * r

/-- REF_TOL: Reference tolerance. Chapter 17. -/
def Reg.refTol : Nat := 0x400a0

/-- TB_TSADJp: Timestamp plane adjustment, port p. Chapter 17. -/
def Reg.tbTsadj (p : Nat) : Nat := 0x400b0 + 0x4 * p

/-- TRIG_CFGk: Trigger k control. Chapter 17. -/
def Reg.trigCfg (k : Nat) : Nat := 0x40100 + 0x10 * k

/-- TRIG_NSk: Trigger k target, ns. Chapter 17. -/
def Reg.trigNs (k : Nat) : Nat := 0x40104 + 0x10 * k

/-- TRIG_SECk: Trigger k target, seconds mod 2^32. Chapter 17. -/
def Reg.trigSec (k : Nat) : Nat := 0x40108 + 0x10 * k

/-- TRIG_PERk: Trigger k period. Chapter 17. -/
def Reg.trigPer (k : Nat) : Nat := 0x4010c + 0x10 * k

/-- CAP_CFGk: Capture k control. Chapter 17. -/
def Reg.capCfg (k : Nat) : Nat := 0x40200 + 0x10 * k

/-- CAP_NSk: Oldest capture, ns. Chapter 17. -/
def Reg.capNs (k : Nat) : Nat := 0x40204 + 0x10 * k

/-- CAP_SECk: Oldest capture, seconds mod 2^32. Chapter 17. -/
def Reg.capSec (k : Nat) : Nat := 0x40208 + 0x10 * k

/-- MB_H2D_CTL: Host-to-device control. Chapter 18. -/
def Reg.mbH2dCtl : Nat := 0x907f0

/-- MB_D2H_CTL: Device-to-host control. Chapter 18. -/
def Reg.mbD2hCtl : Nat := 0x90ff0

/-- RST_CAUSE: Reset causes. Chapter 19. -/
def Reg.rstCause : Nat := 0x20000

/-- FLR_CAUSEw: Function-level reset causes. Chapter 19. -/
def Reg.flrCause (w : Nat) : Nat := 0x20010 + 0x4 * w

/-- RST_GLOBAL: Software warm reset. Chapter 19. -/
def Reg.rstGlobal : Nat := 0x20040

/-- RST_PART: Partition reset. Chapter 19. -/
def Reg.rstPart : Nat := 0x20044

/-- RST_BLOCK: Unit reset. Chapter 19. -/
def Reg.rstBlock : Nat := 0x20048

/-- RST_BOOT: Boot state. Chapter 19. -/
def Reg.rstBoot : Nat := 0x20050

/-- PD_STATEw: Domain states. Chapter 19. -/
def Reg.pdState (w : Nat) : Nat := 0x30000 + 0x4 * w

/-- PD_AUTO: Automatic array gating. Chapter 19. -/
def Reg.pdAuto : Nat := 0x30020

/-- PD_PARK: Lantern parking. Chapter 19. -/
def Reg.pdPark : Nat := 0x30024

/-- PD_EPOCHw: Domain epochs. Chapter 19. -/
def Reg.pdEpoch (w : Nat) : Nat := 0x30040 + 0x4 * w

/-- GLOBAL_CTRL: Global control. Chapter 20. -/
def Reg.globalCtrl : Nat := 0x10010

/-- ERR_STATUS: Global error status. Chapter 20. -/
def Reg.errStatus : Nat := 0x10014

/-- SOOT_CTRL: Soot control. Chapter 20. -/
def Reg.sootCtrl : Nat := 0x50000

/-- SOOT_HEAD: Next sequence number. Chapter 20. -/
def Reg.sootHead : Nat := 0x50004

/-- SOOT_DROP: Dropped events. Chapter 20. -/
def Reg.sootDrop : Nat := 0x50008

/-- SOOT_RDSEL: Record select. Chapter 20. -/
def Reg.sootRdsel : Nat := 0x50010

/-- SOOT_RDATAw: Record word w. Chapter 20. -/
def Reg.sootRdata (w : Nat) : Nat := 0x50040 + 0x4 * w

/-- SOOT_RSEL: Rate select. Chapter 20. -/
def Reg.sootRsel : Nat := 0x50020

/-- SOOT_RATE: Rate of the selected code. Chapter 20. -/
def Reg.sootRate : Nat := 0x50024

/-- SOOT_TSEL: Trigger select. Chapter 20. -/
def Reg.sootTsel : Nat := 0x50028

/-- SOOT_TCFG: Selected trigger. Chapter 20. -/
def Reg.sootTcfg : Nat := 0x5002c

/-- SOOT_TREGj: Selected trigger, register j. Chapter 20. -/
def Reg.sootTreg (j : Nat) : Nat := 0x50080 + 0x4 * j

/-- CG_CTRLc: Cage control, cage c. Chapter 21. -/
def Reg.cgCtrl (c : Nat) : Nat := 0x4c0000 + 0x100 * c

/-- CG_STATUSc: Cage status, cage c. Chapter 21. -/
def Reg.cgStatus (c : Nat) : Nat := 0x4c0004 + 0x100 * c

/-- I2C0_XFER: Master 0 transfer. Chapter 21. -/
def Reg.i2c0Xfer : Nat := 0x580040

/-- I2C0_BUFk: Transfer buffer word k. Chapter 21. -/
def Reg.i2c0Buf (k : Nat) : Nat := 0x580050 + 0x4 * k

/-- GPIO_OUT: GPIO drive. Chapter 21. -/
def Reg.gpioOut : Nat := 0x580000

/-- GPIO_IN: GPIO input. Chapter 21. -/
def Reg.gpioIn : Nat := 0x580004

/-- UART_DATA: Transmit and receive data. Chapter 21. -/
def Reg.uartData : Nat := 0x580100

/-- UART_BAUD: Baud divisor. Chapter 21. -/
def Reg.uartBaud : Nat := 0x580104

/-- UART_CTRL: UART control. Chapter 21. -/
def Reg.uartCtrl : Nat := 0x580108

/-- UART_STAT: UART status. Chapter 21. -/
def Reg.uartStat : Nat := 0x58010c

/-- SPI_XFER: Flash transfer. Chapter 21. -/
def Reg.spiXfer : Nat := 0x580200

/-- FAN_STAT: Fan status. Chapter 21. -/
def Reg.fanStat : Nat := 0x580300

/-- DBG_CTRL: Debug gate and block lock. Chapter 21. -/
def Reg.dbgCtrl : Nat := 0x580400

/-- SPI_ADDR: Flash address. Chapter 21. -/
def Reg.spiAddr : Nat := 0x580204

/-- SPI_BUFk: Flash transfer buffer. Chapter 21. -/
def Reg.spiBuf (k : Nat) : Nat := 0x580210 + 0x4 * k

/-- The register kinds of chapter 02. -/
def regKindsCh02 : List RegKind := [
  ⟨0xa0100, [(0x4, 16)], 0x0, [⟨31, 31, .ro⟩, ⟨26, 16, .ro⟩, ⟨15, 0, .ro⟩], none⟩,
  ⟨0xa0140, [(0x4, 12)], 0x0, [⟨31, 31, .ro⟩, ⟨26, 16, .ro⟩, ⟨15, 0, .ro⟩], none⟩,
  ⟨0xa0200, [(0x4, 48)], 0x0, [⟨31, 31, .ro⟩, ⟨15, 0, .ro⟩], none⟩,
  ⟨0xa0300, [(0x4, 48)], 0x0, [⟨31, 16, .ro⟩, ⟨15, 0, .ro⟩], none⟩,
  ⟨0xa0000, [], 0x3, [⟨8, 8, .rwl⟩, ⟨2, 2, .rwl⟩, ⟨1, 1, .rwl⟩, ⟨0, 0, .rwl⟩], some (0xa0000, 8)⟩,
  ⟨0xa0004, [], 0x0, [⟨31, 16, .ro⟩, ⟨15, 0, .ro⟩], none⟩,
  ⟨0xa0008, [], 0x0, [⟨23, 16, .ro⟩, ⟨15, 0, .ro⟩], none⟩]

/-- The register kinds of chapter 03. -/
def regKindsCh03 : List RegKind := [
  ⟨0x8f000, [], 0x0, [⟨31, 31, .rw⟩, ⟨30, 30, .w1c⟩, ⟨13, 8, .rw⟩, ⟨5, 0, .rw⟩], none⟩,
  ⟨0x8f004, [], 0x0, [⟨31, 0, .rw⟩], none⟩,
  ⟨0x8f008, [], 0x0, [⟨31, 0, .rw⟩], none⟩]

/-- The register kinds of chapter 04. -/
def regKindsCh04 : List RegKind := [
  ⟨0x100800, [(0x10000, 16)], 0x0, [⟨31, 31, .wo⟩, ⟨5, 4, .rw⟩, ⟨3, 0, .rw⟩], none⟩,
  ⟨0x100804, [(0x10000, 16)], 0x0, [⟨31, 0, .ro⟩], none⟩,
  ⟨0x100808, [(0x10000, 16)], 0x0, [⟨31, 0, .ro⟩], none⟩]

/-- The register kinds of chapter 05. -/
def regKindsCh05 : List RegKind := [
  ⟨0x100000, [(0x10000, 16)], 0xe, [⟨3, 3, .rw⟩, ⟨2, 2, .rw⟩, ⟨1, 1, .rw⟩, ⟨0, 0, .rw⟩], none⟩,
  ⟨0x100004, [(0x10000, 16)], 0x0, [⟨31, 31, .ro⟩, ⟨30, 30, .ro⟩, ⟨13, 8, .ro⟩, ⟨7, 6, .ro⟩, ⟨5, 4, .ro⟩, ⟨3, 2, .ro⟩, ⟨0, 0, .ro⟩], none⟩,
  ⟨0x100010, [(0x10000, 16), (0x4, 4)], 0x0, [⟨31, 31, .ro⟩, ⟨13, 8, .ro⟩, ⟨5, 4, .ro⟩, ⟨2, 0, .ro⟩], none⟩,
  ⟨0x100020, [(0x10000, 16)], 0x0, [⟨31, 31, .w1c⟩, ⟨30, 28, .ro⟩, ⟨27, 27, .ro⟩, ⟨21, 16, .ro⟩, ⟨7, 0, .ro⟩], none⟩,
  ⟨0x100024, [(0x10000, 16)], 0x0, [⟨31, 16, .rc⟩, ⟨15, 0, .rc⟩], none⟩,
  ⟨0x100028, [(0x10000, 16)], 0x0, [⟨31, 31, .w1c⟩, ⟨22, 0, .ro⟩], none⟩,
  ⟨0x10040, [], 0x0, [⟨31, 0, .ro⟩], none⟩,
  ⟨0x10044, [], 0x0, [⟨31, 0, .ro⟩], none⟩,
  ⟨0xffff0, [], 0xffff, [⟨15, 0, .rw⟩], none⟩]

/-- The register kinds of chapter 07. -/
def regKindsCh07 : List RegKind := [
  ⟨0x100040, [(0x10000, 16), (0x8, 4)], 0x0, [⟨31, 31, .ro⟩, ⟨30, 30, .ro⟩, ⟨29, 29, .ro⟩, ⟨23, 0, .ro⟩], none⟩,
  ⟨0x100044, [(0x10000, 16), (0x8, 4)], 0x0, [⟨31, 24, .ro⟩, ⟨23, 16, .ro⟩, ⟨15, 0, .ro⟩], none⟩]

/-- The register kinds of chapter 08. -/
def regKindsCh08 : List RegKind := [
  ⟨0x340000, [(0x10000, 4)], 0x403, [⟨13, 8, .rw⟩, ⟨1, 1, .rw⟩, ⟨0, 0, .rw⟩], none⟩,
  ⟨0x340004, [(0x10000, 4)], 0x0, [⟨31, 16, .rc⟩, ⟨15, 0, .rc⟩], none⟩,
  ⟨0x340008, [(0x10000, 4)], 0x0, [⟨31, 16, .rc⟩, ⟨15, 0, .rc⟩], none⟩,
  ⟨0x34000c, [(0x10000, 4)], 0x0, [⟨31, 31, .ro⟩, ⟨30, 30, .ro⟩, ⟨24, 16, .ro⟩, ⟨12, 0, .ro⟩], none⟩]

/-- The register kinds of chapter 09. -/
def regKindsCh09 : List RegKind := [
  ⟨0x480000, [(0x100, 2)], 0x100, [⟨31, 28, .ro⟩, ⟨19, 16, .rw⟩, ⟨9, 8, .rw⟩, ⟨0, 0, .rw⟩], none⟩,
  ⟨0x480004, [(0x100, 2)], 0x0, [⟨31, 16, .rc⟩, ⟨15, 0, .rc⟩], none⟩,
  ⟨0x480200, [], 0x2, [⟨1, 1, .rw⟩, ⟨0, 0, .rw⟩], none⟩,
  ⟨0x480204, [], 0x0, [⟨31, 16, .rc⟩, ⟨15, 0, .rc⟩], none⟩,
  ⟨0x480210, [], 0x0, [⟨31, 31, .wo⟩, ⟨9, 0, .rw⟩], none⟩,
  ⟨0x480214, [], 0x0, [⟨31, 31, .ro⟩, ⟨30, 30, .ro⟩, ⟨29, 29, .ro⟩, ⟨28, 28, .ro⟩, ⟨27, 22, .ro⟩, ⟨15, 0, .ro⟩], none⟩,
  ⟨0x480220, [(0x4, 8)], 0x0, [⟨31, 0, .ro⟩], none⟩]

/-- The register kinds of chapter 10. -/
def regKindsCh10 : List RegKind := [
  ⟨0x200000, [(0x10000, 12)], 0xa00, [⟨13, 8, .rw⟩, ⟨0, 0, .rw⟩], none⟩,
  ⟨0x200004, [(0x10000, 12)], 0x0, [⟨31, 31, .ro⟩, ⟨30, 30, .ro⟩, ⟨29, 29, .ro⟩, ⟨23, 16, .ro⟩, ⟨9, 0, .ro⟩], none⟩,
  ⟨0x200008, [(0x10000, 12)], 0x0, [⟨31, 16, .rc⟩, ⟨15, 0, .rc⟩], none⟩,
  ⟨0x20000c, [(0x10000, 12)], 0x0, [⟨31, 31, .w1c⟩, ⟨30, 28, .ro⟩, ⟨17, 8, .ro⟩, ⟨7, 0, .ro⟩], none⟩,
  ⟨0x200010, [(0x10000, 12)], 0x0, [⟨31, 31, .wo⟩, ⟨9, 0, .rw⟩], none⟩,
  ⟨0x200014, [(0x10000, 12)], 0x0, [⟨31, 31, .ro⟩, ⟨30, 30, .ro⟩, ⟨29, 29, .ro⟩, ⟨28, 28, .ro⟩, ⟨27, 22, .ro⟩, ⟨21, 18, .ro⟩, ⟨17, 15, .ro⟩, ⟨14, 7, .ro⟩, ⟨6, 0, .ro⟩], none⟩,
  ⟨0x200020, [(0x10000, 12), (0x4, 10)], 0x0, [⟨31, 0, .ro⟩], none⟩,
  ⟨0x2ffff0, [], 0xfff, [⟨11, 0, .rw⟩], none⟩]

/-- The register kinds of chapter 11. -/
def regKindsCh11 : List RegKind := [
  ⟨0x300000, [(0x10000, 4)], 0x0, [⟨0, 0, .rw⟩], none⟩,
  ⟨0x300004, [(0x10000, 4)], 0x0, [⟨31, 31, .ro⟩, ⟨23, 16, .rc⟩, ⟨15, 0, .rc⟩], none⟩,
  ⟨0x380000, [], 0x0, [⟨1, 1, .rw⟩, ⟨0, 0, .rw⟩], none⟩,
  ⟨0x380004, [(0x4, 2)], 0x0, [⟨31, 16, .rc⟩, ⟨15, 0, .rc⟩], none⟩]

/-- The register kinds of chapter 12. -/
def regKindsCh12 : List RegKind := [
  ⟨0x60000, [], 0x0, [⟨0, 0, .rw⟩], none⟩,
  ⟨0x60010, [], 0x0, [⟨31, 31, .w1c⟩, ⟨30, 30, .ro⟩, ⟨29, 22, .ro⟩, ⟨21, 16, .ro⟩, ⟨13, 0, .rw⟩], none⟩,
  ⟨0x60020, [(0x4, 8)], 0x0, [⟨31, 0, .rw⟩], none⟩]

/-- The register kinds of chapter 13. -/
def regKindsCh13 : List RegKind := [
  ⟨0x8f010, [], 0x0, [⟨31, 31, .rw⟩, ⟨30, 30, .w1c⟩, ⟨26, 24, .rw⟩, ⟨21, 16, .rw⟩, ⟨8, 0, .rw⟩], none⟩,
  ⟨0x8f014, [], 0x0, [⟨31, 0, .rw⟩], none⟩,
  ⟨0x8f020, [], 0x3e8, [⟨31, 31, .rwl⟩, ⟨11, 0, .rwl⟩], some (0x8f020, 31)⟩,
  ⟨0x8f024, [], 0x0, [⟨31, 31, .ro⟩, ⟨30, 28, .ro⟩, ⟨23, 16, .ro⟩, ⟨15, 0, .ro⟩], none⟩,
  ⟨0x8e000, [], 0x0, [⟨31, 31, .wo⟩, ⟨10, 8, .rw⟩, ⟨5, 0, .rw⟩], none⟩,
  ⟨0x8e004, [], 0x0, [⟨31, 0, .ro⟩], none⟩,
  ⟨0x8e008, [], 0x0, [⟨31, 0, .ro⟩], none⟩,
  ⟨0x8e00c, [], 0x0, [⟨31, 0, .ro⟩], none⟩,
  ⟨0x8e010, [], 0x0, [⟨31, 0, .ro⟩], none⟩]

/-- The register kinds of chapter 14. -/
def regKindsCh14 : List RegKind := [
  ⟨0x70000, [], 0x0, [⟨31, 31, .rwl⟩, ⟨30, 30, .w1c⟩, ⟨7, 0, .rwl⟩], some (0x70000, 31)⟩,
  ⟨0x70004, [], 0x0, [⟨31, 27, .rwl⟩, ⟨26, 0, .rwl⟩], some (0x70000, 31)⟩,
  ⟨0x70010, [(0x10, 8)], 0x0, [⟨26, 0, .rwl⟩], some (0x70000, 31)⟩,
  ⟨0x70014, [(0x10, 8)], 0x0, [⟨23, 0, .rwl⟩], some (0x70000, 31)⟩,
  ⟨0x70018, [(0x10, 8)], 0x0, [⟨23, 0, .ro⟩], none⟩,
  ⟨0x70090, [], 0x0, [⟨31, 16, .rc⟩, ⟨15, 0, .rc⟩], none⟩,
  ⟨0x700a0, [], 0x0, [⟨10, 8, .rw⟩, ⟨5, 0, .rw⟩], none⟩,
  ⟨0x700a4, [], 0x0, [⟨23, 0, .ro⟩], none⟩]

/-- The register kinds of chapter 15. -/
def regKindsCh15 : List RegKind := [
  ⟨0x400f00, [], 0x0, [⟨31, 31, .rwl⟩, ⟨23, 12, .rwl⟩, ⟨8, 8, .rwl⟩, ⟨4, 2, .rwl⟩, ⟨1, 0, .rwl⟩], some (0x400f00, 31)⟩,
  ⟨0x400f04, [], 0x0, [⟨31, 31, .ro⟩, ⟨30, 30, .ro⟩, ⟨23, 16, .ro⟩, ⟨15, 12, .ro⟩, ⟨11, 11, .ro⟩, ⟨9, 0, .ro⟩], none⟩,
  ⟨0x400000, [(0x10000, 8)], 0x780006, [⟨25, 16, .rw⟩, ⟨2, 2, .rw⟩, ⟨1, 1, .rw⟩, ⟨0, 0, .rw⟩], none⟩,
  ⟨0x400004, [(0x10000, 8)], 0x20401004, [⟨31, 24, .rw⟩, ⟨23, 16, .rw⟩, ⟨15, 8, .rw⟩, ⟨7, 0, .rw⟩], none⟩,
  ⟨0x400008, [(0x10000, 8)], 0x0, [⟨31, 31, .ro⟩, ⟨30, 28, .ro⟩, ⟨23, 16, .rc⟩, ⟨11, 8, .ro⟩, ⟨7, 0, .ro⟩], none⟩,
  ⟨0x40000c, [(0x10000, 8)], 0x0, [⟨31, 24, .rc⟩, ⟨23, 16, .rc⟩, ⟨15, 0, .rc⟩], none⟩,
  ⟨0x400010, [(0x10000, 8)], 0x0, [⟨31, 31, .w1c⟩, ⟨30, 29, .ro⟩, ⟨26, 0, .ro⟩], none⟩,
  ⟨0x400020, [(0x10000, 8)], 0x6003c, [⟨23, 16, .rw⟩, ⟨15, 0, .rw⟩], none⟩,
  ⟨0x400100, [(0x10000, 8), (0x8, 4), (0x4, 2)], 0x40402020, [⟨31, 24, .ro⟩, ⟨23, 16, .ro⟩, ⟨13, 8, .ro⟩, ⟨5, 0, .ro⟩], none⟩,
  ⟨0x400120, [(0x10000, 8), (0x4, 4)], 0x40, [⟨7, 0, .ro⟩], none⟩,
  ⟨0x400140, [(0x10000, 8), (0x8, 4), (0x4, 2)], 0xffffffff, [⟨31, 24, .ro⟩, ⟨23, 16, .ro⟩, ⟨15, 8, .ro⟩, ⟨7, 0, .ro⟩], none⟩]

/-- The register kinds of chapter 16. -/
def regKindsCh16 : List RegKind := [
  ⟨0x500000, [], 0x0, [⟨31, 31, .ro⟩, ⟨30, 30, .ro⟩, ⟨29, 29, .w1c⟩, ⟨23, 20, .ro⟩, ⟨12, 8, .ro⟩, ⟨7, 0, .ro⟩], none⟩,
  ⟨0x500004, [], 0x0, [⟨31, 31, .rwl⟩, ⟨30, 30, .rwl⟩, ⟨29, 29, .rwl⟩, ⟨26, 0, .rwl⟩], some (0x500004, 31)⟩,
  ⟨0x500008, [], 0x0, [⟨31, 16, .rc⟩, ⟨15, 0, .rc⟩], none⟩]

/-- The register kinds of chapter 17. -/
def regKindsCh17 : List RegKind := [
  ⟨0x40000, [], 0xa00a0, [⟨31, 31, .rwl⟩, ⟨23, 16, .rw⟩, ⟨7, 7, .rwl⟩, ⟨6, 6, .rwl⟩, ⟨5, 5, .rwl⟩, ⟨1, 1, .rwl⟩, ⟨0, 0, .rw⟩], some (0x40000, 31)⟩,
  ⟨0x40004, [], 0x0, [⟨31, 29, .ro⟩, ⟨28, 28, .ro⟩, ⟨23, 16, .rc⟩, ⟨15, 8, .rc⟩], none⟩,
  ⟨0x40010, [], 0x0, [⟨31, 0, .ro⟩], none⟩,
  ⟨0x40014, [], 0x0, [⟨31, 0, .ro⟩], none⟩,
  ⟨0x40018, [], 0x0, [⟨31, 16, .ro⟩, ⟨15, 0, .ro⟩], none⟩,
  ⟨0x40020, [], 0x0, [⟨31, 0, .rw⟩], none⟩,
  ⟨0x40024, [], 0x0, [⟨31, 0, .rw⟩], none⟩,
  ⟨0x40028, [], 0x0, [⟨31, 16, .rw⟩, ⟨15, 0, .rw⟩], none⟩,
  ⟨0x4002c, [], 0x0, [⟨31, 0, .rw⟩], none⟩,
  ⟨0x40030, [], 0x0, [⟨1, 1, .wo⟩, ⟨0, 0, .wo⟩], none⟩,
  ⟨0x40040, [], 0x0, [⟨31, 0, .rw⟩], none⟩,
  ⟨0x40044, [], 0x2, [⟨7, 0, .rw⟩], none⟩,
  ⟨0x40048, [], 0x0, [⟨31, 0, .ro⟩], none⟩,
  ⟨0x40050, [], 0xc841, [⟨19, 8, .rwl⟩, ⟨7, 4, .rwl⟩, ⟨3, 0, .rwl⟩], some (0x40000, 31)⟩,
  ⟨0x40054, [], 0x6403e8, [⟨31, 16, .rwl⟩, ⟨15, 0, .rwl⟩], some (0x40000, 31)⟩,
  ⟨0x40058, [(0x4, 2)], 0x0, [⟨31, 0, .rw⟩], none⟩,
  ⟨0x40060, [], 0x0, [⟨31, 0, .rw⟩], none⟩,
  ⟨0x40064, [], 0x64, [⟨9, 0, .rw⟩], none⟩,
  ⟨0x40080, [(0x10, 2)], 0x0, [⟨11, 8, .rwl⟩, ⟨2, 2, .rwl⟩, ⟨1, 0, .rwl⟩], some (0x40000, 31)⟩,
  ⟨0x40084, [(0x10, 2)], 0x0, [⟨31, 31, .ro⟩, ⟨30, 30, .ro⟩, ⟨29, 29, .ro⟩, ⟨28, 28, .ro⟩, ⟨27, 24, .ro⟩, ⟨21, 16, .ro⟩, ⟨15, 0, .ro⟩], none⟩,
  ⟨0x400a0, [], 0x32, [⟨9, 0, .rwl⟩], some (0x40000, 31)⟩,
  ⟨0x400b0, [(0x4, 2)], 0x0, [⟨31, 16, .rwl⟩, ⟨15, 0, .rwl⟩], some (0x40000, 31)⟩,
  ⟨0x40100, [(0x10, 8)], 0x0, [⟨31, 31, .rw⟩, ⟨30, 30, .w1c⟩, ⟨29, 29, .rw⟩, ⟨28, 28, .rw⟩, ⟨27, 24, .rc⟩, ⟨23, 0, .rw⟩], none⟩,
  ⟨0x40104, [(0x10, 8)], 0x0, [⟨31, 0, .rw⟩], none⟩,
  ⟨0x40108, [(0x10, 8)], 0x0, [⟨31, 0, .rw⟩], none⟩,
  ⟨0x4010c, [(0x10, 8)], 0x0, [⟨31, 0, .rw⟩], none⟩,
  ⟨0x40200, [(0x10, 8)], 0x0, [⟨31, 31, .rw⟩, ⟨30, 29, .rw⟩, ⟨28, 28, .w1c⟩, ⟨7, 7, .wo⟩, ⟨2, 0, .ro⟩], none⟩,
  ⟨0x40204, [(0x10, 8)], 0x0, [⟨31, 31, .ro⟩, ⟨29, 0, .ro⟩], none⟩,
  ⟨0x40208, [(0x10, 8)], 0x0, [⟨31, 0, .ro⟩], none⟩]

/-- The register kinds of chapter 18. -/
def regKindsCh18 : List RegKind := [
  ⟨0x907f0, [], 0x0, [⟨31, 31, .rwl⟩, ⟨2, 2, .w1c⟩, ⟨1, 1, .ro⟩, ⟨0, 0, .wo⟩], some (0x907f0, 31)⟩,
  ⟨0x90ff0, [], 0x0, [⟨31, 31, .w1c⟩, ⟨30, 30, .rw⟩, ⟨26, 16, .rw⟩, ⟨5, 0, .ro⟩], none⟩]

/-- The register kinds of chapter 19. -/
def regKindsCh19 : List RegKind := [
  ⟨0x20000, [], 0x1, [⟨9, 9, .w1c⟩, ⟨8, 8, .w1c⟩, ⟨7, 7, .w1c⟩, ⟨6, 6, .w1c⟩, ⟨5, 5, .w1c⟩, ⟨4, 4, .w1c⟩, ⟨3, 3, .ro⟩, ⟨2, 2, .w1c⟩, ⟨1, 1, .w1c⟩, ⟨0, 0, .w1c⟩], none⟩,
  ⟨0x20010, [(0x4, 8)], 0x0, [⟨31, 0, .w1c⟩], none⟩,
  ⟨0x20040, [], 0x0, [⟨31, 16, .wo⟩, ⟨0, 0, .wo⟩], none⟩,
  ⟨0x20044, [], 0x0, [⟨31, 31, .wo⟩, ⟨30, 30, .ro⟩, ⟨5, 0, .rw⟩], none⟩,
  ⟨0x20048, [], 0x0, [⟨31, 31, .wo⟩, ⟨30, 30, .ro⟩, ⟨29, 29, .w1c⟩, ⟨15, 8, .rw⟩, ⟨4, 0, .rw⟩], none⟩,
  ⟨0x20050, [], 0x0, [⟨31, 31, .ro⟩, ⟨30, 30, .ro⟩, ⟨29, 28, .ro⟩, ⟨27, 27, .w1c⟩, ⟨9, 8, .ro⟩, ⟨1, 0, .ro⟩], none⟩,
  ⟨0x30000, [(0x4, 8)], 0x0, [⟨31, 0, .ro⟩], none⟩,
  ⟨0x30020, [], 0x10064, [⟨16, 16, .rw⟩, ⟨15, 0, .rw⟩], none⟩,
  ⟨0x30024, [], 0x0, [⟨31, 16, .ro⟩, ⟨15, 0, .rw⟩], none⟩,
  ⟨0x30040, [(0x4, 30)], 0x0, [⟨31, 0, .ro⟩], none⟩]

/-- The register kinds of chapter 20. -/
def regKindsCh20 : List RegKind := [
  ⟨0x10010, [], 0x0, [⟨31, 31, .rwl⟩, ⟨0, 0, .rwl⟩], some (0x10010, 31)⟩,
  ⟨0x10014, [], 0x0, [⟨0, 0, .w1c⟩], none⟩,
  ⟨0x50000, [], 0x1, [⟨31, 31, .rwl⟩, ⟨0, 0, .rwl⟩], some (0x50000, 31)⟩,
  ⟨0x50004, [], 0x0, [⟨31, 0, .ro⟩], none⟩,
  ⟨0x50008, [], 0x0, [⟨31, 16, .rc⟩, ⟨15, 0, .rc⟩], none⟩,
  ⟨0x50010, [], 0x0, [⟨11, 0, .rw⟩], none⟩,
  ⟨0x50040, [(0x4, 16)], 0x0, [⟨31, 0, .ro⟩], none⟩,
  ⟨0x50020, [], 0x0, [⟨15, 0, .rw⟩], none⟩,
  ⟨0x50024, [], 0x0, [⟨23, 16, .rwl⟩, ⟨15, 0, .rwl⟩], some (0x50000, 31)⟩,
  ⟨0x50028, [], 0x0, [⟨5, 0, .rw⟩], none⟩,
  ⟨0x5002c, [], 0x0, [⟨31, 31, .rwl⟩, ⟨30, 30, .rwl⟩, ⟨29, 29, .rwl⟩, ⟨28, 28, .w1c⟩, ⟨27, 24, .rwl⟩, ⟨15, 0, .rwl⟩], some (0x50000, 31)⟩,
  ⟨0x50080, [(0x4, 8)], 0x0, [⟨23, 0, .rwl⟩], some (0x50000, 31)⟩]

/-- The register kinds of chapter 21. -/
def regKindsCh21 : List RegKind := [
  ⟨0x4c0000, [(0x100, 2)], 0x100, [⟨26, 16, .rw⟩, ⟨15, 15, .rw⟩, ⟨8, 8, .rw⟩, ⟨5, 5, .rw⟩, ⟨4, 4, .rw⟩, ⟨1, 0, .rw⟩], none⟩,
  ⟨0x4c0004, [(0x100, 2)], 0x0, [⟨7, 7, .ro⟩, ⟨6, 6, .ro⟩, ⟨5, 5, .ro⟩, ⟨3, 3, .w1c⟩, ⟨2, 2, .w1c⟩, ⟨1, 1, .w1c⟩, ⟨0, 0, .w1c⟩], none⟩,
  ⟨0x580040, [], 0x2000000, [⟨31, 31, .wo⟩, ⟨30, 30, .ro⟩, ⟨29, 29, .w1c⟩, ⟨28, 28, .w1c⟩, ⟨27, 27, .rw⟩, ⟨26, 25, .rw⟩, ⟨22, 16, .rw⟩, ⟨15, 8, .rw⟩, ⟨7, 0, .rw⟩], none⟩,
  ⟨0x580050, [(0x4, 8)], 0x0, [⟨31, 0, .rw⟩], none⟩,
  ⟨0x580000, [], 0x0, [⟨31, 16, .rw⟩, ⟨15, 0, .rw⟩], none⟩,
  ⟨0x580004, [], 0x0, [⟨31, 16, .w1c⟩, ⟨15, 0, .ro⟩], none⟩,
  ⟨0x580100, [], 0x0, [⟨8, 8, .ro⟩, ⟨7, 0, .rw⟩], none⟩,
  ⟨0x580104, [], 0x28b, [⟨15, 0, .rw⟩], none⟩,
  ⟨0x580108, [], 0x3, [⟨26, 16, .rw⟩, ⟨15, 15, .rw⟩, ⟨11, 8, .rw⟩, ⟨6, 6, .rw⟩, ⟨5, 4, .rw⟩, ⟨3, 3, .rw⟩, ⟨2, 2, .rw⟩, ⟨1, 1, .rw⟩, ⟨0, 0, .rw⟩], none⟩,
  ⟨0x58010c, [], 0x0, [⟨20, 16, .ro⟩, ⟨12, 8, .ro⟩, ⟨5, 5, .ro⟩, ⟨4, 4, .w1c⟩, ⟨3, 3, .w1c⟩, ⟨2, 2, .w1c⟩, ⟨1, 1, .w1c⟩, ⟨0, 0, .w1c⟩], none⟩,
  ⟨0x580200, [], 0x0, [⟨31, 31, .wo⟩, ⟨30, 30, .ro⟩, ⟨29, 29, .rw⟩, ⟨28, 28, .rw⟩, ⟨14, 8, .rw⟩, ⟨7, 0, .rw⟩], none⟩,
  ⟨0x580300, [], 0x0, [⟨31, 24, .ro⟩], none⟩,
  ⟨0x580400, [], 0x0, [⟨31, 31, .rwl⟩, ⟨0, 0, .rwl⟩], some (0x580400, 31)⟩,
  ⟨0x580204, [], 0x0, [⟨31, 0, .rw⟩], none⟩,
  ⟨0x580210, [(0x4, 16)], 0x0, [⟨31, 0, .rw⟩], none⟩]

/-- Every register kind of the specification. -/
def regKinds : List RegKind :=
  regKindsCh02 ++ regKindsCh03 ++ regKindsCh04 ++ regKindsCh05 ++ regKindsCh07 ++ regKindsCh08 ++ regKindsCh09 ++ regKindsCh10 ++ regKindsCh11 ++ regKindsCh12 ++ regKindsCh13 ++ regKindsCh14 ++ regKindsCh15 ++ regKindsCh16 ++ regKindsCh17 ++ regKindsCh18 ++ regKindsCh19 ++ regKindsCh20 ++ regKindsCh21

end Sys2Proof.Machine
end

