-- ==== Sys2Proof/Machine/Ops.lean ====
section
/-!
DEFINITION. The named operations over sparse tables, registers, memories, time, domains and status codes, which every
meaning is written with.
-/

namespace Sys2Proof.Machine

/-! ### Sparse tables -/

/-- The value at k of a sparse table whose absent entries stand for d. -/
def sparseGet {α : Type} (d : α) : List (Nat × α) → Nat → α
  | [], _ => d
  | (k', v) :: t, k => if k = k' then v else sparseGet d t k

/-- The table with v at k, in the one canonical form: keys strictly rising, and no entry at k when v is d. -/
def sparseSet {α : Type} [DecidableEq α] (d : α) : List (Nat × α) → Nat → α → List (Nat × α)
  | [], k, v => if v = d then [] else [(k, v)]
  | (k', v') :: t, k, v =>
    if k < k' then (if v = d then (k', v') :: t else (k, v) :: (k', v') :: t)
    else if k = k' then (if v = d then t else (k, v) :: t)
    else (k', v') :: sparseSet d t k v

/-- The table without an entry at k. -/
def tabErase {α : Type} (t : Tab α) (k : Nat) : Tab α := t.filter fun e => !(e.1 == k)

/-- The entry at k, if any. -/
def tabFind {α : Type} (t : Tab α) (k : Nat) : Option α := (t.find? fun e => e.1 == k).map (·.2)

/-- A word of a word table; an absent word is 0. -/
def wordGet (t : WordTab) (k : Nat) : Word := sparseGet 0 t k

/-- A word table with the word w at k. -/
def wordSet (t : WordTab) (k : Nat) (w : Word) : WordTab := sparseSet 0 t k w

/-- A list with its i-th element replaced by f of it. -/
def listUpd {α : Type} (l : List α) (i : Nat) (f : α → α) : List α :=
  match l, i with
  | [], _ => []
  | x :: t, 0 => f x :: t
  | x :: t, i + 1 => x :: listUpd t i f

/-- The i-th element of a list, d beyond its end. -/
def listAt {α : Type} (d : α) (l : List α) (i : Nat) : α := l.getD i d

/-! ### Bits and bytes -/

/-- Bits hi to lo of a word as a number (R9). -/
def bitsOf (w : Word) (hi lo : Nat) : Nat := w.toNat / 2 ^ lo % 2 ^ (hi + 1 - lo)

/-- One bit of a word. -/
def bitOf (w : Word) (i : Nat) : Bool := w.toNat.testBit i

/-- Bits hi to lo of a number. -/
def natBits (n hi lo : Nat) : Nat := n / 2 ^ lo % 2 ^ (hi + 1 - lo)

/-- The word with v in bits hi to lo. -/
def setBits (w : Word) (hi lo v : Nat) : Word :=
  let m := (2 ^ (hi + 1 - lo) - 1) * 2 ^ lo
  (w &&& ~~~(BitVec.ofNat 32 m)) ||| BitVec.ofNat 32 (v % 2 ^ (hi + 1 - lo) * 2 ^ lo)

/-- 1 for true. -/
def boolNat (b : Bool) : Nat := if b then 1 else 0

/-- Two's complement value of the low w bits of n. -/
def signedOf (w n : Nat) : Int :=
  let m := n % 2 ^ w
  if m < 2 ^ (w - 1) then (m : Int) else (m : Int) - 2 ^ w

/-- The low w bits of an integer in two's complement. -/
def wrapInt (w : Nat) (i : Int) : Nat := (i % (2 ^ w : Int)).toNat

/-- An integer limited to lo to hi. -/
def clampInt (lo hi i : Int) : Int := if i < lo then lo else if hi < i then hi else i

/-- The number that little-endian bytes spell (R10). -/
def leNat : List Byte → Nat
  | [] => 0
  | b :: t => b.toNat + 256 * leNat t

/-- n little-endian bytes of a number. -/
def leBytes : Nat → Nat → List Byte
  | 0, _ => []
  | n + 1, v => BitVec.ofNat 8 v :: leBytes n (v / 256)

/-- The little-endian number of n bytes at an offset of a byte list. -/
def fieldAt (l : List Byte) (off n : Nat) : Nat := leNat ((l.drop off).take n)

/-- The bytes of a list of words. -/
def wordsBytes (ws : List Word) : List Byte := (ws.map fun w => leBytes 4 w.toNat).flatten

/-- The list with bs written over it from an offset. -/
def overlay (l : List Byte) (off : Nat) (bs : List Byte) : List Byte :=
  l.take off ++ bs ++ l.drop (off + bs.length)

/-- The list padded with zeros to a multiple of n. -/
def padTo (n : Nat) (l : List Byte) : List Byte := l ++ List.replicate ((n - l.length % n) % n) 0

/-! ### Registers -/

/-- An offset decomposed along strides and counts. -/
def dimsMatch : List (Nat × Nat) → Nat → Bool
  | [], r => r == 0
  | (st, c) :: t, r => decide (r / st < c) && dimsMatch t (r % st)

/-- The kind that has an instance at an offset. -/
def RegKind.matchesOff (k : RegKind) (off : Nat) : Bool := decide (k.base ≤ off) && dimsMatch k.dims (off - k.base)

/-- The register kind at an offset. -/
def regKindOf (off : Nat) : Option RegKind := regKinds.find? fun k => k.matchesOff off

/-- The word that an unlisted register holds. -/
def resetWord (off : Nat) : Word :=
  match regKindOf off with
  | some k => k.reset
  | none => 0

/-- The stored word of a register. -/
def State.reg (s : State) (off : Nat) : Word := sparseGet (resetWord off) s.regs off

/-- The state with a register's word replaced. -/
def State.setReg (s : State) (off : Nat) (w : Word) : State := { s with regs := sparseSet (resetWord off) s.regs off w }

/-- A field of a register. -/
def State.fld (s : State) (off hi lo : Nat) : Nat := bitsOf (s.reg off) hi lo

/-- A one-bit field of a register. -/
def State.flag (s : State) (off i : Nat) : Bool := bitOf (s.reg off) i

/-- The state with a field of a register replaced. -/
def State.setFld (s : State) (off hi lo v : Nat) : State := s.setReg off (setBits (s.reg off) hi lo v)

/-- The state with one bit of a register replaced. -/
def State.setFlag (s : State) (off i : Nat) (b : Bool) : State := s.setFld off i i (boolNat b)

/-- A saturating counter field raised by n. -/
def State.bump (s : State) (off hi lo n : Nat) : State :=
  s.setFld off hi lo (min (2 ^ (hi + 1 - lo) - 1) (s.fld off hi lo + n))

/-- Key of the BAR0 register at offset off of VF f, and of the PF's for f = 0 (R313, R314) (DESIGN CHOICE, log entry 10). -/
def mbKey (f off : Nat) : Nat := if f = 0 then 0x090000 + off else 0x10000000 + (0x10000 * f + off)

/-! ### Free values and time -/

/-- A fresh free value and the state that has drawn it (log entry 2). -/
def State.drawFree (s : State) : Dword × State := (Config.freeValue s.freeCtr, { s with freeCtr := s.freeCtr + 1 })

/-- NS of the counter (R330). -/
def State.tbNs (s : State) : Nat := s.tb.sub / 2 ^ 32

/-- Seconds modulo 2^32 and nanoseconds: the low 64 bits of R10. -/
def State.stamp (s : State) : Dword := BitVec.ofNat 64 (2 ^ 32 * (s.tb.sec % 2 ^ 32) + s.tbNs)

/-- The counter in nanoseconds. -/
def State.nowNs (s : State) : Nat := 1000000000 * s.tb.sec + s.tbNs

/-- Nanoseconds of a stamp in the form of R10. -/
def stampNs (d : Nat) : Nat := 1000000000 * (d / 2 ^ 32) + d % 2 ^ 32

/-- A fresh identity for an object of the model and the state that has used it (DESIGN CHOICE, log entry 144). -/
def State.fresh (s : State) : Nat × State := (s.nextId, { s with nextId := s.nextId + 1 })

/-- n bits of a number, most significant first. -/
def bitsMsb : Nat → Nat → List Bool
  | 0, _ => []
  | n + 1, v => v.testBit n :: bitsMsb n v

/-- A self-test of a unit: one that fails once stays failed until power-on reset (R97). -/
def State.selfTest (s : State) (unit : Nat) (ok : Bool) : State × Bool :=
  if s.failedTests.contains unit then (s, false)
  else if ok then (s, true)
  else ({ s with failedTests := s.failedTests ++ [unit] }, false)

/-! ### Status codes -/

/-- The code of a status (R238). -/
def Status.code : Status → Nat
  | .ok => 0
  | .partialOk => 1
  | .staleEpoch => 2
  | .bounds => 3
  | .align => 4
  | .noBuffer => 5
  | .notOwner => 6
  | .quota => 7
  | .badOpcode => 8
  | .badVersion => 9
  | .detForbidden => 10
  | .aborted => 11
  | .timeout => 12
  | .locked => 13
  | .unitFault => 14
  | .isolated => 15
  | .detMapChanged => 16

/-- OK, PARTIAL and DET_MAP_CHANGED are successes (R238). -/
def Status.success : Status → Bool
  | .ok => true
  | .partialOk => true
  | .detMapChanged => true
  | _ => false

/-! ### Power domains (R380-R384) -/

/-- State of a domain: 0 OFF, 1 ON, 2 RET, 3 changing. -/
def State.domState (s : State) (d : Nat) : Nat := s.fld (Reg.pdState (d / 16)) (d % 16 * 2 + 1) (d % 16 * 2)

/-- A domain is ON. -/
def State.domOn (s : State) (d : Nat) : Bool := s.domState d == 1

/-- The state with a domain in another state. -/
def State.setDom (s : State) (d v : Nat) : State := s.setFld (Reg.pdState (d / 16)) (d % 16 * 2 + 1) (d % 16 * 2) v

/-- Epoch of a domain (R384). -/
def State.epoch (s : State) (d : Nat) : Byte := BitVec.ofNat 8 (s.fld (Reg.pdEpoch (d / 4)) (d % 4 * 8 + 7) (d % 4 * 8))

/-- The next epoch: 1 to 255, wrapping from 255 to 1 (R384). -/
def nextEpoch (e : Nat) : Nat := if e = 255 then 1 else e + 1

/-- The state with a domain's epoch raised. -/
def State.bumpEpoch (s : State) (d : Nat) : State :=
  s.setFld (Reg.pdEpoch (d / 4)) (d % 4 * 8 + 7) (d % 4 * 8) (nextEpoch (s.epoch d).toNat)

def lnDom (n : Nat) : Nat := 5 * n
def arrDom (n : Nat) (b : Bool) : Nat := 5 * n + 1 + boolNat b
def spillDom (n : Nat) : Nat := 5 * n + 3
def ingotDom (n : Nat) : Nat := 5 * n + 4
def smDom (n : Nat) : Nat := 80 + n
def shDom (n : Nat) : Nat := 92 + n
def quadDom (n : Nat) : Nat := 96 + n
def cbDom (n : Nat) : Nat := 100 + n
def seDom (n : Nat) : Nat := 108 + n
def mcDom (n : Nat) : Nat := 110 + n
def epDom (n : Nat) : Nat := 118 + n

/-! ### The device address map (R38, R39, R290, R291) -/

def ingotBase : Nat := 0x010000000000
def crucibleBase : Nat := 0x010010000000
def mib8 : Nat := 0x800000
def mib2 : Nat := 0x200000

/-- The usable DRAM top (R39), from DRAM_STATUS.TOP in 256 MiB units. -/
def State.usableTop (s : State) : Nat := 0x10000000 * s.fld Reg.dramStatus 9 0

/-- The memory that holds a device address. -/
inductive MemUnit
  | dram
  | ingot (n : Nat)
  | crucible (k : Nat)
  | hole
deriving DecidableEq, Repr

/-- The memory at a device address (R38, R39). -/
def State.unitOf (s : State) (da : Nat) : MemUnit :=
  if da < s.usableTop then .dram
  else if ingotBase ≤ da ∧ da < ingotBase + 16 * mib8 then .ingot ((da - ingotBase) / mib8)
  else if crucibleBase ≤ da ∧ da < crucibleBase + 8 * mib8 then .crucible ((da - crucibleBase) / mib8)
  else .hole

/-- The range lies entirely in DRAM below the usable top, in the Ingot range or in the Crucible range (R38, R42). -/
def State.rangeBacked (s : State) (da len : Nat) : Bool :=
  decide (da + len ≤ s.usableTop) ||
  (decide (ingotBase ≤ da) && decide (da + len ≤ ingotBase + 16 * mib8)) ||
  (decide (crucibleBase ≤ da) && decide (da + len ≤ crucibleBase + 8 * mib8))

/-- Usable capacity of one controller, U of R290. -/
def dramU (cfg : Word) : Nat :=
  let c := 4 * (0x20000000 * 2 ^ bitsOf cfg 4 2)
  if bitOf cfg 8 then c * 15 / 16 else c

/-- Size of a pair region, P of R290. -/
def dramP (cfg : Word) : Nat := 0x20000000 * bitsOf cfg 23 12

/-- Size of the 8-way region (R290). -/
def dramW8 (cfg : Word) : Nat := 8 * dramU cfg - 4 * dramP cfg

/-- The configuration is invalid (R290, DRAM_CFG). -/
def dramCfgErr (cfg : Word) : Bool :=
  decide (dramP cfg / 2 > dramU cfg) || decide (3 < bitsOf cfg 4 2) || decide (bitsOf cfg 1 0 = 3)

/-- Controller, channel and channel-local offset of a DRAM address (R291). -/
def dramMap (cfg : Word) (da : Nat) : Nat × Nat × Nat :=
  let w8 := dramW8 cfg
  if da < w8 then
    let g := da / 256
    ((g % 8) ^^^ (g / 2 ^ 13 % 8), g / 8 % 4, g / 32 * 256 + da % 256)
  else
    let p := dramP cfg
    let k := (da - w8) / p
    let r := (da - w8) % p
    let g := r / 256
    (2 * k + ((g % 2) ^^^ (g / 2 ^ 13 % 2)), g / 2 % 4, w8 / 32 + (g / 8 * 256 + r % 256))

/-- The device address at a channel-local offset of a channel: the inverse of R291. -/
def dramUnmap (cfg : Word) (mc ch loc : Nat) : Nat :=
  let w8 := dramW8 cfg
  let c8 := w8 / 32
  if loc < c8 then
    let h := loc / 256 * 32 + ch * 8
    let x := (mc ^^^ (h / 2 ^ 13 % 8)) % 8
    (h + x) * 256 + loc % 256
  else
    let l := loc - c8
    let h := l / 256 * 8 + ch * 2
    let x := (mc % 2) ^^^ (h / 2 ^ 13 % 2)
    w8 + mc / 2 * dramP cfg + (h + x) * 256 + l % 256

/-- The DRAM address lies in a region lost under R306. -/
def State.dramLost (s : State) (da : Nat) : Bool :=
  let cfg := s.reg Reg.dramCfg
  if da < dramW8 cfg then s.flag Reg.dramStatus 11
  else s.flag Reg.dramStatus (12 + (da - dramW8 cfg) / dramP cfg)

/-- What stops an access to a memory: ISOLATED or UNIT_FAULT (R54, R306, R402); OK when nothing does. -/
def State.accessStatus (s : State) (da : Nat) : Status :=
  match s.unitOf da with
  | .dram => if s.dramLost da then .unitFault else if s.flag (Reg.mcCtrl (dramMap (s.reg Reg.dramCfg) da).1) 0 then .ok else .isolated
  | .ingot n => if s.domOn (ingotDom n) then .ok else .isolated
  | .crucible k => if s.domOn (cbDom k) then .ok else .isolated
  | .hole => .bounds

/-! ### Byte memories -/

/-- n bytes of a byte memory from an address; an unlisted byte reads d. -/
def cellsRead (d : Byte) (m : List Host.Cell) (a n : Nat) : List Byte := (List.range n).map fun i => sparseGet d m (a + i)

/-- The byte memory with bs written from an address. -/
def cellsWrite (d : Byte) (m : List Host.Cell) (a : Nat) : List Byte → List Host.Cell
  | [] => m
  | b :: t => cellsWrite d (sparseSet d m a b) (a + 1) t

/-- What a byte of device or host memory that nothing has written reads as (log entry 5). -/
def memDefault : Byte := 0

/-- What an erased byte of the flash reads as (log entry 5). -/
def flashDefault : Byte := 0xFF

/-- The table with v at k, whatever v is. -/
def sparsePut {α : Type} : List (Nat × α) → Nat → α → List (Nat × α)
  | [], k, v => [(k, v)]
  | (k', v') :: t, k, v => if k < k' then (k, v) :: (k', v') :: t else if k = k' then (k, v) :: t else (k', v') :: sparsePut t k v

/-- A table with v at k, keys rising. -/
def tabPut {α : Type} : Tab α → Nat → α → Tab α
  | [], k, v => [(k, v)]
  | (k', v') :: t, k, v => if k < k' then (k, v) :: (k', v') :: t else if k = k' then (k, v) :: t else (k', v') :: tabPut t k v

/-- An address lies in an undefined range. -/
def Undef.has (u : Undef) (a : Nat) : Bool := decide (u.base ≤ a) && decide (a < u.base + u.len)

/-- The free byte that an undefined range shows at an address. -/
def Undef.byte (u : Undef) (a : Nat) : Byte :=
  BitVec.ofNat 8 ((Config.freeValue (u.ctr + (a - u.org) / 8)).toNat / 2 ^ (8 * ((a - u.org) % 8)))

/-- What is left of an undefined range outside another range. -/
def Undef.minus (da len : Nat) (u : Undef) : List Undef :=
  let fin := u.base + u.len
  (if u.base < da then [{ u with len := min u.len (da - u.base) }] else []) ++
  (if da + len < fin then [{ u with base := max u.base (da + len), len := fin - max u.base (da + len) }] else [])

/-- The undefined range that holds an address. -/
def undefFind (us : List Undef) (a : Nat) : Option Undef := us.find? fun u => u.has a

/-- What an unlisted byte of device memory reads as: a free value where a power-up left it undefined, the default elsewhere. -/
def unlistedByte (us : List Undef) (a : Nat) : Byte :=
  match undefFind us a with
  | some u => u.byte a
  | none => memDefault

/-- Device memory with bytes written from an address. A byte written into an undefined range is listed whatever it is. -/
def memWrite (us : List Undef) (m : List Host.Cell) (a : Nat) : List Byte → List Host.Cell
  | [] => m
  | b :: t => memWrite us (if (undefFind us a).isSome then sparsePut m a b else sparseSet memDefault m a b) (a + 1) t

/-- The memory is in its canonical form: addresses strictly rising, no entry equal to the default. -/
def cellsWf (d : Byte) (m : List Host.Cell) : Bool :=
  decide (m.Pairwise fun x y => x.1 < y.1) && m.all fun e => decide (e.2 ≠ d)

/-- Device memory is in its canonical form: an entry equal to the default stands in an undefined range only. -/
def memWf (us : List Undef) (m : List Host.Cell) : Bool :=
  decide (m.Pairwise fun x y => x.1 < y.1) && m.all fun e => decide (e.2 ≠ memDefault) || (undefFind us e.1).isSome

/-- The local buffers stand in rising order of their issuers, each in its canonical form. -/
def localsWf (l : List (Nat × List Host.Cell)) : Bool :=
  decide (l.Pairwise fun x y => x.1 < y.1) && l.all fun e => cellsWf memDefault e.2

/-- Canonical form of the byte memories: device, host, flash, and the local buffers of the issuers that have one. -/
abbrev Memory.wf (s : State) : Bool :=
  memWf s.undef s.mem && cellsWf memDefault s.host && cellsWf flashDefault s.flash && localsWf s.localBufs

/-- One byte of device memory. -/
def State.memByte (s : State) (da : Nat) : Byte :=
  match tabFind s.mem da with
  | some v => v
  | none => unlistedByte s.undef da

/-- n bytes of device memory. -/
def State.readMem (s : State) (da n : Nat) : List Byte := (List.range n).map fun i => s.memByte (da + i)

/-- The 32-bit or 64-bit little-endian number at a device address. -/
def State.readNat (s : State) (da n : Nat) : Nat := leNat (s.readMem da n)

/-- n bytes of host memory. -/
def State.readHost (s : State) (a n : Nat) : List Byte := cellsRead memDefault s.host a n

/-- The state with bytes written to host memory (DESIGN CHOICE, log entry 98). -/
def State.writeHost (s : State) (a : Nat) (bs : List Byte) : State := { s with host := cellsWrite memDefault s.host a bs }

/-- n bytes of the flash. -/
def State.readFlash (s : State) (a n : Nat) : List Byte := cellsRead flashDefault s.flash a n

/-- The state with bytes written to the flash. -/
def State.writeFlash (s : State) (a : Nat) (bs : List Byte) : State := { s with flash := cellsWrite flashDefault s.flash a bs }

/-- An element put into a list in an order, before those that it may precede. -/
def insertBy {α : Type} (le : α → α → Bool) (x : α) : List α → List α
  | [] => [x]
  | y :: t => if le x y then x :: y :: t else y :: insertBy le x t

/-- A list sorted by an order; equals keep their places. -/
def sortBy {α : Type} (le : α → α → Bool) : List α → List α
  | [] => []
  | x :: t => insertBy le x (sortBy le t)

/-- A word index inserted into a rising list. -/
def insertSorted (x : Nat) : List Nat → List Nat
  | [] => [x]
  | y :: t => if x < y then x :: y :: t else if x = y then y :: t else y :: insertSorted x t

/-! ### Rate and ageing windows (R30, R31) -/

/-- Ageing rings that lie in a switched domain: array side with the logic domain, Ingot side, Smelter; the Spine's are always on
(DEDUCED, log entry 107). -/
def domRings (d : Nat) : List Nat :=
  if d < 80 then (if d % 5 = 0 then [2 * (d / 5)] else if d % 5 = 4 then [2 * (d / 5) + 1] else [])
  else if d < 92 then [32 + (d - 80)]
  else []

/-- A domain has been off: the window of its rate ring and those of its ageing rings are not complete (DEDUCED, log entry 108). -/
def State.windowGap (s : State) (d : Nat) : State :=
  { s with fabric := { s.fabric with rateGap := insertSorted d s.fabric.rateGap,
                                     ageGap := (domRings d).foldl (fun l n => insertSorted n l) s.fabric.ageGap } }

/-- The domain of an ageing ring; the Spine's rings are always on (DEDUCED, log entry 107). -/
def ageDom (n : Nat) : Option Nat :=
  if n < 32 then some (if n % 2 = 0 then lnDom (n / 2) else ingotDom (n / 2)) else if n < 44 then some (smDom (n - 32)) else none

/-- What FAB_RATE_LNn, FAB_RATE_SMn and AGE_RINGn read: nothing valid while the unit's domain is not ON, nor before a window that it was
ON throughout (R30, R31, R37). -/
def State.rateWord (s : State) (d off : Nat) : Word := if s.domOn d && !s.fabric.rateGap.contains d then s.reg off else 0
def State.ageWord (s : State) (n : Nat) : Word :=
  if (match ageDom n with | some d => s.domOn d | none => true) && !s.fabric.ageGap.contains n then s.reg (Reg.ageRing n) else 0

/-- Poison size of a memory in bytes: the 32-byte sub-block of DRAM with inline ECC, the 64-bit word elsewhere (R54, R432). -/
def State.poisonUnit (s : State) (da : Nat) : Nat := if s.unitOf da = .dram then 32 else 8

/-- A range touches a word that reports an uncorrectable error. -/
def State.poisoned (s : State) (da len : Nat) : Bool := s.poison.any fun w => decide (w * 8 < da + len) && decide (da < w * 8 + 8)

/-- The first poisoned word of a range, as its DA. -/
def State.firstPoison (s : State) (da len : Nat) : Option Nat :=
  (s.poison.find? fun w => decide (w * 8 < da + len) && decide (da < w * 8 + 8)).map (· * 8)

/-- The state in which the error unit around a word is poisoned; in DRAM without inline ECC nothing is (R54). -/
def State.setPoison (s : State) (da : Nat) : State :=
  let u := s.poisonUnit da
  if u = 32 ∧ s.flag Reg.dramCfg 8 = false then s
  else { s with poison := (List.range (u / 8)).foldl (fun l i => insertSorted (da / u * (u / 8) + i) l) s.poison }

/-- The poison that a write of a range leaves: units that it covers in full are cleared (R305, R308, R89). -/
def State.clearPoison (s : State) (da len : Nat) : State :=
  if s.poison.isEmpty then s
  else { s with poison := s.poison.filter fun w =>
          let u := s.poisonUnit (w * 8)
          let b := w * 8 / u * u
          !(decide (da ≤ b) && decide (b + u ≤ da + len)) }

/-- A poisoned word whose error unit a range meets and does not cover, as its DA: a write of the range is a partial write of the unit (R304,
R308) (DEDUCED, log entry 155). -/
def State.partialPoison (s : State) (da len : Nat) : Option Nat :=
  (s.poison.find? fun w =>
    let u := s.poisonUnit (w * 8)
    let b := w * 8 / u * u
    decide (b < da + len) && decide (da < b + u) && !(decide (da ≤ b) && decide (b + u ≤ da + len))).map (· * 8)

/-- The state with bytes written to device memory. -/
def State.writeMem (s : State) (da : Nat) (bs : List Byte) : State :=
  { s.clearPoison da bs.length with mem := memWrite s.undef s.mem da bs }

/-- The state with an n-byte little-endian number written to device memory. -/
def State.writeNat (s : State) (da n v : Nat) : State := s.writeMem da (leBytes n v)

/-! ### Partition tables and translation (R40, R41, R251) -/

/-- A partition's record; an unlisted partition holds nothing. -/
def State.part (s : State) (p : Nat) : Part := sparseGet Part.reset s.parts p

/-- The state with a partition's record replaced. -/
def State.setPart (s : State) (p : Nat) (v : Part) : State := { s with parts := sparseSet Part.reset s.parts p v }

/-- Key of a table word in the word tables of a partition. -/
def tabKey (table word : Nat) : Nat := table * 512 + word

/-- Words of each partition table (R251). -/
def tableWords (table : Nat) : Nat :=
  match table with
  | 0 => 128
  | 1 => 16
  | 2 => 512
  | 3 => 16
  | 4 => 32
  | 5 => 4
  | 6 => 16
  | _ => 0

/-- A word of an active or shadow table. -/
def tableWord (t : WordTab) (table word : Nat) : Word := wordGet t (tabKey table word)

/-- The bytes of one table of an active or shadow copy. -/
def tableBytes (t : WordTab) (table : Nat) : List Byte :=
  wordsBytes ((List.range (tableWords table)).map fun w => tableWord t table w)

/-- The permission that an operation needs of its window entry (WIN_HI). -/
inductive Perm
  | rd
  | wr
  | at
deriving DecidableEq, Repr

/-- Bit of WIN_HI that grants a permission. -/
def Perm.bit : Perm → Nat
  | .rd => 30
  | .wr => 29
  | .at => 28

/-- First PDA and length of a window entry. -/
def winBase (lo : Word) : Nat := mib2 * bitsOf lo 15 0
def winLen (lo : Word) : Nat := mib2 * (bitsOf lo 31 16 + 1)
/-- First DA of a window entry. -/
def winTarget (hi : Word) : Nat := mib2 * bitsOf hi 26 0

/-- The one valid entry that holds a PDA (R40). -/
def winFind (t : WordTab) (pda : Nat) : Option Nat :=
  (List.range 64).find? fun e =>
    let lo := tableWord t 0 (2 * e)
    bitOf (tableWord t 0 (2 * e + 1)) 31 && decide (winBase lo ≤ pda) && decide (pda < winBase lo + winLen lo)

/-- Translation of a range of PDAs under a window table (R40, R41). -/
def winTranslate (t : WordTab) (pda len : Nat) (need : Perm) : Option Nat :=
  match winFind t pda with
  | none => none
  | some e =>
    let lo := tableWord t 0 (2 * e)
    let hi := tableWord t 0 (2 * e + 1)
    if bitOf hi need.bit && decide (pda + len ≤ winBase lo + winLen lo) then some (winTarget hi + (pda - winBase lo)) else none

/-- Translation in a partition's active table, into backed memory (R39-R41, R43). -/
def State.translate (s : State) (p pda len : Nat) (need : Perm) : Option Nat :=
  match winTranslate (s.part p).active pda len need with
  | none => none
  | some da => if s.rangeBacked da len then some da else none

/-- A field of a partition's active LIMITS table. -/
def State.limit (s : State) (p byte n : Nat) : Nat := fieldAt (tableBytes (s.part p).active 3) byte n

/-- LIMITS VALID of a table: without it the partition holds nothing (R251) (DEDUCED, log entry 83). -/
def tabValid (t : WordTab) : Bool := bitOf (tableWord t 3 0) 0

/-- LIMITS VALID (R251). -/
def State.partValid (s : State) (p : Nat) : Bool := tabValid (s.part p).active

/-- The partition and quota entry that hold quota q of Lantern n (R90, R252). -/
def State.quotaOf (s : State) (n q : Nat) : Option (Nat × Word) :=
  ((List.range 64).filterMap fun p =>
    let w := tableWord (s.part p).active 1 n
    if tabValid (s.part p).active && bitOf w 31 && decide (bitsOf w 17 16 = q) then some (p, w) else none).head?

/-- A partition's quota on a Lantern: index, first DA and length. -/
def State.quotaFor (s : State) (p n : Nat) : Option (Nat × Nat × Nat) :=
  let w := tableWord (s.part p).active 1 n
  if tabValid (s.part p).active && bitOf w 31 then some (bitsOf w 17 16, ingotBase + mib8 * n + mib2 * bitsOf w 5 4, mib2 * bitsOf w 2 0) else none

/-- The PDA of a device address in a partition: the valid entry of lowest number that maps it. -/
def State.pdaOf (s : State) (p da : Nat) : Option Nat :=
  let t := (s.part p).active
  ((List.range 64).filterMap fun e =>
    let lo := tableWord t 0 (2 * e)
    let hi := tableWord t 0 (2 * e + 1)
    if bitOf hi 31 && decide (winTarget hi ≤ da) && decide (da < winTarget hi + winLen lo) then some (winBase lo + (da - winTarget hi)) else none).head?

/-- The partition and function that own a ring (R229, R254). -/
def State.ringOwner (s : State) (r : Nat) : Option (Nat × Nat) :=
  ((List.range 64).filterMap fun p =>
    ((List.range 16).filterMap fun i =>
      let a := tableWord (s.part p).active 4 (2 * i)
      let b := tableWord (s.part p).active 4 (2 * i + 1)
      let first := bitsOf a 13 0
      let count := bitsOf a 30 16
      if tabValid (s.part p).active && decide (first ≤ r) && decide (r < first + count) then some (p, bitsOf b 7 0) else none).head?).head?

/-- Rings of a function in ascending order (R314). -/
def State.fnRanges (s : State) (f : Nat) : List (Nat × Nat) :=
  sortBy (fun x y => decide (x.1 ≤ y.1)) (((List.range 64).map fun p =>
    (List.range 16).filterMap fun i =>
      let a := tableWord (s.part p).active 4 (2 * i)
      let b := tableWord (s.part p).active 4 (2 * i + 1)
      if tabValid (s.part p).active = true ∧ bitsOf a 30 16 ≠ 0 ∧ bitsOf b 7 0 = f then some (bitsOf a 13 0, bitsOf a 30 16) else none).flatten)

/-- The v-th ring of a list of ranges. -/
def nthRing : List (Nat × Nat) → Nat → Option Nat
  | [], _ => none
  | (f, c) :: t, v => if v < c then some (f + v) else nthRing t (v - c)

/-- VF-local ring v of a function (R314). -/
def State.vfRing (s : State) (f v : Nat) : Option Nat := if v < 896 then nthRing (s.fnRanges f) v else none

/-- The partition of a function's rings: the partition of its first ring, none without rings (R353 "own"). -/
def State.fnPart (s : State) (f : Nat) : Option Nat :=
  match s.fnRanges f with
  | [] => none
  | (r, _) :: _ => (s.ringOwner r).map (·.1)

/-- A function's record. -/
def State.func (s : State) (f : Nat) : Func := sparseGet Func.reset s.pcie.funcs f

/-- The state with a function's record replaced. -/
def State.setFunc (s : State) (f : Nat) (v : Func) : State :=
  { s with pcie := { s.pcie with funcs := sparseSet Func.reset s.pcie.funcs f v } }

/-- A ring's record. -/
def State.ring (s : State) (r : Nat) : Ring := sparseGet Ring.reset s.rings r

/-- The state with a ring's record replaced. -/
def State.setRing (s : State) (r : Nat) (v : Ring) : State := { s with rings := sparseSet Ring.reset s.rings r v }

/-- A mailbox's record. -/
def State.mailbox (s : State) (f : Nat) : Mailbox := sparseGet ⟨[], [], [], 0⟩ s.ozmel.mailboxes f

/-- The state with a mailbox's record replaced. -/
def State.setMailbox (s : State) (f : Nat) (v : Mailbox) : State :=
  { s with ozmel := { s.ozmel with mailboxes := sparseSet ⟨[], [], [], 0⟩ s.ozmel.mailboxes f v } }

/-- A Pewter buffer's record. -/
def State.buf (s : State) (pool ix : Nat) : PBuf := sparseGet PBuf.reset s.bufs (2 ^ 24 * pool + ix)

/-- The state with a Pewter buffer's record replaced. -/
def State.setBuf (s : State) (pool ix : Nat) (b : PBuf) : State :=
  { s with bufs := sparseSet PBuf.reset s.bufs (2 ^ 24 * pool + ix) b }

/-- An n-byte parameter of a command at a parameter byte offset (R234). -/
def Cmd.par (c : Cmd) (off n : Nat) : Nat := fieldAt c.params off n

/-- A command in flight. -/
def State.cmd? (s : State) (id : Nat) : Option Cmd := s.cmds.find? fun c => c.id == id

/-- The state with a command in flight replaced by its image. -/
def State.updCmd (s : State) (id : Nat) (f : Cmd → Cmd) : State :=
  { s with cmds := s.cmds.map fun c => if c.id = id then f c else c }

/-- The state in which a command has ended with a status and a detail word. -/
def State.endCmd (s : State) (id : Nat) (st : Status) (d : Word) : State :=
  s.updCmd id fun c => { c with phase := .ended, status := st, detail := d }

/-- Reset word of an MSI-X table word: Vector Control resets to masked (log entry 6). -/
def msixDefault (k : Nat) : Word := if k % 4 = 3 then 1 else 0

/-- A word of a function's MSI-X table. -/
def Func.msixWord (f : Func) (k : Nat) : Word := sparseGet (msixDefault k) f.table k

/-- A vector of a function can be sent now: the four conditions of R323, no FLR in progress (R325), and D0 (R327). -/
def State.msixReady (s : State) (f vec : Nat) : Bool :=
  let fn := s.func f
  fn.msixEnable && !fn.functionMask && fn.busMaster && !fn.flr && !s.pcie.d3 && !(bitOf (fn.msixWord (vec * 4 + 3)) 0)

/-- The state in which an MSI-X message of a function is due: sent, or its pending bit set (R323). -/
def State.msixDue (s : State) (f vec : Nat) : State :=
  if s.msixReady f vec then { s with outs := { s.outs with msix := (f, vec) :: s.outs.msix } }
  else
    let fn := s.func f
    s.setFunc f { fn with pba := insertSorted vec fn.pba }

/-- A Crucible bank's record. -/
def State.bank (s : State) (k : Nat) : Bank := sparseGet Bank.reset s.banks k

/-- The state with a Crucible bank's record replaced. -/
def State.setBank (s : State) (k : Nat) (b : Bank) : State := { s with banks := sparseSet Bank.reset s.banks k b }

/-- An Ingot's error bookkeeping. -/
def State.ingotErr (s : State) (n : Nat) : IngotErr := sparseGet IngotErr.reset s.ingots n

/-- The state with an Ingot's error bookkeeping replaced. -/
def State.setIngotErr (s : State) (n : Nat) (b : IngotErr) : State := { s with ingots := sparseSet IngotErr.reset s.ingots n b }

end Sys2Proof.Machine
end

