-- ==== Sys2Proof/Machine/Checks.lean ====
section
/-!
DEFINITION. The checks over bytes that the specification uses: CRC-32C (R395), CRC-64 (R145), SHA-256 and the ECDSA
verification over P-256 (R376).
-/

namespace Sys2Proof.Machine

/-- n steps of a reflected CRC over bits already XORed into the register. -/
def crcReflSteps (poly : Nat) : Nat → Nat → Nat
  | 0, c => c
  | n + 1, c => crcReflSteps poly n (if c % 2 = 1 then c / 2 ^^^ poly else c / 2)

/-- CRC-32C of bytes (R395). -/
def crc32c (bs : List Byte) : Nat :=
  (bs.foldl (fun c b => crcReflSteps 0x82F63B78 8 (c ^^^ b.toNat)) 0xFFFFFFFF) ^^^ 0xFFFFFFFF

/-! ### SHA-256 (FIPS 180-4), on 32-bit words held as numbers -/

/-- A 256-bit number as its eight words, the most significant first. -/
def words256 (x : Nat) : List Nat := (List.range 8).map fun i => x / 2 ^ (32 * (7 - i)) % 2 ^ 32

/-- The 64 round constants, eight to a number. -/
def shaConstants : List Nat := ([
  0x428a2f9871374491b5c0fbcfe9b5dba53956c25b59f111f1923f82a4ab1c5ed5,
  0xd807aa9812835b01243185be550c7dc372be5d7480deb1fe9bdc06a7c19bf174,
  0xe49b69c1efbe47860fc19dc6240ca1cc2de92c6f4a7484aa5cb0a9dc76f988da,
  0x983e5152a831c66db00327c8bf597fc7c6e00bf3d5a7914706ca635114292967,
  0x27b70a852e1b21384d2c6dfc53380d13650a7354766a0abb81c2c92e92722c85,
  0xa2bfe8a1a81a664bc24b8b70c76c51a3d192e819d6990624f40e3585106aa070,
  0x19a4c1161e376c082748774c34b0bcb5391c0cb34ed8aa4a5b9cca4f682e6ff3,
  0x748f82ee78a5636f84c878148cc7020890befffaa4506cebbef9a3f7c67178f2].map words256).flatten

/-- A word turned right by two amounts, both XORed into a third number. -/
def shaMix (x p q z : Nat) : Nat := (x * (2 ^ 32 + 1) / 2 ^ p % 2 ^ 32) ^^^ (x * (2 ^ 32 + 1) / 2 ^ q % 2 ^ 32) ^^^ z

/-- A word turned right by three amounts, XORed. -/
def shaMix3 (x p q r : Nat) : Nat := shaMix x p q (x * (2 ^ 32 + 1) / 2 ^ r % 2 ^ 32)

/-- One round on the eight working words and the window of the sixteen schedule words that come next: the round consumes the first
of the window and appends the word sixteen places on. -/
def shaRound (r : List Nat × List Nat) (k : Nat) : List Nat × List Nat :=
  let at8 := listAt 0 r.1
  let win := listAt 0 r.2
  let pick := at8 6 ^^^ (at8 4 &&& (at8 5 ^^^ at8 6))
  let most := (at8 0 &&& at8 1) ||| (at8 2 &&& (at8 0 ||| at8 1))
  let t := at8 7 + shaMix3 (at8 4) 6 11 25 + pick + k + win 0
  let next := win 0 + shaMix (win 1) 7 18 (win 1 / 2 ^ 3) + win 9 + shaMix (win 14) 17 19 (win 14 / 2 ^ 10)
  (((t + shaMix3 (at8 0) 2 13 22 + most) % 2 ^ 32 :: r.1.take 3) ++ ((at8 3 + t) % 2 ^ 32 :: (r.1.drop 4).take 3),
   r.2.drop 1 ++ [next % 2 ^ 32])

/-- A list cut into n pieces of k elements. -/
def chunks {α : Type} (k : Nat) : Nat → List α → List (List α)
  | 0, _ => []
  | n + 1, l => l.take k :: chunks k n (l.drop k)

/-- A big-endian number of bytes. -/
def beNat (l : List Byte) : Nat := leNat l.reverse

/-- The eight words after one more block of 64 bytes. -/
def shaBlock (h : List Nat) (blk : List Byte) : List Nat :=
  let r := shaConstants.foldl shaRound (h, (chunks 4 16 blk).map beNat)
  List.zipWith (fun x y => (x + y) % 2 ^ 32) h r.1

/-- SHA-256 of bytes. -/
def sha256 (m : List Byte) : List Byte :=
  let full := m ++ 0x80 :: List.replicate ((119 - m.length % 64) % 64) 0 ++ (leBytes 8 (8 * m.length)).reverse
  let h0 := words256 0x6a09e667bb67ae853c6ef372a54ff53a510e527f9b05688c1f83d9ab5be0cd19
  (((chunks 64 (full.length / 64) full).foldl shaBlock h0).map fun w => (leBytes 4 w).reverse).flatten

/-! ### ECDSA over P-256 (FIPS 186-4) -/

def p256P : Nat := 0xffffffff00000001000000000000000000000000ffffffffffffffffffffffff
def p256N : Nat := 0xffffffff00000000ffffffffffffffffbce6faada7179e84f3b9cac2fc632551
def p256B : Nat := 0x5ac635d8aa3a93e7b3ebbd55769886bc651d06b0cc53b0f63bce3c3e27d2604b
def p256Gx : Nat := 0x6b17d1f2e12c4247f8bce6e563a440f277037d812deb33a0f4a13945d898c296
def p256Gy : Nat := 0x4fe342e2fe1a7f9b8ee7eb4a7c0f9e162bce33576b315ececbb6406837bf51f5

/-- a ^ e modulo m by squaring over n bits of e. -/
def powMod (m a : Nat) : Nat → Nat → Nat
  | 0, _ => 1
  | n + 1, e =>
    let r := powMod m a n (e / 2)
    if e % 2 = 1 then r * r % m * a % m else r * r % m

/-- Inverse modulo a prime. -/
def invMod (m a : Nat) : Nat := powMod m (a % m) 256 (m - 2)

/-- Sum of two points of P-256; none is the point at infinity. -/
def ecAdd (x y : Option (Nat × Nat)) : Option (Nat × Nat) :=
  match x, y with
  | none, q => q
  | p, none => p
  | some (x1, y1), some (x2, y2) =>
    if x1 = x2 ∧ (y1 + y2) % p256P = 0 then none
    else
      let l := if x1 = x2 then (3 * x1 * x1 + (p256P - 3)) * invMod p256P (2 * y1) % p256P
               else (y2 + p256P - y1) * invMod p256P (x2 + p256P - x1) % p256P
      let x3 := (l * l + 2 * p256P - x1 - x2) % p256P
      some (x3, (l * (x1 + p256P - x3) + p256P - y1) % p256P)

/-- k times a point, over n bits of k. -/
def ecMul (q : Option (Nat × Nat)) : Nat → Nat → Option (Nat × Nat)
  | 0, _ => none
  | n + 1, k =>
    let r := ecMul q n (k / 2)
    let d := ecAdd r r
    if k % 2 = 1 then ecAdd d q else d

/-- The signature r, s verifies over the message with public key X, Y. -/
def ecdsaVerify (x y r sv : Nat) (msg : List Byte) : Bool :=
  let onCurve := decide (x < p256P) && decide (y < p256P) && decide (y * y % p256P = (x * x * x + (p256P - 3) * x + p256B) % p256P)
  if onCurve && decide (0 < r ∧ r < p256N) && decide (0 < sv ∧ sv < p256N) then
    let w := invMod p256N sv
    let e := beNat (sha256 msg)
    match ecAdd (ecMul (some (p256Gx, p256Gy)) 256 (e * w % p256N)) (ecMul (some (x, y)) 256 (r * w % p256N)) with
    | none => false
    | some (px, _) => decide (px % p256N = r)
  else false

/-- Check of a signed header over its body (R376); numbers of the key and the signature are big-endian (log entry 7). -/
def signedOk (magic : Nat) (maxLen : Nat) (exact : Bool) (keyHash : List Byte) (hdr body : List Byte) : Bool :=
  let len := fieldAt hdr 8 4
  decide (fieldAt hdr 0 4 = magic) && (if exact then decide (len = maxLen) else decide (len ≤ maxLen)) &&
  decide (sha256 (body.take len) = (hdr.drop 16).take 32) && decide (sha256 ((hdr.drop 48).take 64) = keyHash) &&
  decide ((hdr.drop 176).take 76 = List.replicate 76 0) && decide (fieldAt hdr 252 4 = crc32c (hdr.take 252)) &&
  ecdsaVerify (beNat ((hdr.drop 48).take 32)) (beNat ((hdr.drop 80).take 32)) (beNat ((hdr.drop 112).take 32))
    (beNat ((hdr.drop 144).take 32)) (hdr.take 112)

end Sys2Proof.Machine
end

