-- ==== Sys2Proof/Machine/RegView.lean ====
section
/-!
DEFINITION. What a 32-bit register presents to a reader (R12): the stored word, or the view of other state that the
specification puts at the offset. Nothing here changes the state; what a read clears or latches is in Access.lean.
-/

namespace Sys2Proof.Machine

/-! ### The Discovery Table (R319-R321) -/

/-- STATE of the Discovery header: 0 BOOTING, 1 READY, 2 RECOVERY, 3 SAFE. -/
def State.discState (s : State) : Nat :=
  if s.fabric.safe then 3 else if s.flag Reg.rstBoot 31 then 2 else if s.ozmel.ready then 1 else 0

/-- One bit for each of n instances. -/
def bitmap (n : Nat) (f : Nat → Bool) : Nat := ((List.range n).map fun i => boolNat (f i) * 2 ^ i).sum

/-- The entries of the Discovery Table: TYPE, COUNT, BASE, STRIDE, DISABLED, BCAST (R320). -/
def State.discEntries (s : State) : List (Nat × Nat × Nat × Nat × Nat × Nat) :=
  let no := 0xFFFFFFFF
  [(0x01, 1, 0x010000, 0, 0, no), (0x02, 1, 0x020000, 0, 0, no), (0x03, 1, 0x030000, 0, 0, no), (0x04, 1, 0x040000, 0, 0, no),
   (0x05, 1, 0x050000, 0, 0, no), (0x06, 8, 0x060000, 0, 0, no), (0x07, 1, 0x070000, 0, 0, no), (0x08, 1, 0x080000, 0, 0, no),
   (0x09, 1, 0x090000, 0, 0, no), (0x0A, 1, 0x0A0000, 0, 0, no),
   (0x10, 16, 0x100000, 0x10000, bitmap 16 fun n => s.flag (Reg.lnStatus n) 31, 0x0F0000),
   (0xE0, 32, no, 0, (s.fuses.arrayOff ||| s.reg Reg.arrayRuntimeMap).toNat, no),
   (0xE1, 8, no, 0, bitmap 8 fun k => (s.bank k).quarantined, no),
   (0x20, 12, 0x200000, 0x10000, bitmap 12 fun n => s.flag (Reg.smStatus n) 31, 0x2F0000),
   (0x30, 4, 0x300000, 0x10000, bitmap 4 fun n => !s.domOn (shDom n), no),
   (0x34, 4, 0x340000, 0x10000, bitmap 4 fun n => !s.domOn (quadDom n), no),
   (0x38, 2, 0x380000, 0, bitmap 2 fun n => !s.domOn (seDom n), no),
   (0x40, 8, 0x400000, 0x10000, s.fld Reg.dramStatus 23 16, no),
   (0x48, 2, 0x480000, 0x100, bitmap 2 fun n => !s.domOn (epDom n), no),
   (0x4C, 2, 0x4C0000, 0x100, bitmap 2 fun n => !s.flag (Reg.cgStatus n) 7, no),
   (0x50, 1, 0x500000, 0, 0, no), (0x58, 1, 0x580000, 0, 0, no)]

/-- The entries listed at present: none in BOOTING, four kinds in RECOVERY (R321). -/
def State.discListed (s : State) : List (Nat × Nat × Nat × Nat × Nat × Nat) :=
  match s.discState with
  | 0 => []
  | 2 => s.discEntries.filter fun e => e.1 == 0x01 || e.1 == 0x05 || e.1 == 0x09 || e.1 == 0x58
  | _ => s.discEntries

/-- Bytes of one entry (R320). -/
def discEntryBytes (e : Nat × Nat × Nat × Nat × Nat × Nat) : List Byte :=
  match e with
  | (ty, cnt, base, stride, dis, bc) =>
    leBytes 2 ty ++ [1, 0] ++ leBytes 2 cnt ++ leBytes 2 0 ++ leBytes 4 base ++ leBytes 4 stride ++ leBytes 4 dis ++ leBytes 4 bc ++ leBytes 8 0

/-- Bytes of the header (R319). -/
def State.discHeader (s : State) : List Byte :=
  let ready := s.ozmel.ready
  leBytes 4 0x5444444B ++ [1, 0] ++ leBytes 2 s.discListed.length ++ leBytes 1 s.discState ++ leBytes 1 s.fuses.grade ++
  leBytes 1 (boolNat s.fuses.industrial) ++ leBytes 1 (s.fld Reg.rstBoot 1 0) ++ leBytes 4 s.fuses.arrayOff.toNat ++
  leBytes 4 (s.reg Reg.arrayRuntimeMap).toNat ++ leBytes 4 (if ready then s.ozmel.version.toNat else 0) ++
  leBytes 2 (if ready then s.fld Reg.dramStatus 9 0 else 0) ++ leBytes 2 (s.fld Reg.fabRated 15 0) ++ List.replicate 36 0

/-- The Discovery Table word at an offset (R319-R321). In SAFE the header reads as on entry, with STATE 3. -/
def State.discWord (s : State) (off : Nat) : Word :=
  if s.fabric.safe then
    let w := wordGet s.fabric.safeHeader (off / 4)
    if off / 4 = 2 then setBits w 7 0 3 else w
  else
    BitVec.ofNat 32 (fieldAt (s.discHeader ++ (s.discListed.map discEntryBytes).flatten) off 4)

/-! ### Pewter views (R276, R286) -/

/-- Buffer size of a pool (R276). -/
def poolSize (k : Nat) : Nat := 256 * 4 ^ k

/-- Allocated: some slot names a partition. -/
def PBuf.live (b : PBuf) : Bool := b.slots.any (·.isSome)

/-- The partition occupies a slot. -/
def PBuf.owns (b : PBuf) (p : Nat) : Bool := b.slots.any fun x => x == some p

/-- Buffers of a pool that have an owner. -/
def State.poolLive (s : State) (k : Nat) : List (Nat × PBuf) :=
  s.bufs.filter fun e => e.1 / 2 ^ 24 == k && e.2.live

/-- Buffers of a pool in which a partition occupies at least one slot (PW_QHELD). -/
def State.poolHeld (s : State) (k p : Nat) : Nat := ((s.poolLive k).filter fun e => e.2.owns p).length

/-- PW_CTRL.POOL_EN of a pool. -/
def State.poolEn (s : State) (k : Nat) : Bool := s.flag Reg.pwCtrl k

/-- Free buffers of an enabled pool (PW_POOLk_FREE). -/
def State.poolFree (s : State) (k : Nat) : Nat :=
  if s.poolEn k then s.fld (Reg.pwPoolCount k) 23 0 - (s.poolLive k).length else 0

/-! ### Timebase views -/

/-- F of TB_FREQ in 2^-12 ppb, from the correction in 2^-32 ppb; a value between two codes is rounded freely. -/
def freqCode (f : Int) : Int :=
  if f % 2 ^ 20 = 0 then f / 2 ^ 20 else if Config.roundUpF f then f / 2 ^ 20 + 1 else f / 2 ^ 20

/-- The servo is in charge: servo mode and EN = 1 (R338). -/
def State.servoOn (s : State) : Bool := s.flag Reg.tbCtrl 0 && !s.flag Reg.tbCtrl 1

/-- F as it is applied: 0 in slew mode (R340) and while EN = 0 (R339, FREERUN). -/
def State.freqF (s : State) : Int := if s.servoOn then freqCode s.tb.f else 0

/-- TB_STATUS.STATE of a servo state (R339). -/
def ServoState.code : ServoState → Nat
  | .freerun => 0
  | .acquire => 1
  | .pullin => 2
  | .locked => 3
  | .holdover => 4

/-- Entries held by a capture input. -/
def State.capList (s : State) (k : Nat) : List Capture := listAt [] s.tb.caps k

/-! ### Soot views -/

/-- SOOT_RATE word of a code: PER_S 0xFFFF for kind 0x50, 16 otherwise, BURST 16 (R398). -/
def rateDefault (code : Nat) : Word := if code % 256 = 0x50 then 0x0010FFFF else 0x00100010

/-- SOOT_RATE word in force for a code. -/
def State.sootRate (s : State) (code : Nat) : Word := sparseGet (rateDefault code) s.soot.rates code

/-! ### Partition views -/

/-- A word of a partition's table: the shares and the Shades are tables 5 and 6 (R251). -/
def Part.word (x : Part) (shadow : Bool) (t w : Nat) : Word :=
  if w < tableWords t then
    match t with
    | 5 => BitVec.ofNat 32 (listAt 0 x.shares (2 * w) + 65536 * listAt 0 x.shares (2 * w + 1))
    | 6 => BitVec.ofNat 32 (let sh := listAt Shade.reset x.shades (w / 2); if w < 14 then (if w % 2 = 0 then sh.rate else sh.depth) else 0)
    | _ => tableWord (if shadow then x.shadow else x.active) t w
  else 0

/-- The word that PT_DATA presents (R274). -/
def State.ptWord (s : State) : Word :=
  let sel := s.reg Reg.ptSel
  (s.part (bitsOf sel 21 16)).word (bitOf sel 31) (bitsOf sel 26 24) (bitsOf sel 8 0)

/-- The window table word that WIN_LO (0) or WIN_HI (1) presents (R44). -/
def State.winWord (s : State) (half : Nat) : Word :=
  let sel := s.reg Reg.winSel
  let p := s.part (bitsOf sel 13 8)
  tableWord (if bitOf sel 31 then p.shadow else p.active) 0 (2 * bitsOf sel 5 0 + half)

/-- RQ_SEL with the owner of the selected ring (R230). -/
def State.rqSelWord (s : State) : Word :=
  let w := s.reg Reg.rqSel
  match s.ringOwner (bitsOf w 13 0) with
  | none => setBits w 30 16 0
  | some (p, f) => setBits (setBits (setBits w 30 30 1) 29 22 f) 21 16 p

/-! ### The views by block -/

/-- Views of the Global, reset, timebase, Soot and queue blocks; no Global register holds the grade (DESIGN CHOICE, log entry 148). -/
def State.viewLow (s : State) (off : Nat) : Option Word :=
  if off < 0x10000 then some (s.discWord off)
  else if off = Reg.arrayFuseMap then some s.fuses.arrayOff
  else if off = Reg.rstCause then
    some (setBits (s.reg off) 3 3 (boolNat ((List.range 8).any fun w => decide (s.reg (Reg.flrCause w) ≠ 0))))
  else if off = Reg.tbTimeNs then some s.tb.latchNs
  else if off = Reg.tbTimeSl then some s.tb.latchSl
  else if off = Reg.tbTimeSh then some s.tb.latchSh
  else if off = Reg.tbIncrLo then some (s.tb.incr.setWidth 32)
  else if off = Reg.tbIncrHi then some (BitVec.ofNat 32 (s.tb.incr.toNat / 2 ^ 32))
  else if off = Reg.tbStatus then some (setBits (s.reg off) 31 29 (if s.servoOn then s.tb.servo.code else 0))
  else if off = Reg.tbSlew then some (BitVec.ofNat 32 (wrapInt 32 (s.tb.slewRem.tdiv (2 ^ 32))))
  else if off = Reg.tbFreq then some (BitVec.ofNat 32 (wrapInt 32 s.freqF))
  else if 0x40200 ≤ off ∧ off < 0x40280 then
    let k := (off - 0x40200) / 16
    let l := s.capList k
    match off % 16 with
    | 0 => some (setBits (s.reg off) 2 0 l.length)
    | 4 => some (match l with | [] => 0 | c :: _ => BitVec.ofNat 32 (2 ^ 31 * boolNat c.fall + c.ns))
    | 8 => some (match l with | [] => 0 | c :: _ => BitVec.ofNat 32 c.sec)
    | _ => none
  else if off = Reg.sootRate then some (s.sootRate (s.fld Reg.sootRsel 15 0))
  else if off = Reg.sootTcfg then some (wordGet s.soot.trigs (s.fld Reg.sootTsel 5 0 * 16))
  else if Reg.sootTreg 0 ≤ off ∧ off < Reg.sootTreg 8 then
    some (wordGet s.soot.trigs (s.fld Reg.sootTsel 5 0 * 16 + 1 + (off - Reg.sootTreg 0) / 4))
  else if Reg.sootRdata 0 ≤ off ∧ off < Reg.sootRdata 16 then some (listAt 0 s.soot.latched ((off - Reg.sootRdata 0) / 4))
  else if off = Reg.rqSel then some s.rqSelWord
  else if Reg.rqCtx 0 ≤ off ∧ off < Reg.rqCtx 8 then
    some (listAt 0 (s.ring (s.fld Reg.rqSel 13 0)).ctx ((off - Reg.rqCtx 0) / 4))
  else none

/-- Views of the Pewter, partition, mailbox, fabric and PCIe blocks. -/
def State.viewMid (s : State) (off : Nat) : Option Word :=
  if 0x70018 ≤ off ∧ off < 0x70098 ∧ off % 16 = 8 then some (BitVec.ofNat 32 (s.poolFree ((off - 0x70018) / 16)))
  else if off = Reg.pwQheld then some (BitVec.ofNat 32 (s.poolHeld (s.fld Reg.pwQsel 10 8) (s.fld Reg.pwQsel 5 0)))
  else if off = Reg.winLo then some (s.winWord 0)
  else if off = Reg.winHi then some (s.winWord 1)
  else if off = Reg.ptData then some s.ptWord
  else if off = Reg.mbD2hCtl then some (setBits (s.reg off) 5 0 (s.mailbox 0).notifs.length)
  else if Reg.fabRateLn 0 ≤ off ∧ off < Reg.fabRateLn 16 then some (s.rateWord (lnDom ((off - Reg.fabRateLn 0) / 4)) off)
  else if Reg.fabRateSm 0 ≤ off ∧ off < Reg.fabRateSm 12 then some (s.rateWord (smDom ((off - Reg.fabRateSm 0) / 4)) off)
  else if Reg.ageRing 0 ≤ off ∧ off < Reg.ageRing 48 then some (s.ageWord ((off - Reg.ageRing 0) / 4))
  else if Reg.ageBase 0 ≤ off ∧ off < Reg.ageBase 48 then
    some (sparseGet s.fuses.ageDefault s.fuses.ageBase ((off - Reg.ageBase 0) / 4))
  else if 0x540000 ≤ off ∧ off < 0x548000 then some ((s.func 0).msixWord ((off - 0x540000) / 4))
  else if 0x548000 ≤ off ∧ off < 0x548100 then
    some (BitVec.ofNat 32 (bitmap 32 fun i => (s.func 0).pba.contains ((off - 0x548000) * 8 + i)))
  else if off = Reg.fanStat then some (BitVec.ofNat 32 (2 ^ 24 * (s.ozmel.fanDuty / 1000000).toNat))
  else none

/-- ARRx_STATE of LN_STATUS: off or fused off, idle, running, runtime-disabled (R98) (DEDUCED, log entry 140). -/
def State.arrState (s : State) (n a : Nat) : Nat :=
  let b := 2 * n + a
  if bitOf s.fuses.arrayOff b then 0
  else if s.flag Reg.arrayRuntimeMap b then 3
  else if !s.domOn (arrDom n (a == 1)) then 0
  else if (sparseGet Lantern.reset s.lanterns n).ctxs.any fun c => c.issued.any fun d => d.done.isNone && d.runs.contains a then 2 else 1

/-- The word of LN_SEQq (R146). -/
def State.lnSeqWord (s : State) (n q : Nat) : Word :=
  let c := listAt SeqCtx.reset (sparseGet Lantern.reset s.lanterns n).ctxs q
  let waits := s.rmos.any fun r => r.kind == .wait && !r.done && (match r.desc with
    | some (m, k, _) => m.val == n && k.val == q
    | none => false)
  BitVec.ofNat 32 (2 ^ 31 * boolNat c.cmd.isSome + 2 ^ 30 * boolNat c.err.isSome + 2 ^ 29 * boolNat waits + (c.lastPc - c.start) / 32 % 2 ^ 24)

/-- The word of LN_SEQSTq (R146). -/
def State.lnSeqstWord (s : State) (n q : Nat) : Word :=
  match (listAt SeqCtx.reset (sparseGet Lantern.reset s.lanterns n).ctxs q).err with
  | none => 0
  | some e => BitVec.ofNat 32 (2 ^ 24 * e.status.code + 2 ^ 16 * (e.ty % 256) + e.tag % 2 ^ 16)

/-- The word of LN_QUOTAq (R90). -/
def State.lnQuotaWord (s : State) (n q : Nat) : Word :=
  match s.quotaOf n q with
  | none => 0
  | some (p, w) => BitVec.ofNat 32 (2 ^ 31 + p * 2 ^ 8 + bitsOf w 5 4 * 2 ^ 4 + bitsOf w 2 0)

/-- Views of the block of Lantern n (R69, R98, R146). -/
def State.viewLantern (s : State) (n o : Nat) : Option Word :=
  let l := sparseGet Lantern.reset s.lanterns n
  let sel := s.reg (Reg.lnQsel n)
  let pair := sparseGet (0, 0) l.clips (bitsOf sel 5 4 * 16 + bitsOf sel 3 0)
  if o = 0 then
    some (setBits (setBits (s.reg (Reg.lnCtrl n)) 1 1 (if bitOf s.fuses.arrayOff (2 * n) then 0 else s.fld (Reg.lnCtrl n) 1 1)) 2 2
      (if bitOf s.fuses.arrayOff (2 * n + 1) then 0 else s.fld (Reg.lnCtrl n) 2 2))
  else if o = 4 then
    some (setBits (setBits (setBits (s.reg (Reg.lnStatus n)) 5 4 (s.arrState n 1)) 3 2 (s.arrState n 0)) 0 0
      (boolNat (l.ctxs.any fun c => c.issued.any fun d => d.done.isNone)))
  else if 0x10 ≤ o ∧ o < 0x20 then some (s.lnQuotaWord n ((o - 0x10) / 4))
  else if 0x40 ≤ o ∧ o < 0x60 then some (if o % 8 = 0 then s.lnSeqWord n ((o - 0x40) / 8) else s.lnSeqstWord n ((o - 0x40) / 8))
  else if o = 0x804 then some (BitVec.ofNat 32 pair.1)
  else if o = 0x808 then some (BitVec.ofNat 32 pair.2)
  else none

/-- Views of the Lantern, Smelter, post-processing and peripheral blocks. -/
def State.viewHigh (s : State) (off : Nat) : Option Word :=
  if 0x100000 ≤ off ∧ off < 0x200000 then s.viewLantern ((off - 0x100000) / 0x10000) (off % 0x10000)
  else if 0x200000 ≤ off ∧ off < 0x2C0000 ∧ off % 0x10000 = 4 then
    let n := (off - 0x200000) / 0x10000
    let homed := s.decs.filter fun e => e.2.home == n
    some (setBits (setBits (setBits (s.reg off) 30 30 (boolNat (sparseGet Smelter.reset s.smelters n).pic.isSome)) 29 29
      (boolNat (homed.any fun e => e.2.susp.isSome))) 23 16 homed.length)
  else if 0x300000 ≤ off ∧ off < 0x340000 ∧ off % 0x10000 = 4 then
    some (setBits (s.reg off) 31 31 (boolNat (s.cmds.any fun c =>
      c.opcode == 0x20 && c.begun && c.phase == .issued && c.members == [(off - 0x300000) / 0x10000])))
  else if 0x340000 ≤ off ∧ off < 0x380000 ∧ off % 0x10000 = 0xC then
    let x := sparseGet Quad.reset s.quads ((off - 0x340000) / 0x10000)
    let done := match (x.copies.drop (1 - x.active)).head? with
      | some c => c.complete
      | none => true
    some (BitVec.ofNat 32 (2 ^ 31 * (x.active % 2) + 2 ^ 30 * boolNat (!done) + 2 ^ 16 * (x.overflow.length % 512) + x.tracks.length % 8192))
  else if off = Reg.uartStat then
    some (setBits (setBits (setBits (s.reg off) 20 16 s.periph.uartRx.length) 12 8 s.periph.uartTx.length) 5 5
      (boolNat s.periph.uartSending.isSome))
  else none

/-- The views of all blocks. -/
def State.viewOf (s : State) (off : Nat) : Option Word :=
  match s.viewLow off with
  | some w => some w
  | none =>
    match s.viewMid off with
    | some w => some w
    | none => s.viewHigh off

/-- The word a register presents, outside the broadcast windows. -/
def State.peek (s : State) (off : Nat) : Word :=
  match s.viewOf off with
  | some w => w
  | none => s.reg off

/-- The word that a 32-bit read at an offset presents: the OR over the selected units in a broadcast window (R16, R98, R210). -/
def State.peekAny (s : State) (off : Nat) : Word :=
  if 0xF0000 ≤ off ∧ off < 0x100000 ∧ off ≠ Reg.lnBcastMask then
    (List.range 16).foldl (fun w n => if s.flag Reg.lnBcastMask n && !s.flag (Reg.lnStatus n) 31 then w ||| s.peek (0x100000 + 0x10000 * n + (off - 0xF0000)) else w) 0
  else if 0x2F0000 ≤ off ∧ off < 0x300000 ∧ off ≠ Reg.smBcastMask then
    (List.range 12).foldl (fun w n => if s.flag Reg.smBcastMask n then w ||| s.peek (0x200000 + 0x10000 * n + (off - 0x2F0000)) else w) 0
  else s.peek off

/-- A block answers in the present state: all of them in READY and BOOTING, four kinds in RECOVERY, three in SAFE (R321). -/
def State.blockAnswers (s : State) (off : Nat) : Bool :=
  match s.discState with
  | 2 => decide (off < 0x20000) || decide (0x50000 ≤ off ∧ off < 0x60000) || decide (0x90000 ≤ off ∧ off < 0xA0000) ||
         decide (0x540000 ≤ off ∧ off < 0x550000) || decide (0x580000 ≤ off ∧ off < 0x590000)
  | 3 => s.fabric.refclk && (decide (off < 0x30000) || decide (0x50000 ≤ off ∧ off < 0x60000))
  | _ => true

/-- The BARs of the PF answer: no FLR of it is in progress, and it is in D0 (R325, R327). -/
def State.pfAnswers (s : State) : Bool := !(s.func 0).flr && !s.pcie.d3

/-- What a write to a register block of the PF leads to: t, or nothing where the block or the PF does not answer (R321, R325). -/
def State.pfReach (s : State) (off : Nat) (t : State) : State := if s.blockAnswers off && s.pfAnswers then t else s

/-- What a read of a register block of the PF leads to; a block that does not answer reads 0 (R321). -/
def State.pfRead (s : State) (off : Nat) (t : State) : State :=
  if !s.pfAnswers then s
  else if s.blockAnswers off then t
  else { s with outs := { s.outs with busData := 0 } }

end Sys2Proof.Machine
end

