-- ==== Sys2Proof/Machine/Soot.lean ====
section
/-!
DEFINITION. The event recorder Soot (R395-R404): an event reaching it, its record, and the record latch;
and register writes under the access codes of R14 with their lock violations (R15), which are recorded in it.
-/

namespace Sys2Proof.Machine

/-- Source bytes of event codes (R320, R396). -/
def srcGlobal : Nat := 0x01

/-- An enabled trigger word matches a code (R397). -/
def trigMatches (w : Word) (code : Nat) : Bool :=
  bitOf w 31 && (if bitOf w 29 then decide (bitsOf w 15 8 = code / 256) else decide (bitsOf w 15 0 = code))

/-- The register that a trigger captures: bits [1:0] of the offset ignored; 0 outside the register space and in a broadcast
window (R397). -/
def State.sootCapture (s : State) (off : Nat) : Word :=
  let o := off / 4 * 4
  if 0x4000000 ≤ o ∨ (0xF0000 ≤ o ∧ o < 0x100000) ∨ (0x2F0000 ≤ o ∧ o < 0x300000) then 0 else s.peek o

/-- Registers that trigger k captures: NREG of them, 9-15 acting as 8. -/
def State.sootRegs (s : State) (k : Nat) : List Word :=
  (List.range (min 8 (bitsOf (wordGet s.soot.trigs (k * 16)) 27 24))).map fun j =>
    s.sootCapture (bitsOf (wordGet s.soot.trigs (k * 16 + 1 + j)) 23 0)

/-- FIRED set on every trigger that matches a code. -/
def sootFire (t : WordTab) (code : Nat) : WordTab :=
  (List.range 64).foldl (fun t k => if trigMatches (wordGet t (k * 16)) code then wordSet t (k * 16) (setBits (wordGet t (k * 16)) 28 28 1) else t) t

/-- The tokens of a code at present, in 10^-9 records (R398). -/
def State.sootTokens (s : State) (code : Nat) : Nat :=
  let r := s.sootRate code
  let depth := 1000000000 * max 1 (bitsOf r 23 16)
  match tabFind s.soot.buckets code with
  | none => depth
  | some (tok, last) => min depth (tok + bitsOf r 15 0 * (s.nowNs - last))

/-- An event of a code reaches Soot: triggers fire, then the enable, the token bucket and the queue decide (R397-R399)
(DEDUCED, log entry 38; DESIGN CHOICE, log entry 39). -/
def State.sootEvent (s : State) (code : Nat) (arg : Dword) (part : Option Nat) : State :=
  let s1 := { s with soot := { s.soot with trigs := sootFire s.soot.trigs code } }
  if s.flag Reg.sootCtrl 0 = false then s1.bump Reg.sootDrop 15 0 1
  else
    let per := bitsOf (s.sootRate code) 15 0
    let tok := s.sootTokens code
    if per ≠ 0xFFFF ∧ (per = 0 ∨ tok < 1000000000) then
      let s2 := { s1 with soot := { s1.soot with suppressed := sparseSet 0 s1.soot.suppressed code (min 0xFFFF (sparseGet 0 s1.soot.suppressed code + 1)) } }
      s2.bump Reg.sootDrop 15 0 1
    else if 64 ≤ s.soot.queue.length then s1.bump Reg.sootDrop 31 16 1
    else
      let k := (List.range 64).find? fun k => trigMatches (wordGet s.soot.trigs (k * 16)) code
      let a := if s.fabric.refclk then (arg, s1) else s1.drawFree
      let s2 := a.2
      let ev : SootEvent := { code := code, arg := a.1, part := part, sec := s.tb.sec, ns := s.tbNs, frozen := !s.fabric.refclk, trig := k,
                              regs := (match k with | none => [] | some k => s.sootRegs k),
                              suppressed := sparseGet 0 s.soot.suppressed code }
      { s2 with soot := { s2.soot with
          queue := s2.soot.queue ++ [ev]
          buckets := if per = 0xFFFF then s2.soot.buckets else tabErase s2.soot.buckets code ++ [(code, (tok - 1000000000, s.nowNs))]
          suppressed := sparseSet 0 s2.soot.suppressed code 0 } }

/-- Bytes 0-59 of a record (R395). -/
def sootBody (seq : Word) (e : SootEvent) : List Byte :=
  leBytes 4 e.ns ++ leBytes 4 e.sec ++ leBytes 4 seq.toNat ++ leBytes 2 e.code ++
  leBytes 1 (match e.trig with | none => 0xFF | some k => k) ++ leBytes 1 (boolNat e.frozen * 128 + e.regs.length) ++
  leBytes 8 e.arg.toNat ++ wordsBytes ((e.regs ++ List.replicate 8 0).take 8) ++ leBytes 2 e.suppressed ++
  leBytes 1 (match e.part with | none => 0 | some p => 128 + p) ++ leBytes 1 0

/-- The 64-byte record of an event (R395). -/
def sootRecord (seq : Word) (e : SootEvent) : List Byte := sootBody seq e ++ leBytes 4 (crc32c (sootBody seq e))

/-- The words of a byte list. -/
def bytesWords : List Byte → List Word
  | a :: b :: c :: d :: t => BitVec.ofNat 32 (leNat [a, b, c, d]) :: bytesWords t
  | _ => []

/-- A word table with consecutive words written from a key. -/
def wordsWrite (t : WordTab) (k : Nat) : List Word → WordTab
  | [] => t
  | w :: r => wordsWrite (wordSet t k w) (k + 1) r

/-- SOOT_RECORD_WRITE: the oldest queued event is written to slot SEQ mod 4,096; a ONCE trigger that supplied its registers
disarms (R395, R397, R399). -/
def execSootRecordWrite (s : State) : Host.Outcome State Fault Refusal :=
  match s.soot.queue with
  | [] => .next s
  | e :: rest =>
    let seq := s.reg Reg.sootHead
    let trigs := match e.trig with
      | none => s.soot.trigs
      | some k =>
        let w := wordGet s.soot.trigs (k * 16)
        if bitOf w 30 then wordSet s.soot.trigs (k * 16) (setBits w 31 31 0) else s.soot.trigs
    let s1 := { s with soot := { s.soot with
      queue := rest
      trigs := trigs
      ring := wordsWrite s.soot.ring (seq.toNat % 4096 * 16) (bytesWords (sootRecord seq e)) } }
    .next (s1.setReg Reg.sootHead (seq + 1))

/-- The words of the selected record, latched (SOOT_RDATA0). -/
def State.sootLatch (s : State) : State :=
  { s with soot := { s.soot with
      latched := (List.range 16).map fun w => wordGet s.soot.ring (s.fld Reg.sootRdsel 11 0 * 16 + w) } }

/-- SOOT_RDATA_LATCH: a read of SOOT_RDATA0 latches the whole selected record and returns its first word (R403). -/
def execSootRdataLatch (s : State) : Host.Outcome State Fault Refusal :=
  let s1 := s.sootLatch
  .next (s.pfRead (Reg.sootRdata 0) { s1 with outs := { s1.outs with busData := ((listAt 0 s1.soot.latched 0).setWidth 64) } })

/-- A lock violation in any block: ERR_STATUS.LOCK_VIOL and one event of kind 0x01 from the block (R15). -/
def State.lockViolation (s : State) (src off : Nat) : State :=
  (s.setFlag Reg.errStatus 0 true).sootEvent (src * 256 + 0x01) (BitVec.ofNat 64 off) none

/-- An ignored write: one event of kind 0x02 from the block (R396). -/
def State.ignoredWrite (s : State) (src off : Nat) : State := s.sootEvent (src * 256 + 0x02) (BitVec.ofNat 64 off) none

/-! ### Writes under the field access codes (R14, R15) -/

/-- The LOCK bit of a register's block is set. -/
def State.lockedKind (s : State) (k : RegKind) : Bool :=
  match k.lock with
  | some (o, b) => s.flag o b
  | none => false

/-- A register word after a write: RW and unlocked RWL fields take the value, a 1 clears a W1C bit, and all else stays (R14). -/
def RegKind.merge (k : RegKind) (locked : Bool) (w v : Word) : Word :=
  k.fields.foldl (fun r f => match f.acc with
    | .rw => setBits r f.hi f.lo (bitsOf v f.hi f.lo)
    | .rwl => if locked then r else setBits r f.hi f.lo (bitsOf v f.hi f.lo)
    | .w1c => r &&& ~~~(setBits 0 f.hi f.lo (bitsOf v f.hi f.lo))
    | .ro => r
    | .wo1 => r
    | .rc => r
    | .wo => r) w

/-- The write carries a different value for a locked field (R15). -/
def RegKind.violates (k : RegKind) (locked : Bool) (w v : Word) : Bool :=
  locked && k.fields.any fun f => f.acc == .rwl && decide (bitsOf v f.hi f.lo ≠ bitsOf w f.hi f.lo)

/-- The Soot source of a register block: its Discovery TYPE (R320, R396). -/
def srcOf (off : Nat) : Nat :=
  let b := off / 0x10000
  if 0x10 ≤ b ∧ b < 0x20 then 0x10
  else if 0x20 ≤ b ∧ b < 0x30 then 0x20
  else if 0x30 ≤ b ∧ b < 0x34 then 0x30
  else if 0x34 ≤ b ∧ b < 0x38 then 0x34
  else if 0x40 ≤ b ∧ b < 0x48 then 0x40
  else b

/-- A write of v to the register at off, whose present word is w and whose new word goes where put stores it. The event of a violation
comes after the word, so that a W1C bit it sets stays set (R16). -/
def State.fieldWrite (s : State) (off : Nat) (w v : Word) (put : State → Word → State) : State :=
  match regKindOf off with
  | none => s
  | some k =>
    let l := s.lockedKind k
    let s1 := put s (k.merge l w v)
    if k.violates l w v then s1.lockViolation (srcOf off) off else s1

/-- A write to a register that the register file holds. -/
def State.plainWrite (s : State) (off : Nat) (v : Word) : State := s.fieldWrite off (s.reg off) v fun s w => s.setReg off w

end Sys2Proof.Machine
end

