-- ==== Sys2Proof/Machine/Mail.lean ====
section
/-!
DEFINITION. What Ozmel sends of itself: notifications of the mailboxes and entries of the trouble log (R349, R352, R353, R363).
-/

namespace Sys2Proof.Machine

/-- A message: header and payload (R349). -/
def mbMessage (id seq status : Nat) (payload : List Byte) : List Byte :=
  leBytes 2 0x4B44 ++ [1, 0] ++ leBytes 2 id ++ leBytes 2 seq ++ leBytes 2 payload.length ++ leBytes 1 status ++ List.replicate 5 0 ++ payload

/-- A notification is queued for a function; one that finds 32 queued is dropped and counted (R352). -/
def State.notify (s : State) (f id : Nat) (payload : List Byte) : State :=
  let m := s.mailbox f
  if m.notifs.length < 32 then s.setMailbox f { m with notifs := m.notifs ++ [mbMessage id 0 0 payload] }
  else s.setMailbox f { m with lost := m.lost + 1 }

/-- Once a queue entry is free, one LOST notification carries the number dropped (R352). -/
def State.notifyLost (s : State) (f : Nat) : State :=
  let m := s.mailbox f
  if m.lost ≠ 0 ∧ m.notifs.length < 32 then
    s.setMailbox f { m with notifs := m.notifs ++ [mbMessage 0x4004 0 0 (leBytes 4 m.lost)], lost := 0 }
  else s

/-- The bytes of a trouble-log entry (R363). -/
def LogEntry.bytes (e : LogEntry) : List Byte :=
  leBytes 8 (2 ^ 32 * (e.sec % 2 ^ 32) + e.ns) ++ leBytes 4 e.seq ++ leBytes 2 e.code ++ leBytes 1 e.severity ++ leBytes 1 e.boot ++ e.data

/-- A new entry of the trouble log, with the repeats of its code since the previous one; the log holds 4,096 (R363). -/
def State.logEntry (s : State) (code severity : Nat) (data : List Byte) (repeats : Nat) : State :=
  let o := s.ozmel
  let e : LogEntry := { sec := s.tb.sec, ns := s.tbNs, seq := o.logSeq % 2 ^ 32, code := code, severity := severity, boot := o.bootCount % 256,
                        data := (data ++ List.replicate 12 0).take 12 ++ leBytes 4 repeats, saved := severity == 3 }
  let l := o.log ++ [e]
  let s1 : State := { s with ozmel := { o with log := l.drop (l.length - 4096), logSeq := o.logSeq + 1,
                                               logRepeat := tabPut o.logRepeat code (0, s.nowNs) } }
  if 2 ≤ severity then s1.notify 0 0x4003 e.bytes else s1

/-- An entry for the trouble log: a code that recurs within a second is counted instead; ERROR and FATAL entries are notified to the
PF, and a FATAL one goes to flash at once (R353, R363). -/
def State.troubleLog (s : State) (code severity : Nat) (data : List Byte) : State :=
  match tabFind s.ozmel.logRepeat code with
  | none => s.logEntry code severity data 0
  | some (n, t) =>
    if s.nowNs < t + 1000000000 then
      { s with ozmel := { s.ozmel with logRepeat := tabPut s.ozmel.logRepeat code (n + 1, t) } }
    else s.logEntry code severity data n

end Sys2Proof.Machine
end

