-- ==== Sys2Proof/Machine/RunCore.lean ====
section
/-!
DEFINITION. What the memories and the sequencers share: Lanterns and their contexts, array maps, the faults of a Lantern, its
quarantine, and how a RUN takes errors and ends (R54, R80, R94-R98, R133, R246, R257).
-/

namespace Sys2Proof.Machine

/-! ### Lanterns -/

def State.lantern (s : State) (n : Nat) : Lantern := sparseGet Lantern.reset s.lanterns n
def State.setLantern (s : State) (n : Nat) (l : Lantern) : State := { s with lanterns := sparseSet Lantern.reset s.lanterns n l }
def State.updLantern (s : State) (n : Nat) (f : Lantern → Lantern) : State := s.setLantern n (f (s.lantern n))
def State.ctx (s : State) (n q : Nat) : SeqCtx := listAt SeqCtx.reset (s.lantern n).ctxs q
def State.updCtx (s : State) (n q : Nat) (f : SeqCtx → SeqCtx) : State :=
  s.updLantern n fun l => { l with ctxs := listUpd l.ctxs q f }

/-! ### Arrays (R80, R94, R98) -/

/-- Bit of an array in the two array maps. -/
def arrBit (n a : Nat) : Nat := 2 * n + a

/-- The array is fused off or disabled at runtime. -/
def State.arrOff (s : State) (n a : Nat) : Bool :=
  bitOf s.fuses.arrayOff (arrBit n a) || s.flag Reg.arrayRuntimeMap (arrBit n a)

/-- The enabled-array map of the device (R98). -/
def State.enabledMap (s : State) : Word := ~~~(s.fuses.arrayOff ||| s.reg Reg.arrayRuntimeMap)

/-- Bits of the arrays of some Lanterns. -/
def lanternMask (ms : List Nat) : Word := ms.foldl (fun w n => w ||| BitVec.ofNat 32 (3 * 4 ^ n)) 0

/-- Some arrays join or leave the enabled-array map: the runs in progress that involve them span the change (R95, R257). -/
def State.mapMoved (s : State) (mask : Word) : State :=
  { s with cmds := s.cmds.map fun c =>
      if (c.opcode == 0x30 || c.opcode == 0x31) && c.mapMask &&& mask != 0 then { c with mapChanged := true } else c }

/-! ### The end of a RUN (R133, R246) -/

/-- The command of a RUN takes its first error (R133). -/
def State.runError (s : State) (id : Nat) (st : Status) (tag : Nat) : State :=
  s.updCmd id fun c => if c.status = .ok then { c with status := st, detail := BitVec.ofNat 32 tag } else c

/-- A context still runs the command. -/
def State.runsOn (s : State) (id : Nat) : Bool :=
  (List.range 16).any fun n => (s.lantern n).ctxs.any fun c => c.cmd == some id

/-- DETAIL of a RUN or of a RUN_CHAIN with k stages completed (R133, R240). -/
def runDetail (c : Cmd) (k : Nat) : Word :=
  if c.opcode = 0x31 then BitVec.ofNat 32 (k % 8 + 65536 * (c.detail.toNat % 65536)) else BitVec.ofNat 32 (c.detail.toNat % 65536)

/-- Stages of a RUN_CHAIN; a RUN has one. -/
def Cmd.stages (c : Cmd) : Nat := if c.opcode = 0x31 then c.par 0 1 % 8 else 1

/-- The present stage of a RUN has ended on every member: the next stage becomes due, or the command ends (R133, R246). -/
def State.stageDone (s : State) (id : Nat) : State :=
  s.updCmd id fun c =>
    if c.phase = .active then
      let st := if c.status = .ok ∧ (c.det && c.mapChanged) = true then Status.detMapChanged else c.status
      if st.success then
        (if c.aux + 1 < c.stages then { c with phase := .issued, aux := c.aux + 1, members := [] }
         else { c with phase := .ended, status := st, detail := runDetail c (c.aux + 1) })
      else { c with phase := .ended, status := st, detail := runDetail c c.aux }
    else c

/-! ### Faults and quarantine (R54, R94, R96) -/

/-- LN_FAULT: the first fault is kept, k faults are counted. -/
def State.lnFault (s : State) (n kind arr dpu k : Nat) : State :=
  let s1 := if s.flag (Reg.lnFault n) 31 then s
    else s.setFld (Reg.lnFault n) 31 8 (2 ^ 23 + 2 ^ 20 * kind + 2 ^ 19 * arr + dpu * 2 ^ 8)
  s1.bump (Reg.lnFault n) 7 0 k

/-- The tickets that a Lantern holds return to the re-issue slots of their counters (R115, R257). -/
def State.ticketsBack (s : State) (n : Nat) : State :=
  let ds := ((s.lantern n).ctxs.map fun c => c.issued).flatten
  { s with counters := s.counters.map fun k =>
      { k with reissue := k.reissue ++ ((ds.filter fun d => d.counter == some k.id).map fun d => d.tickets).flatten } }

/-- A Lantern that stops: the RUNs of its contexts take UNIT_FAULT and lose the member, commands that it performs for a Dispatcher
end with UNIT_FAULT, its tickets go back and its RMOs are discarded; all state of its logic domain is lost. -/
def State.dropLantern (s : State) (n : Nat) : State :=
  let ids := (s.lantern n).ctxs.filterMap fun c => c.cmd
  let s1 := s.ticketsBack n
  let s2 : State := { s1 with
    lanterns := sparseSet Lantern.reset s1.lanterns n Lantern.reset
    rmos := s1.rmos.filter fun r => match r.issuer with | .lantern m => m.val != n | _ => true
    cmds := s1.cmds.map fun c =>
      if c.phase = .active ∧ c.members.contains n = true ∧ c.opcode = 0x38 then
        { c with phase := .ended, status := .unitFault, detail := 0 } else c }
  ids.foldl (fun s id =>
    let s1 := s.runError id .unitFault 0
    if s1.runsOn id then s1 else s1.stageDone id) s2

/-- Quarantine of a Lantern: QUAR, its domains behind the wrapper and off, its outstanding work ended (R54, R96, R382). -/
def State.quarantineLantern (s : State) (n kind : Nat) : State :=
  if s.flag (Reg.lnStatus n) 31 then s
  else
    let s1 := (((s.setFlag (Reg.lnStatus n) 31 true).lnFault n kind 0 0 1).mapMoved (lanternMask [n])).dropLantern n
    let s2 := (List.range 5).foldl (fun s i => s.setDom (5 * n + i) 0) s1
    s2.sootEvent 0x1012 (BitVec.ofNat 64 n) none

end Sys2Proof.Machine
end

