-- ==== Sys2Proof/Machine/Arbiter.lean ====
section
/-!
DEFINITION. Shares and engine time: the choice of a partition at a unit's decision point, and the time and steps charged to it
(R267-R270).
-/

namespace Sys2Proof.Machine

/-- Number of a unit among all arbitrated units. -/
def arbCode : ArbUnit → Nat
  | .lantern n => n.val
  | .smelter n => 16 + n.val
  | .shaper n => 32 + n.val
  | .snuffer n => 40 + n.val
  | .tracker n => 48 + n.val
  | .encoder n => 56 + n.val

/-- Engine class of a unit number (R267). -/
def arbClass (u : Nat) : Nat :=
  if u < 16 then 0 else if u < 32 then 1 else if u < 40 then 2 else if u < 56 then 3 else 4

def State.arb (s : State) (u : Nat) : Arb := sparseGet Arb.reset s.arbs u
def State.setArb (s : State) (u : Nat) (a : Arb) : State := { s with arbs := sparseSet Arb.reset s.arbs u a }
def State.credit (s : State) (u p : Nat) : Int := sparseGet 0 s.credits (u * 64 + p)
def State.setCredit (s : State) (u p : Nat) (c : Int) : State :=
  { s with credits := sparseSet 0 s.credits (u * 64 + p) (clampInt (-(2 ^ 31)) (2 ^ 31) c) }

/-- A partition's share at a unit. -/
def State.shareOf (s : State) (u p : Nat) : Nat := listAt 256 (s.part p).shares (arbClass u)

/-- The first partition of a list with credit, in ascending order starting after the one chosen last. -/
def State.arbFirst (s : State) (u : Nat) (ready : List Nat) : Option Nat :=
  ((List.range 64).map fun i => ((s.arb u).last + 1 + i) % 64).find? fun p => ready.contains p && decide (0 < s.credit u p)

/-- Refill rounds until some ready partition has credit. -/
def State.arbRounds (s : State) (u : Nat) (ready : List Nat) : Nat :=
  let ns := ready.map fun p => (-(s.credit u p)).toNat / (8 * max 1 (s.shareOf u p)) + 1
  ns.foldl min (ns.headD 0)

/-- The credits after n refill rounds: ready partitions gain 8 * SHARE in each, the others lose what they have. -/
def State.arbRefill (s : State) (u : Nat) (ready : List Nat) (n : Nat) : State :=
  (List.range 64).foldl (fun s p =>
    if ready.contains p then s.setCredit u p (s.credit u p + (n * (8 * s.shareOf u p) : Nat))
    else if 0 < s.credit u p then s.setCredit u p 0 else s) s

/-- The choice of R268 among the partitions with work ready; it is remembered until it is served. -/
def State.arbDecide (s : State) (u : Nat) (ready : List Nat) : State :=
  if ready.isEmpty then s.setArb u { s.arb u with chosen := none }
  else
    let s1 := match s.arbFirst u ready with
      | some _ => s
      | none => s.arbRefill u ready (s.arbRounds u ready)
    match s1.arbFirst u ready with
    | some p => s1.setArb u { s1.arb u with chosen := some p, last := p }
    | none => s1

/-- Time and steps charged to a partition at a unit (R268, R270). -/
def State.arbCharge (s : State) (u p t steps : Nat) : State :=
  let s1 := s.setCredit u p (s.credit u p - t)
  let x := s1.part p
  s1.setPart p { x with acct := listUpd x.acct (arbClass u) fun a => ((a.1 + t) % 2 ^ 64, (a.2 + steps) % 2 ^ 64) }

/-- The work begun last at a unit ends now: its time is charged, with the steps it took (R268, R270). -/
def State.arbEnd (s : State) (u steps : Nat) : State :=
  match (s.arb u).work with
  | none => s
  | some (p, t0) => (s.arbCharge u p (s.nowNs - t0) steps).setArb u { s.arb u with work := none }

/-- A unit is about to begin work of a partition: the choice of R268 must fall on it. -/
def State.arbStart (s : State) (u p : Nat) (ready : List Nat) : State × Bool :=
  let s0 := s.arbEnd u 0
  let s1 := match (s0.arb u).chosen with
    | some c => if ready.contains c then s0 else s0.arbDecide u ready
    | none => s0.arbDecide u ready
  if (s1.arb u).chosen = some p then (s1.setArb u { s1.arb u with chosen := none, work := some (p, s1.nowNs) }, true)
  else (s1, false)

end Sys2Proof.Machine
end

