-- ==== Sys2Proof/Machine/RmoCore.lean ====
section
/-!
DEFINITION. Memory errors and their quarantines (R89, R96, R305, R402, R432), stores that re-test waiters (R48), and the
checks and effects of remote memory operations (R45-R55).
-/

namespace Sys2Proof.Machine

/-! ### Errors -/

/-- Times of the last second of a list, with the present one added. -/
def State.recentErrors (s : State) (l : List Nat) : List Nat := s.nowNs :: l.filter fun t => decide (s.nowNs < t + 1000000000)

/-- RESIDENT tags whose image placed a section in a bank are stale (R402). -/
def State.loseShared (s : State) (k : Nat) : State :=
  let a := crucibleBase + mib8 * k
  { s with parts := s.parts.map fun e => (e.1, { e.2 with residency := e.2.residency.map fun r =>
      (r.1, { r.2 with resident := r.2.resident.map fun t =>
        { t with lost := t.lost || t.shared.any fun x => decide (x.1 < a + mib8) && decide (a < x.1 + x.2) } }) }) }

/-- Quarantine of a Crucible bank (R402). -/
def State.quarantineBank (s : State) (k : Nat) : State :=
  let b := s.bank k
  if b.quarantined then s
  else ((((s.setBank k { b with quarantined := true }).setDom (cbDom k) 0).loseShared k)).sootEvent 0x0112 (BitVec.ofNat 64 k) none

/-! ### Failure of a DRAM controller (R306) -/

def State.chan (s : State) (n c : Nat) : Chan := sparseGet Chan.reset s.dram.chans (n * 4 + c)
def State.setChan (s : State) (n c : Nat) (v : Chan) : State :=
  { s with dram := { s.dram with chans := sparseSet Chan.reset s.dram.chans (n * 4 + c) v } }

/-- FAIL_KIND code. -/
def mcFailCode : McFailKind → Nat
  | .phyLock => 1
  | .noWindow => 2
  | .errors => 3

/-- DRAM_STATUS.READY: every controller is enabled or failed. The plan is loaded before any is enabled (R299). -/
def State.dramReadyUpdate (s : State) : State :=
  s.setFlag Reg.dramStatus 31 ((List.range 8).all fun n => s.flag (Reg.mcCtrl n) 0 || s.flag (Reg.mcStatus n) 31)

/-- The isolation wrapper answers what a channel of a failed controller has not performed: a read completes with its error, a queued
write is gone (R306) (DESIGN CHOICE, log entry 180). -/
def State.chanFail (s : State) (n c : Nat) : State :=
  let ch := s.chan n c
  let reads := (ch.rq ++ ch.gasket).filter fun q => !q.req.write
  let s1 := s.setChan n c { ch with rq := [], wq := [], gasket := [] }
  { s1 with dram := { s1.dram with served := (reads.map fun q => (q.req.id, [], true)).reverse ++ s1.dram.served } }

/-- A controller is declared failed: its bits, its isolation, and the loss of every region it serves. -/
def State.mcFail (s : State) (n : Nat) (k : McFailKind) : State :=
  if s.flag (Reg.mcStatus n) 31 then s
  else
    let w := setBits (setBits (s.reg (Reg.mcStatus n)) 31 31 1) 30 28 (mcFailCode k)
    let d := setBits (setBits (setBits (s.reg Reg.dramStatus) (16 + n) (16 + n) 1) 11 11 1) (12 + n / 2) (12 + n / 2) 1
    let s1 := (((s.setReg (Reg.mcStatus n) w).setReg Reg.dramStatus d).setFlag (Reg.mcCtrl n) 0 false).setDom (mcDom n) 0
    ((List.range 4).foldl (fun s c => s.chanFail n c) s1).dramReadyUpdate.sootEvent 0x4012 (BitVec.ofNat 64 n) none

/-- An uncorrectable error found by a read of the 64-bit word at a device address: counted, recorded and, at four within 1 s in
an Ingot or a Crucible bank, a quarantine, or at 16 within 1 s the failure of the DRAM controller (R89, R96, R305, R306, R402, R432). -/
def State.memError (s : State) (da : Nat) : State :=
  match s.unitOf da with
  | .ingot n =>
    let off := (da - ingotBase) % mib8 / 8 * 8
    let s1 := s.bump (Reg.lnEcc n) 31 16 1
    let s2 := if s.flag (Reg.lnEccAddr n) 31 then s1 else s1.setReg (Reg.lnEccAddr n) (BitVec.ofNat 32 (2 ^ 31 + off))
    let e := s.ingotErr n
    let l := s.recentErrors e.errors
    let s3 := (s2.setIngotErr n { e with errors := l }).sootEvent 0x1010 (BitVec.ofNat 64 off) none
    if 4 ≤ l.length then s3.quarantineLantern n 5 else s3
  | .crucible k =>
    let b := s.bank k
    let l := s.recentErrors b.errors
    let s1 := (s.setBank k { b with errors := l }).sootEvent 0x0110 (BitVec.ofNat 64 (da / 8 * 8)) none
    if 4 ≤ l.length then s1.quarantineBank k else s1
  | .dram =>
    let m := dramMap (s.reg Reg.dramCfg) da
    let s1 := s.bump (Reg.mcEcc m.1) 31 24 1
    let s2 := if s.flag (Reg.mcEccAddr m.1) 31 then s1
      else s1.setReg (Reg.mcEccAddr m.1) (BitVec.ofNat 32 (2 ^ 31 + 2 ^ 29 * m.2.1 + m.2.2 / 32))
    let l := s.recentErrors (sparseGet [] s.dram.errors m.1)
    let s3 := ({ s2 with dram := { s2.dram with errors := sparseSet [] s2.dram.errors m.1 l } } : State).sootEvent 0x4010 (BitVec.ofNat 64 da) none
    if 16 ≤ l.length then s3.mcFail m.1 .errors else s3
  | .hole => s

/-! ### Waiters (R48, R49, R55) -/

/-- The condition of a WAIT holds for a flag value; GE is unsigned. -/
def waitHolds (cond : Nat) (flag val : Dword) : Bool :=
  match cond with
  | 0 => decide (val.toNat ≤ flag.toNat)
  | 1 => decide (flag = val)
  | _ => decide (flag ≠ val)

/-- The 64-bit flag at a device address. -/
def State.flagAt (s : State) (da : Nat) : Dword := BitVec.ofNat 64 (s.readNat da 8)

/-- What a test of a pending WAIT finds: its condition, an error in its word, or an access that is refused; none: it goes on waiting (R48,
R54). -/
def State.waitResult (s : State) (r : Rmo) : Option Status :=
  match s.accessStatus r.da with
  | .ok => if s.poisoned r.da 8 then some .unitFault else if waitHolds r.req.cond (s.flagAt r.da) r.req.val then some .ok else none
  | e => some e

/-- A WAIT after a test. -/
def State.waitTested (s : State) (r : Rmo) : Rmo :=
  match s.waitResult r with
  | some st => { r with done := true, status := st, old := s.flagAt r.da }
  | none => r

/-- A pending WAIT with a waiter entry at a word that meets a range. -/
def Rmo.waitsAt (r : Rmo) (da len : Nat) : Bool :=
  r.kind == .wait && !r.done && r.entry && decide (r.da < da + len) && decide (da < r.da + 8)

/-- Every waiter of an entry whose word meets the range is re-tested. -/
def State.retest (s : State) (da len : Nat) : State :=
  if s.rmos.isEmpty then s
  else { s with rmos := s.rmos.map fun r => if r.waitsAt da len then s.waitTested r else r }

/-- The words of some WAITs are read: one in error is counted and recorded, once (R89, R432). -/
def State.waitErrors (s : State) (rs : List Rmo) : State :=
  (((rs.filter fun r => s.waitResult r == some .unitFault).map fun r => r.da).eraseDups).foldl (fun s da => s.memError da) s

/-- The waiters of a range are re-tested by a read of their words. -/
def State.retestRead (s : State) (da len : Nat) : State :=
  (s.retest da len).waitErrors (s.rmos.filter fun r => r.waitsAt da len)

/-- Corrected words that wait to be written back and that a write overtakes are not written back (R99). -/
def State.cancelBack (s : State) (da len : Nat) : State :=
  let keep (l : List Nat) : List Nat := l.filter fun w => !(decide (w < da + len) && decide (da < w + 8))
  if (s.ingots.all fun e => e.2.writeback.isEmpty) && (s.banks.all fun e => e.2.writeback.isEmpty) then s
  else { s with ingots := s.ingots.filterMap fun e =>
                  let v : IngotErr := { e.2 with writeback := keep e.2.writeback }
                  if v = IngotErr.reset then none else some (e.1, v)
                banks := s.banks.filterMap fun e =>
                  let v : Bank := { e.2 with writeback := keep e.2.writeback }
                  if v = Bank.reset then none else some (e.1, v) }

/-- Bytes stored to device memory, with the waiters of the words they cover re-tested. -/
def State.store (s : State) (da : Nat) (bs : List Byte) : State :=
  ((s.writeMem da bs).cancelBack da bs.length).retest da bs.length

/-- Bytes that a host or a DRAM request writes, sub-block by sub-block: one that reports an error is not written in part, and the error is
found by the read half of that write (R304, R308, R317). -/
def State.storeUnits (s : State) : Nat → Nat → List Byte → State
  | 0, _, _ => s
  | k + 1, da, bs =>
    if bs.isEmpty then s
    else if s.poison.isEmpty then s.store da bs
    else
      let n := min bs.length (32 - da % 32)
      let s1 := match s.partialPoison da n with
        | some w => s.memError w
        | none => s.store da (bs.take n)
      s1.storeUnits k (da + n) (bs.drop n)

/-- An n-byte number stored to device memory. -/
def State.storeNat (s : State) (da n v : Nat) : State := s.store da (leBytes n v)

/-! ### Checks (R39-R41, R45-R48, R53) -/

/-- Alignment and size of a PUT, a GET, a COPY or a FILL. -/
def copyAligned (r : RmoReq) (src : Bool) : Bool :=
  let rows := max 1 r.rows
  decide (8 ≤ r.len) && decide (r.len ≤ 0x4000000) && decide (rows ≤ 65536) && decide (r.len * rows ≤ 0x4000000) &&
  decide (r.len % 8 = 0) && decide (r.b % 8 = 0) && decide (r.dstStride % 8 = 0) &&
  (!src || (decide (r.a % 8 = 0) && decide (r.srcStride % 8 = 0))) &&
  (decide (rows = 1) || decide (r.len ≤ r.dstStride))

/-- The address recorded with ALIGN: the source's when the source's address or stride is at fault, the destination's when its are, and the
source's, or a FILL's destination, for a size (R53) (DESIGN CHOICE, log entry 156). -/
def copyFaultAt (r : RmoReq) (src : Bool) : Nat :=
  if src && (decide (r.a % 8 ≠ 0) || decide (r.srcStride % 8 ≠ 0)) then r.a
  else if r.b % 8 ≠ 0 ∨ r.dstStride % 8 ≠ 0 ∨ (max 1 r.rows ≠ 1 ∧ r.dstStride < r.len) then r.b
  else if src then r.a else r.b

/-- Bytes from the first to the last byte of a two-dimensional range. -/
def spanLen (len rows stride : Nat) : Nat := (max 1 rows - 1) * stride + len

/-- Translation for an issuer: a partition's window table, below 2^37, or the device address itself for Ozmel (R45, R126)
(DEDUCED, log entry 40). -/
def State.rmoTranslate (s : State) (i : Issuer) (p addr len : Nat) (need : Perm) : Option Nat :=
  match i with
  | .ozmel => if s.rangeBacked addr len then some addr else none
  | _ => if addr < 2 ^ 37 then s.translate p addr len need else none

/-- The range lies in the issuer's own Ingot, for a Lantern. -/
def ownIngot (i : Issuer) (da len : Nat) : Bool :=
  match i with
  | .lantern n => decide (ingotBase + mib8 * n.val ≤ da) && decide (da + len ≤ ingotBase + mib8 * (n.val + 1))
  | _ => false

/-- A Lantern's GET writes its own Ingot; every other issuer's GET fills its local buffer, which has no device address (R45). -/
def issuerIsLantern : Issuer → Bool
  | .lantern _ => true
  | _ => false

/-- The kind of a window permission that an operation needs at its word. -/
def RmoKind.wordPerm : RmoKind → Perm
  | .signal => .wr
  | _ => .at

/-- Size in bytes of the word of an operation. -/
def RmoKind.wordSize : RmoKind → Nat
  | .add32 => 4
  | .addf32 => 4
  | _ => 8

/-- What an RMO check finds: the translated addresses, or the status of the first failing check with the address. -/
inductive RmoCheck
  | pass (da db : Nat)
  | fail (st : Status) (addr : Nat)
deriving DecidableEq, Repr

/-- The check of a result address (R46): 8-byte alignment was checked before; WR, in the issuer's own Ingot. -/
def State.rmoResult (s : State) (i : Issuer) (p : Nat) (r : RmoReq) (da : Nat) : RmoCheck :=
  if r.ret then
    match s.rmoTranslate i p r.b 8 .wr with
    | none => .fail .bounds r.b
    | some db => if ownIngot i db 8 then .pass da db else .fail .bounds r.b
  else .pass da 0

/-- The checks of R53 in their order, before any byte moves. -/
def State.rmoCheck (s : State) (i : Issuer) (p : Nat) (k : RmoKind) (r : RmoReq) (det : Bool) : RmoCheck :=
  match k with
  | .fence => .pass 0 0
  | .put =>
    if copyAligned r true = false then .fail .align (copyFaultAt r true)
    else
      match s.rmoTranslate i p r.a (spanLen r.len r.rows r.srcStride) .rd with
      | none => .fail .bounds r.a
      | some da =>
        match s.rmoTranslate i p r.b (spanLen r.len r.rows r.dstStride) .wr with
        | none => .fail .bounds r.b
        | some db => .pass da db
  | .get =>
    if copyAligned r true = false then .fail .align (copyFaultAt r true)
    else
      match s.rmoTranslate i p r.a (spanLen r.len r.rows r.srcStride) .rd with
      | none => .fail .bounds r.a
      | some da =>
        if issuerIsLantern i == r.toLocal then .fail .bounds r.b
        else if r.toLocal then .pass da r.b
        else
          match s.rmoTranslate i p r.b (spanLen r.len r.rows r.dstStride) .wr with
          | none => .fail .bounds r.b
          | some db => if ownIngot i db (spanLen r.len r.rows r.dstStride) then .pass da db else .fail .bounds r.b
  | _ =>
    if r.a % k.wordSize ≠ 0 then .fail .align r.a
    else if r.ret = true ∧ r.b % 8 ≠ 0 then .fail .align r.b
    else
      match s.rmoTranslate i p r.a k.wordSize k.wordPerm with
      | none => .fail .bounds r.a
      | some da =>
        if k = .wait ∧ s.unitOf da = .dram then .fail .bounds r.a
        else
          match s.rmoResult i p r da with
          | .fail st x => .fail st x
          | .pass da db => if k = .addf32 ∧ det = true then .fail .detForbidden r.a else .pass da db

/-- The block of an issuer, as Soot names it (R320, R396) (DEDUCED, log entry 157). -/
def issuerBlock : Issuer → Nat
  | .lantern _ => 0x10
  | .dispatcher _ => 0x06
  | .smelter _ => 0x20
  | .shaper _ => 0x30
  | .snuffer _ => 0x34
  | .tracker _ => 0x34
  | .encoder _ => 0x38
  | .ozmel => 0x09
  | .hostBar4 => 0x50

/-- An access of a unit that ended with a status at an address: the memory error is counted, or the refused access recorded (R53, R89). -/
def State.noteFault (s : State) (block part : Nat) (e : Status × Option Nat) : State :=
  match e.2 with
  | none => s
  | some x => if e.1 = .unitFault then s.memError x else s.sootEvent (block * 256 + 0x20) (BitVec.ofNat 64 x) (some part)

/-! ### Effects (R45, R46, R50, R54) -/

/-- A word of a source reports an error while it is copied: the destination word is poisoned as its memory allows, and its waiters
find it so (R54). -/
def State.poisonCopy (s : State) (dst : Nat) : State :=
  if s.poisonUnit dst = 32 ∧ s.flag Reg.dramCfg 8 = false then
    let v := s.drawFree
    v.2.store dst (leBytes 8 v.1.toNat)
  else (s.setPoison dst).retestRead dst 8

/-- A source word that reports an error is the first of its error unit that the row reads: the words before it in the unit were not read
in error. The unit's error is counted with it. -/
def State.firstOfUnit (s : State) (src dst : Nat) (bad : List Nat) : Bool :=
  decide (src % s.poisonUnit src = 0) || bad.head? != some (dst - 8)

/-- n words copied from src to dst, one after another (DESIGN CHOICE, log entry 41). A stopped destination or source ends the copy; a
poisoned source word poisons its destination word and the copy goes on with UNIT_FAULT (R54). The answer holds the destination words that
were poisoned, last first, and the words not copied. -/
def State.copyWords (s : State) (src dst : Nat) (st : Status) (bad : List Nat) : Nat → State × Status × List Nat × Nat
  | 0 => (s, st, bad, 0)
  | n + 1 =>
    match s.accessStatus src with
    | .ok =>
      match s.accessStatus dst with
      | .ok =>
        if s.poisoned src 8 then
          let s1 := if s.firstOfUnit src dst bad then s.memError src else s
          (s1.poisonCopy dst).copyWords (src + 8) (dst + 8) .unitFault (dst :: bad) n
        else (s.store dst (s.readMem src 8)).copyWords (src + 8) (dst + 8) st bad n
      | e => (s, e, bad, n + 1)
    | e => (s, e, bad, n + 1)

/-- The error units that a row has written in full hold good data, but for those in which it has put a poisoned word (R54, R305, R308). -/
def State.clearRow (s : State) (da len : Nat) (bad : List Nat) : State :=
  if s.poison.isEmpty then s
  else { s with poison := s.poison.filter fun w =>
          let u := s.poisonUnit (w * 8)
          let b := w * 8 / u * u
          !(decide (da ≤ b) && decide (b + u ≤ da + len)) || bad.any fun x => decide (b ≤ x) && decide (x < b + u) }

/-- The start of a row that is written: an error unit that the row covers in part makes its write end with UNIT_FAULT (R308). -/
def State.rowStart (s : State) (dst len : Nat) (st : Status) : State × Status :=
  match s.partialPoison dst len with
  | some w => (s.memError w, .unitFault)
  | none => (s, st)

/-- One row of a copy. -/
def State.copyRow (s : State) (src dst n : Nat) (st : Status) : State × Status :=
  match s.rowStart dst (8 * n) st with
  | (s0, st0) =>
    match s0.copyWords src dst st0 [] n with
    | (s1, st1, bad, left) => (s1.clearRow dst (8 * (n - left)) bad, st1)

/-- A transfer goes on after a row: errors of words do not stop it (R54). -/
def Status.goesOn : Status → Bool
  | .ok => true
  | .unitFault => true
  | _ => false

/-- Rows of a two-dimensional copy (DESIGN CHOICE, log entry 41). -/
def State.copyRows (s : State) (src dst len ss ds : Nat) (st : Status) : Nat → State × Status
  | 0 => (s, st)
  | n + 1 =>
    match s.copyRow src dst (len / 8) st with
    | (s1, st1) => if st1.goesOn then s1.copyRows (src + ss) (dst + ds) len ss ds st1 n else (s1, st1)

/-- n words of a FILL, and how many a stopped destination has left. -/
def State.fillWords (s : State) (dst : Nat) (pat : List Byte) (st : Status) : Nat → State × Status × Nat
  | 0 => (s, st, 0)
  | n + 1 =>
    match s.accessStatus dst with
    | .ok => (s.store dst pat).fillWords (dst + 8) pat st n
    | e => (s, e, n + 1)

/-- One row of a FILL. -/
def State.fillRow (s : State) (dst n : Nat) (pat : List Byte) (st : Status) : State × Status :=
  match s.rowStart dst (8 * n) st with
  | (s0, st0) =>
    match s0.fillWords dst pat st0 n with
    | (s1, st1, left) => (s1.clearRow dst (8 * (n - left)) [], st1)

/-- Rows of a FILL with a pattern word. -/
def State.fillRows (s : State) (dst len ds : Nat) (pat : List Byte) (st : Status) : Nat → State × Status
  | 0 => (s, st)
  | n + 1 =>
    match s.fillRow dst (len / 8) pat st with
    | (s1, st1) => if st1.goesOn then s1.fillRows (dst + ds) len ds pat st1 n else (s1, st1)

/-- Bytes put into a unit's local buffer. -/
def State.setLocal (s : State) (i off : Nat) (bs : List Byte) : State :=
  { s with localBufs := sparseSet [] s.localBufs i (cellsWrite memDefault (sparseGet [] s.localBufs i) off bs) }

/-- n words read and handed to put, which stores them outside the device memories; a word in error is handed on as a free value (R54)
(DESIGN CHOICE, log entry 158). -/
def State.takeWords (s : State) (put : State → Nat → List Byte → State) (src off : Nat) (st : Status) (bad : List Nat) : Nat → State × Status
  | 0 => (s, st)
  | n + 1 =>
    match s.accessStatus src with
    | .ok =>
      if s.poisoned src 8 then
        let s1 := if s.firstOfUnit src off bad then s.memError src else s
        let v := s1.drawFree
        (put v.2 off (leBytes 8 v.1.toNat)).takeWords put (src + 8) (off + 8) .unitFault (off :: bad) n
      else (put s off (s.readMem src 8)).takeWords put (src + 8) (off + 8) st bad n
    | e => (s, e)

/-- Rows of such a transfer. -/
def State.takeRows (s : State) (put : State → Nat → List Byte → State) (src off len ss ds : Nat) (st : Status) : Nat → State × Status
  | 0 => (s, st)
  | n + 1 =>
    match s.takeWords put src off st [] (len / 8) with
    | (s1, st1) => if st1.goesOn then s1.takeRows put (src + ss) (off + ds) len ss ds st1 n else (s1, st1)

/-- The access to the word of an atomic operation, a SIGNAL or a WAIT: isolation, failure, or an error in the word, which is
then not changed (R54). -/
def State.wordAccess (s : State) (da n : Nat) : State × Status :=
  match s.accessStatus da with
  | .ok => if s.poisoned da n then (s.memError da, .unitFault) else (s, .ok)
  | e => (s, e)

/-- An old value written to the result address of an operation that asks for it. -/
def State.returnOld (s : State) (r : RmoReq) (db : Nat) (old : Dword) : State :=
  if r.ret then s.storeNat db 8 old.toNat else s

end Sys2Proof.Machine
end

