-- ==== Sys2Proof/Machine/Dram.lean ====
section
/-!
DEFINITION. The LPDDR5X memory subsystem (R288-R308): channel arbitration, refresh, MR4, margin scans and delay planning,
patrol reads, error correction and the failure of a controller.
-/

namespace Sys2Proof.Machine

/-- Bank and row of a device address (R291). -/
def State.bankRow (s : State) (da : Nat) : Nat × Nat :=
  let loc := (dramMap (s.reg Reg.dramCfg) da).2.2
  let row := loc / 2 ^ 15
  ((loc / 2 ^ 11 % 16) ^^^ (row % 16), row)

/-- Age limit of a class in ns: MC_AGE in units of 0.25 µs, 0 acting as 1. -/
def State.ageLimit (s : State) (n cls : Nat) : Nat := max 1 (s.fld (Reg.mcAge n) (8 * cls + 7) (8 * cls)) * 250

/-- A queued request is older than its class's limit. -/
def State.aged (s : State) (n : Nat) (q : QReq) : Bool := decide (q.arrived + s.ageLimit n q.req.cls.val < s.nowNs)

/-- Rank of a class in the order LIVE, MGMT, MODEL, BULK. -/
def classRank (cls : Nat) : Nat :=
  match cls with
  | 0 => 0
  | 3 => 1
  | 1 => 2
  | _ => 3

/-- Refresh interval of one bank of a channel in ns, at least 1: tREFIpb over the multiplier (R297, R298) (DESIGN CHOICE, log entry 147). -/
def State.refInterval (s : State) (n c : Nat) : Nat :=
  max 1 (Config.tRefiPb (s.fld Reg.dramCfg 4 2) / 2 ^ s.fld (Reg.mcStatus n) (2 * c + 1) (2 * c))

/-- Refreshes that a bank has postponed. -/
def State.postponed (s : State) (n c b : Nat) : Nat :=
  (s.nowNs - sparseGet 0 (s.chan n c).refreshed b) / s.refInterval n c

/-- The bank whose refresh is most overdue: the one refreshed up to the earliest time, the lower bank winning a tie. -/
def Chan.mostOverdue (ch : Chan) : Nat :=
  ((List.range 16).foldl (fun (m : Nat × Nat) b =>
    let t := sparseGet 0 ch.refreshed b
    if t < m.2 then (b, t) else m) (0, sparseGet 0 ch.refreshed 0)).1

/-- Delay words of a channel applied (R302). -/
def State.applyDelays (s : State) (n c : Nat) : State :=
  let ch := s.chan n c
  let s1 := ch.pendingDelay.foldl (fun s e => s.setReg e.1 e.2) s
  s1.setChan n c { ch with pendingDelay := [] }

/-- A per-bank refresh: the row closes, the bank is refreshed up to one interval further, and pending delays apply. -/
def State.refreshBank (s : State) (n c b : Nat) : State :=
  let ch := s.chan n c
  let t := sparseGet 0 ch.refreshed b + s.refInterval n c
  (s.setChan n c { ch with rows := tabErase ch.rows b, refreshed := sparseSet 0 ch.refreshed b t }).applyDelays n c

/-- REFRESH: the most overdue bank, unless an aged request waits for it while it has postponed fewer than 8 (R297). -/
def execRefresh (n : McIx) (c : ChIx) (s : State) : Host.Outcome State Fault Refusal :=
  let ch := s.chan n c
  let b := ch.mostOverdue
  let waits := (ch.rq ++ ch.wq).any fun q => decide ((s.bankRow q.req.da).1 = b) && s.aged n q
  if s.flag (Reg.mcCtrl n) 0 = false ∨ (waits = true ∧ s.postponed n c b < 8) then .next s else .next (s.refreshBank n c b)

/-! ### Error correction (R303-R305) -/

/-- A partial write of a sub-block that reports an error leaves it poisoned; a full write replaces it (R308). -/
def State.dramWrite (s : State) (r : DramReq) : State := s.storeUnits r.bytes.length r.da r.bytes

/-- An uncorrectable error found in the sub-block of an address: counted, recorded and, with inline ECC, poisoned (R305). -/
def State.dramUncorrectable (s : State) (da : Nat) : State :=
  if s.flag Reg.dramCfg 8 then (s.memError da).setPoison (da / 32 * 32) else s.memError da

/-- What the event of a read does at its controller, and whether its data reports an error. -/
def State.dramReadEvent (s : State) (n da : Nat) (ev : DramEvent) : State × Bool :=
  match ev with
  | .none => (s, false)
  | .linkRetry => (s.bump (Reg.mcEcc n) 23 16 1, false)
  | .linkFail => ((s.bump (Reg.mcEcc n) 23 16 1).dramUncorrectable da, true)
  | .corrected => (if s.flag Reg.dramCfg 8 then s.bump (Reg.mcEcc n) 15 0 1 else s, false)
  | .uncorrectable => if s.flag Reg.dramCfg 8 then (s.dramUncorrectable da, true) else (s, false)

/-! ### Arbitration (R294) -/

/-- An earlier request of the same issuer that still waits at a gasket of the controller: requests of one issuer enter the queues in order
of arrival. -/
def State.gasketBefore (s : State) (n : Nat) (q : QReq) : Bool :=
  (List.range 4).any fun k => (s.chan n k).gasket.any fun x => decide (x.seq < q.seq) && decide (x.req.issuer = q.req.issuer)

/-- An earlier read that has not been performed holds a request back: of the same issuer on the controller, or of the same
bytes in the channel. -/
def State.heldBack (s : State) (n c : Nat) (q : QReq) : Bool :=
  ((List.range 4).any fun k => (s.chan n k).rq.any fun x => decide (x.seq < q.seq) && decide (x.req.issuer = q.req.issuer)) ||
  ((s.chan n c).rq.any fun x => decide (x.seq < q.seq) && q.req.write &&
    decide (x.req.da < q.req.da + q.req.bytes.length) && decide (q.req.da < x.req.da + x.req.bytes.length))

/-- Requests enter the queues from the gasket in order of arrival until one finds its queue full or is held back. A write is
performed as it enters. -/
def State.dramAdmit (s : State) (n c : Nat) : Nat → State
  | 0 => s
  | k + 1 =>
    let ch := s.chan n c
    match ch.gasket with
    | [] => s
    | q :: t =>
      if s.gasketBefore n q then s
      else if q.req.write then
        (if 64 ≤ ch.wq.length ∨ s.heldBack n c q = true then s
         else ((s.setChan n c { ch with gasket := t, wq := ch.wq ++ [q] }).dramWrite q.req).dramAdmit n c k)
      else if 64 ≤ ch.rq.length then s
      else (s.setChan n c { ch with gasket := t, rq := ch.rq ++ [q] }).dramAdmit n c k

/-- Arrivals numbered and put at the gasket of their channel. -/
def State.dramArrive (s : State) (n c : Nat) : List DramReq → State
  | [] => s
  | r :: t =>
    let ch := s.chan n c
    let q : QReq := ⟨r, s.nowNs, s.dram.nextSeq⟩
    let s1 := s.setChan n c { ch with gasket := ch.gasket ++ [q] }
    { s1 with dram := { s1.dram with nextSeq := s1.dram.nextSeq + 1 } }.dramArrive n c t

/-- The better of two requests: aged ones oldest first; else class order, open row, then age. -/
def State.dramBetter (s : State) (n c : Nat) (x y : QReq) : Bool :=
  let hit := fun (q : QReq) => let br := s.bankRow q.req.da; decide (tabFind (s.chan n c).rows br.1 = some br.2)
  if s.aged n x ∨ s.aged n y then (if s.aged n x ∧ s.aged n y then decide (x.seq < y.seq) else s.aged n x)
  else if classRank x.req.cls.val ≠ classRank y.req.cls.val then decide (classRank x.req.cls.val < classRank y.req.cls.val)
  else if hit x ≠ hit y then hit x
  else decide (x.seq < y.seq)

/-- The request that a queue's channel takes next. -/
def State.dramPick (s : State) (n c : Nat) (l : List QReq) : Option QReq :=
  l.foldl (fun m q => match m with | none => some q | some x => if s.dramBetter n c q x then some q else some x) none

/-- An access opens its row; with PAGE_IDLE = 0 it closes it again (R296). -/
def State.touchRow (s : State) (n c da : Nat) : State :=
  let br := s.bankRow da
  let ch := s.chan n c
  let rows := tabErase ch.rows br.1
  s.setChan n c { ch with rows := if s.fld (Reg.mcCtrl n) 25 16 = 0 then rows else rows ++ [br] }

/-- A request served because it exceeded its age limit is counted (PROMO). -/
def State.dramPromo (s : State) (n : Nat) (q : QReq) : State := if s.aged n q then s.bump (Reg.mcStatus n) 23 16 1 else s

/-- A read is performed: its data, with the events of its read, is taken. -/
def State.dramServeRead (s : State) (n c : Nat) (q : QReq) (ev : DramEvent) : State :=
  let s0 := s.dramPromo n q
  let ch := s0.chan n c
  let s1 := (s0.setChan n c { ch with rq := ch.rq.filter fun x => x.seq != q.seq }).touchRow n c q.req.da
  let e := s1.dramReadEvent n q.req.da ev
  let bad := e.2 || e.1.poisoned q.req.da q.req.bytes.length
  { e.1 with dram := { e.1.dram with served := (q.req.id, e.1.readMem q.req.da q.req.bytes.length, bad) :: e.1.dram.served } }

/-- The reads that a channel may perform now. -/
def State.dramReadable (s : State) (n c : Nat) : List QReq := (s.chan n c).rq.filter fun q => !s.heldBack n c q

/-- An aged read waits that the channel may perform. -/
def State.agedRead (s : State) (n c : Nat) : Bool := (s.dramReadable n c).any fun q => s.aged n q

/-- A write leaves the write queue for the array; it was performed when it entered. -/
def State.dramServeWrite (s : State) (n c : Nat) (q : QReq) : State :=
  let s0 := s.dramPromo n q
  let ch := s0.chan n c
  let k := if s.agedRead n c then ch.drained + 1 else 0
  (s0.setChan n c { ch with wq := ch.wq.filter (fun x => x.seq != q.seq), drained := k }).touchRow n c q.req.da

/-- Whether the channel drains writes in this slot: from 48 entries, or when no read waits, down to 16; with an aged read
waiting, for at most 8 further writes (R294). While no read waits a drain goes on below 16; only a read that may be performed counts as
waiting (DESIGN CHOICE, log entry 180). -/
def State.dramDrains (s : State) (n c : Nat) : Bool :=
  let ch := s.chan n c
  let noRead := (s.dramReadable n c).isEmpty
  if ch.draining then !ch.wq.isEmpty && (noRead || (decide (16 < ch.wq.length) && (!s.agedRead n c || decide (ch.drained < 8))))
  else decide (48 ≤ ch.wq.length) || (noRead && !ch.wq.isEmpty)

/-- A request that is not aged opens a row of a bank with postponed refreshes: they are made up first (R297). -/
def State.refreshFirst (s : State) (n c : Nat) (q : QReq) : Bool :=
  let br := s.bankRow q.req.da
  !s.aged n q && decide (tabFind (s.chan n c).rows br.1 ≠ some br.2) && decide (1 ≤ s.postponed n c br.1)

/-- CHANNEL_COMMAND_SLOT: arrivals enter the queues, and the channel chooses a refresh that has been postponed 8 times, a
write of a drain, or a read (R294). -/
def State.dramSlot (s : State) (n c : Nat) (arrivals : List DramReq) (ev : DramEvent) : State :=
  if s.flag (Reg.mcCtrl n) 0 = false then s
  else
    let s0 := (s.dramArrive n c arrivals)
    let s1 := s0.dramAdmit n c (s0.chan n c).gasket.length
    let b := (s1.chan n c).mostOverdue
    if 8 ≤ s1.postponed n c b then s1.refreshBank n c b
    else if s1.dramDrains n c then
      let ch := s1.chan n c
      let s2 := s1.setChan n c { ch with draining := true, drained := if ch.draining then ch.drained else 0 }
      match s2.dramPick n c ch.wq with
      | none => s2
      | some q => if s2.refreshFirst n c q then s2.refreshBank n c (s2.bankRow q.req.da).1 else s2.dramServeWrite n c q
    else
      let ch := s1.chan n c
      let s2 := s1.setChan n c { ch with draining := false, drained := 0 }
      match s2.dramPick n c (s2.dramReadable n c) with
      | none => s2
      | some q => if s2.refreshFirst n c q then s2.refreshBank n c (s2.bankRow q.req.da).1 else s2.dramServeRead n c q ev

def execChannelCommandSlot (n : McIx) (c : ChIx) (arrivals : List DramReq) (ev : DramEvent) (s : State) :
    Host.Outcome State Fault Refusal :=
  if arrivals.all fun r => decide (r.da + r.bytes.length ≤ s.usableTop) then .next (s.dramSlot n c arrivals ev) else .next s

/-! ### MR4, pages, patrol (R296, R298, R304) -/

/-- One channel's MR4 state: 0 ×1, 1 ×2, 2 ×4, 3 ×4 with timing derating, 4 above the operating range (DESIGN CHOICE, log entry 42). -/
def State.mr4Chan (s : State) (n c v : Nat) : State :=
  let mul := min v 2
  let s1 := s.setFld (Reg.mcStatus n) (2 * c + 1) (2 * c) mul
  let s2 := s1.setChan n c { s1.chan n c with derated := decide (3 ≤ v) }
  let was := s.flag (Reg.mcStatus n) (8 + c)
  let s3 := s2.setFlag (Reg.mcStatus n) (8 + c) (decide (v = 4))
  if v = 4 ∧ was = false then s3.sootEvent 0x4040 (BitVec.ofNat 64 (n * 4 + c)) none else s3

def execMr4Poll (n : McIx) (c0 c1 c2 c3 : Fin 5) (s : State) : Host.Outcome State Fault Refusal :=
  if s.flag (Reg.mcCtrl n) 0 then .next ((((s.mr4Chan n 0 c0).mr4Chan n 1 c1).mr4Chan n 2 c2).mr4Chan n 3 c3) else .next s

/-- PAGE_IDLE_CLOSE: the bank's idle timer has run out, and its row closes (R296). -/
def execPageIdleClose (n : McIx) (c : ChIx) (bank : Fin 16) (s : State) : Host.Outcome State Fault Refusal :=
  let ch := s.chan n c
  .next (s.setChan n c { ch with rows := tabErase ch.rows bank })

/-- Granules of a channel. -/
def State.chanGranules (s : State) : Nat := dramU (s.reg Reg.dramCfg) / 4 / 256

/-- PATROL_READ: the next granule of the channel is read and corrected; an uncorrectable error poisons its sub-block and
affects no command. Which of the 8 sub-blocks of the granule fails is free (R304, R305) (DESIGN CHOICE, log entry 43). -/
def State.patrolRead (s : State) (n c : Nat) (ev : DramEvent) : State :=
  if s.flag (Reg.mcCtrl n) 0 && s.flag (Reg.mcCtrl n) 2 && s.flag Reg.dramCfg 8 then
    let ch := s.chan n c
    let da := dramUnmap (s.reg Reg.dramCfg) n c (ch.patrol * 256)
    let s1 := s.setChan n c { ch with patrol := (ch.patrol + 1) % max 1 s.chanGranules }
    match ev with
    | .none => s1
    | .uncorrectable =>
      let v := s1.drawFree
      (v.2.dramReadEvent n (da + v.1.toNat % 8 * 32) ev).1
    | _ => (s1.dramReadEvent n da ev).1
  else s

def execPatrolRead (n : McIx) (c : ChIx) (ev : DramEvent) (s : State) : Host.Outcome State Fault Refusal := .next (s.patrolRead n c ev)

/-! ### Margin scans and delays (R301, R302) -/

/-- Place of a direction in MC_MARGIN and in the scan table. -/
def scanDirIx : ScanDir → Nat
  | .rdLow => 0
  | .rdHigh => 1
  | .wrLow => 2
  | .wrHigh => 3

/-- Result of a lane's scan in a direction, once known. -/
def Chan.scanResult (ch : Chan) (lane d : Nat) : Option Nat := (sparseGet ⟨0, none⟩ ch.scan (lane * 4 + d)).result

/-- A delay moved by at most one tap toward the centre of its window: (R - L) / 2 at least 2 or at most -2. -/
def moveDelay (l r d : Nat) : Nat := if l + 4 ≤ r then min 255 (d + 1) else if r + 4 ≤ l then d - 1 else d

/-- After a complete scan of a lane, its delays are re-planned for the next refresh, MARGIN_LOW is logged in Soot and the trouble log, and the scan
starts afresh (R302) (severity and data of the entry: DESIGN CHOICE, log entry 180). -/
def State.delayReplan (s : State) (n c lane : Nat) : State :=
  let ch := s.chan n c
  match ch.scanResult lane 0, ch.scanResult lane 1, ch.scanResult lane 2, ch.scanResult lane 3 with
  | some a, some b, some x, some y =>
    let off := Reg.mcDly n c lane
    let w := s.reg off
    let w1 := setBits (setBits w 31 24 (moveDelay a b (bitsOf w 31 24))) 23 16 (moveDelay x y (bitsOf w 23 16))
    let ch1 := { ch with scan := (List.range 4).foldl (fun t d => tabErase t (lane * 4 + d)) ch.scan,
                         pendingDelay := if w1 = w then ch.pendingDelay else tabErase ch.pendingDelay off ++ [(off, w1)] }
    let s1 := s.setChan n c ch1
    let m := s.fld (Reg.mcScan n) 23 16
    let k := (n * 4 + c) * 2 + lane
    if a < m ∨ b < m ∨ x < m ∨ y < m then (s1.sootEvent 0x4040 (BitVec.ofNat 64 k) none).troubleLog 0x4040 1 (leBytes 4 k) else s1
  | _, _, _, _ => s

/-- MARGIN_SCAN_STEP: one trial of a lane in a direction, on an idle channel with SCAN_EN. The scan of a direction ends at
the first failure or at 64 taps; its distance goes to MC_MARGIN. The tested granule keeps its data (R301). Scans pause during a handover
(R355). -/
def State.marginStep (s : State) (n c lane : Nat) (dir : ScanDir) (passed : Bool) : State :=
  let ch := s.chan n c
  let k := lane * 4 + scanDirIx dir
  let pos := sparseGet ⟨0, none⟩ ch.scan k
  if s.flag (Reg.mcCtrl n) 0 && s.flag (Reg.mcCtrl n) 1 && ch.rq.isEmpty && ch.wq.isEmpty && ch.gasket.isEmpty && pos.result.isNone && s.ozmel.handover.isNone then
    let t := pos.taps + 1
    let done := !passed || decide (t = 64)
    let s1 := s.setChan n c { ch with scan := tabErase ch.scan k ++ [(k, ⟨t, if done then some t else none⟩)] }
    if done then
      let hi := 31 - 8 * scanDirIx dir
      (s1.setFld (Reg.mcMargin n c lane) hi (hi - 7) t).delayReplan n c lane
    else s1
  else s

def execMarginScanStep (n : McIx) (c : ChIx) (lane : Fin 2) (dir : ScanDir) (passed : Bool) (s : State) :
    Host.Outcome State Fault Refusal := .next (s.marginStep n c lane dir passed)

/-- Offsets of every delay register. -/
def delayOffsets : List Nat :=
  ((List.range 8).map fun n => ((List.range 4).map fun c => [Reg.mcDly n c 0, Reg.mcDly n c 1, Reg.mcCadly n c]).flatten).flatten

/-- DELAY_PLAN_SAVE: Ozmel writes the moved plan to flash (R302). -/
def execDelayPlanSave (s : State) : Host.Outcome State Fault Refusal :=
  .next { s with dram := { s.dram with plan := delayOffsets.map fun o => (o, s.reg o) } }

/-! ### Failure of a controller (R306) -/

/-- CONTROLLER_FAILURE: Ozmel's declaration, of whichever kind; the errors of R306 that the model counts itself declare it too, in
State.memError (log entry 180). -/
def execControllerFailure (n : McIx) (kind : McFailKind) (s : State) : Host.Outcome State Fault Refusal := .next (s.mcFail n kind)

/-! ### Configuration writes (R307) -/

/-- Some controller is enabled. -/
def State.anyMcEnabled (s : State) : Bool := (List.range 8).any fun n => s.flag (Reg.mcCtrl n) 0

/-- DRAM_STATUS after DRAM_CFG has changed: CFG_ERR and the usable top (R39, R290). -/
def State.dramRefreshStatus (s : State) : State :=
  let cfg := s.reg Reg.dramCfg
  let err := dramCfgErr cfg
  let top := if err then 0 else 8 * dramU cfg / 0x10000000
  s.setReg Reg.dramStatus (setBits (setBits (s.reg Reg.dramStatus) 30 30 (boolNat err)) 9 0 top)

/-- A write to DRAM_CFG: under its LOCK bit a lock violation or nothing, and ignored while a controller is enabled (R15, R308). -/
def State.dramCfgWrite (s : State) (v : Word) : State :=
  if s.flag Reg.dramCfg 31 then (if v &&& 0x80FFF11F = s.reg Reg.dramCfg then s else s.lockViolation 0x40 Reg.dramCfg)
  else if s.anyMcEnabled then s
  else (s.setReg Reg.dramCfg (v &&& 0x80FFF11F)).dramRefreshStatus

/-- A write to MC_CTRL: EN = 1 has no effect while CFG_ERR is 1 or the controller has failed. -/
def State.mcCtrlWrite (s : State) (n : Nat) (v : Word) : State :=
  let w := v &&& 0x03FF0007
  let w1 := if bitOf w 0 && (s.flag Reg.dramStatus 30 || s.flag (Reg.mcStatus n) 31) then setBits w 0 0 (boolNat (s.flag (Reg.mcCtrl n) 0)) else w
  (s.setReg (Reg.mcCtrl n) w1).dramReadyUpdate

end Sys2Proof.Machine
end

