-- ==== Sys2Proof/Machine/Numeric.lean ====
section
/-!
DEFINITION. Numbers as the engines compute with them: exact dyadic values with the specials of IEEE 754, rounding to nearest
with ties to even into any binary format, and binary32 arithmetic (R63, R67, R85, R86).
-/

namespace Sys2Proof.Machine

/-- A value: (-1)^neg * m * 2^e, an infinity or a NaN with its sign. -/
inductive Num
  | fin (neg : Bool) (m : Nat) (e : Int)
  | inf (neg : Bool)
  | nan (neg : Bool)
deriving DecidableEq, Repr

/-- Number of significant bits. -/
def bitLen (n : Nat) : Nat := if n = 0 then 0 else Nat.log2 n + 1

/-- n / 2^d rounded to nearest, ties to even. -/
def shiftRne (n d : Nat) : Nat :=
  let q := n / 2 ^ d
  let r := n % 2 ^ d
  if 2 * r < 2 ^ d then q else if 2 ^ d < 2 * r then q + 1 else if d = 0 then q else q + q % 2

/-- m * 2^e in units of 2^q, rounded to nearest with ties to even (DEDUCED, log entry 12). -/
def quantRne (m : Nat) (e q : Int) : Nat := if q ≤ e then m * 2 ^ (e - q).toNat else shiftRne m (q - e).toNat

/-- m * 2^e in units of 2^q, truncated toward zero. -/
def quantTrunc (m : Nat) (e q : Int) : Nat := if q ≤ e then m * 2 ^ (e - q).toNat else m / 2 ^ (q - e).toNat

/-- Exponent of the least bit of a format with eb exponent bits and fb fraction bits. -/
def fmtMin (eb fb : Nat) : Int := 1 - ((2 ^ (eb - 1) - 1 : Nat) : Int) - fb

/-- Magnitude bits of m * 2^e in a format, rounded RNE; the caller judges overflow. -/
def fmtMag (eb fb m : Nat) (e : Int) : Nat :=
  if m = 0 then 0
  else
    let q := max (fmtMin eb fb) ((bitLen m : Int) + e - (fb + 1))
    (q - fmtMin eb fb).toNat * 2 ^ fb + quantRne m e q

/-- Bits of a value in an IEEE format of 1 + eb + fb bits: overflow gives infinity, and nan is the NaN code. -/
def fmtEnc (eb fb nan : Nat) (x : Num) : Nat :=
  let top := (2 ^ eb - 1) * 2 ^ fb
  let sg := 2 ^ (eb + fb)
  match x with
  | .fin neg m e => boolNat neg * sg + min top (fmtMag eb fb m e)
  | .inf neg => boolNat neg * sg + top
  | .nan _ => nan

/-- Value of the bits of a format with eb exponent bits and fb fraction bits. -/
def fmtDec (eb fb w : Nat) : Num :=
  let s := w.testBit (eb + fb)
  let ex := w / 2 ^ fb % 2 ^ eb
  let fr := w % 2 ^ fb
  if ex = 2 ^ eb - 1 then (if fr = 0 then .inf s else .nan s)
  else if ex = 0 then .fin s fr (fmtMin eb fb)
  else .fin s (fr + 2 ^ fb) (fmtMin eb fb + ex - 1)

/-- Sign, 0 for a positive value. -/
def Num.isNeg : Num → Bool
  | .fin n _ _ => n
  | .inf n => n
  | .nan n => n

def Num.isNan : Num → Bool
  | .nan _ => true
  | _ => false

def Num.isInf : Num → Bool
  | .inf _ => true
  | _ => false

/-- A finite value as an integer in units of 2^q, for q at most its exponent. -/
def finInt (neg : Bool) (m : Nat) (e q : Int) : Int :=
  let v : Int := (m * 2 ^ (e - q).toNat : Nat)
  if neg then -v else v

/-- An integer in units of 2^q as a value; zero is +0. -/
def numOfInt (i q : Int) : Num := .fin (decide (i < 0)) i.natAbs q

/-- x * 2^k. -/
def Num.scale (x : Num) (k : Int) : Num :=
  match x with
  | .fin n m e => .fin n m (e + k)
  | y => y

def Num.negate : Num → Num
  | .fin n m e => .fin (!n) m e
  | .inf n => .inf (!n)
  | .nan n => .nan n

/-- Exact sum under IEEE 754: an exact zero is +0 unless both are -0. -/
def Num.add (x y : Num) : Num :=
  match x, y with
  | .nan n, _ => .nan n
  | _, .nan n => .nan n
  | .inf a, .inf b => if a = b then .inf a else .nan false
  | .inf a, _ => .inf a
  | _, .inf b => .inf b
  | .fin n m e, .fin n' m' e' =>
    let q := min e e'
    let t := finInt n m e q + finInt n' m' e' q
    if t = 0 then .fin (n && n') 0 q else numOfInt t q

/-- Exact product under IEEE 754. -/
def Num.mul (x y : Num) : Num :=
  match x, y with
  | .nan n, _ => .nan n
  | _, .nan n => .nan n
  | .inf a, .inf b => .inf (a != b)
  | .inf a, .fin n m _ => if m = 0 then .nan false else .inf (a != n)
  | .fin n m _, .inf b => if m = 0 then .nan false else .inf (n != b)
  | .fin n m e, .fin n' m' e' => .fin (n != n') (m * m') (e + e')

/-- Order of two values that are not NaN; -0 lies below +0. -/
def Num.lt (x y : Num) : Bool :=
  match x, y with
  | .nan _, _ => false
  | _, .nan _ => false
  | .inf a, .inf b => a && !b
  | .inf a, _ => a
  | _, .inf b => !b
  | .fin n m e, .fin n' m' e' =>
    let q := min e e'
    let a := finInt n m e q
    let b := finInt n' m' e' q
    if a = 0 ∧ b = 0 then n && !n' else decide (a < b)

/-- The two values are numerically equal, signs of zero apart. -/
def Num.eqv (x y : Num) : Bool :=
  match x, y with
  | .fin n m e, .fin n' m' e' => decide (finInt n m e (min e e') = finInt n' m' e' (min e e'))
  | .inf a, .inf b => a == b
  | _, _ => false

/-- Quotient with a sticky bit below 64 significant bits. -/
def Num.div (x y : Num) : Num :=
  match x, y with
  | .nan n, _ => .nan n
  | _, .nan n => .nan n
  | .inf _, .inf _ => .nan false
  | .inf a, .fin n _ _ => .inf (a != n)
  | .fin n _ _, .inf b => .fin (n != b) 0 0
  | .fin n m e, .fin n' m' e' =>
    if m' = 0 then (if m = 0 then .nan false else .inf (n != n'))
    else
      let k := 64 + bitLen m'
      .fin (n != n') (2 * (m * 2 ^ k / m') + boolNat (decide (m * 2 ^ k % m' ≠ 0))) (e - e' - k - 1)

/-- floor of the square root of a number below 2^(2n). -/
def isqrt : Nat → Nat → Nat
  | 0, _ => 0
  | n + 1, a =>
    let r := 2 * isqrt n (a / 4)
    if (r + 1) * (r + 1) ≤ a then r + 1 else r

/-- Reciprocal square root with a sticky bit below 64 significant bits. -/
def Num.rsqrt (x : Num) : Num :=
  match x with
  | .nan n => .nan n
  | .inf n => if n then .nan false else .fin false 0 0
  | .fin n m e =>
    if m = 0 then .inf n
    else if n then .nan false
    else
      let odd := decide (e % 2 ≠ 0)
      let m1 := if odd then 2 * m else m
      let e1 := if odd then e - 1 else e
      let k := 64 + bitLen m1
      let a := 2 ^ (2 * k) / m1
      let r := isqrt (k + 1) a
      .fin false (2 * r + boolNat (decide (r * r * m1 ≠ 2 ^ (2 * k)))) (-k - e1 / 2 - 1)

/-- Square root with a sticky bit. -/
def Num.sqrt (x : Num) : Num :=
  match x with
  | .nan n => .nan n
  | .inf n => if n then .nan false else .inf false
  | .fin n m e =>
    if m = 0 then .fin n 0 0
    else if n then .nan false
    else
      let odd := decide (e % 2 ≠ 0)
      let m1 := (if odd then 2 * m else m) * 2 ^ 128
      let e1 := (if odd then e - 1 else e) - 128
      let r := isqrt (bitLen m1 / 2 + 1) m1
      .fin false (2 * r + boolNat (decide (r * r ≠ m1))) (e1 / 2 - 1)

/-- floor of a finite value as an integer. -/
def Num.floor (x : Num) : Int :=
  match x with
  | .fin n m e => if 0 ≤ e then finInt n m e 0 else finInt n m e e / (2 ^ (-e).toNat : Int)
  | _ => 0

/-- A finite value rounded RNE to an integer. -/
def Num.rne (x : Num) : Int :=
  match x with
  | .fin n m e => let v : Int := quantRne m e 0; if n then -v else v
  | _ => 0

/-! ### binary32 -/

/-- Value of a binary32 word. -/
def f32 (w : Word) : Num := fmtDec 8 23 w.toNat

/-- A value rounded once to binary32; every NaN is 0x7FC0_0000 (R67, R85). -/
def toF32 (x : Num) : Word := BitVec.ofNat 32 (fmtEnc 8 23 0x7FC00000 x)

def f32Add (a b : Word) : Word := toF32 ((f32 a).add (f32 b))
def f32Sub (a b : Word) : Word := toF32 ((f32 a).add (f32 b).negate)
def f32Mul (a b : Word) : Word := toF32 ((f32 a).mul (f32 b))
def f32Div (a b : Word) : Word := toF32 ((f32 a).div (f32 b))
def f32Fma (a x b : Word) : Word := toF32 (((f32 a).mul (f32 x)).add (f32 b))
def f32Rsqrt (a : Word) : Word := toF32 (f32 a).rsqrt
def f32Sqrt (a : Word) : Word := toF32 (f32 a).sqrt
def f32Neg (a : Word) : Word := toF32 (f32 a).negate
def f32Lt (a b : Word) : Bool := (f32 a).lt (f32 b)
def f32IsNan (a : Word) : Bool := (f32 a).isNan
/-- a ≤ b for values that are not NaN, zeros being equal. -/
def f32Le (a b : Word) : Bool := (f32 a).eqv (f32 b) || (f32 a).lt (f32 b)

/-- Minimum and maximum of R85: NaN when either input is NaN, and -0 below +0. -/
def f32Min (a b : Word) : Word := if f32IsNan a || f32IsNan b then 0x7FC00000 else if f32Lt b a then b else a
def f32Max (a b : Word) : Word := if f32IsNan a || f32IsNan b then 0x7FC00000 else if f32Lt a b then b else a

/-- Absolute value. -/
def f32Abs (a : Word) : Word := if f32IsNan a then 0x7FC00000 else a &&& 0x7FFFFFFF

/-- An integer rounded RNE to binary32. -/
def f32OfInt (i : Int) : Word := toF32 (numOfInt i 0)

end Sys2Proof.Machine
end

