-- ==== Sys2Proof/Machine/Operands.lean ====
section
/-!
DEFINITION. Operand codes (R56, R57), X13 (R58, R59), codebooks (R60), the split of 16-bit floats (R61), the passes of an
operation (R62) and the 64-wide trees (R63-R67).
-/

namespace Sys2Proof.Machine

/-- Bits of a code number; 0 for a reserved number (R56). -/
def codeBits (c : Nat) : Nat := listAt 0 [8, 8, 4, 4, 8, 8, 4, 8, 16, 16, 32, 32] c

/-- Bytes that n consecutive elements of a code take, 4-bit codes packed two per byte (R57). -/
def codeBytes (c n : Nat) : Nat := (codeBits c * n + 7) / 8

/-- The code may be an operand of a multiplier (R56). -/
def codeMul (c : Nat) : Bool := decide (c ≤ 9)

/-- The code is a codebook index. -/
def codeCb (c : Nat) : Bool := c == 6 || c == 7

/-- The code is a 16-bit float, split into two parts. -/
def code16 (c : Nat) : Bool := c == 8 || c == 9

/-- The code is an 8-bit or 4-bit integer, as ACC_I32 requires (R66). -/
def codeInt (c : Nat) : Bool := decide (c ≤ 3)

/-- The raw code of element i of bytes that hold elements from their start (R57). -/
def rawAt (c : Nat) (bs : List Byte) (i : Nat) : Nat :=
  match codeBits c with
  | 4 => fieldAt bs (i / 2) 1 / 16 ^ (i % 2) % 16
  | b => fieldAt bs (i * (b / 8)) (b / 8)

/-- Exact value of a stored code that is no codebook index. -/
def codeNum (c raw : Nat) : Num :=
  match c with
  | 0 => numOfInt (signedOf 8 raw) 0
  | 1 => .fin false raw 0
  | 2 => numOfInt (signedOf 4 raw) 0
  | 3 => .fin false raw 0
  | 4 =>
    if raw % 128 = 127 then .nan (raw.testBit 7)
    else if raw % 128 < 8 then .fin (raw.testBit 7) (raw % 8) (-9)
    else .fin (raw.testBit 7) (raw % 8 + 8) ((raw / 8 % 16 : Nat) - 10)
  | 5 => fmtDec 5 2 raw
  | 8 => fmtDec 8 7 raw
  | 9 => fmtDec 5 10 raw
  | 10 => fmtDec 8 23 raw
  | _ => numOfInt (signedOf 32 raw) 0

/-- Value of an X13 (R58). -/
def x13Num (x : X13) : Num := fmtDec 5 7 x.toNat

/-- A value that the X13 grid holds, or a NaN with its sign, as X13 (R59). -/
def toX13 (x : Num) : X13 :=
  match x with
  | .nan s => BitVec.ofNat 13 (4096 * boolNat s + 0xFC0)
  | y => BitVec.ofNat 13 (fmtEnc 5 7 0 y)

/-- Expansion of a raw code into X13; cb is the codebook (R59, R60). -/
def expand (c raw : Nat) (cb : List X13) : X13 := if codeCb c then listAt 0 cb raw else toX13 (codeNum c raw)

/-- Entries of a codebook stored in 16-bit containers (R58). -/
def codebookOf (bs : List Byte) : List X13 := (List.range (bs.length / 2)).map fun i => BitVec.ofNat 13 (fieldAt bs (2 * i) 2)

/-- Entries of a codebook of a code. -/
def cbEntries (c : Nat) : Nat := if c = 6 then 16 else 256

/-! ### Sixteen-bit floats (R61) -/

/-- floor(log2 |x|) of a non-zero finite value. -/
def Num.exp2 (x : Num) : Option Int :=
  match x with
  | .fin _ m e => if m = 0 then none else some ((bitLen m : Int) + e - 1)
  | _ => none

/-- The larger of two optional exponents. -/
def maxExp (a b : Option Int) : Option Int :=
  match a, b with
  | some x, some y => some (max x y)
  | some x, none => some x
  | none, y => y

/-- Group offset D of a group of values. -/
def groupOffset (g : List Num) : Int :=
  match (g.map Num.exp2).foldl maxExp none with
  | none => 0
  | some e => e - 15

/-- High and low part of one element scaled by 2^-D. -/
def splitOne (d : Int) (x : Num) : X13 × X13 :=
  match x with
  | .fin n m e =>
    let e1 := e - d
    let q := max (fmtMin 5 7) ((bitLen m : Int) + e1 - 8)
    let h := quantTrunc m e1 q
    let hi := toX13 (.fin n h q)
    let r := if q ≤ e1 then Num.fin n 0 0 else .fin n (m - h * 2 ^ (q - e1).toNat) e1
    (hi, toX13 (r.scale 8))
  | y => (toX13 y, 0)

/-- One group of 64 operands: high parts, low parts (empty without a split) and the offset D. -/
structure Group where
  hi : List X13
  lo : List X13
  d : Int
deriving DecidableEq, Repr

/-- A group of raw codes expanded by a feeder. -/
def groupOf (c : Nat) (raws : List Nat) (cb : List X13) : Group :=
  if code16 c then
    let g := raws.map fun r => codeNum c r
    let d := groupOffset g
    let p := g.map (splitOne d)
    ⟨p.map (·.1), p.map (·.2), d⟩
  else ⟨raws.map fun r => expand c r cb, [], 0⟩

/-! ### Trees (R63-R67) -/

/-- Products of two operand lists. -/
def products (w a : List X13) : List Num := (w.zip a).map fun p => (x13Num p.1).mul (x13Num p.2)

/-- The finite products summed in the window below P_max, in units of 2^(P_max - 48) (R63). -/
def windowSum (ps : List Num) (pmax : Int) : Int :=
  (ps.map fun p =>
    match p with
    | .fin n m e => let v : Int := quantTrunc m e (pmax - 48); if n then -v else v
    | _ => 0).sum

/-- Sum V of a tree's products before scaling and rounding (R63, R67). -/
def treeValue (ps : List Num) : Num :=
  let pos := ps.any fun p => p == .inf false
  let neg := ps.any fun p => p == .inf true
  if ps.any Num.isNan || (pos && neg) then .nan false
  else if pos then .inf false
  else if neg then .inf true
  else
    match (ps.map Num.exp2).foldl maxExp none with
    | none => .fin false 0 0
    | some pm => numOfInt (windowSum ps pm) (pm - 48)

/-- A tree in ACC_F32 mode: 64 products, the adjustment, one rounding (R63, R64). -/
def treeF32 (w a : List X13) (adj : Int) : Word := toF32 ((treeValue (products w a)).scale adj)

/-- A tree in ACC_I32 mode: the exact integer sum (R66). -/
def treeI32 (w a : List X13) : Int := ((products w a).map fun p => p.floor).sum

/-- An accumulator position: its 32 bits and its sticky overflow bit (R66). -/
structure Acc32 where
  bits : Word
  sticky : Bool
deriving DecidableEq, Repr

/-- An integer added to an INT32 position: modulo 2^32, sticky when the sum leaves the range (R66). -/
def accI32 (p : Acc32) (v : Int) : Acc32 :=
  let t := signedOf 32 p.bits.toNat + v
  ⟨BitVec.ofNat 32 (wrapInt 32 t), p.sticky || decide (t < -(2 ^ 31) ∨ 2 ^ 31 ≤ t)⟩

/-- Two accumulator positions added (R80, R116, R142). -/
def accSum (i32 : Bool) (x y : Acc32) : Acc32 :=
  if i32 then { accI32 x (signedOf 32 y.bits.toNat) with sticky := (accI32 x (signedOf 32 y.bits.toNat)).sticky || y.sticky }
  else ⟨f32Add x.bits y.bits, false⟩

/-- Adjustment of each pass: hi×hi, hi×lo, lo×hi, lo×lo, weight part first (R62). -/
def passes (w a : Group) : List (List X13 × List X13 × Int) :=
  [(w.hi, a.hi, 0)] ++ (if a.lo.isEmpty then [] else [(w.hi, a.lo, -8)]) ++ (if w.lo.isEmpty then [] else [(w.lo, a.hi, -8)]) ++
    (if a.lo.isEmpty || w.lo.isEmpty then [] else [(w.lo, a.lo, -16)])

/-- One group of K added to a position, all its passes in order; sh is the sum of the weight and activation shifts (R62-R66). -/
def accGroup (i32 : Bool) (sh : Int) (p : Acc32) (w a : Group) : Acc32 :=
  if i32 then accI32 p (treeI32 w.hi a.hi)
  else (passes w a).foldl (fun p x => ⟨f32Add p.bits (treeF32 x.1 x.2.1 (sh + w.d + a.d + x.2.2)), false⟩) p

/-- Number of passes P of a pair of codes (R62). -/
def passCount (wc ac : Nat) : Nat := (if code16 wc then 2 else 1) * (if code16 ac then 2 else 1)

end Sys2Proof.Machine
end

