-- ==== Sys2Proof/Machine/Flags.lean ====
section
/-!
DEFINITION. Output conversion with its clip flag (R68, R70), Amalgam blocks (R118, R119), the RANGE_SCAN procedure (R71, R72)
and the block digest (R145).
-/

namespace Sys2Proof.Machine

/-! ### Conversion (R68, R70) -/

/-- A value saturated to an integer range, with its clip flag. -/
def convInt (lo hi : Int) (x : Num) : Int × Bool :=
  match x with
  | .nan _ => (0, true)
  | .inf n => (if n then lo else hi, true)
  | y => let r := y.rne; (clampInt lo hi r, decide (r < lo) || decide (hi < r))

/-- An FP8 conversion: the grid of eb and fb, its largest finite magnitude, whether infinity is kept, and the NaN magnitude. -/
def convFp8 (eb fb top : Nat) (keepInf : Option Nat) (nan : Nat) (x : Num) : Nat × Bool :=
  match x with
  | .nan n => (boolNat n * 128 + nan, false)
  | .inf n =>
    match keepInf with
    | some i => (boolNat n * 128 + i, false)
    | none => (boolNat n * 128 + top, true)
  | .fin n m e => let g := fmtMag eb fb m e; (boolNat n * 128 + min top g, decide (top < g))

/-- A conversion to an IEEE format: a finite value that becomes infinity is clipped. -/
def convIeee (eb fb nan : Nat) (x : Num) : Nat × Bool :=
  let c := fmtEnc eb fb nan x
  let clip := match x with
    | .fin _ m e => decide ((2 ^ eb - 1) * 2 ^ fb ≤ fmtMag eb fb m e)
    | _ => false
  (c, clip)

/-- Distance of two finite values in a common unit. -/
def numDist (x y : Num) : Nat × Int :=
  match x.add y.negate with
  | .fin _ m e => (m, e)
  | _ => (0, 0)

/-- One magnitude lies below another. -/
def magLt (a b : Nat × Int) : Bool :=
  let q := min a.2 b.2
  decide (a.1 * 2 ^ (a.2 - q).toNat < b.1 * 2 ^ (b.2 - q).toNat)

/-- Finite entries of a codebook with their indices. -/
def cbFinite (cb : List X13) : List (Nat × Num) :=
  (cb.map x13Num).zipIdx.filterMap fun p => match p.1 with | .fin n m e => some (p.2, .fin n m e) | _ => none

/-- Lowest index of an entry with a property. -/
def cbIndex (cb : List X13) (f : Num → Bool) : Option Nat :=
  ((cb.map x13Num).zipIdx.find? fun p => f p.1).map (·.2)

/-- The extreme finite entry under an order, the lower index on a tie. -/
def cbExtreme (better : Num → Num → Bool) (l : List (Nat × Num)) : Option (Nat × Num) :=
  l.foldl (fun m p => match m with | none => some p | some b => if better p.2 b.2 then some p else some b) none

/-- Strict numerical order, zeros of either sign being equal. -/
def numLess (x y : Num) : Bool := x.lt y && !x.eqv y

/-- A conversion to a codebook index. -/
def convCb (cb : List X13) (x : Num) : Nat × Bool :=
  let fin := cbFinite cb
  let lo := cbExtreme numLess fin
  let hi := cbExtreme (fun a b => numLess b a) fin
  match x with
  | .nan _ =>
    match cbIndex cb Num.isNan with
    | some i => (i, false)
    | none => (0, true)
  | .inf n =>
    match cbIndex cb (fun y => y == .inf n) with
    | some i => (i, false)
    | none => ((match (if n then lo else hi) with | some p => p.1 | none => 0), true)
  | v =>
    match lo, hi with
    | some l, some h =>
      let near := cbExtreme (fun a b => magLt (numDist v a) (numDist v b)) fin
      ((match near with | some p => p.1 | none => 0), numLess v l.2 || numLess h.2 v)
    | _, _ => (0, true)

/-- The output code of a value and whether it counts as clipped, the sticky bit apart (R68, R70). -/
def convert (code : Nat) (cb : List X13) (x : Num) : Nat × Bool :=
  match code with
  | 0 => let r := convInt (-128) 127 x; (wrapInt 8 r.1, r.2)
  | 1 => let r := convInt 0 255 x; (wrapInt 8 r.1, r.2)
  | 2 => let r := convInt (-8) 7 x; (wrapInt 4 r.1, r.2)
  | 3 => let r := convInt 0 15 x; (wrapInt 4 r.1, r.2)
  | 4 => convFp8 4 3 0x7E none 0x7F x
  | 5 => convFp8 5 2 0x7B (some 0x7C) 0x7E x
  | 6 => convCb cb x
  | 7 => convCb cb x
  | 8 => convIeee 8 7 0x7FC0 x
  | 9 => convIeee 5 10 0x7E00 x
  | 10 => convIeee 8 23 0x7FC00000 x
  | _ => let r := convInt (-(2 ^ 31)) (2 ^ 31 - 1) x; (wrapInt 32 r.1, r.2)

/-! ### Amalgam (R118, R119) -/

/-- VMAX of a code. -/
def amgMax (code : Nat) : Int := match code with | 0 => 127 | 1 => 255 | 4 => 126 | _ => 123

/-- Ordinal of a code before encoding: NaN takes 0, and an E5M2 infinity the largest finite ordinal. -/
def amgOrd (code raw : Nat) : Int :=
  match code with
  | 0 => signedOf 8 raw
  | 1 => raw
  | c =>
    let m := raw % 128
    let top := if c = 4 then 126 else 123
    let m1 : Int := if m ≤ top then m else if c = 5 ∧ m = 124 then 123 else 0
    if raw.testBit 7 then -m1 else m1

/-- The code of an ordinal. -/
def amgCode (code : Nat) (v : Int) : Nat :=
  match code with
  | 0 => wrapInt 8 v
  | 1 => wrapInt 8 v
  | _ => if v < 0 then 128 + v.natAbs else v.natAbs

/-- h(s) of R119. -/
def amgHalf (s : Nat) : Nat := if s = 0 then 0 else 2 ^ (s - 1)

/-- The least shift at which a range r fits residues up to top. -/
def amgShift (top r : Nat) : Nat := ((List.range 9).find? fun s => decide ((r + amgHalf s) / 2 ^ s ≤ top)).getD 8

/-- Residue bits of a mode: 3 for AM2, 2 for AM83. -/
def amgBits (mode : Nat) : Nat := if mode = 1 then 3 else 2

/-- Bytes of one sub-block. -/
def amgSub (mode : Nat) : Nat := if mode = 1 then 8 else 6

/-- One sub-block of 16 codes encoded (R118, R119). -/
def amgEncode (mode code : Nat) (raws : List Nat) : List Byte :=
  let v := raws.map (amgOrd code)
  let lo := v.foldl min (listAt 0 v 0)
  let hi := v.foldl max (listAt 0 v 0)
  let b := amgBits mode
  let sh := amgShift (2 ^ b - 1) (hi - lo).toNat
  let q := v.map fun x => ((x - lo).toNat + amgHalf sh) / 2 ^ sh
  leBytes (amgSub mode) (wrapInt 8 lo + sh * 256 + (q.zipIdx.map fun p => p.1 * 2 ^ (16 + b * p.2)).sum)

/-- One sub-block decoded into 16 codes. -/
def amgDecode (mode code : Nat) (bs : List Byte) : List Nat :=
  let w := leNat bs
  let lo : Int := if code = 1 then ((w % 256 : Nat) : Int) else signedOf 8 w
  let sh := w / 256 % 8
  let b := amgBits mode
  (List.range 16).map fun i => amgCode code (min (lo + ((w / 2 ^ (16 + b * i) % 2 ^ b * 2 ^ sh : Nat) : Int)) (amgMax code))

/-! ### RANGE_SCAN (R71, R72) -/

/-- TMAX of a target code; 0 for a code that is no target. -/
def scanMax (t : Nat) : Nat := listAt 0 [127, 255, 7, 15, 448, 57344] t

/-- Bin of a value that is no NaN. -/
def scanBin (x : Num) : Nat :=
  match x with
  | .inf _ => 31
  | .nan _ => 0
  | y =>
    match y.exp2 with
    | none => 0
    | some e => if e < -15 then 0 else min 31 (e + 16).toNat

/-- round(m * 2^s) > tmax for a magnitude. -/
def scanExceeds (x : Num) (s : Int) (tmax : Nat) : Bool :=
  match x with
  | .inf _ => true
  | y => decide ((tmax : Int) < ((y.scale s).rne.natAbs : Int))

/-- The largest shift from s down to -31 without a clip. -/
def scanDown (x : Num) (tmax : Nat) : Nat → Int → Int
  | 0, s => s
  | n + 1, s => if -31 < s ∧ scanExceeds x s tmax = true then scanDown x tmax n (s - 1) else s

/-- Elements that may clip at shift t, at bin resolution. -/
def scanOver (bins : List Nat) (tmax : Nat) (t : Int) : Nat :=
  listAt 0 bins 31 + ((List.range 30).map fun (j : Nat) =>
    let ex := (j : Int) + 1 - 15 + t
    let big := if 0 ≤ ex then decide (tmax < 2 ^ ex.toNat) else false
    if big then listAt 0 bins (j + 1) else 0).sum

/-- The shift raised while the possible clips stay within the budget. -/
def scanUp (bins : List Nat) (tmax budget : Nat) : Nat → Int → Int
  | 0, s => s
  | n + 1, s => if s < 31 ∧ scanOver bins tmax (s + 1) ≤ budget then scanUp bins tmax budget n (s + 1) else s

/-- The 144-byte record of RANGE_SCAN over a list of values. -/
def scanRecord (policyPct : Bool) (target ppm : Nat) (xs : List Num) : List Byte :=
  let good := xs.filter fun x => !x.isNan
  let nans := xs.length - good.length
  let mags := good.map fun x => if x.isNeg then x.negate else x
  let maxAbs := mags.foldl (fun m x => if m.lt x then x else m) (.fin false 0 0)
  let bins := (List.range 32).map fun i => (mags.filter fun x => scanBin x == i).length
  let tmax := scanMax target
  let zero := decide (good.length = 0) || maxAbs.eqv (.fin false 0 0)
  let allZero := mags.all fun x => x.isInf || x.eqv (.fin false 0 0)
  let smax := if zero then 0 else scanDown maxAbs tmax 64 31
  let budget := ppm * good.length / 1000000
  let s := if zero then 0 else if policyPct then scanUp bins tmax budget 64 smax else smax
  leBytes 4 (toF32 maxAbs).toNat ++ leBytes 1 (wrapInt 8 s) ++ leBytes 1 (wrapInt 8 smax) ++
    leBytes 1 (boolNat policyPct * 16 + target) ++
    leBytes 1 (boolNat (mags.any Num.isInf) * 4 + boolNat (decide (0 < nans)) * 2 + boolNat allZero) ++
    leBytes 4 xs.length ++ leBytes 4 nans ++ (bins.map fun b => leBytes 4 b).flatten

/-! ### Digests (R145) -/

/-- n shifts of the CRC-64 of ECMA-182, most significant bit first. -/
def crc64Steps : Nat → Nat → Nat
  | 0, c => c
  | n + 1, c => crc64Steps n (if c.testBit 63 then (c * 2 % 2 ^ 64) ^^^ 0x42F0E1EBA9EA3693 else c * 2)

/-- CRC-64 of bytes (R145). -/
def crc64 (bs : List Byte) : Nat := bs.foldl (fun c b => crc64Steps 8 (c ^^^ (2 ^ 56 * b.toNat))) 0

end Sys2Proof.Machine
end

