-- ==== Sys2Proof/Machine/Lantern.lean ====
section
/-!
DEFINITION. A Lantern as its sequencer and engines see it: contexts, descriptors and their address references, held tables,
arrays, clip counters, and how a RUN records errors and ends (R69, R80, R92, R123-R134, R146, R433).
-/

namespace Sys2Proof.Machine

/-! ### Access -/

def State.arr (s : State) (n a : Nat) : Arr := listAt Arr.reset (s.lantern n).arrs a
def State.updArr (s : State) (n a : Nat) (f : Arr → Arr) : State :=
  s.updLantern n fun l => { l with arrs := listUpd l.arrs a f }
def State.heldAt (s : State) (n i : Nat) : Held := listAt Held.reset (s.lantern n).held i
def State.setHeld (s : State) (n i : Nat) (h : Held) : State :=
  s.updLantern n fun l => { l with held := listUpd l.held i fun _ => h }
def State.updDesc (s : State) (n q seq : Nat) (f : Desc → Desc) : State :=
  s.updCtx n q fun c => { c with issued := c.issued.map fun d => if d.seq = seq then f d else d }

/-- A clip counter pair CLIPPED, TOTAL (R69). -/
def State.clip (s : State) (n q slot : Nat) : Nat × Nat := sparseGet (0, 0) (s.lantern n).clips (q * 16 + slot)
def State.setClip (s : State) (n q slot : Nat) (v : Nat × Nat) : State :=
  s.updLantern n fun l => { l with clips := sparseSet (0, 0) l.clips (q * 16 + slot) v }

/-- A pair after t conversions of which k count as clipped; both saturate (R69). -/
def clipAdd (v : Nat × Nat) (k t : Nat) : Nat × Nat := (min 0xFFFFFFFF (v.1 + k), min 0xFFFFFFFF (v.2 + t))

/-! ### Arrays (R80) -/

/-- The array takes tiles: enabled in both maps and in LN_CTRL. -/
def State.arrOn (s : State) (n a : Nat) : Bool := !s.arrOff n a && s.flag (Reg.lnCtrl n) (1 + a)

/-- Arrays of a Lantern that take tiles, in ascending order. -/
def State.arrays (s : State) (n : Nat) : List Nat := (List.range 2).filter fun a => s.arrOn n a

/-- The array takes tiles of a descriptor: enabled in both maps now, and in LN_CTRL when the descriptor issued (R94, R98, R99). -/
def State.arrOnFor (s : State) (n : Nat) (d : Desc) (a : Nat) : Bool := !s.arrOff n a && bitOf d.ctl (1 + a)

/-- Arrays that take tiles of a descriptor, in ascending order. -/
def State.arraysOf (s : State) (n : Nat) (d : Desc) : List Nat := (List.range 2).filter fun a => s.arrOnFor n d a

/-! ### Descriptors (R125, R126) -/

def Cap.fld (c : Cap) (off n : Nat) : Nat := fieldAt c.bytes off n
/-- Bits hi to lo of one byte of a descriptor. -/
def Cap.bits (c : Cap) (off hi lo : Nat) : Nat := natBits (c.fld off 1) hi lo
def Cap.flag (c : Cap) (off i : Nat) : Bool := (c.fld off 1).testBit i
/-- A signed byte of a descriptor. -/
def Cap.s8 (c : Cap) (off : Nat) : Int := signedOf 8 (c.fld off 1)
/-- The sum that the address reference at a byte offset gives, and the PDA that it is below 2^37 (R126). -/
def Cap.sum (c : Cap) (off : Nat) : Nat := listAt 0 c.adr (off / 8)
def Cap.ref (c : Cap) (off : Nat) : Option Nat := if c.sum off < 2 ^ 37 then some (c.sum off) else none

def Desc.ty (d : Desc) : Nat := d.cap.fld 0 1
def Desc.tag (d : Desc) : Nat := d.cap.fld 6 2
def Desc.cont (d : Desc) : Bool := d.cap.flag 2 2
def Desc.dig (d : Desc) : Bool := d.cap.flag 2 3
def Desc.reuse (d : Desc) : Bool := d.cap.flag 2 4
def Desc.epc (d : Desc) : Bool := d.cap.flag 2 5
def Desc.fenceFlag (d : Desc) : Bool := d.cap.flag 2 6
def Desc.ser (d : Desc) : Bool := d.cap.flag 2 7

/-- The sum of an 8-byte address reference (R126). -/
def refSum (bases lcs : List Nat) (r : Nat) : Nat :=
  listAt 0 bases (natBits r 39 37) + natBits r 36 0 + listAt 0 lcs (natBits r 47 46) * natBits r 63 48 * 64

/-- The PDA of an address reference; none at 2^37 and above (R126). -/
def refPda (bases lcs : List Nat) (r : Nat) : Option Nat := if refSum bases lcs r < 2 ^ 37 then some (refSum bases lcs r) else none

/-- A descriptor's bytes with every 8-byte slot read as an address reference under the registers of a context (DEDUCED, log entry 13). -/
def SeqCtx.capture (c : SeqCtx) (bs : List Byte) : Cap :=
  ⟨bs, (List.range (bs.length / 8)).map fun i => refSum c.bases c.lcs (fieldAt bs (8 * i) 8)⟩

/-- Length of each descriptor type in 32-byte units (R127). -/
def descLen (ty : Nat) : Option Nat :=
  match ty with
  | 0x00 => some 1
  | 0x01 => some 1
  | 0x02 => some 1
  | 0x08 => some 1
  | 0x09 => some 3
  | 0x0A => some 2
  | 0x10 => some 2
  | 0x20 => some 4
  | 0x21 => some 3
  | 0x22 => some 2
  | 0x23 => some 2
  | _ => none

/-- MMA, SPILL, TAPER and VU are the compute descriptors. -/
def isCompute (ty : Nat) : Bool := decide (0x20 ≤ ty) && decide (ty ≤ 0x23)

/-- Types on which the sequencer acts itself. -/
def isSequencer (ty : Nat) : Bool := ty == 0 || ty == 1 || ty == 8 || ty == 9 || ty == 10

/-! ### Operand access -/

/-- A result, or a status with an address: the DA of a word that reports an error under UNIT_FAULT, the faulting PDA under a status of R53. -/
abbrev Res (α : Type) := Except (Status × Option Nat) α

/-- A status that stops an operand access anywhere in a range. -/
def State.rangeStatus (s : State) (da n : Nat) : Status :=
  match s.accessStatus da with
  | .ok => s.accessStatus (da + n - 1)
  | e => e

/-- n bytes read by an engine of a partition at a PDA (R40, R41, R89). -/
def State.rd (s : State) (p pda n : Nat) : Res (List Byte) :=
  if n = 0 then .ok []
  else
    match s.translate p pda n .rd with
    | none => .error (.bounds, some pda)
    | some da =>
      match s.rangeStatus da n with
      | .ok =>
        match s.firstPoison da n with
        | some x => .error (.unitFault, some x)
        | none => .ok (s.readMem da n)
      | e => .error (e, none)

/-- Bytes written by an engine of a partition at a PDA; a unit that reports an error is not written in part (R308). -/
def State.wr (s : State) (p pda : Nat) (bs : List Byte) : Res State :=
  match s.translate p pda bs.length .wr with
  | none => .error (.bounds, some pda)
  | some da =>
    match s.rangeStatus da bs.length with
    | .ok =>
      match s.partialPoison da bs.length with
      | some x => .error (.unitFault, some x)
      | none => .ok (s.store da bs)
    | e => .error (e, none)

/-- The PDA of an address reference of a descriptor; a sum of 2^37 or more is out of bounds (R126). -/
def Cap.need (c : Cap) (off : Nat) : Res Nat :=
  match c.ref off with
  | some x => .ok x
  | none => .error (.bounds, some (c.sum off))

/-- Elements of a code read from contiguous memory. -/
def State.rdRaws (s : State) (p pda code n : Nat) : Res (List Nat) :=
  match s.rd p pda (codeBytes code n) with
  | .ok bs => .ok ((List.range n).map fun i => rawAt code bs i)
  | .error e => .error e

/-- n elements of a tensor whose plain form begins at a PDA, from byte offset off on. A compressed tensor holds 8-bit codes, sub-block k of
16 codes lying k sub-blocks after the PDA (R118, R121). -/
def State.rdTensor (s : State) (p mode base code off n : Nat) : Res (List Nat) :=
  if mode = 0 then s.rdRaws p (base + off) code n
  else if n = 0 then .ok []
  else
    let k0 := off / 16
    let k := (off + n + 15) / 16 - k0
    let w := amgSub mode
    match s.rd p (base + k0 * w) (k * w) with
    | .ok bs => .ok (((((List.range k).map fun i => amgDecode mode code ((bs.drop (i * w)).take w)).flatten).drop (off % 16)).take n)
    | .error e => .error e

/-- A tensor that can be stored compressed: its code, and pitches that are multiples of 64 bytes (R117, R138) (DESIGN CHOICE, log entry
173). -/
def amgReads (mode code : Nat) (pitches : List Nat) : Bool :=
  mode == 0 || ((code == 0 || code == 1 || code == 4 || code == 5) && pitches.all fun x => decide (x % 64 = 0))

/-- Bytes that x bytes of a tensor's plain form take as stored. -/
def amgStored (mode x : Nat) : Nat := if mode = 0 then x else (x + 15) / 16 * amgSub mode

/-- A PDA resolves to the Lantern's own Ingot. -/
def State.inOwnIngot (s : State) (n p pda len : Nat) : Bool :=
  match s.translate p pda (max 1 len) .rd with
  | none => false
  | some da => decide (ingotBase + mib8 * n ≤ da) && decide (da + max 1 len ≤ ingotBase + mib8 * (n + 1))

/-! ### Errors and the end of a RUN (R133, R246) -/

/-- An error of a context: the first is kept in LN_SEQST and the command's status; stop ends the issue of descriptors. -/
def State.seqError (s : State) (n q : Nat) (st : Status) (ty tag : Nat) (stop : Bool) : State :=
  let c := s.ctx n q
  let s1 := s.updCtx n q fun c => { c with err := (match c.err with | none => some ⟨st, ty, tag⟩ | some e => some e), stop := c.stop || stop }
  match c.cmd with
  | none => s1
  | some id => s1.runError id st tag

/-- A context whose program has ended or stopped and whose issued descriptors have all completed gives up its RUN (R133). -/
def State.finishCtx (s : State) (n q : Nat) : State :=
  let c := s.ctx n q
  match c.cmd with
  | none => s
  | some id =>
    if (c.ended || c.stop) && c.issued.isEmpty then
      let s1 := s.updCtx n q fun c => { c with cmd := none }
      if s1.runsOn id then s1 else s1.stageDone id
    else s

/-- A descriptor's engine has finished with a status. -/
def State.descDone (s : State) (n q seq : Nat) (st : Status) : State := s.updDesc n q seq fun d => { d with done := some st, rmo := none }

/-- A descriptor fails on an operand: a memory error is counted, or a refused access recorded, first (R53, R89). -/
def State.descFail (s : State) (n q seq : Nat) (e : Status × Option Nat) : State :=
  (s.noteFault 0x10 (s.ctx n q).part e).descDone n q seq e.1

/-- The oldest issued descriptor of a type in a context whose engine has not finished. -/
def State.findDesc (s : State) (n q ty : Nat) : Option Desc := (s.ctx n q).issued.find? fun d => d.ty == ty && d.done.isNone

/-- The step of a descriptor type on the issued descriptor of a context; without one nothing happens (log entry 8). -/
def State.onDesc (s : State) (n q ty : Nat) (f : Desc → State → State) : State :=
  match s.findDesc n q ty with
  | none => s
  | some d => f d s

/-! ### Held tables and stores (R92, R136, R433) -/

/-- The owner mark of a context's partition under the present epochs. -/
def State.ownMark (s : State) (n p : Nat) : Nat × Byte × Byte := (p, s.epoch (lnDom n), s.epoch (ingotDom n))

/-- The target's bytes read from a record. -/
def State.loadHeld (s : State) (n p i : Nat) (r : LoadRec) : Res State :=
  let bytes := if i = 4 then codeBytes r.code r.len else r.len
  match s.rd p r.src bytes with
  | .ok bs => .ok (s.setHeld n i ⟨some (s.ownMark n p), r.rtag, r.code, bs⟩)
  | .error e => .error e

/-- A table or store made ready for a descriptor of a context: held under its mark, reloaded from the record, or BAD_OPCODE
without a record (R433). -/
def State.ensureHeld (s : State) (n q i : Nat) : Res State :=
  let c := s.ctx n q
  match listAt none c.recs i with
  | none => .error (.badOpcode, none)
  | some r => if (s.heldAt n i).owner = some (s.ownMark n c.part) then .ok s else s.loadHeld n c.part i r

/-- Several tables made ready. -/
def State.ensureAll (s : State) (n q : Nat) : List Nat → Res State
  | [] => .ok s
  | i :: t =>
    match s.ensureHeld n q i with
    | .ok s1 => s1.ensureAll n q t
    | .error e => .error e

/-- A VU table applied to a value (R86). -/
def tableApply (t : List Byte) (x : Word) : Word :=
  let w := fun i => BitVec.ofNat 32 (fieldAt t (4 * i) 4)
  let tt := f32Mul (f32Sub x (w 0)) (w 1)
  let i : Nat := match f32 tt with
    | .nan _ => 0
    | .inf neg => if neg then 0 else 255
    | y => (clampInt 0 255 y.floor).toNat
  let a : Word := w (2 + 2 * i)
  let b : Word := w (3 + 2 * i)
  if f32IsNan x then 0x7FC00000
  else if (f32 x).isInf && (f32 a).eqv (.fin false 0 0) then b
  else f32Fma a x b

end Sys2Proof.Machine
end

