-- ==== Sys2Proof/Machine/OutWriter.lean ====
section
/-!
DEFINITION. The drain's way through the VU: OUT stages, conversion, clip counting, the writer with its layouts and Amalgam
blocks, the block digest, and the ring flags of a SYNC state (R79, R112, R117-R121, R138, R139, R145).
-/

namespace Sys2Proof.Machine

/-! ### OUT state (R138) -/

def outCode (o : Cap) : Nat := o.bits 8 7 4
def outAmg (o : Cap) : Nat := o.bits 8 3 2
def outLayout (o : Cap) : Nat := o.bits 8 1 0
def outQ (o : Cap) : Int := o.s8 9
def outSlot (o : Cap) : Nat := o.bits 10 3 0
def outSide (o : Cap) : Nat := o.bits 11 3 0
def outChStr (o : Cap) : Nat := o.fld 12 4
def outColPitch (o : Cap) : Nat := o.fld 16 4
def outRowPitch (o : Cap) : Nat := o.fld 20 4
def outChOff (o : Cap) : Nat := o.fld 24 2
def outCbGrp (o : Cap) : Nat := o.fld 28 2

/-- A stage word. -/
def outStage (o : Cap) (k : Nat) : Nat := o.fld (64 + 8 * k) 8
def stageOp (w : Nat) : Nat := natBits w 63 56
def stageOpnd (w : Nat) : Nat := natBits w 55 54

/-- The stages in use: those before the first whose OP is none. -/
def outStages (o : Cap) : List (Nat × Nat) :=
  ((List.range 4).map fun k => (k, outStage o k)).takeWhile fun p => stageOp p.2 != 0

/-- A stage has a valid OP, and a second operand where its OP takes one. -/
def stageOk (w : Nat) : Bool :=
  let op := stageOp w
  (decide (op ≤ 6) || (decide (0x10 ≤ op) && decide (op ≤ 0x13))) && (!(decide (1 ≤ op) && decide (op ≤ 5)) || stageOpnd w != 0)

/-- The checks of an OUT descriptor that need only its fields (R56, R73, R117, R118, R138). -/
def outOk (o : Cap) : Bool :=
  let c := outCode o
  let n := (outStages o).length
  decide (c ≤ 11) && outLayout o != 3 && outAmg o != 3 && decide (-32 ≤ outQ o) && decide (outQ o ≤ 31) &&
  (List.range 4).all (fun k => stageOk (outStage o k) && (decide (k < n) || stageOp (outStage o k) == 0)) &&
  (decide (outChStr o = 0) || decide (codeBits c ≠ 4)) &&
  (!o.flag 10 6 || c == 0 || c == 6) &&
  (outAmg o == 0 || (outLayout o == 0 && !o.flag 10 6 && (c == 0 || c == 1 || c == 4 || c == 5) &&
    decide (outColPitch o % 64 = 0) && decide (outRowPitch o % 64 = 0)))

/-- The check of SIDE_CODE, which the descriptor that uses the OUT state makes (R85, R138), and of a compressed side tensor. -/
def sideOk (mode : Nat) (o : Cap) : Bool :=
  let c := outSide o
  decide (c ≤ 11) && !codeCb c && (decide (outChStr o = 0) || decide (codeBits c ≠ 4)) &&
  amgReads mode c [outColPitch o, outRowPitch o]

/-- A compressed output of m channels: C_pad, which is m rounded up to 16 elements, and the first channel are multiples of 64 (R100, R117)
(DESIGN CHOICE, log entry 175). -/
def amgChannels (o : Cap) (m : Nat) : Bool := outAmg o == 0 || (decide ((m + 15) / 16 * 16 % 64 = 0) && decide (outChOff o % 64 = 0))

/-- VU tables that the stages use. -/
def outTables (o : Cap) : List Nat := (outStages o).filterMap fun p => if 0x10 ≤ stageOp p.2 then some (stageOp p.2 - 0x10) else none

/-- What a descriptor's output goes through. -/
structure OutEnv where
  n : Nat
  q : Nat
  p : Nat
  out : Cap
  i32 : Bool
  /-- Output width, channels and positions of the whole output; depth of the output ring, 0 for none. -/
  ow : Nat
  m : Nat
  npos : Nat
  ring : Nat
  /-- How the side tensor is stored. -/
  sideMode : Nat

/-- One output element: row, column, channel, value and sticky bit. -/
structure Elem where
  y : Nat
  x : Nat
  c : Nat
  v : Word
  sticky : Bool
deriving DecidableEq, Repr

/-- A raw code expanded to binary32 by the VU (R85). -/
def vuIn (code raw : Nat) : Word := toF32 (codeNum code raw)

/-- One element of a code read at a PDA whose element index i counts from there. -/
def State.rdElem (s : State) (p pda code i : Nat) : Res Nat :=
  let off := if codeBits code = 4 then i / 2 else i * (codeBits code / 8)
  match s.rd p (pda + off) ((codeBits code + 7) / 8) with
  | .ok bs => .ok (if codeBits code = 4 then rawAt code bs (i % 2) else leNat bs)
  | .error e => .error e

/-- Byte offset of channel index c of a tensor with a channel stride, for codes of at least 8 bits. -/
def chanOff (str code c : Nat) : Nat := c * (if str = 0 then codeBits code / 8 else str)

/-- The side tensor's element of an output element (R138). -/
def State.sideElem (s : State) (v : OutEnv) (e : Elem) : Res Word :=
  let code := outSide v.out
  match v.out.need 40 with
  | .error x => .error x
  | .ok a =>
    let off := e.y * outRowPitch v.out + e.x * outColPitch v.out
    let c := outChOff v.out + e.c
    match (if v.sideMode ≠ 0 then (match s.rdTensor v.p v.sideMode a code (off + chanOff (outChStr v.out) code c) 1 with
             | .ok l => .ok (listAt 0 l 0)
             | .error x => .error x)
           else if codeBits code = 4 then s.rdElem v.p (a + off) code c
           else s.rdElem v.p (a + off + chanOff (outChStr v.out) code c) code 0) with
    | .ok r => .ok (vuIn code r)
    | .error x => .error x

/-- The second operand of stage k (OPND). -/
def State.stageArg (s : State) (v : OutEnv) (k w : Nat) (e : Elem) : Res Word :=
  match stageOpnd w with
  | 1 => .ok (BitVec.ofNat 32 w)
  | 2 =>
    match v.out.need 48 with
    | .error x => .error x
    | .ok a =>
      match s.rd v.p (a + k * v.out.fld 26 2 * 64 + 4 * e.c) 4 with
      | .ok bs => .ok (BitVec.ofNat 32 (leNat bs))
      | .error x => .error x
  | 3 => s.sideElem v e
  | _ => .ok 0

/-- One stage applied to a binary32 value (R85). -/
def State.stageApply (s : State) (v : OutEnv) (k w : Nat) (e : Elem) (x : Word) : Res Word :=
  let op := stageOp w
  if op = 6 then .ok (f32Abs x)
  else if 0x10 ≤ op then .ok (tableApply (s.heldAt v.n (op - 0x10)).data x)
  else
    match s.stageArg v k w e with
    | .error er => .error er
    | .ok y => .ok (match op with | 1 => f32Add x y | 2 => f32Sub x y | 3 => f32Mul x y | 4 => f32Min x y | _ => f32Max x y)

/-- The stages applied in order. -/
def State.stagesApply (s : State) (v : OutEnv) (e : Elem) : List (Nat × Nat) → Word → Res Word
  | [], x => .ok x
  | (k, w) :: t, x =>
    match s.stageApply v k w e x with
    | .ok y => s.stagesApply v e t y
    | .error er => .error er

/-- The codebook of an output channel (R138). -/
def State.outCodebook (s : State) (v : OutEnv) (c : Nat) : List X13 :=
  let code := outCode v.out
  let g := if outCbGrp v.out = 0 then 0 else c / outCbGrp v.out
  codebookOf (((s.heldAt v.n 5).data.drop (g * (2 * cbEntries code))).take (2 * cbEntries code))

/-- The code of an element and whether it counts as clipped (R68, R70). -/
def State.outConvert (s : State) (v : OutEnv) (e : Elem) : Res (Nat × Bool) :=
  let code := outCode v.out
  let cb := if codeCb code then s.outCodebook v e.c else []
  let st := outStages v.out
  let fin := fun (x : Num) => let r := convert code cb (x.scale (outQ v.out)); (r.1, r.2 || e.sticky)
  if v.i32 && st.isEmpty then .ok (fin (numOfInt (signedOf 32 e.v.toNat) 0))
  else
    match s.stagesApply v e st (if v.i32 then f32OfInt (signedOf 32 e.v.toNat) else e.v) with
    | .ok x => .ok (fin (f32 x))
    | .error er => .error er

/-! ### Writing (R101, R118, R121, R138) -/

/-- A code written as element i from a PDA. -/
def State.wrElem (s : State) (p pda code i raw : Nat) : Res State :=
  if codeBits code = 4 then
    match s.translate p (pda + i / 2) 1 .wr with
    | none => .error (.bounds, some (pda + i / 2))
    | some da =>
      let old := (s.memByte da).toNat
      let b := if i % 2 = 0 then old / 16 * 16 + raw else old % 16 + raw * 16
      s.wr p (pda + i / 2) (leBytes 1 b)
  else s.wr p (pda + i * (codeBits code / 8)) (leBytes (codeBits code / 8) raw)

/-- Byte offset in a feature map, and element index where codes are packed. -/
def outOffset (v : OutEnv) (e : Elem) : Nat × Nat :=
  let code := outCode v.out
  let y := if v.ring = 0 then e.y else e.y % v.ring
  let base := y * outRowPitch v.out + e.x * outColPitch v.out
  let c := outChOff v.out + e.c
  if codeBits code = 4 then (base, c) else (base + chanOff (outChStr v.out) code c, 0)

/-- Element index of an element in a stationary block layout with B rows to a block, K padded to 64 (R101). -/
def blockIndex (b kLen row k : Nat) : Nat := (row / b * ((kLen + 63) / 64) + k / 64) * (b * 64) + row % b * 64 + k % 64

/-- Row and K index of an element in a block layout: rows are positions, or channels when TR = 1. -/
def blockRowK (v : OutEnv) (e : Elem) : Nat × Nat :=
  let pos := e.y * v.ow + e.x
  let c := outChOff v.out + e.c
  if v.out.flag 10 5 then (c, pos) else (pos, c)

/-- K length of a block layout. -/
def blockK (v : OutEnv) : Nat := if v.out.flag 10 5 then v.npos else outChOff v.out + v.m

/-- Rows of a stationary block: 64 for an array, 4 for a Spill unit. -/
def blockB (v : OutEnv) : Nat := if outLayout v.out = 1 then 64 else 4

/-- The zero code of the output (R138). -/
def State.zeroCode (s : State) (v : OutEnv) (c : Nat) : Nat :=
  (convert (outCode v.out) (if codeCb (outCode v.out) then s.outCodebook v c else []) (.fin false 0 0)).1

/-- Zero codes written from K index k to the next multiple of 64 of a row. -/
def State.padRow (s : State) (v : OutEnv) (a row : Nat) (zero : Nat) : Nat → Nat → Res State
  | 0, _ => .ok s
  | n + 1, k =>
    match s.wrElem v.p a (outCode v.out) (blockIndex (blockB v) (blockK v) row k) zero with
    | .ok s1 => s1.padRow v a row zero n (k + 1)
    | .error e => .error e

/-- One code written in a layout without Amalgam; in a block layout the last K element of a row brings its padding. -/
def State.outWrite (s : State) (v : OutEnv) (e : Elem) (raw : Nat) : Res State :=
  match v.out.need 32 with
  | .error x => .error x
  | .ok a =>
    if outLayout v.out = 0 then
      let o := outOffset v e
      s.wrElem v.p (a + o.1) (outCode v.out) o.2 raw
    else
      let rk := blockRowK v e
      let kl := blockK v
      match s.wrElem v.p a (outCode v.out) (blockIndex (blockB v) kl rk.1 rk.2) raw with
      | .error x => .error x
      | .ok s1 =>
        if rk.2 + 1 = kl then s1.padRow v a rk.1 (s1.zeroCode v e.c) ((64 - kl % 64) % 64) kl else .ok s1

/-- What an emission leaves: the state, the codes by position and channel, and what stopped it. -/
structure Emit where
  s : State
  codes : List (Nat × Nat × Nat)
  err : Option (Status × Option Nat)

/-- An element converted and counted. -/
def State.outCount (s : State) (v : OutEnv) (clipped : Bool) : State :=
  s.setClip v.n v.q (outSlot v.out) (clipAdd (s.clip v.n v.q (outSlot v.out)) (boolNat clipped) 1)

/-- Elements without Amalgam, one after another. -/
def emitPlain (v : OutEnv) : List Elem → Emit → Emit
  | [], m => m
  | e :: t, m =>
    match m.s.outConvert v e with
    | .error x => { m with err := some x }
    | .ok r =>
      match (m.s.outCount v r.2).outWrite v e r.1 with
      | .error x => { m with err := some x }
      | .ok s1 => emitPlain v t { m with s := s1, codes := m.codes ++ [(e.y * v.ow + e.x, e.c, r.1)] }

/-- Elements converted and counted, each with its uncompressed offset, for Amalgam. -/
def emitCodes (v : OutEnv) : List Elem → Emit → List (Nat × Nat) → Emit × List (Nat × Nat)
  | [], m, acc => (m, acc)
  | e :: t, m, acc =>
    match m.s.outConvert v e with
    | .error x => ({ m with err := some x }, acc)
    | .ok r =>
      emitCodes v t { m with s := m.s.outCount v r.2, codes := m.codes ++ [(e.y * v.ow + e.x, e.c, r.1)] }
        (acc ++ [((outOffset v e).1, r.1)])

/-- Distinct values of a list in order of first appearance. -/
def distinct (l : List Nat) : List Nat := l.foldl (fun m x => if m.contains x then m else m ++ [x]) []

/-- Compressed blocks written one after another (R118). -/
def amgWrite (v : OutEnv) (codes : List (Nat × Nat)) : List Nat → Emit → Emit
  | [], m => m
  | j :: t, m =>
    let mode := outAmg v.out
    let raws := (List.range 64).map fun i => ((codes.find? fun p => p.1 == 64 * j + i).map (·.2)).getD 0
    let bs := ((List.range 4).map fun k => amgEncode mode (outCode v.out) ((raws.drop (16 * k)).take 16)).flatten
    match v.out.ref 32 with
    | none => { m with err := some (.bounds, none) }
    | some a =>
      match m.s.wr v.p (a + j * (4 * amgSub mode)) bs with
      | .error x => { m with err := some x }
      | .ok s1 => amgWrite v codes t { m with s := s1 }

/-- A list of elements through the OUT state (R79, R121, R138). -/
def emitElems (v : OutEnv) (es : List Elem) (s : State) : Emit :=
  let m : Emit := ⟨s, [], none⟩
  if outAmg v.out = 0 then emitPlain v es m
  else
    let r := emitCodes v es m []
    match r.1.err with
    | some _ => r.1
    | none => amgWrite v r.2 (distinct (r.2.map fun p => p.1 / 64)) r.1

/-! ### Digests (R145) -/

/-- Codes of one position packed as they are stored; an odd final 4-bit code is completed with a zero nibble. -/
def packCodes (code : Nat) : List Nat → List Byte
  | [] => []
  | [a] => if codeBits code = 4 then leBytes 1 a else leBytes (codeBits code / 8) a
  | a :: b :: t => if codeBits code = 4 then leBytes 1 (a + 16 * b) ++ packCodes code t
                   else leBytes (codeBits code / 8) a ++ packCodes code (b :: t)

/-- The digest of an output block: positions ascending, and within a position channels ascending. -/
def blockDigest (code : Nat) (codes : List (Nat × Nat × Nat)) : Nat :=
  let ps := sortBy (fun a b => decide (a ≤ b)) (distinct (codes.map (·.1)))
  crc64 ((ps.map fun p =>
    packCodes code ((sortBy (fun a b => decide (a.2.1 ≤ b.2.1)) (codes.filter fun e => e.1 == p)).map (·.2.2))).flatten)

/-- A digest written to slot i of the digest array by an RMO of the sequencer. -/
def State.digWrite (s : State) (p : Nat) (o : Cap) (i d : Nat) : Res State :=
  match o.need 56 with
  | .error x => .error x
  | .ok a => if (a + 8 * i) % 8 ≠ 0 then .error (.align, some (a + 8 * i)) else s.wr p (a + 8 * i) (leBytes 8 d)

/-! ### Ring flags of a SYNC state (R112, R139) -/

def syncIn (c : Cap) : Bool := c.flag 8 0
def syncOut (c : Cap) : Bool := c.flag 8 1

/-- Rows geometry of a compute descriptor: input rows, vertical stride, kernel extent and top padding, output rows. -/
structure RowGeo where
  hIn : Nat
  s : Nat
  ext : Nat
  pt : Nat
  oh : Nat

/-- Bound of the IN_DONE WAIT before output row y (R112). -/
def inBound (g : RowGeo) (y : Nat) : Nat := min (y * g.s + g.ext - g.pt) g.hIn

/-- The flag WAITs before output row y, as the place of the flag's address reference and the bound; only the input's where the row is not
written yet. -/
def syncWaits (c : Cap) (g : RowGeo) (writes : Bool) (y : Nat) : List (Nat × Nat) :=
  (if syncIn c then [(16, inBound g y)] else []) ++
  (if syncOut c && writes && decide (c.fld 14 2 ≤ y) then [(40, y + 1 - c.fld 14 2)] else [])

/-- What the WAITs of a row find. -/
inductive SyncState
  | ready
  | blocked (da val : Nat)
  | fail (e : Status × Option Nat)
deriving DecidableEq, Repr

/-- Each WAIT of a list tested: translation with AT into an Ingot or the Crucible, then GE. -/
def State.syncTest (s : State) (p : Nat) (c : Cap) : List (Nat × Nat) → SyncState
  | [] => .ready
  | (off, b) :: t =>
    match c.need off with
    | .error e => .fail e
    | .ok pda =>
      if pda % 8 ≠ 0 then .fail (.align, some pda)
      else
        match s.translate p pda 8 .at with
        | none => .fail (.bounds, some pda)
        | some da =>
          if s.unitOf da = .dram then .fail (.bounds, some pda)
          else
            match s.accessStatus da with
            | .ok => if s.poisoned da 8 then .fail (.unitFault, some da)
                     else if b ≤ (s.flagAt da).toNat then s.syncTest p c t else .blocked da b
            | e => .fail (e, none)

/-- A SIGNAL SET of the flag of an address reference by the sequencer. -/
def State.syncSet (s : State) (p : Nat) (c : Cap) (off v : Nat) : Res State :=
  match c.need off with
  | .error e => .error e
  | .ok pda =>
    if pda % 8 ≠ 0 then .error (.align, some pda)
    else
      match s.translate p pda 8 .wr with
      | none => .error (.bounds, some pda)
      | some da =>
        match s.wordAccess da 8 with
        | (_, .ok) => .ok (s.storeNat da 8 v)
        | (_, .unitFault) => .error (.unitFault, some da)
        | (_, e) => .error (e, none)

/-- OUT_DONE set as the count of complete rows passes from a to b (R139). -/
def State.syncDone (s : State) (p : Nat) (c : Cap) (g : RowGeo) (a : Nat) : Nat → Res State
  | 0 => .ok s
  | k + 1 =>
    match s.syncDone p c g a k with
    | .error e => .error e
    | .ok s1 =>
      let v := a + k + 1
      if v % max 1 (c.fld 48 2) = 0 ∨ v = g.oh then s1.syncSet p c 32 v else .ok s1

/-- The flags set after the count of complete rows has passed from a to b (R139). -/
def State.syncAfter (s : State) (p : Nat) (c : Cap) (g : RowGeo) (a b : Nat) : Res State :=
  if b ≤ a then .ok s
  else
    match (if syncOut c then s.syncDone p c g a (b - a) else .ok s) with
    | .error e => .error e
    | .ok s1 =>
      if syncIn c then s1.syncSet p c 24 (if b = g.oh then g.hIn else b * g.s - g.pt) else .ok s1

/-- A WAIT entry of a memory: 64 of them for each Ingot and Crucible bank (R48). -/
def State.waitRoom (s : State) (da : Nat) : Bool :=
  decide ((s.rmos.filter fun r => r.kind == .wait && !r.done && r.entry && decide (s.unitOf r.da = s.unitOf da)).length < 64)

/-- A compute descriptor's WAIT on a flag is put at its memory. -/
def State.syncWait (s : State) (n q : Nat) (d : Desc) (p da val timeout : Nat) : State :=
  match s.fresh with
  | (id, s1) =>
    let r : Rmo := { id := id, issuer := .lantern (Fin.ofNat 16 n), part := p, kind := .wait,
                     req := { a := 0, b := 0, val := BitVec.ofNat 64 val, timeout := timeout },
                     da := da, db := 0, done := false, status := .ok, old := 0, entry := s1.waitRoom da,
                     desc := some (Fin.ofNat 16 n, Fin.ofNat 4 q, d.seq), detail := 0 }
    { s1 with rmos := s1.rmos ++ [r] }.updDesc n q d.seq fun d => { d with rmo := some id }

/-- The flags of output row y tested: the state to go on from, or a pending WAIT, or the descriptor's failure. -/
def State.syncTry (s : State) (n q : Nat) (d : Desc) (p : Nat) (c : Cap) (g : RowGeo) (writes : Bool) (y : Nat) : State × Bool :=
  match s.syncTest p c (syncWaits c g writes y) with
  | .ready => (s, true)
  | .blocked da v => (s.syncWait n q d p da v (c.fld 10 2), false)
  | .fail e => (s.descFail n q d.seq e, false)

/-- The ring flags allow the rows up to y (R139); a WAIT that ended otherwise than with OK ends the descriptor. -/
def State.syncGate (s : State) (n q : Nat) (d : Desc) (p : Nat) (g : RowGeo) (writes : Bool) (y : Nat) : State × Bool :=
  match d.sync with
  | none => (s, true)
  | some c =>
    match d.rmo with
    | none => s.syncTry n q d p c g writes y
    | some id =>
      match s.rmos.find? fun r => r.id == id with
      | none => s.syncTry n q d p c g writes y
      | some r =>
        if r.done = false then (s, false)
        else
          let s1 := { s with rmos := s.rmos.filter fun x => x.id != id }
          if r.status = .ok then (s1.updDesc n q d.seq fun d => { d with rmo := none }).syncTry n q { d with rmo := none } p c g writes y
          else (s1.descDone n q d.seq r.status, false)

end Sys2Proof.Machine
end

