-- ==== Sys2Proof/Machine/Mma.lean ====
section
/-!
DEFINITION. The MMA descriptor (R78-R80, R100-R116, R139-R142, R434): its checks, its blocks, tiles and operands, the
accumulation of an output element, partial sums, dispatch by tickets and the ordered reduction.
-/

namespace Sys2Proof.Machine

/-! ### Fields (R139) -/

def mmaW (c : Cap) : Nat := c.bits 8 7 4
def mmaA (c : Cap) : Nat := c.bits 8 3 0
def mmaI32 (c : Cap) : Bool := c.flag 9 7
def mmaKsplit (c : Cap) : Bool := c.flag 9 6
def mmaPsload (c : Cap) : Bool := c.flag 9 5
def mmaAtomic (c : Cap) : Bool := c.flag 9 4
def mmaKv (c : Cap) : Bool := c.flag 9 3
def mmaTs (c : Cap) : Nat := c.bits 9 2 0
def mmaWcb (c : Cap) : Nat := c.bits 10 7 6
def mmaAcb (c : Cap) : Bool := c.flag 10 5
def mmaM (c : Cap) : Nat := c.fld 12 2
def mmaK (c : Cap) : Nat := c.fld 16 4
def mmaHin (c : Cap) : Nat := c.fld 24 2
def mmaWin (c : Cap) : Nat := c.fld 26 2
def mmaCpad (c : Cap) : Nat := c.fld 28 2
def mmaKh (c : Cap) : Nat := c.bits 30 7 4 + 1
def mmaKw (c : Cap) : Nat := c.bits 30 3 0 + 1
def mmaSh (c : Cap) : Nat := c.bits 31 7 5 + 1
def mmaSw (c : Cap) : Nat := c.bits 31 4 2 + 1
def mmaDh (c : Cap) : Nat := c.bits 32 7 5 + 1
def mmaDw (c : Cap) : Nat := c.bits 32 4 2 + 1
def mmaPad (c : Cap) (hi : Nat) : Nat := natBits (c.fld 33 2) hi (hi - 2)
def mmaConv (c : Cap) : Bool := c.flag 35 0
def mmaColPitch (c : Cap) : Nat := c.fld 36 4
def mmaRowPitch (c : Cap) : Nat := c.fld 40 4
def mmaL2 (c : Cap) : Nat := c.bits 96 7 5
def mmaL1 (c : Cap) : Nat := c.bits 96 4 2
def mmaDisp (c : Cap) : Bool := c.flag 96 1
def mmaDispId (c : Cap) : Nat := c.bits 97 3 0
def mmaStgLen (c : Cap) : Nat := c.fld 108 4
def mmaPsumLen (c : Cap) : Nat := c.fld 120 4

/-- Size of an output axis (R140); 0 when the kernel does not fit. -/
def outSize (inp p0 p1 k d st : Nat) : Nat :=
  let ext := d * (k - 1) + 1
  if inp + p0 + p1 < ext then 0 else (inp + p0 + p1 - ext) / st + 1

def mmaOh (c : Cap) : Nat := if mmaConv c then outSize (mmaHin c) (mmaPad c 15) (mmaPad c 12) (mmaKh c) (mmaDh c) (mmaSh c) else 1
def mmaOw (c : Cap) : Nat := if mmaConv c then outSize (mmaWin c) (mmaPad c 9) (mmaPad c 6) (mmaKw c) (mmaDw c) (mmaSw c) else c.fld 20 4
def mmaN (c : Cap) : Nat := mmaOh c * mmaOw c

/-- N_t, K_b and K elements per group of a tile shape (R108, R109). -/
def tileShape (ts : Nat) : Nat × Nat × Nat :=
  listAt (0, 1, 64) [(16, 512, 64), (32, 256, 64), (64, 128, 64), (128, 64, 64), (8, 1024, 64), (256, 32, 32)] ts

def mmaNt (c : Cap) : Nat := (tileShape (mmaTs c)).1
def mmaKb (c : Cap) : Nat := (tileShape (mmaTs c)).2.1
def mmaGrp (c : Cap) : Nat := (tileShape (mmaTs c)).2.2
/-- L2 blocks: M rows, N positions and K elements to a block; 0 stands for the whole axis. -/
def mmaMb (c : Cap) : Nat := if c.fld 98 2 = 0 then max 1 (mmaM c) else 64 * c.fld 98 2
def mmaNb (c : Cap) : Nat := if c.fld 100 4 = 0 then max 1 (mmaN c) else c.fld 100 4
def mmaKt (c : Cap) : Nat := if c.fld 104 4 = 0 then max 1 (mmaK c) else c.fld 104 4
def ceilDiv (a b : Nat) : Nat := (a + b - 1) / b
def mmaNmb (c : Cap) : Nat := ceilDiv (mmaM c) (mmaMb c)
def mmaNnb (c : Cap) : Nat := ceilDiv (mmaN c) (mmaNb c)
def mmaNkb (c : Cap) : Nat := ceilDiv (mmaK c) (mmaKt c)
/-- The dispatched loop is K (R142). -/
def mmaKdisp (c : Cap) : Bool := mmaDisp c && decide (4 ≤ mmaL2 c)
/-- K is not the innermost loop of an order. -/
def kNotInner (o : Nat) : Bool := o != 0 && o != 2
/-- M runs outside N in an order. -/
def mOuter (o : Nat) : Bool := o == 0 || o == 1 || o == 4
/-- The loop orders keep partial sums (R111) (DEDUCED, log entry 20). -/
def mmaKeeps (c : Cap) : Bool :=
  (decide (1 < mmaNkb c) && kNotInner (mmaL2 c)) || (kNotInner (mmaL1 c) && decide (mmaKb c < mmaKt c))
/-- M_p of R434. -/
def mmaMp (c : Cap) : Nat := 64 * ceilDiv (mmaM c) 64
/-- Iterations of the outermost L2 loop: T of R141. -/
def mmaTickets (c : Cap) : Nat := if 4 ≤ mmaL2 c then mmaNkb c else if mOuter (mmaL2 c) then mmaNmb c else mmaNnb c
/-- Bytes of a weight operand: row blocks of 64 x 64-element blocks (R101). -/
def mmaKgs (c : Cap) : Nat := ceilDiv (mmaK c) 64
def mmaWBytes (c : Cap) : Nat := ceilDiv (mmaM c) 64 * mmaKgs c * 512 * codeBits (mmaW c)

/-- Row geometry for the ring flags. -/
def mmaGeo (c : Cap) : RowGeo :=
  { hIn := mmaHin c, s := mmaSh c, ext := (mmaKh c - 1) * mmaDh c + 1, pt := mmaPad c 15, oh := mmaOh c }

/-- Input rows (or positions) that an N block needs: first and end (R140). -/
def mmaRows (c : Cap) (nb : Nat) : Nat × Nat :=
  let n0 := nb * mmaNb c
  let n1 := min (mmaN c) (n0 + mmaNb c)
  if mmaConv c then
    let r0 := n0 / mmaOw c * mmaSh c - mmaPad c 15
    let r1 := min (mmaHin c) ((n1 - 1) / mmaOw c * mmaSh c + ((mmaKh c - 1) * mmaDh c + 1) - mmaPad c 15)
    (r0, max r0 r1)
  else (n0, n1)

/-- Pitch of the rows of R140's staging. -/
def mmaPitch (c : Cap) : Nat := if mmaConv c then mmaRowPitch c else mmaColPitch c

/-! ### Checks at issue (R66, R73, R103, R108, R110, R140) -/

/-- The checks that need only fields. -/
def mmaFieldsOk (mode : Nat) (c : Cap) (o : Cap) (sync : Option Cap) : Bool :=
  let w := mmaW c
  let a := mmaA c
  let atom := mmaKdisp c && mmaAtomic c
  codeMul w && codeMul a && decide (mmaTs c ≤ 5) && decide (mmaL2 c ≤ 5) && decide (mmaL1 c ≤ 5) &&
  decide (1 ≤ mmaM c) && decide (1 ≤ mmaK c) && decide (mmaK c ≤ 2 ^ 24) && decide (1 ≤ mmaN c) &&
  decide (-32 ≤ c.s8 11) && decide (c.s8 11 ≤ 31) &&
  (!mmaConv c || (decide (1 ≤ mmaHin c) && decide (1 ≤ mmaWin c) && decide (1 ≤ mmaCpad c) && decide (mmaKh c ≤ 15) &&
    decide (mmaKw c ≤ 15) && decide (mmaK c = mmaKh c * mmaKw c * mmaCpad c))) &&
  (codeCb w == (mmaWcb c != 0)) && mmaWcb c != 3 && (codeCb a == mmaAcb c) &&
  (!mmaKv c || ((w == 0 || w == 6) && decide (-32 ≤ c.s8 14) && decide (c.s8 14 ≤ 31))) &&
  decide (c.fld 104 4 % mmaKb c = 0) &&
  (!mmaI32 c || (codeInt w && codeInt a && decide (c.s8 11 = 0) && (!mmaKv c || decide (c.s8 14 = 0)))) &&
  (!(mmaPsload c || mmaKeeps c || mmaKdisp c) ||
    (decide (mmaPsumLen c % 8 = 0) && decide (mmaMp c * mmaN c * (if mmaI32 c then 5 else 4) ≤ mmaPsumLen c))) &&
  (!atom || (outQ o == 0 && (outStages o).isEmpty && outCode o == (if mmaI32 c then 11 else 10))) &&
  (match sync with
   | none => true
   | some y => (!syncIn y || mmaConv c) && (!syncOut y || decide (mmaNb c % max 1 (mmaOw c) = 0))) &&
  amgReads mode a ([mmaColPitch c] ++ if mmaConv c then [mmaRowPitch c] else []) &&
  (decide (mmaStgLen c = 0) || (List.range (mmaNnb c)).all fun b =>
    decide (((mmaRows c b).2 - (mmaRows c b).1) * amgStored mode (mmaPitch c) ≤ mmaStgLen c))

/-- An operand reference resolves to the own Ingot for its length. -/
def State.ownRef (s : State) (n p : Nat) (r : Option Nat) (len : Nat) : Bool :=
  match r with
  | none => false
  | some a => s.inOwnIngot n p a len

/-- A WSH_ADDR whose 64 bits are all 0 reads no shifts (R126). -/
def wshNone (c : Cap) (off : Nat) : Bool := c.fld off 8 == 0

/-- The placement checks of R140. -/
def State.mmaPlaced (s : State) (n p : Nat) (c : Cap) : Bool :=
  s.ownRef n p (c.ref 56) (mmaWBytes c) && (wshNone c 88 || s.ownRef n p (c.ref 88) (mmaM c)) &&
  (mmaWcb c == 0 || s.ownRef n p (c.ref 72) (2 * cbEntries (mmaW c) * (if mmaWcb c = 2 then mmaM c else 1))) &&
  (!mmaAcb c || s.ownRef n p (c.ref 80) (2 * cbEntries (mmaA c))) &&
  (if mmaStgLen c = 0 then s.ownRef n p (c.ref 48) 1 else s.ownRef n p (c.ref 112) (2 * mmaStgLen c))

/-- Weight shifts of rows m0 to m1 (R64, R139). -/
def State.mmaShifts (s : State) (p : Nat) (c : Cap) (m0 m1 : Nat) : Res (List Int) :=
  if mmaKv c then .ok (List.replicate (m1 - m0) (c.s8 14))
  else if wshNone c 88 then .ok (List.replicate (m1 - m0) 0)
  else
    match c.need 88 with
    | .error e => .error e
    | .ok a =>
      match s.rd p (a + m0) (m1 - m0) with
      | .ok bs => .ok (bs.map fun b => signedOf 8 b.toNat)
      | .error e => .error e

/-- What the check at issue finds: a status that ends the descriptor, or none. -/
def State.mmaCheck (s : State) (n p : Nat) (det : Bool) (mode : Nat) (c o : Cap) (sync : Option Cap) : Option Status :=
  if mmaFieldsOk mode c o sync = false then some .badOpcode
  else if s.mmaPlaced n p c = false then some .bounds
  else
    match s.mmaShifts p c 0 (mmaM c) with
    | .error e => some e.1
    | .ok sh =>
      if sh.all (fun x => decide (-32 ≤ x) && decide (x ≤ 31)) = false then some .badOpcode
      else if mmaI32 c && sh.any (fun x => decide (x ≠ 0)) then some .badOpcode
      else if mmaKdisp c && mmaAtomic c && det then some .detForbidden
      else none

/-! ### Operands (R101, R107) -/

/-- Row address of input row r: a ring of R rows under a SYNC state. -/
def inRow (sync : Option Cap) (r : Nat) : Nat :=
  match sync with
  | some y => if syncIn y then r % max 1 (y.fld 12 2) else r
  | none => r

/-- Channels of one tap at a byte offset of a tensor; padding gives none (R103). -/
def State.tapElems (s : State) (p mode base code cpad : Nat) (off : Option Nat) : Res (List (Option Nat)) :=
  match off with
  | none => .ok (List.replicate cpad none)
  | some x =>
    match s.rdTensor p mode base code x cpad with
    | .ok l => .ok (l.map some)
    | .error e => .error e

/-- The taps of one output position gathered in order (R107). -/
def State.gatherTaps (s : State) (p mode base code cpad : Nat) (off : Nat → Nat → Option Nat) :
    List (Nat × Nat) → Res (List (Option Nat))
  | [] => .ok []
  | (ky, kx) :: t =>
    match s.tapElems p mode base code cpad (off ky kx) with
    | .error e => .error e
    | .ok l =>
      match s.gatherTaps p mode base code cpad off t with
      | .ok r => .ok (l ++ r)
      | .error e => .error e

/-- Taps of a kernel: rows ascending, then columns (R107). -/
def kernelTaps (kh kw : Nat) : List (Nat × Nat) := ((List.range kh).map fun y => (List.range kw).map fun x => (y, x)).flatten

/-- A position of the input, or none where it is padding. -/
def tapPos (o st k d pad size : Nat) : Option Nat :=
  let i := o * st + k * d
  if pad ≤ i ∧ i - pad < size then some (i - pad) else none

/-- Where the input rows (or positions) of a block stand: the PDA of the first that stands there, that row's number, and the depth of
the ring that they form, 0 for none. -/
structure ActSrc where
  base : Nat
  first : Nat
  ring : Nat
deriving DecidableEq, Repr

/-- Place of an input row from the base on. -/
def ActSrc.place (a : ActSrc) (r : Nat) : Nat := if a.ring = 0 then r - a.first else r % a.ring

/-- K elements k0 to k1 of the K sequence of output position n, as the activation feeder gathers them (R101, R107). -/
def State.mmaActs (s : State) (p : Nat) (d : Desc) (a : ActSrc) (n k0 k1 : Nat) : Res (List (Option Nat)) :=
  let c := d.cap
  let mode := d.modes.main.val
  if mmaConv c then
    let y := n / mmaOw c
    let x := n % mmaOw c
    let cp := max 1 (mmaCpad c)
    match s.gatherTaps p mode a.base (mmaA c) (mmaCpad c) (fun ky kx =>
        match tapPos y (mmaSh c) ky (mmaDh c) (mmaPad c 15) (mmaHin c), tapPos x (mmaSw c) kx (mmaDw c) (mmaPad c 9) (mmaWin c) with
        | some iy, some ix => some (a.place iy * mmaRowPitch c + ix * mmaColPitch c)
        | _, _ => none) (((kernelTaps (mmaKh c) (mmaKw c)).drop (k0 / cp)).take (ceilDiv k1 cp - k0 / cp)) with
    | .ok l => .ok ((l.drop (k0 % cp)).take (k1 - k0))
    | .error e => .error e
  else
    match s.rdTensor p mode a.base (mmaA c) (a.place n * mmaColPitch c + codeBytes (mmaA c) k0) (k1 - k0) with
    | .ok l => .ok (l.map some)
    | .error e => .error e

/-- A group of raw codes, none standing for the X13 value +0 (R103). -/
def groupOpt (code : Nat) (cb : List X13) (l : List (Option Nat)) : Group :=
  if code16 code then groupOf code (l.map fun o => o.getD 0) cb
  else ⟨l.map fun o => match o with | some r => expand code r cb | none => 0, [], 0⟩

/-- A list cut into groups of g elements. -/
def cutGroups {α : Type} (g : Nat) (l : List α) : List (List α) := (List.range (ceilDiv l.length (max 1 g))).map fun i => (l.drop (i * g)).take g

/-- Activation group g of a position, expanded by the feeder (R59-R61, R76, R107). -/
def State.mmaActGroup (s : State) (p : Nat) (d : Desc) (a : ActSrc) (n g : Nat) : Res Group :=
  let c := d.cap
  match s.mmaActs p d a n (g * mmaGrp c) (min (mmaK c) ((g + 1) * mmaGrp c)) with
  | .ok l => .ok (groupOpt (mmaA c) d.acb l)
  | .error e => .error e

/-- All activation groups of a position. -/
def State.mmaActGroups (s : State) (p : Nat) (d : Desc) (a : ActSrc) (n : Nat) : Res (List Group) :=
  match s.mmaActs p d a n 0 (mmaK d.cap) with
  | .ok l => .ok ((cutGroups (mmaGrp d.cap) l).map (groupOpt (mmaA d.cap) d.acb))
  | .error e => .error e

/-- Raw weights of output row m, K blocks ascending (R101). -/
def State.mmaWRow (s : State) (p : Nat) (c : Cap) (a m : Nat) : Nat → Nat → Res (List Nat)
  | 0, _ => .ok []
  | n + 1, g =>
    let bits := codeBits (mmaW c)
    match s.rdRaws p (a + (m / 64 * mmaKgs c + g) * (512 * bits) + m % 64 * (8 * bits)) (mmaW c) 64 with
    | .error e => .error e
    | .ok l =>
      match s.mmaWRow p c a m n (g + 1) with
      | .ok r => .ok (l ++ r)
      | .error e => .error e

/-- Results of a list, all or the first error. -/
def mapRes {α β : Type} (f : α → Res β) : List α → Res (List β)
  | [] => .ok []
  | x :: t =>
    match f x with
    | .error e => .error e
    | .ok y =>
      match mapRes f t with
      | .ok l => .ok (y :: l)
      | .error e => .error e

/-- A codebook read from a reference, skipping n codebooks; none read where the descriptor has none. -/
def State.bookAt (s : State) (p : Nat) (c : Cap) (on : Bool) (code off n : Nat) : Res (List X13) :=
  if on then
    match c.need off with
    | .error e => .error e
    | .ok a =>
      match s.rd p (a + n * (2 * cbEntries code)) (2 * cbEntries code) with
      | .ok bs => .ok (codebookOf bs)
      | .error e => .error e
  else .ok []

/-- The codebooks of output rows m0 to m1, when each channel has its own: reloaded for each 64-row block (R60, R140) (DEDUCED, log entry
179). -/
def State.rowBooks (s : State) (p : Nat) (c : Cap) (m0 m1 : Nat) : Res (List (List X13)) :=
  if mmaWcb c = 2 then mapRes (fun i => s.bookAt p c true (mmaW c) 72 (m0 + i)) (List.range (m1 - m0)) else .ok []

/-- Weight groups of output row m under a codebook; unused lanes of the last group hold zeros (R76). -/
def State.mmaWGroups (s : State) (p : Nat) (c : Cap) (m : Nat) (cb : List X13) : Res (List Group) :=
  match c.need 56 with
  | .error e => .error e
  | .ok a =>
    match s.mmaWRow p c a m (mmaKgs c) 0 with
    | .ok l => .ok ((cutGroups (mmaGrp c) (l.take (mmaK c))).map fun g => groupOf (mmaW c) g cb)
    | .error e => .error e

/-- Weight groups of rows m0 to m1. -/
def State.mmaWRows (s : State) (p : Nat) (d : Desc) (books : List (List X13)) (m0 m1 : Nat) : Res (List (List Group)) :=
  mapRes (fun i => s.mmaWGroups p d.cap (m0 + i) (if mmaWcb d.cap = 2 then listAt [] books i else d.wcb)) (List.range (m1 - m0))

/-! ### Accumulation (R65, R80, R111) -/

/-- Groups g0 to g1 of an element added to a position in ascending order. -/
def accRange (i32 : Bool) (sh : Int) (ws as : List Group) (g0 g1 : Nat) (p : Acc32) : Acc32 :=
  (((ws.zip as).drop g0).take (g1 - g0)).foldl (fun p x => accGroup i32 sh p x.1 x.2) p

/-- K elements k0 to k1 of an element, tile by tile of K_t; a K-split divides each tile's groups between arrays A and B (R80). -/
def accTiles (c : Cap) (split : Bool) (sh : Int) (ws as : List Group) (k0 k1 : Nat) (p : Acc32) : Acc32 :=
  let g := mmaGrp c
  let kt := mmaKt c
  (List.range (ceilDiv (k1 - k0) kt)).foldl (fun p i =>
    let a := (k0 + i * kt) / g
    let b := ceilDiv (min k1 (k0 + (i + 1) * kt)) g
    if split then
      let mid := a + ceilDiv (b - a) 2
      let x := accRange (mmaI32 c) sh ws as a mid p
      if mid < b then accSum (mmaI32 c) x (accRange (mmaI32 c) sh ws as mid b ⟨0, false⟩) else x
    else accRange (mmaI32 c) sh ws as a b p) p

/-! ### Partial sums (R434) -/

/-- Value and sticky bit of element (m, n) of a partial-sum buffer. -/
def State.psumRd (s : State) (p : Nat) (c : Cap) (a m n : Nat) : Res Acc32 :=
  let i := n * mmaMp c + m
  match s.rd p (a + 4 * i) 4 with
  | .error e => .error e
  | .ok bs =>
    let v := BitVec.ofNat 32 (leNat bs)
    if mmaI32 c then
      match s.rd p (a + 4 * mmaMp c * mmaN c + i) 1 with
      | .ok b => .ok ⟨v, decide (leNat b % 2 = 1)⟩
      | .error e => .error e
    else .ok ⟨v, false⟩

/-- The element (m, n) of a partial-sum buffer written. -/
def State.psumWr (s : State) (p : Nat) (c : Cap) (a m n : Nat) (x : Acc32) : Res State :=
  let i := n * mmaMp c + m
  match s.wr p (a + 4 * i) (leBytes 4 x.bits.toNat) with
  | .error e => .error e
  | .ok s1 => if mmaI32 c then s1.wr p (a + 4 * mmaMp c * mmaN c + i) (leBytes 1 (boolNat x.sticky)) else .ok s1

/-- A fold that keeps the state reached when an element fails. -/
def foldRes {α : Type} (f : State → α → Res State) : List α → State → State × Option (Status × Option Nat)
  | [], s => (s, none)
  | x :: t, s =>
    match f s x with
    | .ok s1 => foldRes f t s1
    | .error e => (s, some e)

/-! ### Blocks and tiles (R108-R111) -/

/-- A tile: rows m0 to m1, positions n0 to n1, and the place of its L2 block in its unit. -/
structure TileBox where
  m0 : Nat
  m1 : Nat
  n0 : Nat
  n1 : Nat
  blk : Nat
deriving DecidableEq, Repr

/-- Tiles of L2 block (mb, nb), the k-th of its unit, in the L1 order. -/
def blockTiles (c : Cap) (mb nb k : Nat) : List TileBox :=
  let m0 := mb * mmaMb c
  let m1 := min (mmaM c) (m0 + mmaMb c)
  let n0 := nb * mmaNb c
  let n1 := min (mmaN c) (n0 + mmaNb c)
  let ms := (List.range (ceilDiv (m1 - m0) 64)).map fun i => (m0 + 64 * i, min m1 (m0 + 64 * (i + 1)))
  let ns := (List.range (ceilDiv (n1 - n0) (max 1 (mmaNt c)))).map fun i => (n0 + mmaNt c * i, min n1 (n0 + mmaNt c * (i + 1)))
  if mOuter (mmaL1 c) then (ms.map fun m => ns.map fun n => ⟨m.1, m.2, n.1, n.2, k⟩).flatten
  else (ns.map fun n => ms.map fun m => ⟨m.1, m.2, n.1, n.2, k⟩).flatten

/-- L2 output blocks in the L2 order. -/
def mmaBlocks (c : Cap) : List (Nat × Nat) :=
  if mOuter (mmaL2 c) then ((List.range (mmaNmb c)).map fun m => (List.range (mmaNnb c)).map fun n => (m, n)).flatten
  else ((List.range (mmaNnb c)).map fun n => (List.range (mmaNmb c)).map fun m => (m, n)).flatten

/-- One unit of an MMA's work: output blocks and a K range. Without dispatch it is the next L2 block; with dispatch it is the
ticket being computed (R141, R142). -/
structure MmaUnit where
  blocks : List (Nat × Nat)
  k0 : Nat
  k1 : Nat
  ticket : Option Nat
deriving DecidableEq, Repr

def mmaUnitOf (d : Desc) : Option MmaUnit :=
  let c := d.cap
  if mmaDisp c then
    match d.tickets with
    | [] => none
    | t :: _ =>
      if mmaKdisp c then some ⟨mmaBlocks c, t * mmaKt c, min (mmaK c) ((t + 1) * mmaKt c), some t⟩
      else if mOuter (mmaL2 c) then some ⟨(List.range (mmaNnb c)).map fun n => (t, n), 0, mmaK c, some t⟩
      else some ⟨(List.range (mmaNmb c)).map fun m => (m, t), 0, mmaK c, some t⟩
  else
    match (mmaBlocks c).drop d.prog with
    | [] => none
    | b :: _ => some ⟨[b], 0, mmaK c, none⟩

/-- Tiles of a unit. -/
def unitTiles (c : Cap) (u : MmaUnit) : List TileBox := (u.blocks.zipIdx.map fun b => blockTiles c b.1.1 b.1.2 b.2).flatten

def tileAt (c : Cap) (u : MmaUnit) (i : Nat) : TileBox := listAt ⟨0, 0, 0, 0, 0⟩ (unitTiles c u) i

/-- Tiles of a unit that have not been drained. -/
def tilesOpen (d : Desc) (u : MmaUnit) : List Nat := (List.range (unitTiles d.cap u).length).filter fun i => !d.drained.contains i

/-- Last output row of a tile. -/
def tileLastRow (c : Cap) (t : TileBox) : Nat := (t.n1 - 1) / max 1 (mmaOw c)

/-- The K-split divides each tile of a descriptor between both arrays (R80). -/
def State.mmaSplit (s : State) (n : Nat) (d : Desc) : Bool := mmaKsplit d.cap && decide ((s.arraysOf n d).length = 2)

/-- K ranges of a unit between which a K-split adds up its arrays: each K_t; the whole range otherwise. -/
def unitSpans (c : Cap) (u : MmaUnit) : List (Nat × Nat) :=
  if mmaKsplit c then
    (List.range (ceilDiv (u.k1 - u.k0) (mmaKt c))).map fun i => (u.k0 + i * mmaKt c, min u.k1 (u.k0 + (i + 1) * mmaKt c))
  else [(u.k0, u.k1)]

/-- K groups of a range that an array runs: first and end (R80). -/
def spanGroups (c : Cap) (split : Bool) (a : Nat) (x : Nat × Nat) : Nat × Nat :=
  let g0 := x.1 / mmaGrp c
  let g1 := ceilDiv x.2 (mmaGrp c)
  let mid := g0 + ceilDiv (g1 - g0) 2
  if split then (if a = 0 then (g0, mid) else (mid, g1)) else (g0, g1)

/-- Place of an array among those that take tiles of a descriptor. -/
def State.arrRank (s : State) (n : Nat) (d : Desc) (a : Nat) : Nat := ((s.arraysOf n d).filter fun b => decide (b < a)).length

/-- Tile i falls to array a: every tile under a K-split, every k-th otherwise (R80). -/
def State.tileOn (s : State) (n : Nat) (d : Desc) (a i : Nat) : Bool :=
  s.mmaSplit n d || decide (i % max 1 (s.arraysOf n d).length = s.arrRank n d a)

/-- Arrays on which tile i of a descriptor runs. -/
def State.tileArrays (s : State) (n : Nat) (d : Desc) (i : Nat) : List Nat := (s.arraysOf n d).filter fun a => s.tileOn n d a i

/-- An array has tiles of a descriptor before it beside those drained. -/
def State.arrLeft (s : State) (n : Nat) (d : Desc) (u : MmaUnit) (a : Nat) : Bool :=
  (tilesOpen d u).any (s.tileOn n d a) ||
  (if mmaDisp d.cap then !d.ticketEnd || decide (1 < d.tickets.length)
   else ((mmaBlocks d.cap).drop (d.prog + 1)).any fun b => (List.range (blockTiles d.cap b.1 b.2 0).length).any (s.tileOn n d a))

/-! ### Output rows (R112, R139) -/

/-- Output rows complete from row 0 without a gap, from the first positions of what is still to be drained. -/
def rowsOf (c : Cap) (rest : List Nat) : Nat :=
  match rest with
  | [] => mmaOh c
  | x :: t => t.foldl min x / max 1 (mmaOw c)

/-- First positions of what a descriptor, and the other members with their tickets, have still to drain. -/
def State.openFrom (s : State) (d : Desc) (u : MmaUnit) : List Nat :=
  let c := d.cap
  ((tilesOpen d u).map fun i => (tileAt c u i).n0) ++
  (match u.ticket with
   | none => ((mmaBlocks c).drop (d.prog + 1)).map fun b => b.2 * mmaNb c
   | some t =>
     match s.counters.find? fun k => some k.id == d.counter with
     | none => []
     | some k => ((List.range k.total).filter fun x => x != t && !k.finished.contains x).map fun x =>
         if mmaKdisp c || mOuter (mmaL2 c) then 0 else x * mmaNb c)

/-! ### Performing a unit -/

/-- Initial value of an element: a loaded partial sum, or +0 (R65). Under K dispatch a ticket loads its own place. -/
def State.mmaInit (s : State) (p : Nat) (c : Cap) (u : MmaUnit) (m n : Nat) : Res Acc32 :=
  if mmaPsload c then
    match c.need 64 with
    | .error e => .error e
    | .ok a => s.psumRd p c (a + (if mmaKdisp c then u.k0 / mmaKt c * mmaPsumLen c else 0)) m n
  else .ok ⟨0, false⟩

/-- Where the input of a tile stands: its block's staging half, or the input itself (R139, R140). -/
def mmaSrc (d : Desc) (t : TileBox) : Res ActSrc :=
  let c := d.cap
  if mmaStgLen c = 0 then
    match c.need 48 with
    | .ok a => .ok ⟨a, 0, if mmaConv c then (match d.sync with | some y => if syncIn y then max 1 (y.fld 12 2) else 0 | none => 0) else 0⟩
    | .error e => .error e
  else
    match c.need 112 with
    | .ok b => .ok ⟨b + (d.prog + t.blk) % 2 * mmaStgLen c, (mmaRows c (t.n0 / mmaNb c)).1, 0⟩
    | .error e => .error e

/-- Operands of a tile: weight groups and shifts of its rows, activation groups of its positions. -/
structure TileOps where
  ws : List (List Group)
  sh : List Int
  as : List (List Group)

/-- The operands of a tile, read in full. -/
def State.tileOps (s : State) (p : Nat) (d : Desc) (t : TileBox) : Res TileOps :=
  match mmaSrc d t with
  | .error e => .error e
  | .ok src =>
    match s.rowBooks p d.cap t.m0 t.m1 with
    | .error e => .error e
    | .ok bk =>
      match s.mmaWRows p d bk t.m0 t.m1 with
      | .error e => .error e
      | .ok ws =>
        match s.mmaShifts p d.cap t.m0 t.m1 with
        | .error e => .error e
        | .ok sh =>
          match mapRes (fun j => s.mmaActGroups p d src (t.n0 + j)) (List.range (t.n1 - t.n0)) with
          | .ok as => .ok ⟨ws, sh, as⟩
          | .error e => .error e

/-- Positions and rows of a tile: positions ascending, rows within (R79). -/
def tileCells (t : TileBox) : List (Nat × Nat) :=
  ((List.range (t.n1 - t.n0)).map fun j => (List.range (t.m1 - t.m0)).map fun i => (i, j)).flatten

/-- K blocks of a tile that are summed already, and their sums in drain order. -/
def Desc.sumOf (d : Desc) (i : Nat) : Nat × List Acc32 :=
  match d.sums.find? fun x => x.1 == i with
  | some x => (x.2.1, x.2.2.map fun v => ⟨v.1, v.2⟩)
  | none => (0, [])

/-- Accumulator values with which K block j of tile i begins, in drain order: loaded partial sums or +0, or the sums so far (R65, R80). -/
def State.tileBase (s : State) (p : Nat) (d : Desc) (u : MmaUnit) (i : Nat) : Res (List Acc32) :=
  let t := tileAt d.cap u i
  if 0 < (d.sumOf i).1 then .ok (d.sumOf i).2
  else mapRes (fun ij => s.mmaInit p d.cap u (t.m0 + ij.1) (t.n0 + ij.2)) (tileCells t)

/-- Accumulator values of a tile over K elements k0 to k1, in drain order. -/
def tileAccs (d : Desc) (split : Bool) (o : TileOps) (t : TileBox) (base : List Acc32) (k0 k1 : Nat) : List Acc32 :=
  ((tileCells t).zip base).map fun x =>
    accTiles d.cap split (listAt 0 o.sh x.1.1 + d.cap.s8 11) (listAt [] o.ws x.1.1) (listAt [] o.as x.1.2) k0 k1 x.2

/-- K index that the last partial sums stored by a unit reach; its start when it stores none (R111). -/
def keepEnd (c : Cap) (u : MmaUnit) : Nat :=
  let last := u.k0 + (ceilDiv (u.k1 - u.k0) (mmaKt c) - 1) * mmaKt c
  if (if mmaKdisp c then kNotInner (mmaL1 c) else mmaKeeps c) then
    (if kNotInner (mmaL1 c) then last + (u.k1 - last - 1) / mmaKb c * mmaKb c else last)
  else u.k0

/-- The OUT environment of an MMA. -/
def mmaEnv (n q p : Nat) (d : Desc) : OutEnv :=
  { n := n, q := q, p := p, out := d.out.getD ⟨[], []⟩, i32 := mmaI32 d.cap, ow := max 1 (mmaOw d.cap), m := mmaM d.cap, npos := mmaN d.cap,
    ring := (match d.sync with | some y => if syncOut y then y.fld 14 2 else 0 | none => 0), sideMode := d.modes.side.val }

/-- Elements of a drained tile. -/
def tileElems (c : Cap) (t : TileBox) (as : List Acc32) : List Elem :=
  (tileCells t).zip as |>.map fun x =>
    let n := t.n0 + x.1.2
    ⟨n / max 1 (mmaOw c), n % max 1 (mmaOw c), t.m0 + x.1.1, x.2.bits, x.2.sticky⟩

/-- A partial of an element added into the output by an atomic addition (R142). -/
def State.atomicAdd (s : State) (v : OutEnv) (e : Elem) : Res State :=
  match v.out.need 32 with
  | .error x => .error x
  | .ok a =>
    let pda := a + (outOffset v e).1
    if pda % 4 ≠ 0 then .error (.align, some pda)
    else
      match s.translate v.p pda 4 .at with
      | none => .error (.bounds, some pda)
      | some da =>
        match s.wordAccess da 4 with
        | (_, .ok) =>
          let old := BitVec.ofNat 32 (s.readNat da 4)
          .ok (s.storeNat da 4 (if v.i32 then old + e.v else f32Add old e.v).toNat)
        | (_, .unitFault) => .error (.unitFault, some da)
        | (_, x) => .error (x, none)

/-- Values of a tile put into the unit's partial-sum buffer (R111, R142, R434). -/
def State.psumTile (s : State) (p : Nat) (c : Cap) (u : MmaUnit) (t : TileBox) (as : List Acc32) : State × Option (Status × Option Nat) :=
  foldRes (fun s (x : (Nat × Nat) × Acc32) =>
    match c.need 64 with
    | .error e => .error e
    | .ok a => s.psumWr p c (a + (if mmaKdisp c then u.k0 / mmaKt c * mmaPsumLen c else 0)) (t.m0 + x.1.1) (t.n0 + x.1.2) x.2)
    ((tileCells t).zip as) s

/-- A tile's accumulators leave through the OUT pipeline or into the ticket's partial; the values of an ATOMIC partial are held until the
ticket's last tile, so that a ticket that runs again adds nothing twice (DESIGN CHOICE, log entry 176). -/
def State.tileDrain (s : State) (n q p : Nat) (d : Desc) (u : MmaUnit) (t : TileBox) (as : List Acc32) : Emit :=
  let c := d.cap
  let v := mmaEnv n q p d
  let es := tileElems c t as
  if mmaKdisp c = false then emitElems v es s
  else if mmaAtomic c then ⟨s, es.map fun e => (e.y * v.ow + e.x, e.c, e.v.toNat), none⟩
  else
    let r := s.psumTile p c u t as
    ⟨r.1, [], r.2⟩

/-- Rows copied into a staging half before a block is computed (R140). -/
def State.stageRows (s : State) (p : Nat) (d : Desc) (half r0 : Nat) : List Nat → Res State
  | [] => .ok s
  | r :: t =>
    let c := d.cap
    let mode := d.modes.main.val
    let pitch := amgStored mode (mmaPitch c)
    let len0 := if mmaConv c then (mmaWin c - 1) * mmaColPitch c + codeBytes (mmaA c) (mmaCpad c) else codeBytes (mmaA c) (mmaK c)
    let len := min pitch ((amgStored mode len0 + 7) / 8 * 8)
    match c.need 48, c.need 112 with
    | .ok a, .ok b =>
      let src := a + (if mmaConv c then inRow d.sync r else r) * pitch
      match s.rd p src len with
      | .error e => .error e
      | .ok bs =>
        match s.wr p (b + half * mmaStgLen c + (r - r0) * pitch) bs with
        | .error e => .error e
        | .ok s1 => s1.stageRows p d half r0 t
    | .error e, _ => .error e
    | _, .error e => .error e

/-- Digests of a unit's blocks (R145). -/
def State.mmaDigests (s : State) (p : Nat) (d : Desc) (u : MmaUnit) (codes : List (Nat × Nat × Nat)) :
    State × Option (Status × Option Nat) :=
  let c := d.cap
  match d.dig, d.out with
  | true, some o =>
    if mmaKdisp c then
      (if mmaAtomic c then foldRes (fun s t => s.digWrite p o t (blockDigest 11 codes)) (u.ticket.toList) s else (s, none))
    else
      foldRes (fun s (b : Nat × Nat) =>
        let inB := fun (e : Nat × Nat × Nat) => decide (e.1 / mmaNb c = b.2) && decide (e.2.1 / mmaMb c = b.1)
        s.digWrite p o (b.1 * mmaNnb c + b.2) (blockDigest (outCode o) (codes.filter inB))) u.blocks s
  | _, _ => (s, none)

/-- CLIPCLR takes effect when the descriptor's engine begins. -/
def State.descBegin (s : State) (n q : Nat) (d : Desc) : State :=
  if d.started then s
  else
    let s1 := s.updDesc n q d.seq fun d => { d with started := true }
    match d.out with
    | some o => if o.flag 10 7 then s1.setClip n q (outSlot o) (0, 0) else s1
    | none => s1

/-- Present form of an issued descriptor. -/
def State.descNow (s : State) (n q seq : Nat) : Option Desc := (s.ctx n q).issued.find? fun d => d.seq == seq

/-- A ticket's tile set is finished at its counter (R114). -/
def State.ticketDone (s : State) (d : Desc) (t : Nat) : State :=
  { s with counters := s.counters.map fun k => if some k.id = d.counter then { k with finished := k.finished ++ [t] } else k }

/-! ### What the feeders hold (R60, R77, R92) -/

/-- Identities of the weights and of the two codebooks of an MMA. -/
def mmaWKey (c : Cap) : List Nat :=
  [c.sum 56, mmaW c, mmaM c, mmaK c, mmaGrp c, mmaWcb c, c.sum 72, boolNat (mmaKv c), c.fld 14 1, c.sum 88]
def mmaCKey (c : Cap) : List Nat := [mmaW c, mmaWcb c, c.sum 72]
def mmaAKey (c : Cap) : List Nat := [mmaA c, boolNat (mmaAcb c), c.sum 80]

/-- What an array holds for a partition under the present epochs, when a descriptor asks to reuse it (R92) (DESIGN CHOICE, log entry 177). -/
def State.heldFor (s : State) (n p : Nat) (d : Desc) (a : Nat) : Option FeedHeld :=
  let h := (s.arr n a).held
  if d.reuse && decide (h.owner = some (s.ownMark n p)) then some h else none

/-- The weight buffer that an array holds for its first pass of a descriptor: rows from m0 on, group g (R92). -/
def State.heldBuf (s : State) (n p : Nat) (d : Desc) (a m0 rows g : Nat) : Option WBuf :=
  match s.heldFor n p d a with
  | none => none
  | some h =>
    match h.buf with
    | none => none
    | some w => if h.wkey = mmaWKey d.cap ∧ h.m0 = m0 ∧ w.hi.length = rows ∧ w.kg = g ∧ d.runs.contains a = false then some w else none

/-- An array's feeders now hold a pass of a descriptor. -/
def State.holdPass (s : State) (n p : Nat) (d : Desc) (a m0 : Nat) (w : WBuf) : State :=
  s.updArr n a fun x => { x with held := ⟨some (s.ownMark n p), mmaWKey d.cap, mmaCKey d.cap, mmaAKey d.cap, m0, d.wcb, d.acb, some w⟩ }

/-- The codebooks of the tensors, held or loaded (R60, R92; DEDUCED, log entry 179). -/
def State.mmaBooks (s : State) (n p : Nat) (d : Desc) : Res (List X13 × List X13) :=
  let c := d.cap
  let hs := (List.range 2).filterMap fun a => s.heldFor n p d a
  match (match hs.find? fun h => h.ckey == mmaCKey c with | some h => (.ok h.wcb : Res (List X13)) | none => s.bookAt p c (mmaWcb c == 1) (mmaW c) 72 0),
        (match hs.find? fun h => h.akey == mmaAKey c with | some h => (.ok h.acb : Res (List X13)) | none => s.bookAt p c (mmaAcb c) (mmaA c) 80 0) with
  | .error e, _ => .error e
  | _, .error e => .error e
  | .ok w, .ok x => .ok (w, x)

/-- The engine of an MMA begins: CLIPCLR takes effect, and the codebooks of its tensors are loaded into the feeders (R60, R77). -/
def State.mmaBegin (s : State) (n q : Nat) (d : Desc) : State :=
  if d.started then s
  else
    match s.mmaBooks n (s.ctx n q).part d with
    | .error e => (s.descBegin n q d).descFail n q d.seq e
    | .ok b => (s.descBegin n q d).updDesc n q d.seq fun d => { d with wcb := b.1, acb := b.2 }

/-- The weight groups of tile i as its arrays' first passes find them: those held from an earlier descriptor take the place of those in
memory (R92). -/
def State.reuseOps (s : State) (n p : Nat) (d : Desc) (u : MmaUnit) (i : Nat) (o : TileOps) : TileOps :=
  let t := tileAt d.cap u i
  (s.tileArrays n d i).foldl (fun o a =>
    let g := (spanGroups d.cap (s.mmaSplit n d) a (listAt (0, 0) (unitSpans d.cap u) (d.sumOf i).1)).1
    match s.heldBuf n p d a t.m0 (t.m1 - t.m0) g with
    | some w => { o with ws := o.ws.zipIdx.map fun r => r.1.set g ⟨listAt [] w.hi r.2, listAt [] w.lo r.2, listAt 0 w.d r.2⟩ }
    | none => o) o

/-- The last pass of a tile on each of its arrays stays in the feeders. -/
def State.holdTile (s : State) (n p : Nat) (d : Desc) (u : MmaUnit) (i : Nat) (o : TileOps) : State :=
  let t := tileAt d.cap u i
  let spans := unitSpans d.cap u
  let split := s.mmaSplit n d
  (s.tileArrays n d i).foldl (fun s a =>
    let g := spanGroups d.cap split a (listAt (0, 0) spans (spans.length - 1))
    if g.1 < g.2 then
      let gs := o.ws.map fun r => listAt (⟨[], [], 0⟩ : Group) r (g.2 - 1)
      s.holdPass n p d a t.m0 ⟨gs.map (·.hi), gs.map (·.lo), gs.map (·.d), o.sh, i, spans.length - 1, t.n1 - t.n0, g.2 - 1, g.1 + 1 == g.2, true⟩
    else s) s

/-! ### A tile from its gate to its drain -/

/-- The arrays of a Lantern drop their tiles and buffers; what their feeders hold stays. -/
def Arr.clear (x : Arr) : Arr := { Arr.reset with held := x.held }
def State.clearArrays (s : State) (n : Nat) : State := s.updLantern n fun l => { l with arrs := l.arrs.map Arr.clear }

/-- Tile i may begin: the ring flags allow its rows, and its block's input stands in its half, which a block begun two blocks earlier no
longer uses (R112, R139, R140). -/
def State.tileReady (s : State) (n q p : Nat) (d : Desc) (u : MmaUnit) (i : Nat) : State × Option Desc :=
  let c := d.cap
  let t := tileAt c u i
  match s.syncGate n q d p (mmaGeo c) (!mmaKdisp c || mmaAtomic c) (tileLastRow c t) with
  | (s1, false) => (s1, none)
  | (s1, true) =>
    if mmaStgLen c = 0 ∨ d.staged.contains t.blk = true then (s1, s1.descNow n q d.seq)
    else if (tilesOpen d u).any fun j => decide ((tileAt c u j).blk + 2 ≤ t.blk) then (s1, none)
    else
      let r := mmaRows c (t.n0 / mmaNb c)
      match s1.stageRows p d ((d.prog + t.blk) % 2) r.1 ((List.range (r.2 - r.1)).map (· + r.1)) with
      | .error e => (s1.descFail n q d.seq e, none)
      | .ok s2 =>
        let s3 := s2.updDesc n q d.seq fun d => { d with staged := d.staged ++ [t.blk] }
        (s3, s3.descNow n q d.seq)

/-- The atomic additions of an ATOMIC ticket (R142). -/
def State.mmaAtoms (s : State) (n q p : Nat) (d : Desc) (codes : List (Nat × Nat × Nat)) : State × Option (Status × Option Nat) :=
  if mmaKdisp d.cap && mmaAtomic d.cap then
    let v := mmaEnv n q p d
    foldRes (fun s (e : Nat × Nat × Nat) => s.atomicAdd v ⟨e.1 / v.ow, e.1 % v.ow, e.2.1, BitVec.ofNat 32 e.2.2, false⟩) codes s
  else (s, none)

/-- After a unit: atomic additions, digests, progress. -/
def State.unitAfter (s : State) (n q p : Nat) (d : Desc) (u : MmaUnit) (codes : List (Nat × Nat × Nat)) : State :=
  match s.mmaAtoms n q p d codes with
  | (s1, some e) => s1.descFail n q d.seq e
  | (s1, none) =>
    match s1.mmaDigests p d u codes with
    | (s2, some e) => s2.descFail n q d.seq e
    | (s2, none) =>
      let s3 := s2.updDesc n q d.seq fun d =>
        { d with prog := d.prog + 1, drained := [], codes := [], sums := [], staged := []
                 tickets := if u.ticket.isSome then d.tickets.drop 1 else d.tickets }
      match u.ticket with | some t => s3.ticketDone d t | none => s3

/-- The ring flags after tile i of a unit: IN_FREE and OUT_DONE follow the complete output rows, which the members of a dispatched loop
count together; under an ORDERED reduction the reduction sets them (R112, R139). -/
def State.tileFlags (s : State) (n q p : Nat) (d : Desc) (u : MmaUnit) (i : Nat) : State :=
  let c := d.cap
  let d1 := { d with drained := d.drained ++ [i] }
  if mmaKdisp c && (!mmaAtomic c || !(tilesOpen d1 u).isEmpty) then s
  else
    match d.sync with
    | none => s
    | some y =>
      let b := rowsOf c (s.openFrom d1 u)
      let a := match u.ticket with
        | none => rowsOf c (s.openFrom d u)
        | some _ => match s.counters.find? fun k => some k.id == d.counter with | some k => k.rows | none => b
      let s1 : State := if u.ticket.isSome then
        { s with counters := s.counters.map fun k => if some k.id = d.counter then { k with rows := max k.rows b } else k } else s
      match s1.syncAfter p y (mmaGeo c) a b with
      | .ok s2 => s2
      | .error e => s1.descFail n q d.seq e

/-- A tile's accumulators leave: the partial sums that its loop order keeps, the OUT pipeline, and with the unit's last tile the unit's
end. -/
def State.tileOut (s : State) (n q p : Nat) (d : Desc) (u : MmaUnit) (i : Nat) (kept : Option (List Acc32)) (as : List Acc32) : State :=
  let t := tileAt d.cap u i
  match (match kept with | some l => s.psumTile p d.cap u t l | none => (s, none)) with
  | (s1, some e) => s1.descFail n q d.seq e
  | (s1, none) =>
    let m := s1.tileDrain n q p d u t as
    match m.err with
    | some e => m.s.descFail n q d.seq e
    | none =>
      let s2 := m.s.updDesc n q d.seq fun d =>
        { d with drained := d.drained ++ [i], codes := d.codes ++ m.codes, sums := d.sums.filter fun x => x.1 != i
                 runs := (d.runs ++ (s1.tileArrays n d i).filter fun a => !d.runs.contains a).filter fun a =>
                   s1.arrLeft n { d with drained := d.drained ++ [i] } u a }
      let s3 := if (tilesOpen d u).all fun j => j == i then s2.unitAfter n q p d u (d.codes ++ m.codes) else s2
      match s3.descNow n q d.seq with
      | some d3 => if d3.done.isSome then s3 else s3.tileFlags n q p d u i
      | none => s3

/-- The partial sums that tile i's loop order keeps, when it keeps any (R111). -/
def State.tileKeep (s : State) (n p : Nat) (d : Desc) (u : MmaUnit) (i : Nat) (o : TileOps) : Res (Option (List Acc32)) :=
  let c := d.cap
  let t := tileAt c u i
  if u.k0 < keepEnd c u then
    match mapRes (fun ij => s.mmaInit p c u (t.m0 + ij.1) (t.n0 + ij.2)) (tileCells t) with
    | .error e => .error e
    | .ok base => .ok (some (tileAccs d (s.mmaSplit n d) o t base u.k0 (keepEnd c u)))
  else .ok none

/-- Tile i computed in one go and drained. A tile's values are formed before its partial sums are stored. -/
def State.tileDo (s : State) (n q p : Nat) (d : Desc) (u : MmaUnit) (i : Nat) : State :=
  let t := tileAt d.cap u i
  match s.tileOps p d t with
  | .error e => s.descFail n q d.seq e
  | .ok o0 =>
    let o := s.reuseOps n p d u i o0
    match s.tileBase p d u i with
    | .error e => s.descFail n q d.seq e
    | .ok base =>
      match s.tileKeep n p d u i o with
      | .error e => s.descFail n q d.seq e
      | .ok kept =>
        let as := tileAccs d (s.mmaSplit n d) o t base (u.k0 + (d.sumOf i).1 * mmaKt d.cap) u.k1
        (s.holdTile n p d u i o).tileOut n q p d u i kept as

/-- What the arrays can do next for an issued MMA: one tile, its end, or nothing while it waits. The answer says whether to go on. -/
def State.mmaTile (s : State) (n q p seq : Nat) : State × Bool :=
  match s.descNow n q seq with
  | none => (s, false)
  | some d =>
    if d.done.isSome then (s, false)
    else
      match mmaUnitOf d with
      | none =>
        if mmaDisp d.cap && (!d.ticketEnd || (mmaKdisp d.cap && !mmaAtomic d.cap && d.tookZero)) then (s, false)
        else (s.descDone n q seq .ok, false)
      | some u =>
        if (s.arraysOf n d).isEmpty then (if mmaDisp d.cap then s else s.descDone n q seq .unitFault, false)
        else
          match tilesOpen d u with
          | [] => (s, false)
          | i :: _ =>
            match s.tileReady n q p d u i with
            | (s1, none) => (s1, false)
            | (s1, some d1) => (s1.tileDo n q p d1 u i, true)

/-- The next tiles of an issued MMA, until one must wait or fails: at most fuel of them. -/
def State.mmaRun (n q p : Nat) (seq : Nat) : Nat → State → State
  | 0, s => s
  | fuel + 1, s =>
    match s.mmaTile n q p seq with
    | (s1, true) => s1.mmaRun n q p seq fuel
    | (s1, false) => s1

/-- At least the tiles that a descriptor has before it, and its end. -/
def mmaFuel (d : Desc) : Nat :=
  ((mmaBlocks d.cap).map fun b => (blockTiles d.cap b.1 b.2 0).length).sum * (if mmaDisp d.cap then d.tickets.length else 1) + 1

/-- MMA: the issued descriptor computes its tiles, or with dispatch those of the tickets that it holds (R140-R142). -/
def State.opMma (n q : Nat) (d : Desc) (s : State) : State :=
  ((s.mmaBegin n q d).mmaRun n q (s.ctx n q).part d.seq (mmaFuel d)).clearArrays n

def execMma (n : LnIx) (q : QIx) (s : State) : Host.Outcome State Fault Refusal := .next (s.onDesc n q 0x20 (State.opMma n q))

/-! ### Tickets (R114, R115, R141) -/

/-- A counter instance. -/
def State.counterOf (s : State) (d : Desc) : Option Counter := s.counters.find? fun k => some k.id == d.counter

/-- A member can still run a ticket of a counter: it has an array for it, and its MMA at the counter is issued and unfinished, or has not
arrived yet (R115). -/
def State.memberCan (s : State) (k : Counter) (n : Nat) : Bool :=
  !s.flag (Reg.lnStatus n) 31 && (List.range 4).any fun q =>
    let c := s.ctx n q
    c.cmd == some k.cmd &&
    (match c.issued.find? fun d => d.counter == some k.id with
     | some d => d.done.isNone && !(s.arraysOf n d).isEmpty
     | none => decide (sparseGet 0 c.arrivals k.dispId ≤ k.k) && !c.stop && !c.ended && !(s.arrays n).isEmpty)

/-- No member of a counter's command can run a tile any more (R115). -/
def State.noMember (s : State) (k : Counter) : Bool :=
  match s.cmd? k.cmd with
  | none => true
  | some c => c.members.all fun n => !s.memberCan k n

/-- TICKET_TAKE: the member's issued MMA takes the re-issued ticket, the lowest ticket not yet taken, or END. At most one
ticket is held ahead of the one being computed (DEDUCED, log entry 51). A member that waits for the reduction after its END may take a
ticket that comes back (DESIGN CHOICE, log entry 178). -/
def State.opTicket (n q : Nat) (d : Desc) (s : State) : State :=
  match s.counterOf d with
  | none => s
  | some k =>
    if s.noMember k && (k.next < k.total || !k.reissue.isEmpty) then s.descDone n q d.seq .unitFault
    else if decide (2 ≤ d.tickets.length) then s
    else
      let give := fun (t : Nat) (k' : Counter) =>
        let s1 : State := { s with counters := s.counters.map fun (x : Counter) => if x.id = k.id then k' else x }
        s1.updDesc n q d.seq fun d => { d with tickets := d.tickets ++ [t], tookZero := d.tookZero || t == 0, ticketEnd := false }
      match k.reissue with
      | t :: r => if (s.arraysOf n d).isEmpty then s else give t { k with reissue := r }
      | [] =>
        if k.next < k.total then (if (s.arraysOf n d).isEmpty then s else give k.next { k with next := k.next + 1 })
        else s.updDesc n q d.seq fun d => { d with ticketEnd := true }

def execTicketTake (n : LnIx) (q : QIx) (s : State) : Host.Outcome State Fault Refusal := .next (s.onDesc n q 0x20 (State.opTicket n q))

/-- Partials of an element added in ticket order (R116, R142). -/
def State.reduceElem (s : State) (p : Nat) (c : Cap) (a total m n : Nat) : Res Acc32 :=
  match mapRes (fun t => s.psumRd p c (a + t * mmaPsumLen c) m n) (List.range total) with
  | .error e => .error e
  | .ok [] => .ok ⟨0, false⟩
  | .ok (x :: t) => .ok (t.foldl (accSum (mmaI32 c)) x)

/-- Block i of the output, as one tile. -/
def blockBox (c : Cap) (i : Nat) : TileBox :=
  let b := listAt (0, 0) (mmaBlocks c) i
  let m0 := b.1 * mmaMb c
  let n0 := b.2 * mmaNb c
  ⟨m0, min (mmaM c) (m0 + mmaMb c), n0, min (mmaN c) (n0 + mmaNb c), 0⟩

/-- Blocks that the reduction has still to do. -/
def blocksOpen (d : Desc) : List Nat := (List.range (mmaBlocks d.cap).length).filter fun i => !d.drained.contains i

/-- Block i of the output reduced, put through the OUT state, digested, and its rows announced (R139, R142, R145). -/
def State.reduceBlock (s : State) (n q p : Nat) (d : Desc) (a total i : Nat) : State :=
  let c := d.cap
  let v := mmaEnv n q p d
  let t := blockBox c i
  let b := listAt (0, 0) (mmaBlocks c) i
  match mapRes (fun ij => s.reduceElem p c a total (t.m0 + ij.1) (t.n0 + ij.2)) (tileCells t) with
  | .error e => s.descFail n q d.seq e
  | .ok as =>
    let m := emitElems v (tileElems c t as) s
    match m.err with
    | some e => m.s.descFail n q d.seq e
    | none =>
      match (if d.dig then m.s.digWrite p v.out (b.1 * mmaNnb c + b.2) (blockDigest (outCode v.out) m.codes) else .ok m.s) with
      | .error e => m.s.descFail n q d.seq e
      | .ok s1 =>
        let s2 := s1.updDesc n q d.seq fun d => { d with drained := d.drained ++ [i] }
        let rows := fun (x : Desc) => rowsOf c ((blocksOpen x).map fun j => (blockBox c j).n0)
        match d.sync with
        | none => s2
        | some y =>
          match s2.syncAfter p y (mmaGeo c) (rows d) (rows { d with drained := d.drained ++ [i] }) with
          | .ok s3 => s3
          | .error e => s2.descFail n q d.seq e

/-- The blocks of a reduction, until one must wait or fails. -/
def State.reduceRun (n q p seq a total : Nat) : Nat → State → State
  | 0, s => s
  | fuel + 1, s =>
    match s.descNow n q seq with
    | none => s
    | some d =>
      if d.done.isSome then s
      else
        match blocksOpen d with
        | [] => s.descDone n q seq .ok
        | i :: _ =>
          match s.syncGate n q d p (mmaGeo d.cap) true (tileLastRow d.cap (blockBox d.cap i)) with
          | (s1, false) => s1
          | (s1, true) => (s1.reduceBlock n q p d a total i).reduceRun n q p seq a total fuel

/-- ORDERED_REDUCTION: once every partial is written, the member that took ticket 0 adds them in ticket order and applies its
OUT state (R142). -/
def State.opReduce (n q : Nat) (d : Desc) (s : State) : State :=
  match s.counterOf d with
  | none => s
  | some k =>
    if mmaKdisp d.cap && !mmaAtomic d.cap && d.tookZero && decide (k.finished.length = k.total) && d.tickets.isEmpty then
      match d.cap.need 64 with
      | .error e => s.descFail n q d.seq e
      | .ok a => (s.descBegin n q d).reduceRun n q (s.ctx n q).part d.seq a k.total ((mmaBlocks d.cap).length + 1)
    else s

def execOrderedReduction (n : LnIx) (q : QIx) (s : State) : Host.Outcome State Fault Refusal :=
  .next (s.onDesc n q 0x20 (State.opReduce n q))

end Sys2Proof.Machine
end

