-- ==== Sys2Proof/Machine/VecUnit.lean ====
section
/-!
DEFINITION. The SPILL, TAPER and VU descriptors (R81-R86, R143, R144): their checks, their operands, and their work row by row.
-/

namespace Sys2Proof.Machine

/-! ### Work row by row -/

/-- A compute descriptor that works output row by output row: rows, geometry, OUT environment, elements of a row. -/
structure RowJob where
  rows : Nat
  geo : RowGeo
  env : OutEnv
  row : State → Nat → Res (List Elem)

/-- The end of a row-wise descriptor: the digest of its whole output, block 0 (R145). -/
def State.rowsEnd (s : State) (n q p : Nat) (d : Desc) (j : RowJob) : State :=
  match (if d.dig then s.digWrite p j.env.out 0 (blockDigest (outCode j.env.out) d.codes) else .ok s) with
  | .ok s1 => s1.descDone n q d.seq .ok
  | .error e => s.descFail n q d.seq e

/-- The rows of a descriptor from its progress on, until one must wait or fails (R139). -/
def State.rowsRun (n q p seq : Nat) (j : RowJob) : Nat → State → State
  | 0, s => s
  | fuel + 1, s =>
    match s.descNow n q seq with
    | none => s
    | some d =>
      if d.done.isSome then s
      else if j.rows ≤ d.prog then s.rowsEnd n q p d j
      else
        match s.syncGate n q d p j.geo true d.prog with
        | (s1, false) => s1
        | (s1, true) =>
          match j.row s1 d.prog with
          | .error e => s1.descFail n q seq e
          | .ok es =>
            let m := emitElems j.env es s1
            match m.err with
            | some e => m.s.descFail n q seq e
            | none =>
              let s2 := m.s.updDesc n q seq fun d => { d with prog := d.prog + 1, codes := d.codes ++ m.codes }
              match d.sync with
              | none => s2.rowsRun n q p seq j fuel
              | some y =>
                match s2.syncAfter p y j.geo d.prog (d.prog + 1) with
                | .ok s3 => s3.rowsRun n q p seq j fuel
                | .error e => s2.descFail n q seq e

/-- The OUT environment of a descriptor. -/
def rowEnv (n q p : Nat) (d : Desc) (i32 : Bool) (ow m npos : Nat) : OutEnv :=
  { n := n, q := q, p := p, out := d.out.getD ⟨[], []⟩, i32 := i32, ow := max 1 ow, m := m, npos := npos,
    ring := (match d.sync with | some y => if syncOut y then y.fld 14 2 else 0 | none => 0), sideMode := d.modes.side.val }

/-! ### SPILL (R81, R82, R143) -/

def spW (c : Cap) : Nat := c.bits 8 7 4
def spA (c : Cap) : Nat := c.bits 8 3 0
def spI32 (c : Cap) : Bool := c.flag 9 7
def spPsload (c : Cap) : Bool := c.flag 9 6
def spKv (c : Cap) : Bool := c.flag 9 5
def spN (c : Cap) : Nat := c.bits 9 2 0
def spM (c : Cap) : Nat := c.fld 12 2
def spK (c : Cap) : Nat := c.fld 16 4
def spPitch (c : Cap) : Nat := c.fld 20 4
def spKgs (c : Cap) : Nat := ceilDiv (spK c) 64

def spFieldsOk (mode : Nat) (c : Cap) (sync : Option Cap) : Bool :=
  let w := spW c
  let a := spA c
  amgReads mode a [spPitch c] &&
  codeMul w && codeMul a && decide (1 ≤ spN c) && decide (spN c ≤ 4) && decide (1 ≤ spM c) && decide (spM c ≤ 1024) &&
  decide (1 ≤ spK c) && decide (spN c * spK c ≤ 8192) && (codeCb w == c.flag 9 4) && (codeCb a == c.flag 9 3) &&
  decide (-32 ≤ c.s8 10) && decide (c.s8 10 ≤ 31) && (!spKv c || ((w == 0 || w == 6) && decide (-32 ≤ c.s8 11) && decide (c.s8 11 ≤ 31))) &&
  (!spI32 c || (codeInt w && codeInt a && decide (c.s8 10 = 0) && (!spKv c || decide (c.s8 11 = 0)))) &&
  (match sync with | none => true | some y => !syncIn y)

/-- Weight shifts per row. -/
def State.spShifts (s : State) (p : Nat) (c : Cap) : Res (List Int) :=
  if spKv c then .ok (List.replicate (spM c) (c.s8 11))
  else if wshNone c 48 then .ok (List.replicate (spM c) 0)
  else
    match c.need 48 with
    | .error e => .error e
    | .ok a =>
      match s.rd p a (spM c) with
      | .ok bs => .ok (bs.map fun b => signedOf 8 b.toNat)
      | .error e => .error e

def State.spCheck (s : State) (n p : Nat) (mode : Nat) (c : Cap) (sync : Option Cap) : Option Status :=
  if s.flag (Reg.lnCtrl n) 3 = false then some .isolated
  else if spFieldsOk mode c sync = false then some .badOpcode
  else if s.ownRef n p (c.ref 24) (ceilDiv (spM c) 4 * spKgs c * (32 * codeBits (spW c))) = false then some .bounds
  else
    match s.spShifts p c with
    | .error e => some e.1
    | .ok sh =>
      if sh.all (fun x => decide (-32 ≤ x) && decide (x ≤ 31)) = false then some .badOpcode
      else if spI32 c && sh.any (fun x => decide (x ≠ 0)) then some .badOpcode
      else none

/-- Raw weights of row m in blocks of 4 rows x 64 elements (R101). -/
def State.spWRow (s : State) (p : Nat) (c : Cap) (a m : Nat) : Nat → Nat → Res (List Nat)
  | 0, _ => .ok []
  | k + 1, g =>
    let bits := codeBits (spW c)
    match s.rdRaws p (a + (m / 4 * spKgs c + g) * (32 * bits) + m % 4 * (8 * bits)) (spW c) 64 with
    | .error e => .error e
    | .ok l =>
      match s.spWRow p c a m k (g + 1) with
      | .ok r => .ok (l ++ r)
      | .error e => .error e

/-- Identity of the activation register (R143). -/
def spKey (c : Cap) : List Nat := [(c.ref 32).getD 0, spPitch c, spA c, spN c, spK c]

/-- The activation register loaded and expanded into X13, or kept under REUSE when its identity and owner match (R82, R143). -/
def State.spLoad (s : State) (n p : Nat) (d : Desc) : Res State :=
  let c := d.cap
  let r := (s.lantern n).spill
  if d.reuse && decide (r.owner = some (s.ownMark n p)) && decide (r.key = spKey c) then .ok s
  else
    match c.need 32, s.bookAt p c (c.flag 9 3) (spA c) 64 0 with
    | .error e, _ => .error e
    | _, .error e => .error e
    | .ok a, .ok cb =>
      match mapRes (fun j => s.rdTensor p d.modes.main.val a (spA c) (j * spPitch c) (spK c)) (List.range (spN c)) with
      | .ok l =>
        let acts := l.map fun r => (cutGroups 64 r).map fun g => let x := groupOf (spA c) g cb; (x.hi, x.lo, x.d)
        .ok (s.updLantern n fun x => { x with spill := ⟨some (s.ownMark n p), spKey c, acts⟩ })
      | .error e => .error e

/-- Initial accumulator of row m, column j, in the layout of R434. -/
def State.spInit (s : State) (p : Nat) (c : Cap) (m j : Nat) : Res Acc32 :=
  if spPsload c then
    match c.need 40 with
    | .error e => .error e
    | .ok a =>
      let mp := 64 * ceilDiv (spM c) 64
      match s.rd p (a + 4 * (j * mp + m)) 4 with
      | .error e => .error e
      | .ok bs =>
        if spI32 c then
          match s.rd p (a + 4 * mp * spN c + j * mp + m) 1 with
          | .ok b => .ok ⟨BitVec.ofNat 32 (leNat bs), decide (leNat b % 2 = 1)⟩
          | .error e => .error e
        else .ok ⟨BitVec.ofNat 32 (leNat bs), false⟩
  else .ok ⟨0, false⟩

/-- The elements of a SPILL: positions n ascending as y = 0, x = n, and rows within. -/
def State.spElems (s : State) (n p : Nat) (c : Cap) : Res (List Elem) :=
  match s.bookAt p c (c.flag 9 4) (spW c) 56 0, s.spShifts p c, c.need 24 with
  | .error e, _, _ => .error e
  | _, .error e, _ => .error e
  | _, _, .error e => .error e
  | .ok wcb, .ok sh, .ok a =>
    match mapRes (fun m => s.spWRow p c a m (spKgs c) 0) (List.range (spM c)) with
    | .error e => .error e
    | .ok ws =>
      let wg := ws.map fun l => (cutGroups 64 (l.take (spK c))).map fun g => groupOf (spW c) g wcb
      let ag := (s.lantern n).spill.acts.map fun l => l.map fun g => (⟨g.1, g.2.1, g.2.2⟩ : Group)
      mapRes (fun (jm : Nat × Nat) =>
        match s.spInit p c jm.2 jm.1 with
        | .error e => .error e
        | .ok i =>
          let g := listAt [] wg jm.2
          let r := accRange (spI32 c) (listAt 0 sh jm.2 + c.s8 10) g (listAt [] ag jm.1) 0 g.length i
          .ok ⟨0, jm.1, jm.2, r.bits, r.sticky⟩)
        ((List.range (spN c)).map fun j => (List.range (spM c)).map fun m => (j, m)).flatten

/-- SPILL: the issued matrix-vector product (R81, R143). -/
def State.opSpill (n q : Nat) (d : Desc) (s : State) : State :=
  let p := (s.ctx n q).part
  let s0 := s.descBegin n q d
  match s0.spLoad n p d with
  | .error e => s0.descFail n q d.seq e
  | .ok s1 =>
    let c := d.cap
    s1.rowsRun n q p d.seq
      { rows := 1, geo := ⟨1, 1, 1, 0, 1⟩, env := rowEnv n q p d (spI32 c) (spN c) (spM c) (spN c),
        row := fun s _ => s.spElems n p c } 2

def execSpill (n : LnIx) (q : QIx) (s : State) : Host.Outcome State Fault Refusal := .next (s.onDesc n q 0x21 (State.opSpill n q))

/-! ### TAPER (R83, R144) -/

def tpHead (c : Cap) : Bool := c.flag 8 7
def tpI32 (c : Cap) : Bool := c.flag 8 6
def tpA (c : Cap) : Nat := c.bits 8 3 0
def tpCout (c : Cap) : Nat := c.fld 12 2
def tpCin (c : Cap) : Nat := c.fld 14 2
def tpHin (c : Cap) : Nat := c.fld 16 2
def tpWin (c : Cap) : Nat := c.fld 18 2
def tpKh (c : Cap) : Nat := c.bits 20 7 5 + 1
def tpKw (c : Cap) : Nat := c.bits 20 4 2 + 1
def tpSh (c : Cap) : Nat := c.bits 21 7 6 + 1
def tpSw (c : Cap) : Nat := c.bits 21 5 4 + 1
def tpPt (c : Cap) : Nat := c.bits 22 7 6
def tpPb (c : Cap) : Nat := c.bits 22 5 4
def tpPl (c : Cap) : Nat := c.bits 22 3 2
def tpPr (c : Cap) : Nat := c.bits 22 1 0
def tpOh (c : Cap) : Nat := outSize (tpHin c) (tpPt c) (tpPb c) (tpKh c) 1 (tpSh c)
def tpOw (c : Cap) : Nat := outSize (tpWin c) (tpPl c) (tpPr c) (tpKw c) 1 (tpSw c)
/-- Receptive field L. -/
def tpL (c : Cap) : Nat := tpCin c * tpKh c * tpKw c

/-- The codebook that a Taper applies to an operand in CB4 or CB8: R83 and R136 permit the codes and no field names a codebook, so its
entries are free (log entry 174). -/
def tpBook (d : Desc) (weight : Bool) (code : Nat) : List X13 :=
  if codeCb code then (List.range (cbEntries code)).map (Config.taperEntry d.free weight code) else []

def tpFieldsOk (mode : Nat) (c : Cap) : Bool :=
  codeMul (tpA c) && amgReads mode (tpA c) [c.fld 24 4, c.fld 28 4] && decide (1 ≤ tpCin c) && decide (1 ≤ tpCout c) && decide (tpL c * tpCout c ≤ 32768) &&
  decide (-32 ≤ c.s8 10) && decide (c.s8 10 ≤ 31) &&
  (if tpHead c then decide (tpCin c ≤ 2048) && decide (tpCout c ≤ 16) && decide (tpKh c ≤ 3) && decide (tpKw c ≤ 3) &&
      decide (tpSh c ≤ 2) && decide (tpSw c ≤ 2) && decide (tpPt c ≤ 1) && decide (tpPb c ≤ 1) && decide (tpPl c ≤ 1) && decide (tpPr c ≤ 1)
   else decide (tpCin c ≤ 8) && decide (tpCout c ≤ 256) && decide (tpKh c ≤ 7) && decide (tpKw c ≤ 7))

/-- The memory at a PDA's first byte. -/
def State.pdaUnit (s : State) (p : Nat) (r : Option Nat) (need : Perm) : Option MemUnit :=
  match r with
  | none => none
  | some a => (s.translate p a 1 need).map s.unitOf

/-- A memory is DRAM. -/
def isDram : Option MemUnit → Bool
  | some .dram => true
  | _ => false

/-- A memory is an Ingot. -/
def isIngot : Option MemUnit → Bool
  | some (.ingot _) => true
  | _ => false

/-- A memory is a Crucible bank. -/
def isCrucible : Option MemUnit → Bool
  | some (.crucible _) => true
  | _ => false

def State.tpShifts (s : State) (p : Nat) (c : Cap) : Res (List Int) :=
  if wshNone c 40 then .ok (List.replicate (tpCout c) 0)
  else
    match c.need 40 with
    | .error e => .error e
    | .ok a =>
      match s.rd p a (tpCout c) with
      | .ok bs => .ok (bs.map fun b => signedOf 8 b.toNat)
      | .error e => .error e

/-- Checks of a TAPER: its limits, its memories, and its operand count against the last LOAD (R83, R144) (DESIGN CHOICE, log entry 19). -/
def State.tpCheck (s : State) (n q p : Nat) (mode : Nat) (c o : Cap) : Option Status :=
  let rec1 := listAt none (s.ctx n q).recs 4
  let inp := s.pdaUnit p (c.ref 32) .rd
  let outp := s.pdaUnit p (o.ref 32) .wr
  if tpFieldsOk mode c = false ∨ isDram inp = true ∨ (tpHead c = true ∧ isCrucible inp = true) ∨ isDram outp = true ∨
     (tpHead c = false ∧ isCrucible outp = true) then some .badOpcode
  else
    match rec1 with
    | none => some .badOpcode
    | some r =>
      if r.len ≠ tpL c * tpCout c then some .badOpcode
      else if tpI32 c && (!codeInt r.code || !codeInt (tpA c) || decide (c.s8 10 ≠ 0)) then some .badOpcode
      else
        match s.tpShifts p c with
        | .error e => some e.1
        | .ok sh =>
          if sh.all (fun x => decide (-32 ≤ x) && decide (x ≤ 31)) = false then some .badOpcode
          else if tpI32 c && sh.any (fun x => decide (x ≠ 0)) then some .badOpcode
          else none

/-- Weight groups of an output channel from the Taper weight store (R136). -/
def State.tpWeights (s : State) (n : Nat) (d : Desc) (o : Nat) : List Group :=
  let h := s.heldAt n 4
  let l := tpL d.cap
  (cutGroups 64 ((List.range l).map fun i => rawAt h.code h.data (o * l + i))).map fun g => groupOf h.code g (tpBook d true h.code)

/-- The elements of output row y: positions ascending, channels within. -/
def State.tpRow (s : State) (n p : Nat) (d : Desc) (y : Nat) : Res (List Elem) :=
  let c := d.cap
  match c.need 32, s.tpShifts p c with
  | .error e, _ => .error e
  | _, .error e => .error e
  | .ok a, .ok sh =>
    let ws := (List.range (tpCout c)).map fun o => s.tpWeights n d o
    match mapRes (fun x =>
      match s.gatherTaps p d.modes.main.val a (tpA c) (tpCin c) (fun ky kx =>
          match tapPos y (tpSh c) ky 1 (tpPt c) (tpHin c), tapPos x (tpSw c) kx 1 (tpPl c) (tpWin c) with
          | some iy, some ix => some (inRow d.sync iy * c.fld 28 4 + ix * c.fld 24 4)
          | _, _ => none) (kernelTaps (tpKh c) (tpKw c)) with
      | .error e => Except.error e
      | .ok l =>
        let ag := (cutGroups 64 l).map (groupOpt (tpA c) (tpBook d false (tpA c)))
        .ok ((List.range (tpCout c)).map fun o =>
          let r := accRange (tpI32 c) (listAt 0 sh o + c.s8 10) (listAt [] ws o) ag 0 ag.length ⟨0, false⟩
          (⟨y, x, o, r.bits, r.sticky⟩ : Elem))) (List.range (tpOw c)) with
    | .ok l => .ok l.flatten
    | .error e => .error e

/-- TAPER: one FIRST or HEAD layer (R83, R144). -/
def State.opTaper (n q : Nat) (d : Desc) (s : State) : State :=
  let p := (s.ctx n q).part
  let c := d.cap
  (s.descBegin n q d).rowsRun n q p d.seq
    { rows := tpOh c, geo := ⟨tpHin c, tpSh c, tpKh c, tpPt c, tpOh c⟩,
      env := rowEnv n q p d (tpI32 c) (tpOw c) (tpCout c) (tpOh c * tpOw c),
      row := fun s y => s.tpRow n p d y } (tpOh c + 1)

def execTaper (n : LnIx) (q : QIx) (s : State) : Host.Outcome State Fault Refusal := .next (s.onDesc n q 0x22 (State.opTaper n q))

/-! ### VU (R85, R86) -/

def vuOp (c : Cap) : Nat := c.fld 8 1
def vuCode (c : Cap) : Nat := c.bits 9 7 4
def vuC (c : Cap) : Nat := c.fld 12 2
def vuH (c : Cap) : Nat := c.fld 14 2
def vuW (c : Cap) : Nat := c.fld 16 2
def vuKh (c : Cap) : Nat := c.bits 18 7 4 + 1
def vuKw (c : Cap) : Nat := c.bits 18 3 0 + 1
def vuSh (c : Cap) : Nat := c.bits 19 7 4 + 1
def vuSw (c : Cap) : Nat := c.bits 19 3 0 + 1
/-- Dilation, which only the depthwise convolution has (R85). -/
def vuDh (c : Cap) : Nat := if vuOp c = 1 then c.bits 20 7 4 + 1 else 1
def vuDw (c : Cap) : Nat := if vuOp c = 1 then c.bits 20 3 0 + 1 else 1
def vuLen (c : Cap) : Nat := c.fld 28 4

/-- Depthwise convolution and pooling have windows. -/
def vuWindowed (c : Cap) : Bool := decide (1 ≤ vuOp c) && decide (vuOp c ≤ 4)
def vuResize (c : Cap) : Bool := vuOp c == 8 || vuOp c == 9

def vuOh (c : Cap) : Nat :=
  if vuWindowed c then outSize (vuH c) (c.bits 21 7 6) (c.bits 21 5 4) (vuKh c) (vuDh c) (vuSh c)
  else if vuResize c then c.fld 22 2 else vuH c
def vuOw (c : Cap) : Nat :=
  if vuWindowed c then outSize (vuW c) (c.bits 21 3 2) (c.bits 21 1 0) (vuKw c) (vuDw c) (vuSw c)
  else if vuResize c then c.fld 24 2 else vuW c

/-- Scale of a resized axis lies in 1/8 to 8. -/
def scaleOk (i o : Nat) : Bool := decide (1 ≤ i) && decide (1 ≤ o) && decide (i ≤ 8 * o) && decide (o ≤ 8 * i)

/-- Channels of a group of a group normalisation; 0 when LEN does not fit the map. -/
def vuGroupC (c : Cap) : Nat :=
  let a := vuH c * vuW c
  if a = 0 ∨ vuLen c % a ≠ 0 then 0 else vuLen c / a

/-- Checks of a VU descriptor (R85). -/
def vuFieldsOk (mode : Nat) (c : Cap) : Bool :=
  let k := vuCode c
  amgReads mode k [c.fld 32 4, c.fld 36 4] &&
  decide (k ≤ 11) && !codeCb k && decide (1 ≤ vuOp c) && decide (vuOp c ≤ 10) &&
  (match vuOp c with
   | 1 => decide (vuKh c ≤ 7) && decide (vuKw c ≤ 7) && decide (vuSh c ≤ 2) && decide (vuSw c ≤ 2) && decide (vuDh c ≤ 4) && decide (vuDw c ≤ 4)
   | 2 => decide (vuKh c ≤ 8) && decide (vuKw c ≤ 8) && decide (vuSh c ≤ 8) && decide (vuSw c ≤ 8)
   | 3 => decide (vuKh c ≤ 8) && decide (vuKw c ≤ 8) && decide (vuSh c ≤ 8) && decide (vuSw c ≤ 8)
   | 4 => decide (vuKh c ≤ 8) && decide (vuKw c ≤ 8) && decide (vuSh c ≤ 8) && decide (vuSw c ≤ 8)
   | 5 => decide (1 ≤ vuLen c) && decide (vuLen c ≤ 65536)
   | 6 => decide (1 ≤ vuLen c) && decide (vuLen c ≤ 65536)
   | 7 => decide (1 ≤ vuLen c) && decide (vuLen c ≤ 65536) && decide (0 < vuGroupC c)
   | 8 => scaleOk (vuH c) (c.fld 22 2) && scaleOk (vuW c) (c.fld 24 2)
   | 9 => scaleOk (vuH c) (c.fld 22 2) && scaleOk (vuW c) (c.fld 24 2)
   | _ => true)

/-- Tables that the operation itself uses: softmax takes its exponential from table 0 (log entry 24). -/
def vuTables (c : Cap) : List Nat := if vuOp c = 5 then [0] else []

/-- One input element as binary32, its value times 2^ISH. -/
def State.vuElem (s : State) (p : Nat) (d : Desc) (iy ix ch : Nat) : Res Word :=
  let c := d.cap
  match c.need 40 with
  | .error e => .error e
  | .ok a =>
    let off := inRow d.sync iy * c.fld 36 4 + ix * c.fld 32 4
    match (if d.modes.main.val = 0 then s.rdElem p (a + off) (vuCode c) ch
           else match s.rdTensor p d.modes.main.val a (vuCode c) (off + ch) 1 with
             | .ok l => .ok (listAt 0 l 0)
             | .error e => .error e) with
    | .ok r => .ok (toF32 ((f32 (vuIn (vuCode c) r)).scale (c.s8 10)))
    | .error e => .error e

/-- The window of an output element in raster order; padding gives none. -/
def State.vuWindow (s : State) (p : Nat) (d : Desc) (y x ch : Nat) : Res (List (Option Word)) :=
  let c := d.cap
  mapRes (fun (k : Nat × Nat) =>
    match tapPos y (vuSh c) k.1 (vuDh c) (c.bits 21 7 6) (vuH c), tapPos x (vuSw c) k.2 (vuDw c) (c.bits 21 3 2) (vuW c) with
    | some iy, some ix => (match s.vuElem p d iy ix ch with | .ok w => .ok (some w) | .error e => .error e)
    | _, _ => Except.ok none) (kernelTaps (vuKh c) (vuKw c))

/-- Pairwise tree over 2^n lane sums (R86). -/
def laneTree : Nat → List Word → Word
  | 0, l => listAt 0 l 0
  | n + 1, l => laneTree n ((List.range (2 ^ n)).map fun i => f32Add (listAt 0 l (2 * i)) (listAt 0 l (2 * i + 1)))

/-- A reduction: lane j sums elements j, j + 128, ... in ascending order, then the tree (R86). -/
def vuSum (l : List Word) : Word :=
  laneTree 7 ((List.range 128).map fun j =>
    ((List.range (ceilDiv l.length 128)).filterMap fun i => if i * 128 + j < l.length then some (listAt 0 l (i * 128 + j)) else none).foldl
      f32Add 0)

/-- Softmax of a row with the exponential table t (R86). -/
def vuSoftmaxRow (t : List Byte) (l : List Word) : List Word :=
  let m := l.foldl f32Max 0xFF800000
  let e := l.map fun x => tableApply t (f32Sub x m)
  let sum := vuSum e
  e.map fun x => f32Div x sum

/-- Mean and reciprocal deviation of a normalisation group (R86). -/
def vuNormStats (eps : Word) (l : List Word) : Word × Word :=
  let n := f32OfInt l.length
  let mean := f32Div (vuSum l) n
  let var := f32Div (vuSum (l.map fun x => let dx := f32Sub x mean; f32Mul dx dx)) n
  (mean, f32Rsqrt (f32Add var eps))

/-- (x - mean) x rsqrt x gamma + beta. -/
def vuNormalise (st : Word × Word) (g b x : Word) : Word := f32Add (f32Mul (f32Mul (f32Sub x st.1) st.2) g) b

/-- Gamma and beta of a channel: C gammas, then C betas (log entry 25). -/
def State.vuGammaBeta (s : State) (p : Nat) (c : Cap) (ch : Nat) : Res (Word × Word) :=
  match c.need 48 with
  | .error e => .error e
  | .ok a =>
    match s.rd p (a + 4 * ch) 4 with
    | .error e => .error e
    | .ok g =>
      match s.rd p (a + 4 * vuC c + 4 * ch) 4 with
      | .ok b => .ok (BitVec.ofNat 32 (leNat g), BitVec.ofNat 32 (leNat b))
      | .error e => .error e

/-- The depthwise sum of a window with the taps (c, ky, kx): products and additions in raster order, each rounded. -/
def State.vuDepth (s : State) (p : Nat) (c : Cap) (ch : Nat) (w : List (Option Word)) : Res Word :=
  match c.need 48 with
  | .error e => .error e
  | .ok a =>
    match s.rd p (a + 4 * (ch * w.length)) (4 * w.length) with
    | .error e => .error e
    | .ok t => .ok ((w.zipIdx).foldl (fun acc x => f32Add acc (f32Mul (x.1.getD 0) (BitVec.ofNat 32 (fieldAt t (4 * x.2) 4)))) 0)

/-- A windowed operation on one window. -/
def State.vuWinOp (s : State) (p : Nat) (c : Cap) (ch : Nat) (w : List (Option Word)) : Res Word :=
  let real := w.filterMap id
  match vuOp c with
  | 1 => s.vuDepth p c ch w
  | 2 => .ok (real.foldl f32Max 0xFF800000)
  | 3 => .ok (f32Div (vuSum (w.map fun o => o.getD 0)) (f32OfInt w.length))
  | _ => .ok (f32Div (vuSum real) (f32OfInt real.length))

/-- Source index of a nearest resize with half-pixel centres. -/
def nearestIx (i o y : Nat) : Nat := min (i - 1) ((2 * y + 1) * i / (2 * o))

/-- Two source indices of a bilinear axis and the numerator of the second one's weight over 2 o. -/
def bilinearIx (i o y : Nat) : Nat × Nat × Nat :=
  let t : Int := ((2 * y + 1) * i : Nat) - (o : Int)
  let f := t / (2 * o : Int)
  let cl := fun (v : Int) => (clampInt 0 ((i : Int) - 1) v).toNat
  (cl f, cl (f + 1), (t % (2 * o : Int)).toNat)

/-- A bilinear sample: a tap where the four agree or the other weights are zero, NaN where a tap of non-zero weight is NaN (R85), otherwise
free (log entry 26). -/
def bilinearOf (a b e f : Word) (nx dx ny dy : Nat) : Word :=
  if nx = 0 ∧ ny = 0 then a else if a = b ∧ a = e ∧ a = f then a
  else if f32IsNan a || (nx != 0 && f32IsNan b) || (ny != 0 && f32IsNan e) || (nx != 0 && ny != 0 && f32IsNan f) then 0x7FC00000
  else Config.bilinear [a, b, e, f] [nx, dx, ny, dy]

/-- One value of a resize or of a plain pass. -/
def State.vuPoint (s : State) (p : Nat) (d : Desc) (y x ch : Nat) : Res Word :=
  let c := d.cap
  match vuOp c with
  | 8 => s.vuElem p d (nearestIx (vuH c) (vuOh c) y) (nearestIx (vuW c) (vuOw c) x) ch
  | 9 =>
    let v := bilinearIx (vuH c) (vuOh c) y
    let h := bilinearIx (vuW c) (vuOw c) x
    match s.vuElem p d v.1 h.1 ch, s.vuElem p d v.1 h.2.1 ch, s.vuElem p d v.2.1 h.1 ch, s.vuElem p d v.2.1 h.2.1 ch with
    | .ok a, .ok b, .ok e, .ok f => .ok (bilinearOf a b e f h.2.2 (2 * vuOw c) v.2.2 (2 * vuOh c))
    | .error e, _, _, _ => .error e
    | _, .error e, _, _ => .error e
    | _, _, .error e, _ => .error e
    | _, _, _, .error e => .error e
  | _ => s.vuElem p d y x ch

/-- The channels of one position in groups of LEN, for softmax and layer normalisation. -/
def State.vuPosition (s : State) (p : Nat) (d : Desc) (y x : Nat) : Res (List Word) :=
  mapRes (fun ch => s.vuElem p d y x ch) (List.range (vuC d.cap))

/-- The values of one position of a reduction along channels. -/
def State.vuAlong (s : State) (n p : Nat) (d : Desc) (y x : Nat) : Res (List Word) :=
  let c := d.cap
  match s.vuPosition p d y x with
  | .error e => .error e
  | .ok l =>
    let gs := cutGroups (vuLen c) l
    if vuOp c = 5 then .ok (gs.map (vuSoftmaxRow (s.heldAt n 0).data)).flatten
    else
      mapRes (fun (v : Word × Nat) =>
        match s.vuGammaBeta p c v.2 with
        | .ok gb => .ok (vuNormalise (vuNormStats (BitVec.ofNat 32 (c.fld 56 4)) (listAt [] gs (v.2 / vuLen c))) gb.1 gb.2 v.1)
        | .error e => .error e) l.zipIdx

/-- The elements of group g of a group normalisation: positions in raster order, channels within (log entry 25). -/
def State.vuGroupElems (s : State) (p : Nat) (d : Desc) (g : Nat) : Res (List Word) :=
  let c := d.cap
  let k := vuGroupC c
  mapRes (fun (i : Nat) => s.vuElem p d (i / k / vuW c) (i / k % vuW c) (g * k + i % k)) (List.range (vuLen c))

/-- The values of one position under group normalisation. -/
def State.vuGroupPos (s : State) (p : Nat) (d : Desc) (st : List (Word × Word)) (y x : Nat) : Res (List Word) :=
  let c := d.cap
  mapRes (fun ch =>
    match s.vuElem p d y x ch, s.vuGammaBeta p c ch with
    | .ok v, .ok gb => .ok (vuNormalise (listAt (0, 0) st (ch / max 1 (vuGroupC c))) gb.1 gb.2 v)
    | .error e, _ => .error e
    | _, .error e => .error e) (List.range (vuC c))

/-- The values of the channels of output position (y, x). -/
def State.vuPosValues (s : State) (n p : Nat) (d : Desc) (st : List (Word × Word)) (y x : Nat) : Res (List Word) :=
  let c := d.cap
  if vuWindowed c then
    mapRes (fun ch =>
      match s.vuWindow p d y x ch with
      | .ok w => s.vuWinOp p c ch w
      | .error e => .error e) (List.range (vuC c))
  else if vuOp c = 5 ∨ vuOp c = 6 then s.vuAlong n p d y x
  else if vuOp c = 7 then s.vuGroupPos p d st y x
  else mapRes (fun ch => s.vuPoint p d y x ch) (List.range (vuC c))

/-- The elements of output row y of a VU descriptor. -/
def State.vuRow (s : State) (n p : Nat) (d : Desc) (y : Nat) : Res (List Elem) :=
  let c := d.cap
  match (if vuOp c = 7 then
      mapRes (fun g => match s.vuGroupElems p d g with
        | .ok l => .ok (vuNormStats (BitVec.ofNat 32 (c.fld 56 4)) l)
        | .error e => .error e) (List.range (ceilDiv (vuC c) (max 1 (vuGroupC c))))
    else Except.ok []) with
  | .error e => .error e
  | .ok st =>
    match mapRes (fun x =>
      match s.vuPosValues n p d st y x with
      | .ok l => Except.ok (l.zipIdx.map fun v => (⟨y, x, v.2, v.1, false⟩ : Elem))
      | .error e => .error e) (List.range (vuOw c)) with
    | .ok l => .ok l.flatten
    | .error e => .error e

/-- Row geometry for the ring flags: windows as R112 states; one row for one row otherwise; a resize and a group normalisation
need the whole input (log entry 27). -/
def vuGeo (c : Cap) : RowGeo :=
  if vuWindowed c then ⟨vuH c, vuSh c, (vuKh c - 1) * vuDh c + 1, c.bits 21 7 6, vuOh c⟩
  else if vuResize c || vuOp c == 7 then ⟨vuH c, 0, vuH c, 0, vuOh c⟩
  else ⟨vuH c, 1, 1, 0, vuOh c⟩

/-- The issued VU descriptor, when it carries the operation op. -/
def State.opVu (op n q : Nat) (d : Desc) (s : State) : State :=
  if vuOp d.cap = op then
    let p := (s.ctx n q).part
    let c := d.cap
    (s.descBegin n q d).rowsRun n q p d.seq
      { rows := vuOh c, geo := vuGeo c, env := rowEnv n q p d false (vuOw c) (vuC c) (vuOh c * vuOw c),
        row := fun s y => s.vuRow n p d y } (vuOh c + 1)
  else s

def execVuDepthwise (n : LnIx) (q : QIx) (s : State) : Host.Outcome State Fault Refusal := .next (s.onDesc n q 0x23 (State.opVu 1 n q))
def execVuMaxPool (n : LnIx) (q : QIx) (s : State) : Host.Outcome State Fault Refusal := .next (s.onDesc n q 0x23 (State.opVu 2 n q))
def execVuAvgPoolPadCounted (n : LnIx) (q : QIx) (s : State) : Host.Outcome State Fault Refusal :=
  .next (s.onDesc n q 0x23 (State.opVu 3 n q))
def execVuAvgPoolPadNotCounted (n : LnIx) (q : QIx) (s : State) : Host.Outcome State Fault Refusal :=
  .next (s.onDesc n q 0x23 (State.opVu 4 n q))
def execVuSoftmax (n : LnIx) (q : QIx) (s : State) : Host.Outcome State Fault Refusal := .next (s.onDesc n q 0x23 (State.opVu 5 n q))
def execVuLayerNorm (n : LnIx) (q : QIx) (s : State) : Host.Outcome State Fault Refusal := .next (s.onDesc n q 0x23 (State.opVu 6 n q))
def execVuGroupNorm (n : LnIx) (q : QIx) (s : State) : Host.Outcome State Fault Refusal := .next (s.onDesc n q 0x23 (State.opVu 7 n q))
def execVuResizeNearest (n : LnIx) (q : QIx) (s : State) : Host.Outcome State Fault Refusal := .next (s.onDesc n q 0x23 (State.opVu 8 n q))
def execVuResizeBilinear (n : LnIx) (q : QIx) (s : State) : Host.Outcome State Fault Refusal := .next (s.onDesc n q 0x23 (State.opVu 9 n q))
def execVuStagesOnly (n : LnIx) (q : QIx) (s : State) : Host.Outcome State Fault Refusal := .next (s.onDesc n q 0x23 (State.opVu 10 n q))

end Sys2Proof.Machine
end

