-- ==== Sys2Proof/Machine/Sequencer.lean ====
section
/-!
DEFINITION. The sequencer of a Lantern: fetch, checks and issue of descriptors, their completion, and the descriptors on which
the sequencer acts itself (R92, R115, R123-R138, R141, R433).
-/

namespace Sys2Proof.Machine

/-- The sequencer may fetch and issue: EN, not quarantined, its logic domain on (R96, R98). -/
def State.seqOn (s : State) (n : Nat) : Bool := s.flag (Reg.lnCtrl n) 0 && !s.flag (Reg.lnStatus n) 31 && s.domOn (lnDom n)

/-- A RUN that still issues descriptors. -/
def SeqCtx.live (c : SeqCtx) : Bool := c.cmd.isSome && !c.stop && !c.ended

/-- A program error found by the sequencer itself ends the RUN with a status (R123, R125, R132). -/
def State.seqStop (s : State) (n q : Nat) (st : Status) (ty tag : Nat) : State := (s.seqError n q st ty tag true).finishCtx n q

/-! ### Fetch (R123, R124) -/

/-- Bytes still needed from pc on before the descriptor there can issue. -/
def SeqCtx.needs (c : SeqCtx) : Nat :=
  match c.fetched with
  | [] => 32
  | b :: _ => match descLen b.toNat with | some k => 32 * k | none => 32

/-- DESCRIPTOR_FETCH: the next 512-byte line, as far as it ends at most 2 KiB beyond the descriptor about to issue; a needed line
outside the quota ends the RUN with BOUNDS. -/
def State.seqFetch (s : State) (n q : Nat) : State :=
  let c := s.ctx n q
  if c.live && s.seqOn n then
    let a := c.pc + c.fetched.length
    let e := (a / 512 + 1) * 512
    let base := listAt 0 c.bases 0
    let len := match s.quotaFor c.part n with | some (_, _, l) => l | none => 0
    if base ≤ a ∧ e ≤ base + len then
      if e ≤ c.pc + 2048 then
        match s.rd c.part a (e - a) with
        | .ok bs => s.updCtx n q fun c => { c with fetched := c.fetched ++ bs }
        | .error x => (s.noteFault 0x10 c.part x).seqStop n q x.1 0 0
      else s
    else if c.fetched.length < c.needs then s.seqStop n q .bounds 0 0
    else s
  else s

def execDescriptorFetch (n : LnIx) (q : QIx) (s : State) : Host.Outcome State Fault Refusal := .next (s.seqFetch n q)

/-! ### Issue (R125, R128-R132) -/

/-- Every descriptor that a Lantern has issued and not completed. -/
def State.issuedAll (s : State) (n : Nat) : List Desc := ((s.lantern n).ctxs.map fun c => c.issued).flatten

/-- Held tables and stores that a compute descriptor uses: VU tables 0-3, Taper weights 4, output codebooks 5 (R130). -/
def usesTables (ty : Nat) (c : Cap) (o : Cap) : List Nat :=
  outTables o ++ (if ty = 0x23 then vuTables c else []) ++ (if codeCb (outCode o) then [5] else []) ++ (if ty = 0x22 then [4] else [])

/-- A table is in use by an issued descriptor. -/
def State.tableBusy (s : State) (n i : Nat) : Bool :=
  (s.issuedAll n).any fun d => isCompute d.ty && d.done.isNone && (usesTables d.ty d.cap (d.out.getD ⟨[], []⟩)).contains i

/-- A table must be reloaded before a context uses it (R433). -/
def State.tableStale (s : State) (n q i : Nat) : Bool := (s.heldAt n i).owner != some (s.ownMark n (s.ctx n q).part)

/-- Fields of CTRL, STAT, LOAD, RMO, OUT and SYNC that give BAD_OPCODE (R127, R134, R136-R139) (DESIGN CHOICE, log entry 15). -/
def seqFieldsOk (ty : Nat) (c : Cap) : Bool :=
  match ty with
  | 0x01 => decide (c.fld 8 1 ≤ 3)
  | 0x02 => decide (c.fld 8 1 ≤ 2) && (c.fld 8 1 != 0 || (decide (1 ≤ c.fld 12 4) && decide (c.fld 12 4 ≤ 2 ^ 20)))
  | 0x08 =>
    let len := c.fld 12 4
    match c.bits 8 7 4 with
    | 0 => decide (len = 2056) && decide (c.bits 8 3 0 ≤ 3)
    | 1 => codeMul (c.bits 9 3 0) && decide (len ≤ 32768)
    | 2 => codeCb (c.bits 9 3 0) && decide (32 ≤ len) && decide (len ≤ 2048) && decide (len % (2 * cbEntries (c.bits 9 3 0)) = 0)
    | _ => false
  | 0x09 => outOk c
  | 0x0A => (!c.flag 8 0 || decide (1 ≤ c.fld 12 2)) &&
      (!c.flag 8 1 || (decide (1 ≤ c.fld 14 2) && decide (1 ≤ c.fld 48 2) && decide (c.fld 48 2 ≤ 256)))
  | 0x10 => decide (c.bits 8 7 4 ≤ 8) && (match c.bits 8 7 4 with | 6 => decide (c.bits 8 3 2 ≤ 1) | 7 => decide (c.bits 8 3 2 ≤ 2) | _ => true)
  | _ => true

/-- Output channels of a compute descriptor. -/
def cmpM (ty : Nat) (c : Cap) : Nat :=
  match ty with
  | 0x20 => mmaM c
  | 0x21 => spM c
  | 0x22 => tpCout c
  | _ => vuC c

/-- The output codebook store holds the code and every codebook that a descriptor needs (R138). -/
def outStoreOk (o : Cap) (m : Nat) (r : LoadRec) : Bool :=
  !codeCb (outCode o) || (decide (r.code = outCode o) &&
    decide (((if outCbGrp o = 0 then 0 else (m - 1) / outCbGrp o) + 1) * (2 * cbEntries (outCode o)) ≤ r.len))

/-- The checks of a compute descriptor at issue (R85, R117, R138, R140, R142-R144, R433) (DESIGN CHOICE, log entry 14). -/
def State.computeCheck (s : State) (n q : Nat) (det : Bool) (modes : InputModes) (ty : Nat) (c : Cap) (out sync : Option Cap) : Option Status :=
  let x := s.ctx n q
  match out with
  | none => some .badOpcode
  | some o =>
    let amgBad := (outAmg o != 0 && isIngot (s.pdaUnit x.part (o.ref 32) .wr)) || !amgChannels o (cmpM ty c)
    let mode := modes.main.val
    let recs := usesTables ty c o
    if ty = 0x23 ∧ vuFieldsOk mode c = false then some .badOpcode
    else if !sideOk modes.side.val o || amgBad then some .badOpcode
    else if recs.any fun i => (listAt none x.recs i).isNone then some .badOpcode
    else if (match listAt none x.recs 5 with | some r => !outStoreOk o (cmpM ty c) r | none => false) then some .badOpcode
    else
      match ty with
      | 0x20 => s.mmaCheck n x.part det mode c o sync
      | 0x21 => s.spCheck n x.part mode c sync
      | 0x22 => s.tpCheck n q x.part mode c o
      | _ => none

/-- The first arrival at a counter sets its number of tickets; a member that differs gets BAD_OPCODE (R141). -/
def State.joinCounter (s : State) (n q : Nat) (d : Desc) (cmd : Nat) : State :=
  let dispId := mmaDispId d.cap
  let total := mmaTickets d.cap
  let k := sparseGet 0 (s.ctx n q).arrivals dispId
  let s1 := s.updCtx n q fun c => { c with arrivals := sparseSet 0 c.arrivals dispId (k + 1) }
  if d.done.isSome then s1
  else
    match s1.counters.find? fun x => x.cmd == cmd && x.dispId == dispId && x.k == k with
    | some x =>
      if x.total = total then s1.updDesc n q d.seq fun d => { d with counter := some x.id }
      else s1.descDone n q d.seq .badOpcode
    | none =>
      if total < 1 ∨ 2 ^ 24 < total then s1.descDone n q d.seq .badOpcode
      else
        match s1.fresh with
        | (id, s2) =>
          let x : Counter := ⟨id, cmd, dispId, k, total, 0, [], [], 0⟩
          let s3 : State := { s2 with counters := s2.counters ++ [x] }
          s3.updDesc n q d.seq fun d => { d with counter := some id }

/-- A switch between partitions of a Lantern: what is held is owned by no partition (R92). LN_STATUS names the new one. -/
def State.seqSwitch (s : State) (n q p : Nat) : State :=
  let same := decide (s.fld (Reg.lnStatus n) 7 6 = q) && decide (s.fld (Reg.lnStatus n) 13 8 = p)
  let s1 := if same then s
    else s.updLantern n fun l => { l with
      held := l.held.map fun h => { h with owner := none }
      spill := { l.spill with owner := none }
      arrs := l.arrs.map fun x => { x with held := { x.held with owner := none } } }
  (s1.setFld (Reg.lnStatus n) 7 6 q).setFld (Reg.lnStatus n) 13 8 p

/-- A domain powered from OFF, with a new epoch (R384). -/
def State.powerUp (s : State) (d : Nat) : State := if s.domOn d then s else ((s.setDom d 1).bumpEpoch d).windowGap d

/-- Work issued to a gated array or Spill pair switches it on (R382). -/
def State.wake (s : State) (n ty : Nat) : State :=
  match ty with
  | 0x20 => (s.arrays n).foldl (fun s a => s.powerUp (arrDom n (a == 1))) s
  | 0x21 => s.powerUp (spillDom n)
  | _ => s

/-- The header check of R125: the status that ends the RUN. -/
def headerStatus (bs : List Byte) : Option Status :=
  match descLen (fieldAt bs 0 1) with
  | none => some .badOpcode
  | some k =>
    if natBits (fieldAt bs 1 1) 7 4 ≠ 1 then some .badVersion
    else if natBits (fieldAt bs 1 1) 3 0 ≠ k then some .badOpcode
    else none

/-- EPC = 1 and a stale epoch (R132). -/
def State.epcStale (s : State) (n : Nat) (bs : List Byte) : Bool :=
  natBits (fieldAt bs 2 1) 5 5 == 1 &&
  (decide (fieldAt bs 4 1 ≠ (s.epoch (lnDom n)).toNat) || decide (fieldAt bs 5 1 ≠ (s.epoch (ingotDom n)).toNat))

/-- What holds a descriptor back: an earlier sequencer descriptor or WAIT that has not completed, SER, a busy engine, or a table in
use that must be reloaded (R51, R128, R130). -/
def State.issueHeld (s : State) (n q ty : Nat) (c : Cap) : Bool :=
  let x := s.ctx n q
  let o := x.out.getD ⟨[], []⟩
  x.issued.any (fun d => isSequencer d.ty && d.done.isNone) ||
  x.issued.any (fun d => d.ty == 0x10 && d.cap.bits 8 7 4 == 7 && d.done.isNone) ||
  ((c.flag 2 7 || ty == 2) && !x.issued.isEmpty) ||
  (isCompute ty && (s.issuedAll n).any fun d => d.ty == ty && d.done.isNone) ||
  ((ty == 0x02 || ty == 0x10) && (s.issuedAll n).any fun d => (d.ty == 0x02 || d.ty == 0x10) && !d.started && d.done.isNone) ||
  (isCompute ty && (usesTables ty c o).any fun i => s.tableBusy n i && s.tableStale n q i)

/-- A descriptor issues: captured, checked, and handed to its engine. -/
def State.issueDesc (s0 : State) (n q id ty : Nat) (modes : InputModes) (bs : List Byte) : State :=
  let s : State := if ty = 0x22 then { s0 with freeCtr := s0.freeCtr + 1 } else s0
  let x := s.ctx n q
  let cap := x.capture bs
  let det := match s.cmd? id with | some c => c.det | none => false
  let out := if isCompute ty then x.out else none
  let sync := if isCompute ty then x.sync else none
  let bad := if isCompute ty then s.computeCheck n q det modes ty cap out sync else if seqFieldsOk ty cap then none else some .badOpcode
  let d : Desc := { seq := x.nextSeq, cap := cap, out := out, sync := sync, at_ := s.nowNs, started := false, prog := 0, drained := [],
                    ctl := s.reg (Reg.lnCtrl n), modes := modes, free := s0.freeCtr, wcb := [], acb := [], sums := [], staged := [], runs := [], codes := [],
                    counter := none, tickets := [], tookZero := false, ticketEnd := false, rmo := none, done := bad, detail := 0 }
  let s1 := (s.seqSwitch n q x.part).updCtx n q fun c => { c with
    pc := c.pc + bs.length, fetched := c.fetched.drop bs.length, lastPc := c.pc, nextSeq := c.nextSeq + 1,
    issued := c.issued ++ [d], sync := if isCompute ty then none else c.sync }
  let s2 := if bad.isSome then s1
    else
      match (if isCompute ty then s1.ensureAll n q (usesTables ty cap (out.getD ⟨[], []⟩)) else .ok s1) with
      | .ok s2 => s2.wake n ty
      | .error e => s1.descFail n q d.seq e
  if ty = 0x20 ∧ mmaDisp cap = true then
    match s2.descNow n q d.seq with
    | some d' => s2.joinCounter n q d' id
    | none => s2
  else s2

/-- Partitions with a descriptor for one engine of a Lantern, named by its type, that is fetched and held back by nothing (R92, R267). -/
def State.seqReadyFor (s : State) (n ty : Nat) : List Nat :=
  ((List.range 4).filterMap fun q =>
    let c := s.ctx n q
    let bs := c.fetched.take c.needs
    if c.live && decide (c.needs ≤ c.fetched.length) && fieldAt bs 0 1 == ty && !s.issueHeld n q ty ⟨bs, []⟩ then some c.part else none).eraseDups

/-- The first engine of a Lantern for which two partitions have a descriptor ready: its decision point (R267). -/
def State.seqContest (s : State) (n : Nat) : Option Nat := [0x20, 0x21, 0x22, 0x23].find? fun ty => decide (2 ≤ (s.seqReadyFor n ty).length)

/-- Number under which the choice for an engine of a Lantern is remembered. -/
def engineKey (n ty : Nat) : Nat := 64 + 4 * n + ty % 4

/-- The choice of R268 for an engine of a Lantern, with the Lantern's credits. -/
def State.seqDecide (s : State) (n ty : Nat) : State :=
  let s1 := s.arbDecide n (s.seqReadyFor n ty)
  s1.setArb (engineKey n ty) { s1.arb (engineKey n ty) with chosen := (s1.arb n).chosen }

/-- With descriptors of two partitions ready for one engine, the choice of R268 decides (R92, R267). -/
def State.seqTurn (s : State) (n ty p : Nat) : State × Bool :=
  let ready := s.seqReadyFor n ty
  let k := engineKey n ty
  if isCompute ty = false ∨ ready.length < 2 then (s, true)
  else
    let s1 := match (s.arb k).chosen with
      | some c => if ready.contains c then s else s.seqDecide n ty
      | none => s.seqDecide n ty
    if (s1.arb k).chosen = some p then (s1.setArb k { s1.arb k with chosen := none }, true) else (s1, false)

/-- DESCRIPTOR_ISSUE (R125, R128-R132). -/
def State.seqIssue (s : State) (n q : Nat) (modes : InputModes) : State :=
  let c := s.ctx n q
  match c.cmd with
  | none => s
  | some id =>
    if c.live && s.seqOn n && decide (c.needs ≤ c.fetched.length) then
      let bs := c.fetched.take c.needs
      let ty := fieldAt bs 0 1
      match headerStatus bs with
      | some st => s.seqStop n q st ty (fieldAt bs 6 2)
      | none =>
        if s.issueHeld n q ty ⟨bs, []⟩ then s
        else if s.epcStale n bs then s.seqStop n q .staleEpoch ty (fieldAt bs 6 2)
        else
          match s.seqTurn n ty c.part with
          | (s1, true) => s1.issueDesc n q id ty modes bs
          | (s1, false) => s1
    else s

def execDescriptorIssue (n : LnIx) (x : IssueCall) (s : State) : Host.Outcome State Fault Refusal := .next (s.seqIssue n x.q x.modes)

/-- A status that stops the program whatever CONT says (R133). -/
def Status.stops : Status → Bool
  | .badOpcode => true
  | .badVersion => true
  | .staleEpoch => true
  | .detForbidden => true
  | _ => false

/-- DESCRIPTOR_COMPLETE: a descriptor whose engine has finished completes; its status continues or stops the program (R133). -/
def State.seqComplete (s : State) (n q seq : Nat) : State :=
  match s.descNow n q seq with
  | none => s
  | some d =>
    match d.done with
    | none => s
    | some st =>
      let s0 := s.arbCharge n (s.ctx n q).part (s.nowNs - d.at_) 0
      let s1 := s0.updCtx n q fun c => { c with issued := c.issued.filter fun x => x.seq != seq }
      let s2 := if st.success then s1 else s1.seqError n q st d.ty d.tag (!d.cont || st.stops)
      s2.finishCtx n q

def execDescriptorComplete (n : LnIx) (q : QIx) (seq : Nat) (s : State) : Host.Outcome State Fault Refusal := .next (s.seqComplete n q seq)

/-! ### NOP, CTRL (R127, R133, R134) -/

def execNopDescriptor (n : LnIx) (q : QIx) (s : State) : Host.Outcome State Fault Refusal :=
  .next (s.onDesc n q 0x00 fun d s => s.descDone n q d.seq .ok)

/-- A CTRL descriptor of an OP acts. -/
def State.onCtrl (s : State) (n q op : Nat) (f : Desc → State → State) : State :=
  match (s.ctx n q).issued.find? fun d => d.ty == 1 && d.done.isNone && d.cap.fld 8 1 == op with
  | none => s
  | some d => (f d s).descDone n q d.seq .ok

/-- The fetch goes on at the target of a CTRL descriptor; a target below 0 lies outside every quota. -/
def State.seqJump (s : State) (n q : Nat) (d : Desc) : State :=
  s.updCtx n q fun c =>
    let t := (c.lastPc : Int) + signedOf 32 (d.cap.fld 16 4) * 32
    { c with pc := if t < 0 then 2 ^ 37 else t.toNat, fetched := [] }

def State.opEnd (n q : Nat) (_ : Desc) (s : State) : State := s.updCtx n q fun c => { c with ended := true }
def State.opJumpErr (n q : Nat) (d : Desc) (s : State) : State := if (s.ctx n q).err.isSome then s.seqJump n q d else s

/-- LOOP (R134). -/
def State.opLoop (n q : Nat) (d : Desc) (s : State) : State :=
  let r := d.cap.bits 9 1 0
  let v := (listAt 0 (s.ctx n q).lcs r + 1) % 2 ^ 32
  if v < d.cap.fld 12 4 then (s.updCtx n q fun c => { c with lcs := listUpd c.lcs r fun _ => v }).seqJump n q d
  else s.updCtx n q fun c => { c with lcs := listUpd c.lcs r fun _ => 0 }

def execCtrlEnd (n : LnIx) (q : QIx) (s : State) : Host.Outcome State Fault Refusal := .next (s.onCtrl n q 0 (State.opEnd n q))
def execCtrlJump (n : LnIx) (q : QIx) (s : State) : Host.Outcome State Fault Refusal :=
  .next (s.onCtrl n q 1 fun d s => s.seqJump n q d)
def execCtrlJumpErr (n : LnIx) (q : QIx) (s : State) : Host.Outcome State Fault Refusal := .next (s.onCtrl n q 2 (State.opJumpErr n q))
def execCtrlLoop (n : LnIx) (q : QIx) (s : State) : Host.Outcome State Fault Refusal := .next (s.onCtrl n q 3 (State.opLoop n q))

/-! ### LOAD, OUT, SYNC (R129, R130, R136, R433) -/

/-- Target of a LOAD: VU tables 0-3, Taper weights 4, output codebooks 5. -/
def loadTarget (c : Cap) : Nat := match c.bits 8 7 4 with | 0 => c.bits 8 1 0 | 1 => 4 | _ => 5

/-- A LOAD: it waits while an issued descriptor uses the target, is skipped under REUSE when the target holds the tag, and else
reads its source in the own Ingot. -/
def State.opLoad (n q : Nat) (d : Desc) (s : State) : State :=
  let i := loadTarget d.cap
  let p := (s.ctx n q).part
  let code := if i ≤ 3 then 0 else d.cap.bits 9 3 0
  let len := d.cap.fld 12 4
  let rtag := BitVec.ofNat 32 (d.cap.fld 24 4)
  let bytes := if i = 4 then codeBytes code len else len
  if s.tableBusy n i then s
  else
    match d.cap.need 16 with
    | .error e => s.descFail n q d.seq e
    | .ok a =>
      if s.inOwnIngot n p a bytes = false then s.descFail n q d.seq (.bounds, some a)
      else
        let r : LoadRec := ⟨a, len, code, rtag⟩
        let s1 := s.updCtx n q fun c => { c with recs := listUpd c.recs i fun _ => some r }
        let h := s.heldAt n i
        if d.reuse && decide (h.owner = some (s.ownMark n p)) && decide (h.rtag = rtag) then s1.descDone n q d.seq .ok
        else
          match s1.loadHeld n p i r with
          | .ok s2 => s2.descDone n q d.seq .ok
          | .error e => s.descFail n q d.seq e

/-- A LOAD descriptor of one kind acts. -/
def State.onLoad (s : State) (n q what : Nat) : State :=
  match (s.ctx n q).issued.find? fun d => d.ty == 8 && d.done.isNone && d.cap.bits 8 7 4 == what with
  | none => s
  | some d => s.opLoad n q d

def execLoadVuTable (n : LnIx) (q : QIx) (s : State) : Host.Outcome State Fault Refusal := .next (s.onLoad n q 0)
def execLoadTaperWeights (n : LnIx) (q : QIx) (s : State) : Host.Outcome State Fault Refusal := .next (s.onLoad n q 1)
def execLoadOutCodebook (n : LnIx) (q : QIx) (s : State) : Host.Outcome State Fault Refusal := .next (s.onLoad n q 2)

def execOut (n : LnIx) (q : QIx) (s : State) : Host.Outcome State Fault Refusal :=
  .next (s.onDesc n q 0x09 fun d s => (s.updCtx n q fun c => { c with out := some d.cap }).descDone n q d.seq .ok)

def execSync (n : LnIx) (q : QIx) (s : State) : Host.Outcome State Fault Refusal :=
  .next (s.onDesc n q 0x0A fun d s => (s.updCtx n q fun c => { c with sync := some d.cap }).descDone n q d.seq .ok)

/-! ### STAT (R69, R137) -/

/-- The write of an 8-byte result by a STAT descriptor, and its status. -/
def State.statWrite (s : State) (n q : Nat) (d : Desc) (v : Nat) : State :=
  let p := (s.ctx n q).part
  match d.cap.need 24 with
  | .error e => s.descFail n q d.seq e
  | .ok a =>
    if a % 8 ≠ 0 then s.descFail n q d.seq (.align, some a)
    else
      match s.wr p a (leBytes 8 v) with
      | .ok s1 => s1.descDone n q d.seq .ok
      | .error e => s.descFail n q d.seq e

/-- DIG_FOLD: the CRC of COUNT block digests in address order. -/
def State.opDigFold (n q : Nat) (d : Desc) (s : State) : State :=
  match d.cap.need 16 with
  | .error e => s.descFail n q d.seq e
  | .ok a =>
    if a % 8 ≠ 0 then s.descFail n q d.seq (.align, some a)
    else
      match s.rd (s.ctx n q).part a (8 * d.cap.fld 12 4) with
      | .ok bs => s.statWrite n q d (crc64 bs)
      | .error e => s.descFail n q d.seq e

/-- CLIP_STORE: CLIPPED and TOTAL of a slot of the context's quota index. -/
def State.opClipStore (n q : Nat) (d : Desc) (s : State) : State :=
  let v := s.clip n q (d.cap.bits 9 3 0)
  s.statWrite n q d (v.1 + 2 ^ 32 * v.2)

/-- CLIP_CLR. -/
def State.opClipClr (n q : Nat) (d : Desc) (s : State) : State := (s.setClip n q (d.cap.bits 9 3 0) (0, 0)).descDone n q d.seq .ok

/-- A STAT descriptor of an OP acts. -/
def State.onStat (s : State) (n q op : Nat) (f : Desc → State → State) : State :=
  match (s.ctx n q).issued.find? fun d => d.ty == 2 && d.done.isNone && d.cap.fld 8 1 == op with
  | none => s
  | some d => f d s

def execDigFold (n : LnIx) (q : QIx) (s : State) : Host.Outcome State Fault Refusal := .next (s.onStat n q 0 (State.opDigFold n q))
def execClipStore (n : LnIx) (q : QIx) (s : State) : Host.Outcome State Fault Refusal := .next (s.onStat n q 1 (State.opClipStore n q))
def execClipClr (n : LnIx) (q : QIx) (s : State) : Host.Outcome State Fault Refusal := .next (s.onStat n q 2 (State.opClipClr n q))

/-- A write to LN_QSEL: the selection, and CLR clears the pair that it selects (R69). -/
def State.lnQselWrite (s : State) (n : Nat) (v : Word) : State :=
  let s1 := s.setReg (Reg.lnQsel n) (v &&& 0x3F)
  if bitOf v 31 then s1.setClip n (bitsOf v 5 4) (bitsOf v 3 0) (0, 0) else s1

def execLnQselClr (n : LnIx) (v : Word) (s : State) : Host.Outcome State Fault Refusal := .next (s.pfReach (Reg.lnQsel n) (s.lnQselWrite n v))

end Sys2Proof.Machine
end

