-- ==== Sys2Proof/Machine/Arrays.lean ====
section
/-!
DEFINITION. The dot-product arrays step by step: weight buffers, array steps, drains, array faults, re-admission, and the write-backs
and scrubs of Ingots and Crucible banks (R76-R80, R89, R91, R94-R97, R402, R432).
-/

namespace Sys2Proof.Machine

/-! ### Passes of an array (R77, R80) -/

/-- The MMA descriptor that an array works on: its job, or the oldest issued one of the Lantern. -/
def State.arrJob (s : State) (n a : Nat) : Option (Nat × Desc) :=
  let all := (List.range 4).filterMap fun q => (s.findDesc n q 0x20).map fun d => (q, d)
  match (s.arr n a).job with
  | some (q, seq) => all.find? fun x => x.1 == q && x.2.seq == seq
  | none => all.head?

/-- Passes of an array over tile i of a unit: tile, K block and K group, ascending; K blocks that are summed already are left out. -/
def tilePasses (d : Desc) (u : MmaUnit) (split : Bool) (a i : Nat) : List (Nat × Nat × Nat) :=
  (((unitSpans d.cap u).zipIdx.drop (d.sumOf i).1).map fun x =>
    let g := spanGroups d.cap split a x.1
    (List.range (g.2 - g.1)).map fun j => (i, x.2, g.1 + j)).flatten

/-- An array holds tile i in its accumulators. -/
def Arr.has (x : Arr) (i : Nat) : Bool :=
  (match x.cur with | some t => t.tile == i | none => false) || (match x.half with | some t => t.tile == i | none => false)

/-- The passes before an array: what is left of the tile in progress, then the tiles that fall to it, in order. -/
def State.nextPasses (s : State) (n a : Nat) (d : Desc) (u : MmaUnit) : List (Nat × Nat × Nat) :=
  let x := s.arr n a
  let split := s.mmaSplit n d
  (match x.front with
   | some w => (tilePasses d u split a w.tile).filter fun y => decide (w.span < y.2.1) || (y.2.1 == w.span && decide (w.kg < y.2.2))
   | none => []) ++
  (((tilesOpen d u).filter fun i => s.tileOn n d a i && !x.has i).map (tilePasses d u split a)).flatten

/-- Codebooks of the row block that begins at m0: those that the feeder loaded last, or the block's own (R77). -/
def State.arrBooks (s : State) (n p : Nat) (d : Desc) (a m0 m1 : Nat) : Res (List (List X13)) :=
  match (s.arr n a).books with
  | some b => if b.1 = m0 then .ok b.2 else s.rowBooks p d.cap m0 m1
  | none => s.rowBooks p d.cap m0 m1

/-- A weight buffer filled for a pass, from memory or from what the array holds (R77, R92). -/
def State.fillPass (s : State) (n p : Nat) (d : Desc) (u : MmaUnit) (split : Bool) (a : Nat) (books : List (List X13)) (x : Nat × Nat × Nat) : Res WBuf :=
  let c := d.cap
  let t := tileAt c u x.1
  let g := spanGroups c split a (listAt (0, 0) (unitSpans c u) x.2.1)
  match s.heldBuf n p d a t.m0 (t.m1 - t.m0) x.2.2 with
  | some w => .ok { w with tile := x.1, span := x.2.1, nt := t.n1 - t.n0, first := x.2.2 == g.1, last := x.2.2 + 1 == g.2 }
  | none =>
    match s.mmaWRows p d books t.m0 t.m1 with
    | .error e => .error e
    | .ok ws =>
      match s.mmaShifts p c t.m0 t.m1 with
      | .error e => .error e
      | .ok sh =>
        let gs := ws.map fun r => listAt (⟨[], [], 0⟩ : Group) r x.2.2
        .ok ⟨gs.map (·.hi), gs.map (·.lo), gs.map (·.d), sh, x.1, x.2.1, t.n1 - t.n0, x.2.2, x.2.2 == g.1, x.2.2 + 1 == g.2⟩

/-- The buffer of a pass: the one that stands in the back, or one filled now with its row block's codebooks. -/
def State.passBuf (s : State) (n p : Nat) (d : Desc) (u : MmaUnit) (a : Nat) (x : Nat × Nat × Nat) : Res (WBuf × Nat × List (List X13)) :=
  let t := tileAt d.cap u x.1
  match s.arrBooks n p d a t.m0 t.m1 with
  | .error e => .error e
  | .ok bk =>
    match (s.arr n a).back with
    | some w =>
      if (w.tile, w.span, w.kg) = x then .ok (w, t.m0, bk)
      else (match s.fillPass n p d u (s.mmaSplit n d) a bk x with | .ok v => .ok (v, t.m0, bk) | .error e => .error e)
    | none => (match s.fillPass n p d u (s.mmaSplit n d) a bk x with | .ok v => .ok (v, t.m0, bk) | .error e => .error e)

/-- Passes P of a descriptor. -/
def mmaP (c : Cap) : Nat := passCount (mmaW c) (mmaA c)

/-- The last step on the front buffer has issued. -/
def Arr.spent (x : Arr) (p : Nat) : Bool := match x.front with | none => true | some w => decide (p * w.nt ≤ x.steps)

/-- The accumulators of a K block at its start on an array: loaded partial sums, +0 or the sums so far; +0 on array B of a K-split (R65,
R80). None: the sums so far are not there yet. -/
def State.tileStart (s : State) (p a : Nat) (d : Desc) (u : MmaUnit) (split : Bool) (i j : Nat) : Res (Option Tile) :=
  let t := tileAt d.cap u i
  let nt := t.n1 - t.n0
  if split && a == 1 then .ok (some ⟨i, j, nt, [], false⟩)
  else if (d.sumOf i).1 < j then .ok none
  else if j = 0 ∧ mmaPsload d.cap = false then .ok (some ⟨i, j, nt, [], false⟩)
  else
    match s.tileBase p d u i with
    | .error e => .error e
    | .ok as =>
      .ok (some ⟨i, j, nt, ((tileCells t).zip as).foldl (fun m x => sparseSet (0, false) m (x.1.1 * 256 + x.1.2) (x.2.bits, x.2.sticky)) [], false⟩)

/-- Room for the first pass of a tile: the finished tile moves to the draining half, or must be drained first (R78). -/
def Arr.makeRoom (x : Arr) (whole : Bool) : Option Arr :=
  match x.cur with
  | none => some x
  | some t => if whole then none else if x.half.isSome then none else some { x with cur := none, half := some t }

/-- An array's buffers after a switch to a pass: its weights in front, the next pass in the back. -/
def Arr.onPass (x : Arr) (q : Nat) (d : Desc) (f : WBuf × Nat × List (List X13)) (back : Option (WBuf × Nat × List (List X13))) : Arr :=
  { x with front := some f.1, back := back.map (·.1), steps := 0, i32 := mmaI32 d.cap, job := some (q, d.seq)
           books := match back with | some b => some b.2 | none => some f.2 }

/-- The switch itself: the array goes on to pass h, and its other buffer is filled for the pass after it. -/
def State.switchTo (s : State) (n a q : Nat) (d : Desc) (u : MmaUnit) (h : Nat × Nat × Nat) (rest : List (Nat × Nat × Nat)) : State :=
  let c := d.cap
  let p := (s.ctx n q).part
  match s.passBuf n p d u a h with
  | .error e => (s.descFail n q d.seq e).clearArrays n
  | .ok f =>
    let s1 := (s.updDesc n q d.seq fun d => { d with runs := if d.runs.contains a then d.runs else d.runs ++ [a] }).holdPass n p d a f.2.1 f.1
    let s2 := s1.updArr n a fun x => { x with books := some f.2 }
    let d2 := { d with runs := if d.runs.contains a then d.runs else d.runs ++ [a] }
    let nb : Res (Option (WBuf × Nat × List (List X13))) := match rest with
      | [] => .ok none
      | h2 :: _ => (match s2.passBuf n p d2 u a h2 with | .ok v => .ok (some v) | .error e => .error e)
    match nb with
    | .error e => (s2.descFail n q d.seq e).clearArrays n
    | .ok back =>
      if f.1.first then
        match (s.arr n a).makeRoom (decide (128 < mmaNt c)) with
        | none => s
        | some _ =>
          match s.tileStart p a d u (s.mmaSplit n d) h.1 h.2.1 with
          | .error e => (s.descFail n q d.seq e).clearArrays n
          | .ok none => s
          | .ok (some t) =>
            s2.updArr n a fun x => ({ (x.makeRoom (decide (128 < mmaNt c))).getD x with cur := some t }).onPass q d f back
      else s2.updArr n a fun x => x.onPass q d f back

/-- WEIGHT_BUFFER_SWITCH: to the next pass once the last step on the present buffer has issued (R77). A pass of a tile that the array does
not hold yet waits for the tile's input (R139, R140). -/
def State.weightSwitch (s : State) (n a : Nat) : State :=
  match s.arrJob n a with
  | none => s
  | some (q, d0) =>
    if s.arrOnFor n d0 a && (s.arr n a).spent (mmaP d0.cap) then
      let s0 := s.mmaBegin n q d0
      match s0.descNow n q d0.seq with
      | none => s0
      | some d =>
        if d.done.isSome then s0
        else
          match mmaUnitOf d with
          | none => s0
          | some u =>
            match s0.nextPasses n a d u with
            | [] => s0
            | h :: rest =>
              if (s0.arr n a).has h.1 then s0.switchTo n a q d u h rest
              else
                match s0.tileReady n q (s0.ctx n q).part d u h.1 with
                | (s1, none) => s1
                | (s1, some d1) => s1.switchTo n a q d1 u h rest
    else s

def arrIx : ArrayId → Nat
  | .a => 0
  | .b => 1

def execWeightBufferSwitch (n : LnIx) (arr : ArrayId) (s : State) : Host.Outcome State Fault Refusal := .next (s.weightSwitch n (arrIx arr))

/-! ### Array steps (R76) -/

/-- One position of every DPU after a step: the tree of its weights with the broadcast vector, added to its accumulator. The pass of R62
chooses the parts; sh is the activation side's part of the adjustment. -/
def stepTile (w : WBuf) (i32 : Bool) (act : Group) (ash : Int) (k pos : Nat) (t : Tile) : Tile :=
  { t with acc := (List.range w.hi.length).foldl (fun m ch =>
      let old := sparseGet (0, false) m (ch * 256 + pos)
      let wg : Group := ⟨listAt [] w.hi ch, listAt [] w.lo ch, listAt 0 w.d ch⟩
      let x := listAt ([], [], 0) (passes wg act) k
      let new : Acc32 := if i32 then accI32 ⟨old.1, old.2⟩ (treeI32 x.1 x.2.1)
        else ⟨f32Add old.1 (treeF32 x.1 x.2.1 (listAt 0 w.sh ch + ash + wg.d + act.d + x.2.2)), false⟩
      sparseSet (0, false) m (ch * 256 + pos) (new.bits, new.sticky)) t.acc }

/-- The step that an array makes next: context, descriptor, its weights and its tile. -/
def State.stepDue (s : State) (n a : Nat) : Option (Nat × Desc × WBuf × Tile) :=
  let x := s.arr n a
  match x.front, x.cur, s.arrJob n a with
  | some w, some t, some (q, d) => if s.arrOnFor n d a && !x.spent (mmaP d.cap) then some (q, d, w, t) else none
  | _, _, _ => none

/-- A step without a fault: positions in order, the passes of each in the order of R62; the feeder gathers and expands the position's
group from memory (R59-R62, R76, R107). -/
def State.stepPlain (s : State) (n a : Nat) : State :=
  match s.stepDue n a with
  | none => s
  | some (q, d, w, t) =>
    match mmaUnitOf d with
    | none => s
    | some u =>
      let x := s.arr n a
      let pos := x.steps / mmaP d.cap
      let b := tileAt d.cap u w.tile
      match (match mmaSrc d b with
        | .error e => (.error e : Res Group)
        | .ok src => s.mmaActGroup (s.ctx n q).part d src (b.n0 + pos) w.kg) with
      | .error e => (s.descFail n q d.seq e).clearArrays n
      | .ok g =>
        let t1 := stepTile w x.i32 g (d.cap.s8 11) (x.steps % mmaP d.cap) pos t
        s.updArr n a fun x => { x with steps := x.steps + 1, cur := some { t1 with complete := w.last && decide (mmaP d.cap * w.nt ≤ x.steps + 1) } }

/-- The descriptor of an array after a fault: its tile runs again elsewhere, its ticket goes back, or it ends with UNIT_FAULT (R94,
R115). A ticket goes back whole, with the tile that the other array has of it; a member without an array gives back the ticket that it
holds ahead too; and a K-split tile is on both arrays (DESIGN CHOICE, log entry 178). -/
def State.afterArrayFault (s : State) (n a : Nat) : State :=
  match s.arrJob n a with
  | none => s.updArr n a Arr.clear
  | some (q, d) =>
    let gone := (s.arraysOf n d).isEmpty
    let s1 := s.updDesc n q d.seq fun d => { d with runs := d.runs.filter fun b => b != a }
    if mmaDisp d.cap then
      let back := if gone then d.tickets else d.tickets.take 1
      let give := fun (k : Counter) => if d.counter = some k.id then { k with reissue := k.reissue ++ back } else k
      let s2 : State := { s1.clearArrays n with counters := s.counters.map give }
      s2.updDesc n q d.seq fun d =>
        { d with tickets := d.tickets.drop back.length, drained := [], codes := [], sums := [], staged := []
                 tookZero := d.tookZero && !back.contains 0 }
    else
      let s2 := if mmaKsplit d.cap then s1.clearArrays n else s1.updArr n a Arr.clear
      if gone then s2.descDone n q d.seq .unitFault else s2

/-- An array check fails: the array is disabled at runtime, the fault recorded (R94). -/
def State.arrayOff (s : State) (n a : Nat) : State :=
  (s.setFlag Reg.arrayRuntimeMap (arrBit n a) true).mapMoved (BitVec.ofNat 32 (2 ^ arrBit n a))

/-- ARG of an array fault event: the fields of LN_FAULT. -/
def faultArg (kind arr dpu : Nat) : Dword := BitVec.ofNat 64 (2 ^ 28 * kind + 2 ^ 27 * arr + 2 ^ 16 * dpu)

def State.arrayFault (s : State) (n a kind dpu : Nat) : State :=
  (((s.lnFault n kind a dpu 1).arrayOff n a).sootEvent 0x1011 (faultArg kind a dpu) none).afterArrayFault n a

/-- Two faults in one step: both arrays are disabled, LN_FAULT records array A, COUNT rises by 2 (R99). -/
def State.arrayFaultBoth (s : State) (n kind dpu : Nat) : State :=
  (((((s.lnFault n kind 0 dpu 2).arrayOff n 0).arrayOff n 1).sootEvent 0x1011 (faultArg kind 0 dpu) none).afterArrayFault n 0).afterArrayFault n 1

/-- A corrected error: counted, and the word waits to be written back (R89). -/
def State.ingotCorrected (s : State) (n off : Nat) : State :=
  let e := s.ingotErr n
  (s.bump (Reg.lnEcc n) 15 0 1).setIngotErr n { e with writeback := e.writeback ++ [ingotBase + mib8 * n + off / 8 * 8] }

/-- An uncorrectable error in an operand: the descriptor completes with UNIT_FAULT (R89). -/
def State.stepUncorrectable (s : State) (n a off : Nat) : State :=
  let da := ingotBase + mib8 * n + off / 8 * 8
  let job := s.arrJob n a
  let s1 := (s.setPoison da).memError da
  match job with
  | none => s1
  | some (q, d) => (s1.descDone n q d.seq .unitFault).clearArrays n

/-- What an ARRAY_STEP does: a step, or what the checks of that step find. An array check finds a fault only when a step reads the state it
covers, so an array that has no step to make finds none (R94). -/
def State.arrayStep (s : State) (n a : Nat) (e : StepEvent) : State :=
  match e with
  | .none => s.stepPlain n a
  | .bubble => s
  | .fault k d => if (s.stepDue n a).isSome then s.arrayFault n a k d else s
  | .faultBoth k d => if (s.stepDue n 0).isSome && (s.stepDue n 1).isSome then s.arrayFaultBoth n k d else s
  | .eccCorrected off => if (s.stepDue n a).isSome then (s.ingotCorrected n off.toNat).stepPlain n a else s
  | .eccUncorrectable off => if (s.stepDue n a).isSome then s.stepUncorrectable n a off.toNat else s
  | .controlParity => if s.domOn (lnDom n) then s.quarantineLantern n 4 else s

/-- ARRAY_STEP (R76, R94, R96, R99). -/
def execArrayStep (n : LnIx) (arr : ArrayId) (e : StepEvent) (s : State) : Host.Outcome State Fault Refusal := .next (s.arrayStep n (arrIx arr) e)

/-! ### Drain (R78-R80) -/

/-- Accumulators of a tile in drain order. -/
def tileAccList (t : TileBox) (x : Tile) : List Acc32 :=
  (tileCells t).map fun ij => let v := sparseGet (0, false) x.acc (ij.1 * 256 + ij.2); ⟨v.1, v.2⟩

/-- The complete tile that an array drains next: the draining half first. -/
def Arr.drainable (x : Arr) : Option Tile :=
  match x.half with
  | some t => some t
  | none => match x.cur with | some t => if t.complete then some t else none | none => none

/-- An array without a K block of a tile that has been drained. -/
def Arr.dropTile (i j : Nat) (x : Arr) : Arr :=
  match x.half with
  | some t => if t.tile = i ∧ t.span = j then { x with half := none } else x
  | none => match x.cur with | some t => if t.tile = i ∧ t.span = j then { x with cur := none, front := none } else x | none => x

/-- A tile's accumulators through the OUT pipeline; with its last tile the unit is finished. -/
def State.drainTile (s : State) (n q : Nat) (d : Desc) (u : MmaUnit) (i : Nat) (as : List Acc32) : State :=
  let p := (s.ctx n q).part
  match (if u.k0 < keepEnd d.cap u then
      (match s.tileOps p d (tileAt d.cap u i) with
       | .error e => (.error e : Res (Option (List Acc32)))
       | .ok o => s.tileKeep n p d u i o)
    else .ok none) with
  | .error e => (s.descFail n q d.seq e).clearArrays n
  | .ok kept =>
    let s1 := s.tileOut n q p d u i kept as
    if (s1.descNow n q d.seq).all fun x => x.done.isSome then s1.clearArrays n else s1

/-- A complete K block of a tile leaves: under a K-split a block before the last goes into the tile's sums, which array A starts from. -/
def State.drainSpan (s : State) (n q : Nat) (d : Desc) (u : MmaUnit) (t : Tile) (as : List Acc32) : State :=
  if t.span + 1 < (unitSpans d.cap u).length then
    s.updDesc n q d.seq fun d =>
      { d with sums := (d.sums.filter fun x => x.1 != t.tile) ++ [(t.tile, t.span + 1, as.map fun v => (v.bits, v.sticky))] }
  else s.drainTile n q d u t.tile as

/-- ACCUMULATOR_DRAIN: a complete tile leaves; under a K-split both partial sums are added first, A then B (R79, R80). -/
def State.accDrain (s : State) (n a : Nat) : State :=
  match s.arrJob n a with
  | none => s
  | some (q, d) =>
    match mmaUnitOf d, (s.arr n a).drainable with
    | some u, some t =>
      let c := d.cap
      let box := tileAt c u t.tile
      let g := spanGroups c (s.mmaSplit n d) 1 (listAt (0, 0) (unitSpans c u) t.span)
      if s.mmaSplit n d && decide (g.1 < g.2) then
        match (s.arr n 0).drainable, (s.arr n 1).drainable with
        | some x, some y =>
          if (x.tile, x.span) = (t.tile, t.span) ∧ (y.tile, y.span) = (t.tile, t.span) then
            let as := ((tileAccList box x).zip (tileAccList box y)).map fun p => accSum (mmaI32 c) p.1 p.2
            ((s.updArr n 0 (Arr.dropTile t.tile t.span)).updArr n 1 (Arr.dropTile t.tile t.span)).drainSpan n q d u t as
          else s
        | _, _ => s
      else (s.updArr n a (Arr.dropTile t.tile t.span)).drainSpan n q d u t (tileAccList box t)
    | _, _ => s

def execAccumulatorDrain (n : LnIx) (arr : ArrayId) (s : State) : Host.Outcome State Fault Refusal := .next (s.accDrain n (arrIx arr))

/-! ### Write-backs, scrubs and re-admission (R89, R91, R97, R402, R432) -/

/-- INGOT_ECC_WRITEBACK: the oldest corrected word is written back; its value is the one that reads have returned. An error that a read
has just corrected is counted and queued first; a word that has gone bad is found so by its next read (R89)
(DESIGN CHOICE, log entry 159). -/
def execIngotEccWriteback (x : IngotCycle) (s : State) : Host.Outcome State Fault Refusal :=
  let s1 := match x.e with
    | .none => s
    | .corrected off => s.ingotCorrected x.n off.toNat
    | .upset off => s.setPoison (ingotBase + mib8 * x.n + off.toNat)
  .next (s1.setIngotErr x.n { s1.ingotErr x.n with writeback := (s1.ingotErr x.n).writeback.drop 1 })

/-- CRUCIBLE_ECC_WRITEBACK: the same in a Crucible bank, whose corrected errors are not counted (R432). -/
def execCrucibleEccWriteback (x : BankCycle) (s : State) : Host.Outcome State Fault Refusal :=
  let s1 := match x.e with
    | .none => s
    | .corrected off =>
      s.setBank x.k { s.bank x.k with writeback := (s.bank x.k).writeback ++ [crucibleBase + mib8 * x.k + off.toNat / 8 * 8] }
    | .upset off => s.setPoison (crucibleBase + mib8 * x.k + off.toNat)
  .next (s1.setBank x.k { s1.bank x.k with writeback := (s1.bank x.k).writeback.drop 1 })

/-- Memory of a range after its scrub: zero with valid check bits, written over what waits to be written back (R91, R99, R260). -/
def State.zeroRange (s : State) (da len : Nat) : State :=
  let s1 : State := { s with
    mem := s.mem.filter (fun e => !(decide (da ≤ e.1) && decide (e.1 < da + len)))
    undef := (s.undef.map (Undef.minus da len)).flatten
    poison := s.poison.filter (fun w => !(decide (da ≤ w * 8) && decide (w * 8 < da + len))) }
  (s1.cancelBack da len).retest da len

/-- Memory of a range that power-up leaves undefined, with valid check bits: no write-back is due in it (R381; log entry 2). -/
def State.undefRange (s : State) (da len : Nat) : State :=
  let us := (s.undef.map (Undef.minus da len)).flatten
  let s1 : State := { s with
    mem := s.mem.filter (fun e => !(decide (da ≤ e.1) && decide (e.1 < da + len)))
    undef := us.filter (fun u => decide (u.base < da)) ++ [⟨da, len, da, s.freeCtr⟩] ++ us.filter (fun u => !decide (u.base < da))
    poison := s.poison.filter (fun w => !(decide (da ≤ w * 8) && decide (w * 8 < da + len)))
    freeCtr := s.freeCtr + len / 8 }
  (s1.cancelBack da len).retest da len

/-- A power cycle of a domain that was on. -/
def State.cycleDom (s : State) (d : Nat) : State := if s.domOn d then (s.bumpEpoch d).windowGap d else s

/-- The logic domain of a Lantern loses its state; RUNs active on it end with a status (R97, R99). -/
def State.clearLantern (s : State) (n : Nat) (st : Status) : State :=
  let ids := (s.lantern n).ctxs.filterMap fun c => c.cmd
  let s1 := (s.ticketsBack n).setLantern n Lantern.reset
  let s2 : State := { s1 with rmos := s1.rmos.filter fun r => match r.issuer with | .lantern m => m.val != n | _ => true }
  ids.foldl (fun s id =>
    let s1 := s.runError id st 0
    if s1.runsOn id then s1 else s1.stageDone id) s2

/-- ARRAY_READMIT: after the Lantern's issued descriptors have completed and the self-test passed, the logic, array and Spill domains
are power-cycled with the Ingot kept, and the array's runtime bit clears; an array that fails stays disabled until power-on reset (R97)
(DEDUCED, log entry 17). -/
def State.arrayReadmit (s : State) (n a : Nat) (ok : Bool) : State :=
  if s.flag Reg.arrayRuntimeMap (arrBit n a) && (s.issuedAll n).isEmpty && !s.flag (Reg.lnStatus n) 31 then
    match s.selfTest (arrBit n a) ok with
    | (s0, false) => s0
    | (s0, true) =>
    let s1 := ((s0.setFlag Reg.arrayRuntimeMap (arrBit n a) false).mapMoved (BitVec.ofNat 32 (2 ^ arrBit n a))).clearLantern n .staleEpoch
    let s2 := [lnDom n, arrDom n false, arrDom n true, spillDom n].foldl (fun s d => s.cycleDom d) s1
    s2.sootEvent 0x1012 (BitVec.ofNat 64 n) none
  else s

def execArrayReadmit (n : LnIx) (arr : ArrayId) (selfTestOk : Bool) (s : State) : Host.Outcome State Fault Refusal :=
  .next (s.arrayReadmit n (arrIx arr) selfTestOk)

/-- LANTERN_READMIT: a quarantined Lantern that passed its self-test is scrubbed; SCRUB_COMPLETE ends the quarantine. One that fails stays
out until power-on reset (R97) (DEDUCED, log entry 18). -/
def State.lanternReadmit (s : State) (n : Nat) (ok : Bool) : State :=
  let e := s.ingotErr n
  if s.flag (Reg.lnStatus n) 31 && !e.readmit then
    match s.selfTest (32 + n) ok with
    | (s0, false) => s0
    | (s0, true) =>
    (s0.setIngotErr n { e with ranges := [(ingotBase + mib8 * n, mib8)], readmit := true }).setFlag (Reg.lnStatus n) 30 true
  else s

def execLanternReadmit (n : LnIx) (selfTestOk : Bool) (s : State) : Host.Outcome State Fault Refusal := .next (s.lanternReadmit n selfTestOk)

/-- Some partition holds a valid quota on the Lantern (R382). -/
def State.hasQuota (s : State) (n : Nat) : Bool := (List.range 4).any fun q => (s.quotaOf n q).isSome

/-- The end of a Lantern's quarantine: a new epoch for every domain, which are on while the Lantern holds a quota (R97, R382). -/
def State.lanternBack (s : State) (n : Nat) : State :=
  let s1 := (s.setFlag (Reg.lnStatus n) 31 false).setIngotErr n { IngotErr.reset with writeback := [] }
  let s2 := if s1.hasQuota n then (List.range 5).foldl (fun s i => s.powerUp (5 * n + i)) s1 else s1
  s2.sootEvent 0x1012 (BitVec.ofNat 64 n) none

/-- The scrub of an Ingot ends. -/
def State.ingotScrubbed (s : State) (n : Nat) : State :=
  let e := s.ingotErr n
  let s1 := e.ranges.foldl (fun s r => s.zeroRange r.1 r.2) s
  let s2 := (s1.setIngotErr n { s1.ingotErr n with ranges := [], readmit := false }).setFlag (Reg.lnStatus n) 30 false
  if e.readmit then s2.lanternBack n else s2

/-- The scrub of a Crucible bank's units ends. -/
def State.bankScrubbed (s : State) (k : Nat) : State :=
  let s1 := (s.bank k).ranges.foldl (fun s r => s.zeroRange r.1 r.2) s
  s1.setBank k { s1.bank k with ranges := [] }

/-- CRUCIBLE_BANK_READMIT: a quarantined bank that passed its self-test serves again, powered with a new epoch while something
targets it; its data values are undefined until written (R381, R402). -/
def State.bankReadmit (s : State) (k : Nat) (ok : Bool) : State :=
  let b := s.bank k
  if b.quarantined && ok then
    (((s.setBank k Bank.reset).powerUp (cbDom k)).undefRange (crucibleBase + mib8 * k) mib8).sootEvent 0x0112 (BitVec.ofNat 64 k) none
  else s

def execCrucibleBankReadmit (k : CbIx) (selfTestOk : Bool) (s : State) : Host.Outcome State Fault Refusal := .next (s.bankReadmit k selfTestOk)

end Sys2Proof.Machine
end

