-- ==== Sys2Proof/Machine/Pewter.lean ====
section
/-!
DEFINITION. Commands in flight as their engines see them, and the Pewter buffer pools: handles, allocation, owners, release
and pool enables (R276-R287).
-/

namespace Sys2Proof.Machine

/-! ### Commands in flight -/

/-- The step of an opcode on the issued command of that identity and opcode; without such a command nothing happens (log
entry 8). -/
def State.runOp (s : State) (id opcode : Nat) (f : Cmd → State → State) : State :=
  match s.cmd? id with
  | none => s
  | some c => if c.phase = .issued ∧ c.opcode = opcode then f c s else s

/-! ### Handles (R278, R279) -/

/-- The handle of buffer ix of a pool at a generation. -/
def handleOf (gen pool ix : Nat) : Nat :=
  let h := 2 ^ 56 * gen + 2 ^ 52 * pool + 2 ^ 24 * ix
  h + ((leBytes 8 h).foldl (fun c b => c ^^^ b.toNat) 0x5A)

/-- CHK of a handle: XOR of bytes 1-7 and 0x5A. -/
def handleChk (h : Nat) : Nat := ((leBytes 8 h).drop 1).foldl (fun c b => c ^^^ b.toNat) 0x5A

/-- DA of a buffer (R276). -/
def State.bufDa (s : State) (pool ix : Nat) : Nat := mib2 * s.fld (Reg.pwPoolBase pool) 26 0 + ix * poolSize pool

/-- The buffer state table: first DA and length (PW_STATE). -/
def State.stateTable (s : State) : Nat × Nat :=
  (mib2 * s.fld Reg.pwState 26 0, 65536 * 2 ^ min 8 (s.fld Reg.pwState 31 27) * 8)

/-- The state table lies in a lost DRAM region (R306). -/
def State.stateTableLost (s : State) : Bool := s.dramLost s.stateTable.1

/-- What a handle check finds. -/
inductive HandleCheck
  | pass (pool ix : Nat)
  | fail (st : Status)
deriving DecidableEq, Repr

/-- The checks of R279 in their order, for partition p and the bytes off to off + len of the buffer. -/
def State.handleCheck (s : State) (p h off len : Nat) : HandleCheck :=
  let pool := natBits h 54 52
  let ix := natBits h 47 24
  if s.stateTableLost then .fail .unitFault
  else if natBits h 7 0 ≠ handleChk h ∨ natBits h 55 55 ≠ 0 ∨ natBits h 51 48 ≠ 0 ∨ natBits h 23 8 ≠ 0 ∨
     s.poolEn pool = false ∨ s.fld (Reg.pwPoolCount pool) 23 0 ≤ ix then .fail .bounds
  else if (s.buf pool ix).live = false ∨ natBits h 63 56 ≠ (s.buf pool ix).gen.toNat then .fail .bounds
  else if (s.buf pool ix).owns p = false then .fail .notOwner
  else if poolSize pool < off + len then .fail .bounds
  else if off % 8 ≠ 0 then .fail .align
  else .pass pool ix

/-- DA of the buffer that a handle names. -/
def State.handleDa (s : State) (h : Nat) : Nat := s.bufDa (natBits h 54 52) (natBits h 47 24)

/-- A use of a handle: a failing check is counted in PW_ERR and recorded with the handle (R279). -/
def State.useHandle (s : State) (p h off len : Nat) : State × HandleCheck :=
  match s.handleCheck p h off len with
  | .pass k i => (s, .pass k i)
  | .fail st =>
    let s1 := match st with
      | .notOwner => s.bump Reg.pwErr 31 16 1
      | .unitFault => s
      | _ => s.bump Reg.pwErr 15 0 1
    (s1.sootEvent 0x0720 (BitVec.ofNat 64 h) (some p), .fail st)

/-! ### Allocation (R280) -/

/-- The pool whose buffer size is the smallest of at least n bytes. -/
def poolFor (n : Nat) : Option Nat := (List.range 8).find? fun k => decide (n ≤ poolSize k)

/-- The first index from lo on, below hi, that is not taken; n bounds the search. -/
def firstFree (taken : List Nat) (hi : Nat) : Nat → Nat → Option Nat
  | 0, _ => none
  | n + 1, lo => if hi ≤ lo then none else if taken.contains lo then firstFree taken hi n (lo + 1) else some lo

/-- Buffer indices of a pool that one window entry covers in full: first and end. -/
def State.coveredRange (s : State) (pool : Nat) (lo hi : Word) : Nat × Nat :=
  let base := s.bufDa pool 0
  let sz := poolSize pool
  let a := winTarget hi
  let b := a + winLen lo
  let n := s.fld (Reg.pwPoolCount pool) 23 0
  (if a ≤ base then 0 else (a - base + sz - 1) / sz, if b ≤ base then 0 else min n ((b - base) / sz))

/-- The eligible buffer of lowest index for a partition: free, and within one valid entry with RD and WR (R280). -/
def State.eligible (s : State) (p pool : Nat) : Option Nat :=
  let taken := (s.poolLive pool).map fun e => e.1 % 2 ^ 24
  let t := (s.part p).active
  let c := (List.range 64).filterMap fun e =>
    let lo := tableWord t 0 (2 * e)
    let hi := tableWord t 0 (2 * e + 1)
    if bitOf hi 31 && bitOf hi 30 && bitOf hi 29 then
      let r := s.coveredRange pool lo hi
      firstFree taken r.2 (taken.length + 1) r.1
    else none
  c.foldl (fun m i => match m with | none => some i | some j => some (min i j)) none

/-- POOL_QUOTA of a partition (R253); 0xFFFF is no limit. -/
def State.poolQuota (s : State) (p pool : Nat) : Nat := s.limit p (28 + 2 * pool) 2

/-- A partition may hold n more buffers of a pool. -/
def State.quotaAllows (s : State) (p pool n : Nat) : Bool :=
  decide (s.poolQuota p pool = 0xFFFF) || decide (s.poolHeld pool p + n ≤ s.poolQuota p pool)

/-- n buffers taken one after another for a partition; all of them or none. -/
def State.takeBufs (s : State) (p pool : Nat) : Nat → Option (State × List Nat)
  | 0 => some (s, [])
  | n + 1 =>
    match s.eligible p pool with
    | none => none
    | some i =>
      let b := s.buf pool i
      match (s.setBuf pool i { b with slots := [some p, none, none, none] }).takeBufs p pool n with
      | none => none
      | some (s1, l) => some (s1, handleOf b.gen.toNat pool i :: l)

/-- An allocation of n buffers of a size for a partition: the state and the handles, or none (NO_BUFFER). -/
def State.allocBufs (s : State) (p size n : Nat) : Option (State × List Nat) :=
  match poolFor size with
  | none => none
  | some k =>
    if s.poolEn k && !s.poolInit.contains k && s.quotaAllows p k n && !s.stateTableLost then s.takeBufs p k n else none

/-- An allocation of one buffer of a named pool (R281). -/
def State.allocPool (s : State) (p k : Nat) : Option (State × Nat) :=
  if s.poolEn k && !s.poolInit.contains k && s.quotaAllows p k 1 && !s.stateTableLost then
    match s.takeBufs p k 1 with
    | some (s1, h :: _) => some (s1, h)
    | _ => none
  else none

/-! ### Owners and release (R282-R284) -/

/-- Index of the highest slot that a partition occupies. -/
def lastSlot (l : List (Option Nat)) (p : Nat) : Option Nat :=
  ((List.range 4).filter fun i => listAt none l i == some p).getLast?

/-- One hold of a partition on a buffer given up: the state, and whether the buffer was released (R283). -/
def State.freeHold (s : State) (pool ix p : Nat) : State × Bool :=
  let b := s.buf pool ix
  match lastSlot b.slots p with
  | none => (s, false)
  | some i =>
    let sl := listUpd b.slots i fun _ => none
    if sl.all (·.isNone) then (s.setBuf pool ix { gen := b.gen + 1, slots := sl }, true)
    else (s.setBuf pool ix { b with slots := sl }, false)

/-- A unit gives up its hold on the buffer of a handle, for a partition; the handle is checked as at any use (R279, R281). -/
def State.unitFree (s : State) (p h : Nat) : State :=
  match s.useHandle p h 0 0 with
  | (s1, .fail _) => s1
  | (s1, .pass k ix) => (s1.freeHold k ix p).1

/-- Every slot of a partition emptied and the buffers without an owner released (R284). -/
def State.dropOwner (s : State) (p : Nat) : State :=
  { s with bufs := s.bufs.filterMap fun e =>
      if e.2.owns p then
        let sl := e.2.slots.map fun x => if x = some p then none else x
        let b : PBuf := if sl.all (·.isNone) then { gen := e.2.gen + 1, slots := sl } else { e.2 with slots := sl }
        if b = PBuf.reset then none else some (e.1, b)
      else some e }

/-- The pool for a size has entries that are still being written: its allocations wait (R277, R284; DEDUCED, log entry 172). -/
def State.allocWaits (s : State) (size : Nat) : Bool :=
  match poolFor size with
  | none => false
  | some k => s.poolInit.contains k

/-- POOL_FREE (R283): the highest slot of the partition empties; DETAIL[0] says that the buffer was released. -/
def State.opPoolFree (c : Cmd) (s : State) : State :=
  let u := s.useHandle c.part (c.par 0 8) 0 0
  match u.2 with
  | .fail st => u.1.endCmd c.id st 0
  | .pass k i =>
    let f := u.1.freeHold k i c.part
    f.1.endCmd c.id .ok (BitVec.ofNat 32 (boolNat f.2))

def execPoolFree (id : Nat) (s : State) : Host.Outcome State Fault Refusal := .next (s.runOp id 0x73 State.opPoolFree)

/-- POOL_SHARE (R282): the handle checks, then the partition's validity, an empty slot and its quota; PART enters the lowest
empty slot. -/
def State.opPoolShare (c : Cmd) (s : State) : State :=
  let q := c.par 8 1 % 64
  let u := s.useHandle c.part (c.par 0 8) 0 0
  match u.2 with
  | .fail st => u.1.endCmd c.id st 0
  | .pass k i =>
    let s1 := u.1
    let b := s1.buf k i
    if s1.partValid q = false then s1.endCmd c.id .bounds 0
    else
      match (List.range 4).find? fun j => (listAt none b.slots j).isNone with
      | none => s1.endCmd c.id .quota 0
      | some j =>
        if b.owns q = false ∧ s1.quotaAllows q k 1 = false then s1.endCmd c.id .quota 0
        else (s1.setBuf k i { b with slots := listUpd b.slots j fun _ => some q }).endCmd c.id .ok (BitVec.ofNat 32 j)

def execPoolShare (id : Nat) (s : State) : Host.Outcome State Fault Refusal := .next (s.runOp id 0x74 State.opPoolShare)

/-! ### Pool configuration (R277) -/

/-- Largest COUNT of a pool (R276). -/
def poolMax (k : Nat) : Nat := listAt 0 [16769024, 16775168, 16776704, 8388608, 2097152, 524288, 131072, 32768] k

/-- Two ranges share an address. -/
def overlaps (a n b m : Nat) : Bool := decide (a < b + m) && decide (b < a + n)

/-- Region of a pool: first DA and length. -/
def State.poolRegion (s : State) (k : Nat) : Nat × Nat := (s.bufDa k 0, s.fld (Reg.pwPoolCount k) 23 0 * poolSize k)

/-- Some valid entry of an active window table targets part of a range. -/
def State.anyWindowOn (s : State) (a n : Nat) : Bool :=
  (List.range 64).any fun p => (List.range 64).any fun e =>
    let lo := tableWord (s.part p).active 0 (2 * e)
    let hi := tableWord (s.part p).active 0 (2 * e + 1)
    s.partValid p && bitOf hi 31 && overlaps (winTarget hi) (winLen lo) a n

/-- The enable of a pool passes every check of R277, against the pools enabled now. -/
def State.poolEnableOk (s : State) (k : Nat) : Bool :=
  let r := s.poolRegion k
  let n := s.fld (Reg.pwPoolCount k) 23 0
  let t := s.stateTable
  let others := (List.range 8).filter fun j => s.poolEn j && j != k
  let inDram := decide (r.1 + r.2 ≤ s.usableTop)
  let inCru := decide (crucibleBase ≤ r.1) && decide (r.1 + r.2 ≤ crucibleBase + 8 * mib8)
  decide (r.1 % (if k = 7 then 0x400000 else mib2) = 0) && decide (r.2 ≠ 0) && decide (r.2 % mib2 = 0) && decide (n ≤ poolMax k) &&
  (inDram || inCru) && decide (t.1 + t.2 ≤ s.usableTop) &&
  others.all (fun j => !overlaps r.1 r.2 (s.poolRegion j).1 (s.poolRegion j).2) && !overlaps r.1 r.2 t.1 t.2 &&
  decide (((others.map fun j => s.fld (Reg.pwPoolCount j) 23 0).sum) + n ≤ 65536 * 2 ^ min 8 (s.fld Reg.pwState 31 27)) &&
  !s.anyWindowOn t.1 t.2

/-- A refusal under R277: CFG_REFUSED and one event of kind 0x02. -/
def State.cfgRefused (s : State) (off : Nat) : State := (s.setFlag Reg.pwCtrl 30 true).ignoredWrite 0x07 off

/-- Pool k is enabled, or refused (R277). Every buffer then has GEN 0 and no owner, and the state entries are being written. -/
def State.poolEnable (s : State) (k : Nat) : State :=
  if s.poolEnableOk k then
    let s1 := s.setFlag Reg.pwCtrl k true
    { s1 with bufs := s1.bufs.filter fun e => e.1 / 2 ^ 24 != k, poolInit := insertSorted k s1.poolInit }
  else s.cfgRefused Reg.pwCtrl

/-- Pool k is disabled, or refused while it has an allocated buffer (R277). -/
def State.poolDisable (s : State) (k : Nat) : State :=
  if (s.poolLive k).isEmpty then
    let s1 := s.setFlag Reg.pwCtrl k false
    { s1 with poolInit := s1.poolInit.filter (· != k) }
  else s.cfgRefused Reg.pwCtrl

/-- A write to PW_CTRL: the lock, CFG_REFUSED, then the bits it clears, then those it sets in ascending order (R277). -/
def State.pwCtrlWrite (s : State) (v : Word) : State :=
  let s0 := if bitOf v 30 then s.setFlag Reg.pwCtrl 30 false else s
  let cur := s0.reg Reg.pwCtrl
  if bitOf cur 31 then
    (if (v &&& 0x800000FF) = (cur &&& 0x800000FF) then s0 else s0.lockViolation 0x07 Reg.pwCtrl)
  else
    let s1 := (List.range 8).foldl (fun s k => if s.poolEn k && !bitOf v k then s.poolDisable k else s) s0
    let s2 := (List.range 8).foldl (fun s k => if !s.poolEn k && bitOf v k then s.poolEnable k else s) s1
    if bitOf v 31 then s2.setFlag Reg.pwCtrl 31 true else s2

/-- POOL_ENABLE: a write to PW_CTRL that sets one more POOL_EN bit. -/
def execPoolEnable (k : PoolIx) (s : State) : Host.Outcome State Fault Refusal :=
  .next (s.pfReach Reg.pwCtrl (s.pwCtrlWrite (setBits (s.reg Reg.pwCtrl &&& 0x800000FF) k k 1)))

/-- POOL_DISABLE: a write to PW_CTRL that clears one POOL_EN bit. -/
def execPoolDisable (k : PoolIx) (s : State) : Host.Outcome State Fault Refusal :=
  .next (s.pfReach Reg.pwCtrl (s.pwCtrlWrite (setBits (s.reg Reg.pwCtrl &&& 0x800000FF) k k 0)))

/-- POOL_STATE_INIT_DONE: the state entries of the pool are written, and its allocations may proceed (R277, R284). -/
def execPoolStateInitDone (k : PoolIx) (s : State) : Host.Outcome State Fault Refusal :=
  .next { s with poolInit := s.poolInit.filter (· != k.val) }

/-- A write to PW_STATE, PW_POOLk_BASE or PW_POOLk_COUNT: locked, refused while the pools concerned are enabled, or taken. -/
def State.pwCfgWrite (s : State) (off : Nat) (mask : Word) (busy : Bool) (v : Word) : State :=
  if s.flag Reg.pwCtrl 31 then (if v &&& mask = s.reg off then s else s.lockViolation 0x07 off)
  else if busy then s.cfgRefused off
  else s.setReg off (v &&& mask)

end Sys2Proof.Machine
end

