-- ==== Sys2Proof/Machine/Queue.lean ====
section
/-!
DEFINITION. Rings: their contexts, doorbells, status block, interrupts, and the Shades that meter traffic (R229-R239, R271,
R272, R314, R315, R323).
-/

namespace Sys2Proof.Machine

/-! ### Shades (R271, R272) -/

/-- A partition's Shade on a path. -/
def State.shade (s : State) (p path : Nat) : Shade := listAt Shade.reset (s.part p).shades path

/-- The state with a Shade replaced. -/
def State.updShade (s : State) (p path : Nat) (f : Shade → Shade) : State :=
  let x := s.part p
  s.setPart p { x with shades := listUpd x.shades path f }

/-- Tokens at present in 10^-3 bytes: refilled at the rate in MB/s up to the depth. -/
def State.shadeTokens (s : State) (p path : Nat) : Int :=
  let h := s.shade p path
  min (1000 * h.depth) (h.tokens + h.rate * (s.nowNs - h.last))

/-- A request of key and n bytes on a path: it proceeds, or waits behind the requests before it (R272) (DESIGN CHOICE, log entry 46). -/
def State.shadeAsk (s : State) (p path key n : Nat) : State × Bool :=
  let h := s.shade p path
  if h.rate = 0 ∨ n = 0 then (s, true)
  else if h.granted.contains key then (s.updShade p path fun h => { h with granted := h.granted.erase key }, true)
  else if h.waiting.isEmpty ∧ 0 ≤ s.shadeTokens p path then
    (s.updShade p path fun h => { h with tokens := s.shadeTokens p path - 1000 * n, last := s.nowNs }, true)
  else if h.waiting.any (fun w => w.1 == key) then (s, false)
  else (s.updShade p path fun h => { h with waiting := h.waiting ++ [(key, n)] }, false)

/-- Bytes of one path in a list of charges. -/
def pathBytes (l : List (Nat × Nat)) (path : Nat) : Nat := ((l.filter fun x => x.1 == path).map (·.2)).sum

/-- A request on several paths, taken in code order; what is granted while a later path waits stays granted to the key. -/
def State.shadeAskFrom (s : State) (p key : Nat) (l : List (Nat × Nat)) : List Nat → State × Bool
  | [] => (s, true)
  | path :: t =>
    match s.shadeAsk p path key (pathBytes l path) with
    | (s1, false) => (s1, false)
    | (s1, true) =>
      match s1.shadeAskFrom p key l t with
      | (s2, true) => (s2, true)
      | (s2, false) =>
        if (s2.shade p path).rate = 0 ∨ pathBytes l path = 0 then (s2, false)
        else (s2.updShade p path fun h => { h with granted := h.granted ++ [key] }, false)

/-- A request with charges on several paths; it proceeds when every one lets it. -/
def State.shadeAskAll (s : State) (p key : Nat) (l : List (Nat × Nat)) : State × Bool := s.shadeAskFrom p key l (List.range 7)

/-- Key under which the bytes of the ingest wait. -/
def ingestKey : Nat := 2 ^ 59

/-- Bytes that the ingest writes: they take their tokens, or wait for them in arrival order; what they write is in memory at once, and
their wait is time (R185, R272) (DESIGN CHOICE, log entry 46). -/
def State.shadeTake (s : State) (p path n : Nat) : State :=
  let h := s.shade p path
  if h.rate = 0 ∨ n = 0 then s
  else if h.waiting.isEmpty ∧ 0 ≤ s.shadeTokens p path then
    s.updShade p path fun h => { h with tokens := s.shadeTokens p path - 1000 * n, last := s.nowNs }
  else s.updShade p path fun h => { h with waiting := h.waiting ++ [(ingestKey, n)] }

/-- SHADE_GRANT: the oldest waiting request of a partition on a path proceeds once the tokens are at least 0 (R272). -/
def execShadeGrant (p : PartIx) (path : Fin 7) (s : State) : Host.Outcome State Fault Refusal :=
  match (s.shade p path).waiting with
  | [] => .next s
  | (k, n) :: t =>
    if 0 ≤ s.shadeTokens p path then
      .next (s.updShade p path fun h => { h with
        tokens := s.shadeTokens p path - 1000 * n, last := s.nowNs, waiting := t, granted := if k = ingestKey then h.granted else h.granted ++ [k] })
    else .next s

/-- The path that bytes at a device address are charged to: 4 for the Crucible, the given DRAM path for DRAM, none for an
Ingot (R271). -/
def State.chargePath (s : State) (da dramPath n : Nat) : List (Nat × Nat) :=
  match s.unitOf da with
  | .dram => [(dramPath, n)]
  | .crucible _ => [(4, n)]
  | _ => []

/-! ### Ring contexts (R230) -/

/-- A context field: n bytes from a byte offset. -/
def ctxField (ctx : List Word) (off n : Nat) : Nat := fieldAt (wordsBytes ctx) off n

def Ring.enabled (r : Ring) : Bool := (ctxField r.ctx 26 1).testBit 7
def Ring.metadata (r : Ring) : Bool := (ctxField r.ctx 26 1).testBit 6
def Ring.loc (r : Ring) : Bool := (ctxField r.ctx 26 1).testBit 5
def Ring.errIrq (r : Ring) : Bool := (ctxField r.ctx 26 1).testBit 4
def Ring.priv (r : Ring) : Bool := (ctxField r.ctx 26 1).testBit 3
def Ring.sqSize (r : Ring) : Nat := 2 ^ (ctxField r.ctx 24 1 % 32)
def Ring.cqSize (r : Ring) : Nat := 2 ^ (ctxField r.ctx 25 1 % 32)
def Ring.sqBase (r : Ring) : Nat := ctxField r.ctx 0 8
def Ring.cqBase (r : Ring) : Nat := ctxField r.ctx 8 8
def Ring.statusAddr (r : Ring) : Nat := ctxField r.ctx 16 8
def Ring.vec (r : Ring) : Nat := ctxField r.ctx 28 2 % 2048
def Ring.modCount (r : Ring) : Nat := max 1 (ctxField r.ctx 30 1)
def Ring.modUs (r : Ring) : Nat := ctxField r.ctx 31 1

/-- A context is in range (R230): sizes, alignments, the vector of the function, and at least 2^14 units for METADATA. -/
def ctxOk (ctx : List Word) (fn : Nat) : Bool :=
  let r : Ring := { Ring.reset with ctx := ctx }
  let cq := ctxField ctx 25 1 % 32
  let sq := ctxField ctx 24 1 % 32
  decide (r.cqBase % 64 = 0) && decide (r.statusAddr % 64 = 0) && (fn == 0 || decide (r.vec < 64)) &&
  (if r.metadata then decide (14 ≤ cq) && decide (cq ≤ 20)
   else decide (r.sqBase % 64 = 0) && decide (4 ≤ sq) && decide (sq ≤ 16) && decide (4 ≤ cq) && decide (cq ≤ 16))

/-- Context words with their reserved bits 0 (R230) (DESIGN CHOICE, log entry 169). -/
def ctxClear (ctx : List Word) : List Word := ctx.take 6 ++ [listAt 0 ctx 6 &&& 0x00F8FFFF, listAt 0 ctx 7 &&& 0xFFFF07FF]

/-- The context that a commit of new words gives: with ENABLE set, only ENABLE, ERR_IRQ, MOD_COUNT and MOD_US change. -/
def ctxCommit (old new : List Word) : List Word :=
  if (ctxField old 26 1).testBit 7 then
    let w6 := setBits (setBits (listAt 0 old 6) 23 23 (bitsOf (listAt 0 new 6) 23 23)) 20 20 (bitsOf (listAt 0 new 6) 20 20)
    let w7 := setBits (listAt 0 old 7) 31 16 (bitsOf (listAt 0 new 7) 31 16)
    (old.take 6) ++ [w6, w7]
  else ctxClear new

/-- The ring after a commit: enabling it sets its positions to 0 (R230). -/
def ringCommit (r : Ring) (new : List Word) : Ring :=
  let c := ctxCommit r.ctx new
  let r1 := { r with ctx := c }
  if !r.enabled && r1.enabled then { Ring.reset with ctx := c, armed := r.armed, statusCount := r.statusCount } else r1

/-- A commit of eight words to a ring: the state, and whether it was taken. -/
def State.commitRing (s : State) (r : Nat) (new : List Word) : State × Bool :=
  let rg := s.ring r
  let fn := match s.ringOwner r with | some (_, f) => f | none => 0
  if ctxOk (ctxCommit rg.ctx new) fn then (s.setRing r (ringCommit rg new), true) else (s, false)

/-- A write to RQ_SEL: RING is taken, WR_REFUSED is W1C, and the staged words are discarded (R230). -/
def State.rqSelWrite (s : State) (v : Word) : State :=
  let ref := s.flag Reg.rqSel 31 && !bitOf v 31
  { s.setReg Reg.rqSel (setBits (v &&& 0x3FFF) 31 31 (boolNat ref)) with rqStaged := [] }

def execRqSelWrite (v : Word) (s : State) : Host.Outcome State Fault Refusal := .next (s.pfReach Reg.rqSel (s.rqSelWrite v))

/-- RQ_CTX_STAGE: a word of RQ_CTX0-RQ_CTX6 is staged. -/
def State.rqStage (s : State) (k : Nat) (v : Word) : State := { s with rqStaged := tabErase s.rqStaged k ++ [(k, v)] }

def execRqCtxStage (k : Fin 7) (v : Word) (s : State) : Host.Outcome State Fault Refusal := .next (s.pfReach (Reg.rqCtx k) (s.rqStage k v))

/-- RQ_CTX7_COMMIT: the eight words, staged or committed, are committed or refused (R230). -/
def State.rqCommit (s : State) (v : Word) : State :=
  let r := s.fld Reg.rqSel 13 0
  let cur := (s.ring r).ctx
  let new := ((List.range 7).map fun k => match tabFind s.rqStaged k with | some w => w | none => listAt 0 cur k) ++ [v]
  match s.commitRing r new with
  | (s1, true) => { s1 with rqStaged := [] }
  | (s1, false) => { s1.setFlag Reg.rqSel 31 true with rqStaged := [] }

def execRqCtx7Commit (v : Word) (s : State) : Host.Outcome State Fault Refusal := .next (s.pfReach (Reg.rqCtx 7) (s.rqCommit v))

/-! ### Interrupts (R239) -/

/-- The ring's message is due: vector VEC of its function; the ring disarms and its count clears. -/
def State.ringMessage (s : State) (r : Nat) : State :=
  let rg := s.ring r
  let fn := match s.ringOwner r with | some (_, f) => f | none => 0
  (s.setRing r { rg with armed := false, counted := 0 }).msixDue fn rg.vec

/-- A completion or BMR that counts toward an interrupt. -/
def State.countIrq (s : State) (r : Nat) : State :=
  let rg := s.ring r
  let rg1 := { rg with counted := rg.counted + 1 }
  let s1 := s.setRing r rg1
  if rg1.armed ∧ rg1.modCount ≤ rg1.counted then s1.ringMessage r else s1

/-- MODERATION_TIMEOUT: MOD_US after the first counted completion, the armed ring sends its vector (R239). -/
def execModerationTimeout (r : RingIx) (s : State) : Host.Outcome State Fault Refusal :=
  let rg := s.ring r
  .next (if rg.armed ∧ 0 < rg.counted ∧ rg.modUs ≠ 0 then s.ringMessage r else s)

/-! ### Doorbells (R231, R232, R314, R315) -/

/-- The VFs are visible (R322). -/
def State.vfVisible (s : State) (f : Nat) : Bool := s.pcie.vfEnable && s.pcie.vfMse && decide (f ≤ s.pcie.numVf)

/-- A function's BARs answer: not in FLR (R325), in D0 (R327), the link up, and visible when it is a VF. -/
def State.fnAnswers (s : State) (f : Nat) : Bool :=
  !(s.func f).flr && !s.pcie.d3 && (f == 0 || s.vfVisible f)

/-- What a doorbell block stands for: the ring behind it, its function and its BAR offset; and whether an ignored write is
recorded. -/
def State.doorRing (s : State) (d : Door) : Option Nat × Nat × Nat :=
  match d with
  | .pf r =>
    let off := 0x1000 * (r.val / 64) + r.val % 64 * 0x40
    match s.ringOwner r with
    | some (_, 0) => (some r.val, 0, off)
    | _ => (none, 0, off)
  | .vf f v => (s.vfRing f v, f.val, 0x2000 + v * 0x40)

/-- A doorbell write that is ignored: recorded for a ring's refusal and for PF BAR2 (R232, R315). -/
def State.doorIgnored (s : State) (off : Nat) : State := s.ignoredWrite 0x06 off

/-- The write of a doorbell word reaches its ring, or is ignored. -/
def State.doorWrite (s : State) (d : Door) (f : State → Nat → Nat → State) : State :=
  match s.doorRing d with
  | (some r, fn, off) => if s.fnAnswers fn then f s r off else s
  | (none, fn, off) => if fn = 0 ∧ s.fnAnswers 0 then s.doorIgnored off else s

/-- SQ_TAIL: ignored past the ring size, or behind the previous tail (R232). -/
def State.sqTail (v : Word) (s : State) (r off : Nat) : State :=
  let rg := s.ring r
  let back := (rg.sqTail - v).toNat
  if rg.sqSize < (v - rg.sqHead).toNat ∨ (1 ≤ back ∧ back ≤ 2 ^ 31) then s.doorIgnored off
  else s.setRing r { rg with sqTail := v }

def execSqTailDoorbell (d : Door) (v : Word) (s : State) : Host.Outcome State Fault Refusal := .next (s.doorWrite d (State.sqTail v))

/-- CQ_HEAD: ignored when it passes CQ_TAIL or lies behind the previous head (R232). -/
def State.cqHead (v : Word) (s : State) (r off : Nat) : State :=
  let rg := s.ring r
  if (rg.cqTail - rg.cqHead).toNat < (v - rg.cqHead).toNat then s.doorIgnored off
  else s.setRing r { rg with cqHead := v }

def execCqHeadDoorbell (d : Door) (v : Word) (s : State) : Host.Outcome State Fault Refusal := .next (s.doorWrite d (State.cqHead v))

/-- IRQ_ARM: 1 arms the ring, which sends at once when counted completions are pending; 0 does nothing (R239). -/
def State.irqArmRing (v : Word) (s : State) (r _off : Nat) : State :=
  if bitOf v 0 then
    let rg := s.ring r
    let s1 := s.setRing r { rg with armed := true }
    if 0 < rg.counted then s1.ringMessage r else s1
  else s

def execIrqArm (d : Door) (v : Word) (s : State) : Host.Outcome State Fault Refusal := .next (s.doorWrite d (State.irqArmRing v))

/-- The word that a doorbell block presents: SQ_HEAD, 0, armed, and 0 elsewhere; 0 without a ring behind it (R231, R314). -/
def State.doorRead (s : State) (d : Door) (off : Nat) : Word :=
  match s.doorRing d with
  | (some r, fn, _) =>
    if s.fnAnswers fn then
      (match off with
       | 0 => (s.ring r).sqHead
       | 8 => BitVec.ofNat 32 (boolNat (s.ring r).armed)
       | _ => 0)
    else 0
  | (none, _, _) => 0

/-! ### Writes to a ring's memory -/

/-- Device-to-host writes of a function can be sent: Bus Master Enable, no FLR, link up (R323, R325) (DEDUCED, log entry 100). -/
def State.hostWritable (s : State) (f : Nat) : Bool := (s.func f).busMaster && !(s.func f).flr && s.flag Reg.peStatus 31

/-- Bytes written at a ring's address: to host memory when LOC = 1, else through the window table; an address that fails
translation writes nothing. -/
def State.ringWrite (s : State) (r p addr : Nat) (bs : List Byte) : State :=
  if (s.ring r).loc then s.writeHost addr bs
  else
    match s.translate p addr bs.length .wr with
    | none => s
    | some da => if s.accessStatus da = .ok then s.store da bs else s

/-- The charges of n bytes at a ring's address: PCIe egress when a record goes to the host, the Crucible where it lies there; DRAM has no
path for them (R271) (DESIGN CHOICE, log entry 171). -/
def State.ringCharges (s : State) (r p addr n : Nat) : List (Nat × Nat) :=
  if (s.ring r).loc then [(5, n)]
  else
    match s.translate p addr n .wr with
    | none => []
    | some da => (s.chargePath da 2 n).filter fun x => x.1 == 4

/-- The status block (R233): SQ_HEAD, CQ_TAIL, a count that rises by 1, and 0. -/
def State.statusBlock (s : State) (r p : Nat) : State :=
  let rg := s.ring r
  let rg1 := { rg with statusCount := rg.statusCount + 1 }
  (s.setRing r rg1).ringWrite r p rg.statusAddr
    (leBytes 4 rg1.sqHead.toNat ++ leBytes 4 rg1.cqTail.toNat ++ leBytes 4 rg1.statusCount.toNat ++ leBytes 4 0)

end Sys2Proof.Machine
end

