-- ==== Sys2Proof/Machine/Rmo.lean ====
section
/-!
DEFINITION. Remote memory operations as commands (R45-R55, R134, R135): an RMO is performed at its memory, holds an entry until it
completes, and is ordered within its issuer.
-/

namespace Sys2Proof.Machine

/-! ### Where an operation comes from -/

/-- OP code of an RMO descriptor. -/
def RmoKind.code : RmoKind → Nat
  | .put => 0
  | .get => 1
  | .add32 => 2
  | .addf32 => 3
  | .swap64 => 4
  | .cas64 => 5
  | .signal => 6
  | .wait => 7
  | .fence => 8

/-- Operations that return a value when RET asks for it (R45, R134). -/
def RmoKind.returns : RmoKind → Bool
  | .add32 => true
  | .addf32 => true
  | .swap64 => true
  | .cas64 => true
  | .wait => true
  | _ => false

/-- The operands of an RMO descriptor (R134). -/
def rmoReqOf (k : RmoKind) (d : Desc) : RmoReq :=
  let c := d.cap
  { a := c.sum 16, b := c.sum 24, len := c.fld 12 4, rows := c.fld 32 4, srcStride := c.fld 40 4,
    dstStride := c.fld 44 4, val := BitVec.ofNat 64 (c.fld 48 8), exp := BitVec.ofNat 64 (c.fld 56 8), cond := c.bits 8 3 2,
    timeout := c.fld 10 2, fence := d.fenceFlag, ret := k.returns && c.flag 8 1 }

/-- What an RMO command acts for. -/
structure RmoCall where
  issuer : Issuer
  part : Nat
  det : Bool
  req : RmoReq
  desc : Option (LnIx × QIx × Nat)

/-- DET_MODE as a RUN captured it (R389). -/
def State.ctxDet (s : State) (n q : Nat) : Bool :=
  match (s.ctx n q).cmd with
  | none => s.flag Reg.globalCtrl 0
  | some id => match s.cmd? id with | some c => c.det | none => s.flag Reg.globalCtrl 0

/-- The RMO that a command names: the oldest issued RMO descriptor of a context, when it is of this kind, or a unit's. -/
def State.rmoCall (s : State) (k : RmoKind) : RmoSrc → Option RmoCall
  | .descriptor n q =>
    match (s.ctx n q).issued.find? fun d => d.ty == 0x10 && d.done.isNone && !d.started with
    | none => none
    | some d =>
      if d.cap.bits 8 7 4 = k.code then some ⟨.lantern n, (s.ctx n q).part, s.ctxDet n q, rmoReqOf k d, some (n, q, d.seq)⟩ else none
  | .unit i p r => some ⟨i, p, s.flag Reg.globalCtrl 0, r, none⟩

/-! ### Ordering (R51) -/

/-- The entry is the flag WAIT of a compute descriptor, which orders nothing but that descriptor. -/
def State.syncEntry (s : State) (r : Rmo) : Bool :=
  match r.desc with
  | none => false
  | some (n, q, seq) => match s.descNow n q seq with | some d => isCompute d.ty | none => false

/-- The issuer has an RMO that has not completed; only its WAITs when w. -/
def State.outstanding (s : State) (i : Issuer) (w : Bool) : Bool :=
  s.rmos.any fun r => r.issuer == i && (!w || r.kind == .wait) && !s.syncEntry r

/-- An RMO may be issued now: no WAIT before it, and for SIGNAL, FENCE and a flagged RMO nothing before it (R51) (DEDUCED, log entry 16). -/
def State.rmoMay (s : State) (i : Issuer) (k : RmoKind) (fence : Bool) : Bool :=
  !s.outstanding i true && (!(k == .signal || k == .fence || fence) || !s.outstanding i false)

/-! ### Performing (R45-R50, R54) -/

/-- The new value of a word under an atomic operation or a SIGNAL; none leaves it. -/
def rmoNew (k : RmoKind) (r : RmoReq) (old : Dword) : Option Dword :=
  match k with
  | .add32 => some ((old.setWidth 32 + r.val.setWidth 32).setWidth 64)
  | .addf32 => some ((f32Add (old.setWidth 32) (r.val.setWidth 32)).setWidth 64)
  | .swap64 => some r.val
  | .cas64 => if old = r.exp then some r.val else none
  | .signal => some (if r.cond = 1 then old + r.val else r.val)
  | _ => none

/-- An entry of an RMO that has been performed. -/
def rmoEntry (id : Nat) (x : RmoCall) (k : RmoKind) (r : RmoReq) (da db : Nat) (st : Status) (old : Dword) (detail : Word) : Rmo :=
  { id := id, issuer := x.issuer, part := x.part, kind := k, req := r, da := da, db := db, done := true, status := st, old := old,
    entry := false, desc := x.desc, detail := detail }

/-- The state with an RMO's entry; its descriptor's engine is free for the next. -/
def State.rmoPut (s : State) (x : RmoCall) (f : Nat → Rmo) : State :=
  match s.fresh with
  | (id, s1) =>
    let s2 : State := { s1 with rmos := s1.rmos ++ [f id] }
    match x.desc with
    | none => s2
    | some (n, q, seq) => s2.updDesc n q seq fun d => { d with started := true, rmo := some id }

/-- Number of an issuer. -/
def issuerCode : Issuer → Nat
  | .lantern n => n.val
  | .dispatcher d => 16 + d.val
  | .smelter n => 24 + n.val
  | .shaper n => 36 + n.val
  | .snuffer n => 40 + n.val
  | .tracker n => 44 + n.val
  | .encoder n => 48 + n.val
  | .ozmel => 50
  | .hostBar4 => 51

/-- A transfer performed: into memory, or into the local buffer of the issuer of a GET. -/
def State.rmoCopy (s : State) (x : RmoCall) (k : RmoKind) (r : RmoReq) (da db : Nat) : State × Status :=
  if k = .get ∧ r.toLocal = true then s.takeRows (fun s => s.setLocal (issuerCode x.issuer)) da db r.len r.srcStride r.dstStride .ok (max 1 r.rows)
  else s.copyRows da db r.len r.srcStride r.dstStride .ok (max 1 r.rows)

/-- A word operation performed at its memory (R46). The old value of a 4-byte operation is zero-extended (DESIGN CHOICE, log entry 162). -/
def State.rmoWord (s : State) (k : RmoKind) (r : RmoReq) (da db : Nat) : State × Status × Dword × Word :=
  let n := k.wordSize
  match s.wordAccess da n with
  | (s1, .ok) =>
    let old := BitVec.ofNat 64 (s1.readNat da n)
    let s2 := match rmoNew k r old with | some v => s1.storeNat da n v.toNat | none => s1
    (s2.returnOld r db old, .ok, old, if k = .cas64 ∧ old ≠ r.exp then 1 else 0)
  | (s1, e) => (s1, e, 0, 0)

/-- A WAIT put at its memory: it completes at once when the condition holds, else takes a waiter entry, or polls when the table is
full (R48). -/
def State.rmoWaitPut (s : State) (x : RmoCall) (r : RmoReq) (da db : Nat) : State :=
  match s.wordAccess da 8 with
  | (s1, .ok) =>
    let v := s1.flagAt da
    let ok := waitHolds r.cond v r.val
    s1.rmoPut x fun id => { rmoEntry id x .wait r da db .ok v 0 with done := ok, entry := !ok && s1.waitRoom da }
  | (s1, e) => s1.rmoPut x fun id => rmoEntry id x .wait r da db e 0 0

/-- A checked RMO is performed. -/
def State.rmoPerform (s : State) (x : RmoCall) (k : RmoKind) (r : RmoReq) (da db : Nat) : State :=
  match k with
  | .put | .get =>
    match s.rmoCopy x k r da db with
    | (s1, st) => s1.rmoPut x fun id => rmoEntry id x k r da db st 0 0
  | .fence => s.rmoPut x fun id => rmoEntry id x k r 0 0 .ok 0 0
  | .wait => s.rmoWaitPut x r da db
  | _ =>
    match s.rmoWord k r da db with
    | (s1, st, old, detail) => s1.rmoPut x fun id => rmoEntry id x k r da db st old detail

/-- An RMO refused by its checks: no memory changes, and the address goes to Soot under the issuer's block (R53). -/
def State.rmoRefuse (s : State) (x : RmoCall) (k : RmoKind) (r : RmoReq) (st : Status) (addr : Nat) : State :=
  (s.noteFault (issuerBlock x.issuer) x.part (st, some addr)).rmoPut x fun id => rmoEntry id x k r 0 0 st 0 0

/-- The DRAM path of an issuer's operations (R271): LIVE for a RUN on a gang with a RESIDENT model, MODEL for other RUNs, BULK for a
Dispatcher, MGMT for Ozmel, LIVE for the stages of the live path. -/
def State.rmoPath (s : State) (x : RmoCall) : Nat :=
  match x.issuer with
  | .lantern n =>
    match x.desc with
    | none => 1
    | some (_, q, _) =>
      match (s.ctx n q).cmd.bind s.cmd? with
      | none => 1
      | some c => if (sparseGet ⟨none, [], false⟩ (s.part x.part).residency c.gang).resident.isSome then 0 else 1
  | .dispatcher _ => 2
  | .ozmel => 3
  | _ => 0

/-- Key of an operation at the Shades: its descriptor, or its issuer, whose operations are asked in order. -/
def rmoKey (x : RmoCall) : Nat :=
  match x.desc with
  | some (n, q, seq) => 2 ^ 60 + (2 ^ 32 * (n.val * 4 + q.val) + seq)
  | none => 2 ^ 61 + issuerCode x.issuer

/-- Bytes that an operation moves at each address, by Shade path. -/
def State.rmoCharges (s : State) (x : RmoCall) (k : RmoKind) (r : RmoReq) (da db : Nat) : List (Nat × Nat) :=
  let path := s.rmoPath x
  match k with
  | .fence => []
  | .put => s.chargePath da path (r.len * max 1 r.rows) ++ s.chargePath db path (r.len * max 1 r.rows)
  | .get => s.chargePath da path (r.len * max 1 r.rows) ++
      (if issuerIsLantern x.issuer then s.chargePath db path (r.len * max 1 r.rows) else [])
  | _ => s.chargePath da path k.wordSize

/-- The Shades of the partition let an operation proceed; Ozmel's own and the host's have none (R271, R272). -/
def State.rmoShade (s : State) (x : RmoCall) (k : RmoKind) (r : RmoReq) (da db : Nat) : State × Bool :=
  match x.issuer with
  | .ozmel => (s, true)
  | .hostBar4 => (s, true)
  | _ => s.shadeAskAll x.part (rmoKey x) (s.rmoCharges x k r da db)

/-- The step of an RMO command: nothing until the order of R51 lets it be issued and the Shades let it proceed. -/
def State.rmoStep (s : State) (k : RmoKind) (src : RmoSrc) : State :=
  match s.rmoCall k src with
  | none => s
  | some x =>
    let r := x.req
    if s.rmoMay x.issuer k r.fence then
      match s.rmoCheck x.issuer x.part k r x.det with
      | .fail st addr => s.rmoRefuse x k r st addr
      | .pass da db =>
        match s.rmoShade x k r da db with
        | (s1, true) => s1.rmoPerform x k r da db
        | (s1, false) => s1
    else s

def execRmoPut (src : RmoSrc) (s : State) : Host.Outcome State Fault Refusal := .next (s.rmoStep .put src)
def execRmoGet (src : RmoSrc) (s : State) : Host.Outcome State Fault Refusal := .next (s.rmoStep .get src)
def execRmoAdd32 (src : RmoSrc) (s : State) : Host.Outcome State Fault Refusal := .next (s.rmoStep .add32 src)
def execRmoAddf32 (src : RmoSrc) (s : State) : Host.Outcome State Fault Refusal := .next (s.rmoStep .addf32 src)
def execRmoSwap64 (src : RmoSrc) (s : State) : Host.Outcome State Fault Refusal := .next (s.rmoStep .swap64 src)
def execRmoCas64 (src : RmoSrc) (s : State) : Host.Outcome State Fault Refusal := .next (s.rmoStep .cas64 src)
def execRmoSignal (src : RmoSrc) (s : State) : Host.Outcome State Fault Refusal := .next (s.rmoStep .signal src)
def execRmoWait (src : RmoSrc) (s : State) : Host.Outcome State Fault Refusal := .next (s.rmoStep .wait src)
def execRmoFence (src : RmoSrc) (s : State) : Host.Outcome State Fault Refusal := .next (s.rmoStep .fence src)

/-! ### Completion and waiting (R48, R49, R51) -/

/-- The first of the satisfied waiters of a word, in the order in which they took their entries (R55). -/
def State.waitTurn (s : State) (r : Rmo) : Bool :=
  !r.entry || (s.rmos.find? fun x => x.kind == .wait && x.done && x.entry && x.da == r.da).all fun x => x.id == r.id

/-- RMO_COMPLETE: a performed RMO completes at its issuer, a waiter in its turn; a WAIT's flag value is returned now; a descriptor takes
the status. -/
def State.rmoDone (s : State) (id : Nat) : State :=
  match s.rmos.find? fun r => r.id == id && r.done && s.waitTurn r with
  | none => s
  | some r =>
    let s1 : State := { s with rmos := s.rmos.filter fun x => x.id != id }
    let s2 := if r.kind = .wait ∧ (r.status = .ok ∨ r.status = .timeout) then s1.returnOld r.req r.db r.old else s1
    match r.desc with
    | none => s2
    | some (n, q, seq) =>
      if s.syncEntry r then
        (if r.status = .ok then s2.updDesc n q seq fun d => { d with rmo := none } else s2.descDone n q seq r.status)
      else (s2.updDesc n q seq fun d => { d with detail := r.detail }).descDone n q seq r.status

def execRmoComplete (id : Nat) (s : State) : Host.Outcome State Fault Refusal := .next (s.rmoDone id)

/-- WAIT_RETEST: the waiters of the word at an address are tested (R48). -/
def execWaitRetest (da : Nat) (s : State) : Host.Outcome State Fault Refusal := .next (s.retestRead (da / 8 * 8) 8)

/-- One pending WAIT tested: it completes when its condition holds or its word cannot be read, and at its timeout in any case. -/
def State.waitTest (s : State) (id : Nat) (sel : Rmo → Bool) (expired : Bool) : State :=
  let meant (r : Rmo) : Bool := r.id == id && r.kind == .wait && !r.done && sel r
  let test (r : Rmo) : Rmo :=
    let t := s.waitTested r
    if expired && !t.done then { r with done := true, status := .timeout, old := s.flagAt r.da } else t
  ({ s with rmos := s.rmos.map fun r => if meant r then test r else r } : State).waitErrors (s.rmos.filter meant)

/-- WAIT_POLL: a WAIT without an entry re-reads its flag (R48). -/
def execWaitPoll (id : Nat) (s : State) : Host.Outcome State Fault Refusal := .next (s.waitTest id (fun r => !r.entry) false)

/-- WAIT_TIMEOUT: the flag is tested once more, then OK or TIMEOUT (R49); a WAIT with timeout 0 has none. -/
def execWaitTimeout (id : Nat) (s : State) : Host.Outcome State Fault Refusal :=
  .next (s.waitTest id (fun r => decide (r.req.timeout ≠ 0)) true)

end Sys2Proof.Machine
end

