-- ==== Sys2Proof/Machine/StreamCore.lean ====
section
/-!
DEFINITION. What the stages of the live path share: streams, contexts, entries and Quads as tables, the in-flight frames of a stream
(R22-R25, R199), and the Barnil Metadata Record as bytes (R167, R168).
-/

namespace Sys2Proof.Machine

/-! ### Tables -/

/-- A table with the entry at k, if any, replaced by its image. -/
def tabUpd {α : Type} (t : Tab α) (k : Nat) (f : α → α) : Tab α := t.map fun e => if e.1 = k then (e.1, f e.2) else e

/-- Key of a stream. -/
def streamKey (p ix : Nat) : Nat := 1024 * p + ix

def State.stream? (s : State) (p ix : Nat) : Option Stream := tabFind s.streams (streamKey p ix)
def State.updStream (s : State) (p ix : Nat) (f : Stream → Stream) : State := { s with streams := tabUpd s.streams (streamKey p ix) f }
def State.dec? (s : State) (c : Nat) : Option DecCtx := tabFind s.decs c
def State.updDec (s : State) (c : Nat) (f : DecCtx → DecCtx) : State := { s with decs := tabUpd s.decs c f }
def State.entry? (s : State) (e : Nat) : Option Entry := tabFind s.entries e
def State.updEntry (s : State) (e : Nat) (f : Entry → Entry) : State := { s with entries := tabUpd s.entries e f }
def State.smelter (s : State) (n : Nat) : Smelter := sparseGet Smelter.reset s.smelters n
def State.setSmelter (s : State) (n : Nat) (v : Smelter) : State := { s with smelters := sparseSet Smelter.reset s.smelters n v }
def State.quad (s : State) (q : Nat) : Quad := sparseGet Quad.reset s.quads q
def State.setQuad (s : State) (q : Nat) (v : Quad) : State := { s with quads := sparseSet Quad.reset s.quads q v }

/-- A saturating 32-bit counter of a list raised by n. -/
def countUp (l : List Nat) (k n : Nat) : List Nat := listUpd l k fun c => min 0xFFFFFFFF (c + n)

/-! ### Fields of a stream's binding (R175, R194, R242) -/

def Stream.par (st : Stream) (off n : Nat) : Nat := fieldAt st.bind off n
/-- RECORDED class. -/
def Stream.recorded (st : Stream) : Bool := (st.par 0 1).testBit 7
/-- DEPTH; 0 is read as 4. -/
def Stream.depth (st : Stream) : Nat := if natBits (st.par 0 1) 3 0 = 0 then 4 else natBits (st.par 0 1) 3 0
def Stream.outEth (st : Stream) : Bool := (st.par 1 1).testBit 7
def Stream.outRing (st : Stream) : Bool := (st.par 1 1).testBit 6
def Stream.modelId (st : Stream) : Nat := st.par 2 2
def Stream.vocabId (st : Stream) : Nat := st.par 8 4
def Stream.metaRing (st : Stream) : Nat := natBits (st.par 12 2) 13 0
def Stream.fragMax (st : Stream) : Nat := if st.par 14 2 = 0 then 1408 else st.par 14 2
def Stream.slotSize (st : Stream) : Nat := st.par 156 4
def Stream.slotBase (st : Stream) : Nat := st.par 160 8
def Stream.digSrc (st : Stream) : Nat := st.par 168 8

/-- The DRAM path of a stream's stages (R271). -/
def Stream.path (st : Stream) : Nat := if st.recorded then 2 else 0

/-! ### In-flight frames (R22, R23, R199) -/

/-- Slots that frames and BMRs of a stream hold. -/
def Stream.slotsUsed (st : Stream) : List Nat := st.jobs.filterMap (·.slot) ++ st.bmrs.filterMap (·.slot)

/-- The lowest free in-flight slot (R243) (DESIGN CHOICE, log entry 161). -/
def Stream.freeSlot (st : Stream) : Option Nat := (List.range st.depth).find? fun k => !st.slotsUsed.contains k

/-- Waiting frames take up free slots, oldest first. -/
def takeSlots (st : Stream) : Nat → Stream
  | 0 => st
  | n + 1 =>
    match st.freeSlot, st.jobs.findIdx? fun j => j.slot.isNone with
    | some k, some i => takeSlots { st with jobs := listUpd st.jobs i fun j => { j with slot := some k } } n
    | _, _ => st

/-- One CHAIN mark of a frame is cleared. -/
def State.chainDrop (s : State) (c frame : Nat) : State :=
  s.updDec c fun d => { d with frames := d.frames.map fun f => if f.id = frame then { f with chain := f.chain - 1 } else f }

/-- A frame has been output: it goes to its stream's chain. A LIVE frame that finds DEPTH frames in flight is skipped (R23). -/
def State.frameToChain (s : State) (p ix c frame : Nat) (desc grain : List Byte) : State :=
  match s.stream? p ix with
  | none => s.chainDrop c frame
  | some st =>
    if st.recorded = false ∧ st.depth ≤ st.slotsUsed.length then
      (s.updStream p ix fun st => { st with skipped := min 0xFFFF (st.skipped + 1) }).chainDrop c frame
    else
      let job : FrameJob := { slot := none, frame := frame, desc := desc, grain := grain, issued := false, left := 0, readers := 0,
                              status := .ok, snuff := none, track := none, snaps := [], snapMiss := false }
      s.updStream p ix fun st => takeSlots { st with jobs := st.jobs ++ [job] } 8

/-! ### BMR blocks (R167, R168) -/

/-- A block: TYPE, LENGTH, its bytes from 4 on, padded to the length. -/
def bmrBlock (ty len : Nat) (body : List Byte) : List Byte := leBytes 2 ty ++ leBytes 2 len ++ ((body ++ List.replicate len 0).take (len - 4))

/-- SCORE: round(score * 65,535), score clamped to 0-1. -/
def score16 (w : Word) : Nat :=
  let x := f32 w
  if x.isNan || x.isNeg then 0 else if x.isInf then 65535 else (clampInt 0 65535 ((x.mul (.fin false 65535 0)).rne)).toNat

/-- An object block. -/
def objBlock (i : Nat) (o : Obj) : List Byte :=
  bmrBlock 1 48 (leBytes 2 i ++ leBytes 2 o.det.cls ++ leBytes 4 o.id ++ leBytes 2 (score16 o.det.score) ++
    leBytes 1 (o.state * 4 + boolNat o.isNew * 2 + boolNat o.coast) ++ [0] ++
    leBytes 4 o.det.x1.toNat ++ leBytes 4 o.det.y1.toNat ++ leBytes 4 o.det.x2.toNat ++ leBytes 4 o.det.y2.toNat ++
    leBytes 4 o.vx.toNat ++ leBytes 4 o.vy.toNat ++ leBytes 2 o.hits ++ leBytes 2 o.misses ++ leBytes 4 o.first)

/-- A length rounded up to a multiple of 8. -/
def up8 (n : Nat) : Nat := (n + 7) / 8 * 8

/-- An embedding block; an object without a detection or without codes has none. -/
def embBlock (i : Nat) (o : Obj) : List Byte :=
  if o.coast || o.det.emb.isEmpty then []
  else bmrBlock 2 (up8 (16 + o.det.emb.length))
    (leBytes 2 i ++ [0, 0] ++ leBytes 2 o.det.emb.length ++ List.replicate 6 0 ++ o.det.emb)

/-- A snapshot reference block. -/
def snapBlock (r : SnapRef) : List Byte :=
  bmrBlock 4 24 (leBytes 2 r.obj ++ [0, 0] ++ leBytes 8 r.handle ++ leBytes 4 r.bytes ++ leBytes 2 r.w ++ leBytes 2 r.h)

/-- Token IDs up to a number of them. -/
def takeTokens : Nat → List TokenList → List TokenList
  | _, [] => []
  | n, t :: r => if t.ids.length ≤ n then t :: takeTokens (n - t.ids.length) r else [{ t with ids := t.ids.take n }]

/-- The token lists of a record in object order, the frame's last: those of its objects and of the frame that hold an ID. -/
def tokensOf (objs : Nat) (l : List TokenList) : List TokenList :=
  sortBy (fun x y => decide (x.obj.toNat ≤ y.obj.toNat)) (l.filter fun t => !t.ids.isEmpty && (decide (t.obj.toNat < objs) || t.obj == 0xFFFF))

/-- Token IDs of a record. -/
def tokenCount (l : List TokenList) : Nat := (l.map fun t => t.ids.length).sum

/-- A token block. -/
def tokenBlock (vocab : Nat) (t : TokenList) : List Byte :=
  bmrBlock 3 (16 + 4 * t.ids.length)
    (leBytes 2 t.obj.toNat ++ leBytes 2 t.ids.length ++ leBytes 4 vocab ++ List.replicate 4 0 ++ (t.ids.map fun w => leBytes 4 w.toNat).flatten)

/-- The film grain block. -/
def grainBlock (g : List Byte) : List Byte :=
  if g.isEmpty then [] else bmrBlock 5 (up8 (16 + g.length)) (leBytes 2 g.length ++ List.replicate 10 0 ++ g)

/-- The retired block. -/
def retiredBlock (ids : List Nat) : List Byte :=
  if ids.isEmpty then []
  else bmrBlock 6 (up8 (8 + 4 * ids.length)) ([0, 0] ++ leBytes 2 ids.length ++ ((ids.map fun i => leBytes 4 i).flatten))

/-- What a TRACK that did not run leaves for the record. -/
def TrackOut.none : TrackOut := ⟨[], [], false, false, 0, 0, ⟨[], 0, false, false⟩, []⟩

/-- The record of a frame: header and blocks (R167). -/
def bmrBytes (st : Stream) (ix : Nat) (desc grain : List Byte) (t : TrackOut) (snaps : List SnapRef) (snapMiss : Bool) (status : Status)
    (emit : Nat) : List Byte :=
  let toks := tokensOf t.objs.length t.tokens
  let blocks := ((t.objs.zipIdx.map fun o => objBlock o.2 o.1).flatten) ++ ((t.objs.zipIdx.map fun o => embBlock o.2 o.1).flatten) ++
    ((snaps.map snapBlock).flatten) ++ (((takeTokens 16384 toks).map (tokenBlock st.vocabId)).flatten) ++ grainBlock grain ++ retiredBlock t.retired
  leBytes 2 0x4D42 ++ [1, 0] ++ leBytes 4 (64 + blocks.length) ++ leBytes 2 ix ++ leBytes 2 t.objs.length ++
  (desc.take 4) ++ ((desc.drop 16).take 8) ++ leBytes 8 emit ++ ((desc.drop 24).take 4) ++ leBytes 2 st.skipped ++ leBytes 1 status.code ++
  leBytes 1 (boolNat (decide (16384 < tokenCount toks)) * 64 + boolNat t.forced * 32 + boolNat t.full * 16 + boolNat t.snuff.detTrunc * 8 + boolNat t.snuff.candTrunc * 4 +
    boolNat snapMiss * 2 + fieldAt desc 29 1 % 2) ++
  ((desc.drop 4).take 4) ++ leBytes 2 st.modelId ++ leBytes 1 st.quad ++ [0] ++ leBytes 4 t.snuff.count ++ leBytes 2 t.tracks ++
  leBytes 2 t.retired.length ++ leBytes 8 t.digest ++ blocks

/-- A frame's chain is over: its record waits for its outputs, or its slot is free when there are none (R20, R242). The skipped frames
are reported when a record is written (R23). -/
def State.finishJob (s : State) (p ix i : Nat) : State :=
  match s.stream? p ix with
  | none => s
  | some st =>
    match st.jobs[i]? with
    | none => s
    | some j =>
      let bs := bmrBytes st ix j.desc j.grain (j.track.getD TrackOut.none) j.snaps j.snapMiss j.status s.stamp.toNat
      let out : List Bmr := if st.outRing || st.outEth then
        [⟨bs, fieldAt j.desc 0 4, j.slot, none, st.outRing, st.outEth, false⟩] else []
      s.updStream p ix fun st => takeSlots { st with jobs := st.jobs.eraseIdx i, bmrs := st.bmrs ++ out } 8

/-- Index of the job that holds a slot. -/
def Stream.jobOf (st : Stream) (slot : Nat) : Option Nat := st.jobs.findIdx? fun j => j.slot == some slot

/-- The job of a slot replaced by its image. -/
def Stream.updJob (st : Stream) (slot : Nat) (f : FrameJob → FrameJob) : Stream :=
  { st with jobs := st.jobs.map fun j => if j.slot = some slot then f j else j }

/-! ### Output of records (R169, R245, R250) -/

/-- A record that has been put out everywhere leaves the queue: its slot is free and a ring TRACK that waits for it ends. -/
def State.bmrGone (s : State) (p ix : Nat) : State :=
  match s.stream? p ix with
  | none => s
  | some st =>
    let gone := st.bmrs.filter fun b => !b.ring && !b.eth
    let s1 := s.updStream p ix fun st => takeSlots { st with bmrs := st.bmrs.filter fun b => b.ring || b.eth } 8
    gone.foldl (fun s b => match b.cmd with
      | none => s
      | some id => s.updCmd id fun c => { c with phase := .ended }) s1

/-- A record that is being written takes the stream's skipped frames, once (R23). -/
def State.bmrSkips (s : State) (p ix i : Nat) : State :=
  s.updStream p ix fun st =>
    match st.bmrs[i]? with
    | none => st
    | some b =>
      if b.fixed then st
      else { st with skipped := 0, bmrs := listUpd st.bmrs i fun b => { b with fixed := true, bytes := overlay b.bytes 36 (leBytes 2 st.skipped) } }

/-- The bytes of a record of a stream. -/
def State.bmrAt (s : State) (p ix i : Nat) : List Byte :=
  match (s.stream? p ix).bind fun st => st.bmrs[i]? with | some b => b.bytes | none => []

/-- A SNAPSHOT of the frame of a record has not finished, or one of the stream's last TRACK has not begun (R226) (DEDUCED, log entry 57). -/
def State.snapsOpen (s : State) (p ix seq : Nat) : Bool :=
  (s.snaps.any fun j => j.part == p && j.stream == ix && fieldAt j.desc 0 4 == seq) ||
  s.cmds.any fun c => c.opcode == 0x60 && c.phase == .issued && c.part == p && c.index == ix && (match c.src with | .ring _ => true | .frame .. => false)

/-- The bytes of a record at the tail of a METADATA ring, wrapping at the end of its area. -/
def State.ringTailWrite (s : State) (r p : Nat) (bs : List Byte) : State :=
  let rg := s.ring r
  let size := rg.cqSize * 64
  let off := rg.cqTail.toNat % rg.cqSize * 64
  let n := min bs.length (size - off)
  let s1 := s.ringWrite r p (rg.cqBase + off) (bs.take n)
  if n < bs.length then s1.ringWrite r p rg.cqBase (bs.drop n) else s1

/-- Key of a record at the Shades. -/
def bmrKey (p ix kind : Nat) : Nat := 2 ^ 62 + (streamKey p ix * 2 + kind)

/-- The METADATA ring can take n units now: enabled, with that many free, and reachable (R245). -/
def State.metaRoom (s : State) (r n : Nat) : Bool :=
  let rg := s.ring r
  rg.enabled && rg.metadata && decide ((rg.cqTail - rg.cqHead).toNat + n ≤ rg.cqSize) &&
  (!rg.loc || s.hostWritable (match s.ringOwner r with | some (_, f) => f | none => 0))

/-- BMR_WRITE: the oldest record that has yet to go to the ring is written at the tail once its units are free (R245). -/
def State.bmrWrite (s : State) (p ix : Nat) : State :=
  match s.stream? p ix with
  | none => s
  | some st =>
    match st.bmrs.findIdx? (·.ring) with
    | none => s
    | some i =>
      let size := (padTo 64 (s.bmrAt p ix i)).length
      let r := st.metaRing
      let n := size / 64
      if s.metaRoom r n = false ∨ s.snapsOpen p ix (match st.bmrs[i]? with | some b => b.seq | none => 0) = true then s
      else
        let charge := s.ringCharges r p ((s.ring r).cqBase + (s.ring r).cqTail.toNat % (s.ring r).cqSize * 64) size
        match s.shadeAskAll p (bmrKey p ix 0) charge with
        | (s1, false) => s1
        | (s1, true) =>
          let s0 := s1.bmrSkips p ix i
          let s2 := s0.ringTailWrite r p (padTo 64 (s0.bmrAt p ix i))
          let rg := s2.ring r
          let s3 := (s2.setRing r { rg with cqTail := rg.cqTail + BitVec.ofNat 32 n }).statusBlock r p
          (((s3.updStream p ix fun st => { st with bmrs := listUpd st.bmrs i fun b => { b with ring := false } }).countIrq r).bmrGone p ix)

def execBmrWrite (p : PartIx) (ix : StreamIx) (s : State) : Host.Outcome State Fault Refusal := .next (s.bmrWrite p ix)

end Sys2Proof.Machine
end

