-- ==== Sys2Proof/Machine/Ingest.lean ====
section
/-!
DEFINITION. Network stream ingest: frames and their headers, the stream table, sequence order, depacketisation and access units
(R172-R191).
-/

namespace Sys2Proof.Machine

/-! ### Frames (R172, R173) -/

/-- A big-endian number of n bytes at an offset. -/
def beAt (l : List Byte) (off n : Nat) : Nat := leNat (((l.drop off).take n).reverse)

/-- One's complement sum of 16-bit big-endian words; an odd last byte is padded with 0. -/
def onesSum : List Byte → Nat → Nat
  | a :: b :: t, acc =>
    let v := acc + a.toNat * 256 + b.toNat
    onesSum t (if 65536 ≤ v then v - 65535 else v)
  | [a], acc =>
    let v := acc + a.toNat * 256
    if 65536 ≤ v then v - 65535 else v
  | [], acc => acc

/-- A UDP datagram as the filter sees it: VLAN, IP version, addresses in the 16-byte form of R175, ports, payload, and whether its
checksum verifies (R177). -/
structure Datagram where
  vlan : Option Nat
  v6 : Bool
  src : List Byte
  dst : List Byte
  sport : Nat
  dport : Nat
  payload : List Byte
  csumOk : Bool

/-- What a frame is. -/
inductive FrameKind
  | ptp
  | bad
  | udp (d : Datagram)
  | other

/-- A UDP datagram from its bytes and the sum over its pseudo header. -/
def udpOf (vlan : Option Nat) (v6 : Bool) (src dst l4 : List Byte) : Datagram :=
  let len := beAt l4 4 2
  let body := l4.take len
  let pseudo := onesSum dst (onesSum src (onesSum [0, 17] (onesSum (be16' len) 0)))
  let zero := decide (beAt l4 6 2 = 0)
  { vlan := vlan, v6 := v6, src := (src ++ List.replicate 16 0).take 16, dst := (dst ++ List.replicate 16 0).take 16,
    sport := beAt l4 0 2, dport := beAt l4 2 2, payload := body.drop 8,
    csumOk := decide (8 ≤ len) && decide (len ≤ l4.length) && (if zero then !v6 else decide (onesSum body pseudo = 65535)) }
where
  /-- A 16-bit number, high byte first. -/
  be16' (n : Nat) : List Byte := (leBytes 2 n).reverse

/-- A UDP datagram's kind: PTP on its two ports. -/
def udpKind (d : Datagram) : FrameKind := if d.dport = 319 ∨ d.dport = 320 then .ptp else .udp d

/-- An IPv4 packet (R173). -/
def ipv4Kind (vlan : Option Nat) (l3 : List Byte) : FrameKind :=
  let ihl := natBits (fieldAt l3 0 1) 3 0 * 4
  let l4 := (l3.take (beAt l3 2 2)).drop ihl
  let d := udpOf vlan false ((l3.drop 12).take 4) ((l3.drop 16).take 4) l4
  let udp := decide (fieldAt l3 9 1 = 17)
  let frag := decide (beAt l3 6 2 % 0x4000 ≠ 0)
  if udp && !frag && (d.dport == 319 || d.dport == 320) then .ptp
  else if ihl < 20 ∨ onesSum (l3.take ihl) 0 ≠ 65535 ∨ frag = true then .bad
  else if udp then .udp d else .other

/-- An IPv6 packet; a hop-by-hop header is passed over, any other extension header makes it bad. -/
def ipv6Kind (vlan : Option Nat) (l3 : List Byte) : FrameKind :=
  let nh0 := fieldAt l3 6 1
  let skip := if nh0 = 0 then 40 + 8 * (fieldAt l3 41 1 + 1) else 40
  let nh := if nh0 = 0 then fieldAt l3 40 1 else nh0
  let l4 := (l3.take (40 + beAt l3 4 2)).drop skip
  if [0, 43, 44, 50, 51, 60, 135, 139, 140].contains nh then .bad
  else if nh = 17 then udpKind (udpOf vlan true ((l3.drop 8).take 16) ((l3.drop 24).take 16) l4)
  else .other

/-- The kind of an Ethernet frame, from its destination address on, without FCS. -/
def frameKind (fr : List Byte) : FrameKind :=
  let tag := decide (beAt fr 12 2 = 0x8100)
  let vlan := if tag then some (beAt fr 14 2 % 4096) else none
  let off := if tag then 16 else 12
  let l3 := fr.drop (off + 2)
  match beAt fr off 2 with
  | 0x88F7 => .ptp
  | 0x0800 => ipv4Kind vlan l3
  | 0x86DD => ipv6Kind vlan l3
  | _ => .other

/-! ### The stream table (R174-R178) -/

def Entry.par (e : Entry) (off n : Nat) : Nat := fieldAt e.ingest off n
def Entry.format (e : Entry) : Nat := natBits (e.par 0 1) 6 4
def Entry.srcMatch (e : Entry) : Bool := (e.par 0 1).testBit 1
def Entry.ssrcMatch (e : Entry) : Bool := (e.par 0 1).testBit 0
def Entry.rtcpEn (e : Entry) : Bool := (e.par 1 1).testBit 4
def Entry.rtcpMux (e : Entry) : Bool := (e.par 1 1).testBit 3
/-- Gap hold time in ns. -/
def Entry.late (e : Entry) : Nat := 1000 * (if e.par 48 2 = 0 then 10000 else e.par 48 2)
def Entry.auPool (e : Entry) : Nat := natBits (e.par 50 1) 2 0

/-- Specificity of an entry (R174). -/
def Entry.rank (e : Entry) : Nat := boolNat e.ssrcMatch * 2 + boolNat e.srcMatch

/-- The datagram is RTCP for an entry (R176); a second byte of 200-204 marks it where RTCP shares the port. -/
def Entry.isRtcp (e : Entry) (d : Datagram) : Bool :=
  let b := fieldAt d.payload 1 1
  (d.dport == e.par 10 2 && e.rtcpEn) || (e.rtcpMux && d.dport == e.par 6 2 && decide (200 ≤ b) && decide (b ≤ 204))

/-- SSRC of an RTP packet, or of the sender of an RTCP packet. -/
def ssrcOf (rtcp : Bool) (pl : List Byte) : Nat := beAt pl (if rtcp then 4 else 8) 4

/-- A datagram on a port and link matches an entry (R174, R176). -/
def Entry.matches_ (e : Entry) (port link : Nat) (d : Datagram) : Bool :=
  let r := e.isRtcp d
  natBits (e.par 1 1) 2 2 == port && natBits (e.par 1 1) 1 0 == link &&
  (if (e.par 0 1).testBit 2 then d.vlan == some (e.par 2 2 % 4096) else d.vlan.isNone) &&
  (e.par 0 1).testBit 3 == d.v6 && (e.ingest.drop 16).take 16 == d.dst &&
  (if r then e.rtcpEn else d.dport == e.par 6 2) &&
  (!e.srcMatch || ((e.ingest.drop 32).take 16 == d.src && d.sport == e.par 8 2)) &&
  (!e.ssrcMatch || ssrcOf r d.payload == e.par 12 4)

/-- The completion of the STREAM_BIND that filled an entry has been written: only then does the entry match (R175, R191). -/
def State.bindDone (s : State) (x : Entry) : Bool :=
  !s.cmds.any fun c => c.opcode == 0x10 && c.part == x.part && c.index == x.stream && c.phase == .ended && c.status == .ok

/-- The entry that takes a datagram: the most specific of those that match. -/
def State.matchEntry (s : State) (port link : Nat) (d : Datagram) : Option Nat :=
  let l := s.entries.filter fun e => s.bindDone e.2 && e.2.matches_ port link d
  (l.foldl (fun (m : Option (Nat × Entry)) e => match m with
    | none => some e
    | some b => if b.2.rank < e.2.rank then some e else some b) none).map (·.1)

/-- The SSRC that is in force for an entry. -/
def Entry.locked (e : Entry) : Option Nat := if e.ssrcMatch then some (e.par 12 4) else e.ssrc

/-- A counter of an entry raised: 0 PKTS, 1 LOST, 2 LATE, 3 DUP, 4 BAD, 5 RESETS, 6 AU_OUT, 7 DROP. -/
def State.entryCount (s : State) (e k n : Nat) : State := s.updEntry e fun x => { x with counts := countUp x.counts k n }

/-! ### Time (R186) -/

/-- A time in ns as seconds modulo 2^32 and nanoseconds. -/
def nsStamp (t : Int) : Nat := 2 ^ 32 * (t / 1000000000 % 2 ^ 32).toNat + (t % 1000000000).toNat

/-- FRAME_TIME of an access unit. -/
def Entry.frameTime (e : Entry) (ts first : Nat) : Nat :=
  match e.sr with
  | none => nsStamp first
  | some r =>
    let base := ((r.sec : Int) + signedOf 32 (e.par 52 4)) * 1000000000 + ((1000000000 * r.frac / 2 ^ 32 : Nat) : Int)
    let delta := signedOf 32 (ts + 2 ^ 32 - r.ts)
    nsStamp (base + (1000000000 * delta).tdiv 90000)

/-! ### Access units (R182-R185, R204) -/

/-- A unit with the start code of Annex B. -/
def annexB (u : List Byte) : List Byte := [0, 0, 0, 1] ++ u

/-- LEB128 of a number; n bounds the bytes. -/
def leb128 : Nat → Nat → List Byte
  | 0, _ => []
  | n + 1, v => if v < 128 then [BitVec.ofNat 8 v] else BitVec.ofNat 8 (v % 128 + 128) :: leb128 n (v / 128)

/-- A LEB128 number and the bytes it takes; n bounds them. -/
def readLeb : Nat → List Byte → Option (Nat × Nat)
  | 0, _ => none
  | _, [] => none
  | n + 1, b :: t =>
    if b.toNat < 128 then some (b.toNat, 1)
    else
      match readLeb n t with
      | none => none
      | some (v, k) => some (b.toNat % 128 + 128 * v, k + 1)

/-- An OBU element in low overhead form: obu_has_size_field = 1 (R183). -/
def obuSized (o : List Byte) : List Byte :=
  let h := fieldAt o 0 1
  let ext := if h.testBit 2 then 2 else 1
  let head := BitVec.ofNat 8 (h ||| 2) :: ((o.drop 1).take (ext - 1))
  let rest := o.drop ext
  let body := if h.testBit 1 then
      (match readLeb 8 rest with
       | some (v, k) => (rest.drop k).take v
       | none => [])
    else rest
  head ++ leb128 8 body.length ++ body

/-- Bytes needed for a frame size in a VP9 superframe index. -/
def sizeBytes (n : Nat) : Nat := if n < 256 then 1 else if n < 65536 then 2 else if n < 16777216 then 3 else 4

/-- Several VP9 frames as a superframe with its index. -/
def superframe (us : List (List Byte)) : List Byte :=
  match us with
  | [u] => u
  | _ =>
    let m := ((us.map fun u => sizeBytes u.length).foldl max 1)
    let mark := BitVec.ofNat 8 (0xC0 + (m - 1) * 8 + (us.length - 1) % 8)
    us.flatten ++ [mark] ++ (us.map fun u => leBytes m u.length).flatten ++ [mark]

/-- The framed bytes of an access unit's units. -/
def frameUnits (format : Nat) (us : List (List Byte)) : List Byte :=
  match format with
  | 0 => (us.map annexB).flatten
  | 1 => (us.map annexB).flatten
  | 2 => [0x12, 0x00] ++ (us.map obuSized).flatten
  | _ => superframe us

/-- The bytes of out-of-band parameter sets, read now: at the binding and at each reset of the stream (R184). Sets that cannot be read
are left out (DEDUCED, log entry 166). -/
def State.paramBytes (s : State) (p : Nat) (ingest : List Byte) : List Byte :=
  let w := fieldAt ingest 56 8
  match s.rd p (natBits w 36 0) (natBits w 63 52) with
  | .ok bs => bs
  | .error _ => []

/-- An access unit that finds no place is discarded: DROP, and the next one carries GAP (R185, R204). -/
def State.auDropped (s : State) (e : Nat) : State := (s.entryCount e 7 1).updEntry e fun x => { x with gap := true }

/-- An access unit's bytes queued to the decode context of an entry (R182, R184-R186) (DESIGN CHOICE, log entry 48; DEDUCED, log entry 66). One that finds 64
queued is discarded under R204, and FRAME_SEQ rises (R201). -/
def State.auQueue (s : State) (e : Nat) (x : Entry) (a : AuOpen) (gap inc : Bool) : State :=
  match s.dec? x.ctx with
  | none => s
  | some d =>
    let due := d.paramDue && !a.pre
    let par := if due then d.params else []
    let bs := par ++ frameUnits x.format a.units
    if 64 ≤ d.queue.length then (s.auDropped e).updDec x.ctx fun d => { d with nextSeq := (d.nextSeq + 1) % 2 ^ 32 }
    else if poolSize x.auPool < bs.length then s.auDropped e
    else
      match s.allocPool x.part x.auPool with
      | none => s.auDropped e
      | some (s1, h) =>
        let da := s1.bufDa (natBits h 54 52) (natBits h 47 24)
        let s2 := if s1.accessStatus da = .ok then s1.store da bs else s1
        let s3 := s2.shadeTake x.part (if s2.unitOf da = .dram then 0 else 4) bs.length
        let au : Au := ⟨h, bs.length, gap, inc, x.frameTime a.ts a.first, a.ts, none, s3.fresh.1, []⟩
        ((s3.fresh.2.updDec x.ctx fun d => { d with queue := d.queue ++ [au], paramDue := d.paramDue && !due }).entryCount e 6 1).updEntry e
          fun x => { x with gap := false }

/-- The open access unit of an entry closes (R182). One that holds no unit is not queued; the next carries GAP (log entry 32). -/
def State.auClose (s : State) (e : Nat) : State :=
  match s.entry? e with
  | none => s
  | some x =>
    match x.open_ with
    | none => s
    | some a =>
      let cut := match a.frag with | .good _ => true | _ => false
      let s1 := (s.entryCount e 4 (boolNat cut)).updEntry e fun x => { x with open_ := none }
      if a.units.isEmpty then s1.updEntry e fun x => { x with gap := true }
      else s1.auQueue e x a (a.gap || x.gap) (a.inc || cut)

/-! ### Depacketisation (R183) -/

/-- A unit discarded: BAD counts it once and the access unit is INCOMPLETE. -/
def AuOpen.spoil (a : AuOpen) : AuOpen := { a with inc := true }

/-- A fragment in progress ends without its end: it is discarded. -/
def AuOpen.cutFrag (a : AuOpen) : AuOpen × Nat :=
  match a.frag with
  | .good _ => ({ a with frag := .idle, inc := true }, 1)
  | .bad => ({ a with frag := .idle }, 0)
  | .idle => (a, 0)

/-- A unit added. -/
def AuOpen.push (a : AuOpen) (u : List Byte) : AuOpen := { a with units := a.units ++ [u] }

/-- A fragment: it starts a unit with a header, carries on, and may end. A fragment without a start is discarded once. -/
def AuOpen.fragment (a : AuOpen) (start fin : Bool) (head body : List Byte) : AuOpen × Nat :=
  let c := if start then a.cutFrag else (a, 0)
  let f : Frag := if start then .good (head ++ body) else
    match c.1.frag with
    | .good bs => .good (bs ++ body)
    | .bad => .bad
    | .idle => .bad
  let lone := !start && (match c.1.frag with | .idle => true | _ => false)
  let b := { c.1 with frag := f, inc := c.1.inc || lone }
  let n := c.2 + boolNat lone
  if fin then
    (match f with
     | .good bs => ({ b with frag := .idle, units := b.units ++ [bs] }, n)
     | _ => ({ b with frag := .idle }, n))
  else (b, n)

/-- A NAL unit that may be carried on its own, by its first byte: H.264 types 1-23, H.265 types 0-47 (R183). -/
def nalOk (h265 : Bool) (b : Nat) : Bool := if h265 then decide (b / 2 % 64 ≤ 47) else decide (1 ≤ b % 32) && decide (b % 32 ≤ 23)

/-- Units of an aggregation packet with 16-bit sizes; n bounds them. A unit of a type that is not accepted is discarded. -/
def AuOpen.aggregate (h265 : Bool) (a : AuOpen) (pl : List Byte) : Nat → AuOpen × Nat
  | 0 => (a, 0)
  | n + 1 =>
    if pl.isEmpty then (a, 0)
    else
      let k := beAt pl 0 2
      if k = 0 ∨ pl.length < 2 + k then (a.spoil, 1)
      else
        let u := (pl.drop 2).take k
        let good := nalOk h265 (fieldAt u 0 1)
        let r := AuOpen.aggregate h265 (if good then a.push u else a.spoil) (pl.drop (2 + k)) n
        (r.1, r.2 + boolNat !good)

/-- A fragment that starts a NAL unit of a type that is not accepted: the unit is discarded once, with all its fragments. -/
def AuOpen.badStart (a : AuOpen) (fin : Bool) : AuOpen × Nat :=
  let c := a.cutFrag
  ({ c.1 with frag := if fin then .idle else .bad, inc := true }, c.2 + 1)

/-- An H.264 payload (RFC 6184) (PRESUMED, log entry 61). -/
def AuOpen.h264 (a : AuOpen) (pl : List Byte) : AuOpen × Nat :=
  let b := fieldAt pl 0 1
  let ty := b % 32
  if ty = 28 then
    let h := fieldAt pl 1 1
    if h.testBit 7 && !nalOk false h then a.badStart (h.testBit 6)
    else a.fragment (h.testBit 7) (h.testBit 6) [BitVec.ofNat 8 (b / 32 * 32 + h % 32)] (pl.drop 2)
  else
    let c := a.cutFrag
    if 1 ≤ ty ∧ ty ≤ 23 then (c.1.push pl, c.2)
    else if ty = 24 then
      let r := c.1.aggregate false (pl.drop 1) pl.length
      (r.1, c.2 + r.2)
    else (c.1.spoil, c.2 + 1)

/-- An H.265 payload (RFC 7798, without DONL). -/
def AuOpen.h265 (a : AuOpen) (pl : List Byte) : AuOpen × Nat :=
  let b := fieldAt pl 0 1
  let ty := b / 2 % 64
  if ty = 49 then
    let h := fieldAt pl 2 1
    if h.testBit 7 && !nalOk true (h % 64 * 2) then a.badStart (h.testBit 6)
    else a.fragment (h.testBit 7) (h.testBit 6) (BitVec.ofNat 8 (b / 128 * 128 + h % 64 * 2 + b % 2) :: (pl.drop 1).take 1) (pl.drop 3)
  else
    let c := a.cutFrag
    if ty ≤ 47 then (c.1.push pl, c.2)
    else if ty = 48 then
      let r := c.1.aggregate true (pl.drop 2) pl.length
      (r.1, c.2 + r.2)
    else (c.1.spoil, c.2 + 1)

/-- A whole OBU: a temporal delimiter is replaced by the one at the start, a tile list is discarded. -/
def AuOpen.obu (a : AuOpen) (o : List Byte) : AuOpen × Nat :=
  let ty := fieldAt o 0 1 / 8 % 16
  if o.isEmpty ∨ ty = 2 then (a, 0) else if ty = 8 then (a.spoil, 1) else (a.push o, 0)

/-- An OBU element: whole, or a fragment that continues an earlier packet (cont) or goes on in the next one (more). -/
def AuOpen.element (a : AuOpen) (cont more : Bool) (o : List Byte) : AuOpen × Nat :=
  if cont = false ∧ more = false then
    let c := a.cutFrag
    let r := c.1.obu o
    (r.1, c.2 + r.2)
  else
    let r := a.fragment (!cont) false [] o
    if more then r
    else
      match r.1.frag with
      | .good bs =>
        let q := ({ r.1 with frag := .idle } : AuOpen).obu bs
        (q.1, r.2 + q.2)
      | _ => ({ r.1 with frag := .idle }, r.2)

/-- The OBU elements of a packet: counted (w > 0: the last one has no length) or all with lengths; n bounds them. -/
def AuOpen.elements (a : AuOpen) (z y : Bool) (w : Nat) (pl : List Byte) : Nat → AuOpen × Nat
  | 0 => (a, 0)
  | n + 1 =>
    if pl.isEmpty then (a, 0)
    else if w = 1 then a.element z y pl
    else
      match readLeb 8 pl with
      | none => (a.spoil, 1)
      | some (v, k) =>
        let rest := pl.drop (k + v)
        if pl.length < k + v then (a.spoil, 1)
        else
          let r := a.element z (y && rest.isEmpty) ((pl.drop k).take v)
          let q := r.1.elements false y (w - 1) rest n
          (q.1, r.2 + q.2)

/-- An AV1 payload: the aggregation header with Z, Y and W. -/
def AuOpen.av1 (a : AuOpen) (pl : List Byte) : AuOpen × Nat :=
  let h := fieldAt pl 0 1
  a.elements (h.testBit 7) (h.testBit 6) (natBits h 5 4) (pl.drop 1) pl.length

/-- Length of the P_DIFF list of a VP9 descriptor: at most three bytes, each saying whether another follows. -/
def pdiffLen : Nat → List Byte → Nat
  | 0, _ => 0
  | _, [] => 0
  | n + 1, b :: t => if b.toNat % 2 = 1 then 1 + pdiffLen n t else 1

/-- Length of the picture group descriptions of a VP9 scalability structure. -/
def vp9Groups : Nat → List Byte → Nat
  | 0, _ => 0
  | _, [] => 0
  | n + 1, b :: t => let r := natBits b.toNat 3 2; 1 + r + vp9Groups n (t.drop r)

/-- Length of a VP9 scalability structure. -/
def vp9Ss (pl : List Byte) : Nat :=
  let h := fieldAt pl 0 1
  let y := if h.testBit 4 then 4 * (natBits h 7 5 + 1) else 0
  if h.testBit 3 then 2 + y + vp9Groups (fieldAt pl (1 + y) 1) (pl.drop (2 + y)) else 1 + y

/-- Length of a VP9 payload descriptor, and its spatial layer. -/
def vp9Desc (pl : List Byte) : Nat × Nat :=
  let h := fieldAt pl 0 1
  let i := if h.testBit 7 then (if (fieldAt pl 1 1).testBit 7 then 2 else 1) else 0
  let f := h.testBit 4
  let l := if h.testBit 5 then (if f then 1 else 2) else 0
  let sid := if h.testBit 5 then natBits (fieldAt pl (1 + i) 1) 3 1 else 0
  let p := if f && h.testBit 6 then pdiffLen 3 (pl.drop (1 + i + l)) else 0
  let v := if h.testBit 1 then vp9Ss (pl.drop (1 + i + l + p)) else 0
  (1 + i + l + p + v, sid)

/-- A VP9 payload: a frame runs from B to E; frames of spatial layer 1 or higher are discarded, once each. A packet of another layer
without B belongs to a frame whose start is missing. -/
def AuOpen.vp9 (a : AuOpen) (pl : List Byte) : AuOpen × Nat :=
  let h := fieldAt pl 0 1
  let d := vp9Desc pl
  let fin := h.testBit 2
  let other := !h.testBit 3 && a.layer != d.2
  let c := if other then (let r := a.cutFrag; ({ r.1 with frag := .idle }, r.2)) else (a, 0)
  let a1 : AuOpen := { c.1 with layer := d.2 }
  if 0 < d.2 then
    let goes := !h.testBit 3 && (match a1.frag with | .bad => true | _ => false)
    let r := if goes then ({ a1 with frag := if fin then .idle else .bad }, 0) else a1.badStart fin
    (r.1, c.2 + r.2)
  else
    let r := a1.fragment (h.testBit 3) fin [] (pl.drop d.1)
    (r.1, c.2 + r.2)

/-- A payload of a format. -/
def AuOpen.payload (a : AuOpen) (format : Nat) (pl : List Byte) : AuOpen × Nat :=
  if pl.isEmpty then (a.spoil, 1)
  else
    match format with
    | 0 => a.h264 pl
    | 1 => a.h265 pl
    | 2 => a.av1 pl
    | _ => a.vp9 pl

/-- A lost number lies before this packet: the access unit is INCOMPLETE and a fragment in progress is discarded. -/
def AuOpen.afterLoss (a : AuOpen) : AuOpen × Nat :=
  match a.frag with
  | .good _ => ({ a with inc := true, frag := .bad }, 1)
  | _ => ({ a with inc := true }, 0)

/-- A released packet reaches the depacketiser (R182). -/
def State.depacketise (s : State) (e : Nat) (k : Packet) : State :=
  match s.entry? e with
  | none => s
  | some x0 =>
    let s0 := match x0.open_ with
      | some a => if a.ts ≠ k.ts then s.auClose e else s
      | none => s
    match s0.entry? e with
    | none => s0
    | some x =>
      let a0 : AuOpen × Nat := match x.open_ with
        | some a => if x.lost then a.afterLoss else (a, 0)
        | none => (⟨k.ts, k.arrived, s.nowNs, [], .idle, x.lost || x.gap, false, false, 0⟩, 0)
      let fresh := x.open_.isNone
      let r := a0.1.payload x.format k.payload
      let a := { r.1 with last := s.nowNs, first := min r.1.first k.arrived }
      let s1 := (s0.entryCount e 4 (a0.2 + r.2)).updEntry e fun x =>
        { x with open_ := some a, lost := false, gap := if fresh then false else x.gap }
      if k.marker then s1.auClose e else s1

/-! ### Release (R180) -/

/-- Packets from NEXT on are released as far as the first missing number; n bounds them. -/
def State.release (s : State) (e : Nat) : Nat → State
  | 0 => s
  | n + 1 =>
    match s.entry? e with
    | none => s
    | some x =>
      match x.seq with
      | none => s
      | some (high, next) =>
        match x.packets.find? fun k => k.num == next with
        | none => s
        | some k =>
          let s1 := (s.updEntry e fun x => { x with seq := some (high, next + 1), packets := x.packets.filter fun q => q.num != next }).unitFree
            x.part k.handle
          (s1.depacketise e k).release e n

/-- Packets of an entry, as a bound. -/
def State.held (s : State) (e : Nat) : Nat := match s.entry? e with | some x => x.packets.length | none => 0

/-- The lowest number buffered. -/
def Entry.lowest (x : Entry) : Option Int :=
  x.packets.foldl (fun m k => match m with | none => some k.num | some v => some (min v k.num)) none

/-- NEXT moves up to a number: what is missing counts in LOST. -/
def State.skipTo (s : State) (e : Nat) (lim : Int) : State :=
  match s.entry? e with
  | none => s
  | some x =>
    match x.seq with
    | none => s
    | some (high, next) =>
      if next < lim then
        (s.entryCount e 1 (lim - next).toNat).updEntry e fun x => { x with seq := some (high, lim), lost := true }
      else s

/-- The gap at NEXT is declared lost, and release continues (R180). -/
def State.gapLost (s : State) (e : Nat) : State :=
  match (s.entry? e).bind Entry.lowest with
  | none => s
  | some m => (s.skipTo e m).release e (s.held e + 1)

/-- NEXT advances to a number: everything below it is released or lost; n bounds the gaps. -/
def State.advanceTo (s : State) (e : Nat) (lim : Int) : Nat → State
  | 0 => s
  | n + 1 =>
    match (s.entry? e).bind Entry.lowest with
    | none => s.skipTo e lim
    | some m => if m < lim then (s.gapLost e).advanceTo e lim n else s.skipTo e lim

/-- Stored bytes of an entry. -/
def Entry.stored (x : Entry) : Nat := ((x.packets.map (·.size)).sum)

/-- Gaps are declared lost while n more bytes would exceed 4 MiB. -/
def State.makeRoom (s : State) (e n : Nat) : Nat → State
  | 0 => s
  | k + 1 =>
    match s.entry? e with
    | none => s
    | some x => if 0x400000 < x.stored + n ∧ x.packets.isEmpty = false then (s.gapLost e).makeRoom e n k else s

/-- A gap whose earliest-arrived packet beyond it has been held for LATE_US is lost, and so on; n bounds the gaps. -/
def State.expireGaps (s : State) (e : Nat) : Nat → State
  | 0 => s
  | n + 1 =>
    match s.entry? e with
    | none => s
    | some x => if x.packets.any fun k => decide (k.arrived + x.late ≤ s.nowNs) then (s.gapLost e).expireGaps e n else s

/-- GAP_HOLD_EXPIRY (R180). -/
def execGapHoldExpiry (e : StreamIx) (s : State) : Host.Outcome State Fault Refusal := .next (s.expireGaps e (s.held e + 1))

/-- AU_IDLE_CLOSE: LATE_US has passed since the last released packet of the open access unit (R182). -/
def execAuIdleClose (e : StreamIx) (s : State) : Host.Outcome State Fault Refusal :=
  .next (match s.entry? e with
    | none => s
    | some x =>
      match x.open_ with
      | none => s
      | some a => if a.last + x.late ≤ s.nowNs then s.auClose e else s)

/-! ### Sequence order (R179, R181) -/

/-- Interarrival jitter of RFC 3550 after a packet, in 90 kHz units (ING_SSTAT.JITTER). -/
def Entry.withJitter (x : Entry) (k : Packet) : Entry :=
  let t : Int := (k.arrived * 9 / 100000 : Nat) - (k.ts : Int)
  match x.transit with
  | none => { x with transit := some t }
  | some p =>
    let d := (signedOf 32 ((t - p) % 2 ^ 32).toNat).natAbs
    { x with transit := some t, jitter := x.jitter + d - (x.jitter + 8) / 16 }

/-- A packet put in a Pewter buffer of the stream's partition (R185); none when there is no buffer (DEDUCED, log entry 47). -/
def State.storePacket (s : State) (e : Nat) (k : Packet) (bytes : List Byte) : Option (State × Packet) :=
  match s.entry? e with
  | none => none
  | some x =>
    match s.allocPool x.part (if bytes.length ≤ 4096 then 2 else 3) with
    | none => none
    | some (s1, h) =>
      let da := s1.bufDa (natBits h 54 52) (natBits h 47 24)
      let s2 := if s1.accessStatus da = .ok then s1.store da bytes else s1
      let s3 := s2.shadeTake x.part (if s2.unitOf da = .dram then 0 else 4) bytes.length
      some ((s3.entryCount e 0 1).updEntry e fun x => x.withJitter k, { k with handle := h, size := bytes.length })

/-- Jump candidates are given up and their buffers freed. -/
def State.dropCands (s : State) (e : Nat) : State :=
  match s.entry? e with
  | none => s
  | some x => (x.cands.foldl (fun s k => s.unitFree x.part k.handle) s).updEntry e fun x => { x with cands := [] }

/-- The extended number of a packet lies below NEXT. -/
def State.isLate (s : State) (e : Nat) (k : Packet) : Bool :=
  match (s.entry? e).bind fun x => x.seq with
  | some (_, next) => decide (k.num < next)
  | none => false

/-- An accepted packet enters the reorder buffer under an extended number, and release goes on; DROP without a buffer. Where making room
has declared its own number lost, it is late (R180) (DEDUCED, log entry 166). -/
def State.accept (s : State) (e : Nat) (k : Packet) (bytes : List Byte) : State :=
  let s0 := s.makeRoom e bytes.length (s.held e + 1)
  if s0.isLate e k then s0.entryCount e 2 1
  else
  match s0.storePacket e k bytes with
  | none => s0.entryCount e 7 1
  | some (s1, k1) =>
    let s2 := s1.updEntry e fun x => { x with packets := x.packets ++ [k1], ssrc := if x.ssrcMatch then x.ssrc else some (x.ssrc.getD k.ssrc) }
    s2.release e (s2.held e + 1)

/-- The highest number of a set of candidates, in the order of its growth. -/
def candTop : List Packet → Int
  | [] => 0
  | k :: t => t.foldl (fun m q => if (q.num - m) % 65536 < 32768 then q.num else m) k.num

/-- A candidate agrees with the set (R181). -/
def candAgrees (l : List Packet) (k : Packet) : Bool :=
  match l with
  | [] => true
  | q :: _ =>
    let d := (k.num - candTop l) % 65536
    q.ssrc == k.ssrc && ((decide (1 ≤ d) && decide (d ≤ 511)) || (decide (65536 - 511 ≤ d) && decide (d ≤ 65535)))

/-- The reset of R181, with a set of 16 candidates (DEDUCED, log entries 59, 60). -/
def State.jumpReset (s : State) (e : Nat) : State :=
  match s.entry? e with
  | none => s
  | some x =>
    match x.seq with
    | none => s
    | some (high, _) =>
      let s1 := s.advanceTo e (high + 1) (x.packets.length + 1)
      let roll := 65536 * ((high / 65536 + 1) % 65536)
      let ks := x.cands.map fun k => { k with num := roll + k.num }
      let nums := ks.map (·.num)
      let lo := nums.foldl min (nums.headD 0)
      let hi := nums.foldl max 0
      let ssrc := (x.cands.headD ⟨0, 0, 0, 0, false, [], 0, 0⟩).ssrc
      let s2 := (s1.entryCount e 5 1).updEntry e fun x =>
        { x with seq := some (hi, lo), packets := ks, cands := [], ssrc := if x.ssrcMatch then x.ssrc else some ssrc,
                 open_ := x.open_.map fun a => { a with pre := true } }
      let s3 := s2.updDec x.ctx fun d => { d with paramDue := true, params := s2.paramBytes x.part x.ingest }
      let s4 := s3.sootEvent 0x4860 (BitVec.ofNat 64 e) (some x.part)
      let s5 := if x.ssrcMatch = false ∧ x.ssrc ≠ some ssrc then s4.sootEvent 0x4861 (BitVec.ofNat 64 e) (some x.part) else s4
      s5.release e 17

/-- A jump candidate (R181). A second copy of one that is held counts in DUP (R191) (DEDUCED, log entry 166). -/
def State.candidate (s : State) (e : Nat) (k : Packet) (bytes : List Byte) : State :=
  match s.entry? e with
  | none => s
  | some x =>
    if x.cands.any fun q => q.num == k.num && q.ssrc == k.ssrc then s.entryCount e 3 1
    else
    let s0 := if candAgrees x.cands k then s else s.dropCands e
    match s0.storePacket e k bytes with
    | none => s0.entryCount e 7 1
    | some (s1, k1) =>
      let s2 := s1.updEntry e fun x => { x with cands := x.cands ++ [k1] }
      match s2.entry? e with
      | none => s2
      | some y => if 16 ≤ y.cands.length then s2.jumpReset e else s2

/-- An RTP packet classified against HIGH (R178, R179). k.num is its 16-bit sequence number. -/
def State.classify (s : State) (e : Nat) (x : Entry) (k : Packet) (bytes : List Byte) : State :=
  match x.seq with
  | none => (s.updEntry e fun x => { x with seq := some (k.num, k.num) }).accept e k bytes
  | some (high, next) =>
    if x.locked.isSome = true ∧ x.locked ≠ some k.ssrc then s.candidate e k bytes
    else
      let d := (k.num - high) % 65536
      if d = 0 then s.entryCount e 3 1
      else if d < 0x8000 then
        let ext := high + d
        let s1 := (s.dropCands e).updEntry e fun x => { x with seq := some (ext, next) }
        let s2 := if next + 512 ≤ ext then s1.advanceTo e (ext - 511) (s1.held e + 1) else s1
        s2.accept e { k with num := ext } bytes
      else if 0x8000 < d then
        let ext := high - (0x10000 - d)
        if next ≤ ext then
          let s1 := s.dropCands e
          if x.packets.any fun q => q.num == ext then s1.entryCount e 3 1 else s1.accept e { k with num := ext } bytes
        else
          let s1 := s.entryCount e 2 1
          if next - 512 ≤ ext then s1 else s1.candidate e k bytes
      else s.candidate e k bytes

/-- An RTP packet of an entry (R177). -/
def State.rtpPacket (s : State) (e : Nat) (x : Entry) (d : Datagram) (bytes : List Byte) (arrived : Nat) : State :=
  let pl := d.payload
  let b0 := fieldAt pl 0 1
  let b1 := fieldAt pl 1 1
  let cc := natBits b0 3 0
  let o1 := 12 + 4 * cc
  let o2 := if b0.testBit 4 then o1 + 4 + 4 * beAt pl (o1 + 2) 2 else o1
  let pad := if b0.testBit 5 then fieldAt pl (pl.length - 1) 1 else 0
  if d.csumOk = false ∨ b0 / 64 ≠ 2 ∨ b1 % 128 ≠ natBits (x.par 4 1) 6 0 ∨ pl.length < o2 + pad then s.entryCount e 4 1
  else
    let k : Packet := ⟨(beAt pl 2 2 : Nat), beAt pl 8 4, arrived, beAt pl 4 4, b1.testBit 7, (pl.drop o2).take (pl.length - o2 - pad), 0, 0⟩
    s.classify e x k bytes

/-! ### Frames arrive (R173, R176) -/

/-- Receive time of a frame in ns, at the module interface (R341). -/
def State.rxTime (s : State) (port : Nat) : Nat :=
  (((s.nowNs * 10 : Nat) : Int) - signedOf 16 (s.fld (Reg.tbTsadj port) 15 0)).toNat / 10

/-- A frame goes to the exception queue with its receive time, or is dropped and counted (R173). -/
def State.excPush (s : State) (port link : Nat) (fr : List Byte) : State :=
  if s.flag Reg.ingCtrl 1 = false then s.bump Reg.ingUnm 15 0 1
  else if 64 ≤ s.excq.length then s.bump Reg.ingUnm 31 16 1
  else { s with excq := s.excq ++ [(port, link, leBytes 8 (nsStamp (s.rxTime port)) ++ fr)] }

/-- The sender report of an SSRC in a compound RTCP packet; n bounds its parts. -/
def findSr (ssrc : Nat) (pl : List Byte) : Nat → Option SenderReport
  | 0 => none
  | n + 1 =>
    if pl.length < 8 then none
    else if fieldAt pl 1 1 = 200 ∧ beAt pl 4 4 = ssrc ∧ 28 ≤ pl.length then some ⟨beAt pl 8 4, beAt pl 12 4, beAt pl 16 4⟩
    else findSr ssrc (pl.drop (4 * (beAt pl 2 2 + 1))) n

/-- An RTCP packet of an entry: the sender report of the locked SSRC is taken, anything else goes to the exception queue (R176). -/
def State.rtcpPacket (s : State) (e : Nat) (x : Entry) (d : Datagram) (port link : Nat) (fr : List Byte) : State :=
  if d.csumOk = false then s.entryCount e 4 1
  else
    match x.locked.bind fun ss => findSr ss d.payload d.payload.length with
    | some r => s.updEntry e fun x => { x with sr := some r }
    | none => s.excPush port link fr

/-- A link that carries frames: up, its port powered. -/
def State.linkUp (s : State) (port link : Nat) : Bool := s.domOn (epDom port) && s.flag (Reg.ethPort port) (28 + link)

/-- ETH_FRAME_RECEIVE: a frame on a link; full says that the port's receive buffer has no room for it (R172, R173) (DESIGN CHOICE, log entry 49). -/
def State.ethReceive (s : State) (port link : Nat) (fr : List Byte) (fcsOk full : Bool) : State :=
  if s.linkUp port link = false then s
  else if full then s.bump (Reg.ethDrop port) 15 0 1
  else if fcsOk = false ∨ 9216 < fr.length + 4 ∨ fr.length + 4 < 64 then s.bump (Reg.ethDrop port) 31 16 1
  else
    match frameKind fr with
    | .ptp => s
    | .bad => s.bump (Reg.ethDrop port) 31 16 1
    | .other => s.excPush port link fr
    | .udp d =>
      if s.flag Reg.ingCtrl 0 = false then s.excPush port link fr
      else
        match s.matchEntry port link d with
        | none => s.excPush port link fr
        | some e =>
          match s.entry? e with
          | none => s
          | some x => if x.isRtcp d then s.rtcpPacket e x d port link fr else s.rtpPacket e x d fr (s.rxTime port)

def execEthFrameReceive (port : EpIx) (link : Fin 4) (frame : List Byte) (fcsOk full : Bool) (s : State) : Host.Outcome State Fault Refusal :=
  .next (s.ethReceive port link frame fcsOk full)

/-- A link of a port can come up: enabled, and its MODE and FEC permit it (ETH_PORTp). -/
def State.linkAllowed (s : State) (port link : Nat) : Bool :=
  let w := s.reg (Reg.ethPort port)
  let four := bitOf w 0
  s.domOn (epDom port) && bitOf w (16 + link) && (four || link == 0) && decide (bitsOf w 9 8 ≠ 3) && (four || decide (bitsOf w 9 8 ≠ 2))

/-- ETH_LINK_CHANGE: block lock and FEC alignment of a link gained or lost. -/
def execEthLinkChange (port : EpIx) (link : Fin 4) (up : Bool) (s : State) : Host.Outcome State Fault Refusal :=
  .next (s.setFlag (Reg.ethPort port) (28 + link) (up && s.linkAllowed port link))

/-- ING_SSTAT and the eight counters of an entry (R190). -/
def State.ingLatch (s : State) (e : Nat) : Word × List Nat :=
  match s.entry? e with
  | none => (0, [])
  | some x =>
    (BitVec.ofNat 32 (2 ^ 31 + 2 ^ 30 * boolNat x.sr.isSome + 2 ^ 29 * boolNat x.ssrc.isSome + 2 ^ 28 * boolNat (!x.cands.isEmpty) +
      x.part * 2 ^ 22 + min 0xFFFF (x.jitter / 16)), x.counts)

/-- ING_SSEL written: SNAP latches the status and counters of the entry (R190, R191). -/
def State.ingSselWrite (s : State) (v : Word) : State :=
  let s1 := s.setReg Reg.ingSsel (v &&& 0x3FF)
  if bitOf v 31 then
    let l := s.ingLatch (bitsOf v 9 0)
    (List.range 8).foldl (fun s k => s.setReg (Reg.ingScnt k) (BitVec.ofNat 32 (listAt 0 l.2 k))) (s1.setReg Reg.ingSstat l.1)
  else s1

/-- ING_SSEL_SNAP: a write of ING_SSEL with SNAP set. -/
def execIngSselSnap (v : Word) (s : State) : Host.Outcome State Fault Refusal := .next (s.pfReach Reg.ingSsel (s.ingSselWrite (v ||| 0x80000000)))

/-! ### Records on the network (R169, R242) -/

/-- Fragment k of a record of n fragments, with its 16-byte header (R169). -/
def bmrFragment (ix seq k n fmax : Nat) (bs : List Byte) : List Byte :=
  leBytes 2 ix ++ leBytes 2 k ++ leBytes 2 n ++ [0, 0] ++ leBytes 4 seq ++ leBytes 4 bs.length ++ ((bs.drop (k * fmax)).take fmax)

/-- n bytes of a list from an offset; 0 beyond its end. -/
def bytesFrom (l : List Byte) (off n : Nat) : List Byte := (List.range n).map fun i => listAt 0 l (off + i)

/-- A number of n bytes, high byte first. -/
def beBytes (n v : Nat) : List Byte := (leBytes n v).reverse

/-- The UDP datagram of a stream that carries a payload, from an address of n bytes: E_SPORT, E_DPORT and the checksum of RFC 768. -/
def bmrUdp (st : Stream) (n : Nat) (own pl : List Byte) : List Byte :=
  let len := beBytes 2 (8 + pl.length)
  let u := beBytes 2 (st.par 34 2) ++ beBytes 2 (st.par 32 2) ++ len
  let sum := 65535 - onesSum (u ++ [0, 0] ++ pl) (onesSum (bytesFrom st.bind 16 n) (onesSum own (onesSum ([0, 17] ++ len) 0)))
  u ++ beBytes 2 (if sum = 0 then 65535 else sum) ++ pl

/-- The frame of a stream's datagram: to E_DST and the link address mac, from the link's own addresses, with E_VLAN and E_DSCP (R242, R353;
RFC 791, RFC 8200). Identification, Don't Fragment, the flow label and the TTL or hop limit are not stated and come from w
(PRESUMED, log entry 62). -/
def bmrFrame (st : Stream) (mac ownMac own : List Byte) (w : Nat) (pl : List Byte) : List Byte :=
  let b := st.par 38 1
  let v6 := b.testBit 3
  let n := if v6 then 16 else 4
  let src := bytesFrom own 0 n
  let u := bmrUdp st n src pl
  let dscp := 4 * natBits (st.par 39 1) 5 0
  let ttl := BitVec.ofNat 8 (w / 2 ^ 24)
  let ends := src ++ bytesFrom st.bind 16 n
  let l3 := if v6 then beBytes 4 (6 * 2 ^ 28 + dscp * 2 ^ 20 + w % 2 ^ 20) ++ beBytes 2 u.length ++ [17, ttl] ++ ends ++ u
    else
      let h := [0x45, BitVec.ofNat 8 dscp] ++ beBytes 2 (20 + u.length) ++ beBytes 2 w ++ [if w.testBit 16 then 0x40 else 0, 0, ttl, 17]
      h ++ beBytes 2 (65535 - onesSum (h ++ [0, 0] ++ ends) 0) ++ ends ++ u
  let tag := if b.testBit 4 then [0x81, 0] ++ beBytes 2 (natBits (st.par 36 2) 11 0) else []
  let fr := bytesFrom mac 0 6 ++ bytesFrom ownMac 0 6 ++ tag ++ (if v6 then [0x86, 0xDD] else [8, 0]) ++ l3
  fr ++ List.replicate (60 - fr.length) 0

/-- MAC and address of a link as NET_CFG set them; free before. -/
def State.linkOwn (s : State) (port link : Nat) : List Byte × List Byte :=
  match s.ozmel.net.find? fun c => c.port == port && c.link == link with
  | some c => (c.bytes.drop 2, c.bytes.drop 16)
  | none => (leBytes 6 (Config.freeValue s.freeCtr).toNat, leBytes 8 (Config.freeValue (s.freeCtr + 1)).toNat ++ leBytes 8 (Config.freeValue (s.freeCtr + 2)).toNat)

/-- The frames of a stream's fragments, in order. The destination's link address, which Ozmel resolves (R242), is free (log entry 62). -/
def State.bmrFrames (s : State) (st : Stream) (port link : Nat) (frags : List (List Byte)) : List (List Byte) :=
  let own := s.linkOwn port link
  let mac := leBytes 6 (Config.freeValue (s.freeCtr + 3)).toNat
  frags.zipIdx.map fun f => bmrFrame st mac own.1 own.2 (Config.freeValue (s.freeCtr + 4 + f.2)).toNat f.1

/-- BMR_DATAGRAM_SEND: the fragments of the oldest record that has yet to go to the network are sent in index order, once the
Ethernet egress Shade allows (R169, R271); a link that is down discards them (R401). -/
def State.bmrSend (s : State) (p ix : Nat) : State :=
  match s.stream? p ix with
  | none => s
  | some st =>
    match st.bmrs.findIdx? (·.eth) with
    | none => s
    | some i =>
      match st.bmrs[i]? with
      | none => s
      | some b =>
        let m := st.fragMax
        let n := (b.bytes.length + m - 1) / m
        let frags := fun bs => (List.range n).map fun k => bmrFragment ix b.seq k n m bs
        if s.snapsOpen p ix b.seq then s
        else
        match s.shadeAskAll p (bmrKey p ix 1) [(6, ((frags b.bytes).map (·.length)).sum)] with
        | (s0, false) => s0
        | (s0, true) =>
          let s1 := s0.bmrSkips p ix i
          let port := natBits (st.par 38 1) 2 2
          let link := natBits (st.par 38 1) 1 0
          let fs := (s1.bmrFrames st port link (frags (s1.bmrAt p ix i))).map fun f => (port, link, f)
          let s2 : State := { s1 with
            freeCtr := s1.freeCtr + 4 + n
            outs := { s1.outs with eth := if s1.linkUp port link then fs.reverse ++ s1.outs.eth else s1.outs.eth } }
          (s2.updStream p ix fun st => { st with bmrs := listUpd st.bmrs i fun b => { b with eth := false } }).bmrGone p ix

def execBmrDatagramSend (p : PartIx) (ix : StreamIx) (s : State) : Host.Outcome State Fault Refusal := .next (s.bmrSend p ix)

end Sys2Proof.Machine
end

