-- ==== Sys2Proof/Machine/Shaper.lean ====
section
/-!
DEFINITION. Frames as their readers see them, the Shaper's geometry, resampling, colour and output (R212-R223), and whose turn it is at
an engine that serves commands of many partitions (R267, R268).
-/

namespace Sys2Proof.Machine

/-! ### Turns at an engine -/

/-- An engine works on one command at a time. It goes on with a command that it has begun; else it begins one that is the first of its
partition in the order of arrival, when its partition is the one chosen (R223, R268). -/
def State.engineTurn (s : State) (u : Nat) (c : Cmd) (sel : Cmd → Bool) : State × Bool :=
  let l := s.cmds.filter fun x => x.phase == .issued && sel x
  if c.begun then (s, true)
  else if (l.any (·.begun)) = true ∨ ((l.find? fun x => x.part == c.part).map (·.id)) ≠ some c.id then (s, false)
  else
    match s.arbStart u c.part ((l.map (·.part)).eraseDups) with
    | (s1, true) => (s1.updCmd c.id fun x => { x with begun := true }, true)
    | (s1, false) => (s1, false)

/-- The stream of a command: that of its frame chain, or the one its INDEX names on a ring. -/
def Cmd.stream (c : Cmd) : Nat :=
  match c.src with
  | .ring _ => c.index
  | .frame _ ix _ => ix.val

/-- The job of a frame chain's command. -/
def State.jobOf (s : State) (c : Cmd) : Option FrameJob :=
  match c.src with
  | .ring _ => none
  | .frame p ix slot => (s.stream? p ix).bind fun st => st.jobs.find? fun j => j.slot == some slot

/-- The job of a frame chain's command replaced by its image. -/
def State.updJob (s : State) (c : Cmd) (f : FrameJob → FrameJob) : State :=
  match c.src with
  | .ring _ => s
  | .frame p ix slot => s.updStream p ix fun st => st.updJob slot f

/-- Shade path of a command's stage: LIVE or BULK by the class of its stream, BULK without a stream (R271). -/
def State.stagePath (s : State) (c : Cmd) : Nat :=
  match s.stream? c.part c.stream with
  | some st => st.path
  | none => 2

/-! ### Frame descriptors and frames (R196, R200, R212) -/

/-- The frame descriptor that a command names: its chain's, or the one at an address parameter, with its segment handles. -/
def State.frameDesc (s : State) (c : Cmd) (off : Nat) : Res (List Byte) :=
  match s.jobOf c with
  | some j => .ok j.desc
  | none =>
    match s.rd c.part (c.par off 8) 64 with
    | .error e => .error e
    | .ok d =>
      let n := fieldAt d 36 2
      if n = 0 ∨ 64 < n then .error (.badOpcode, none)
      else
        match s.rd c.part (c.par off 8 + 64) (8 * n) with
        | .error e => .error e
        | .ok hs => .ok (d ++ hs)

def fdWidth (d : List Byte) : Nat := fieldAt d 4 2
def fdHeight (d : List Byte) : Nat := fieldAt d 6 2
def fdPitch (d : List Byte) : Nat := fieldAt d 8 4
def fdChroma (d : List Byte) : Nat := fieldAt d 12 4
def fdFmt (d : List Byte) : Nat := natBits (fieldAt d 28 1) 3 0
def fdDepth (d : List Byte) : Nat := if fdFmt d = 1 then 10 else 8
def fdMono (d : List Byte) : Bool := (fieldAt d 29 1).testBit 5
def fdSegSize (d : List Byte) : Nat := fieldAt d 44 4
def fdHandle (d : List Byte) (i : Nat) : Nat := fieldAt d (64 + 8 * i) 8

/-- The layout of a frame is one that a Shaper reads. -/
def fdOk (d : List Byte) : Bool := decide (fdFmt d ≤ 2) && (decide (fdFmt d ≠ 2) || decide (fdPitch d % 128 = 0))

/-- Why a frame read failed: its status, the handle and offset that a handle check refused, and the device address of a memory error. -/
structure FrameErr where
  status : Status
  handle : Option (Nat × Nat)
  addr : Option Nat

/-- n bytes of a frame at a frame-space offset, through the handle of their segment (R197, R212, R279). A start within an 8-byte word is
checked as the word's. -/
def State.frameBytes (s : State) (p : Nat) (d : List Byte) (off n : Nat) : Except FrameErr (List Byte) :=
  let sz := fdSegSize d
  if sz = 0 then .error ⟨.bounds, none, none⟩
  else
    let i := off / sz
    let h := fdHandle d i
    let o := off % sz
    if fieldAt d 36 2 ≤ i then .error ⟨.bounds, none, none⟩
    else
      match s.handleCheck p h (o / 8 * 8) 8 with
      | .fail st => .error ⟨st, some (h, o / 8 * 8), none⟩
      | .pass k b =>
        let da := s.bufDa k b + o
        match s.accessStatus da with
        | .ok => if s.poisoned da n then .error ⟨.unitFault, none, some da⟩ else .ok (s.readMem da n)
        | e => .error ⟨e, none, none⟩

/-- A luma sample. -/
def State.luma (s : State) (p : Nat) (d : List Byte) (x y : Nat) : Except FrameErr Nat :=
  let k := if fdFmt d = 1 then 2 else 1
  match s.frameBytes p d (y * fdPitch d + k * x) k with
  | .error e => .error e
  | .ok bs => .ok (if fdFmt d = 1 then leNat bs / 64 else leNat bs)

/-- A chroma sample: component 0 is Cb, 1 is Cr. -/
def State.chroma (s : State) (p : Nat) (d : List Byte) (comp x y : Nat) : Except FrameErr Nat :=
  if fdMono d then .ok (128 * 2 ^ (fdDepth d - 8))
  else
    match fdFmt d with
    | 2 =>
      let half := fdPitch d / 2
      match s.frameBytes p d (fdChroma d + comp * (half * ((fdHeight d + 1) / 2)) + y * half + x) 1 with
      | .error e => .error e
      | .ok bs => .ok (leNat bs)
    | fmt =>
      let k := if fmt = 1 then 2 else 1
      match s.frameBytes p d (fdChroma d + y * fdPitch d + k * (2 * x + comp)) k with
      | .error e => .error e
      | .ok bs => .ok (if fmt = 1 then leNat bs / 64 else leNat bs)

/-! ### Shaper profile and geometry (R213-R216) -/

def spRot (f : List Byte) : Nat := natBits (fieldAt f 1 1) 7 6
def spFlipH (f : List Byte) : Bool := (fieldAt f 1 1).testBit 5
def spFlipV (f : List Byte) : Bool := (fieldAt f 1 1).testBit 4
def spFilter (f : List Byte) : Nat := natBits (fieldAt f 1 1) 3 2
def spAuto (f : List Byte) : Bool := (fieldAt f 1 1).testBit 1
def spCsite (f : List Byte) : Bool := (fieldAt f 1 1).testBit 0
def spMatrix (f : List Byte) : Nat := natBits (fieldAt f 2 1) 7 6
def spRange (f : List Byte) : Nat := natBits (fieldAt f 2 1) 5 4
def spBgr (f : List Byte) : Bool := (fieldAt f 2 1).testBit 3
def spPlanar (f : List Byte) : Bool := (fieldAt f 2 1).testBit 2
def spCode (f : List Byte) : Nat := natBits (fieldAt f 3 1) 3 0
def spOw (f : List Byte) : Nat := fieldAt f 12 2
def spOh (f : List Byte) : Nat := fieldAt f 14 2
def spRowPitch (f : List Byte) : Nat := fieldAt f 44 4
def spColPitch (f : List Byte) : Nat := fieldAt f 48 4

/-- Crop, oriented size and placement of a SHAPE. -/
structure Geom where
  cx : Nat
  cy : Nat
  cw : Nat
  ch : Nat
  w : Nat
  h : Nat
  rw : Nat
  rh : Nat
  px : Nat
  py : Nat

/-- The geometry of a profile on a frame (R213-R216). -/
def shapeGeom (f d : List Byte) : Geom :=
  let whole := decide (fieldAt f 8 2 = 0)
  let cx := if whole then 0 else fieldAt f 4 2
  let cy := if whole then 0 else fieldAt f 6 2
  let cw := if whole then fdWidth d else fieldAt f 8 2
  let ch := if whole then fdHeight d else fieldAt f 10 2
  let turn := decide (spRot f % 2 = 1)
  let w := if turn then ch else cw
  let h := if turn then cw else ch
  let ow := spOw f
  let oh := spOh f
  if spAuto f then
    let wide := decide (h * ow ≤ w * oh)
    let rw := if wide then ow else (w * oh + h / 2) / h
    let rh := if wide then (h * ow + w / 2) / w else oh
    ⟨cx, cy, cw, ch, w, h, rw, rh, (ow - rw) / 2, (oh - rh) / 2⟩
  else ⟨cx, cy, cw, ch, w, h, fieldAt f 16 2, fieldAt f 18 2, fieldAt f 20 2, fieldAt f 22 2⟩

/-- The checks of R213 and R214 on fields and geometry. -/
def shapeOk (f d : List Byte) : Bool :=
  let g := shapeGeom f d
  let whole := decide (fieldAt f 8 2 = 0)
  let sh := fun i => decide (-32 ≤ signedOf 8 (fieldAt f i 1)) && decide (signedOf 8 (fieldAt f i 1) ≤ 31)
  (spCode f == 0 || spCode f == 1 || spCode f == 4 || spCode f == 5 || spCode f == 8 || spCode f == 9) &&
  decide (spMatrix f ≠ 3) && decide (spRange f ≠ 3) && decide (1 ≤ spOw f) && decide (spOw f ≤ 4096) && decide (1 ≤ spOh f) &&
  decide (spOh f ≤ 4096) && sh 36 && sh 37 && sh 38 && decide (spRowPitch f % 8 = 0) &&
  (whole || (decide (g.cx % 2 = 0) && decide (g.cy % 2 = 0) && decide (g.cw % 2 = 0) && decide (g.ch % 2 = 0))) &&
  decide (0 < g.cw) && decide (0 < g.ch) && decide (g.cx + g.cw ≤ fdWidth d) && decide (g.cy + g.ch ≤ fdHeight d) &&
  decide (0 < g.rw) && decide (0 < g.rh) && decide (g.px + g.rw ≤ spOw f) && decide (g.py + g.rh ≤ spOh f) &&
  decide (g.w ≤ 16 * g.rw) && decide (g.rw ≤ 8 * g.w) && decide (g.h ≤ 16 * g.rh) && decide (g.rh ≤ 8 * g.h) &&
  (spPlanar f || (decide (16 ≤ spColPitch f) && decide (spColPitch f % 16 = 0))) && fdOk d

/-- Where an output sample lies on an axis: its sample-centred position, and the lower end of its footprint in edge coordinates (R215,
R217). -/
structure AxisPos where
  pos : Int
  lo : Int

/-- The place of output index u at a step, in 2^-16 samples. -/
def axisPos (u step : Nat) : AxisPos := ⟨(((2 * u + 1) * step : Nat) - 65536 : Int) / 2, ((u * step : Nat) : Int)⟩

/-- The mirror image of a place on an axis of n samples. -/
def AxisPos.mirror (a : AxisPos) (n step : Nat) : AxisPos := ⟨((n : Int) - 1) * 65536 - a.pos, (n : Int) * 65536 - a.lo - step⟩

/-- Source place of a tensor pixel in 2^-16 luma pixels, relative to the crop (R215). -/
def srcPos (f : List Byte) (g : Geom) (u v : Nat) : AxisPos × AxisPos :=
  let sa := g.w * 65536 / g.rw
  let sb := g.h * 65536 / g.rh
  let a := if spFlipH f then (axisPos u sa).mirror g.w sa else axisPos u sa
  let b := if spFlipV f then (axisPos v sb).mirror g.h sb else axisPos v sb
  match spRot f with
  | 0 => (a, b)
  | 1 => (b, a.mirror g.ch sa)
  | 2 => (a.mirror g.cw sa, b.mirror g.ch sb)
  | _ => (b.mirror g.cw sb, a)

/-- Chroma place of a luma place: the position in 2^-16, the footprint in 2^-17 chroma samples (R215) (DEDUCED, log entry 53). -/
def chromaPos (csite : Bool) (x y : AxisPos) : AxisPos × AxisPos :=
  (if csite then ⟨(x.pos - 32768) / 2, x.lo⟩ else ⟨x.pos / 2, x.lo + 32768⟩, ⟨(y.pos - 32768) / 2, y.lo⟩)

/-! ### Resampling (R217) -/

/-- An integer quotient rounded to nearest, ties to even. -/
def rneDiv (n : Int) (d : Nat) : Int :=
  let q := n / (d : Int)
  let r := n % (d : Int)
  if 2 * r < d then q else if (d : Int) < 2 * r then q + 1 else if q % 2 = 0 then q else q + 1

/-- Index of the first largest weight. -/
def largestIx (ws : List Int) : Nat := (ws.findIdx? fun w => ws.all fun x => decide (x ≤ w)).getD 0

/-- Weights that sum to 128: the difference goes to the largest, the lower index on a tie. -/
def fixWeights (ws : List Int) : List Int := listUpd ws (largestIx ws) fun w => w + (128 - ws.sum)

/-- RNE(128 * k(n / 64)) of the cubic convolution kernel with a = -0.5. -/
def cubicWeight (n : Nat) : Int :=
  let t : Int := n
  if n ≤ 64 then rneDiv (192 * t ^ 3 - 20480 * t ^ 2 + 33554432) 262144
  else if n < 128 then rneDiv (-64 * t ^ 3 + 20480 * t ^ 2 - 2097152 * t + 67108864) 262144
  else 0

/-- Taps of one axis: sample indices and weights. pos is the position in 2^-16 samples; the footprint runs from lo for a length of foot,
in 2^-17 samples. -/
def axisTaps (filter : Nat) (reduced : Bool) (pos lo : Int) (foot : Nat) : List (Int × Int) :=
  let i := pos / 65536
  let p := pos / 1024 % 64
  if filter = 0 then [((pos + 32768) / 65536, 128)]
  else if filter = 2 then
    ([i - 1, i, i + 1, i + 2]).zip (fixWeights [cubicWeight (p + 64).toNat, cubicWeight p.toNat, cubicWeight (64 - p).toNat,
      cubicWeight (128 - p).toNat])
  else if filter = 3 ∧ reduced = true then
    let hi := lo + foot
    let first := lo / 131072
    let n := ((hi + 131071) / 131072 - first).toNat
    let ix := (List.range n).map fun (k : Nat) => first + (k : Int)
    let ws := ix.map fun k => rneDiv (128 * (min hi ((k + 1) * 131072) - max lo (k * 131072))) foot
    ix.zip (fixWeights ws)
  else [(i, 128 - 2 * p), (i + 1, 2 * p)]

/-- An index limited to a range of n samples. -/
def edgeClamp (n : Nat) (i : Int) : Nat := (clampInt 0 ((n : Int) - 1) i).toNat

/-- A weighted sum of fallible samples. -/
def sumTaps (f : Int → Except FrameErr Int) : List (Int × Int) → Except FrameErr Int
  | [] => .ok 0
  | (i, w) :: t =>
    match f i with
    | .error e => .error e
    | .ok v =>
      match sumTaps f t with
      | .error e => .error e
      | .ok r => .ok (w * v + r)

/-- A sample of a plane from its taps: horizontal sums exact, then vertical, then rounded and clamped (R217). -/
def resample (depth : Nat) (tx ty : List (Int × Int)) (get : Int → Int → Except FrameErr Nat) :
    Except FrameErr Nat :=
  match sumTaps (fun j => sumTaps (fun i => match get i j with | .error e => .error e | .ok v => .ok (v : Int)) tx) ty with
  | .error e => .error e
  | .ok t => .ok (clampInt 0 (2 ^ depth - 1) (rneDiv t 16384)).toNat

/-- What resampling needs of a frame region: origin and size in luma, filter, whether each axis is reduced, and the steps. -/
structure Region where
  x0 : Nat
  y0 : Nat
  w : Nat
  h : Nat
  filter : Nat
  redX : Bool
  redY : Bool
  stepX : Nat
  stepY : Nat
  csite : Bool

/-- Y, Cb and Cr of a frame region at a luma position. -/
def State.samples (s : State) (p : Nat) (d : List Byte) (r : Region) (x y : AxisPos) : Except FrameErr (Nat × Nat × Nat) :=
  let dep := fdDepth d
  let c := chromaPos r.csite x y
  let cw := (r.w + 1) / 2
  let chh := (r.h + 1) / 2
  let tx := axisTaps r.filter r.redX x.pos (2 * x.lo) (2 * r.stepX)
  let ty := axisTaps r.filter r.redY y.pos (2 * y.lo) (2 * r.stepY)
  let ux := axisTaps r.filter r.redX c.1.pos c.1.lo r.stepX
  let uy := axisTaps r.filter r.redY c.2.pos c.2.lo r.stepY
  match resample dep tx ty fun i j => s.luma p d (r.x0 + edgeClamp r.w i) (r.y0 + edgeClamp r.h j) with
  | .error e => .error e
  | .ok yy =>
    let ch := fun comp => resample dep ux uy fun i j => s.chroma p d comp (r.x0 / 2 + edgeClamp cw i) (r.y0 / 2 + edgeClamp chh j)
    match ch 0 with
    | .error e => .error e
    | .ok cb =>
      match ch 1 with
      | .error e => .error e
      | .ok cr => .ok (yy, cb, cr)

/-- Region of a SHAPE: under ROT 1 and 3 the tensor's axes lie along the other source axes. -/
def shapeRegion (f : List Byte) (g : Geom) : Region :=
  let sa := g.w * 65536 / g.rw
  let sb := g.h * 65536 / g.rh
  let ra := decide (g.rw < g.w)
  let rb := decide (g.rh < g.h)
  if spRot f % 2 = 1 then ⟨g.cx, g.cy, g.cw, g.ch, spFilter f, rb, ra, sb, sa, spCsite f⟩
  else ⟨g.cx, g.cy, g.cw, g.ch, spFilter f, ra, rb, sa, sb, spCsite f⟩

/-! ### Colour and output (R218-R220) -/

/-- The binary32 value nearest to n / d. -/
def f32Frac (n d : Nat) : Word := toF32 ((numOfInt n 0).div (numOfInt d 0))

/-- A value clamped to 0-255. -/
def clamp255 (w : Word) : Word := f32Min (f32Max w 0) (f32OfInt 255)

/-- BT.709 is in force (R218). -/
def spBt709 (f d : List Byte) : Bool :=
  match spMatrix f with
  | 1 => false
  | 2 => true
  | _ =>
    let m := fieldAt d 32 1
    if m = 1 then true else if m = 5 ∨ m = 6 then false else decide (720 ≤ fdHeight d)

/-- Full range is in force. -/
def spFull (f d : List Byte) : Bool :=
  match spRange f with
  | 1 => false
  | 2 => true
  | _ => (fieldAt d 33 1).testBit 0

/-- R, G and B of samples (R218). -/
def toRgb (f d : List Byte) (t : Nat × Nat × Nat) : Word × Word × Word :=
  let q := f32OfInt ((2 ^ (fdDepth d - 8) : Nat) : Int)
  let off := f32OfInt 128
  let yy := f32Div (f32OfInt t.1) q
  let cb := f32Sub (f32Div (f32OfInt t.2.1) q) off
  let cr := f32Sub (f32Div (f32OfInt t.2.2) q) off
  let full := spFull f d
  let y := if full then yy else f32Mul (f32Sub yy (f32OfInt 16)) (f32Frac 255 219)
  let u := if full then cb else f32Mul cb (f32Frac 255 224)
  let v := if full then cr else f32Mul cr (f32Frac 255 224)
  let m := spBt709 f d
  let krv := if m then f32Frac 15748 10000 else f32Frac 1402 1000
  let kgu := if m then f32Frac 187324 1000000 else f32Frac 344136 1000000
  let kgv := if m then f32Frac 468124 1000000 else f32Frac 714136 1000000
  let kbu := if m then f32Frac 18556 10000 else f32Frac 1772 1000
  (clamp255 (f32Add y (f32Mul krv v)), clamp255 (f32Sub (f32Sub y (f32Mul kgu u)) (f32Mul kgv v)), clamp255 (f32Add y (f32Mul kbu u)))

/-- The code of channel k (0 R, 1 G, 2 B) and whether it saturates (R219): a NaN does not, nor does a value that becomes infinity (R68). -/
def chanCode (f : List Byte) (k : Nat) (v : Word) : Nat × Bool :=
  let x := (f32 (f32Sub v (BitVec.ofNat 32 (fieldAt f (24 + 4 * k) 4)))).scale (signedOf 8 (fieldAt f (36 + k) 1))
  let r := convert (spCode f) [] x
  (r.1, r.2 && !x.isNan && decide (spCode f < 8))

/-- Codes of a pixel in the order of its channels, and how many saturate. -/
def pixelCodes (f : List Byte) (rgb : Word × Word × Word) : List Nat × Nat :=
  let r := chanCode f 0 rgb.1
  let g := chanCode f 1 rgb.2.1
  let b := chanCode f 2 rgb.2.2
  (if spBgr f then [b.1, g.1, r.1] else [r.1, g.1, b.1], boolNat r.2 + boolNat g.2 + boolNat b.2)

/-- Letterbox colour. -/
def padRgb (f : List Byte) : Word × Word × Word :=
  (f32OfInt (fieldAt f 40 1), f32OfInt (fieldAt f 41 1), f32OfInt (fieldAt f 42 1))

/-- Bytes of the output from its base (R214, R220). -/
def shapeExtent (f : List Byte) : Nat :=
  let e := codeBytes (spCode f) 1
  if spPlanar f then 2 * spColPitch f + (spOh f - 1) * spRowPitch f + spOw f * e
  else (spOh f - 1) * spRowPitch f + (spOw f - 1) * spColPitch f + 16

/-- A pixel written at its places in the tensor (R220). -/
def State.putPixel (s : State) (f : List Byte) (da x y : Nat) (codes : List Nat) : State :=
  let e := codeBytes (spCode f) 1
  if spPlanar f then
    codes.zipIdx.foldl (fun s c => s.store (da + c.2 * spColPitch f + y * spRowPitch f + x * e) (leBytes e c.1)) s
  else s.store (da + y * spRowPitch f + x * spColPitch f) (((codes.map fun c => leBytes e c).flatten ++ List.replicate 16 0).take 16)

/-- The pixel of a tensor position. -/
def State.shapePixel (s : State) (p : Nat) (f d : List Byte) (g : Geom) (x y : Nat) : Except FrameErr (Word × Word × Word) :=
  if g.px ≤ x ∧ x < g.px + g.rw ∧ g.py ≤ y ∧ y < g.py + g.rh then
    let q := srcPos f g (x - g.px) (y - g.py)
    match s.samples p d (shapeRegion f g) q.1 q.2 with
    | .error e => .error e
    | .ok t => .ok (toRgb f d t)
  else .ok (padRgb f)

/-- What a frame read of a block that fails leaves: a refused handle is counted and recorded (R279), a memory error counted (R89). -/
def State.frameFail (s : State) (block p : Nat) (e : FrameErr) : State :=
  match e.handle with
  | some h => (s.useHandle p h.1 h.2 8).1
  | none => s.noteFault block p (e.status, e.addr)

/-- The pixels of a tensor from index i on, in raster order: n of them. The elements saturated, and the status that ends the work. -/
def State.shapePixels (s : State) (p : Nat) (f d : List Byte) (g : Geom) (da i sat : Nat) : Nat → State × Nat × Status
  | 0 => (s, sat, .ok)
  | n + 1 =>
    let x := i % spOw f
    let y := i / spOw f
    match s.shapePixel p f d g x y with
    | .error e => (s.frameFail 0x30 p e, sat, e.status)
    | .ok rgb =>
      let c := pixelCodes f rgb
      (s.putPixel f da x y c.1).shapePixels p f d g da (i + 1) (sat + c.2) n

/-- n bytes of a command's profile: as it read them at its start, if it has (R148). -/
def State.readPiece (s : State) (c : Cmd) (a n : Nat) : Res (List Byte) :=
  match c.profiles.find? fun x => x.1 == a && x.2.length == n with
  | some x => .ok x.2
  | none => s.rd c.part a n

/-- A profile of a command at an 8-byte boundary, of version 1 (R148, R156, R213). -/
def State.readProfile (s : State) (c : Cmd) (a n : Nat) : Res (List Byte) :=
  if a % 8 ≠ 0 then .error (.align, some a)
  else
    match s.readPiece c a n with
    | .error e => .error e
    | .ok f => if fieldAt f 0 1 ≠ 1 then .error (.badVersion, none) else .ok f

/-- A command that stalls keeps the profiles that it has read (R148). -/
def State.keepProfiles (s : State) (id : Nat) (l : List (Nat × List Byte)) : State := s.updCmd id fun c => { c with profiles := l }

/-- SHAPE ends; a BAD_OPCODE or BOUNDS counts in SH_STAT.ERRS. -/
def State.shapeEnd (s : State) (c : Cmd) (n : Nat) (st : Status) (detail : Word) : State :=
  let s1 := if st = .badOpcode ∨ st = .bounds then s.bump (Reg.shStat n) 23 16 1 else s
  s1.endCmd c.id st detail

/-- The work of a SHAPE whose checks have passed. -/
def State.shapeRun (s : State) (c : Cmd) (n : Nat) (f d : List Byte) (da : Nat) : State :=
  let g := shapeGeom f d
  let path := s.stagePath c
  let src := g.cw * g.ch * 3 / 2 * (if fdFmt d = 1 then 2 else 1)
  match s.shadeAskAll c.part c.id (s.chargePath (s.handleDa (fdHandle d 0)) path src ++ s.chargePath da path (shapeExtent f)) with
  | (s1, false) => s1.keepProfiles c.id [(c.par 0 8, f)]
  | (s1, true) =>
    match s1.shapePixels c.part f d g da 0 0 (spOw f * spOh f) with
    | (s2, sat, st) => (s2.bump (Reg.shStat n) 15 0 sat).shapeEnd c n st (if st = .ok then BitVec.ofNat 32 n else 0)

/-- SHAPE ends with a failure, whose address or memory error is recorded (R53, R89). -/
def State.shapeFail (s : State) (c : Cmd) (n : Nat) (e : Status × Option Nat) : State := (s.noteFault 0x30 c.part e).shapeEnd c n e.1 0

/-- A SHAPE whose Shaper is off goes to another one of its partition that is on, or ends ISOLATED (R228). -/
def State.shapeMove (s : State) (c : Cmd) : State :=
  match (List.range 4).find? fun n => (s.limit c.part 8 1).testBit n && s.domOn (shDom n) with
  | some n => s.updCmd c.id fun x => { x with members := [n] }
  | none => s.endCmd c.id .isolated 0

/-- SHAPE on Shaper n, when it is the Shaper's turn for it (R212-R223, R228). -/
def State.opShape (c : Cmd) (s : State) : State :=
  let n := c.members.headD 0
  if s.domOn (shDom n) = false then s.shapeMove c
  else if s.flag (Reg.shCtrl n) 0 = false ∧ c.begun = false then s
  else
    match s.engineTurn (32 + n) c fun x => x.opcode == 0x20 && x.members == [n] with
    | (s1, false) => s1
    | (s1, true) =>
      match s1.readProfile c (c.par 0 8) 64 with
      | .error e => s1.shapeFail c n e
      | .ok f =>
        match s1.frameDesc c 8 with
        | .error e => s1.shapeFail c n e
        | .ok d =>
          if shapeOk f d = false then s1.shapeEnd c n .badOpcode 0
          else
            match s1.translate c.part (c.par 16 8) (shapeExtent f) .wr with
            | none => s1.shapeFail c n (.bounds, some (c.par 16 8))
            | some da =>
              match s1.rangeStatus da (shapeExtent f) with
              | .ok => s1.shapeRun c n f d da
              | e => s1.shapeEnd c n e 0

def execShape (id : Nat) (s : State) : Host.Outcome State Fault Refusal := .next (s.runOp id 0x20 State.opShape)

/-! ### Inverse mapping (R154, R221) -/

/-- A model point mapped back to the source frame. -/
def unmapPoint (f : List Byte) (g : Geom) (x y : Word) : Word × Word :=
  let i := fun (n : Nat) => f32OfInt (n : Int)
  let ox0 := f32Mul (f32Sub x (i g.px)) (f32Div (i g.w) (i g.rw))
  let oy0 := f32Mul (f32Sub y (i g.py)) (f32Div (i g.h) (i g.rh))
  let ox := if spFlipH f then f32Sub (i g.w) ox0 else ox0
  let oy := if spFlipV f then f32Sub (i g.h) oy0 else oy0
  let r := match spRot f with
    | 0 => (ox, oy)
    | 1 => (oy, f32Sub (i g.ch) ox)
    | 2 => (f32Sub (i g.cw) ox, f32Sub (i g.ch) oy)
    | _ => (f32Sub (i g.cw) oy, ox)
  (f32Add r.1 (i g.cx), f32Add r.2 (i g.cy))

/-- A box mapped back and clamped to the frame. -/
def unmapBox (f d : List Byte) (x1 y1 x2 y2 : Word) : Word × Word × Word × Word :=
  let g := shapeGeom f d
  let a := unmapPoint f g x1 y1
  let b := unmapPoint f g x2 y2
  let cl := fun (m : Nat) (w : Word) => f32Min (f32Max w 0) (f32OfInt (m : Int))
  (cl (fdWidth d) (f32Min a.1 b.1), cl (fdHeight d) (f32Min a.2 b.2), cl (fdWidth d) (f32Max a.1 b.1), cl (fdHeight d) (f32Max a.2 b.2))

end Sys2Proof.Machine
end

