-- ==== Sys2Proof/Machine/Smelter.lean ====
section
/-!
DEFINITION. Smelters: the choice of a context, access units and their discards, frames and their buffers, the output layout, concealment,
frame output, suspension, parity faults, re-homing and re-admission (R192-R211). The syntax elements and samples that the published codecs
find in a bitstream are operands (log entry 33).
-/

namespace Sys2Proof.Machine

/-! ### The decode block (R194) -/

def DecCtx.conceal (d : DecCtx) : Bool := (fieldAt d.block 0 1).testBit 7
def DecCtx.pool (d : DecCtx) : Nat := natBits (fieldAt d.block 0 1) 2 0
def DecCtx.group (d : DecCtx) : Nat := natBits (fieldAt d.block 1 1) 5 0
def DecCtx.fbCount (d : DecCtx) : Nat := natBits (fieldAt d.block 2 1) 5 0
/-- SM_HINT when HINT_EN is set. -/
def DecCtx.hint (d : DecCtx) : Option Nat :=
  let b := fieldAt d.block 3 1
  if b.testBit 7 then some (natBits b 3 0) else none
def DecCtx.rateKpix (d : DecCtx) : Nat := fieldAt d.block 4 4

/-- Largest picture of a codec (R192). -/
def codecMax (codec : Nat) : Nat × Nat := (8192, if codec = 2 ∨ codec = 4 then 8192 else 4352)

/-- MAX_W and MAX_H; 0 is the codec's largest. -/
def DecCtx.maxSize (d : DecCtx) : Nat × Nat :=
  let m := codecMax d.codec
  let w := fieldAt d.block 8 2
  let h := fieldAt d.block 10 2
  (if w = 0 then m.1 else w, if h = 0 then m.2 else h)

/-- Steps per sample in twelfths, for the 8-bit content of a codec (R193, R194) (DEDUCED, log entry 73). -/
def codecSteps (codec : Nat) : Nat := match codec with | 0 => 16 | 4 => 24 | _ => 12

/-- Steps per output luma sample of a picture, in twelfths (R193). -/
def pictureRate (codec : Nat) (i : PictureInfo) : Nat :=
  match codec with
  | 0 => if i.tenBit then 20 else 16
  | 4 => 24
  | _ => if i.chroma = .c422 then 24 else if i.tenBit then 15 else 12

/-- Steps of a picture: 400 and the larger of its sample and entropy steps, and 400 for each suspension and each resumption (R193, R203)
(DEDUCED, log entry 73). -/
def pictureSteps (codec : Nat) (i : PictureInfo) (bins codedBits suspends : Nat) : Nat :=
  400 + max ((i.width * i.height * pictureRate codec i + 11) / 12) (bins + (codedBits + 1) / 2) + 800 * suspends

/-- The profile belongs to the codec (R192). -/
def profileOk (codec : Nat) (p : CodecProfile) : Bool :=
  match codec with
  | 0 => p == .constrainedBaseline || p == .main || p == .high || p == .high10
  | 1 => p == .hevcMain || p == .hevcMain10 || p == .hevcMain42210
  | 2 => p == .av1Main
  | 3 => p == .vp9Profile0 || p == .vp9Profile2
  | _ => p == .jpegBaseline

/-- Chroma sampling and bit depth that a profile permits (R192). -/
def formatOk (p : CodecProfile) (c : ChromaFormat) (tenBit : Bool) : Bool :=
  match p with
  | .high10 | .hevcMain10 | .av1Main => c == .c420 || c == .mono
  | .hevcMain42210 => c != .c444
  | .vp9Profile0 => c == .c420 && !tenBit
  | .vp9Profile2 => c == .c420 && tenBit
  | .jpegBaseline => !tenBit
  | .other => false
  | _ => (c == .c420 || c == .mono) && !tenBit

/-- Ten times the level limit of a codec (R192). -/
def levelMax (codec : Nat) : Nat := if codec = 2 then 63 else 62

/-- A sequence is one that Smelters decode (R192), but for its size. -/
def supportedSeq (codec : Nat) (i : PictureInfo) : Bool :=
  profileOk codec i.profile && formatOk i.profile i.chroma i.tenBit && !i.otherTool && (codec == 4 || decide (i.level ≤ levelMax codec)) &&
  (codec != 0 || i.frameMbsOnly) && (codec != 1 || i.layer == 0)

/-- Random access points of a codec (R204). -/
def isRap (codec : Nat) (i : PictureInfo) : Bool :=
  match codec with
  | 0 => i.kind == .idr
  | 1 => i.kind == .idr || i.kind == .cra || i.kind == .bla
  | 2 => i.kind == .key && i.shown
  | 3 => i.kind == .key
  | _ => true

/-! ### The home Smelter (R194) -/

/-- Contexts homed on a Smelter. -/
def State.homed (s : State) (n : Nat) : List (Nat × DecCtx) := s.decs.filter fun e => e.2.home == n

/-- Declared load of a Smelter. -/
def State.smLoad (s : State) (n : Nat) : Nat := ((s.homed n).map fun e => e.2.rateKpix * codecSteps e.2.codec).sum

/-- A Smelter has a free slot for one more context. -/
def State.smFree (s : State) (n : Nat) : Bool :=
  decide ((s.homed n).length < 128) && !s.flag (Reg.smStatus n) 31

/-- The home that R194 chooses among the Smelters of a mask. -/
def State.smHome (s : State) (mask : Nat) (hint : Option Nat) : Option Nat :=
  let free := (List.range 12).filter fun n => mask.testBit n && s.smFree n
  match hint.filter fun h => free.contains h with
  | some h => some h
  | none => free.foldl (fun m n => match m with
      | none => some n
      | some b => if s.smLoad n < s.smLoad b then some n else some b) none

/-! ### Frame spaces (R196, R197) -/

/-- A number rounded up to a multiple. -/
def upTo (k n : Nat) : Nat := (n + k - 1) / k * k

/-- Layout of a frame: pitch, offset of the chroma plane, end of the planes, offsets of the motion field and of the grain record. -/
structure FrameSpace where
  pitch : Nat
  chroma : Nat
  planes : Nat
  motion : Nat
  motionLen : Nat
  grain : Nat
deriving DecidableEq, Repr

def frameSpace (i : PictureInfo) : FrameSpace :=
  let pitch := upTo 64 (i.width * (if i.tenBit then 2 else 1))
  let chroma := pitch * upTo 2 i.height
  let planes := chroma + chroma / 2
  let motion := upTo 4096 planes
  let ml := 16 * ((i.width + 15) / 16) * ((i.height + 15) / 16)
  ⟨pitch, chroma, planes, motion, ml, upTo 256 (motion + ml)⟩

/-- SEGS of a frame in buffers of a pool. -/
def frameSegs (i : PictureInfo) (pool : Nat) : Nat := ((frameSpace i).grain + 256 + poolSize pool - 1) / poolSize pool

/-- Buffers of a named pool for one frame; all of them or none (R198, R281). -/
def State.allocMany (s : State) (p k n : Nat) : Option (State × List Nat) :=
  if s.poolEn k && !s.poolInit.contains k && s.quotaAllows p k n && !s.stateTableLost then s.takeBufs p k n else none

/-- Bytes written at a frame-space offset through the handles of their segments, each checked (R205, R279); segment i of the list holds
the bytes from i * size on. -/
def State.writeSegs (s : State) (p : Nat) (segs : List Nat) (size off : Nat) (bs : List Byte) : State :=
  segs.zipIdx.foldl (fun s x =>
    let base := x.2 * size
    let lo := max off base
    let hi := min (off + bs.length) (base + size)
    if lo < hi then
      match s.useHandle p x.1 (lo - base) (hi - lo) with
      | (s1, .fail _) => s1
      | (s1, .pass k b) =>
        let da := s1.bufDa k b + (lo - base)
        if s1.accessStatus da = .ok then s1.store da ((bs.drop (lo - off)).take (hi - lo)) else s1
    else s) s

/-! ### Context groups (R198) -/

/-- Bound contexts of a partition's group. -/
def State.groupCtxs (s : State) (d : DecCtx) : List (Nat × DecCtx) :=
  s.decs.filter fun e => e.2.part == d.part && e.2.group == d.group

/-- Frames that a group holds, those set aside among them. -/
def State.groupHeld (s : State) (d : DecCtx) : Nat := ((s.groupCtxs d).map fun e => e.2.frames.length + boolNat e.2.granted).sum

/-- Budget of a group. -/
def State.groupBudget (s : State) (d : DecCtx) : Nat := ((s.groupCtxs d).map fun e => e.2.fbCount).sum

/-- Waiting context b is served before waiting context a: below its own FB_COUNT first, then by place. -/
def servedBefore (a b : DecCtx) : Bool :=
  let ua := decide (a.frames.length < a.fbCount)
  let ub := decide (b.frames.length < b.fbCount)
  if ua == ub then decide (b.waitFb.getD 0 < a.waitFb.getD 0) else ub

/-- A context that asks for a frame now must stand behind one that waits already. -/
def State.mustQueue (s : State) (c : Nat) (d : DecCtx) : Bool :=
  !d.granted && (s.groupCtxs d).any fun e => e.1 != c && e.2.waitFb.isSome && servedBefore { d with waitFb := some s.nextWait } e.2

/-- Segments for a frame of a context, when its group and Pewter have them. -/
def State.frameBuffers (s : State) (c : Nat) (d : DecCtx) (n : Nat) : Option (State × List Nat) :=
  if s.mustQueue c d = false ∧ (d.granted = true ∨ s.groupHeld d < s.groupBudget d) then s.allocMany d.part d.pool n else none

/-- FRAME_BUFFER_GRANT: a released frame of the group goes to the context that is first in line, once Pewter has its buffers (R198)
(DEDUCED, log entry 76). -/
def execFrameBufferGrant (c : StreamIx) (s : State) : Host.Outcome State Fault Refusal :=
  .next (match s.dec? c with
    | none => s
    | some d =>
      if d.waitFb.isSome = true ∧ s.groupHeld d < s.groupBudget d ∧ (s.allocMany d.part d.pool d.askedSegs).isSome = true ∧
         ((s.groupCtxs d).any fun e => e.1 != c.val && e.2.waitFb.isSome && servedBefore d e.2) = false then
        s.updDec c fun d => { d with waitFb := none, granted := true }
      else s)

/-! ### The end of an access unit (R204, R208) -/

/-- The access unit at the front of a context's queue is extra: its buffer is freed and its STREAM_FEED ends. -/
def State.auEnd (s : State) (c flags : Nat) : State :=
  match s.dec? c with
  | none => s
  | some d =>
    match d.queue with
    | [] => s
    | a :: rest =>
      let s1 := (s.unitFree d.part a.handle).updDec c fun d => { d with queue := rest, work := ⟨0, 0, 0, false, 0, 0, []⟩ }
      match a.cmd with
      | none => s1
      | some id =>
        let w := d.work
        let f := (flags ||| w.flags) + boolNat a.gap * 2 ^ 7 + boolNat a.inc * 2 ^ 8 + 2 ^ 16 * min 8 w.outs
        s1.endCmd id (if w.taint then .partialOk else .ok) (BitVec.ofNat 32 f)

/-- A discarded access unit: DISCARDED and the counts of its flags; FRAME_SEQ rises when R195 or R204 discards it (R201). -/
def State.auDiscard (s : State) (n c flags : Nat) (seqUp : Bool) : State :=
  let s1 := s.updDec c fun d =>
    let k0 := countUp d.counts 2 1
    let k1 := countUp k0 3 (boolNat (flags.testBit 1))
    let k2 := countUp k1 7 (boolNat (flags.testBit 5))
    { d with counts := countUp k2 8 (boolNat (flags.testBit 6)), nextSeq := (d.nextSeq + boolNat seqUp) % 2 ^ 32 }
  let none_ := match s1.dec? c with | some d => d.work.outs == 0 | none => true
  (s1.bump (Reg.smErr n) 15 0 1).auEnd c (flags + boolNat none_)

/-! ### The start of a picture (R195, R198, R203, R204) -/

/-- A context that its Smelter can run: work queued or suspended, not waiting for a frame, not due to move. -/
def DecCtx.runnable (d : DecCtx) : Bool := (!d.queue.isEmpty || d.susp.isSome) && d.waitFb.isNone && !d.rehome

/-- RECORDED contexts have had less than REC_MIN percent of the steps of the present window (R203) (DESIGN CHOICE, log entry 75). -/
def State.smOwed (s : State) (n : Nat) : Bool := decide ((s.smelter n).recSteps * 100 < (s.smelter n).recMin * (s.smelter n).allSteps)

/-- Runnable contexts of a class homed on a Smelter. -/
def State.smReady (s : State) (n : Nat) (live : Bool) : List (Nat × DecCtx) :=
  (s.homed n).filter fun e => e.2.runnable && e.2.live == live

/-- The class that goes first: LIVE, unless RECORDED contexts are owed steps. -/
def State.smClass (s : State) (n : Nat) : List (Nat × DecCtx) :=
  let l := s.smReady n true
  let r := s.smReady n false
  if s.smOwed n then (if r.isEmpty then l else r) else (if l.isEmpty then r else l)

/-- The place of a context's front access unit in the order of queueing. -/
def DecCtx.since (d : DecCtx) : Nat := match d.queue with | [] => 0 | a :: _ => a.queued

/-- The partition that the shares choose at a Smelter among some, without serving it yet. -/
def State.smTurn (s : State) (n : Nat) (ready : List Nat) : State × Option Nat :=
  let u := 16 + n
  let s1 := match (s.arb u).chosen with
    | some p => if ready.contains p then s else s.arbDecide u ready
    | none => s.arbDecide u ready
  (s1, (s1.arb u).chosen)

/-- The context that a Smelter picks (R203). -/
def State.smPick (s : State) (n : Nat) : State × Option (Nat × DecCtx) :=
  let l := s.smClass n
  match s.smTurn n ((List.range 64).filter fun p => l.any fun e => e.2.part == p) with
  | (s1, none) => (s1, none)
  | (s1, some p) =>
    (s1, (l.filter fun e => e.2.part == p).foldl (fun m e => match m with
      | none => some e
      | some b => if e.2.since < b.2.since then some e else some b) none)

/-- The picture of a context begins or goes on; its time counts from its first start, suspensions included (R267). -/
def State.smRun (s : State) (n c : Nat) (d : DecCtx) (p : Pic) : State :=
  let u := 16 + n
  let s2 := s.setArb u { s.arb u with chosen := none, work := some (d.part, p.start) }
  (s2.setSmelter n { s2.smelter n with pic := some (c, p) }).setFld (Reg.smStatus n) 9 0 c

/-- Why a picture cannot be decoded: the flags of R208, 0 when it can (R192, R195, R197) (DEDUCED, log entry 68). -/
def DecCtx.unfit (d : DecCtx) (i : PictureInfo) : Nat :=
  let m := codecMax d.codec
  let w := d.maxSize
  if supportedSeq d.codec i = false ∨ i.width < 16 ∨ i.height < 16 ∨ m.1 < i.width ∨ m.2 < i.height then 2 ^ 5
  else if w.1 < i.width ∨ w.2 < i.height ∨ 64 < frameSegs i d.pool then 2 ^ 6
  else 0

/-- The flags with which the present sequence is not decodable, 0 when it is. -/
def DecCtx.staleFlags (d : DecCtx) : Nat := d.seqBad.getD 0

/-- A new sequence is recorded once, when its first access unit is taken up (R195, R401) (DEDUCED, log entry 67). A bad one lasts until
another sequence is activated. -/
def State.smSequence (s : State) (c : Nat) (d : DecCtx) (i : PictureInfo) : State :=
  if d.asked.isSome then s
  else
    let s1 := if i.newSequence then s.sootEvent 0x2060 (BitVec.ofNat 64 c) (some d.part) else s
    if i.badHeader then s1
    else s1.updDec c fun d => { d with seqBad := some (if !i.newSequence && d.staleFlags != 0 then d.staleFlags else d.unfit i) }

/-- The held reference that stands closest in output order to a place (R207). -/
def nearestRef (fs : List DFrame) (order : Int) : Option DFrame :=
  (fs.filter (·.ref)).foldl (fun m f => match m with
    | none => some f
    | some b => if (f.order - order).natAbs < (b.order - order).natAbs then some f else some b) none

/-- The frame descriptor of one output: FRAME_SEQ, REPEAT and KEY, and the times of the access unit for a repeated one. -/
def outDescriptor (desc : List Byte) (seq : Nat) (rep key : Bool) (a : Au) : List Byte :=
  let d1 := overlay desc 0 (leBytes 4 seq)
  let d2 := overlay d1 29 (leBytes 1 (fieldAt desc 29 1 + boolNat rep * 4 + boolNat key * 2))
  if rep then overlay d2 16 (leBytes 8 a.time ++ leBytes 4 a.srcTs) else d2

/-- One output of a held frame (R199-R201): DISP clears, CHAIN counts it, and it goes to its stream's chain. A frame that has been put out
before is repeated (DEDUCED, log entry 71). -/
def State.frameOut (s : State) (n c : Nat) (a : Au) (frame : Nat) : State :=
  match s.dec? c with
  | none => s
  | some d =>
    match d.frames.find? fun f => f.id == frame with
    | none => s
    | some f =>
      let desc := outDescriptor f.desc d.nextSeq f.done f.key a
      let s1 := s.updDec c fun d =>
        { d with
          frames := d.frames.map fun g => if g.id = f.id then { g with disp := false, done := true, chain := g.chain + 1 } else g
          nextSeq := (d.nextSeq + 1) % 2 ^ 32
          lastOut := some f.id
          counts := countUp (countUp d.counts 0 1) 1 (boolNat f.taint)
          work := { d.work with outs := d.work.outs + 1, taint := d.work.taint || f.taint } }
      (s1.bump (Reg.smErr n) 31 16 (boolNat f.taint)).frameToChain d.part d.stream c f.id desc f.grain

/-- The frame to be output next: of those with DISP the first in output order. -/
def nextOut (fs : List DFrame) : Option DFrame :=
  (fs.filter (·.disp)).foldl (fun m f => match m with
    | none => some f
    | some b => if f.order < b.order then some f else some b) none

/-- Frames are put out in output order while more than `keep` wait, or one has waited for `lat` pictures; k bounds them (R201). -/
def State.outputWaiting (s : State) (n c : Nat) (a : Au) (keep : Nat) (lat : Option Nat) : Nat → State
  | 0 => s
  | k + 1 =>
    match s.dec? c with
    | none => s
    | some d =>
      let w := d.frames.filter (·.disp)
      let late := match lat with | some l => w.any fun f => decide (l ≤ f.waited) | none => false
      match nextOut d.frames with
      | none => s
      | some f => if keep < w.length ∨ late = true then (s.frameOut n c a f.id).outputWaiting n c a keep lat k else s

/-- AV1 frames that an access unit has shown are put out at its end: of several spatial layers the highest (R201). -/
def State.outputShown (s : State) (n c : Nat) (a : Au) : State :=
  match s.dec? c with
  | none => s
  | some d =>
    let fs := d.work.shown.filterMap fun id => d.frames.find? fun f => f.id == id
    let top := (fs.map (·.layer)).foldl max 0
    let s1 := (fs.filter fun f => f.layer == top).foldl (fun s f => s.frameOut n c a f.id) s
    s1.updDec c fun d => { d with frames := d.frames.map fun f => if d.work.shown.contains f.id then { f with disp := false } else f }

/-- The access unit at the front has been decoded: what it shows is put out, and after an unbinding everything that still waits (R188). -/
def State.auFinish (s : State) (n c : Nat) (a : Au) : State :=
  let s1 := s.outputShown n c a
  let s2 := match s1.dec? c with
    | some d => if d.unbound && decide (d.queue.length ≤ 1) then s1.outputWaiting n c a 0 none d.frames.length else s1
    | none => s1
  s2.auEnd c 0

/-- A show_existing_frame: the frame it names, or the nearest held reference, is put out again (R200, R207, R211). -/
def State.showExisting (s : State) (n c : Nat) (d : DecCtx) (a : Au) (i : PictureInfo) (frame : Nat) : State :=
  let held := d.frames.any fun f => f.id == frame
  let src := if held then some frame else (nearestRef d.frames i.order).map (·.id)
  let s1 := s.updDec c fun d =>
    { d with counts := countUp d.counts 5 (boolNat !held)
             work := { d.work with frames := d.work.frames + 1, flags := d.work.flags ||| boolNat (!held) * 8 } }
  let s2 := match src with
    | none => s1
    | some x => if d.codec = 2 then s1.updDec c fun d => { d with work := { d.work with shown := d.work.shown ++ [x] } } else s1.frameOut n c a x
  if i.ends || decide (7 ≤ d.work.frames) then s2.auFinish n c a else s2

/-- The next header of the picked context: its picture starts, a held frame is shown, the access unit is discarded, or the context waits
for a frame (DEDUCED, log entry 69). -/
def State.smAccess (s : State) (n c : Nat) (d : DecCtx) (a : Au) (i : PictureInfo) : State :=
  let first := decide (d.work.frames = 0)
  let dirty := a.gap || a.inc
  let s1 := if first then s.smSequence c d i else s
  let bad := match s1.dec? c with | some d => d.staleFlags | none => 0
  if first && d.conceal && dirty then (s1.updDec c fun d => { d with waitRap := true }).auDiscard n c bad true
  else if first && d.waitRap && (dirty || !isRap d.codec i || i.badHeader) then s1.auDiscard n c bad true
  else if i.badHeader then
    (if bad ≠ 0 then s1.auDiscard n c bad true
     else (s1.updDec c fun d => { d with waitRap := d.waitRap || d.conceal }).auDiscard n c 2 d.conceal)
  else if bad ≠ 0 ∨ d.unfit i ≠ 0 then s1.auDiscard n c (if bad ≠ 0 then bad else d.unfit i) true
  else
    match i.existing with
    | some x => s1.showExisting n c d a i x
    | none =>
      let k := frameSegs i d.pool
      match s1.frameBuffers c d k with
      | none =>
        let pl := d.asked.getD s1.nextWait
        { s1.updDec c fun d => { d with waitFb := some pl, asked := some pl, askedSegs := k, granted := false } with
          nextWait := s1.nextWait + boolNat d.asked.isNone }
      | some (s2, segs) =>
        let starts := !d.started || (d.waitRap && first)
        let noRasl := if i.kind = .bla ∨ (i.kind = .cra ∧ starts = true) then true
          else if i.kind = .idr ∨ i.kind = .cra then false else d.noRasl
        let fr : DFrame := { id := d.nextFrame, segs := segs, ref := false, disp := false, chain := 0, taint := false, desc := [], grain := [],
                             order := i.order, layer := i.layer, key := isRap d.codec i }
        let s3 := s2.updDec c fun d =>
          { d with frames := d.frames ++ [fr], nextFrame := d.nextFrame + 1, granted := false, asked := none, waitRap := d.waitRap && !first,
                   started := true, noRasl := noRasl }
        s3.smRun n c d { info := i, frame := d.nextFrame, start := s3.nowNs, starts := starts }

/-- PICTURE_START: at a picture boundary the Smelter picks a context (R203); its buffer's handle is checked (R205, R279) (DEDUCED, log entry 70). -/
def State.pictureStart (s : State) (n : Nat) (i : PictureInfo) : State :=
  if s.domOn (smDom n) && s.flag (Reg.smCtrl n) 0 && !s.flag (Reg.smStatus n) 31 && (s.smelter n).pic.isNone then
    match s.smPick n with
    | (s1, none) => s1
    | (s1, some (c, d)) =>
      match d.susp with
      | some p => (s1.updDec c fun d => { d with susp := none }).smRun n c d p
      | none =>
        match d.queue with
        | [] => s1
        | a :: _ =>
          let u := s1.useHandle d.part a.handle 0 a.len
          match u.2 with
          | .fail _ => u.1.auDiscard n c 0 false
          | .pass _ _ => u.1.smAccess n c d a i
  else s

def execPictureStart (n : SmIx) (info : PictureInfo) (s : State) : Host.Outcome State Fault Refusal := .next (s.pictureStart n info)

/-! ### The frame descriptor and film grain (R200, R202) -/

/-- Bits as bytes, most significant first, padded with 0; n bounds the bytes. -/
def packMsb : Nat → List Bool → List Byte
  | 0, _ => []
  | n + 1, l =>
    if l.isEmpty then [] else BitVec.ofNat 8 (((l ++ List.replicate 8 false).take 8).foldl (fun v b => 2 * v + boolNat b) 0) :: packMsb n (l.drop 8)

/-- Points of a scaling function. -/
def grainPoints (l : List (Byte × Byte)) : List Bool := bitsMsb 4 l.length ++ (l.map fun x => bitsMsb 8 x.1.toNat ++ bitsMsb 8 x.2.toNat).flatten

/-- Multipliers and offset of a chroma component. -/
def grainMult (m : Byte × Byte × BitVec 9) : List Bool := bitsMsb 8 m.1.toNat ++ bitsMsb 8 m.2.1.toNat ++ bitsMsb 9 m.2.2.toNat

/-- The film grain parameters as the film_grain_params() syntax with update_grain = 1, from apply_grain on (R202; AV1 bitstream
specification 5.9.30, 4:2:0 or monochrome) (PRESUMED, log entry 167). -/
def grainBits (mono : Bool) (g : FilmGrain) : List Bool :=
  let none_ := mono || g.chromaFromLuma || g.pointsY.isEmpty
  let pcb := if none_ then [] else g.pointsCb
  let pcr := if none_ then [] else g.pointsCr
  let lag := g.arLag.toNat
  let nl := 2 * lag * (lag + 1)
  let nc := if g.pointsY.isEmpty then nl else nl + 1
  let coeffs := fun (n : Nat) (l : List Byte) => ((List.range n).map fun k => bitsMsb 8 (listAt 0 l k).toNat).flatten
  true :: bitsMsb 16 g.seed.toNat ++ (if g.inter then [true] else []) ++ grainPoints g.pointsY ++ (if mono then [] else [g.chromaFromLuma]) ++
  (if none_ then [] else grainPoints pcb ++ grainPoints pcr) ++ bitsMsb 2 g.scalingMinus8.toNat ++ bitsMsb 2 lag ++
  (if g.pointsY.isEmpty then [] else coeffs nl g.arY) ++
  (if g.chromaFromLuma || !pcb.isEmpty then coeffs nc g.arCb else []) ++ (if g.chromaFromLuma || !pcr.isEmpty then coeffs nc g.arCr else []) ++
  bitsMsb 2 g.arShiftMinus6.toNat ++ bitsMsb 2 g.scaleShift.toNat ++ (if pcb.isEmpty then [] else grainMult g.cb) ++
  (if pcr.isEmpty then [] else grainMult g.cr) ++ [g.overlap, g.clip]

/-- The grain record of a frame: AV1 with apply_grain = 1, else none (R202). -/
def grainBytes (codec : Nat) (mono : Bool) (g : Option FilmGrain) : List Byte :=
  match g with
  | some g => if codec = 2 ∧ g.applyGrain = true then packMsb 256 (grainBits mono g) else []
  | none => []

/-- The frame descriptor's fields that do not change between outputs, with the handles (R200). -/
def frameDescriptor (d : DecCtx) (a : Au) (i : PictureInfo) (r : PictureResult) (grain : List Byte) (segs : List Nat) (taint : Bool) : List Byte :=
  let f := frameSpace i
  let depth := if i.tenBit then 10 else 8
  leBytes 4 0 ++ leBytes 2 i.width ++ leBytes 2 i.height ++ leBytes 4 f.pitch ++ leBytes 4 f.chroma ++ leBytes 8 a.time ++
  leBytes 4 a.srcTs ++ leBytes 1 (depth * 16 + boolNat i.tenBit) ++
  leBytes 1 (boolNat (i.chroma == .mono) * 32 + boolNat (i.chroma == .c422 || i.chroma == .c444) * 16 + boolNat (!grain.isEmpty) * 8 + boolNat taint) ++
  [r.prim, r.transfer, r.matrix] ++ leBytes 1 (boolNat r.fullRange) ++ leBytes 2 grain.length ++ leBytes 2 segs.length ++
  leBytes 2 d.stream ++ leBytes 4 f.grain ++ leBytes 4 (poolSize d.pool) ++ List.replicate 16 0 ++ (segs.map fun h => leBytes 8 h).flatten

/-! ### Parity faults (R209) -/

/-- Quarantine of a Smelter: its domain is off and its contexts need another home. -/
def State.quarantineSmelter (s : State) (n : Nat) : State :=
  if s.flag (Reg.smStatus n) 31 then s
  else
    let s1 := (s.setFlag (Reg.smStatus n) 31 true).setDom (smDom n) 0
    let s2 : State := { s1 with decs := s1.decs.map fun e => if e.2.home = n then (e.1, { e.2 with rehome := true }) else e }
    s2.sootEvent 0x2012 (BitVec.ofNat 64 n) none

/-- A parity error during a picture of a context: SM_FAULT, an event, and at four within 1 s the quarantine (DEDUCED, log entry 77). -/
def State.smParity (s : State) (n c kind : Nat) : State :=
  let s1 := if s.flag (Reg.smFault n) 31 then s else s.setFld (Reg.smFault n) 31 8 (2 ^ 23 + 2 ^ 20 * kind + c)
  let s2 := (s1.bump (Reg.smFault n) 7 0 1).sootEvent 0x2011 (BitVec.ofNat 64 (2 ^ 28 * kind + c * 2 ^ 8)) none
  let m := s2.smelter n
  let l := s2.recentErrors m.errors
  let s3 := s2.setSmelter n { m with errors := l }
  if 4 ≤ l.length then s3.quarantineSmelter n else s3

/-! ### Damage and concealment (R206, R207) -/

/-- BIN_CAP of an access unit whose frames have n output luma samples (R206). -/
def binCap (len n : Nat) : Nat := 32 * len / 3 + 2 * n

/-- Areas with the bins of the access unit up to the end of each. -/
def binsUpTo : Nat → List PicArea → List (PicArea × Nat)
  | _, [] => []
  | b, x :: t => (x, b + x.bins) :: binsUpTo (b + x.bins) t

/-- What damage an access unit's picture has: the areas decoded in full, and the bits of R208. -/
structure Damage where
  good : List PicArea
  flags : Nat

/-- An area covers a luma sample. -/
def areaHas (a : PicArea) (x y : Nat) : Bool :=
  decide (a.x ≤ x) && decide (x < a.x + a.w) && decide (a.y ≤ y) && decide (y < a.y + a.h)

/-- Some sample of a picture is covered by no area. -/
def uncovered (i : PictureInfo) (l : List PicArea) : Bool :=
  (List.range i.height).any fun y => (List.range i.width).any fun x => !l.any fun a => areaHas a x y

/-- The damage of a picture: an area that ends early or breaks syntax, what comes after BIN_CAP or a parity error, what no area covers, a
reference that is not held, and a parameter set that never came (R206, R207, R209). -/
def pictureDamage (d : DecCtx) (a : Au) (i : PictureInfo) (r : PictureResult) : Damage :=
  let cap := binCap a.len (d.work.samples + i.width * i.height)
  let l := binsUpTo d.work.bins r.areas
  let before := fun (k : Nat) => match r.parity with | some (_, m) => decide (k < m) | none => true
  let good := if i.noParams then [] else (l.zipIdx.filter fun x => x.1.1.state == .good && decide (x.1.2 < cap) && before x.2).map (·.1.1)
  let capped := l.any fun x => decide (cap ≤ x.2)
  let syn := i.noParams || r.areas.any fun x => x.state == .broken
  let trunc := !i.noParams && ((r.areas.any fun x => x.state == .cut) || uncovered i r.areas)
  let missing := r.refs.any fun x => !d.frames.any fun f => f.id == x.frame && f.ref
  ⟨good, boolNat syn * 2 + boolNat trunc * 4 + boolNat missing * 8 + boolNat capped * 16⟩

/-- A reference of a picture is tainted: the frame itself, or the one that stands in for it (R207). -/
def refTainted (d : DecCtx) (r : PictureResult) : Bool :=
  r.refs.any fun x =>
    match d.frames.find? fun f => f.id == x.frame && f.ref with
    | some f => f.taint
    | none => true

/-- The concealment source of a context: the frame put out last, while it is held as a reference (R205, R207), but grey for JPEG
(DEDUCED, log entry 168). -/
def DecCtx.source (d : DecCtx) : Option DFrame :=
  if d.codec = 4 then none else d.lastOut.bind fun id => d.frames.find? fun f => f.id == id && f.ref

/-- A sample of the concealment source, co-located; grey without a source, beyond it, or at another depth. comp is 0 for luma, 1 and 2 for
Cb and Cr. -/
def State.sourceSample (s : State) (p : Nat) (src : Option DFrame) (i : PictureInfo) (comp x y : Nat) : Nat :=
  let grey := if i.tenBit then 512 else 128
  match src with
  | none => grey
  | some f =>
    let k := if comp = 0 then 1 else 2
    if fdDepth f.desc ≠ (if i.tenBit then 10 else 8) ∨ (fdWidth f.desc + k - 1) / k ≤ x ∨ (fdHeight f.desc + k - 1) / k ≤ y then grey
    else
      match (if comp = 0 then s.luma p f.desc x y else s.chroma p f.desc (comp - 1) x y) with
      | .ok v => v
      | .error _ => grey

/-! ### The output layout (R196) -/

/-- The mean of a group of chroma samples, (sum + n / 2) / n. -/
def chromaMean (l : List Nat) : Nat := if l.isEmpty then 0 else (l.sum + l.length / 2) / l.length

/-- The 4:2:0 chroma sample at an output place from the samples of a component (R196). A group at an odd edge has the samples that exist. -/
def chromaSample (i : PictureInfo) (l : List Nat) (x y : Nat) : Nat :=
  match i.chroma with
  | .mono => if i.tenBit then 512 else 128
  | .c420 => listAt 0 l ((i.cropT / 2 + y) * ((i.codedW + 1) / 2) + i.cropL / 2 + x)
  | .c422 =>
    chromaMean ((List.range 2).filterMap fun v =>
      if 2 * y + v < i.height then some (listAt 0 l ((i.cropT + 2 * y + v) * ((i.codedW + 1) / 2) + i.cropL / 2 + x)) else none)
  | .c444 =>
    chromaMean ((List.range 4).filterMap fun k =>
      if 2 * y + k / 2 < i.height ∧ 2 * x + k % 2 < i.width then
        some (listAt 0 l ((i.cropT + 2 * y + k / 2) * i.codedW + i.cropL + 2 * x + k % 2)) else none)

/-- A stored sample: a byte, or a word with the value in bits [15:6]. -/
def sampleBytes (tenBit : Bool) (v : Nat) : List Byte := if tenBit then leBytes 2 (v % 1024 * 64) else leBytes 1 (v % 256)

/-- A luma row of the frame as it is stored. -/
def State.lumaRow (s : State) (d : DecCtx) (i : PictureInfo) (r : PictureResult) (g : List PicArea) (y : Nat) : List Byte :=
  ((List.range i.width).map fun x => sampleBytes i.tenBit
    (if g.any fun a => areaHas a x y then listAt 0 r.luma ((i.cropT + y) * i.codedW + i.cropL + x) else s.sourceSample d.part d.source i 0 x y)).flatten

/-- A CbCr row of the frame as it is stored. -/
def State.chromaRow (s : State) (d : DecCtx) (i : PictureInfo) (r : PictureResult) (g : List PicArea) (y : Nat) : List Byte :=
  ((List.range ((i.width + 1) / 2)).map fun x =>
    if g.any fun a => areaHas a (2 * x) (2 * y) then sampleBytes i.tenBit (chromaSample i r.cb x y) ++ sampleBytes i.tenBit (chromaSample i r.cr x y)
    else sampleBytes i.tenBit (s.sourceSample d.part d.source i 1 x y) ++ sampleBytes i.tenBit (s.sourceSample d.part d.source i 2 x y)).flatten

/-- The picture's rows, motion field and grain record in its frame space. -/
def State.writeFrame (s : State) (d : DecCtx) (i : PictureInfo) (r : PictureResult) (g : List PicArea) (grain : List Byte) (segs : List Nat) : State :=
  let f := frameSpace i
  let sz := poolSize d.pool
  let s1 := (List.range i.height).foldl (fun t y => t.writeSegs d.part segs sz (y * f.pitch) (s.lumaRow d i r g y)) s
  let s2 := (List.range ((i.height + 1) / 2)).foldl (fun t y => t.writeSegs d.part segs sz (f.chroma + y * f.pitch) (s.chromaRow d i r g y)) s1
  let s3 := s2.writeSegs d.part segs sz f.motion (r.motion.take f.motionLen)
  if grain.isEmpty then s3 else s3.writeSegs d.part segs sz f.grain grain

/-! ### The end of a picture (R193, R199, R201, R204, R208) -/

/-- The frame is one that the codec puts out (R201). -/
def DecCtx.putsOut (d : DecCtx) (i : PictureInfo) : Bool := i.shown && !(i.kind == .rasl && d.noRasl) && (d.codec != 2 || i.opPoint0)

/-- The codec puts its frames out as they are decoded: AV1, VP9 and JPEG. -/
def DecCtx.direct (d : DecCtx) : Bool := decide (2 ≤ d.codec)

/-- The marks of a finished frame, and of the frames that the codec drops (R199). DISP lasts until the output, if there is to be one. -/
def finishMarks (frame : Nat) (r : PictureResult) (keep out taint : Bool) (desc grain : List Byte) (fs : List DFrame) : List DFrame :=
  fs.map fun f =>
    if f.id = frame then { f with ref := keep && r.isRef, disp := keep && out, taint := taint, desc := desc, grain := grain }
    else { f with ref := f.ref && !r.dropRefs.contains f.id, waited := f.waited + 1 }

/-- Frames of earlier pictures leave before a picture that starts a sequence anew: they are put out, or dropped (R201). -/
def State.outputPrior (s : State) (n c : Nat) (a : Au) (p : Pic) : State :=
  match s.dec? c with
  | none => s
  | some d =>
    if d.direct || !(p.info.kind == .idr || p.info.kind == .bla || (p.info.kind == .cra && p.starts)) then s
    else if p.info.noPriorOut then s.updDec c fun d => { d with frames := d.frames.map fun f => { f with disp := false } }
    else s.outputWaiting n c a 0 none d.frames.length

/-- The frame of a picture that has ended goes to the output process (R201). -/
def State.outputFrame (s : State) (n c : Nat) (a : Au) (p : Pic) : State :=
  match s.dec? c with
  | none => s
  | some d =>
    match d.frames.find? fun f => f.id == p.frame && f.disp with
    | none => if d.direct then s else s.outputWaiting n c a p.info.reorder p.info.latency d.frames.length
    | some _ =>
      if d.codec = 2 then s.updDec c fun d => { d with work := { d.work with shown := d.work.shown ++ [p.frame] } }
      else if d.direct then s.frameOut n c a p.frame
      else s.outputWaiting n c a p.info.reorder p.info.latency d.frames.length

/-- The steps of a finished picture are those of its partition and of its class (R203, R270); those that it ran before the present window
began are none of that window's (DESIGN CHOICE, log entry 75). -/
def State.smSteps (s : State) (n : Nat) (d : DecCtx) (steps : Nat) : State :=
  let m := s.smelter n
  let ran := min steps (if d.live then m.allRan - m.recRan else m.recRan)
  let rec_ := fun (x : Nat) => if d.live then 0 else x
  (s.arbEnd (16 + n) steps).setSmelter n
    { m with
      pic := none, allSteps := m.allSteps + (steps - ran), recSteps := m.recSteps + rec_ (steps - ran)
      allRan := m.allRan - ran, recRan := m.recRan - rec_ ran }

/-- The picture of a context ends. With CONCEAL = 1 a decode error discards the access unit (R204). A ninth frame header is a syntax error
(R206). -/
def State.smFinish (s : State) (n c : Nat) (p : Pic) (d : DecCtx) (a : Au) (r : PictureResult) : State :=
  let extra := !r.last && decide (7 ≤ d.work.frames)
  let dm := pictureDamage d a p.info r
  let fl := dm.flags ||| boolNat extra * 2
  let bad := d.conceal && decide (fl ≠ 0)
  let taint := decide (dm.flags ≠ 0) || refTainted d r || r.parity.isSome
  let segs := match d.frames.find? fun f => f.id == p.frame with | some f => f.segs | none => []
  let grain := grainBytes d.codec (p.info.chroma == .mono) r.grain
  let desc := frameDescriptor d a p.info r grain segs taint
  let bins := (r.areas.map (·.bins)).sum
  let s0 := (s.writeFrame d p.info r dm.good grain segs).outputPrior n c a p
  let s1 := s0.updDec c fun d =>
    { d with
      frames := finishMarks p.frame r (!bad) (d.putsOut p.info) taint desc grain d.frames
      work := { d.work with frames := d.work.frames + 1, flags := d.work.flags ||| fl, bins := d.work.bins + bins,
                            samples := d.work.samples + p.info.width * p.info.height }
      waitRap := d.waitRap || bad
      counts := countUp (countUp (countUp (countUp d.counts 3 (boolNat (fl.testBit 1))) 4 (boolNat (fl.testBit 2))) 5
        (boolNat (fl.testBit 3))) 6 (boolNat (fl.testBit 4)) }
  let s2 := (if bad then s1 else s1.outputFrame n c a p).smSteps n d (pictureSteps d.codec p.info bins r.codedBits p.suspends)
  let s3 := if bad then s2.auDiscard n c 0 true else if r.last || extra then s2.auFinish n c a else s2
  match r.parity with
  | none => s3
  | some (k, _) => s3.smParity n c k

/-- Key of a picture at the Shades. -/
def picKey (c : Nat) : Nat := 2 ^ 59 + c

/-- PICTURE_COMPLETE: the picture waits until the partition's Shade lets its bytes pass (R271, R275), then ends (DEDUCED, log entry 72). -/
def State.pictureComplete (s : State) (n : Nat) (r : PictureResult) : State :=
  match (s.smelter n).pic with
  | none => s
  | some (c, p) =>
    match s.dec? c with
    | none => s
    | some d =>
      match d.queue with
      | [] => s
      | a :: _ =>
        let f := frameSpace p.info
        let da := match d.frames.find? fun x => x.id == p.frame with
          | some x => (match x.segs with | [] => 0 | h :: _ => s.bufDa (natBits h 54 52) (natBits h 47 24))
          | none => 0
        match s.shadeAskAll d.part (picKey c) (s.chargePath da (if d.live then 0 else 2) (f.planes + f.motionLen)) with
        | (s1, false) => s1
        | (s1, true) => s1.smFinish n c p d a r

def execPictureComplete (n : SmIx) (r : PictureResult) (s : State) : Host.Outcome State Fault Refusal := .next (s.pictureComplete n r)

/-! ### Release (R199) -/

/-- A frame of a context is being decoded. -/
def State.framePending (s : State) (c frame : Nat) (d : DecCtx) : Bool :=
  (match d.susp with | some p => p.frame == frame | none => false) ||
  (match (s.smelter d.home).pic with | some (c', p) => c' == c && p.frame == frame | none => false)

/-- FRAME_RELEASE: REF, DISP and CHAIN are clear and the segments are freed. An unbound context whose queue is empty holds no
references (R211). -/
def State.frameRelease (s : State) (c frame : Nat) : State :=
  match s.dec? c with
  | none => s
  | some d =>
    match d.frames.find? fun f => f.id == frame with
    | none => s
    | some f =>
      let held := f.disp || (f.ref && !(d.unbound && d.queue.isEmpty))
      if held = true ∨ f.chain ≠ 0 ∨ s.framePending c frame d = true then s
      else (f.segs.foldl (fun s h => s.unitFree d.part h) s).updDec c fun d => { d with frames := d.frames.filter fun g => g.id != frame }

def execFrameRelease (c : StreamIx) (frame : Nat) (s : State) : Host.Outcome State Fault Refusal := .next (s.frameRelease c frame)

/-! ### RECORDED pictures (R203) -/

/-- RECORDED_SUSPEND: a LIVE context is runnable, and the RECORDED picture in progress is suspended. -/
def State.recordedSuspend (s : State) (n : Nat) : State :=
  match (s.smelter n).pic with
  | none => s
  | some (c, p) =>
    match s.dec? c with
    | none => s
    | some d =>
      if d.live = true ∨ (s.smReady n true).isEmpty = true ∨ s.smOwed n = true then s
      else
        let s1 := s.updDec c fun d => { d with susp := some { p with suspends := p.suspends + 1 }, counts := countUp d.counts 9 1 }
        (s1.setSmelter n { s1.smelter n with pic := none }).setArb (16 + n) { s1.arb (16 + n) with work := none }

def execRecordedSuspend (n : SmIx) (s : State) : Host.Outcome State Fault Refusal := .next (s.recordedSuspend n)

/-- REC_MIN_WINDOW: a 10 ms window begins, with the REC_MIN that SM_CTRL holds now (R203, R210). Of the pictures not yet finished, the
RECORDED ones have run recRan steps by now and all of them allRan (DESIGN CHOICE, log entry 75). -/
def execRecMinWindow (n : SmIx) (recRan allRan : Nat) (s : State) : Host.Outcome State Fault Refusal :=
  .next (s.setSmelter n { s.smelter n with
    recSteps := 0, allSteps := 0, recMin := min 50 (s.fld (Reg.smCtrl n) 13 8), recRan := recRan, allRan := allRan })

/-! ### Re-homing and re-admission (R97, R194, R209, R253) -/

/-- The access unit that a context has begun ends where it stands (R209). -/
def State.auCut (s : State) (n c : Nat) : State :=
  match s.dec? c with
  | none => s
  | some d => if d.susp.isNone && d.work.frames == 0 then s else if d.work.outs = 0 then s.auDiscard n c 0 false else s.auEnd c 0

/-- A context that restarts: it waits for a random access point, its references are gone, and its parameter sets are due (R209). -/
def restartCtx (d : DecCtx) : DecCtx :=
  { d with waitRap := true, started := false, paramDue := true, frames := d.frames.map fun f => { f with ref := false, disp := false } }

/-- CONTEXT_REHOME: at a picture boundary a context that must leave its Smelter moves to another. From a quarantined one it goes on at its
next access unit, or restarts as if CONCEAL = 1 when its state does not read back (R209); a PART_SWAP takes a suspended picture along
(R211). -/
def State.contextRehome (s : State) (c : Nat) (stateOk : Bool) : State :=
  match s.dec? c with
  | none => s
  | some d =>
    let running := match (s.smelter d.home).pic with | some (c', _) => c' == c | none => false
    if d.rehome = false ∨ running = true then s
    else
      match s.smHome (s.limit d.part 6 2 % 4096) d.hint with
      | none => s
      | some h =>
        let quar := s.flag (Reg.smStatus d.home) 31
        let s1 := s.powerUp (smDom h)
        let s2 := if quar then (s1.auCut d.home c).updDec c fun d => { d with susp := none } else s1
        s2.updDec c fun d => { (if quar && !stateOk then restartCtx d else d) with home := h, rehome := false }

def execContextRehome (c : StreamIx) (stateOk : Bool) (s : State) : Host.Outcome State Fault Refusal := .next (s.contextRehome c stateOk)

/-- SMELTER_READMIT: a quarantined Smelter that passes its self-test serves again, with a new epoch; one that fails it stays out until
power-on reset (R97, R209). -/
def State.smelterReadmit (s : State) (n : Nat) (ok : Bool) : State :=
  if s.flag (Reg.smStatus n) 31 then
    match s.selfTest (64 + n) ok with
    | (s1, false) => s1
    | (s1, true) =>
      (((s1.setFlag (Reg.smStatus n) 31 false).setSmelter n Smelter.reset).powerUp (smDom n)).sootEvent 0x2012 (BitVec.ofNat 64 n) none
  else s

def execSmelterReadmit (n : SmIx) (selfTestOk : Bool) (s : State) : Host.Outcome State Fault Refusal := .next (s.smelterReadmit n selfTestOk)

/-! ### Counters (R210, R211) -/

/-- SM_CSTAT and the counters of a context as a Smelter latches them. -/
def State.smLatch (s : State) (n c : Nat) : Word × List Nat :=
  match s.dec? c with
  | none => (0, [])
  | some d =>
    if d.home = n then
      (BitVec.ofNat 32 (2 ^ 31 + 2 ^ 30 * boolNat d.live + 2 ^ 29 * boolNat d.waitRap + 2 ^ 28 * boolNat d.waitFb.isSome + 2 ^ 22 * d.part +
        d.home * 2 ^ 18 + 2 ^ 15 * d.codec + min 64 d.queue.length * 2 ^ 7 + min 64 d.frames.length), d.counts)
    else (BitVec.ofNat 32 (2 ^ 18 * d.home), [])

/-- SM_CSEL written: SNAP latches the context it names. -/
def State.smCselWrite (s : State) (n : Nat) (v : Word) : State :=
  let s1 := s.setReg (Reg.smCsel n) (v &&& 0x3FF)
  if bitOf v 31 then
    let l := s.smLatch n (bitsOf v 9 0)
    (List.range 10).foldl (fun s k => s.setReg (Reg.smCcnt n k) (BitVec.ofNat 32 (listAt 0 l.2 k))) (s1.setReg (Reg.smCstat n) l.1)
  else s1

/-- SM_CSEL_SNAP: a write of SM_CSEL with SNAP set. -/
def execSmCselSnap (n : SmIx) (v : Word) (s : State) : Host.Outcome State Fault Refusal := .next (s.pfReach (Reg.smCsel n) (s.smCselWrite n (v ||| 0x80000000)))

end Sys2Proof.Machine
end

