-- ==== Sys2Proof/Machine/Gang.lean ====
section
/-!
DEFINITION. Gangs and their members, model images, residency, and the engines' part of aborting commands (R123, R132, R133, R246,
R248, R255, R256, R263-R266).
-/

namespace Sys2Proof.Machine

/-! ### Gang entries (R255, R256) -/

/-- The 32 bytes of a gang entry in a table. -/
def gangEntry (t : WordTab) (e : Nat) : List Byte := wordsBytes ((List.range 8).map fun w => tableWord t 2 (8 * e + w))

def gangKind (b : List Byte) : Nat := natBits (fieldAt b 0 1) 1 0
def gangReformBit (b : List Byte) : Bool := (fieldAt b 0 1).testBit 2
def gangResLoad (b : List Byte) : Bool := (fieldAt b 0 1).testBit 3
def gangModel (b : List Byte) : Nat := fieldAt b 10 2
def gangImage (b : List Byte) : Nat := fieldAt b 16 8

/-- A child: a Lantern named directly, or a gang entry. -/
inductive Child
  | lantern (n : Nat)
  | entry (e : Nat)
deriving DecidableEq, Repr

/-- The child of a byte. -/
def childOf (v : Nat) : Child := if v.testBit 7 then .lantern (natBits v 3 0) else .entry (natBits v 5 0)

/-- The children of an entry; a LANTERN entry has one. -/
def gangChildren (b : List Byte) : List Child :=
  let n := if gangKind b = 1 then 1 else min 8 (natBits (fieldAt b 1 1) 3 0)
  (List.range n).map fun i => childOf (fieldAt b (2 + i) 1)

/-- The lists of a list of options joined, none when one is none. -/
def joinAll : List (Option (List Nat)) → Option (List Nat)
  | [] => some []
  | none :: _ => none
  | some l :: t => (joinAll t).map fun r => l ++ r

/-- Leaf Lanterns of an entry, depth first, with n levels of GANG permitted; none for an entry that breaks a rule of R255. -/
def gangLeaves (t : WordTab) : Nat → Nat → Option (List Nat)
  | 0, e =>
    let b := gangEntry t e
    if gangKind b = 1 then
      (match gangChildren b with | [.lantern n] => some [n] | _ => none)
    else none
  | n + 1, e =>
    let b := gangEntry t e
    if gangKind b = 1 then
      (match gangChildren b with | [.lantern n] => some [n] | _ => none)
    else if gangKind b = 2 then
      joinAll ((gangChildren b).map fun c => match c with | .lantern n => some [n] | .entry e => gangLeaves t n e)
    else none

/-- Members of a LANTERN or GANG entry in a table; no member makes it invalid (R257). -/
def gangMembers (t : WordTab) (e : Nat) : List Nat := (gangLeaves t 4 e).getD []

/-- Members of a child. -/
def childMembers (t : WordTab) : Child → List Nat
  | .lantern n => [n]
  | .entry e => gangMembers t e

/-- Key of a child's residency record: its entry, or 64 and the Lantern that it names directly (DEDUCED, log entry 78). -/
def childKey : Child → Nat
  | .lantern n => 64 + n
  | .entry e => e

/-! ### Tables other than the active ones (R42, R258) -/

/-- Translation under a given window table into backed memory. -/
def State.translateIn (s : State) (t : WordTab) (pda len : Nat) (need : Perm) : Option Nat :=
  match winTranslate t pda len need with
  | none => none
  | some da => if s.rangeBacked da len then some da else none

/-- Quota of a Lantern in a given table: index, first DA and length. -/
def quotaIn (t : WordTab) (n : Nat) : Option (Nat × Nat × Nat) :=
  let w := tableWord t 1 n
  if tabValid t && bitOf w 31 then some (bitsOf w 17 16, ingotBase + mib8 * n + mib2 * bitsOf w 5 4, mib2 * bitsOf w 2 0) else none

/-! ### Residency (R263, R265) -/

/-- No record. -/
def Residency.none : Residency := ⟨Option.none, [], false⟩

def State.residency (s : State) (p e : Nat) : Residency := sparseGet Residency.none (s.part p).residency e
def State.updResidency (s : State) (p e : Nat) (f : Residency → Residency) : State :=
  let x := s.part p
  s.setPart p { x with residency := sparseSet Residency.none x.residency e (f (s.residency p e)) }

/-- The epochs of a tag are the present ones, and no bank with a section of it was quarantined (R265, R402). -/
def State.freshTag (s : State) (t : ResTag) : Bool :=
  !t.lost && t.epochs.all fun x => s.epoch (lnDom x.1) == x.2.1 && s.epoch (ingotDom x.1) == x.2.2

/-- A member that cannot run: quarantined, or its logic domain off or parked (R96, R383). -/
def State.lanternOut (s : State) (n : Nat) : Bool := s.flag (Reg.lnStatus n) 31 || !s.domOn (lnDom n)

/-- The checks of a gang that a RUN is to start on: its members, or the status (R256, R265, R383) (DEDUCED, log entry 82). -/
def State.gangCheck (s : State) (p key : Nat) (members : List Nat) : Except Status (List Nat) :=
  if members.isEmpty then .error .bounds
  else if members.any fun n => s.lanternOut n then .error .isolated
  else
    let r := s.residency p key
    if r.loadPending then .error .staleEpoch
    else
      match r.resident with
      | some t => if s.freshTag t then .ok members else .error .staleEpoch
      | none => .ok members

/-! ### Model images (R132, R248) -/

/-- A section to be placed: kind, source DA, length, and its targets with the Lantern of each. -/
structure Section where
  kind : Nat
  src : Nat
  len : Nat
  dsts : List (Nat × Nat)
deriving DecidableEq, Repr

/-- A status that reading a range meets, with the DA of a word in error. -/
def State.readStatus (s : State) (da n : Nat) : Status × Option Nat :=
  if n = 0 then (.ok, none)
  else
    match s.rangeStatus da n with
    | .ok => (match s.firstPoison da n with | some x => (.unitFault, some x) | none => (.ok, none))
    | e => (e, none)

/-- One section record planned: its targets, or the status with the faulting PDA. -/
def State.planSection (s : State) (t : WordTab) (members : List Nat) (image : Nat) (r : List Byte) : Res Section :=
  let kind := natBits (fieldAt r 0 1) 1 0
  let len := fieldAt r 4 4
  let src := fieldAt r 8 8
  let dst := fieldAt r 16 8
  if len % 8 ≠ 0 ∨ src % 8 ≠ 0 ∨ dst % 8 ≠ 0 then .error (.align, some (if dst % 8 ≠ 0 then dst else image + src))
  else
    match s.translateIn t image (src + max 1 len) .rd with
    | none => .error (.bounds, some image)
    | some base =>
      if kind = 3 then
        match s.translateIn t dst (max 1 len) .wr with
        | none => .error (.bounds, some dst)
        | some da => .ok ⟨3, base + src, len, [(16, da)]⟩
      else
        let ds := (if kind = 2 then members.take 1 else members).map fun n => match quotaIn t n with
          | some (_, da, q) => if dst + len ≤ q then some (n, da + dst) else none
          | none => none
        if ds.all (·.isSome) then .ok ⟨kind, base + src, len, ds.filterMap id⟩ else .error (.bounds, some dst)

/-- The sections of an image up to the first that fails; a SWAPPED load has its programs only (DESIGN CHOICE, log entry 79). -/
def State.planSections (s : State) (t : WordTab) (members : List Nat) (image : Nat) (swapped : Bool) : List (List Byte) →
    List Section × Status × Option Nat
  | [] => ([], .ok, none)
  | r :: rest =>
    if swapped && decide (natBits (fieldAt r 0 1) 1 0 ≠ 0) then s.planSections t members image swapped rest
    else
      match s.planSection t members image r with
      | .error e => ([], e)
      | .ok x => match s.planSections t members image swapped rest with | (l, e) => (x :: l, e)

/-- An image read under a table: the sections planned and the status of the first check that fails, with its address (R53, R248). -/
def State.planImage (s : State) (t : WordTab) (members : List Nat) (image : Nat) (swapped : Bool) : List Section × Status × Option Nat :=
  if image % 64 ≠ 0 then ([], .align, some image)
  else
    match s.translateIn t image 32 .rd with
    | none => ([], .bounds, some image)
    | some da =>
      match s.readStatus da 32 with
      | (.ok, _) =>
        let h := s.readMem da 32
        let n := fieldAt h 4 2
        if fieldAt h 0 2 ≠ 0x4D49 ∨ fieldAt h 2 1 ≠ 1 then ([], .badVersion, none)
        else if n = 0 ∨ 256 < n then ([], .badOpcode, none)
        else
          match s.translateIn t image (32 + 32 * n) .rd with
          | none => ([], .bounds, some image)
          | some db =>
            match s.readStatus db (32 + 32 * n) with
            | (.ok, _) =>
              let recs := s.readMem (db + 32) (32 * n)
              s.planSections t members image swapped (chunks 32 n recs)
            | (e, x) => ([], e, x)
      | (e, x) => ([], e, x)

/-- The epochs stamped into every descriptor with EPC = 1 of a program, walked from its start by LEN32; n bounds the walk. -/
def stampEpochs (el ei : Byte) : Nat → List Byte → List Byte
  | 0, bs => bs
  | n + 1, bs =>
    if bs.length < 8 then bs
    else
      let k := 32 * max 1 (natBits (fieldAt bs 1 1) 3 0)
      let d := bs.take k
      let d1 := if (fieldAt d 2 1).testBit 5 then overlay d 4 [el, ei] else d
      d1 ++ stampEpochs el ei n (bs.drop k)

/-- A section placed at its targets; the status that stops it. -/
def State.placeSection (s : State) (x : Section) : State × Status :=
  match s.readStatus x.src x.len with
  | (.ok, _) =>
    let data := s.readMem x.src x.len
    x.dsts.foldl (fun r d =>
      match r with
      | (s1, .ok) =>
        if x.len = 0 then (s1, .ok)
        else
          match s1.rangeStatus d.2 x.len with
          | .ok =>
            let bs := if x.kind = 0 then stampEpochs (s1.epoch (lnDom d.1)) (s1.epoch (ingotDom d.1)) (x.len / 32 + 1) data else data
            (s1.store d.2 bs, .ok)
          | e => (s1, e)
      | r => r) (s, .ok)
  | (e, some w) => (s.memError w, e)
  | (e, none) => (s, e)

/-- Sections placed in order: the state, how many, and the status that stopped the next. -/
def State.placeSections (s : State) : List Section → State × Nat × Status
  | [] => (s, 0, .ok)
  | x :: t =>
    match s.placeSection x with
    | (s1, .ok) => match s1.placeSections t with | (s2, n, e) => (s2, n + 1, e)
    | (s1, e) => (s1, 0, e)

/-- The tag of a load: the members' epochs and where the sections lie. -/
def State.tagOf (s : State) (model : Nat) (members : List Nat) (xs : List Section) : ResTag :=
  { model := model
    epochs := members.map fun n => (n, s.epoch (lnDom n), s.epoch (ingotDom n))
    sections := ((xs.filter fun x => x.kind != 3).map fun x => x.dsts.map fun d => (d.2, x.len)).flatten
    shared := ((xs.filter fun x => x.kind == 3).map fun x => x.dsts.map fun d => (d.2, x.len)).flatten
    lost := false }

/-- RESIDENT tags of every gang entry of every partition, with partition and key. -/
def State.residentTags (s : State) : List (Nat × Nat × ResTag) :=
  (s.parts.map fun e => e.2.residency.filterMap fun r => r.2.resident.map fun t => (e.1, r.1, t)).flatten

/-- A RESIDENT load is refused: the gang holds another model, or a member's quota holds another gang's (R263). -/
def State.residentBlocked (s : State) (p key model : Nat) (members : List Nat) : Bool :=
  (match (s.residency p key).resident with | some t => decide (t.model ≠ model) | none => false) ||
  s.residentTags.any fun x => decide (x.1 = p) && decide (x.2.1 ≠ key) && x.2.2.epochs.any fun y => members.contains y.1

/-- A SWAPPED load is refused: a section would overlap a RESIDENT one (R264). -/
def State.swappedBlocked (s : State) (xs : List Section) : Bool :=
  let spans := (xs.map fun x => x.dsts.map fun d => (d.2, x.len)).flatten
  s.residentTags.any fun x => x.2.2.sections.any fun y => spans.any fun z => decide (z.1 < y.1 + y.2) && decide (y.1 < z.1 + z.2)

/-- A load recorded: a RESIDENT tag replaces the present one; the ninth SWAPPED tag replaces the oldest (R263, R264) (DEDUCED, log entry 81). -/
def State.recordLoad (s : State) (p key : Nat) (swapped : Bool) (t : ResTag) : State :=
  s.updResidency p key fun r =>
    if swapped then
      let l := (r.swapped.filter fun x => x.model != t.model) ++ [t]
      { r with swapped := l.drop (l.length - 8) }
    else { r with resident := some t, loadPending := false }

/-- Bytes that a load moves, by Shade path: MODEL for DRAM. -/
def State.loadCharges (s : State) (xs : List Section) : List (Nat × Nat) :=
  (xs.map fun x => s.chargePath x.src 1 (x.len * x.dsts.length) ++ (x.dsts.map fun d => s.chargePath d.2 1 x.len).flatten).flatten

/-- Key of a command at the Shades. -/
def cmdKey (id : Nat) : Nat := id

/-- A load of an image on a gang: none while the Shade holds it, else the state, the sections placed and the status. -/
def State.loadModel (s : State) (p key id : Nat) (members : List Nat) (image model : Nat) (swapped : Bool) : State × Option (Nat × Status) :=
  match s.planImage (s.part p).active members image swapped with
  | (xs, st, bad) =>
    if (swapped = false ∧ s.residentBlocked p key model members = true) ∨ (swapped = true ∧ s.swappedBlocked xs = true) then (s, some (0, .quota))
    else
      match s.shadeAskAll p (cmdKey id) (s.loadCharges xs) with
      | (s1, false) => (s1, none)
      | (s1, true) =>
        let s2 := s1.noteFault 0x06 p (st, bad)
        match s2.placeSections xs with
        | (s3, n, .ok) => if st = .ok then (s3.recordLoad p key swapped (s3.tagOf model members xs), some (n, .ok)) else (s3, some (n, st))
        | (s3, n, e) => (s3, some (n, e))

/-- Gang entries that a command names, and the child on which a placed RUN runs (DEDUCED, log entry 92). -/
def Cmd.gangsNamed (c : Cmd) : List Nat :=
  if c.opcode = 0x30 then [c.par 0 1 % 64, c.gang]
  else if c.opcode = 0x31 then ((List.range (min 4 c.stages)).map fun k => c.par (56 + 6 * k) 1 % 64) ++ [c.gang]
  else if c.opcode = 0x40 then [c.par 8 1 % 64]
  else if c.opcode = 0x41 then [c.par 0 1 % 64]
  else []

/-- RUNs of a partition that name a gang entry or run on it, and that have been issued and are not complete (R263). -/
def State.gangRuns (s : State) (p e : Nat) : List Cmd :=
  s.cmds.filter fun c => c.part == p && (c.opcode == 0x30 || c.opcode == 0x31) && (c.phase == .issued || c.phase == .active) &&
    c.gangsNamed.contains e

/-- MODEL_LOAD (R248, R263, R264) (DEDUCED, log entry 80). -/
def State.opModelLoad (c : Cmd) (s : State) : State :=
  let e := c.par 8 1 % 64
  let m := gangMembers (s.part c.part).active e
  if m.isEmpty then s.endCmd c.id .bounds 0
  else
    match s.loadModel c.part e c.id m (c.par 0 8) (c.par 10 2) ((c.par 9 1).testBit 0) with
    | (s1, none) => s1
    | (s1, some (n, .ok)) => s1.endCmd c.id .ok (BitVec.ofNat 32 n)
    | (s1, some (_, st)) => s1.endCmd c.id st 0

def execModelLoad (id : Nat) (s : State) : Host.Outcome State Fault Refusal := .next (s.runOp id 0x40 State.opModelLoad)

/-- MODEL_EVICT: once the gang's issued RUNs are complete, the tags of the model are dropped; the quota bytes stay (R263). -/
def State.opModelEvict (c : Cmd) (s : State) : State :=
  let e := c.par 0 1 % 64
  if (gangMembers (s.part c.part).active e).isEmpty then s.endCmd c.id .bounds 0
  else if (s.gangRuns c.part e).isEmpty = false then s
  else
    let m := c.par 2 2
    (s.updResidency c.part e fun r =>
      { r with resident := r.resident.filter fun t => t.model != m, swapped := r.swapped.filter fun t => t.model != m }).endCmd c.id .ok 0

def execModelEvict (id : Nat) (s : State) : Host.Outcome State Fault Refusal := .next (s.runOp id 0x41 State.opModelEvict)

/-! ### RUN and RUN_CHAIN (R123, R246, R265, R266) -/

/-- Gang entry and program offset of the present stage. -/
def Cmd.stageGang (c : Cmd) : Nat := if c.opcode = 0x31 then c.par (56 + 6 * c.aux) 1 % 64 else c.par 0 1 % 64
def Cmd.stageProg (c : Cmd) : Nat := if c.opcode = 0x31 then c.par (58 + 6 * c.aux) 4 else c.par 4 4

/-- A RUN ends with a status before its present stage starts. -/
def State.runRefused (s : State) (c : Cmd) (st : Status) : State := s.endCmd c.id st (runDetail { c with detail := 0 } c.aux)

/-- Lanterns to which a RUN's present stage is issued: its members, or before its step those of the LANTERN or GANG entry that the stage
names. A stage on a PLACE entry is issued to none until it is placed (R266). -/
def State.runMembers (s : State) (c : Cmd) : List Nat :=
  if c.members.isEmpty then gangMembers (s.part c.part).active c.stageGang else c.members

/-- RUNs issued to any of some Lanterns and not complete (R266). -/
def State.runLoad (s : State) (ms : List Nat) : Nat :=
  (s.cmds.filter fun c => (c.opcode == 0x30 || c.opcode == 0x31) && (c.phase == .issued || c.phase == .active) &&
    (s.runMembers c).any fun n => ms.contains n).length

/-- The child of least load, the lower position winning a tie. -/
def State.leastLoad (s : State) (t : WordTab) (l : List Child) : Option Child :=
  l.foldl (fun m c => match m with
    | none => some c
    | some b => if s.runLoad (childMembers t c) < s.runLoad (childMembers t b) then some c else some b) none

/-- A child holds a fresh tag for a model. -/
def State.holdsModel (s : State) (p model : Nat) (c : Child) : Bool :=
  let r := s.residency p (childKey c)
  (match r.resident with | some t => t.model == model && s.freshTag t | none => false) ||
  r.swapped.any fun t => t.model == model && s.freshTag t

/-- The stage is placed on a gang: its key and members go into the command. -/
def State.placeOn (s : State) (c : Cmd) (key : Nat) (ms : List Nat) : State :=
  match s.gangCheck c.part key ms with
  | .error e => s.runRefused c e
  | .ok ms => s.updCmd c.id fun c => { c with gang := key, members := ms }

/-- The child on which a partition's PLACE entry puts a RUN, and whether the image is loaded on it first (R266). -/
def State.placeTarget (s : State) (p : Nat) (b : List Byte) : Option (Child × Bool) :=
  let t := (s.part p).active
  let l := (gangChildren b).filter fun x => !(childMembers t x).isEmpty
  match s.leastLoad t (l.filter fun x => s.holdsModel p (gangModel b) x) with
  | some x => some (x, false)
  | none => (s.leastLoad t l).map fun x => (x, true)

/-- A stage on a PLACE entry (R266): a fresh child of least load, or a child that is loaded first. -/
def State.placeRun (s : State) (c : Cmd) (b : List Byte) : State :=
  let t := (s.part c.part).active
  let model := gangModel b
  match s.placeTarget c.part b with
  | none => s.runRefused c .bounds
  | some (x, false) => s.placeOn c (childKey x) (childMembers t x)
  | some (x, true) =>
      if gangImage b = 0 then s.runRefused c .staleEpoch
      else
        match s.loadModel c.part (childKey x) c.id (childMembers t x) (gangImage b) model true with
        | (s1, none) => s1
        | (s1, some (_, .ok)) => s1.placeOn c (childKey x) (childMembers t x)
        | (s1, some (_, st)) => s1.runRefused c st

/-- The gang of a RUN's present stage is resolved. -/
def State.resolveRun (s : State) (c : Cmd) : State :=
  let t := (s.part c.part).active
  let e := c.stageGang
  let b := gangEntry t e
  if gangKind b = 3 then s.placeRun c b else s.placeOn c e (gangMembers t e)

/-- The context that runs a partition's programs on a Lantern. -/
def State.runCtx (s : State) (p n : Nat) : Option (Nat × Nat) := (s.quotaFor p n).map fun x => (x.1, x.2.1)

/-- A member's context takes the RUN (R123). -/
def State.startMember (s : State) (c : Cmd) (root n q base : Nat) : State :=
  let bases := [base, root] ++ (List.range 6).map fun i => c.par (8 + 8 * i) 8
  s.updCtx n q fun x =>
    { SeqCtx.reset with cmd := some c.id, part := c.part, start := base + c.stageProg, bases := bases, pc := base + c.stageProg
                        lastPc := base + c.stageProg, nextSeq := x.nextSeq }

/-- The present stage starts on every member once all their contexts are free. -/
def State.startRun (s : State) (c : Cmd) : State :=
  let cs := c.members.map fun n => match s.runCtx c.part n with
    | none => none
    | some (q, da) => (s.pdaOf c.part da).map fun pda => (n, q, pda)
  if cs.any (·.isNone) then s.runRefused c .bounds
  else
    let l := cs.filterMap id
    if l.any fun x => (s.ctx x.1 x.2.1).cmd.isSome then s
    else
      let root := match l with | [] => 0 | x :: _ => x.2.2
      let s1 := l.foldl (fun s x => s.startMember c root x.1 x.2.1 x.2.2) s
      let s2 : State := { s1 with counters := s1.counters.filter fun k => k.cmd != c.id }
      s2.updCmd c.id fun c => { c with phase := .active, mapMask := c.mapMask ||| lanternMask c.members }

/-- RUN and RUN_CHAIN: the present stage is resolved, then started. -/
def State.opRun (c : Cmd) (s : State) : State :=
  if c.opcode = 0x31 ∧ (c.stages = 0 ∨ 4 < c.stages) then s.endCmd c.id .badOpcode 0
  else
    let s1 := if c.members.isEmpty then s.resolveRun c else s
    match s1.cmd? c.id with
    | none => s1
    | some c1 => if c1.phase = .issued ∧ c1.members.isEmpty = false then s1.startRun c1 else s1

def execRun (id : Nat) (s : State) : Host.Outcome State Fault Refusal := .next (s.runOp id 0x30 State.opRun)
def execRunChain (id : Nat) (s : State) : Host.Outcome State Fault Refusal := .next (s.runOp id 0x31 State.opRun)

/-- Descriptors of the VU that a Lantern has issued and not completed. -/
def State.vuLoad (s : State) (n : Nat) : Nat :=
  ((s.lantern n).ctxs.map fun c => (c.issued.filter fun d => d.ty == 0x23).length).sum +
    (s.cmds.filter fun c => c.opcode == 0x38 && (c.phase == .issued || c.phase == .active) && c.members == [n]).length

/-- The Lantern that runs a RANGE_SCAN: least load, then lowest number, among those where the partition holds a quota and that are on. -/
def State.scanLantern (s : State) (p : Nat) : Option Nat :=
  ((List.range 16).filter fun n => (s.quotaFor p n).isSome && !s.lanternOut n).foldl (fun m n => match m with
    | none => some n
    | some b => if s.vuLoad n < s.vuLoad b then some n else some b) none

/-! ### Aborting (R133, R249) -/

/-- Contexts that run a command. -/
def State.ctxsOf (s : State) (id : Nat) : List (Nat × Nat) :=
  (((List.range 16).map fun n => (List.range 4).map fun q => (n, q)).flatten).filter fun x => (s.ctx x.1 x.2).cmd == some id

/-- A context stops: its descriptors and their RMOs are dropped, and what an array held for them is forgotten. -/
def State.stopCtx (s : State) (n q : Nat) : State :=
  let hit := (List.range 2).any fun a => match (s.arr n a).job with | some (q', _) => q' == q | none => false
  let s1 := if hit then s.clearArrays n else s
  let s2 := s1.updCtx n q fun x => { x with cmd := none, issued := [], fetched := [], stop := true }
  { s2 with rmos := s2.rmos.filter fun r => match r.desc with | some (n', q', _) => !(n'.val == n && q'.val == q) | none => true }

/-- A waiting request of a key leaves the Shades of a partition. -/
def State.shadeDrop (s : State) (p key : Nat) : State :=
  let x := s.part p
  s.setPart p { x with shades := x.shades.map fun h =>
    { h with waiting := h.waiting.filter fun w => w.1 != key, granted := h.granted.filter fun k => k != key } }

/-- An access unit that waits for an aborted STREAM_FEED leaves its queue, unless its decoding has begun. -/
def State.dropFed (s : State) (id : Nat) : State :=
  match s.decs.find? fun e => e.2.queue.any fun a => a.cmd == some id with
  | none => s
  | some (c, d) =>
    match d.queue.findIdx? fun a => a.cmd == some id with
    | none => s
    | some i =>
      let busy := decide (i = 0) && (d.susp.isSome || decide (0 < d.work.frames) ||
        (match (s.smelter d.home).pic with | some (c', _) => c' == c | none => false))
      if busy then s.updDec c fun d => { d with queue := listUpd d.queue i fun a => { a with cmd := none } }
      else
        match d.queue[i]? with
        | none => s
        | some a => (s.unitFree d.part a.handle).updDec c fun d => { d with queue := d.queue.eraseIdx i }

/-- A command is aborted: what it has begun stops at its boundary, and it ends with ABORTED. A STREAM_UNBIND that has begun goes on and
ends with ABORTED; a PART_SWAP in progress goes on (R329) (DEDUCED, log entry 86). -/
def State.abortCmd (s : State) (c : Cmd) : State :=
  match c.phase with
  | .ended => s
  | .fetched => s.updCmd c.id fun c => { c with status := .aborted, detail := 0 }
  | _ =>
    if c.opcode = 0x12 ∧ c.phase = .active then s.updCmd c.id fun c => { c with status := .aborted }
    else if (match s.swap.current with | some r => r.cmd == some c.id | none => false) then s
    else
      let s1 := (s.ctxsOf c.id).foldl (fun s x => s.stopCtx x.1 x.2) s
      let s2 : State := { s1 with snaps := s1.snaps.filter fun j => j.cmd != c.id, counters := s1.counters.filter fun k => k.cmd != c.id }
      let s3 := (s2.dropFed c.id).shadeDrop c.part (cmdKey c.id)
      let s4 : State := { s3 with streams := s3.streams.map fun e =>
        (e.1, { e.2 with bmrs := e.2.bmrs.map fun b => if b.cmd = some c.id then { b with cmd := none } else b })
                                  swap := { s3.swap with queue := s3.swap.queue.filter fun r => r.cmd != some c.id,
                                                         heldCmds := s3.swap.heldCmds.filter fun k => k != c.id } }
      s4.endCmd c.id .aborted 0

end Sys2Proof.Machine
end

