-- ==== Sys2Proof/Machine/Domains.lean ====
section
/-!
DEFINITION. Switched power domains: Ozmel's policy, power-up and power-down, automatic gating, parking, and the reset of one unit
(R380-R384, R387).
-/

namespace Sys2Proof.Machine

/-! ### Policy (R382) -/

/-- PD_PARK.PARKED of a Lantern. -/
def State.parked (s : State) (n : Nat) : Bool := s.flag Reg.pdPark (16 + n)

/-- Some valid partition's LIMITS table has a bit set. -/
def State.limitsName (s : State) (byte bit : Nat) : Bool :=
  (List.range 64).any fun p => s.partValid p && (s.limit p byte 1).testBit bit

/-- A valid window entry or an enabled pool targets part of a range. -/
def State.targeted (s : State) (a n : Nat) : Bool :=
  s.anyWindowOn a n || (List.range 8).any fun k => s.poolEn k && overlaps (s.poolRegion k).1 (s.poolRegion k).2 a n

/-- Ozmel's policy has a domain ON, from READY; an array or a Spill pair may be ON while its Lantern's logic domain is. -/
def State.wantsOn (s : State) (d : Nat) : Bool :=
  if s.ozmel.ready = false then false
  else if d < 80 then
    let n := d / 5
    if d % 5 = 0 ∨ d % 5 = 4 then s.hasQuota n && !s.parked n && !s.flag (Reg.lnStatus n) 31 else s.domOn (lnDom n)
  else if d < 92 then !(s.homed (d - 80)).isEmpty && !s.flag (Reg.smStatus (d - 80)) 31
  else if d < 96 then s.limitsName 8 (d - 92)
  else if d < 100 then s.limitsName 8 (4 + (d - 96))
  else if d < 108 then !(s.bank (d - 100)).quarantined && s.targeted (crucibleBase + mib8 * (d - 100)) mib8
  else if d < 110 then s.limitsName 9 (d - 108)
  else if d < 118 then !s.flag Reg.dramStatus (16 + (d - 110))
  else decide (s.fld (Reg.ethPort (d - 118)) 19 16 ≠ 0)

/-! ### Power-up and power-down (R69, R381, R384) -/

/-- A domain comes up. From OFF it takes a new epoch; what it held is undefined or in its reset state. From RET an Ingot keeps both. -/
def State.domUp (s : State) (d : Nat) : State :=
  match s.domState d with
  | 1 => s
  | 2 => (s.setDom d 1).windowGap d
  | _ =>
    let s1 := ((s.setDom d 1).bumpEpoch d).windowGap d
    if d < 80 ∧ d % 5 = 0 then s1.setLantern (d / 5) Lantern.reset
    else if d < 80 ∧ d % 5 = 4 then s1.undefRange (ingotBase + mib8 * (d / 5)) mib8
    else if 100 ≤ d ∧ d < 108 then s1.undefRange (crucibleBase + mib8 * (d - 100)) mib8
    else s1

/-- DOMAIN_POWER_UP: Ozmel powers a domain that its policy wants ON; an Ingot follows its Lantern's logic domain. -/
def State.domainPowerUp (s : State) (d : Nat) : State :=
  if s.wantsOn d = false ∨ (d < 80 ∧ d % 5 = 4 ∧ s.domOn (lnDom (d / 5)) = false) then s else s.domUp d

def execDomainPowerUp (d : DomIx) (s : State) : Host.Outcome State Fault Refusal := .next (s.domainPowerUp d.val)

/-- A Lantern's logic domain goes OFF, its arrays and Spill pair with it, and its Ingot to RET. -/
def State.lanternOff (s : State) (n : Nat) : State :=
  let s1 := (List.range 4).foldl (fun s i => s.setDom (5 * n + i) 0) (s.setLantern n Lantern.reset)
  if s1.domOn (ingotDom n) then s1.setDom (ingotDom n) 2 else s1

/-- The links of an Ethernet port go down. -/
def State.linksDown (s : State) (p : Nat) : State := s.setFld (Reg.ethPort p) 31 28 0

/-- The domain of the Shaper or Quad that has begun a command. -/
def Cmd.engineDom (c : Cmd) : Nat := if c.opcode = 0x20 then shDom (c.members.headD 0) else quadDom (c.members.headD 0)

/-- A Shaper or a Quad that goes off ends the command that it has begun with ISOLATED (R170, R228). -/
def State.dropBegun (s : State) (d : Nat) : State :=
  (s.cmds.filter fun c => c.begun && c.phase == .issued && c.engineDom == d).foldl (fun s c => s.endCmd c.id .isolated 0) s

/-- DOMAIN_POWER_DOWN: a domain that the policy does not want ON goes OFF; an Ingot may go to RET instead. -/
def State.domainPowerDown (s : State) (d : Nat) (retain : Bool) : State :=
  if s.domState d = 0 then s
  else if d < 80 then
    let n := d / 5
    if d % 5 = 0 then (if s.wantsOn d then s else (s.clearLantern n .isolated).lanternOff n)
    else if d % 5 = 4 then (if s.wantsOn d then s else s.setDom d (if retain then 2 else 0))
    else if s.domOn (lnDom n) then s
    else s.setDom d 0
  else if s.wantsOn d then s
  else if 118 ≤ d then (s.setDom d 0).linksDown (d - 118)
  else if 96 ≤ d ∧ d < 100 then ((s.setDom d 0).setQuad (d - 96) Quad.reset).dropBegun d
  else (s.setDom d 0).dropBegun d

def execDomainPowerDown (d : DomIx) (retain : Bool) (s : State) : Host.Outcome State Fault Refusal := .next (s.domainPowerDown d.val retain)

/-! ### Automatic gating (R382) -/

/-- ARRAY_IDLE_GATE: PD_AUTO.IDLE_US have passed since an array or a Spill pair last worked; it goes OFF and holds nothing. -/
def State.idleGate (s : State) (n : Nat) (u : GateUnit) : State :=
  if s.flag Reg.pdAuto 16 = false then s
  else
    match u with
    | .array a =>
      let i := arrIx a
      if (s.arr n i).job.isSome = true ∨ s.domOn (arrDom n (i == 1)) = false then s
      else (s.updArr n i fun _ => Arr.reset).setDom (arrDom n (i == 1)) 0
    | .spill =>
      if ((List.range 4).any fun q => (s.findDesc n q 0x21).isSome) = true ∨ s.domOn (spillDom n) = false then s
      else (s.updLantern n fun l => { l with spill := ⟨none, [], []⟩ }).setDom (spillDom n) 0

def execArrayIdleGate (n : LnIx) (u : GateUnit) (s : State) : Host.Outcome State Fault Refusal := .next (s.idleGate n u)

/-! ### Parking (R383) -/

/-- LANTERN_PARK: PARK is set and no RUN runs on the Lantern. -/
def State.park (s : State) (n : Nat) : State :=
  if s.flag Reg.pdPark n = false ∨ s.parked n = true ∨ ((s.lantern n).ctxs.any fun c => c.cmd.isSome) = true then s
  else (s.lanternOff n).setFlag Reg.pdPark (16 + n) true

def execLanternPark (n : LnIx) (s : State) : Host.Outcome State Fault Refusal := .next (s.park n)

/-- LANTERN_UNPARK: PARK is clear; the logic domain comes up with a new epoch, and the Ingot from RET without one. -/
def State.unpark (s : State) (n : Nat) : State :=
  if s.flag Reg.pdPark n = true ∨ s.parked n = false then s
  else
    let s1 := s.setFlag Reg.pdPark (16 + n) false
    if s1.wantsOn (lnDom n) then (s1.domUp (lnDom n)).domUp (ingotDom n) else s1

def execLanternUnpark (n : LnIx) (s : State) : Host.Outcome State Fault Refusal := .next (s.unpark n)

/-! ### The reset of one unit (R387) -/

/-- Registers from an offset on return to their reset words, but for one that is kept and for one bit of another (DEDUCED, log entry 85). -/
def State.resetRegs (s : State) (base len keep stat : Nat) : State :=
  let q := s.flag stat 31
  let s1 : State := { s with regs := s.regs.filter fun e => !(decide (base ≤ e.1) && decide (e.1 < base + len)) || e.1 == keep }
  if q then s1.setFlag stat 31 true else s1

/-- A Lantern is cycled: its RUNs end with ISOLATED, its Ingot stays. -/
def State.resetLantern (s : State) (n : Nat) : State :=
  let s1 := s.clearLantern n .isolated
  let s2 := [lnDom n, arrDom n false, arrDom n true, spillDom n].foldl (fun s d => s.cycleDom d) s1
  s2.resetRegs (0x100000 + 0x10000 * n) 0x10000 (Reg.lnFault n) (Reg.lnStatus n)

/-- A Smelter is cycled: the picture in progress is lost with its access unit, and its contexts restart. -/
def State.resetSmelter (s : State) (n : Nat) : State :=
  let s1 := match (s.smelter n).pic with | some (c, _) => s.auDiscard n c 0 true | none => s
  let s2 := (s1.arbEnd (16 + n) 0).setSmelter n { s1.smelter n with pic := none }
  let s3 : State := { s2 with decs := s2.decs.map fun e => if e.2.home = n then (e.1, { restartCtx e.2 with susp := none }) else e }
  (s3.cycleDom (smDom n)).resetRegs (0x200000 + 0x10000 * n) 0x10000 (Reg.smFault n) (Reg.smStatus n)

/-- The unit of a Discovery TYPE and instance is reset; none when it names no resettable unit (DESIGN CHOICE, log entry 84). -/
def State.unitReset (s : State) (ty i : Nat) : Option State :=
  match ty with
  | 0x10 => if i < 16 then some (s.resetLantern i) else none
  | 0x20 => if i < 12 then some (s.resetSmelter i) else none
  | 0x30 => if i < 4 then some (((s.dropBegun (shDom i)).cycleDom (shDom i)).resetRegs (0x300000 + 0x10000 * i) 0x10000 0 0) else none
  | 0x34 => if i < 4 then some ((((s.dropBegun (quadDom i)).cycleDom (quadDom i)).setQuad i Quad.reset).resetRegs (0x340000 + 0x10000 * i) 0x10000 0 0) else none
  | 0x38 => if i < 2 then some ((s.cycleDom (seDom i)).resetRegs (Reg.seStat i) 4 0 0) else none
  | 0x48 => if i < 2 then some ((s.cycleDom (epDom i)).resetRegs (Reg.ethPort i) 0x100 0 0) else none
  | _ => none

/-- A unit reset is performed: BLOCK is set, or REFUSED when there is no such unit. -/
def State.doBlockReset (s : State) (ty i : Nat) : State :=
  match s.unitReset ty i with
  | none => s.setFlag Reg.rstBlock 29 true
  | some s1 => s1.setFlag Reg.rstCause 7 true

/-- RST_BLOCK written: REFUSED is W1C; GO resets the unit named, or waits for a PART_SWAP in progress. -/
def State.rstBlockWrite (s : State) (v : Word) : State :=
  let s0 := if bitOf v 29 then s.setFlag Reg.rstBlock 29 false else s
  let s1 := (s0.setFld Reg.rstBlock 15 8 (bitsOf v 15 8)).setFld Reg.rstBlock 4 0 (bitsOf v 4 0)
  if bitOf v 31 && !s.flag Reg.rstBlock 30 then
    if s1.swap.current.isSome then
      { s1.setFlag Reg.rstBlock 30 true with swap := { s1.swap with resetBlock := some (bitsOf v 15 8, bitsOf v 4 0) } }
    else s1.doBlockReset (bitsOf v 15 8) (bitsOf v 4 0)
  else s1

def execRstBlock (v : Word) (s : State) : Host.Outcome State Fault Refusal := .next (s.pfReach Reg.rstBlock (s.rstBlockWrite v))

end Sys2Proof.Machine
end

