-- ==== Sys2Proof/Machine/Snuffer.lean ====
section
/-!
DEFINITION. The Snuffer: its profile, box decoding, scores, candidates and suppression (R148-R155, R221), in binary32 in the order
written.
-/

namespace Sys2Proof.Machine

/-! ### exp and sigmoid (R150, R155) -/

/-- exp(y) for y in units of 2^-320, as a number of 2^-320: k terms of the series left, term number i. -/
def expSeries (y : Nat) : Nat → Nat → Nat → Nat → Nat
  | 0, _, _, acc => acc
  | k + 1, i, term, acc =>
    let t := term * y / 2 ^ 320 / (i + 1)
    expSeries y k (i + 1) t (acc + t)

/-- n squarings of a number of 2^-320. -/
def squareUp : Nat → Nat → Nat
  | 0, a => a
  | n + 1, a => squareUp n (a * a / 2 ^ 320)

/-- exp(m * 2^e) in units of 2^-320, for a value of at most 128. -/
def expPos (m : Nat) (e : Int) : Nat :=
  let y := (m * 2 ^ 320 * 2 ^ e.toNat) / 2 ^ (-e).toNat / 512
  squareUp 9 (expSeries y 48 0 (2 ^ 320) (2 ^ 320))

/-- Magnitude word of binary32 of a * 2^-320, truncated. -/
def f32Trunc (a : Nat) : Nat :=
  if a = 0 then 0
  else
    let q : Int := max (-149) ((bitLen a : Int) - 320 - 24)
    (q + 149).toNat * 2 ^ 23 + quantTrunc a (-320) q

/-- One of the two binary32 values next to a * 2^-320, as pick says; both lie within 1 ulp. -/
def f32Near (a : Nat) (pick : Bool) : Word := BitVec.ofNat 32 (min 0x7F800000 (f32Trunc a + boolNat pick))

/-- exp of a binary32 word, within 1 ulp. -/
def f32Exp (x : Word) : Word :=
  match f32 x with
  | .nan _ => 0x7FC00000
  | .inf n => if n then 0 else 0x7F800000
  | .fin n m e =>
    let big := decide (7 ≤ (bitLen m : Int) + e - 1)
    if n then (if big then f32Near 0 (Config.expPick x) else f32Near (2 ^ 640 / expPos m e) (Config.expPick x))
    else if big then 0x7F800000
    else f32Near (expPos m e) (Config.expPick x)

/-- sigmoid of a binary32 word, within 1 ulp. -/
def f32Sigmoid (x : Word) : Word :=
  match f32 x with
  | .nan _ => 0x7FC00000
  | .inf n => if n then 0 else 0x3F800000
  | .fin n m e =>
    let big := decide (7 ≤ (bitLen m : Int) + e - 1)
    let t := if big then 0 else 2 ^ 640 / expPos m e
    f32Near (if n then t * 2 ^ 320 / (2 ^ 320 + t) else 2 ^ 640 / (2 ^ 320 + t) - (if big then 1 else 0)) (Config.sigmoidPick x)

/-! ### The profile (R149) -/

def snLev (f : List Byte) : Nat := fieldAt f 1 1
def snAgn (f : List Byte) : Bool := (fieldAt f 2 1).testBit 6
def snMulti (f : List Byte) : Bool := (fieldAt f 2 1).testBit 5
def snClsSig (f : List Byte) : Bool := (fieldAt f 2 1).testBit 4
def snObj (f : List Byte) : Bool := (fieldAt f 2 1).testBit 3
def snCxySig (f : List Byte) : Bool := (fieldAt f 2 1).testBit 2
def snBox (f : List Byte) : Nat := natBits (fieldAt f 2 1) 1 0
def snEmb (f : List Byte) : Nat := if fieldAt f 3 1 = 255 then 256 else fieldAt f 3 1
def snCls (f : List Byte) : Nat := fieldAt f 4 2
def snTopk (f : List Byte) : Nat := fieldAt f 6 2
def snMaxDet (f : List Byte) : Nat := fieldAt f 8 2
def snWord (f : List Byte) (off : Nat) : Word := BitVec.ofNat 32 (fieldAt f off 4)

/-- lo ≤ w ≤ hi for binary32 words, false for NaN. -/
def f32In (lo hi w : Word) : Bool := f32Le lo w && f32Le w hi

/-- Ranges of the header fields. -/
def snHeaderOk (f : List Byte) : Bool :=
  decide (1 ≤ snLev f) && decide (snLev f ≤ 8) && decide (snBox f ≠ 3) && decide (1 ≤ snCls f) && decide (snCls f ≤ 1024) &&
  decide (1 ≤ snTopk f) && decide (snTopk f ≤ 1024) && decide (1 ≤ snMaxDet f) && decide (snMaxDet f ≤ 1024) &&
  f32In 0 0x3F800000 (snWord f 16)

/-- Ranges of a level entry. -/
def snLevelOk (f l : List Byte) : Bool :=
  let h := natBits (fieldAt l 0 1) 3 0
  let a := fieldAt l 2 1
  let sh := signedOf 8 (fieldAt l 1 1)
  (h == 0 || h == 1 || h == 4 || h == 5 || h == 8 || h == 9 || h == 10) && decide (-32 ≤ sh) && decide (sh ≤ 31) && decide (1 ≤ a) &&
  decide (a ≤ 4) && (snBox f != 2 || a == 1) && decide (fieldAt l 24 4 % 8 = 0)

/-- A feature level as it is decoded: its entry, anchors, head bytes by position, the head's PDA, and the pieces of the profile read for
it. -/
structure Level where
  entry : List Byte
  anchors : List (Word × Word)
  head : List (List Byte)
  base : Nat
  pieces : List (Nat × List Byte)

/-- Channels of an anchor group before its embedding. -/
def snChans (f : List Byte) : Nat := 4 + boolNat (snObj f) + snCls f

/-- Bytes of one anchor group. -/
def snGroup (f l : List Byte) : Nat := codeBytes (natBits (fieldAt l 0 1) 3 0) (snChans f) + snEmb f

/-- The head tensor of a level, as the bytes of each position (R149). -/
def State.readHead (s : State) (p : Nat) (f l : List Byte) (base : Nat) : Res (List (List Byte)) :=
  let gw := fieldAt l 4 2
  let gh := fieldAt l 6 2
  let n := gw * gh
  let pitch := fieldAt l 24 4
  let g := fieldAt l 2 1 * snGroup f l
  if n = 0 then .ok []
  else
    match s.rd p base ((n - 1) * pitch + g) with
    | .error e => .error e
    | .ok bs => .ok ((List.range n).map fun i => (bs.drop (i * pitch)).take g)

/-- The levels of a profile at an address (R149). -/
def State.readLevels (s : State) (c : Cmd) (a : Nat) (f : List Byte) (bases : List Nat) : Nat → Res (List Level)
  | 0 => .ok []
  | n + 1 =>
    let k := snLev f - (n + 1)
    match s.readPiece c (a + 64 + 32 * k) 32 with
    | .error e => .error e
    | .ok l =>
      if snLevelOk f l = false then .error (.badOpcode, none)
      else
        let r := fieldAt l 16 8
        if 4 ≤ natBits r 39 37 then .error (.bounds, none)
        else
          match refPda bases [] r with
          | none => .error (.bounds, none)
          | some h =>
            match s.readHead c.part f l h with
            | .error e => .error e
            | .ok hd =>
              let at1 := a + 64 + 32 * snLev f + 8 * fieldAt l 28 2
              match (if snBox f = 2 then .ok [] else s.readPiece c at1 (8 * fieldAt l 2 1)) with
              | .error e => .error e
              | .ok an =>
                let anchors := (List.range (fieldAt l 2 1)).map fun j => (snWord an (8 * j), snWord an (8 * j + 4))
                match s.readLevels c a f bases n with
                | .error e => .error e
                | .ok t => .ok (⟨l, anchors, hd, h, [(a + 64 + 32 * k, l), (at1, an)]⟩ :: t)

/-! ### Candidates (R150-R152) -/

/-- A candidate: index, class, score, box in model pixels and embedding. -/
structure Cand where
  ix : Nat
  cls : Nat
  score : Word
  x1 : Word
  y1 : Word
  x2 : Word
  y2 : Word
  emb : List Byte

/-- Element k of an anchor group: value * 2^HSH. -/
def headValue (l g : List Byte) (k : Nat) : Word :=
  let h := natBits (fieldAt l 0 1) 3 0
  toF32 ((codeNum h (rawAt h g k)).scale (signedOf 8 (fieldAt l 1 1)))

/-- A corner clamped to the model input; NaN stays. -/
def clampIn (n : Nat) (w : Word) : Word := f32Min (f32Max w 0) (f32OfInt (n : Int))

/-- The box of an anchor before clamping (R150). -/
def snBoxOf (f l g : List Byte) (anchor : Word × Word) (gx gy : Nat) : Word × Word × Word × Word :=
  let t := fun k => headValue l g k
  let st := snWord l 8
  let half := f32Frac 1 2
  let ix := f32OfInt (gx : Int)
  let iy := f32OfInt (gy : Int)
  match snBox f with
  | 2 =>
    let px := f32Mul (f32Add ix half) st
    let py := f32Mul (f32Add iy half) st
    (f32Sub px (f32Mul (f32Max (t 0) 0) st), f32Sub py (f32Mul (f32Max (t 1) 0) st),
     f32Add px (f32Mul (f32Max (t 2) 0) st), f32Add py (f32Mul (f32Max (t 3) 0) st))
  | m =>
    let ff := fun w => if snCxySig f then f32Sigmoid w else w
    let ctr := fun (i : Word) (w : Word) => f32Mul (f32Add (f32Add i (f32Mul (snWord f 20) (ff w))) (snWord f 24)) st
    let size := fun (a w : Word) =>
      if m = 0 then f32Mul a (f32Exp w) else
        let q := f32Mul (f32OfInt 2) (f32Sigmoid w)
        f32Mul a (f32Mul q q)
    let cx := ctr ix (t 0)
    let cy := ctr iy (t 1)
    let w := f32Mul (size anchor.1 (t 2)) half
    let h := f32Mul (size anchor.2 (t 3)) half
    (f32Sub cx w, f32Sub cy h, f32Add cx w, f32Add cy h)

/-- Scores of an anchor's classes (R151). -/
def snScores (f l g : List Byte) : List Word :=
  let gg := fun w => if snClsSig f then f32Sigmoid w else w
  let o := boolNat (snObj f)
  (List.range (snCls f)).map fun c =>
    let x := gg (headValue l g (4 + o + c))
    if snObj f then f32Mul (gg (headValue l g 4)) x else x

/-- The best class of a list of scores, the lower index on a tie; NaN is never best. -/
def bestClass (l : List Word) : Option (Nat × Word) :=
  l.zipIdx.foldl (fun m x => if f32IsNan x.1 then m else
    match m with
    | none => some (x.2, x.1)
    | some b => if !f32Le x.1 b.2 then some (x.2, x.1) else m) none

/-- Candidates of one anchor: classes at or above the threshold, with the box, unless the box is empty or has a NaN corner. -/
def anchorCands (f l g : List Byte) (anchor : Word × Word) (gx gy : Nat) : List Cand :=
  let b := snBoxOf f l g anchor gx gy
  let iw := fieldAt f 28 2
  let ih := fieldAt f 30 2
  let x1 := clampIn iw b.1
  let y1 := clampIn ih b.2.1
  let x2 := clampIn iw b.2.2.1
  let y2 := clampIn ih b.2.2.2
  if f32IsNan x1 || f32IsNan y1 || f32IsNan x2 || f32IsNan y2 || f32Le x2 x1 || f32Le y2 y1 then []
  else
    let sc := snScores f l g
    let cls := if snMulti f then sc.zipIdx.map (fun x => (x.2, x.1)) else (bestClass sc).toList
    let emb := (g.drop (codeBytes (natBits (fieldAt l 0 1) 3 0) (snChans f))).take (snEmb f)
    (cls.filter fun c => f32Le (snWord f 12) c.2).map fun c => ⟨0, c.1, c.2, x1, y1, x2, y2, emb⟩

/-- Candidates of a level in the order gy, gx, anchor, class. -/
def levelCands (f : List Byte) (v : Level) : List Cand :=
  let gw := fieldAt v.entry 4 2
  let sz := snGroup f v.entry
  (v.head.zipIdx.map fun pos =>
    (v.anchors.zipIdx.map fun an => anchorCands f v.entry ((pos.1.drop (an.2 * sz)).take sz) an.1 (pos.2 % gw) (pos.2 / gw)).flatten).flatten

/-- Under LTRB a level has one anchor without a table entry. -/
def Level.withAnchor (v : Level) : Level := if v.anchors.isEmpty then { v with anchors := [(0, 0)] } else v

/-- Candidates of all levels, numbered in order. -/
def allCands (f : List Byte) (vs : List Level) : List Cand :=
  ((vs.map fun v => levelCands f v.withAnchor).flatten.zipIdx).map fun c => { c.1 with ix := c.2 }

/-- Candidate order: descending score, then ascending index (R152). -/
def candBefore (a b : Cand) : Bool := f32Lt b.score a.score && !(f32 a.score).eqv (f32 b.score) || ((f32 a.score).eqv (f32 b.score) && decide (a.ix ≤ b.ix))

/-- The first k of each class in candidate order; seen holds how many of each class were kept. -/
def topkPerClass (k : Nat) : List Cand → List Nat → List Cand
  | [], _ => []
  | c :: t, seen =>
    if (seen.filter (· == c.cls)).length < k then c :: topkPerClass k t (c.cls :: seen) else topkPerClass k t seen

/-! ### Suppression (R153) -/

/-- IoU of two boxes. -/
def iouOf (a b : Word × Word × Word × Word) : Word :=
  let iw := f32Max 0 (f32Sub (f32Min a.2.2.1 b.2.2.1) (f32Max a.1 b.1))
  let ih := f32Max 0 (f32Sub (f32Min a.2.2.2 b.2.2.2) (f32Max a.2.1 b.2.1))
  let inter := f32Mul iw ih
  f32Div inter (f32Sub (f32Add (f32Mul (f32Sub a.2.2.1 a.1) (f32Sub a.2.2.2 a.2.1)) (f32Mul (f32Sub b.2.2.1 b.1) (f32Sub b.2.2.2 b.2.1))) inter)

def Cand.box (c : Cand) : Word × Word × Word × Word := (c.x1, c.y1, c.x2, c.y2)

/-- IoU is greater than the threshold. -/
def iouAbove (thr : Word) (a b : Cand) : Bool :=
  let v := iouOf a.box b.box
  f32Lt thr v && !(f32 thr).eqv (f32 v)

/-- Candidates accepted in order, and whether some remained when the limit was reached. -/
def suppress (agn : Bool) (thr : Word) (limit : Nat) : List Cand → List Cand → List Cand × Bool
  | [], acc => (acc.reverse, false)
  | c :: t, acc =>
    if limit ≤ acc.length then (acc.reverse, true)
    else if acc.any (fun a => (agn || a.cls == c.cls) && iouAbove thr c a) then suppress agn thr limit t acc
    else suppress agn thr limit t (c :: acc)

/-- The list that a SNUFF leaves, from its levels and the frame's Shaper profile and descriptor (R151-R154). -/
def snuffList (f sp d : List Byte) (vs : List Level) : SnuffOut :=
  let all := allCands f vs
  let sorted := sortBy candBefore all
  let kept := topkPerClass (snTopk f) (sorted.take 16384) []
  let r := suppress (snAgn f) (snWord f 16) (snMaxDet f) kept []
  { dets := r.1.map fun c =>
      let b := unmapBox sp d c.x1 c.y1 c.x2 c.y2
      ⟨b.1, b.2.1, b.2.2.1, b.2.2.2, c.score, c.cls, c.emb⟩
    count := all.length
    candTrunc := decide (16384 < all.length)
    detTrunc := r.2 }

/-- The traffic of a SNUFF's head reads (R271). -/
def State.headCharges (s : State) (p path : Nat) (vs : List Level) : List (Nat × Nat) :=
  (vs.map fun v =>
    let n := (v.head.map (·.length)).sum
    match s.translate p v.base (max 1 n) .rd with
    | some da => s.chargePath da path n
    | none => []).flatten

/-- SNUFF ends with its list in the output buffer of its Quad. -/
def State.snuffDone (s : State) (c : Cmd) (q : Nat) (o : SnuffOut) : State :=
  let s1 := (s.bump (Reg.snStat q) 31 16 (boolNat o.candTrunc)).bump (Reg.snStat q) 15 0 (boolNat o.detTrunc)
  let s2 := match c.src with
    | .ring _ => s1
    | .frame .. => s1.updJob c fun j => { j with snuff := some o }
  (s2.updStream c.part c.stream fun st => { st with snuff := some o }).endCmd c.id .ok (BitVec.ofNat 32 o.dets.length)

/-- Profile, Shaper profile, frame descriptor and levels of a SNUFF, each checked (R148, R149, R214). -/
def State.snuffInputs (s : State) (c : Cmd) : Res (List Byte × List Byte × List Byte × List Level) :=
  let a := c.par 0 8
  match s.readProfile c a 64 with
  | .error e => .error e
  | .ok f =>
    if snHeaderOk f = false then .error (.badOpcode, none)
    else
      match s.readProfile c (c.par 8 8) 64 with
      | .error e => .error e
      | .ok sp =>
        match s.frameDesc c 16 with
        | .error e => .error e
        | .ok d =>
          if shapeOk sp d = false then .error (.badOpcode, none)
          else
            match s.readLevels c a f ((List.range 4).map fun i => c.par (24 + 8 * i) 8) (snLev f) with
            | .error e => .error e
            | .ok vs => .ok (f, sp, d, vs)

/-- SNUFF on the Snuffer of the stream's Quad (R148-R155). -/
def State.opSnuff (c : Cmd) (s : State) : State :=
  match s.stream? c.part c.stream with
  | none => s.endCmd c.id .notOwner 0
  | some st =>
    let q := st.quad
    if (s.flag (Reg.ppCtrl q) 0 = false ∧ c.begun = false) ∨ s.domOn (quadDom q) = false then s.endCmd c.id .isolated 0
    else
      match s.engineTurn (40 + q) c fun x => x.opcode == 0x50 && x.members == [q] with
      | (s1, false) => s1
      | (s1, true) =>
        match s1.snuffInputs c with
        | .error e => (s1.noteFault 0x34 c.part e).endCmd c.id e.1 0
        | .ok (f, sp, d, vs) =>
          match s1.shadeAskAll c.part c.id (s1.headCharges c.part (s1.stagePath c) vs) with
          | (s2, false) => s2.keepProfiles c.id ([(c.par 0 8, f), (c.par 8 8, sp)] ++ (vs.map (·.pieces)).flatten)
          | (s2, true) => s2.snuffDone c q (snuffList f sp d vs)

def execSnuff (id : Nat) (s : State) : Host.Outcome State Fault Refusal := .next (s.runOp id 0x50 State.opSnuff)

end Sys2Proof.Machine
end

