-- ==== Sys2Proof/Machine/Tracker.lean ====
section
/-!
DEFINITION. The Tracker: prediction and update, association, track lifecycle, the grid index, and TRACK with its record
(R156-R166, R171).
-/

namespace Sys2Proof.Machine

/-! ### Profile (R156) -/

def tkLost (f : List Byte) : Bool := (fieldAt f 1 1).testBit 2
def tkEmb (f : List Byte) : Bool := (fieldAt f 1 1).testBit 1
def tkAuction (f : List Byte) : Bool := (fieldAt f 1 1).testBit 0
def tkConfirm (f : List Byte) : Nat := fieldAt f 2 1
def tkMaxLost (f : List Byte) : Nat := fieldAt f 3 1
def tkWord (f : List Byte) (off : Nat) : Word := BitVec.ofNat 32 (fieldAt f off 4)

/-- A binary32 word greater than 0. -/
def f32Pos (w : Word) : Bool := f32Lt 0 w && !(f32 w).eqv (f32 0)

/-- Ranges of the profile's fields. -/
def tkOk (f : List Byte) : Bool :=
  decide (1 ≤ tkConfirm f) && decide (tkConfirm f ≤ 16) && decide (1 ≤ tkMaxLost f) && f32In 0 0x3F800000 (tkWord f 4) &&
  f32In 0 0x3F800000 (tkWord f 8) && f32In 0 0x40000000 (tkWord f 12) && f32Pos (tkWord f 16) && f32Pos (tkWord f 36)

/-! ### The filter (R157-R159) -/

def f32Sq (w : Word) : Word := f32Mul w w

/-- One coordinate predicted across k frames: position, rate and covariance. -/
def predictOne (k qp qv : Word) (p v : Word) (c : Word × Word × Word) : Word × (Word × Word × Word) :=
  let two := f32OfInt 2
  (f32Add p (f32Mul k v),
   (f32Add (f32Add (f32Add c.1 (f32Mul (f32Mul two k) c.2.1)) (f32Mul (f32Mul k k) c.2.2)) (f32Mul k qp),
    f32Add c.2.1 (f32Mul k c.2.2),
    f32Add c.2.2 (f32Mul k qv)))

/-- A value of a track: x, y, w, h, vx, vy, vw, vh. -/
def Track.val (t : Track) (i : Nat) : Word := listAt 0 t.vals i

/-- A track predicted across k frames (R157). -/
def Track.predict (f : List Byte) (k : Nat) (t : Track) : Track :=
  let kw := f32OfInt (k : Int)
  let h := t.val 3
  let qp := f32Sq (f32Mul (tkWord f 24) h)
  let qv := f32Sq (f32Mul (tkWord f 28) h)
  let r := (List.range 4).map fun i => predictOne kw qp qv (t.val i) (t.val (4 + i)) (listAt (0, 0, 0) t.cov i)
  let one := f32OfInt 1
  let ps := r.zipIdx.map fun x => if 2 ≤ x.2 then f32Max x.1.1 one else x.1.1
  { t with vals := ps ++ (t.vals.drop 4), cov := r.map (·.2) }

/-- One coordinate updated with a measurement z and noise r (R158). -/
def updateOne (r z p v : Word) (c : Word × Word × Word) : Word × Word × (Word × Word × Word) :=
  let sg := f32Add c.1 r
  let kp := f32Div c.1 sg
  let kv := f32Div c.2.1 sg
  let e := f32Sub z p
  let one := f32OfInt 1
  (f32Add p (f32Mul kp e), f32Add v (f32Mul kv e),
   (f32Mul (f32Sub one kp) c.1, f32Mul (f32Sub one kp) c.2.1, f32Sub c.2.2 (f32Mul kv c.2.1)))

/-- Centre and size of a detection. -/
def Det.meas (d : Det) : List Word :=
  let half := f32Frac 1 2
  [f32Mul (f32Add d.x1 d.x2) half, f32Mul (f32Add d.y1 d.y2) half, f32Sub d.x2 d.x1, f32Sub d.y2 d.y1]

/-- A matched track (R158, R163). -/
def Track.matched (f : List Byte) (d : Det) (t : Track) : Track :=
  let r := f32Sq (f32Mul (tkWord f 32) (t.val 3))
  let us := (List.range 4).map fun i => updateOne r (listAt 0 d.meas i) (t.val i) (t.val (4 + i)) (listAt (0, 0, 0) t.cov i)
  let n := t.consec + 1
  { t with vals := us.map (·.1) ++ us.map (·.2.1), cov := us.map (·.2.2), emb := d.emb, hits := min 65535 (t.hits + 1), misses := 0,
           consec := n, state := if t.state = 1 then (if tkConfirm f ≤ n then 2 else 1) else 2 }

/-- A new track (R159, R163) (DEDUCED, log entry 52). -/
def newTrack (f : List Byte) (p ix id seq : Nat) (d : Det) : Track :=
  let h := listAt 0 d.meas 3
  let a := f32Sq (f32Mul (f32Mul (f32OfInt 2) (tkWord f 32)) h)
  let c := f32Sq (f32Mul (f32Mul (f32OfInt 10) (tkWord f 28)) h)
  { part := p, stream := ix, id := id, state := if tkConfirm f ≤ 1 then 2 else 1, vals := d.meas ++ [0, 0, 0, 0],
    cov := List.replicate 4 (a, 0, c), emb := d.emb, hits := 1, misses := 0, consec := 1, first := seq }

/-- An unmatched track after k frames; none when it is retired (R163) (DEDUCED, log entry 65). -/
def Track.unmatched (f : List Byte) (k : Nat) (t : Track) : Option Track :=
  let m := min 65535 (t.misses + k)
  match t.state with
  | 1 => none
  | 2 => some { t with state := 3, misses := m, consec := 0 }
  | _ => if tkMaxLost f < t.misses + k then none else some { t with misses := m, consec := 0 }

/-- A track's box. -/
def Track.box (t : Track) : Word × Word × Word × Word :=
  let half := f32Frac 1 2
  let w := f32Mul (t.val 2) half
  let h := f32Mul (t.val 3) half
  (f32Sub (t.val 0) w, f32Sub (t.val 1) h, f32Add (t.val 0) w, f32Add (t.val 1) h)

/-! ### Association (R160-R162) -/

/-- Dot product of two embeddings of INT8 codes. -/
def embDot (a b : List Byte) : Int := ((a.zip b).map fun x => x.1.toInt * x.2.toInt).sum

/-- Cosine distance (R160). -/
def embDist (a b : List Byte) : Word :=
  let one := f32OfInt 1
  let na := embDot a a
  let nb := embDot b b
  if a.length ≠ b.length ∨ na = 0 ∨ nb = 0 then one
  else f32Sub one (f32Div (f32OfInt (embDot a b)) (f32Sqrt (f32Mul (f32OfInt na) (f32OfInt nb))))

/-- An admissible pair: detection index, score, slot, track ID and cost. -/
structure Pair where
  det : Nat
  score : Word
  slot : Nat
  id : Nat
  cost : Word

/-- The pair of a detection and a predicted track, when it is admissible (R160). -/
def pairOf (f : List Byte) (i : Nat) (d : Det) (slot : Nat) (t : Track) : Option Pair :=
  let one := f32OfInt 1
  let iou := iouOf (d.x1, d.y1, d.x2, d.y2) t.box
  let dc := embDist d.emb t.emb
  let w := tkWord f 4
  let cost := if tkEmb f then f32Add (f32Mul w (f32Sub one iou)) (f32Mul (f32Sub one w) dc) else f32Sub one iou
  if f32Le (tkWord f 8) iou && f32Le cost (tkWord f 16) && (!tkEmb f || f32Le dc (tkWord f 12)) then some ⟨i, d.score, slot, t.id, cost⟩ else none

/-- All admissible pairs of a list of detections and predicted tracks. -/
def pairsOf (f : List Byte) (ds : List Det) (ts : List (Nat × Track)) : List Pair :=
  ((ds.zipIdx.map fun d => ts.filterMap fun t => pairOf f d.2 d.1 t.1 t.2).flatten)

/-- The order of R161. -/
def pairBefore (a b : Pair) : Bool :=
  if (f32 a.cost).eqv (f32 b.cost) then
    (if (f32 a.score).eqv (f32 b.score) then (if a.det = b.det then decide (a.id ≤ b.id) else decide (a.det < b.det)) else f32Lt b.score a.score)
  else f32Lt a.cost b.cost

/-- Pairs accepted in order when neither side is matched: detection and slot. -/
def greedy : List Pair → List (Nat × Nat) → List (Nat × Nat)
  | [], m => m
  | x :: t, m => if m.any (fun y => y.1 == x.det || y.2 == x.slot) then greedy t m else greedy t (m ++ [(x.det, x.slot)])

/-- Ordered greedy matching, beside what is matched already (R161). -/
def greedyMatch (ps : List Pair) (m : List (Nat × Nat)) : List (Nat × Nat) := greedy (sortBy pairBefore ps) m

/-- Value of a pair at the present prices of the tracks. -/
def pairValue (f : List Byte) (prices : Tab Word) (x : Pair) : Word := f32Sub (f32Sub (tkWord f 16) x.cost) (sparseGet 0 prices x.slot)

/-- The best pair of a detection, and its margin over the second best; staying unmatched is worth 0 (log entry 30). -/
def bestBid (f : List Byte) (prices : Tab Word) (ps : List Pair) (d : Nat) : Option (Pair × Word) :=
  let l := (ps.filter fun x => x.det == d).map fun x => (x, pairValue f prices x)
  let best := l.foldl (fun m x => match m with
    | none => some x
    | some b => if f32Lt b.2 x.2 || ((f32 b.2).eqv (f32 x.2) && decide (x.1.id < b.1.id)) then some x else some b) none
  match best with
  | none => none
  | some b =>
    if f32Pos b.2 then
      let second := ((l.filter fun x => x.1.slot != b.1.slot).map (·.2)).foldl f32Max 0
      some (b.1, f32Sub b.2 second)
    else none

/-- The auction: n bids at most, each by a detection that the free value picks among those that can bid, since bids are served in
their order of arrival (R162, log entry 30). -/
def State.auction (s : State) (f : List Byte) (ps : List Pair) (dets : List Nat) (prices : Tab Word) (m : List (Nat × Nat)) :
    Nat → State × List (Nat × Nat)
  | 0 => (s, m)
  | n + 1 =>
    let bids := (dets.filter fun d => !m.any fun y => y.1 == d).filterMap fun d => bestBid f prices ps d
    if bids.isEmpty then (s, m)
    else
      match s.drawFree with
      | (v, s1) =>
        match bids[v.toNat % bids.length]? with
        | none => (s1, m)
        | some b =>
          let slot := b.1.slot
          let price := f32Add (sparseGet 0 prices slot) (f32Add b.2 (tkWord f 36))
          s1.auction f ps dets (tabErase prices slot ++ [(slot, price)]) ((m.filter fun y => y.2 != slot) ++ [(b.1.det, slot)]) n

/-- The matching of a profile: detections and slots, and whether R161 replaced the auction (R161, R162). -/
def State.associate (s : State) (f : List Byte) (det : Bool) (ds : List Det) (ts : List (Nat × Track)) : State × List (Nat × Nat) × Bool :=
  let ps := pairsOf f ds ts
  if tkAuction f && !det then
    match s.auction f ps (List.range ds.length) [] [] 65536 with
    | (s1, m) => (s1, greedyMatch ps m, false)
  else (s, greedyMatch ps [], tkAuction f && det)

/-! ### The grid index (R165, R166) -/

/-- Cell size of a Quad in pixels; 0 reads as 1. -/
def State.cellSize (s : State) (q : Nat) : Nat := max 1 (s.fld (Reg.ppCtrl q) 13 8) * 16

/-- The cells that a box overlaps: first and last column, first and last row. -/
def boxCells (cell : Nat) (b : Word × Word × Word × Word) : Int × Int × Int × Int :=
  let c := fun w => (f32 w).floor / (cell : Int)
  (c b.1, c b.2.2.1, c b.2.1, c b.2.2.2)

/-- INDEX_REBUILD_PASS: the inactive copy is built from the track table, each box widened by one cell on each side, and is complete. -/
def State.rebuildIndex (s : State) (q : Nat) : State :=
  let x := s.quad q
  let cell := s.cellSize q
  let es := x.tracks.map fun t => let b := boxCells cell t.2.box; (t.1, b.1 - 1, b.2.1 + 1, b.2.2.1 - 1, b.2.2.2 + 1)
  s.setQuad q { x with copies := listUpd x.copies (1 - x.active) fun _ => ⟨cell, es, true⟩ }

def execIndexRebuildPass (n : QuadIx) (s : State) : Host.Outcome State Fault Refusal :=
  .next (if s.domOn (quadDom n) then s.rebuildIndex n else s)

/-- Between two TRACKs the copies swap if the pass is complete; else it restarts and REBUILD_MISS counts (R166). -/
def State.indexBoundary (s : State) (q : Nat) : State :=
  let x := s.quad q
  let i := 1 - x.active
  let new := listAt ⟨64, [], false⟩ x.copies i
  if new.complete then
    s.setQuad q { x with active := i, copies := listUpd x.copies x.active fun c => { c with complete := false },
                         overflow := x.overflow.filter fun sl => !new.entries.any fun e => e.1 == sl }
  else s.bump (Reg.tkStat q) 31 16 1

/-- A track lies outside the region in which the copy in use entered it, or was never entered. -/
def Quad.outside (x : Quad) (slot : Nat) (t : Track) : Bool :=
  let c := listAt ⟨64, [], false⟩ x.copies x.active
  match c.entries.find? fun e => e.1 == slot with
  | none => true
  | some e =>
    let b := boxCells c.cell t.box
    !(decide (e.2.1 ≤ b.1) && decide (b.2.1 ≤ e.2.2.1) && decide (e.2.2.2.1 ≤ b.2.2.1) && decide (b.2.2.2 ≤ e.2.2.2.2))

/-- Slots put in the overflow list, which holds 256; and whether it is full (DEDUCED, log entry 64). -/
def overflowAdd (l : List Nat) (slots : List Nat) : List Nat × Bool :=
  let r := slots.foldl (fun l k => if l.contains k || decide (256 ≤ l.length) then l else l ++ [k]) l
  (r, decide (256 ≤ r.length))

/-! ### TRACK (R163, R164, R171) -/

/-- Tracks of a stream in a Quad. -/
def Quad.ofStream (x : Quad) (p ix : Nat) : List (Nat × Track) := x.tracks.filter fun t => t.2.part == p && t.2.stream == ix

/-- The next track ID after one (R164). -/
def nextTrackId (n : Nat) : Nat := if 0xFFFFFFFF ≤ n then 1 else n + 1

/-- New tracks for unmatched detections in order: the table, the next ID, slots made with the detection, and whether a slot was
missing. -/
def makeTracks (f : List Byte) (p ix seq base count : Nat) :
    List (Nat × Det) → Tab Track → Nat → List (Nat × Nat) → Bool → Tab Track × Nat × List (Nat × Nat) × Bool
  | [], tr, id, made, full => (tr, id, made, full)
  | (i, d) :: t, tr, id, made, full =>
    if f32Le (tkWord f 20) d.score then
      match (List.range count).find? fun k => (tabFind tr (base + k)).isNone with
      | some k => makeTracks f p ix seq base count t (tabPut tr (base + k) (newTrack f p ix id seq d)) (nextTrackId id) (made ++ [(i, base + k)]) full
      | none => makeTracks f p ix seq base count t tr id made true
    else makeTracks f p ix seq base count t tr id made full

/-- The object of a detection with its track, if any. -/
def objOf (d : Det) (t : Option Track) (isNew : Bool) : Obj :=
  match t with
  | none => ⟨d, 0, 0, false, false, 0, 0, 0, 0, 0⟩
  | some t => ⟨d, t.id, t.state, isNew, false, t.val 4, t.val 5, t.hits, t.misses, t.first⟩

/-- The object of a LOST track; its class and score are stated nowhere and are free (log entry 31). -/
def State.lostObj (s : State) (t : Track) : Obj × State :=
  match s.drawFree with
  | (a, s1) =>
    let b := t.box
    (⟨⟨b.1, b.2.1, b.2.2.1, b.2.2.2, a.setWidth 32, a.toNat / 2 ^ 32 % 2 ^ 16, []⟩, t.id, 3, false, true, t.val 4, t.val 5, t.hits,
      t.misses, t.first⟩, s1)

/-- Objects of LOST tracks in ascending track ID. -/
def State.lostObjs (s : State) : List Track → State × List Obj
  | [] => (s, [])
  | t :: r =>
    match s.lostObj t with
    | (o, s1) =>
      match s1.lostObjs r with
      | (s2, os) => (s2, o :: os)

/-- The work of a TRACK of a stream on the frame of FRAME_SEQ seq: the state with the Quad's table, and what it found. -/
def State.trackRun (s : State) (p ix : Nat) (st : Stream) (f : List Byte) (det : Bool) (seq digest : Nat) (sn : SnuffOut) :
    State × TrackOut × Nat :=
  let q := st.quad
  let x := s.quad q
  let k := match st.lastSeq with | none => 1 | some l => (seq + 2 ^ 32 - l % 2 ^ 32) % 2 ^ 32
  let ts := (x.ofStream p ix).map fun t => (t.1, t.2.predict f k)
  let ov := overflowAdd x.overflow ((ts.filter fun t => x.outside t.1 t.2).map (·.1))
  match s.associate f det sn.dets ts with
  | (s1, m, forced) =>
    let after := ts.map fun t =>
      match m.find? fun y => y.2 == t.1 with
      | some y => (t.1, t.2.id, some (t.2.matched f (listAt ⟨0, 0, 0, 0, 0, 0, []⟩ sn.dets y.1)))
      | none => (t.1, t.2.id, t.2.unmatched f k)
    let kept := after.filterMap fun t => t.2.2.map fun v => (t.1, v)
    let goneSlots := (after.filter fun t => t.2.2.isNone).map (·.1)
    let retired := sortBy (fun a b => decide (a ≤ b)) ((after.filter fun t => t.2.2.isNone).map (·.2.1))
    let tab0 := kept.foldl (fun tr t => tabPut tr t.1 t.2) x.tracks
    let un := (sn.dets.zipIdx.filter fun d => !m.any fun y => y.1 == d.2).map fun d => (d.2, d.1)
    match makeTracks f p ix seq st.base st.count un tab0 st.nextTrack [] false with
    | (tab1, next, made, full) =>
      let ov2 := overflowAdd ov.1 (made.map (·.2))
      let objs := sn.dets.zipIdx.map fun d =>
        match made.find? fun y => y.1 == d.2 with
        | some y => objOf d.1 (tabFind tab1 y.2) true
        | none =>
          match m.find? fun y => y.1 == d.2 with
          | some y => objOf d.1 (tabFind tab1 y.2) false
          | none => objOf d.1 none false
      let lost := if tkLost f then sortBy (fun a b => decide (a.id ≤ b.id)) ((kept.map (·.2)).filter fun t => t.state == 3) else []
      match s1.lostObjs lost with
      | (s2, los) =>
        let tab2 := tab1.filter fun t => !goneSlots.contains t.1
        let drop := fun (c : IndexCopy) => { c with entries := c.entries.filter fun e => !goneSlots.contains e.1 }
        let x2 : Quad := { x with tracks := tab2, copies := x.copies.map drop, overflow := ov2.1.filter fun sl => !goneSlots.contains sl }
        let s3 := (s2.setQuad q x2).bump (Reg.tkStat q) 15 0 (boolNat (ov.2 || ov2.2))
        (s3, ⟨objs ++ los, retired, full, forced, (x2.ofStream p ix).length, digest, sn, []⟩, next)

/-- The detections that a TRACK reads: none after a failure of the frame's chain, or without a SNUFF of its frame or, failing that, of its
stream since the last TRACK (R171, R241) (DEDUCED, log entry 165). -/
def State.trackDets (s : State) (c : Cmd) (st : Stream) : SnuffOut :=
  let no : SnuffOut := ⟨[], 0, false, false⟩
  match s.jobOf c with
  | some j => if j.status.success then (j.snuff.getD (st.snuff.getD no)) else no
  | none => st.snuff.getD no

/-- The layer digest that goes to RUN_DIGEST: the TRACK's, else the binding's, else 0 (R145, R242). -/
def State.trackDigest (s : State) (c : Cmd) (st : Stream) : Res Nat :=
  let a := if c.par 24 8 ≠ 0 then c.par 24 8 else
    match c.src with
    | .ring _ => 0
    | .frame _ _ slot => if st.digSrc.testBit 63 then st.slotBase + slot * st.slotSize + natBits st.digSrc 36 0 else st.digSrc
  if a = 0 then .ok 0
  else
    match s.rd c.part a 8 with
    | .error e => .error e
    | .ok bs => .ok (leNat bs)

/-- Film grain bytes of a frame named by a ring's TRACK, read through its segment handles (R168, R202). -/
def State.frameGrain (s : State) (p : Nat) (d : List Byte) : List Byte :=
  let n := min 256 (fieldAt d 34 2)
  if (fieldAt d 29 1).testBit 3 then
    ((List.range n).map fun i => match s.frameBytes p d (fieldAt d 40 4 + i) 1 with | .ok bs => bs | .error _ => [0]).flatten
  else []

/-- What a TRACK leaves for its frame: the job of a chain takes it; a TRACK on a ring writes or queues its record at once. A record
that cannot be written leaves all as it was before. -/
def State.trackEmit (s old : State) (c : Cmd) (st : Stream) (d : List Byte) (o : TrackOut) : State :=
  let n := BitVec.ofNat 32 (o.objs.length % 65536)
  let ix := c.stream
  let s1 := s.updStream c.part ix fun st => { st with objs := o.objs }
  match c.src with
  | .frame .. => (s1.updJob c fun j => { j with track := some o }).endCmd c.id .ok n
  | .ring _ =>
    let bs := bmrBytes st ix d (s.frameGrain c.part d) o [] false (if c.mapChanged then .detMapChanged else .ok) s.stamp.toNat
    let dst := c.par 16 8
    if dst ≠ 0 then
      match s1.wr c.part dst bs with
      | .error e => (old.noteFault 0x34 c.part e).endCmd c.id e.1 0
      | .ok s2 => (s2.updStream c.part ix fun st => { st with skipped := 0 }).endCmd c.id .ok n
    else if st.outRing || st.outEth then
      (s1.updStream c.part ix fun st => { st with bmrs := st.bmrs ++ [⟨bs, fieldAt d 0 4, none, some c.id, st.outRing, st.outEth, false⟩] }).updCmd
        c.id fun x => { x with phase := .active, status := .ok, detail := n }
    else s1.endCmd c.id .ok n

/-- A TRACK whose inputs have been read. -/
def State.trackGo (s : State) (c : Cmd) (st : Stream) (f d : List Byte) (digest : Nat) (tokens : List TokenList) : State :=
  let seq := fieldAt d 0 4
  match s.trackRun c.part c.stream st f c.det seq digest (s.trackDets c st) with
  | (s1, o, next) =>
    let s2 := s1.updStream c.part c.stream fun st => { st with nextTrack := next, lastSeq := some seq, snuff := none }
    s2.trackEmit s c st d { o with tokens := tokens }

/-- A destination that a TRACK on a ring cannot write stops it before anything changes. -/
def State.trackDstOk (s : State) (c : Cmd) : Bool :=
  match c.src with
  | .frame .. => true
  | .ring _ => decide (c.par 16 8 = 0) || (s.translate c.part (c.par 16 8) 64 .wr).isSome

/-- TRACK ends with a failure, whose address or memory error is recorded. -/
def State.trackFail (s : State) (c : Cmd) (e : Status × Option Nat) : State := (s.noteFault 0x34 c.part e).endCmd c.id e.1 0

/-- TRACK on the Tracker of the stream's Quad (R148, R156-R166). -/
def State.opTrack (tokens : List TokenList) (c : Cmd) (s : State) : State :=
  match s.stream? c.part c.stream with
  | none => s.endCmd c.id .notOwner 0
  | some st =>
    let q := st.quad
    if (s.flag (Reg.ppCtrl q) 1 = false ∧ c.begun = false) ∨ s.domOn (quadDom q) = false then s.endCmd c.id .isolated 0
    else
      match s.engineTurn (48 + q) c fun x => (x.opcode == 0x51 || x.opcode == 0x52) && x.members == [q] with
      | (s0, false) => s0
      | (s0, true) =>
        let s1 := s0.indexBoundary q
        match s1.readProfile c (c.par 0 8) 64 with
        | .error e => s1.trackFail c e
        | .ok f =>
          if tkOk f = false then s1.endCmd c.id .badOpcode 0
          else
            match s1.frameDesc c 8 with
            | .error e => s1.trackFail c e
            | .ok d =>
              match s1.trackDigest c st with
              | .error e => s1.trackFail c e
              | .ok dg => if s1.trackDstOk c then s1.trackGo c st f d dg tokens else s1.trackFail c (.bounds, some (c.par 16 8))

def execTrack (x : TrackCall) (s : State) : Host.Outcome State Fault Refusal :=
  .next (s.runOp x.id 0x51 (State.opTrack x.tokens))

/-- Every track of a stream leaves its Quad: the table, the index copies and the overflow list. -/
def State.dropTracks (s : State) (q p ix : Nat) : State :=
  let x := s.quad q
  let gone := (x.ofStream p ix).map (·.1)
  let drop := fun (c : IndexCopy) => { c with entries := c.entries.filter fun e => !gone.contains e.1 }
  s.setQuad q { x with tracks := x.tracks.filter fun t => !gone.contains t.1, copies := x.copies.map drop,
                       overflow := x.overflow.filter fun sl => !gone.contains sl }

/-- TRACK_RESET: every track of the stream is retired unreported, and numbering restarts at 1 (R164). -/
def State.opTrackReset (c : Cmd) (s : State) : State :=
  match s.stream? c.part c.stream with
  | none => s.endCmd c.id .notOwner 0
  | some st =>
    match s.engineTurn (48 + st.quad) c fun x => (x.opcode == 0x51 || x.opcode == 0x52) && x.members == [st.quad] with
    | (s1, false) => s1
    | (s1, true) =>
      let n := ((s1.quad st.quad).ofStream c.part c.stream).length
      ((s1.dropTracks st.quad c.part c.stream).updStream c.part c.stream fun st => { st with nextTrack := 1, lastSeq := none }).endCmd
        c.id .ok (BitVec.ofNat 32 n)

def execTrackReset (id : Nat) (s : State) : Host.Outcome State Fault Refusal := .next (s.runOp id 0x52 State.opTrackReset)

end Sys2Proof.Machine
end

