-- ==== Sys2Proof/Machine/Jpeg.lean ====
section
/-!
DEFINITION. Snapshot encoders: SNAPSHOT, the region and the planes of an object, the baseline JPEG, and SNAPSHOT_OBJECT_ENCODE
(R224-R226).
-/

namespace Sys2Proof.Machine

/-- Luminance quantisation of ISO/IEC 10918-1 Annex K.1, row by row. -/
def jpegQLuma : List Nat :=
  [16, 11, 10, 16, 24, 40, 51, 61, 12, 12, 14, 19, 26, 58, 60, 55, 14, 13, 16, 24, 40, 57, 69, 56,
   14, 17, 22, 29, 51, 87, 80, 62, 18, 22, 37, 56, 68, 109, 103, 77, 24, 35, 55, 64, 81, 104, 113, 92,
   49, 64, 78, 87, 103, 121, 120, 101, 72, 92, 95, 98, 112, 100, 103, 99]

/-- Chrominance quantisation of Annex K.1. -/
def jpegQChroma : List Nat :=
  [17, 18, 24, 47, 99, 99, 99, 99, 18, 21, 26, 66, 99, 99, 99, 99, 24, 26, 56, 99, 99, 99, 99, 99,
   47, 66, 99, 99, 99, 99, 99, 99, 99, 99, 99, 99, 99, 99, 99, 99, 99, 99, 99, 99, 99, 99, 99, 99,
   99, 99, 99, 99, 99, 99, 99, 99, 99, 99, 99, 99, 99, 99, 99, 99]

/-- Codes of each length of the four tables of Annex K.3, and their values. -/
def jpegDcLumaBits : List Nat :=
  [0, 1, 5, 1, 1, 1, 1, 1, 1, 0, 0, 0, 0, 0, 0, 0]

/-- See jpegDcLumaBits. -/
def jpegDcChromaBits : List Nat :=
  [0, 3, 1, 1, 1, 1, 1, 1, 1, 1, 1, 0, 0, 0, 0, 0]

/-- See jpegDcLumaBits. -/
def jpegAcLumaBits : List Nat :=
  [0, 2, 1, 3, 3, 2, 4, 3, 5, 5, 4, 4, 0, 0, 1, 125]

/-- See jpegDcLumaBits. -/
def jpegAcChromaBits : List Nat :=
  [0, 2, 1, 2, 4, 4, 3, 4, 7, 5, 4, 4, 0, 1, 2, 119]

/-- See jpegDcLumaBits. -/
def jpegAcLumaVals : List Nat :=
  [1, 2, 3, 0, 4, 17, 5, 18, 33, 49, 65, 6, 19, 81, 97, 7, 34, 113, 20, 50, 129, 145, 161, 8,
   35, 66, 177, 193, 21, 82, 209, 240, 36, 51, 98, 114, 130, 9, 10, 22, 23, 24, 25, 26, 37, 38, 39, 40,
   41, 42, 52, 53, 54, 55, 56, 57, 58, 67, 68, 69, 70, 71, 72, 73, 74, 83, 84, 85, 86, 87, 88, 89,
   90, 99, 100, 101, 102, 103, 104, 105, 106] ++
  [115, 116, 117, 118, 119, 120, 121, 122, 131, 132, 133, 134, 135, 136, 137, 138, 146, 147, 148, 149, 150, 151, 152, 153,
   154, 162, 163, 164, 165, 166, 167, 168, 169, 170, 178, 179, 180, 181, 182, 183, 184, 185, 186, 194, 195, 196, 197, 198,
   199, 200, 201, 202, 210, 211, 212, 213, 214, 215, 216, 217, 218, 225, 226, 227, 228, 229, 230, 231, 232, 233, 234, 241,
   242, 243, 244, 245, 246, 247, 248, 249, 250]

/-- See jpegDcLumaBits. -/
def jpegAcChromaVals : List Nat :=
  [0, 1, 2, 3, 17, 4, 5, 33, 49, 6, 18, 65, 81, 7, 97, 113, 19, 34, 50, 129, 8, 20, 66, 145,
   161, 177, 193, 9, 35, 51, 82, 240, 21, 98, 114, 209, 10, 22, 36, 52, 225, 37, 241, 23, 24, 25, 26, 38,
   39, 40, 41, 42, 53, 54, 55, 56, 57, 58, 67, 68, 69, 70, 71, 72, 73, 74, 83, 84, 85, 86, 87, 88,
   89, 90, 99, 100, 101, 102, 103, 104, 105] ++
  [106, 115, 116, 117, 118, 119, 120, 121, 122, 130, 131, 132, 133, 134, 135, 136, 137, 138, 146, 147, 148, 149, 150, 151,
   152, 153, 154, 162, 163, 164, 165, 166, 167, 168, 169, 170, 178, 179, 180, 181, 182, 183, 184, 185, 186, 194, 195, 196,
   197, 198, 199, 200, 201, 202, 210, 211, 212, 213, 214, 215, 216, 217, 218, 226, 227, 228, 229, 230, 231, 232, 233, 234,
   242, 243, 244, 245, 246, 247, 248, 249, 250]

/-- Zigzag order: row * 8 + column of each position. -/
def jpegZigzag : List Nat :=
  [0, 1, 8, 16, 9, 2, 3, 10, 17, 24, 32, 25, 18, 11, 4, 5, 12, 19, 26, 33, 40, 48, 41, 34,
   27, 20, 13, 6, 7, 14, 21, 28, 35, 42, 49, 56, 57, 50, 43, 36, 29, 22, 15, 23, 30, 37, 44, 51,
   58, 59, 52, 45, 38, 31, 39, 46, 53, 60, 61, 54, 47, 55, 62, 63]

/-! ### The transform (R225) -/

/-- Binary32 constants nearest to cos(j * pi / 16) / 2, j = 1 to 7. -/
def dctCos : List Word := [0x3EFB14BE, 0x3EEC835E, 0x3ED4DB31, 0x3EB504F3, 0x3E8E39DA, 0x3E43EF15, 0x3DC7C5C2]

/-- C(k) / 2 * cos((2n + 1) k pi / 16). -/
def dctConst (k n : Nat) : Word :=
  if k = 0 then 0x3EB504F3
  else
    let j := (2 * n + 1) * k % 32
    let a := if 16 < j then 32 - j else j
    if a < 8 then listAt 0 dctCos (a - 1) else f32Neg (listAt 0 dctCos (15 - a))

/-- One-dimensional transform of eight values, by ascending summation. -/
def dct8 (l : List Word) : List Word :=
  (List.range 8).map fun k =>
    let ps := l.zipIdx.map fun x => f32Mul (dctConst k x.2) x.1
    (ps.drop 1).foldl f32Add (ps.headD 0)

/-- Column c of eight rows. -/
def column (rows : List (List Word)) (c : Nat) : List Word := rows.map fun r => listAt 0 r c

/-- Two-dimensional transform of eight rows of eight samples: rows, then columns. The result is by vertical then horizontal index. -/
def dct2d (rows : List (List Word)) : List (List Word) :=
  let f := rows.map dct8
  let cols := (List.range 8).map fun c => dct8 (column f c)
  (List.range 8).map fun r => column cols r

/-- A quantisation table at a quality (R225). -/
def jpegQuant (q : Nat) (t : List Nat) : List Nat :=
  let sc := if q < 50 then 5000 / q else 200 - 2 * q
  t.map fun x => max 1 (min 255 ((x * sc + 50) / 100))

/-- Quantised coefficients of a block in zigzag order. -/
def jpegBlock (q : List Nat) (rows : List (List Nat)) : List Int :=
  let f := dct2d (rows.map fun r => r.map fun x => f32OfInt ((x : Int) - 128))
  jpegZigzag.map fun i => (f32 (f32Div (listAt 0 (listAt [] f (i / 8)) (i % 8)) (f32OfInt (listAt 1 q i : Nat)))).rne

/-! ### Huffman coding -/

/-- Codes of a table: value, length and code, from the counts per length. -/
def huffCodes : List Nat → List Nat → Nat → Nat → List (Nat × Nat × Nat)
  | [], _, _, _ => []
  | b :: bs, vals, len, code =>
    ((vals.take b).zipIdx.map fun v => (v.1, len, code + v.2)) ++ huffCodes bs (vals.drop b) (len + 1) (2 * (code + b))

/-- Code bits of a value. -/
def huffBits (t : List (Nat × Nat × Nat)) (v : Nat) : List Bool :=
  match t.find? fun e => e.1 == v with
  | some e => bitsMsb e.2.1 e.2.2
  | none => []

/-- Category of a coefficient and its additional bits. -/
def magBits (v : Int) : Nat × List Bool :=
  let n := bitLen v.natAbs
  (n, bitsMsb n (if v < 0 then (v + (2 ^ n : Nat) - 1).toNat else v.toNat))

/-- AC coefficients coded, r zeros having been passed. -/
def acBits (t : List (Nat × Nat × Nat)) : List Int → Nat → List Bool
  | [], r => if 0 < r then huffBits t 0 else []
  | v :: l, r =>
    if v = 0 then acBits t l (r + 1)
    else
      let m := magBits (clampInt (-1023) 1023 v)
      ((List.range (r / 16)).map fun _ => huffBits t 0xF0).flatten ++ huffBits t (r % 16 * 16 + m.1) ++ m.2 ++ acBits t l 0

/-- A block coded after the DC prediction. -/
def blockBits (dc ac : List (Nat × Nat × Nat)) (pred : Int) (b : List Int) : List Bool :=
  let m := magBits (clampInt (-2047) 2047 (b.headD 0 - pred))
  huffBits dc m.1 ++ m.2 ++ acBits ac (b.drop 1) 0

/-- Bits packed into bytes, the last one filled with ones, with a zero byte after each 0xFF. -/
def packBits : List Bool → List Byte
  | a :: b :: c :: d :: e :: f :: g :: h :: t =>
    let v := [a, b, c, d, e, f, g, h].foldl (fun n x => 2 * n + boolNat x) 0
    BitVec.ofNat 8 v :: (if v = 255 then [0] else []) ++ packBits t
  | [] => []
  | l =>
    let v := ((l ++ List.replicate 8 true).take 8).foldl (fun n x => 2 * n + boolNat x) 0
    BitVec.ofNat 8 v :: (if v = 255 then [0] else [])

/-! ### The picture (R224, R225) -/

/-- A plane of samples, row by row. -/
structure Plane where
  w : Nat
  rows : List (List Nat)

/-- Sample of a plane, its last column and row repeated. -/
def Plane.at_ (p : Plane) (x y : Nat) : Nat := listAt 0 (listAt [] p.rows (min y (p.rows.length - 1))) (min x (p.w - 1))

/-- The block whose first sample is x, y. -/
def Plane.block (p : Plane) (x y : Nat) : List (List Nat) := (List.range 8).map fun j => (List.range 8).map fun i => p.at_ (x + i) (y + j)

/-- The coding tables, in the order DC and AC for luma, DC and AC for chroma. -/
def jpegTables : List (List (Nat × Nat × Nat)) :=
  [huffCodes jpegDcLumaBits (List.range 12) 1 0, huffCodes jpegAcLumaBits jpegAcLumaVals 1 0,
   huffCodes jpegDcChromaBits (List.range 12) 1 0, huffCodes jpegAcChromaBits jpegAcChromaVals 1 0]

/-- Six blocks of an MCU: four of Y, one of Cb and one of Cr. -/
def mcuBlocks (ql qc : List Nat) (y cb cr : Plane) (mx my : Nat) : List (List Int) :=
  [jpegBlock ql (y.block (16 * mx) (16 * my)), jpegBlock ql (y.block (16 * mx + 8) (16 * my)),
   jpegBlock ql (y.block (16 * mx) (16 * my + 8)), jpegBlock ql (y.block (16 * mx + 8) (16 * my + 8)),
   jpegBlock qc (cb.block (8 * mx) (8 * my)), jpegBlock qc (cr.block (8 * mx) (8 * my))]

/-- Blocks of an MCU coded after the predictions of Y, Cb and Cr; the predictions after it. -/
def mcuBits (ts : List (List (Nat × Nat × Nat))) (bs : List (List Int)) (pr : Int × Int × Int) : List Bool × (Int × Int × Int) :=
  let b := fun i => listAt [] bs i
  let dcOf := fun i => (b i).headD 0
  let dl := listAt [] ts 0
  let al := listAt [] ts 1
  let dc := listAt [] ts 2
  let ac := listAt [] ts 3
  (blockBits dl al pr.1 (b 0) ++ blockBits dl al (dcOf 0) (b 1) ++ blockBits dl al (dcOf 1) (b 2) ++ blockBits dl al (dcOf 2) (b 3) ++
     blockBits dc ac pr.2.1 (b 4) ++ blockBits dc ac pr.2.2 (b 5), (dcOf 3, dcOf 4, dcOf 5))

/-- Entropy-coded segments of a list of MCUs, with a restart marker after every r of them (0: none). -/
def scanBytes (ts : List (List (Nat × Nat × Nat))) (r : Nat) : List (List (List Int)) → Nat → Nat → (Int × Int × Int) → List Bool → List Byte
  | [], _, _, _, acc => packBits acc
  | m :: t, k, rst, pr, acc =>
    if 0 < r ∧ k = r then
      let x := mcuBits ts m (0, 0, 0)
      packBits acc ++ [0xFF, BitVec.ofNat 8 (0xD0 + rst % 8)] ++ scanBytes ts r t 1 (rst + 1) x.2 x.1
    else
      let x := mcuBits ts m pr
      scanBytes ts r t (k + 1) rst x.2 (acc ++ x.1)

/-- A 16-bit number, high byte first. -/
def be16 (n : Nat) : List Byte := (leBytes 2 n).reverse

/-- A table of DHT. -/
def dhtTable (cls : Byte) (bits vals : List Nat) : List Byte := cls :: (bits ++ vals).map (BitVec.ofNat 8 ·)

/-- The JPEG of three planes (R225) (DEDUCED, log entry 54). -/
def jpegBytes (quality restart : Nat) (w h : Nat) (y cb cr : Plane) : List Byte :=
  let ql := jpegQuant quality jpegQLuma
  let qc := jpegQuant quality jpegQChroma
  let zz := fun (q : List Nat) => jpegZigzag.map fun i => BitVec.ofNat 8 (listAt 0 q i)
  let dht := dhtTable 0x00 jpegDcLumaBits (List.range 12) ++ dhtTable 0x10 jpegAcLumaBits jpegAcLumaVals ++
    dhtTable 0x01 jpegDcChromaBits (List.range 12) ++ dhtTable 0x11 jpegAcChromaBits jpegAcChromaVals
  let nx := (w + 15) / 16
  let ny := (h + 15) / 16
  let mcus := (List.range (nx * ny)).map fun i => mcuBlocks ql qc y cb cr (i % nx) (i / nx)
  [0xFF, 0xD8, 0xFF, 0xE0] ++ be16 16 ++ [0x4A, 0x46, 0x49, 0x46, 0, 1, 1, 0] ++ be16 1 ++ be16 1 ++ [0, 0] ++
  [0xFF, 0xDB] ++ be16 132 ++ [0] ++ zz ql ++ [1] ++ zz qc ++
  [0xFF, 0xC0] ++ be16 17 ++ [8] ++ be16 h ++ be16 w ++ [3, 1, 0x22, 0, 2, 0x11, 1, 3, 0x11, 1] ++
  [0xFF, 0xC4] ++ be16 (2 + dht.length) ++ dht ++
  (if restart = 0 then [] else [0xFF, 0xDD] ++ be16 4 ++ be16 restart) ++
  [0xFF, 0xDA] ++ be16 12 ++ [3, 1, 0x00, 2, 0x11, 3, 0x11, 0, 63, 0] ++
  scanBytes jpegTables restart mcus 0 0 (0, 0, 0) [] ++ [0xFF, 0xD9]

/-! ### The region of an object (R224) -/

/-- Ceiling of a finite value. -/
def Num.ceil (x : Num) : Int := -(x.negate.floor)

/-- One side of a region: from the box's edges a and b, the margin in sixteenths, and the frame's extent: first and end. -/
def regionSide (a b : Word) (m16 extent : Nat) : Nat × Nat :=
  let d := ((f32 b).add (f32 a).negate).mul (.fin false m16 (-4))
  let lo := ((f32 a).add d.negate).floor / 2 * 2
  let hi := ((f32 b).add d).ceil
  let hi2 := hi + hi % 2
  let w := hi2 - lo
  let lo3 := if w < 16 then lo - (16 - w) / 2 else lo
  let hi3 := if w < 16 then lo3 + 16 else hi2
  let l := (clampInt 0 extent lo3).toNat
  let h := (clampInt 0 extent hi3).toNat
  if h - l < 16 then (if l = 0 then (0, min extent 16) else (h - 16, h)) else (l, h)

/-- An output side from a region side and the region's longer side. -/
def snapSide (side l maxSide : Nat) : Nat := if l ≤ maxSide then side else max 16 (side * maxSide / l / 2 * 2)

/-- A sample of 10 bits becomes one of 8. -/
def to8 (depth v : Nat) : Nat := if depth = 10 then (min 255 (rneDiv (v : Int) 4)).toNat else v

/-- A row of a resampled plane. -/
def planeRow (get : Nat → Except FrameErr Nat) : Nat → Nat → Except FrameErr (List Nat)
  | 0, _ => .ok []
  | n + 1, i =>
    match get i with
    | .error e => .error e
    | .ok v =>
      match planeRow get n (i + 1) with
      | .error e => .error e
      | .ok r => .ok (v :: r)

/-- Rows of a resampled plane. -/
def planeRows (get : Nat → Nat → Except FrameErr Nat) (w : Nat) : Nat → Nat → Except FrameErr (List (List Nat))
  | 0, _ => .ok []
  | n + 1, j =>
    match planeRow (fun i => get i j) w 0 with
    | .error e => .error e
    | .ok r =>
      match planeRows get w n (j + 1) with
      | .error e => .error e
      | .ok rs => .ok (r :: rs)

/-- A plane of w x h samples resampled to ow x oh (R215, R217). -/
def scalePlane (filter depth w h ow oh : Nat) (get : Int → Int → Except FrameErr Nat) : Except FrameErr Plane :=
  let sx := w * 65536 / ow
  let sy := h * 65536 / oh
  let taps := fun (n o u st : Nat) => axisTaps filter (decide (o < n)) (axisPos u st).pos (2 * (axisPos u st).lo) (2 * st)
  match planeRows (fun u v =>
      match resample depth (taps w ow u sx) (taps h oh v sy) get with
      | .error e => .error e
      | .ok x => .ok (to8 depth x)) ow oh 0 with
  | .error e => .error e
  | .ok rs => .ok ⟨ow, rs⟩

/-- The JPEG of an object of a frame: bytes, width and height. -/
def State.snapJpeg (s : State) (p : Nat) (f d : List Byte) (o : Det) : Except FrameErr (List Byte × Nat × Nat) :=
  let m16 := natBits (fieldAt f 2 1) 4 0
  let filter := if (fieldAt f 3 1).testBit 6 then 3 else 1
  let rx := regionSide o.x1 o.x2 m16 (fdWidth d)
  let ry := regionSide o.y1 o.y2 m16 (fdHeight d)
  let w := rx.2 - rx.1
  let h := ry.2 - ry.1
  let l := max w h
  let ow := snapSide w l (fieldAt f 4 2)
  let oh := snapSide h l (fieldAt f 4 2)
  let dep := fdDepth d
  let cw := (w + 1) / 2
  let chh := (h + 1) / 2
  match scalePlane filter dep w h ow oh fun i j => s.luma p d (rx.1 + edgeClamp w i) (ry.1 + edgeClamp h j) with
  | .error e => .error e
  | .ok y =>
    let ch := fun comp => scalePlane filter dep cw chh ((ow + 1) / 2) ((oh + 1) / 2) fun i j =>
      s.chroma p d comp (rx.1 / 2 + edgeClamp cw i) (ry.1 / 2 + edgeClamp chh j)
    match ch 0 with
    | .error e => .error e
    | .ok cb =>
      match ch 1 with
      | .error e => .error e
      | .ok cr => .ok (jpegBytes (fieldAt f 1 1) (fieldAt f 6 2) ow oh y cb cr, ow, oh)

/-! ### SNAPSHOT (R224, R226, R228) -/

/-- Ranges of the profile. -/
def seOk (f : List Byte) : Bool :=
  decide (1 ≤ fieldAt f 1 1) && decide (fieldAt f 1 1 ≤ 100) && decide (natBits (fieldAt f 2 1) 4 0 ≤ 16) && decide (16 ≤ fieldAt f 4 2) &&
  decide (fieldAt f 4 2 ≤ 1024) && decide (natBits (fieldAt f 12 1) 6 0 ≤ 64)

/-- The encoders that may take a partition's objects now: enabled, on, and in its SE_MASK (R227, R251). -/
def State.encoders (s : State) (p : Nat) : List Nat :=
  (List.range 2).filter fun m => s.flag Reg.seCtrl m && s.domOn (seDom m) && (s.limit p 9 1).testBit m

/-- Objects that a profile selects, with their index in the record (R224). -/
def snapSelect (f : List Byte) (objs : List Obj) : List (Nat × Det) :=
  ((objs.zipIdx.filter fun o => !o.1.coast && f32Le (BitVec.ofNat 32 (fieldAt f 8 4)) o.1.det.score &&
      (!(fieldAt f 3 1).testBit 7 || o.1.isNew)).map fun o => (o.2, o.1.det)).take (natBits (fieldAt f 12 1) 6 0)

/-- Bytes of a record up to its first block of TYPE 5 or above; n bounds the blocks passed. -/
def bmrSplit (bs : List Byte) : Nat → Nat → Nat
  | 0, off => off
  | n + 1, off => if bs.length ≤ off ∨ 5 ≤ fieldAt bs off 2 then off else bmrSplit bs n (off + max 8 (fieldAt bs (off + 2) 2))

/-- A record with a block put before its film grain and retired blocks. -/
def bmrInsert (bs blk : List Byte) : List Byte :=
  let k := bmrSplit bs bs.length 64
  let r := bs.take k ++ blk ++ bs.drop k
  overlay r 4 (leBytes 4 r.length)

/-- The record of a stream's last TRACK on a ring changed, while it still waits for its outputs (DEDUCED, log entry 57). -/
def State.lateBmr (s : State) (p ix : Nat) (f : List Byte → List Byte) : State :=
  s.updStream p ix fun st => { st with bmrs := st.bmrs.zipIdx.map fun b =>
    if b.2 + 1 = st.bmrs.length ∧ b.1.cmd.isSome = true then { b.1 with bytes := f b.1.bytes } else b.1 }

/-- SNAP_MISS set in a record's bytes. -/
def setSnapMiss (bs : List Byte) : List Byte := overlay bs 39 (leBytes 1 (fieldAt bs 39 1 ||| 2))

/-- An object misses its reference: SNAP_MISS in the frame's record (R226) (DESIGN CHOICE, log entry 56). -/
def State.snapMissed (s : State) (cmd p ix : Nat) : State :=
  match s.cmd? cmd with
  | none => s
  | some c =>
    match c.src with
    | .frame .. => s.updJob c fun j => { j with snapMiss := true }
    | .ring _ => s.lateBmr p ix setSnapMiss

/-- An object has its reference. -/
def State.snapRef (s : State) (cmd p ix : Nat) (r : SnapRef) : State :=
  match s.cmd? cmd with
  | none => s
  | some c =>
    match c.src with
    | .frame .. => s.updJob c fun j => { j with snaps := j.snaps ++ [r] }
    | .ring _ => s.lateBmr p ix fun bs => bmrInsert bs (snapBlock r)

/-- SNAPSHOT: the frame's selected objects wait for the encoders; with none available every object is a miss (R224, R228). -/
def State.opSnapshot (c : Cmd) (s : State) : State :=
  match s.stream? c.part c.stream with
  | none => s.endCmd c.id .notOwner 0
  | some st =>
    match s.readProfile c (c.par 0 8) 32 with
    | .error e => (s.noteFault 0x38 c.part e).endCmd c.id e.1 0
    | .ok f =>
      if seOk f = false then s.endCmd c.id .badOpcode 0
      else
        match s.frameDesc c 8 with
        | .error e => (s.noteFault 0x38 c.part e).endCmd c.id e.1 0
        | .ok d =>
          let objs := match s.jobOf c with
            | some j => ((j.track.map (·.objs)).getD st.objs)
            | none => st.objs
          let l := snapSelect f objs
          if l.isEmpty then s.endCmd c.id .ok 0
          else if (s.encoders c.part).isEmpty then
            ((s.snapMissed c.id c.part c.stream).bump (Reg.seStat 0) 31 16 l.length).endCmd c.id .ok (BitVec.ofNat 32 (l.length * 256))
          else
            let job : SnapJob := ⟨c.id, c.part, c.stream, d, f, l, 0, 0, none⟩
            ({ s with snaps := s.snaps ++ [job] } : State).updCmd c.id fun x => { x with phase := .active }

def execSnapshot (id : Nat) (s : State) : Host.Outcome State Fault Refusal := .next (s.runOp id 0x60 State.opSnapshot)

/-- One object of a job is over; the last one ends its SNAPSHOT. -/
def State.snapStep (s : State) (cmd : Nat) (missed : Bool) : State :=
  match s.snaps.find? fun j => j.cmd == cmd with
  | none => s
  | some j =>
    let done := j.done + boolNat !missed
    let miss := j.miss + boolNat missed
    if j.left.length ≤ 1 then
      ({ s with snaps := s.snaps.filter fun x => x.cmd != cmd } : State).endCmd cmd .ok (BitVec.ofNat 32 (done + miss * 256))
    else
      { s with snaps := s.snaps.map fun x => if x.cmd = cmd then { x with left := x.left.drop 1, done := done, miss := miss, begun := none } else x }

/-- The JPEG of an object put in a buffer of the profile's pool: the state and its handle (R226, R281). -/
def State.snapStore (s : State) (p pool : Nat) (bs : List Byte) : Option (State × Nat) :=
  if poolSize pool < bs.length then none
  else
    match s.allocPool p pool with
    | none => none
    | some (s1, h) =>
      let da := s1.bufDa (natBits h 54 52) (natBits h 47 24)
      if s1.accessStatus da = .ok then some (s1.store da bs, h) else none

/-- Bytes of the frame that an object's region reads. -/
def regionBytes (f d : List Byte) (o : Det) : Nat :=
  let m16 := natBits (fieldAt f 2 1) 4 0
  let rx := regionSide o.x1 o.x2 m16 (fdWidth d)
  let ry := regionSide o.y1 o.y2 m16 (fdHeight d)
  (rx.2 - rx.1) * (ry.2 - ry.1) * 3 / 2 * (if fdFmt d = 1 then 2 else 1)

/-- The charges of an object: its region of the frame, and its JPEG in a buffer of the pool, on the path of its stream (R271). -/
def State.objectCharges (s : State) (j : SnapJob) (o : Det) (pool n : Nat) : List (Nat × Nat) :=
  let path := match s.cmd? j.cmd with | some c => s.stagePath c | none => 2
  s.chargePath (s.handleDa (fdHandle j.desc 0)) path (regionBytes j.profile j.desc o) ++ s.chargePath (s.bufDa pool 0) path n

/-- An encoder works on the first object of a job: it stalls at the Shade and while the entries of the pool are being written, and then the
JPEG is stored (R224-R226, R271, R277) (DEDUCED, log entry 55). -/
def State.encodeObject (s : State) (n : Nat) (j : SnapJob) : State :=
  match j.left with
  | [] => s
  | (ix, o) :: _ =>
    let pool := natBits (fieldAt j.profile 3 1) 2 0
    let missed := fun (s : State) => ((s.snapMissed j.cmd j.part j.stream).bump (Reg.seStat n) 31 16 1).snapStep j.cmd true
    if s.poolInit.contains pool then s
    else
      match s.snapJpeg j.part j.profile j.desc o with
      | .error e => missed (s.frameFail 0x38 j.part e)
      | .ok (bs, w, h) =>
        match s.shadeAskAll j.part j.cmd (s.objectCharges j o pool bs.length) with
        | (s0, false) => s0
        | (s0, true) =>
          match s0.snapStore j.part pool bs with
          | none => missed s0
          | some (s1, hd) =>
            ((s1.snapRef j.cmd j.part j.stream ⟨ix, hd, bs.length, w, h⟩).bump (Reg.seStat n) 15 0 1).snapStep j.cmd false

/-- A job that an encoder may begin, or goes on with. -/
def State.jobFor (s : State) (n : Nat) (j : SnapJob) : Bool :=
  (s.encoders j.part).contains n && (match j.begun with | none => true | some m => m == n || !(s.encoders j.part).contains m)

/-- SNAPSHOT_OBJECT_ENCODE: an encoder goes on with the object that it has begun, or takes the oldest object of the partition that is
chosen; when every encoder of a job has been disabled, its objects are misses (R226, R228, R268). -/
def State.snapshotEncode (s : State) (n : Nat) : State :=
  let mine := s.snaps.filter fun j => s.jobFor n j
  let dead := s.snaps.find? fun j => (s.encoders j.part).isEmpty
  match dead with
  | some j => (((s.snapMissed j.cmd j.part j.stream).bump (Reg.seStat n) 31 16 1).snapStep j.cmd true)
  | none =>
    match mine.find? fun j => j.begun == some n with
    | some j => s.encodeObject n j
    | none =>
      if mine.isEmpty then s
      else
        let s0 := s.arbEnd (56 + n) 0
        let ready := (mine.map (·.part)).eraseDups
        let s1 := match (s0.arb (56 + n)).chosen with
          | some p => if ready.contains p then s0 else s0.arbDecide (56 + n) ready
          | none => s0.arbDecide (56 + n) ready
        match mine.find? fun j => (s1.arb (56 + n)).chosen == some j.part with
        | none => s1
        | some j =>
          let s2 : State := { s1 with snaps := s1.snaps.map fun x => if x.cmd = j.cmd then { x with begun := some n } else x }
          (s2.setArb (56 + n) { s2.arb (56 + n) with chosen := none, work := some (j.part, s2.nowNs) }).encodeObject n j

def execSnapshotObjectEncode (n : SeIx) (s : State) : Host.Outcome State Fault Refusal := .next (s.snapshotEncode n)

end Sys2Proof.Machine
end

