-- ==== Sys2Proof/Machine/Partition.lean ====
section
/-!
DEFINITION. Partition tables, PART_SWAP and re-forms, shares and Shades, RUN_ABORT, decision points, and the reset of one partition
(R42, R44, R249, R251-R275, R315, R386).
-/

namespace Sys2Proof.Machine

/-! ### Writes of shadow tables (R44, R251, R274, R275) -/

/-- A partition is being swapped: writes of its shadow tables are held until the flip (R275). -/
def State.swapping (s : State) (p : Nat) : Bool :=
  match s.swap.current with
  | none => false
  | some r => r.mask.toNat.testBit p

/-- A shadow table word replaced. -/
def State.putShadow (s : State) (p key : Nat) (w : Word) : State :=
  let x := s.part p
  s.setPart p { x with shadow := wordSet x.shadow key w }

/-- A shadow table word written through a register: held while the partition is swapped. -/
def State.shadowWrite (s : State) (p key : Nat) (w : Word) : State :=
  if s.swapping p then { s with swap := { s.swap with held := s.swap.held ++ [(p, key, w)] } } else s.putShadow p key w

/-- The word that a held write, or the shadow copy, has at a key: what the selected entry then holds (R44). -/
def State.shadowWord (s : State) (p key : Nat) : Word :=
  match (s.swap.held.filter fun h => h.1 == p && h.2.1 == key).getLast? with
  | some h => h.2.2
  | none => wordGet (s.part p).shadow key

/-- WIN_SEL: the entry is selected, WR_REFUSED is W1C, and a staged low word is discarded (R44). -/
def State.winSelWrite (s : State) (v : Word) : State :=
  let ref := s.flag Reg.winSel 30 && !bitOf v 30
  { s.setReg Reg.winSel (setBits (v &&& 0x80003F3F) 30 30 (boolNat ref)) with winLoStaged := none }

def execWinSelWrite (v : Word) (s : State) : Host.Outcome State Fault Refusal := .next (s.pfReach Reg.winSel (s.winSelWrite v))

/-- WIN_LO: the low word is staged (R44). -/
def State.winLoWrite (s : State) (v : Word) : State := { s with winLoStaged := some v }

def execWinLoWrite (v : Word) (s : State) : Host.Outcome State Fault Refusal := .next (s.pfReach Reg.winLo (s.winLoWrite v))

/-- WIN_HI: with SHADOW = 1 the staged low word, or the one that the entry holds, is committed with the high word; with SHADOW = 0 the
write is refused and the staged word stays (R44). -/
def State.winHiWrite (s : State) (v : Word) : State :=
  let sel := s.reg Reg.winSel
  let p := bitsOf sel 13 8
  let e := bitsOf sel 5 0
  if bitOf sel 31 then
    let lo := match s.winLoStaged with
      | some w => w
      | none => s.shadowWord p (tabKey 0 (2 * e))
    { (s.shadowWrite p (tabKey 0 (2 * e)) lo).shadowWrite p (tabKey 0 (2 * e + 1)) v with winLoStaged := none }
  else s.setFlag Reg.winSel 30 true

def execWinHiWrite (v : Word) (s : State) : Host.Outcome State Fault Refusal := .next (s.pfReach Reg.winHi (s.winHiWrite v))

/-- WORD of PT_SEL advances (R274). -/
def State.ptAdvance (s : State) : State := s.setFld Reg.ptSel 8 0 (s.fld Reg.ptSel 8 0 + 1)

/-- A write to PT_DATA (R274). -/
def State.ptWrite (s : State) (v : Word) : State :=
  let sel := s.reg Reg.ptSel
  let t := bitsOf sel 26 24
  let w := bitsOf sel 8 0
  let s1 := if bitOf sel 31 = true ∧ 1 ≤ t ∧ t ≤ 4 ∧ w < tableWords t then s.shadowWrite (bitsOf sel 21 16) (tabKey t w) v
    else s.setFlag Reg.ptSel 30 true
  s1.ptAdvance

def execPtDataWrite (v : Word) (s : State) : Host.Outcome State Fault Refusal := .next (s.pfReach Reg.ptData (s.ptWrite v))

/-- A read of PT_DATA: the selected word; WORD advances (R274). -/
def State.ptRead (s : State) : State × Word := (s.ptAdvance, s.ptWord)

def execPtDataRead (s : State) : Host.Outcome State Fault Refusal :=
  .next (s.pfRead Reg.ptData { s.ptRead.1 with outs := { s.ptRead.1.outs with busData := s.ptRead.2.setWidth 64 } })

/-- The command is the first of its ring's management commands that Ozmel has not begun; none is begun before READY or during a
handover (R235, R356) (DEDUCED, log entries 95, 106). -/
def State.mgmtTurn (s : State) (c : Cmd) : Bool :=
  s.ozmel.ready && s.ozmel.running && s.ozmel.handover.isNone && s.ozmel.activateWaits.isNone && ((s.cmds.find? fun x => x.src == c.src && x.phase == .issued && decide (0x80 ≤ x.opcode)).map (·.id)) == some c.id

/-- The step of a management opcode, in ring order. -/
def State.runMgmt (s : State) (id opcode : Nat) (f : Cmd → State → State) : State :=
  s.runOp id opcode fun c s => if s.mgmtTurn c then f c s else s

/-- PART_WRITE_SHADOW applied: the source range is read and becomes the shadow table (R251). -/
def State.writeShadow (s : State) (c : Cmd) : State :=
  let p := c.par 0 1 % 64
  let t := c.par 1 1
  let len := c.par 4 4
  if 4 < t ∨ len ≠ 4 * tableWords t then s.endCmd c.id .badOpcode 0
  else
    match s.translate c.part (c.par 8 8) len .rd with
    | none => (s.noteFault 0x09 c.part (.bounds, some (c.par 8 8))).endCmd c.id .bounds 0
    | some da =>
      match s.shadeAskAll c.part (cmdKey c.id) (s.chargePath da 3 len) with
      | (s1, false) => s1
      | (s1, true) =>
        match s1.readStatus da len with
        | (.ok, _) =>
          ((bytesWords (s1.readMem da len)).zipIdx.foldl (fun s w => s.putShadow p (tabKey t w.2) w.1) s1).endCmd c.id .ok 0
        | (e, some w) => (s1.memError w).endCmd c.id e 0
        | (e, none) => s1.endCmd c.id e 0

/-- PART_WRITE_SHADOW: held while it names a partition that is being swapped (R251, R275). -/
def State.opPartWriteShadow (c : Cmd) (s : State) : State :=
  if s.swapping (c.par 0 1 % 64) then
    { s.updCmd c.id fun c => { c with phase := .active } with swap := { s.swap with heldCmds := s.swap.heldCmds ++ [c.id] } }
  else s.writeShadow c

def execPartWriteShadow (id : Nat) (s : State) : Host.Outcome State Fault Refusal := .next (s.runMgmt id 0x80 State.opPartWriteShadow)

/-! ### New tables and what changes (R251, R258) -/

/-- A child that is the Lantern, or an entry of which it is the only member. -/
def childGone (t : WordTab) (n : Nat) : Child → Bool
  | .lantern m => m == n
  | .entry e => gangMembers t e == [n]

/-- The byte of a child. -/
def childByte : Child → Byte
  | .lantern n => BitVec.ofNat 8 (128 + n)
  | .entry e => BitVec.ofNat 8 e

/-- The 32 bytes of a gang entry without some children; KIND becomes 0 when none is left (R257). -/
def entryWithout (b : List Byte) (l : List Child) : List Byte :=
  if l.isEmpty then overlay b 0 (leBytes 1 (fieldAt b 0 1 / 4 * 4))
  else
    let b1 := overlay b 1 (leBytes 1 (fieldAt b 1 1 / 16 * 16 + l.length))
    overlay b1 2 ((l.map childByte ++ List.replicate 8 0).take 8)

/-- A gang entry written into a table. -/
def putEntry (t : WordTab) (e : Nat) (b : List Byte) : WordTab :=
  (bytesWords b).zipIdx.foldl (fun t w => wordSet t (tabKey 2 (8 * e + w.2)) w.1) t

/-- A table in which a Lantern is removed from a gang entry, and from the nested entries that hold it beside others (R257)
(DEDUCED, log entry 90). -/
def reformTable (t : WordTab) (n : Nat) : Nat → Nat → WordTab
  | 0, _ => t
  | k + 1, e =>
    let b := gangEntry t e
    let l := (gangChildren b).filter fun c => !childGone t n c
    let t1 := putEntry t e (entryWithout b l)
    l.foldl (fun t1 c => match c with
      | .lantern _ => t1
      | .entry f => if (gangMembers t f).contains n then reformTable t1 n k f else t1) t1

/-- The table that a request makes active in a partition: its shadow, or its active table with a re-form. -/
def State.newTable (s : State) (r : SwapReq) (p : Nat) : WordTab :=
  if r.mask.toNat.testBit p then
    match r.reform with
    | none => (s.part p).shadow
    | some (_, e, n) => reformTable (s.part p).active n 4 e
  else (s.part p).active

/-- The new tables of all partitions. -/
def State.newTables (s : State) (r : SwapReq) : List WordTab := (List.range 64).map fun p => s.newTable r p

def tabAt (l : List WordTab) (p : Nat) : WordTab := listAt [] l p

/-- Partitions of a request, ascending. -/
def SwapReq.parts (r : SwapReq) : List Nat := (List.range 64).filter fun p => r.mask.toNat.testBit p

/-- The words of window entry e, none unless it is valid. -/
def winOf (t : WordTab) (e : Nat) : Option (Word × Word) :=
  let hi := tableWord t 0 (2 * e + 1)
  if bitOf hi 31 then some (tableWord t 0 (2 * e), hi) else none

/-- What a partition holds of a table: nothing without VALID (R251). -/
def effWin (t : WordTab) (e : Nat) : Option (Word × Word) := if tabValid t then winOf t e else none
def effEntry (t : WordTab) (e : Nat) : List Byte := if tabValid t then gangEntry t e else List.replicate 32 0
def effRange (t : WordTab) (i : Nat) : Option (Word × Word) :=
  if tabValid t && decide (bitsOf (tableWord t 4 (2 * i)) 30 16 ≠ 0) then some (tableWord t 4 (2 * i), tableWord t 4 (2 * i + 1)) else none

/-- Track range of a Quad: first slot, slots, MOVE and TO (LIMITS). -/
structure TrackRange where
  base : Nat
  count : Nat
  move : Bool
  dst : Nat
deriving DecidableEq, Repr

def trackRange (t : WordTab) (q : Nat) : TrackRange :=
  let w := tableWord t 3 (3 + q)
  ⟨bitsOf w 11 0, bitsOf w 28 16, bitOf w 29, bitsOf w 31 30⟩

/-! ### The checks of PART_SWAP (R42, R248, R252-R255, R315) -/

/-- The part of a target range that lies in Ingot n is inside the partition's quota there. -/
def inQuota (t : WordTab) (a len n : Nat) : Bool :=
  let base := ingotBase + mib8 * n
  let lo := max a base
  let hi := min (a + len) (base + mib8)
  let w := tableWord t 1 n
  decide (hi ≤ lo) || (bitOf w 31 && decide (base + mib2 * bitsOf w 5 4 ≤ lo) && decide (hi ≤ base + mib2 * (bitsOf w 5 4 + bitsOf w 2 0)))

/-- A window entry fails a check of R42. -/
def State.winBad (s : State) (t : WordTab) (e : Nat) : Bool :=
  match winOf t e with
  | none => false
  | some (lo, hi) =>
    let a := winTarget hi
    let n := winLen lo
    let ingot := decide (ingotBase ≤ a) && decide (a + n ≤ ingotBase + 16 * mib8)
    decide (2 ^ 37 < winBase lo + n) ||
    ((List.range 64).any fun f => f != e && (match winOf t f with | some (l, _) => overlaps (winBase l) (winLen l) (winBase lo) n | none => false)) ||
    !s.rangeBacked a n || (ingot && !(List.range 16).all fun m => inQuota t a n m) ||
    (bitOf hi 28 && !bitOf hi 30 && !bitOf hi 29) ||
    (((List.range 8).any fun k => s.poolEn k) && overlaps a n s.stateTable.1 s.stateTable.2)

/-- The first failure among some partitions and the entries below n. -/
def firstBad (ps : List Nat) (n : Nat) (f : Nat → Nat → Bool) : Option (Nat × Nat) :=
  (ps.flatMap fun p => (List.range n).map fun e => (p, e)).find? fun x => f x.1 x.2

/-- Units of a quota entry: first and end. -/
def quotaUnits (w : Word) : Nat × Nat := (bitsOf w 5 4, bitsOf w 5 4 + bitsOf w 2 0)

/-- A LANTERN entry that a partition holds. -/
def quotaWord (t : WordTab) (n : Nat) : Option Word :=
  if tabValid t && bitOf (tableWord t 1 n) 31 then some (tableWord t 1 n) else none

/-- A LANTERN entry fails R252. -/
def quotaBad (ts : List WordTab) (p n : Nat) : Bool :=
  match quotaWord (tabAt ts p) n with
  | none => false
  | some w =>
    decide (bitsOf w 2 0 = 0) || decide (4 < (quotaUnits w).2) ||
    (List.range 64).any fun q => q != p && (match quotaWord (tabAt ts q) n with
      | none => false
      | some v => decide (bitsOf v 17 16 = bitsOf w 17 16) || (decide ((quotaUnits v).1 < (quotaUnits w).2) && decide ((quotaUnits w).1 < (quotaUnits v).2)))

/-- Streams that a partition has bound, by index. -/
def State.streamsOf (s : State) (p : Nat) : List (Nat × Stream) :=
  (s.streams.filter fun e => e.1 / 1024 == p).map fun e => (e.1 % 1024, e.2)

/-- Contexts of a partition. -/
def State.ctxsIn (s : State) (p : Nat) : List (Nat × DecCtx) := s.decs.filter fun e => e.2.part == p

/-- The Quad and slot range of a stream under a new table (R253). -/
def streamPlace (old new : WordTab) (st : Stream) : Nat × Nat × Nat :=
  let r := trackRange new st.quad
  if r.move then (r.dst, (trackRange new r.dst).base + (st.base - (trackRange old st.quad).base), st.count) else (st.quad, st.base, st.count)

/-- A track range of LIMITS fails R253: its bound, its streams, or an overlap. -/
def State.tracksBad (s : State) (ts : List WordTab) (p q : Nat) : Bool :=
  let t := tabAt ts p
  tabValid t &&
  (let r := trackRange t q
   decide (4096 < r.base + r.count) ||
   ((List.range 64).any fun o => o != p && tabValid (tabAt ts o) &&
     (let x := trackRange (tabAt ts o) q
      overlaps r.base r.count x.base x.count && decide (0 < r.count) && decide (0 < x.count))) ||
   (s.streamsOf p).any fun e => e.2.quad == q &&
     (let x := streamPlace (s.part p).active t e.2
      let y := trackRange t x.1
      !(decide (y.base ≤ x.2.1) && decide (x.2.1 + x.2.2 ≤ y.base + y.count))))

/-- A partition's counts or homes fail R253. -/
def State.limitsBad (s : State) (ts : List WordTab) (p : Nat) : Bool :=
  let t := tabAt ts p
  let b := tableBytes t 3
  let mask := fieldAt b 6 2 % 4096
  tabValid t &&
  (decide (fieldAt b 2 2 % 2048 < (s.streamsOf p).length) || decide (fieldAt b 4 2 % 2048 < (s.ctxsIn p).length) ||
   (let out := (s.ctxsIn p).filter fun e => !mask.testBit e.2.home
    let room := (((List.range 12).filter fun n => mask.testBit n && s.smFree n).map fun n => 128 - (s.homed n).length).sum
    decide (room < out.length)))

/-- A RINGS entry fails R254. -/
def ringsBad (ts : List WordTab) (p i : Nat) : Bool :=
  match effRange (tabAt ts p) i with
  | none => false
  | some (a, _) =>
    let first := bitsOf a 13 0
    let n := bitsOf a 30 16
    decide (16384 < first + n) ||
    (List.range 64).any fun q => (List.range 16).any fun j => (q != p || j != i) && (match effRange (tabAt ts q) j with
      | none => false
      | some (b, _) => overlaps first n (bitsOf b 13 0) (bitsOf b 30 16))

/-- Rings that new tables assign to a function. -/
def vfRings (ts : List WordTab) (f : Nat) : Nat :=
  ((List.range 64).map fun q => ((List.range 16).map fun j => match effRange (tabAt ts q) j with
    | some (a, b) => if bitsOf b 7 0 = f then bitsOf a 30 16 else 0
    | none => 0).sum).sum

/-- A RINGS entry assigns rings to a VF that has more than 896 (R315). -/
def vfBad (ts : List WordTab) (p i : Nat) : Bool :=
  match effRange (tabAt ts p) i with
  | none => false
  | some (_, b) => decide (bitsOf b 7 0 ≠ 0) && decide (896 < vfRings ts (bitsOf b 7 0))

/-- A child of a GANG or PLACE entry is a Lantern, or a LANTERN or GANG entry. -/
def childOk (t : WordTab) : Child → Bool
  | .lantern _ => true
  | .entry f => gangKind (gangEntry t f) == 1 || gangKind (gangEntry t f) == 2

/-- Leaves of a child, none for an entry that breaks a rule. -/
def childLeaves (t : WordTab) : Child → Option (List Nat)
  | .lantern n => some [n]
  | .entry f => gangLeaves t 4 f

/-- A valid gang entry fails R255. -/
def gangBad (t : WordTab) (e : Nat) : Bool :=
  let b := gangEntry t e
  let k := gangKind b
  if k = 0 then false
  else
    let leaves := if k = 3 then joinAll ((gangChildren b).map (childLeaves t)) else gangLeaves t 4 e
    let n := natBits (fieldAt b 1 1) 3 0
    match leaves with
    | none => true
    | some l =>
      (k != 1 && (decide (n = 0) || decide (8 < n) || !(gangChildren b).all (childOk t))) ||
      (k == 2 && decide (l.eraseDups.length ≠ l.length)) ||
      !l.all fun m => bitOf (tableWord t 1 m) 31

/-- A gang entry that a swap changes and whose image it loads. -/
def loadsImage (old new : WordTab) (e : Nat) : Bool :=
  let b := gangEntry new e
  tabValid new && decide (effEntry old e ≠ effEntry new e) && decide (gangKind b = 2) && gangResLoad b && decide (gangImage b ≠ 0)

/-- The header or a section of the image of an entry fails (R248, R258). -/
def State.imageBad (s : State) (t : WordTab) (e : Nat) : Bool :=
  match s.planImage t (gangMembers t e) (gangImage (gangEntry t e)) false with
  | (_, .ok, _) => false
  | (_, .unitFault, _) => false
  | (_, .isolated, _) => false
  | _ => true

/-- DETAIL of a failed check of R252-R255. -/
def quotaDetail (x : Nat × Nat) (table : Nat) : Word := BitVec.ofNat 32 (x.1 * 2 ^ 8 + 2 ^ 16 * table + x.2)

/-- The checks in their order; the first that fails gives the status and DETAIL (R258) (DEDUCED, log entry 91). -/
def State.swapCheck (s : State) (r : SwapReq) : Option (Status × Word) :=
  let ts := s.newTables r
  let ps := r.parts
  match firstBad ps 64 fun p e => s.winBad (tabAt ts p) e with
  | some x => some (.bounds, BitVec.ofNat 32 (x.1 * 2 ^ 8 + x.2))
  | none =>
  match firstBad ps 16 (quotaBad ts) with
  | some x => some (.quota, quotaDetail x 1)
  | none =>
  match firstBad ps 5 fun p q => if q < 4 then s.tracksBad ts p q else s.limitsBad ts p with
  | some x => some (.quota, quotaDetail (x.1, x.2 % 4) 3)
  | none =>
  match firstBad ps 16 (ringsBad ts) with
  | some x => some (.quota, quotaDetail x 4)
  | none =>
  match firstBad ps 16 (vfBad ts) with
  | some x => some (.quota, quotaDetail x 4)
  | none =>
  match firstBad ps 64 fun p e => gangBad (tabAt ts p) e with
  | some x => some (.quota, quotaDetail x 2)
  | none =>
  match firstBad ps 64 fun p e => loadsImage (s.part p).active (tabAt ts p) e && s.imageBad (tabAt ts p) e with
  | some x => some (.bounds, BitVec.ofNat 32 (x.1 * 2 ^ 8 + x.2))
  | none => none

/-! ### The drain (R259) -/

/-- The swap changes or removes a valid window entry of a partition. -/
def winsChange (old new : WordTab) : Bool := (List.range 64).any fun e => (effWin old e).isSome && decide (effWin old e ≠ effWin new e)

/-- Lanterns on which some partition's quota changes. -/
def State.quotaChanges (s : State) (r : SwapReq) : List Nat :=
  (List.range 16).filter fun n => r.parts.any fun p => decide (quotaWord (s.part p).active n ≠ quotaWord (s.newTable r p) n)

/-- Lanterns of the child on which a PLACE entry would put a RUN now; none for other entries. -/
def State.placeLanterns (s : State) (p e : Nat) : List Nat :=
  let t := (s.part p).active
  if gangKind (gangEntry t e) = 3 then
    (match s.placeTarget p (gangEntry t e) with | some (x, _) => childMembers t x | none => [])
  else []

/-- Lanterns on which a command runs, or would run if it were placed now (R259) (DEDUCED, log entry 92). -/
def State.cmdLanterns (s : State) (c : Cmd) : List Nat :=
  if c.opcode = 0x30 ∨ c.opcode = 0x31 ∨ c.opcode = 0x40 then
    c.members ++ ((c.gangsNamed.map fun e => gangMembers (s.part c.part).active e).flatten) ++
      (if c.members.isEmpty then s.placeLanterns c.part c.stageGang else [])
  else if c.opcode = 0x38 then (if c.members.isEmpty then (s.scanLantern c.part).toList else c.members)
  else []

/-- The RINGS entry of a partition that holds a ring. -/
def rangeOf (t : WordTab) (r : Nat) : Option Nat :=
  (List.range 16).find? fun i => match effRange t i with
    | some (a, _) => decide (bitsOf a 13 0 ≤ r) && decide (r < bitsOf a 13 0 + bitsOf a 30 16)
    | none => false

/-- A command is in the drain scope of a request. -/
def State.inScope (s : State) (r : SwapReq) (c : Cmd) : Bool :=
  let old := (s.part c.part).active
  let new := s.newTable r c.part
  let mine := r.mask.toNat.testBit c.part && decide (old ≠ new)
  if c.opcode = 0x81 ∨ (c.opcode = 0x80 ∧ c.phase = .active) then false
  else
    (mine && winsChange old new) ||
    (mine && c.gangsNamed.any fun e => decide (e < 64) && decide (effEntry old e ≠ effEntry new e)) ||
    ((s.cmdLanterns c).any fun n => (s.quotaChanges r).contains n) ||
    (mine && (c.opcode == 0x50 || c.opcode == 0x51) && (match s.stream? c.part c.stream with
      | some st => (trackRange new st.quad).move
      | none => false)) ||
    (mine && (match c.src with
      | .ring k => (match rangeOf old k.val with
        | some i => decide (effRange old i ≠ effRange new i)
        | none => false)
      | .frame _ _ _ => false))

/-- A command that the drain waits for: issued, and its record not written (R250). A STREAM_UNBIND aborted by the drain goes on without
it. -/
def Cmd.draining (c : Cmd) : Bool := c.phase != .fetched && !(c.opcode == 0x12 && c.status == .aborted)

/-- A partition becomes invalid by a request: its streams are unbound in the drain (R275). -/
def State.leaves (s : State) (r : SwapReq) (p : Nat) : Bool :=
  r.mask.toNat.testBit p && tabValid (s.part p).active && !tabValid (s.newTable r p)

/-- A command may not issue now: the swap in progress has it in its scope. The chains of a stream that the swap unbinds go on, since its
queued access units are still analysed (R188, R275) (DEDUCED, log entry 87). -/
def State.swapHolds (s : State) (c : Cmd) : Bool :=
  match s.swap.current with
  | none => false
  | some r => s.inScope r c && !(s.leaves r c.part && (match c.src with | .frame .. => true | .ring _ => false))

/-! ### Streams that end (R188, R211, R275, R386) -/

/-- Access units of a context behind the one that is being decoded are discarded (R211) (DEDUCED, log entry 104). -/
def State.dropQueued (s : State) (ctx : Nat) (d : DecCtx) : State :=
  let busy := d.susp.isSome || (match (s.smelter d.home).pic with | some (c, _) => c == ctx | none => false)
  if busy = false then s
  else
    let s1 := (d.queue.drop 1).foldl (fun s a =>
      let s1 := (s.unitFree d.part a.handle).bump (Reg.smErr d.home) 15 0 1
      match a.cmd with
      | some id => s1.endCmd id .ok (BitVec.ofNat 32 (1 + boolNat a.gap * 2 ^ 7 + boolNat a.inc * 2 ^ 8))
      | none => s1) s
    s1.updDec ctx fun d => { d with queue := d.queue.take 1, counts := countUp d.counts 2 (d.queue.length - 1) }

/-- A stream is unbound: its entry stops matching and what it holds is discarded; queued access units are still decoded, unless a
picture is in progress (R188, R211). -/
def State.unbindStart (s : State) (p ix : Nat) (st : Stream) : State :=
  let s1 : State := match st.entry with
    | none => s
    | some e =>
      let t : State := match s.entry? e with
        | none => s
        | some x => (x.packets ++ x.cands).foldl (fun s k => s.unitFree p k.handle) s
      { t with entries := tabErase t.entries e }
  let s2 : State := match s1.dec? st.ctx with
    | none => s1
    | some d => (s1.dropQueued st.ctx d).updDec st.ctx fun d => { d with unbound := true }
  s2.updStream p ix fun st => { st with entry := none, unbind := true }

/-- An unbinding in progress is over: nothing of the stream is queued, held or in analysis. -/
def State.unbindOver (s : State) (st : Stream) : Bool :=
  st.jobs.isEmpty && st.bmrs.isEmpty &&
  (match s.dec? st.ctx with
   | none => true
   | some d => d.queue.isEmpty && d.frames.isEmpty && d.susp.isNone &&
     (match (s.smelter d.home).pic with | some (c, _) => c != st.ctx | none => true))

/-- The streams of the partitions that become invalid by a request are unbound, those that are not yet (R275). -/
def State.unbindLeaving (s : State) (r : SwapReq) : State :=
  (r.parts.filter fun p => s.leaves r p).foldl (fun s p =>
    (s.streamsOf p).foldl (fun s e => if e.2.unbind then s else s.unbindStart p e.1 e.2) s) s

/-- Every stream that a request unbinds is over. -/
def State.leavingOver (s : State) (r : SwapReq) : Bool :=
  (r.parts.filter fun p => s.leaves r p).all fun p => (s.streamsOf p).all fun e => s.unbindOver e.2

/-- Everything a stream holds is given up: packets, access units, frames, tracks, its entry and context, and the commands of its frames. -/
def State.removeStream (s : State) (p ix : Nat) : State :=
  match s.stream? p ix with
  | none => s
  | some st =>
    let s1 : State := match st.entry with
      | none => s
      | some e =>
        match s.entry? e with
        | none => s
        | some x => (x.packets ++ x.cands).foldl (fun s k => s.unitFree p k.handle) s
    let s2 : State := match s1.dec? st.ctx with
      | none => s1
      | some d =>
        let t1 := d.queue.foldl (fun s a => s.unitFree p a.handle) s1
        let t2 := ((d.frames.map (·.segs)).flatten).foldl (fun s h => s.unitFree p h) t1
        let t3 := d.queue.foldl (fun s a => match a.cmd with | some id => s.endCmd id .aborted 0 | none => s) t2
        match (t3.smelter d.home).pic with
        | some (c, _) => if c = st.ctx then (t3.arbEnd (16 + d.home) 0).setSmelter d.home { t3.smelter d.home with pic := none } else t3
        | none => t3
    let s3 := s2.dropTracks st.quad p ix
    { s3 with
      streams := tabErase s3.streams (streamKey p ix)
      entries := (match st.entry with | some e => tabErase s3.entries e | none => s3.entries)
      decs := tabErase s3.decs st.ctx
      snaps := s3.snaps.filter fun j => !(j.part == p && j.stream == ix)
      cmds := s3.cmds.filter fun c => match c.src with | .frame q jx _ => !(q.val == p && jx.val == ix) | .ring _ => true }

/-- All streams of a partition end. -/
def State.removeStreams (s : State) (p : Nat) : State := (s.streamsOf p).foldl (fun s e => s.removeStream p e.1) s

/-! ### The flip (R258-R262, R267, R270, R275, R284) -/

/-- Partitions that map a Crucible unit under some tables. -/
def mapsUnit (ts : List WordTab) (a : Nat) : List Nat :=
  (List.range 64).filter fun p => (List.range 64).any fun e => match effWin (tabAt ts p) e with
    | some (lo, hi) => overlaps (winTarget hi) (winLen lo) a mib2
    | none => false

/-- Partitions whose quota holds unit u of Ingot n. -/
def holdsUnit (ts : List WordTab) (n u : Nat) : List Nat :=
  (List.range 64).filter fun p => match quotaWord (tabAt ts p) n with
    | some w => decide ((quotaUnits w).1 ≤ u) && decide (u < (quotaUnits w).2)
    | none => false

/-- A unit gains a partition and keeps none (R260). -/
def scrubbed (before after : List Nat) : Bool := (after.any fun p => !before.contains p) && !after.any fun p => before.contains p

/-- The domains that a swap needs: Lanterns with a quota that are not quarantined or parked, and banks that a window targets. -/
def State.swapPower (s : State) (old new : List WordTab) : State :=
  let s1 := (List.range 16).foldl (fun s n =>
    if (List.range 64).any (fun p => (quotaWord (tabAt new p) n).isSome && (quotaWord (tabAt old p) n).isNone) && !s.flag (Reg.lnStatus n) 31 && !s.parked n
    then (s.domUp (lnDom n)).domUp (ingotDom n) else s) s
  (List.range 8).foldl (fun s k =>
    if (List.range 4).any (fun u => !(mapsUnit new (crucibleBase + mib8 * k + mib2 * u)).isEmpty) && !(s.bank k).quarantined then s.domUp (cbDom k)
    else s) s1

/-- What a swap scrubs in an Ingot: the 2 MiB units that gain a partition, while the Ingot is on (R260). -/
def State.ingotScrubs (s : State) (old new : List WordTab) (n : Nat) : List (Nat × Nat) :=
  if s.domOn (ingotDom n) then
    ((List.range 4).filter fun u => scrubbed (holdsUnit old n u) (holdsUnit new n u)).map fun u => (ingotBase + mib8 * n + mib2 * u, mib2)
  else []

/-- The same in a Crucible bank. -/
def State.bankScrubs (s : State) (old new : List WordTab) (k : Nat) : List (Nat × Nat) :=
  if s.domOn (cbDom k) then
    ((List.range 4).map fun u => crucibleBase + mib8 * k + mib2 * u).filterMap fun x => if scrubbed (mapsUnit old x) (mapsUnit new x) then some (x, mib2) else none
  else []

/-- Units that a swap scrubs: Ingots 0-15 and Crucible banks 16-23. -/
def State.scrubUnits (s : State) (old new : List WordTab) : List Nat :=
  ((List.range 16).filter fun n => !(s.ingotScrubs old new n).isEmpty) ++
  (((List.range 8).filter fun k => !(s.bankScrubs old new k).isEmpty).map (16 + ·))

/-- The scrubs of a swap begin; LN_STATUS.SCRUB shows those of Ingots (R91, R98). -/
def State.swapScrub (s : State) (old new : List WordTab) : State :=
  let s1 := (List.range 16).foldl (fun s n =>
    let l := s.ingotScrubs old new n
    if l.isEmpty then s
    else (s.setIngotErr n { s.ingotErr n with ranges := (s.ingotErr n).ranges ++ l }).setFlag (Reg.lnStatus n) 30 true) s
  (List.range 8).foldl (fun s k =>
    let l := s.bankScrubs old new k
    if l.isEmpty then s else s.setBank k { s.bank k with ranges := (s.bank k).ranges ++ l }) s1

/-- Keys of the residency records of a partition that a swap clears: changed entries, and those with a member whose quota changes (R265). -/
def clearsRecord (old new : WordTab) (key : Nat) : Bool :=
  let ms := if key < 64 then gangMembers old key else [key - 64]
  (decide (key < 64) && decide (effEntry old key ≠ effEntry new key)) || ms.any fun n => decide (quotaWord old n ≠ quotaWord new n)

/-- A partition that becomes valid: shares of 256, no credit, counters cleared, Shades unregulated (R267, R270, R271). -/
def State.partBorn (s : State) (p : Nat) : State :=
  let x := s.part p
  let s1 := s.setPart p { x with shares := List.replicate 5 256, acct := List.replicate 5 (0, 0), shades := List.replicate 7 Shade.reset }
  { s1 with credits := s1.credits.filter fun e => e.1 % 64 != p }

/-- The streams of a partition take their new places, and contexts on other Smelters are due to move (R171, R253). -/
def State.movePart (s : State) (p : Nat) (old new : WordTab) : State :=
  let mask := fieldAt (tableBytes new 3) 6 2 % 4096
  let s1 := (s.streamsOf p).foldl (fun s e =>
    let x := streamPlace old new e.2
    if (trackRange new e.2.quad).move then
      (s.dropTracks e.2.quad p e.1).updStream p e.1 fun st => { st with quad := x.1, base := x.2.1, nextTrack := 1, lastSeq := none }
    else s) s
  { s1 with decs := s1.decs.map fun e => if e.2.part = p ∧ mask.testBit e.2.home = false then (e.1, { e.2 with rehome := true }) else e }

/-- One partition flips from its old table to its new one. -/
def State.flipPart (s : State) (p : Nat) (new : WordTab) : State :=
  let old := (s.part p).active
  let s1 := if tabValid old && !tabValid new then (s.removeStreams p).dropOwner p else s
  let x := s1.part p
  let s2 := s1.setPart p { x with active := new, residency := x.residency.filter fun e => !clearsRecord old new e.1 }
  let s3 := if !tabValid old && tabValid new then s2.partBorn p else s2
  if tabValid new ∧ old ≠ new then s3.movePart p old new else s3

/-- The image of one changed entry is placed as RESIDENT, without the Shade; what fails leaves no model (R258, R262) (DEDUCED, log entry 93). -/
def State.swapLoad (s : State) (fault : Bool) (p e : Nat) : State × Bool :=
  let t := (s.part p).active
  let b := gangEntry t e
  let ms := gangMembers t e
  match s.planImage t ms (gangImage b) false with
  | (xs, .ok, _) =>
    if fault || s.residentBlocked p e (gangModel b) ms then (s.updResidency p e fun r => { r with resident := none, loadPending := true }, false)
    else
      (match s.placeSections xs with
       | (s1, _, .ok) => (s1.recordLoad p e false (s1.tagOf (gangModel b) ms xs), true)
       | (s1, _, _) => (s1.updResidency p e fun r => { r with resident := none, loadPending := true }, false))
  | (_, _, bad) =>
    let s1 := match bad with | some w => s.memError w | none => s
    (s1.updResidency p e fun r => { r with resident := none, loadPending := true }, false)

/-- The loads in order; the first that fails is reported. -/
def State.swapLoads (s : State) (fault : Bool) : List (Nat × Nat) → State × Option (Nat × Nat)
  | [] => (s, none)
  | (p, e) :: t =>
    match s.swapLoad fault p e with
    | (s1, true) => s1.swapLoads fault t
    | (s1, false) => ((s1.swapLoads false t).1, some (p, e))

/-- Shadow writes that were held apply to the new shadow copies (R55, R256): the register writes first, then the commands, each in its
order of arrival (DESIGN CHOICE, log entry 163). -/
def State.applyHeld (s : State) : State :=
  let s1 := s.swap.held.foldl (fun s h => s.putShadow h.1 h.2.1 h.2.2) { s with swap := { s.swap with held := [], heldCmds := [] } }
  s.swap.heldCmds.foldl (fun s id => match s.cmd? id with | some c => (s.updCmd id fun c => { c with phase := .issued }).writeShadow c | none => s) s1

/-- The report of a re-form: GANG_REFORM to the PF and every VF with rings of the partition, and an event (R257, R353). -/
def State.reformReport (s : State) (p e n : Nat) : State :=
  let gone := (gangMembers (s.part p).active e).isEmpty
  let body := leBytes 1 p ++ leBytes 1 e ++ leBytes 1 n ++ leBytes 1 (boolNat gone)
  let fs := 0 :: (List.range 255).filterMap fun i =>
    if (s.fnRanges (i + 1)).any fun x => (match s.ringOwner x.1 with | some (q, _) => q == p | none => false) then some (i + 1) else none
  (fs.foldl (fun s f => s.notify f 0x4001 body) s).sootEvent 0x0812 (BitVec.ofNat 64 n) (some p)

/-- Shadow copies after the flip: that of a swapped table equals the active one already; an entry without pending edits takes a re-form. -/
def State.reformShadow (s : State) (p : Nat) (old new : WordTab) : State :=
  (List.range 64).foldl (fun s e =>
    if gangEntry old e ≠ gangEntry new e ∧ gangEntry (s.part p).shadow e = gangEntry old e then
      let x := s.part p
      s.setPart p { x with shadow := putEntry x.shadow e (gangEntry new e) }
    else s) s

/-- Load and flip of the request in progress; what is reported with UNIT_FAULT, if anything. -/
def State.swapFlip (s : State) (r : SwapReq) (fault : Bool) : State × Option (Nat × Nat) :=
  let old := (List.range 64).map fun p => (s.part p).active
  let new := s.newTables r
  let s2 := r.parts.foldl (fun s p => s.flipPart p (tabAt new p)) s
  let loads := (r.parts.flatMap fun p => (List.range 64).map fun e => (p, e)).filter fun x => loadsImage (tabAt old x.1) (tabAt new x.1) x.2
  let s3 := s2.swapLoads fault loads
  match r.reform with
  | none => s3
  | some (p, e, n) => ((s3.1.reformShadow p (tabAt old p) (tabAt new p)).reformReport p e n, s3.2)

/-! ### The phases (R258, R261, R274) -/

/-- PSWAP_STATUS: BUSY and PHASE. -/
def State.setPhase (s : State) (k : Nat) : State := s.setFld Reg.pswapStatus 31 28 (boolNat (decide (k ≠ 0)) * 8 + k)

/-- Time from the arrival of a request in µs (DEDUCED, log entry 88). -/
def State.swapUs (s : State) (r : SwapReq) : Nat := (s.nowNs - r.arrived) / 1000

/-- The result of a request: its command ends, and LAST_STATUS and LAST_US take it. -/
def State.swapResult (s : State) (r : SwapReq) (st : Status) (d : Word) : State :=
  let s1 := (s.setFld Reg.pswapStatus 23 16 st.code).setFld Reg.pswapStatus 15 0 (min 0xFFFF (s.swapUs r))
  match r.cmd with
  | none => s1
  | some id => s1.endCmd id st d

/-- The request in progress is over. -/
def State.swapReport (s : State) (r : SwapReq) (st : Status) (d : Word) : State := (s.setPhase 0).swapResult r st d

/-- The drain of a request begins. -/
def State.drainStart (s : State) (r : SwapReq) (t : List SwapReq) : State :=
  ({ s.setPhase 2 with swap := { s.swap with current := some { r with began := s.nowNs }, queue := t } } : State).unbindLeaving r

/-- The drain limit in ns: DRAIN_US, held within 100 and 2,500 µs (R274). -/
def State.drainNs (s : State) : Nat := 1000 * max 100 (min 2500 (s.fld Reg.pswapCtrl 11 0))

/-- The next waiting request starts: checks, then the drain; a request whose check fails makes way for the one behind it. A re-form of a
gang that no longer holds the Lantern is dropped. During a handover nothing starts (R355, R362) (DEDUCED, log entry 89). -/
def State.swapStart (s : State) : List SwapReq → State
  | [] => { s with swap := { s.swap with queue := [] } }
  | r :: t =>
    match r.reform with
    | some (p, e, n) =>
      if (gangMembers (s.part p).active e).contains n then s.drainStart r t else s.swapStart t
    | none =>
      match s.swapCheck r with
      | some (st, d) => (s.swapReport r st d).swapStart t
      | none => s.drainStart r t

/-- Requests that wait start when nothing stands in their way. -/
def State.swapNext (s : State) : State :=
  if s.swap.current.isSome ∨ s.ozmel.handover.isSome = true then s else s.swapStart s.swap.queue

/-! ### The reset of one partition (R386) -/

/-- The partition's commands are aborted, its streams unbound and their access units discarded, its rings disabled and its tags cleared. -/
def State.resetPartition (s : State) (p : Nat) : State :=
  let s1 := (s.cmds.filter fun c => c.part == p).foldl (fun s c => s.abortCmd c) s
  let s2 := s1.removeStreams p
  let s3 : State := { s2 with rings := s2.rings.map fun e =>
    if (match s2.ringOwner e.1 with | some (q, _) => q == p | none => false) then
      (e.1, { e.2 with ctx := listUpd e.2.ctx 6 fun w => setBits w 23 23 0 }) else e }
  let x := s3.part p
  ((s3.setPart p { x with residency := [] }).setFlag Reg.rstCause 6 true).setFlag Reg.rstPart 30 false

/-- RST_PART written: GO resets the partition, or waits for a PART_SWAP in progress; a GO while BUSY is ignored. -/
def State.rstPartWrite (s : State) (v : Word) : State :=
  let s1 := s.setFld Reg.rstPart 5 0 (bitsOf v 5 0)
  if bitOf v 31 && !s.flag Reg.rstPart 30 then
    if s1.swap.current.isSome then { s1.setFlag Reg.rstPart 30 true with swap := { s1.swap with resetPart := some (bitsOf v 5 0) } }
    else s1.resetPartition (bitsOf v 5 0)
  else s1

def execRstPart (v : Word) (s : State) : Host.Outcome State Fault Refusal := .next (s.pfReach Reg.rstPart (s.rstPartWrite v))

/-- What waited for the swap: a partition reset, a unit reset, a handover; then the next request. -/
def State.afterSwap (s : State) : State :=
  let s1 := match s.swap.resetPart with
    | some p => { s.resetPartition p with swap := { s.swap with resetPart := none } }
    | none => s
  let s2 := match s1.swap.resetBlock with
    | some (ty, i) => (({ s1 with swap := { s1.swap with resetBlock := none } } : State).doBlockReset ty i).setFlag Reg.rstBlock 30 false
    | none => s1
  let s3 := match s2.ozmel.activateWaits with
    | some h => { s2 with ozmel := { s2.ozmel with handover := some h, activateWaits := none } }
    | none => s2
  s3.swapNext

/-- PART_SWAP: an empty mask completes at once; otherwise the request takes its turn (R258, R261). -/
def State.opPartSwap (c : Cmd) (s : State) : State :=
  let m := c.par 0 8
  let r : SwapReq := { cmd := some c.id, mask := BitVec.ofNat 64 m, arrived := s.nowNs, reform := none }
  if m = 0 then s.swapResult r .ok 0
  else
    let s1 := s.updCmd c.id fun c => { c with phase := .active }
    ({ s1 with swap := { s1.swap with queue := s1.swap.queue ++ [r] } } : State).swapNext

def execPartSwap (id : Nat) (s : State) : Host.Outcome State Fault Refusal := .next (s.runMgmt id 0x81 State.opPartSwap)

/-- GANG_REFORM: a quarantined member of an entry with REFORM = 1 is removed by a swap of Ozmel's own, in arrival order (R257, R261). -/
def State.gangReform (s : State) (p e n : Nat) : State :=
  let b := gangEntry (s.part p).active e
  if tabValid (s.part p).active && gangReformBit b && s.flag (Reg.lnStatus n) 31 && (gangMembers (s.part p).active e).contains n then
    let r : SwapReq := { cmd := none, mask := BitVec.ofNat 64 (2 ^ p), arrived := s.nowNs, reform := some (p, e, n) }
    ({ s with swap := { s.swap with queue := s.swap.queue ++ [r] } } : State).swapNext
  else s

def execGangReform (p : PartIx) (entry : Fin 64) (n : LnIx) (s : State) : Host.Outcome State Fault Refusal :=
  .next (s.gangReform p.val entry.val n.val)

/-- The drain of a request is cut short: the commands that it still waits for are aborted (R258). -/
def State.drainLate (s : State) (r : SwapReq) : State :=
  (s.cmds.filter fun c => c.draining && s.inScope r c).foldl (fun s c => s.abortCmd c)
    { s with swap := { s.swap with current := some { r with late := true } } }

/-- SWAP_DRAIN_TIMEOUT: once DRAIN_US are over, the commands that the drain still waits for are aborted (R258, R274). -/
def execSwapDrainTimeout (s : State) : Host.Outcome State Fault Refusal :=
  match s.swap.current with
  | none => .next s
  | some r => .next (if s.nowNs < r.began + s.drainNs ∨ r.scrubs ≠ [] then s else s.drainLate r)

/-- A swap that RUN_ABORT has aborted ends between two phases, its tables as they were (R249). -/
def State.swapAborted (s : State) (r : SwapReq) : State :=
  (({ s with swap := { s.swap with current := none } } : State).swapReport r .aborted 0).applyHeld.afterSwap

/-- The last phases of a swap: it loads and flips, and reports (R258-R262). -/
def State.swapFinish (s : State) (r : SwapReq) (fault : Bool) : State :=
  match s.swapFlip r fault with
  | (s1, bad) =>
    let us := s1.swapUs r
    let s2 : State := { s1 with swap := { s1.swap with current := none } }
    let s3 := match bad with
      | none => s2.swapReport r .ok (BitVec.ofNat 32 us)
      | some x => s2.swapReport r .unitFault (BitVec.ofNat 32 (x.1 * 2 ^ 8 + x.2))
    s3.applyHeld.afterSwap

/-- The drain is over: the domains that the new tables need are on, and the scrubs begin; with nothing to scrub the swap goes on at once. -/
def State.drained (s : State) (r : SwapReq) (fault : Bool) : State :=
  let old := (List.range 64).map fun p => (s.part p).active
  let new := s.newTables r
  let s1 := s.swapPower old new
  match s1.scrubUnits old new with
  | [] => s1.swapFinish r fault
  | us => { (s1.setPhase 3).swapScrub old new with swap := { s1.swap with current := some { r with scrubs := us, loadFault := fault } } }

/-- SWAP_DRAIN_END: with nothing left to drain the swap scrubs, loads and flips (R258-R262). The streams that it unbinds must be over, unless
DRAIN_US are; what they still hold is then discarded (R275). A swap that RUN_ABORT has aborted ends here (R249) (DEDUCED, log entries 87,
105). -/
def State.drainEnd (s0 : State) (fault : Bool) : State :=
  match s0.swap.current with
  | none => s0
  | some r =>
    if r.scrubs ≠ [] then s0
    else if r.aborted then s0.swapAborted r
    else
      let s := s0.unbindLeaving r
      if (s.cmds.any fun c => c.draining && s.inScope r c) || !(r.late || s.leavingOver r) then s else s.drained r fault

def execSwapDrainEnd (loadFault : Bool) (s : State) : Host.Outcome State Fault Refusal := .next (s.drainEnd loadFault)

/-! ### Shares, Shades and accounts (R267, R269-R272, R274) -/

/-- Unit numbers of an engine class. -/
def classUnits : Nat → List Nat
  | 0 => List.range 16
  | 1 => (List.range 12).map (16 + ·)
  | 2 => (List.range 4).map (32 + ·)
  | 3 => ((List.range 4).map (40 + ·)) ++ (List.range 4).map (48 + ·)
  | _ => [56, 57]

/-- A share changes, and every credit of the partition in the class is rescaled (R269). -/
def State.setShare (s : State) (p cls new : Nat) : State :=
  let x := s.part p
  let old := listAt 256 x.shares cls
  let s1 := s.setPart p { x with shares := listUpd x.shares cls fun _ => new }
  (classUnits cls).foldl (fun s u => s.setCredit u p ((s.credit u p * (new : Int)).tdiv (old : Int))) s1

/-- SHARE_SET (R249, R267). -/
def State.opShareSet (c : Cmd) (s : State) : State :=
  if 4 < c.par 1 1 ∨ c.par 2 2 = 0 then s.endCmd c.id .badOpcode 0
  else (s.setShare (c.par 0 1 % 64) (c.par 1 1) (c.par 2 2)).endCmd c.id .ok 0

def execShareSet (id : Nat) (s : State) : Host.Outcome State Fault Refusal := .next (s.runMgmt id 0x82 State.opShareSet)

/-- A Shade changes: the tokens are clipped to the new depth; unregulated, they become the depth and every waiting request is released
(R272). A Shade that was never regulated holds none (DESIGN CHOICE, log entry 46). -/
def State.setShade (s : State) (p path rate depth : Nat) : State :=
  let tok := s.shadeTokens p path
  s.updShade p path fun h =>
    if rate = 0 then { h with rate := 0, depth := depth, tokens := 1000 * depth, last := s.nowNs, waiting := [], granted := [] }
    else { h with rate := rate, depth := depth, tokens := min tok (1000 * depth : Nat), last := s.nowNs }

/-- SHADE_SET (R249, R271). -/
def State.opShadeSet (c : Cmd) (s : State) : State :=
  let rate := c.par 4 4
  let depth := c.par 8 4
  if 6 < c.par 1 1 ∨ (rate ≠ 0 ∧ (depth < 4096 ∨ 2 ^ 30 < depth)) then s.endCmd c.id .badOpcode 0
  else (s.setShade (c.par 0 1 % 64) (c.par 1 1) rate depth).endCmd c.id .ok 0

def execShadeSet (id : Nat) (s : State) : Host.Outcome State Fault Refusal := .next (s.runMgmt id 0x83 State.opShadeSet)

/-- ACCT_SEL written: PART and CLASS are taken, and SNAP latches their counters (R270, R274). -/
def State.acctSelWrite (s : State) (v : Word) : State :=
  let s1 := s.setReg Reg.acctSel (v &&& 0x73F)
  if bitOf v 31 then
    let a := if bitsOf v 10 8 < 5 then listAt (0, 0) (s.part (bitsOf v 5 0)).acct (bitsOf v 10 8) else (0, 0)
    (((s1.setReg Reg.acctNsLo (BitVec.ofNat 32 a.1)).setReg Reg.acctNsHi (BitVec.ofNat 32 (a.1 / 2 ^ 32))).setReg Reg.acctStepLo
      (BitVec.ofNat 32 a.2)).setReg Reg.acctStepHi (BitVec.ofNat 32 (a.2 / 2 ^ 32))
  else s1

def execAcctSelSnap (v : Word) (s : State) : Host.Outcome State Fault Refusal := .next (s.pfReach Reg.acctSel (s.acctSelWrite (v ||| 0x80000000)))

/-- Partitions with work ready for a unit. -/
def State.unitReady (s : State) : ArbUnit → List Nat
  | .lantern n => match s.seqContest n.val with | some ty => s.seqReadyFor n.val ty | none => []
  | .smelter n => ((s.smClass n.val).map fun e => e.2.part).eraseDups
  | .shaper n => ((s.cmds.filter fun c => c.phase == .issued && c.opcode == 0x20 && c.members == [n.val]).map (·.part)).eraseDups
  | .snuffer n => ((s.cmds.filter fun c => c.phase == .issued && c.opcode == 0x50 && c.members == [n.val]).map (·.part)).eraseDups
  | .tracker n =>
    ((s.cmds.filter fun c => c.phase == .issued && (c.opcode == 0x51 || c.opcode == 0x52) && c.members == [n.val]).map (·.part)).eraseDups
  | .encoder n => ((s.snaps.filter fun j => s.jobFor n.val j).map (·.part)).eraseDups

/-- Steps of work that a Lantern has just done: they go to the partition that its sequencer dispatched last (DEDUCED, log entry 94). -/
def State.lanternSteps (s : State) (n steps : Nat) : State :=
  if steps = 0 then s else s.arbCharge n (s.fld (Reg.lnStatus n) 13 8) 0 steps

/-- A unit in the middle of its work: this is no decision point of it (R267). -/
def State.unitBusy (s : State) (u : ArbUnit) : Bool :=
  match u with
  | .smelter n => (s.smelter n.val).pic.isSome
  | .shaper n => s.cmds.any fun c => c.begun && c.phase == .issued && c.opcode == 0x20 && c.members == [n.val]
  | .snuffer n => s.cmds.any fun c => c.begun && c.phase == .issued && c.opcode == 0x50 && c.members == [n.val]
  | .tracker n => s.cmds.any fun c => c.begun && c.phase == .issued && (c.opcode == 0x51 || c.opcode == 0x52) && c.members == [n.val]
  | .encoder n => s.snaps.any fun j => j.begun == some n.val && (s.encoders j.part).contains n.val
  | .lantern _ => false

/-- ARBITRATION_DECISION: the work begun last is charged with its time and steps, and the unit chooses the next partition (R268, R270);
the steps of a Smelter are those of R193 and are charged with its pictures, and a Lantern decides for its first contested engine (DESIGN
CHOICE, log entry 74). -/
def State.arbitrate (s : State) (u : ArbUnit) (steps : Nat) : State :=
  let k := arbCode u
  if s.unitBusy u then s
  else
    match u with
    | .lantern n =>
      let s1 := s.lanternSteps n.val steps
      (match s1.seqContest n.val with | some ty => s1.seqDecide n.val ty | none => s1)
    | .smelter _ => let s1 := s.arbEnd k 0; s1.arbDecide k (s1.unitReady u)
    | _ => let s1 := s.arbEnd k steps; s1.arbDecide k (s1.unitReady u)

def execArbitrationDecision (u : ArbUnit) (steps : Nat) (s : State) : Host.Outcome State Fault Refusal := .next (s.arbitrate u steps)

/-- The scrub of a unit has ended: the swap that waits for it goes on with its last one. -/
def State.unitScrubbed (s : State) (i : Nat) : State :=
  match s.swap.current with
  | none => s
  | some r =>
    if r.scrubs.contains i then
      (match r.scrubs.filter fun x => x != i with
       | [] => if r.aborted then s.swapAborted r else s.swapFinish { r with scrubs := [] } r.loadFault
       | l => { s with swap := { s.swap with current := some { r with scrubs := l } } })
    else s

/-- SCRUB_COMPLETE: a unit's scrub has written its lines (R91); the scrub phase of a swap ends with its last unit (R258). -/
def execScrubComplete (u : ScrubUnit) (s : State) : Host.Outcome State Fault Refusal :=
  match u with
  | .ingot n => .next ((s.ingotScrubbed n.val).unitScrubbed n.val)
  | .crucible k => .next ((s.bankScrubbed k.val).unitScrubbed (16 + k.val))

/-! ### RUN_ABORT (R133, R249, R250) -/

/-- The abort of one command: a PART_SWAP in progress ends with ABORTED at its next phase, the others as they do. -/
def State.abortOne (s : State) (c : Cmd) : State :=
  match s.swap.current with
  | some r => if r.cmd = some c.id then { s with swap := { s.swap with current := some { r with aborted := true } } } else s.abortCmd c
  | none => s.abortCmd c

/-- RUN_ABORT: the ring's incomplete commands with the TAG, or all of them, are aborted; DETAIL counts them (DEDUCED, log entry 105). -/
def State.opRunAbort (c : Cmd) (s : State) : State :=
  let all := (c.par 2 1).testBit 0
  let l := s.cmds.filter fun x => x.src == c.src && x.id != c.id && x.phase != .ended && x.status != .aborted && (all || x.tag == c.par 0 2)
  (l.foldl (fun s x => s.abortOne x) s).endCmd c.id .ok (BitVec.ofNat 32 l.length)

def execRunAbort (id : Nat) (s : State) : Host.Outcome State Fault Refusal := .next (s.runMgmt id 0x84 State.opRunAbort)

end Sys2Proof.Machine
end

