-- ==== Sys2Proof/Machine/Commands.lean ====
section
/-!
DEFINITION. The Dispatcher: fetching, issuing and completing commands, chains, frame chains, and the opcodes that it performs itself
(R175, R187, R188, R223, R229-R247).
-/

namespace Sys2Proof.Machine

/-! ### Opcodes (R235, R240, R249) -/

/-- PLEN of a listed opcode. -/
def opcodePlen : Nat → Option Nat
  | 0x00 => some 0
  | 0x01 => some 0
  | 0x02 => some 1
  | 0x10 => some 24
  | 0x11 => some 3
  | 0x12 => some 0
  | 0x20 => some 3
  | 0x30 => some 7
  | 0x31 => some 10
  | 0x38 => some 4
  | 0x40 => some 2
  | 0x41 => some 1
  | 0x50 => some 7
  | 0x51 => some 4
  | 0x52 => some 0
  | 0x60 => some 2
  | 0x70 => some 5
  | 0x71 => some 4
  | 0x72 => some 2
  | 0x73 => some 1
  | 0x74 => some 2
  | 0x80 => some 2
  | 0x81 => some 1
  | 0x82 => some 1
  | 0x83 => some 2
  | 0x84 => some 1
  | _ => none

/-- Opcodes that go to Ozmel. -/
def isMgmt (op : Nat) : Bool := decide (0x80 ≤ op) && decide (op ≤ 0xBF)

/-- Opcodes whose INDEX must name a stream of the ring. -/
def isStreamOp (op : Nat) : Bool := op == 0x11 || op == 0x12 || op == 0x50 || op == 0x51 || op == 0x52 || op == 0x60

/-- Slots of a command (R234). -/
def slotsOf (plen : Nat) : Nat := 1 + (8 * plen - 56 + 63) / 64

/-- Status of the header check (R234): version, opcode, length. -/
def headerCheck (h : List Byte) : Status :=
  if natBits (fieldAt h 1 1) 7 4 ≠ 1 then .badVersion
  else
    match opcodePlen (fieldAt h 0 1) with
    | none => .badOpcode
    | some n => if fieldAt h 6 2 = n then .ok else .badOpcode

/-- Parameter offsets of the device addresses of a command (R241). -/
def addrParams (c : Cmd) : List Nat :=
  let chain := match c.src with | .frame .. => true | .ring _ => false
  match c.opcode with
  | 0x02 => [0]
  | 0x20 => if chain then [0, 16] else [0, 8, 16]
  | 0x30 => [8, 16, 24, 32, 40, 48]
  | 0x31 => [8, 16, 24, 32, 40, 48]
  | 0x38 => [8, 24]
  | 0x40 => [0]
  | 0x50 => if chain then [0, 8, 24, 32, 40, 48] else [0, 8, 16, 24, 32, 40, 48]
  | 0x51 => if chain then [0, 24] else [0, 8, 16, 24]
  | 0x60 => if chain then [0] else [0, 8]
  | 0x70 => (if (c.par 32 1).testBit 1 then [] else [0]) ++ (if (c.par 32 1).testBit 0 then [] else [8])
  | 0x71 => [0]
  | 0x72 => [8]
  | 0x80 => [8]
  | _ => []

/-- An address parameter has a bit above 36 set. -/
def addrHigh (c : Cmd) : Bool := (addrParams c).any fun o => decide (2 ^ 37 ≤ c.par o 8)

/-! ### COMMAND_FETCH (R229, R234, R235, R322, R323, R389) -/

/-- A function's rings in host memory can be read (DESIGN CHOICE, log entry 97). -/
def State.hostReadable (s : State) (f : Nat) : Bool := s.hostWritable f && !s.pcie.d3

/-- One slot of a ring; none while its memory cannot be read. -/
def State.readSlot (s : State) (rg : Ring) (p fn i : Nat) : Option (List Byte) :=
  let a := rg.sqBase + i % rg.sqSize * 64
  if rg.loc then (if s.hostReadable fn then some (s.readHost a 64) else none)
  else
    match s.translate p a 64 .rd with
    | none => none
    | some da => if s.rangeStatus da 64 = .ok ∧ (s.firstPoison da 64).isNone = true then some (s.readMem da 64) else none

/-- The bytes of n slots from SQ_HEAD. -/
def State.readSlots (s : State) (rg : Ring) (p fn h : Nat) : Nat → Option (List Byte)
  | 0 => some []
  | n + 1 =>
    match s.readSlot rg p fn h with
    | none => none
    | some b => (s.readSlots rg p fn (h + 1) n).map fun t => b ++ t

/-- The ring's owner, when the ring is served. -/
def State.servedBy (s : State) (r : Nat) : Option (Nat × Nat) :=
  let rg := s.ring r
  if rg.enabled && !rg.metadata && s.flag Reg.qmCtrl 0 then
    (s.ringOwner r).filter fun x => x.2 == 0 || s.vfVisible x.2
  else none

/-- The header bytes of the ring's next command, and its slots, when the ring has all of them (R250). -/
def State.nextPacket (s : State) (r : Nat) : Option (List Byte) :=
  let rg := s.ring r
  let avail := (rg.sqTail - rg.sqHead).toNat
  match s.servedBy r with
  | none => none
  | some (p, fn) =>
    if avail = 0 then none
    else
      match s.readSlot rg p fn rg.sqHead.toNat with
      | none => none
      | some h =>
        let n := if (opcodePlen (fieldAt h 0 1)).isSome then slotsOf (fieldAt h 6 2) else 1
        if avail < n then none else s.readSlots rg p fn rg.sqHead.toNat n

/-- The timebase as TIMESTAMP gives it (R241). -/
def State.stampBytes (s : State) : List Byte :=
  leBytes 2 (s.tb.sub % 2 ^ 32 / 2 ^ 16) ++ leBytes 4 s.tbNs ++ leBytes 6 s.tb.sec ++ List.replicate 4 0

/-- A packet becomes a command. -/
def State.newCmd (s : State) (src : CmdSrc) (p fn pos : Nat) (h params : List Byte) (st : Status) : State :=
  let f := fieldAt h 1 1
  let c : Cmd := { id := s.nextId, src := src, opcode := fieldAt h 0 1, ordered := f.testBit 3, chain := f.testBit 2, irq := f.testBit 1,
                   fence := f.testBit 0, tag := fieldAt h 2 2, index := fieldAt h 4 2, part := p, fn := fn, params := params,
                   det := s.flag Reg.globalCtrl 0, phase := .fetched, status := st, detail := 0, aux := 0, mapMask := 0, gang := 64, members := [],
                   pos := pos, latched := s.stampBytes }
  { s with cmds := s.cmds ++ [c], nextId := s.nextId + 1 }

/-- The next command of a ring is read and interpreted. -/
def State.fetchFrom (s : State) (d r : Nat) (bs : List Byte) : State :=
  let rg := s.ring r
  let n := bs.length / 64
  let own := (s.servedBy r).getD (0, 0)
  let st := headerCheck bs
  let params := if st = .ok then (bs.drop 8).take (8 * fieldAt bs 6 2) else []
  let s1 := s.newCmd (.ring (Fin.ofNat 16384 r)) own.1 own.2 rg.sqHead.toNat bs params st
  { s1.setRing r { rg with sqHead := rg.sqHead + BitVec.ofNat 32 n } with dsNext := listUpd s1.dsNext d fun _ => r }

/-- Key of a ring's fetches at the Shades. -/
def fetchKey (r : Nat) : Nat := 2 ^ 58 + r

/-- The charges of reading a ring's next n bytes of slots: those in the Crucible (R271) (DESIGN CHOICE, log entry 171). -/
def State.slotCharges (s : State) (r p n : Nat) : List (Nat × Nat) :=
  let rg := s.ring r
  if rg.loc then []
  else
    match s.translate p (rg.sqBase + rg.sqHead.toNat % rg.sqSize * 64) 64 .rd with
    | none => []
    | some da => (s.chargePath da 2 n).filter fun x => x.1 == 4

/-- COMMAND_FETCH: the Dispatcher visits the next of its rings, in ascending order round robin, that has a whole packet. -/
def State.fetch (s : State) (d : Nat) : State :=
  let rs := ((s.rings.map (·.1)).filter fun r => r / 2048 == d)
  let last := listAt 0 s.dsNext d
  let order := (rs.filter fun r => decide (last < r)) ++ rs.filter fun r => decide (r ≤ last)
  match order.find? fun r => (s.nextPacket r).isSome with
  | none => s
  | some r =>
    match s.nextPacket r with
    | none => s
    | some bs =>
      let p := ((s.servedBy r).getD (0, 0)).1
      match s.shadeAskAll p (fetchKey r) (s.slotCharges r p bs.length) with
      | (s1, false) => s1
      | (s1, true) => s1.fetchFrom d r bs

def execCommandFetch (d : DsIx) (s : State) : Host.Outcome State Fault Refusal := .next (s.fetch d.val)

/-! ### Placement of commands on units (R223, R247, R253) -/

/-- Shapers that may run a partition's SHAPEs now. -/
def State.shapers (s : State) (p : Nat) : List Nat := (List.range 4).filter fun n => (s.limit p 8 1).testBit n && s.domOn (shDom n)

/-- The Shaper of a SHAPE: that of the ring's last outstanding one, unless it is off (R228), else a free choice (R223; log entry 2)
(DEDUCED, log entry 102). -/
def State.pickShaper (s : State) (c : Cmd) : State × Option Nat :=
  let l := s.shapers c.part
  match (s.cmds.filter fun x => x.src == c.src && x.opcode == 0x20 && x.phase != .fetched && x.members.any fun n => l.contains n).getLast?, c.src with
  | some x, .ring _ => (s, x.members.head?)
  | _, _ =>
    if l.isEmpty then (s, none)
    else
      let f := s.drawFree
      (f.2, l[f.1.toNat % l.length]?)

/-- Units that a command is sent to, or the status that it ends with for want of one. -/
def State.placeCmd (s : State) (c : Cmd) : State × Except Status (List Nat) :=
  if c.opcode = 0x20 then
    match s.pickShaper c with
    | (s1, some n) => (s1, .ok [n])
    | (s1, none) => (s1, .error (if s.limit c.part 8 1 % 16 = 0 then .quota else .isolated))
  else if c.opcode = 0x38 then
    match s.scanLantern c.part with
    | some n => (s, .ok [n])
    | none => (s, .error (if (List.range 16).any fun n => (s.quotaFor c.part n).isSome then .isolated else .quota))
  else if c.opcode = 0x50 ∨ c.opcode = 0x51 ∨ c.opcode = 0x52 then
    match s.stream? c.part c.stream with
    | some st => (s, .ok [st.quad])
    | none => (s, .error .notOwner)
  else (s, .ok [])

/-! ### COMMAND_ISSUE (R235-R237, R240, R241, R244, R249, R355) -/

/-- The ring after a command of it has been interpreted: the chain goes on with CHAIN = 1, else it is closed. -/
def chainNext (rg : Ring) (c : Cmd) : Ring :=
  if c.chain then { rg with chainLen := rg.chainLen + 1, chainPrev := some c.id }
  else { rg with chainLen := 0, chainPrev := none, chainFail := none, chainDet := false }

/-- A command ends as it is interpreted, with no other effect. -/
def State.endAtIssue (s : State) (r : Nat) (c : Cmd) (st : Status) (d : Word) : State :=
  (s.setRing r (chainNext (s.ring r) c)).endCmd c.id st d

/-- A command that a chain, its header or its ring's owner ends as it is interpreted. -/
def issueEnds (c : Cmd) (rg : Ring) (valid : Bool) : Option (Status × Word) :=
  match rg.chainFail with
  | some t => some (.aborted, BitVec.ofNat 32 t)
  | none =>
    if 16 ≤ rg.chainLen then some (.badOpcode, 0)
    else if c.status ≠ .ok then some (c.status, c.detail)
    else if isMgmt c.opcode && (c.chain || decide (0 < rg.chainLen)) then some (.badOpcode, 0)
    else if valid = false then some (.notOwner, 0)
    else none

/-- Checks of a command that nothing holds back (R240, R241, R244, R249). -/
def State.issueCheck (s : State) (c : Cmd) (rg : Ring) (r : Nat) : Option Status :=
  if decide (0x80 ≤ c.opcode) && decide (c.opcode ≤ 0x83) && (!rg.priv || decide (c.fn ≠ 0)) then some .notOwner
  else if isStreamOp c.opcode then
    match s.stream? c.part c.index with
    | none => some .notOwner
    | some st =>
      if st.ring ≠ r ∨ ((c.opcode = 0x11 ∨ c.opcode = 0x12) ∧ st.unbind = true) then some .notOwner
      else if addrHigh c then some .bounds else none
  else if addrHigh c then some .bounds
  else none

/-- A stream opcode waits for an earlier STREAM_BIND or STREAM_UNBIND of its INDEX that has not been performed. -/
def streamHeld (busy : List Cmd) (c : Cmd) : Bool :=
  isStreamOp c.opcode && busy.any fun x => x.phase == .issued && (x.opcode == 0x10 || x.opcode == 0x12) && x.index == c.index

/-- What holds a command back: FENCE, ORDERED, the swap in progress, and a stream's binding. A management opcode goes to Ozmel at once; it
waits there, and nothing behind it waits for it without ORDERED (R235, R356). -/
def State.issueHeld' (s : State) (c : Cmd) (busy : List Cmd) : Bool :=
  (c.fence && !busy.isEmpty) || (c.ordered && busy.any fun x => isMgmt x.opcode) || s.swapHolds c || streamHeld busy c

/-- A command goes to its engine. -/
def State.sendCmd (s : State) (c : Cmd) : State :=
  match s.placeCmd c with
  | (s1, .ok l) =>
    match s1.fresh with
    | (k, s2) => s2.updCmd c.id fun c => { c with phase := .issued, members := l, place := k }
  | (s1, .error st) => s1.endCmd c.id st 0

/-- The oldest fetched command of a ring is issued, or ended, when nothing holds it. -/
def State.issueRing (s : State) (r : RingIx) : State :=
  let l := s.cmds.filter fun c => c.src == .ring r
  let busy := l.filter fun c => c.phase != .fetched
  let rg := s.ring r.val
  match l.find? fun c => c.phase == .fetched with
  | none => s
  | some c0 =>
    let own := (s.ringOwner r.val).getD (c0.part, c0.fn)
    let c := { c0 with part := own.1, fn := own.2 }
    let waits := match rg.chainPrev with | some id => (s.cmd? id).isSome | none => false
    if 64 ≤ busy.length ∨ rg.cqSize < busy.length + (rg.cqTail - rg.cqHead).toNat + 1 ∨ waits = true then s
    else
      let s1 := s.updCmd c.id fun x => { x with part := own.1, fn := own.2 }
      match issueEnds c rg (s.partValid own.1 && (s.ringOwner r.val).isSome) with
      | some (st, d) => s1.endAtIssue r.val c st d
      | none =>
        if s.issueHeld' c busy then s
        else
          match s.issueCheck c rg r.val with
          | some st => s1.endAtIssue r.val c st 0
          | none => ((s1.updCmd c.id fun x => { x with mapChanged := rg.chainDet && x.opcode == 0x51 }).setRing r.val (chainNext rg c)).sendCmd c

/-- The oldest waiting command of a frame's chain is issued once the one before it has completed, in the order of the stream's frames. After
a failure the rest ends with ABORTED, but for TRACK, which runs without detections (R20, R237, R243). -/
def State.issueFrame (s : State) (p : PartIx) (ix : StreamIx) (slot : Nat) : State :=
  let l := s.cmds.filter fun c => c.src == .frame p ix slot
  match l.find? fun c => c.phase == .fetched, s.stream? p.val ix.val with
  | some c, some st =>
    let before := (st.jobs.takeWhile fun j => j.slot != some slot).filterMap (·.slot)
    let behind := s.cmds.any fun x => x.phase == .fetched && decide (x.pos ≤ c.pos) && (match x.src with
      | .frame q jx k => q == p && jx == ix && before.contains k
      | .ring _ => false)
    if (l.any fun x => x.phase != .fetched) = true ∨ behind = true ∨ s.swapHolds c = true then s
    else
      match s.jobOf c with
      | none => s.endCmd c.id .aborted 0
      | some j =>
        if c.status ≠ .ok then s.endCmd c.id c.status 0
        else if j.status.success = false ∧ c.opcode ≠ 0x51 then s.endCmd c.id .aborted (BitVec.ofNat 32 c.tag)
        else if addrHigh c then s.endCmd c.id .bounds 0
        else s.sendCmd c
  | _, _ => s

def execCommandIssue (src : CmdSrc) (s : State) : Host.Outcome State Fault Refusal :=
  match src with
  | .ring r => .next (s.issueRing r)
  | .frame p ix slot => .next (s.issueFrame p ix slot)

/-! ### COMMAND_COMPLETE (R233, R236-R239, R243, R244) -/

/-- The 16 bytes of a completion record (R238). -/
def recordBytes (c : Cmd) (stamp : Dword) : List Byte :=
  leBytes 2 c.tag ++ leBytes 1 c.status.code ++ leBytes 1 c.opcode ++ leBytes 8 stamp.toNat ++ leBytes 4 c.detail.toNat

/-- A failing member ends its chain (R237) (DEDUCED, log entry 96), and one with DET_MAP_CHANGED marks it (R167). -/
def chainFails (rg : Ring) (c : Cmd) : Ring :=
  if c.chain && c.status == .detMapChanged && rg.chainPrev == some c.id then { rg with chainDet := true }
  else if c.chain && !c.status.success && rg.chainPrev == some c.id && rg.chainFail.isNone && decide (rg.chainLen ≤ 16) then
    { rg with chainFail := some c.tag }
  else rg

/-- A command leaves the device's lists. -/
def State.dropCmd (s : State) (id : Nat) : State :=
  { s with cmds := s.cmds.filter fun c => c.id != id, counters := s.counters.filter fun k => k.cmd != id }

/-- The record, the status block, and the interrupt, in that order (R233). -/
def State.writeRecord (s : State) (r : Nat) (c : Cmd) : State :=
  let rg := s.ring r
  let a := rg.cqBase + rg.cqTail.toNat % rg.cqSize * 16
  let s1 := (s.ringWrite r c.part a (recordBytes c s.stamp)).setRing r { chainFails rg c with cqTail := rg.cqTail + 1 }
  let s2 := s1.statusBlock r c.part
  let s3 := if c.irq || (rg.errIrq && !c.status.success) then s2.countIrq r else s2
  s3.dropCmd c.id

/-- Key of a completion at the Shades. -/
def recKey (id : Nat) : Nat := 2 ^ 57 + id

/-- The completion of a ring's command; it waits while its function's writes cannot be sent, or the PCIe egress Shade holds it. -/
def State.completeRing (s : State) (r : Nat) (c : Cmd) : State :=
  let loc := (s.ring r).loc
  if loc && !s.hostWritable c.fn then s
  else
    match s.shadeAskAll c.part (recKey c.id)
        (s.ringCharges r c.part ((s.ring r).cqBase + (s.ring r).cqTail.toNat % (s.ring r).cqSize * 16) 16 ++
          s.ringCharges r c.part (s.ring r).statusAddr 16) with
    | (s1, false) => s1
    | (s1, true) => s1.writeRecord r c

/-- Frames whose chains are over leave in output order (R20). -/
def State.finishJobs (s : State) (p ix : Nat) : Nat → State
  | 0 => s
  | n + 1 =>
    match (s.stream? p ix).bind fun st => st.jobs.head? with
    | none => s
    | some j => if j.issued && decide (j.left = 0) then (s.finishJob p ix 0).finishJobs p ix n else s

/-- A status taken into the chain's status: the first failing one, else DET_MAP_CHANGED (R167). -/
def jobStatus (a b : Status) : Status :=
  if a.success = false then a else if b.success = false then b else if b = .detMapChanged then b else a

/-- The completion of a frame chain's command: no record; its reader's CHAIN mark clears with the last reader (R199, R243). -/
def State.completeFrame (s : State) (p ix : Nat) (c : Cmd) : State :=
  let rd := c.opcode == 0x20 || c.opcode == 0x60
  let s1 := (s.updJob c fun j => { j with left := j.left - 1, readers := if rd then j.readers - 1 else j.readers, status := jobStatus j.status c.status }).dropCmd
    c.id
  let s2 := match s1.jobOf c, s1.stream? p ix with
    | some j, some st => if rd && decide (j.readers = 0) then s1.chainDrop st.ctx j.frame else s1
    | _, _ => s1
  s2.finishJobs p ix 9

/-- The stream of a STREAM_UNBIND that is over: its context and slots are free, and the command ends. -/
def State.unbindEnd (s : State) (c : Cmd) : State :=
  match s.stream? c.part c.index with
  | none => s.endCmd c.id (if c.status = .aborted then .aborted else .ok) 0
  | some st =>
    if s.unbindOver st then (s.removeStream c.part c.index).endCmd c.id (if c.status = .aborted then .aborted else .ok) 0 else s

/-- A SHAPE of a ring completes after every earlier SHAPE of the ring (R223). -/
def State.shapeBehind (s : State) (c : Cmd) : Bool :=
  c.opcode == 0x20 && (match c.src with | .ring _ => true | .frame .. => false) &&
  (s.cmds.takeWhile fun x => x.id != c.id).any fun x => x.opcode == 0x20 && x.src == c.src

/-- COMMAND_COMPLETE. -/
def State.complete (s : State) (id : Nat) : State :=
  let s1 : State := match s.cmd? id with
    | some c => if c.opcode = 0x12 ∧ c.phase = .active then s.unbindEnd c else s
    | none => s
  match s1.cmd? id with
  | none => s1
  | some c =>
    if c.phase = .ended then
      match c.src with
      | .ring r => if s1.shapeBehind c then s1 else s1.completeRing r.val c
      | .frame p ix _ => s1.completeFrame p.val ix.val c
    else s1

def execCommandComplete (id : Nat) (s : State) : Host.Outcome State Fault Refusal := .next (s.complete id)

/-! ### Small opcodes (R240, R241) -/

def State.opNop (c : Cmd) (s : State) : State := s.endCmd c.id .ok 0

def execNop (id : Nat) (s : State) : Host.Outcome State Fault Refusal := .next (s.runOp id 0x00 State.opNop)

/-- FENCE completes after every earlier command of the ring. -/
def State.opFence (c : Cmd) (s : State) : State :=
  if (s.cmds.takeWhile fun x => x.id != c.id).any fun x => x.src == c.src then s else s.endCmd c.id .ok 0

def execFence (id : Nat) (s : State) : Host.Outcome State Fault Refusal := .next (s.runOp id 0x01 State.opFence)

/-- The charges of an access of the partition to a range of PDAs, on BULK in DRAM (R271) (DESIGN CHOICE, log entry 171). -/
def State.pdaCharges (s : State) (p pda n : Nat) (need : Perm) : List (Nat × Nat) :=
  match s.translate p pda n need with
  | none => []
  | some da => s.chargePath da 2 n

/-- TIMESTAMP: the 16 latched bytes at DST, if one is given (DEDUCED, log entry 103). -/
def State.opTimestamp (c : Cmd) (s : State) : State :=
  let dst := c.par 0 8
  if dst = 0 then s.endCmd c.id .ok 0
  else if dst % 8 ≠ 0 then (s.noteFault 0x06 c.part (.align, some dst)).endCmd c.id .align 0
  else
    match s.shadeAskAll c.part (cmdKey c.id) (s.pdaCharges c.part dst 16 .wr) with
    | (s1, false) => s1
    | (s1, true) =>
      match s1.wr c.part dst c.latched with
      | .ok s2 => s2.endCmd c.id .ok 0
      | .error e => (s1.noteFault 0x06 c.part e).endCmd c.id e.1 0

def execTimestamp (id : Nat) (s : State) : Host.Outcome State Fault Refusal := .next (s.runOp id 0x02 State.opTimestamp)

/-! ### STREAM_BIND (R175, R194, R242, R243, R253) -/

/-- Bytes of a template: its packets, each as long as its PLEN says; none when one is not listed. -/
def State.readTemplate (s : State) (p a : Nat) : Nat → Res (List (List Byte))
  | 0 => .ok []
  | n + 1 =>
    match s.rd p a 64 with
    | .error e => .error e
    | .ok h =>
      if headerCheck h ≠ .ok then .error (headerCheck h, none)
      else
        match s.rd p a (64 * slotsOf (fieldAt h 6 2)) with
        | .error e => .error e
        | .ok b =>
          match s.readTemplate p (a + b.length) n with
          | .error e => .error e
          | .ok t => .ok (b :: t)

/-- A template holds only the opcodes of R243, one TRACK, its SNAPSHOTs after it, and no host address. -/
def templateOk (l : List (List Byte)) : Bool :=
  let ops := l.map fun b => fieldAt b 0 1
  ops.all (fun o => [0x00, 0x20, 0x30, 0x31, 0x38, 0x50, 0x51, 0x60, 0x70, 0x71].contains o) &&
  (ops.filter (· == 0x51)).length == 1 && !((ops.takeWhile (· != 0x51)).contains 0x60) &&
  l.all fun b => fieldAt b 0 1 != 0x70 || natBits (fieldAt b 40 1) 1 0 == 0

/-- Key of an entry at its specificity (R174, R175). -/
def entryKey (b : List Byte) : List Nat :=
  let f := fieldAt b 0 1
  let vlan := f.testBit 2
  [natBits (fieldAt b 1 1) 2 0, boolNat vlan, (if vlan then fieldAt b 2 2 % 4096 else 0), natBits f 3 3, fieldAt b 16 16, fieldAt b 6 2, natBits f 1 0,
   (if f.testBit 1 then fieldAt b 32 16 else 0), (if f.testBit 1 then fieldAt b 8 2 else 0), (if f.testBit 0 then fieldAt b 12 4 else 0)]

/-- The lowest number below n that no entry of a table uses. -/
def freeKey {α : Type} (t : Tab α) (n : Nat) : Option Nat := (List.range n).find? fun k => (tabFind t k).isNone

/-- Field checks of STREAM_BIND that give BAD_OPCODE or ALIGN (DEDUCED, log entry 101). -/
def bindFields (s : State) (c : Cmd) : Option Status :=
  let ing := (c.params.drop 64).take 64
  let feed := (fieldAt ing 0 1).testBit 7
  let fmt := natBits (fieldAt ing 0 1) 6 4
  let port := natBits (fieldAt ing 1 1) 2 2
  let frag := c.par 14 2
  if 1024 ≤ c.index ∨ ((c.par 0 1).testBit 7 = true ∧ feed = false) ∨ 8 < natBits (c.par 0 1) 3 0 ∨ 4 < fmt ∨ (fmt = 4 ∧ feed = false) ∨
     (frag ≠ 0 ∧ (frag < 512 ∨ 8192 < frag)) ∨ c.par 152 1 % 16 = 0 ∨ 8 < c.par 152 1 % 16 ∨ c.par 6 2 % 8192 = 0 ∨ 4096 < c.par 6 2 % 8192 ∨
     c.par 130 1 % 64 = 0 ∨ 32 < c.par 130 1 % 64 ∨ 11 < c.par 131 1 % 16 ∨
     (feed = false ∧ natBits (fieldAt ing 1 1) 1 0 ≠ 0 ∧ s.flag (Reg.ethPort port) 0 = false) then some .badOpcode
  else if c.par 144 8 % 64 ≠ 0 ∨ c.par 156 4 % 64 ≠ 0 then some .align
  else none

/-- Limits and objects that STREAM_BIND checks: INDEX, ring, Quad, track range, entry, contexts, home. -/
def State.bindLimits (s : State) (c : Cmd) : Option (Status × Word) :=
  let p := c.part
  let t := (s.part p).active
  let ing := (c.params.drop 64).take 64
  let feed := (fieldAt ing 0 1).testBit 7
  let q := c.par 1 1 % 4
  let tr := trackRange t q
  let base := c.par 4 2 % 4096
  let cnt := c.par 6 2 % 8192
  let mring := c.par 12 2 % 16384
  if (s.stream? p c.index).isSome then some (.bounds, 0xFFFFFFFF)
  else if (s.ringOwner mring).map (·.1) ≠ some p ∨ (s.ring mring).metadata = false then some (.notOwner, 0)
  else if (s.limit p 8 1).testBit (4 + q) = false then some (.quota, 0)
  else if ¬ (tr.base ≤ base ∧ base + cnt ≤ tr.base + tr.count) then some (.quota, 0)
  else if s.limit p 2 2 % 2048 ≤ (s.streamsOf p).length ∨ (feed = false ∧ (freeKey s.entries 1024).isNone = true) then some (.quota, 0)
  else if feed = false ∧ (s.entries.any fun e => entryKey e.2.ingest == entryKey ing) = true then some (.bounds, 0)
  else if s.limit p 4 2 % 2048 ≤ (s.ctxsIn p).length ∨ (freeKey s.decs 1024).isNone = true then some (.quota, 0)
  else none

/-- A range of PDAs lies in one window entry. -/
def coveredOnce (t : WordTab) (pda len : Nat) : Bool :=
  match winFind t pda with
  | none => false
  | some e => decide (pda + len ≤ winBase (tableWord t 0 (2 * e)) + winLen (tableWord t 0 (2 * e)))

/-- The decode block's preferred Smelter. -/
def bindHint (c : Cmd) : Option Nat := if (c.par 131 1).testBit 7 then some (c.par 131 1 % 16) else none

/-- A stream bound: context, entry when it is not host-fed, and home. -/
def State.bindStream (s : State) (c : Cmd) (tpl : List (List Byte)) (home ctx entry : Nat) : State :=
  let p := c.part
  let ing := (c.params.drop 64).take 64
  let feed := (fieldAt ing 0 1).testBit 7
  let r := match c.src with | .ring r => r.val | .frame .. => 0
  let st : Stream := { bind := c.params, template := tpl, ring := r, entry := if feed then none else some entry, ctx := ctx, quad := c.par 1 1 % 4,
                       base := c.par 4 2 % 4096, count := c.par 6 2 % 8192, nextTrack := 1, lastSeq := none, jobs := [], skipped := 0,
                       snuff := none, objs := [], bmrs := [], unbind := false, auOut := 0 }
  let d : DecCtx := { part := p, stream := c.index, home := home, live := !(c.par 0 1).testBit 7, codec := natBits (fieldAt ing 0 1) 6 4,
                      block := (c.params.drop 128).take 16, queue := [], work := ⟨0, 0, 0, false, 0, 0, []⟩, frames := [], nextFrame := 0, nextSeq := 0,
                      waitRap := false, waitFb := none, granted := false, seqBad := none, susp := none, paramDue := true, params := s.paramBytes p ing, rehome := false,
                      unbound := false, counts := List.replicate 10 0 }
  let e : Entry := { part := p, stream := c.index, ctx := ctx, ingest := ing, ssrc := none, sr := none, seq := none, packets := [], cands := [],
                     open_ := none, lost := false, gap := false, counts := List.replicate 8 0, jitter := 0, transit := none }
  let s1 : State := { s with streams := tabPut s.streams (streamKey p c.index) st, decs := tabPut s.decs ctx d,
                             entries := if feed then s.entries else tabPut s.entries entry e }
  (s1.powerUp (smDom home)).endCmd c.id .ok
    (BitVec.ofNat 32 (2 ^ 28 * home + 2 ^ 16 * ctx + (if feed then 2 ^ 10 else entry)))

/-- STREAM_BIND: fields, limits, template, slots, home; then the stream is bound. -/
def State.opStreamBind (c : Cmd) (s : State) : State :=
  match bindFields s c with
  | some st => s.endCmd c.id st 0
  | none =>
  match s.bindLimits c with
  | some (st, d) => s.endCmd c.id st d
  | none =>
    let slot := c.par 160 8
    let depth := if c.par 0 1 % 16 = 0 then 4 else c.par 0 1 % 16
    let ing := (c.params.drop 64).take 64
    let plen := natBits (fieldAt ing 56 8) 63 52
    if (0 < plen ∧ s.translate c.part (natBits (fieldAt ing 56 8) 36 0) plen .rd = none) ∨ 2 ^ 37 ≤ c.par 144 8 ∨ 2 ^ 37 ≤ slot ∨ 2 ^ 37 ≤ c.par 168 8 % 2 ^ 63 ∨
       coveredOnce (s.part c.part).active slot (depth * c.par 156 4) = false then s.endCmd c.id .bounds 0
    else
      match s.readTemplate c.part (c.par 144 8) (c.par 152 1 % 16) with
      | .error e => s.endCmd c.id e.1 0
      | .ok tpl =>
        if templateOk tpl = false then s.endCmd c.id .badOpcode 0
        else
          match s.smHome (s.limit c.part 6 2 % 4096) (bindHint c) with
          | none => s.endCmd c.id .quota 0
          | some h => s.bindStream c tpl h ((freeKey s.decs 1024).getD 0) ((freeKey s.entries 1024).getD 0)

def execStreamBind (id : Nat) (s : State) : Host.Outcome State Fault Refusal := .next (s.runOp id 0x10 State.opStreamBind)

/-! ### STREAM_FEED and STREAM_UNBIND (R25, R187, R188, R204, R211, R244) -/

/-- The command is the first issued one of its stream among some opcodes. -/
def State.streamTurn (s : State) (c : Cmd) (ops : List Nat) : Bool :=
  ((s.cmds.find? fun x => x.phase == .issued && x.src == c.src && x.index == c.index && ops.contains x.opcode).map (·.id)) == some c.id

/-- STREAM_FEED: the access unit is queued to the stream's context, or waits while 64 are queued; a quarantined home ends it with ISOLATED
(R209). -/
def State.opStreamFeed (c : Cmd) (s : State) : State :=
  if s.streamTurn c [0x11, 0x12] = false then s
  else
    match s.stream? c.part c.index with
    | none => s.endCmd c.id .notOwner 0
    | some st =>
      if st.entry.isSome then s.endCmd c.id .badOpcode 0
      else
        let len := c.par 8 4
        match s.dec? st.ctx with
        | none => s.endCmd c.id .notOwner 0
        | some d =>
          if s.flag (Reg.smStatus d.home) 31 then s.endCmd c.id .isolated 0
          else if 64 ≤ d.queue.length then s
          else if len = 0 then s.endCmd c.id .bounds 0
          else
            match s.useHandle c.part (c.par 0 8) 0 len with
            | (s1, .fail e) => s1.endCmd c.id e 0
            | (s1, .pass _ _) =>
              let pts := c.par 16 8
              let time := if pts = 0 then 2 ^ 32 * fieldAt c.latched 6 4 + fieldAt c.latched 2 4 else pts
              let par := if d.paramDue then d.params else []
              let au : Au := ⟨c.par 0 8, len, (c.par 12 1).testBit 0, (c.par 12 1).testBit 1, time, pts % 2 ^ 32, some c.id, s1.fresh.1, par⟩
              ((s1.fresh.2.updDec st.ctx fun d => { d with queue := d.queue ++ [au], paramDue := false }).updStream c.part c.index
                fun st => { st with auOut := min 0xFFFFFFFF (st.auOut + 1) }).updCmd c.id fun c => { c with phase := .active }

def execStreamFeed (id : Nat) (s : State) : Host.Outcome State Fault Refusal := .next (s.runOp id 0x11 State.opStreamFeed)

/-- STREAM_UNBIND begins: the entry stops matching and what it holds is discarded; queued access units are still decoded, unless a picture
is in progress. -/
def State.opStreamUnbind (c : Cmd) (s : State) : State :=
  if s.streamTurn c [0x11, 0x12] = false then s
  else
    match s.stream? c.part c.index with
    | none => s.endCmd c.id .notOwner 0
    | some st => (s.unbindStart c.part c.index st).updCmd c.id fun c => { c with phase := .active }

def execStreamUnbind (id : Nat) (s : State) : Host.Outcome State Fault Refusal := .next (s.runOp id 0x12 State.opStreamUnbind)

/-! ### POOL_ALLOC (R247, R280) -/

/-- POOL_ALLOC: COUNT handles written to DST, all or none; it waits while the entries of the pool are being written. The
destination is checked before the pool (DEDUCED, log entry 183). -/
def State.opPoolAlloc (c : Cmd) (s : State) : State :=
  let size := c.par 0 4
  let n := c.par 4 2
  let dst := c.par 8 8
  if size = 0 ∨ 0x400000 < size ∨ n = 0 ∨ 256 < n then s.endCmd c.id .badOpcode 0
  else if dst % 8 ≠ 0 then s.endCmd c.id .align 0
  else
    match s.translate c.part dst (8 * n) .wr with
    | none => (s.noteFault 0x07 c.part (.bounds, some dst)).endCmd c.id .bounds 0
    | some da =>
      match s.accessStatus da with
      | .ok =>
        if s.allocWaits size then s
        else
          match s.shadeAskAll c.part (cmdKey c.id) (s.chargePath da 2 (8 * n)) with
          | (s0, false) => s0
          | (s0, true) =>
            match s0.allocBufs c.part size n with
            | none => s0.endCmd c.id .noBuffer 0
            | some (s1, hs) => (s1.store da ((hs.map fun h => leBytes 8 h).flatten)).endCmd c.id .ok (BitVec.ofNat 32 n)
      | e => s.endCmd c.id e 0

def execPoolAlloc (id : Nat) (s : State) : Host.Outcome State Fault Refusal := .next (s.runOp id 0x72 State.opPoolAlloc)

/-! ### RANGE_SCAN (R71, R72, R247) -/

def State.opRangeScan (c : Cmd) (s : State) : State :=
  let code := c.par 0 1 % 16
  let target := c.par 1 1 % 16
  let n := c.par 16 4
  let ppm := c.par 4 4
  let pct := (c.par 2 1).testBit 0
  if code < 8 ∨ 10 < code ∨ 5 < target ∨ 1000000 < ppm then s.endCmd c.id .badOpcode 0
  else if c.members.any fun m => s.lanternOut m then s.endCmd c.id .isolated 0
  else
    match (if n = 0 then .ok [] else s.rdRaws c.part (c.par 8 8) code n : Res (List Nat)) with
    | .error e => (s.noteFault 0x06 c.part e).endCmd c.id e.1 0
    | .ok raws =>
      let r := scanRecord pct target ppm (raws.map fun x => codeNum code x)
      match s.shadeAskAll c.part (cmdKey c.id) (s.pdaCharges c.part (c.par 8 8) (codeBytes code n) .rd ++ s.pdaCharges c.part (c.par 24 8) 144 .wr) with
      | (s1, false) => s1
      | (s1, true) =>
        match s1.wr c.part (c.par 24 8) r with
        | .error e => (s1.noteFault 0x06 c.part e).endCmd c.id e.1 0
        | .ok s2 => s2.endCmd c.id .ok (BitVec.ofNat 32 (fieldAt r 4 1))

def execRangeScan (id : Nat) (s : State) : Host.Outcome State Fault Refusal := .next (s.runOp id 0x38 State.opRangeScan)

/-! ### COPY and FILL (R45, R53, R54, R247, R312) -/

/-- The operands of a COPY or FILL as those of a PUT. -/
def copyReq (c : Cmd) : RmoReq :=
  if c.opcode = 0x70 then { a := c.par 0 8, b := c.par 8 8, len := c.par 16 4, rows := max 1 (c.par 20 4), srcStride := c.par 24 4, dstStride := c.par 28 4 }
  else { a := 0, b := c.par 0 8, len := c.par 8 4, rows := max 1 (c.par 12 4), dstStride := c.par 16 4 }

/-- A COPY or FILL refused by a check of R53. -/
def State.copyRefused (s : State) (c : Cmd) (st : Status) (addr : Nat) : State :=
  (s.noteFault 0x06 c.part (st, some addr)).endCmd c.id st 0

/-- A range of host memory as read requests that cross no 4 KiB boundary: address and length (DESIGN CHOICE, log entry 99). -/
def hostChunks : Nat → Nat → Nat → List (Nat × Nat)
  | 0, _, _ => []
  | k + 1, a, n => if n = 0 then [] else
      let m := min n (4096 - a % 4096)
      (a, m) :: hostChunks k (a + m) (n - m)

/-- The read requests of a COPY from the host: host address, length, device address. -/
def copyReads (r : RmoReq) (da : Nat) : List (Nat × Nat × Nat) :=
  ((List.range r.rows).map fun i =>
    let a := r.a + i * r.srcStride
    (hostChunks (r.len / 4096 + 2) a r.len).map fun x => (x.1, x.2, da + i * r.dstStride + (x.1 - a))).flatten

/-- Read requests of a COPY are sent as long as fewer than 768 are outstanding and the function may send any (R312, R323). -/
def State.pumpReads (s : State) (c : Cmd) (l : List (Nat × Nat × Nat)) : State :=
  if s.hostReadable c.fn = false then s
  else
    let k := min (768 - s.pcie.reads.length) (l.length - c.aux)
    let new := (((l.drop c.aux).take k).zipIdx.map fun x =>
      ({ id := s.nextId + x.2, fn := c.fn, cmd := c.id, addr := x.1.1, len := x.1.2.1, dst := x.1.2.2 } : HostRead))
    { s.updCmd c.id fun c => { c with aux := c.aux + k, phase := .active } with
      nextId := s.nextId + k, pcie := { s.pcie with reads := s.pcie.reads ++ new } }

/-- The Dispatcher of a command: that of its ring, or of the ring that bound its stream. -/
def State.cmdDisp (s : State) (c : Cmd) : Nat :=
  match c.src with
  | .ring r => r.val / 2048
  | .frame p ix _ => match s.stream? p.val ix.val with | some st => st.ring / 2048 | none => 8

/-- The memory that a COPY or a FILL writes: a unit of the device, or none for the host or an address that fails translation. All of DRAM
counts as one destination (R51) (DESIGN CHOICE, log entry 160). -/
def State.copyDests (s : State) (c : Cmd) : Option MemUnit × Option MemUnit :=
  let r := copyReq c
  let n := spanLen r.len r.rows r.dstStride
  if c.opcode = 0x70 ∧ (c.par 32 1).testBit 0 = true then (none, none)
  else
    match s.translate c.part r.b n .wr with
    | none => (none, none)
    | some da => (some (s.unitOf da), some (s.unitOf (da + n - 1)))

/-- Two destinations, from a first to a last unit of one kind, have a unit in common. -/
def destsMeet : Option MemUnit × Option MemUnit → Option MemUnit × Option MemUnit → Bool
  | (some .dram, _), (some .dram, _) => true
  | (some (.ingot a), some (.ingot b)), (some (.ingot c), some (.ingot d)) => decide (a ≤ d) && decide (c ≤ b)
  | (some (.crucible a), some (.crucible b)), (some (.crucible c), some (.crucible d)) => decide (a ≤ d) && decide (c ≤ b)
  | _, _ => false

/-- An earlier COPY or FILL of the same Dispatcher to a destination of this one has not been performed (R51). -/
def State.copyBehind (s : State) (c : Cmd) : Bool :=
  s.cmds.any fun x => (x.opcode == 0x70 || x.opcode == 0x71) && (x.phase == .issued || x.phase == .active) && decide (x.place < c.place) &&
    s.cmdDisp x == s.cmdDisp c && destsMeet (s.copyDests x) (s.copyDests c)

/-- COPY from host memory: the destination is checked, and read requests go out. -/
def State.copyFromHost (s : State) (c : Cmd) (r : RmoReq) : State :=
  match s.translate c.part r.b (spanLen r.len r.rows r.dstStride) .wr with
  | none => s.copyRefused c .bounds r.b
  | some da =>
    match s.shadeAskAll c.part (cmdKey c.id) (s.chargePath da 2 (r.len * r.rows)) with
    | (s1, false) => s1
    | (s1, true) => (s1.updCmd c.id fun c => { c with gang := da, phase := .active }).pumpReads { c with gang := da } (copyReads r da)

/-- An active COPY from the host goes on: more requests, or its completion. -/
def State.copyGoesOn (s : State) (id : Nat) : State :=
  match s.cmd? id with
  | none => s
  | some c =>
    if c.phase ≠ .active ∨ c.opcode ≠ 0x70 then s
    else
      let l := copyReads (copyReq c) c.gang
      let s1 := s.pumpReads c l
      if l.length ≤ c.aux ∧ (s1.pcie.reads.any fun x => x.cmd == id) = false then s1.endCmd id c.status 0 else s1

/-- COPY (R247). -/
def State.opCopy (c : Cmd) (s : State) : State :=
  let r := copyReq c
  let f := c.par 32 1
  let d : DsIx := Fin.ofNat 8 (s.cmdDisp c)
  if f.testBit 0 && f.testBit 1 then s.endCmd c.id .badOpcode 0
  else if copyAligned r true = false then s.copyRefused c .align (copyFaultAt r true)
  else if s.copyBehind c then s
  else if f.testBit 1 then s.copyFromHost c r
  else if f.testBit 0 then
    match s.translate c.part r.a (spanLen r.len r.rows r.srcStride) .rd with
    | none => s.copyRefused c .bounds r.a
    | some da =>
      if s.hostWritable c.fn = false then s
      else
        match s.shadeAskAll c.part (cmdKey c.id) (s.chargePath da 2 (r.len * r.rows) ++ [(5, r.len * r.rows)]) with
        | (s1, false) => s1
        | (s1, true) =>
          match s1.takeRows State.writeHost da r.b r.len r.srcStride r.dstStride .ok r.rows with
          | (s2, st) => s2.endCmd c.id st 0
  else
    match s.rmoCheck (.dispatcher d) c.part .put r c.det with
    | .fail st a => s.copyRefused c st a
    | .pass da db =>
      match s.shadeAskAll c.part (cmdKey c.id) (s.chargePath da 2 (r.len * r.rows) ++ s.chargePath db 2 (r.len * r.rows)) with
      | (s1, false) => s1
      | (s1, true) =>
        match s1.copyRows da db r.len r.srcStride r.dstStride .ok r.rows with
        | (s2, st) => s2.endCmd c.id st 0

/-- The step of COPY: a COPY from the host that is under way sends the requests that it could not send before. -/
def execCopy (id : Nat) (s : State) : Host.Outcome State Fault Refusal := .next ((s.copyGoesOn id).runOp id 0x70 State.opCopy)

/-- FILL (R247). -/
def State.opFill (c : Cmd) (s : State) : State :=
  let r := copyReq c
  if copyAligned r false = false then s.copyRefused c .align (copyFaultAt r false)
  else if s.copyBehind c then s
  else
    match s.translate c.part r.b (spanLen r.len r.rows r.dstStride) .wr with
    | none => s.copyRefused c .bounds r.b
    | some db =>
      match s.shadeAskAll c.part (cmdKey c.id) (s.chargePath db 2 (r.len * r.rows)) with
      | (s1, false) => s1
      | (s1, true) =>
        match s1.fillRows db r.len r.dstStride (leBytes 8 (c.par 24 8)) .ok r.rows with
        | (s2, st) => s2.endCmd c.id st 0

def execFill (id : Nat) (s : State) : Host.Outcome State Fault Refusal := .next (s.runOp id 0x71 State.opFill)

/-! ### Host reads of a COPY (R312, R325, R326) -/

/-- HOST_READ_COMPLETION: the data of a request reaches device memory; what arrives for no request is discarded. -/
def State.hostReadDone (s : State) (id : Nat) (bytes : List Byte) : State :=
  match s.pcie.reads.find? fun x => x.id == id with
  | none => s
  | some x =>
    let s1 : State := { s with pcie := { s.pcie with reads := s.pcie.reads.filter fun y => y.id != id } }
    match s1.cmd? x.cmd with
    | none => s1
    | some c =>
      if c.phase ≠ .active then s1
      else
        match s1.rangeStatus x.dst x.len with
        | .ok =>
          match s1.rowStart x.dst x.len c.status with
          | (s2, st) => ((s2.updCmd x.cmd fun c => { c with status := st }).store x.dst ((bytes ++ List.replicate x.len 0).take x.len)).copyGoesOn x.cmd
        | e => ({ s1 with pcie := { s1.pcie with reads := s1.pcie.reads.filter fun y => y.cmd != x.cmd } } : State).endCmd x.cmd e 0

def execHostReadCompletion (id : Nat) (bytes : List Byte) (s : State) : Host.Outcome State Fault Refusal := .next (s.hostReadDone id bytes)

/-! ### FRAME_CHAIN_ISSUE (R20, R243) -/

/-- A parameter replaced by an 8-byte number. -/
def setPar (ps : List Byte) (off v : Nat) : List Byte := overlay ps off (leBytes 8 v)

/-- Slot-relative addresses of a template packet become absolute, and BMR_DST becomes 0 (R243). -/
def substParams (st : Stream) (slot op : Nat) (offs : List Nat) (ps : List Byte) : List Byte :=
  let a := offs.foldl (fun ps o =>
    let v := fieldAt ps o 8
    if v.testBit 63 then setPar ps o (st.slotBase + slot * st.slotSize + v % 2 ^ 37) else ps) ps
  if op = 0x51 then setPar a 16 0 else a

/-- One packet of the template as a command of a frame. -/
def State.frameCmd (s : State) (p : PartIx) (ix : StreamIx) (st : Stream) (j : FrameJob) (slot pos : Nat) (b : List Byte) : State :=
  let fn := match s.ringOwner st.ring with | some (_, f) => f | none => 0
  let s1 := s.newCmd (.frame p ix slot) p.val fn pos b ((b.drop 8).take (8 * fieldAt b 6 2)) .ok
  s1.updCmd s.nextId fun c =>
    { c with tag := fieldAt j.desc 0 4 % 65536, index := ix.val, irq := false, fence := false, ordered := false
             params := substParams st slot c.opcode (addrParams c) c.params }

/-- FRAME_CHAIN_ISSUE: the oldest frame that holds a slot and has no chain yet gets the stream's template as its chain. -/
def State.frameChain (s : State) (p : PartIx) (ix : StreamIx) : State :=
  match s.stream? p.val ix.val with
  | none => s
  | some st =>
    match st.jobs.find? fun j => !j.issued with
    | none => s
    | some j =>
      match j.slot with
      | none => s
      | some k =>
        let rd := (st.template.filter fun b => fieldAt b 0 1 == 0x20 || fieldAt b 0 1 == 0x60).length
        let s1 := (st.template.zipIdx).foldl (fun s b => s.frameCmd p ix st j k b.2 b.1) s
        let s2 := s1.updStream p.val ix.val fun st => st.updJob k fun j => { j with issued := true, left := st.template.length, readers := rd }
        if rd = 0 then s2.chainDrop st.ctx j.frame else s2

def execFrameChainIssue (p : PartIx) (ix : StreamIx) (s : State) : Host.Outcome State Fault Refusal := .next (s.frameChain p ix)

end Sys2Proof.Machine
end

