-- ==== Sys2Proof/Machine/Pcie.lean ====
section
/-!
DEFINITION. The PCI Express endpoint: link, resets of the endpoint and of its functions, BAR4, configuration space, MSI-X messages that
are pending, and read requests that time out (R309-R329).
-/

namespace Sys2Proof.Machine

/-! ### The end of a function's work (R324, R325) -/

/-- The command came through a ring of a function in a set. -/
def Cmd.ofFn (fns : Nat → Bool) (c : Cmd) : Bool :=
  match c.src with
  | .ring _ => fns c.fn
  | .frame .. => false

/-- The ring of a command lies in host memory. -/
def State.cmdLoc (s : State) (c : Cmd) : Bool :=
  match c.src with
  | .ring r => (s.ring r.val).loc
  | .frame .. => false

/-- A command of a function that is reset: it is aborted; what would be recorded in host memory is discarded, and a STREAM_UNBIND that has
begun then ends at once (R324). -/
def State.fnAbort (s : State) (c : Cmd) : State :=
  let s1 := s.abortCmd c
  if s.cmdLoc c then
    (if c.opcode = 0x12 ∧ c.phase = .active then (s1.removeStream c.part c.index).dropCmd c.id else s1.dropCmd c.id)
  else s1

/-- A ring with ENABLE clear. -/
def Ring.disable (r : Ring) : Ring := { r with ctx := listUpd r.ctx 6 fun w => setBits w 23 23 0 }

/-- Commands of a set of functions are aborted, their rings disabled, and their outstanding read requests forgotten. -/
def State.endFns (s : State) (fns : Nat → Bool) : State :=
  let s1 := (s.cmds.filter fun c => c.ofFn fns).foldl (fun s c => s.fnAbort c) s
  { s1 with
    rings := s1.rings.map fun e => (e.1, if (match s1.ringOwner e.1 with | some (_, f) => fns f | none => fns 0) then e.2.disable else e.2)
    pcie := { s1.pcie with reads := s1.pcie.reads.filter fun x => !fns x.fn } }

/-- A function's mailbox is cleared; the PF's LOCK stays. -/
def State.clearMailbox (s : State) (f : Nat) : State :=
  let lo := mbKey f 0
  { s with
    regs := s.regs.filterMap fun e =>
      if lo ≤ e.1 ∧ e.1 < lo + 0x1000 then
        (if e.1 = Reg.mbH2dCtl ∧ bitOf e.2 31 = true then some (e.1, 0x80000000) else none)
      else some e
    ozmel := { s.ozmel with mailboxes := tabErase s.ozmel.mailboxes f } }

/-- Mailboxes of every function are cleared. -/
def State.clearMailboxes (s : State) : State := (List.range 256).foldl (fun s f => s.clearMailbox f) s

/-- What a hot reset does at the endpoint and to the work of its functions (R324). -/
def State.hotColumn (s : State) : State :=
  let s1 := (s.endFns fun _ => true).clearMailboxes
  ({ s1 with pcie := { s1.pcie with funcs := [], vfEnable := false, vfMse := false, numVf := 0, bar4Gib := 1, d3 := false } } : State).setFld
    Reg.peStatus 7 0 0

/-- The link is down (DEDUCED, log entry 123). -/
def State.linkDown (s : State) : State :=
  (((s.setFld Reg.peStatus 31 30 0).setFld Reg.peStatus 23 20 0).setFld Reg.peStatus 12 8 0)

/-! ### Link (R309, R326) -/

/-- PCIE_LINK_UP: the link has trained to a speed and a width; at 64 GT/s it is in FLIT mode. -/
def State.pcieUp (s : State) (speed width : Nat) (flit : Bool) : State :=
  if s.pcie.perst || !s.fabric.refclk || s.flag Reg.peStatus 31 then s
  else
    let f := flit || decide (speed = 6)
    ((s.setFld Reg.peStatus 31 30 (2 + boolNat f)).setFld Reg.peStatus 23 20 speed).setFld Reg.peStatus 12 8 width

def execPcieLinkUp (speed : Fin 7) (width : Nat) (flit : Bool) (s : State) : Host.Outcome State Fault Refusal :=
  if speed.val = 0 ∨ [1, 2, 4, 8, 16].contains width = false then .fault .illFormed else .next (s.pcieUp speed.val width flit)

/-- PCIE_LINK_LOST: LINK_LOST and an event; every outstanding read ends its command with TIMEOUT, with no AER error; then the hot reset
column, with device-to-host writes discarded (R326). The event's ARG is not stated. -/
def State.pcieLost (s : State) : State :=
  if s.flag Reg.peStatus 31 = false then s
  else
    let v := (s.linkDown.setFlag Reg.peStatus 29 true).drawFree
    let s1 := v.2.sootEvent 0x5061 v.1 none
    let s2 := ((s1.pcie.reads.map (·.cmd)).eraseDups).foldl (fun s id => s.endCmd id .timeout 0) s1
    s2.hotColumn.setFlag Reg.rstCause 2 true

def execPcieLinkLost (s : State) : Host.Outcome State Fault Refusal := .next s.pcieLost

/-- HOT_RESET: an in-band reset on a link that is up (R324). -/
def execHotReset (s : State) : Host.Outcome State Fault Refusal :=
  .next (if s.flag Reg.peStatus 31 then s.linkDown.hotColumn.setFlag Reg.rstCause 2 true else s)

/-! ### Function-level reset (R324, R325) -/

/-- The function can be reached in configuration space. -/
def State.fnExists (s : State) (f : Nat) : Bool :=
  s.flag Reg.peStatus 31 && (f == 0 || (s.pcie.vfEnable && decide (f ≤ s.pcie.numVf)))

/-- FLR: the function's configuration is reset, its rings are disabled and its commands aborted; an FLR of the PF clears VF Enable and takes
every VF with it (DEDUCED, log entry 124). -/
def State.flrStart (s : State) (f : Nat) : State :=
  if s.fnExists f = false ∨ (s.func f).flr = true then s
  else if f = 0 then
    let s1 := s.endFns fun _ => true
    let p : Pcie := { s1.pcie with funcs := [(0, { Func.reset with flr := true })], vfEnable := false, vfMse := false, numVf := 0, d3 := false }
    ({ s1 with pcie := p } : State).setFld Reg.peStatus 7 0 0
  else
    (s.endFns fun g => g == f).setFunc f { Func.reset with flr := true, pba := (s.func f).pba, table := (s.func f).table }

def execFlr (f : FnIx) (s : State) : Host.Outcome State Fault Refusal := .next (s.flrStart f.val)

/-- FLR_COMPLETE: mailbox, MSI-X table and PBA are clear, the FLR_CAUSE bit is set, and the function answers again. -/
def State.flrEnd (s : State) (f : Nat) : State :=
  if (s.func f).flr = false then s
  else
    let s1 := if f = 0 then s.clearMailboxes else s.clearMailbox f
    (s1.setFunc f Func.reset).setFlag (Reg.flrCause (f / 32)) (f % 32) true

def execFlrComplete (f : FnIx) (s : State) : Host.Outcome State Fault Refusal := .next (s.flrEnd f.val)

/-! ### The DRAM window (R316-R318) -/

/-- What answers an access of n bytes at a BAR4 offset: Unsupported Request, Completer Abort, or neither. -/
inductive Bar4Answer
  | unsupported
  | abort
  | ok (da : Nat)
deriving DecidableEq, Repr

/-- The answer to a BAR4 access (R317). -/
def State.bar4Answer (s : State) (off n : Nat) : Bar4Answer :=
  let da := mib2 * s.fld Reg.peBar4 26 0 + off
  if s.flag Reg.peBar4 30 = false ∨ s.usableTop < da + n then .unsupported
  else
    match s.rangeStatus da n with
    | .ok => .ok da
    | _ => .abort

/-- A refused access is counted (DEDUCED, log entry 125). -/
def State.bar4Refused (s : State) : State := s.bump Reg.peErr 31 16 1

/-- An error of a function is logged in AER: 0 Unsupported Request, 1 Completer Abort, 2 Completion Timeout. -/
def State.aerLog (s : State) (f kind : Nat) : State := { s with pcie := { s.pcie with aer := (f, kind) :: s.pcie.aer } }

/-- The access meets PF BAR4: the link is up, the PF in D0, and the offset within the window. -/
def State.bar4Hit (s : State) (off n : Nat) : Bool :=
  s.flag Reg.peStatus 31 && !s.pcie.d3 && decide (off + n ≤ 0x40000000 * s.pcie.bar4Gib)

/-- BAR4_READ: data, data poisoned, or an error completion. -/
def State.bar4Rd (s : State) (off n : Nat) : State :=
  let out (s : State) (d : Option (List Byte)) (ep : Bool) : State := { s with outs := { s.outs with bar4Data := d, bar4Poison := ep } }
  if s.bar4Hit off n = false then s
  else if (s.func 0).flr then out s none false
  else
    match s.bar4Answer off n with
    | .ok da =>
      (match s.firstPoison da n with
       | some w => out (s.memError w) (some (s.readMem da n)) true
       | none => out s (some (s.readMem da n)) false)
    | _ => out s.bar4Refused none false

def execBar4Read (off : Nat) (len : Nat) (s : State) : Host.Outcome State Fault Refusal := .next (s.bar4Rd off len)

/-- BAR4_WRITE: performed, or dropped and logged in AER. -/
def State.bar4Wr (s : State) (off : Nat) (bs : List Byte) : State :=
  if s.bar4Hit off bs.length = false ∨ (s.func 0).flr = true then s
  else
    match s.bar4Answer off bs.length with
    | .unsupported => s.bar4Refused.aerLog 0 0
    | .abort => if s.flag Reg.peBar4 29 then s.bar4Refused.aerLog 0 1 else s.bar4Refused.aerLog 0 0
    | .ok da => if s.flag Reg.peBar4 29 then s.storeUnits bs.length da bs else s.bar4Refused.aerLog 0 0

def execBar4Write (off : Nat) (bytes : List Byte) (s : State) : Host.Outcome State Fault Refusal := .next (s.bar4Wr off bytes)

/-! ### Read requests without completion (R312) -/

/-- COMPLETION_TIMEOUT: the command of the request ends with TIMEOUT, its other requests are forgotten, and the error is logged. -/
def State.readTimeout (s : State) (id : Nat) : State :=
  match s.pcie.reads.find? fun x => x.id == id with
  | none => s
  | some x =>
    let s1 : State := { s with pcie := { s.pcie with reads := s.pcie.reads.filter fun y => y.cmd != x.cmd } }
    ((s1.endCmd x.cmd .timeout 0).aerLog x.fn 2).bump Reg.peErr 15 0 1

def execCompletionTimeout (id : Nat) (s : State) : Host.Outcome State Fault Refusal := .next (s.readTimeout id)

/-! ### Configuration (R310, R313, R322, R323, R327) -/

/-- POWER_STATE_CHANGE: D3hot or D0 of the PF. -/
def execPowerStateChange (d3 : Bool) (s : State) : Host.Outcome State Fault Refusal :=
  .next (if s.fnExists 0 && !(s.func 0).flr then { s with pcie := { s.pcie with d3 := d3 } } else s)

/-- VF_ENABLE: VF Enable, VF MSE and NumVFs written. Clearing VF Enable ends the VFs' work as an FLR of the PF does (R329); in recovery mode
VF Enable cannot be set (R322). -/
def State.vfWrite (s : State) (enable mse : Bool) (num : Nat) : State :=
  if s.fnExists 0 = false ∨ (s.func 0).flr = true ∨ 255 < num then s
  else if enable then
    if s.discState = 2 then s
    else
      let n := if s.pcie.vfEnable then s.pcie.numVf else num
      ({ s with pcie := { s.pcie with vfEnable := true, vfMse := mse, numVf := n } } : State).setFld Reg.peStatus 7 0 n
  else if s.pcie.vfEnable then
    let s1 := s.endFns fun f => f != 0
    let s2 := ((List.range 255).map (· + 1)).foldl (fun s f => s.clearMailbox f) s1
    ({ s2 with pcie := { s2.pcie with vfEnable := false, vfMse := mse, numVf := num, funcs := s2.pcie.funcs.filter fun e => e.1 == 0 } } : State).setFld
      Reg.peStatus 7 0 0
  else { s with pcie := { s.pcie with vfMse := mse, numVf := num } }

def execVfEnable (enable mse : Bool) (num : Nat) (s : State) : Host.Outcome State Fault Refusal := .next (s.vfWrite enable mse num)

/-- MSIX_PENDING_SEND: a pending vector whose four conditions hold is sent (R323). -/
def execMsixPendingSend (f : FnIx) (vec : Fin 2048) (s : State) : Host.Outcome State Fault Refusal :=
  let fn := s.func f.val
  .next (if fn.pba.contains vec.val && s.msixReady f.val vec.val then
    (s.setFunc f.val { fn with pba := fn.pba.filter fun v => v != vec.val }).msixDue f.val vec.val else s)

/-- CONFIG_SPACE_WRITE: Bus Master Enable, MSI-X Enable, Function Mask, the Resizable BAR size or the Completion Timeout value. -/
def State.configWrite (s : State) (f : Nat) (i : ConfigItem) : State :=
  if s.fnExists f = false ∨ (s.func f).flr = true then s
  else
    let fn := s.func f
    match i with
    | .busMaster b => s.setFunc f { fn with busMaster := b }
    | .msixEnable b => s.setFunc f { fn with msixEnable := b }
    | .functionMask b => s.setFunc f { fn with functionMask := b }
    | .completionTimeout v => s.setFunc f { fn with timeoutVal := v.val }
    | .bar4Size g => if f = 0 ∧ [1, 2, 4, 8, 16, 32, 64, 128].contains g = true then { s with pcie := { s.pcie with bar4Gib := g } } else s

def execConfigSpaceWrite (f : FnIx) (item : ConfigItem) (s : State) : Host.Outcome State Fault Refusal := .next (s.configWrite f.val item)

end Sys2Proof.Machine
end

