-- ==== Sys2Proof/Machine/Timebase.lean ====
section
/-!
DEFINITION. The timebase (R330-R347): the counter, the increment, the servo, the references, the trigger outputs and the
capture inputs.
-/

namespace Sys2Proof.Machine

/-- Nanoseconds in 2^32 s, the span of a stamp (R10, R343). -/
def tbSpan : Nat := 2 ^ 32 * 1000000000

/-- The target lies ahead of the present time, counted modulo 2^32 s (R343) (DESIGN CHOICE, log entry 21). -/
def tbAhead (t now : Nat) : Bool :=
  let d := (t + tbSpan - now % tbSpan) % tbSpan
  decide (0 < d) && decide (d < tbSpan / 2)

/-! ### Triggers (R343) -/

/-- PERIOD in ns: rounded down to even, at least 16. -/
def State.trigPeriod (s : State) (k : Nat) : Nat := max 16 ((s.reg (Reg.trigPer k)).toNat / 2 * 2)

/-- Target in ns modulo 2^32 s; TRIG_NS above 999,999,999 acts as 999,999,999. -/
def State.trigTarget (s : State) (k : Nat) : Nat :=
  (s.reg (Reg.trigSec k)).toNat * 1000000000 + min 999999999 (s.reg (Reg.trigNs k)).toNat

/-- Pulse length in ticks: WIDTH, 0 acting as 1, clipped to PERIOD - 2 ns when periodic. -/
def State.trigTicks (s : State) (k : Nat) : Nat :=
  let w := max 1 (s.fld (Reg.trigCfg k) 23 0)
  if s.flag (Reg.trigCfg k) 29 then min w ((s.trigPeriod k - 2) / 2) else w

/-- The state with a trigger's record replaced. -/
def State.updTrig (s : State) (k : Nat) (f : Trig → Trig) : State := { s with tb := { s.tb with trigs := listUpd s.tb.trigs k f } }

/-- A trigger's record. -/
def State.trig (s : State) (k : Nat) : Trig := listAt ⟨false, none, 0⟩ s.tb.trigs k

/-- The due edge t of trigger k fires: the pulse starts; a one-shot disarms, a periodic one takes its next boundary. -/
def State.trigFire (s : State) (k t : Nat) : State :=
  let high := !s.flag (Reg.trigCfg k) 28
  if s.flag (Reg.trigCfg k) 29 then
    s.updTrig k fun _ => ⟨high, some ((t + s.trigPeriod k) % tbSpan), s.trigTicks k⟩
  else
    (s.updTrig k fun _ => ⟨high, none, s.trigTicks k⟩).setFlag (Reg.trigCfg k) 31 false

/-- After the counter has jumped, an edge it passed fires at once; a periodic trigger goes on at its first boundary after
the new time, and each edge skipped adds 1 to MISSED (R343). -/
def State.trigJump (s : State) (k : Nat) : State :=
  match (s.trig k).next with
  | none => s
  | some t =>
    if tbAhead t s.nowNs then s
    else
      let s1 := s.trigFire k t
      if s.flag (Reg.trigCfg k) 29 then
        let late := (s.nowNs % tbSpan + tbSpan - t) % tbSpan
        let n := late / s.trigPeriod k
        (s1.updTrig k fun g => { g with next := some ((t + (n + 1) * s.trigPeriod k) % tbSpan) }).bump (Reg.trigCfg k) 27 24 n
      else s1

/-- Every trigger after a jump of the counter. -/
def State.trigsJump (s : State) : State := (List.range 8).foldl (fun s k => s.trigJump k) s

/-! ### The counter (R330-R332, R340) -/

/-- The counter at a total of 2^-32 ns, reduced to seconds and the rest; seconds are 48 bits. -/
def State.setCounter (s : State) (total : Int) : State :=
  let u : Int := 1000000000 * 2 ^ 32
  { s with tb := { s.tb with sec := (total / u % 2 ^ 48).toNat, sub := (total % u).toNat } }

/-- The counter as a total of 2^-32 ns. -/
def State.counter (s : State) : Int := (s.tb.sec : Int) * (1000000000 * 2 ^ 32) + s.tb.sub

/-- A quotient rounded to nearest, ties away from zero (R331). -/
def roundDivAway (n d : Int) : Int := if 0 ≤ n then (2 * n + d) / (2 * d) else -((2 * -n + d) / (2 * d))

/-- Slew of one tick in 2^-32 ns: INCR * SLEW_RATE / 10^6, with the rate acting as 1-500. -/
def State.slewStep (s : State) : Int :=
  let n := s.tb.incr.toNat * min 500 (max 1 (s.fld Reg.tbSlewRate 9 0))
  ((n / 1000000 + boolNat (decide (n % 1000000 ≠ 0) && Config.roundUpSlew n) : Nat) : Int)

/-- What a tick adds in 2^-32 ns, and the slew that remains after it (R331, R340). -/
def State.effIncr (s : State) : Int × Int :=
  let inc : Int := s.tb.incr.toNat
  if s.flag Reg.tbCtrl 1 then
    let d := if 0 ≤ s.tb.slewRem then min s.tb.slewRem s.slewStep else max s.tb.slewRem (-s.slewStep)
    (inc + d, s.tb.slewRem - d)
  else (inc + roundDivAway (inc * s.freqF) (4096 * 1000000000), s.tb.slewRem)

/-- A SET, STEP or servo step has changed the counter by d ns: STEPS rises, Soot records it, passed edges fire, and with
EN = 1 the servo returns to ACQUIRE with its integral term (R332, R343); in FREERUN and HOLDOVER it stays (DESIGN CHOICE, log entry 181). -/
def State.afterStep (s : State) (d : Int) : State :=
  let s1 := ((s.bump Reg.tbStatus 15 8 1).sootEvent 0x0431 (BitVec.ofNat 64 (wrapInt 64 d)) none).trigsJump
  if s1.flag Reg.tbCtrl 0 && s1.tb.servo != .freerun && s1.tb.servo != .holdover then
    { s1 with tb := { s1.tb with servo := .acquire, good := 0 } }
  else s1

/-- The counter stepped by d ns at once. -/
def State.stepCounter (s : State) (d : Int) : State := (s.setCounter (s.counter + d * 2 ^ 32)).afterStep d

/-- The running pulse of one trigger after a tick. -/
def State.trigTick (s : State) (k : Nat) : State :=
  match (s.trig k).pulse with
  | 0 => s
  | 1 => s.updTrig k fun g => { g with pulse := 0, level := !g.level }
  | n + 2 => s.updTrig k fun g => { g with pulse := n + 1 }

/-- A committed SET applied at the tick (R332): NS above 999,999,999 acts as 999,999,999; the hidden bits clear. -/
def State.applySet (s : State) : State :=
  match s.tb.pendingSet with
  | none => s
  | some v =>
    let s1 := { s with tb := { s.tb with sec := v.sec, sub := min 999999999 v.ns * 2 ^ 32 + v.frac * 2 ^ 16, pendingSet := none } }
    s1.afterStep ((s1.nowNs : Int) - s.nowNs)

/-- A committed STEP applied at the tick. -/
def State.applyStep (s : State) : State :=
  match s.tb.pendingStep with
  | none => s
  | some d => { s with tb := { s.tb with pendingStep := none } }.stepCounter d

/-- TB_TICK: one CLK_TB tick (R330). A committed SET loads the counter in place of the increment; a committed STEP is added.
While SYS_REFCLK has stopped there is no tick (R333) (DESIGN CHOICE, log entry 36). -/
def execTbTick (s : State) : Host.Outcome State Fault Refusal :=
  if s.fabric.refclk = false then .next s
  else
    let s1 := match s.tb.pendingSet with
      | some _ => s.applySet
      | none =>
        let e := s.effIncr
        let s2 := s.setCounter (s.counter + e.1)
        { s2 with tb := { s2.tb with slewRem := e.2 } }
    .next ((List.range 8).foldl (fun s k => s.trigTick k) s1.applyStep)

/-- A write to TB_CMD: SET wins when both bits are written (TB_CMD). -/
def State.tbCmdWrite (s : State) (v : Word) : State :=
  if bitOf v 0 then
    let sh := s.reg Reg.tbSetSh
    { s with tb := { s.tb with pendingSet := some { sec := bitsOf sh 15 0 * 2 ^ 32 + (s.reg Reg.tbSetSl).toNat, ns := (s.reg Reg.tbSetNs).toNat, frac := bitsOf sh 31 16 } } }
  else if bitOf v 1 then { s with tb := { s.tb with pendingStep := some (signedOf 32 (s.reg Reg.tbStep).toNat) } }
  else s

/-- TB_SET: TB_CMD.SET commits the values of TB_SET for the next tick (R332). -/
def execTbSet (s : State) : Host.Outcome State Fault Refusal := .next (s.pfReach Reg.tbCmd (s.tbCmdWrite 1))

/-- TB_STEP: TB_CMD.STEP commits TB_STEP for the next tick (R332). -/
def execTbStep (s : State) : Host.Outcome State Fault Refusal := .next (s.pfReach Reg.tbCmd (s.tbCmdWrite 2))

/-- The 96-bit time latched into the three TB_TIME registers (R332). -/
def State.tbLatch (s : State) : State :=
  { s with tb := { s.tb with
      latchNs := BitVec.ofNat 32 s.tbNs
      latchSl := BitVec.ofNat 32 s.tb.sec
      latchSh := BitVec.ofNat 32 (s.tb.sub / 2 ^ 16 % 2 ^ 16 * 2 ^ 16 + s.tb.sec / 2 ^ 32) } }

/-- TB_TIME_LATCH: a read of TB_TIME_NS latches the whole value and returns the nanoseconds. -/
def execTbTimeLatch (s : State) : Host.Outcome State Fault Refusal :=
  let s1 := s.tbLatch
  .next (s.pfRead Reg.tbTimeNs { s1 with outs := { s1.outs with busData := s1.tb.latchNs.setWidth 64 } })

/-- TB_INCR_COMMIT: INT with the staged FRACT, or with the fraction in force when none is staged (TB_INCR_HI). -/
def State.tbIncrCommit (s : State) (v : Word) : State :=
  let lo := match s.tb.incrStaged with | some w => w | none => s.tb.incr.setWidth 32
  { s with tb := { s.tb with incr := BitVec.ofNat 40 (bitsOf v 7 0 * 2 ^ 32 + lo.toNat), incrStaged := none } }

def execTbIncrCommit (v : Word) (s : State) : Host.Outcome State Fault Refusal := .next (s.pfReach Reg.tbIncrHi (s.tbIncrCommit v))

/-- TB_SLEW_WRITE: the adjustment that remains is replaced (R340). -/
def State.tbSlewWrite (s : State) (v : Word) : State := { s with tb := { s.tb with slewRem := signedOf 32 v.toNat * 2 ^ 32 } }

def execTbSlewWrite (v : Word) (s : State) : Host.Outcome State Fault Refusal := .next (s.pfReach Reg.tbSlew (s.tbSlewWrite v))

/-! ### References (R335-R337) -/

def State.refSrc (s : State) (r : Nat) : Nat := s.fld (Reg.refCfg r) 1 0
def State.tref (s : State) (r : Nat) : TimeRef := listAt TimeRef.reset s.tb.refs r
def State.updRef (s : State) (r : Nat) (f : TimeRef → TimeRef) : State := { s with tb := { s.tb with refs := listUpd s.tb.refs r f } }
def State.refSel (s : State) : Nat := s.fld Reg.tbStatus 28 28
def State.refPref (s : State) : Nat := s.fld Reg.tbCtrl 6 6

/-- A reference is usable: configured, not failed, and its last 8 measurements in tolerance (R337). -/
def State.refUsable (s : State) (r : Nat) : Bool :=
  decide (s.refSrc r ≠ 0) && !s.flag (Reg.refStat r) 30 && decide (8 ≤ (s.tref r).inRun)

/-- A reference is selected: the servo is neither in FREERUN nor in HOLDOVER. -/
def State.refSelected (s : State) (r : Nat) : Bool :=
  s.tb.servo != .freerun && s.tb.servo != .holdover && decide (s.refSel = r)

/-- A switch or an entry into HOLDOVER is counted and recorded (R337). -/
def State.refCount (s : State) (r : Nat) : State :=
  (s.bump Reg.tbStatus 23 16 1).sootEvent 0x0430 (BitVec.ofNat 64 r) none

/-- Reference r is selected by a switch: PULLIN with the integral at word w, when one is given. -/
def State.refSwitch (s : State) (r : Nat) (w : Option Int) : State :=
  let s1 := s.setFld Reg.tbStatus 28 28 r
  let i := match w with | some x => x | none => s1.tb.fInt
  { s1 with tb := { s1.tb with servo := .pullin, fInt := i, f := i, good := 0 } }.refCount r

/-- The selected reference is lost with recorded word w: a switch, HOLDOVER, or FREERUN when no word exists (R337, R347). -/
def State.refLose (s : State) (r : Nat) (w : Option Int) : State :=
  let o := 1 - r
  if s.refUsable o then s.refSwitch o w
  else
    match w with
    | some x => { s with tb := { s.tb with servo := .holdover, fInt := x, f := x, good := 0 } }.refCount r
    | none => { s with tb := { s.tb with servo := .freerun, fInt := 0, f := 0, good := 0 } }

/-- Without a selected reference, PREF if usable, or else the other one, is selected: by a switch from HOLDOVER, and into
ACQUIRE from FREERUN (R337) (DESIGN CHOICE, log entry 181). -/
def State.refPick (s : State) : State :=
  let pick := if s.refUsable s.refPref then some s.refPref else if s.refUsable (1 - s.refPref) then some (1 - s.refPref) else none
  match pick with
  | none => s
  | some r =>
    match s.tb.servo with
    | .holdover => s.refSwitch r none
    | .freerun =>
      let s1 := s.setFld Reg.tbStatus 28 28 r
      { s1 with tb := { s1.tb with servo := .acquire, good := 0 } }
    | _ => s

/-- An outright failure of reference r, with the word of its last measurement on record (R337) (DESIGN CHOICE, log entry 181). -/
def State.refFail (s : State) (r : Nat) : State :=
  let w := (s.tref r).prevWord
  let sel := s.refSelected r
  let s1 := ((s.setFlag (Reg.refStat r) 30 true).setFld (Reg.refStat r) 21 16 0).updRef r fun t => { t with inRun := 0, sampled := false }
  if sel then s1.refLose r w else s1

/-- REF_FAIL_TIMEOUT: a configured reference gave no sample or edge within its limit (R337). -/
def execRefFailTimeout (r : Fin 2) (s : State) : Host.Outcome State Fault Refusal :=
  .next (if s.refSrc r = 0 then s else s.refFail r)

/-- Tolerance in 0.01 ppm: TOL in 0.1 ppm, acting as 1-1,000. -/
def State.refTol (s : State) : Int := ((min 1000 (max 1 (s.fld Reg.refTol 9 0)) * 10 : Nat) : Int)

/-- A measurement is out of tolerance (R336). -/
def State.refOut (s : State) (r : Nat) (d : Int) : Bool :=
  let o := 1 - r
  let otherOk := decide (s.refSrc o ≠ 0) && !s.flag (Reg.refStat o) 30 && s.flag (Reg.refStat o) 28
  decide (s.refTol < (d.natAbs : Int)) && (!otherOk || decide (s.refTol < ((d - (s.tref o).lastDev).natAbs : Int)))

/-- REF_MEASUREMENT: the deviation d of reference r in 0.01 ppm is judged, REF_STAT and the run counts follow, and the
selection rules of R337 are applied. -/
def State.refMeasure (s : State) (r : Nat) (d : Int) : State :=
  if s.refSrc r = 0 then s
  else
    let was := s.refUsable r
    let t := s.tref r
    let clearFail := s.flag (Reg.refStat r) 30 && t.sampled
    let inRun0 := if clearFail then 0 else t.inRun
    let s0 := if clearFail then s.setFlag (Reg.refStat r) 30 false else s
    let out := s.refOut r d
    let run := s.fld (Reg.refStat r) 27 24
    let word := if out then (if run = 0 then t.prevWord else t.word) else none
    let s1 := s0.updRef r fun t => { t with
      inRun := if out then 0 else inRun0 + 1, lastDev := d, word := word, prevWord := some s.tb.f }
    let w0 := setBits (s1.reg (Reg.refStat r)) 31 31 1
    let w1 := setBits (setBits w0 28 28 (boolNat !out)) 27 24 (if out then min 15 (run + 1) else 0)
    let w2 := setBits (if out then w1 else setBits w1 29 29 0) 15 0 (wrapInt 16 (clampInt (-32768) 32767 d))
    let s2 := s1.setReg (Reg.refStat r) w2
    let ins := if s2.refUsable r then (if was then min 63 (s.fld (Reg.refStat r) 21 16 + 1) else 0) else 0
    let s3 := s2.setFld (Reg.refStat r) 21 16 ins
    let drift := s3.refSelected r && decide (8 ≤ run + 1) && out
    let s4 := if drift then (s3.setFlag (Reg.refStat r) 29 true).refLose r word else s3
    let s5 := if s4.tb.servo == .holdover || s4.tb.servo == .freerun then s4.refPick else s4
    let p := s5.refPref
    if s5.flag Reg.tbCtrl 7 && s5.tb.servo != .freerun && decide (s5.refSel ≠ p) && s5.refUsable p && decide (60 ≤ s5.fld (Reg.refStat p) 21 16) then
      s5.refSwitch p none
    else s5

def execRefMeasurement (r : Fin 2) (dev : Int) (s : State) : Host.Outcome State Fault Refusal := .next (s.refMeasure r dev)

/-! ### The servo (R338) -/

/-- log2 of the sample interval in s: LOG_INT with -8 acting as -7 and 5-7 as 4; 0 for a PPS reference. -/
def State.refLogInt (s : State) (r : Nat) : Int :=
  if s.refSrc r = 3 then 0 else min 4 (max (-7) (signedOf 4 (s.fld (Reg.refCfg r) 11 8)))

/-- theta / T in 2^-32 ppb; exact for every interval. -/
def State.servoRate (s : State) (r : Nat) (theta : Int) : Int := theta * 2 ^ (32 - s.refLogInt r).toNat

/-- Limits of R338. -/
def State.servoMax (s : State) : Int := ((min 500 (max 1 (s.fld Reg.tbServo 19 8)) * 1000 : Nat) : Int) * 2 ^ 32
def State.servoStepNs (s : State) : Nat := max 1 (s.fld Reg.tbServo2 31 16) * 1000
def State.servoLockNs (s : State) : Nat := max 1 (s.fld Reg.tbServo2 15 0)

/-- The servo acts on a sample theta of the selected reference r (R338). -/
def State.servoAct (s : State) (r : Nat) (theta : Int) : State :=
  let x := s.servoRate r theta
  let near := decide (theta.natAbs < s.servoLockNs)
  match s.tb.servo with
  | .freerun => s
  | .holdover => s
  | .pullin =>
    let g := if near then s.tb.good + 1 else 0
    { s with tb := { s.tb with
        f := s.tb.fInt - clampInt (-10000 * 2 ^ 32) (10000 * 2 ^ 32) x
        good := g
        servo := if g = 8 then .locked else .pullin } }
  | _ =>
    if s.flag Reg.tbCtrl 5 && decide (s.servoStepNs ≤ theta.natAbs) then
      let s1 := s.stepCounter (-theta)
      { s1 with tb := { s1.tb with f := s1.tb.fInt, servo := .acquire, good := 0 } }
    else
      let m := s.servoMax
      let i := clampInt (-m) m (s.tb.fInt - x / 2 ^ s.fld Reg.tbServo 7 4)
      let g := if near then s.tb.good + 1 else 0
      { s with tb := { s.tb with
          fInt := i
          f := clampInt (-m) m (i - x / 2 ^ s.fld Reg.tbServo 3 0)
          good := g
          servo := if 8 ≤ g then .locked else .acquire } }

/-- A sample theta of reference r from either source: TB_OFFSET holds it, and the servo acts when it is in charge and r is
selected (R335, R338). -/
def State.refSample (s : State) (r : Nat) (theta : Word) : State :=
  let s1 := (s.setReg (Reg.tbOffset r) theta).updRef r fun t => { t with sampled := true }
  if s1.servoOn && s1.refSelected r then s1.servoAct r (signedOf 32 theta.toNat) else s1

/-- OFFSET_SAMPLE: a write to TB_OFFSETr is a sample for a PTP reference and is ignored for any other (R335, R347). -/
def State.tbOffsetWrite (s : State) (r : Nat) (theta : Word) : State :=
  if s.refSrc r = 1 ∨ s.refSrc r = 2 then s.refSample r theta else s

def execOffsetSample (r : Fin 2) (theta : Word) (s : State) : Host.Outcome State Fault Refusal := .next (s.pfReach (Reg.tbOffset r) (s.tbOffsetWrite r theta))

/-- PPS_EDGE: for a PPS reference the offset is the latched time minus the nearest whole second (R335); half a second counts from the
second after (DESIGN CHOICE, log entry 181). -/
def execPpsEdge (r : Fin 2) (s : State) : Host.Outcome State Fault Refusal :=
  if s.refSrc r = 3 then
    let th : Int := if s.tbNs < 500000000 then s.tbNs else (s.tbNs : Int) - 1000000000
    .next (s.refSample r (BitVec.ofNat 32 (wrapInt 32 th)))
  else .next s

/-- A value written to a register whose fields are all RWL or RW: locked fields keep their values (R14, R15). -/
def State.rwlMerge (s : State) (off : Nat) (mask v : Word) (lockOff lockBit : Nat) : Word :=
  if s.flag lockOff lockBit then s.reg off else v &&& mask

/-- REF_CFG_WRITE: the write takes effect unless the block is locked; a write to the selected reference counts as its
outright failure (R337), and one to another keeps its counts (DESIGN CHOICE, log entry 181). -/
def State.refCfgWrite (s : State) (r : Nat) (v : Word) : State :=
  if s.flag Reg.tbCtrl 31 then
    (if (v &&& 0xF07) = s.reg (Reg.refCfg r) then s else s.lockViolation 0x04 (Reg.refCfg r))
  else
    let s1 := s.setReg (Reg.refCfg r) (v &&& 0xF07)
    if s.refSelected r then s1.refFail r else s1

def execRefCfgWrite (r : Fin 2) (v : Word) (s : State) : Host.Outcome State Fault Refusal := .next (s.pfReach (Reg.refCfg r) (s.refCfgWrite r v))

/-- A write to TB_CTRL, after its fields have taken their values: EN becoming 1 selects a reference, and MODE leaving slew
discards the remaining adjustment (R337, R347). -/
def State.tbCtrlAfter (s : State) (old : Word) : State :=
  let new := s.reg Reg.tbCtrl
  let s1 := if bitOf old 1 && !bitOf new 1 && decide (s.tb.slewRem ≠ 0) then
      { s with tb := { s.tb with slewRem := 0, servo := (if s.tb.servo == .freerun || s.tb.servo == .holdover then s.tb.servo else .acquire), good := 0 } }
    else s
  if !bitOf old 0 && bitOf new 0 then
    (if s1.refUsable s1.refPref && decide (s1.refSel ≠ s1.refPref) && s1.tb.servo != .freerun then s1.refSwitch s1.refPref none else s1.refPick)
  else s1

/-! ### Trigger and capture commands -/

/-- A write to TRIG_CFGk: RW fields are taken, LATE and MISSED follow their codes, and ARM = 1 arms the trigger, or sets LATE
for a target that is not in the future (R343, R347). -/
def State.trigCfgWrite (s : State) (k : Nat) (v : Word) : State :=
  let old := s.reg (Reg.trigCfg k)
  let late := bitOf old 30 && !bitOf v 30
  let w := setBits (setBits (v &&& 0xB0FFFFFF) 30 30 (boolNat late)) 27 24 (bitsOf old 27 24)
  let s1 := s.setReg (Reg.trigCfg k) w
  if bitOf v 31 = false then s1.updTrig k fun t => { t with next := none }
  else
    let t := s1.trigTarget k
    if tbAhead t s1.nowNs then s1.updTrig k fun g => { g with next := some t }
    else
      let s2 := s1.setFlag (Reg.trigCfg k) 30 true
      if bitOf v 29 then
        let n := (s1.nowNs % tbSpan + tbSpan - t) % tbSpan / s1.trigPeriod k + 1
        s2.updTrig k fun g => { g with next := some ((t + n * s1.trigPeriod k) % tbSpan) }
      else (s2.setFlag (Reg.trigCfg k) 31 false).updTrig k fun g => { g with next := none }

/-- TRIG_ARM: a write of v to TRIG_CFGk. -/
def execTrigArm (k : Fin 8) (v : Word) (s : State) : Host.Outcome State Fault Refusal := .next (s.pfReach (Reg.trigCfg k) (s.trigCfgWrite k v))

/-- TRIGGER_FIRE: the counter has reached the target of an armed trigger, whose pulse starts (R343). -/
def execTriggerFire (k : Fin 8) (s : State) : Host.Outcome State Fault Refusal :=
  match (s.trig k).next with
  | none => .next s
  | some t => .next (if tbAhead t s.nowNs then s else s.trigFire k t)

/-- The edge kind is chosen by CAP_CFG.EDGE: 0 and 3 rising, 1 falling, 2 both. -/
def capWants (w : Word) (falling : Bool) : Bool :=
  bitOf w 31 && (match bitsOf w 30 29 with | 1 => falling | 2 => true | _ => !falling)

/-- CAPTURE_EDGE: an enabled capture of the chosen edge latches the counter, or sets OVF when four entries are held (R344). -/
def execCaptureEdge (k : Fin 8) (falling : Bool) (s : State) : Host.Outcome State Fault Refusal :=
  if capWants (s.reg (Reg.capCfg k)) falling then
    if 4 ≤ (s.capList k).length then
      if s.flag (Reg.capCfg k) 28 then .next s
      else .next ((s.setFlag (Reg.capCfg k) 28 true).sootEvent 0x0432 (BitVec.ofNat 64 k) none)
    else .next { s with tb := { s.tb with caps := listUpd s.tb.caps k (· ++ [⟨falling, s.tb.sec % 2 ^ 32, s.tbNs⟩]) } }
  else .next s

/-- CAP_POP: the oldest entry is removed; without one nothing happens (R347). -/
def State.capPop (s : State) (k : Nat) : State := { s with tb := { s.tb with caps := listUpd s.tb.caps k (·.drop 1) } }

def execCapPop (k : Fin 8) (s : State) : Host.Outcome State Fault Refusal := .next (s.pfReach (Reg.capCfg k) (s.capPop k))

/-- CONTROL_CYCLE_INTERRUPT: the timebase interrupts the management complex (R345). -/
def execControlCycleInterrupt (s : State) : Host.Outcome State Fault Refusal :=
  if s.fabric.refclk then .next { s with tb := { s.tb with cycleIrq := true } } else .next s

end Sys2Proof.Machine
end

