-- ==== Sys2Proof/Machine/Reset.lean ====
section
/-!
DEFINITION. Resets of the whole device, SAFE state, the thermal trip, the watchdog, and the start of the device: option table, image
selection, recovery mode and READY (R365-R379, R384, R385).
-/

namespace Sys2Proof.Machine

/-! ### What a reset keeps (R368) -/

/-- The fields of a register that a warm reset keeps under R15: latched WO1 fields, and RWL fields while their LOCK bit is set. -/
def State.keptFields (s : State) (off : Nat) (w : Word) : Word :=
  match regKindOf off with
  | none => 0
  | some k =>
    let locked := match k.lock with | some (o, b) => s.flag o b | none => false
    k.fields.foldl (fun r f => match f.acc with
      | .wo1 => setBits r f.hi f.lo (bitsOf w f.hi f.lo)
      | .rwl => if locked then setBits r f.hi f.lo (bitsOf w f.hi f.lo) else r
      | _ => r) k.reset

/-- Registers that a warm reset keeps whole: GLOBAL_CTRL, ARRAY_RUNTIME_MAP, RST_CAUSE, RST_BOOT, PE_BAR4, GPIO_OUT, FLR_CAUSE, the epochs,
LN_FAULT, SM_FAULT and every Soot register. -/
def keptWhole (off : Nat) : Bool :=
  [Reg.globalCtrl, Reg.arrayRuntimeMap, Reg.rstCause, Reg.rstBoot, Reg.peBar4, Reg.gpioOut].contains off ||
  (decide (Reg.flrCause 0 ≤ off) && decide (off < Reg.flrCause 8)) || (decide (Reg.pdEpoch 0 ≤ off) && decide (off < Reg.pdEpoch 30)) ||
  (decide (0x100000 ≤ off) && decide (off < 0x200000) && off % 0x10000 == 0x20) ||
  (decide (0x200000 ≤ off) && decide (off < 0x2C0000) && off % 0x10000 == 0xC) ||
  (decide (0x50000 ≤ off) && decide (off < 0x60000))

/-- A register word after a warm reset. Quarantine bits, cage power and indicator, and what follows an input pin stay, and PW_CTRL
under its LOCK (R284); the endpoint keeps
its link unless the cause is PERST. -/
def State.warmWord (s : State) (perst : Bool) (off : Nat) (w : Word) : Word :=
  if keptWhole off || (off == Reg.pwCtrl && bitOf w 31) then w
  else if (0x100000 ≤ off ∧ off < 0x200000 ∨ 0x200000 ≤ off ∧ off < 0x2C0000) ∧ off % 0x10000 = 4 then w &&& 0x80000000
  else if off = Reg.peStatus ∨ off = Reg.peErr then (if perst then 0 else if off = Reg.peStatus then setBits w 7 0 0 else w)
  else if off = Reg.cgCtrl 0 ∨ off = Reg.cgCtrl 1 then 0x100 ||| (w &&& 0x13)
  else if off = Reg.cgStatus 0 ∨ off = Reg.cgStatus 1 then w &&& 0xE0
  else if off = Reg.gpioIn then w &&& 0xFFFF
  else s.keptFields off w

/-- The registers after a warm reset (DEDUCED, log entry 118). -/
def State.warmRegs (s : State) (perst : Bool) : List (Nat × Word) :=
  s.regs.filterMap fun e =>
    let w := s.warmWord perst e.1 e.2
    if w = resetWord e.1 then none else some (e.1, w)

/-- The timebase after a warm reset: counter, increment, committed SET and STEP and the trigger outputs stay; triggers are disarmed (R333). -/
def Timebase.warm (t : Timebase) : Timebase :=
  { Timebase.reset with sec := t.sec, sub := t.sub, incr := t.incr, pendingSet := t.pendingSet, pendingStep := t.pendingStep,
                        trigs := t.trigs.map fun x => ⟨x.level, none, 0⟩ }

/-- Ozmel's long-term records: boot count, slot states and what a start must know, the trouble log, written to flash at once (R363), and
the fan duty, which holds. -/
def Ozmel.warm (o : Ozmel) : Ozmel :=
  { Ozmel.reset with bootCount := o.bootCount, slotStates := o.slotStates, failedSlot := o.failedSlot, passedTrial := o.passedTrial,
                     skipFailed := o.skipFailed, bootWanted := o.bootWanted, fanDuty := o.fanDuty,
                     log := o.log.map fun e => { e with saved := true }, logSeq := o.logSeq }

/-- The device with every unit cleared but for what a warm reset keeps beside the registers. -/
def State.cleared (s : State) : State :=
  { State.reset with
    pending := s.pending, freeCtr := s.freeCtr, regs := s.regs, host := s.host, flash := s.flash, fuses := s.fuses
    fabric := { s.fabric with ratedHist := [], worstPs := 0, rateGap := [], ageGap := [] }
    tb := s.tb, nextId := s.nextId, pcie := s.pcie, soot := s.soot, ozmel := s.ozmel.warm, options := s.options
    outs := { s.outs with dramResetN := false }
    banks := s.banks.filterMap fun e => if e.2.quarantined then some (e.1, { Bank.reset with quarantined := true }) else none
    dram := { Dram.reset with plan := s.dram.plan }, failedTests := s.failedTests
    periph := { Periph.reset with cgReleased := s.periph.cgReleased, gpioExt := s.periph.gpioExt, jtag := s.periph.jtag } }

/-! ### SAFE state (R29, R369) -/

/-- A state change is recorded with RST_CAUSE as its ARG (R396). -/
def State.resetEvent (s : State) : State := s.sootEvent 0x0250 ((s.peek Reg.rstCause).setWidth 64) none

/-- Registers that SAFE state leaves as they are: Global, reset, power domain, timebase, Soot, mailbox, endpoint and peripheral blocks. -/
def safeKeeps (off : Nat) : Bool :=
  decide (off < 0x60000) || (decide (0x90000 ≤ off) && decide (off < 0xA0000)) || (decide (0x4C0000 ≤ off) && decide (off < 0x4D0000)) ||
  decide (0x500000 ≤ off)

/-- SAFE state is entered: the header is kept as it stands, every switched domain is off and the clocked units are in reset
(DEDUCED, log entry 116). -/
def State.enterSafe (s : State) : State :=
  if s.fabric.safe then s
  else
    let hdr := (bytesWords s.discHeader).zipIdx.foldl (fun t w => wordSet t w.2 w.1) []
    let c := s.cleared
    let regs := s.regs.filterMap fun e =>
      if Reg.pdState 0 ≤ e.1 ∧ e.1 < Reg.pdState 8 then none
      else if safeKeeps e.1 then some e
      else let w := s.warmWord false e.1 e.2; if w = resetWord e.1 then none else some (e.1, w)
    let s1 : State := { c with regs := regs, periph := s.periph, fabric := { c.fabric with safe := true, safeHeader := hdr } }
    (s1.setFlag Reg.rstCause 9 true).resetEvent

/-! ### The option table (R374, R375) -/

/-- A field of the option table in force. -/
def State.opt (s : State) (off n : Nat) : Nat := fieldAt s.options off n

/-- The fuse table is valid: MAGIC and CRC. -/
def fuseTableOk (t : List Byte) : Bool := decide (fieldAt t 0 2 = 0x424F) && decide (fieldAt t 252 4 = crc32c (t.take 252)) && decide (t.length = 256)

/-- The mirror's table, when it passes R376 with LEN = 256. -/
def State.mirror (s : State) : Option (List Byte) :=
  let body := s.readFlash 256 256
  if signedOk 0x4F50544D 256 true s.fuses.keyHash (s.readFlash 0 256) body then some body else none

/-- The table chosen, with OPT_SRC: the mirror when it is valid and the fuse table permits it or is not valid, else the fuse table. -/
def State.chooseOptions (s : State) : Nat × List Byte :=
  let f := s.fuses.options
  let ok := fuseTableOk f
  match s.mirror with
  | some m => if ok = false ∨ (fieldAt f 3 1).testBit 0 = true then (2, m) else (1, f)
  | none => if ok then (1, f) else (0, [])

/-! ### Slots (R357, R376, R377) -/

/-- Flash offset of an Ozmel slot, and the slot size. -/
def State.slotOff (s : State) (k : Nat) : Nat := s.opt (16 + 4 * k) 4
def State.slotSize (s : State) : Nat := s.opt 24 4

/-- Header of the image in a slot. -/
def State.slotHeader (s : State) (k : Nat) : List Byte := s.readFlash (s.slotOff k) 256
def State.slotSeq (s : State) (k : Nat) : Nat := fieldAt (s.slotHeader k) 4 4

/-- The image of a slot passes R376. -/
def State.slotOk (s : State) (k : Nat) : Bool :=
  let h := s.slotHeader k
  let len := fieldAt h 8 4
  decide (len + 0x2000 ≤ s.slotSize) &&
  signedOk 0x4F5A4D4C (s.slotSize - 0x2000) false s.fuses.keyHash h (s.readFlash (s.slotOff k + 256) len)

/-- State of a slot, and its replacement. -/
def State.slotState (s : State) (k : Nat) : SlotState := listAt .invalid s.ozmel.slotStates k
def State.setSlot (s : State) (k : Nat) (v : SlotState) : State :=
  { s with ozmel := { s.ozmel with slotStates := listUpd s.ozmel.slotStates k fun _ => v } }

/-- DATA bytes 16-27 of an image slot event (R364). -/
def State.slotData (s : State) (k : Nat) : List Byte := leBytes 4 k ++ leBytes 4 (s.slotSeq k) ++ leBytes 4 s.ozmel.buildSeq.toNat

/-- The start comes after a warm reset: RST_CAUSE holds a cause of one. -/
def State.warmStart (s : State) : Bool := decide (s.reg Reg.rstCause &&& 0x332 ≠ 0)

/-- A slot may be started: its image and state, and the two exceptions of R377; a slot that UPDATE_ACTIVATE asked for may be TRIAL. -/
def State.slotFit (s : State) (k : Nat) : Bool :=
  s.slotOk k &&
  (match s.slotState k with
   | .confirmed => true
   | .trial => !s.warmStart || s.ozmel.bootWanted == some k
   | _ => false) &&
  !(s.ozmel.skipFailed && s.ozmel.failedSlot == some k)

/-- The slot that the boot ROM takes: the one asked for, else the fit slot with the highest SEQ (DEDUCED, log entry 120). -/
def State.pickSlot (s : State) : Option Nat :=
  match s.ozmel.bootWanted with
  | some k => if s.slotFit k then some k else if s.slotFit (1 - k) then some (1 - k) else none
  | none =>
    match s.slotFit 0, s.slotFit 1 with
    | true, true => some (if s.slotSeq 0 < s.slotSeq 1 then 1 else 0)
    | true, false => some 0
    | false, true => some 1
    | _, _ => none

/-- A TRIAL slot that the start passes over after a warm reset. -/
def State.passedOver (s : State) (k : Nat) : Option Nat :=
  if s.warmStart && s.slotState (1 - k) == .trial && s.ozmel.bootWanted.isNone then some (1 - k) else s.ozmel.passedTrial

/-! ### Starts (R372, R373, R378, R379) -/

/-- Recovery mode: the recovery monitor runs. -/
def State.recover (s : State) : State :=
  let w := setBits (setBits (s.reg Reg.rstBoot) 31 31 1) 9 8 3
  { s.setReg Reg.rstBoot w with ozmel := { s.ozmel with running := true, ready := false, skipFailed := false, bootWanted := none } }

/-- An image is started. -/
def State.startImage (s : State) (k : Nat) : State :=
  let h := s.slotHeader k
  let o := s.ozmel
  { s.setFld Reg.rstBoot 9 8 k with ozmel := { o with
      running := true, ready := false, bootCount := o.bootCount + 1, version := BitVec.ofNat 32 (fieldAt h 12 4),
      buildSeq := BitVec.ofNat 32 (fieldAt h 4 4), passedTrial := s.passedOver k, skipFailed := false, bootWanted := none } }

/-- Option table and mode of a start. -/
def State.startOptions (s : State) : State :=
  let x := s.chooseOptions
  let w := setBits (setBits (s.reg Reg.rstBoot) 29 28 x.1) 30 30 (boolNat (x.1 == 0))
  { s.setReg Reg.rstBoot w with options := x.2, fabric := { s.fabric with resetHeld := false, safe := false, safeHeader := [] } }

/-- A start failed: an event, FAILED, TIMEOUT, and a warm reset with cause WDOG (R378). The counts are those before the reset. -/
def State.failCount (s : State) : State :=
  let f := min 3 (s.fld Reg.rstBoot 1 0 + 1)
  (((s.resetEvent.setFld Reg.rstBoot 1 0 f).setFlag Reg.rstBoot 27 true).setFlag Reg.rstCause 4 true).resetEvent

/-- The device starts: recovery mode, an image, or, with no slot that qualifies, failed starts until recovery mode is reached. -/
def State.start : Nat → State → State
  | 0, s => s.recover
  | n + 1, s =>
    let s1 := s.startOptions
    if s1.flag Reg.rstBoot 30 ∨ s1.flag Reg.rstBoot 31 ∨ s1.fld Reg.rstBoot 1 0 = 3 then s1.recover
    else
      match s1.pickSlot with
      | some k => s1.startImage k
      | none => State.start n { s1.failCount with ozmel := { s1.failCount.ozmel with skipFailed := false, bootWanted := none } }

/-- The asserted reset is released once nothing holds it: PERST_N, the thermal trip, or the cause of SAFE state (R369, R370, R373)
(DESIGN CHOICE, log entry 117). -/
def State.releaseReset (s : State) : State :=
  if s.fabric.resetHeld = false ∨ s.pcie.perst = true ∨ s.outs.thermtrip = true ∨ s.fabric.vddLow = true ∨ s.fabric.refclk = false then s
  else s.start 4

/-! ### Warm reset (R365, R368, R373) -/

/-- RST_CAUSE bit of a cause. -/
def warmBit : WarmCause → Nat
  | .perst => 1
  | .wdog => 4
  | .swGlobal => 5
  | .thermal => 8
  | .safe => 9

/-- A warm reset is asserted: the functions follow the hot reset column, and everything that R368 does not keep is cleared. Pools that stay
enabled have their entries written again (R284). -/
def State.assertWarm (s : State) (cause : WarmCause) : State :=
  let perst := cause == .perst
  let c := s.cleared
  let s1 : State := { c with
    regs := s.warmRegs perst
    tb := s.tb.warm
    pcie := { Pcie.reset with perst := s.pcie.perst, aer := if perst then [] else s.pcie.aer }
    fabric := { c.fabric with resetHeld := true } }
  let s2 : State := { s1 with poolInit := (List.range 8).filter fun k => s1.poolEn k }
  (s2.setFlag Reg.rstCause (warmBit cause) true).resetEvent

/-- A warm reset: asserted, and released at once when its cause has ended. -/
def State.warmReset (s : State) (cause : WarmCause) : State := (s.assertWarm cause).releaseReset

/-- WARM_RESET. -/
def execWarmReset (cause : WarmCause) (s : State) : Host.Outcome State Fault Refusal := .next (s.warmReset cause)

/-- PERST: PERST_N is asserted; the warm reset holds until it is released (R324, R326). -/
def State.perstLow (s : State) : State :=
  ({ s with pcie := { s.pcie with perst := true } } : State).warmReset .perst

def execPerst (s : State) : Host.Outcome State Fault Refusal := .next s.perstLow

/-- PERST_N_RELEASE: PERST_N is high; the reset is released when nothing else holds it. -/
def execPerstNRelease (s : State) : Host.Outcome State Fault Refusal :=
  .next (if s.pcie.perst then ({ s with pcie := { s.pcie with perst := false } } : State).releaseReset else s)

/-- RST_GLOBAL written: GO with the key is a warm reset; a wrong key is ignored with an event (R386, R388). -/
def State.rstGlobalWrite (s : State) (v : Word) : State :=
  if bitsOf v 31 16 ≠ 0x4B44 then s.ignoredWrite 0x02 Reg.rstGlobal
  else if bitOf v 0 then s.warmReset .swGlobal
  else s

def execRstGlobal (v : Word) (s : State) : Host.Outcome State Fault Refusal :=
  .next (s.pfReach Reg.rstGlobal (s.rstGlobalWrite v))

/-! ### Power-on reset (R365, R368, R372, R385) -/

/-- POWER_ON_RESET: everything but fuses, flash, host memory and input pins returns to its reset state, with the trouble-log entries that
flash holds; fuses are sensed, and the start begins. -/
def State.powerOn (s : State) : State :=
  let s1 : State := { State.reset with
    pending := s.pending, freeCtr := s.freeCtr, host := s.host, flash := s.flash, fuses := s.fuses
    fabric := { Fabric.reset with vddMv := s.fabric.vddMv, tj := s.fabric.tj, refclk := s.fabric.refclk, vddLow := s.fabric.vddLow,
                                  flashRated := s.fabric.flashRated, resetHeld := true }
    nextId := s.nextId
    pcie := { Pcie.reset with perst := s.pcie.perst }
    ozmel := { Ozmel.reset with bootCount := s.ozmel.bootCount, slotStates := s.ozmel.slotStates, logSeq := s.ozmel.logSeq,
                                log := s.ozmel.log.filter fun e => e.saved }
    outs := { s.outs with thermtrip := false, dramResetN := false }
    dram := { Dram.reset with plan := s.dram.plan }
    periph := { Periph.reset with gpioExt := s.periph.gpioExt } }
  let s2 := s1.setReg Reg.gpioIn (s.periph.gpioExt &&& 0xFFFF)
  if s2.fabric.vddLow ∨ s2.fabric.refclk = false then s2 else s2.start 4

def execPowerOnReset (s : State) : Host.Outcome State Fault Refusal := .next s.powerOn

/-! ### Thermal trip, watchdog, start timer (R370, R371, R378) -/

/-- TRIP_TJ of the option table: 105-125, default 115. -/
def State.tripTj (s : State) : Nat := if 105 ≤ s.opt 126 1 ∧ s.opt 126 1 ≤ 125 then s.opt 126 1 else 115

/-- THERMAL_TRIP: at TRIP_TJ every domain goes off, THERMTRIP_N is low, the fan runs at 100 %, and a warm reset is held. -/
def State.trip (s : State) (tj : Int) : State :=
  let s0 : State := { s with fabric := { s.fabric with tj := tj } }
  if tj < (s.tripTj : Int) then s0
  else
    let s1 : State := { s0 with outs := { s0.outs with thermtrip := true }, ozmel := { s0.ozmel with fanDuty := 100000000 } }
    s1.resetEvent.warmReset .thermal

def execThermalTrip (tj : Int) (s : State) : Host.Outcome State Fault Refusal := .next (s.trip tj)

/-- THERMAL_TRIP_RELEASE: below TRIP_TJ - 20 °C THERMTRIP_N and the reset are released. -/
def State.tripRelease (s : State) (tj : Int) : State :=
  let s0 : State := { s with fabric := { s.fabric with tj := tj } }
  if s.outs.thermtrip && decide (tj < (s.tripTj : Int) - 20) then ({ s0 with outs := { s0.outs with thermtrip := false } } : State).releaseReset else s0

def execThermalTripRelease (tj : Int) (s : State) : Host.Outcome State Fault Refusal := .next (s.tripRelease tj)

/-- WATCHDOG_EXPIRY: the armed watchdog was not restarted for WDOG_MS. -/
def execWatchdogExpiry (s : State) : Host.Outcome State Fault Refusal :=
  .next (if s.ozmel.wdogArmed then s.resetEvent.warmReset .wdog else s)

/-- START_TIMEOUT: a start has not reached READY within 2 s of its release: it failed, and its slot is passed over by the next. -/
def State.startLate (s : State) : State :=
  if s.discState ≠ 0 ∨ s.fabric.resetHeld = true ∨ s.ozmel.running = false then s
  else
    let k := s.fld Reg.rstBoot 9 8
    let f := min 3 (s.fld Reg.rstBoot 1 0 + 1)
    let s1 : State := { s with ozmel := { s.ozmel with failedSlot := some k, skipFailed := true } }
    ((s1.resetEvent.setFld Reg.rstBoot 1 0 f).setFlag Reg.rstBoot 27 true).warmReset .wdog

def execStartTimeout (s : State) : Host.Outcome State Fault Refusal := .next s.startLate

/-! ### READY (R299, R300, R357, R372, R375, R377) -/

/-- The trouble-log entry of an option value that differs from a locked field: register, kept word and word of the table (R15)
(DESIGN CHOICE, log entry 149). -/
def State.optionDiffers (s : State) (off : Nat) (kept wanted : Word) : State :=
  s.troubleLog (srcOf off * 256 + 0x01) 1 (leBytes 4 off ++ leBytes 4 kept.toNat ++ leBytes 4 wanted.toNat)

/-- Fields of a register that Ozmel writes from the option table, as (high bit, low bit, value); locked RWL fields keep their values, and
a different value for one is a lock violation that the trouble log records too (R15). -/
def State.ozWrite (s : State) (off : Nat) (fs : List (Nat × Nat × Nat)) : State :=
  match regKindOf off with
  | none => s
  | some k =>
    let w := s.reg off
    let v := fs.foldl (fun v f => setBits v f.1 f.2.1 f.2.2) w
    let l := s.lockedKind k
    let s1 := s.setReg off (k.fields.foldl (fun r f => if l && f.acc == .rwl then setBits r f.hi f.lo (bitsOf w f.hi f.lo) else r) v)
    if k.violates l w v then (s1.lockViolation (srcOf off) off).optionDiffers off w v else s1

/-- A constant of the option table within its range, or its default; 0 selects the default, and anything else outside the range is
recorded with the byte offset as ARG (R375, R396) (DEDUCED, log entry 121). -/
def State.optIn (s : State) (off n lo hi dflt : Nat) (quiet : Bool) : State × Nat :=
  let v := s.opt off n
  if v = 0 ∧ quiet = true then (s, dflt)
  else if lo ≤ v ∧ v ≤ hi then (s, v)
  else (s.sootEvent 0x0260 (BitVec.ofNat 64 off) none, dflt)

/-- The loop constants of the option table (R358). -/
def State.loadConsts (s : State) : State :=
  let a := s.optIn 112 2 100 300 300 true
  let b := a.1.optIn 114 1 0 30 10 true
  let c := b.1.optIn 115 1 60 95 85 true
  let d := c.1.optIn 116 1 50 95 80 true
  let e := d.1.optIn 117 1 (d.2 + 5) 100 95 true
  let f := e.1.optIn 118 2 20 120 60 true
  let g := f.1.optIn 120 1 1 20 4 true
  let h := g.1.optIn 121 1 0 100 20 true
  let i := h.1.optIn 122 1 1 100 5 true
  let j := i.1.optIn 123 1 1 100 2 true
  let k := j.1.optIn 124 1 0 100 30 true
  let l := k.1.optIn 125 1 0 10 2 true
  let m := (l.1.optIn 126 1 105 125 115 false).1.optIn 128 2 10 1000 100 false
  { m.1 with ozmel := { m.1.ozmel with consts := ⟨a.2, b.2, c.2, d.2, e.2, f.2, g.2, h.2, i.2, j.2, k.2, l.2⟩ } }

/-- A delay or margin word with every field free: what a table of unstated layout or a characterisation gives (R299, R300)
(DESIGN CHOICE, log entry 122). -/
def State.freeWord (s : State) (off : Nat) : State :=
  match regKindOf off with
  | none => s
  | some k =>
    let v := s.drawFree
    v.2.setReg off (k.fields.foldl (fun w f => setBits w f.hi f.lo (bitsOf (v.1.setWidth 32) f.hi f.lo)) 0)

/-- Offsets of every margin register. -/
def marginOffsets : List Nat :=
  ((List.range 8).map fun n => ((List.range 4).map fun c => [Reg.mcMargin n c 0, Reg.mcMargin n c 1]).flatten).flatten

/-- The delay plan: the moved plan of flash, else the board table, else a boot characterisation, which is recorded and whose plan goes to
flash. -/
def State.loadPlan (s : State) : State :=
  if s.dram.plan ≠ [] then s.dram.plan.foldl (fun s e => s.setReg e.1 e.2) s
  else if s.opt 12 4 ≠ 0 then delayOffsets.foldl (fun s o => s.freeWord o) s
  else
    let s1 := ((delayOffsets ++ marginOffsets).foldl (fun s o => s.freeWord o) s).sootEvent 0x4060 0 none
    { s1 with dram := { s1.dram with plan := delayOffsets.map fun o => (o, s1.reg o) } }

/-- DRAM is configured, the plan loaded, every controller powered and enabled; its contents are undefined (R299, R372). -/
def State.bootDram (s : State) : State :=
  let v := s.opt 8 1
  let cfg := [(1, 0, natBits v 1 0), (4, 2, natBits v 4 2), (8, 8, natBits v 5 5), (23, 12, s.opt 10 2 % 4096)]
  let s1 := (s.ozWrite Reg.dramCfg cfg).dramRefreshStatus.loadPlan
  let s2 := (List.range 8).foldl (fun s n => (s.powerUp (mcDom n)).mcCtrlWrite n (s.reg (Reg.mcCtrl n) ||| 1)) s1
  ({ s2 with outs := { s2.outs with dramResetN := true } } : State).undefRange 0 s2.usableTop

/-- The pool registers of the option table, and the pools it enables: none while PW_CTRL.LOCK keeps them (R284). -/
def State.bootPools (s : State) : State :=
  let s1 := (List.range 8).foldl (fun s k =>
    (s.ozWrite (Reg.pwPoolBase k) [(26, 0, s.opt (32 + 8 * k) 4)]).ozWrite (Reg.pwPoolCount k) [(23, 0, s.opt (36 + 8 * k) 4)])
    (s.ozWrite Reg.pwState [(31, 0, s.opt 28 4)])
  if s.flag Reg.pwCtrl 31 then s1
  else (List.range 8).foldl (fun s k => if s.opt (36 + 8 * k) 4 = 0 then s else s.poolEnable k) s1

/-- REF_CFGr of the option table. -/
def State.bootRef (s : State) (r : Nat) : State :=
  let v := s.opt (104 + 2 * r) 2
  if s.flag Reg.tbCtrl 31 then s.ozWrite (Reg.refCfg r) [(15, 0, v &&& 0xF07)] else s.refCfgWrite r (BitVec.ofNat 32 v)

/-- The registers of the fabric, timebase and Ethernet blocks that the option table sets (R375). -/
def State.bootRegs (s : State) : State :=
  let port (p : Nat) : List (Nat × Nat × Nat) :=
    let v := s.opt (130 + p) 1
    [(0, 0, natBits v 0 0), (9, 8, natBits v 2 1), (19, 16, natBits v 7 4)]
  let w : List (Nat × List (Nat × Nat × Nat)) :=
    [(Reg.fabCtrl, [(2, 2, natBits (s.opt 3 1) 2 2)]), (Reg.tbTsadj 0, [(31, 0, s.opt 96 4)]), (Reg.tbTsadj 1, [(31, 0, s.opt 100 4)]),
     (Reg.refTol, [(9, 0, s.opt 108 2)]), (Reg.tbCtrl, [(6, 6, natBits (s.opt 110 1) 0 0), (7, 7, natBits (s.opt 110 1) 1 1)]),
     (Reg.ethPort 0, port 0), (Reg.ethPort 1, port 1)]
  ((w.foldl (fun s x => s.ozWrite x.1 x.2) s).bootRef 0).bootRef 1

/-- The enable bits that Ozmel sets on reaching READY. -/
def State.bootEnables (s : State) : State :=
  let offs := ((List.range 16).map fun n => (Reg.lnCtrl n, 0)) ++ ((List.range 12).map fun n => (Reg.smCtrl n, 0)) ++
    ((List.range 4).map fun n => (Reg.shCtrl n, 0)) ++ [(Reg.seCtrl, 0), (Reg.seCtrl, 1), (Reg.ingCtrl, 0), (Reg.qmCtrl, 0)]
  let s1 := offs.foldl (fun s x => s.setFlag x.1 x.2 true) s
  (s1.setFlag Reg.tbCtrl 0 true).tbCtrlAfter (s1.reg Reg.tbCtrl)

/-- Slots that a start left behind are marked REJECTED, with their entries (R357, R364, R377). -/
def State.bootSlots (s : State) : State :=
  let k := s.fld Reg.rstBoot 9 8
  let s1 := match s.ozmel.failedSlot with
    | some f => if f = k then s else (s.setSlot f .rejected).troubleLog 0x0971 2 (s.slotData f)
    | none => s
  let s2 := match s1.ozmel.passedTrial with
    | some f => if f = k then s1 else (s1.setSlot f .rejected).troubleLog 0x0970 1 (s1.slotData f)
    | none => s1
  { s2 with ozmel := { s2.ozmel with failedSlot := none, passedTrial := none } }

/-- OZMEL_READY: registers from the option table, DRAM, pools, domains of the policy, enable bits; STATE is READY and the watchdog armed. -/
def State.reachReady (s : State) : State :=
  if s.discState ≠ 0 ∨ s.ozmel.running = false ∨ s.fabric.resetHeld = true then s
  else
    let s1 := (s.loadConsts.bootRegs.bootDram.bootPools.setFld Reg.fabRated 15 0 s.fabric.flashRated).setFld Reg.rstBoot 1 0 0
    let s2 := ({ s1 with ozmel := { s1.ozmel with ready := true, wdogArmed := true } } : State).bootSlots
    ((List.range 40).foldl (fun s d => s.domainPowerUp (80 + d)) s2).bootEnables

def execOzmelReady (s : State) : Host.Outcome State Fault Refusal := .next s.reachReady

end Sys2Proof.Machine
end

