-- ==== Sys2Proof/Machine/Fabric.lean ====
section
/-!
DEFINITION. The self-timed fabric: rate rings, ageing rings, margin re-planning, and the entries into SAFE state and the exit from it
(R27-R37, R359, R369).
-/

namespace Sys2Proof.Machine

/-! ### Windows of the rings (R30, R31) -/

/-- The domain and the register of a unit's rate ring. -/
def rateRing : RateUnit → Nat × Nat
  | .lantern n => (lnDom n.val, Reg.fabRateLn n.val)
  | .smelter n => (smDom n.val, Reg.fabRateSm n.val)

/-- The monitors run and a ring's domain is ON. -/
def State.ringRuns (s : State) (d : Option Nat) : Bool :=
  s.flag Reg.fabCtrl 0 && s.fabric.refclk && (match d with | some d => s.domOn d | none => true)

/-- A ring's mark that its window is cut: set while the ring does not run, and cleared by the first whole window in which it ran. -/
def gapAfter (gap : List Nat) (k : Nat) (runs : Bool) : List Nat := if runs then gap.filter (· != k) else insertSorted k gap

/-- FAB_RATE_WINDOW: the window's cycles and the share of them in which the unit performed a step; with no cycle there is no share, and the
register reads 0 (R30) (DESIGN CHOICE, log entry 153). -/
def State.rateWindow (s : State) (u : RateUnit) (cycles steps : Nat) : State :=
  let d := (rateRing u).1
  let off := (rateRing u).2
  let runs := s.ringRuns (some d)
  let s1 : State := { s with fabric := { s.fabric with rateGap := gapAfter s.fabric.rateGap d runs } }
  if runs && !s.fabric.rateGap.contains d && decide (0 < cycles) then
    let util := steps * 1000 / cycles + (if steps * 1000 % cycles ≠ 0 ∧ Config.roundUpUtil steps cycles = true then 1 else 0)
    s1.setReg off (BitVec.ofNat 32 (2 ^ 31 + util * 2 ^ 16 + cycles))
  else s1.setReg off 0

def execFabRateWindow (u : RateUnit) (cycles steps : Nat) (s : State) : Host.Outcome State Fault Refusal :=
  if 0xFFFF < cycles ∨ cycles < steps then .fault .illFormed else .next (s.rateWindow u cycles steps)

/-- AGE_RING_WINDOW: a ring's mean period over the last 1 ms. -/
def State.ageWindow (s : State) (n : Nat) (period : BitVec 16) : State :=
  let runs := s.ringRuns (ageDom n)
  let s1 : State := { s with fabric := { s.fabric with ageGap := gapAfter s.fabric.ageGap n runs } }
  s1.setReg (Reg.ageRing n) (if runs && !s.fabric.ageGap.contains n then BitVec.ofNat 32 (2 ^ 31 + period.toNat) else 0)

def execAgeRingWindow (n : Fin 48) (period : BitVec 16) (s : State) : Host.Outcome State Fault Refusal := .next (s.ageWindow n.val period)

/-- FAB_CTRL written: while MON_EN is 0 nothing is valid, and windows that its return cuts are not complete. -/
def State.fabCtrlAfter (s : State) : State :=
  if s.flag Reg.fabCtrl 0 then s
  else
    let offs := ((List.range 16).map Reg.fabRateLn) ++ ((List.range 12).map Reg.fabRateSm) ++ (List.range 48).map Reg.ageRing
    let s1 := offs.foldl (fun s o => s.setReg o 0) s
    { s1 with fabric := { s1.fabric with rateGap := ((List.range 16).map lnDom) ++ (List.range 12).map smDom, ageGap := List.range 48 } }

/-! ### The plan (R27, R28, R32, R33, R359) -/

/-- The rate of R27 at a supply in mV, in 10^5 steps/s: the rows at 50 mV and the lines between them (DEDUCED, log entry 112). -/
def railRate (mv : Nat) : Nat :=
  if mv < 650 then 10500 + 50 * (mv - 600)
  else if mv < 700 then 13000 + 48 * (mv - 650)
  else if mv < 750 then 15400 + 48 * (mv - 700)
  else if mv < 800 then 17800 + 44 * (mv - 750)
  else if mv < 850 then 20000 + 38 * (mv - 800)
  else 21900 + 32 * (mv - 850)

/-- The factor of R28 in 10^-4. -/
def tFactor (tj : Int) : Int := if 70 < tj then 10000 - 12 * (tj - 70) else 10000

/-- Boost is in use: BOOST_EN, MARGIN_AUTO and MON_EN, and the conditions of R360. -/
def State.boostInUse (s : State) : Bool :=
  (s.fld Reg.fabCtrl 2 0 == 7) && s.ozmel.boosted && decide (s.fabric.tj ≤ (s.ozmel.consts.boostTj : Int))

/-- The fabric target rate in M steps/s (R359). -/
def State.targetRate (s : State) : Nat := min (if s.boostInUse then 2350 else 2000) (min (s.ozmel.powerRate / 1000) (s.ozmel.thermalRate / 1000))

/-- The cap of VDD_FAB in mV. -/
def State.capMv (s : State) : Nat := if s.boostInUse then 900 else 800

/-- The lowest supply in steps of 5 mV that delivers the target with a worst period, within the cap. -/
def State.floorMv (s : State) (worst : Nat) : Nat :=
  let ok (v : Nat) : Bool :=
    decide ((s.targetRate : Int) * 10 * worst * 10000 ≤ (railRate v : Int) * 500 * tFactor s.fabric.tj)
  match ((List.range 61).map fun i => 600 + 5 * i).find? ok with
  | some v => min v s.capMv
  | none => s.capMv

/-- An ageing ring whose period is more than 25 % above its BASE (DEDUCED, log entry 110). -/
def State.ringFaulty (s : State) (n : Nat) : Bool :=
  decide (5 * bitsOf (s.peek (Reg.ageBase n)) 15 0 < 4 * bitsOf (s.ageWord n) 15 0)

/-- The rings of a re-plan with their normalised periods: valid and not faulty. -/
def State.normRings (s : State) : List (Nat × Nat) :=
  ((List.range 48).filter fun n => bitOf (s.ageWord n) 31 && !s.ringFaulty n).map fun n =>
    (n, Config.normalisePeriod (bitsOf (s.ageWord n) 15 0) (bitsOf (s.peek (Reg.ageBase n)) 31 16) s.fabric.vddMv s.fabric.tj)

/-- The slowest ring, the lowest index among equals. -/
def slowest : List (Nat × Nat) → Option (Nat × Nat)
  | [] => none
  | x :: t =>
    match slowest t with
    | none => some x
    | some y => some (if x.2 < y.2 then y else x)

/-- The published rate falls to the highest of the last 360 computed ones; a decrease of 0.5 % or a rate below 1,900 is recorded, both of
them by one event (DESIGN CHOICE, log entry 151). -/
def State.publish (s : State) (ring rated : Nat) : State :=
  let h := (rated :: s.fabric.ratedHist).take 360
  let s1 : State := { s with fabric := { s.fabric with ratedHist := h } }
  let cur := s.fld Reg.fabRated 15 0
  let best := h.foldl max 0
  if h.length = 360 ∧ (cur = 0 ∨ best < cur) then
    let s2 := s1.setFld Reg.fabRated 15 0 best
    let s3 : State := { s2 with fabric := { s2.fabric with flashRated := if s2.fabric.flashRated = 0 then best else min best s2.fabric.flashRated } }
    if (cur ≠ 0 ∧ cur * 5 ≤ (cur - best) * 1000) ∨ best < 1900 then s3.sootEvent 0x0A40 (BitVec.ofNat 64 ring) none else s3
  else s1

/-- The floor in use with a worst period, shown in FAB_RATED.VFLOOR (R33, R359); while MARGIN_AUTO is 0 no floor is in use, and VFLOOR keeps
its value (DESIGN CHOICE, log entry 154). -/
def State.setFloor (s : State) (worst : Nat) : State := if s.flag Reg.fabCtrl 1 then s.setFld Reg.fabRated 31 16 (s.floorMv worst) else s

/-- MARGIN_REPLAN: faulty rings are recorded at every re-plan; the slowest of the others gives DEGRADE, the rated rate and the floor. A re-plan
with no valid ring, without MON_EN or during a handover leaves the last plan and is none of the 360 in a row of R32
(DESIGN CHOICE, log entries 111, 150, 152; PRESUMED, log entry 113). -/
def State.replan (s : State) : State :=
  if s.ozmel.ready = false ∨ s.ozmel.handover.isSome = true ∨ s.flag Reg.fabCtrl 0 = false then s
  else
    let bad := (List.range 48).filter fun n => bitOf (s.ageWord n) 31 && s.ringFaulty n
    let s1 := bad.foldl (fun s n => s.sootEvent 0x0A40 (BitVec.ofNat 64 n) none) s
    match slowest s.normRings with
    | none => s1
    | some (n, w) =>
      let base := bitsOf (s.peek (Reg.ageBase n)) 15 0
      let v := s1.drawFree
      let x := if w < base ∨ base = 0 then (v.1.toNat % 65536, v.2) else (min 65535 ((w - base) * 10000 / base), s1)
      let s2 := x.2.setReg Reg.fabAge (BitVec.ofNat 32 (n * 2 ^ 16 + x.1))
      let s3 : State := { s2 with fabric := { s2.fabric with worstPs := w } }
      (s3.setFloor w).publish n (min 65535 (1000000 / w))

def execMarginReplan (s : State) : Host.Outcome State Fault Refusal := .next s.replan

/-! ### SAFE state (R29, R37, R333, R369) -/

/-- VDD_FAB_UNDERVOLTAGE: below 560 mV the device enters SAFE state; a supply back above it ends the cause (DEDUCED, log entry 114). -/
def State.vddLevel (s : State) (mv : Nat) : State :=
  let s1 : State := { s with fabric := { s.fabric with vddMv := mv, vddLow := decide (mv < 560) } }
  if mv < 560 then s1.enterSafe else s1.releaseReset

def execVddFabUndervoltage (mv : Nat) (s : State) : Host.Outcome State Fault Refusal := .next (s.vddLevel mv)

/-- SYS_REFCLK_STOP: every clocked domain stops, so the link is down and the functions will stand in their reset state; SAFE state,
and an event in it too (R37) (DEDUCED, log entry 115). -/
def State.clockStop (s : State) : State :=
  if s.fabric.refclk = false then s
  else
    let s1 := s.linkDown.hotColumn
    let s2 : State := { s1 with fabric := { s1.fabric with refclk := false } }
    if s2.fabric.safe then s2.resetEvent else s2.enterSafe

def execSysRefclkStop (s : State) : Host.Outcome State Fault Refusal := .next s.clockStop

/-- SYS_REFCLK_RETURN: the counter resumes from its held value; a warm reset that waited for the clock is released. -/
def execSysRefclkReturn (s : State) : Host.Outcome State Fault Refusal :=
  .next ({ s with fabric := { s.fabric with refclk := true } } : State).releaseReset

/-- SAFE_AUTO_EXIT: with SAFE_AUTO = 1 and the cause absent for 100 ms, a warm reset with cause SAFE. -/
def execSafeAutoExit (s : State) : Host.Outcome State Fault Refusal :=
  .next (if s.fabric.safe && (s.opt 3 1).testBit 1 && s.fabric.refclk && !s.fabric.vddLow then s.warmReset .safe else s)

end Sys2Proof.Machine
end

