-- ==== Sys2Proof/Machine/Firmware.lean ====
section
/-!
DEFINITION. Ozmel: mailboxes and their messages, live update and handover, the supply, power, thermal and fan loops, the trouble log, and
the frames of the exception queue (R173, R348-R364).
-/

namespace Sys2Proof.Machine

/-! ### The mailbox exchange (R349-R352) -/

/-- Ozmel, or the recovery monitor, serves the mailboxes: not in SAFE state, under a held reset or during a handover (R356). -/
def State.mbServed (s : State) : Bool :=
  s.ozmel.running && s.ozmel.handover.isNone && !s.fabric.safe && !s.fabric.resetHeld

/-- The two control registers of a function's mailbox. -/
def mbH2d (f : Nat) : Nat := mbKey f 0x7F0
def mbD2h (f : Nat) : Nat := mbKey f 0xFF0

/-- A write of POST = 1: BUSY, or OVERRUN while BUSY stands. -/
def State.post (s : State) (f : Nat) : State :=
  if s.flag (mbH2d f) 1 then s.setFlag (mbH2d f) 2 true else s.setFlag (mbH2d f) 1 true

/-- MB_POST. -/
def execMbPost (f : FnIx) (s : State) : Host.Outcome State Fault Refusal := .next (if s.fnAnswers f.val && s.blockAnswers Reg.mbH2dCtl then s.post f.val else s)

/-- MB_RELEASE: 1 written to VALID. -/
def execMbRelease (f : FnIx) (s : State) : Host.Outcome State Fault Refusal :=
  .next (if s.fnAnswers f.val && s.blockAnswers Reg.mbH2dCtl then s.setFlag (mbD2h f.val) 31 false else s)

/-- Payload bytes of the messages of the catalogue; UPDATE_DATA adds its data. None outside the catalogue (R353). -/
def mbNeed (r : List Byte) : Option Nat :=
  match fieldAt r 4 2 with
  | 0x0001 => some 0
  | 0x0002 => some 6
  | 0x0003 => some 1
  | 0x0004 => some 40
  | 0x0005 => some 3
  | 0x0006 => some 2
  | 0x0010 => some 64
  | 0x0011 => some 48
  | 0x0012 => some 1
  | 0x0020 => some 4
  | 0x0030 => some 4
  | 0x0031 => some (8 + fieldAt r 20 4)
  | 0x0032 => some 0
  | 0x0033 => some 1
  | 0x0040 => some 5
  | 0x0050 => some 4
  | 0x0051 => some 10
  | 0x0052 => some 0
  | _ => none

/-- Messages of the PF only, settings messages, and those that recovery mode serves (R353, R362). -/
def mbPfOnly : List Nat := [0x10, 0x12, 0x20, 0x30, 0x31, 0x32, 0x33, 0x40, 0x50, 0x51]
def mbSettings : List Nat := [0x10, 0x20, 0x30, 0x31, 0x32, 0x33, 0x50, 0x51]
def mbRecovery : List Nat := [0x01, 0x30, 0x31, 0x32, 0x33, 0x40]

/-- The checks of R351 that need no look at the fields; an UPDATE_DATA whose length is out of range is left to its message
(DEDUCED, log entry 126). -/
def State.mbCheck (s : State) (f : Nat) (r : List Byte) : Option Status :=
  let id := fieldAt r 4 2
  let len := fieldAt r 8 2
  if fieldAt r 0 2 ≠ 0x4B44 ∨ fieldAt r 2 1 ≠ 1 then some .badVersion
  else
    match mbNeed r with
    | none => some .badOpcode
    | some n =>
      if 2016 < len ∨ len < n then some .badOpcode
      else if mbPfOnly.contains id && f != 0 then some .notOwner
      else if s.flag Reg.rstBoot 31 && !mbRecovery.contains id then some .isolated
      else if mbSettings.contains id && s.flag Reg.mbH2dCtl 31 then some .locked
      else none

/-- A response is queued; a failing one carries no payload. -/
def State.respond (s : State) (f : Nat) (r : List Byte) (st : Status) (pl : List Byte) : State :=
  let m := s.mailbox f
  let msg := mbMessage (0x8000 + fieldAt r 4 2) (fieldAt r 6 2) st.code (if st = .ok then pl else [])
  s.setMailbox f { m with responses := m.responses ++ [msg] }

/-- Requests at the front that fail a check are answered. -/
def State.settle (s : State) (f : Nat) : Nat → State
  | 0 => s
  | n + 1 =>
    let m := s.mailbox f
    match m.requests with
    | [] => s
    | r :: t =>
      match s.mbCheck f r with
      | none => s
      | some st => ((s.setMailbox f { m with requests := t }).respond f r st []).settle f n

/-- The bytes of a message area. -/
def State.mbArea (s : State) (f off : Nat) : List Byte := wordsBytes ((List.range 508).map fun i => s.reg (mbKey f off + 4 * i))

/-- MB_REQUEST_COPY: the posted request is copied, BUSY clears, and the request takes its place. -/
def State.copyRequest (s : State) (f : Nat) : State :=
  if s.mbServed = false ∨ s.flag (mbH2d f) 1 = false ∨ (s.func f).flr = true then s
  else
    let a := s.mbArea f 0
    let m := s.mailbox f
    let s1 := (s.setFlag (mbH2d f) 1 false).setMailbox f { m with requests := m.requests ++ [a.take (16 + min 2016 (fieldAt a 8 2))] }
    s1.settle f (m.requests.length + 1)

def execMbRequestCopy (f : FnIx) (s : State) : Host.Outcome State Fault Refusal := .next (s.copyRequest f.val)

/-- A message is written to the device-to-host area: VALID, and the vector with IRQ_EN (DESIGN CHOICE, log entry 127). -/
def State.putMessage (s : State) (f : Nat) (msg : List Byte) : State :=
  let a := overlay (s.mbArea f 0x800) 0 msg
  let s1 := ((bytesWords a).zipIdx.take ((msg.length + 3) / 4)).foldl (fun s w => s.setReg (mbKey f 0x800 + 4 * w.2) w.1) s
  let s2 := s1.setFlag (mbD2h f) 31 true
  let v := s.fld (mbD2h f) 26 16
  if s.flag (mbD2h f) 30 then s2.msixDue f (if f = 0 then v else v % 64) else s2

/-- MB_RESPONSE_WRITE: while VALID is 0 the oldest response goes out, or else the oldest notification, which frees an entry for LOST. -/
def State.writeResponse (s : State) (f : Nat) : State :=
  let m := s.mailbox f
  if s.mbServed = false ∨ s.flag (mbD2h f) 31 = true ∨ (s.func f).flr = true then s
  else
    match m.responses, m.notifs with
    | r :: t, _ => (s.setMailbox f { m with responses := t }).putMessage f r
    | [], n :: t => ((s.setMailbox f { m with notifs := t }).notifyLost f).putMessage f n
    | [], [] => s

def execMbResponseWrite (f : FnIx) (s : State) : Host.Outcome State Fault Refusal := .next (s.writeResponse f.val)

/-- What a message does: a state, and the status and payload of its response if one is due now. -/
abbrev Handler := List Byte → State → State × Option (Status × List Byte)

/-- A message is handled when its request stands at the front of the function's requests. -/
def State.handle (s : State) (f id : Nat) (h : Handler) : State :=
  let m := s.mailbox f
  match m.requests with
  | [] => s
  | r :: t =>
    if s.mbServed = false ∨ fieldAt r 4 2 ≠ id then s
    else
      match h (r.drop 16) (s.setMailbox f { m with requests := t }) with
      | (s1, some x) => (s1.respond f r x.1 x.2).settle f t.length
      | (s1, none) => s1

/-- A handler that only answers. -/
def answer (st : Status) (pl : List Byte) (s : State) : State × Option (Status × List Byte) := (s, some (st, pl))

/-- The partition that a message concerns: PART from the PF, the VF's own otherwise (R353). -/
def State.mbPart (s : State) (f part : Nat) : Option Nat := if f = 0 then some (part % 64) else s.fnPart f

/-! ### Reports (R353) -/

/-- GET_INFO. -/
def msgGetInfo (f : Nat) : Handler := fun _ s =>
  let v := if s.ozmel.ready then s.ozmel.version.toNat else 0
  answer .ok (leBytes 4 v ++ leBytes 2 f ++ leBytes 1 ((s.fnPart f).getD 0xFF) ++ leBytes 1 s.discState ++ leBytes 4 s.ozmel.bootCount ++
    leBytes 4 s.ozmel.buildSeq.toNat) s

def execGetInfo (f : FnIx) (s : State) : Host.Outcome State Fault Refusal := .next (s.handle f.val 0x01 (msgGetInfo f.val))

/-- GET_TABLE. -/
def msgGetTable (f : Nat) : Handler := fun pl s =>
  let t := fieldAt pl 0 1
  let off := fieldAt pl 2 2
  let len := fieldAt pl 4 2
  if 6 < t ∨ len = 0 ∨ 2000 < len then answer .badOpcode [] s
  else
    match s.mbPart f (fieldAt pl 1 1) with
    | none => answer .notOwner [] s
    | some p =>
      if 4 * tableWords t < off + len then answer .bounds [] s
      else answer .ok (((wordsBytes ((List.range (tableWords t)).map fun w => (s.part p).word false t w)).drop off).take len) s

def execGetTable (f : FnIx) (s : State) : Host.Outcome State Fault Refusal := .next (s.handle f.val 0x02 (msgGetTable f.val))

/-- POOL_INFO. -/
def msgPoolInfo (f : Nat) : Handler := fun pl s =>
  match s.mbPart f (fieldAt pl 0 1) with
  | none => answer .notOwner [] s
  | some p =>
    answer .ok (((List.range 8).map fun k =>
      leBytes 8 ((s.pdaOf p (s.bufDa k 0)).getD 0) ++ leBytes 4 (s.fld (Reg.pwPoolCount k) 23 0) ++ leBytes 4 (s.poolFree k)).flatten) s

def execPoolInfo (f : FnIx) (s : State) : Host.Outcome State Fault Refusal := .next (s.handle f.val 0x03 (msgPoolInfo f.val))

/-- RING_CTX: the context of a VF-local ring is committed (R230, R314). -/
def msgRingCtx (f : Nat) : Handler := fun pl s =>
  if f = 0 then answer .notOwner [] s
  else
    match s.vfRing f (fieldAt pl 0 2) with
    | none => answer .notOwner [] s
    | some r =>
      match s.commitRing r (bytesWords ((pl.drop 8).take 32)) with
      | (s1, true) => answer .ok [] s1
      | (s1, false) => answer .badOpcode [] s1

def execRingCtx (f : FnIx) (s : State) : Host.Outcome State Fault Refusal := .next (s.handle f.val 0x04 (msgRingCtx f.val))

/-- STREAM_STATS: both snapshots; a host-fed stream has no entry, and only its AU_OUT counts. -/
def msgStreamStats (f : Nat) : Handler := fun pl s =>
  match s.mbPart f (fieldAt pl 2 1) with
  | none => answer .notOwner [] s
  | some p =>
    match s.stream? p (fieldAt pl 0 2) with
    | none => answer .notOwner [] s
    | some st =>
      let a := match st.entry with | some e => s.ingLatch e | none => (0, [0, 0, 0, 0, 0, 0, st.auOut, 0])
      let b := match s.dec? st.ctx with | some d => s.smLatch d.home st.ctx | none => (0, [])
      answer .ok (leBytes 4 a.1.toNat ++ ((List.range 8).map fun k => leBytes 4 (listAt 0 a.2 k)).flatten ++ leBytes 4 b.1.toNat ++
        ((List.range 10).map fun k => leBytes 4 (listAt 0 b.2 k)).flatten) s

def execStreamStats (f : FnIx) (s : State) : Host.Outcome State Fault Refusal := .next (s.handle f.val 0x05 (msgStreamStats f.val))

/-- ACCT. -/
def msgAcct (f : Nat) : Handler := fun pl s =>
  let c := fieldAt pl 0 1 % 8
  if 4 < c then answer .badOpcode [] s
  else
    match s.mbPart f (fieldAt pl 1 1) with
    | none => answer .notOwner [] s
    | some p => let a := listAt (0, 0) (s.part p).acct c; answer .ok (leBytes 8 a.1 ++ leBytes 8 a.2) s

def execAcct (f : FnIx) (s : State) : Host.Outcome State Fault Refusal := .next (s.handle f.val 0x06 (msgAcct f.val))

/-- SENSORS. -/
def msgSensors : Handler := fun _ s =>
  let o := s.ozmel
  answer .ok (leBytes 1 (wrapInt 8 s.fabric.tj) ++ leBytes 1 (wrapInt 8 o.lastInlet) ++ leBytes 2 o.lastWatts ++ leBytes 2 s.fabric.vddMv ++
    leBytes 1 (o.fanDuty / 1000000).toNat ++ [0] ++ leBytes 2 (listAt 0 o.tach 0) ++ leBytes 2 (listAt 0 o.tach 1) ++
    leBytes 1 (boolNat o.throttled + 2 * boolNat s.boostInUse + 4 * boolNat o.fanFail)) s

def execSensors (f : FnIx) (s : State) : Host.Outcome State Fault Refusal := .next (s.handle f.val 0x52 msgSensors)

/-- LOG_READ: the oldest sequence held, then entries in ascending SEQ order (R363). With an empty log no sequence is held, and the word is
not stated (DESIGN CHOICE, log entry 128). -/
def msgLogRead : Handler := fun pl s =>
  let n := fieldAt pl 4 1
  if n = 0 ∨ 62 < n then answer .badOpcode [] s
  else
    match s.ozmel.log with
    | [] => let v := s.drawFree; answer .ok (leBytes 4 v.1.toNat) v.2
    | e :: _ =>
      let l := (s.ozmel.log.filter fun x => decide (fieldAt pl 0 4 ≤ x.seq)).take n
      answer .ok (leBytes 4 e.seq ++ (l.map LogEntry.bytes).flatten) s

def execLogRead (f : FnIx) (s : State) : Host.Outcome State Fault Refusal := .next (s.handle f.val 0x40 msgLogRead)

/-- Frames for EXC_READ: each with port and link, length, stamp and bytes, the last one truncated so that the response fits. -/
def excRecords : Nat → Nat → List (Nat × Nat × List Byte) → List Byte × Nat
  | 0, _, _ => ([], 0)
  | _, _, [] => ([], 0)
  | n + 1, room, (p, l, b) :: t =>
    if room < 12 then ([], 0)
    else
      let fr := b.drop 8
      let k := min fr.length (room - 12)
      let rest := excRecords n (room - 12 - k) t
      (leBytes 1 p ++ leBytes 1 l ++ leBytes 2 k ++ b.take 8 ++ fr.take k ++ rest.1, rest.2 + 1)

/-- EXC_READ: frames leave the exception queue, oldest first (DESIGN CHOICE, log entry 129). -/
def msgExcRead : Handler := fun pl s =>
  let n := fieldAt pl 0 1
  if n = 0 ∨ 8 < n then answer .badOpcode [] s
  else
    let x := excRecords n 2016 s.excq
    answer .ok x.1 { s with excq := s.excq.drop x.2 }

def execExcRead (f : FnIx) (s : State) : Host.Outcome State Fault Refusal := .next (s.handle f.val 0x12 msgExcRead)

/-! ### Settings (R353, R358) -/

/-- NET_CFG: the settings of one link. -/
def msgNetCfg : Handler := fun pl s =>
  let p := fieldAt pl 0 1
  let l := fieldAt pl 1 1
  if 1 < p ∨ 3 < l ∨ (if (fieldAt pl 8 1).testBit 0 then 128 else 32) < fieldAt pl 32 1 then answer .badOpcode [] s
  else
    let keep := s.ozmel.net.filter fun c => !(c.port == p && c.link == l)
    answer .ok [] { s with ozmel := { s.ozmel with net := keep ++ [⟨p, l, pl.take 64⟩] } }

def execNetCfg (f : FnIx) (s : State) : Host.Outcome State Fault Refusal := .next (s.handle f.val 0x10 msgNetCfg)

/-- What names a multicast group on a link: IP version, port, link, VLAN, group and source. -/
def mcastKey (pl : List Byte) : List Byte :=
  leBytes 1 (boolNat ((fieldAt pl 0 1).testBit 1)) ++ (pl.drop 1).take 2 ++ (pl.drop 4).take 2 ++ (pl.drop 16).take 32

/-- MCAST: a membership of the function is added or removed; at most 256 groups per link (DESIGN CHOICE, log entry 134). -/
def msgMcast (f : Nat) : Handler := fun pl s =>
  let p := fieldAt pl 1 1
  let l := fieldAt pl 2 1
  let vlan := fieldAt pl 4 2
  let k := mcastKey pl
  let all := s.ozmel.mcast
  if 1 < p ∨ 3 < l ∨ (4095 < vlan ∧ vlan ≠ 0xFFFF) then answer .badOpcode [] s
  else if (fieldAt pl 0 1).testBit 0 then
    let groups := ((all.map (·.2)).eraseDups).filter fun g => (g.drop 1).take 2 == [BitVec.ofNat 8 p, BitVec.ofNat 8 l]
    if groups.contains k = false ∧ 256 ≤ groups.length then answer .quota [] s
    else if all.contains (f, k) then answer .ok [] s
    else answer .ok [] { s with ozmel := { s.ozmel with mcast := all ++ [(f, k)] } }
  else answer .ok [] { s with ozmel := { s.ozmel with mcast := all.filter fun m => m != (f, k) } }

def execMcast (f : FnIx) (s : State) : Host.Outcome State Fault Refusal := .next (s.handle f.val 0x11 (msgMcast f.val))

/-- PTP_CFG: domain, transport and Delay_Req form of a reference (R342). -/
def msgPtpCfg : Handler := fun pl s =>
  if 1 < fieldAt pl 0 1 ∨ 2 < fieldAt pl 2 1 then answer .badOpcode [] s
  else answer .ok [] { s with ozmel := { s.ozmel with ptp := tabPut s.ozmel.ptp (fieldAt pl 0 1) (pl.take 4) } }

def execPtpCfg (f : FnIx) (s : State) : Host.Outcome State Fault Refusal := .next (s.handle f.val 0x20 msgPtpCfg)

/-- POWER_SET. -/
def msgPowerSet : Handler := fun pl s =>
  let a := fieldAt pl 0 2
  let b := fieldAt pl 2 1
  let c := fieldAt pl 3 1
  if a < 100 ∨ 300 < a ∨ 30 < b ∨ c < 60 ∨ 95 < c then answer .badOpcode [] s
  else answer .ok [] { s with ozmel := { s.ozmel with consts := { s.ozmel.consts with pwrLimit := a, avsGuard := b, boostTj := c } } }

def execPowerSet (f : FnIx) (s : State) : Host.Outcome State Fault Refusal := .next (s.handle f.val 0x50 msgPowerSet)

/-- The ranges of R358 for THERMAL_SET. -/
def thermalOk (c : LoopConsts) : Bool :=
  decide (50 ≤ c.tjTarget) && decide (c.tjTarget ≤ 95) && decide (c.tjTarget + 5 ≤ c.tjThrottle) && decide (c.tjThrottle ≤ 100) &&
  decide (20 ≤ c.tau) && decide (c.tau ≤ 120) && decide (1 ≤ c.fanKp) && decide (c.fanKp ≤ 20) && decide (c.fanMin ≤ 100) &&
  decide (1 ≤ c.slewUp) && decide (c.slewUp ≤ 100) && decide (1 ≤ c.slewDn) && decide (c.slewDn ≤ 100) && decide (c.ffBase ≤ 100) &&
  decide (c.ffSlope ≤ 10)

/-- THERMAL_SET: all constants change, or none. -/
def msgThermalSet : Handler := fun pl s =>
  let c : LoopConsts := { s.ozmel.consts with
    tjTarget := fieldAt pl 0 1, tjThrottle := fieldAt pl 1 1, tau := fieldAt pl 2 2, fanKp := fieldAt pl 4 1, fanMin := fieldAt pl 5 1,
    slewUp := fieldAt pl 6 1, slewDn := fieldAt pl 7 1, ffBase := fieldAt pl 8 1, ffSlope := fieldAt pl 9 1 }
  if thermalOk c then answer .ok [] { s with ozmel := { s.ozmel with consts := c } } else answer .badOpcode [] s

def execThermalSet (f : FnIx) (s : State) : Host.Outcome State Fault Refusal := .next (s.handle f.val 0x51 msgThermalSet)

/-! ### Live update (R354-R357) -/

/-- The slot that does not run: in recovery mode slot 0 is taken. -/
def State.idleSlot (s : State) : Nat := if s.fld Reg.rstBoot 9 8 = 0 then 1 else 0

/-- A flash range is erased. -/
def State.eraseFlash (s : State) (a n : Nat) : State :=
  { s with flash := s.flash.filter fun c => !(decide (a ≤ c.1) && decide (c.1 < a + n)) }

/-- UPDATE_BEGIN: the inactive slot is erased and invalid. -/
def msgUpdateBegin : Handler := fun pl s =>
  let len := fieldAt pl 0 4
  if s.slotSize < len then answer .bounds [] s
  else
    let k := s.idleSlot
    let s1 := (s.eraseFlash (s.slotOff k) s.slotSize).setSlot k .invalid
    answer .ok [] { s1 with ozmel := { s1.ozmel with updLen := some len, updEnd := 0, updCommitted := none } }

def execUpdateBegin (f : FnIx) (s : State) : Host.Outcome State Fault Refusal := .next (s.handle f.val 0x30 msgUpdateBegin)

/-- UPDATE_DATA: image bytes in order, within the length announced (DEDUCED, log entry 130). -/
def msgUpdateData : Handler := fun pl s =>
  let off := fieldAt pl 0 4
  let len := fieldAt pl 4 4
  match s.ozmel.updLen with
  | none => answer .badOpcode [] s
  | some n =>
    if len < 8 ∨ 2008 < len then answer .badOpcode [] s
    else if off ≠ s.ozmel.updEnd ∨ n < off + len then answer .bounds [] s
    else
      let s1 := s.writeFlash (s.slotOff s.idleSlot + off) ((pl.drop 8).take len)
      answer .ok [] { s1 with ozmel := { s1.ozmel with updEnd := off + len } }

def execUpdateData (f : FnIx) (s : State) : Host.Outcome State Fault Refusal := .next (s.handle f.val 0x31 msgUpdateData)

/-- UPDATE_COMMIT: an image that passes R376 makes the slot valid and TRIAL; without an UPDATE_DATA before it, it is BAD_OPCODE. -/
def msgUpdateCommit : Handler := fun _ s =>
  let k := s.idleSlot
  match s.ozmel.updLen with
  | none => answer .badOpcode [] s
  | some _ =>
    if s.ozmel.updEnd = 0 then answer .badOpcode [] s
    else if s.slotOk k then
      let s1 := (s.setSlot k .trial).troubleLog 0x0973 0 (s.slotData k)
      answer .ok (leBytes 4 (s.slotSeq k)) { s1 with ozmel := { s1.ozmel with updLen := none, updCommitted := some k } }
    else answer .badVersion [] s

def execUpdateCommit (f : FnIx) (s : State) : Host.Outcome State Fault Refusal := .next (s.handle f.val 0x32 msgUpdateCommit)

/-- UPDATE_ACTIVATE: a warm reset that starts the slot, also out of recovery mode (R379), or a handover, which waits for a PART_SWAP in
progress. The response to a handover comes from the new image. -/
def msgUpdateActivate (r : List Byte) : Handler := fun pl s =>
  match s.ozmel.updCommitted with
  | none => answer .badOpcode [] s
  | some k =>
    if (fieldAt pl 0 1).testBit 0 || s.flag Reg.rstBoot 31 then
      let w := setBits (setBits (s.reg Reg.rstBoot) 31 31 0) 1 0 0
      (({ s.setReg Reg.rstBoot (if s.flag Reg.rstBoot 31 then w else s.reg Reg.rstBoot) with
          ozmel := { s.ozmel with bootWanted := some k } } : State).warmReset .swGlobal, none)
    else
      let o := { s.ozmel with handoverStart := s.nowNs }
      ({ s with ozmel := if s.swap.current.isSome then { o with activateWaits := some r } else { o with handover := some r } }, none)

def execUpdateActivate (f : FnIx) (s : State) : Host.Outcome State Fault Refusal :=
  .next (s.handle f.val 0x33 (msgUpdateActivate (((s.mailbox f.val).requests.headD []).take 16)))

/-- HANDOVER_RESUME: the new image runs on what the record holds, answers with the time in µs, and takes up what waited; or it does not
accept the record and starts itself by a warm reset (R355, R356). -/
def State.resume (s : State) (accepted : Bool) : State :=
  match s.ozmel.handover, s.ozmel.updCommitted with
  | some r, some k =>
    if accepted then
      let h := s.slotHeader k
      let s1 : State := { s.setFld Reg.rstBoot 9 8 k with ozmel := { s.ozmel with
        handover := none, updCommitted := none, version := BitVec.ofNat 32 (fieldAt h 12 4), buildSeq := BitVec.ofNat 32 (fieldAt h 4 4) } }
      ((s1.respond 0 r .ok (leBytes 4 ((s.nowNs - s.ozmel.handoverStart) / 1000))).settle 0 (s.mailbox 0).requests.length).swapNext
    else ({ s with ozmel := { s.ozmel with bootWanted := some k } } : State).warmReset .swGlobal
  | _, _ => s

def execHandoverResume (accepted : Bool) (s : State) : Host.Outcome State Fault Refusal := .next (s.resume accepted)

/-- SLOT_CONFIRMED: the running TRIAL slot has been at READY for 60 s. -/
def execSlotConfirmed (s : State) : Host.Outcome State Fault Refusal :=
  let k := s.fld Reg.rstBoot 9 8
  .next (if s.ozmel.ready && s.slotState k == .trial then (s.setSlot k .confirmed).troubleLog 0x0972 0 (s.slotData k) else s)

/-! ### Loops (R358-R361) -/

/-- Ozmel's loops run: READY, and not frozen by a handover. -/
def State.loopsRun (s : State) : Bool := s.ozmel.ready && s.ozmel.handover.isNone

/-- The supply that Ozmel commands in mV: the floor and its guard within the cap, or 0.80 V without MARGIN_AUTO, MON_EN or a re-plan. -/
def State.goalMv (s : State) : Nat :=
  if s.fld Reg.fabCtrl 1 0 = 3 ∧ s.fabric.worstPs ≠ 0 then min s.capMv (s.floorMv s.fabric.worstPs + s.ozmel.consts.avsGuard) else 800

/-- The supply command after n steps toward a goal: 10 mV at most each, and 10 µs each (R34). -/
def rampMv (goal : Nat) : Nat → Nat → Nat
  | 0, v => v
  | n + 1, v => rampMv goal n (if v + 10 ≤ goal then v + 10 else if goal + 10 ≤ v then v - 10 else goal)

/-- Steps of 10 µs in a control cycle: TB_CTRL.CYCLE times 100 µs, 1 to 100 of them (R345). -/
def State.rampSteps (s : State) : Nat := 10 * min 100 (max 1 (s.fld Reg.tbCtrl 23 16))

/-- AVS_CYCLE: READ_VOUT is taken, VFLOOR follows the target, and the command moves to the goal. A rail more than 5 mV below or above its command
raises or lowers the goal by 1 to 10 mV, an amount that is not stated, within 0.60 V and the cap. After three silent cycles the command is
held and an ERROR logged (R29, R34, R359) (DEDUCED, log entry 131). -/
def State.avs (s : State) (vout : Option Nat) : State :=
  if s.loopsRun = false then s
  else
    let s0 : State := { s with tb := { s.tb with cycleIrq := false } }
    let s1 := if s.flag Reg.fabCtrl 0 ∧ s.fabric.worstPs ≠ 0 then s0.setFloor s.fabric.worstPs else s0
    let cmd := s.fabric.vCmdMv
    match vout with
    | none =>
      let n := s.fabric.vSilent + 1
      let s2 : State := { s1 with fabric := { s.fabric with vSilent := n, vCmdMv := if n < 3 then rampMv s.goalMv s.rampSteps cmd else cmd } }
      if n = 3 then s2.troubleLog 0x0A40 2 [] else s2
    | some v =>
      let x := if cmd + 5 < v ∨ v + 5 < cmd then s1.drawFree else (0, s1)
      let by10 := x.1.toNat % 10 + 1
      let goal := if cmd + 5 < v then max 600 (s.goalMv - by10) else if v + 5 < cmd then min s.capMv (s.goalMv + by10) else s.goalMv
      { x.2 with fabric := { x.2.fabric with vddMv := v, vSilent := 0, vCmdMv := rampMv goal s.rampSteps cmd } }

def execAvsCycle (vout : Option Nat) (s : State) : Host.Outcome State Fault Refusal := .next (s.avs vout)

/-- A target below 2.00 G steps/s begins or ends a throttle, which is reported to the PF, Soot and the trouble log. The event's ARG is not
stated. -/
def State.throttleReport (s : State) (cause : Nat) : State :=
  let t := s.targetRate
  let now := decide (t < 2000)
  if now = s.ozmel.throttled then s
  else
    let v := ({ s with ozmel := { s.ozmel with throttled := now } } : State).drawFree
    let body := leBytes 1 cause ++ [0] ++ leBytes 2 (if now then t else 0)
    ((v.2.notify 0 0x4002 body).sootEvent 0x0A40 v.1 none).troubleLog 0x0A41 1 body

/-- The power limit in force: at most 150 W after a fan failure. -/
def State.powerLimit (s : State) : Nat := if s.ozmel.fanFail then min 150 s.ozmel.consts.pwrLimit else s.ozmel.consts.pwrLimit

/-- POWER_WINDOW: boost ends or has met its conditions for one more window; the loop's value falls by 2 %, or rises by 1 % after 100 ms below
the limit less 10 W (DEDUCED, log entry 132). -/
def State.powerStep (s : State) (w : Nat) : State :=
  if s.loopsRun = false then s
  else
    let o := s.ozmel
    let lim := s.powerLimit
    let fit := s.flag Reg.fabCtrl 2 && decide (w + 30 ≤ lim) && decide (s.fabric.tj ≤ (o.consts.boostTj : Int))
    let bw := if fit then o.boostWindows + 1 else 0
    let lw := if w + 10 < lim then o.lowWindows + 1 else 0
    let rate :=
      if lim < w then max 1050000 (o.powerRate * 98 / 100)
      else if 10 ≤ lw then min 2350000 (o.powerRate * 101 / 100)
      else o.powerRate
    let s1 : State := { s with ozmel := { o with lastWatts := w, boostWindows := bw, boosted := decide (10 ≤ bw), lowWindows := lw, powerRate := rate } }
    s1.throttleReport 1

def execPowerWindow (watts : Nat) (s : State) : Host.Outcome State Fault Refusal := .next (s.powerStep watts)

/-- THERMAL_LOOP: the value falls by 5 % above TJ_THROTTLE and rises by 1 % below it less 3 °C. -/
def State.thermalStep (s : State) (tj : Int) : State :=
  let s0 : State := { s with fabric := { s.fabric with tj := tj } }
  if s.loopsRun = false then s0
  else
    let o := s.ozmel
    let lim : Int := o.consts.tjThrottle
    let rate :=
      if lim < tj then o.thermalRate * 95 / 100
      else if tj < lim - 3 then min 2350000 (o.thermalRate * 101 / 100)
      else o.thermalRate
    ({ s0 with ozmel := { o with thermalRate := rate } } : State).throttleReport 2

def execThermalLoop (tj : Int) (s : State) : Host.Outcome State Fault Refusal := .next (s.thermalStep tj)

/-- Some channel reports HOT. -/
def State.anyHot (s : State) : Bool := (List.range 8).any fun n => decide (s.fld (Reg.mcStatus n) 11 8 ≠ 0)

/-- Runs of loops in which each tachometer read below 300 rpm at a duty of at least 30 %. -/
def failRuns (duty : Int) (runs tach : List Nat) : List Nat :=
  (List.range 2).map fun i => if listAt 0 tach i < 300 ∧ 30000000 ≤ duty then listAt 0 runs i + 1 else 0

/-- The duty that the fan loop computes, in 10^-6 %, with the integral in 10^-6 °C (DEDUCED, log entry 133). -/
def State.fanWant (s : State) (tj inlet i : Int) : Int :=
  let c := s.ozmel.consts
  let e := (tj - c.tjTarget) * 1000000
  clampInt ((c.fanMin : Int) * 1000000) 100000000
    ((c.ffBase : Int) * 1000000 + (c.ffSlope : Int) * (inlet - 25) * 1000000 + (c.fanKp : Int) * (e + i))

/-- FAN_LOOP (R361). -/
def State.fanStep (s : State) (tj : Int) (inlet : Option Int) (t0 t1 : Nat) : State :=
  let s0 : State := { s with fabric := { s.fabric with tj := tj } }
  if s.loopsRun = false then s0
  else
    let o := s.ozmel
    let c := o.consts
    let tin := inlet.getD 45
    let i := clampInt (-25000000) 25000000 (o.fanInt + (tj - c.tjTarget) * 100000 / (max 1 c.tau : Nat))
    let hold := if s.anyHot then 600 else o.hotHold - 1
    let want := if s.anyHot || decide (0 < o.hotHold) then 100000000 else s.fanWant tj tin i
    let runs := failRuns o.fanDuty o.fanFailRuns [t0, t1]
    let failed := runs.any fun n => decide (30 ≤ n)
    let duty := if failed || o.fanFail then 100000000
      else o.fanDuty + clampInt (-(c.slewDn : Int) * 100000) ((c.slewUp : Int) * 100000) (want - o.fanDuty)
    let s1 : State := { s0 with ozmel := { o with lastInlet := tin, fanInt := i, hotHold := hold, fanFailRuns := runs, fanDuty := duty,
                                                  fanFail := o.fanFail || failed, tach := [t0, t1] } }
    if failed && !o.fanFail then
      let v := s1.drawFree
      let body := leBytes 1 3 ++ [0] ++ leBytes 2 s1.targetRate
      ((v.2.notify 0 0x4002 body).sootEvent 0x5840 v.1 none).troubleLog 0x5840 2 body
    else s1

def execFanLoop (tj : Int) (inlet : Option Int) (tach0 tach1 : Nat) (s : State) : Host.Outcome State Fault Refusal :=
  .next (s.fanStep tj inlet tach0 tach1)

/-- TROUBLE_LOG_FLUSH: the entries not yet in flash are written (R363); a handover carries them in its record (R355). -/
def execTroubleLogFlush (s : State) : Host.Outcome State Fault Refusal :=
  .next (if s.ozmel.running && s.ozmel.handover.isNone then { s with ozmel := { s.ozmel with log := s.ozmel.log.map fun e => { e with saved := true } } } else s)

/-! ### Frames of the exception queue (R173, R176, R348) -/

/-- The Internet checksum of bytes on top of a sum. -/
def netSum (bs : List Byte) (acc : Nat) : List Byte := beBytes 2 (65535 - onesSum bs acc)

/-- MAC address and local address of a link's settings. -/
def NetCfg.mac (c : NetCfg) : List Byte := (c.bytes.drop 2).take 6
def NetCfg.addr (c : NetCfg) : List Byte := (c.bytes.drop 16).take 16
def NetCfg.v6 (c : NetCfg) : Bool := (fieldAt c.bytes 8 1).testBit 0
def NetCfg.icmp (c : NetCfg) : Bool := (fieldAt c.bytes 8 1).testBit 1

/-- The answer to an ARP request for the local address (RFC 826, log entry 34). -/
def arpAnswer (c : NetCfg) (b : List Byte) : Option (List Byte) :=
  if !c.v6 && beAt b 0 2 == 1 && beAt b 2 2 == 0x0800 && beAt b 6 2 == 1 && (b.drop 24).take 4 == c.addr.take 4 then
    some (b.take 6 ++ [0, 2] ++ c.mac ++ c.addr.take 4 ++ (b.drop 8).take 10)
  else none

/-- The answer to an ICMP echo request (RFC 792). -/
def echoAnswer (c : NetCfg) (b : List Byte) : Option (List Byte) :=
  let ihl := natBits (fieldAt b 0 1) 3 0 * 4
  let len := beAt b 2 2
  let icmp := (b.take len).drop ihl
  if !c.v6 && c.icmp && fieldAt b 9 1 == 1 && (b.drop 16).take 4 == c.addr.take 4 && fieldAt icmp 0 2 == 8 && decide (8 ≤ icmp.length) then
    let body := icmp.drop 4
    let m := [0, 0] ++ netSum ([0, 0, 0, 0] ++ body) 0 ++ body
    let h := [0x45, 0] ++ beBytes 2 (20 + m.length) ++ [0, 0, 0, 0, 64, 1, 0, 0] ++ c.addr.take 4 ++ (b.drop 12).take 4
    some (overlay h 10 (netSum h 0) ++ m)
  else none

/-- An ICMPv6 message to an address. -/
def icmp6Packet (c : NetCfg) (dst m : List Byte) : List Byte :=
  let acc := onesSum dst (onesSum c.addr (onesSum (beBytes 4 m.length ++ [0, 0, 0, 58]) 0))
  [0x60, 0, 0, 0] ++ beBytes 2 m.length ++ [58, 255] ++ c.addr ++ dst ++ overlay m 2 (netSum m acc)

/-- The answer to a neighbour solicitation (RFC 4861) or an ICMPv6 echo request (RFC 4443). -/
def nd6Answer (c : NetCfg) (b : List Byte) : Option (List Byte) :=
  let src := (b.drop 8).take 16
  let m := (b.drop 40).take (beAt b 4 2)
  if c.v6 = false ∨ fieldAt b 6 1 ≠ 58 then none
  else if fieldAt m 0 1 = 135 ∧ (m.drop 8).take 16 = c.addr then
    some (icmp6Packet c src ([136, 0, 0, 0, 0x60, 0, 0, 0] ++ c.addr ++ [2, 1] ++ c.mac))
  else if c.icmp = true ∧ fieldAt m 0 1 = 128 ∧ (b.drop 24).take 16 = c.addr ∧ 8 ≤ m.length then
    some (icmp6Packet c src ([129, 0, 0, 0] ++ m.drop 4))
  else none

/-- What Ozmel sends for a frame, if anything: same tag, addresses swapped, at least 60 bytes. -/
def netAnswer (c : NetCfg) (fr : List Byte) : Option (List Byte) :=
  let off := if beAt fr 12 2 = 0x8100 then 16 else 12
  let b := fr.drop (off + 2)
  let ans := match beAt fr off 2 with
    | 0x0806 => arpAnswer c b
    | 0x0800 => echoAnswer c b
    | 0x86DD => nd6Answer c b
    | _ => none
  ans.map fun a =>
    let out := (fr.drop 6).take 6 ++ c.mac ++ (fr.drop 12).take (off - 10) ++ a
    out ++ List.replicate (60 - out.length) 0

/-- A frame is one that Ozmel handles: ARP, ICMP, ICMPv6, or RTCP by the packet type of R176. -/
def ozmelFrame (fr : List Byte) : Bool :=
  let off := if beAt fr 12 2 = 0x8100 then 16 else 12
  let b := fr.drop (off + 2)
  match beAt fr off 2 with
  | 0x0806 => true
  | 0x0800 => fieldAt b 9 1 == 1 || (match frameKind fr with | .udp d => decide (200 ≤ fieldAt d.payload 1 1 ∧ fieldAt d.payload 1 1 ≤ 204) | _ => false)
  | 0x86DD => fieldAt b 6 1 == 58 || (match frameKind fr with | .udp d => decide (200 ≤ fieldAt d.payload 1 1 ∧ fieldAt d.payload 1 1 ≤ 204) | _ => false)
  | _ => false

/-- EXCEPTION_FRAME_HANDLE: the oldest frame of the exception queue that Ozmel handles leaves it, and is answered on its link. -/
def State.handleFrame (s : State) : State :=
  if s.loopsRun = false then s
  else
    match s.excq.findIdx? fun e => ozmelFrame (e.2.2.drop 8) with
    | none => s
    | some i =>
      let e := listAt (0, 0, []) s.excq i
      let s1 : State := { s with excq := s.excq.eraseIdx i }
      match s.ozmel.net.find? fun c => c.port == e.1 && c.link == e.2.1 with
      | none => s1
      | some c =>
        match netAnswer c (e.2.2.drop 8) with
        | none => s1
        | some a => if s.flag (Reg.ethPort e.1) (28 + e.2.1) then { s1 with outs := { s1.outs with eth := (e.1, e.2.1, a) :: s1.outs.eth } } else s1

def execExceptionFrameHandle (s : State) : Host.Outcome State Fault Refusal := .next s.handleFrame

end Sys2Proof.Machine
end

