-- ==== Sys2Proof/Machine/Peripherals.lean ====
section
/-!
DEFINITION. Cages, GPIO and the serial interfaces (R405-R415): cage presence, power and reset, I2C master 0, the SMBus target, GPIO
inputs, the debug UART, the SPI flash port and JTAG.
-/

namespace Sys2Proof.Machine

/-! ### Module cages (R405, R406) -/

/-- A W1C bit of CG_STATUS is set: the vector VEC of the PF is due while IRQ_EN = 1, and Soot records an event of source 0x4C (R406);
its kind and ARG are not stated and are free. -/
def State.cageSet (s : State) (c bit : Nat) : State :=
  let s1 := s.setFlag (Reg.cgStatus c) bit true
  let s2 := if s1.flag (Reg.cgCtrl c) 15 then s1.msixDue 0 (s1.fld (Reg.cgCtrl c) 26 16) else s1
  let a := s2.drawFree
  a.2.sootEvent (0x4C00 + (Config.cageKind bit).toNat) a.1 none

/-- A transfer of I2C master 0 is over: BUSY clears, and NACK or ERR is set (R407). -/
def State.i2cOver (s : State) (nack err : Bool) : State :=
  let s1 : State := { s with periph := { s.periph with i2c := none } }
  let s2 := s1.setFlag Reg.i2c0Xfer 30 false
  let s3 := if nack then s2.setFlag Reg.i2c0Xfer 29 true else s2
  if err then s3.setFlag Reg.i2c0Xfer 28 true else s3

/-- CGc_PWREN is dropped: PWR_EN and PWR_GOOD clear, CGc_RESET_N goes low, and an I2C transfer to the cage ends with ERR (R406, R415)
(DEDUCED, log entry 135). -/
def State.cageOff (s : State) (c : Nat) : State :=
  let s1 := (s.setFlag (Reg.cgCtrl c) 4 false).setFlag (Reg.cgStatus c) 6 false
  let s2 : State := { s1 with periph := { s1.periph with cgReleased := listUpd s1.periph.cgReleased c fun _ => false } }
  match s2.periph.i2c with
  | some w => if boolNat (bitOf w 27) = c then s2.i2cOver false true else s2
  | none => s2

/-- Level of CGc_RESET_N: low until 2 ms after PWR_GOOD, then high unless MOD_RST holds it low (R405). -/
def State.cgResetN (s : State) (c : Nat) : Bool := listAt false s.periph.cgReleased c && !s.flag (Reg.cgCtrl c) 5

/-- CAGE_PRESENCE_CHANGE: an accepted change of PRESENT_N; a removal under AUTO_OFF takes the power and the links away (R405, R406). -/
def execCagePresenceChange (c : EpIx) (present : Bool) (s : State) : Host.Outcome State Fault Refusal :=
  .next <|
    if s.flag (Reg.cgStatus c) 7 = present then s
    else
      let s1 := (s.setFlag (Reg.cgStatus c) 7 present).cageSet c 0
      if !present && s1.flag (Reg.cgCtrl c) 8 then (s1.cageOff c).linksDown c else s1

/-- CAGE_BUTTON_PRESS: an accepted press of the attention button (R405). -/
def execCageButtonPress (c : EpIx) (s : State) : Host.Outcome State Fault Refusal := .next (s.cageSet c 1)

/-- A write of CG_CTRL; PWR_EN = 1 without a module has no effect and reads 0 (R406). -/
def State.cgCtrlWrite (s : State) (c : Nat) (v : Word) : State :=
  let w := if s.flag (Reg.cgStatus c) 7 then v else setBits v 4 4 0
  let s1 := s.setReg (Reg.cgCtrl c) (w &&& 0x07FF8133)
  if bitOf w 4 then s1 else s1.cageOff c

/-- CAGE_PWR_EN_WRITE: a write of CG_CTRL. -/
def execCagePwrEnWrite (c : EpIx) (v : Word) (s : State) : Host.Outcome State Fault Refusal :=
  .next (s.pfReach (Reg.cgCtrl c) (s.cgCtrlWrite c v))

/-- The power of a cage fails: it is taken away, PWR_FAULT is set, and the links of the port go down (R406). -/
def State.cageFault (s : State) (c : Nat) : State := ((s.cageOff c).cageSet c 2).linksDown c

/-- CAGE_POWER_FAULT: PFAULT_N falls. -/
def execCagePowerFault (c : EpIx) (s : State) : Host.Outcome State Fault Refusal := .next (s.cageFault c)

/-- PWR_GOOD_TIMEOUT: 50 ms have passed since PWR_EN = 1 without PWR_GOOD. -/
def execPwrGoodTimeout (c : EpIx) (s : State) : Host.Outcome State Fault Refusal :=
  .next (if s.flag (Reg.cgCtrl c) 4 && !s.flag (Reg.cgStatus c) 6 then s.cageFault c else s)

/-- CAGE_PWR_GOOD: the power controller reports good (R405). -/
def execCagePwrGood (c : EpIx) (s : State) : Host.Outcome State Fault Refusal := .next (s.setFlag (Reg.cgStatus c) 6 true)

/-- MODULE_RESET_RELEASE: 2 ms after PWR_GOOD, CGc_RESET_N follows MOD_RST (R405). -/
def execModuleResetRelease (c : EpIx) (s : State) : Host.Outcome State Fault Refusal :=
  .next (if s.flag (Reg.cgCtrl c) 4 && s.flag (Reg.cgStatus c) 6 then
    { s with periph := { s.periph with cgReleased := listUpd s.periph.cgReleased c fun _ => true } } else s)

/-- MODULE_INT_CHANGE: MOD_INT follows CGc_INT_N; INT_CHG is set when it becomes 1. -/
def execModuleIntChange (c : EpIx) (low : Bool) (s : State) : Host.Outcome State Fault Refusal :=
  .next (let s1 := s.setFlag (Reg.cgStatus c) 5 low
         if low && !s.flag (Reg.cgStatus c) 5 then s1.cageSet c 3 else s1)

/-! ### I2C master 0 (R407) -/

/-- Bytes of a buffer of registers from a first offset. -/
def State.bufBytes (s : State) (off n : Nat) : List Byte :=
  (wordsBytes ((List.range ((n + 3) / 4)).map fun k => s.reg (off + 4 * k))).take n

/-- A buffer of registers with bytes written from its start. -/
def State.setBufBytes (s : State) (off : Nat) (bs : List Byte) : State :=
  (List.range bs.length).foldl (fun s i => s.setFld (off + i / 4 * 4) (i % 4 * 8 + 7) (i % 4 * 8) (listAt 0 bs i).toNat) s

/-- The bytes that a transfer sends: the address with the write bit, WCNT bytes, and the address with the read bit when RCNT is not 0
(DEDUCED, log entry 136). -/
def State.i2cSent (s : State) (w : Word) : List Byte :=
  let a := bitsOf w 22 16
  [BitVec.ofNat 8 (2 * a)] ++ s.bufBytes (Reg.i2c0Buf 0) (min 32 (bitsOf w 15 8)) ++
  (if bitsOf w 7 0 = 0 then [] else [BitVec.ofNat 8 (2 * a + 1)])

/-- A write of I2C0_XFER. GO is ignored while BUSY = 1, and to a cage without power it sets ERR. -/
def State.i2cXferWrite (s : State) (v : Word) : State :=
  let old := s.reg Reg.i2c0Xfer
  let w := (old &&& 0x70000000 &&& ~~~(v &&& 0x30000000)) ||| (v &&& 0x0E7FFFFF)
  let s1 := s.setReg Reg.i2c0Xfer w
  if !bitOf v 31 || bitOf old 30 then s1
  else if s1.flag (Reg.cgStatus (boolNat (bitOf v 27))) 6 = false then s1.setFlag Reg.i2c0Xfer 28 true
  else
    let s2 := s1.setFlag Reg.i2c0Xfer 30 true
    { s2 with periph := { s2.periph with i2c := some w }, outs := { s2.outs with i2c := s2.i2cSent w :: s2.outs.i2c } }

/-- I2C0_XFER_GO: a write of I2C0_XFER. -/
def execI2c0XferGo (v : Word) (s : State) : Host.Outcome State Fault Refusal :=
  .next (s.pfReach Reg.i2c0Xfer (s.i2cXferWrite v))

/-- I2C0_XFER_END: the transfer in progress ends; the bytes read stand in the buffer. -/
def execI2c0XferEnd (e : I2cEnd) (s : State) : Host.Outcome State Fault Refusal :=
  .next <| match s.periph.i2c with
    | none => s
    | some w =>
      match e with
      | .done rd => (s.setBufBytes (Reg.i2c0Buf 0) (rd.take (min 32 (bitsOf w 7 0)))).i2cOver false false
      | .nack => s.i2cOver true false
      | .err => s.i2cOver false true

/-! ### SMBus target (R408) -/

/-- The byte that the target returns for a command code. -/
def State.smbusByte (s : State) (cmd : Nat) : Byte :=
  match cmd with
  | 0 => BitVec.ofNat 8 s.discState
  | 1 => BitVec.ofNat 8 (wrapInt 8 s.fabric.tj)
  | 2 => BitVec.ofNat 8 (boolNat s.outs.thermtrip + 2 * boolNat s.fabric.safe + 4 * boolNat (s.flag Reg.rstBoot 31))
  | 3 => BitVec.ofNat 8 (s.ozmel.fanDuty / 1000000).toNat
  | _ => 0xFF

/-- SMBUS_READ_BYTE. -/
def execSmbusReadByte (cmd : Byte) (s : State) : Host.Outcome State Fault Refusal :=
  .next { s with outs := { s.outs with smbus := s.smbusByte cmd.toNat } }

/-! ### GPIO (R409) -/

/-- Pin levels: OUT where OE is 1, the board's level elsewhere. -/
def State.gpioPins (s : State) : Word :=
  let w := s.reg Reg.gpioOut
  ((w &&& (w >>> 16)) ||| (s.periph.gpioExt &&& ~~~(w >>> 16))) &&& 0xFFFF

/-- IN follows the pins, and CHG collects what has changed. -/
def State.gpioSync (s : State) : State :=
  let w := s.reg Reg.gpioIn
  let p := s.gpioPins
  s.setReg Reg.gpioIn (((w &&& 0xFFFF0000) ||| (((w &&& 0xFFFF) ^^^ p) <<< 16)) ||| p)

/-- GPIO_INPUT_CHANGE: the board drives a pin to another level. -/
def execGpioInputChange (pin : Fin 16) (level : Bool) (s : State) : Host.Outcome State Fault Refusal :=
  .next (State.gpioSync { s with periph := { s.periph with gpioExt := setBits s.periph.gpioExt pin.val pin.val (boolNat level) } })

/-! ### Debug UART (R410, R411) -/

/-- The vector of the UART is due while IRQ_EN = 1. -/
def State.uartIrq (s : State) : State :=
  if s.flag Reg.uartCtrl 15 then s.msixDue 0 (s.fld Reg.uartCtrl 26 16) else s

/-- An error bit of UART_STAT is set. -/
def State.uartErr (s : State) (bit : Nat) : State := (s.setFlag Reg.uartStat bit true).uartIrq

/-- The transmitter takes up the oldest byte of its FIFO when it is idle and TX_EN = 1. -/
def State.uartPump (s : State) : State :=
  match s.periph.uartSending, s.periph.uartTx with
  | none, b :: t => if s.flag Reg.uartCtrl 0 then { s with periph := { s.periph with uartSending := some b, uartTx := t } } else s
  | _, _ => s

/-- A write of UART_DATA. -/
def State.uartWrite (s : State) (v : Word) : State :=
  if 16 ≤ s.periph.uartTx.length then s.uartErr 4
  else ({ s with periph := { s.periph with uartTx := s.periph.uartTx ++ [BitVec.ofNat 8 v.toNat] } } : State).uartPump

/-- UART_DATA_WRITE. -/
def execUartDataWrite (v : Word) (s : State) : Host.Outcome State Fault Refusal :=
  .next (s.pfReach Reg.uartData (s.uartWrite v))

/-- With DATA7 = 1 bit 7 is neither sent nor read. -/
def State.uartMask (s : State) (b : Byte) : Byte := if s.flag Reg.uartCtrl 2 then b &&& 0x7F else b

/-- The word that a read of UART_DATA returns, and the state without the byte. -/
def State.uartTake (s : State) : Word × State :=
  match s.periph.uartRx with
  | [] => (0, s)
  | b :: t => (BitVec.ofNat 32 (256 + (s.uartMask b).toNat), { s with periph := { s.periph with uartRx := t } })

/-- UART_DATA_READ. -/
def execUartDataRead (s : State) : Host.Outcome State Fault Refusal :=
  let a := s.uartTake
  .next (s.pfRead Reg.uartData { a.2 with outs := { a.2.outs with busData := a.1.setWidth 64 } })

/-- A byte reaches the receive FIFO. -/
def State.uartStore (s : State) (b : Byte) : State :=
  if 16 ≤ s.periph.uartRx.length then s.uartErr 3
  else
    let s1 : State := { s with periph := { s.periph with uartRx := s.periph.uartRx ++ [s.uartMask b] } }
    if s1.periph.uartRx.length = s1.fld Reg.uartCtrl 11 8 + 1 then s1.uartIrq else s1

/-- Data bits of a character, and whether it has a parity bit. -/
def State.uartBits (s : State) : Nat := if s.flag Reg.uartCtrl 2 then 7 else 8
def State.uartParity (s : State) : Bool := let p := s.fld Reg.uartCtrl 5 4; p == 1 || p == 2

/-- Sample i of cell k; the line idles high beyond the list. -/
def lineSample (l : List Bool) (k i : Nat) : Bool := listAt true l (16 * k + i)

/-- The value of a data or parity cell: the majority of samples 7, 8 and 9 (R411). -/
def lineBit (l : List Bool) (k : Nat) : Bool :=
  decide (2 ≤ boolNat (lineSample l k 7) + boolNat (lineSample l k 8) + boolNat (lineSample l k 9))

/-- A character as the receiver samples it, from the first low sample of its start bit. A stop bit judged low is a framing error, and the
character is lost (R411, R415) (DEDUCED, log entry 137). -/
def State.uartReceive (s : State) (l : List Bool) : State :=
  let n := s.uartBits
  let v := bitmap n fun i => lineBit l (i + 1)
  let stop := 1 + n + boolNat s.uartParity
  let ones := ((List.range n).map fun i => boolNat (v.testBit i)).sum
  let want := (ones + boolNat (s.fld Reg.uartCtrl 5 4 == 2)) % 2 == 1
  let s1 := if s.uartParity && (lineBit l (n + 1) != want) then s.uartErr 1 else s
  if lineSample l stop 8 then s1.uartStore (BitVec.ofNat 8 v)
  else
    let s2 := s1.uartErr 0
    if (List.range (16 * (stop + 1))).all fun i => !listAt true l i then s2.uartErr 2 else s2

/-- UART_CHARACTER_RECEIVE: with RX_EN = 1, and not while the receiver listens to the transmitter. -/
def execUartCharacterReceive (samples : List Bool) (s : State) : Host.Outcome State Fault Refusal :=
  .next (if s.flag Reg.uartCtrl 1 && !s.flag Reg.uartCtrl 6 then s.uartReceive samples else s)

/-- A character as UART_TX sends it: a low start bit, the data bits with the least significant first, a parity bit when UART_CTRL asks for
one, and one or two high stop bits (R410), as UART_CTRL stands when the character ends (DESIGN CHOICE, log entry 182). -/
def State.uartChar (s : State) (b : Byte) : List Bool :=
  let d := (List.range s.uartBits).map fun i => b.toNat.testBit i
  let p := s.fld Reg.uartCtrl 5 4
  [false] ++ d ++ (if s.uartParity then [(((d.map boolNat).sum + boolNat (p == 2)) % 2 == 1)] else []) ++
    List.replicate (1 + s.fld Reg.uartCtrl 3 3) true

/-- UART_CHARACTER_SENT: the character goes to UART_TX, or to the receiver under LOOP; the next one is taken up. -/
def execUartCharacterSent (s : State) : Host.Outcome State Fault Refusal :=
  .next <| match s.periph.uartSending with
    | none => s.uartPump
    | some b =>
      let s1 : State := { s with periph := { s.periph with uartSending := none } }
      let s2 : State :=
        if s.flag Reg.uartCtrl 6 then (if s.flag Reg.uartCtrl 1 then s1.uartStore b else s1)
        else { s1 with outs := { s1.outs with uart := s.uartChar b :: s1.outs.uart } }
      s2.uartPump

/-! ### SPI flash (R412) -/

/-- Data bytes of a transfer. -/
def spiCnt (w : Word) : Nat := min 64 (bitsOf w 14 8)

/-- The bytes that a transfer sends: opcode, address, and the data of a write. -/
def State.spiSent (s : State) (w : Word) : List Byte :=
  [BitVec.ofNat 8 (bitsOf w 7 0)] ++ (if bitOf w 28 then (leBytes 4 (s.reg Reg.spiAddr).toNat).reverse else []) ++
  (if bitOf w 29 then s.bufBytes (Reg.spiBuf 0) (spiCnt w) else [])

/-- A write of SPI_XFER. GO starts a transfer in recovery mode; elsewhere it is ignored and recorded. -/
def State.spiXferWrite (s : State) (v : Word) : State :=
  let w := v &&& 0x30007FFF
  let busy := s.flag Reg.spiXfer 30
  let s1 := s.setReg Reg.spiXfer (w ||| (if busy then 0x40000000 else 0))
  if !bitOf v 31 then s1
  else if s1.discState ≠ 2 then s1.ignoredWrite 0x58 Reg.spiXfer
  else if busy then s1
  else
    let s2 := s1.setFlag Reg.spiXfer 30 true
    { s2 with periph := { s2.periph with spi := some (w, s2.reg Reg.spiAddr) }, outs := { s2.outs with spi := s2.spiSent w :: s2.outs.spi } }

/-- SPI_XFER_GO: a write of SPI_XFER. -/
def execSpiXferGo (v : Word) (s : State) : Host.Outcome State Fault Refusal :=
  .next (s.pfReach Reg.spiXfer (s.spiXferWrite v))

/-- The flash after a Page Program: old AND new, within the page of 256 bytes (PRESUMED: the NOR family's rule; log entry 35). -/
def State.pageProgram (s : State) (a : Nat) (bs : List Byte) : State :=
  (List.range bs.length).foldl (fun s i =>
    let x := a / 256 * 256 + (a + i) % 256
    s.writeFlash x [listAt 0xFF (s.readFlash x 1) 0 &&& listAt 0 bs i]) s

/-- SPI_XFER_END: Read returns the flash, Page Program and Sector Erase change it, any other read returns the device's bytes. -/
def execSpiXferEnd (read : List Byte) (s : State) : Host.Outcome State Fault Refusal :=
  .next <| match s.periph.spi with
    | none => s
    | some (w, addr) =>
      let s1 : State := { s with periph := { s.periph with spi := none } }
      let s2 := s1.setFlag Reg.spiXfer 30 false
      let op := bitsOf w 7 0
      let n := spiCnt w
      if bitOf w 29 = false ∧ n ≠ 0 then
        s2.setBufBytes (Reg.spiBuf 0) (if op = 0x13 ∧ bitOf w 28 then s2.readFlash addr.toNat n else read.take n)
      else if op = 0x12 ∧ bitOf w 28 ∧ bitOf w 29 then s2.pageProgram addr.toNat (s2.bufBytes (Reg.spiBuf 0) n)
      else if op = 0x21 ∧ bitOf w 28 then s2.writeFlash (4096 * (addr.toNat / 4096)) (List.replicate 4096 0xFF)
      else s2

/-! ### JTAG (R414) -/

/-- The IDCODE word. -/
def State.idcode (s : State) : Word :=
  BitVec.ofNat 32 (2 ^ 28 * s.fuses.stepping.toNat + 0x7216 * 2 ^ 12 + Config.jtagMaker.toNat * 2 + 1)

/-- JTAG_INSTRUCTION: a debug instruction without DBG_EN acts as BYPASS; with DBG_EN it reaches the management cores' debug unit, of which
nothing is said. What the boundary register captures is free (DESIGN CHOICE, log entry 143). -/
def execJtagInstruction (i : JtagInstr) (s : State) : Host.Outcome State Fault Refusal :=
  let at_ (j : JtagInstr) (w : Word) (t : State) : State :=
    { t with periph := { t.periph with jtag := j }, outs := { t.outs with jtagData := w } }
  match i with
  | .bypass => .next (at_ .bypass 0 s)
  | .idcode => .next (at_ .idcode s.idcode s)
  | .samplePreload => .next (at_ .samplePreload (s.drawFree.1.setWidth 32) s.drawFree.2)
  | .extest => .next (at_ .extest (s.drawFree.1.setWidth 32) s.drawFree.2)
  | .debug => if s.flag Reg.dbgCtrl 0 then .refused .debugUnit else .next (at_ .bypass 0 s)

end Sys2Proof.Machine
end

