-- ==== Sys2Proof/Machine/Access.lean ====
section
/-!
DEFINITION. Register accesses of every size through PF BAR0 and the VF BARs (R12-R16, R98, R210, R313, R314, R321, R349): REGISTER_WRITE
and RC_REGISTER_READ. A register whose write or read has an effect of its own is sent to that effect's operation.
-/

namespace Sys2Proof.Machine

/-! ### Registers with effects of their own -/

/-- LN_CTRL: a 1 written to the enable of a fused-off or runtime-disabled array has no effect. -/
def State.lnCtrlWrite (s : State) (n : Nat) (v : Word) : State :=
  let keep (a : Nat) (v : Word) : Word :=
    if s.arrOff n a && bitOf v (1 + a) then setBits v (1 + a) (1 + a) (s.fld (Reg.lnCtrl n) (1 + a) (1 + a)) else v
  s.plainWrite (Reg.lnCtrl n) (keep 1 (keep 0 v))

/-- ETH_PORTp: a write that changes MODE or FEC while a LINK_EN bit is 1 is ignored; a link that is disabled goes down (DEDUCED, log entry 142). -/
def State.ethPortWrite (s : State) (p : Nat) (v : Word) : State :=
  let w := s.reg (Reg.ethPort p)
  if bitsOf w 19 16 ≠ 0 ∧ (w &&& 0x301 ≠ v &&& 0x301) then s
  else
    let s1 := s.plainWrite (Reg.ethPort p) v
    s1.setFld (Reg.ethPort p) 31 28 (bitsOf w 31 28 &&& bitsOf v 19 16)

/-- PP_CTRL: CELL16 of 0 reads as 1 (DEDUCED, log entry 141). -/
def State.ppCtrlWrite (s : State) (off : Nat) (v : Word) : State :=
  s.plainWrite off (if bitsOf v 13 8 = 0 then setBits v 13 8 1 else v)

/-- A word of the MSI-X table of a function; it takes effect for the next message of its vector (R323). Of Vector Control
only the Mask Bit exists. -/
def State.msixTableWrite (s : State) (f k : Nat) (v : Word) : State :=
  let x := s.func f
  s.setFunc f { x with table := sparseSet (msixDefault k) x.table k (if k % 4 = 3 then v &&& 1 else v) }

/-- A write to the control registers and the host-to-device area of a mailbox; the rest of the 4 KiB ignores writes (R349, R350)
(DEDUCED, log entry 37). -/
def State.mailboxWrite (s : State) (f o : Nat) (v : Word) : State :=
  let key := mbKey f o
  if o < 0x7F0 then s.setReg key v
  else if o = 0x7F0 then
    let s1 := if f = 0 then s.plainWrite Reg.mbH2dCtl v else s.setReg key (s.reg key &&& ~~~(v &&& 4))
    if bitOf v 0 then s1.post f else s1
  else if o = 0xFF0 then
    s.setReg key ((v &&& 0x47FF0000) ||| (if bitOf v 31 then 0 else s.reg key &&& 0x80000000))
  else s

/-- Timebase registers with effects of their own (R332, R337, R340, R343, R344). -/
def State.writeTb (s : State) (off : Nat) (v : Word) : State :=
  if off = Reg.tbCtrl then (s.plainWrite off v).tbCtrlAfter (s.reg off)
  else if off = Reg.tbCmd then s.tbCmdWrite v
  else if off = Reg.tbIncrLo then { s with tb := { s.tb with incrStaged := some v } }
  else if off = Reg.tbIncrHi then s.tbIncrCommit v
  else if off = Reg.tbSlew then s.tbSlewWrite v
  else if off = Reg.tbOffset 0 then s.tbOffsetWrite 0 v
  else if off = Reg.tbOffset 1 then s.tbOffsetWrite 1 v
  else if off = Reg.refCfg 0 then s.refCfgWrite 0 v
  else if off = Reg.refCfg 1 then s.refCfgWrite 1 v
  else if 0x40100 ≤ off ∧ off < 0x40180 ∧ off % 16 = 0 then s.trigCfgWrite ((off - 0x40100) / 16) v
  else if 0x40200 ≤ off ∧ off < 0x40280 ∧ off % 16 = 0 then
    let s1 := s.plainWrite off v
    if bitOf v 7 then s1.capPop ((off - 0x40200) / 16) else s1
  else s.plainWrite off v

/-- Soot registers that stand for the selected rate or trigger (R397, R398, R403). -/
def State.writeSoot (s : State) (off : Nat) (v : Word) : State :=
  let code := s.fld Reg.sootRsel 15 0
  let trig (k : Nat) : State := s.fieldWrite off (wordGet s.soot.trigs k) v fun s w => { s with soot := { s.soot with trigs := wordSet s.soot.trigs k w } }
  if off = Reg.sootRate then
    s.fieldWrite off (s.sootRate code) v fun s w => { s with soot := { s.soot with rates := sparseSet (rateDefault code) s.soot.rates code w } }
  else if off = Reg.sootTcfg then trig (s.fld Reg.sootTsel 5 0 * 16)
  else if Reg.sootTreg 0 ≤ off ∧ off < Reg.sootTreg 8 then trig (s.fld Reg.sootTsel 5 0 * 16 + 1 + (off - Reg.sootTreg 0) / 4)
  else s.plainWrite off v

/-- Queue, Pewter and partition registers (R44, R230, R270, R274, R277). -/
def State.writeQueue (s : State) (off : Nat) (v : Word) : State :=
  if off = Reg.rqSel then s.rqSelWrite v
  else if Reg.rqCtx 0 ≤ off ∧ off < Reg.rqCtx 7 then s.rqStage ((off - Reg.rqCtx 0) / 4) v
  else if off = Reg.rqCtx 7 then s.rqCommit v
  else if off = Reg.pwCtrl then s.pwCtrlWrite v
  else if off = Reg.pwState then s.pwCfgWrite off 0xFFFFFFFF (decide (s.fld Reg.pwCtrl 7 0 ≠ 0)) v
  else if 0x70010 ≤ off ∧ off < 0x70090 ∧ off % 16 = 0 then s.pwCfgWrite off 0x07FFFFFF (s.poolEn ((off - 0x70010) / 16)) v
  else if 0x70010 ≤ off ∧ off < 0x70090 ∧ off % 16 = 4 then s.pwCfgWrite off 0x00FFFFFF (s.poolEn ((off - 0x70014) / 16)) v
  else if off = Reg.winSel then s.winSelWrite v
  else if off = Reg.winLo then s.winLoWrite v
  else if off = Reg.winHi then s.winHiWrite v
  else if off = Reg.ptData then s.ptWrite v
  else if off = Reg.acctSel then s.acctSelWrite v
  else s.plainWrite off v

/-- Peripheral registers (R406, R407, R409, R410, R412). -/
def State.writePeriph (s : State) (off : Nat) (v : Word) : State :=
  if off = Reg.gpioOut then (s.plainWrite off v).gpioSync
  else if off = Reg.i2c0Xfer then s.i2cXferWrite v
  else if Reg.i2c0Buf 0 ≤ off ∧ off < Reg.i2c0Buf 8 then (if s.flag Reg.i2c0Xfer 30 then s else s.plainWrite off v)
  else if off = Reg.uartData then s.uartWrite v
  else if off = Reg.uartCtrl then (s.plainWrite off v).uartPump
  else if off = Reg.spiXfer then s.spiXferWrite v
  else s.plainWrite off v

/-- A 32-bit write to one register of the PF, outside the broadcast windows. -/
def State.writeOne (s : State) (off : Nat) (v : Word) : State :=
  let b := off / 0x10000
  if b = 0 then s
  else if b = 0x02 then
    (if off = Reg.rstGlobal then s.rstGlobalWrite v
     else if off = Reg.rstPart then s.rstPartWrite v
     else if off = Reg.rstBlock then s.rstBlockWrite v
     else s.plainWrite off v)
  else if b = 0x04 then s.writeTb off v
  else if b = 0x05 then s.writeSoot off v
  else if 0x06 ≤ b ∧ b ≤ 0x08 then s.writeQueue off v
  else if b = 0x09 then (if off < 0x91000 then s.mailboxWrite 0 (off - 0x90000) v else s)
  else if b = 0x0A then (if off = Reg.fabCtrl then (s.plainWrite off v).fabCtrlAfter else s.plainWrite off v)
  else if 0x10 ≤ b ∧ b < 0x20 then
    (if off % 0x10000 = 0 then s.lnCtrlWrite (b - 0x10) v
     else if off % 0x10000 = 0x800 then s.lnQselWrite (b - 0x10) v
     else s.plainWrite off v)
  else if 0x20 ≤ b ∧ b < 0x2C ∧ off % 0x10000 = 0x10 then s.smCselWrite (b - 0x20) v
  else if 0x34 ≤ b ∧ b < 0x38 ∧ off % 0x10000 = 0 then s.ppCtrlWrite off v
  else if off = Reg.dramCfg then s.dramCfgWrite v
  else if 0x40 ≤ b ∧ b < 0x48 ∧ off % 0x10000 = 0 then s.mcCtrlWrite (b - 0x40) v
  else if off = Reg.ethPort 0 then s.ethPortWrite 0 v
  else if off = Reg.ethPort 1 then s.ethPortWrite 1 v
  else if off = Reg.ingSsel then s.ingSselWrite v
  else if off = Reg.cgCtrl 0 then s.cgCtrlWrite 0 v
  else if off = Reg.cgCtrl 1 then s.cgCtrlWrite 1 v
  else if 0x540000 ≤ off ∧ off < 0x548000 then s.msixTableWrite 0 ((off - 0x540000) / 4) v
  else if b = 0x58 then s.writePeriph off v
  else s.plainWrite off v

/-- A 32-bit write through the register space of the PF. A broadcast window passes it to the selected units, quarantined Lanterns
excepted; its mask is not broadcast (R98, R210). -/
def State.writePf (s : State) (off : Nat) (v : Word) : State :=
  s.pfReach off <|
    if off = Reg.lnBcastMask ∨ off = Reg.smBcastMask then s.plainWrite off v
    else if 0xF0000 ≤ off ∧ off < 0x100000 then
      (List.range 16).foldl (fun t n => if s.flag Reg.lnBcastMask n && !s.flag (Reg.lnStatus n) 31 then
        t.writeOne (0x100000 + 0x10000 * n + (off - 0xF0000)) v else t) s
    else if 0x2F0000 ≤ off ∧ off < 0x300000 then
      (List.range 12).foldl (fun t n => if s.flag Reg.smBcastMask n then t.writeOne (0x200000 + 0x10000 * n + (off - 0x2F0000)) v else t) s
    else s.writeOne off v

/-- A 32-bit write to a byte offset of a doorbell block (R231). -/
def State.writeDoor (s : State) (d : Door) (o : Nat) (v : Word) : State :=
  match o with
  | 0 => s.doorWrite d (State.sqTail v)
  | 4 => s.doorWrite d (State.cqHead v)
  | 8 => s.doorWrite d (State.irqArmRing v)
  | _ => s

/-- A 32-bit write through VF BAR0: mailbox, MSI-X table, doorbells (R314). -/
def State.writeVf (s : State) (f : FnIx) (off : Nat) (v : Word) : State :=
  if s.fnAnswers f.val = false then s
  else if off < 0x1000 then (if s.blockAnswers Reg.mbH2dCtl then s.mailboxWrite f.val off v else s)
  else if off < 0x1400 then s.msixTableWrite f.val ((off - 0x1000) / 4) v
  else if 0x2000 ≤ off ∧ off < 0x10000 then s.writeDoor (.vf f ((off - 0x2000) / 0x40)) ((off - 0x2000) % 0x40) v
  else s

/-- The doorbell block at an offset of PF BAR2 (R231). -/
def pfDoor (off : Nat) : Door := .pf (Fin.ofNat 16384 (off / 0x1000 * 64 + off % 0x1000 / 0x40))

/-- A 32-bit write at an aligned offset of a BAR. Of configuration space the words that R311 gives are read-only, and the controls that
the model holds have commands of their own (DESIGN CHOICE, log entry 170). -/
def State.writeBar (s : State) (bar : RegBar) (off : Nat) (v : Word) : State :=
  match bar with
  | .pf => if off < 0x4000000 then s.writePf off v else s
  | .vf f => if f.val = 0 then s else s.writeVf f off v
  | .doorbells => if off < 0x100000 then s.writeDoor (pfDoor off) (off % 0x40) v else s
  | .config _ => s

/-- The parts of an access that are performed, as offset and bytes: nothing of a misaligned one, and an 8-bit or 16-bit access within one
word (R12) (DESIGN CHOICE, log entry 29). -/
def accessParts (off : Nat) (size : AccessSize) : List (Nat × Nat) :=
  match size with
  | .b8 => [(off, 1)]
  | .b16 => if off % 4 = 3 then [] else [(off, 2)]
  | .b32 => if off % 4 = 0 then [(off, 4)] else []
  | .b64 => if off % 4 = 0 then [(off, 4), (off + 4, 4)] else []

/-- REGISTER_WRITE: 32-bit writes and the two halves of a 64-bit write, the lower address first; smaller writes are ignored (R12). -/
def execRegisterWrite (bar : RegBar) (off : Nat) (size : AccessSize) (v : Dword) (s : State) : Host.Outcome State Fault Refusal :=
  .next ((accessParts off size).foldl (fun s p => if p.2 = 4 then s.writeBar bar p.1 ((v >>> (8 * (p.1 - off))).setWidth 32) else s) s)

/-! ### Reads -/

/-- A register word after a read of n bytes from byte o of it: RC fields that lie wholly within are cleared (R12, R14). -/
def RegKind.clearRc (k : RegKind) (o n : Nat) (w : Word) : Word :=
  k.fields.foldl (fun r f => if f.acc == .rc && decide (8 * o ≤ f.lo) && decide (f.hi < 8 * (o + n)) then setBits r f.hi f.lo 0 else r) w

/-- A read of n bytes from byte o of the word at an aligned offset: the word that the register presents, and the state with its latch,
advance or take performed and its RC fields cleared; a broadcast read clears nothing (R16). -/
def State.readPf (s : State) (off o n : Nat) : Word × State :=
  if off = Reg.tbTimeNs then (s.tbLatch.tb.latchNs, s.tbLatch)
  else if off = Reg.sootRdata 0 then (listAt 0 s.sootLatch.soot.latched 0, s.sootLatch)
  else if off = Reg.ptData then (s.ptRead.2, s.ptRead.1)
  else if off = Reg.uartData then s.uartTake
  else
    match regKindOf off with
    | some k => (s.peekAny off, s.setReg off (k.clearRc o n (s.reg off)))
    | none => (s.peekAny off, s)

/-- What a VF BAR0 word presents (R314, R349). -/
def State.readVf (s : State) (f : FnIx) (off : Nat) : Word :=
  if off < 0x1000 then
    (if s.blockAnswers Reg.mbH2dCtl = false then 0
     else if off = 0xFF0 then setBits (s.reg (mbKey f.val off)) 5 0 (s.mailbox f.val).notifs.length
     else s.reg (mbKey f.val off))
  else if off < 0x1400 then (s.func f.val).msixWord ((off - 0x1000) / 4)
  else if off < 0x1408 then BitVec.ofNat 32 (bitmap 32 fun i => (s.func f.val).pba.contains ((off - 0x1400) * 8 + i))
  else if 0x2000 ≤ off ∧ off < 0x10000 then s.doorRead (.vf f ((off - 0x2000) / 0x40)) ((off - 0x2000) % 0x40)
  else 0

/-- A word of a function's configuration space: vendor and device, command, revision and class, subsystem (R311), at the places of a
PCI header (PRESUMED, log entry 170). -/
def State.configRead (s : State) (f : Nat) (off : Nat) : Word :=
  if off = 0 then BitVec.ofNat 32 ((if f = 0 then 0x7216 else 0x7217) * 2 ^ 16 + Config.pciVendor.toNat)
  else if off = 4 then setBits (Config.configWord f 1) 2 2 (boolNat (s.func f).busMaster)
  else if off = 8 then BitVec.ofNat 32 (0x120000 * 2 ^ 8 + s.fuses.stepping.toNat)
  else if off = 0x2C then BitVec.ofNat 32 (s.opt 6 2 * 2 ^ 16 + s.opt 4 2)
  else Config.configWord f (off / 4)

/-- n bytes from byte o of the word at an aligned offset of a BAR, as a number, and the state after the read. -/
def State.readBar (s : State) (bar : RegBar) (off o n : Nat) : Nat × State :=
  let cut (w : Word) : Nat := w.toNat / 2 ^ (8 * o) % 2 ^ (8 * n)
  match bar with
  | .pf => if off < 0x4000000 ∧ s.blockAnswers off then (cut (s.readPf off o n).1, (s.readPf off o n).2) else (0, s)
  | .vf f => (cut (s.readVf f off), s)
  | .doorbells => (if off < 0x100000 then cut (s.doorRead (pfDoor off) (off % 0x40)) else 0, s)
  | .config f => (cut (s.configRead f.val off), s)

/-- The function behind a BAR answers (DESIGN CHOICE, log entry 139). -/
def State.barAnswers (s : State) (bar : RegBar) : Bool :=
  match bar with
  | .pf => s.pfAnswers
  | .vf f => f.val != 0 && s.fnAnswers f.val
  | .doorbells => s.pfAnswers
  | .config f => s.fnExists f.val && !(s.func f.val).flr

/-- RC_REGISTER_READ: a read of any register; the answer is what the bus returns, 0 for a part that is not performed. A function that does
not answer returns Unsupported Request. -/
def execRcRegisterRead (bar : RegBar) (off : Nat) (size : AccessSize) (s : State) : Host.Outcome State Fault Refusal :=
  .next <|
    if s.barAnswers bar = false then s
    else
      match (accessParts off size).foldl (fun a p =>
          match a.2.readBar bar (p.1 / 4 * 4) (p.1 % 4) p.2 with
          | (v, s1) => (a.1 + v * 2 ^ (8 * (p.1 - off)), s1)) (0, s) with
      | (v, s1) => { s1 with outs := { s1.outs with busData := BitVec.ofNat 64 v } }

end Sys2Proof.Machine
end

