-- ==== Sys2Proof/Machine/Dispatch.lean ====
section
/-!
DEFINITION. The dispatch: one arm for each command, a direct call of its meaning.
-/

namespace Sys2Proof.Machine

/-- The effect of a command on everything but the queue. -/
def exec (i : Instr) (s : State) : Host.Outcome State Fault Refusal :=
  match i with
  | .registerWrite bar off size v => Sys2Proof.Machine.execRegisterWrite bar off size v s
  | .rcRegisterRead bar off size => Sys2Proof.Machine.execRcRegisterRead bar off size s
  | .fabRateWindow u cycles steps => Sys2Proof.Machine.execFabRateWindow u cycles steps s
  | .ageRingWindow n period => Sys2Proof.Machine.execAgeRingWindow n period s
  | .marginReplan => Sys2Proof.Machine.execMarginReplan s
  | .vddFabUndervoltage mv => Sys2Proof.Machine.execVddFabUndervoltage mv s
  | .sysRefclkStop => Sys2Proof.Machine.execSysRefclkStop s
  | .sysRefclkReturn => Sys2Proof.Machine.execSysRefclkReturn s
  | .safeAutoExit => Sys2Proof.Machine.execSafeAutoExit s
  | .winSelWrite v => Sys2Proof.Machine.execWinSelWrite v s
  | .winLoWrite v => Sys2Proof.Machine.execWinLoWrite v s
  | .winHiWrite v => Sys2Proof.Machine.execWinHiWrite v s
  | .rmoPut src => Sys2Proof.Machine.execRmoPut src s
  | .rmoGet src => Sys2Proof.Machine.execRmoGet src s
  | .rmoAdd32 src => Sys2Proof.Machine.execRmoAdd32 src s
  | .rmoAddf32 src => Sys2Proof.Machine.execRmoAddf32 src s
  | .rmoSwap64 src => Sys2Proof.Machine.execRmoSwap64 src s
  | .rmoCas64 src => Sys2Proof.Machine.execRmoCas64 src s
  | .rmoSignal src => Sys2Proof.Machine.execRmoSignal src s
  | .rmoWait src => Sys2Proof.Machine.execRmoWait src s
  | .rmoFence src => Sys2Proof.Machine.execRmoFence src s
  | .rmoComplete id => Sys2Proof.Machine.execRmoComplete id s
  | .waitRetest da => Sys2Proof.Machine.execWaitRetest da s
  | .waitPoll id => Sys2Proof.Machine.execWaitPoll id s
  | .waitTimeout id => Sys2Proof.Machine.execWaitTimeout id s
  | .ingotEccWriteback x => Sys2Proof.Machine.execIngotEccWriteback x s
  | .crucibleEccWriteback x => Sys2Proof.Machine.execCrucibleEccWriteback x s
  | .arrayStep n arr e => Sys2Proof.Machine.execArrayStep n arr e s
  | .weightBufferSwitch n arr => Sys2Proof.Machine.execWeightBufferSwitch n arr s
  | .accumulatorDrain n arr => Sys2Proof.Machine.execAccumulatorDrain n arr s
  | .arrayReadmit n arr selfTestOk => Sys2Proof.Machine.execArrayReadmit n arr selfTestOk s
  | .lanternReadmit n selfTestOk => Sys2Proof.Machine.execLanternReadmit n selfTestOk s
  | .lnQselClr n v => Sys2Proof.Machine.execLnQselClr n v s
  | .descriptorFetch n q => Sys2Proof.Machine.execDescriptorFetch n q s
  | .descriptorIssue n x => Sys2Proof.Machine.execDescriptorIssue n x s
  | .descriptorComplete n q seq => Sys2Proof.Machine.execDescriptorComplete n q seq s
  | .nopDescriptor n q => Sys2Proof.Machine.execNopDescriptor n q s
  | .ctrlEnd n q => Sys2Proof.Machine.execCtrlEnd n q s
  | .ctrlJump n q => Sys2Proof.Machine.execCtrlJump n q s
  | .ctrlJumpErr n q => Sys2Proof.Machine.execCtrlJumpErr n q s
  | .ctrlLoop n q => Sys2Proof.Machine.execCtrlLoop n q s
  | .loadVuTable n q => Sys2Proof.Machine.execLoadVuTable n q s
  | .loadTaperWeights n q => Sys2Proof.Machine.execLoadTaperWeights n q s
  | .loadOutCodebook n q => Sys2Proof.Machine.execLoadOutCodebook n q s
  | .digFold n q => Sys2Proof.Machine.execDigFold n q s
  | .clipStore n q => Sys2Proof.Machine.execClipStore n q s
  | .clipClr n q => Sys2Proof.Machine.execClipClr n q s
  | .out n q => Sys2Proof.Machine.execOut n q s
  | .sync n q => Sys2Proof.Machine.execSync n q s
  | .mma n q => Sys2Proof.Machine.execMma n q s
  | .spill n q => Sys2Proof.Machine.execSpill n q s
  | .taper n q => Sys2Proof.Machine.execTaper n q s
  | .vuDepthwise n q => Sys2Proof.Machine.execVuDepthwise n q s
  | .vuMaxPool n q => Sys2Proof.Machine.execVuMaxPool n q s
  | .vuAvgPoolPadCounted n q => Sys2Proof.Machine.execVuAvgPoolPadCounted n q s
  | .vuAvgPoolPadNotCounted n q => Sys2Proof.Machine.execVuAvgPoolPadNotCounted n q s
  | .vuSoftmax n q => Sys2Proof.Machine.execVuSoftmax n q s
  | .vuLayerNorm n q => Sys2Proof.Machine.execVuLayerNorm n q s
  | .vuGroupNorm n q => Sys2Proof.Machine.execVuGroupNorm n q s
  | .vuResizeNearest n q => Sys2Proof.Machine.execVuResizeNearest n q s
  | .vuResizeBilinear n q => Sys2Proof.Machine.execVuResizeBilinear n q s
  | .vuStagesOnly n q => Sys2Proof.Machine.execVuStagesOnly n q s
  | .ticketTake n q => Sys2Proof.Machine.execTicketTake n q s
  | .orderedReduction n q => Sys2Proof.Machine.execOrderedReduction n q s
  | .indexRebuildPass n => Sys2Proof.Machine.execIndexRebuildPass n s
  | .bmrWrite p ix => Sys2Proof.Machine.execBmrWrite p ix s
  | .bmrDatagramSend p ix => Sys2Proof.Machine.execBmrDatagramSend p ix s
  | .ethFrameReceive port link frame fcsOk full => Sys2Proof.Machine.execEthFrameReceive port link frame fcsOk full s
  | .gapHoldExpiry e => Sys2Proof.Machine.execGapHoldExpiry e s
  | .auIdleClose e => Sys2Proof.Machine.execAuIdleClose e s
  | .ingSselSnap v => Sys2Proof.Machine.execIngSselSnap v s
  | .ethLinkChange port link up => Sys2Proof.Machine.execEthLinkChange port link up s
  | .pictureStart n info => Sys2Proof.Machine.execPictureStart n info s
  | .pictureComplete n r => Sys2Proof.Machine.execPictureComplete n r s
  | .frameRelease c frame => Sys2Proof.Machine.execFrameRelease c frame s
  | .frameBufferGrant c => Sys2Proof.Machine.execFrameBufferGrant c s
  | .recordedSuspend n => Sys2Proof.Machine.execRecordedSuspend n s
  | .recMinWindow n recRan allRan => Sys2Proof.Machine.execRecMinWindow n recRan allRan s
  | .contextRehome c stateOk => Sys2Proof.Machine.execContextRehome c stateOk s
  | .smCselSnap n v => Sys2Proof.Machine.execSmCselSnap n v s
  | .snapshotObjectEncode n => Sys2Proof.Machine.execSnapshotObjectEncode n s
  | .rqSelWrite v => Sys2Proof.Machine.execRqSelWrite v s
  | .rqCtxStage k v => Sys2Proof.Machine.execRqCtxStage k v s
  | .rqCtx7Commit v => Sys2Proof.Machine.execRqCtx7Commit v s
  | .sqTailDoorbell d v => Sys2Proof.Machine.execSqTailDoorbell d v s
  | .cqHeadDoorbell d v => Sys2Proof.Machine.execCqHeadDoorbell d v s
  | .irqArm d v => Sys2Proof.Machine.execIrqArm d v s
  | .commandFetch d => Sys2Proof.Machine.execCommandFetch d s
  | .commandIssue src => Sys2Proof.Machine.execCommandIssue src s
  | .commandComplete id => Sys2Proof.Machine.execCommandComplete id s
  | .moderationTimeout r => Sys2Proof.Machine.execModerationTimeout r s
  | .nop id => Sys2Proof.Machine.execNop id s
  | .fence id => Sys2Proof.Machine.execFence id s
  | .timestamp id => Sys2Proof.Machine.execTimestamp id s
  | .streamBind id => Sys2Proof.Machine.execStreamBind id s
  | .streamFeed id => Sys2Proof.Machine.execStreamFeed id s
  | .streamUnbind id => Sys2Proof.Machine.execStreamUnbind id s
  | .shape id => Sys2Proof.Machine.execShape id s
  | .run id => Sys2Proof.Machine.execRun id s
  | .runChain id => Sys2Proof.Machine.execRunChain id s
  | .rangeScan id => Sys2Proof.Machine.execRangeScan id s
  | .modelLoad id => Sys2Proof.Machine.execModelLoad id s
  | .modelEvict id => Sys2Proof.Machine.execModelEvict id s
  | .snuff id => Sys2Proof.Machine.execSnuff id s
  | .track x => Sys2Proof.Machine.execTrack x s
  | .trackReset id => Sys2Proof.Machine.execTrackReset id s
  | .snapshot id => Sys2Proof.Machine.execSnapshot id s
  | .copy id => Sys2Proof.Machine.execCopy id s
  | .fill id => Sys2Proof.Machine.execFill id s
  | .poolAlloc id => Sys2Proof.Machine.execPoolAlloc id s
  | .poolFree id => Sys2Proof.Machine.execPoolFree id s
  | .poolShare id => Sys2Proof.Machine.execPoolShare id s
  | .frameChainIssue p ix => Sys2Proof.Machine.execFrameChainIssue p ix s
  | .partWriteShadow id => Sys2Proof.Machine.execPartWriteShadow id s
  | .partSwap id => Sys2Proof.Machine.execPartSwap id s
  | .swapDrainTimeout => Sys2Proof.Machine.execSwapDrainTimeout s
  | .swapDrainEnd loadFault => Sys2Proof.Machine.execSwapDrainEnd loadFault s
  | .shareSet id => Sys2Proof.Machine.execShareSet id s
  | .shadeSet id => Sys2Proof.Machine.execShadeSet id s
  | .runAbort id => Sys2Proof.Machine.execRunAbort id s
  | .gangReform p entry n => Sys2Proof.Machine.execGangReform p entry n s
  | .arbitrationDecision u steps => Sys2Proof.Machine.execArbitrationDecision u steps s
  | .shadeGrant p path => Sys2Proof.Machine.execShadeGrant p path s
  | .ptDataWrite v => Sys2Proof.Machine.execPtDataWrite v s
  | .ptDataRead => Sys2Proof.Machine.execPtDataRead s
  | .acctSelSnap v => Sys2Proof.Machine.execAcctSelSnap v s
  | .poolEnable k => Sys2Proof.Machine.execPoolEnable k s
  | .poolDisable k => Sys2Proof.Machine.execPoolDisable k s
  | .poolStateInitDone k => Sys2Proof.Machine.execPoolStateInitDone k s
  | .channelCommandSlot n c arrivals ev => Sys2Proof.Machine.execChannelCommandSlot n c arrivals ev s
  | .refresh n c => Sys2Proof.Machine.execRefresh n c s
  | .mr4Poll n c0 c1 c2 c3 => Sys2Proof.Machine.execMr4Poll n c0 c1 c2 c3 s
  | .pageIdleClose n c bank => Sys2Proof.Machine.execPageIdleClose n c bank s
  | .marginScanStep n c lane dir passed => Sys2Proof.Machine.execMarginScanStep n c lane dir passed s
  | .delayPlanSave => Sys2Proof.Machine.execDelayPlanSave s
  | .patrolRead n c ev => Sys2Proof.Machine.execPatrolRead n c ev s
  | .controllerFailure n kind => Sys2Proof.Machine.execControllerFailure n kind s
  | .pcieLinkUp speed width flit => Sys2Proof.Machine.execPcieLinkUp speed width flit s
  | .pcieLinkLost => Sys2Proof.Machine.execPcieLinkLost s
  | .perst => Sys2Proof.Machine.execPerst s
  | .hotReset => Sys2Proof.Machine.execHotReset s
  | .flr f => Sys2Proof.Machine.execFlr f s
  | .flrComplete f => Sys2Proof.Machine.execFlrComplete f s
  | .bar4Read off len => Sys2Proof.Machine.execBar4Read off len s
  | .bar4Write off bytes => Sys2Proof.Machine.execBar4Write off bytes s
  | .completionTimeout id => Sys2Proof.Machine.execCompletionTimeout id s
  | .powerStateChange d3 => Sys2Proof.Machine.execPowerStateChange d3 s
  | .vfEnable enable mse num => Sys2Proof.Machine.execVfEnable enable mse num s
  | .msixPendingSend f vec => Sys2Proof.Machine.execMsixPendingSend f vec s
  | .tbTick => Sys2Proof.Machine.execTbTick s
  | .tbSet => Sys2Proof.Machine.execTbSet s
  | .tbStep => Sys2Proof.Machine.execTbStep s
  | .tbTimeLatch => Sys2Proof.Machine.execTbTimeLatch s
  | .tbIncrCommit v => Sys2Proof.Machine.execTbIncrCommit v s
  | .tbSlewWrite v => Sys2Proof.Machine.execTbSlewWrite v s
  | .offsetSample r theta => Sys2Proof.Machine.execOffsetSample r theta s
  | .ppsEdge r => Sys2Proof.Machine.execPpsEdge r s
  | .refMeasurement r dev => Sys2Proof.Machine.execRefMeasurement r dev s
  | .refFailTimeout r => Sys2Proof.Machine.execRefFailTimeout r s
  | .refCfgWrite r v => Sys2Proof.Machine.execRefCfgWrite r v s
  | .trigArm k v => Sys2Proof.Machine.execTrigArm k v s
  | .triggerFire k => Sys2Proof.Machine.execTriggerFire k s
  | .captureEdge k falling => Sys2Proof.Machine.execCaptureEdge k falling s
  | .capPop k => Sys2Proof.Machine.execCapPop k s
  | .controlCycleInterrupt => Sys2Proof.Machine.execControlCycleInterrupt s
  | .mbPost f => Sys2Proof.Machine.execMbPost f s
  | .mbRequestCopy f => Sys2Proof.Machine.execMbRequestCopy f s
  | .mbResponseWrite f => Sys2Proof.Machine.execMbResponseWrite f s
  | .mbRelease f => Sys2Proof.Machine.execMbRelease f s
  | .getInfo f => Sys2Proof.Machine.execGetInfo f s
  | .getTable f => Sys2Proof.Machine.execGetTable f s
  | .poolInfo f => Sys2Proof.Machine.execPoolInfo f s
  | .ringCtx f => Sys2Proof.Machine.execRingCtx f s
  | .streamStats f => Sys2Proof.Machine.execStreamStats f s
  | .acct f => Sys2Proof.Machine.execAcct f s
  | .netCfg f => Sys2Proof.Machine.execNetCfg f s
  | .mcast f => Sys2Proof.Machine.execMcast f s
  | .excRead f => Sys2Proof.Machine.execExcRead f s
  | .ptpCfg f => Sys2Proof.Machine.execPtpCfg f s
  | .updateBegin f => Sys2Proof.Machine.execUpdateBegin f s
  | .updateData f => Sys2Proof.Machine.execUpdateData f s
  | .updateCommit f => Sys2Proof.Machine.execUpdateCommit f s
  | .updateActivate f => Sys2Proof.Machine.execUpdateActivate f s
  | .handoverResume accepted => Sys2Proof.Machine.execHandoverResume accepted s
  | .logRead f => Sys2Proof.Machine.execLogRead f s
  | .powerSet f => Sys2Proof.Machine.execPowerSet f s
  | .thermalSet f => Sys2Proof.Machine.execThermalSet f s
  | .sensors f => Sys2Proof.Machine.execSensors f s
  | .slotConfirmed => Sys2Proof.Machine.execSlotConfirmed s
  | .avsCycle vout => Sys2Proof.Machine.execAvsCycle vout s
  | .powerWindow watts => Sys2Proof.Machine.execPowerWindow watts s
  | .thermalLoop tj => Sys2Proof.Machine.execThermalLoop tj s
  | .fanLoop tj inlet tach0 tach1 => Sys2Proof.Machine.execFanLoop tj inlet tach0 tach1 s
  | .troubleLogFlush => Sys2Proof.Machine.execTroubleLogFlush s
  | .powerOnReset => Sys2Proof.Machine.execPowerOnReset s
  | .ozmelReady => Sys2Proof.Machine.execOzmelReady s
  | .warmReset cause => Sys2Proof.Machine.execWarmReset cause s
  | .rstGlobal v => Sys2Proof.Machine.execRstGlobal v s
  | .rstPart v => Sys2Proof.Machine.execRstPart v s
  | .rstBlock v => Sys2Proof.Machine.execRstBlock v s
  | .thermalTrip tj => Sys2Proof.Machine.execThermalTrip tj s
  | .thermalTripRelease tj => Sys2Proof.Machine.execThermalTripRelease tj s
  | .watchdogExpiry => Sys2Proof.Machine.execWatchdogExpiry s
  | .startTimeout => Sys2Proof.Machine.execStartTimeout s
  | .domainPowerUp d => Sys2Proof.Machine.execDomainPowerUp d s
  | .domainPowerDown d retain => Sys2Proof.Machine.execDomainPowerDown d retain s
  | .arrayIdleGate n u => Sys2Proof.Machine.execArrayIdleGate n u s
  | .lanternPark n => Sys2Proof.Machine.execLanternPark n s
  | .lanternUnpark n => Sys2Proof.Machine.execLanternUnpark n s
  | .sootRecordWrite => Sys2Proof.Machine.execSootRecordWrite s
  | .sootRdataLatch => Sys2Proof.Machine.execSootRdataLatch s
  | .cagePresenceChange c present => Sys2Proof.Machine.execCagePresenceChange c present s
  | .cageButtonPress c => Sys2Proof.Machine.execCageButtonPress c s
  | .cagePwrEnWrite c v => Sys2Proof.Machine.execCagePwrEnWrite c v s
  | .cagePowerFault c => Sys2Proof.Machine.execCagePowerFault c s
  | .pwrGoodTimeout c => Sys2Proof.Machine.execPwrGoodTimeout c s
  | .moduleResetRelease c => Sys2Proof.Machine.execModuleResetRelease c s
  | .moduleIntChange c low => Sys2Proof.Machine.execModuleIntChange c low s
  | .i2c0XferGo v => Sys2Proof.Machine.execI2c0XferGo v s
  | .i2c0XferEnd e => Sys2Proof.Machine.execI2c0XferEnd e s
  | .smbusReadByte cmd => Sys2Proof.Machine.execSmbusReadByte cmd s
  | .gpioInputChange pin level => Sys2Proof.Machine.execGpioInputChange pin level s
  | .uartDataWrite v => Sys2Proof.Machine.execUartDataWrite v s
  | .uartDataRead => Sys2Proof.Machine.execUartDataRead s
  | .uartCharacterReceive samples => Sys2Proof.Machine.execUartCharacterReceive samples s
  | .uartCharacterSent => Sys2Proof.Machine.execUartCharacterSent s
  | .spiXferGo v => Sys2Proof.Machine.execSpiXferGo v s
  | .spiXferEnd read => Sys2Proof.Machine.execSpiXferEnd read s
  | .jtagInstruction x => Sys2Proof.Machine.execJtagInstruction x s
  | .cagePwrGood c => Sys2Proof.Machine.execCagePwrGood c s
  | .perstNRelease => Sys2Proof.Machine.execPerstNRelease s
  | .configSpaceWrite f item => Sys2Proof.Machine.execConfigSpaceWrite f item s
  | .hostReadCompletion id bytes => Sys2Proof.Machine.execHostReadCompletion id bytes s
  | .smelterReadmit n selfTestOk => Sys2Proof.Machine.execSmelterReadmit n selfTestOk s
  | .crucibleBankReadmit k selfTestOk => Sys2Proof.Machine.execCrucibleBankReadmit k selfTestOk s
  | .scrubComplete u => Sys2Proof.Machine.execScrubComplete u s
  | .exceptionFrameHandle => Sys2Proof.Machine.execExceptionFrameHandle s

end Sys2Proof.Machine
end

