-- ==== Sys2Proof/Safety.lean ====
section
/-!
DEFINITION. What counts as a safe step, in the terms that the statements use.
-/

namespace Sys2Proof.Machine

/-- A command runs on a state: it answers a next state, with neither a fault nor a refusal. -/
def Runs (i : Instr) (s : State) : Prop := ∃ t, exec i s = .next t

/-- A step is safe: the block goes on. -/
def SafeStep (s : State) : Prop := ∃ t, step s = .next t

/-- The register file is in its canonical form: offsets strictly rising, no entry equal to the register's reset word. -/
def State.regsWf (s : State) : Bool :=
  decide (s.regs.Pairwise fun x y => x.1 < y.1) && s.regs.all fun e => decide (e.2 ≠ resetWord e.1)

/-- The keys of a sparse table stand in strictly rising order. -/
abbrev Ordered {α : Type} (t : List (Nat × α)) : Prop := t.Pairwise fun x y => x.1 < y.1

/-- The sparse tables of the units are in order, so that an entry just written is the one that is read. -/
abbrev State.TablesOrdered (s : State) : Prop :=
  Ordered s.parts ∧ Ordered s.rings ∧ Ordered s.bufs ∧ Ordered s.credits ∧ Ordered s.arbs ∧ Ordered s.banks ∧ Ordered s.ingots ∧
  Ordered s.lanterns ∧ Ordered s.smelters ∧ Ordered s.quads

/-- The timebase has its two references, eight triggers and eight captures, and there are two cages (R336, R343, R344, R405). -/
abbrev SizesFixed (tb : Timebase) (p : Periph) : Prop :=
  tb.refs.length = 2 ∧ tb.trigs.length = 8 ∧ tb.caps.length = 8 ∧ p.cgReleased.length = 2

/-- The memories and the register file are in their canonical forms, the sparse tables in order, and the lists of units complete. -/
structure State.Canonical (s : State) : Prop where
  mem : Memory.wf s = true
  regs : s.regsWf = true
  tabs : s.TablesOrdered
  sizes : SizesFixed s.tb s.periph

/-- A register access of the PF reaches the block at an offset: the block answers in the present state, and the PF does (R321, R325). -/
abbrev State.PfReaches (s : State) (off : Nat) : Prop := s.blockAnswers off = true ∧ s.pfAnswers = true

/-- A command in flight that its engine can take up: issued, with an opcode (R235, R240). -/
abbrev State.Issued (s : State) (c : Cmd) (op : Nat) : Prop := s.cmd? c.id = some c ∧ c.phase = .issued ∧ c.opcode = op

/-- A management command whose turn it is at Ozmel (R249). -/
abbrev State.MgmtIssued (s : State) (c : Cmd) (op : Nat) : Prop := s.Issued c op ∧ s.mgmtTurn c = true

/-- Every register outside a list of offsets reads as before. -/
def SameRegs (s t : State) (offs : List Nat) : Prop := ∀ off, off ∉ offs → t.reg off = s.reg off

/-- Every byte of device memory outside a range reads as before. -/
def SameMemBut (s t : State) (da len : Nat) : Prop := ∀ a, (a < da ∨ da + len ≤ a) → t.memByte a = s.memByte a

/-- A context in which the descriptors of a number have ended with a status. -/
def SeqCtx.withDone (c : SeqCtx) (seq : Nat) (st : Status) : SeqCtx :=
  { c with issued := c.issued.map fun d => if d.seq = seq then { d with done := some st, rmo := none } else d }

/-- The context q of Lantern n, which was otherwise in s, is x, and nothing else of the block has changed. -/
def State.CtxBecomes (t s : State) (n q : Nat) (x : SeqCtx) : Prop :=
  t.ctx n q = x ∧ (∀ r, r ≠ q → t.ctx n r = s.ctx n r) ∧ (∀ m, m ≠ n → t.lantern m = s.lantern m) ∧
  t.lantern n = { s.lantern n with ctxs := (t.lantern n).ctxs } ∧ t = { s with lanterns := t.lanterns }

/-- The first k rows of a compute descriptor without a SYNC state, from s on: each is computed in the state that the rows before it left
and goes out through the OUT pipeline, and none fails. -/
def RowsOut (n q seq : Nat) (j : RowJob) (s : State) : Nat → State → Prop
  | 0, t => t = s
  | k + 1, t => ∃ u es, RowsOut n q seq j s k u ∧ j.row u k = .ok es ∧ (emitElems j.env es u).err = none ∧
      t = (emitElems j.env es u).s.updDesc n q seq fun d =>
        { d with prog := d.prog + 1, codes := d.codes ++ (emitElems j.env es u).codes }

/-- k tiles of an MMA, from s to t, none failing: each is the first that is open of the unit in progress, it may begin, and it is computed and
drained. -/
def TilesOut (n q p seq : Nat) : Nat → State → State → Prop
  | 0, s, t => t = s
  | k + 1, s, t => ∃ d u i rest v e, s.descNow n q seq = some d ∧ d.done = none ∧ mmaUnitOf d = some u ∧ s.arraysOf n d ≠ [] ∧
      tilesOpen d u = i :: rest ∧ s.tileReady n q p d u i = (v, some e) ∧ TilesOut n q p seq k (v.tileDo n q p e u i) t

/-- k blocks of an ordered reduction over the partials at a, from s to t: each is the first still open, and its rows may be written. -/
def BlocksOut (n q p seq a total : Nat) : Nat → State → State → Prop
  | 0, s, t => t = s
  | k + 1, s, t => ∃ d i rest v, s.descNow n q seq = some d ∧ d.done = none ∧ blocksOpen d = i :: rest ∧
      s.syncGate n q d p (mmaGeo d.cap) true (tileLastRow d.cap (blockBox d.cap i)) = (v, true) ∧
      BlocksOut n q p seq a total k (v.reduceBlock n q p d a total i) t

/-- t follows s at the end of a swap r without images to load: the tables of its partitions are the shadow ones, and OK is reported (R258). -/
def SwapDone (r : SwapReq) (s t : State) : Prop :=
  t.swap.current = none ∧ (∀ p < 64, (t.part p).active = if r.mask.toNat.testBit p then (s.part p).shadow else (s.part p).active) ∧
  (∀ p < 64, (t.part p).shadow = (s.part p).shadow) ∧ t.fld Reg.pswapStatus 31 28 = 0 ∧ t.fld Reg.pswapStatus 23 16 = 0 ∧
  t.fld Reg.pswapStatus 15 0 = min 0xFFFF ((s.nowNs - r.arrived) / 1000) ∧ t.host = s.host ∧ t.flash = s.flash ∧ t.tb = s.tb

/-- The mailboxes are served, and a request r of a message stands at the front of the function's requests, before t (R350). -/
abbrev State.Asks (s : State) (f id : Nat) (r : List Byte) (t : List (List Byte)) : Prop :=
  s.mbServed = true ∧ (s.mailbox f).requests = r :: t ∧ fieldAt r 4 2 = id

/-- The state in which a function's requests are t. -/
def State.withRequests (s : State) (f : Nat) (t : List (List Byte)) : State := s.setMailbox f { s.mailbox f with requests := t }

end Sys2Proof.Machine
end

