-- ==== Sys2Proof/WellFormed.lean ====
section
/-!
DEFINITION. The shape that a command's operands have on the wires and buses they stand for (log entry 1).
-/

namespace Sys2Proof

/-- Bytes of a register access (R12). -/
def AccessSize.bytes : AccessSize → Nat
  | .b8 => 1
  | .b16 => 2
  | .b32 => 4
  | .b64 => 8

/-- Link widths (PE_STATUS.WIDTH). -/
def linkWidths : List Nat := [1, 2, 4, 8, 16]

/-- Sizes of BAR4 in GiB: a power of two from 1 to 128 (R313). -/
def bar4Sizes : List Nat := [1, 2, 4, 8, 16, 32, 64, 128]

/-- A doorbell block of a VF is one of 896 (R314). -/
def Door.ok : Door → Bool
  | .pf _ => true
  | .vf _ v => decide (v < 896)

/-- A configuration write carries a size that BAR4 can have. -/
def ConfigItem.ok : ConfigItem → Bool
  | .bar4Size g => bar4Sizes.contains g
  | _ => true

/-- A command that the device can meet. -/
def WellFormed (i : Instr) : Bool :=
  match i with
  | .registerWrite _ _ size v => decide (v.toNat < 2 ^ (8 * size.bytes))
  | .fabRateWindow _ cycles steps => decide (cycles ≤ 0xFFFF) && decide (steps ≤ cycles)
  | .sqTailDoorbell d _ => d.ok
  | .cqHeadDoorbell d _ => d.ok
  | .irqArm d _ => d.ok
  | .pcieLinkUp speed width _ => decide (speed.val ≠ 0) && linkWidths.contains width
  | .bar4Read _ len => decide (len ≠ 0)
  | .bar4Write _ bytes => decide (bytes ≠ [])
  | .vfEnable _ _ num => decide (num ≤ 255)
  | .configSpaceWrite _ item => item.ok
  | .i2c0XferEnd (.done read) => decide (read.length ≤ 32)
  | .spiXferEnd read => decide (read.length ≤ 64)
  | .recMinWindow _ recRan allRan => decide (recRan ≤ allRan)
  | _ => true

end Sys2Proof
end

