-- ==== Sys2Proof/Certificates/Slice0/Obligations.lean ====
section
/-!
DEFINITION. What is claimed of the block: one statement per family of commands and kind of state, and the invariants of every step.
-/

open Sys2Proof Sys2Proof.Machine

/-- The commands that wait are taken first in, first out: a step takes the front command and performs it on the state whose queue is the
rest. On an empty queue the block idles (log entry 9). -/
def Obligations.StepRunsFrontCommand : Prop :=
  (∀ (s : State) (c : Instr) (rest : List Instr), s.pending = c :: rest → step s = exec c { s with pending := rest }) ∧
  (∀ s : State, s.pending = [] → step s = .next s)

/-- The state after reset is canonical: its memories and register file are in the one form that the model gives equal contents, and its
tables are in order and its lists of units complete (the form is the model's own way to hold equal contents as equal data). -/
def Obligations.ResetIsCanonical : Prop := State.reset.Canonical ∧ State.reset.regsWf = true ∧ Memory.wf State.reset = true

/-- From every canonical state, whatever command stands in front, a step that goes on gives a canonical state: equal memories stay equal
data, no register entry equals its reset word, the tables stay in order, and the timebase and the cages keep their units (the form is the
model's own). -/
def Obligations.StepKeepsCanonical : Prop := ∀ s t : State, s.Canonical → step s = .next t → t.Canonical

/-- Every command that the device can meet completes, whatever the state: no data, mode or missing resource ends a run. Only a JTAG debug
instruction stops, and only while DBG_EN opens the debug unit, which the spec does not describe (R414). No command changes the fuses or the
queue, and the supply of free values is never used twice (log entry 2). Three commands are ill-formed for operands that the wires cannot
carry (log entry 1). -/
def Obligations.EveryCommandCompletes : Prop :=
  (∀ (s : State) (c : Instr), WellFormed c = true → ¬ (c = .jtagInstruction .debug ∧ s.flag Reg.dbgCtrl 0 = true) →
    ∃ t, exec c s = .next t ∧ t.pending = s.pending ∧ t.fuses = s.fuses ∧ s.freeCtr ≤ t.freeCtr) ∧
  (∀ (s : State) (c : Instr), (∀ t, exec c s ≠ .next t) → exec c s = .refused .debugUnit ∨ exec c s = .fault .illFormed ∧ WellFormed c = false)

/-- R24, R33, R98, R170, R195, R286, R301, R307, R346, R403, R405, R407, R410: the registers whose reset word is not 0 hold it after reset,
and the others named here read 0; every domain is off, the counter 0 (R330), the queue empty, and device memory reads 0 (log entry 5). -/
def Obligations.ResetValues : Prop :=
  (∀ x ∈ [(Reg.fabCtrl, 3), (Reg.tbCtrl, 0x000A00A0), (Reg.tbIncrHi, 2), (Reg.tbServo, 0xC841), (Reg.tbServo2, 0x006403E8), (Reg.tbSlewRate, 0x64),
      (Reg.refTol, 0x32), (Reg.sootCtrl, 1), (Reg.rstCause, 1), (Reg.pswapCtrl, 0x3E8), (Reg.ingCtrl, 2), (Reg.lnBcastMask, 0xFFFF),
      (Reg.smBcastMask, 0xFFF), (Reg.pdAuto, 0x00010064), (Reg.i2c0Xfer, 0x02000000), (Reg.uartBaud, 0x28B), (Reg.uartCtrl, 3)],
    State.reset.reg x.1 = BitVec.ofNat 32 x.2) ∧
  (∀ c < 2, State.reset.reg (Reg.cgCtrl c) = 0x100 ∧ State.reset.reg (Reg.ethPort c) = 0x100) ∧
  (∀ n < 8, State.reset.reg (Reg.mcCtrl n) = 0x00780006 ∧ State.reset.reg (Reg.mcAge n) = 0x20401004 ∧ State.reset.reg (Reg.mcScan n) = 0x0006003C) ∧
  (∀ n < 12, State.reset.reg (Reg.smCtrl n) = 0xA00) ∧ (∀ n < 4, State.reset.reg (Reg.ppCtrl n) = 0x403) ∧
  (∀ o ∈ [Reg.tbFreq, Reg.sootDrop, Reg.sootHead, Reg.errStatus, Reg.gpioOut, Reg.uartStat, Reg.spiXfer, Reg.peStatus, Reg.dramStatus, Reg.pwCtrl],
    State.reset.reg o = 0) ∧
  (∀ d < 120, State.reset.domState d = 0) ∧ (∀ a, State.reset.memByte a = 0) ∧
  State.reset.cmds = [] ∧ State.reset.pending = [] ∧ State.reset.tb.sec = 0 ∧ State.reset.tb.sub = 0

/-- R13, R14, R15: a 32-bit write to a register of the Global, power-domain, Shaper, snapshot-encoder or endpoint block, bit by bit: RW bits
and unlocked RWL bits take the written value, a 1 clears a W1C bit, and every other bit (RO, WO, RC, reserved, locked RWL) stays. A write
that carries another value for a locked RWL field sets ERR_STATUS.LOCK_VIOL; nothing but Soot is touched otherwise. A write at the offset of
a register whose write is a command of its own is that command. -/
def Obligations.RegisterWriteFollowsAccessCodes : Prop :=
  (∀ (s : State) (off : Nat) (v : Word) (k : RegKind), s.Canonical → off % 4 = 0 →
    off / 0x10000 ∈ [0x01, 0x03, 0x30, 0x31, 0x32, 0x33, 0x38, 0x50] → regKindOf off = some k → s.PfReaches off →
    ∃ t, exec (.registerWrite .pf off .b32 (v.setWidth 64)) s = .next t ∧
      (∀ f ∈ k.fields, ∀ i, f.lo ≤ i → i ≤ f.hi → t.flag off i = match f.acc with
        | .rw => bitOf v i
        | .rwl => if s.lockedKind k then s.flag off i else bitOf v i
        | .w1c => s.flag off i && !bitOf v i
        | _ => s.flag off i) ∧
      (∀ i, (∀ f ∈ k.fields, i < f.lo ∨ f.hi < i) → t.flag off i = s.flag off i) ∧
      (k.violates (s.lockedKind k) (s.reg off) v = false → t = { s with regs := t.regs } ∧ SameRegs s t [off]) ∧
      (k.violates (s.lockedKind k) (s.reg off) v = true → t.flag Reg.errStatus 0 = true ∧
        t = { s with regs := t.regs, soot := t.soot, freeCtr := t.freeCtr } ∧ SameRegs s t [off, Reg.errStatus, Reg.sootDrop])) ∧
  (∀ (s : State) (v : Word) (off : Nat) (c : Instr),
    (off, c) ∈ [(Reg.winSel, .winSelWrite v), (Reg.winLo, .winLoWrite v), (Reg.winHi, .winHiWrite v), (Reg.ptData, .ptDataWrite v),
      (Reg.rqSel, .rqSelWrite v), (Reg.rqCtx 7, .rqCtx7Commit v), (Reg.tbIncrHi, .tbIncrCommit v), (Reg.tbSlew, .tbSlewWrite v),
      (Reg.refCfg 0, .refCfgWrite 0 v), (Reg.refCfg 1, .refCfgWrite 1 v), (Reg.rstGlobal, .rstGlobal v), (Reg.rstPart, .rstPart v),
      (Reg.rstBlock, .rstBlock v), (Reg.uartData, .uartDataWrite v)] →
    exec (.registerWrite .pf off .b32 (v.setWidth 64)) s = exec c s)

/-- R12, R14: what an access of each size does. 8-bit and 16-bit writes are ignored; a 64-bit write at a multiple of 4 is the lower 32-bit
write and then the upper one; a misaligned access writes nothing and reads 0. A read of 1, 2 or 4 bytes within one word returns those bytes
of what the register presents, and clears exactly the RC fields that lie wholly within them; a 64-bit read is two such reads. A read of
configuration space presents the device ID, the class with the stepping, and the subsystem IDs of R311 (their places: log entry 170). -/
def Obligations.AccessSizesAndAlignment : Prop :=
  ∀ s : State, s.Canonical →
    (∀ bar off v, exec (.registerWrite bar off .b8 v) s = .next s ∧ exec (.registerWrite bar off .b16 v) s = .next s ∧
      (off % 4 ≠ 0 → exec (.registerWrite bar off .b32 v) s = .next s ∧ exec (.registerWrite bar off .b64 v) s = .next s) ∧
      (off % 4 = 0 → ∃ t, exec (.registerWrite bar off .b32 v) s = .next t ∧
        exec (.registerWrite bar off .b64 v) s = exec (.registerWrite bar (off + 4) .b32 (v >>> 32)) t)) ∧
    (∀ bar off, s.barAnswers bar = true →
      (off % 4 ≠ 0 → exec (.rcRegisterRead bar off .b32) s = .next { s with outs := { s.outs with busData := 0 } } ∧
        exec (.rcRegisterRead bar off .b64) s = .next { s with outs := { s.outs with busData := 0 } }) ∧
      (off % 4 = 3 → exec (.rcRegisterRead bar off .b16) s = .next { s with outs := { s.outs with busData := 0 } })) ∧
    (∀ off k size n, s.PfReaches off → off < 0x4000000 → regKindOf (off / 4 * 4) = some k →
      off / 4 * 4 ∉ [Reg.tbTimeNs, Reg.sootRdata 0, Reg.ptData, Reg.uartData] →
      (size, n) ∈ [(AccessSize.b8, 1), (.b16, 2), (.b32, 4)] → off % 4 + n ≤ 4 →
      let w := off / 4 * 4
      let i := off % 4
      ∃ t, exec (.rcRegisterRead .pf off size) s = .next t ∧
        t.outs.busData.toNat = (s.peekAny w).toNat / 2 ^ (8 * i) % 2 ^ (8 * n) ∧
        (∀ f ∈ k.fields, ∀ b, f.lo ≤ b → b ≤ f.hi →
          t.flag w b = if f.acc = .rc ∧ 8 * i ≤ f.lo ∧ f.hi < 8 * (i + n) then false else s.flag w b) ∧
        (∀ b, (∀ f ∈ k.fields, b < f.lo ∨ f.hi < b) → t.flag w b = s.flag w b) ∧
        t = { s with regs := t.regs, outs := { s.outs with busData := t.outs.busData } } ∧ SameRegs s t [w]) ∧
    (∀ off k k', s.PfReaches off → s.PfReaches (off + 4) → off % 4 = 0 → off + 4 < 0x4000000 →
      regKindOf off = some k → regKindOf (off + 4) = some k' →
      off ∉ [Reg.tbTimeNs, Reg.sootRdata 0, Reg.ptData, Reg.uartData] → off + 4 ∉ [Reg.tbTimeNs, Reg.sootRdata 0, Reg.ptData, Reg.uartData] →
      let s1 := s.setReg off (k.clearRc 0 4 (s.reg off))
      exec (.rcRegisterRead .pf off .b64) s = .next { s1.setReg (off + 4) (k'.clearRc 0 4 (s1.reg (off + 4))) with
        outs := { s.outs with busData := BitVec.ofNat 64 ((s.peekAny off).toNat + (s1.peekAny (off + 4)).toNat * 2 ^ 32) } }) ∧
    (∀ (f : FnIx) off size n, f.val ≠ 0 → s.fnAnswers f.val = true → (size, n) ∈ [(AccessSize.b8, 1), (.b16, 2), (.b32, 4)] → off % 4 + n ≤ 4 →
      exec (.rcRegisterRead (.vf f) off size) s = .next { s with outs := { s.outs with
        busData := BitVec.ofNat 64 ((s.readVf f (off / 4 * 4)).toNat / 2 ^ (8 * (off % 4)) % 2 ^ (8 * n)) } }) ∧
    (∀ f : FnIx, s.barAnswers (.config f) = true →
      (∃ t, exec (.rcRegisterRead (.config f) 0 .b32) s = .next t ∧ t = { s with outs := { s.outs with busData := t.outs.busData } } ∧
        t.outs.busData.toNat / 2 ^ 16 = if f.val = 0 then 0x7216 else 0x7217) ∧
      exec (.rcRegisterRead (.config f) 8 .b32) s =
        .next { s with outs := { s.outs with busData := BitVec.ofNat 64 (0x12000000 + s.fuses.stepping.toNat) } } ∧
      exec (.rcRegisterRead (.config f) 0x2C .b32) s =
        .next { s with outs := { s.outs with busData := BitVec.ofNat 64 (s.opt 6 2 * 2 ^ 16 + s.opt 4 2) } })

/-- R44, R274: WIN_SEL selects and discards the staged low word; WIN_LO stages; WIN_HI with SHADOW = 1 commits the staged low word, or the
one that the entry then holds, together with the high word, and uses it up (held for the flip while the partition is swapped, R275); with
SHADOW = 0 it sets WR_REFUSED and leaves the staged word. -/
def Obligations.WindowEntriesCommitInPairs : Prop :=
  ∀ (s : State) (v : Word), s.Canonical →
    (s.PfReaches Reg.winSel → ∃ t, exec (.winSelWrite v) s = .next t ∧ t.winLoStaged = none ∧ t.flag Reg.winSel 31 = bitOf v 31 ∧
      t.fld Reg.winSel 13 8 = bitsOf v 13 8 ∧ t.fld Reg.winSel 5 0 = bitsOf v 5 0 ∧
      t.flag Reg.winSel 30 = (s.flag Reg.winSel 30 && !bitOf v 30) ∧
      t = { s with regs := t.regs, winLoStaged := none } ∧ SameRegs s t [Reg.winSel]) ∧
    (s.PfReaches Reg.winLo → exec (.winLoWrite v) s = .next { s with winLoStaged := some v }) ∧
    (s.PfReaches Reg.winHi →
      let p := s.fld Reg.winSel 13 8
      let e := s.fld Reg.winSel 5 0
      (∀ lo, s.flag Reg.winSel 31 = true → s.swapping p = false →
        (s.winLoStaged = some lo ∨ s.winLoStaged = none ∧ s.swap.held = [] ∧ lo = tableWord (s.part p).shadow 0 (2 * e)) →
        exec (.winHiWrite v) s = .next { (s.putShadow p (tabKey 0 (2 * e)) lo).putShadow p (tabKey 0 (2 * e + 1)) v with winLoStaged := none }) ∧
      (∀ lo, s.flag Reg.winSel 31 = true → s.swapping p = true → s.winLoStaged = some lo → exec (.winHiWrite v) s = .next { s with
        winLoStaged := none, swap := { s.swap with held := s.swap.held ++ [(p, tabKey 0 (2 * e), lo), (p, tabKey 0 (2 * e + 1), v)] } }) ∧
      (s.flag Reg.winSel 31 = false → ∃ t, exec (.winHiWrite v) s = .next t ∧ t.flag Reg.winSel 30 = true ∧
        (∀ i, i ≠ 30 → t.flag Reg.winSel i = s.flag Reg.winSel i) ∧ t = { s with regs := t.regs } ∧ SameRegs s t [Reg.winSel]))

/-- R251, R274, R275: PT_DATA writes the selected shadow word of tables 1 to 4 within the table's end, held for the flip while the partition
is swapped; any other write sets WR_REFUSED; a read presents the selected word, or 0 beyond the end. WORD advances after every access.
ACCT_SEL with SNAP latches the charged time and the steps of the partition and class that the write names (R270). -/
def Obligations.PartitionPortAccess : Prop :=
  ∀ (s : State) (v : Word), s.Canonical →
    (s.PfReaches Reg.ptData →
      let p := s.fld Reg.ptSel 21 16
      let tb := s.fld Reg.ptSel 26 24
      let w := s.fld Reg.ptSel 8 0
      let ok := s.flag Reg.ptSel 31 = true ∧ 1 ≤ tb ∧ tb ≤ 4 ∧ w < tableWords tb
      (ok → s.swapping p = false → exec (.ptDataWrite v) s = .next ((s.putShadow p (tabKey tb w) v).setFld Reg.ptSel 8 0 (w + 1))) ∧
      (ok → s.swapping p = true → exec (.ptDataWrite v) s =
        .next ({ s with swap := { s.swap with held := s.swap.held ++ [(p, tabKey tb w, v)] } }.setFld Reg.ptSel 8 0 (w + 1))) ∧
      (¬ ok → exec (.ptDataWrite v) s = .next ((s.setFlag Reg.ptSel 30 true).setFld Reg.ptSel 8 0 (w + 1))) ∧
      (∃ t, exec .ptDataRead s = .next t ∧ t.fld Reg.ptSel 8 0 = (w + 1) % 512 ∧ (tableWords tb ≤ w → t.outs.busData = 0) ∧
        (w < tableWords tb → tb ≤ 4 →
          t.outs.busData = (tableWord (if s.flag Reg.ptSel 31 then (s.part p).shadow else (s.part p).active) tb w).setWidth 64) ∧
        t = { s with regs := t.regs, outs := { s.outs with busData := t.outs.busData } } ∧ SameRegs s t [Reg.ptSel])) ∧
    (s.PfReaches Reg.acctSel → bitsOf v 10 8 < 5 → ∃ t, exec (.acctSelSnap v) s = .next t ∧
      let a := listAt (0, 0) (s.part (bitsOf v 5 0)).acct (bitsOf v 10 8)
      t.fld Reg.acctSel 10 8 = bitsOf v 10 8 ∧ t.fld Reg.acctSel 5 0 = bitsOf v 5 0 ∧
      t.fld Reg.acctNsLo 31 0 + 2 ^ 32 * t.fld Reg.acctNsHi 31 0 = a.1 % 2 ^ 64 ∧
      t.fld Reg.acctStepLo 31 0 + 2 ^ 32 * t.fld Reg.acctStepHi 31 0 = a.2 % 2 ^ 64 ∧
      t = { s with regs := t.regs } ∧ SameRegs s t [Reg.acctSel, Reg.acctNsLo, Reg.acctNsHi, Reg.acctStepLo, Reg.acctStepHi])

/-- R30, R31 and the margin re-plan of chapter 2: a 1 µs window of a rate ring that ran throughout it is latched with VALID, the cycles, and
the share used in 0.1 %, cut off or rounded up, and the register then presents it; a 1 ms window of an ageing ring is latched with VALID and
its period; a window that the domain's absence or MON_EN cut reads VALID = 0. A re-plan without faulty rings writes the slowest ring, its
DEGRADE in 0.01 % (free below its BASE, log entry 111) and, with MARGIN_AUTO, the VDD_FAB floor. -/
def Obligations.RingWindowsAndMarginReplan : Prop :=
  ∀ s : State, s.Canonical →
    (∀ (u : RateUnit) (cycles steps : Nat), 0 < cycles → cycles ≤ 0xFFFF → steps ≤ cycles →
      let d := (rateRing u).1
      let off := (rateRing u).2
      ∃ t, exec (.fabRateWindow u cycles steps) s = .next t ∧ (s.ringRuns (some d) = true → d ∉ t.fabric.rateGap) ∧
        (s.ringRuns (some d) = false → d ∈ t.fabric.rateGap) ∧
        (s.flag Reg.fabCtrl 0 = true → s.fabric.refclk = true → s.domOn d = true → d ∉ s.fabric.rateGap →
          t.rateWord d off = t.reg off ∧ t.flag off 31 = true ∧ t.fld off 15 0 = cycles ∧
          (t.fld off 26 16 = steps * 1000 / cycles ∨ steps * 1000 % cycles ≠ 0 ∧ t.fld off 26 16 = steps * 1000 / cycles + 1)) ∧
        (s.domOn d = false ∨ d ∈ s.fabric.rateGap ∨ s.flag Reg.fabCtrl 0 = false → t.rateWord d off = 0) ∧
        t = { s with regs := t.regs, fabric := { s.fabric with rateGap := t.fabric.rateGap } } ∧ SameRegs s t [off]) ∧
    (∀ (n : Fin 48) (period : BitVec 16),
      ∃ t, exec (.ageRingWindow n period) s = .next t ∧ (s.ringRuns (ageDom n) = true → n.val ∉ t.fabric.ageGap) ∧
        (s.ringRuns (ageDom n) = false → n.val ∈ t.fabric.ageGap) ∧
        (s.flag Reg.fabCtrl 0 = true → s.fabric.refclk = true → (∀ d, ageDom n = some d → s.domOn d = true) → n.val ∉ s.fabric.ageGap →
          t.ageWord n = BitVec.ofNat 32 (2 ^ 31 + period.toNat)) ∧
        ((∃ d, ageDom n = some d ∧ s.domOn d = false) ∨ n.val ∈ s.fabric.ageGap ∨ s.flag Reg.fabCtrl 0 = false → t.ageWord n = 0) ∧
        t = { s with regs := t.regs, fabric := { s.fabric with ageGap := t.fabric.ageGap } } ∧ SameRegs s t [Reg.ageRing n]) ∧
    (∀ (n w : Nat), s.ozmel.ready = true → s.ozmel.handover = none → s.flag Reg.fabCtrl 0 = true →
      (∀ k < 48, bitOf (s.ageWord k) 31 = true → s.ringFaulty k = false) →
      (n, w) ∈ s.normRings → (∀ x ∈ s.normRings, x ≠ (n, w) → x.2 < w) →
      let base := bitsOf (s.peek (Reg.ageBase n)) 15 0
      s.fabric.ratedHist.length < 359 →
      ∃ t, exec .marginReplan s = .next t ∧ t.fld Reg.fabAge 23 16 = n ∧
        (0 < base → base ≤ w → t.fld Reg.fabAge 15 0 = min 65535 ((w - base) * 10000 / base) ∧ t.freeCtr = s.freeCtr) ∧
        t.fld Reg.fabRated 31 16 = (if s.flag Reg.fabCtrl 1 then s.floorMv w else s.fld Reg.fabRated 31 16) ∧
        t.fld Reg.fabRated 15 0 = s.fld Reg.fabRated 15 0 ∧
        t.fabric.ratedHist = min 65535 (1000000 / w) :: s.fabric.ratedHist ∧
        t = { s with regs := t.regs, freeCtr := t.freeCtr, fabric := { s.fabric with worstPs := w, ratedHist := t.fabric.ratedHist } } ∧
        SameRegs s t [Reg.fabAge, Reg.fabRated])

/-- R45, R51, R53, R54: a PUT or a GET that may be issued, passes its checks and is let through by the Shades copies its one row of bytes
from source to destination, or into the local buffer of a GET's issuer that has one, and changes no other byte of memory; it takes an entry
with status OK. One that fails a check changes no memory: its entry takes the status and the address goes to Soot. -/
def Obligations.RemoteTransfersCopyAndRefuse : Prop :=
  (∀ (s : State) (k : RmoKind) (c : Instr) (src : RmoSrc) (x : RmoCall) (r : RmoReq) (da db : Nat), s.Canonical →
    (c, k) ∈ [(Instr.rmoPut src, RmoKind.put), (.rmoGet src, .get)] → s.rmoCall k src = some x → x.req = r →
    s.rmoMay x.issuer k r.fence = true → s.rmoCheck x.issuer x.part k r x.det = .pass da db → s.rmoShade x k r da db = (s, true) →
    (k = .put ∨ r.toLocal = false) → r.rows ≤ 1 → s.poison = [] →
    (∀ i < r.len, s.accessStatus (da + i) = .ok ∧ s.accessStatus (db + i) = .ok) → (da + r.len ≤ db ∨ db + r.len ≤ da) →
    ∃ t, exec c s = .next t ∧ (∀ i < r.len, t.memByte (db + i) = s.memByte (da + i)) ∧ SameMemBut s t db r.len ∧
      (∃ e ∈ t.rmos, e.id = s.nextId ∧ e.kind = k ∧ e.issuer = x.issuer ∧ e.done = true ∧ e.status = .ok) ∧
      t = { s with mem := t.mem, rmos := t.rmos, ingots := t.ingots, banks := t.banks, nextId := s.nextId + 1, lanterns := t.lanterns }) ∧
  (∀ (s : State) (src : RmoSrc) (x : RmoCall) (r : RmoReq) (da db : Nat), s.Canonical → s.rmoCall .get src = some x → x.req = r →
    s.rmoMay x.issuer .get r.fence = true → s.rmoCheck x.issuer x.part .get r x.det = .pass da db → s.rmoShade x .get r da db = (s, true) →
    r.toLocal = true → r.rows ≤ 1 → s.poison = [] → (∀ i < r.len, s.accessStatus (da + i) = .ok) →
    ∃ t, exec (.rmoGet src) s = .next t ∧
      (∀ i < r.len, sparseGet memDefault (sparseGet [] t.localBufs (issuerCode x.issuer)) (r.b + i) = s.memByte (da + i)) ∧
      (∃ e ∈ t.rmos, e.id = s.nextId ∧ e.kind = .get ∧ e.issuer = x.issuer ∧ e.done = true ∧ e.status = .ok) ∧
      t = { s with localBufs := t.localBufs, rmos := t.rmos, nextId := s.nextId + 1, lanterns := t.lanterns }) ∧
  (∀ (s : State) (k : RmoKind) (c : Instr) (src : RmoSrc) (x : RmoCall) (r : RmoReq) (st : Status) (a : Nat),
    (c, k) ∈ [(Instr.rmoPut src, RmoKind.put), (.rmoGet src, .get), (.rmoAdd32 src, .add32), (.rmoAddf32 src, .addf32), (.rmoSwap64 src, .swap64),
      (.rmoCas64 src, .cas64), (.rmoSignal src, .signal), (.rmoWait src, .wait)] →
    s.rmoCall k src = some x → x.req = r → s.rmoMay x.issuer k r.fence = true → s.rmoCheck x.issuer x.part k r x.det = .fail st a →
    ∃ t, exec c s = .next t ∧ t.mem = s.mem ∧ t.undef = s.undef ∧
      (∃ e, t.rmos = s.rmos ++ [e] ∧ e.id = s.nextId ∧ e.kind = k ∧ e.done = true ∧ e.status = st) ∧
      t = { s.sootEvent (issuerBlock x.issuer * 256 + 0x20) (BitVec.ofNat 64 a) (some x.part) with rmos := t.rmos, nextId := s.nextId + 1, lanterns := t.lanterns })

/-- R45-R47, R50, R51: the word operations read the old value, write the new one and change no other byte: ADD32 adds modulo 2^32, ADDF32
adds in FP32, SWAP64 writes its value, CAS64 does when the word equals EXP and reports a mismatch, SIGNAL adds or writes. The entry holds
the old value. FENCE takes an entry and changes nothing. -/
def Obligations.RemoteWordOperations : Prop :=
  (∀ (s : State) (k : RmoKind) (c : Instr) (src : RmoSrc) (x : RmoCall) (r : RmoReq) (da db : Nat), s.Canonical →
    (c, k) ∈ [(Instr.rmoAdd32 src, RmoKind.add32), (.rmoAddf32 src, .addf32), (.rmoSwap64 src, .swap64), (.rmoCas64 src, .cas64),
      (.rmoSignal src, .signal)] →
    s.rmoCall k src = some x → x.req = r → s.rmoMay x.issuer k r.fence = true → s.rmoCheck x.issuer x.part k r x.det = .pass da db →
    s.rmoShade x k r da db = (s, true) → r.ret = false → s.poison = [] → s.accessStatus da = .ok →
    let n := if k = .add32 ∨ k = .addf32 then 4 else 8
    let old := s.readNat da n
    let val := r.val.toNat
    let new := match k with
      | .add32 => (old + val) % 2 ^ 32
      | .addf32 => (f32Add (BitVec.ofNat 32 old) (r.val.setWidth 32)).toNat
      | .cas64 => if old = r.exp.toNat then val else old
      | .signal => if r.cond = 1 then (old + val) % 2 ^ 64 else val
      | _ => val
    ∃ t, exec c s = .next t ∧ t.readNat da n = new ∧ SameMemBut s t da n ∧
      (∃ e ∈ t.rmos, e.id = s.nextId ∧ e.kind = k ∧ e.done = true ∧ e.status = .ok ∧ e.old.toNat = old ∧
        e.detail = if k = .cas64 ∧ old ≠ r.exp.toNat then 1 else 0) ∧
      t = { s with mem := t.mem, rmos := t.rmos, ingots := t.ingots, banks := t.banks, nextId := s.nextId + 1, lanterns := t.lanterns }) ∧
  (∀ (s : State) (src : RmoSrc) (x : RmoCall) (r : RmoReq), s.rmoCall .fence src = some x → x.req = r →
    s.rmoMay x.issuer .fence r.fence = true → s.rmoShade x .fence r 0 0 = (s, true) →
    ∃ t, exec (.rmoFence src) s = .next t ∧
      (∃ e, t.rmos = s.rmos ++ [e] ∧ e.id = s.nextId ∧ e.kind = .fence ∧ e.issuer = x.issuer ∧ e.done = true ∧ e.status = .ok) ∧
      t = { s with rmos := t.rmos, nextId := s.nextId + 1, lanterns := t.lanterns })

/-- R48, R49, R51: a WAIT whose condition holds is done at once; another holds a waiter entry when the table has room, and else polls. A
re-test, a poll and the timeout test the flag: it completes with OK where the condition holds, with UNIT_FAULT or ISOLATED where the word
cannot be read, and at the timeout with TIMEOUT otherwise. The waiters of one word are released in their order. RMO_COMPLETE gives the entry
up, returns a WAIT's flag value and gives a descriptor its status. -/
def Obligations.RemoteWaitsAndCompletion : Prop :=
  (∀ (s : State) (src : RmoSrc) (x : RmoCall) (r : RmoReq) (da db : Nat), s.rmoCall .wait src = some x → x.req = r →
    s.rmoMay x.issuer .wait r.fence = true → s.rmoCheck x.issuer x.part .wait r x.det = .pass da db → s.rmoShade x .wait r da db = (s, true) →
    s.poison = [] → s.accessStatus da = .ok →
    ∃ t, exec (.rmoWait src) s = .next t ∧
      (∃ e, t.rmos = s.rmos ++ [e] ∧ e.id = s.nextId ∧ e.kind = .wait ∧ e.da = da ∧ e.done = waitHolds r.cond (s.flagAt da) r.val ∧
        e.old = s.flagAt da ∧ e.entry = (!e.done && s.waitRoom da)) ∧
      t = { s with rmos := t.rmos, nextId := s.nextId + 1, lanterns := t.lanterns }) ∧
  (∀ (s : State) (r : Rmo),
    let ends : Status → Rmo := fun st => { r with done := true, status := st, old := s.flagAt r.da }
    (s.accessStatus r.da = .ok → s.poisoned r.da 8 = false →
      s.waitTested r = if waitHolds r.req.cond (s.flagAt r.da) r.req.val then ends .ok else r) ∧
    (s.accessStatus r.da = .ok → s.poisoned r.da 8 = true → s.waitTested r = ends .unitFault) ∧
    (s.accessStatus r.da ≠ .ok → s.waitTested r = ends (s.accessStatus r.da))) ∧
  (∀ (s : State) (c : Instr) (meant : Rmo → Bool) (late : Bool),
    (∃ a, c = .waitRetest a ∧ late = false ∧ meant = fun r =>
      r.kind == .wait && !r.done && r.entry && decide (r.da < a / 8 * 8 + 8) && decide (a / 8 * 8 < r.da + 8)) ∨
    (∃ id, c = .waitPoll id ∧ late = false ∧ meant = fun r => r.id == id && r.kind == .wait && !r.done && !r.entry) ∨
    (∃ id, c = .waitTimeout id ∧ late = true ∧ meant = fun r => r.id == id && r.kind == .wait && !r.done && decide (r.req.timeout ≠ 0)) →
    let test : Rmo → Rmo := fun r =>
      let x := s.waitTested r
      if late && !x.done then { r with done := true, old := s.flagAt r.da, status := .timeout } else x
    let u : State := { s with rmos := s.rmos.map fun r => if meant r then test r else r }
    exec c s = .next (u.waitErrors (s.rmos.filter meant)) ∧
    ((∀ r ∈ s.rmos, meant r = true → s.accessStatus r.da ≠ .ok ∨ s.poisoned r.da 8 = false) → u.waitErrors (s.rmos.filter meant) = u)) ∧
  (∀ (s : State) (id : Nat), (∀ r ∈ s.rmos, r.id = id → r.done = false ∨ s.waitTurn r = false) → exec (.rmoComplete id) s = .next s) ∧
  (∀ (s : State) (id : Nat) (r : Rmo), (s.rmos.find? fun r => r.id == id && r.done && s.waitTurn r) = some r →
    let u : State := { s with rmos := s.rmos.filter fun x => x.id != id }
    let v := if r.kind = .wait ∧ (r.status = .ok ∨ r.status = .timeout) ∧ r.req.ret = true then u.storeNat r.db 8 r.old.toNat else u
    (r.desc = none → exec (.rmoComplete id) s = .next v) ∧
    (∀ n q seq, r.desc = some (n, q, seq) → s.syncEntry r = false → exec (.rmoComplete id) s =
      .next ((v.updDesc n q seq fun d => { d with detail := r.detail }).updDesc n q seq fun d => { d with done := some r.status, rmo := none })) ∧
    (∀ n q seq, r.desc = some (n, q, seq) → s.syncEntry r = true → exec (.rmoComplete id) s =
      .next (v.updDesc n q seq fun d => { d with done := (if r.status = .ok then d.done else some r.status), rmo := none })))

/-- R60-R62, R64, R65, R76-R80, R92, R94, R99: a step adds the tree of one pass of the position's weights and activations to every DPU's
accumulator at it, in FP32 or modulo 2^32, and leaves every other position; the position and the pass follow from the number of steps. A
bubble and an array with nothing due do nothing. A failed check disables the array, both arrays for a double fault, and LN_FAULT is valid. A
switch goes to the next pass once the last step has issued, and begins a K block with its first. A drain puts a complete tile through the
OUT pipeline, the sum of A and B under a K-split. -/
def Obligations.ArraysStepSwitchAndDrain : Prop :=
  ∀ (s : State) (n : LnIx) (arr : ArrayId), s.Canonical →
    let a := arrIx arr
    let x := s.arr n a
    ((∀ e ∈ [StepEvent.none, .bubble], s.stepDue n a = none ∨ e = .bubble → exec (.arrayStep n arr e) s = .next s) ∧
      (∀ q d w t u src g, s.stepDue n a = some (q, d, w, t) → mmaUnitOf d = some u →
        let b := tileAt d.cap u w.tile
        let pos := x.steps / mmaP d.cap
        mmaSrc d b = .ok src → s.mmaActGroup (s.ctx n q).part d src (b.n0 + pos) w.kg = .ok g →
        exec (.arrayStep n arr .none) s = .next (s.updArr n a fun y => { y with
          steps := x.steps + 1
          cur := some { stepTile w x.i32 g (d.cap.s8 11) (x.steps % mmaP d.cap) pos t with complete := w.last && decide (mmaP d.cap * w.nt ≤ x.steps + 1) } })) ∧
      (∀ e k v, (e = .fault k v ∧ s.stepDue n a ≠ none ∨ e = .faultBoth k v ∧ s.stepDue n 0 ≠ none ∧ s.stepDue n 1 ≠ none) →
        ∃ t, exec (.arrayStep n arr e) s = .next t ∧ (e = .fault k v → t.flag Reg.arrayRuntimeMap (arrBit n a) = true) ∧
          (e = .faultBoth k v → t.flag Reg.arrayRuntimeMap (arrBit n 0) = true ∧ t.flag Reg.arrayRuntimeMap (arrBit n 1) = true) ∧
          t.flag (Reg.lnFault n) 31 = true ∧ SameRegs s t [Reg.arrayRuntimeMap, Reg.lnFault n, Reg.sootDrop] ∧
          t = { s with regs := t.regs, soot := t.soot, freeCtr := t.freeCtr, lanterns := t.lanterns, counters := t.counters, cmds := t.cmds })) ∧
    (∀ (w : WBuf) (i32 : Bool) (act : Group) (ash : Int) (k pos : Nat) (t : Tile), Ordered t.acc → pos < 256 →
      let t' := stepTile w i32 act ash k pos t
      let at_ := fun (u : Tile) ch j => sparseGet (0, false) u.acc (ch * 256 + j)
      (∀ ch < w.hi.length,
        let wg : Group := ⟨listAt [] w.hi ch, listAt [] w.lo ch, listAt 0 w.d ch⟩
        let y := listAt ([], [], 0) (passes wg act) k
        (i32 = true → (at_ t' ch pos).1 = (at_ t ch pos).1 + BitVec.ofInt 32 (treeI32 y.1 y.2.1)) ∧
        (i32 = false → at_ t' ch pos = (f32Add (at_ t ch pos).1 (treeF32 y.1 y.2.1 (listAt 0 w.sh ch + ash + wg.d + act.d + y.2.2)), false))) ∧
      (∀ ch j, j < 256 → j ≠ pos ∨ w.hi.length ≤ ch → at_ t' ch j = at_ t ch j)) ∧
    (∀ q d, s.arrJob n a = some (q, d) →
      let p := (s.ctx n q).part
      (s.arrOnFor n d a = false ∨ x.spent (mmaP d.cap) = false → exec (.weightBufferSwitch n arr) s = .next s) ∧
      (∀ u h rest v e f back, d.done = none → d.started = true → s.descNow n q d.seq = some d → mmaUnitOf d = some u → s.arrOnFor n d a = true →
        x.spent (mmaP d.cap) = true → s.nextPasses n a d u = h :: rest →
        (x.has h.1 = true ∧ v = s ∧ e = d ∨ x.has h.1 = false ∧ s.tileReady n q p d u h.1 = (v, some e)) →
        let z := (v.ctx n q).part
        let mark := fun (y : Desc) => { y with runs := if y.runs.contains a then y.runs else y.runs ++ [a] }
        let ran := { e with runs := if e.runs.contains a then e.runs else e.runs ++ [a] }
        let s2 := ((v.updDesc n q e.seq mark).holdPass n z e a f.2.1 f.1).updArr n a fun y => { y with books := some f.2 }
        v.passBuf n z e u a h = .ok f →
        (rest = [] ∧ back = none ∨ ∃ h2 r2 b, rest = h2 :: r2 ∧ s2.passBuf n z ran u a h2 = .ok b ∧ back = some b) →
        (f.1.first = false → exec (.weightBufferSwitch n arr) s = .next (s2.updArr n a fun y => y.onPass q e f back)) ∧
        (∀ m t, f.1.first = true → (v.arr n a).makeRoom (decide (128 < mmaNt e.cap)) = some m →
          v.tileStart z a e u (v.mmaSplit n e) h.1 h.2.1 = .ok (some t) → exec (.weightBufferSwitch n arr) s =
            .next (s2.updArr n a fun y => ({ (y.makeRoom (decide (128 < mmaNt e.cap))).getD y with cur := some t }).onPass q e f back)))) ∧
    (∀ q d u t, s.arrJob n a = some (q, d) → mmaUnitOf d = some u → x.drainable = some t → t.span + 1 = (unitSpans d.cap u).length →
      keepEnd d.cap u ≤ u.k0 →
      let box := tileAt d.cap u t.tile
      let g := spanGroups d.cap (s.mmaSplit n d) 1 (listAt (0, 0) (unitSpans d.cap u) t.span)
      let both := s.mmaSplit n d && decide (g.1 < g.2)
      ∀ as v e, (both = false ∧ as = tileAccList box t ∧ v = s.updArr n a (Arr.dropTile t.tile t.span) ∨
          ∃ y z, both = true ∧ (s.arr n 0).drainable = some y ∧ (s.arr n 1).drainable = some z ∧ (y.tile, y.span) = (t.tile, t.span) ∧
            (z.tile, z.span) = (t.tile, t.span) ∧
            as = ((tileAccList box y).zip (tileAccList box z)).map (fun o => accSum (mmaI32 d.cap) o.1 o.2) ∧
            v = (s.updArr n 0 (Arr.dropTile t.tile t.span)).updArr n 1 (Arr.dropTile t.tile t.span)) →
        let m := v.tileDrain n q (v.ctx n q).part d u box as
        let w := m.s.updDesc n q d.seq fun d => { d with
          drained := d.drained ++ [t.tile], codes := d.codes ++ m.codes, sums := d.sums.filter fun x => x.1 != t.tile
          runs := (d.runs ++ (v.tileArrays n d t.tile).filter fun a => !d.runs.contains a).filter fun a =>
            v.arrLeft n { d with drained := d.drained ++ [t.tile] } u a }
        let r := if (tilesOpen d u).all fun j => j == t.tile then w.unitAfter n q (v.ctx n q).part d u (d.codes ++ m.codes) else w
        m.err = none → r.descNow n q d.seq = some e → e.done = none → e.sync = none → exec (.accumulatorDrain n arr) s = .next r)

/-- R66, R80, R108, R111: an INT32 accumulation of the whole of K is exact modulo 2^32: whatever the tile length and whether K is split
between the two arrays, an element holds the sum of its groups' exact dot products. -/
def Obligations.IntegerAccumulationIsExact : Prop :=
  ∀ (c : Cap) (split : Bool) (sh : Int) (ws as : List Group), mmaI32 c = true → c.fld 104 4 % mmaGrp c = 0 → 1 ≤ mmaK c →
    (ws.zip as).length = ceilDiv (mmaK c) (mmaGrp c) →
    (accTiles c split sh ws as 0 (mmaK c) ⟨0, false⟩).bits = BitVec.ofInt 32 (((ws.zip as).map fun x => treeI32 x.1.hi x.2.hi).sum)

/-- R123-R125, R128, R129, R132, R133: a fetch takes the next 512-byte line of the program when it lies in the quota and near enough, and a
needed line outside the quota ends the RUN with BOUNDS. An issue checks the header and the epochs, and then captures the descriptor, moves
past it, and names the context in LN_STATUS. A descriptor that has ended leaves; a status that is no success is the RUN's error and stops it
unless CONT lets it go on. -/
def Obligations.DescriptorsFetchIssueComplete : Prop :=
  ∀ (s : State) (n : LnIx) (q : QIx) (md : InputModes), s.Canonical →
    let c := s.ctx n q
    let at_ := c.pc + c.fetched.length
    let fin := (at_ / 512 + 1) * 512
    let bs := c.fetched.take c.needs
    let ty := fieldAt bs 0 1
    (c.live = true → s.seqOn n = true → ∀ i da len, s.quotaFor c.part n = some (i, da, len) →
      (listAt 0 c.bases 0 ≤ at_ → fin ≤ listAt 0 c.bases 0 + len → fin ≤ c.pc + 2048 → ∀ l, s.rd c.part at_ (fin - at_) = .ok l →
        ∃ t, exec (.descriptorFetch n q) s = .next t ∧ t.CtxBecomes s n q { c with fetched := c.fetched ++ l }) ∧
      (at_ < listAt 0 c.bases 0 ∨ listAt 0 c.bases 0 + len < fin → c.fetched.length < c.needs →
        exec (.descriptorFetch n q) s = .next ((s.seqError n q .bounds 0 0 true).finishCtx n q))) ∧
    (c.live = true → s.seqOn n = true → c.needs ≤ c.fetched.length →
      (∀ st, headerStatus bs = some st → exec (.descriptorIssue n ⟨q, md⟩) s =
        .next ((s.seqError n q st ty (fieldAt bs 6 2) true).finishCtx n q)) ∧
      (headerStatus bs = none → s.issueHeld n q ty ⟨bs, []⟩ = true → exec (.descriptorIssue n ⟨q, md⟩) s = .next s) ∧
      (headerStatus bs = none → s.issueHeld n q ty ⟨bs, []⟩ = false → s.epcStale n bs = true → exec (.descriptorIssue n ⟨q, md⟩) s =
        .next ((s.seqError n q .staleEpoch ty (fieldAt bs 6 2) true).finishCtx n q)) ∧
      (headerStatus bs = none → s.issueHeld n q ty ⟨bs, []⟩ = false → s.epcStale n bs = false →
        isCompute ty = false →
        ∃ t d, exec (.descriptorIssue n ⟨q, md⟩) s = .next t ∧ t.ctx n q = { c with
            pc := c.pc + bs.length
            fetched := c.fetched.drop bs.length
            lastPc := c.pc
            nextSeq := c.nextSeq + 1
            issued := c.issued ++ [d] } ∧
          d.seq = c.nextSeq ∧ d.cap = c.capture bs ∧ d.out = none ∧ d.sync = none ∧
          d.done = (if seqFieldsOk ty (c.capture bs) then none else some .badOpcode) ∧
          t.fld (Reg.lnStatus n) 7 6 = q.val ∧ t.fld (Reg.lnStatus n) 13 8 = c.part % 64 ∧ SameRegs s t [Reg.lnStatus n] ∧
          (∀ m, m ≠ n.val → t.lantern m = s.lantern m) ∧ t = { s with lanterns := t.lanterns, regs := t.regs }) ∧
      (headerStatus bs = none → s.issueHeld n q ty ⟨bs, []⟩ = false → s.epcStale n bs = false → (s.seqReadyFor n ty).length < 2 →
        ∀ id, c.cmd = some id → isCompute ty = true → ty ≠ 0x20 →
        let s0 : State := if ty = 0x22 then { s with freeCtr := s.freeCtr + 1 } else s
        let chk := s0.computeCheck n q (match s.cmd? id with | some x => x.det | none => false) md ty (c.capture bs) c.out c.sync
        ∃ d : Desc, d.seq = c.nextSeq ∧ d.cap = c.capture bs ∧ d.out = c.out ∧ d.sync = c.sync ∧ d.done = chk ∧ d.modes = md ∧
          let u := (s0.seqSwitch n q c.part).updCtx n q fun c => { c with
            pc := c.pc + bs.length
            fetched := c.fetched.drop bs.length
            lastPc := c.pc
            nextSeq := c.nextSeq + 1
            issued := c.issued ++ [d]
            sync := none }
          (∀ st, chk = some st → exec (.descriptorIssue n ⟨q, md⟩) s = .next u) ∧
          (∀ v, chk = none → u.ensureAll n q (usesTables ty (c.capture bs) (c.out.getD ⟨[], []⟩)) = .ok v →
            exec (.descriptorIssue n ⟨q, md⟩) s = .next (v.wake n ty)))) ∧
    (∀ seq d st, s.descNow n q seq = some d → d.done = some st →
      let u := (s.arbCharge n c.part (s.nowNs - d.at_) 0).updCtx n q fun x => { x with issued := x.issued.filter fun y => y.seq != seq }
      (st.success = true → exec (.descriptorComplete n q seq) s = .next (u.finishCtx n q)) ∧
      (st.success = false → exec (.descriptorComplete n q seq) s =
        .next ((u.seqError n q st d.ty d.tag (!d.cont || st.stops)).finishCtx n q)))

/-- R92, R127, R133, R134, R136-R138: the sequencer's own descriptors act on the context alone and end with OK: NOP; CTRL ends the program,
jumps, jumps when an error stands, or counts and jumps while the count lies below its limit; OUT and SYNC hold their state for the next
compute descriptors. -/
def Obligations.SequencerDescriptorsAct : Prop :=
  ∀ (s : State) (n : LnIx) (q : QIx) (d : Desc), s.Canonical →
    let c := s.ctx n q
    let tgt := (c.lastPc : Int) + signedOf 32 (d.cap.fld 16 4) * 32
    let pc := if tgt < 0 then 2 ^ 37 else tgt.toNat
    let ctrl := fun op => c.issued.find? fun d => d.ty == 1 && d.done.isNone && d.cap.fld 8 1 == op
    let r := d.cap.bits 9 1 0
    let v := (listAt 0 c.lcs r + 1) % 2 ^ 32
    (s.findDesc n q 0x00 = some d → ∃ t, exec (.nopDescriptor n q) s = .next t ∧ t.CtxBecomes s n q (c.withDone d.seq .ok)) ∧
    (ctrl 0 = some d → ∃ t, exec (.ctrlEnd n q) s = .next t ∧ t.CtxBecomes s n q ({ c with ended := true }.withDone d.seq .ok)) ∧
    (ctrl 1 = some d → ∃ t, exec (.ctrlJump n q) s = .next t ∧ t.CtxBecomes s n q ({ c with pc := pc, fetched := [] }.withDone d.seq .ok)) ∧
    (ctrl 2 = some d → c.err.isSome = true → ∃ t, exec (.ctrlJumpErr n q) s = .next t ∧
      t.CtxBecomes s n q ({ c with pc := pc, fetched := [] }.withDone d.seq .ok)) ∧
    (ctrl 2 = some d → c.err = none → ∃ t, exec (.ctrlJumpErr n q) s = .next t ∧ t.CtxBecomes s n q (c.withDone d.seq .ok)) ∧
    (ctrl 3 = some d → v < d.cap.fld 12 4 → ∃ t, exec (.ctrlLoop n q) s = .next t ∧
      t.CtxBecomes s n q ({ c with lcs := listUpd c.lcs r fun _ => v, pc := pc, fetched := [] }.withDone d.seq .ok)) ∧
    (ctrl 3 = some d → d.cap.fld 12 4 ≤ v → ∃ t, exec (.ctrlLoop n q) s = .next t ∧
      t.CtxBecomes s n q ({ c with lcs := listUpd c.lcs r fun _ => 0 }.withDone d.seq .ok)) ∧
    (s.findDesc n q 0x09 = some d → ∃ t, exec (.out n q) s = .next t ∧ t.CtxBecomes s n q ({ c with out := some d.cap }.withDone d.seq .ok)) ∧
    (s.findDesc n q 0x0A = some d → ∃ t, exec (.sync n q) s = .next t ∧ t.CtxBecomes s n q ({ c with sync := some d.cap }.withDone d.seq .ok))

/-- R69, R136, R137, R145, R433: a LOAD reads its source in the own Ingot into its target under the owner mark, or is skipped under REUSE
when the target holds the tag, and waits while the target is in use. DIG_FOLD stores the CRC-64 of its block digests, CLIP_STORE the clip
counters of a slot, CLIP_CLR clears them; so does a write of LN_QSEL with CLR, for the pair that it selects. -/
def Obligations.TablesAndClipCounters : Prop :=
  (∀ (s : State) (n : LnIx) (q : QIx) (d : Desc) (what : Nat) (i : Instr),
    (i, what) ∈ [(Instr.loadVuTable n q, 0), (.loadTaperWeights n q, 1), (.loadOutCodebook n q, 2)] →
    ((s.ctx n q).issued.find? fun d => d.ty == 8 && d.done.isNone && d.cap.bits 8 7 4 == what) = some d →
    let k := match what with | 0 => d.cap.bits 8 1 0 | 1 => 4 | _ => 5
    let p := (s.ctx n q).part
    let code := if what = 0 then 0 else d.cap.bits 9 3 0
    let len := d.cap.fld 12 4
    let bytes := if what = 1 then codeBytes code len else len
    let rtag := BitVec.ofNat 32 (d.cap.fld 24 4)
    (s.tableBusy n k = true → exec i s = .next s) ∧
    (∀ a, s.tableBusy n k = false → d.cap.ref 16 = some a →
      (s.inOwnIngot n p a bytes = false → exec i s = .next (s.descFail n q d.seq (.bounds, some a))) ∧
      (s.inOwnIngot n p a bytes = true →
        let u := s.updCtx n q fun c => { c with recs := listUpd c.recs k fun _ => some ⟨a, len, code, rtag⟩ }
        (d.reuse = true → (s.heldAt n k).owner = some (s.ownMark n p) → (s.heldAt n k).rtag = rtag →
          exec i s = .next (u.descDone n q d.seq .ok)) ∧
        (∀ l, d.reuse = false ∨ (s.heldAt n k).owner ≠ some (s.ownMark n p) ∨ (s.heldAt n k).rtag ≠ rtag → s.rd p a bytes = .ok l →
          exec i s = .next ((u.setHeld n k ⟨some (s.ownMark n p), rtag, code, l⟩).descDone n q d.seq .ok))))) ∧
  (∀ (s : State) (n : LnIx) (q : QIx) (d : Desc) (op : Nat) (i : Instr),
    (i, op) ∈ [(Instr.digFold n q, 0), (.clipStore n q, 1), (.clipClr n q, 2)] →
    ((s.ctx n q).issued.find? fun d => d.ty == 2 && d.done.isNone && d.cap.fld 8 1 == op) = some d →
    let slot := d.cap.bits 9 3 0
    (∀ a b l u, op = 0 → d.cap.ref 16 = some a → d.cap.ref 24 = some b → a % 8 = 0 → b % 8 = 0 →
      s.rd (s.ctx n q).part a (8 * d.cap.fld 12 4) = .ok l → s.wr (s.ctx n q).part b (leBytes 8 (crc64 l)) = .ok u →
      exec i s = .next (u.descDone n q d.seq .ok)) ∧
    (∀ b u, op = 1 → d.cap.ref 24 = some b → b % 8 = 0 →
      s.wr (s.ctx n q).part b (leBytes 8 ((s.clip n q slot).1 + 2 ^ 32 * (s.clip n q slot).2)) = .ok u →
      exec i s = .next (u.descDone n q d.seq .ok)) ∧
    (op = 2 → exec i s = .next ((s.setClip n q slot (0, 0)).descDone n q d.seq .ok))) ∧
  (∀ (s : State) (n : LnIx) (v : Word), s.PfReaches (Reg.lnQsel n) →
    (bitOf v 31 = false → exec (.lnQselClr n v) s = .next (s.setReg (Reg.lnQsel n) (v &&& 0x3F))) ∧
    (bitOf v 31 = true → exec (.lnQselClr n v) s =
      .next ((s.setReg (Reg.lnQsel n) (v &&& 0x3F)).setClip n (bitsOf v 5 4) (bitsOf v 3 0) (0, 0))))

/-- R79, R81-R86, R121, R138, R143-R145: a SPILL, a TAPER and each operation of the VU, without a SYNC state, compute their output row by
row in ascending order, put every row out through the OUT state, and end with OK; with DIG they first store the digest of the whole output.
A SPILL first loads its activation register, or keeps it under REUSE. R85, R86: the elements of one output row of a VU operation stand in
raster order, and each holds what the operation makes of its window: the largest real element, the sum of the window or of its real elements
over their number, the sum of the products with the taps, or the element itself; a nearest resize takes the element whose index is floor((2
y + 1) in / (2 out)), within the input. -/
def Obligations.ComputeRowsLeaveInOrder : Prop :=
  (∀ (s : State) (n : LnIx) (q : QIx) (d : Desc) (i : Instr) (ty : Nat) (j : RowJob) (s1 t : State), s.Canonical →
    let p := (s.ctx n q).part
    let c := d.cap
    (ty = 0x21 ∧ i = .spill n q ∧ (s.descBegin n q d).spLoad n p d = .ok s1 ∧
        j = ⟨1, ⟨1, 1, 1, 0, 1⟩, rowEnv n q p d (spI32 c) (spN c) (spM c) (spN c), fun s _ => s.spElems n p c⟩) ∨
      (ty = 0x22 ∧ i = .taper n q ∧ s1 = s.descBegin n q d ∧
        j = ⟨tpOh c, ⟨tpHin c, tpSh c, tpKh c, tpPt c, tpOh c⟩, rowEnv n q p d (tpI32 c) (tpOw c) (tpCout c) (tpOh c * tpOw c),
          fun s y => s.tpRow n p d y⟩) ∨
      (ty = 0x23 ∧ (i, vuOp c) ∈ [(Instr.vuDepthwise n q, 1), (.vuMaxPool n q, 2), (.vuAvgPoolPadCounted n q, 3), (.vuAvgPoolPadNotCounted n q, 4),
          (.vuSoftmax n q, 5), (.vuLayerNorm n q, 6), (.vuGroupNorm n q, 7), (.vuResizeNearest n q, 8), (.vuResizeBilinear n q, 9),
          (.vuStagesOnly n q, 10)] ∧ s1 = s.descBegin n q d ∧
        j = ⟨vuOh c, vuGeo c, rowEnv n q p d false (vuOw c) (vuC c) (vuOh c * vuOw c), fun s y => s.vuRow n p d y⟩) →
    s.findDesc n q ty = some d → s.descNow n q d.seq = some d → d.sync = none → d.prog = 0 → RowsOut n q d.seq j s1 j.rows t →
    (d.dig = false → exec i s = .next (t.descDone n q d.seq .ok)) ∧
    (d.dig = true → ∀ d' u, t.descNow n q d.seq = some d' → t.digWrite p j.env.out 0 (blockDigest (outCode j.env.out) d'.codes) = .ok u →
      exec i s = .next (u.descDone n q d.seq .ok))) ∧
  (∀ (s : State) (n p y : Nat) (d : Desc) (es : List Elem), s.vuRow n p d y = .ok es →
    let c := d.cap
    let op := vuOp c
    (op ≠ 5 → op ≠ 6 → op ≠ 7 → es.length = vuOw c * vuC c ∧ ∀ x < vuOw c, ∀ ch < vuC c, ∃ e, es[x * vuC c + ch]? = some e ∧ e.y = y ∧ e.x = x ∧ e.c = ch ∧
      (1 ≤ op → op ≤ 4 → ∃ w, s.vuWindow p d y x ch = .ok w ∧ w.length = vuKh c * vuKw c ∧
        (op = 2 → e.v = (w.filterMap id).foldl f32Max 0xFF800000) ∧
        (op = 3 → e.v = f32Div (vuSum (w.map fun o => o.getD 0)) (f32OfInt (vuKh c * vuKw c : Nat))) ∧
        (op = 4 → e.v = f32Div (vuSum (w.filterMap id)) (f32OfInt (w.filterMap id).length)) ∧
        (op = 1 → ∃ a taps, c.ref 48 = some a ∧ s.rd p (a + 4 * (ch * w.length)) (4 * w.length) = .ok taps ∧
          e.v = (w.zipIdx).foldl (fun acc o => f32Add acc (f32Mul (o.1.getD 0) (BitVec.ofNat 32 (fieldAt taps (4 * o.2) 4)))) 0)) ∧
      (op = 8 → s.vuElem p d (min (vuH c - 1) ((2 * y + 1) * vuH c / (2 * vuOh c))) (min (vuW c - 1) ((2 * x + 1) * vuW c / (2 * vuOw c))) ch
        = .ok e.v) ∧
      (10 ≤ op → s.vuElem p d y x ch = .ok e.v)))

/-- R78, R79, R110, R114-R116, R140-R142: an MMA computes its tiles, or those of its tickets, one after the other; then it ends with OK, or
waits for a ticket or for the ordered reduction; with no array for it, it ends with UNIT_FAULT. TICKET_TAKE hands out a re-issued ticket,
else the lowest not yet taken, else END, and ends the MMA with UNIT_FAULT when no member can run what is left. The ordered reduction does
its blocks, each once every partial stands, and ends its descriptor. -/
def Obligations.MmaUnitsTicketsAndReduction : Prop :=
  ∀ (s : State) (n : LnIx) (q : QIx) (d : Desc), s.findDesc n q 0x20 = some d →
    let p := (s.ctx n q).part
    (∀ k t e, TilesOut n q p d.seq k (s.mmaBegin n q d) t → t.descNow n q d.seq = some e → e.done = none → k < mmaFuel d →
      let more := mmaDisp e.cap && (!e.ticketEnd || (mmaKdisp e.cap && !mmaAtomic e.cap && e.tookZero))
      (mmaUnitOf e = none → more = false → exec (.mma n q) s = .next ((t.descDone n q d.seq .ok).clearArrays n)) ∧
      (mmaUnitOf e = none → more = true → exec (.mma n q) s = .next (t.clearArrays n)) ∧
      (∀ u, mmaUnitOf e = some u → t.arraysOf n e = [] → mmaDisp e.cap = false →
        exec (.mma n q) s = .next ((t.descDone n q d.seq .unitFault).clearArrays n))) ∧
    (∀ k, s.counterOf d = some k →
      let left := decide (k.next < k.total) || !k.reissue.isEmpty
      (s.noMember k = true → left = true → exec (.ticketTake n q) s = .next (s.descDone n q d.seq .unitFault)) ∧
      (s.noMember k = false ∨ left = false → d.tickets.length < 2 →
        (∀ t r, k.reissue = t :: r → s.arraysOf n d ≠ [] → exec (.ticketTake n q) s =
          .next (({ s with counters := s.counters.map fun x => if x.id = k.id then { k with reissue := r } else x } : State).updDesc n q d.seq fun d =>
            { d with tickets := d.tickets ++ [t], tookZero := d.tookZero || t == 0, ticketEnd := false })) ∧
        (k.reissue = [] → k.next < k.total → s.arraysOf n d ≠ [] → exec (.ticketTake n q) s =
          .next (({ s with counters := s.counters.map fun x => if x.id = k.id then { k with next := k.next + 1 } else x } : State).updDesc n q d.seq
            fun d => { d with tickets := d.tickets ++ [k.next], tookZero := d.tookZero || k.next == 0, ticketEnd := false })) ∧
        (k.reissue = [] → k.total ≤ k.next → exec (.ticketTake n q) s = .next (s.updDesc n q d.seq fun d => { d with ticketEnd := true })))) ∧
    (∀ k x j t e, s.counterOf d = some k → mmaKdisp d.cap = true → mmaAtomic d.cap = false → d.tookZero = true → k.finished.length = k.total →
      d.tickets = [] → d.cap.ref 64 = some x → BlocksOut n q p d.seq x k.total j (s.descBegin n q d) t → j ≤ (mmaBlocks d.cap).length →
      t.descNow n q d.seq = some e → e.done = none → blocksOpen e = [] → exec (.orderedReduction n q) s = .next (t.descDone n q d.seq .ok))

/-- R95, R123, R246, R256, R265: a RUN, or the present stage of a RUN_CHAIN, on a gang whose check fails ends with that status. One whose
check passes takes the gang and its members, records their arrays, and starts the program on the context of every member when all of them
are free; while one is busy it waits with its gang. -/
def Obligations.RunsStartOnGangs : Prop :=
  ∀ (s : State) (c : Cmd) (op : Nat) (i : Instr), (i, op) ∈ [(Instr.run c.id, 0x30), (.runChain c.id, 0x31)] → s.Issued c op →
    let e := c.stageGang
    let ms := gangMembers (s.part c.part).active e
    (op = 0x31 → c.stages = 0 ∨ 4 < c.stages → exec i s = .next (s.endCmd c.id .badOpcode 0)) ∧
    ((op = 0x31 → 1 ≤ c.stages ∧ c.stages ≤ 4) →
      (∀ st, c.members = [] → gangKind (gangEntry (s.part c.part).active e) ≠ 3 → s.gangCheck c.part e ms = .error st →
        exec i s = .next (s.endCmd c.id st (runDetail { c with detail := 0 } c.aux))) ∧
      (∀ (g : Nat) (l : List Nat) (xs : List (Nat × Nat × Nat)),
        (c.members = [] ∧ gangKind (gangEntry (s.part c.part).active e) ≠ 3 ∧ s.gangCheck c.part e ms = .ok ms ∧ g = e ∧ l = ms) ∨
          (c.members ≠ [] ∧ g = c.gang ∧ l = c.members) →
        l.map (fun n => match s.runCtx c.part n with
          | none => none
          | some (q, da) => (s.pdaOf c.part da).map fun pda => (n, q, pda)) = xs.map some →
        ((∃ x ∈ xs, (s.ctx x.1 x.2.1).cmd.isSome = true) →
          exec i s = .next (if c.members = [] then s.updCmd c.id fun x => { x with gang := g, members := l } else s)) ∧
        ((∀ x ∈ xs, (s.ctx x.1 x.2.1).cmd = none) →
          ∃ t, exec i s = .next t ∧ t.cmd? c.id = some { c with phase := .active, mapMask := c.mapMask ||| lanternMask l, gang := g, members := l } ∧
            t.lanterns = (xs.foldl (fun u x => u.startMember c (xs.headD (0, 0, 0)).2.2 x.1 x.2.1 x.2.2) s).lanterns ∧
            t.counters = s.counters.filter (fun k => k.cmd != c.id) ∧
            t = { s with cmds := t.cmds, lanterns := t.lanterns, counters := t.counters })))

/-- R248, R263, R264: MODEL_LOAD of an image that plans, is not blocked and is let through by the Shades places every section and records
the tag of its class; one that fails to plan places the sections before the failure and ends with its status; a blocked one ends with QUOTA
and one on an entry without members with BOUNDS, and neither moves a byte. MODEL_EVICT waits for the gang's RUNs and then drops the tags of
the model. -/
def Obligations.ModelsLoadAndEvict : Prop :=
  ∀ (s : State) (c : Cmd),
    (s.Issued c 0x40 →
      let e := c.par 8 1 % 64
      let ms := gangMembers (s.part c.part).active e
      let swapped := (c.par 9 1).testBit 0
      let model := c.par 10 2
      (ms = [] → exec (.modelLoad c.id) s = .next (s.endCmd c.id .bounds 0)) ∧
      (∀ xs bad st, ms ≠ [] → s.planImage (s.part c.part).active ms (c.par 0 8) swapped = (xs, st, bad) →
        ((swapped = false ∧ s.residentBlocked c.part e model ms = true) ∨ (swapped = true ∧ s.swappedBlocked xs = true) →
          exec (.modelLoad c.id) s = .next (s.endCmd c.id .quota 0)) ∧
        (∀ s1 k, (swapped = false → s.residentBlocked c.part e model ms = false) → (swapped = true → s.swappedBlocked xs = false) →
          (∀ path, (s.shade c.part path).rate = 0) → st = .ok → bad = none → s.placeSections xs = (s1, k, .ok) →
          k = xs.length ∧ exec (.modelLoad c.id) s = .next ((s1.updResidency c.part e fun r =>
            let kept := (r.swapped.filter fun x => x.model != model) ++ [s1.tagOf model ms xs]
            if swapped then { r with swapped := kept.drop (kept.length - 8) }
            else { r with resident := some (s1.tagOf model ms xs), loadPending := false }).endCmd c.id .ok (BitVec.ofNat 32 k))) ∧
        (∀ s1 k, (swapped = false → s.residentBlocked c.part e model ms = false) → (swapped = true → s.swappedBlocked xs = false) →
          (∀ path, (s.shade c.part path).rate = 0) → st ≠ .ok → (s.noteFault 0x06 c.part (st, bad)).placeSections xs = (s1, k, .ok) →
          exec (.modelLoad c.id) s = .next (s1.endCmd c.id st 0)))) ∧
    (s.Issued c 0x41 →
      let e := c.par 0 1 % 64
      (gangMembers (s.part c.part).active e = [] → exec (.modelEvict c.id) s = .next (s.endCmd c.id .bounds 0)) ∧
      (gangMembers (s.part c.part).active e ≠ [] → s.gangRuns c.part e ≠ [] → exec (.modelEvict c.id) s = .next s) ∧
      (gangMembers (s.part c.part).active e ≠ [] → s.gangRuns c.part e = [] → exec (.modelEvict c.id) s = .next ((s.updResidency c.part e fun r =>
        { r with
          resident := r.resident.filter fun t => t.model != c.par 2 2
          swapped := r.swapped.filter fun t => t.model != c.par 2 2 }).endCmd c.id .ok 0)))

/-- R25, R175, R187, R188, R194, R211, R242, R244: STREAM_BIND whose fields, limits and template pass gives the stream its context, its home
and, unless it is host-fed, its entry, and says which in DETAIL; one that fails a check changes nothing but its status. STREAM_FEED queues
an access unit to the context. STREAM_UNBIND ends the matching of the entry and marks the context. R20, R243: the oldest frame of a stream
that holds a slot and has no chain yet gets the stream's template as commands, in order, with the frame's tag, and no command already in
flight changes. -/
def Obligations.StreamsBindFeedAndUnbind : Prop :=
  ((∀ (s : State) (c : Cmd), s.Issued c 0x10 →
    (∀ st, bindFields s c = some st → exec (.streamBind c.id) s = .next (s.endCmd c.id st 0)) ∧
    (∀ st d, bindFields s c = none → s.bindLimits c = some (st, d) → exec (.streamBind c.id) s = .next (s.endCmd c.id st d)) ∧
    (∀ tpl home ctx ent, bindFields s c = none → s.bindLimits c = none → c.par 144 8 < 2 ^ 37 → c.par 160 8 < 2 ^ 37 →
      c.par 168 8 % 2 ^ 63 < 2 ^ 37 →
      coveredOnce (s.part c.part).active (c.par 160 8) ((if c.par 0 1 % 16 = 0 then 4 else c.par 0 1 % 16) * c.par 156 4) = true →
      let plen := natBits (fieldAt ((c.params.drop 64).take 64) 56 8) 63 52
      (0 < plen → s.translate c.part (natBits (fieldAt ((c.params.drop 64).take 64) 56 8) 36 0) plen .rd ≠ none) →
      s.readTemplate c.part (c.par 144 8) (c.par 152 1 % 16) = .ok tpl → templateOk tpl = true →
      s.smHome (s.limit c.part 6 2 % 4096) (bindHint c) = some home → freeKey s.decs 1024 = some ctx →
      let feed := (c.par 64 1).testBit 7
      (feed = false → freeKey s.entries 1024 = some ent) →
      ∃ t, exec (.streamBind c.id) s = .next t ∧
        (∃ st, t.stream? c.part c.index = some st ∧ st.bind = c.params ∧ st.template = tpl ∧ st.ctx = ctx ∧ st.quad = c.par 1 1 % 4 ∧
          st.base = c.par 4 2 % 4096 ∧ st.count = c.par 6 2 % 8192 ∧ st.entry = (if feed then none else some ent) ∧ st.jobs = [] ∧ st.unbind = false) ∧
        (∃ d, t.dec? ctx = some d ∧ d.part = c.part ∧ d.stream = c.index ∧ d.home = home ∧ d.live = !(c.par 0 1).testBit 7 ∧ d.queue = [] ∧
          d.frames = []) ∧
        (feed = false → ∃ e, t.entry? ent = some e ∧ e.part = c.part ∧ e.stream = c.index ∧ e.ctx = ctx ∧
          e.ingest = (c.params.drop 64).take 64) ∧
        (feed = true → t.entries = s.entries) ∧ (s.Canonical → t.domOn (smDom home) = true) ∧
        t = { (s.powerUp (smDom home)).endCmd c.id .ok (BitVec.ofNat 32 (2 ^ 28 * home + 2 ^ 16 * ctx + (if feed then 2 ^ 10 else ent))) with
          streams := t.streams, decs := t.decs, entries := t.entries })) ∧
  (∀ (s : State) (c : Cmd) (st : Stream) (d : DecCtx), s.Issued c 0x11 → s.streamTurn c [0x11, 0x12] = true →
    s.stream? c.part c.index = some st →
    (st.entry.isSome = true → exec (.streamFeed c.id) s = .next (s.endCmd c.id .badOpcode 0)) ∧
    (st.entry = none → s.dec? st.ctx = some d → s.flag (Reg.smStatus d.home) 31 = true →
      exec (.streamFeed c.id) s = .next (s.endCmd c.id .isolated 0)) ∧
    (st.entry = none → s.dec? st.ctx = some d → s.flag (Reg.smStatus d.home) 31 = false → 64 ≤ d.queue.length → exec (.streamFeed c.id) s = .next s) ∧
    (st.entry = none → s.dec? st.ctx = some d → s.flag (Reg.smStatus d.home) 31 = false → d.queue.length < 64 →
      (c.par 8 4 = 0 → exec (.streamFeed c.id) s = .next (s.endCmd c.id .bounds 0)) ∧
      (c.par 8 4 ≠ 0 → ∀ e, s.handleCheck c.part (c.par 0 8) 0 (c.par 8 4) = .fail e →
        exec (.streamFeed c.id) s = .next ((s.useHandle c.part (c.par 0 8) 0 (c.par 8 4)).1.endCmd c.id e 0)) ∧
      (c.par 8 4 ≠ 0 → ∀ k i, s.handleCheck c.part (c.par 0 8) 0 (c.par 8 4) = .pass k i →
        ∃ t au, exec (.streamFeed c.id) s = .next t ∧ t.dec? st.ctx = some { d with queue := d.queue ++ [au], paramDue := false } ∧
          au.handle = c.par 0 8 ∧ au.len = c.par 8 4 ∧ au.gap = (c.par 12 1).testBit 0 ∧ au.inc = (c.par 12 1).testBit 1 ∧
          au.srcTs = c.par 16 8 % 2 ^ 32 ∧
          (c.par 16 8 ≠ 0 → au.time = c.par 16 8) ∧ au.cmd = some c.id ∧ au.param = (if d.paramDue then d.params else []) ∧
          t.cmd? c.id = some { c with phase := .active } ∧ (∀ x, x ≠ st.ctx → t.dec? x = s.dec? x) ∧
          t.stream? c.part c.index = some { st with auOut := min 0xFFFFFFFF (st.auOut + 1) } ∧
          t = { s with decs := t.decs, streams := t.streams, cmds := t.cmds, nextId := s.nextId + 1 }))) ∧
  (∀ (s : State) (c : Cmd) (st : Stream) (d : DecCtx), s.Issued c 0x12 → s.streamTurn c [0x11, 0x12] = true →
    s.stream? c.part c.index = some st → s.dec? st.ctx = some d → d.susp = none → (s.smelter d.home).pic = none →
    ∃ t, exec (.streamUnbind c.id) s = .next t ∧ t.dec? st.ctx = some { d with unbound := true } ∧
      t.stream? c.part c.index = some { st with entry := none, unbind := true } ∧ t.cmd? c.id = some { c with phase := .active } ∧
      (∀ e, st.entry = some e → t.entries = tabErase s.entries e ∧ (∀ x, s.entry? e = some x → x.packets = [] → x.cands = [] → t.bufs = s.bufs)) ∧
      (st.entry = none → t.entries = s.entries ∧ t.bufs = s.bufs) ∧
      SameRegs s t [Reg.pwErr, Reg.sootDrop] ∧
      t = { s with entries := t.entries, bufs := t.bufs, decs := t.decs, streams := t.streams, cmds := t.cmds, regs := t.regs, soot := t.soot,
                   freeCtr := t.freeCtr })) ∧
  (∀ (s : State) (p : PartIx) (ix : StreamIx) (st : Stream) (j : FrameJob) (k : Nat),
    s.stream? p.val ix.val = some st → (st.jobs.find? fun j => !j.issued) = some j → j.slot = some k →
    (st.template.any fun b => fieldAt b 0 1 == 0x20 || fieldAt b 0 1 == 0x60) = true →
    ∃ t, exec (.frameChainIssue p ix) s = .next t ∧ t.cmds.length = s.cmds.length + st.template.length ∧
      (∀ x ∈ s.cmds, x.id < s.nextId → x ∈ t.cmds) ∧
      ((t.cmds.drop s.cmds.length).map fun c => (c.id, c.opcode, c.pos)) =
        st.template.zipIdx.map (fun b => (s.nextId + b.2, fieldAt b.1 0 1, b.2)) ∧
      (∀ c ∈ t.cmds.drop s.cmds.length, c.src = .frame p ix k ∧ c.part = p.val ∧ c.index = ix.val ∧ c.tag = fieldAt j.desc 0 4 % 65536 ∧
        c.phase = .fetched ∧ c.status = .ok ∧ c.irq = false ∧ c.fence = false ∧ c.ordered = false) ∧
      (∃ st', t.stream? p.val ix.val = some st' ∧ st' = { st with jobs := st'.jobs } ∧
        st'.jobs = st.jobs.map fun x => if x.slot = some k then { x with
          issued := true
          left := st.template.length
          readers := (st.template.filter fun b => fieldAt b 0 1 == 0x20 || fieldAt b 0 1 == 0x60).length } else x) ∧
      t = { s with cmds := t.cmds, streams := t.streams, nextId := s.nextId + st.template.length })

/-- R172-R174, R176, R177, R179: a frame on a link that is down leaves nothing; one without room, or damaged, is counted; PTP goes to the
timestamp unit; a datagram that the stream table takes goes to its entry, any other frame to the exception queue. Against HIGH, a packet is
a duplicate, too late to be released, or accepted under its extended number. A link comes up only as its port allows. -/
def Obligations.FramesAreFilteredAndOrdered : Prop :=
  (∀ (s : State) (port : EpIx) (link : Fin 4) (fr : List Byte) (ok full : Bool),
    let rx := exec (.ethFrameReceive port link fr ok full) s
    (s.linkUp port link = false → rx = .next s) ∧
    (s.linkUp port link = true → full = true → rx = .next (s.bump (Reg.ethDrop port) 15 0 1)) ∧
    (s.linkUp port link = true → full = false → ok = false ∨ 9216 < fr.length + 4 ∨ fr.length + 4 < 64 ∨ frameKind fr = .bad →
      rx = .next (s.bump (Reg.ethDrop port) 31 16 1)) ∧
    (s.linkUp port link = true → full = false → ok = true → fr.length + 4 ≤ 9216 → 64 ≤ fr.length + 4 →
      (frameKind fr = .ptp → rx = .next s) ∧
      (frameKind fr = .other → rx = .next (s.excPush port link fr)) ∧
      (∀ d, frameKind fr = .udp d → (s.flag Reg.ingCtrl 0 = false ∨ s.matchEntry port link d = none → rx = .next (s.excPush port link fr)) ∧
        (∀ e x, s.flag Reg.ingCtrl 0 = true → s.matchEntry port link d = some e → s.entry? e = some x →
          (x.isRtcp d = false → rx = .next (s.rtpPacket e x d fr (s.rxTime port))) ∧
          (x.isRtcp d = true → d.csumOk = false → rx = .next (s.entryCount e 4 1)) ∧
          (∀ ss r, x.isRtcp d = true → d.csumOk = true → x.locked = some ss → findSr ss d.payload d.payload.length = some r →
            rx = .next (s.updEntry e fun y => { y with sr := some r })))))) ∧
  (∀ (s : State) (port link : Nat) (fr : List Byte),
    (s.flag Reg.ingCtrl 1 = false → s.excPush port link fr = s.bump Reg.ingUnm 15 0 1) ∧
    (s.flag Reg.ingCtrl 1 = true → 64 ≤ s.excq.length → s.excPush port link fr = s.bump Reg.ingUnm 31 16 1) ∧
    (s.flag Reg.ingCtrl 1 = true → s.excq.length < 64 →
      s.excPush port link fr = { s with excq := s.excq ++ [(port, link, leBytes 8 (nsStamp (s.rxTime port)) ++ fr)] })) ∧
  (∀ (s : State) (e : Nat) (x : Entry) (k : Packet) (bs : List Byte) (high next : Int), x.seq = some (high, next) →
    (x.locked = none ∨ x.locked = some k.ssrc) →
    let d := (k.num - high) % 65536
    (d = 0 → s.classify e x k bs = s.entryCount e 3 1) ∧
    (0x8000 < d → high - (0x10000 - d) < next → next - 512 ≤ high - (0x10000 - d) → s.classify e x k bs = s.entryCount e 2 1) ∧
    (0 < d → d < 0x8000 → high + d < next + 512 → s.classify e x k bs =
      ((s.dropCands e).updEntry e fun y => { y with seq := some (high + d, next) }).accept e { k with num := high + d } bs) ∧
    (0x8000 < d → next ≤ high - (0x10000 - d) → (∀ q ∈ x.packets, q.num ≠ high - (0x10000 - d)) → s.classify e x k bs =
      (s.dropCands e).accept e { k with num := high - (0x10000 - d) } bs)) ∧
  (∀ (s : State) (port : EpIx) (link : Fin 4) (up : Bool),
    let w := s.reg (Reg.ethPort port)
    let may := s.domOn (epDom port) = true ∧ bitOf w (16 + link) = true ∧ (bitOf w 0 = true ∨ link.val = 0) ∧ bitsOf w 9 8 ≠ 3 ∧
      (bitOf w 0 = true ∨ bitsOf w 9 8 ≠ 2)
    (up = true → may → exec (.ethLinkChange port link up) s = .next (s.setFlag (Reg.ethPort port) (28 + link) true)) ∧
    (up = false ∨ ¬ may → exec (.ethLinkChange port link up) s = .next (s.setFlag (Reg.ethPort port) (28 + link) false)))

/-- R180, R182, R185, R190, R191: a gap whose packet beyond it has been held for LATE_US is lost, every missing number is counted, and
release goes on. An access unit whose last packet lies LATE_US back is queued to its context in a buffer with its flags and times. SNAP of
ING_SSEL latches an entry. -/
def Obligations.IngestTimersAndSnapshot : Prop :=
  (∀ (s : State) (e : StreamIx) (x : Entry), s.entry? e = some x →
    ((∀ k ∈ x.packets, s.nowNs < k.arrived + x.late) → exec (.gapHoldExpiry e) s = .next s) ∧
    (∀ k high next, x.packets = [k] → x.seq = some (high, next) → next < k.num → k.arrived + x.late ≤ s.nowNs →
      ∃ t y, exec (.gapHoldExpiry e) s = .next t ∧ t = ((s.entryCount e 1 (k.num - next).toNat).updEntry e fun y =>
        { y with seq := some (high, k.num), lost := true }).release e 2 ∧
        t.entry? e = some y ∧ y.packets = [] ∧ y.seq = some (high, k.num + 1))) ∧
  (∀ (s : State) (e : StreamIx) (x : Entry) (a : AuOpen), s.entry? e = some x → x.open_ = some a →
    (s.nowNs < a.last + x.late → exec (.auIdleClose e) s = .next s) ∧
    (∀ d s1 h, a.last + x.late ≤ s.nowNs → a.units ≠ [] → (∀ bs, a.frag ≠ .good bs) → s.dec? x.ctx = some d → d.queue.length < 64 →
      d.paramDue = false → (frameUnits x.format a.units).length ≤ poolSize x.auPool → s.allocPool x.part x.auPool = some (s1, h) →
      ∃ t au y, exec (.auIdleClose e) s = .next t ∧ t.dec? x.ctx = some { d with queue := d.queue ++ [au] } ∧ au.handle = h ∧
        au.len = (frameUnits x.format a.units).length ∧ au.gap = (a.gap || x.gap) ∧ au.inc = a.inc ∧ au.time = x.frameTime a.ts a.first ∧
        au.srcTs = a.ts ∧ au.cmd = none ∧ t.entry? e = some y ∧ y.open_ = none ∧ y.gap = false ∧ y.packets = x.packets ∧
        t.bufs = s1.bufs)) ∧
  (∀ (s : State) (v : Word), s.Canonical → s.PfReaches Reg.ingSsel →
    ∃ t, exec (.ingSselSnap v) s = .next t ∧ t.reg Reg.ingSsel = v &&& 0x3FF ∧ t.reg Reg.ingSstat = (s.ingLatch (bitsOf v 9 0)).1 ∧
      (∀ k < 8, t.reg (Reg.ingScnt k) = BitVec.ofNat 32 (listAt 0 (s.ingLatch (bitsOf v 9 0)).2 k)) ∧
      SameRegs s t ([Reg.ingSsel, Reg.ingSstat] ++ (List.range 8).map Reg.ingScnt) ∧ t = { s with regs := t.regs })

/-- R192, R194, R195, R197-R199, R203-R205, R208, R209, R253: a Smelter that is on, enabled and idle starts the picture of the context that
it picks: a suspended one goes on; a new one takes buffers for its frame, waits for them in its place, or is discarded when its context
waits for a random access point. A finished undamaged picture frees the Smelter, its frame gets its marks and its descriptor, the references
it drops are dropped, and its access unit leaves with its last picture. A RECORDED picture is suspended when a LIVE context can run. A
context that must move gets another home; from a quarantined one it goes on at its next access unit, restarted when its state is lost. -/
def Obligations.PicturesAreDecoded : Prop :=
  (∀ (s : State) (n : SmIx) (i : PictureInfo),
    (s.domOn (smDom n) = false ∨ s.flag (Reg.smCtrl n) 0 = false ∨ s.flag (Reg.smStatus n) 31 = true ∨ (s.smelter n).pic.isSome = true →
      exec (.pictureStart n i) s = .next s) ∧
    (∀ s1 c d, s.domOn (smDom n) = true → s.flag (Reg.smCtrl n) 0 = true → s.flag (Reg.smStatus n) 31 = false → (s.smelter n).pic = none →
      s.smPick n = (s1, some (c, d)) →
      (∀ p, d.susp = some p → exec (.pictureStart n i) s = .next ((s1.updDec c fun d => { d with susp := none }).smRun n c d p)) ∧
      (∀ a rest k b, d.susp = none → d.queue = a :: rest → s1.handleCheck d.part a.handle 0 a.len = .pass k b →
        let first := decide (d.work.frames = 0)
        let s2 := if first then s1.smSequence c d i else s1
        let bad := match s2.dec? c with | some y => y.staleFlags | none => 0
        let clean := a.gap = false ∧ a.inc = false
        let starts := !d.started || (d.waitRap && first)
        (first = true → d.conceal = false ∨ clean → d.waitRap = true → ¬ clean ∨ isRap d.codec i = false ∨ i.badHeader = true →
          exec (.pictureStart n i) s = .next (s2.auDiscard n c bad true)) ∧
        (first = true → d.conceal = true → ¬ clean →
          exec (.pictureStart n i) s = .next ((s2.updDec c fun d => { d with waitRap := true }).auDiscard n c bad true)) ∧
        (first = false ∨ ((d.conceal = false ∨ clean) ∧ (d.waitRap = false ∨ (clean ∧ isRap d.codec i = true))) → i.badHeader = false →
          (bad ≠ 0 → exec (.pictureStart n i) s = .next (s2.auDiscard n c bad true)) ∧
          (bad = 0 → d.unfit i = 0 → i.existing = none →
            (s2.frameBuffers c d (frameSegs i d.pool) = none → ∀ place, place = d.asked.getD s2.nextWait → exec (.pictureStart n i) s = .next
              { s2.updDec c fun d => { d with waitFb := some place, asked := some place, askedSegs := frameSegs i d.pool, granted := false } with
                nextWait := if d.asked = none then s2.nextWait + 1 else s2.nextWait }) ∧
            (∀ s3 segs, s2.frameBuffers c d (frameSegs i d.pool) = some (s3, segs) → ∃ noRasl, exec (.pictureStart n i) s =
              .next ((s3.updDec c fun y => { y with
                frames := y.frames ++ [{ id := d.nextFrame, segs := segs, ref := false, disp := false, chain := 0, taint := false, desc := [], grain := [],
                                         order := i.order, layer := i.layer, key := isRap d.codec i }]
                nextFrame := y.nextFrame + 1
                granted := false
                asked := none
                waitRap := y.waitRap && !first
                started := true
                noRasl := noRasl }).smRun n c d { info := i, frame := d.nextFrame, start := s3.nowNs, starts := starts }))))))) ∧
  (∀ (s : State) (n : SmIx) (r : PictureResult) (c : Nat) (p : Pic) (d : DecCtx) (a : Au) (rest : List Au), s.Canonical →
    (s.smelter n).pic = some (c, p) → s.dec? c = some d → d.queue = a :: rest → (∀ path, (s.shade d.part path).rate = 0) →
    exec (.pictureComplete n r) s = .next (s.smFinish n c p d a r) ∧
    (∀ f, r.parity = none → (pictureDamage d a p.info r).flags = 0 → (r.last = true ∨ d.work.frames < 7) →
      (d.frames.find? fun f => f.id == p.frame) = some f →
      let t := s.smFinish n c p d a r
      (t.smelter n).pic = none ∧ ∃ d', t.dec? c = some d' ∧ (d'.frames.map fun g => g.id) = (d.frames.map fun g => g.id) ∧
        (∀ g ∈ d'.frames, g.id = p.frame → g.ref = r.isRef ∧ g.taint = refTainted d r ∧ g.desc =
          frameDescriptor d a p.info r (grainBytes d.codec (p.info.chroma == .mono) r.grain) f.segs (refTainted d r)) ∧
        (∀ g ∈ d'.frames, g.id ≠ p.frame → g.ref = true → g.id ∉ r.dropRefs) ∧
        d'.queue = (if r.last then rest else d.queue) ∧ d'.work.frames = (if r.last then 0 else d.work.frames + 1))) ∧
  (∀ (s : State) (n : SmIx) (c : Nat) (p : Pic) (d : DecCtx), (s.smelter n).pic = some (c, p) → s.dec? c = some d →
    (d.live = true ∨ s.smOwed n = true → exec (.recordedSuspend n) s = .next s) ∧
    (d.live = false → s.smReady n true ≠ [] → s.smOwed n = false →
      exec (.recordedSuspend n) s = .next (((s.updDec c fun d =>
        { d with susp := some { p with suspends := p.suspends + 1 }, counts := countUp d.counts 9 1 }).setSmelter n
        { s.smelter n with pic := none }).setArb (16 + n) { s.arb (16 + n) with work := none }))) ∧
  (∀ (s : State) (c : StreamIx) (ok : Bool) (d : DecCtx) (h : Nat), s.dec? c = some d → d.rehome = true →
    (∀ p, (s.smelter d.home).pic ≠ some (c.val, p)) → s.smHome (s.limit d.part 6 2 % 4096) d.hint = some h →
    let quar := s.flag (Reg.smStatus d.home) 31
    ∃ t, exec (.contextRehome c ok) s = .next t ∧
      (quar = false → t.dec? c = some { d with home := h, rehome := false }) ∧
      (quar = true → d.susp = none → d.work.frames = 0 → ok = true → t.dec? c = some { d with home := h, rehome := false }) ∧
      (quar = true → d.susp = none → d.work.frames = 0 → ok = false → t.dec? c = some { d with
        home := h
        rehome := false
        waitRap := true
        started := false
        paramDue := true
        frames := d.frames.map fun f => { f with ref := false, disp := false } }) ∧
      (∀ a rest, quar = true → d.susp ≠ none ∨ d.work.frames ≠ 0 → d.queue = a :: rest → ∃ d', t.dec? c = some d' ∧ d'.queue = rest ∧
        d'.home = h ∧ d'.rehome = false ∧ d'.susp = none) ∧
      (∀ k, k ≠ c.val → t.dec? k = s.dec? k) ∧
      (quar = false ∨ (d.susp = none ∧ d.work.frames = 0) → t = { s.powerUp (smDom h) with decs := t.decs }))

/-- R198, R199, R203, R210, R211, R281: a frame whose marks are clear and that is not being decoded is released with its segments, and one
that is still marked stays. A waiting context first in line is granted a released frame of its group once Pewter has its buffers. REC_MIN of
a window is that of SM_CTRL when it begins. SNAP of SM_CSEL latches a context. -/
def Obligations.FramesAreSharedAndReleased : Prop :=
  (∀ (s : State) (c : StreamIx) (d : DecCtx) (frame : Nat) (f : DFrame), s.dec? c = some d → (d.frames.find? fun x => x.id == frame) = some f →
    (f.chain ≠ 0 ∨ f.disp = true → exec (.frameRelease c frame) s = .next s) ∧
    (f.ref = true → d.unbound = false ∨ d.queue ≠ [] → exec (.frameRelease c frame) s = .next s) ∧
    (f.ref = false ∨ (d.unbound = true ∧ d.queue = []) → f.disp = false → f.chain = 0 → s.framePending c frame d = false →
      ∃ t, exec (.frameRelease c frame) s = .next t ∧ t.dec? c = some { d with frames := d.frames.filter fun g => g.id != frame } ∧
        (∀ k, k ≠ c.val → t.dec? k = s.dec? k) ∧ t = { f.segs.foldl (fun u h => u.unitFree d.part h) s with decs := t.decs })) ∧
  (∀ (s : State) (c : StreamIx) (d : DecCtx), s.dec? c = some d →
    let first := d.waitFb.isSome = true ∧ s.groupHeld d < s.groupBudget d ∧ (s.allocMany d.part d.pool d.askedSegs).isSome = true ∧
      ((s.groupCtxs d).any fun e => e.1 != c.val && e.2.waitFb.isSome && servedBefore d e.2) = false
    (first → ∃ t, exec (.frameBufferGrant c) s = .next t ∧ t.dec? c = some { d with waitFb := none, granted := true } ∧
      (∀ k, k ≠ c.val → t.dec? k = s.dec? k) ∧ t = { s with decs := t.decs }) ∧
    (¬ first → exec (.frameBufferGrant c) s = .next s)) ∧
  (∀ (s : State) (n : SmIx) (recRan allRan : Nat), s.Canonical →
    ∃ t, exec (.recMinWindow n recRan allRan) s = .next t ∧ t.smelter n = { s.smelter n with
        recSteps := 0, allSteps := 0, recMin := min 50 (s.fld (Reg.smCtrl n) 13 8), recRan := recRan, allRan := allRan } ∧
      (∀ m, m ≠ n.val → t.smelter m = s.smelter m) ∧ t = { s with smelters := t.smelters }) ∧
  (∀ (s : State) (n : SmIx) (v : Word), s.Canonical → s.PfReaches (Reg.smCsel n) →
    ∃ t, exec (.smCselSnap n v) s = .next t ∧ t.reg (Reg.smCsel n) = v &&& 0x3FF ∧ t.reg (Reg.smCstat n) = (s.smLatch n (bitsOf v 9 0)).1 ∧
      (∀ k < 10, t.reg (Reg.smCcnt n k) = BitVec.ofNat 32 (listAt 0 (s.smLatch n (bitsOf v 9 0)).2 k)) ∧
      SameRegs s t ([Reg.smCsel n, Reg.smCstat n] ++ (List.range 10).map (Reg.smCcnt n)) ∧ t = { s with regs := t.regs })

/-- R145, R212-R223: a SHAPE at its Shaper's turn, with its profile, descriptor and destination checked and the Shades open, writes every
pixel of its tensor in raster order, counts the saturated elements in SH_STAT, and reports its Shaper in DETAIL; it ends ISOLATED when no
Shaper of its partition is on. A pixel outside the image's place in the tensor has the letterbox colour. -/
def Obligations.ShapeWritesItsTensor : Prop :=
  (∀ (s : State) (c : Cmd) (n : Nat) (s1 : State) (f d : List Byte) (da : Nat), s.Issued c 0x20 → c.members = [n] → s.domOn (shDom n) = true →
    s.flag (Reg.shCtrl n) 0 = true → s.engineTurn (32 + n) c (fun x => x.opcode == 0x20 && x.members == [n]) = (s1, true) →
    (∀ e, s1.readProfile c (c.par 0 8) 64 = .error e → exec (.shape c.id) s = .next ((s1.noteFault 0x30 c.part e).shapeEnd c n e.1 0)) ∧
    (s1.readProfile c (c.par 0 8) 64 = .ok f → s1.frameDesc c 8 = .ok d →
      (shapeOk f d = false → exec (.shape c.id) s = .next ((s1.bump (Reg.shStat n) 23 16 1).endCmd c.id .badOpcode 0)) ∧
      (shapeOk f d = true → s1.translate c.part (c.par 16 8) (shapeExtent f) .wr = some da → s1.rangeStatus da (shapeExtent f) = .ok →
        (∀ path, (s1.shade c.part path).rate = 0) →
        ∀ s2 sat, s1.shapePixels c.part f d (shapeGeom f d) da 0 0 (spOw f * spOh f) = (s2, sat, .ok) →
          exec (.shape c.id) s = .next ((s2.bump (Reg.shStat n) 15 0 sat).endCmd c.id .ok (BitVec.ofNat 32 n))))) ∧
  (∀ (s : State) (c : Cmd) (n : Nat), s.Issued c 0x20 → c.members = [n] → s.domOn (shDom n) = false →
    (∀ m < 4, (s.limit c.part 8 1).testBit m = true → s.domOn (shDom m) = false) → exec (.shape c.id) s = .next (s.endCmd c.id .isolated 0)) ∧
  (∀ (s : State) (p : Nat) (f d : List Byte) (g : Geom) (x y : Nat), x < g.px ∨ g.px + g.rw ≤ x ∨ y < g.py ∨ g.py + g.rh ≤ y →
    s.shapePixel p f d g x y = .ok (f32OfInt (fieldAt f 40 1), f32OfInt (fieldAt f 41 1), f32OfInt (fieldAt f 42 1)))

/-- R153: suppression keeps candidates in their order, at most MAX_DET of them, and no two of one class, or of any classes when it is
class-agnostic, whose IoU is above the threshold. -/
def Obligations.SuppressionKeepsNoOverlap : Prop :=
  ∀ (agn : Bool) (thr : Word) (limit : Nat) (l : List Cand),
    let r := suppress agn thr limit l []
    r.1.length ≤ limit ∧ r.1.Sublist l ∧
    r.1.Pairwise (fun x y => agn = true ∨ x.cls = y.cls → iouAbove thr y x = false) ∧
    (r.2 = false → ∀ c ∈ l, c ∈ r.1 ∨ ∃ x ∈ r.1, (agn = true ∨ x.cls = c.cls) ∧ iouAbove thr c x = true)

/-- R148-R166, R241: a SNUFF at its Snuffer's turn leaves its list and counts truncations in SN_STAT; a TRACK at its Tracker's turn gives
its frame what it found and keeps the stream's numbering; TRACK_RESET retires every track of the stream and restarts at 1; an index pass
builds the inactive copy from the track table. -/
def Obligations.SnuffAndTrackCommands : Prop :=
  (∀ (s : State) (c : Cmd) (st : Stream) (s1 : State) (f sp d : List Byte) (vs : List Level), s.Issued c 0x50 → s.stream? c.part c.stream = some st →
    ((s.flag (Reg.ppCtrl st.quad) 0 = false ∧ c.begun = false) ∨ s.domOn (quadDom st.quad) = false → exec (.snuff c.id) s = .next (s.endCmd c.id .isolated 0)) ∧
    (s.flag (Reg.ppCtrl st.quad) 0 = true → s.domOn (quadDom st.quad) = true →
      s.engineTurn (40 + st.quad) c (fun x => x.opcode == 0x50 && x.members == [st.quad]) = (s1, true) → s1.snuffInputs c = .ok (f, sp, d, vs) →
      (∀ path, (s1.shade c.part path).rate = 0) →
      let o := snuffList f sp d vs
      let u := (s1.bump (Reg.snStat st.quad) 31 16 (boolNat o.candTrunc)).bump (Reg.snStat st.quad) 15 0 (boolNat o.detTrunc)
      exec (.snuff c.id) s = .next (((match c.src with
        | .ring _ => u
        | .frame .. => u.updJob c fun x => { x with snuff := some o }).updStream c.part c.stream fun x => { x with snuff := some o }).endCmd
          c.id .ok (BitVec.ofNat 32 o.dets.length)))) ∧
  (∀ (s : State) (c : Cmd) (st : Stream) (s0 : State) (f d : List Byte) (dg : Nat) (tk : List TokenList), s.Issued c 0x51 → s.stream? c.part c.stream = some st →
    ((s.flag (Reg.ppCtrl st.quad) 1 = false ∧ c.begun = false) ∨ s.domOn (quadDom st.quad) = false → exec (.track ⟨c.id, tk⟩) s = .next (s.endCmd c.id .isolated 0)) ∧
    (s.flag (Reg.ppCtrl st.quad) 1 = true → s.domOn (quadDom st.quad) = true →
      s.engineTurn (48 + st.quad) c (fun x => (x.opcode == 0x51 || x.opcode == 0x52) && x.members == [st.quad]) = (s0, true) →
      let s1 := s0.indexBoundary st.quad
      s1.readProfile c (c.par 0 8) 64 = .ok f → tkOk f = true → s1.frameDesc c 8 = .ok d → s1.trackDigest c st = .ok dg →
      ∀ s2 o next, s1.trackRun c.part c.stream st f c.det (fieldAt d 0 4) dg (s1.trackDets c st) = (s2, o, next) →
      let s3 := (s2.updStream c.part c.stream fun x => { x with nextTrack := next, lastSeq := some (fieldAt d 0 4), snuff := none }).updStream
        c.part c.stream fun x => { x with objs := o.objs }
      let k := BitVec.ofNat 32 (o.objs.length % 65536)
      (∀ p ix slot, c.src = .frame p ix slot → exec (.track ⟨c.id, tk⟩) s =
        .next ((s3.updJob c fun x => { x with track := some { o with tokens := tk } }).endCmd c.id .ok k)) ∧
      (∀ r, c.src = .ring r → c.par 16 8 = 0 → st.outRing = false → st.outEth = false →
        exec (.track ⟨c.id, tk⟩) s = .next (s3.endCmd c.id .ok k)))) ∧
  (∀ (s : State) (c : Cmd) (st : Stream) (s1 : State), s.Issued c 0x52 → s.stream? c.part c.stream = some st →
    s.engineTurn (48 + st.quad) c (fun x => (x.opcode == 0x51 || x.opcode == 0x52) && x.members == [st.quad]) = (s1, true) →
    let u := s1.dropTracks st.quad c.part c.stream
    exec (.trackReset c.id) s = .next ((u.updStream c.part c.stream fun x => { x with nextTrack := 1, lastSeq := none }).endCmd c.id .ok
      (BitVec.ofNat 32 ((s1.quad st.quad).ofStream c.part c.stream).length)) ∧
    (s.Canonical → (u.quad st.quad).ofStream c.part c.stream = [] ∧
      (u.quad st.quad).tracks = (s1.quad st.quad).tracks.filter fun x => !(((s1.quad st.quad).ofStream c.part c.stream).map (·.1)).contains x.1)) ∧
  (∀ (s : State) (q : QuadIx), (s.domOn (quadDom q) = false → exec (.indexRebuildPass q) s = .next s) ∧
    (s.domOn (quadDom q) = true → exec (.indexRebuildPass q) s = .next (s.setQuad q { s.quad q with
      copies := listUpd (s.quad q).copies (1 - (s.quad q).active) fun _ => ⟨max 1 (s.fld (Reg.ppCtrl q) 13 8) * 16,
        (s.quad q).tracks.map (fun x => let b := boxCells (max 1 (s.fld (Reg.ppCtrl q) 13 8) * 16) x.2.box
          (x.1, b.1 - 1, b.2.1 + 1, b.2.2.1 - 1, b.2.2.2 + 1)), true⟩ })))

/-- R224-R228: a SNAPSHOT hands the selected objects to the encoders, or ends at once when none is selected; without an encoder they are all
misses. An encoder takes the oldest object of the partition that has the turn, and its JPEG, put in a buffer, gives it a reference. -/
def Obligations.SnapshotsAreEncoded : Prop :=
  (∀ (s : State) (c : Cmd) (st : Stream) (f d : List Byte), s.Issued c 0x60 → s.stream? c.part c.stream = some st →
    s.readProfile c (c.par 0 8) 32 = .ok f →
    (seOk f = false → exec (.snapshot c.id) s = .next (s.endCmd c.id .badOpcode 0)) ∧
    (seOk f = true → s.frameDesc c 8 = .ok d →
      let l := snapSelect f (match s.jobOf c with | some j => (j.track.map fun t => t.objs).getD st.objs | none => st.objs)
      (l = [] → exec (.snapshot c.id) s = .next (s.endCmd c.id .ok 0)) ∧
      (l ≠ [] → s.encoders c.part = [] → exec (.snapshot c.id) s = .next (((s.snapMissed c.id c.part c.stream).bump (Reg.seStat 0) 31 16 l.length).endCmd
        c.id .ok (BitVec.ofNat 32 (l.length * 256)))) ∧
      (l ≠ [] → s.encoders c.part ≠ [] → ∃ t, exec (.snapshot c.id) s = .next t ∧ t.snaps = s.snaps ++ [⟨c.id, c.part, c.stream, d, f, l, 0, 0, none⟩] ∧
        t.cmd? c.id = some { c with phase := .active } ∧ t = { s with snaps := t.snaps, cmds := t.cmds }))) ∧
  (∀ (s : State) (n : SeIx) (j : SnapJob), (s.snaps.find? fun x => (s.encoders x.part).isEmpty) = some j →
    exec (.snapshotObjectEncode n) s = .next (((s.snapMissed j.cmd j.part j.stream).bump (Reg.seStat n) 31 16 1).snapStep j.cmd true)) ∧
  (∀ (s : State) (n : SeIx), (∀ x ∈ s.snaps, s.encoders x.part ≠ []) →
    let mine := s.snaps.filter fun x => s.jobFor n x
    let s0 := s.arbEnd (56 + n) 0
    (mine = [] → exec (.snapshotObjectEncode n) s = .next s) ∧
    (∀ (j : SnapJob) (u : State),
      ((mine.find? fun x => x.begun == some n.val) = some j ∧ u = s) ∨
      ((mine.find? fun x => x.begun == some n.val) = none ∧ (s0.arb (56 + n)).chosen = some j.part ∧ (mine.find? fun x => x.part == j.part) = some j ∧
        u = ({ s0 with snaps := s0.snaps.map fun x => if x.cmd = j.cmd then { x with begun := some n.val } else x } : State).setArb (56 + n)
          { s0.arb (56 + n) with chosen := none, work := some (j.part, s0.nowNs) }) →
      ∀ ix o rest bs w h v hd, j.left = (ix, o) :: rest → natBits (fieldAt j.profile 3 1) 2 0 ∉ u.poolInit → (∀ path, (u.shade j.part path).rate = 0) →
        u.snapJpeg j.part j.profile j.desc o = .ok (bs, w, h) → u.snapStore j.part (natBits (fieldAt j.profile 3 1) 2 0) bs = some (v, hd) →
        exec (.snapshotObjectEncode n) s =
          .next (((v.snapRef j.cmd j.part j.stream ⟨ix, hd, bs.length, w, h⟩).bump (Reg.seStat n) 15 0 1).snapStep j.cmd false)))

/-- R23, R169, R226, R233, R245, R250: the oldest record that has yet to go to its METADATA ring is written at the tail, padded to 64 bytes,
when its units are free, no SNAPSHOT of its frame is open and the Shades are open, and CQ_TAIL moves past it; while they are not, nothing
happens. The oldest that has yet to go to the network leaves as fragments in index order, each in a frame to E_DST, E_DPORT and E_SPORT with
the fragment as its UDP payload (R242; the headers are log entry 62's); a link that is down discards them (R401). A record takes the
stream's skipped frames when it first goes out. -/
def Obligations.RecordsLeaveInOrder : Prop :=
  ∀ (s : State) (p : PartIx) (ix : StreamIx) (st : Stream) (k : Nat) (b : Bmr), s.stream? p.val ix.val = some st → st.bmrs[k]? = some b →
    (∀ path, (s.shade p path).rate = 0) →
    let s0 := s.bmrSkips p ix k
    let w := if b.fixed then b.bytes else overlay b.bytes 36 (leBytes 2 st.skipped)
    ((st.bmrs.findIdx? fun x => x.ring) = some k →
      let n := (padTo 64 b.bytes).length / 64
      let r := st.metaRing
      (s.metaRoom r n = false ∨ s.snapsOpen p ix b.seq = true → exec (.bmrWrite p ix) s = .next s) ∧
      (s.metaRoom r n = true → s.snapsOpen p ix b.seq = false →
        let s1 := s0.ringTailWrite r p (padTo 64 w)
        let s2 := (s1.setRing r { s1.ring r with cqTail := (s1.ring r).cqTail + BitVec.ofNat 32 n }).statusBlock r p
        exec (.bmrWrite p ix) s = .next (((s2.updStream p ix fun x =>
          { x with bmrs := listUpd x.bmrs k fun y => { y with ring := false } }).countIrq r).bmrGone p ix) ∧
        s1.ring r = s.ring r ∧ (s.Canonical → s2.ring r = { s.ring r with
          cqTail := (s.ring r).cqTail + BitVec.ofNat 32 n
          statusCount := (s.ring r).statusCount + 1 }))) ∧
    ((st.bmrs.findIdx? fun x => x.eth) = some k → s.snapsOpen p ix b.seq = true → exec (.bmrDatagramSend p ix) s = .next s) ∧
    ((st.bmrs.findIdx? fun x => x.eth) = some k → s.snapsOpen p ix b.seq = false →
      let m := st.fragMax
      let cnt := (b.bytes.length + m - 1) / m
      let frag : Nat → List Byte := fun i => leBytes 2 ix ++ leBytes 2 i ++ leBytes 2 cnt ++ [0, 0] ++ leBytes 4 b.seq ++ leBytes 4 w.length ++
        ((w.drop (i * m)).take m)
      let port := natBits (st.par 38 1) 2 2
      let link := natBits (st.par 38 1) 1 0
      let u : List (Nat × Nat × List Byte) → State := fun l =>
        { s0 with freeCtr := s.freeCtr + 4 + cnt, outs := { s.outs with eth := l.reverse ++ s.outs.eth } }
      let done : State → State := fun v =>
        (v.updStream p ix fun x => { x with bmrs := listUpd x.bmrs k fun y => { y with eth := false } }).bmrGone p ix
      (s.linkUp port link = false → exec (.bmrDatagramSend p ix) s = .next (done (u []))) ∧
      (s.linkUp port link = true → ∃ (mac own ip : List Byte) (v : Nat → Nat),
        (∀ c, (s.ozmel.net.find? fun c => c.port == port && c.link == link) = some c → own = c.bytes.drop 2 ∧ ip = c.bytes.drop 16) ∧
        exec (.bmrDatagramSend p ix) s =
          .next (done (u ((List.range cnt).map fun i => (port, link, bmrFrame st mac own ip (v i) (frag i))))))) ∧
    (∀ (mac own ip : List Byte) (v : Nat) (pl : List Byte),
      let f := bmrFrame st mac own ip v pl
      let n := if (st.par 38 1).testBit 3 then 16 else 4
      let off := (if (st.par 38 1).testBit 4 then 18 else 14) + (if (st.par 38 1).testBit 3 then 40 else 20)
      60 ≤ f.length ∧ (f.drop (off - n)).take n = ((List.range n).map fun i => listAt 0 st.bind (16 + i)) ∧
      (f.drop off).take 4 = (leBytes 2 (st.par 34 2)).reverse ++ (leBytes 2 (st.par 32 2)).reverse ∧ (f.drop (off + 8)).take pl.length = pl)

/-- R230: a write to RQ_SEL selects a ring and discards the staged words; RQ_CTX0 to RQ_CTX6 stage; RQ_CTX7 commits the eight words, staged
or held, when they are in range, and sets WR_REFUSED otherwise. Enabling a ring sets its positions to 0; while it is enabled only ENABLE,
ERR_IRQ and the moderation fields change. -/
def Obligations.RingContextsCommit : Prop :=
  ∀ (s : State) (v : Word), s.Canonical →
    (s.PfReaches Reg.rqSel → ∃ t, exec (.rqSelWrite v) s = .next t ∧ t.rqStaged = [] ∧ t.fld Reg.rqSel 13 0 = bitsOf v 13 0 ∧
      t.flag Reg.rqSel 31 = (s.flag Reg.rqSel 31 && !bitOf v 31) ∧ t = { s with regs := t.regs, rqStaged := [] } ∧ SameRegs s t [Reg.rqSel]) ∧
    (∀ k : Fin 7, s.PfReaches (Reg.rqCtx k) → exec (.rqCtxStage k v) s = .next { s with rqStaged := tabErase s.rqStaged k ++ [(k.val, v)] }) ∧
    (s.PfReaches (Reg.rqCtx 7) →
      let r := s.fld Reg.rqSel 13 0
      let old := (s.ring r).ctx
      let new := ((List.range 7).map fun k => (tabFind s.rqStaged k).getD (listAt 0 old k)) ++ [v]
      let fn := match s.ringOwner r with | some (_, f) => f | none => 0
      (ctxOk (ctxCommit old new) fn = true → ∃ t, exec (.rqCtx7Commit v) s = .next t ∧
        (t.ring r).ctx = ctxCommit old new ∧
        ((s.ring r).enabled = false → (∀ k < 6, listAt 0 (t.ring r).ctx k = listAt 0 new k) ∧
          (∀ i < 32, bitOf (listAt 0 (t.ring r).ctx 6) i = (bitOf (listAt 0 new 6) i && !decide (16 ≤ i ∧ i ≤ 18 ∨ 24 ≤ i))) ∧
          (∀ i < 32, bitOf v i = bitOf (listAt 0 (t.ring r).ctx 7) i ∨ 11 ≤ i ∧ i ≤ 15 ∧ bitOf (listAt 0 (t.ring r).ctx 7) i = false)) ∧
        ((s.ring r).enabled = false → (t.ring r).enabled = true →
          (t.ring r).sqHead = 0 ∧ (t.ring r).sqTail = 0 ∧ (t.ring r).cqHead = 0 ∧ (t.ring r).cqTail = 0) ∧
        ((s.ring r).enabled = true → t.ring r = { s.ring r with ctx := (t.ring r).ctx } ∧
          (∀ k < 6, listAt 0 (t.ring r).ctx k = listAt 0 old k)) ∧
        (∀ q, q ≠ r → t.ring q = s.ring q) ∧ t = { s with rings := t.rings, rqStaged := [] }) ∧
      (ctxOk (ctxCommit old new) fn = false → exec (.rqCtx7Commit v) s = .next { s.setFlag Reg.rqSel 31 true with rqStaged := [] }))

/-- R231, R232, R239, R315, R323: a 32-bit access to PF BAR2 is one to the doorbell block of the PF ring there; reads give SQ_HEAD and the
armed bit. A doorbell write reaches the ring behind it when its function answers. SQ_TAIL and CQ_HEAD take a value within their bounds; one
outside them, or without a ring of the PF behind it, is ignored and recorded. IRQ_ARM with 1 arms the ring, which sends at once when
completions are counted; the moderation timer sends for an armed ring. A message disarms, clears the count and leaves as MSI-X, or sets its
pending bit. -/
def Obligations.DoorbellsAndInterrupts : Prop :=
  (∀ (s : State) (d : Door) (v : Word) (r fn off : Nat), s.doorRing d = (some r, fn, off) → s.fnAnswers fn = true →
    let rg := s.ring r
    let back := (rg.sqTail - v).toNat
    let owner := match s.ringOwner r with | some (_, f) => f | none => 0
    let msg := (s.setRing r { rg with armed := false, counted := 0 }).msixDue owner rg.vec
    ((v - rg.sqHead).toNat ≤ rg.sqSize → back = 0 ∨ 2 ^ 31 < back → exec (.sqTailDoorbell d v) s = .next (s.setRing r { rg with sqTail := v })) ∧
    (rg.sqSize < (v - rg.sqHead).toNat ∨ 1 ≤ back ∧ back ≤ 2 ^ 31 → exec (.sqTailDoorbell d v) s = .next (s.ignoredWrite 0x06 off)) ∧
    ((v - rg.cqHead).toNat ≤ (rg.cqTail - rg.cqHead).toNat → exec (.cqHeadDoorbell d v) s = .next (s.setRing r { rg with cqHead := v })) ∧
    ((rg.cqTail - rg.cqHead).toNat < (v - rg.cqHead).toNat → exec (.cqHeadDoorbell d v) s = .next (s.ignoredWrite 0x06 off)) ∧
    (bitOf v 0 = false → exec (.irqArm d v) s = .next s) ∧
    (bitOf v 0 = true → rg.counted = 0 → exec (.irqArm d v) s = .next (s.setRing r { rg with armed := true })) ∧
    (s.Canonical → bitOf v 0 = true → 0 < rg.counted → ∃ t, exec (.irqArm d v) s = .next t ∧ (t.ring r).armed = false ∧ (t.ring r).counted = 0 ∧
      (∀ q, q ≠ r → t.ring q = s.ring q) ∧ (s.msixReady owner rg.vec = true → t.outs.msix = (owner, rg.vec) :: s.outs.msix) ∧
      t = { s with rings := t.rings, outs := t.outs, pcie := t.pcie }) ∧
    (∀ r' : RingIx, r'.val = r → rg.armed = true → 0 < rg.counted → rg.modUs ≠ 0 → exec (.moderationTimeout r') s = .next msg) ∧
    (s.msixReady owner rg.vec = true → msg = { s.setRing r { rg with armed := false, counted := 0 } with
      outs := { s.outs with msix := (owner, rg.vec) :: s.outs.msix } }) ∧
    (s.msixReady owner rg.vec = false → msg = (s.setRing r { rg with armed := false, counted := 0 }).setFunc owner
      { s.func owner with pba := insertSorted rg.vec (s.func owner).pba })) ∧
  (∀ (s : State) (d : Door) (v : Word) (off : Nat) (c : Instr), s.doorRing d = (none, 0, off) → s.fnAnswers 0 = true →
    c ∈ [Instr.sqTailDoorbell d v, .cqHeadDoorbell d v, .irqArm d v] → exec c s = .next (s.ignoredWrite 0x06 off)) ∧
  (∀ (s : State) (r : RingIx) (v : Word) (k : Nat) (c : Instr),
    let d := Door.pf r
    let off := r.val / 64 * 0x1000 + r.val % 64 * 0x40
    ((k, c) ∈ [(0, Instr.sqTailDoorbell d v), (4, .cqHeadDoorbell d v), (8, .irqArm d v)] →
      exec (.registerWrite .doorbells (off + k) .b32 (v.setWidth 64)) s = exec c s) ∧
    (∀ q fn o, s.pfAnswers = true → s.doorRing d = (some q, fn, o) → s.fnAnswers fn = true →
      (k, v) ∈ [(0, (s.ring q).sqHead), (4, 0), (8, BitVec.ofNat 32 (boolNat (s.ring q).armed))] →
      exec (.rcRegisterRead .doorbells (off + k) .b32) s = .next { s with outs := { s.outs with busData := v.setWidth 64 } }))

/-- R229, R233-R238, R249: a Dispatcher reads the next whole packet of the one ring that has one, as a command with the packet's fields, and
SQ_HEAD moves behind it; a command that nothing holds back is sent to its engine; one whose header failed ends as it is interpreted; a
command that has ended writes its record and the ring's status block to host memory and leaves. -/
def Obligations.CommandsPassThroughRings : Prop :=
  (∀ (s : State) (d : DsIx) (r : RingIx) (bs : List Byte) (p fn : Nat), s.Canonical → r.val / 2048 = d.val → r.val ∈ s.rings.map (·.1) →
    s.nextPacket r = some bs → (∀ q, q / 2048 = d.val → q ≠ r.val → s.nextPacket q = none) → s.servedBy r = some (p, fn) →
    (∀ path, (s.shade p path).rate = 0) →
    ∃ t c, exec (.commandFetch d) s = .next t ∧ t.cmds = s.cmds ++ [c] ∧ c.id = s.nextId ∧ c.src = .ring r ∧ c.opcode = fieldAt bs 0 1 ∧
      c.tag = fieldAt bs 2 2 ∧ c.index = fieldAt bs 4 2 ∧ c.part = p ∧ c.fn = fn ∧ c.phase = .fetched ∧ c.status = headerCheck bs ∧
      c.ordered = (fieldAt bs 1 1).testBit 3 ∧ c.chain = (fieldAt bs 1 1).testBit 2 ∧ c.irq = (fieldAt bs 1 1).testBit 1 ∧
      c.fence = (fieldAt bs 1 1).testBit 0 ∧ (headerCheck bs = .ok → c.params = (bs.drop 8).take (8 * fieldAt bs 6 2)) ∧
      t.ring r = { s.ring r with sqHead := (s.ring r).sqHead + BitVec.ofNat 32 (bs.length / 64) } ∧ (∀ q, q ≠ r.val → t.ring q = s.ring q) ∧
      t = { s with cmds := t.cmds, rings := t.rings, nextId := s.nextId + 1, dsNext := t.dsNext }) ∧
  (∀ (s : State) (r : RingIx) (c : Cmd), s.Canonical → (s.cmds.filter fun x => x.src == .ring r) = [c] → s.cmd? c.id = some c →
    c.phase = .fetched → (s.ring r).chainPrev = none → (s.ring r).chainFail = none → (s.ring r).chainLen = 0 →
    s.ringOwner r = some (c.part, c.fn) → s.partValid c.part = true → ((s.ring r).cqTail - (s.ring r).cqHead).toNat + 1 ≤ (s.ring r).cqSize →
    (c.status = .ok → c.chain = false → s.issueHeld' c [] = false → s.issueCheck c (s.ring r) r = none → c.opcode ∉ [0x20, 0x38, 0x50, 0x51, 0x52] →
      ∃ t, exec (.commandIssue (.ring r)) s = .next t ∧ t.cmd? c.id = some { c with phase := .issued, members := [], place := s.nextId, mapChanged := false } ∧
        (∀ id, id ≠ c.id → t.cmd? id = s.cmd? id) ∧
        t = { s with cmds := t.cmds, nextId := s.nextId + 1, rings := (s.setRing r (chainNext (s.ring r) c)).rings }) ∧
    (c.status ≠ .ok → ∃ t, exec (.commandIssue (.ring r)) s = .next t ∧ t.cmd? c.id = some { c with phase := .ended } ∧
      (∀ id, id ≠ c.id → t.cmd? id = s.cmd? id) ∧ t = { s with cmds := t.cmds, rings := (s.setRing r (chainNext (s.ring r) c)).rings })) ∧
  (∀ (s : State) (r : RingIx) (c : Cmd), s.Canonical → s.cmd? c.id = some c → c.phase = .ended → c.src = .ring r → s.shapeBehind c = false → (s.ring r).loc = true →
    s.hostWritable c.fn = true → (∀ path, (s.shade c.part path).rate = 0) → c.irq = false → (s.ring r).errIrq = false ∨ c.status.success = true →
    let rg := s.ring r
    ∃ t, exec (.commandComplete c.id) s = .next t ∧ t.cmds = s.cmds.filter (fun x => x.id != c.id) ∧
      t.ring r = { chainFails rg c with cqTail := rg.cqTail + 1, statusCount := rg.statusCount + 1 } ∧ (∀ q, q ≠ r.val → t.ring q = s.ring q) ∧
      t.host = ((s.writeHost (rg.cqBase + rg.cqTail.toNat % rg.cqSize * 16) (recordBytes c s.stamp)).writeHost rg.statusAddr
        (leBytes 4 rg.sqHead.toNat ++ leBytes 4 (rg.cqTail + 1).toNat ++ leBytes 4 (rg.statusCount + 1).toNat ++ leBytes 4 0)).host ∧
      t = { s with cmds := t.cmds, rings := t.rings, host := t.host, counters := t.counters })

/-- R240, R241, R247, R71: NOP and FENCE end with OK, FENCE only after every earlier command of its ring; TIMESTAMP stores the 16 latched
bytes at DST; RANGE_SCAN stores the 144-byte record of its values and reports the shift; FILL writes its pattern and COPY copies one row,
inside the device or to host memory, where the Shades are open; a COPY from host memory sends read requests, and its last completion ends
it. -/
def Obligations.DispatcherCommands : Prop :=
  ∀ (s : State) (c : Cmd),
    (s.Issued c 0x00 → exec (.nop c.id) s = .next (s.endCmd c.id .ok 0)) ∧
    (s.Issued c 0x01 → exec (.fence c.id) s = .next (if ((s.cmds.takeWhile fun x => x.id != c.id).any fun x => x.src == c.src) then s
      else s.endCmd c.id .ok 0)) ∧
    (s.Issued c 0x02 → (c.par 0 8 = 0 → exec (.timestamp c.id) s = .next (s.endCmd c.id .ok 0)) ∧
      (c.par 0 8 % 8 ≠ 0 → exec (.timestamp c.id) s = .next ((s.noteFault 0x06 c.part (.align, some (c.par 0 8))).endCmd c.id .align 0)) ∧
      (∀ da, (∀ path, (s.shade c.part path).rate = 0) → c.par 0 8 ≠ 0 → c.par 0 8 % 8 = 0 →
        s.translate c.part (c.par 0 8) c.latched.length .wr = some da → s.rangeStatus da c.latched.length = .ok →
        s.partialPoison da c.latched.length = none → exec (.timestamp c.id) s = .next ((s.store da c.latched).endCmd c.id .ok 0))) ∧
    (s.Issued c 0x38 → (∀ path, (s.shade c.part path).rate = 0) → (c.members.any fun m => s.lanternOut m) = false →
      ∀ raws da, 8 ≤ c.par 0 1 % 16 → c.par 0 1 % 16 ≤ 10 → c.par 1 1 % 16 ≤ 5 → c.par 4 4 ≤ 1000000 → c.par 16 4 ≠ 0 →
      s.rdRaws c.part (c.par 8 8) (c.par 0 1 % 16) (c.par 16 4) = .ok raws →
      let rec_ := scanRecord ((c.par 2 1).testBit 0) (c.par 1 1 % 16) (c.par 4 4) (raws.map fun x => codeNum (c.par 0 1 % 16) x)
      s.translate c.part (c.par 24 8) rec_.length .wr = some da → s.rangeStatus da rec_.length = .ok → s.partialPoison da rec_.length = none →
      exec (.rangeScan c.id) s = .next ((s.store da rec_).endCmd c.id .ok (BitVec.ofNat 32 (fieldAt rec_ 4 1)))) ∧
    (s.Issued c 0x71 → s.Canonical → s.poison = [] → (∀ path, (s.shade c.part path).rate = 0) → c.par 12 4 ≤ 1 → copyAligned (copyReq c) false = true →
      s.copyBehind c = false →
      ∀ da, s.translate c.part (c.par 0 8) (c.par 8 4) .wr = some da → (∀ i < c.par 8 4, s.accessStatus (da + i) = .ok) →
      ∃ t, exec (.fill c.id) s = .next t ∧ (∀ i < c.par 8 4, (t.memByte (da + i)).toNat = c.par 24 8 / 2 ^ (8 * (i % 8)) % 256) ∧
        SameMemBut s t da (c.par 8 4) ∧ t = { s with mem := t.mem, rmos := t.rmos, ingots := t.ingots, banks := t.banks, cmds := (s.endCmd c.id .ok 0).cmds }) ∧
    (s.Issued c 0x70 → s.Canonical → s.poison = [] → (∀ path, (s.shade c.part path).rate = 0) → c.par 20 4 ≤ 1 → copyAligned (copyReq c) true = true →
      s.copyBehind c = false →
      (c.par 32 1 % 4 = 0 → c.par 0 8 < 2 ^ 37 → c.par 8 8 < 2 ^ 37 → ∀ da db, s.translate c.part (c.par 0 8) (c.par 16 4) .rd = some da →
        s.translate c.part (c.par 8 8) (c.par 16 4) .wr = some db → (da + c.par 16 4 ≤ db ∨ db + c.par 16 4 ≤ da) →
        (∀ i < c.par 16 4, s.accessStatus (da + i) = .ok ∧ s.accessStatus (db + i) = .ok) →
        ∃ t, exec (.copy c.id) s = .next t ∧ (∀ i < c.par 16 4, t.memByte (db + i) = s.memByte (da + i)) ∧ SameMemBut s t db (c.par 16 4) ∧
          t = { s with mem := t.mem, rmos := t.rmos, ingots := t.ingots, banks := t.banks, cmds := (s.endCmd c.id .ok 0).cmds }) ∧
      (c.par 32 1 % 4 = 1 → s.hostWritable c.fn = true → ∀ da, s.translate c.part (c.par 0 8) (c.par 16 4) .rd = some da →
        s.rangeStatus da (c.par 16 4) = .ok →
        exec (.copy c.id) s = .next ((s.writeHost (c.par 8 8) (s.readMem da (c.par 16 4))).endCmd c.id .ok 0)) ∧
      (c.par 32 1 % 4 = 2 → s.hostReadable c.fn = true → s.pcie.reads = [] → c.aux = 0 → c.par 16 4 ≤ 4096 - c.par 0 8 % 4096 →
        ∀ db, s.translate c.part (c.par 8 8) (c.par 16 4) .wr = some db →
        ∃ t, exec (.copy c.id) s = .next t ∧ t.pcie.reads = [⟨s.nextId, c.fn, c.id, c.par 0 8, c.par 16 4, db⟩] ∧
          t.cmd? c.id = some { c with phase := .active, gang := db, aux := 1 } ∧
          t = { s with cmds := t.cmds, nextId := s.nextId + 1, pcie := { s.pcie with reads := t.pcie.reads } })) ∧
    (∀ (x : HostRead) (bytes : List Byte), s.Canonical → s.pcie.reads = [x] → s.cmd? x.cmd = some c → c.phase = .active → c.status = .ok → c.opcode = 0x70 →
      c.params.length = 40 → c.par 20 4 ≤ 1 → c.par 16 4 ≤ 4096 - c.par 0 8 % 4096 → c.aux = 1 → s.hostReadable c.fn = true → s.poison = [] →
      bytes.length = x.len → s.rangeStatus x.dst x.len = .ok → 0 < x.len →
      ∃ t, exec (.hostReadCompletion x.id bytes) s = .next t ∧ t.readMem x.dst x.len = bytes ∧ SameMemBut s t x.dst x.len ∧
        t.cmd? x.cmd = some { c with phase := .ended, status := .ok, detail := 0 } ∧
        t = { s with mem := t.mem, rmos := t.rmos, ingots := t.ingots, banks := t.banks, cmds := t.cmds, pcie := { s.pcie with reads := [] } })

/-- R278-R283: POOL_ALLOC gives its COUNT handles, all or none: for one buffer, the eligible one of lowest index, with the partition in its
first slot. POOL_FREE empties the highest slot of the partition, and raises GEN when that was the last hold. POOL_SHARE puts PART into the
lowest empty slot. A handle that fails a check ends the command with that status and changes no buffer. R277: setting a POOL_EN bit enables
the pool when every check passes, with every buffer of it free at GEN 0, and is refused otherwise; clearing one disables a pool without
allocated buffers. A refusal keeps the bit and sets CFG_REFUSED. While PW_CTRL is locked neither happens. Allocations wait until the state
entries are written. -/
def Obligations.PoolsAllocateAndEnable : Prop :=
  ((∀ (s : State) (c : Cmd), s.Issued c 0x72 →
    (c.par 0 4 = 0 ∨ 0x400000 < c.par 0 4 ∨ c.par 4 2 = 0 ∨ 256 < c.par 4 2 → exec (.poolAlloc c.id) s = .next (s.endCmd c.id .badOpcode 0)) ∧
    (0 < c.par 0 4 → c.par 0 4 ≤ 0x400000 → 0 < c.par 4 2 → c.par 4 2 ≤ 256 → c.par 8 8 % 8 = 0 →
      ∀ da, s.translate c.part (c.par 8 8) (8 * c.par 4 2) .wr = some da → s.accessStatus da = .ok →
      (s.allocWaits (c.par 0 4) = true → exec (.poolAlloc c.id) s = .next s) ∧
      (s.allocWaits (c.par 0 4) = false → (∀ path, (s.shade c.part path).rate = 0) → s.allocBufs c.part (c.par 0 4) (c.par 4 2) = none → exec (.poolAlloc c.id) s = .next (s.endCmd c.id .noBuffer 0)) ∧
      (∀ s1 hs, s.allocWaits (c.par 0 4) = false → (∀ path, (s.shade c.part path).rate = 0) →
        s.allocBufs c.part (c.par 0 4) (c.par 4 2) = some (s1, hs) → hs.length = c.par 4 2 ∧ s1 = { s with bufs := s1.bufs } ∧
        exec (.poolAlloc c.id) s = .next ((s1.store da ((hs.map fun h => leBytes 8 h).flatten)).endCmd c.id .ok (BitVec.ofNat 32 (c.par 4 2)))) ∧
      (∀ k i, c.par 4 2 = 1 → poolFor (c.par 0 4) = some k → s.poolEn k = true → k ∉ s.poolInit → s.quotaAllows c.part k 1 = true →
        s.stateTableLost = false → s.eligible c.part k = some i →
        s.allocBufs c.part (c.par 0 4) 1 =
          some (s.setBuf k i { s.buf k i with slots := [some c.part, none, none, none] }, [handleOf (s.buf k i).gen.toNat k i])))) ∧
  (∀ (s : State) (c : Cmd) (k i : Nat), s.Issued c 0x73 → s.handleCheck c.part (c.par 0 8) 0 0 = .pass k i →
    ∀ j, lastSlot (s.buf k i).slots c.part = some j →
    let sl := listUpd (s.buf k i).slots j fun _ => none
    (sl.all (·.isNone) = true → exec (.poolFree c.id) s = .next ((s.setBuf k i ⟨(s.buf k i).gen + 1, sl⟩).endCmd c.id .ok 1)) ∧
    (sl.all (·.isNone) = false → exec (.poolFree c.id) s = .next ((s.setBuf k i { s.buf k i with slots := sl }).endCmd c.id .ok 0))) ∧
  (∀ (s : State) (c : Cmd) (k i : Nat), s.Issued c 0x74 → s.handleCheck c.part (c.par 0 8) 0 0 = .pass k i →
    let q := c.par 8 1 % 64
    (s.partValid q = false → exec (.poolShare c.id) s = .next (s.endCmd c.id .bounds 0)) ∧
    (s.partValid q = true → (∀ j < 4, listAt none (s.buf k i).slots j ≠ none) → exec (.poolShare c.id) s = .next (s.endCmd c.id .quota 0)) ∧
    (∀ j < 4, s.partValid q = true → listAt none (s.buf k i).slots j = none → (∀ j' < j, listAt none (s.buf k i).slots j' ≠ none) →
      ((s.buf k i).owns q = false → s.quotaAllows q k 1 = false → exec (.poolShare c.id) s = .next (s.endCmd c.id .quota 0)) ∧
      ((s.buf k i).owns q = true ∨ s.quotaAllows q k 1 = true → exec (.poolShare c.id) s =
        .next ((s.setBuf k i { s.buf k i with slots := listUpd (s.buf k i).slots j fun _ => some q }).endCmd c.id .ok (BitVec.ofNat 32 j))))) ∧
  (∀ (s : State) (c : Cmd) (op : Nat) (i : Instr) (st : Status), (i, op) ∈ [(Instr.poolFree c.id, 0x73), (.poolShare c.id, 0x74)] →
    s.Issued c op → s.handleCheck c.part (c.par 0 8) 0 0 = .fail st →
    exec i s = .next ((s.useHandle c.part (c.par 0 8) 0 0).1.endCmd c.id st 0) ∧ (s.useHandle c.part (c.par 0 8) 0 0).1.bufs = s.bufs)) ∧
  (∀ (s : State) (k : PoolIx), s.Canonical → s.PfReaches Reg.pwCtrl →
    (s.flag Reg.pwCtrl 31 = false → s.poolEn k = false → s.poolEnableOk k = true → exec (.poolEnable k) s = .next
      { s.setFlag Reg.pwCtrl k true with bufs := s.bufs.filter (fun e => e.1 / 2 ^ 24 != k.val), poolInit := insertSorted k s.poolInit }) ∧
    (s.flag Reg.pwCtrl 31 = false → s.poolEn k = false → s.poolEnableOk k = false → exec (.poolEnable k) s = .next (s.cfgRefused Reg.pwCtrl)) ∧
    (s.flag Reg.pwCtrl 31 = false → s.poolEn k = true → s.poolLive k = [] → exec (.poolDisable k) s = .next
      { s.setFlag Reg.pwCtrl k false with poolInit := s.poolInit.filter (· != k.val) }) ∧
    (s.flag Reg.pwCtrl 31 = false → s.poolEn k = true → s.poolLive k ≠ [] → exec (.poolDisable k) s = .next (s.cfgRefused Reg.pwCtrl)) ∧
    (s.flag Reg.pwCtrl 31 = true → s.poolEn k = false → exec (.poolEnable k) s = .next (s.lockViolation 0x07 Reg.pwCtrl)) ∧
    (s.flag Reg.pwCtrl 31 = true → s.poolEn k = true → exec (.poolDisable k) s = .next (s.lockViolation 0x07 Reg.pwCtrl)) ∧
    exec (.poolStateInitDone k) s = .next { s with poolInit := s.poolInit.filter (· != k.val) } ∧
    ((s.cfgRefused Reg.pwCtrl).poolEn k = s.poolEn k ∧ (s.cfgRefused Reg.pwCtrl).flag Reg.pwCtrl 30 = true))

/-- R251, R275: PART_WRITE_SHADOW copies its source range into the shadow table and changes no active table; a wrong table or length ends it
with BAD_OPCODE, a source that does not translate with BOUNDS, and one that names a partition being swapped is held. RUN_ABORT (R249, R250)
aborts the ring's other incomplete commands, all of them or those of its TAG, and reports their number; a PART_SWAP in progress takes a
mark. -/
def Obligations.ShadowWriteAndRunAbort : Prop :=
  (∀ (s : State) (c : Cmd), s.MgmtIssued c 0x80 →
    let p := c.par 0 1 % 64
    let tb := c.par 1 1
    let len := c.par 4 4
    (s.swapping p = true → exec (.partWriteShadow c.id) s = .next { s.updCmd c.id fun c => { c with phase := .active } with
      swap := { s.swap with heldCmds := s.swap.heldCmds ++ [c.id] } }) ∧
    (s.swapping p = false → 4 < tb ∨ len ≠ 4 * tableWords tb → exec (.partWriteShadow c.id) s = .next (s.endCmd c.id .badOpcode 0)) ∧
    (s.swapping p = false → tb ≤ 4 → len = 4 * tableWords tb →
      (s.translate c.part (c.par 8 8) len .rd = none → exec (.partWriteShadow c.id) s =
        .next ((s.noteFault 0x09 c.part (.bounds, some (c.par 8 8))).endCmd c.id .bounds 0)) ∧
      (∀ da, (∀ path, (s.shade c.part path).rate = 0) → s.translate c.part (c.par 8 8) len .rd = some da → s.readStatus da len = (.ok, none) → exec (.partWriteShadow c.id) s =
        .next (((bytesWords (s.readMem da len)).zipIdx.foldl (fun s w => s.putShadow p (tabKey tb w.2) w.1) s).endCmd c.id .ok 0)))) ∧
  (∀ (s : State) (c : Cmd), s.MgmtIssued c 0x84 →
    let all := (c.par 2 1).testBit 0
    let l := s.cmds.filter fun x => x.src == c.src && x.id != c.id && x.phase != .ended && x.status != .aborted && (all || x.tag == c.par 0 2)
    exec (.runAbort c.id) s = .next ((l.foldl (fun s x => s.abortOne x) s).endCmd c.id .ok (BitVec.ofNat 32 l.length)) ∧
    (∀ x, x ∈ l → (match s.swap.current with | some r => r.cmd ≠ some x.id | none => True) → s.abortOne x = s.abortCmd x) ∧
    (∀ x r, s.swap.current = some r → r.cmd = some x.id → s.abortOne x = { s with swap := { s.swap with current := some { r with aborted := true } } }))

/-- R249, R258-R261, R274: PART_SWAP with an empty mask ends at once with OK; otherwise it takes its turn behind the swap in progress, its
failed check ends it with nothing changed, and a passed check starts the drain. Once the drain limit is over, a timeout aborts what still
drains. With nothing left to drain the units that must be scrubbed are, one by one; then, with no image to load and nothing that waits, the
shadow table of every partition of the mask becomes its active table and the others keep theirs; the status register takes OK and the
duration. A swap that RUN_ABORT has marked ends with ABORTED, its tables kept. A re-form is queued in the same way (R257). -/
def Obligations.PartitionSwapPhases : Prop :=
  (∀ (s : State) (c : Cmd), s.MgmtIssued c 0x81 →
    let r : SwapReq := { cmd := some c.id, mask := BitVec.ofNat 64 (c.par 0 8), arrived := s.nowNs, reform := none }
    let u : State := { s.updCmd c.id fun c => { c with phase := .active } with swap := { s.swap with queue := s.swap.queue ++ [r] } }
    (c.par 0 8 = 0 → s.Canonical → ∃ t, exec (.partSwap c.id) s = .next t ∧ t.fld Reg.pswapStatus 23 16 = 0 ∧ t.fld Reg.pswapStatus 15 0 = 0 ∧
      t = { s with regs := t.regs, cmds := (s.endCmd c.id .ok 0).cmds } ∧ SameRegs s t [Reg.pswapStatus]) ∧
    (c.par 0 8 ≠ 0 → s.swap.current.isSome = true → exec (.partSwap c.id) s = .next u) ∧
    (c.par 0 8 ≠ 0 → s.swap.current = none → s.swap.queue = [] →
      (u.swapCheck r = none → exec (.partSwap c.id) s = .next (({ u.setFld Reg.pswapStatus 31 28 10 with
        swap := { s.swap with current := some { r with began := s.nowNs }, queue := [] } } : State).unbindLeaving r)) ∧
      (∀ st d, s.Canonical → u.swapCheck r = some (st, d) → ∃ t, exec (.partSwap c.id) s = .next t ∧ t.cmds = (s.endCmd c.id st d).cmds ∧
        t.fld Reg.pswapStatus 31 28 = 0 ∧ t.fld Reg.pswapStatus 23 16 = st.code ∧
        t = { s with regs := t.regs, cmds := t.cmds, swap := { s.swap with queue := [] } } ∧ SameRegs s t [Reg.pswapStatus]))) ∧
  (∀ (s : State) (p : PartIx) (e : Fin 64) (n : LnIx), tabValid (s.part p).active = true → gangReformBit (gangEntry (s.part p).active e) = true →
    s.flag (Reg.lnStatus n) 31 = true → (gangMembers (s.part p).active e).contains n.val = true →
    let r : SwapReq := { cmd := none, mask := BitVec.ofNat 64 (2 ^ p.val), arrived := s.nowNs, reform := some (p, e, n) }
    (s.swap.current.isSome = true → exec (.gangReform p e n) s = .next { s with swap := { s.swap with queue := s.swap.queue ++ [r] } }) ∧
    (s.swap.current = none → s.ozmel.handover = none → s.swap.queue = [] → exec (.gangReform p e n) s = .next (({ s.setFld Reg.pswapStatus 31 28 10 with
      swap := { s.swap with current := some { r with began := s.nowNs }, queue := [] } } : State).unbindLeaving r))) ∧
  (∀ (s : State) (r : SwapReq), s.swap.current = some r →
    let limit := 1000 * max 100 (min 2500 (s.fld Reg.pswapCtrl 11 0))
    (s.nowNs < r.began + limit ∨ r.scrubs ≠ [] → exec .swapDrainTimeout s = .next s) ∧
    (r.began + limit ≤ s.nowNs → r.scrubs = [] → exec .swapDrainTimeout s =
      .next ((s.cmds.filter fun c => c.draining && s.inScope r c).foldl (fun s c => s.abortCmd c)
        { s with swap := { s.swap with current := some { r with late := true } } }))) ∧
  (∀ (s : State) (r : SwapReq), s.Canonical → s.swap.current = some r → r.reform = none → s.swap.queue = [] → s.swap.held = [] → s.swap.heldCmds = [] →
    s.swap.resetPart = none → s.swap.resetBlock = none → s.ozmel.activateWaits = none →
    let old := (List.range 64).map fun p => (s.part p).active
    let new := s.newTables r
    let us := (s.swapPower old new).scrubUnits old new
    let idle := (∀ c ∈ s.cmds, (c.draining && s.inScope r c) = false) ∧ s.unbindLeaving r = s ∧ (r.late = true ∨ s.leavingOver r = true)
    let still := ∀ p < 64, ∀ e < 64, r.mask.toNat.testBit p = true → loadsImage (s.part p).active (s.part p).shadow e = false
    (r.aborted = false → r.scrubs = [] → idle → us = [] → still → ∃ t, exec (.swapDrainEnd false) s = .next t ∧ SwapDone r s t) ∧
    (r.aborted = false → r.scrubs = [] → idle → us ≠ [] → ∃ t, exec (.swapDrainEnd false) s = .next t ∧
      t.swap = { s.swap with current := some { r with scrubs := us, loadFault := false } } ∧ t.fld Reg.pswapStatus 31 28 = 11 ∧ t.parts = s.parts) ∧
    (∀ (u : ScrubUnit) i l, r.aborted = false → r.loadFault = false → r.scrubs.contains i = true → r.scrubs.filter (· != i) = l →
      (∃ n : LnIx, u = .ingot n ∧ i = n.val) ∨ (∃ k : CbIx, u = .crucible k ∧ i = 16 + k.val) →
      (l = [] → still → ∃ t, exec (.scrubComplete u) s = .next t ∧ SwapDone r s t) ∧
      (l ≠ [] → ∃ t, exec (.scrubComplete u) s = .next t ∧ t.parts = s.parts ∧ t.swap = { s.swap with current := some { r with scrubs := l } })) ∧
    (r.aborted = true → r.scrubs = [] → ∀ f, ∃ t, exec (.swapDrainEnd f) s = .next t ∧ t.swap.current = none ∧ t.parts = s.parts ∧
      t.fld Reg.pswapStatus 31 28 = 0 ∧ t.fld Reg.pswapStatus 23 16 = Status.aborted.code))

/-- R267-R269, R271, R272: SHARE_SET changes one share and rescales the partition's credits on the units of the class; SHADE_SET changes
rate and depth at once, clips the tokens, and releases every waiting request when the path becomes unregulated; the oldest waiting request
is granted when the tokens are at least 0 and takes its bytes. A unit in the middle of its work has no decision point. At one the work that
ends is charged with its time, and the first ready partition with credit, after the one chosen last, is chosen. -/
def Obligations.SharesShadesAndDecisions : Prop :=
  (∀ (s : State) (c : Cmd), s.Canonical → s.MgmtIssued c 0x82 →
    let p := c.par 0 1 % 64
    let k := c.par 1 1
    let v := c.par 2 2
    (4 < k ∨ v = 0 → exec (.shareSet c.id) s = .next (s.endCmd c.id .badOpcode 0)) ∧
    (k ≤ 4 → v ≠ 0 → ∃ t, exec (.shareSet c.id) s = .next t ∧
      t.part p = { s.part p with shares := listUpd (s.part p).shares k fun _ => v } ∧ (∀ q, q ≠ p → t.part q = s.part q) ∧
      (∀ u ∈ classUnits k, t.credit u p =
        clampInt (-(2 ^ 31)) (2 ^ 31) ((s.credit u p * (v : Int)).tdiv (listAt 256 (s.part p).shares k : Nat))) ∧
      (∀ u q, q < 64 → u ∉ classUnits k ∨ q ≠ p → t.credit u q = s.credit u q) ∧
      t = { s with parts := t.parts, credits := t.credits, cmds := (s.endCmd c.id .ok 0).cmds })) ∧
  (∀ (s : State) (c : Cmd), s.MgmtIssued c 0x83 →
    let p := c.par 0 1 % 64
    let path := c.par 1 1
    let rate := c.par 4 4
    let depth := c.par 8 4
    (6 < path ∨ rate ≠ 0 ∧ (depth < 4096 ∨ 2 ^ 30 < depth) → exec (.shadeSet c.id) s = .next (s.endCmd c.id .badOpcode 0)) ∧
    (path ≤ 6 → rate = 0 → exec (.shadeSet c.id) s = .next ((s.updShade p path fun h =>
      { h with rate := 0, depth := depth, tokens := 1000 * depth, last := s.nowNs, waiting := [], granted := [] }).endCmd c.id .ok 0)) ∧
    (path ≤ 6 → rate ≠ 0 → 4096 ≤ depth → depth ≤ 2 ^ 30 → exec (.shadeSet c.id) s = .next ((s.updShade p path fun h =>
      { h with rate := rate, depth := depth, last := s.nowNs
               tokens := min (s.shadeTokens p path) (1000 * depth : Nat) }).endCmd c.id .ok 0))) ∧
  (∀ (s : State) (p : PartIx) (path : Fin 7) (k n : Nat) (w : List (Nat × Nat)), (s.shade p path).waiting = (k, n) :: w → 0 ≤ s.shadeTokens p path →
    exec (.shadeGrant p path) s = .next (s.updShade p path fun h =>
      { h with tokens := s.shadeTokens p path - 1000 * n, last := s.nowNs, waiting := w
               granted := if k = ingestKey then h.granted else h.granted ++ [k] })) ∧
  (∀ (s : State) (u : ArbUnit) (steps p : Nat), 16 ≤ arbCode u → s.unitBusy u = false → (s.arb (arbCode u)).work = none → s.unitReady u ≠ [] →
    s.arbFirst (arbCode u) (s.unitReady u) = some p → exec (.arbitrationDecision u steps) s =
      .next (s.setArb (arbCode u) { s.arb (arbCode u) with chosen := some p, last := p })) ∧
  (∀ (s : State) (u : ArbUnit) (steps : Nat), s.unitBusy u = true → exec (.arbitrationDecision u steps) s = .next s) ∧
  (∀ (s : State) (u : ArbUnit) (steps p t0 : Nat), s.Canonical → p < 64 → 16 ≤ arbCode u → s.unitBusy u = false →
    (s.arb (arbCode u)).work = some (p, t0) →
    let k := match u with | .smelter _ => 0 | _ => steps
    ∃ t, exec (.arbitrationDecision u steps) s = .next t ∧ (t.arb (arbCode u)).work = none ∧
      (t.part p).acct = listUpd (s.part p).acct (arbClass (arbCode u)) (fun x => ((x.1 + (s.nowNs - t0)) % 2 ^ 64, (x.2 + k) % 2 ^ 64)) ∧
      (∀ q, q ≠ p → t.part q = s.part q) ∧ t = { s with parts := t.parts, credits := t.credits, arbs := t.arbs })

/-- R294, R296-R298, R304-R306, R308: while its controller is enabled, a channel's slot performs the refresh that is due, a write of a
drain, or the read that is chosen, whose data it takes, or first the refresh of the bank of a row that must be opened; a write that arrives
is performed as it enters the queue. REFRESH closes the row of the bank most overdue, carries its refreshes one interval further and applies
the delays that wait. MR4_POLL sets the interval multiplier and bits, and a channel above its range is reported. PAGE_IDLE_CLOSE closes a
row. A patrol read advances one granule and counts what it corrects, or poisons a sub-block of it (which one is free, log entry 2). A
controller that fails is isolated, its queues empty, and says why. R301, R302: a trial of a margin scan on an idle channel with SCAN_EN goes
one tap further; the scan of a direction ends at its first failure or at 64 taps, and its distance goes to MC_MARGIN. A busy channel is not
scanned. Once the four directions of a lane are known its delays are planned anew, each by at most one tap, for the next refresh, and the
scan starts afresh. DELAY_PLAN_SAVE writes the plan to flash. -/
def Obligations.DramChannelsAndMargins : Prop :=
  ((∀ (s : State) (n : McIx) (c : ChIx), s.flag (Reg.mcCtrl n) 0 = true → (s.chan n c).gasket = [] →
    let ch := s.chan n c
    (8 ≤ s.postponed n c ch.mostOverdue → exec (.channelCommandSlot n c [] .none) s = .next (s.refreshBank n c ch.mostOverdue)) ∧
    (s.postponed n c ch.mostOverdue < 8 → s.dramDrains n c = false →
      let u := s.setChan n c { ch with draining := false, drained := 0 }
      ∀ q, u.dramPick n c (u.dramReadable n c) = some q →
      (u.refreshFirst n c q = true → exec (.channelCommandSlot n c [] .none) s = .next (u.refreshBank n c (u.bankRow q.req.da).1)) ∧
      (u.refreshFirst n c q = false → s.poison = [] →
      ∃ t, exec (.channelCommandSlot n c [] .none) s = .next t ∧
        t.dram.served = (q.req.id, s.readMem q.req.da q.req.bytes.length, false) :: s.dram.served ∧
        t = { s with dram := t.dram, regs := t.regs } ∧ SameRegs s t [Reg.mcStatus n] ∧ (s.aged n q = false → t.regs = s.regs))) ∧
    (s.postponed n c ch.mostOverdue < 8 → s.dramDrains n c = true →
      let u := s.setChan n c { ch with draining := true, drained := if ch.draining then ch.drained else 0 }
      ∀ q, u.dramPick n c ch.wq = some q → exec (.channelCommandSlot n c [] .none) s =
        .next (if u.refreshFirst n c q then u.refreshBank n c (u.bankRow q.req.da).1 else u.dramServeWrite n c q)) ∧
    (∀ r : DramReq, r.write = true → r.da + r.bytes.length ≤ s.usableTop → ch.wq.length < 64 → (∀ k < 4, (s.chan n k).gasket = []) →
      s.heldBack n c ⟨r, s.nowNs, s.dram.nextSeq⟩ = false → ∃ t, exec (.channelCommandSlot n c [r] .none) s = .next t ∧
        t = { s.storeUnits r.bytes.length r.da r.bytes with dram := t.dram, regs := t.regs } ∧
        (s.poison = [] → s.storeUnits r.bytes.length r.da r.bytes = s.store r.da r.bytes))) ∧
  (∀ (s : State) (n : McIx) (c : ChIx),
    let ch := s.chan n c
    let b := ch.mostOverdue
    let waits := (ch.rq ++ ch.wq).any fun q => decide ((s.bankRow q.req.da).1 = b) && s.aged n q
    (s.flag (Reg.mcCtrl n) 0 = false ∨ (waits = true ∧ s.postponed n c b < 8) → exec (.refresh n c) s = .next s) ∧
    (s.flag (Reg.mcCtrl n) 0 = true → waits = false ∨ 8 ≤ s.postponed n c b →
      ∃ t, exec (.refresh n c) s = .next t ∧
        t.chan n c = { ch with
          rows := tabErase ch.rows b
          refreshed := sparseSet 0 ch.refreshed b (sparseGet 0 ch.refreshed b + s.refInterval n c)
          pendingDelay := [] } ∧
        t.regs = (ch.pendingDelay.foldl (fun s e => s.setReg e.1 e.2) s).regs ∧
        (∀ k j, k < 8 → j < 4 → (k ≠ n.val ∨ j ≠ c.val) → t.chan k j = s.chan k j) ∧ t = { s with dram := t.dram, regs := t.regs })) ∧
  (∀ (s : State) (n : McIx) (c0 c1 c2 c3 : Fin 5), s.Canonical → s.flag (Reg.mcCtrl n) 0 = true →
    let v : Nat → Nat := listAt 0 [c0.val, c1.val, c2.val, c3.val]
    ∃ t, exec (.mr4Poll n c0 c1 c2 c3) s = .next t ∧
      (∀ c < 4, t.fld (Reg.mcStatus n) (2 * c + 1) (2 * c) = min (v c) 2 ∧ t.flag (Reg.mcStatus n) (8 + c) = decide (v c = 4) ∧
        (3 ≤ v c → (t.chan n c).derated = true)) ∧
      SameRegs s t [Reg.mcStatus n, Reg.sootDrop] ∧
      ((∀ c < 4, v c = 4 → s.flag (Reg.mcStatus n) (8 + c) = true) → t = { s with dram := t.dram, regs := t.regs }) ∧
      t = { s with dram := t.dram, regs := t.regs, soot := t.soot, freeCtr := t.freeCtr }) ∧
  (∀ (s : State) (n : McIx) (c : ChIx) (bank : Fin 16),
    exec (.pageIdleClose n c bank) s = .next (s.setChan n c { s.chan n c with rows := tabErase (s.chan n c).rows bank })) ∧
  (∀ (s : State) (n : McIx) (c : ChIx), s.flag (Reg.mcCtrl n) 0 = true → s.flag (Reg.mcCtrl n) 2 = true → s.flag Reg.dramCfg 8 = true →
    let da := dramUnmap (s.reg Reg.dramCfg) n c ((s.chan n c).patrol * 256)
    let u := s.setChan n c { s.chan n c with patrol := ((s.chan n c).patrol + 1) % max 1 s.chanGranules }
    exec (.patrolRead n c .none) s = .next u ∧ exec (.patrolRead n c .corrected) s = .next (u.bump (Reg.mcEcc n) 15 0 1) ∧
    (∃ k < 8, exec (.patrolRead n c .uncorrectable) s = .next (({ u with freeCtr := s.freeCtr + 1 } : State).dramUncorrectable (da + k * 32)))) ∧
  (∀ (s : State) (n : McIx) (k : McFailKind),
    (s.flag (Reg.mcStatus n) 31 = true → exec (.controllerFailure n k) s = .next s) ∧
    (s.Canonical → s.flag (Reg.mcStatus n) 31 = false → ∃ t, exec (.controllerFailure n k) s = .next t ∧
      t.flag (Reg.mcStatus n) 31 = true ∧ t.fld (Reg.mcStatus n) 30 28 = mcFailCode k ∧ t.flag Reg.dramStatus (16 + n) = true ∧
      t.flag Reg.dramStatus 11 = true ∧ t.flag Reg.dramStatus (12 + n / 2) = true ∧ t.flag (Reg.mcCtrl n) 0 = false ∧
      t.domState (mcDom n) = 0 ∧ SameRegs s t [Reg.mcStatus n, Reg.dramStatus, Reg.mcCtrl n, Reg.pdState (mcDom n / 16), Reg.sootDrop] ∧
      (∀ c < 4, (t.chan n c).rq = [] ∧ (t.chan n c).wq = [] ∧ (t.chan n c).gasket = []) ∧
      t = { s with regs := t.regs, soot := t.soot, freeCtr := t.freeCtr, dram := t.dram }))) ∧
  ((∀ (s : State) (n : McIx) (c : ChIx) (lane : Fin 2) (dir : ScanDir) (passed : Bool),
    let ch := s.chan n c
    let k := lane.val * 4 + scanDirIx dir
    let pos := sparseGet ⟨0, none⟩ ch.scan k
    let idle := ch.rq = [] ∧ ch.wq = [] ∧ ch.gasket = []
    (s.flag (Reg.mcCtrl n) 0 = false ∨ s.flag (Reg.mcCtrl n) 1 = false ∨ ¬ idle ∨ pos.result ≠ none ∨ s.ozmel.handover ≠ none →
      exec (.marginScanStep n c lane dir passed) s = .next s) ∧
    (s.flag (Reg.mcCtrl n) 0 = true → s.flag (Reg.mcCtrl n) 1 = true → idle → pos.result = none → s.ozmel.handover = none →
      let done := passed = false ∨ pos.taps + 1 = 64
      let u : ScanPos → State := fun p => s.setChan n c { ch with scan := tabErase ch.scan k ++ [(k, p)] }
      (¬ done → exec (.marginScanStep n c lane dir passed) s = .next (u ⟨pos.taps + 1, none⟩)) ∧
      (done → (∃ d < 4, d ≠ scanDirIx dir ∧ ch.scanResult lane d = none) → exec (.marginScanStep n c lane dir passed) s =
        .next ((u ⟨pos.taps + 1, some (pos.taps + 1)⟩).setFld (Reg.mcMargin n c lane) (31 - 8 * scanDirIx dir) (24 - 8 * scanDirIx dir) (pos.taps + 1))) ∧
      (done → s.Canonical → ∃ t, exec (.marginScanStep n c lane dir passed) s = .next t ∧
        t.fld (Reg.mcMargin n c lane) (31 - 8 * scanDirIx dir) (24 - 8 * scanDirIx dir) = (pos.taps + 1) % 256 ∧
        SameRegs s t [Reg.mcMargin n c lane, Reg.sootDrop] ∧
        t = { s with dram := t.dram, regs := t.regs, soot := t.soot, freeCtr := t.freeCtr, ozmel := t.ozmel }))) ∧
  (∀ (s : State) (n c lane w x y z : Nat), (s.chan n c).scanResult lane 0 = some w → (s.chan n c).scanResult lane 1 = some x →
    (s.chan n c).scanResult lane 2 = some y → (s.chan n c).scanResult lane 3 = some z →
    (∀ v ∈ [w, x, y, z], s.fld (Reg.mcScan n) 23 16 ≤ v) →
    ∃ ch, s.delayReplan n c lane = s.setChan n c ch ∧ (∀ d < 4, ch.scanResult lane d = none) ∧
      (∀ l d, l ≠ lane → l < 2 → lane < 2 → d < 4 → ch.scanResult l d = (s.chan n c).scanResult l d) ∧
      (∀ o v, (o, v) ∈ ch.pendingDelay → (o, v) ∈ (s.chan n c).pendingDelay ∨ o = Reg.mcDly n c lane ∧
        bitsOf v 31 24 = moveDelay w x (s.fld o 31 24) ∧ bitsOf v 23 16 = moveDelay y z (s.fld o 23 16) ∧ bitsOf v 15 0 = s.fld o 15 0)) ∧
  (∀ l r d, d ≤ 255 → moveDelay l r d ≤ d + 1 ∧ d ≤ moveDelay l r d + 1 ∧ moveDelay l r d ≤ 255 ∧
    (l + 4 ≤ r → d < 255 → moveDelay l r d = d + 1) ∧ (r + 4 ≤ l → 0 < d → moveDelay l r d + 1 = d) ∧ (r < l + 4 → l < r + 4 → moveDelay l r d = d)) ∧
  (∀ s : State, exec .delayPlanSave s = .next { s with dram := { s.dram with plan := delayOffsets.map fun o => (o, s.reg o) } }))

/-- R309, R312, R313, R322-R327: the link trains to a speed and width. A hot reset, the loss of the link, an FLR, or clearing VF Enable
takes the functions that it concerns: their rings are disabled, their fetched commands aborted (dropped where the ring lies in host memory),
their reads forgotten, and memory, partitions, streams and the host's memory stay as they are. The loss of the link ends the command of
every outstanding read with TIMEOUT and sets LINK_LOST. FLR_COMPLETE clears the mailbox and table and sets the cause. -/
def Obligations.LinkAndFunctionResets : Prop :=
  (∀ (s : State) (speed : Fin 7) (width : Nat) (flit : Bool),
    (speed.val = 0 ∨ width ∉ [1, 2, 4, 8, 16] → exec (.pcieLinkUp speed width flit) s = .fault .illFormed) ∧
    (speed.val ≠ 0 → width ∈ [1, 2, 4, 8, 16] →
      (s.pcie.perst = true ∨ s.fabric.refclk = false ∨ s.flag Reg.peStatus 31 = true → exec (.pcieLinkUp speed width flit) s = .next s) ∧
      (s.Canonical → s.pcie.perst = false → s.fabric.refclk = true → s.flag Reg.peStatus 31 = false →
        ∃ t, exec (.pcieLinkUp speed width flit) s = .next t ∧ t.flag Reg.peStatus 31 = true ∧
          t.flag Reg.peStatus 30 = (flit || decide (speed.val = 6)) ∧ t.fld Reg.peStatus 23 20 = speed.val ∧ t.fld Reg.peStatus 12 8 = width ∧
          t.flag Reg.peStatus 29 = s.flag Reg.peStatus 29 ∧ t = { s with regs := t.regs } ∧ SameRegs s t [Reg.peStatus]))) ∧
  (∀ (s : State) (i : Instr) (fns : Nat → Bool),
    ((i = .hotReset ∨ i = .pcieLinkLost ∧ s.pcie.reads = [] ∨ i = .flr 0 ∧ (s.func 0).flr = false) ∧ s.flag Reg.peStatus 31 = true ∧
        fns = fun _ => true) ∨
      (∃ f : FnIx, f ≠ 0 ∧ i = .flr f ∧ s.fnExists f = true ∧ (s.func f).flr = false ∧ fns = fun g => g == f.val) ∨
      (∃ mse num, i = .vfEnable false mse num ∧ s.fnExists 0 = true ∧ (s.func 0).flr = false ∧ num ≤ 255 ∧ s.pcie.vfEnable = true ∧
        fns = fun g => g != 0) →
    (∀ c ∈ s.cmds, c.ofFn fns = true → c.phase = .fetched) → (s.cmds.map (·.id)).Nodup →
    ∃ t, exec i s = .next t ∧
      (∀ c ∈ s.cmds, c.ofFn fns = true → s.cmdLoc c = false → { c with status := .aborted, detail := 0 } ∈ t.cmds) ∧
      (∀ c ∈ t.cmds, c.ofFn fns = true → c.status = .aborted ∧ s.cmdLoc c = false) ∧
      (∀ c, c.ofFn fns = false → (c ∈ t.cmds ↔ c ∈ s.cmds)) ∧
      (∀ r, let f := (s.ringOwner r).elim 0 (·.2)
        (fns f = true → t.ring r = (s.ring r).disable ∧ bitOf (listAt 0 (t.ring r).ctx 6) 23 = false) ∧ (fns f = false → t.ring r = s.ring r)) ∧
      (∀ x, x ∈ t.pcie.reads ↔ x ∈ s.pcie.reads ∧ fns x.fn = false) ∧ t.pcie.perst = s.pcie.perst ∧ t.pcie.aer = s.pcie.aer ∧
      t = { s with cmds := t.cmds, counters := t.counters, rings := t.rings, regs := t.regs, pcie := t.pcie, soot := t.soot, freeCtr := t.freeCtr
                   ozmel := { s.ozmel with mailboxes := t.ozmel.mailboxes } }) ∧
  (∀ (s : State) (i : Instr), s.Canonical → s.flag Reg.peStatus 31 = true → i = .hotReset ∨ i = .pcieLinkLost →
    ∃ t, exec i s = .next t ∧ t.flag Reg.peStatus 31 = false ∧ t.flag Reg.rstCause 2 = true ∧ t.fld Reg.peStatus 7 0 = 0 ∧
      t.pcie = { s.pcie with funcs := [], vfEnable := false, vfMse := false, numVf := 0, bar4Gib := 1, d3 := false, reads := [] } ∧
      (i = .pcieLinkLost → t.flag Reg.peStatus 29 = true) ∧ t.reg Reg.peBar4 = s.reg Reg.peBar4 ∧ (∀ f < 256, t.mailbox f = ⟨[], [], [], 0⟩) ∧
      t.host = s.host ∧ t.pending = s.pending) ∧
  (∀ s : State, s.flag Reg.peStatus 31 = true → (s.cmds.map (·.id)).Nodup →
    (∀ c ∈ s.cmds, c.ofFn (fun _ => true) = true → c.phase = .fetched ∨ c.id ∈ s.pcie.reads.map (·.cmd)) →
    ∃ t, exec .pcieLinkLost s = .next t ∧ ∀ c ∈ s.cmds, c.id ∈ s.pcie.reads.map (·.cmd) → s.cmdLoc c = false →
      { c with phase := .ended, status := .timeout, detail := 0 } ∈ t.cmds) ∧
  (∀ s : State, s.flag Reg.peStatus 31 = false → exec .hotReset s = .next s ∧ exec .pcieLinkLost s = .next s) ∧
  (∀ (s : State) (f : FnIx),
    (s.fnExists f = false ∨ (s.func f).flr = true → exec (.flr f) s = .next s) ∧
    (s.fnExists f = true → (s.func f).flr = false → ∃ t, exec (.flr f) s = .next t ∧ (t.func f).flr = true ∧ (t.func f).busMaster = false ∧
      (t.func f).msixEnable = false ∧ (f = 0 → t.pcie.vfEnable = false ∧ t.pcie.numVf = 0 ∧ t.pcie.d3 = false)) ∧
    ((s.func f).flr = false → exec (.flrComplete f) s = .next s) ∧
    (s.Canonical → (s.func f).flr = true → ∃ t, exec (.flrComplete f) s = .next t ∧ t.flag (Reg.flrCause (f / 32)) (f % 32) = true ∧
      t.pcie = (s.setFunc f Func.reset).pcie ∧ (∀ g < 256, f = 0 ∨ g = f.val → t.mailbox g = ⟨[], [], [], 0⟩) ∧
      (∀ o < 0x1000, f ≠ 0 → t.reg (mbKey f 0 + o) = resetWord (mbKey f 0 + o)) ∧
      (∀ o < 0x10000000, o ≠ Reg.flrCause (f / 32) → (f ≠ 0 ∨ o < mbKey 0 0 ∨ mbKey 0 0 + 0x1000 ≤ o) → t.reg o = s.reg o) ∧
      t = { s with regs := t.regs, pcie := t.pcie, ozmel := { s.ozmel with mailboxes := t.ozmel.mailboxes } }))

/-- R312, R316, R317, R322, R323, R327: an access of the PF's DRAM window reads or writes device memory at BASE plus the offset when it is
enabled, below the usable top and healthy; any other is refused and counted, and poison is passed on. A read without completion ends its
command with TIMEOUT and is logged. D3hot, VF Enable and the configuration items take their values; in recovery mode VF Enable cannot be
set. A pending MSI-X message is sent once its four conditions hold. -/
def Obligations.DramWindowAndConfiguration : Prop :=
  (∀ (s : State) (off n : Nat),
    let da := mib2 * s.fld Reg.peBar4 26 0 + off
    let out : State → Option (List Byte) → Bool → State := fun s d ep => { s with outs := { s.outs with bar4Data := d, bar4Poison := ep } }
    (s.bar4Hit off n = false → exec (.bar4Read off n) s = .next s) ∧
    (s.bar4Hit off n = true → (s.func 0).flr = true → exec (.bar4Read off n) s = .next (out s none false)) ∧
    (s.bar4Hit off n = true → (s.func 0).flr = false →
      (s.flag Reg.peBar4 30 = false ∨ s.usableTop < da + n ∨ s.rangeStatus da n ≠ .ok →
        exec (.bar4Read off n) s = .next (out (s.bump Reg.peErr 31 16 1) none false)) ∧
      (s.flag Reg.peBar4 30 = true → da + n ≤ s.usableTop → s.rangeStatus da n = .ok →
        (s.poisoned da n = false → exec (.bar4Read off n) s = .next (out s (some (s.readMem da n)) false)) ∧
        (s.poisoned da n = true → ∃ w, exec (.bar4Read off n) s = .next (out (s.memError (8 * w)) (some (s.readMem da n)) true) ∧
          w ∈ s.poison ∧ 8 * w < da + n ∧ da < 8 * w + 8)))) ∧
  (∀ (s : State) (off : Nat) (bs : List Byte),
    let n := bs.length
    let da := mib2 * s.fld Reg.peBar4 26 0 + off
    let refuse : Nat → State := fun k => { s.bump Reg.peErr 31 16 1 with pcie := { s.pcie with aer := (0, k) :: s.pcie.aer } }
    let en := s.flag Reg.peBar4 30 = true ∧ da + n ≤ s.usableTop
    (s.bar4Hit off n = false ∨ (s.func 0).flr = true → exec (.bar4Write off bs) s = .next s) ∧
    (s.bar4Hit off n = true → (s.func 0).flr = false →
      (en → s.flag Reg.peBar4 29 = true → s.rangeStatus da n = .ok → exec (.bar4Write off bs) s = .next (s.storeUnits n da bs) ∧
        (s.poison = [] → s.storeUnits n da bs = s.store da bs)) ∧
      (en → s.flag Reg.peBar4 29 = true → s.rangeStatus da n ≠ .ok → exec (.bar4Write off bs) s = .next (refuse 1)) ∧
      (¬ en ∨ s.flag Reg.peBar4 29 = false → exec (.bar4Write off bs) s = .next (refuse 0)))) ∧
  (∀ (s : State) (id : Nat), (∀ x ∈ s.pcie.reads, x.id ≠ id) → exec (.completionTimeout id) s = .next s) ∧
  (∀ (s : State) (id : Nat) (x : HostRead), (s.pcie.reads.find? fun x => x.id == id) = some x → exec (.completionTimeout id) s =
    .next (({ s.endCmd x.cmd .timeout 0 with
      pcie := { s.pcie with reads := s.pcie.reads.filter (fun y => y.cmd != x.cmd), aer := (x.fn, 2) :: s.pcie.aer } } : State).bump Reg.peErr 15 0 1)) ∧
  (∀ (s : State) (d3 : Bool), s.fnExists 0 = true → (s.func 0).flr = false →
    exec (.powerStateChange d3) s = .next { s with pcie := { s.pcie with d3 := d3 } }) ∧
  (∀ (s : State) (mse : Bool) (num : Nat), s.fnExists 0 = true → (s.func 0).flr = false → num ≤ 255 →
    (s.discState = 2 → exec (.vfEnable true mse num) s = .next s) ∧
    (s.discState ≠ 2 →
      let k := if s.pcie.vfEnable then s.pcie.numVf else num
      exec (.vfEnable true mse num) s =
        .next (({ s with pcie := { s.pcie with vfEnable := true, vfMse := mse, numVf := k } } : State).setFld Reg.peStatus 7 0 k)) ∧
    (s.pcie.vfEnable = false → exec (.vfEnable false mse num) s = .next { s with pcie := { s.pcie with vfMse := mse, numVf := num } }) ∧
    (s.Canonical → s.pcie.vfEnable = true → ∃ t, exec (.vfEnable false mse num) s = .next t ∧ t.fld Reg.peStatus 7 0 = 0 ∧
      t.pcie.vfEnable = false ∧ t.pcie.vfMse = mse ∧ t.pcie.numVf = num ∧ t.pcie.funcs = s.pcie.funcs.filter (fun e => e.1 == 0) ∧
      (∀ f < 256, f ≠ 0 → t.mailbox f = ⟨[], [], [], 0⟩) ∧ t.mailbox 0 = s.mailbox 0)) ∧
  (∀ (s : State) (f : FnIx) (vec : Fin 2048),
    let fn := s.func f
    let ready := fn.msixEnable = true ∧ fn.functionMask = false ∧ fn.busMaster = true ∧ fn.flr = false ∧ s.pcie.d3 = false ∧
      bitOf (fn.msixWord (vec.val * 4 + 3)) 0 = false
    (vec.val ∉ fn.pba ∨ ¬ ready → exec (.msixPendingSend f vec) s = .next s) ∧
    (vec.val ∈ fn.pba → ready → exec (.msixPendingSend f vec) s =
      .next { s.setFunc f { fn with pba := fn.pba.filter fun v => v != vec.val } with outs := { s.outs with msix := (f.val, vec.val) :: s.outs.msix } })) ∧
  (∀ (s : State) (f : FnIx), s.fnExists f = true → (s.func f).flr = false →
    let fn := s.func f
    (∀ b, exec (.configSpaceWrite f (.busMaster b)) s = .next (s.setFunc f { fn with busMaster := b })) ∧
    (∀ b, exec (.configSpaceWrite f (.msixEnable b)) s = .next (s.setFunc f { fn with msixEnable := b })) ∧
    (∀ b, exec (.configSpaceWrite f (.functionMask b)) s = .next (s.setFunc f { fn with functionMask := b })) ∧
    (∀ v : Fin 16, exec (.configSpaceWrite f (.completionTimeout v)) s = .next (s.setFunc f { fn with timeoutVal := v.val })) ∧
    (∀ g, f = 0 → g ∈ [1, 2, 4, 8, 16, 32, 64, 128] → exec (.configSpaceWrite f (.bar4Size g)) s = .next { s with pcie := { s.pcie with bar4Gib := g } }))

/-- R330, R331, R340: on a tick with nothing committed the counter adds the effective increment, in servo mode INCR corrected by F and in
slew mode INCR and a slew of at most one step towards the remaining ADJ; it is reduced to whole seconds in the same tick. After a power-on
reset it is 0. R332: TB_CMD.SET and TB_CMD.STEP commit the values written for them; at the next tick a SET loads the counter with its hidden
bits clear and a STEP adds its nanoseconds to it; each adds 1 to STEPS, which saturates. R332, R340 and the register table of R346: a read
of TB_TIME_NS latches all three TB_TIME registers and returns the nanoseconds; a write to TB_INCR_HI commits the staged fraction, or the one
in force, with the new whole nanoseconds; a write to TB_SLEW replaces the adjustment that remains. -/
def Obligations.TimebaseCountsSetsAndSteps : Prop :=
  (State.reset.counter = 0 ∧ ∀ s : State, s.fabric.refclk = true → s.tb.pendingSet = none → s.tb.pendingStep = none →
    ∃ t, exec .tbTick s = .next t ∧
      t = { s with tb := { s.tb with sec := t.tb.sec, sub := t.tb.sub, slewRem := t.tb.slewRem, trigs := t.tb.trigs } } ∧
      t.tb.sub < 1000000000 * 2 ^ 32 ∧ t.tb.sec < 2 ^ 48 ∧
      (s.flag Reg.tbCtrl 1 = false → t.tb.slewRem = s.tb.slewRem ∧
        t.counter = (s.counter + (s.tb.incr.toNat + roundDivAway (s.tb.incr.toNat * s.freqF) (4096 * 1000000000))) %
          (2 ^ 48 * (1000000000 * 2 ^ 32))) ∧
      (s.flag Reg.tbCtrl 1 = true → 0 ≤ s.tb.slewRem →
        t.tb.slewRem = s.tb.slewRem - min s.tb.slewRem s.slewStep ∧
        t.counter = (s.counter + (s.tb.incr.toNat + min s.tb.slewRem s.slewStep)) % (2 ^ 48 * (1000000000 * 2 ^ 32))) ∧
      (s.flag Reg.tbCtrl 1 = true → s.tb.slewRem < 0 →
        t.tb.slewRem = s.tb.slewRem - max s.tb.slewRem (-s.slewStep) ∧
        t.counter = (s.counter + (s.tb.incr.toNat + max s.tb.slewRem (-s.slewStep))) % (2 ^ 48 * (1000000000 * 2 ^ 32)))) ∧
  (∀ s : State, s.Canonical →
    (s.PfReaches Reg.tbCmd → exec .tbSet s = .next { s with tb := { s.tb with pendingSet := some {
      sec := bitsOf (s.reg Reg.tbSetSh) 15 0 * 2 ^ 32 + (s.reg Reg.tbSetSl).toNat
      ns := (s.reg Reg.tbSetNs).toNat
      frac := bitsOf (s.reg Reg.tbSetSh) 31 16 } } }) ∧
    (s.PfReaches Reg.tbCmd → exec .tbStep s = .next { s with tb := { s.tb with pendingStep := some (signedOf 32 (s.reg Reg.tbStep).toNat) } }) ∧
    (∀ v, s.fabric.refclk = true → s.tb.pendingSet = some v → s.tb.pendingStep = none → ∃ t, exec .tbTick s = .next t ∧
      t.tb.sec = v.sec ∧ t.tb.sub = min 999999999 v.ns * 2 ^ 32 + v.frac * 2 ^ 16 ∧ t.tb.pendingSet = none ∧
      t.fld Reg.tbStatus 15 8 = min 255 (s.fld Reg.tbStatus 15 8 + 1) ∧ t.tb.fInt = s.tb.fInt ∧
      (s.servoOn = true → s.tb.servo = .pullin ∨ s.tb.servo = .locked → t.tb.servo = .acquire)) ∧
    (∀ d, s.fabric.refclk = true → s.tb.pendingSet = none → s.tb.pendingStep = some d → ∃ t u,
      exec .tbTick { s with tb := { s.tb with pendingStep := none } } = .next u ∧ exec .tbTick s = .next t ∧
      t.counter = (u.counter + d * 2 ^ 32) % (2 ^ 48 * (1000000000 * 2 ^ 32)) ∧ t.tb.pendingStep = none ∧
      t.fld Reg.tbStatus 15 8 = min 255 (s.fld Reg.tbStatus 15 8 + 1) ∧ t.tb.fInt = s.tb.fInt)) ∧
  (∀ s : State,
    (s.PfReaches Reg.tbTimeNs → exec .tbTimeLatch s = .next { s with
      tb := { s.tb with
        latchNs := BitVec.ofNat 32 s.tbNs
        latchSl := BitVec.ofNat 32 s.tb.sec
        latchSh := BitVec.ofNat 32 (s.tb.sub / 2 ^ 16 % 2 ^ 16 * 2 ^ 16 + s.tb.sec / 2 ^ 32) }
      outs := { s.outs with busData := (BitVec.ofNat 32 s.tbNs).setWidth 64 } }) ∧
    (s.PfReaches Reg.tbIncrHi → ∀ v : Word,
      (∀ w, s.tb.incrStaged = some w → exec (.tbIncrCommit v) s = .next { s with tb := { s.tb with
        incr := BitVec.ofNat 40 (bitsOf v 7 0 * 2 ^ 32 + w.toNat), incrStaged := none } }) ∧
      (s.tb.incrStaged = none → exec (.tbIncrCommit v) s = .next { s with tb := { s.tb with
        incr := BitVec.ofNat 40 (bitsOf v 7 0 * 2 ^ 32 + s.tb.incr.toNat % 2 ^ 32), incrStaged := none } })) ∧
    (s.PfReaches Reg.tbSlew → ∀ v : Word,
      exec (.tbSlewWrite v) s = .next { s with tb := { s.tb with slewRem := signedOf 32 v.toNat * 2 ^ 32 } }))

/-- R335, R338: an offset sample of a reference, written to TB_OFFSETr by the PF for a PTP reference or latched at a PPS edge, is held in
TB_OFFSETr; with the servo in charge and the reference selected it acts as the servo's program says, by state. Without them it changes
nothing else. -/
def Obligations.OffsetSampleDrivesServo : Prop :=
  ∀ (s : State) (r : Fin 2) (θ : Word) (c : Instr), s.Canonical →
    (c = .offsetSample r θ ∧ s.PfReaches (Reg.tbOffset r) ∧ (s.refSrc r = 1 ∨ s.refSrc r = 2)) ∨
      (c = .ppsEdge r ∧ s.refSrc r = 3 ∧ s.tbNs < 1000000000 ∧
        signedOf 32 θ.toNat = if s.tbNs < 500000000 then (s.tbNs : Int) else s.tbNs - 1000000000) →
    let th := signedOf 32 θ.toNat
    let acts := s.servoOn = true ∧ s.refSelected r = true
    let jump := s.flag Reg.tbCtrl 5 = true ∧ s.servoStepNs ≤ th.natAbs
    let good := if th.natAbs < s.servoLockNs then s.tb.good + 1 else 0
    let x := s.servoRate r th
    ∃ t, exec c s = .next t ∧ t.reg (Reg.tbOffset r) = θ ∧
      (¬ acts → t.tb = { s.tb with refs := t.tb.refs }) ∧
      (¬ (acts ∧ s.tb.servo ≠ .pullin ∧ jump) → t = { s with regs := t.regs, tb := t.tb } ∧ SameRegs s t [Reg.tbOffset r]) ∧
      (acts → s.tb.servo = .pullin →
        t.tb.f = s.tb.fInt - clampInt (-10000 * 2 ^ 32) (10000 * 2 ^ 32) x ∧ t.tb.fInt = s.tb.fInt ∧ t.tb.good = good ∧
        t.tb.servo = if good = 8 then .locked else .pullin) ∧
      (acts → s.tb.servo = .acquire ∨ s.tb.servo = .locked → jump →
        t.counter = (s.counter - th * 2 ^ 32) % (2 ^ 48 * (1000000000 * 2 ^ 32)) ∧ t.tb.f = s.tb.fInt ∧ t.tb.fInt = s.tb.fInt ∧
        t.tb.good = 0 ∧ t.tb.servo = .acquire) ∧
      (acts → s.tb.servo = .acquire ∨ s.tb.servo = .locked → ¬ jump →
        t.tb.fInt = clampInt (-s.servoMax) s.servoMax (s.tb.fInt - x / 2 ^ s.fld Reg.tbServo 7 4) ∧
        t.tb.f = clampInt (-s.servoMax) s.servoMax (t.tb.fInt - x / 2 ^ s.fld Reg.tbServo 3 0) ∧
        t.tb.good = good ∧ t.tb.servo = if 8 ≤ good then .locked else .acquire)

/-- R336, R337: a measurement of a configured reference sets VALID, INTOL, OUT_RUN and the saturated deviation; one in tolerance clears
DRIFT and lengthens the run of good measurements; the eighth out of tolerance in a row of the selected reference declares DRIFT, switches to
the other reference where that one is usable, counts the switch and puts the servo into PULLIN. -/
def Obligations.MeasurementJudgesReference : Prop :=
  ∀ (s : State) (r : Fin 2) (d : Int), s.Canonical → s.refSrc r ≠ 0 → s.flag (Reg.refStat r) 30 = false →
    let o : Nat := 1 - r.val
    let run := s.fld (Reg.refStat r) 27 24
    let out := s.refOut r d
    ∃ t, exec (.refMeasurement r d) s = .next t ∧
      t.flag (Reg.refStat r) 31 = true ∧ t.flag (Reg.refStat r) 28 = !out ∧
      t.fld (Reg.refStat r) 27 24 = (if out then min 15 (run + 1) else 0) ∧
      t.fld (Reg.refStat r) 15 0 = wrapInt 16 (clampInt (-32768) 32767 d) ∧
      (out = false → t.flag (Reg.refStat r) 29 = false ∧ (t.tref r).inRun = (s.tref r).inRun + 1) ∧
      (out = true → (t.tref r).inRun = 0) ∧
      (out = true → s.refSelected r = true → 7 ≤ run → s.refUsable o = true → s.flag Reg.tbCtrl 7 = false →
        t.flag (Reg.refStat r) 29 = true ∧ t.refSel = o ∧ t.tb.servo = .pullin ∧
        t.fld Reg.tbStatus 23 16 = min 255 (s.fld Reg.tbStatus 23 16 + 1)) ∧
      t = { s with regs := t.regs, tb := t.tb, soot := t.soot, freeCtr := t.freeCtr } ∧
      SameRegs s t [Reg.refStat r, Reg.tbStatus, Reg.sootDrop]

/-- R337: an outright failure of a configured reference, by timeout or by a write to REF_CFGr of the selected reference, sets FAIL and
restarts its run; the servo switches to the other reference where it is usable and else holds the recorded word in HOLDOVER. A write to
another reference's REF_CFGr takes effect and nothing more; under TB_CTRL.LOCK it changes no field and raises the lock violation. -/
def Obligations.ReferenceFailureSwitchesOrHolds : Prop :=
  ∀ (s : State) (r : Fin 2), s.Canonical →
    let o : Nat := 1 - r.val
    (∀ (c : Instr), (c = .refFailTimeout r ∧ s.refSrc r ≠ 0) ∨
        (∃ v, c = .refCfgWrite r v ∧ s.PfReaches (Reg.refCfg r) ∧ s.flag Reg.tbCtrl 31 = false ∧ s.refSelected r = true) →
      ∃ t, exec c s = .next t ∧ t.flag (Reg.refStat r) 30 = true ∧ (t.tref r).inRun = 0 ∧
        (s.refSelected r = true → s.refUsable o = true → t.refSel = o ∧ t.tb.servo = .pullin ∧
          t.fld Reg.tbStatus 23 16 = min 255 (s.fld Reg.tbStatus 23 16 + 1)) ∧
        (∀ w, s.refSelected r = true → s.refUsable o = false → (s.tref r).prevWord = some w →
          t.tb.servo = .holdover ∧ t.tb.fInt = w ∧ t.tb.f = w ∧ t.fld Reg.tbStatus 23 16 = min 255 (s.fld Reg.tbStatus 23 16 + 1)) ∧
        t = { s with regs := t.regs, tb := t.tb, soot := t.soot, freeCtr := t.freeCtr } ∧
        SameRegs s t [Reg.refCfg r, Reg.refStat r, Reg.tbStatus, Reg.sootDrop]) ∧
    (∀ v : Word, s.PfReaches (Reg.refCfg r) →
      (s.flag Reg.tbCtrl 31 = false → s.refSelected r = false →
        ∃ t, exec (.refCfgWrite r v) s = .next t ∧ t.reg (Reg.refCfg r) = (v &&& 0xF07) ∧ t = { s with regs := t.regs } ∧
          SameRegs s t [Reg.refCfg r]) ∧
      (s.flag Reg.tbCtrl 31 = true → (v &&& 0xF07) ≠ s.reg (Reg.refCfg r) →
        ∃ t, exec (.refCfgWrite r v) s = .next t ∧ t.reg (Reg.refCfg r) = s.reg (Reg.refCfg r) ∧ t.flag Reg.errStatus 0 = true ∧
          t = { s with regs := t.regs, soot := t.soot, freeCtr := t.freeCtr } ∧ SameRegs s t [Reg.errStatus, Reg.sootDrop]))

/-- R343: arming a trigger whose target lies ahead records its edge; a target that does not lie ahead sets LATE, and a one-shot trigger is
not armed. When the counter has reached the edge of an armed trigger its pulse starts: a one-shot disarms, a periodic one takes its next
boundary. R344, R345, R347: an edge of the chosen kind at an enabled capture input latches the counter behind the entries held; the edge
that finds four entries is discarded and sets OVF, once with a Soot event; POP removes the oldest entry, and nothing without one. The
control cycle interrupts the management complex. -/
def Obligations.TriggersAndCaptures : Prop :=
  (∀ (s : State) (k : Fin 8), s.Canonical →
    (∀ v : Word, s.PfReaches (Reg.trigCfg k) → bitOf v 31 = true →
      (tbAhead (s.trigTarget k) s.nowNs = true →
        ∃ t, exec (.trigArm k v) s = .next t ∧ (t.trig k).next = some (s.trigTarget k) ∧ t.flag (Reg.trigCfg k) 31 = true ∧
          t = { s with regs := t.regs, tb := { s.tb with trigs := t.tb.trigs } } ∧ SameRegs s t [Reg.trigCfg k]) ∧
      (tbAhead (s.trigTarget k) s.nowNs = false → bitOf v 29 = false →
        ∃ t, exec (.trigArm k v) s = .next t ∧ (t.trig k).next = none ∧ t.flag (Reg.trigCfg k) 31 = false ∧
          t.flag (Reg.trigCfg k) 30 = true ∧ t = { s with regs := t.regs, tb := { s.tb with trigs := t.tb.trigs } } ∧
          SameRegs s t [Reg.trigCfg k])) ∧
    (∀ e, (s.trig k).next = some e → tbAhead e s.nowNs = false →
      ∃ t, exec (.triggerFire k) s = .next t ∧ (t.trig k).level = !s.flag (Reg.trigCfg k) 28 ∧ (t.trig k).pulse = s.trigTicks k ∧
        (s.flag (Reg.trigCfg k) 29 = false → (t.trig k).next = none ∧ t.flag (Reg.trigCfg k) 31 = false) ∧
        (s.flag (Reg.trigCfg k) 29 = true → (t.trig k).next = some ((e + s.trigPeriod k) % tbSpan)) ∧
        t = { s with regs := t.regs, tb := { s.tb with trigs := t.tb.trigs } } ∧ SameRegs s t [Reg.trigCfg k])) ∧
  (∀ (s : State) (k : Fin 8), s.Canonical →
    (∀ falling, capWants (s.reg (Reg.capCfg k)) falling = true →
      ((s.capList k).length < 4 → ∃ t, exec (.captureEdge k falling) s = .next t ∧
        t.capList k = s.capList k ++ [⟨falling, s.tb.sec % 2 ^ 32, s.tbNs⟩] ∧ t = { s with tb := { s.tb with caps := t.tb.caps } }) ∧
      (4 ≤ (s.capList k).length → s.flag (Reg.capCfg k) 28 = false → ∃ t, exec (.captureEdge k falling) s = .next t ∧
        t.flag (Reg.capCfg k) 28 = true ∧ t = { s with regs := t.regs, soot := t.soot, freeCtr := t.freeCtr } ∧
        SameRegs s t [Reg.capCfg k, Reg.sootDrop])) ∧
    (s.PfReaches (Reg.capCfg k) → ∃ t, exec (.capPop k) s = .next t ∧ t.capList k = (s.capList k).drop 1 ∧
      t = { s with tb := { s.tb with caps := t.tb.caps } }) ∧
    (s.fabric.refclk = true → exec .controlCycleInterrupt s = .next { s with tb := { s.tb with cycleIrq := true } }))

/-- R365, R368, R371, R373, R386, R388: whatever causes a warm reset (an event, RST_GLOBAL with GO and its key, the armed watchdog, PERST_N,
the thermal trip, SAFE_AUTO), the cause's bit is added to RST_CAUSE; work, tables, rings, streams, tracks and buffers are cleared and every
switched domain is off; the timebase counter and increment, GLOBAL_CTRL, ARRAY_RUNTIME_MAP, PE_BAR4, GPIO_OUT, the epochs, fuses, flash and
host memory are kept. A wrong key records the ignored write and resets nothing. -/
def Obligations.WarmResetKeepsAndClears : Prop :=
  (∀ (s : State) (c : Instr) (cause : WarmCause), s.Canonical →
    (c = .warmReset cause ∨
      (∃ v, c = .rstGlobal v ∧ s.PfReaches Reg.rstGlobal ∧ bitsOf v 31 16 = 0x4B44 ∧ bitOf v 0 = true ∧ cause = .swGlobal) ∨
      (c = .watchdogExpiry ∧ s.ozmel.wdogArmed = true ∧ cause = .wdog) ∨ (c = .perst ∧ cause = .perst) ∨
      (∃ tj, c = .thermalTrip tj ∧ (s.tripTj : Int) ≤ tj ∧ cause = .thermal) ∨
      (c = .safeAutoExit ∧ s.fabric.safe = true ∧ (s.opt 3 1).testBit 1 = true ∧ s.fabric.refclk = true ∧ s.fabric.vddLow = false ∧ cause = .safe)) →
    ∃ t, exec c s = .next t ∧ t.flag Reg.rstCause (warmBit cause) = true ∧
      (∀ i, s.flag Reg.rstCause i = true → t.flag Reg.rstCause i = true) ∧
      (∀ off ∈ [Reg.globalCtrl, Reg.arrayRuntimeMap, Reg.peBar4, Reg.gpioOut], t.reg off = s.reg off) ∧
      (∀ w < 30, t.reg (Reg.pdEpoch w) = s.reg (Reg.pdEpoch w)) ∧ (∀ d < 120, t.domState d = 0) ∧
      t.tb.sec = s.tb.sec ∧ t.tb.sub = s.tb.sub ∧ t.tb.incr = s.tb.incr ∧
      t.host = s.host ∧ t.flash = s.flash ∧ t.fuses = s.fuses ∧ t.pending = s.pending ∧
      t.cmds = [] ∧ t.rmos = [] ∧ t.lanterns = [] ∧ t.parts = [] ∧ t.rings = [] ∧ t.bufs = [] ∧ t.streams = [] ∧ t.entries = [] ∧
      t.decs = [] ∧ t.quads = [] ∧ t.snaps = []) ∧
  (∀ (s : State) (v : Word), s.PfReaches Reg.rstGlobal → bitsOf v 31 16 ≠ 0x4B44 →
    exec (.rstGlobal v) s = .next (s.ignoredWrite 0x02 Reg.rstGlobal))

/-- R365, R372, R384, R385: POWER_ON_RESET returns every register but those of the start and the GPIO inputs to its reset word, the timebase
to 0 and every table to empty, and keeps fuses, flash and host memory. A release lets the device start once nothing else holds it; a start
runs the recovery monitor or an image, and is not READY. A start that is late counts in FAILED, sets TIMEOUT and resets with cause WDOG. -/
def Obligations.PowerOnAndStarts : Prop :=
  (∀ s : State, s.Canonical → ∃ t, exec .powerOnReset s = .next t ∧
    (∀ off, off ∉ [Reg.rstCause, Reg.rstBoot, Reg.sootDrop, Reg.gpioIn] → t.reg off = resetWord off) ∧ t.flag Reg.rstCause 0 = true ∧
    t.fld Reg.gpioIn 15 0 = bitsOf s.periph.gpioExt 15 0 ∧ t.tb = Timebase.reset ∧ t.mem = [] ∧ t.host = s.host ∧ t.flash = s.flash ∧
    t.fuses = s.fuses ∧ t.pending = s.pending ∧ t.cmds = [] ∧ t.rmos = [] ∧ t.lanterns = [] ∧ t.parts = [] ∧ t.rings = [] ∧ t.bufs = [] ∧
    t.streams = [] ∧ t.entries = [] ∧ t.decs = [] ∧ t.quads = [] ∧ t.ozmel.ready = false) ∧
  (∀ (s u : State) (c : Instr),
    (c = .perstNRelease ∧ s.pcie.perst = true ∧ u = { s with pcie := { s.pcie with perst := false } }) ∨
      (∃ tj, c = .thermalTripRelease tj ∧ s.outs.thermtrip = true ∧ tj < (s.tripTj : Int) - 20 ∧
        u = { s with fabric := { s.fabric with tj := tj }, outs := { s.outs with thermtrip := false } }) ∨
      (c = .sysRefclkReturn ∧ u = { s with fabric := { s.fabric with refclk := true } }) ∨
      (∃ mv, c = .vddFabUndervoltage mv ∧ 560 ≤ mv ∧ u = { s with fabric := { s.fabric with vddMv := mv, vddLow := false } }) →
    let held := u.pcie.perst = true ∨ u.outs.thermtrip = true ∨ u.fabric.vddLow = true ∨ u.fabric.refclk = false
    (u.fabric.resetHeld = false ∨ held → exec c s = .next u) ∧
    (u.fabric.resetHeld = true → ¬ held → ∃ t, exec c s = .next t ∧ t.fabric.resetHeld = false ∧ t.fabric.safe = false ∧
      t.ozmel.running = true ∧ t.ozmel.ready = false ∧ t.tb = u.tb ∧ t.pcie = u.pcie ∧ t.host = u.host ∧ t.flash = u.flash ∧
      t.cmds = u.cmds ∧ t.mem = u.mem ∧ SameRegs u t [Reg.rstBoot, Reg.rstCause, Reg.sootDrop])) ∧
  (∀ s : State, s.Canonical → s.discState = 0 → s.fabric.resetHeld = false → s.ozmel.running = true →
    ∃ t, exec .startTimeout s = .next t ∧ t.flag Reg.rstCause 4 = true ∧ t.flag Reg.rstBoot 27 = true ∧
      min 3 (s.fld Reg.rstBoot 1 0 + 1) ≤ t.fld Reg.rstBoot 1 0 ∧ t.cmds = [] ∧ t.host = s.host ∧ t.flash = s.flash) ∧
  (∀ s : State, s.Canonical → s.discState = 0 → s.fabric.resetHeld = false → s.ozmel.running = true →
    ∃ t, exec .ozmelReady s = .next t ∧ t.ozmel.ready = true ∧ t.ozmel.wdogArmed = true ∧ t.outs.dramResetN = true ∧
      (∀ n < 16, t.flag (Reg.lnCtrl n) 0 = true) ∧ (∀ n < 12, t.flag (Reg.smCtrl n) 0 = true) ∧ t.flag Reg.tbCtrl 0 = true ∧
      t.host = s.host ∧ t.flash = s.flash ∧ t.fuses = s.fuses)

/-- R29, R37, R321, R333, R369: below 560 mV, or when SYS_REFCLK stops, the device enters SAFE state: the SAFE cause is set, every switched
domain is off and the clocked units are in reset, while the Global, reset, timebase and Soot registers (all of block 0x05 and below but the
domain states, RST_CAUSE and SOOT_DROP) and the counter stay as they stand. -/
def Obligations.SafeStateHoldsAndClears : Prop :=
  ∀ (s : State) (c : Instr), s.Canonical → s.fabric.safe = false →
    ((∃ mv, c = .vddFabUndervoltage mv ∧ mv < 560) ∨ (c = .sysRefclkStop ∧ s.fabric.refclk = true)) →
    ∃ t, exec c s = .next t ∧ t.fabric.safe = true ∧ t.flag Reg.rstCause 9 = true ∧ (∀ d < 120, t.domState d = 0) ∧
      (t.fabric.vddLow = true ∨ t.fabric.refclk = false) ∧
      (∀ off, off < 0x60000 → ¬ (Reg.pdState 0 ≤ off ∧ off < Reg.pdState 8) → off ≠ Reg.rstCause → off ≠ Reg.sootDrop → t.reg off = s.reg off) ∧
      t.tb = s.tb ∧ t.periph = s.periph ∧ t.host = s.host ∧ t.flash = s.flash ∧ t.fuses = s.fuses ∧ t.pending = s.pending ∧
      t.cmds = [] ∧ t.rmos = [] ∧ t.lanterns = [] ∧ t.parts = [] ∧ t.rings = [] ∧ t.bufs = [] ∧ t.streams = []

/-- R380, R382-R384: DOMAIN_POWER_UP of an OFF domain that the policy wants ON turns it ON with the next epoch; DOMAIN_POWER_DOWN of a
domain that it does not want turns it OFF, an Ingot to RET on request; an idle array or Spill pair is gated; a parked Lantern is OFF with
its Ingot in RET, and unparking brings its logic domain up with a new epoch and its Ingot from RET without one. -/
def Obligations.DomainsFollowPolicy : Prop :=
  (∀ (s : State) (d : DomIx), s.Canonical → s.domState d = 0 → s.wantsOn d = true → (d.val < 80 → d.val % 5 = 4 → s.domOn (lnDom (d.val / 5)) = true) →
    ∃ t, exec (.domainPowerUp d) s = .next t ∧ t.domState d = 1 ∧ (t.epoch d).toNat = nextEpoch (s.epoch d).toNat ∧
      (∀ e < 120, e ≠ d.val → t.domState e = s.domState e ∧ t.epoch e = s.epoch e) ∧ t.cmds = s.cmds ∧ t.parts = s.parts ∧ t.host = s.host) ∧
  (∀ (s : State) (d : DomIx) (retain : Bool), s.Canonical → s.domState d ≠ 0 → s.wantsOn d = false →
    exec (.domainPowerDown d retain) s = .next (
      if d.val < 80 then
        (if d.val % 5 = 0 then (s.clearLantern (d.val / 5) .isolated).lanternOff (d.val / 5)
         else if d.val % 5 = 4 then s.setDom d (if retain then 2 else 0)
         else s.setDom d 0)
      else if 118 ≤ d.val then (s.setDom d 0).setFld (Reg.ethPort (d.val - 118)) 31 28 0
      else if 96 ≤ d.val ∧ d.val < 100 then ((s.setDom d 0).setQuad (d.val - 96) Quad.reset).dropBegun d
      else (s.setDom d 0).dropBegun d)) ∧
  (∀ (s : State) (n : LnIx) (x : ArrayId), s.flag Reg.pdAuto 16 = true →
    ((s.arr n (arrIx x)).job = none → s.domOn (arrDom n (arrIx x == 1)) = true →
      exec (.arrayIdleGate n (.array x)) s = .next ((s.updArr n (arrIx x) fun _ => Arr.reset).setDom (arrDom n (arrIx x == 1)) 0)) ∧
    ((∀ q < 4, s.findDesc n q 0x21 = none) → s.domOn (spillDom n) = true →
      exec (.arrayIdleGate n .spill) s = .next ((s.updLantern n fun l => { l with spill := ⟨none, [], []⟩ }).setDom (spillDom n) 0))) ∧
  (∀ (s : State) (n : LnIx), s.Canonical → s.flag Reg.pdPark n = true → s.flag Reg.pdPark (16 + n) = false →
    (∀ c ∈ (s.lantern n).ctxs, c.cmd = none) →
    ∃ t, exec (.lanternPark n) s = .next t ∧ t.flag Reg.pdPark (16 + n) = true ∧ (∀ i < 4, t.domState (5 * n + i) = 0) ∧
      t.domState (ingotDom n) = (if s.domOn (ingotDom n) then 2 else s.domState (ingotDom n)) ∧
      t = { s with regs := t.regs, lanterns := t.lanterns } ∧ (∀ m, m ≠ n.val → t.lantern m = s.lantern m)) ∧
  (∀ (s : State) (n : LnIx), s.Canonical → s.flag Reg.pdPark n = false → s.flag Reg.pdPark (16 + n) = true →
    s.domState (lnDom n) = 0 → s.domState (ingotDom n) = 2 → s.hasQuota n = true → s.ozmel.ready = true → s.flag (Reg.lnStatus n) 31 = false →
    ∃ t, exec (.lanternUnpark n) s = .next t ∧ t.flag Reg.pdPark (16 + n) = false ∧ t.domState (lnDom n) = 1 ∧ t.domState (ingotDom n) = 1 ∧
      (t.epoch (lnDom n)).toNat = nextEpoch (s.epoch (lnDom n)).toNat ∧ t.epoch (ingotDom n) = s.epoch (ingotDom n) ∧ t.mem = s.mem)

/-- R91, R97, R209, R381, R386, R387, R402, R432: re-admissions, scrubs, write-backs, and the resets of one unit and one partition. A unit
whose self-test has failed is not admitted again before a power-on reset. -/
def Obligations.UnitsReadmittedAndReset : Prop :=
  (∀ (s : State) (n : LnIx) (off : BitVec 23),
    let x := s.ingotErr n
    let u := s.setPoison (ingotBase + mib8 * n + off.toNat)
    exec (.ingotEccWriteback ⟨n, .none⟩) s = .next (s.setIngotErr n { x with writeback := x.writeback.drop 1 }) ∧
    (s.Canonical → ∃ t, exec (.ingotEccWriteback ⟨n, .corrected off⟩) s = .next t ∧
      (t.ingotErr n).writeback = (x.writeback ++ [ingotBase + mib8 * n + off.toNat / 8 * 8]).drop 1 ∧
      t.fld (Reg.lnEcc n) 15 0 = min 0xFFFF (s.fld (Reg.lnEcc n) 15 0 + 1) ∧ SameRegs s t [Reg.lnEcc n] ∧
      t = { s with regs := t.regs, ingots := t.ingots }) ∧
    exec (.ingotEccWriteback ⟨n, .upset off⟩) s = .next (u.setIngotErr n { x with writeback := x.writeback.drop 1 })) ∧
  (∀ (s : State) (k : CbIx) (off : BitVec 23),
    let x := s.bank k
    exec (.crucibleEccWriteback ⟨k, .none⟩) s = .next (s.setBank k { x with writeback := x.writeback.drop 1 }) ∧
    (s.Canonical → ∃ t, exec (.crucibleEccWriteback ⟨k, .corrected off⟩) s = .next t ∧
      (t.bank k).writeback = (x.writeback ++ [crucibleBase + mib8 * k + off.toNat / 8 * 8]).drop 1 ∧ t = { s with banks := t.banks }) ∧
    exec (.crucibleEccWriteback ⟨k, .upset off⟩) s =
      .next ((s.setPoison (crucibleBase + mib8 * k + off.toNat)).setBank k { x with writeback := x.writeback.drop 1 })) ∧
  (∀ (s : State) (u : Nat) (ok : Bool) (c : Instr),
    (∃ (n : LnIx) (x : ArrayId), c = .arrayReadmit n x ok ∧ u = arrBit n (arrIx x) ∧ s.flag Reg.arrayRuntimeMap u = true ∧ s.issuedAll n = [] ∧
      s.flag (Reg.lnStatus n) 31 = false) ∨
    (∃ n : LnIx, c = .lanternReadmit n ok ∧ u = 32 + n.val ∧ s.flag (Reg.lnStatus n) 31 = true ∧ (s.ingotErr n).readmit = false) ∨
    (∃ n : SmIx, c = .smelterReadmit n ok ∧ u = 64 + n.val ∧ s.flag (Reg.smStatus n) 31 = true) →
    (s.failedTests.contains u = true → exec c s = .next s) ∧
    (s.failedTests.contains u = false → ok = false → exec c s = .next { s with failedTests := s.failedTests ++ [u] })) ∧
  (∀ (s : State) (n : LnIx) (x : ArrayId), s.Canonical → s.flag Reg.arrayRuntimeMap (arrBit n (arrIx x)) = true → s.issuedAll n = [] →
    s.flag (Reg.lnStatus n) 31 = false → (∀ c ∈ (s.lantern n).ctxs, c.cmd = none) → s.failedTests.contains (arrBit n (arrIx x)) = false →
    ∃ t, exec (.arrayReadmit n x true) s = .next t ∧ t.flag Reg.arrayRuntimeMap (arrBit n (arrIx x)) = false ∧
      (∀ i, i ≠ arrBit n (arrIx x) → t.flag Reg.arrayRuntimeMap i = s.flag Reg.arrayRuntimeMap i) ∧ t.lanterns = (s.setLantern n Lantern.reset).lanterns ∧
      (s.domOn (lnDom n) = true → (t.epoch (lnDom n)).toNat = nextEpoch (s.epoch (lnDom n)).toNat) ∧
      t.epoch (ingotDom n) = s.epoch (ingotDom n) ∧ t.mem = s.mem ∧ t.cmds = (s.mapMoved (BitVec.ofNat 32 (2 ^ arrBit n (arrIx x)))).cmds) ∧
  (∀ (s : State) (n : LnIx), s.flag (Reg.lnStatus n) 31 = true → (s.ingotErr n).readmit = false → s.failedTests.contains (32 + n.val) = false →
    exec (.lanternReadmit n true) s = .next ((s.setIngotErr n { s.ingotErr n with ranges := [(ingotBase + mib8 * n, mib8)], readmit := true }).setFlag
      (Reg.lnStatus n) 30 true)) ∧
  (∀ (s : State) (n : SmIx), s.Canonical → s.flag (Reg.smStatus n) 31 = true → s.domState (smDom n) = 0 → s.failedTests.contains (64 + n.val) = false →
    ∃ t, exec (.smelterReadmit n true) s = .next t ∧ t.flag (Reg.smStatus n) 31 = false ∧ t.domState (smDom n) = 1 ∧
      (t.epoch (smDom n)).toNat = nextEpoch (s.epoch (smDom n)).toNat ∧
      t = { s with regs := t.regs, smelters := t.smelters, fabric := t.fabric, soot := t.soot, freeCtr := t.freeCtr }) ∧
  (∀ (s : State) (k : CbIx), (s.bank k).quarantined = true → s.domOn (cbDom k) = false →
    exec (.crucibleBankReadmit k true) s = .next ((((((s.setBank k Bank.reset).setDom (cbDom k) 1).bumpEpoch (cbDom k)).windowGap (cbDom k)).undefRange
      (crucibleBase + mib8 * k) mib8).sootEvent 0x0112 (BitVec.ofNat 64 k) none)) ∧
  (∀ (s : State) (n : LnIx) (da len : Nat), s.Canonical → (s.ingotErr n).ranges = [(da, len)] → (s.ingotErr n).readmit = false →
    (∀ r, s.swap.current = some r → r.scrubs.contains n.val = false) → ∃ t, exec (.scrubComplete (.ingot n)) s = .next t ∧ t.flag (Reg.lnStatus n) 30 = false ∧
      (∀ a, da ≤ a → a < da + len → t.memByte a = 0) ∧ SameMemBut s t da len ∧ t.parts = s.parts ∧ t.host = s.host) ∧
  (∀ (s : State) (v : Word) (i : Nat), s.Canonical → s.PfReaches Reg.rstBlock → bitOf v 31 = true → bitOf v 29 = false →
    s.flag Reg.rstBlock 30 = false → s.swap.current = none → bitsOf v 15 8 = 0x30 → i = bitsOf v 4 0 → i < 4 → s.domOn (shDom i) = true →
    ∃ t, exec (.rstBlock v) s = .next t ∧ t.flag Reg.rstCause 7 = true ∧ (t.epoch (shDom i)).toNat = nextEpoch (s.epoch (shDom i)).toNat ∧
      t.reg (Reg.shCtrl i) = resetWord (Reg.shCtrl i) ∧ t.reg (Reg.shStat i) = resetWord (Reg.shStat i) ∧
      t.cmds = (s.dropBegun (shDom i)).cmds ∧ t = { s with regs := t.regs, fabric := t.fabric, cmds := t.cmds }) ∧
  (∀ (s : State) (v : Word), s.Canonical → s.PfReaches Reg.rstPart → bitOf v 31 = true → s.flag Reg.rstPart 30 = false → s.swap.current = none →
    (∀ c ∈ s.cmds, c.part ≠ bitsOf v 5 0) → s.streamsOf (bitsOf v 5 0) = [] →
    ∃ t, exec (.rstPart v) s = .next t ∧ t.flag Reg.rstCause 6 = true ∧
      t.parts = (s.setPart (bitsOf v 5 0) { s.part (bitsOf v 5 0) with residency := [] }).parts ∧
      t = { s with regs := t.regs, rings := t.rings, parts := t.parts } ∧ SameRegs s t [Reg.rstPart, Reg.rstCause])

/-- R349-R352: a POST sets BUSY, or OVERRUN while BUSY stands; Ozmel copies the request and clears BUSY, and answers at once a request at
the front that fails a check: its response carries ID + 0x8000, its SEQ, the status and no payload. The oldest response, or else the oldest
notification, goes to the device-to-host area while VALID is 0, and sets VALID; a release clears VALID. -/
def Obligations.MailboxExchange : Prop :=
  (∀ (s : State) (f : FnIx), s.fnAnswers f = true → s.blockAnswers Reg.mbH2dCtl = true →
    (s.flag (mbH2d f) 1 = false → exec (.mbPost f) s = .next (s.setFlag (mbH2d f) 1 true)) ∧
    (s.flag (mbH2d f) 1 = true → exec (.mbPost f) s = .next (s.setFlag (mbH2d f) 2 true)) ∧
    exec (.mbRelease f) s = .next (s.setFlag (mbD2h f) 31 false)) ∧
  (∀ (s : State) (f : FnIx), s.mbServed = true → s.flag (mbH2d f) 1 = true → (s.func f).flr = false →
    let m := s.mailbox f
    let a := s.mbArea f 0
    let r := a.take (16 + min 2016 (fieldAt a 8 2))
    let u := (s.setFlag (mbH2d f) 1 false).setMailbox f { m with requests := m.requests ++ [r] }
    (s.Canonical → ∃ t, exec (.mbRequestCopy f) s = .next t ∧ t.flag (mbH2d f) 1 = false ∧ SameRegs s t [mbH2d f] ∧
      t = { s with regs := t.regs, ozmel := { s.ozmel with mailboxes := t.ozmel.mailboxes } }) ∧
    (s.Canonical → m.requests = [] → s.mbCheck f r = none → exec (.mbRequestCopy f) s = .next u) ∧
    (∀ st, s.Canonical → m.requests = [] → s.mbCheck f r = some st → ∃ t, exec (.mbRequestCopy f) s = .next t ∧
      ∃ l, (t.mailbox f).responses = l ++ [mbMessage (0x8000 + fieldAt r 4 2) (fieldAt r 6 2) st.code []])) ∧
  (∀ (s : State) (f : Nat) (r : List Byte),
    let id := fieldAt r 4 2
    let len := fieldAt r 8 2
    (fieldAt r 0 2 ≠ 0x4B44 ∨ fieldAt r 2 1 ≠ 1 → s.mbCheck f r = some .badVersion) ∧
    (fieldAt r 0 2 = 0x4B44 → fieldAt r 2 1 = 1 →
      (mbNeed r = none → s.mbCheck f r = some .badOpcode) ∧
      (∀ n, mbNeed r = some n →
        (2016 < len ∨ len < n → s.mbCheck f r = some .badOpcode) ∧
        (n ≤ len → len ≤ 2016 →
          (id ∈ mbPfOnly → f ≠ 0 → s.mbCheck f r = some .notOwner) ∧
          (f = 0 → s.flag Reg.rstBoot 31 = false → id ∈ mbSettings → s.flag Reg.mbH2dCtl 31 = true → s.mbCheck f r = some .locked) ∧
          (f = 0 → s.flag Reg.rstBoot 31 = false → s.flag Reg.mbH2dCtl 31 = false → s.mbCheck f r = none))))) ∧
  (∀ (s : State) (f : FnIx) (r : List Byte) (tl : List (List Byte)), s.Canonical → s.mbServed = true → s.flag (mbD2h f) 31 = false →
    (s.func f).flr = false → r.length ≤ 2032 →
    (s.mailbox f).responses = r :: tl ∨ ((s.mailbox f).responses = [] ∧ (s.mailbox f).notifs = r :: tl) →
    ∃ t, exec (.mbResponseWrite f) s = .next t ∧ t.flag (mbD2h f) 31 = true ∧
      (∀ i < r.length, listAt 0 (t.mbArea f 0x800) i = listAt 0 r i) ∧
      (∀ off, off < mbKey f 0x800 ∨ mbKey f 0xFF4 ≤ off → t.reg off = s.reg off) ∧
      (s.flag (mbD2h f) 30 = false → t = { s with regs := t.regs, ozmel := { s.ozmel with mailboxes := t.ozmel.mailboxes } })) ∧
  (∀ (s : State) (f id : Nat) (pl : List Byte), (s.mailbox f).notifs.length < 32 →
    ((s.notify f id pl).mailbox f).notifs = (s.mailbox f).notifs ++ [mbMessage id 0 0 pl]) ∧
  (∀ (s : State) (f id : Nat) (pl : List Byte), 32 ≤ (s.mailbox f).notifs.length →
    ((s.notify f id pl).mailbox f).notifs = (s.mailbox f).notifs ∧ ((s.notify f id pl).mailbox f).lost = (s.mailbox f).lost + 1)

/-- R230, R314, R342, R348, R353-R355, R358, R363, R379: the message at the front of a function's requests is taken and does what the
catalogue says: the reports answer with their bytes, the settings and the update of the inactive slot change what they name, and a message
with a field outside its range changes nothing. The responses then settle the requests that wait. A VF asks for its own partition. -/
def Obligations.MessagesAreAnswered : Prop :=
  ∀ (s : State) (f : FnIx) (r : List Byte) (tl : List (List Byte)),
    let u := s.withRequests f tl
    let pl := r.drop 16
    let fin : State → Status → List Byte → Host.Outcome State Fault Refusal := fun x st b => .next ((x.respond f r st b).settle f tl.length)
    let bad := fin u .badOpcode []
    let part : Nat → Option Nat := fun p => if f.val = 0 then some (p % 64) else s.fnPart f
    let set : Ozmel → State := fun o => { u with ozmel := { o with mailboxes := u.ozmel.mailboxes } }
    (s.Asks f 0x01 r tl → exec (.getInfo f) s = fin u .ok (leBytes 4 (if s.ozmel.ready then s.ozmel.version.toNat else 0) ++ leBytes 2 f.val ++
      leBytes 1 ((s.fnPart f).getD 0xFF) ++ leBytes 1 s.discState ++ leBytes 4 s.ozmel.bootCount ++ leBytes 4 s.ozmel.buildSeq.toNat)) ∧
    (s.Asks f 0x02 r tl →
      let tb := fieldAt pl 0 1
      let off := fieldAt pl 2 2
      let len := fieldAt pl 4 2
      (6 < tb ∨ len = 0 ∨ 2000 < len → exec (.getTable f) s = bad) ∧
      (tb ≤ 6 → 0 < len → len ≤ 2000 →
        (part (fieldAt pl 1 1) = none → exec (.getTable f) s = fin u .notOwner []) ∧
        (∀ p, part (fieldAt pl 1 1) = some p → 4 * tableWords tb < off + len → exec (.getTable f) s = fin u .bounds []) ∧
        (∀ p, part (fieldAt pl 1 1) = some p → off + len ≤ 4 * tableWords tb → exec (.getTable f) s =
          fin u .ok (((wordsBytes ((List.range (tableWords tb)).map fun w => (s.part p).word false tb w)).drop off).take len)))) ∧
    (s.Asks f 0x03 r tl → ∀ p, part (fieldAt pl 0 1) = some p → exec (.poolInfo f) s = fin u .ok (((List.range 8).map fun k =>
      leBytes 8 ((s.pdaOf p (s.bufDa k 0)).getD 0) ++ leBytes 4 (s.fld (Reg.pwPoolCount k) 23 0) ++ leBytes 4 (s.poolFree k)).flatten)) ∧
    (s.Asks f 0x04 r tl → (f.val = 0 ∨ s.vfRing f (fieldAt pl 0 2) = none → exec (.ringCtx f) s = fin u .notOwner []) ∧
      (∀ k, f.val ≠ 0 → s.vfRing f (fieldAt pl 0 2) = some k →
        let c := u.commitRing k (bytesWords ((pl.drop 8).take 32))
        exec (.ringCtx f) s = fin c.1 (if c.2 then .ok else .badOpcode) [])) ∧
    (s.Asks f 0x05 r tl → ∀ p, part (fieldAt pl 2 1) = some p →
      (s.stream? p (fieldAt pl 0 2) = none → exec (.streamStats f) s = fin u .notOwner []) ∧
      (∀ st e d, s.stream? p (fieldAt pl 0 2) = some st → st.entry = some e → s.dec? st.ctx = some d →
        exec (.streamStats f) s = fin u .ok (leBytes 4 (s.ingLatch e).1.toNat ++
          ((List.range 8).map fun k => leBytes 4 (listAt 0 (s.ingLatch e).2 k)).flatten ++ leBytes 4 (s.smLatch d.home st.ctx).1.toNat ++
          ((List.range 10).map fun k => leBytes 4 (listAt 0 (s.smLatch d.home st.ctx).2 k)).flatten))) ∧
    (s.Asks f 0x06 r tl →
      let k := fieldAt pl 0 1 % 8
      (4 < k → exec (.acct f) s = bad) ∧
      (∀ p, k ≤ 4 → part (fieldAt pl 1 1) = some p → exec (.acct f) s =
        fin u .ok (leBytes 8 (listAt (0, 0) (s.part p).acct k).1 ++ leBytes 8 (listAt (0, 0) (s.part p).acct k).2))) ∧
    (s.Asks f 0x52 r tl → exec (.sensors f) s = fin u .ok (leBytes 1 (wrapInt 8 s.fabric.tj) ++ leBytes 1 (wrapInt 8 s.ozmel.lastInlet) ++
      leBytes 2 s.ozmel.lastWatts ++ leBytes 2 s.fabric.vddMv ++ leBytes 1 (s.ozmel.fanDuty / 1000000).toNat ++ [0] ++
      leBytes 2 (listAt 0 s.ozmel.tach 0) ++ leBytes 2 (listAt 0 s.ozmel.tach 1) ++
      leBytes 1 (boolNat s.ozmel.throttled + 2 * boolNat s.boostInUse + 4 * boolNat s.ozmel.fanFail))) ∧
    (s.Asks f 0x40 r tl →
      let n := fieldAt pl 4 1
      (n = 0 ∨ 62 < n → exec (.logRead f) s = bad) ∧
      (∀ e es, 0 < n → n ≤ 62 → s.ozmel.log = e :: es → exec (.logRead f) s = fin u .ok (leBytes 4 e.seq ++
        (((s.ozmel.log.filter fun x => decide (fieldAt pl 0 4 ≤ x.seq)).take n).map LogEntry.bytes).flatten)) ∧
      (0 < n → n ≤ 62 → s.ozmel.log = [] → ∃ v : Nat, exec (.logRead f) s = fin { u with freeCtr := s.freeCtr + 1 } .ok (leBytes 4 v))) ∧
    (s.Asks f 0x12 r tl →
      let n := fieldAt pl 0 1
      (n = 0 ∨ 8 < n → exec (.excRead f) s = bad) ∧
      (0 < n → n ≤ 8 → exec (.excRead f) s = fin { u with excq := s.excq.drop (excRecords n 2016 s.excq).2 } .ok (excRecords n 2016 s.excq).1)) ∧
    (s.Asks f 0x10 r tl →
      let p := fieldAt pl 0 1
      let l := fieldAt pl 1 1
      let wrong := 1 < p ∨ 3 < l ∨ (if (fieldAt pl 8 1).testBit 0 then 128 else 32) < fieldAt pl 32 1
      (wrong → exec (.netCfg f) s = bad) ∧
      (¬ wrong → exec (.netCfg f) s = fin (set { s.ozmel with
        net := s.ozmel.net.filter (fun c => !(c.port == p && c.link == l)) ++ [⟨p, l, pl.take 64⟩] }) .ok [])) ∧
    (s.Asks f 0x11 r tl →
      let wrong := 1 < fieldAt pl 1 1 ∨ 3 < fieldAt pl 2 1 ∨ (4095 < fieldAt pl 4 2 ∧ fieldAt pl 4 2 ≠ 0xFFFF)
      let m := (f.val, mcastKey pl)
      (wrong → exec (.mcast f) s = bad) ∧
      (¬ wrong → (fieldAt pl 0 1).testBit 0 = false →
        exec (.mcast f) s = fin (set { s.ozmel with mcast := s.ozmel.mcast.filter fun x => x != m }) .ok []) ∧
      (¬ wrong → (fieldAt pl 0 1).testBit 0 = true → m ∉ s.ozmel.mcast → 48 ≤ pl.length → (∃ g, (g, m.2) ∈ s.ozmel.mcast) ∨ s.ozmel.mcast.length < 256 →
        exec (.mcast f) s = fin (set { s.ozmel with mcast := s.ozmel.mcast ++ [m] }) .ok [])) ∧
    (s.Asks f 0x20 r tl → (1 < fieldAt pl 0 1 ∨ 2 < fieldAt pl 2 1 → exec (.ptpCfg f) s = bad) ∧
      (fieldAt pl 0 1 ≤ 1 → fieldAt pl 2 1 ≤ 2 →
        exec (.ptpCfg f) s = fin (set { s.ozmel with ptp := tabPut s.ozmel.ptp (fieldAt pl 0 1) (pl.take 4) }) .ok [])) ∧
    (s.Asks f 0x50 r tl →
      let wrong := fieldAt pl 0 2 < 100 ∨ 300 < fieldAt pl 0 2 ∨ 30 < fieldAt pl 2 1 ∨ fieldAt pl 3 1 < 60 ∨ 95 < fieldAt pl 3 1
      (wrong → exec (.powerSet f) s = bad) ∧
      (¬ wrong → exec (.powerSet f) s = fin (set { s.ozmel with
        consts := { s.ozmel.consts with pwrLimit := fieldAt pl 0 2, avsGuard := fieldAt pl 2 1, boostTj := fieldAt pl 3 1 } }) .ok [])) ∧
    (s.Asks f 0x51 r tl →
      let c : LoopConsts := { s.ozmel.consts with
        tjTarget := fieldAt pl 0 1, tjThrottle := fieldAt pl 1 1, tau := fieldAt pl 2 2, fanKp := fieldAt pl 4 1, fanMin := fieldAt pl 5 1,
        slewUp := fieldAt pl 6 1, slewDn := fieldAt pl 7 1, ffBase := fieldAt pl 8 1, ffSlope := fieldAt pl 9 1 }
      (thermalOk c = false → exec (.thermalSet f) s = bad) ∧
      (thermalOk c = true → exec (.thermalSet f) s = fin (set { s.ozmel with consts := c }) .ok [])) ∧
    (s.Asks f 0x30 r tl → (s.slotSize < fieldAt pl 0 4 → exec (.updateBegin f) s = fin u .bounds []) ∧
      (fieldAt pl 0 4 ≤ s.slotSize → ∃ x, exec (.updateBegin f) s = fin x .ok [] ∧ x.slotState s.idleSlot = .invalid ∧
        x.ozmel.updLen = some (fieldAt pl 0 4) ∧ x.ozmel.updEnd = 0 ∧
        (∀ a, s.slotOff s.idleSlot ≤ a → a < s.slotOff s.idleSlot + s.slotSize → listAt 0 (x.readFlash a 1) 0 = 0xFF) ∧
        (∀ a, a < s.slotOff s.idleSlot ∨ s.slotOff s.idleSlot + s.slotSize ≤ a → x.readFlash a 1 = s.readFlash a 1) ∧
        x = { u with flash := x.flash, ozmel := { u.ozmel with
          slotStates := x.ozmel.slotStates, updLen := x.ozmel.updLen, updEnd := 0, updCommitted := none } })) ∧
    (s.Asks f 0x31 r tl →
      let off := fieldAt pl 0 4
      let len := fieldAt pl 4 4
      (s.ozmel.updLen = none → exec (.updateData f) s = bad) ∧
      (∀ n, s.ozmel.updLen = some n →
        (len < 8 ∨ 2008 < len → exec (.updateData f) s = bad) ∧
        (8 ≤ len → len ≤ 2008 → off ≠ s.ozmel.updEnd ∨ n < off + len → exec (.updateData f) s = fin u .bounds []) ∧
        (8 ≤ len → len ≤ 2008 → off = s.ozmel.updEnd → off + len ≤ n → exec (.updateData f) s =
          fin { u.writeFlash (s.slotOff s.idleSlot + off) ((pl.drop 8).take len) with ozmel := { u.ozmel with updEnd := off + len } } .ok []))) ∧
    (s.Asks f 0x32 r tl → (s.ozmel.updLen = none ∨ s.ozmel.updEnd = 0 → exec (.updateCommit f) s = bad) ∧
      (s.ozmel.updLen ≠ none → s.ozmel.updEnd ≠ 0 → s.slotOk s.idleSlot = false → exec (.updateCommit f) s = fin u .badVersion []) ∧
      (s.ozmel.updLen ≠ none → s.ozmel.updEnd ≠ 0 → s.slotOk s.idleSlot = true → ∃ x, exec (.updateCommit f) s = fin x .ok (leBytes 4 (s.slotSeq s.idleSlot)) ∧
        x.ozmel.slotStates = listUpd s.ozmel.slotStates s.idleSlot (fun _ => .trial) ∧ x.ozmel.updLen = none ∧
        x.ozmel.updCommitted = some s.idleSlot ∧ x.flash = s.flash)) ∧
    (s.Asks f 0x33 r tl → (s.ozmel.updCommitted = none → exec (.updateActivate f) s = bad) ∧
      (∀ k, s.ozmel.updCommitted = some k →
        ((fieldAt pl 0 1).testBit 0 = true ∨ s.flag Reg.rstBoot 31 = true →
          let w := if s.flag Reg.rstBoot 31 then setBits (setBits (s.reg Reg.rstBoot) 31 31 0) 1 0 0 else s.reg Reg.rstBoot
          exec (.updateActivate f) s =
            .next (({ u.setReg Reg.rstBoot w with ozmel := { u.ozmel with bootWanted := some k } } : State).warmReset .swGlobal)) ∧
        ((fieldAt pl 0 1).testBit 0 = false → s.flag Reg.rstBoot 31 = false → s.swap.current = none → exec (.updateActivate f) s =
          .next { u with ozmel := { u.ozmel with handoverStart := s.nowNs, handover := some (r.take 16) } }) ∧
        ((fieldAt pl 0 1).testBit 0 = false → s.flag Reg.rstBoot 31 = false → s.swap.current ≠ none → exec (.updateActivate f) s =
          .next { u with ozmel := { u.ozmel with handoverStart := s.nowNs, activateWaits := some (r.take 16) } })))

/-- R358-R361: Ozmel's loops stand still outside READY and during a handover. The supply command goes to the goal in steps of at most 10 mV,
the goal being moved against the rail's error by 1 to 10 mV, within cap and minimum, when it is more than 5 mV off (by how much is free, log
entry 2), and is held with an ERROR after three silent cycles. The power loop lowers its value by 2 % above the limit and raises it by 1 %
after ten windows below the limit less 10 W, the thermal loop by 5 % and 1 %; a throttle that begins or ends is reported (the value's start,
cap and floor, and the ten windows, are log entry 132's). The fan loop follows its formula; a hot DRAM channel or a failed fan drives the
fans full. R173, R348, R355-R357, R363, R377: a handover whose record is accepted ends in the new image, which answers with the time it
took; one that is not restarts the device. A TRIAL slot at READY is confirmed. The log's entries are marked as written. The oldest frame of
the exception queue that Ozmel handles leaves it, and its answer goes out on its link. -/
def Obligations.OzmelLoopsAndRecords : Prop :=
  ((∀ (s : State) (vout : Option Nat) (w : Nat), s.loopsRun = false →
    exec (.avsCycle vout) s = .next s ∧ exec (.powerWindow w) s = .next s) ∧
  (∀ s : State, s.loopsRun = true →
    let u0 : State := { s with tb := { s.tb with cycleIrq := false } }
    let u := if s.flag Reg.fabCtrl 0 = true ∧ s.fabric.worstPs ≠ 0 then u0.setFloor s.fabric.worstPs else u0
    let f : Nat → Nat → State := fun n c => { u with fabric := { s.fabric with vSilent := n, vCmdMv := c } }
    let cmd := s.fabric.vCmdMv
    let go := fun goal => rampMv goal s.rampSteps cmd
    (s.fabric.vSilent + 1 < 3 → exec (.avsCycle none) s = .next (f (s.fabric.vSilent + 1) (go s.goalMv))) ∧
    (s.fabric.vSilent + 1 = 3 → exec (.avsCycle none) s = .next ((f 3 cmd).troubleLog 0x0A40 2 [])) ∧
    (3 < s.fabric.vSilent + 1 → exec (.avsCycle none) s = .next (f (s.fabric.vSilent + 1) cmd)) ∧
    (∀ v, v ≤ cmd + 5 → cmd ≤ v + 5 → exec (.avsCycle (some v)) s =
      .next { u with fabric := { s.fabric with vddMv := v, vSilent := 0, vCmdMv := go s.goalMv } }) ∧
    (∀ v, cmd + 5 < v ∨ v + 5 < cmd → ∃ k, 1 ≤ k ∧ k ≤ 10 ∧ exec (.avsCycle (some v)) s = .next { u with
      freeCtr := s.freeCtr + 1
      fabric := { s.fabric with
        vddMv := v, vSilent := 0, vCmdMv := go (if cmd + 5 < v then max 600 (s.goalMv - k) else min s.capMv (s.goalMv + k)) } }) ∧
    (∀ goal n v, rampMv goal n v ≤ v + 10 * n ∧ v ≤ rampMv goal n v + 10 * n ∧
      (v ≤ goal + 10 * n → goal ≤ v + 10 * n → rampMv goal n v = goal))) ∧
  (∀ (s : State) (w : Nat), s.loopsRun = true →
    let o := s.ozmel
    let lim := if o.fanFail then min 150 o.consts.pwrLimit else o.consts.pwrLimit
    let fit := s.flag Reg.fabCtrl 2 = true ∧ w + 30 ≤ lim ∧ s.fabric.tj ≤ (o.consts.boostTj : Int)
    let low := if w + 10 < lim then o.lowWindows + 1 else 0
    ∃ bw, (fit → bw = o.boostWindows + 1) ∧ (¬ fit → bw = 0) ∧
      exec (.powerWindow w) s = .next (({ s with ozmel := { o with
        lastWatts := w, boostWindows := bw, boosted := decide (10 ≤ bw), lowWindows := low
        powerRate := if lim < w then max 1050000 (o.powerRate * 98 / 100)
                     else if 10 ≤ low then min 2350000 (o.powerRate * 101 / 100) else o.powerRate } } : State).throttleReport 1)) ∧
  (∀ (s : State) (tj : Int),
    let u : State := { s with fabric := { s.fabric with tj := tj } }
    let lim : Int := s.ozmel.consts.tjThrottle
    let r := s.ozmel.thermalRate
    (s.loopsRun = false → exec (.thermalLoop tj) s = .next u) ∧
    (s.loopsRun = true → exec (.thermalLoop tj) s = .next (({ u with ozmel := { s.ozmel with
      thermalRate := if lim < tj then r * 95 / 100 else if tj < lim - 3 then min 2350000 (r * 101 / 100) else r } } : State).throttleReport 2))) ∧
  (∀ (s : State) (cause : Nat),
    let now := decide (s.targetRate < 2000)
    (now = s.ozmel.throttled → s.throttleReport cause = s) ∧
    (now ≠ s.ozmel.throttled →
      let t := s.throttleReport cause
      t.ozmel.throttled = now ∧ t.fabric = s.fabric ∧ SameRegs s t [Reg.sootDrop] ∧ t.ozmel.consts = s.ozmel.consts ∧
      t.ozmel.powerRate = s.ozmel.powerRate ∧ t.ozmel.thermalRate = s.ozmel.thermalRate ∧
      ((s.mailbox 0).notifs.length < 32 → (t.mailbox 0).notifs = (s.mailbox 0).notifs ++
        [mbMessage 0x4002 0 0 (leBytes 1 cause ++ [0] ++ leBytes 2 (if now then s.targetRate else 0))]))) ∧
  (∀ (s : State) (tj : Int) (inlet : Option Int) (t0 t1 : Nat),
    let u : State := { s with fabric := { s.fabric with tj := tj } }
    (s.loopsRun = false → exec (.fanLoop tj inlet t0 t1) s = .next u) ∧
    (s.loopsRun = true →
      let o := s.ozmel
      let c := o.consts
      let e : Int := tj - c.tjTarget
      let tin := inlet.getD 45
      let i := clampInt (-25000000) 25000000 (o.fanInt + e * 100000 / (max 1 c.tau : Nat))
      let formula := clampInt ((c.fanMin : Int) * 1000000) 100000000
        ((c.ffBase : Int) * 1000000 + (c.ffSlope : Int) * (tin - 25) * 1000000 + (c.fanKp : Int) * (e * 1000000 + i))
      let want := if s.anyHot = true ∨ 0 < o.hotHold then 100000000 else formula
      let runs := failRuns o.fanDuty o.fanFailRuns [t0, t1]
      let kept : Ozmel := { o with
        lastInlet := tin, fanInt := i, fanFailRuns := runs, tach := [t0, t1]
        hotHold := if s.anyHot then 600 else o.hotHold - 1 }
      (o.fanFail = false → (∀ n ∈ runs, n < 30) → exec (.fanLoop tj inlet t0 t1) s = .next { u with ozmel := { kept with
        fanDuty := o.fanDuty + clampInt (-(c.slewDn : Int) * 100000) ((c.slewUp : Int) * 100000) (want - o.fanDuty) } }) ∧
      (o.fanFail = true → exec (.fanLoop tj inlet t0 t1) s = .next { u with ozmel := { kept with fanDuty := 100000000 } }) ∧
      (o.fanFail = false → (∃ n ∈ runs, 30 ≤ n) → ∃ t, exec (.fanLoop tj inlet t0 t1) s = .next t ∧ t.ozmel.fanFail = true ∧
        t.ozmel.fanDuty = 100000000 ∧ t.powerLimit ≤ 150 ∧
        ((s.mailbox 0).notifs.length < 31 → ∃ rate m, (t.mailbox 0).notifs = (s.mailbox 0).notifs ++
          [mbMessage 0x4002 0 0 (leBytes 1 3 ++ [0] ++ leBytes 2 rate)] ++ m))))) ∧
  ((∀ (s : State) (r : List Byte) (k : Nat), s.ozmel.handover = some r → s.ozmel.updCommitted = some k →
    let h := s.slotHeader k
    let u : State := { s.setFld Reg.rstBoot 9 8 k with ozmel := { s.ozmel with
      handover := none, updCommitted := none, version := BitVec.ofNat 32 (fieldAt h 12 4), buildSeq := BitVec.ofNat 32 (fieldAt h 4 4) } }
    exec (.handoverResume true) s = .next
      (((u.respond 0 r .ok (leBytes 4 ((s.nowNs - s.ozmel.handoverStart) / 1000))).settle 0 (s.mailbox 0).requests.length).swapNext) ∧
    exec (.handoverResume false) s = .next (({ s with ozmel := { s.ozmel with bootWanted := some k } } : State).warmReset .swGlobal)) ∧
  (∀ (s : State) (b : Bool), s.ozmel.handover = none → exec (.handoverResume b) s = .next s) ∧
  (∀ (s : State) (f : Nat) (r : List Byte) (st : Status) (pl : List Byte),
    ((s.respond f r st pl).mailbox f).responses =
      (s.mailbox f).responses ++ [mbMessage (0x8000 + fieldAt r 4 2) (fieldAt r 6 2) st.code (if st = .ok then pl else [])]) ∧
  (∀ s : State,
    let k := s.fld Reg.rstBoot 9 8
    (s.ozmel.ready = false ∨ s.slotState k ≠ .trial → exec .slotConfirmed s = .next s) ∧
    (s.ozmel.ready = true → s.slotState k = .trial → ∃ t, exec .slotConfirmed s = .next t ∧
      t.ozmel.slotStates = listUpd s.ozmel.slotStates k (fun _ => .confirmed) ∧ t.regs = s.regs ∧ t.flash = s.flash)) ∧
  (∀ s : State, (s.ozmel.running = false ∨ s.ozmel.handover ≠ none → exec .troubleLogFlush s = .next s) ∧
    (s.ozmel.running = true → s.ozmel.handover = none → exec .troubleLogFlush s =
      .next { s with ozmel := { s.ozmel with log := s.ozmel.log.map fun e => { e with saved := true } } })) ∧
  (∀ s : State, s.loopsRun = false ∨ (∀ e ∈ s.excq, ozmelFrame (e.2.2.drop 8) = false) → exec .exceptionFrameHandle s = .next s) ∧
  (∀ (s : State) (i p l : Nat) (b : List Byte), s.loopsRun = true → (s.excq.findIdx? fun e => ozmelFrame (e.2.2.drop 8)) = some i →
    listAt (0, 0, []) s.excq i = (p, l, b) →
    let u : State := { s with excq := s.excq.eraseIdx i }
    ((∀ c ∈ s.ozmel.net, c.port ≠ p ∨ c.link ≠ l) → exec .exceptionFrameHandle s = .next u) ∧
    (∀ c, (s.ozmel.net.find? fun c => c.port == p && c.link == l) = some c →
      (netAnswer c (b.drop 8) = none → exec .exceptionFrameHandle s = .next u) ∧
      (∀ a, netAnswer c (b.drop 8) = some a → s.flag (Reg.ethPort p) (28 + l) = true → exec .exceptionFrameHandle s =
        .next { u with outs := { s.outs with eth := (p, l, a) :: s.outs.eth } }))))

/-- R395-R399, R403: an event is dropped and counted while Soot is disabled, or when its queue of 64 is full; with no rate limit and room it
is queued with its time. SOOT_RECORD_WRITE writes the oldest event as a record of 64 bytes at slot SEQ and counts SEQ, and a ONCE trigger
that supplied its registers disarms. SOOT_RDATA_LATCH latches the selected record. -/
def Obligations.SootQueuesAndRecords : Prop :=
  (∀ (s : State) (code : Nat) (arg : Dword) (part : Option Nat),
    let u : State := { s with soot := { s.soot with trigs := sootFire s.soot.trigs code } }
    (s.flag Reg.sootCtrl 0 = false → s.sootEvent code arg part = u.bump Reg.sootDrop 15 0 1) ∧
    (s.flag Reg.sootCtrl 0 = true → bitsOf (s.sootRate code) 15 0 = 0xFFFF →
      (64 ≤ s.soot.queue.length → s.sootEvent code arg part = u.bump Reg.sootDrop 31 16 1) ∧
      (s.soot.queue.length < 64 → s.fabric.refclk = true → ∃ e, (s.sootEvent code arg part).soot.queue = s.soot.queue ++ [e] ∧
        e.code = code ∧ e.arg = arg ∧ e.part = part ∧ e.sec = s.tb.sec ∧ e.ns = s.tbNs ∧ e.frozen = false ∧
        (s.sootEvent code arg part).regs = s.regs))) ∧
  (∀ (s : State) (e : SootEvent) (l : List SootEvent), s.soot.queue = e :: l →
    let seq := s.reg Reg.sootHead
    let put : WordTab → State := fun tr => { s with soot := { s.soot with
      queue := l, trigs := tr, ring := wordsWrite s.soot.ring (seq.toNat % 4096 * 16) (bytesWords (sootRecord seq e)) } }
    (e.trig = none → exec .sootRecordWrite s = .next ((put s.soot.trigs).setReg Reg.sootHead (seq + 1))) ∧
    (∀ k, e.trig = some k →
      let w := wordGet s.soot.trigs (k * 16)
      (bitOf w 30 = false → exec .sootRecordWrite s = .next ((put s.soot.trigs).setReg Reg.sootHead (seq + 1))) ∧
      (bitOf w 30 = true → exec .sootRecordWrite s =
        .next ((put (wordSet s.soot.trigs (k * 16) (setBits w 31 31 0))).setReg Reg.sootHead (seq + 1)))) ∧
    (sootRecord seq e).length = 64 ∧ fieldAt (sootRecord seq e) 8 4 = seq.toNat ∧ fieldAt (sootRecord seq e) 60 4 = crc32c ((sootRecord seq e).take 60)) ∧
  (∀ s : State, s.soot.queue = [] → exec .sootRecordWrite s = .next s) ∧
  (∀ s : State, s.PfReaches (Reg.sootRdata 0) →
    let l := (List.range 16).map fun w => wordGet s.soot.ring (s.fld Reg.sootRdsel 11 0 * 16 + w)
    exec .sootRdataLatch s = .next { s with
      soot := { s.soot with latched := l }
      outs := { s.outs with busData := (listAt 0 l 0).setWidth 64 } })

/-- R402, R405, R406, R415: a presence change, a press, a power fault or an interrupt of the module sets its bit of CG_STATUS, sends the
cage's vector while IRQ_EN = 1, and reaches Soot (its kind and ARG are free, log entry 2). PWR_EN = 1 without a module reads 0. Removing a
module under AUTO_OFF, a power fault and a missing PWR_GOOD take the power, the module's reset and the port's links away. -/
def Obligations.CagesReportAndSwitch : Prop :=
  (∀ (s : State) (c bit : Nat), s.Canonical → c < 2 → bit < 8 →
    let t := s.cageSet c bit
    t.flag (Reg.cgStatus c) bit = true ∧ (∀ k, k ≠ bit → t.flag (Reg.cgStatus c) k = s.flag (Reg.cgStatus c) k) ∧
    SameRegs s t [Reg.cgStatus c, Reg.sootDrop] ∧ t.periph = s.periph ∧
    (s.flag (Reg.cgCtrl c) 15 = false → t.outs = s.outs ∧ t.pcie = s.pcie) ∧
    (s.flag (Reg.cgCtrl c) 15 = true → s.msixReady 0 (s.fld (Reg.cgCtrl c) 26 16) = true →
      t.outs.msix = (0, s.fld (Reg.cgCtrl c) 26 16) :: s.outs.msix)) ∧
  (∀ (s : State) (c : EpIx), exec (.cageButtonPress c) s = .next (s.cageSet c 1)) ∧
  (∀ (s : State) (c : EpIx) (present : Bool),
    (s.flag (Reg.cgStatus c) 7 = present → exec (.cagePresenceChange c present) s = .next s) ∧
    (s.flag (Reg.cgStatus c) 7 ≠ present → present = true ∨ s.flag (Reg.cgCtrl c) 8 = false →
      exec (.cagePresenceChange c present) s = .next ((s.setFlag (Reg.cgStatus c) 7 present).cageSet c 0)) ∧
    (s.Canonical → s.flag (Reg.cgStatus c) 7 = true → present = false → s.flag (Reg.cgCtrl c) 8 = true →
      ∃ t, exec (.cagePresenceChange c present) s = .next t ∧ t.flag (Reg.cgStatus c) 7 = false ∧ t.flag (Reg.cgStatus c) 0 = true ∧
        t.flag (Reg.cgCtrl c) 4 = false ∧ t.flag (Reg.cgStatus c) 6 = false ∧ t.cgResetN c = false ∧ t.fld (Reg.ethPort c) 31 28 = 0 ∧
        SameRegs s t [Reg.cgStatus c, Reg.cgCtrl c, Reg.ethPort c, Reg.i2c0Xfer, Reg.sootDrop])) ∧
  (∀ (s : State) (c : EpIx) (v : Word), s.Canonical → s.PfReaches (Reg.cgCtrl c) →
    let w := (if s.flag (Reg.cgStatus c) 7 then v else setBits v 4 4 0) &&& 0x07FF8133
    ∃ t, exec (.cagePwrEnWrite c v) s = .next t ∧ t.reg (Reg.cgCtrl c) = w ∧
      (bitOf w 4 = true → t = { s with regs := t.regs } ∧ SameRegs s t [Reg.cgCtrl c]) ∧
      (bitOf w 4 = false → t.flag (Reg.cgStatus c) 6 = false ∧ t.cgResetN c = false ∧
        SameRegs s t [Reg.cgCtrl c, Reg.cgStatus c, Reg.i2c0Xfer] ∧
        (∀ x, s.periph.i2c = some x → boolNat (bitOf x 27) = c.val → t.flag Reg.i2c0Xfer 28 = true ∧ t.flag Reg.i2c0Xfer 30 = false ∧
          t.periph.i2c = none))) ∧
  (∀ (s : State) (c : EpIx) (i : Instr), s.Canonical →
    (i = .cagePowerFault c ∨ (i = .pwrGoodTimeout c ∧ s.flag (Reg.cgCtrl c) 4 = true ∧ s.flag (Reg.cgStatus c) 6 = false)) →
    ∃ t, exec i s = .next t ∧ t.flag (Reg.cgStatus c) 2 = true ∧ t.flag (Reg.cgCtrl c) 4 = false ∧ t.flag (Reg.cgStatus c) 6 = false ∧
      t.cgResetN c = false ∧ t.fld (Reg.ethPort c) 31 28 = 0 ∧
      SameRegs s t [Reg.cgStatus c, Reg.cgCtrl c, Reg.ethPort c, Reg.i2c0Xfer, Reg.sootDrop]) ∧
  (∀ (s : State) (c : EpIx), s.flag (Reg.cgCtrl c) 4 = false ∨ s.flag (Reg.cgStatus c) 6 = true → exec (.pwrGoodTimeout c) s = .next s) ∧
  (∀ (s : State) (c : EpIx), exec (.cagePwrGood c) s = .next (s.setFlag (Reg.cgStatus c) 6 true)) ∧
  (∀ (s : State) (c : EpIx),
    let on := s.flag (Reg.cgCtrl c) 4 = true ∧ s.flag (Reg.cgStatus c) 6 = true
    (¬ on → exec (.moduleResetRelease c) s = .next s) ∧
    (on → s.Canonical → ∃ t, exec (.moduleResetRelease c) s = .next t ∧ t.cgResetN c = !s.flag (Reg.cgCtrl c) 5 ∧
      t = { s with periph := { s.periph with cgReleased := t.periph.cgReleased } })) ∧
  (∀ (s : State) (c : EpIx) (low : Bool),
    let u := s.setFlag (Reg.cgStatus c) 5 low
    (low = false ∨ s.flag (Reg.cgStatus c) 5 = true → exec (.moduleIntChange c low) s = .next u) ∧
    (low = true → s.flag (Reg.cgStatus c) 5 = false → exec (.moduleIntChange c low) s = .next (u.cageSet c 3)))

/-- R407-R409, R414: a transfer of I2C master 0 starts with GO on a powered cage and otherwise sets ERR; its end clears BUSY, with the bytes
read in the buffer, or NACK or ERR set. The SMBus target answers the byte of a command code. IN follows the pins (OUT where OE is 1) and CHG
collects changes. A JTAG instruction shifts IDCODE, 0, or a free word (log entry 2); a debug instruction acts as BYPASS without DBG_EN, and
with it stops, because the spec does not describe the debug unit. -/
def Obligations.SerialBusesAndPins : Prop :=
  (∀ (s : State) (v : Word), s.PfReaches Reg.i2c0Xfer →
    let old := s.reg Reg.i2c0Xfer
    let w := (old &&& 0x70000000 &&& ~~~(v &&& 0x30000000)) ||| (v &&& 0x0E7FFFFF)
    let u := s.setReg Reg.i2c0Xfer w
    let on := s.flag (Reg.cgStatus (boolNat (bitOf v 27))) 6
    (bitOf v 31 = false ∨ bitOf old 30 = true → exec (.i2c0XferGo v) s = .next u) ∧
    (bitOf v 31 = true → bitOf old 30 = false → on = false → exec (.i2c0XferGo v) s = .next (u.setFlag Reg.i2c0Xfer 28 true)) ∧
    (s.Canonical → bitOf v 31 = true → bitOf old 30 = false → on = true → ∃ t, exec (.i2c0XferGo v) s = .next t ∧
      t.flag Reg.i2c0Xfer 30 = true ∧ t.periph = { s.periph with i2c := some w } ∧
      t.outs.i2c = ([BitVec.ofNat 8 (2 * bitsOf v 22 16)] ++ s.bufBytes (Reg.i2c0Buf 0) (min 32 (bitsOf v 15 8)) ++
        (if bitsOf v 7 0 = 0 then [] else [BitVec.ofNat 8 (2 * bitsOf v 22 16 + 1)])) :: s.outs.i2c ∧
      t = { s with regs := t.regs, periph := t.periph, outs := t.outs } ∧ SameRegs s t [Reg.i2c0Xfer])) ∧
  (∀ (s : State) (e : I2cEnd), s.periph.i2c = none → exec (.i2c0XferEnd e) s = .next s) ∧
  (∀ (s : State) (w : Word) (e : I2cEnd), s.Canonical → s.periph.i2c = some w → ∃ t, exec (.i2c0XferEnd e) s = .next t ∧
    t.flag Reg.i2c0Xfer 30 = false ∧ t.periph = { s.periph with i2c := none } ∧
    t.flag Reg.i2c0Xfer 29 = (s.flag Reg.i2c0Xfer 29 || decide (e = .nack)) ∧ t.flag Reg.i2c0Xfer 28 = (s.flag Reg.i2c0Xfer 28 || decide (e = .err)) ∧
    (∀ rd, e = .done rd → ∀ i, i < rd.length → i < min 32 (bitsOf w 7 0) → listAt 0 (t.bufBytes (Reg.i2c0Buf 0) 32) i = listAt 0 rd i) ∧
    ((∀ rd, e ≠ .done rd) → SameRegs s t [Reg.i2c0Xfer]) ∧ t = { s with regs := t.regs, periph := t.periph }) ∧
  (∀ (s : State) (c : Byte),
    let x : Byte := if c = 0 then BitVec.ofNat 8 s.discState
      else if c = 1 then BitVec.ofNat 8 (wrapInt 8 s.fabric.tj)
      else if c = 2 then BitVec.ofNat 8 (boolNat s.outs.thermtrip + 2 * boolNat s.fabric.safe + 4 * boolNat (s.flag Reg.rstBoot 31))
      else if c = 3 then BitVec.ofNat 8 (s.ozmel.fanDuty / 1000000).toNat
      else 0xFF
    exec (.smbusReadByte c) s = .next { s with outs := { s.outs with smbus := x } }) ∧
  (∀ (s : State) (pin : Fin 16) (level : Bool), s.Canonical → ∃ t, exec (.gpioInputChange pin level) s = .next t ∧
    (∀ k < 16, t.flag Reg.gpioIn k = (if s.flag Reg.gpioOut (16 + k) then s.flag Reg.gpioOut k
        else if k = pin.val then level else bitOf s.periph.gpioExt k) ∧
      t.flag Reg.gpioIn (16 + k) = (s.flag Reg.gpioIn (16 + k) || (t.flag Reg.gpioIn k != s.flag Reg.gpioIn k))) ∧
    t = { s with regs := t.regs, periph := { s.periph with gpioExt := t.periph.gpioExt } } ∧ SameRegs s t [Reg.gpioIn]) ∧
  (∀ s : State,
    let port : JtagInstr → Word → State := fun j w => { s with periph := { s.periph with jtag := j }, outs := { s.outs with jtagData := w } }
    exec (.jtagInstruction .bypass) s = .next (port .bypass 0) ∧ exec (.jtagInstruction .idcode) s = .next (port .idcode s.idcode) ∧
    (∃ w, exec (.jtagInstruction .samplePreload) s = .next { port .samplePreload w with freeCtr := s.freeCtr + 1 }) ∧
    (∃ w, exec (.jtagInstruction .extest) s = .next { port .extest w with freeCtr := s.freeCtr + 1 }) ∧
    (s.flag Reg.dbgCtrl 0 = false → exec (.jtagInstruction .debug) s = .next (port .bypass 0)) ∧
    (s.flag Reg.dbgCtrl 0 = true → exec (.jtagInstruction .debug) s = .refused .debugUnit) ∧
    bitsOf s.idcode 27 12 = 0x7216 ∧ bitsOf s.idcode 0 0 = 1)

/-- R410-R412: a byte written to UART_DATA is queued for the transmitter, and is lost with an error bit when 16 wait; a read takes the
oldest byte received, with VALID, or reads 0. A character received without error enters the FIFO; a wrong parity or stop bit sets its error
bit. The end of a character sends it, or loops it back, and takes up the next. A flash transfer starts in recovery mode only; its end clears
BUSY, and Read, Page Program and Sector Erase have their effect on buffer and flash. -/
def Obligations.DebugUartAndFlashPort : Prop :=
  (∀ (s : State) (v : Word), s.PfReaches Reg.uartData →
    let u : List Byte → Option Byte → State := fun tx b => { s with periph := { s.periph with uartTx := tx, uartSending := b } }
    let b : Byte := BitVec.ofNat 8 v.toNat
    (16 ≤ s.periph.uartTx.length → exec (.uartDataWrite v) s = .next (s.uartErr 4)) ∧
    (s.periph.uartTx.length < 16 → s.periph.uartSending ≠ none ∨ s.flag Reg.uartCtrl 0 = false →
      exec (.uartDataWrite v) s = .next (u (s.periph.uartTx ++ [b]) s.periph.uartSending)) ∧
    (s.periph.uartTx = [] → s.periph.uartSending = none → s.flag Reg.uartCtrl 0 = true → exec (.uartDataWrite v) s = .next (u [] (some b)))) ∧
  (∀ s : State, s.PfReaches Reg.uartData →
    (s.periph.uartRx = [] → exec .uartDataRead s = .next { s with outs := { s.outs with busData := 0 } }) ∧
    (∀ b l, s.periph.uartRx = b :: l → exec .uartDataRead s = .next { s with
      periph := { s.periph with uartRx := l }
      outs := { s.outs with busData := BitVec.ofNat 64 (256 + (if s.flag Reg.uartCtrl 2 then b &&& 0x7F else b).toNat) } })) ∧
  (∀ (s : State) (l : List Bool), s.flag Reg.uartCtrl 1 = false ∨ s.flag Reg.uartCtrl 6 = true → exec (.uartCharacterReceive l) s = .next s) ∧
  (∀ (s : State) (l : List Bool) (b : Byte), s.flag Reg.uartCtrl 1 = true → s.flag Reg.uartCtrl 6 = false → s.flag Reg.uartCtrl 2 = false →
    (∀ k < 8, lineBit l (k + 1) = b.getLsbD k) → s.fld Reg.uartCtrl 5 4 = 0 →
    (lineSample l 9 8 = true → s.periph.uartRx.length < 16 → ∃ t, exec (.uartCharacterReceive l) s = .next t ∧
      t.periph = { s.periph with uartRx := s.periph.uartRx ++ [b] } ∧ t.regs = s.regs ∧
      (s.flag Reg.uartCtrl 15 = false → t = { s with periph := t.periph })) ∧
    (s.Canonical → lineSample l 9 8 = true → 16 ≤ s.periph.uartRx.length → ∃ t, exec (.uartCharacterReceive l) s = .next t ∧
      t.periph = s.periph ∧ t.flag Reg.uartStat 3 = true ∧ SameRegs s t [Reg.uartStat]) ∧
    (s.Canonical → lineSample l 9 8 = false → ∃ t, exec (.uartCharacterReceive l) s = .next t ∧
      t.periph = s.periph ∧ t.flag Reg.uartStat 0 = true ∧ SameRegs s t [Reg.uartStat])) ∧
  (∀ (s : State) (l : List Bool), s.Canonical → s.flag Reg.uartCtrl 1 = true → s.flag Reg.uartCtrl 6 = false → s.flag Reg.uartCtrl 2 = false →
    s.fld Reg.uartCtrl 5 4 = 1 ∨ s.fld Reg.uartCtrl 5 4 = 2 →
    let odd := ((List.range 8).map fun k => boolNat (lineBit l (k + 1))).sum % 2 = 1
    let good := (lineBit l 9 = true) ↔ (if s.fld Reg.uartCtrl 5 4 = 1 then odd else ¬ odd)
    ¬ good → lineSample l 10 8 = true → ∃ t, exec (.uartCharacterReceive l) s = .next t ∧ t.flag Reg.uartStat 1 = true) ∧
  (∀ (s : State) (b : Byte), s.periph.uartSending = some b → s.flag Reg.uartCtrl 6 = false →
    let bits := (List.range (if s.flag Reg.uartCtrl 2 then 7 else 8)).map fun i => b.toNat.testBit i
    let ones := (bits.filter fun x => x).length
    let out := [false] ++ bits ++ (if s.fld Reg.uartCtrl 5 4 = 1 then [decide (ones % 2 = 1)] else if s.fld Reg.uartCtrl 5 4 = 2 then [decide (ones % 2 = 0)]
      else []) ++ [true] ++ (if s.flag Reg.uartCtrl 3 then [true] else [])
    ∃ t, exec .uartCharacterSent s = .next t ∧ t.outs = { s.outs with uart := out :: s.outs.uart } ∧
      ((s.periph.uartTx = [] ∨ s.flag Reg.uartCtrl 0 = false) → t.periph = { s.periph with uartSending := none }) ∧
      (∀ x l, s.periph.uartTx = x :: l → s.flag Reg.uartCtrl 0 = true → t.periph = { s.periph with uartSending := some x, uartTx := l }) ∧
      t = { s with periph := t.periph, outs := t.outs }) ∧
  (∀ (s : State) (v : Word), s.PfReaches Reg.spiXfer →
    let w := v &&& 0x30007FFF
    let busy := s.flag Reg.spiXfer 30
    let u := s.setReg Reg.spiXfer (w ||| (if busy then 0x40000000 else 0))
    (bitOf v 31 = false → exec (.spiXferGo v) s = .next u) ∧
    (bitOf v 31 = true → s.discState ≠ 2 → exec (.spiXferGo v) s = .next (u.ignoredWrite 0x58 Reg.spiXfer)) ∧
    (bitOf v 31 = true → s.discState = 2 → busy = true → exec (.spiXferGo v) s = .next u) ∧
    (s.Canonical → bitOf v 31 = true → s.discState = 2 → busy = false → ∃ t, exec (.spiXferGo v) s = .next t ∧
      t.flag Reg.spiXfer 30 = true ∧ t.periph = { s.periph with spi := some (w, s.reg Reg.spiAddr) } ∧
      t.outs.spi = ([BitVec.ofNat 8 (bitsOf v 7 0)] ++ (if bitOf v 28 then (leBytes 4 (s.reg Reg.spiAddr).toNat).reverse else []) ++
        (if bitOf v 29 then s.bufBytes (Reg.spiBuf 0) (min 64 (bitsOf v 14 8)) else [])) :: s.outs.spi ∧
      t = { s with regs := t.regs, periph := t.periph, outs := t.outs } ∧ SameRegs s t [Reg.spiXfer])) ∧
  (∀ (s : State) (rd : List Byte), s.periph.spi = none → exec (.spiXferEnd rd) s = .next s) ∧
  (∀ (s : State) (rd : List Byte) (w ad : Word), s.periph.spi = some (w, ad) →
    let op := bitsOf w 7 0
    let n := min 64 (bitsOf w 14 8)
    let u : State := { s.setFlag Reg.spiXfer 30 false with periph := { s.periph with spi := none } }
    (s.Canonical → bitOf w 29 = false → n ≠ 0 → ∃ t, exec (.spiXferEnd rd) s = .next t ∧ t.flag Reg.spiXfer 30 = false ∧
      (op = 0x13 → bitOf w 28 = true → t.bufBytes (Reg.spiBuf 0) n = s.readFlash ad.toNat n) ∧
      (op ≠ 0x13 → n ≤ rd.length → t.bufBytes (Reg.spiBuf 0) n = rd.take n) ∧ t = { s with regs := t.regs, periph := u.periph }) ∧
    (bitOf w 28 = true → bitOf w 29 = true → op = 0x12 →
      exec (.spiXferEnd rd) s = .next (u.pageProgram ad.toNat (s.bufBytes (Reg.spiBuf 0) n))) ∧
    (bitOf w 28 = true → bitOf w 29 = true ∨ n = 0 → op = 0x21 →
      exec (.spiXferEnd rd) s = .next (u.writeFlash (4096 * (ad.toNat / 4096)) (List.replicate 4096 0xFF))) ∧
    (bitOf w 29 = true ∨ n = 0 → bitOf w 28 = false ∨ op ≠ 0x12 ∧ op ≠ 0x21 → exec (.spiXferEnd rd) s = .next u))
end

