-- ==== Sys2Proof/Laws/Canonical.lean ====
section
/-!
SUPPORT. Laws of the sparse tables and byte memories: a read after a write, and the canonical form, which every operation on them
keeps.
-/

namespace Sys2Proof.Machine

set_option Elab.async false

/-! ### Sparse tables -/

/-- Keys strictly rising. -/
abbrev Rising {α : Type} (t : List (Nat × α)) : Prop := t.Pairwise fun x y => x.1 < y.1

/-- Reading the key just written gives the value written. -/
theorem sparseGet_mem {α : Type} (d : α) (t : List (Nat × α)) (k : Nat) : sparseGet d t k = d ∨ (k, sparseGet d t k) ∈ t := by
  induction t with
  | nil => exact .inl rfl
  | cons e t ih =>
    by_cases hk : k = e.1
    · right; simp [sparseGet, hk]
    · rcases ih with h | h
      · left; simp [sparseGet, hk, h]
      · right; simp [sparseGet, hk, h]

theorem sparseGet_set_same {α : Type} [DecidableEq α] (d : α) (t : List (Nat × α)) (k : Nat) (v : α) (h : Rising t) :
    sparseGet d (sparseSet d t k v) k = v := by
  induction t with
  | nil => by_cases hv : v = d <;> simp [sparseSet, sparseGet, hv]
  | cons e t ih =>
    obtain ⟨k', v'⟩ := e
    have ht : Rising t := (List.pairwise_cons.mp h).2
    have hlt : ∀ e ∈ t, k' < e.1 := (List.pairwise_cons.mp h).1
    have absent : ∀ t : List (Nat × α), (∀ e ∈ t, k < e.1) → sparseGet d t k = d := by
      intro t
      induction t with
      | nil => intro _; rfl
      | cons f t iht =>
        intro hf
        have h1 := hf f (List.mem_cons_self ..)
        have h2 : k ≠ f.1 := by omega
        simp only [sparseGet, if_neg h2]
        exact iht fun e he => hf e (List.mem_cons_of_mem _ he)
    simp only [sparseSet]
    split
    · rename_i hk
      split
      · rename_i hv
        have h2 : k ≠ k' := by omega
        simp only [sparseGet, if_neg h2]
        rw [absent t fun e he => Nat.lt_trans hk (hlt e he), hv]
      · simp [sparseGet]
    · split
      · rename_i hk
        split
        · rename_i hv
          rw [absent t fun e he => hk ▸ hlt e he, hv]
        · simp [sparseGet]
      · rename_i hk
        simp only [sparseGet, if_neg hk]
        exact ih ht

/-- Reading another key gives what it gave, whatever the value for absent keys. -/
theorem sparseGet_set_key {α : Type} [DecidableEq α] (d d' : α) (t : List (Nat × α)) (k j : Nat) (v : α) (h : j ≠ k) :
    sparseGet d' (sparseSet d t k v) j = sparseGet d' t j := by
  induction t with
  | nil => by_cases hv : v = d <;> simp [sparseSet, sparseGet, hv, h]
  | cons e t ih =>
    obtain ⟨k', v'⟩ := e
    simp only [sparseSet]
    split
    · split <;> simp [sparseGet, h]
    · split
      · rename_i hk
        subst hk
        split <;> simp [sparseGet, h]
      · simp only [sparseGet, ih]

/-- Reading another key gives what it gave. -/
theorem sparseGet_set_other {α : Type} [DecidableEq α] (d : α) (t : List (Nat × α)) (k j : Nat) (v : α) (h : j ≠ k) :
    sparseGet d (sparseSet d t k v) j = sparseGet d t j :=
  sparseGet_set_key d d t k j v h

theorem sparseSet_lower {α : Type} [DecidableEq α] (d : α) (t : List (Nat × α)) (k b : Nat) (v : α) (hk : b < k)
    (h : ∀ e ∈ t, b < e.1) : ∀ e ∈ sparseSet d t k v, b < e.1 := by
  induction t with
  | nil => by_cases hv : v = d <;> simp [sparseSet, hv, hk]
  | cons f t ih =>
    obtain ⟨k', v'⟩ := f
    have hf := h (k', v') (List.mem_cons_self ..)
    have ht : ∀ e ∈ t, b < e.1 := fun e he => h e (List.mem_cons_of_mem _ he)
    intro e he
    simp only [sparseSet] at he
    split at he
    · split at he
      · exact h e he
      · rcases List.mem_cons.mp he with rfl | he
        · exact hk
        · exact h e he
    · split at he
      · split at he
        · exact ht e he
        · rcases List.mem_cons.mp he with rfl | he
          · exact hk
          · exact ht e he
      · rcases List.mem_cons.mp he with rfl | he
        · exact hf
        · exact ih ht e he

/-- A write keeps the keys strictly rising. -/
theorem sparseSet_rising {α : Type} [DecidableEq α] (d : α) (t : List (Nat × α)) (k : Nat) (v : α) (h : Rising t) :
    Rising (sparseSet d t k v) := by
  induction t with
  | nil => by_cases hv : v = d <;> simp [sparseSet, hv]
  | cons e t ih =>
    obtain ⟨k', v'⟩ := e
    obtain ⟨hlt, ht⟩ := List.pairwise_cons.mp h
    simp only [sparseSet]
    split
    · rename_i hk
      split
      · exact h
      · refine List.pairwise_cons.mpr ⟨?_, h⟩
        intro f hf
        rcases List.mem_cons.mp hf with rfl | hf
        · exact hk
        · exact Nat.lt_trans hk (hlt f hf)
    · split
      · rename_i hk
        split
        · exact ht
        · exact List.pairwise_cons.mpr ⟨fun f hf => hk ▸ hlt f hf, ht⟩
      · exact List.pairwise_cons.mpr ⟨sparseSet_lower d t k k' v (by omega) hlt, ih ht⟩

/-- An entry of a table after a write is an old one or the one written, and the one written is not the default. -/
theorem sparseSet_mem {α : Type} [DecidableEq α] (d : α) (t : List (Nat × α)) (k : Nat) (v : α) :
    ∀ e ∈ sparseSet d t k v, e ∈ t ∨ (e = (k, v) ∧ v ≠ d) := by
  induction t with
  | nil => by_cases hv : v = d <;> simp [sparseSet, hv]
  | cons f t ih =>
    obtain ⟨k', v'⟩ := f
    intro e he
    simp only [sparseSet] at he
    split at he
    · split at he
      · exact .inl he
      · rename_i hv
        rcases List.mem_cons.mp he with rfl | he
        · exact .inr ⟨rfl, hv⟩
        · exact .inl he
    · split at he
      · split at he
        · exact .inl (List.mem_cons_of_mem _ he)
        · rename_i hv
          rcases List.mem_cons.mp he with rfl | he
          · exact .inr ⟨rfl, hv⟩
          · exact .inl (List.mem_cons_of_mem _ he)
      · rcases List.mem_cons.mp he with rfl | he
        · exact .inl (List.mem_cons_self ..)
        · exact (ih e he).imp (List.mem_cons_of_mem _) id

theorem sparsePut_lower {α : Type} (t : List (Nat × α)) (k b : Nat) (v : α) (hk : b < k)
    (h : ∀ e ∈ t, b < e.1) : ∀ e ∈ sparsePut t k v, b < e.1 := by
  induction t with
  | nil => simp [sparsePut, hk]
  | cons f t ih =>
    obtain ⟨k', v'⟩ := f
    have ht : ∀ e ∈ t, b < e.1 := fun e he => h e (List.mem_cons_of_mem _ he)
    intro e he
    simp only [sparsePut] at he
    split at he
    · rcases List.mem_cons.mp he with rfl | he
      · exact hk
      · exact h e he
    · split at he
      · rcases List.mem_cons.mp he with rfl | he
        · exact hk
        · exact ht e he
      · rcases List.mem_cons.mp he with rfl | he
        · exact h _ (List.mem_cons_self ..)
        · exact ih ht e he

theorem sparsePut_rising {α : Type} (t : List (Nat × α)) (k : Nat) (v : α) (h : Rising t) : Rising (sparsePut t k v) := by
  induction t with
  | nil => simp [sparsePut]
  | cons e t ih =>
    obtain ⟨k', v'⟩ := e
    obtain ⟨hlt, ht⟩ := List.pairwise_cons.mp h
    simp only [sparsePut]
    split
    · rename_i hk
      refine List.pairwise_cons.mpr ⟨?_, h⟩
      intro f hf
      rcases List.mem_cons.mp hf with rfl | hf
      · exact hk
      · exact Nat.lt_trans hk (hlt f hf)
    · split
      · rename_i hk
        exact List.pairwise_cons.mpr ⟨fun f hf => hk ▸ hlt f hf, ht⟩
      · exact List.pairwise_cons.mpr ⟨sparsePut_lower t k k' v (by omega) hlt, ih ht⟩

theorem sparsePut_mem {α : Type} (t : List (Nat × α)) (k : Nat) (v : α) : ∀ e ∈ sparsePut t k v, e ∈ t ∨ e = (k, v) := by
  induction t with
  | nil => simp [sparsePut]
  | cons f t ih =>
    obtain ⟨k', v'⟩ := f
    intro e he
    simp only [sparsePut] at he
    split at he
    · exact (List.mem_cons.mp he).symm
    · split at he
      · exact (List.mem_cons.mp he).symm.imp (List.mem_cons_of_mem _) id
      · rcases List.mem_cons.mp he with rfl | he
        · exact .inl (List.mem_cons_self ..)
        · exact (ih e he).imp (List.mem_cons_of_mem _) id

/-! ### Byte memories -/

theorem cellsWf_iff (d : Byte) (m : List Host.Cell) : cellsWf d m = true ↔ Rising m ∧ ∀ e ∈ m, e.2 ≠ d := by
  simp [cellsWf]

theorem memWf_iff (us : List Undef) (m : List Host.Cell) :
    memWf us m = true ↔ Rising m ∧ ∀ e ∈ m, e.2 ≠ memDefault ∨ (undefFind us e.1).isSome = true := by
  simp [memWf]

/-- A write of bytes keeps the canonical form. -/
theorem cellsWrite_wf (d : Byte) (m : List Host.Cell) (a : Nat) (bs : List Byte) (h : cellsWf d m = true) :
    cellsWf d (cellsWrite d m a bs) = true := by
  induction bs generalizing m a with
  | nil => exact h
  | cons b t ih =>
    refine ih _ _ ?_
    obtain ⟨hr, hd⟩ := (cellsWf_iff d m).mp h
    refine (cellsWf_iff d _).mpr ⟨sparseSet_rising d m a b hr, fun e he => ?_⟩
    rcases sparseSet_mem d m a b e he with he | ⟨rfl, hb⟩
    · exact hd e he
    · exact hb

theorem filter_wf (d : Byte) (m : List Host.Cell) (f : Host.Cell → Bool) (h : cellsWf d m = true) : cellsWf d (m.filter f) = true := by
  obtain ⟨hr, hd⟩ := (cellsWf_iff d m).mp h
  exact (cellsWf_iff d _).mpr ⟨hr.filter f, fun e he => hd e (List.mem_of_mem_filter he)⟩

theorem memWrite_wf (us : List Undef) (m : List Host.Cell) (a : Nat) (bs : List Byte) (h : memWf us m = true) :
    memWf us (memWrite us m a bs) = true := by
  induction bs generalizing m a with
  | nil => exact h
  | cons b t ih =>
    refine ih _ _ ?_
    obtain ⟨hr, hd⟩ := (memWf_iff us m).mp h
    split
    · rename_i hu
      refine (memWf_iff us _).mpr ⟨sparsePut_rising m a b hr, fun e he => ?_⟩
      rcases sparsePut_mem m a b e he with he | rfl
      · exact hd e he
      · exact .inr hu
    · refine (memWf_iff us _).mpr ⟨sparseSet_rising _ m a b hr, fun e he => ?_⟩
      rcases sparseSet_mem _ m a b e he with he | ⟨rfl, hb⟩
      · exact hd e he
      · exact .inl hb

theorem undefFind_isSome (us : List Undef) (a : Nat) : (undefFind us a).isSome = true ↔ ∃ u ∈ us, u.has a = true := by
  simp [undefFind]

/-- Outside the range cut out, an address is undefined as before. -/
theorem minus_has (us : List Undef) (da len a : Nat) (hout : a < da ∨ da + len ≤ a) (h : ∃ u ∈ us, u.has a = true) :
    ∃ u ∈ (us.map (Undef.minus da len)).flatten, u.has a = true := by
  obtain ⟨u, hu, ha⟩ := h
  simp only [Undef.has, Bool.and_eq_true, decide_eq_true_eq] at ha
  rcases hout with hl | hr
  · refine ⟨{ u with len := min u.len (da - u.base) }, ?_, ?_⟩
    · simp only [List.mem_flatten, List.mem_map]
      refine ⟨_, ⟨u, hu, rfl⟩, ?_⟩
      have : u.base < da := by omega
      simp [Undef.minus, this]
    · simp only [Undef.has, Bool.and_eq_true, decide_eq_true_eq]
      omega
  · refine ⟨{ u with base := max u.base (da + len), len := u.base + u.len - max u.base (da + len) }, ?_, ?_⟩
    · simp only [List.mem_flatten, List.mem_map]
      refine ⟨_, ⟨u, hu, rfl⟩, ?_⟩
      have : da + len < u.base + u.len := by omega
      simp [Undef.minus, this]
    · simp only [Undef.has, Bool.and_eq_true, decide_eq_true_eq]
      omega

/-- A scrub keeps the canonical form. -/
theorem zero_wf (us us' : List Undef) (m : List Host.Cell) (da len : Nat) (h : memWf us m = true)
    (hus : ∀ a, (a < da ∨ da + len ≤ a) → (∃ u ∈ us, u.has a = true) → ∃ u ∈ us', u.has a = true) :
    memWf us' (m.filter fun e => !(decide (da ≤ e.1) && decide (e.1 < da + len))) = true := by
  obtain ⟨hr, hd⟩ := (memWf_iff us m).mp h
  refine (memWf_iff us' _).mpr ⟨hr.filter _, fun e he => ?_⟩
  obtain ⟨hm, ho⟩ := List.mem_filter.mp he
  rcases hd e hm with h1 | h1
  · exact .inl h1
  · refine .inr ((undefFind_isSome us' e.1).mpr (hus e.1 ?_ ((undefFind_isSome us e.1).mp h1)))
    simp only [Bool.not_eq_true', Bool.and_eq_false_iff, decide_eq_false_iff_not] at ho
    omega

/-- Device memory after the scrub of a range is in its canonical form. -/
theorem minus_wf (us : List Undef) (m : List Host.Cell) (da len : Nat) (h : memWf us m = true) :
    memWf (us.map (Undef.minus da len)).flatten (m.filter fun e => !(decide (da ≤ e.1) && decide (e.1 < da + len))) = true :=
  zero_wf us _ m da len h fun a ho hu => minus_has us da len a ho hu

/-- Device memory after a range has become undefined is in its canonical form. -/
theorem undef_wf (us : List Undef) (m : List Host.Cell) (da len : Nat) (v : Undef) (h : memWf us m = true) :
    memWf ((us.map (Undef.minus da len)).flatten.filter (fun u => decide (u.base < da)) ++ [v] ++
        (us.map (Undef.minus da len)).flatten.filter (fun u => !decide (u.base < da)))
      (m.filter fun e => !(decide (da ≤ e.1) && decide (e.1 < da + len))) = true := by
  refine zero_wf us _ m da len h fun a ho hu => ?_
  obtain ⟨u, hm, hh⟩ := minus_has us da len a ho hu
  refine ⟨u, ?_, hh⟩
  by_cases hb : u.base < da
  · exact List.mem_append_left _ (List.mem_append_left _ (List.mem_filter.mpr ⟨hm, by simpa using hb⟩))
  · exact List.mem_append_right _ (List.mem_filter.mpr ⟨hm, by simpa using hb⟩)

/-! ### Reading and writing device memory -/

theorem tabFind_sparseSet_other (m : List Host.Cell) (d : Byte) (a x : Nat) (b : Byte) (h : x ≠ a) :
    tabFind (sparseSet d m a b) x = tabFind m x := by
  induction m with
  | nil => by_cases hb : b = d <;> simp [sparseSet, tabFind, hb, Ne.symm h]
  | cons e t ih =>
    obtain ⟨k, v⟩ := e
    simp only [tabFind] at ih
    simp only [sparseSet]
    split
    · split <;> simp [tabFind, Ne.symm h]
    · split
      · rename_i hk
        subst hk
        split <;> simp [tabFind, Ne.symm h]
      · by_cases hx : k = x <;> simp [tabFind, hx, ih]

theorem tabFind_sparsePut (m : List Host.Cell) (a x : Nat) (b : Byte) :
    Rising m → tabFind (sparsePut m a b) x = if x = a then some b else tabFind m x := by
  induction m with
  | nil =>
    intro _
    rcases eq_or_ne x a with hx | hx
    · simp [sparsePut, tabFind, hx]
    · simp [sparsePut, tabFind, hx, Ne.symm hx]
  | cons e t ih =>
    obtain ⟨k, v⟩ := e
    intro hr
    obtain ⟨_, ht⟩ := List.pairwise_cons.mp hr
    have ih := ih ht
    simp only [tabFind] at ih
    simp only [sparsePut]
    split
    · rcases eq_or_ne x a with hx | hx
      · simp [tabFind, hx]
      · simp [tabFind, hx, Ne.symm hx]
    · split
      · rename_i hk
        subst hk
        rcases eq_or_ne x a with hx | hx
        · simp [tabFind, hx]
        · simp [tabFind, hx, Ne.symm hx]
      · by_cases hkx : k = x
        · subst hkx
          have : k ≠ a := by omega
          simp [tabFind, this]
        · simp [tabFind, hkx, ih]

theorem tabFind_rising_none (m : List Host.Cell) (k : Nat) (h : ∀ e ∈ m, k < e.1) : tabFind m k = none := by
  induction m with
  | nil => rfl
  | cons e t ih =>
    have h1 := h e (List.mem_cons_self ..)
    have h2 : e.1 ≠ k := by omega
    have := ih fun f hf => h f (List.mem_cons_of_mem _ hf)
    simp only [tabFind] at this ⊢
    simp [h2, this]

theorem tabFind_sparseSet_same (m : List Host.Cell) (d : Byte) (a : Nat) (b : Byte) (hr : Rising m) :
    tabFind (sparseSet d m a b) a = if b = d then none else some b := by
  induction m with
  | nil => by_cases hb : b = d <;> simp [sparseSet, tabFind, hb]
  | cons e t ih =>
    obtain ⟨k, v⟩ := e
    obtain ⟨hlt, ht⟩ := List.pairwise_cons.mp hr
    have ih := ih ht
    simp only [sparseSet]
    split
    · rename_i hk
      split
      · rename_i hb
        exact tabFind_rising_none _ _ fun f hf => by
          rcases List.mem_cons.mp hf with rfl | hf
          · exact hk
          · exact Nat.lt_trans hk (hlt f hf)
      · simp [tabFind]
    · split
      · rename_i hk
        split
        · rename_i hb
          exact tabFind_rising_none _ _ fun f hf => hk ▸ hlt f hf
        · simp [tabFind]
      · rename_i h1 h2
        have h3 : k ≠ a := by omega
        simp only [tabFind] at ih ⊢
        simp [h3, ih]

/-- The byte that an address reads as under a list of undefined ranges and a memory. -/
def byteOf (us : List Undef) (m : List Host.Cell) (a : Nat) : Byte :=
  match tabFind m a with
  | some v => v
  | none => unlistedByte us a

theorem memByte_eq (s : State) (a : Nat) : s.memByte a = byteOf s.undef s.mem a := rfl

/-- One byte written. -/
theorem byteOf_write1 (us : List Undef) (m : List Host.Cell) (a x : Nat) (b : Byte) (hr : Rising m) :
    byteOf us (if (undefFind us a).isSome then sparsePut m a b else sparseSet memDefault m a b) x =
      if x = a then b else byteOf us m x := by
  simp only [byteOf]
  by_cases hu : (undefFind us a).isSome = true
  · rw [if_pos hu, tabFind_sparsePut m a x b hr]
    by_cases hx : x = a <;> simp [hx]
  · rw [if_neg hu]
    by_cases hx : x = a
    · subst hx
      rw [tabFind_sparseSet_same m memDefault x b hr]
      have hn : undefFind us x = none := by simpa using hu
      by_cases hb : b = memDefault <;> simp [hb, unlistedByte, hn]
    · rw [tabFind_sparseSet_other m memDefault a x b hx]
      simp [hx]

/-- A read of any byte after a write: the byte written where it lies in the range, what it was elsewhere. -/
theorem byteOf_write (us : List Undef) (m : List Host.Cell) (a x : Nat) (bs : List Byte) (h : memWf us m = true) :
    byteOf us (memWrite us m a bs) x = if a ≤ x ∧ x < a + bs.length then bs.getD (x - a) 0 else byteOf us m x := by
  induction bs generalizing m a with
  | nil =>
    have : ¬(a ≤ x ∧ x < a + 0) := by omega
    simp only [memWrite, List.length_nil, this, if_false]
  | cons b t ih =>
    have hr := ((memWf_iff us m).mp h).1
    have hw := memWrite_wf us m a [b] h
    simp only [memWrite] at hw ⊢
    rw [ih _ _ hw, byteOf_write1 us m a x b hr]
    by_cases h1 : a + 1 ≤ x ∧ x < a + 1 + t.length
    · have h2 : a ≤ x ∧ x < a + (b :: t).length := by simp; omega
      have h3 : x - a = (x - (a + 1)) + 1 := by omega
      rw [if_pos h1, if_pos h2, h3]
      rfl
    · rw [if_neg h1]
      by_cases h4 : x = a
      · subst h4
        simp
      · have h5 : ¬(a ≤ x ∧ x < a + (b :: t).length) := by simp; omega
        rw [if_neg h4, if_neg h5]

end Sys2Proof.Machine
end

