-- ==== Sys2Proof/Laws/State.lean ====
section
/-!
SUPPORT. What each primitive update of the state leaves in every field it does not write.
-/

namespace Sys2Proof.Machine.State

variable (s : State)

@[simp] theorem setReg_pending (off : Nat) (w : Word) : (s.setReg off w).pending = s.pending := rfl
@[simp] theorem setReg_freeCtr (off : Nat) (w : Word) : (s.setReg off w).freeCtr = s.freeCtr := rfl
@[simp] theorem setReg_mem (off : Nat) (w : Word) : (s.setReg off w).mem = s.mem := rfl
@[simp] theorem setReg_undef (off : Nat) (w : Word) : (s.setReg off w).undef = s.undef := rfl
@[simp] theorem setReg_poison (off : Nat) (w : Word) : (s.setReg off w).poison = s.poison := rfl
@[simp] theorem setReg_host (off : Nat) (w : Word) : (s.setReg off w).host = s.host := rfl
@[simp] theorem setReg_flash (off : Nat) (w : Word) : (s.setReg off w).flash = s.flash := rfl
@[simp] theorem setReg_fuses (off : Nat) (w : Word) : (s.setReg off w).fuses = s.fuses := rfl
@[simp] theorem setReg_fabric (off : Nat) (w : Word) : (s.setReg off w).fabric = s.fabric := rfl
@[simp] theorem setReg_tb (off : Nat) (w : Word) : (s.setReg off w).tb = s.tb := rfl
@[simp] theorem setReg_winLoStaged (off : Nat) (w : Word) : (s.setReg off w).winLoStaged = s.winLoStaged := rfl
@[simp] theorem setReg_rqStaged (off : Nat) (w : Word) : (s.setReg off w).rqStaged = s.rqStaged := rfl
@[simp] theorem setReg_parts (off : Nat) (w : Word) : (s.setReg off w).parts = s.parts := rfl
@[simp] theorem setReg_swap (off : Nat) (w : Word) : (s.setReg off w).swap = s.swap := rfl
@[simp] theorem setReg_credits (off : Nat) (w : Word) : (s.setReg off w).credits = s.credits := rfl
@[simp] theorem setReg_rmos (off : Nat) (w : Word) : (s.setReg off w).rmos = s.rmos := rfl
@[simp] theorem setReg_localBufs (off : Nat) (w : Word) : (s.setReg off w).localBufs = s.localBufs := rfl
@[simp] theorem setReg_failedTests (off : Nat) (w : Word) : (s.setReg off w).failedTests = s.failedTests := rfl
@[simp] theorem setReg_nextId (off : Nat) (w : Word) : (s.setReg off w).nextId = s.nextId := rfl
@[simp] theorem setReg_cmds (off : Nat) (w : Word) : (s.setReg off w).cmds = s.cmds := rfl
@[simp] theorem setReg_rings (off : Nat) (w : Word) : (s.setReg off w).rings = s.rings := rfl
@[simp] theorem setReg_dsNext (off : Nat) (w : Word) : (s.setReg off w).dsNext = s.dsNext := rfl
@[simp] theorem setReg_bufs (off : Nat) (w : Word) : (s.setReg off w).bufs = s.bufs := rfl
@[simp] theorem setReg_poolInit (off : Nat) (w : Word) : (s.setReg off w).poolInit = s.poolInit := rfl
@[simp] theorem setReg_pcie (off : Nat) (w : Word) : (s.setReg off w).pcie = s.pcie := rfl
@[simp] theorem setReg_soot (off : Nat) (w : Word) : (s.setReg off w).soot = s.soot := rfl
@[simp] theorem setReg_ozmel (off : Nat) (w : Word) : (s.setReg off w).ozmel = s.ozmel := rfl
@[simp] theorem setReg_options (off : Nat) (w : Word) : (s.setReg off w).options = s.options := rfl
@[simp] theorem setReg_outs (off : Nat) (w : Word) : (s.setReg off w).outs = s.outs := rfl
@[simp] theorem setReg_banks (off : Nat) (w : Word) : (s.setReg off w).banks = s.banks := rfl
@[simp] theorem setReg_ingots (off : Nat) (w : Word) : (s.setReg off w).ingots = s.ingots := rfl
@[simp] theorem setReg_dram (off : Nat) (w : Word) : (s.setReg off w).dram = s.dram := rfl
@[simp] theorem setReg_lanterns (off : Nat) (w : Word) : (s.setReg off w).lanterns = s.lanterns := rfl
@[simp] theorem setReg_counters (off : Nat) (w : Word) : (s.setReg off w).counters = s.counters := rfl
@[simp] theorem setReg_arbs (off : Nat) (w : Word) : (s.setReg off w).arbs = s.arbs := rfl
@[simp] theorem setReg_entries (off : Nat) (w : Word) : (s.setReg off w).entries = s.entries := rfl
@[simp] theorem setReg_decs (off : Nat) (w : Word) : (s.setReg off w).decs = s.decs := rfl
@[simp] theorem setReg_smelters (off : Nat) (w : Word) : (s.setReg off w).smelters = s.smelters := rfl
@[simp] theorem setReg_streams (off : Nat) (w : Word) : (s.setReg off w).streams = s.streams := rfl
@[simp] theorem setReg_quads (off : Nat) (w : Word) : (s.setReg off w).quads = s.quads := rfl
@[simp] theorem setReg_snaps (off : Nat) (w : Word) : (s.setReg off w).snaps = s.snaps := rfl
@[simp] theorem setReg_excq (off : Nat) (w : Word) : (s.setReg off w).excq = s.excq := rfl
@[simp] theorem setReg_nextWait (off : Nat) (w : Word) : (s.setReg off w).nextWait = s.nextWait := rfl
@[simp] theorem setReg_periph (off : Nat) (w : Word) : (s.setReg off w).periph = s.periph := rfl

@[simp] theorem setFld_pending (off hi lo v : Nat) : (s.setFld off hi lo v).pending = s.pending := rfl
@[simp] theorem setFld_freeCtr (off hi lo v : Nat) : (s.setFld off hi lo v).freeCtr = s.freeCtr := rfl
@[simp] theorem setFld_mem (off hi lo v : Nat) : (s.setFld off hi lo v).mem = s.mem := rfl
@[simp] theorem setFld_undef (off hi lo v : Nat) : (s.setFld off hi lo v).undef = s.undef := rfl
@[simp] theorem setFld_poison (off hi lo v : Nat) : (s.setFld off hi lo v).poison = s.poison := rfl
@[simp] theorem setFld_host (off hi lo v : Nat) : (s.setFld off hi lo v).host = s.host := rfl
@[simp] theorem setFld_flash (off hi lo v : Nat) : (s.setFld off hi lo v).flash = s.flash := rfl
@[simp] theorem setFld_fuses (off hi lo v : Nat) : (s.setFld off hi lo v).fuses = s.fuses := rfl
@[simp] theorem setFld_fabric (off hi lo v : Nat) : (s.setFld off hi lo v).fabric = s.fabric := rfl
@[simp] theorem setFld_tb (off hi lo v : Nat) : (s.setFld off hi lo v).tb = s.tb := rfl
@[simp] theorem setFld_winLoStaged (off hi lo v : Nat) : (s.setFld off hi lo v).winLoStaged = s.winLoStaged := rfl
@[simp] theorem setFld_rqStaged (off hi lo v : Nat) : (s.setFld off hi lo v).rqStaged = s.rqStaged := rfl
@[simp] theorem setFld_parts (off hi lo v : Nat) : (s.setFld off hi lo v).parts = s.parts := rfl
@[simp] theorem setFld_swap (off hi lo v : Nat) : (s.setFld off hi lo v).swap = s.swap := rfl
@[simp] theorem setFld_credits (off hi lo v : Nat) : (s.setFld off hi lo v).credits = s.credits := rfl
@[simp] theorem setFld_rmos (off hi lo v : Nat) : (s.setFld off hi lo v).rmos = s.rmos := rfl
@[simp] theorem setFld_localBufs (off hi lo v : Nat) : (s.setFld off hi lo v).localBufs = s.localBufs := rfl
@[simp] theorem setFld_failedTests (off hi lo v : Nat) : (s.setFld off hi lo v).failedTests = s.failedTests := rfl
@[simp] theorem setFld_nextId (off hi lo v : Nat) : (s.setFld off hi lo v).nextId = s.nextId := rfl
@[simp] theorem setFld_cmds (off hi lo v : Nat) : (s.setFld off hi lo v).cmds = s.cmds := rfl
@[simp] theorem setFld_rings (off hi lo v : Nat) : (s.setFld off hi lo v).rings = s.rings := rfl
@[simp] theorem setFld_dsNext (off hi lo v : Nat) : (s.setFld off hi lo v).dsNext = s.dsNext := rfl
@[simp] theorem setFld_bufs (off hi lo v : Nat) : (s.setFld off hi lo v).bufs = s.bufs := rfl
@[simp] theorem setFld_poolInit (off hi lo v : Nat) : (s.setFld off hi lo v).poolInit = s.poolInit := rfl
@[simp] theorem setFld_pcie (off hi lo v : Nat) : (s.setFld off hi lo v).pcie = s.pcie := rfl
@[simp] theorem setFld_soot (off hi lo v : Nat) : (s.setFld off hi lo v).soot = s.soot := rfl
@[simp] theorem setFld_ozmel (off hi lo v : Nat) : (s.setFld off hi lo v).ozmel = s.ozmel := rfl
@[simp] theorem setFld_options (off hi lo v : Nat) : (s.setFld off hi lo v).options = s.options := rfl
@[simp] theorem setFld_outs (off hi lo v : Nat) : (s.setFld off hi lo v).outs = s.outs := rfl
@[simp] theorem setFld_banks (off hi lo v : Nat) : (s.setFld off hi lo v).banks = s.banks := rfl
@[simp] theorem setFld_ingots (off hi lo v : Nat) : (s.setFld off hi lo v).ingots = s.ingots := rfl
@[simp] theorem setFld_dram (off hi lo v : Nat) : (s.setFld off hi lo v).dram = s.dram := rfl
@[simp] theorem setFld_lanterns (off hi lo v : Nat) : (s.setFld off hi lo v).lanterns = s.lanterns := rfl
@[simp] theorem setFld_counters (off hi lo v : Nat) : (s.setFld off hi lo v).counters = s.counters := rfl
@[simp] theorem setFld_arbs (off hi lo v : Nat) : (s.setFld off hi lo v).arbs = s.arbs := rfl
@[simp] theorem setFld_entries (off hi lo v : Nat) : (s.setFld off hi lo v).entries = s.entries := rfl
@[simp] theorem setFld_decs (off hi lo v : Nat) : (s.setFld off hi lo v).decs = s.decs := rfl
@[simp] theorem setFld_smelters (off hi lo v : Nat) : (s.setFld off hi lo v).smelters = s.smelters := rfl
@[simp] theorem setFld_streams (off hi lo v : Nat) : (s.setFld off hi lo v).streams = s.streams := rfl
@[simp] theorem setFld_quads (off hi lo v : Nat) : (s.setFld off hi lo v).quads = s.quads := rfl
@[simp] theorem setFld_snaps (off hi lo v : Nat) : (s.setFld off hi lo v).snaps = s.snaps := rfl
@[simp] theorem setFld_excq (off hi lo v : Nat) : (s.setFld off hi lo v).excq = s.excq := rfl
@[simp] theorem setFld_nextWait (off hi lo v : Nat) : (s.setFld off hi lo v).nextWait = s.nextWait := rfl
@[simp] theorem setFld_periph (off hi lo v : Nat) : (s.setFld off hi lo v).periph = s.periph := rfl

@[simp] theorem setFlag_pending (off i : Nat) (b : Bool) : (s.setFlag off i b).pending = s.pending := rfl
@[simp] theorem setFlag_freeCtr (off i : Nat) (b : Bool) : (s.setFlag off i b).freeCtr = s.freeCtr := rfl
@[simp] theorem setFlag_mem (off i : Nat) (b : Bool) : (s.setFlag off i b).mem = s.mem := rfl
@[simp] theorem setFlag_undef (off i : Nat) (b : Bool) : (s.setFlag off i b).undef = s.undef := rfl
@[simp] theorem setFlag_poison (off i : Nat) (b : Bool) : (s.setFlag off i b).poison = s.poison := rfl
@[simp] theorem setFlag_host (off i : Nat) (b : Bool) : (s.setFlag off i b).host = s.host := rfl
@[simp] theorem setFlag_flash (off i : Nat) (b : Bool) : (s.setFlag off i b).flash = s.flash := rfl
@[simp] theorem setFlag_fuses (off i : Nat) (b : Bool) : (s.setFlag off i b).fuses = s.fuses := rfl
@[simp] theorem setFlag_fabric (off i : Nat) (b : Bool) : (s.setFlag off i b).fabric = s.fabric := rfl
@[simp] theorem setFlag_tb (off i : Nat) (b : Bool) : (s.setFlag off i b).tb = s.tb := rfl
@[simp] theorem setFlag_winLoStaged (off i : Nat) (b : Bool) : (s.setFlag off i b).winLoStaged = s.winLoStaged := rfl
@[simp] theorem setFlag_rqStaged (off i : Nat) (b : Bool) : (s.setFlag off i b).rqStaged = s.rqStaged := rfl
@[simp] theorem setFlag_parts (off i : Nat) (b : Bool) : (s.setFlag off i b).parts = s.parts := rfl
@[simp] theorem setFlag_swap (off i : Nat) (b : Bool) : (s.setFlag off i b).swap = s.swap := rfl
@[simp] theorem setFlag_credits (off i : Nat) (b : Bool) : (s.setFlag off i b).credits = s.credits := rfl
@[simp] theorem setFlag_rmos (off i : Nat) (b : Bool) : (s.setFlag off i b).rmos = s.rmos := rfl
@[simp] theorem setFlag_localBufs (off i : Nat) (b : Bool) : (s.setFlag off i b).localBufs = s.localBufs := rfl
@[simp] theorem setFlag_failedTests (off i : Nat) (b : Bool) : (s.setFlag off i b).failedTests = s.failedTests := rfl
@[simp] theorem setFlag_nextId (off i : Nat) (b : Bool) : (s.setFlag off i b).nextId = s.nextId := rfl
@[simp] theorem setFlag_cmds (off i : Nat) (b : Bool) : (s.setFlag off i b).cmds = s.cmds := rfl
@[simp] theorem setFlag_rings (off i : Nat) (b : Bool) : (s.setFlag off i b).rings = s.rings := rfl
@[simp] theorem setFlag_dsNext (off i : Nat) (b : Bool) : (s.setFlag off i b).dsNext = s.dsNext := rfl
@[simp] theorem setFlag_bufs (off i : Nat) (b : Bool) : (s.setFlag off i b).bufs = s.bufs := rfl
@[simp] theorem setFlag_poolInit (off i : Nat) (b : Bool) : (s.setFlag off i b).poolInit = s.poolInit := rfl
@[simp] theorem setFlag_pcie (off i : Nat) (b : Bool) : (s.setFlag off i b).pcie = s.pcie := rfl
@[simp] theorem setFlag_soot (off i : Nat) (b : Bool) : (s.setFlag off i b).soot = s.soot := rfl
@[simp] theorem setFlag_ozmel (off i : Nat) (b : Bool) : (s.setFlag off i b).ozmel = s.ozmel := rfl
@[simp] theorem setFlag_options (off i : Nat) (b : Bool) : (s.setFlag off i b).options = s.options := rfl
@[simp] theorem setFlag_outs (off i : Nat) (b : Bool) : (s.setFlag off i b).outs = s.outs := rfl
@[simp] theorem setFlag_banks (off i : Nat) (b : Bool) : (s.setFlag off i b).banks = s.banks := rfl
@[simp] theorem setFlag_ingots (off i : Nat) (b : Bool) : (s.setFlag off i b).ingots = s.ingots := rfl
@[simp] theorem setFlag_dram (off i : Nat) (b : Bool) : (s.setFlag off i b).dram = s.dram := rfl
@[simp] theorem setFlag_lanterns (off i : Nat) (b : Bool) : (s.setFlag off i b).lanterns = s.lanterns := rfl
@[simp] theorem setFlag_counters (off i : Nat) (b : Bool) : (s.setFlag off i b).counters = s.counters := rfl
@[simp] theorem setFlag_arbs (off i : Nat) (b : Bool) : (s.setFlag off i b).arbs = s.arbs := rfl
@[simp] theorem setFlag_entries (off i : Nat) (b : Bool) : (s.setFlag off i b).entries = s.entries := rfl
@[simp] theorem setFlag_decs (off i : Nat) (b : Bool) : (s.setFlag off i b).decs = s.decs := rfl
@[simp] theorem setFlag_smelters (off i : Nat) (b : Bool) : (s.setFlag off i b).smelters = s.smelters := rfl
@[simp] theorem setFlag_streams (off i : Nat) (b : Bool) : (s.setFlag off i b).streams = s.streams := rfl
@[simp] theorem setFlag_quads (off i : Nat) (b : Bool) : (s.setFlag off i b).quads = s.quads := rfl
@[simp] theorem setFlag_snaps (off i : Nat) (b : Bool) : (s.setFlag off i b).snaps = s.snaps := rfl
@[simp] theorem setFlag_excq (off i : Nat) (b : Bool) : (s.setFlag off i b).excq = s.excq := rfl
@[simp] theorem setFlag_nextWait (off i : Nat) (b : Bool) : (s.setFlag off i b).nextWait = s.nextWait := rfl
@[simp] theorem setFlag_periph (off i : Nat) (b : Bool) : (s.setFlag off i b).periph = s.periph := rfl

@[simp] theorem bump_pending (off hi lo n : Nat) : (s.bump off hi lo n).pending = s.pending := rfl
@[simp] theorem bump_freeCtr (off hi lo n : Nat) : (s.bump off hi lo n).freeCtr = s.freeCtr := rfl
@[simp] theorem bump_mem (off hi lo n : Nat) : (s.bump off hi lo n).mem = s.mem := rfl
@[simp] theorem bump_undef (off hi lo n : Nat) : (s.bump off hi lo n).undef = s.undef := rfl
@[simp] theorem bump_poison (off hi lo n : Nat) : (s.bump off hi lo n).poison = s.poison := rfl
@[simp] theorem bump_host (off hi lo n : Nat) : (s.bump off hi lo n).host = s.host := rfl
@[simp] theorem bump_flash (off hi lo n : Nat) : (s.bump off hi lo n).flash = s.flash := rfl
@[simp] theorem bump_fuses (off hi lo n : Nat) : (s.bump off hi lo n).fuses = s.fuses := rfl
@[simp] theorem bump_fabric (off hi lo n : Nat) : (s.bump off hi lo n).fabric = s.fabric := rfl
@[simp] theorem bump_tb (off hi lo n : Nat) : (s.bump off hi lo n).tb = s.tb := rfl
@[simp] theorem bump_winLoStaged (off hi lo n : Nat) : (s.bump off hi lo n).winLoStaged = s.winLoStaged := rfl
@[simp] theorem bump_rqStaged (off hi lo n : Nat) : (s.bump off hi lo n).rqStaged = s.rqStaged := rfl
@[simp] theorem bump_parts (off hi lo n : Nat) : (s.bump off hi lo n).parts = s.parts := rfl
@[simp] theorem bump_swap (off hi lo n : Nat) : (s.bump off hi lo n).swap = s.swap := rfl
@[simp] theorem bump_credits (off hi lo n : Nat) : (s.bump off hi lo n).credits = s.credits := rfl
@[simp] theorem bump_rmos (off hi lo n : Nat) : (s.bump off hi lo n).rmos = s.rmos := rfl
@[simp] theorem bump_localBufs (off hi lo n : Nat) : (s.bump off hi lo n).localBufs = s.localBufs := rfl
@[simp] theorem bump_failedTests (off hi lo n : Nat) : (s.bump off hi lo n).failedTests = s.failedTests := rfl
@[simp] theorem bump_nextId (off hi lo n : Nat) : (s.bump off hi lo n).nextId = s.nextId := rfl
@[simp] theorem bump_cmds (off hi lo n : Nat) : (s.bump off hi lo n).cmds = s.cmds := rfl
@[simp] theorem bump_rings (off hi lo n : Nat) : (s.bump off hi lo n).rings = s.rings := rfl
@[simp] theorem bump_dsNext (off hi lo n : Nat) : (s.bump off hi lo n).dsNext = s.dsNext := rfl
@[simp] theorem bump_bufs (off hi lo n : Nat) : (s.bump off hi lo n).bufs = s.bufs := rfl
@[simp] theorem bump_poolInit (off hi lo n : Nat) : (s.bump off hi lo n).poolInit = s.poolInit := rfl
@[simp] theorem bump_pcie (off hi lo n : Nat) : (s.bump off hi lo n).pcie = s.pcie := rfl
@[simp] theorem bump_soot (off hi lo n : Nat) : (s.bump off hi lo n).soot = s.soot := rfl
@[simp] theorem bump_ozmel (off hi lo n : Nat) : (s.bump off hi lo n).ozmel = s.ozmel := rfl
@[simp] theorem bump_options (off hi lo n : Nat) : (s.bump off hi lo n).options = s.options := rfl
@[simp] theorem bump_outs (off hi lo n : Nat) : (s.bump off hi lo n).outs = s.outs := rfl
@[simp] theorem bump_banks (off hi lo n : Nat) : (s.bump off hi lo n).banks = s.banks := rfl
@[simp] theorem bump_ingots (off hi lo n : Nat) : (s.bump off hi lo n).ingots = s.ingots := rfl
@[simp] theorem bump_dram (off hi lo n : Nat) : (s.bump off hi lo n).dram = s.dram := rfl
@[simp] theorem bump_lanterns (off hi lo n : Nat) : (s.bump off hi lo n).lanterns = s.lanterns := rfl
@[simp] theorem bump_counters (off hi lo n : Nat) : (s.bump off hi lo n).counters = s.counters := rfl
@[simp] theorem bump_arbs (off hi lo n : Nat) : (s.bump off hi lo n).arbs = s.arbs := rfl
@[simp] theorem bump_entries (off hi lo n : Nat) : (s.bump off hi lo n).entries = s.entries := rfl
@[simp] theorem bump_decs (off hi lo n : Nat) : (s.bump off hi lo n).decs = s.decs := rfl
@[simp] theorem bump_smelters (off hi lo n : Nat) : (s.bump off hi lo n).smelters = s.smelters := rfl
@[simp] theorem bump_streams (off hi lo n : Nat) : (s.bump off hi lo n).streams = s.streams := rfl
@[simp] theorem bump_quads (off hi lo n : Nat) : (s.bump off hi lo n).quads = s.quads := rfl
@[simp] theorem bump_snaps (off hi lo n : Nat) : (s.bump off hi lo n).snaps = s.snaps := rfl
@[simp] theorem bump_excq (off hi lo n : Nat) : (s.bump off hi lo n).excq = s.excq := rfl
@[simp] theorem bump_nextWait (off hi lo n : Nat) : (s.bump off hi lo n).nextWait = s.nextWait := rfl
@[simp] theorem bump_periph (off hi lo n : Nat) : (s.bump off hi lo n).periph = s.periph := rfl

@[simp] theorem setDom_pending (d v : Nat) : (s.setDom d v).pending = s.pending := rfl
@[simp] theorem setDom_freeCtr (d v : Nat) : (s.setDom d v).freeCtr = s.freeCtr := rfl
@[simp] theorem setDom_mem (d v : Nat) : (s.setDom d v).mem = s.mem := rfl
@[simp] theorem setDom_undef (d v : Nat) : (s.setDom d v).undef = s.undef := rfl
@[simp] theorem setDom_poison (d v : Nat) : (s.setDom d v).poison = s.poison := rfl
@[simp] theorem setDom_host (d v : Nat) : (s.setDom d v).host = s.host := rfl
@[simp] theorem setDom_flash (d v : Nat) : (s.setDom d v).flash = s.flash := rfl
@[simp] theorem setDom_fuses (d v : Nat) : (s.setDom d v).fuses = s.fuses := rfl
@[simp] theorem setDom_fabric (d v : Nat) : (s.setDom d v).fabric = s.fabric := rfl
@[simp] theorem setDom_tb (d v : Nat) : (s.setDom d v).tb = s.tb := rfl
@[simp] theorem setDom_winLoStaged (d v : Nat) : (s.setDom d v).winLoStaged = s.winLoStaged := rfl
@[simp] theorem setDom_rqStaged (d v : Nat) : (s.setDom d v).rqStaged = s.rqStaged := rfl
@[simp] theorem setDom_parts (d v : Nat) : (s.setDom d v).parts = s.parts := rfl
@[simp] theorem setDom_swap (d v : Nat) : (s.setDom d v).swap = s.swap := rfl
@[simp] theorem setDom_credits (d v : Nat) : (s.setDom d v).credits = s.credits := rfl
@[simp] theorem setDom_rmos (d v : Nat) : (s.setDom d v).rmos = s.rmos := rfl
@[simp] theorem setDom_localBufs (d v : Nat) : (s.setDom d v).localBufs = s.localBufs := rfl
@[simp] theorem setDom_failedTests (d v : Nat) : (s.setDom d v).failedTests = s.failedTests := rfl
@[simp] theorem setDom_nextId (d v : Nat) : (s.setDom d v).nextId = s.nextId := rfl
@[simp] theorem setDom_cmds (d v : Nat) : (s.setDom d v).cmds = s.cmds := rfl
@[simp] theorem setDom_rings (d v : Nat) : (s.setDom d v).rings = s.rings := rfl
@[simp] theorem setDom_dsNext (d v : Nat) : (s.setDom d v).dsNext = s.dsNext := rfl
@[simp] theorem setDom_bufs (d v : Nat) : (s.setDom d v).bufs = s.bufs := rfl
@[simp] theorem setDom_poolInit (d v : Nat) : (s.setDom d v).poolInit = s.poolInit := rfl
@[simp] theorem setDom_pcie (d v : Nat) : (s.setDom d v).pcie = s.pcie := rfl
@[simp] theorem setDom_soot (d v : Nat) : (s.setDom d v).soot = s.soot := rfl
@[simp] theorem setDom_ozmel (d v : Nat) : (s.setDom d v).ozmel = s.ozmel := rfl
@[simp] theorem setDom_options (d v : Nat) : (s.setDom d v).options = s.options := rfl
@[simp] theorem setDom_outs (d v : Nat) : (s.setDom d v).outs = s.outs := rfl
@[simp] theorem setDom_banks (d v : Nat) : (s.setDom d v).banks = s.banks := rfl
@[simp] theorem setDom_ingots (d v : Nat) : (s.setDom d v).ingots = s.ingots := rfl
@[simp] theorem setDom_dram (d v : Nat) : (s.setDom d v).dram = s.dram := rfl
@[simp] theorem setDom_lanterns (d v : Nat) : (s.setDom d v).lanterns = s.lanterns := rfl
@[simp] theorem setDom_counters (d v : Nat) : (s.setDom d v).counters = s.counters := rfl
@[simp] theorem setDom_arbs (d v : Nat) : (s.setDom d v).arbs = s.arbs := rfl
@[simp] theorem setDom_entries (d v : Nat) : (s.setDom d v).entries = s.entries := rfl
@[simp] theorem setDom_decs (d v : Nat) : (s.setDom d v).decs = s.decs := rfl
@[simp] theorem setDom_smelters (d v : Nat) : (s.setDom d v).smelters = s.smelters := rfl
@[simp] theorem setDom_streams (d v : Nat) : (s.setDom d v).streams = s.streams := rfl
@[simp] theorem setDom_quads (d v : Nat) : (s.setDom d v).quads = s.quads := rfl
@[simp] theorem setDom_snaps (d v : Nat) : (s.setDom d v).snaps = s.snaps := rfl
@[simp] theorem setDom_excq (d v : Nat) : (s.setDom d v).excq = s.excq := rfl
@[simp] theorem setDom_nextWait (d v : Nat) : (s.setDom d v).nextWait = s.nextWait := rfl
@[simp] theorem setDom_periph (d v : Nat) : (s.setDom d v).periph = s.periph := rfl

@[simp] theorem bumpEpoch_pending (d : Nat) : (s.bumpEpoch d).pending = s.pending := rfl
@[simp] theorem bumpEpoch_freeCtr (d : Nat) : (s.bumpEpoch d).freeCtr = s.freeCtr := rfl
@[simp] theorem bumpEpoch_mem (d : Nat) : (s.bumpEpoch d).mem = s.mem := rfl
@[simp] theorem bumpEpoch_undef (d : Nat) : (s.bumpEpoch d).undef = s.undef := rfl
@[simp] theorem bumpEpoch_poison (d : Nat) : (s.bumpEpoch d).poison = s.poison := rfl
@[simp] theorem bumpEpoch_host (d : Nat) : (s.bumpEpoch d).host = s.host := rfl
@[simp] theorem bumpEpoch_flash (d : Nat) : (s.bumpEpoch d).flash = s.flash := rfl
@[simp] theorem bumpEpoch_fuses (d : Nat) : (s.bumpEpoch d).fuses = s.fuses := rfl
@[simp] theorem bumpEpoch_fabric (d : Nat) : (s.bumpEpoch d).fabric = s.fabric := rfl
@[simp] theorem bumpEpoch_tb (d : Nat) : (s.bumpEpoch d).tb = s.tb := rfl
@[simp] theorem bumpEpoch_winLoStaged (d : Nat) : (s.bumpEpoch d).winLoStaged = s.winLoStaged := rfl
@[simp] theorem bumpEpoch_rqStaged (d : Nat) : (s.bumpEpoch d).rqStaged = s.rqStaged := rfl
@[simp] theorem bumpEpoch_parts (d : Nat) : (s.bumpEpoch d).parts = s.parts := rfl
@[simp] theorem bumpEpoch_swap (d : Nat) : (s.bumpEpoch d).swap = s.swap := rfl
@[simp] theorem bumpEpoch_credits (d : Nat) : (s.bumpEpoch d).credits = s.credits := rfl
@[simp] theorem bumpEpoch_rmos (d : Nat) : (s.bumpEpoch d).rmos = s.rmos := rfl
@[simp] theorem bumpEpoch_localBufs (d : Nat) : (s.bumpEpoch d).localBufs = s.localBufs := rfl
@[simp] theorem bumpEpoch_failedTests (d : Nat) : (s.bumpEpoch d).failedTests = s.failedTests := rfl
@[simp] theorem bumpEpoch_nextId (d : Nat) : (s.bumpEpoch d).nextId = s.nextId := rfl
@[simp] theorem bumpEpoch_cmds (d : Nat) : (s.bumpEpoch d).cmds = s.cmds := rfl
@[simp] theorem bumpEpoch_rings (d : Nat) : (s.bumpEpoch d).rings = s.rings := rfl
@[simp] theorem bumpEpoch_dsNext (d : Nat) : (s.bumpEpoch d).dsNext = s.dsNext := rfl
@[simp] theorem bumpEpoch_bufs (d : Nat) : (s.bumpEpoch d).bufs = s.bufs := rfl
@[simp] theorem bumpEpoch_poolInit (d : Nat) : (s.bumpEpoch d).poolInit = s.poolInit := rfl
@[simp] theorem bumpEpoch_pcie (d : Nat) : (s.bumpEpoch d).pcie = s.pcie := rfl
@[simp] theorem bumpEpoch_soot (d : Nat) : (s.bumpEpoch d).soot = s.soot := rfl
@[simp] theorem bumpEpoch_ozmel (d : Nat) : (s.bumpEpoch d).ozmel = s.ozmel := rfl
@[simp] theorem bumpEpoch_options (d : Nat) : (s.bumpEpoch d).options = s.options := rfl
@[simp] theorem bumpEpoch_outs (d : Nat) : (s.bumpEpoch d).outs = s.outs := rfl
@[simp] theorem bumpEpoch_banks (d : Nat) : (s.bumpEpoch d).banks = s.banks := rfl
@[simp] theorem bumpEpoch_ingots (d : Nat) : (s.bumpEpoch d).ingots = s.ingots := rfl
@[simp] theorem bumpEpoch_dram (d : Nat) : (s.bumpEpoch d).dram = s.dram := rfl
@[simp] theorem bumpEpoch_lanterns (d : Nat) : (s.bumpEpoch d).lanterns = s.lanterns := rfl
@[simp] theorem bumpEpoch_counters (d : Nat) : (s.bumpEpoch d).counters = s.counters := rfl
@[simp] theorem bumpEpoch_arbs (d : Nat) : (s.bumpEpoch d).arbs = s.arbs := rfl
@[simp] theorem bumpEpoch_entries (d : Nat) : (s.bumpEpoch d).entries = s.entries := rfl
@[simp] theorem bumpEpoch_decs (d : Nat) : (s.bumpEpoch d).decs = s.decs := rfl
@[simp] theorem bumpEpoch_smelters (d : Nat) : (s.bumpEpoch d).smelters = s.smelters := rfl
@[simp] theorem bumpEpoch_streams (d : Nat) : (s.bumpEpoch d).streams = s.streams := rfl
@[simp] theorem bumpEpoch_quads (d : Nat) : (s.bumpEpoch d).quads = s.quads := rfl
@[simp] theorem bumpEpoch_snaps (d : Nat) : (s.bumpEpoch d).snaps = s.snaps := rfl
@[simp] theorem bumpEpoch_excq (d : Nat) : (s.bumpEpoch d).excq = s.excq := rfl
@[simp] theorem bumpEpoch_nextWait (d : Nat) : (s.bumpEpoch d).nextWait = s.nextWait := rfl
@[simp] theorem bumpEpoch_periph (d : Nat) : (s.bumpEpoch d).periph = s.periph := rfl

@[simp] theorem drawFree_pending : (s.drawFree.2).pending = s.pending := rfl
@[simp] theorem drawFree_regs : (s.drawFree.2).regs = s.regs := rfl
@[simp] theorem drawFree_mem : (s.drawFree.2).mem = s.mem := rfl
@[simp] theorem drawFree_undef : (s.drawFree.2).undef = s.undef := rfl
@[simp] theorem drawFree_poison : (s.drawFree.2).poison = s.poison := rfl
@[simp] theorem drawFree_host : (s.drawFree.2).host = s.host := rfl
@[simp] theorem drawFree_flash : (s.drawFree.2).flash = s.flash := rfl
@[simp] theorem drawFree_fuses : (s.drawFree.2).fuses = s.fuses := rfl
@[simp] theorem drawFree_fabric : (s.drawFree.2).fabric = s.fabric := rfl
@[simp] theorem drawFree_tb : (s.drawFree.2).tb = s.tb := rfl
@[simp] theorem drawFree_winLoStaged : (s.drawFree.2).winLoStaged = s.winLoStaged := rfl
@[simp] theorem drawFree_rqStaged : (s.drawFree.2).rqStaged = s.rqStaged := rfl
@[simp] theorem drawFree_parts : (s.drawFree.2).parts = s.parts := rfl
@[simp] theorem drawFree_swap : (s.drawFree.2).swap = s.swap := rfl
@[simp] theorem drawFree_credits : (s.drawFree.2).credits = s.credits := rfl
@[simp] theorem drawFree_rmos : (s.drawFree.2).rmos = s.rmos := rfl
@[simp] theorem drawFree_localBufs : (s.drawFree.2).localBufs = s.localBufs := rfl
@[simp] theorem drawFree_failedTests : (s.drawFree.2).failedTests = s.failedTests := rfl
@[simp] theorem drawFree_nextId : (s.drawFree.2).nextId = s.nextId := rfl
@[simp] theorem drawFree_cmds : (s.drawFree.2).cmds = s.cmds := rfl
@[simp] theorem drawFree_rings : (s.drawFree.2).rings = s.rings := rfl
@[simp] theorem drawFree_dsNext : (s.drawFree.2).dsNext = s.dsNext := rfl
@[simp] theorem drawFree_bufs : (s.drawFree.2).bufs = s.bufs := rfl
@[simp] theorem drawFree_poolInit : (s.drawFree.2).poolInit = s.poolInit := rfl
@[simp] theorem drawFree_pcie : (s.drawFree.2).pcie = s.pcie := rfl
@[simp] theorem drawFree_soot : (s.drawFree.2).soot = s.soot := rfl
@[simp] theorem drawFree_ozmel : (s.drawFree.2).ozmel = s.ozmel := rfl
@[simp] theorem drawFree_options : (s.drawFree.2).options = s.options := rfl
@[simp] theorem drawFree_outs : (s.drawFree.2).outs = s.outs := rfl
@[simp] theorem drawFree_banks : (s.drawFree.2).banks = s.banks := rfl
@[simp] theorem drawFree_ingots : (s.drawFree.2).ingots = s.ingots := rfl
@[simp] theorem drawFree_dram : (s.drawFree.2).dram = s.dram := rfl
@[simp] theorem drawFree_lanterns : (s.drawFree.2).lanterns = s.lanterns := rfl
@[simp] theorem drawFree_counters : (s.drawFree.2).counters = s.counters := rfl
@[simp] theorem drawFree_arbs : (s.drawFree.2).arbs = s.arbs := rfl
@[simp] theorem drawFree_entries : (s.drawFree.2).entries = s.entries := rfl
@[simp] theorem drawFree_decs : (s.drawFree.2).decs = s.decs := rfl
@[simp] theorem drawFree_smelters : (s.drawFree.2).smelters = s.smelters := rfl
@[simp] theorem drawFree_streams : (s.drawFree.2).streams = s.streams := rfl
@[simp] theorem drawFree_quads : (s.drawFree.2).quads = s.quads := rfl
@[simp] theorem drawFree_snaps : (s.drawFree.2).snaps = s.snaps := rfl
@[simp] theorem drawFree_excq : (s.drawFree.2).excq = s.excq := rfl
@[simp] theorem drawFree_nextWait : (s.drawFree.2).nextWait = s.nextWait := rfl
@[simp] theorem drawFree_periph : (s.drawFree.2).periph = s.periph := rfl

@[simp] theorem fresh_pending : (s.fresh.2).pending = s.pending := rfl
@[simp] theorem fresh_freeCtr : (s.fresh.2).freeCtr = s.freeCtr := rfl
@[simp] theorem fresh_regs : (s.fresh.2).regs = s.regs := rfl
@[simp] theorem fresh_mem : (s.fresh.2).mem = s.mem := rfl
@[simp] theorem fresh_undef : (s.fresh.2).undef = s.undef := rfl
@[simp] theorem fresh_poison : (s.fresh.2).poison = s.poison := rfl
@[simp] theorem fresh_host : (s.fresh.2).host = s.host := rfl
@[simp] theorem fresh_flash : (s.fresh.2).flash = s.flash := rfl
@[simp] theorem fresh_fuses : (s.fresh.2).fuses = s.fuses := rfl
@[simp] theorem fresh_fabric : (s.fresh.2).fabric = s.fabric := rfl
@[simp] theorem fresh_tb : (s.fresh.2).tb = s.tb := rfl
@[simp] theorem fresh_winLoStaged : (s.fresh.2).winLoStaged = s.winLoStaged := rfl
@[simp] theorem fresh_rqStaged : (s.fresh.2).rqStaged = s.rqStaged := rfl
@[simp] theorem fresh_parts : (s.fresh.2).parts = s.parts := rfl
@[simp] theorem fresh_swap : (s.fresh.2).swap = s.swap := rfl
@[simp] theorem fresh_credits : (s.fresh.2).credits = s.credits := rfl
@[simp] theorem fresh_rmos : (s.fresh.2).rmos = s.rmos := rfl
@[simp] theorem fresh_localBufs : (s.fresh.2).localBufs = s.localBufs := rfl
@[simp] theorem fresh_failedTests : (s.fresh.2).failedTests = s.failedTests := rfl
@[simp] theorem fresh_cmds : (s.fresh.2).cmds = s.cmds := rfl
@[simp] theorem fresh_rings : (s.fresh.2).rings = s.rings := rfl
@[simp] theorem fresh_dsNext : (s.fresh.2).dsNext = s.dsNext := rfl
@[simp] theorem fresh_bufs : (s.fresh.2).bufs = s.bufs := rfl
@[simp] theorem fresh_poolInit : (s.fresh.2).poolInit = s.poolInit := rfl
@[simp] theorem fresh_pcie : (s.fresh.2).pcie = s.pcie := rfl
@[simp] theorem fresh_soot : (s.fresh.2).soot = s.soot := rfl
@[simp] theorem fresh_ozmel : (s.fresh.2).ozmel = s.ozmel := rfl
@[simp] theorem fresh_options : (s.fresh.2).options = s.options := rfl
@[simp] theorem fresh_outs : (s.fresh.2).outs = s.outs := rfl
@[simp] theorem fresh_banks : (s.fresh.2).banks = s.banks := rfl
@[simp] theorem fresh_ingots : (s.fresh.2).ingots = s.ingots := rfl
@[simp] theorem fresh_dram : (s.fresh.2).dram = s.dram := rfl
@[simp] theorem fresh_lanterns : (s.fresh.2).lanterns = s.lanterns := rfl
@[simp] theorem fresh_counters : (s.fresh.2).counters = s.counters := rfl
@[simp] theorem fresh_arbs : (s.fresh.2).arbs = s.arbs := rfl
@[simp] theorem fresh_entries : (s.fresh.2).entries = s.entries := rfl
@[simp] theorem fresh_decs : (s.fresh.2).decs = s.decs := rfl
@[simp] theorem fresh_smelters : (s.fresh.2).smelters = s.smelters := rfl
@[simp] theorem fresh_streams : (s.fresh.2).streams = s.streams := rfl
@[simp] theorem fresh_quads : (s.fresh.2).quads = s.quads := rfl
@[simp] theorem fresh_snaps : (s.fresh.2).snaps = s.snaps := rfl
@[simp] theorem fresh_excq : (s.fresh.2).excq = s.excq := rfl
@[simp] theorem fresh_nextWait : (s.fresh.2).nextWait = s.nextWait := rfl
@[simp] theorem fresh_periph : (s.fresh.2).periph = s.periph := rfl

@[simp] theorem setPart_pending (p : Nat) (v : Part) : (s.setPart p v).pending = s.pending := rfl
@[simp] theorem setPart_freeCtr (p : Nat) (v : Part) : (s.setPart p v).freeCtr = s.freeCtr := rfl
@[simp] theorem setPart_regs (p : Nat) (v : Part) : (s.setPart p v).regs = s.regs := rfl
@[simp] theorem setPart_mem (p : Nat) (v : Part) : (s.setPart p v).mem = s.mem := rfl
@[simp] theorem setPart_undef (p : Nat) (v : Part) : (s.setPart p v).undef = s.undef := rfl
@[simp] theorem setPart_poison (p : Nat) (v : Part) : (s.setPart p v).poison = s.poison := rfl
@[simp] theorem setPart_host (p : Nat) (v : Part) : (s.setPart p v).host = s.host := rfl
@[simp] theorem setPart_flash (p : Nat) (v : Part) : (s.setPart p v).flash = s.flash := rfl
@[simp] theorem setPart_fuses (p : Nat) (v : Part) : (s.setPart p v).fuses = s.fuses := rfl
@[simp] theorem setPart_fabric (p : Nat) (v : Part) : (s.setPart p v).fabric = s.fabric := rfl
@[simp] theorem setPart_tb (p : Nat) (v : Part) : (s.setPart p v).tb = s.tb := rfl
@[simp] theorem setPart_winLoStaged (p : Nat) (v : Part) : (s.setPart p v).winLoStaged = s.winLoStaged := rfl
@[simp] theorem setPart_rqStaged (p : Nat) (v : Part) : (s.setPart p v).rqStaged = s.rqStaged := rfl
@[simp] theorem setPart_swap (p : Nat) (v : Part) : (s.setPart p v).swap = s.swap := rfl
@[simp] theorem setPart_credits (p : Nat) (v : Part) : (s.setPart p v).credits = s.credits := rfl
@[simp] theorem setPart_rmos (p : Nat) (v : Part) : (s.setPart p v).rmos = s.rmos := rfl
@[simp] theorem setPart_localBufs (p : Nat) (v : Part) : (s.setPart p v).localBufs = s.localBufs := rfl
@[simp] theorem setPart_failedTests (p : Nat) (v : Part) : (s.setPart p v).failedTests = s.failedTests := rfl
@[simp] theorem setPart_nextId (p : Nat) (v : Part) : (s.setPart p v).nextId = s.nextId := rfl
@[simp] theorem setPart_cmds (p : Nat) (v : Part) : (s.setPart p v).cmds = s.cmds := rfl
@[simp] theorem setPart_rings (p : Nat) (v : Part) : (s.setPart p v).rings = s.rings := rfl
@[simp] theorem setPart_dsNext (p : Nat) (v : Part) : (s.setPart p v).dsNext = s.dsNext := rfl
@[simp] theorem setPart_bufs (p : Nat) (v : Part) : (s.setPart p v).bufs = s.bufs := rfl
@[simp] theorem setPart_poolInit (p : Nat) (v : Part) : (s.setPart p v).poolInit = s.poolInit := rfl
@[simp] theorem setPart_pcie (p : Nat) (v : Part) : (s.setPart p v).pcie = s.pcie := rfl
@[simp] theorem setPart_soot (p : Nat) (v : Part) : (s.setPart p v).soot = s.soot := rfl
@[simp] theorem setPart_ozmel (p : Nat) (v : Part) : (s.setPart p v).ozmel = s.ozmel := rfl
@[simp] theorem setPart_options (p : Nat) (v : Part) : (s.setPart p v).options = s.options := rfl
@[simp] theorem setPart_outs (p : Nat) (v : Part) : (s.setPart p v).outs = s.outs := rfl
@[simp] theorem setPart_banks (p : Nat) (v : Part) : (s.setPart p v).banks = s.banks := rfl
@[simp] theorem setPart_ingots (p : Nat) (v : Part) : (s.setPart p v).ingots = s.ingots := rfl
@[simp] theorem setPart_dram (p : Nat) (v : Part) : (s.setPart p v).dram = s.dram := rfl
@[simp] theorem setPart_lanterns (p : Nat) (v : Part) : (s.setPart p v).lanterns = s.lanterns := rfl
@[simp] theorem setPart_counters (p : Nat) (v : Part) : (s.setPart p v).counters = s.counters := rfl
@[simp] theorem setPart_arbs (p : Nat) (v : Part) : (s.setPart p v).arbs = s.arbs := rfl
@[simp] theorem setPart_entries (p : Nat) (v : Part) : (s.setPart p v).entries = s.entries := rfl
@[simp] theorem setPart_decs (p : Nat) (v : Part) : (s.setPart p v).decs = s.decs := rfl
@[simp] theorem setPart_smelters (p : Nat) (v : Part) : (s.setPart p v).smelters = s.smelters := rfl
@[simp] theorem setPart_streams (p : Nat) (v : Part) : (s.setPart p v).streams = s.streams := rfl
@[simp] theorem setPart_quads (p : Nat) (v : Part) : (s.setPart p v).quads = s.quads := rfl
@[simp] theorem setPart_snaps (p : Nat) (v : Part) : (s.setPart p v).snaps = s.snaps := rfl
@[simp] theorem setPart_excq (p : Nat) (v : Part) : (s.setPart p v).excq = s.excq := rfl
@[simp] theorem setPart_nextWait (p : Nat) (v : Part) : (s.setPart p v).nextWait = s.nextWait := rfl
@[simp] theorem setPart_periph (p : Nat) (v : Part) : (s.setPart p v).periph = s.periph := rfl

@[simp] theorem setRing_pending (r : Nat) (v : Ring) : (s.setRing r v).pending = s.pending := rfl
@[simp] theorem setRing_freeCtr (r : Nat) (v : Ring) : (s.setRing r v).freeCtr = s.freeCtr := rfl
@[simp] theorem setRing_regs (r : Nat) (v : Ring) : (s.setRing r v).regs = s.regs := rfl
@[simp] theorem setRing_mem (r : Nat) (v : Ring) : (s.setRing r v).mem = s.mem := rfl
@[simp] theorem setRing_undef (r : Nat) (v : Ring) : (s.setRing r v).undef = s.undef := rfl
@[simp] theorem setRing_poison (r : Nat) (v : Ring) : (s.setRing r v).poison = s.poison := rfl
@[simp] theorem setRing_host (r : Nat) (v : Ring) : (s.setRing r v).host = s.host := rfl
@[simp] theorem setRing_flash (r : Nat) (v : Ring) : (s.setRing r v).flash = s.flash := rfl
@[simp] theorem setRing_fuses (r : Nat) (v : Ring) : (s.setRing r v).fuses = s.fuses := rfl
@[simp] theorem setRing_fabric (r : Nat) (v : Ring) : (s.setRing r v).fabric = s.fabric := rfl
@[simp] theorem setRing_tb (r : Nat) (v : Ring) : (s.setRing r v).tb = s.tb := rfl
@[simp] theorem setRing_winLoStaged (r : Nat) (v : Ring) : (s.setRing r v).winLoStaged = s.winLoStaged := rfl
@[simp] theorem setRing_rqStaged (r : Nat) (v : Ring) : (s.setRing r v).rqStaged = s.rqStaged := rfl
@[simp] theorem setRing_parts (r : Nat) (v : Ring) : (s.setRing r v).parts = s.parts := rfl
@[simp] theorem setRing_swap (r : Nat) (v : Ring) : (s.setRing r v).swap = s.swap := rfl
@[simp] theorem setRing_credits (r : Nat) (v : Ring) : (s.setRing r v).credits = s.credits := rfl
@[simp] theorem setRing_rmos (r : Nat) (v : Ring) : (s.setRing r v).rmos = s.rmos := rfl
@[simp] theorem setRing_localBufs (r : Nat) (v : Ring) : (s.setRing r v).localBufs = s.localBufs := rfl
@[simp] theorem setRing_failedTests (r : Nat) (v : Ring) : (s.setRing r v).failedTests = s.failedTests := rfl
@[simp] theorem setRing_nextId (r : Nat) (v : Ring) : (s.setRing r v).nextId = s.nextId := rfl
@[simp] theorem setRing_cmds (r : Nat) (v : Ring) : (s.setRing r v).cmds = s.cmds := rfl
@[simp] theorem setRing_dsNext (r : Nat) (v : Ring) : (s.setRing r v).dsNext = s.dsNext := rfl
@[simp] theorem setRing_bufs (r : Nat) (v : Ring) : (s.setRing r v).bufs = s.bufs := rfl
@[simp] theorem setRing_poolInit (r : Nat) (v : Ring) : (s.setRing r v).poolInit = s.poolInit := rfl
@[simp] theorem setRing_pcie (r : Nat) (v : Ring) : (s.setRing r v).pcie = s.pcie := rfl
@[simp] theorem setRing_soot (r : Nat) (v : Ring) : (s.setRing r v).soot = s.soot := rfl
@[simp] theorem setRing_ozmel (r : Nat) (v : Ring) : (s.setRing r v).ozmel = s.ozmel := rfl
@[simp] theorem setRing_options (r : Nat) (v : Ring) : (s.setRing r v).options = s.options := rfl
@[simp] theorem setRing_outs (r : Nat) (v : Ring) : (s.setRing r v).outs = s.outs := rfl
@[simp] theorem setRing_banks (r : Nat) (v : Ring) : (s.setRing r v).banks = s.banks := rfl
@[simp] theorem setRing_ingots (r : Nat) (v : Ring) : (s.setRing r v).ingots = s.ingots := rfl
@[simp] theorem setRing_dram (r : Nat) (v : Ring) : (s.setRing r v).dram = s.dram := rfl
@[simp] theorem setRing_lanterns (r : Nat) (v : Ring) : (s.setRing r v).lanterns = s.lanterns := rfl
@[simp] theorem setRing_counters (r : Nat) (v : Ring) : (s.setRing r v).counters = s.counters := rfl
@[simp] theorem setRing_arbs (r : Nat) (v : Ring) : (s.setRing r v).arbs = s.arbs := rfl
@[simp] theorem setRing_entries (r : Nat) (v : Ring) : (s.setRing r v).entries = s.entries := rfl
@[simp] theorem setRing_decs (r : Nat) (v : Ring) : (s.setRing r v).decs = s.decs := rfl
@[simp] theorem setRing_smelters (r : Nat) (v : Ring) : (s.setRing r v).smelters = s.smelters := rfl
@[simp] theorem setRing_streams (r : Nat) (v : Ring) : (s.setRing r v).streams = s.streams := rfl
@[simp] theorem setRing_quads (r : Nat) (v : Ring) : (s.setRing r v).quads = s.quads := rfl
@[simp] theorem setRing_snaps (r : Nat) (v : Ring) : (s.setRing r v).snaps = s.snaps := rfl
@[simp] theorem setRing_excq (r : Nat) (v : Ring) : (s.setRing r v).excq = s.excq := rfl
@[simp] theorem setRing_nextWait (r : Nat) (v : Ring) : (s.setRing r v).nextWait = s.nextWait := rfl
@[simp] theorem setRing_periph (r : Nat) (v : Ring) : (s.setRing r v).periph = s.periph := rfl

@[simp] theorem setFunc_pending (f : Nat) (v : Func) : (s.setFunc f v).pending = s.pending := rfl
@[simp] theorem setFunc_freeCtr (f : Nat) (v : Func) : (s.setFunc f v).freeCtr = s.freeCtr := rfl
@[simp] theorem setFunc_regs (f : Nat) (v : Func) : (s.setFunc f v).regs = s.regs := rfl
@[simp] theorem setFunc_mem (f : Nat) (v : Func) : (s.setFunc f v).mem = s.mem := rfl
@[simp] theorem setFunc_undef (f : Nat) (v : Func) : (s.setFunc f v).undef = s.undef := rfl
@[simp] theorem setFunc_poison (f : Nat) (v : Func) : (s.setFunc f v).poison = s.poison := rfl
@[simp] theorem setFunc_host (f : Nat) (v : Func) : (s.setFunc f v).host = s.host := rfl
@[simp] theorem setFunc_flash (f : Nat) (v : Func) : (s.setFunc f v).flash = s.flash := rfl
@[simp] theorem setFunc_fuses (f : Nat) (v : Func) : (s.setFunc f v).fuses = s.fuses := rfl
@[simp] theorem setFunc_fabric (f : Nat) (v : Func) : (s.setFunc f v).fabric = s.fabric := rfl
@[simp] theorem setFunc_tb (f : Nat) (v : Func) : (s.setFunc f v).tb = s.tb := rfl
@[simp] theorem setFunc_winLoStaged (f : Nat) (v : Func) : (s.setFunc f v).winLoStaged = s.winLoStaged := rfl
@[simp] theorem setFunc_rqStaged (f : Nat) (v : Func) : (s.setFunc f v).rqStaged = s.rqStaged := rfl
@[simp] theorem setFunc_parts (f : Nat) (v : Func) : (s.setFunc f v).parts = s.parts := rfl
@[simp] theorem setFunc_swap (f : Nat) (v : Func) : (s.setFunc f v).swap = s.swap := rfl
@[simp] theorem setFunc_credits (f : Nat) (v : Func) : (s.setFunc f v).credits = s.credits := rfl
@[simp] theorem setFunc_rmos (f : Nat) (v : Func) : (s.setFunc f v).rmos = s.rmos := rfl
@[simp] theorem setFunc_localBufs (f : Nat) (v : Func) : (s.setFunc f v).localBufs = s.localBufs := rfl
@[simp] theorem setFunc_failedTests (f : Nat) (v : Func) : (s.setFunc f v).failedTests = s.failedTests := rfl
@[simp] theorem setFunc_nextId (f : Nat) (v : Func) : (s.setFunc f v).nextId = s.nextId := rfl
@[simp] theorem setFunc_cmds (f : Nat) (v : Func) : (s.setFunc f v).cmds = s.cmds := rfl
@[simp] theorem setFunc_rings (f : Nat) (v : Func) : (s.setFunc f v).rings = s.rings := rfl
@[simp] theorem setFunc_dsNext (f : Nat) (v : Func) : (s.setFunc f v).dsNext = s.dsNext := rfl
@[simp] theorem setFunc_bufs (f : Nat) (v : Func) : (s.setFunc f v).bufs = s.bufs := rfl
@[simp] theorem setFunc_poolInit (f : Nat) (v : Func) : (s.setFunc f v).poolInit = s.poolInit := rfl
@[simp] theorem setFunc_soot (f : Nat) (v : Func) : (s.setFunc f v).soot = s.soot := rfl
@[simp] theorem setFunc_ozmel (f : Nat) (v : Func) : (s.setFunc f v).ozmel = s.ozmel := rfl
@[simp] theorem setFunc_options (f : Nat) (v : Func) : (s.setFunc f v).options = s.options := rfl
@[simp] theorem setFunc_outs (f : Nat) (v : Func) : (s.setFunc f v).outs = s.outs := rfl
@[simp] theorem setFunc_banks (f : Nat) (v : Func) : (s.setFunc f v).banks = s.banks := rfl
@[simp] theorem setFunc_ingots (f : Nat) (v : Func) : (s.setFunc f v).ingots = s.ingots := rfl
@[simp] theorem setFunc_dram (f : Nat) (v : Func) : (s.setFunc f v).dram = s.dram := rfl
@[simp] theorem setFunc_lanterns (f : Nat) (v : Func) : (s.setFunc f v).lanterns = s.lanterns := rfl
@[simp] theorem setFunc_counters (f : Nat) (v : Func) : (s.setFunc f v).counters = s.counters := rfl
@[simp] theorem setFunc_arbs (f : Nat) (v : Func) : (s.setFunc f v).arbs = s.arbs := rfl
@[simp] theorem setFunc_entries (f : Nat) (v : Func) : (s.setFunc f v).entries = s.entries := rfl
@[simp] theorem setFunc_decs (f : Nat) (v : Func) : (s.setFunc f v).decs = s.decs := rfl
@[simp] theorem setFunc_smelters (f : Nat) (v : Func) : (s.setFunc f v).smelters = s.smelters := rfl
@[simp] theorem setFunc_streams (f : Nat) (v : Func) : (s.setFunc f v).streams = s.streams := rfl
@[simp] theorem setFunc_quads (f : Nat) (v : Func) : (s.setFunc f v).quads = s.quads := rfl
@[simp] theorem setFunc_snaps (f : Nat) (v : Func) : (s.setFunc f v).snaps = s.snaps := rfl
@[simp] theorem setFunc_excq (f : Nat) (v : Func) : (s.setFunc f v).excq = s.excq := rfl
@[simp] theorem setFunc_nextWait (f : Nat) (v : Func) : (s.setFunc f v).nextWait = s.nextWait := rfl
@[simp] theorem setFunc_periph (f : Nat) (v : Func) : (s.setFunc f v).periph = s.periph := rfl

@[simp] theorem setMailbox_pending (f : Nat) (v : Mailbox) : (s.setMailbox f v).pending = s.pending := rfl
@[simp] theorem setMailbox_freeCtr (f : Nat) (v : Mailbox) : (s.setMailbox f v).freeCtr = s.freeCtr := rfl
@[simp] theorem setMailbox_regs (f : Nat) (v : Mailbox) : (s.setMailbox f v).regs = s.regs := rfl
@[simp] theorem setMailbox_mem (f : Nat) (v : Mailbox) : (s.setMailbox f v).mem = s.mem := rfl
@[simp] theorem setMailbox_undef (f : Nat) (v : Mailbox) : (s.setMailbox f v).undef = s.undef := rfl
@[simp] theorem setMailbox_poison (f : Nat) (v : Mailbox) : (s.setMailbox f v).poison = s.poison := rfl
@[simp] theorem setMailbox_host (f : Nat) (v : Mailbox) : (s.setMailbox f v).host = s.host := rfl
@[simp] theorem setMailbox_flash (f : Nat) (v : Mailbox) : (s.setMailbox f v).flash = s.flash := rfl
@[simp] theorem setMailbox_fuses (f : Nat) (v : Mailbox) : (s.setMailbox f v).fuses = s.fuses := rfl
@[simp] theorem setMailbox_fabric (f : Nat) (v : Mailbox) : (s.setMailbox f v).fabric = s.fabric := rfl
@[simp] theorem setMailbox_tb (f : Nat) (v : Mailbox) : (s.setMailbox f v).tb = s.tb := rfl
@[simp] theorem setMailbox_winLoStaged (f : Nat) (v : Mailbox) : (s.setMailbox f v).winLoStaged = s.winLoStaged := rfl
@[simp] theorem setMailbox_rqStaged (f : Nat) (v : Mailbox) : (s.setMailbox f v).rqStaged = s.rqStaged := rfl
@[simp] theorem setMailbox_parts (f : Nat) (v : Mailbox) : (s.setMailbox f v).parts = s.parts := rfl
@[simp] theorem setMailbox_swap (f : Nat) (v : Mailbox) : (s.setMailbox f v).swap = s.swap := rfl
@[simp] theorem setMailbox_credits (f : Nat) (v : Mailbox) : (s.setMailbox f v).credits = s.credits := rfl
@[simp] theorem setMailbox_rmos (f : Nat) (v : Mailbox) : (s.setMailbox f v).rmos = s.rmos := rfl
@[simp] theorem setMailbox_localBufs (f : Nat) (v : Mailbox) : (s.setMailbox f v).localBufs = s.localBufs := rfl
@[simp] theorem setMailbox_failedTests (f : Nat) (v : Mailbox) : (s.setMailbox f v).failedTests = s.failedTests := rfl
@[simp] theorem setMailbox_nextId (f : Nat) (v : Mailbox) : (s.setMailbox f v).nextId = s.nextId := rfl
@[simp] theorem setMailbox_cmds (f : Nat) (v : Mailbox) : (s.setMailbox f v).cmds = s.cmds := rfl
@[simp] theorem setMailbox_rings (f : Nat) (v : Mailbox) : (s.setMailbox f v).rings = s.rings := rfl
@[simp] theorem setMailbox_dsNext (f : Nat) (v : Mailbox) : (s.setMailbox f v).dsNext = s.dsNext := rfl
@[simp] theorem setMailbox_bufs (f : Nat) (v : Mailbox) : (s.setMailbox f v).bufs = s.bufs := rfl
@[simp] theorem setMailbox_poolInit (f : Nat) (v : Mailbox) : (s.setMailbox f v).poolInit = s.poolInit := rfl
@[simp] theorem setMailbox_pcie (f : Nat) (v : Mailbox) : (s.setMailbox f v).pcie = s.pcie := rfl
@[simp] theorem setMailbox_soot (f : Nat) (v : Mailbox) : (s.setMailbox f v).soot = s.soot := rfl
@[simp] theorem setMailbox_options (f : Nat) (v : Mailbox) : (s.setMailbox f v).options = s.options := rfl
@[simp] theorem setMailbox_outs (f : Nat) (v : Mailbox) : (s.setMailbox f v).outs = s.outs := rfl
@[simp] theorem setMailbox_banks (f : Nat) (v : Mailbox) : (s.setMailbox f v).banks = s.banks := rfl
@[simp] theorem setMailbox_ingots (f : Nat) (v : Mailbox) : (s.setMailbox f v).ingots = s.ingots := rfl
@[simp] theorem setMailbox_dram (f : Nat) (v : Mailbox) : (s.setMailbox f v).dram = s.dram := rfl
@[simp] theorem setMailbox_lanterns (f : Nat) (v : Mailbox) : (s.setMailbox f v).lanterns = s.lanterns := rfl
@[simp] theorem setMailbox_counters (f : Nat) (v : Mailbox) : (s.setMailbox f v).counters = s.counters := rfl
@[simp] theorem setMailbox_arbs (f : Nat) (v : Mailbox) : (s.setMailbox f v).arbs = s.arbs := rfl
@[simp] theorem setMailbox_entries (f : Nat) (v : Mailbox) : (s.setMailbox f v).entries = s.entries := rfl
@[simp] theorem setMailbox_decs (f : Nat) (v : Mailbox) : (s.setMailbox f v).decs = s.decs := rfl
@[simp] theorem setMailbox_smelters (f : Nat) (v : Mailbox) : (s.setMailbox f v).smelters = s.smelters := rfl
@[simp] theorem setMailbox_streams (f : Nat) (v : Mailbox) : (s.setMailbox f v).streams = s.streams := rfl
@[simp] theorem setMailbox_quads (f : Nat) (v : Mailbox) : (s.setMailbox f v).quads = s.quads := rfl
@[simp] theorem setMailbox_snaps (f : Nat) (v : Mailbox) : (s.setMailbox f v).snaps = s.snaps := rfl
@[simp] theorem setMailbox_excq (f : Nat) (v : Mailbox) : (s.setMailbox f v).excq = s.excq := rfl
@[simp] theorem setMailbox_nextWait (f : Nat) (v : Mailbox) : (s.setMailbox f v).nextWait = s.nextWait := rfl
@[simp] theorem setMailbox_periph (f : Nat) (v : Mailbox) : (s.setMailbox f v).periph = s.periph := rfl

@[simp] theorem setBuf_pending (pool ix : Nat) (b : PBuf) : (s.setBuf pool ix b).pending = s.pending := rfl
@[simp] theorem setBuf_freeCtr (pool ix : Nat) (b : PBuf) : (s.setBuf pool ix b).freeCtr = s.freeCtr := rfl
@[simp] theorem setBuf_regs (pool ix : Nat) (b : PBuf) : (s.setBuf pool ix b).regs = s.regs := rfl
@[simp] theorem setBuf_mem (pool ix : Nat) (b : PBuf) : (s.setBuf pool ix b).mem = s.mem := rfl
@[simp] theorem setBuf_undef (pool ix : Nat) (b : PBuf) : (s.setBuf pool ix b).undef = s.undef := rfl
@[simp] theorem setBuf_poison (pool ix : Nat) (b : PBuf) : (s.setBuf pool ix b).poison = s.poison := rfl
@[simp] theorem setBuf_host (pool ix : Nat) (b : PBuf) : (s.setBuf pool ix b).host = s.host := rfl
@[simp] theorem setBuf_flash (pool ix : Nat) (b : PBuf) : (s.setBuf pool ix b).flash = s.flash := rfl
@[simp] theorem setBuf_fuses (pool ix : Nat) (b : PBuf) : (s.setBuf pool ix b).fuses = s.fuses := rfl
@[simp] theorem setBuf_fabric (pool ix : Nat) (b : PBuf) : (s.setBuf pool ix b).fabric = s.fabric := rfl
@[simp] theorem setBuf_tb (pool ix : Nat) (b : PBuf) : (s.setBuf pool ix b).tb = s.tb := rfl
@[simp] theorem setBuf_winLoStaged (pool ix : Nat) (b : PBuf) : (s.setBuf pool ix b).winLoStaged = s.winLoStaged := rfl
@[simp] theorem setBuf_rqStaged (pool ix : Nat) (b : PBuf) : (s.setBuf pool ix b).rqStaged = s.rqStaged := rfl
@[simp] theorem setBuf_parts (pool ix : Nat) (b : PBuf) : (s.setBuf pool ix b).parts = s.parts := rfl
@[simp] theorem setBuf_swap (pool ix : Nat) (b : PBuf) : (s.setBuf pool ix b).swap = s.swap := rfl
@[simp] theorem setBuf_credits (pool ix : Nat) (b : PBuf) : (s.setBuf pool ix b).credits = s.credits := rfl
@[simp] theorem setBuf_rmos (pool ix : Nat) (b : PBuf) : (s.setBuf pool ix b).rmos = s.rmos := rfl
@[simp] theorem setBuf_localBufs (pool ix : Nat) (b : PBuf) : (s.setBuf pool ix b).localBufs = s.localBufs := rfl
@[simp] theorem setBuf_failedTests (pool ix : Nat) (b : PBuf) : (s.setBuf pool ix b).failedTests = s.failedTests := rfl
@[simp] theorem setBuf_nextId (pool ix : Nat) (b : PBuf) : (s.setBuf pool ix b).nextId = s.nextId := rfl
@[simp] theorem setBuf_cmds (pool ix : Nat) (b : PBuf) : (s.setBuf pool ix b).cmds = s.cmds := rfl
@[simp] theorem setBuf_rings (pool ix : Nat) (b : PBuf) : (s.setBuf pool ix b).rings = s.rings := rfl
@[simp] theorem setBuf_dsNext (pool ix : Nat) (b : PBuf) : (s.setBuf pool ix b).dsNext = s.dsNext := rfl
@[simp] theorem setBuf_poolInit (pool ix : Nat) (b : PBuf) : (s.setBuf pool ix b).poolInit = s.poolInit := rfl
@[simp] theorem setBuf_pcie (pool ix : Nat) (b : PBuf) : (s.setBuf pool ix b).pcie = s.pcie := rfl
@[simp] theorem setBuf_soot (pool ix : Nat) (b : PBuf) : (s.setBuf pool ix b).soot = s.soot := rfl
@[simp] theorem setBuf_ozmel (pool ix : Nat) (b : PBuf) : (s.setBuf pool ix b).ozmel = s.ozmel := rfl
@[simp] theorem setBuf_options (pool ix : Nat) (b : PBuf) : (s.setBuf pool ix b).options = s.options := rfl
@[simp] theorem setBuf_outs (pool ix : Nat) (b : PBuf) : (s.setBuf pool ix b).outs = s.outs := rfl
@[simp] theorem setBuf_banks (pool ix : Nat) (b : PBuf) : (s.setBuf pool ix b).banks = s.banks := rfl
@[simp] theorem setBuf_ingots (pool ix : Nat) (b : PBuf) : (s.setBuf pool ix b).ingots = s.ingots := rfl
@[simp] theorem setBuf_dram (pool ix : Nat) (b : PBuf) : (s.setBuf pool ix b).dram = s.dram := rfl
@[simp] theorem setBuf_lanterns (pool ix : Nat) (b : PBuf) : (s.setBuf pool ix b).lanterns = s.lanterns := rfl
@[simp] theorem setBuf_counters (pool ix : Nat) (b : PBuf) : (s.setBuf pool ix b).counters = s.counters := rfl
@[simp] theorem setBuf_arbs (pool ix : Nat) (b : PBuf) : (s.setBuf pool ix b).arbs = s.arbs := rfl
@[simp] theorem setBuf_entries (pool ix : Nat) (b : PBuf) : (s.setBuf pool ix b).entries = s.entries := rfl
@[simp] theorem setBuf_decs (pool ix : Nat) (b : PBuf) : (s.setBuf pool ix b).decs = s.decs := rfl
@[simp] theorem setBuf_smelters (pool ix : Nat) (b : PBuf) : (s.setBuf pool ix b).smelters = s.smelters := rfl
@[simp] theorem setBuf_streams (pool ix : Nat) (b : PBuf) : (s.setBuf pool ix b).streams = s.streams := rfl
@[simp] theorem setBuf_quads (pool ix : Nat) (b : PBuf) : (s.setBuf pool ix b).quads = s.quads := rfl
@[simp] theorem setBuf_snaps (pool ix : Nat) (b : PBuf) : (s.setBuf pool ix b).snaps = s.snaps := rfl
@[simp] theorem setBuf_excq (pool ix : Nat) (b : PBuf) : (s.setBuf pool ix b).excq = s.excq := rfl
@[simp] theorem setBuf_nextWait (pool ix : Nat) (b : PBuf) : (s.setBuf pool ix b).nextWait = s.nextWait := rfl
@[simp] theorem setBuf_periph (pool ix : Nat) (b : PBuf) : (s.setBuf pool ix b).periph = s.periph := rfl

@[simp] theorem setBank_pending (k : Nat) (b : Bank) : (s.setBank k b).pending = s.pending := rfl
@[simp] theorem setBank_freeCtr (k : Nat) (b : Bank) : (s.setBank k b).freeCtr = s.freeCtr := rfl
@[simp] theorem setBank_regs (k : Nat) (b : Bank) : (s.setBank k b).regs = s.regs := rfl
@[simp] theorem setBank_mem (k : Nat) (b : Bank) : (s.setBank k b).mem = s.mem := rfl
@[simp] theorem setBank_undef (k : Nat) (b : Bank) : (s.setBank k b).undef = s.undef := rfl
@[simp] theorem setBank_poison (k : Nat) (b : Bank) : (s.setBank k b).poison = s.poison := rfl
@[simp] theorem setBank_host (k : Nat) (b : Bank) : (s.setBank k b).host = s.host := rfl
@[simp] theorem setBank_flash (k : Nat) (b : Bank) : (s.setBank k b).flash = s.flash := rfl
@[simp] theorem setBank_fuses (k : Nat) (b : Bank) : (s.setBank k b).fuses = s.fuses := rfl
@[simp] theorem setBank_fabric (k : Nat) (b : Bank) : (s.setBank k b).fabric = s.fabric := rfl
@[simp] theorem setBank_tb (k : Nat) (b : Bank) : (s.setBank k b).tb = s.tb := rfl
@[simp] theorem setBank_winLoStaged (k : Nat) (b : Bank) : (s.setBank k b).winLoStaged = s.winLoStaged := rfl
@[simp] theorem setBank_rqStaged (k : Nat) (b : Bank) : (s.setBank k b).rqStaged = s.rqStaged := rfl
@[simp] theorem setBank_parts (k : Nat) (b : Bank) : (s.setBank k b).parts = s.parts := rfl
@[simp] theorem setBank_swap (k : Nat) (b : Bank) : (s.setBank k b).swap = s.swap := rfl
@[simp] theorem setBank_credits (k : Nat) (b : Bank) : (s.setBank k b).credits = s.credits := rfl
@[simp] theorem setBank_rmos (k : Nat) (b : Bank) : (s.setBank k b).rmos = s.rmos := rfl
@[simp] theorem setBank_localBufs (k : Nat) (b : Bank) : (s.setBank k b).localBufs = s.localBufs := rfl
@[simp] theorem setBank_failedTests (k : Nat) (b : Bank) : (s.setBank k b).failedTests = s.failedTests := rfl
@[simp] theorem setBank_nextId (k : Nat) (b : Bank) : (s.setBank k b).nextId = s.nextId := rfl
@[simp] theorem setBank_cmds (k : Nat) (b : Bank) : (s.setBank k b).cmds = s.cmds := rfl
@[simp] theorem setBank_rings (k : Nat) (b : Bank) : (s.setBank k b).rings = s.rings := rfl
@[simp] theorem setBank_dsNext (k : Nat) (b : Bank) : (s.setBank k b).dsNext = s.dsNext := rfl
@[simp] theorem setBank_bufs (k : Nat) (b : Bank) : (s.setBank k b).bufs = s.bufs := rfl
@[simp] theorem setBank_poolInit (k : Nat) (b : Bank) : (s.setBank k b).poolInit = s.poolInit := rfl
@[simp] theorem setBank_pcie (k : Nat) (b : Bank) : (s.setBank k b).pcie = s.pcie := rfl
@[simp] theorem setBank_soot (k : Nat) (b : Bank) : (s.setBank k b).soot = s.soot := rfl
@[simp] theorem setBank_ozmel (k : Nat) (b : Bank) : (s.setBank k b).ozmel = s.ozmel := rfl
@[simp] theorem setBank_options (k : Nat) (b : Bank) : (s.setBank k b).options = s.options := rfl
@[simp] theorem setBank_outs (k : Nat) (b : Bank) : (s.setBank k b).outs = s.outs := rfl
@[simp] theorem setBank_ingots (k : Nat) (b : Bank) : (s.setBank k b).ingots = s.ingots := rfl
@[simp] theorem setBank_dram (k : Nat) (b : Bank) : (s.setBank k b).dram = s.dram := rfl
@[simp] theorem setBank_lanterns (k : Nat) (b : Bank) : (s.setBank k b).lanterns = s.lanterns := rfl
@[simp] theorem setBank_counters (k : Nat) (b : Bank) : (s.setBank k b).counters = s.counters := rfl
@[simp] theorem setBank_arbs (k : Nat) (b : Bank) : (s.setBank k b).arbs = s.arbs := rfl
@[simp] theorem setBank_entries (k : Nat) (b : Bank) : (s.setBank k b).entries = s.entries := rfl
@[simp] theorem setBank_decs (k : Nat) (b : Bank) : (s.setBank k b).decs = s.decs := rfl
@[simp] theorem setBank_smelters (k : Nat) (b : Bank) : (s.setBank k b).smelters = s.smelters := rfl
@[simp] theorem setBank_streams (k : Nat) (b : Bank) : (s.setBank k b).streams = s.streams := rfl
@[simp] theorem setBank_quads (k : Nat) (b : Bank) : (s.setBank k b).quads = s.quads := rfl
@[simp] theorem setBank_snaps (k : Nat) (b : Bank) : (s.setBank k b).snaps = s.snaps := rfl
@[simp] theorem setBank_excq (k : Nat) (b : Bank) : (s.setBank k b).excq = s.excq := rfl
@[simp] theorem setBank_nextWait (k : Nat) (b : Bank) : (s.setBank k b).nextWait = s.nextWait := rfl
@[simp] theorem setBank_periph (k : Nat) (b : Bank) : (s.setBank k b).periph = s.periph := rfl

@[simp] theorem setIngotErr_pending (n : Nat) (b : IngotErr) : (s.setIngotErr n b).pending = s.pending := rfl
@[simp] theorem setIngotErr_freeCtr (n : Nat) (b : IngotErr) : (s.setIngotErr n b).freeCtr = s.freeCtr := rfl
@[simp] theorem setIngotErr_regs (n : Nat) (b : IngotErr) : (s.setIngotErr n b).regs = s.regs := rfl
@[simp] theorem setIngotErr_mem (n : Nat) (b : IngotErr) : (s.setIngotErr n b).mem = s.mem := rfl
@[simp] theorem setIngotErr_undef (n : Nat) (b : IngotErr) : (s.setIngotErr n b).undef = s.undef := rfl
@[simp] theorem setIngotErr_poison (n : Nat) (b : IngotErr) : (s.setIngotErr n b).poison = s.poison := rfl
@[simp] theorem setIngotErr_host (n : Nat) (b : IngotErr) : (s.setIngotErr n b).host = s.host := rfl
@[simp] theorem setIngotErr_flash (n : Nat) (b : IngotErr) : (s.setIngotErr n b).flash = s.flash := rfl
@[simp] theorem setIngotErr_fuses (n : Nat) (b : IngotErr) : (s.setIngotErr n b).fuses = s.fuses := rfl
@[simp] theorem setIngotErr_fabric (n : Nat) (b : IngotErr) : (s.setIngotErr n b).fabric = s.fabric := rfl
@[simp] theorem setIngotErr_tb (n : Nat) (b : IngotErr) : (s.setIngotErr n b).tb = s.tb := rfl
@[simp] theorem setIngotErr_winLoStaged (n : Nat) (b : IngotErr) : (s.setIngotErr n b).winLoStaged = s.winLoStaged := rfl
@[simp] theorem setIngotErr_rqStaged (n : Nat) (b : IngotErr) : (s.setIngotErr n b).rqStaged = s.rqStaged := rfl
@[simp] theorem setIngotErr_parts (n : Nat) (b : IngotErr) : (s.setIngotErr n b).parts = s.parts := rfl
@[simp] theorem setIngotErr_swap (n : Nat) (b : IngotErr) : (s.setIngotErr n b).swap = s.swap := rfl
@[simp] theorem setIngotErr_credits (n : Nat) (b : IngotErr) : (s.setIngotErr n b).credits = s.credits := rfl
@[simp] theorem setIngotErr_rmos (n : Nat) (b : IngotErr) : (s.setIngotErr n b).rmos = s.rmos := rfl
@[simp] theorem setIngotErr_localBufs (n : Nat) (b : IngotErr) : (s.setIngotErr n b).localBufs = s.localBufs := rfl
@[simp] theorem setIngotErr_failedTests (n : Nat) (b : IngotErr) : (s.setIngotErr n b).failedTests = s.failedTests := rfl
@[simp] theorem setIngotErr_nextId (n : Nat) (b : IngotErr) : (s.setIngotErr n b).nextId = s.nextId := rfl
@[simp] theorem setIngotErr_cmds (n : Nat) (b : IngotErr) : (s.setIngotErr n b).cmds = s.cmds := rfl
@[simp] theorem setIngotErr_rings (n : Nat) (b : IngotErr) : (s.setIngotErr n b).rings = s.rings := rfl
@[simp] theorem setIngotErr_dsNext (n : Nat) (b : IngotErr) : (s.setIngotErr n b).dsNext = s.dsNext := rfl
@[simp] theorem setIngotErr_bufs (n : Nat) (b : IngotErr) : (s.setIngotErr n b).bufs = s.bufs := rfl
@[simp] theorem setIngotErr_poolInit (n : Nat) (b : IngotErr) : (s.setIngotErr n b).poolInit = s.poolInit := rfl
@[simp] theorem setIngotErr_pcie (n : Nat) (b : IngotErr) : (s.setIngotErr n b).pcie = s.pcie := rfl
@[simp] theorem setIngotErr_soot (n : Nat) (b : IngotErr) : (s.setIngotErr n b).soot = s.soot := rfl
@[simp] theorem setIngotErr_ozmel (n : Nat) (b : IngotErr) : (s.setIngotErr n b).ozmel = s.ozmel := rfl
@[simp] theorem setIngotErr_options (n : Nat) (b : IngotErr) : (s.setIngotErr n b).options = s.options := rfl
@[simp] theorem setIngotErr_outs (n : Nat) (b : IngotErr) : (s.setIngotErr n b).outs = s.outs := rfl
@[simp] theorem setIngotErr_banks (n : Nat) (b : IngotErr) : (s.setIngotErr n b).banks = s.banks := rfl
@[simp] theorem setIngotErr_dram (n : Nat) (b : IngotErr) : (s.setIngotErr n b).dram = s.dram := rfl
@[simp] theorem setIngotErr_lanterns (n : Nat) (b : IngotErr) : (s.setIngotErr n b).lanterns = s.lanterns := rfl
@[simp] theorem setIngotErr_counters (n : Nat) (b : IngotErr) : (s.setIngotErr n b).counters = s.counters := rfl
@[simp] theorem setIngotErr_arbs (n : Nat) (b : IngotErr) : (s.setIngotErr n b).arbs = s.arbs := rfl
@[simp] theorem setIngotErr_entries (n : Nat) (b : IngotErr) : (s.setIngotErr n b).entries = s.entries := rfl
@[simp] theorem setIngotErr_decs (n : Nat) (b : IngotErr) : (s.setIngotErr n b).decs = s.decs := rfl
@[simp] theorem setIngotErr_smelters (n : Nat) (b : IngotErr) : (s.setIngotErr n b).smelters = s.smelters := rfl
@[simp] theorem setIngotErr_streams (n : Nat) (b : IngotErr) : (s.setIngotErr n b).streams = s.streams := rfl
@[simp] theorem setIngotErr_quads (n : Nat) (b : IngotErr) : (s.setIngotErr n b).quads = s.quads := rfl
@[simp] theorem setIngotErr_snaps (n : Nat) (b : IngotErr) : (s.setIngotErr n b).snaps = s.snaps := rfl
@[simp] theorem setIngotErr_excq (n : Nat) (b : IngotErr) : (s.setIngotErr n b).excq = s.excq := rfl
@[simp] theorem setIngotErr_nextWait (n : Nat) (b : IngotErr) : (s.setIngotErr n b).nextWait = s.nextWait := rfl
@[simp] theorem setIngotErr_periph (n : Nat) (b : IngotErr) : (s.setIngotErr n b).periph = s.periph := rfl

@[simp] theorem updCmd_pending (id : Nat) (f : Cmd → Cmd) : (s.updCmd id f).pending = s.pending := rfl
@[simp] theorem updCmd_freeCtr (id : Nat) (f : Cmd → Cmd) : (s.updCmd id f).freeCtr = s.freeCtr := rfl
@[simp] theorem updCmd_regs (id : Nat) (f : Cmd → Cmd) : (s.updCmd id f).regs = s.regs := rfl
@[simp] theorem updCmd_mem (id : Nat) (f : Cmd → Cmd) : (s.updCmd id f).mem = s.mem := rfl
@[simp] theorem updCmd_undef (id : Nat) (f : Cmd → Cmd) : (s.updCmd id f).undef = s.undef := rfl
@[simp] theorem updCmd_poison (id : Nat) (f : Cmd → Cmd) : (s.updCmd id f).poison = s.poison := rfl
@[simp] theorem updCmd_host (id : Nat) (f : Cmd → Cmd) : (s.updCmd id f).host = s.host := rfl
@[simp] theorem updCmd_flash (id : Nat) (f : Cmd → Cmd) : (s.updCmd id f).flash = s.flash := rfl
@[simp] theorem updCmd_fuses (id : Nat) (f : Cmd → Cmd) : (s.updCmd id f).fuses = s.fuses := rfl
@[simp] theorem updCmd_fabric (id : Nat) (f : Cmd → Cmd) : (s.updCmd id f).fabric = s.fabric := rfl
@[simp] theorem updCmd_tb (id : Nat) (f : Cmd → Cmd) : (s.updCmd id f).tb = s.tb := rfl
@[simp] theorem updCmd_winLoStaged (id : Nat) (f : Cmd → Cmd) : (s.updCmd id f).winLoStaged = s.winLoStaged := rfl
@[simp] theorem updCmd_rqStaged (id : Nat) (f : Cmd → Cmd) : (s.updCmd id f).rqStaged = s.rqStaged := rfl
@[simp] theorem updCmd_parts (id : Nat) (f : Cmd → Cmd) : (s.updCmd id f).parts = s.parts := rfl
@[simp] theorem updCmd_swap (id : Nat) (f : Cmd → Cmd) : (s.updCmd id f).swap = s.swap := rfl
@[simp] theorem updCmd_credits (id : Nat) (f : Cmd → Cmd) : (s.updCmd id f).credits = s.credits := rfl
@[simp] theorem updCmd_rmos (id : Nat) (f : Cmd → Cmd) : (s.updCmd id f).rmos = s.rmos := rfl
@[simp] theorem updCmd_localBufs (id : Nat) (f : Cmd → Cmd) : (s.updCmd id f).localBufs = s.localBufs := rfl
@[simp] theorem updCmd_failedTests (id : Nat) (f : Cmd → Cmd) : (s.updCmd id f).failedTests = s.failedTests := rfl
@[simp] theorem updCmd_nextId (id : Nat) (f : Cmd → Cmd) : (s.updCmd id f).nextId = s.nextId := rfl
@[simp] theorem updCmd_rings (id : Nat) (f : Cmd → Cmd) : (s.updCmd id f).rings = s.rings := rfl
@[simp] theorem updCmd_dsNext (id : Nat) (f : Cmd → Cmd) : (s.updCmd id f).dsNext = s.dsNext := rfl
@[simp] theorem updCmd_bufs (id : Nat) (f : Cmd → Cmd) : (s.updCmd id f).bufs = s.bufs := rfl
@[simp] theorem updCmd_poolInit (id : Nat) (f : Cmd → Cmd) : (s.updCmd id f).poolInit = s.poolInit := rfl
@[simp] theorem updCmd_pcie (id : Nat) (f : Cmd → Cmd) : (s.updCmd id f).pcie = s.pcie := rfl
@[simp] theorem updCmd_soot (id : Nat) (f : Cmd → Cmd) : (s.updCmd id f).soot = s.soot := rfl
@[simp] theorem updCmd_ozmel (id : Nat) (f : Cmd → Cmd) : (s.updCmd id f).ozmel = s.ozmel := rfl
@[simp] theorem updCmd_options (id : Nat) (f : Cmd → Cmd) : (s.updCmd id f).options = s.options := rfl
@[simp] theorem updCmd_outs (id : Nat) (f : Cmd → Cmd) : (s.updCmd id f).outs = s.outs := rfl
@[simp] theorem updCmd_banks (id : Nat) (f : Cmd → Cmd) : (s.updCmd id f).banks = s.banks := rfl
@[simp] theorem updCmd_ingots (id : Nat) (f : Cmd → Cmd) : (s.updCmd id f).ingots = s.ingots := rfl
@[simp] theorem updCmd_dram (id : Nat) (f : Cmd → Cmd) : (s.updCmd id f).dram = s.dram := rfl
@[simp] theorem updCmd_lanterns (id : Nat) (f : Cmd → Cmd) : (s.updCmd id f).lanterns = s.lanterns := rfl
@[simp] theorem updCmd_counters (id : Nat) (f : Cmd → Cmd) : (s.updCmd id f).counters = s.counters := rfl
@[simp] theorem updCmd_arbs (id : Nat) (f : Cmd → Cmd) : (s.updCmd id f).arbs = s.arbs := rfl
@[simp] theorem updCmd_entries (id : Nat) (f : Cmd → Cmd) : (s.updCmd id f).entries = s.entries := rfl
@[simp] theorem updCmd_decs (id : Nat) (f : Cmd → Cmd) : (s.updCmd id f).decs = s.decs := rfl
@[simp] theorem updCmd_smelters (id : Nat) (f : Cmd → Cmd) : (s.updCmd id f).smelters = s.smelters := rfl
@[simp] theorem updCmd_streams (id : Nat) (f : Cmd → Cmd) : (s.updCmd id f).streams = s.streams := rfl
@[simp] theorem updCmd_quads (id : Nat) (f : Cmd → Cmd) : (s.updCmd id f).quads = s.quads := rfl
@[simp] theorem updCmd_snaps (id : Nat) (f : Cmd → Cmd) : (s.updCmd id f).snaps = s.snaps := rfl
@[simp] theorem updCmd_excq (id : Nat) (f : Cmd → Cmd) : (s.updCmd id f).excq = s.excq := rfl
@[simp] theorem updCmd_nextWait (id : Nat) (f : Cmd → Cmd) : (s.updCmd id f).nextWait = s.nextWait := rfl
@[simp] theorem updCmd_periph (id : Nat) (f : Cmd → Cmd) : (s.updCmd id f).periph = s.periph := rfl

@[simp] theorem endCmd_pending (id : Nat) (st : Status) (d : Word) : (s.endCmd id st d).pending = s.pending := rfl
@[simp] theorem endCmd_freeCtr (id : Nat) (st : Status) (d : Word) : (s.endCmd id st d).freeCtr = s.freeCtr := rfl
@[simp] theorem endCmd_regs (id : Nat) (st : Status) (d : Word) : (s.endCmd id st d).regs = s.regs := rfl
@[simp] theorem endCmd_mem (id : Nat) (st : Status) (d : Word) : (s.endCmd id st d).mem = s.mem := rfl
@[simp] theorem endCmd_undef (id : Nat) (st : Status) (d : Word) : (s.endCmd id st d).undef = s.undef := rfl
@[simp] theorem endCmd_poison (id : Nat) (st : Status) (d : Word) : (s.endCmd id st d).poison = s.poison := rfl
@[simp] theorem endCmd_host (id : Nat) (st : Status) (d : Word) : (s.endCmd id st d).host = s.host := rfl
@[simp] theorem endCmd_flash (id : Nat) (st : Status) (d : Word) : (s.endCmd id st d).flash = s.flash := rfl
@[simp] theorem endCmd_fuses (id : Nat) (st : Status) (d : Word) : (s.endCmd id st d).fuses = s.fuses := rfl
@[simp] theorem endCmd_fabric (id : Nat) (st : Status) (d : Word) : (s.endCmd id st d).fabric = s.fabric := rfl
@[simp] theorem endCmd_tb (id : Nat) (st : Status) (d : Word) : (s.endCmd id st d).tb = s.tb := rfl
@[simp] theorem endCmd_winLoStaged (id : Nat) (st : Status) (d : Word) : (s.endCmd id st d).winLoStaged = s.winLoStaged := rfl
@[simp] theorem endCmd_rqStaged (id : Nat) (st : Status) (d : Word) : (s.endCmd id st d).rqStaged = s.rqStaged := rfl
@[simp] theorem endCmd_parts (id : Nat) (st : Status) (d : Word) : (s.endCmd id st d).parts = s.parts := rfl
@[simp] theorem endCmd_swap (id : Nat) (st : Status) (d : Word) : (s.endCmd id st d).swap = s.swap := rfl
@[simp] theorem endCmd_credits (id : Nat) (st : Status) (d : Word) : (s.endCmd id st d).credits = s.credits := rfl
@[simp] theorem endCmd_rmos (id : Nat) (st : Status) (d : Word) : (s.endCmd id st d).rmos = s.rmos := rfl
@[simp] theorem endCmd_localBufs (id : Nat) (st : Status) (d : Word) : (s.endCmd id st d).localBufs = s.localBufs := rfl
@[simp] theorem endCmd_failedTests (id : Nat) (st : Status) (d : Word) : (s.endCmd id st d).failedTests = s.failedTests := rfl
@[simp] theorem endCmd_nextId (id : Nat) (st : Status) (d : Word) : (s.endCmd id st d).nextId = s.nextId := rfl
@[simp] theorem endCmd_rings (id : Nat) (st : Status) (d : Word) : (s.endCmd id st d).rings = s.rings := rfl
@[simp] theorem endCmd_dsNext (id : Nat) (st : Status) (d : Word) : (s.endCmd id st d).dsNext = s.dsNext := rfl
@[simp] theorem endCmd_bufs (id : Nat) (st : Status) (d : Word) : (s.endCmd id st d).bufs = s.bufs := rfl
@[simp] theorem endCmd_poolInit (id : Nat) (st : Status) (d : Word) : (s.endCmd id st d).poolInit = s.poolInit := rfl
@[simp] theorem endCmd_pcie (id : Nat) (st : Status) (d : Word) : (s.endCmd id st d).pcie = s.pcie := rfl
@[simp] theorem endCmd_soot (id : Nat) (st : Status) (d : Word) : (s.endCmd id st d).soot = s.soot := rfl
@[simp] theorem endCmd_ozmel (id : Nat) (st : Status) (d : Word) : (s.endCmd id st d).ozmel = s.ozmel := rfl
@[simp] theorem endCmd_options (id : Nat) (st : Status) (d : Word) : (s.endCmd id st d).options = s.options := rfl
@[simp] theorem endCmd_outs (id : Nat) (st : Status) (d : Word) : (s.endCmd id st d).outs = s.outs := rfl
@[simp] theorem endCmd_banks (id : Nat) (st : Status) (d : Word) : (s.endCmd id st d).banks = s.banks := rfl
@[simp] theorem endCmd_ingots (id : Nat) (st : Status) (d : Word) : (s.endCmd id st d).ingots = s.ingots := rfl
@[simp] theorem endCmd_dram (id : Nat) (st : Status) (d : Word) : (s.endCmd id st d).dram = s.dram := rfl
@[simp] theorem endCmd_lanterns (id : Nat) (st : Status) (d : Word) : (s.endCmd id st d).lanterns = s.lanterns := rfl
@[simp] theorem endCmd_counters (id : Nat) (st : Status) (d : Word) : (s.endCmd id st d).counters = s.counters := rfl
@[simp] theorem endCmd_arbs (id : Nat) (st : Status) (d : Word) : (s.endCmd id st d).arbs = s.arbs := rfl
@[simp] theorem endCmd_entries (id : Nat) (st : Status) (d : Word) : (s.endCmd id st d).entries = s.entries := rfl
@[simp] theorem endCmd_decs (id : Nat) (st : Status) (d : Word) : (s.endCmd id st d).decs = s.decs := rfl
@[simp] theorem endCmd_smelters (id : Nat) (st : Status) (d : Word) : (s.endCmd id st d).smelters = s.smelters := rfl
@[simp] theorem endCmd_streams (id : Nat) (st : Status) (d : Word) : (s.endCmd id st d).streams = s.streams := rfl
@[simp] theorem endCmd_quads (id : Nat) (st : Status) (d : Word) : (s.endCmd id st d).quads = s.quads := rfl
@[simp] theorem endCmd_snaps (id : Nat) (st : Status) (d : Word) : (s.endCmd id st d).snaps = s.snaps := rfl
@[simp] theorem endCmd_excq (id : Nat) (st : Status) (d : Word) : (s.endCmd id st d).excq = s.excq := rfl
@[simp] theorem endCmd_nextWait (id : Nat) (st : Status) (d : Word) : (s.endCmd id st d).nextWait = s.nextWait := rfl
@[simp] theorem endCmd_periph (id : Nat) (st : Status) (d : Word) : (s.endCmd id st d).periph = s.periph := rfl

@[simp] theorem writeHost_pending (a : Nat) (bs : List Byte) : (s.writeHost a bs).pending = s.pending := rfl
@[simp] theorem writeHost_freeCtr (a : Nat) (bs : List Byte) : (s.writeHost a bs).freeCtr = s.freeCtr := rfl
@[simp] theorem writeHost_regs (a : Nat) (bs : List Byte) : (s.writeHost a bs).regs = s.regs := rfl
@[simp] theorem writeHost_mem (a : Nat) (bs : List Byte) : (s.writeHost a bs).mem = s.mem := rfl
@[simp] theorem writeHost_undef (a : Nat) (bs : List Byte) : (s.writeHost a bs).undef = s.undef := rfl
@[simp] theorem writeHost_poison (a : Nat) (bs : List Byte) : (s.writeHost a bs).poison = s.poison := rfl
@[simp] theorem writeHost_flash (a : Nat) (bs : List Byte) : (s.writeHost a bs).flash = s.flash := rfl
@[simp] theorem writeHost_fuses (a : Nat) (bs : List Byte) : (s.writeHost a bs).fuses = s.fuses := rfl
@[simp] theorem writeHost_fabric (a : Nat) (bs : List Byte) : (s.writeHost a bs).fabric = s.fabric := rfl
@[simp] theorem writeHost_tb (a : Nat) (bs : List Byte) : (s.writeHost a bs).tb = s.tb := rfl
@[simp] theorem writeHost_winLoStaged (a : Nat) (bs : List Byte) : (s.writeHost a bs).winLoStaged = s.winLoStaged := rfl
@[simp] theorem writeHost_rqStaged (a : Nat) (bs : List Byte) : (s.writeHost a bs).rqStaged = s.rqStaged := rfl
@[simp] theorem writeHost_parts (a : Nat) (bs : List Byte) : (s.writeHost a bs).parts = s.parts := rfl
@[simp] theorem writeHost_swap (a : Nat) (bs : List Byte) : (s.writeHost a bs).swap = s.swap := rfl
@[simp] theorem writeHost_credits (a : Nat) (bs : List Byte) : (s.writeHost a bs).credits = s.credits := rfl
@[simp] theorem writeHost_rmos (a : Nat) (bs : List Byte) : (s.writeHost a bs).rmos = s.rmos := rfl
@[simp] theorem writeHost_localBufs (a : Nat) (bs : List Byte) : (s.writeHost a bs).localBufs = s.localBufs := rfl
@[simp] theorem writeHost_failedTests (a : Nat) (bs : List Byte) : (s.writeHost a bs).failedTests = s.failedTests := rfl
@[simp] theorem writeHost_nextId (a : Nat) (bs : List Byte) : (s.writeHost a bs).nextId = s.nextId := rfl
@[simp] theorem writeHost_cmds (a : Nat) (bs : List Byte) : (s.writeHost a bs).cmds = s.cmds := rfl
@[simp] theorem writeHost_rings (a : Nat) (bs : List Byte) : (s.writeHost a bs).rings = s.rings := rfl
@[simp] theorem writeHost_dsNext (a : Nat) (bs : List Byte) : (s.writeHost a bs).dsNext = s.dsNext := rfl
@[simp] theorem writeHost_bufs (a : Nat) (bs : List Byte) : (s.writeHost a bs).bufs = s.bufs := rfl
@[simp] theorem writeHost_poolInit (a : Nat) (bs : List Byte) : (s.writeHost a bs).poolInit = s.poolInit := rfl
@[simp] theorem writeHost_pcie (a : Nat) (bs : List Byte) : (s.writeHost a bs).pcie = s.pcie := rfl
@[simp] theorem writeHost_soot (a : Nat) (bs : List Byte) : (s.writeHost a bs).soot = s.soot := rfl
@[simp] theorem writeHost_ozmel (a : Nat) (bs : List Byte) : (s.writeHost a bs).ozmel = s.ozmel := rfl
@[simp] theorem writeHost_options (a : Nat) (bs : List Byte) : (s.writeHost a bs).options = s.options := rfl
@[simp] theorem writeHost_outs (a : Nat) (bs : List Byte) : (s.writeHost a bs).outs = s.outs := rfl
@[simp] theorem writeHost_banks (a : Nat) (bs : List Byte) : (s.writeHost a bs).banks = s.banks := rfl
@[simp] theorem writeHost_ingots (a : Nat) (bs : List Byte) : (s.writeHost a bs).ingots = s.ingots := rfl
@[simp] theorem writeHost_dram (a : Nat) (bs : List Byte) : (s.writeHost a bs).dram = s.dram := rfl
@[simp] theorem writeHost_lanterns (a : Nat) (bs : List Byte) : (s.writeHost a bs).lanterns = s.lanterns := rfl
@[simp] theorem writeHost_counters (a : Nat) (bs : List Byte) : (s.writeHost a bs).counters = s.counters := rfl
@[simp] theorem writeHost_arbs (a : Nat) (bs : List Byte) : (s.writeHost a bs).arbs = s.arbs := rfl
@[simp] theorem writeHost_entries (a : Nat) (bs : List Byte) : (s.writeHost a bs).entries = s.entries := rfl
@[simp] theorem writeHost_decs (a : Nat) (bs : List Byte) : (s.writeHost a bs).decs = s.decs := rfl
@[simp] theorem writeHost_smelters (a : Nat) (bs : List Byte) : (s.writeHost a bs).smelters = s.smelters := rfl
@[simp] theorem writeHost_streams (a : Nat) (bs : List Byte) : (s.writeHost a bs).streams = s.streams := rfl
@[simp] theorem writeHost_quads (a : Nat) (bs : List Byte) : (s.writeHost a bs).quads = s.quads := rfl
@[simp] theorem writeHost_snaps (a : Nat) (bs : List Byte) : (s.writeHost a bs).snaps = s.snaps := rfl
@[simp] theorem writeHost_excq (a : Nat) (bs : List Byte) : (s.writeHost a bs).excq = s.excq := rfl
@[simp] theorem writeHost_nextWait (a : Nat) (bs : List Byte) : (s.writeHost a bs).nextWait = s.nextWait := rfl
@[simp] theorem writeHost_periph (a : Nat) (bs : List Byte) : (s.writeHost a bs).periph = s.periph := rfl

@[simp] theorem writeFlash_pending (a : Nat) (bs : List Byte) : (s.writeFlash a bs).pending = s.pending := rfl
@[simp] theorem writeFlash_freeCtr (a : Nat) (bs : List Byte) : (s.writeFlash a bs).freeCtr = s.freeCtr := rfl
@[simp] theorem writeFlash_regs (a : Nat) (bs : List Byte) : (s.writeFlash a bs).regs = s.regs := rfl
@[simp] theorem writeFlash_mem (a : Nat) (bs : List Byte) : (s.writeFlash a bs).mem = s.mem := rfl
@[simp] theorem writeFlash_undef (a : Nat) (bs : List Byte) : (s.writeFlash a bs).undef = s.undef := rfl
@[simp] theorem writeFlash_poison (a : Nat) (bs : List Byte) : (s.writeFlash a bs).poison = s.poison := rfl
@[simp] theorem writeFlash_host (a : Nat) (bs : List Byte) : (s.writeFlash a bs).host = s.host := rfl
@[simp] theorem writeFlash_fuses (a : Nat) (bs : List Byte) : (s.writeFlash a bs).fuses = s.fuses := rfl
@[simp] theorem writeFlash_fabric (a : Nat) (bs : List Byte) : (s.writeFlash a bs).fabric = s.fabric := rfl
@[simp] theorem writeFlash_tb (a : Nat) (bs : List Byte) : (s.writeFlash a bs).tb = s.tb := rfl
@[simp] theorem writeFlash_winLoStaged (a : Nat) (bs : List Byte) : (s.writeFlash a bs).winLoStaged = s.winLoStaged := rfl
@[simp] theorem writeFlash_rqStaged (a : Nat) (bs : List Byte) : (s.writeFlash a bs).rqStaged = s.rqStaged := rfl
@[simp] theorem writeFlash_parts (a : Nat) (bs : List Byte) : (s.writeFlash a bs).parts = s.parts := rfl
@[simp] theorem writeFlash_swap (a : Nat) (bs : List Byte) : (s.writeFlash a bs).swap = s.swap := rfl
@[simp] theorem writeFlash_credits (a : Nat) (bs : List Byte) : (s.writeFlash a bs).credits = s.credits := rfl
@[simp] theorem writeFlash_rmos (a : Nat) (bs : List Byte) : (s.writeFlash a bs).rmos = s.rmos := rfl
@[simp] theorem writeFlash_localBufs (a : Nat) (bs : List Byte) : (s.writeFlash a bs).localBufs = s.localBufs := rfl
@[simp] theorem writeFlash_failedTests (a : Nat) (bs : List Byte) : (s.writeFlash a bs).failedTests = s.failedTests := rfl
@[simp] theorem writeFlash_nextId (a : Nat) (bs : List Byte) : (s.writeFlash a bs).nextId = s.nextId := rfl
@[simp] theorem writeFlash_cmds (a : Nat) (bs : List Byte) : (s.writeFlash a bs).cmds = s.cmds := rfl
@[simp] theorem writeFlash_rings (a : Nat) (bs : List Byte) : (s.writeFlash a bs).rings = s.rings := rfl
@[simp] theorem writeFlash_dsNext (a : Nat) (bs : List Byte) : (s.writeFlash a bs).dsNext = s.dsNext := rfl
@[simp] theorem writeFlash_bufs (a : Nat) (bs : List Byte) : (s.writeFlash a bs).bufs = s.bufs := rfl
@[simp] theorem writeFlash_poolInit (a : Nat) (bs : List Byte) : (s.writeFlash a bs).poolInit = s.poolInit := rfl
@[simp] theorem writeFlash_pcie (a : Nat) (bs : List Byte) : (s.writeFlash a bs).pcie = s.pcie := rfl
@[simp] theorem writeFlash_soot (a : Nat) (bs : List Byte) : (s.writeFlash a bs).soot = s.soot := rfl
@[simp] theorem writeFlash_ozmel (a : Nat) (bs : List Byte) : (s.writeFlash a bs).ozmel = s.ozmel := rfl
@[simp] theorem writeFlash_options (a : Nat) (bs : List Byte) : (s.writeFlash a bs).options = s.options := rfl
@[simp] theorem writeFlash_outs (a : Nat) (bs : List Byte) : (s.writeFlash a bs).outs = s.outs := rfl
@[simp] theorem writeFlash_banks (a : Nat) (bs : List Byte) : (s.writeFlash a bs).banks = s.banks := rfl
@[simp] theorem writeFlash_ingots (a : Nat) (bs : List Byte) : (s.writeFlash a bs).ingots = s.ingots := rfl
@[simp] theorem writeFlash_dram (a : Nat) (bs : List Byte) : (s.writeFlash a bs).dram = s.dram := rfl
@[simp] theorem writeFlash_lanterns (a : Nat) (bs : List Byte) : (s.writeFlash a bs).lanterns = s.lanterns := rfl
@[simp] theorem writeFlash_counters (a : Nat) (bs : List Byte) : (s.writeFlash a bs).counters = s.counters := rfl
@[simp] theorem writeFlash_arbs (a : Nat) (bs : List Byte) : (s.writeFlash a bs).arbs = s.arbs := rfl
@[simp] theorem writeFlash_entries (a : Nat) (bs : List Byte) : (s.writeFlash a bs).entries = s.entries := rfl
@[simp] theorem writeFlash_decs (a : Nat) (bs : List Byte) : (s.writeFlash a bs).decs = s.decs := rfl
@[simp] theorem writeFlash_smelters (a : Nat) (bs : List Byte) : (s.writeFlash a bs).smelters = s.smelters := rfl
@[simp] theorem writeFlash_streams (a : Nat) (bs : List Byte) : (s.writeFlash a bs).streams = s.streams := rfl
@[simp] theorem writeFlash_quads (a : Nat) (bs : List Byte) : (s.writeFlash a bs).quads = s.quads := rfl
@[simp] theorem writeFlash_snaps (a : Nat) (bs : List Byte) : (s.writeFlash a bs).snaps = s.snaps := rfl
@[simp] theorem writeFlash_excq (a : Nat) (bs : List Byte) : (s.writeFlash a bs).excq = s.excq := rfl
@[simp] theorem writeFlash_nextWait (a : Nat) (bs : List Byte) : (s.writeFlash a bs).nextWait = s.nextWait := rfl
@[simp] theorem writeFlash_periph (a : Nat) (bs : List Byte) : (s.writeFlash a bs).periph = s.periph := rfl

@[simp] theorem windowGap_pending (d : Nat) : (s.windowGap d).pending = s.pending := rfl
@[simp] theorem windowGap_freeCtr (d : Nat) : (s.windowGap d).freeCtr = s.freeCtr := rfl
@[simp] theorem windowGap_regs (d : Nat) : (s.windowGap d).regs = s.regs := rfl
@[simp] theorem windowGap_mem (d : Nat) : (s.windowGap d).mem = s.mem := rfl
@[simp] theorem windowGap_undef (d : Nat) : (s.windowGap d).undef = s.undef := rfl
@[simp] theorem windowGap_poison (d : Nat) : (s.windowGap d).poison = s.poison := rfl
@[simp] theorem windowGap_host (d : Nat) : (s.windowGap d).host = s.host := rfl
@[simp] theorem windowGap_flash (d : Nat) : (s.windowGap d).flash = s.flash := rfl
@[simp] theorem windowGap_fuses (d : Nat) : (s.windowGap d).fuses = s.fuses := rfl
@[simp] theorem windowGap_tb (d : Nat) : (s.windowGap d).tb = s.tb := rfl
@[simp] theorem windowGap_winLoStaged (d : Nat) : (s.windowGap d).winLoStaged = s.winLoStaged := rfl
@[simp] theorem windowGap_rqStaged (d : Nat) : (s.windowGap d).rqStaged = s.rqStaged := rfl
@[simp] theorem windowGap_parts (d : Nat) : (s.windowGap d).parts = s.parts := rfl
@[simp] theorem windowGap_swap (d : Nat) : (s.windowGap d).swap = s.swap := rfl
@[simp] theorem windowGap_credits (d : Nat) : (s.windowGap d).credits = s.credits := rfl
@[simp] theorem windowGap_rmos (d : Nat) : (s.windowGap d).rmos = s.rmos := rfl
@[simp] theorem windowGap_localBufs (d : Nat) : (s.windowGap d).localBufs = s.localBufs := rfl
@[simp] theorem windowGap_failedTests (d : Nat) : (s.windowGap d).failedTests = s.failedTests := rfl
@[simp] theorem windowGap_nextId (d : Nat) : (s.windowGap d).nextId = s.nextId := rfl
@[simp] theorem windowGap_cmds (d : Nat) : (s.windowGap d).cmds = s.cmds := rfl
@[simp] theorem windowGap_rings (d : Nat) : (s.windowGap d).rings = s.rings := rfl
@[simp] theorem windowGap_dsNext (d : Nat) : (s.windowGap d).dsNext = s.dsNext := rfl
@[simp] theorem windowGap_bufs (d : Nat) : (s.windowGap d).bufs = s.bufs := rfl
@[simp] theorem windowGap_poolInit (d : Nat) : (s.windowGap d).poolInit = s.poolInit := rfl
@[simp] theorem windowGap_pcie (d : Nat) : (s.windowGap d).pcie = s.pcie := rfl
@[simp] theorem windowGap_soot (d : Nat) : (s.windowGap d).soot = s.soot := rfl
@[simp] theorem windowGap_ozmel (d : Nat) : (s.windowGap d).ozmel = s.ozmel := rfl
@[simp] theorem windowGap_options (d : Nat) : (s.windowGap d).options = s.options := rfl
@[simp] theorem windowGap_outs (d : Nat) : (s.windowGap d).outs = s.outs := rfl
@[simp] theorem windowGap_banks (d : Nat) : (s.windowGap d).banks = s.banks := rfl
@[simp] theorem windowGap_ingots (d : Nat) : (s.windowGap d).ingots = s.ingots := rfl
@[simp] theorem windowGap_dram (d : Nat) : (s.windowGap d).dram = s.dram := rfl
@[simp] theorem windowGap_lanterns (d : Nat) : (s.windowGap d).lanterns = s.lanterns := rfl
@[simp] theorem windowGap_counters (d : Nat) : (s.windowGap d).counters = s.counters := rfl
@[simp] theorem windowGap_arbs (d : Nat) : (s.windowGap d).arbs = s.arbs := rfl
@[simp] theorem windowGap_entries (d : Nat) : (s.windowGap d).entries = s.entries := rfl
@[simp] theorem windowGap_decs (d : Nat) : (s.windowGap d).decs = s.decs := rfl
@[simp] theorem windowGap_smelters (d : Nat) : (s.windowGap d).smelters = s.smelters := rfl
@[simp] theorem windowGap_streams (d : Nat) : (s.windowGap d).streams = s.streams := rfl
@[simp] theorem windowGap_quads (d : Nat) : (s.windowGap d).quads = s.quads := rfl
@[simp] theorem windowGap_snaps (d : Nat) : (s.windowGap d).snaps = s.snaps := rfl
@[simp] theorem windowGap_excq (d : Nat) : (s.windowGap d).excq = s.excq := rfl
@[simp] theorem windowGap_nextWait (d : Nat) : (s.windowGap d).nextWait = s.nextWait := rfl
@[simp] theorem windowGap_periph (d : Nat) : (s.windowGap d).periph = s.periph := rfl

end Sys2Proof.Machine.State
end

