-- ==== Sys2Proof/Laws/Registers.lean ====
section
/-!
SUPPORT. Laws of the register file: what a register, a field and a flag read after a write.
-/

namespace Sys2Proof.Machine

set_option Elab.async false

theorem State.Canonical.rising {s : State} (h : s.Canonical) : Rising s.regs := by
  have h2 := h.regs
  simp only [State.regsWf, Bool.and_eq_true, decide_eq_true_eq] at h2
  exact h2.1

/-- The register just written reads as the word written. -/
theorem State.reg_setReg_same (s : State) (off : Nat) (w : Word) (h : Rising s.regs) : (s.setReg off w).reg off = w :=
  sparseGet_set_same _ _ _ _ h

/-- Every other register reads as before. -/
theorem State.reg_setReg_other (s : State) (off o : Nat) (w : Word) (h : o ≠ off) : (s.setReg off w).reg o = s.reg o := by
  simp only [State.reg, State.setReg]
  exact sparseGet_set_key (resetWord off) (resetWord o) s.regs off o w h

theorem State.setReg_rising (s : State) (off : Nat) (w : Word) (h : Rising s.regs) : Rising (s.setReg off w).regs :=
  sparseSet_rising _ _ _ _ h

theorem State.reg_setFld_other (s : State) (off hi lo v o : Nat) (h : o ≠ off) : (s.setFld off hi lo v).reg o = s.reg o :=
  s.reg_setReg_other _ _ _ h

theorem State.reg_setFlag_other (s : State) (off i o : Nat) (b : Bool) (h : o ≠ off) : (s.setFlag off i b).reg o = s.reg o :=
  s.reg_setReg_other _ _ _ h

theorem State.reg_bump_other (s : State) (off hi lo n o : Nat) (h : o ≠ off) : (s.bump off hi lo n).reg o = s.reg o :=
  s.reg_setReg_other _ _ _ h

theorem State.reg_setFld_same (s : State) (off hi lo v : Nat) (h : Rising s.regs) :
    (s.setFld off hi lo v).reg off = setBits (s.reg off) hi lo v := s.reg_setReg_same _ _ h

theorem State.setFld_rising (s : State) (off hi lo v : Nat) (h : Rising s.regs) : Rising (s.setFld off hi lo v).regs :=
  s.setReg_rising _ _ h

theorem State.setFlag_rising (s : State) (off i : Nat) (b : Bool) (h : Rising s.regs) : Rising (s.setFlag off i b).regs :=
  s.setReg_rising _ _ h

theorem State.bump_rising (s : State) (off hi lo n : Nat) (h : Rising s.regs) : Rising (s.bump off hi lo n).regs :=
  s.setReg_rising _ _ h

/-- Registers depend on the register file alone. -/
theorem State.reg_congr {s t : State} (h : t.regs = s.regs) (o : Nat) : t.reg o = s.reg o := by
  rw [State.reg, State.reg, h]

theorem State.fld_congr {s t : State} (h : t.regs = s.regs) (o hi lo : Nat) : t.fld o hi lo = s.fld o hi lo := by
  rw [State.fld, State.fld, State.reg_congr h]

theorem State.flag_congr {s t : State} (h : t.regs = s.regs) (o i : Nat) : t.flag o i = s.flag o i := by
  rw [State.flag, State.flag, State.reg_congr h]

/-! ### Bits of a word -/

/-- One bit of a word with a field replaced. -/
theorem bitOf_setBits (w : Word) (hi lo v i : Nat) (hi32 : hi < 32) :
    bitOf (setBits w hi lo v) i = if lo ≤ i ∧ i ≤ hi then v.testBit (i - lo) else bitOf w i := by
  by_cases h32 : i < 32
  · simp only [bitOf, setBits, BitVec.testBit_toNat, BitVec.getLsbD_or, BitVec.getLsbD_and, BitVec.getLsbD_not, BitVec.getLsbD_ofNat,
      h32, decide_true, Bool.true_and, Nat.testBit_mul_two_pow, Nat.testBit_two_pow_sub_one, Nat.testBit_mod_two_pow]
    by_cases h1 : lo ≤ i
    · by_cases h2 : i ≤ hi
      · have h3 : i - lo < hi + 1 - lo := by omega
        simp [h1, h2, h3]
      · have h3 : ¬ (i - lo < hi + 1 - lo) := by omega
        simp [h1, h2, h3]
    · simp [h1]
  · have h1 : ¬ (lo ≤ i ∧ i ≤ hi) := by omega
    rw [if_neg h1]
    simp only [bitOf, BitVec.testBit_toNat]
    rw [BitVec.getLsbD_of_ge _ _ (by omega), BitVec.getLsbD_of_ge _ _ (by omega)]

theorem testBit_bitsOf (w : Word) (hi lo i : Nat) : (bitsOf w hi lo).testBit i = (decide (i < hi + 1 - lo) && bitOf w (i + lo)) := by
  simp only [bitsOf, bitOf, Nat.testBit_mod_two_pow, Nat.testBit_div_two_pow]

/-- A field just replaced reads as the value, cut to its width. -/
theorem bitsOf_setBits_same (w : Word) (hi lo v : Nat) (h : hi < 32) : bitsOf (setBits w hi lo v) hi lo = v % 2 ^ (hi + 1 - lo) := by
  apply Nat.eq_of_testBit_eq
  intro i
  rw [testBit_bitsOf, bitOf_setBits _ _ _ _ _ h, Nat.testBit_mod_two_pow]
  by_cases hi' : i < hi + 1 - lo
  · have h1 : lo ≤ i + lo ∧ i + lo ≤ hi := by omega
    simp [hi', h1]
  · simp [hi']

/-- A field that does not meet the one replaced reads as before. -/
theorem bitsOf_setBits_other (w : Word) (hi lo v a b : Nat) (h : hi < 32) (hd : a < lo ∨ hi < b) :
    bitsOf (setBits w hi lo v) a b = bitsOf w a b := by
  apply Nat.eq_of_testBit_eq
  intro i
  rw [testBit_bitsOf, testBit_bitsOf, bitOf_setBits _ _ _ _ _ h]
  by_cases hi' : i < a + 1 - b
  · have h1 : ¬ (lo ≤ i + b ∧ i + b ≤ hi) := by omega
    rw [if_neg h1]
  · simp [hi']

theorem bitOf_setBits_other (w : Word) (hi lo v i : Nat) (h : hi < 32) (hd : i < lo ∨ hi < i) : bitOf (setBits w hi lo v) i = bitOf w i := by
  rw [bitOf_setBits _ _ _ _ _ h, if_neg (by omega)]

theorem bitOf_setFlag_same (w : Word) (i : Nat) (b : Bool) (h : i < 32) : bitOf (setBits w i i (boolNat b)) i = b := by
  rw [bitOf_setBits _ _ _ _ _ h]
  cases b <;> simp [boolNat]

/-- A field of a register just replaced. -/
theorem State.fld_setFld_same (s : State) (off hi lo v : Nat) (h : Rising s.regs) (hi32 : hi < 32) :
    (s.setFld off hi lo v).fld off hi lo = v % 2 ^ (hi + 1 - lo) := by
  rw [State.fld, s.reg_setFld_same _ _ _ _ h, bitsOf_setBits_same _ _ _ _ hi32]

theorem State.fld_setFld_other (s : State) (off hi lo v o a b : Nat) (h : o ≠ off) : (s.setFld off hi lo v).fld o a b = s.fld o a b := by
  rw [State.fld, s.reg_setFld_other _ _ _ _ _ h, State.fld]

theorem State.flag_setFlag_same (s : State) (off i : Nat) (b : Bool) (h : Rising s.regs) (h32 : i < 32) :
    (s.setFlag off i b).flag off i = b := by
  rw [State.flag, State.setFlag, s.reg_setFld_same _ _ _ _ h, bitOf_setFlag_same _ _ _ h32]

end Sys2Proof.Machine
end

