-- ==== Sys2Proof/Laws/Frames.lean ====
section
/-!
SUPPORT. What a Soot event, a lock violation and an ignored write can do: they touch the recorder, its drop counters, the error flag
and the count of free values, and nothing else.
-/

namespace Sys2Proof.Machine

set_option Elab.async false

/-- An event changes the recorder, the register of its drop counters and the count of free values, and nothing else. -/
theorem State.sootEvent_eq (s : State) (code : Nat) (arg : Dword) (part : Option Nat) :
    s.sootEvent code arg part = { s with
      regs := (s.sootEvent code arg part).regs, soot := (s.sootEvent code arg part).soot, freeCtr := (s.sootEvent code arg part).freeCtr } := by
  simp only [State.sootEvent]
  split
  · rfl
  · split
    · rfl
    · split
      · rfl
      · split <;> rfl

/-- Of the registers it changes SOOT_DROP alone. -/
theorem State.reg_sootEvent (s : State) (code : Nat) (arg : Dword) (part : Option Nat) (o : Nat) (h : o ≠ Reg.sootDrop) :
    (s.sootEvent code arg part).reg o = s.reg o := by
  simp only [State.sootEvent]
  split
  · exact State.reg_bump_other _ _ _ _ _ _ h
  · split
    · exact State.reg_bump_other _ _ _ _ _ _ h
    · split
      · exact State.reg_bump_other _ _ _ _ _ _ h
      · split <;> rfl

theorem State.sootEvent_rising (s : State) (code : Nat) (arg : Dword) (part : Option Nat) (h : Rising s.regs) :
    Rising (s.sootEvent code arg part).regs := by
  simp only [State.sootEvent]
  split
  · exact State.bump_rising _ _ _ _ _ h
  · split
    · exact State.bump_rising _ _ _ _ _ h
    · split
      · exact State.bump_rising _ _ _ _ _ h
      · split <;> exact h

/-- A lock violation changes the recorder, registers and the count of free values. -/
theorem State.lockViolation_eq (s : State) (src off : Nat) :
    s.lockViolation src off = { s with
      regs := (s.lockViolation src off).regs, soot := (s.lockViolation src off).soot, freeCtr := (s.lockViolation src off).freeCtr } := by
  simp only [State.lockViolation]
  rw [State.sootEvent_eq]
  rfl

/-- Of the registers it changes ERR_STATUS and SOOT_DROP. -/
theorem State.reg_lockViolation (s : State) (src off o : Nat) (h : o ≠ Reg.errStatus) (h' : o ≠ Reg.sootDrop) :
    (s.lockViolation src off).reg o = s.reg o :=
  (State.reg_sootEvent _ _ _ _ _ h').trans (State.reg_setFlag_other _ _ _ _ _ h)

/-- An ignored write changes the recorder, SOOT_DROP and the count of free values. -/
theorem State.ignoredWrite_eq (s : State) (src off : Nat) :
    s.ignoredWrite src off = { s with
      regs := (s.ignoredWrite src off).regs, soot := (s.ignoredWrite src off).soot, freeCtr := (s.ignoredWrite src off).freeCtr } :=
  State.sootEvent_eq _ _ _ _

/-! ### The fields that they leave -/

section

variable (s : State)

@[simp] theorem State.sootEvent_pending (code : Nat) (arg : Dword) (part : Option Nat) : (s.sootEvent code arg part).pending = s.pending := by rw [State.sootEvent_eq]
@[simp] theorem State.sootEvent_mem (code : Nat) (arg : Dword) (part : Option Nat) : (s.sootEvent code arg part).mem = s.mem := by rw [State.sootEvent_eq]
@[simp] theorem State.sootEvent_undef (code : Nat) (arg : Dword) (part : Option Nat) : (s.sootEvent code arg part).undef = s.undef := by rw [State.sootEvent_eq]
@[simp] theorem State.sootEvent_poison (code : Nat) (arg : Dword) (part : Option Nat) : (s.sootEvent code arg part).poison = s.poison := by rw [State.sootEvent_eq]
@[simp] theorem State.sootEvent_host (code : Nat) (arg : Dword) (part : Option Nat) : (s.sootEvent code arg part).host = s.host := by rw [State.sootEvent_eq]
@[simp] theorem State.sootEvent_flash (code : Nat) (arg : Dword) (part : Option Nat) : (s.sootEvent code arg part).flash = s.flash := by rw [State.sootEvent_eq]
@[simp] theorem State.sootEvent_fuses (code : Nat) (arg : Dword) (part : Option Nat) : (s.sootEvent code arg part).fuses = s.fuses := by rw [State.sootEvent_eq]
@[simp] theorem State.sootEvent_fabric (code : Nat) (arg : Dword) (part : Option Nat) : (s.sootEvent code arg part).fabric = s.fabric := by rw [State.sootEvent_eq]
@[simp] theorem State.sootEvent_tb (code : Nat) (arg : Dword) (part : Option Nat) : (s.sootEvent code arg part).tb = s.tb := by rw [State.sootEvent_eq]
@[simp] theorem State.sootEvent_winLoStaged (code : Nat) (arg : Dword) (part : Option Nat) : (s.sootEvent code arg part).winLoStaged = s.winLoStaged := by rw [State.sootEvent_eq]
@[simp] theorem State.sootEvent_rqStaged (code : Nat) (arg : Dword) (part : Option Nat) : (s.sootEvent code arg part).rqStaged = s.rqStaged := by rw [State.sootEvent_eq]
@[simp] theorem State.sootEvent_parts (code : Nat) (arg : Dword) (part : Option Nat) : (s.sootEvent code arg part).parts = s.parts := by rw [State.sootEvent_eq]
@[simp] theorem State.sootEvent_swap (code : Nat) (arg : Dword) (part : Option Nat) : (s.sootEvent code arg part).swap = s.swap := by rw [State.sootEvent_eq]
@[simp] theorem State.sootEvent_credits (code : Nat) (arg : Dword) (part : Option Nat) : (s.sootEvent code arg part).credits = s.credits := by rw [State.sootEvent_eq]
@[simp] theorem State.sootEvent_rmos (code : Nat) (arg : Dword) (part : Option Nat) : (s.sootEvent code arg part).rmos = s.rmos := by rw [State.sootEvent_eq]
@[simp] theorem State.sootEvent_nextId (code : Nat) (arg : Dword) (part : Option Nat) : (s.sootEvent code arg part).nextId = s.nextId := by rw [State.sootEvent_eq]
@[simp] theorem State.sootEvent_cmds (code : Nat) (arg : Dword) (part : Option Nat) : (s.sootEvent code arg part).cmds = s.cmds := by rw [State.sootEvent_eq]
@[simp] theorem State.sootEvent_rings (code : Nat) (arg : Dword) (part : Option Nat) : (s.sootEvent code arg part).rings = s.rings := by rw [State.sootEvent_eq]
@[simp] theorem State.sootEvent_dsNext (code : Nat) (arg : Dword) (part : Option Nat) : (s.sootEvent code arg part).dsNext = s.dsNext := by rw [State.sootEvent_eq]
@[simp] theorem State.sootEvent_bufs (code : Nat) (arg : Dword) (part : Option Nat) : (s.sootEvent code arg part).bufs = s.bufs := by rw [State.sootEvent_eq]
@[simp] theorem State.sootEvent_poolInit (code : Nat) (arg : Dword) (part : Option Nat) : (s.sootEvent code arg part).poolInit = s.poolInit := by rw [State.sootEvent_eq]
@[simp] theorem State.sootEvent_pcie (code : Nat) (arg : Dword) (part : Option Nat) : (s.sootEvent code arg part).pcie = s.pcie := by rw [State.sootEvent_eq]
@[simp] theorem State.sootEvent_ozmel (code : Nat) (arg : Dword) (part : Option Nat) : (s.sootEvent code arg part).ozmel = s.ozmel := by rw [State.sootEvent_eq]
@[simp] theorem State.sootEvent_options (code : Nat) (arg : Dword) (part : Option Nat) : (s.sootEvent code arg part).options = s.options := by rw [State.sootEvent_eq]
@[simp] theorem State.sootEvent_outs (code : Nat) (arg : Dword) (part : Option Nat) : (s.sootEvent code arg part).outs = s.outs := by rw [State.sootEvent_eq]
@[simp] theorem State.sootEvent_banks (code : Nat) (arg : Dword) (part : Option Nat) : (s.sootEvent code arg part).banks = s.banks := by rw [State.sootEvent_eq]
@[simp] theorem State.sootEvent_ingots (code : Nat) (arg : Dword) (part : Option Nat) : (s.sootEvent code arg part).ingots = s.ingots := by rw [State.sootEvent_eq]
@[simp] theorem State.sootEvent_dram (code : Nat) (arg : Dword) (part : Option Nat) : (s.sootEvent code arg part).dram = s.dram := by rw [State.sootEvent_eq]
@[simp] theorem State.sootEvent_lanterns (code : Nat) (arg : Dword) (part : Option Nat) : (s.sootEvent code arg part).lanterns = s.lanterns := by rw [State.sootEvent_eq]
@[simp] theorem State.sootEvent_counters (code : Nat) (arg : Dword) (part : Option Nat) : (s.sootEvent code arg part).counters = s.counters := by rw [State.sootEvent_eq]
@[simp] theorem State.sootEvent_arbs (code : Nat) (arg : Dword) (part : Option Nat) : (s.sootEvent code arg part).arbs = s.arbs := by rw [State.sootEvent_eq]
@[simp] theorem State.sootEvent_entries (code : Nat) (arg : Dword) (part : Option Nat) : (s.sootEvent code arg part).entries = s.entries := by rw [State.sootEvent_eq]
@[simp] theorem State.sootEvent_decs (code : Nat) (arg : Dword) (part : Option Nat) : (s.sootEvent code arg part).decs = s.decs := by rw [State.sootEvent_eq]
@[simp] theorem State.sootEvent_smelters (code : Nat) (arg : Dword) (part : Option Nat) : (s.sootEvent code arg part).smelters = s.smelters := by rw [State.sootEvent_eq]
@[simp] theorem State.sootEvent_streams (code : Nat) (arg : Dword) (part : Option Nat) : (s.sootEvent code arg part).streams = s.streams := by rw [State.sootEvent_eq]
@[simp] theorem State.sootEvent_quads (code : Nat) (arg : Dword) (part : Option Nat) : (s.sootEvent code arg part).quads = s.quads := by rw [State.sootEvent_eq]
@[simp] theorem State.sootEvent_snaps (code : Nat) (arg : Dword) (part : Option Nat) : (s.sootEvent code arg part).snaps = s.snaps := by rw [State.sootEvent_eq]
@[simp] theorem State.sootEvent_excq (code : Nat) (arg : Dword) (part : Option Nat) : (s.sootEvent code arg part).excq = s.excq := by rw [State.sootEvent_eq]
@[simp] theorem State.sootEvent_nextWait (code : Nat) (arg : Dword) (part : Option Nat) : (s.sootEvent code arg part).nextWait = s.nextWait := by rw [State.sootEvent_eq]
@[simp] theorem State.sootEvent_periph (code : Nat) (arg : Dword) (part : Option Nat) : (s.sootEvent code arg part).periph = s.periph := by rw [State.sootEvent_eq]

@[simp] theorem State.lockViolation_pending (src off : Nat) : (s.lockViolation src off).pending = s.pending := by rw [State.lockViolation_eq]
@[simp] theorem State.lockViolation_mem (src off : Nat) : (s.lockViolation src off).mem = s.mem := by rw [State.lockViolation_eq]
@[simp] theorem State.lockViolation_undef (src off : Nat) : (s.lockViolation src off).undef = s.undef := by rw [State.lockViolation_eq]
@[simp] theorem State.lockViolation_poison (src off : Nat) : (s.lockViolation src off).poison = s.poison := by rw [State.lockViolation_eq]
@[simp] theorem State.lockViolation_host (src off : Nat) : (s.lockViolation src off).host = s.host := by rw [State.lockViolation_eq]
@[simp] theorem State.lockViolation_flash (src off : Nat) : (s.lockViolation src off).flash = s.flash := by rw [State.lockViolation_eq]
@[simp] theorem State.lockViolation_fuses (src off : Nat) : (s.lockViolation src off).fuses = s.fuses := by rw [State.lockViolation_eq]
@[simp] theorem State.lockViolation_fabric (src off : Nat) : (s.lockViolation src off).fabric = s.fabric := by rw [State.lockViolation_eq]
@[simp] theorem State.lockViolation_tb (src off : Nat) : (s.lockViolation src off).tb = s.tb := by rw [State.lockViolation_eq]
@[simp] theorem State.lockViolation_winLoStaged (src off : Nat) : (s.lockViolation src off).winLoStaged = s.winLoStaged := by rw [State.lockViolation_eq]
@[simp] theorem State.lockViolation_rqStaged (src off : Nat) : (s.lockViolation src off).rqStaged = s.rqStaged := by rw [State.lockViolation_eq]
@[simp] theorem State.lockViolation_parts (src off : Nat) : (s.lockViolation src off).parts = s.parts := by rw [State.lockViolation_eq]
@[simp] theorem State.lockViolation_swap (src off : Nat) : (s.lockViolation src off).swap = s.swap := by rw [State.lockViolation_eq]
@[simp] theorem State.lockViolation_credits (src off : Nat) : (s.lockViolation src off).credits = s.credits := by rw [State.lockViolation_eq]
@[simp] theorem State.lockViolation_rmos (src off : Nat) : (s.lockViolation src off).rmos = s.rmos := by rw [State.lockViolation_eq]
@[simp] theorem State.lockViolation_nextId (src off : Nat) : (s.lockViolation src off).nextId = s.nextId := by rw [State.lockViolation_eq]
@[simp] theorem State.lockViolation_cmds (src off : Nat) : (s.lockViolation src off).cmds = s.cmds := by rw [State.lockViolation_eq]
@[simp] theorem State.lockViolation_rings (src off : Nat) : (s.lockViolation src off).rings = s.rings := by rw [State.lockViolation_eq]
@[simp] theorem State.lockViolation_dsNext (src off : Nat) : (s.lockViolation src off).dsNext = s.dsNext := by rw [State.lockViolation_eq]
@[simp] theorem State.lockViolation_bufs (src off : Nat) : (s.lockViolation src off).bufs = s.bufs := by rw [State.lockViolation_eq]
@[simp] theorem State.lockViolation_poolInit (src off : Nat) : (s.lockViolation src off).poolInit = s.poolInit := by rw [State.lockViolation_eq]
@[simp] theorem State.lockViolation_pcie (src off : Nat) : (s.lockViolation src off).pcie = s.pcie := by rw [State.lockViolation_eq]
@[simp] theorem State.lockViolation_ozmel (src off : Nat) : (s.lockViolation src off).ozmel = s.ozmel := by rw [State.lockViolation_eq]
@[simp] theorem State.lockViolation_options (src off : Nat) : (s.lockViolation src off).options = s.options := by rw [State.lockViolation_eq]
@[simp] theorem State.lockViolation_outs (src off : Nat) : (s.lockViolation src off).outs = s.outs := by rw [State.lockViolation_eq]
@[simp] theorem State.lockViolation_banks (src off : Nat) : (s.lockViolation src off).banks = s.banks := by rw [State.lockViolation_eq]
@[simp] theorem State.lockViolation_ingots (src off : Nat) : (s.lockViolation src off).ingots = s.ingots := by rw [State.lockViolation_eq]
@[simp] theorem State.lockViolation_dram (src off : Nat) : (s.lockViolation src off).dram = s.dram := by rw [State.lockViolation_eq]
@[simp] theorem State.lockViolation_lanterns (src off : Nat) : (s.lockViolation src off).lanterns = s.lanterns := by rw [State.lockViolation_eq]
@[simp] theorem State.lockViolation_counters (src off : Nat) : (s.lockViolation src off).counters = s.counters := by rw [State.lockViolation_eq]
@[simp] theorem State.lockViolation_arbs (src off : Nat) : (s.lockViolation src off).arbs = s.arbs := by rw [State.lockViolation_eq]
@[simp] theorem State.lockViolation_entries (src off : Nat) : (s.lockViolation src off).entries = s.entries := by rw [State.lockViolation_eq]
@[simp] theorem State.lockViolation_decs (src off : Nat) : (s.lockViolation src off).decs = s.decs := by rw [State.lockViolation_eq]
@[simp] theorem State.lockViolation_smelters (src off : Nat) : (s.lockViolation src off).smelters = s.smelters := by rw [State.lockViolation_eq]
@[simp] theorem State.lockViolation_streams (src off : Nat) : (s.lockViolation src off).streams = s.streams := by rw [State.lockViolation_eq]
@[simp] theorem State.lockViolation_quads (src off : Nat) : (s.lockViolation src off).quads = s.quads := by rw [State.lockViolation_eq]
@[simp] theorem State.lockViolation_snaps (src off : Nat) : (s.lockViolation src off).snaps = s.snaps := by rw [State.lockViolation_eq]
@[simp] theorem State.lockViolation_excq (src off : Nat) : (s.lockViolation src off).excq = s.excq := by rw [State.lockViolation_eq]
@[simp] theorem State.lockViolation_nextWait (src off : Nat) : (s.lockViolation src off).nextWait = s.nextWait := by rw [State.lockViolation_eq]
@[simp] theorem State.lockViolation_periph (src off : Nat) : (s.lockViolation src off).periph = s.periph := by rw [State.lockViolation_eq]

@[simp] theorem State.ignoredWrite_pending (src off : Nat) : (s.ignoredWrite src off).pending = s.pending := by rw [State.ignoredWrite_eq]
@[simp] theorem State.ignoredWrite_mem (src off : Nat) : (s.ignoredWrite src off).mem = s.mem := by rw [State.ignoredWrite_eq]
@[simp] theorem State.ignoredWrite_undef (src off : Nat) : (s.ignoredWrite src off).undef = s.undef := by rw [State.ignoredWrite_eq]
@[simp] theorem State.ignoredWrite_poison (src off : Nat) : (s.ignoredWrite src off).poison = s.poison := by rw [State.ignoredWrite_eq]
@[simp] theorem State.ignoredWrite_host (src off : Nat) : (s.ignoredWrite src off).host = s.host := by rw [State.ignoredWrite_eq]
@[simp] theorem State.ignoredWrite_flash (src off : Nat) : (s.ignoredWrite src off).flash = s.flash := by rw [State.ignoredWrite_eq]
@[simp] theorem State.ignoredWrite_fuses (src off : Nat) : (s.ignoredWrite src off).fuses = s.fuses := by rw [State.ignoredWrite_eq]
@[simp] theorem State.ignoredWrite_fabric (src off : Nat) : (s.ignoredWrite src off).fabric = s.fabric := by rw [State.ignoredWrite_eq]
@[simp] theorem State.ignoredWrite_tb (src off : Nat) : (s.ignoredWrite src off).tb = s.tb := by rw [State.ignoredWrite_eq]
@[simp] theorem State.ignoredWrite_winLoStaged (src off : Nat) : (s.ignoredWrite src off).winLoStaged = s.winLoStaged := by rw [State.ignoredWrite_eq]
@[simp] theorem State.ignoredWrite_rqStaged (src off : Nat) : (s.ignoredWrite src off).rqStaged = s.rqStaged := by rw [State.ignoredWrite_eq]
@[simp] theorem State.ignoredWrite_parts (src off : Nat) : (s.ignoredWrite src off).parts = s.parts := by rw [State.ignoredWrite_eq]
@[simp] theorem State.ignoredWrite_swap (src off : Nat) : (s.ignoredWrite src off).swap = s.swap := by rw [State.ignoredWrite_eq]
@[simp] theorem State.ignoredWrite_credits (src off : Nat) : (s.ignoredWrite src off).credits = s.credits := by rw [State.ignoredWrite_eq]
@[simp] theorem State.ignoredWrite_rmos (src off : Nat) : (s.ignoredWrite src off).rmos = s.rmos := by rw [State.ignoredWrite_eq]
@[simp] theorem State.ignoredWrite_nextId (src off : Nat) : (s.ignoredWrite src off).nextId = s.nextId := by rw [State.ignoredWrite_eq]
@[simp] theorem State.ignoredWrite_cmds (src off : Nat) : (s.ignoredWrite src off).cmds = s.cmds := by rw [State.ignoredWrite_eq]
@[simp] theorem State.ignoredWrite_rings (src off : Nat) : (s.ignoredWrite src off).rings = s.rings := by rw [State.ignoredWrite_eq]
@[simp] theorem State.ignoredWrite_dsNext (src off : Nat) : (s.ignoredWrite src off).dsNext = s.dsNext := by rw [State.ignoredWrite_eq]
@[simp] theorem State.ignoredWrite_bufs (src off : Nat) : (s.ignoredWrite src off).bufs = s.bufs := by rw [State.ignoredWrite_eq]
@[simp] theorem State.ignoredWrite_poolInit (src off : Nat) : (s.ignoredWrite src off).poolInit = s.poolInit := by rw [State.ignoredWrite_eq]
@[simp] theorem State.ignoredWrite_pcie (src off : Nat) : (s.ignoredWrite src off).pcie = s.pcie := by rw [State.ignoredWrite_eq]
@[simp] theorem State.ignoredWrite_ozmel (src off : Nat) : (s.ignoredWrite src off).ozmel = s.ozmel := by rw [State.ignoredWrite_eq]
@[simp] theorem State.ignoredWrite_options (src off : Nat) : (s.ignoredWrite src off).options = s.options := by rw [State.ignoredWrite_eq]
@[simp] theorem State.ignoredWrite_outs (src off : Nat) : (s.ignoredWrite src off).outs = s.outs := by rw [State.ignoredWrite_eq]
@[simp] theorem State.ignoredWrite_banks (src off : Nat) : (s.ignoredWrite src off).banks = s.banks := by rw [State.ignoredWrite_eq]
@[simp] theorem State.ignoredWrite_ingots (src off : Nat) : (s.ignoredWrite src off).ingots = s.ingots := by rw [State.ignoredWrite_eq]
@[simp] theorem State.ignoredWrite_dram (src off : Nat) : (s.ignoredWrite src off).dram = s.dram := by rw [State.ignoredWrite_eq]
@[simp] theorem State.ignoredWrite_lanterns (src off : Nat) : (s.ignoredWrite src off).lanterns = s.lanterns := by rw [State.ignoredWrite_eq]
@[simp] theorem State.ignoredWrite_counters (src off : Nat) : (s.ignoredWrite src off).counters = s.counters := by rw [State.ignoredWrite_eq]
@[simp] theorem State.ignoredWrite_arbs (src off : Nat) : (s.ignoredWrite src off).arbs = s.arbs := by rw [State.ignoredWrite_eq]
@[simp] theorem State.ignoredWrite_entries (src off : Nat) : (s.ignoredWrite src off).entries = s.entries := by rw [State.ignoredWrite_eq]
@[simp] theorem State.ignoredWrite_decs (src off : Nat) : (s.ignoredWrite src off).decs = s.decs := by rw [State.ignoredWrite_eq]
@[simp] theorem State.ignoredWrite_smelters (src off : Nat) : (s.ignoredWrite src off).smelters = s.smelters := by rw [State.ignoredWrite_eq]
@[simp] theorem State.ignoredWrite_streams (src off : Nat) : (s.ignoredWrite src off).streams = s.streams := by rw [State.ignoredWrite_eq]
@[simp] theorem State.ignoredWrite_quads (src off : Nat) : (s.ignoredWrite src off).quads = s.quads := by rw [State.ignoredWrite_eq]
@[simp] theorem State.ignoredWrite_snaps (src off : Nat) : (s.ignoredWrite src off).snaps = s.snaps := by rw [State.ignoredWrite_eq]
@[simp] theorem State.ignoredWrite_excq (src off : Nat) : (s.ignoredWrite src off).excq = s.excq := by rw [State.ignoredWrite_eq]
@[simp] theorem State.ignoredWrite_nextWait (src off : Nat) : (s.ignoredWrite src off).nextWait = s.nextWait := by rw [State.ignoredWrite_eq]
@[simp] theorem State.ignoredWrite_periph (src off : Nat) : (s.ignoredWrite src off).periph = s.periph := by rw [State.ignoredWrite_eq]

end

end Sys2Proof.Machine
end

