-- ==== Sys2Proof/Laws/Lists.lean ====
section
/-!
SUPPORT. Laws of the list and number helpers of Machine/Ops.lean.
-/

namespace Sys2Proof.Machine

set_option Elab.async false

@[simp] theorem listUpd_length {α : Type} (l : List α) (i : Nat) (f : α → α) : (listUpd l i f).length = l.length := by
  induction l generalizing i with
  | nil => rfl
  | cons a t ih => cases i <;> simp [listUpd, ih]

/-- The element just replaced. -/
theorem listAt_listUpd_same {α : Type} (d : α) (l : List α) (i : Nat) (f : α → α) (h : i < l.length) :
    listAt d (listUpd l i f) i = f (listAt d l i) := by
  induction l generalizing i with
  | nil => simp at h
  | cons a t ih =>
    cases i with
    | zero => rfl
    | succ i =>
      have := ih i (by simpa using h)
      simpa [listAt, listUpd] using this

/-- Every other element. -/
theorem listAt_listUpd_other {α : Type} (d : α) (l : List α) (i j : Nat) (f : α → α) (h : j ≠ i) :
    listAt d (listUpd l i f) j = listAt d l j := by
  induction l generalizing i j with
  | nil => rfl
  | cons a t ih =>
    cases i with
    | zero =>
      cases j with
      | zero => exact absurd rfl h
      | succ j => rfl
    | succ i =>
      cases j with
      | zero => rfl
      | succ j =>
        have := ih i j (by omega)
        simpa [listAt, listUpd] using this

/-- The code of a signed value gives back the word. -/
theorem wrapInt_signedOf (w : Word) : wrapInt 32 (signedOf 32 w.toNat) = w.toNat := by
  have := w.isLt
  simp only [wrapInt, signedOf]
  split <;> omega

end Sys2Proof.Machine
end

