-- ==== Sys2Proof/Laws/Kept.lean ====
section
/-!
SUPPORT. What every operation of the block keeps: the queue of waiting commands, the fuses, the canonical forms of the memories and of
the register file, and the count of free values drawn, which only rises.
-/

namespace Sys2Proof.Machine

set_option Elab.async false

/-- What every operation keeps between the state before and the state after it. -/
structure Kept (s t : State) : Prop where
  pending : t.pending = s.pending
  fuses : t.fuses = s.fuses
  mem : Memory.wf s = true → Memory.wf t = true
  regs : s.regsWf = true → t.regsWf = true
  free : s.freeCtr ≤ t.freeCtr
  tabs : s.TablesOrdered → t.TablesOrdered
  sizes : SizesFixed s.tb s.periph → SizesFixed t.tb t.periph

namespace Kept

theorem refl (s : State) : Kept s s := ⟨rfl, rfl, id, id, Nat.le_refl _, id, id⟩

theorem trans {s t u : State} (h : Kept s t) (g : Kept t u) : Kept s u :=
  ⟨g.pending.trans h.pending, g.fuses.trans h.fuses, g.mem ∘ h.mem, g.regs ∘ h.regs, Nat.le_trans h.free g.free, g.tabs ∘ h.tabs, g.sizes ∘ h.sizes⟩

theorem ordered_map {α : Type} {l : List (Nat × α)} (f : Nat × α → Nat × α) (hf : ∀ e, (f e).1 = e.1) (h : Ordered l) : Ordered (l.map f) := by
  refine List.Pairwise.map f (fun x y hxy => ?_) h
  rw [hf, hf]
  exact hxy

theorem ordered_filter {α : Type} {l : List (Nat × α)} (f : Nat × α → Bool) (h : Ordered l) : Ordered (l.filter f) := List.Pairwise.filter f h

theorem ordered_filterMap {α : Type} {l : List (Nat × α)} (f : Nat × α → Option (Nat × α)) (hf : ∀ e e', f e = some e' → e'.1 = e.1)
    (h : Ordered l) : Ordered (l.filterMap f) := by
  refine List.Pairwise.filterMap f (fun a a' hlt b hb b' hb' => ?_) h
  rw [hf a b hb, hf a' b' hb']
  exact hlt

/-- Fields other than the queue, the registers, the memories, the fuses, the count of free values and the ordered tables may take any
value. -/
theorem upd {s x : State} (h : Kept s x) {poison fabric tb winLoStaged rqStaged swap rmos failedTests nextId cmds dsNext
    poolInit pcie soot ozmel options outs dram counters entries decs streams snaps excq nextWait periph}
    (hs : SizesFixed x.tb x.periph → SizesFixed tb periph := by first | exact fun w => w | (simp [SizesFixed, listUpd_length])) :
    Kept s ⟨x.pending, x.freeCtr, x.regs, x.mem, x.undef, poison, x.host, x.flash, x.fuses, fabric, tb, winLoStaged, rqStaged, x.parts, swap,
      x.credits, rmos, x.localBufs, failedTests, nextId, cmds, x.rings, dsNext, x.bufs, poolInit, pcie, soot, ozmel, options, outs, x.banks, x.ingots, dram, x.lanterns,
      counters, x.arbs, entries, decs, x.smelters, streams, x.quads, snaps, excq, nextWait, periph⟩ :=
  ⟨h.pending, h.fuses, h.mem, h.regs, h.free, h.tabs, fun w => hs (h.sizes w)⟩

/-- The ordered tables too may take any value that is in order. -/
theorem updTabs {s x : State} (h : Kept s x) {poison fabric tb winLoStaged rqStaged parts swap credits rmos failedTests nextId cmds rings dsNext bufs
    poolInit pcie soot ozmel options outs banks ingots dram lanterns counters arbs entries decs smelters streams quads snaps excq nextWait
    periph}
    (ht : x.TablesOrdered → Ordered parts ∧ Ordered rings ∧ Ordered bufs ∧ Ordered credits ∧ Ordered arbs ∧ Ordered banks ∧ Ordered ingots ∧
      Ordered lanterns ∧ Ordered smelters ∧ Ordered quads)
    (hs : SizesFixed x.tb x.periph → SizesFixed tb periph := by first | exact fun w => w | (simp [SizesFixed, listUpd_length])) :
    Kept s ⟨x.pending, x.freeCtr, x.regs, x.mem, x.undef, poison, x.host, x.flash, x.fuses, fabric, tb, winLoStaged, rqStaged, parts, swap,
      credits, rmos, x.localBufs, failedTests, nextId, cmds, rings, dsNext, bufs, poolInit, pcie, soot, ozmel, options, outs, banks, ingots, dram, lanterns, counters,
      arbs, entries, decs, smelters, streams, quads, snaps, excq, nextWait, periph⟩ :=
  ⟨h.pending, h.fuses, h.mem, h.regs, h.free, fun w => ht (h.tabs w), fun w => hs (h.sizes w)⟩

/-- The state of a pair that equals another expression. -/
theorem ofFst {α : Type} {s t : State} {a : α} {p : State × α} (e : p = (t, a)) (h : Kept s p.1) : Kept s t := by
  subst e
  exact h

theorem ofSnd {α : Type} {s t : State} {a : α} {p : α × State} (e : p = (a, t)) (h : Kept s p.2) : Kept s t := by
  subst e
  exact h

theorem ofEmitFst {α : Type} {s : State} {t : Emit} {a : α} {p : Emit × α} (e : p = (t, a)) (h : Kept s p.1.s) : Kept s t.s := by
  subst e
  exact h

/-- Every state that an optional answer holds is kept to. -/
def Opt {α : Type} (s : State) (o : Option (State × α)) : Prop := ∀ x, o = some x → Kept s x.1
def OptS (s : State) (o : Option State) : Prop := ∀ x, o = some x → Kept s x
def Rs (s : State) (o : Res State) : Prop := ∀ x, o = .ok x → Kept s x
/-- The next state of an outcome is kept to. -/
def Out (s : State) (o : Host.Outcome State Fault Refusal) : Prop := ∀ x, o = .next x → Kept s x

theorem optNone {α : Type} (s : State) : Opt (α := α) s none := fun _ h => by cases h
theorem optSome {α : Type} {s : State} {p : State × α} (h : Kept s p.1) : Opt s (some p) := fun _ e => by cases e; exact h
theorem optSNone (s : State) : OptS s none := fun _ h => by cases h
theorem optSSome {s t : State} (h : Kept s t) : OptS s (some t) := fun _ e => by cases e; exact h
theorem rsErr (s : State) (e) : Rs s (.error e) := fun _ h => by cases h
theorem rsOk {s t : State} (h : Kept s t) : Rs s (.ok t) := fun _ e => by cases e; exact h
theorem outFault (s : State) (e) : Out s (.fault e) := fun _ h => by cases h
theorem outRefused (s : State) (e) : Out s (.refused e) := fun _ h => by cases h
theorem outNext {s t : State} (h : Kept s t) : Out s (.next t) := fun _ e => by cases e; exact h

theorem ofSome {α : Type} {s t : State} {a : α} {p : Option (State × α)} (e : p = some (t, a)) (h : Opt s p) : Kept s t := h _ e
theorem ofSomeP {α : Type} {s : State} {a : State × α} {p : Option (State × α)} (e : p = some a) (h : Opt s p) : Kept s a.1 := h _ e
theorem ofSomeS {s t : State} {p : Option State} (e : p = some t) (h : OptS s p) : Kept s t := h _ e
theorem ofOk {s t : State} {p : Res State} (e : p = .ok t) (h : Rs s p) : Kept s t := h _ e

theorem ite {s x y : State} {c : Prop} [Decidable c] (h : Kept s x) (g : Kept s y) : Kept s (if c then x else y) := by
  split
  · exact h
  · exact g

/-- A fold of an operation that keeps. -/
theorem foldl {α : Type} {s x : State} {f : State → α → State} {l : List α} (h : Kept s x) (hf : ∀ t a, Kept s t → Kept s (f t a)) :
    Kept s (l.foldl f x) := by
  induction l generalizing x with
  | nil => exact h
  | cons a t ih => exact ih (hf x a h)

theorem foldlFst {α β : Type} {s : State} {f : State × β → α → State × β} {l : List α} {p : State × β} (h : Kept s p.1)
    (hf : ∀ t a, Kept s t.1 → Kept s (f t a).1) : Kept s (l.foldl f p).1 := by
  induction l generalizing p with
  | nil => exact h
  | cons a t ih => exact ih (hf p a h)

theorem foldlSnd {α β : Type} {s : State} {f : β × State → α → β × State} {l : List α} {p : β × State} (h : Kept s p.2)
    (hf : ∀ t a, Kept s t.2 → Kept s (f t a).2) : Kept s (l.foldl f p).2 := by
  induction l generalizing p with
  | nil => exact h
  | cons a t ih => exact ih (hf p a h)

end Kept

theorem State.regsWf_iff (s : State) : s.regsWf = true ↔ Rising s.regs ∧ ∀ e ∈ s.regs, e.2 ≠ resetWord e.1 := by
  simp [State.regsWf]

/-! ### The primitive writes -/

theorem State.setReg_kept {s x : State} (off : Nat) (w : Word) (h : Kept s x) : Kept s (x.setReg off w) := by
  refine h.trans ⟨rfl, rfl, id, fun hr => ?_, Nat.le_refl _, id, id⟩
  obtain ⟨h1, h2⟩ := x.regsWf_iff.mp hr
  refine (State.regsWf_iff _).mpr ⟨sparseSet_rising _ _ _ _ h1, fun e he => ?_⟩
  rcases sparseSet_mem _ _ _ _ e he with he | ⟨rfl, hw⟩
  · exact h2 e he
  · exact hw

theorem memory_wf_iff (s : State) :
    Memory.wf s = true ↔ memWf s.undef s.mem = true ∧ cellsWf memDefault s.host = true ∧ cellsWf flashDefault s.flash = true ∧
      localsWf s.localBufs = true := by
  simp [Memory.wf, and_assoc]

theorem State.writeMem_kept {s x : State} (da : Nat) (bs : List Byte) (h : Kept s x) : Kept s (x.writeMem da bs) := by
  refine h.trans ?_
  have e1 : (x.clearPoison da bs.length).pending = x.pending := by simp only [State.clearPoison]; split <;> rfl
  have e2 : (x.clearPoison da bs.length).fuses = x.fuses := by simp only [State.clearPoison]; split <;> rfl
  have e3 : (x.clearPoison da bs.length).undef = x.undef := by simp only [State.clearPoison]; split <;> rfl
  have e4 : (x.clearPoison da bs.length).host = x.host := by simp only [State.clearPoison]; split <;> rfl
  have e5 : (x.clearPoison da bs.length).flash = x.flash := by simp only [State.clearPoison]; split <;> rfl
  have e8 : (x.clearPoison da bs.length).localBufs = x.localBufs := by simp only [State.clearPoison]; split <;> rfl
  have e6 : (x.clearPoison da bs.length).regs = x.regs := by simp only [State.clearPoison]; split <;> rfl
  have e7 : (x.clearPoison da bs.length).freeCtr = x.freeCtr := by simp only [State.clearPoison]; split <;> rfl
  refine ⟨e1, e2, fun hm => ?_, fun hr => ?_, Nat.le_of_eq e7.symm, fun w => ?_, fun w => ?_⟩
  · obtain ⟨h1, h2, h3, h4⟩ := (memory_wf_iff x).mp hm
    refine (memory_wf_iff _).mpr ⟨?_, e4.symm ▸ h2, e5.symm ▸ h3, e8.symm ▸ h4⟩
    exact e3.symm ▸ memWrite_wf x.undef x.mem da bs h1
  · simp only [State.regsWf, State.writeMem, e6] at hr ⊢
    exact hr
  · have e : x.clearPoison da bs.length = { x with poison := (x.clearPoison da bs.length).poison } := by
      simp only [State.clearPoison]; split <;> rfl
    unfold State.writeMem
    rw [e]
    exact w
  · have e : x.clearPoison da bs.length = { x with poison := (x.clearPoison da bs.length).poison } := by
      simp only [State.clearPoison]; split <;> rfl
    unfold State.writeMem
    rw [e]
    exact w

theorem State.writeHost_kept {s x : State} (a : Nat) (bs : List Byte) (h : Kept s x) : Kept s (x.writeHost a bs) := by
  refine h.trans ⟨rfl, rfl, fun hm => ?_, id, Nat.le_refl _, id, id⟩
  obtain ⟨h1, h2, h3⟩ := (memory_wf_iff x).mp hm
  exact (memory_wf_iff _).mpr ⟨h1, cellsWrite_wf _ _ a bs h2, h3⟩

theorem State.writeFlash_kept {s x : State} (a : Nat) (bs : List Byte) (h : Kept s x) : Kept s (x.writeFlash a bs) := by
  refine h.trans ⟨rfl, rfl, fun hm => ?_, id, Nat.le_refl _, id, id⟩
  obtain ⟨h1, h2, h3, h4⟩ := (memory_wf_iff x).mp hm
  exact (memory_wf_iff _).mpr ⟨h1, h2, cellsWrite_wf _ _ a bs h3, h4⟩

theorem State.eraseFlash_kept {s x : State} (a n : Nat) (h : Kept s x) : Kept s (x.eraseFlash a n) := by
  refine h.trans ⟨rfl, rfl, fun hm => ?_, id, Nat.le_refl _, id, id⟩
  obtain ⟨h1, h2, h3, h4⟩ := (memory_wf_iff x).mp hm
  exact (memory_wf_iff _).mpr ⟨h1, h2, filter_wf _ _ _ h3, h4⟩

/-- A write of a local buffer. -/
theorem localBufs_kept {s x : State} (i off : Nat) (bs : List Byte) (h : Kept s x) :
    Kept s { x with localBufs := sparseSet [] x.localBufs i (cellsWrite memDefault (sparseGet [] x.localBufs i) off bs) } := by
  refine h.trans ⟨rfl, rfl, fun hm => ?_, id, Nat.le_refl _, id, id⟩
  obtain ⟨h1, h2, h3, h4⟩ := (memory_wf_iff x).mp hm
  refine (memory_wf_iff _).mpr ⟨h1, h2, h3, ?_⟩
  simp only [localsWf, Bool.and_eq_true, decide_eq_true_eq, List.all_eq_true] at h4 ⊢
  obtain ⟨h5, h4⟩ := h4
  refine ⟨sparseSet_rising _ _ _ _ h5, ?_⟩
  have hg : cellsWf memDefault (sparseGet [] x.localBufs i) = true := by
    rcases sparseGet_mem [] x.localBufs i with e | hm
    · rw [e]; rfl
    · exact h4 _ hm
  intro e he
  rcases sparseSet_mem _ _ _ _ e he with he | ⟨rfl, _⟩
  · exact h4 e he
  · exact cellsWrite_wf _ _ off bs hg

theorem State.drawFree_kept {s x : State} (h : Kept s x) : Kept s x.drawFree.2 :=
  h.trans ⟨rfl, rfl, id, id, Nat.le_succ _, id, id⟩

/-- Registers that are dropped leave the rest in canonical form. -/
theorem regs_filterMap_kept {s x : State} (f : Nat × Word → Option (Nat × Word)) (h : Kept s x)
    (hf : ∀ e e', f e = some e' → e'.1 = e.1 ∧ (e.2 ≠ resetWord e.1 → e'.2 ≠ resetWord e'.1)) :
    Kept s { x with regs := x.regs.filterMap f } := by
  refine h.trans ⟨rfl, rfl, id, fun hr => ?_, Nat.le_refl _, id, id⟩
  obtain ⟨h1, h2⟩ := x.regsWf_iff.mp hr
  refine (State.regsWf_iff _).mpr ⟨?_, ?_⟩
  · refine List.Pairwise.filterMap f ?_ h1
    intro a a' hlt b hb b' hb'
    rw [(hf a b hb).1, (hf a' b' hb').1]
    exact hlt
  · intro e he
    obtain ⟨e0, hm, he0⟩ := List.mem_filterMap.mp he
    exact (hf e0 e he0).2 (h2 e0 hm)

/-- A selection of the registers is in canonical form. -/
theorem regs_filter_kept {s x : State} (f : Nat × Word → Bool) (h : Kept s x) : Kept s { x with regs := x.regs.filter f } := by
  refine h.trans ⟨rfl, rfl, id, fun hr => ?_, Nat.le_refl _, id, id⟩
  obtain ⟨h1, h2⟩ := x.regsWf_iff.mp hr
  exact (State.regsWf_iff _).mpr ⟨h1.filter f, fun e he => h2 e (List.mem_of_mem_filter he)⟩

/-! ### The primitive writes of the ordered tables -/

theorem State.setPart_kept {s x : State} (p : Nat) (v : Part) (h : Kept s x) : Kept s (x.setPart p v) :=
  Kept.updTabs h fun ⟨a, b, c, d, e, f, g, h, i, j⟩ => ⟨sparseSet_rising _ _ _ _ a, b, c, d, e, f, g, h, i, j⟩

theorem State.setRing_kept {s x : State} (r : Nat) (v : Ring) (h : Kept s x) : Kept s (x.setRing r v) :=
  Kept.updTabs h fun ⟨a, b, c, d, e, f, g, h, i, j⟩ => ⟨a, sparseSet_rising _ _ _ _ b, c, d, e, f, g, h, i, j⟩

theorem State.setBuf_kept {s x : State} (p i : Nat) (v : PBuf) (h : Kept s x) : Kept s (x.setBuf p i v) :=
  Kept.updTabs h fun ⟨a, b, c, d, e, f, g, h, i, j⟩ => ⟨a, b, sparseSet_rising _ _ _ _ c, d, e, f, g, h, i, j⟩

theorem State.setBank_kept {s x : State} (k : Nat) (v : Bank) (h : Kept s x) : Kept s (x.setBank k v) :=
  Kept.updTabs h fun ⟨a, b, c, d, e, f, g, h, i, j⟩ => ⟨a, b, c, d, e, sparseSet_rising _ _ _ _ f, g, h, i, j⟩

theorem State.setIngotErr_kept {s x : State} (k : Nat) (v : IngotErr) (h : Kept s x) : Kept s (x.setIngotErr k v) :=
  Kept.updTabs h fun ⟨a, b, c, d, e, f, g, h, i, j⟩ => ⟨a, b, c, d, e, f, sparseSet_rising _ _ _ _ g, h, i, j⟩

theorem State.setLantern_kept {s x : State} (k : Nat) (v : Lantern) (h : Kept s x) : Kept s (x.setLantern k v) :=
  Kept.updTabs h fun ⟨a, b, c, d, e, f, g, h, i, j⟩ => ⟨a, b, c, d, e, f, g, sparseSet_rising _ _ _ _ h, i, j⟩

theorem State.setSmelter_kept {s x : State} (k : Nat) (v : Smelter) (h : Kept s x) : Kept s (x.setSmelter k v) :=
  Kept.updTabs h fun ⟨a, b, c, d, e, f, g, h, i, j⟩ => ⟨a, b, c, d, e, f, g, h, sparseSet_rising _ _ _ _ i, j⟩

theorem State.setQuad_kept {s x : State} (k : Nat) (v : Quad) (h : Kept s x) : Kept s (x.setQuad k v) :=
  Kept.updTabs h fun ⟨a, b, c, d, e, f, g, h, i, j⟩ => ⟨a, b, c, d, e, f, g, h, i, sparseSet_rising _ _ _ _ j⟩

theorem State.setArb_kept {s x : State} (k : Nat) (v : Arb) (h : Kept s x) : Kept s (x.setArb k v) :=
  Kept.updTabs h fun ⟨a, b, c, d, e, f, g, h, i, j⟩ => ⟨a, b, c, d, sparseSet_rising _ _ _ _ e, f, g, h, i, j⟩

theorem State.setCredit_kept {s x : State} (u p : Nat) (c : Int) (h : Kept s x) : Kept s (x.setCredit u p c) :=
  Kept.updTabs h fun ⟨a, b, c, d, e, f, g, h, i, j⟩ => ⟨a, b, c, sparseSet_rising _ _ _ _ d, e, f, g, h, i, j⟩

end Sys2Proof.Machine
end

