-- ==== Sys2Proof/Laws/KeptOps.lean ====
section
/-!
SUPPORT. What the operations of Machine/Ops.lean keep (Kept).
-/

namespace Sys2Proof.Machine

set_option simprocs false
set_option Elab.async false

theorem State.setFld_kept {s0 s : State} (off hi : ℕ) (lo v : ℕ) (h : Kept s0 s) :
    Kept s0 (State.setFld s off hi lo v) := by
  unfold State.setFld
  with_reducible repeat' first | assumption | apply State.setReg_kept

theorem State.setFlag_kept {s0 s : State} (off i : ℕ) (b : Bool) (h : Kept s0 s) :
    Kept s0 (State.setFlag s off i b) := by
  unfold State.setFlag
  with_reducible repeat' first | assumption | apply State.setFld_kept

theorem State.bump_kept {s0 s : State} (off hi : ℕ) (lo n : ℕ) (h : Kept s0 s) :
    Kept s0 (State.bump s off hi lo n) := by
  unfold State.bump
  with_reducible repeat' first | assumption | apply State.setFld_kept

theorem State.fresh_kept {s0 s : State} (h : Kept s0 s) :
    Kept s0 (State.fresh s).2 := by
  unfold State.fresh
  with_reducible repeat' first | assumption | dsimp only | split | refine Kept.upd ?_

theorem State.selfTest_kept {s0 s : State} (unit : ℕ) (ok : Bool) (h : Kept s0 s) :
    Kept s0 (State.selfTest s unit ok).1 := by
  unfold State.selfTest
  with_reducible repeat' first | assumption | dsimp only | split | refine Kept.upd ?_

theorem State.setDom_kept {s0 s : State} (d v : ℕ) (h : Kept s0 s) :
    Kept s0 (State.setDom s d v) := by
  unfold State.setDom
  with_reducible repeat' first | assumption | apply State.setFld_kept

theorem State.bumpEpoch_kept {s0 s : State} (d : ℕ) (h : Kept s0 s) :
    Kept s0 (State.bumpEpoch s d) := by
  unfold State.bumpEpoch
  with_reducible repeat' first | assumption | apply State.setFld_kept

theorem State.windowGap_kept {s0 s : State} (d : ℕ) (h : Kept s0 s) :
    Kept s0 (State.windowGap s d) := by
  unfold State.windowGap
  with_reducible repeat' first | assumption | refine Kept.foldl ?_ (fun _ _ _ => ?_) | refine Kept.foldlFst ?_ (fun _ _ _ => ?_) | dsimp only | split | refine Kept.upd ?_

theorem State.setPoison_kept {s0 s : State} (da : ℕ) (h : Kept s0 s) :
    Kept s0 (State.setPoison s da) := by
  unfold State.setPoison
  with_reducible repeat' first | assumption | refine Kept.foldl ?_ (fun _ _ _ => ?_) | refine Kept.foldlFst ?_ (fun _ _ _ => ?_) | dsimp only | split | refine Kept.upd ?_

theorem State.clearPoison_kept {s0 s : State} (da len : ℕ) (h : Kept s0 s) :
    Kept s0 (State.clearPoison s da len) := by
  unfold State.clearPoison
  with_reducible repeat' first | assumption | dsimp only | split | refine Kept.upd ?_

theorem State.writeNat_kept {s0 s : State} (da n v : ℕ) (h : Kept s0 s) :
    Kept s0 (State.writeNat s da n v) := by
  unfold State.writeNat
  with_reducible repeat' first | assumption | apply State.writeMem_kept

theorem State.setFunc_kept {s0 s : State} (f : ℕ) (v : Func) (h : Kept s0 s) :
    Kept s0 (State.setFunc s f v) := by
  unfold State.setFunc
  with_reducible repeat' first | assumption | dsimp only | split | refine Kept.upd ?_

theorem State.setMailbox_kept {s0 s : State} (f : ℕ) (v : Mailbox) (h : Kept s0 s) :
    Kept s0 (State.setMailbox s f v) := by
  unfold State.setMailbox
  with_reducible repeat' first | assumption | dsimp only | split | refine Kept.upd ?_

theorem State.updCmd_kept {s0 s : State} (id : ℕ) (f : Cmd → Cmd) (h : Kept s0 s) :
    Kept s0 (State.updCmd s id f) := by
  unfold State.updCmd
  with_reducible repeat' first | assumption | dsimp only | split | refine Kept.upd ?_

theorem State.endCmd_kept {s0 s : State} (id : ℕ) (st : Status) (d : Word) (h : Kept s0 s) :
    Kept s0 (State.endCmd s id st d) := by
  unfold State.endCmd
  with_reducible repeat' first | assumption | apply State.updCmd_kept

theorem State.msixDue_kept {s0 s : State} (f vec : ℕ) (h : Kept s0 s) :
    Kept s0 (State.msixDue s f vec) := by
  unfold State.msixDue
  with_reducible repeat' first | assumption | apply State.setFunc_kept | refine Kept.ofFst (by assumption) ?_ | dsimp only | split | refine Kept.upd ?_

end Sys2Proof.Machine
end

