-- ==== Sys2Proof/Laws/KeptRegView.lean ====
section
/-!
SUPPORT. What the operations of Machine/RegView.lean keep (Kept).
-/

namespace Sys2Proof.Machine

set_option simprocs false
set_option Elab.async false

theorem State.pfReach_kept {s0 s : State} (off : ℕ) {t : State} (h : Kept s0 s) (h1 : Kept s0 t) :
    Kept s0 (State.pfReach s off t) := by
  unfold State.pfReach
  with_reducible repeat' first | assumption | dsimp only | split

theorem State.pfRead_kept {s0 s : State} (off : ℕ) {t : State} (h : Kept s0 s) (h1 : Kept s0 t) :
    Kept s0 (State.pfRead s off t) := by
  unfold State.pfRead
  with_reducible repeat' first | assumption | dsimp only | split | refine Kept.upd ?_

end Sys2Proof.Machine
end

