-- ==== Sys2Proof/Laws/KeptSoot.lean ====
section
/-!
SUPPORT. What the operations of Machine/Soot.lean keep (Kept).
-/

namespace Sys2Proof.Machine

set_option simprocs false
set_option Elab.async false

theorem State.sootEvent_kept {s0 s : State} (code : ℕ) (arg : Dword) (part : Option ℕ) (h : Kept s0 s) :
    Kept s0 (State.sootEvent s code arg part) := by
  unfold State.sootEvent
  with_reducible repeat' first | assumption | apply Kept.ite | apply State.bump_kept | apply State.drawFree_kept | refine Kept.ofFst (by assumption) ?_ | refine Kept.ofSnd (by assumption) ?_ | dsimp only | split | refine Kept.upd ?_

theorem execSootRecordWrite_kept {s0 s : State} (h : Kept s0 s) :
    Kept.Out s0 (execSootRecordWrite s) := by
  unfold execSootRecordWrite
  with_reducible repeat' first | assumption | apply State.setReg_kept | apply Kept.outFault | apply Kept.outRefused | apply Kept.outNext | dsimp only | split | refine Kept.upd ?_

theorem State.sootLatch_kept {s0 s : State} (h : Kept s0 s) :
    Kept s0 (State.sootLatch s) := by
  unfold State.sootLatch
  with_reducible repeat' first | assumption | dsimp only | split | refine Kept.upd ?_

theorem execSootRdataLatch_kept {s0 s : State} (h : Kept s0 s) :
    Kept.Out s0 (execSootRdataLatch s) := by
  unfold execSootRdataLatch
  with_reducible repeat' first | assumption | apply State.sootLatch_kept | apply State.pfRead_kept | apply Kept.outFault | apply Kept.outRefused | apply Kept.outNext | dsimp only | split | refine Kept.upd ?_

theorem State.lockViolation_kept {s0 s : State} (src off : ℕ) (h : Kept s0 s) :
    Kept s0 (State.lockViolation s src off) := by
  unfold State.lockViolation
  with_reducible repeat' first | assumption | apply State.sootEvent_kept | apply State.setFlag_kept

theorem State.ignoredWrite_kept {s0 s : State} (src off : ℕ) (h : Kept s0 s) :
    Kept s0 (State.ignoredWrite s src off) := by
  unfold State.ignoredWrite
  with_reducible repeat' first | assumption | apply State.sootEvent_kept

theorem State.fieldWrite_kept {s0 s : State} (off : ℕ) (w : Word) (v : Word) (put : State → Word → State) (h : Kept s0 s) (hput : ∀ a b, Kept s0 a → Kept s0 (put a b)) :
    Kept s0 (State.fieldWrite s off w v put) := by
  unfold State.fieldWrite
  with_reducible repeat' first | assumption | apply hput | apply State.lockViolation_kept | dsimp only | split

theorem State.plainWrite_kept {s0 s : State} (off : ℕ) (v : Word) (h : Kept s0 s) :
    Kept s0 (State.plainWrite s off v) := by
  unfold State.plainWrite
  with_reducible repeat' first | assumption | apply State.fieldWrite_kept | apply State.setReg_kept | dsimp only | split | refine Kept.upd ?_ | intro _

end Sys2Proof.Machine
end

