-- ==== Sys2Proof/Laws/KeptMail.lean ====
section
/-!
SUPPORT. What the operations of Machine/Mail.lean keep (Kept).
-/

namespace Sys2Proof.Machine

set_option simprocs false
set_option Elab.async false

theorem State.notify_kept {s0 s : State} (f id : ℕ) (payload : List Byte) (h : Kept s0 s) :
    Kept s0 (State.notify s f id payload) := by
  unfold State.notify
  with_reducible repeat' first | assumption | apply State.setMailbox_kept | dsimp only | split

theorem State.notifyLost_kept {s0 s : State} (f : ℕ) (h : Kept s0 s) :
    Kept s0 (State.notifyLost s f) := by
  unfold State.notifyLost
  with_reducible repeat' first | assumption | apply State.setMailbox_kept | dsimp only | split

theorem State.logEntry_kept {s0 s : State} (code severity : ℕ) (data : List Byte) (repeats : ℕ) (h : Kept s0 s) :
    Kept s0 (State.logEntry s code severity data repeats) := by
  unfold State.logEntry
  with_reducible repeat' first | assumption | apply State.notify_kept | refine Kept.ofFst (by assumption) ?_ | dsimp only | split | refine Kept.upd ?_

theorem State.troubleLog_kept {s0 s : State} (code severity : ℕ) (data : List Byte) (h : Kept s0 s) :
    Kept s0 (State.troubleLog s code severity data) := by
  unfold State.troubleLog
  with_reducible repeat' first | assumption | apply State.logEntry_kept | refine Kept.ofFst (by assumption) ?_ | dsimp only | split | refine Kept.upd ?_

end Sys2Proof.Machine
end

