-- ==== Sys2Proof/Laws/KeptTimebase.lean ====
section
/-!
SUPPORT. What the operations of Machine/Timebase.lean keep (Kept).
-/

namespace Sys2Proof.Machine

set_option simprocs false
set_option Elab.async false

theorem State.updTrig_kept {s0 s : State} (k : ℕ) (f : Trig → Trig) (h : Kept s0 s) :
    Kept s0 (State.updTrig s k f) := by
  unfold State.updTrig
  with_reducible repeat' first | assumption | dsimp only | split | refine Kept.upd ?_

theorem State.trigFire_kept {s0 s : State} (k t : ℕ) (h : Kept s0 s) :
    Kept s0 (State.trigFire s k t) := by
  unfold State.trigFire
  with_reducible repeat' first | assumption | apply State.updTrig_kept | apply State.setFlag_kept | dsimp only | split

theorem State.trigJump_kept {s0 s : State} (k : ℕ) (h : Kept s0 s) :
    Kept s0 (State.trigJump s k) := by
  unfold State.trigJump
  with_reducible repeat' first | assumption | apply State.trigFire_kept | apply State.bump_kept | apply State.updTrig_kept | dsimp only | split

theorem State.trigsJump_kept {s0 s : State} (h : Kept s0 s) :
    Kept s0 (State.trigsJump s) := by
  unfold State.trigsJump
  with_reducible repeat' first | assumption | apply State.trigJump_kept | refine Kept.foldl ?_ (fun _ _ _ => ?_)

theorem State.setCounter_kept {s0 s : State} (total : ℤ) (h : Kept s0 s) :
    Kept s0 (State.setCounter s total) := by
  unfold State.setCounter
  with_reducible repeat' first | assumption | dsimp only | split | refine Kept.upd ?_

theorem State.afterStep_kept {s0 s : State} (d : ℤ) (h : Kept s0 s) :
    Kept s0 (State.afterStep s d) := by
  unfold State.afterStep
  with_reducible repeat' first | assumption | apply State.trigsJump_kept | apply State.sootEvent_kept | apply State.bump_kept | dsimp only | split | refine Kept.upd ?_

theorem State.stepCounter_kept {s0 s : State} (d : ℤ) (h : Kept s0 s) :
    Kept s0 (State.stepCounter s d) := by
  unfold State.stepCounter
  with_reducible repeat' first | assumption | apply State.afterStep_kept | apply State.setCounter_kept

theorem State.trigTick_kept {s0 s : State} (k : ℕ) (h : Kept s0 s) :
    Kept s0 (State.trigTick s k) := by
  unfold State.trigTick
  with_reducible repeat' first | assumption | apply State.updTrig_kept | dsimp only | split

theorem State.applySet_kept {s0 s : State} (h : Kept s0 s) :
    Kept s0 (State.applySet s) := by
  unfold State.applySet
  with_reducible repeat' first | assumption | apply State.afterStep_kept | dsimp only | split | refine Kept.upd ?_

theorem State.applyStep_kept {s0 s : State} (h : Kept s0 s) :
    Kept s0 (State.applyStep s) := by
  unfold State.applyStep
  with_reducible repeat' first | assumption | apply State.stepCounter_kept | dsimp only | split | refine Kept.upd ?_

theorem execTbTick_kept {s0 s : State} (h : Kept s0 s) :
    Kept.Out s0 (execTbTick s) := by
  unfold execTbTick
  with_reducible repeat' first | assumption | apply State.applySet_kept | apply State.setCounter_kept | apply State.trigTick_kept | apply State.applyStep_kept | apply Kept.outFault | apply Kept.outRefused | apply Kept.outNext | refine Kept.foldl ?_ (fun _ _ _ => ?_) | refine Kept.foldlFst ?_ (fun _ _ _ => ?_) | refine Kept.ofFst (by assumption) ?_ | dsimp only | split | refine Kept.upd ?_

theorem State.tbCmdWrite_kept {s0 s : State} (v : Word) (h : Kept s0 s) :
    Kept s0 (State.tbCmdWrite s v) := by
  unfold State.tbCmdWrite
  with_reducible repeat' first | assumption | dsimp only | split | refine Kept.upd ?_

theorem execTbSet_kept {s0 s : State} (h : Kept s0 s) :
    Kept.Out s0 (execTbSet s) := by
  unfold execTbSet
  with_reducible repeat' first | assumption | apply State.pfReach_kept | apply State.tbCmdWrite_kept | apply Kept.outFault | apply Kept.outRefused | apply Kept.outNext

theorem execTbStep_kept {s0 s : State} (h : Kept s0 s) :
    Kept.Out s0 (execTbStep s) := by
  unfold execTbStep
  with_reducible repeat' first | assumption | apply State.pfReach_kept | apply State.tbCmdWrite_kept | apply Kept.outFault | apply Kept.outRefused | apply Kept.outNext

theorem State.tbLatch_kept {s0 s : State} (h : Kept s0 s) :
    Kept s0 (State.tbLatch s) := by
  unfold State.tbLatch
  with_reducible repeat' first | assumption | dsimp only | split | refine Kept.upd ?_

theorem execTbTimeLatch_kept {s0 s : State} (h : Kept s0 s) :
    Kept.Out s0 (execTbTimeLatch s) := by
  unfold execTbTimeLatch
  with_reducible repeat' first | assumption | apply State.tbLatch_kept | apply State.pfRead_kept | apply Kept.outFault | apply Kept.outRefused | apply Kept.outNext | dsimp only | split | refine Kept.upd ?_

theorem State.tbIncrCommit_kept {s0 s : State} (v : Word) (h : Kept s0 s) :
    Kept s0 (State.tbIncrCommit s v) := by
  unfold State.tbIncrCommit
  with_reducible repeat' first | assumption | dsimp only | split | refine Kept.upd ?_

theorem execTbIncrCommit_kept {s0 : State} (v : Word) {s : State} (h : Kept s0 s) :
    Kept.Out s0 (execTbIncrCommit v s) := by
  unfold execTbIncrCommit
  with_reducible repeat' first | assumption | apply State.pfReach_kept | apply State.tbIncrCommit_kept | apply Kept.outFault | apply Kept.outRefused | apply Kept.outNext

theorem State.tbSlewWrite_kept {s0 s : State} (v : Word) (h : Kept s0 s) :
    Kept s0 (State.tbSlewWrite s v) := by
  unfold State.tbSlewWrite
  with_reducible repeat' first | assumption | dsimp only | split | refine Kept.upd ?_

theorem execTbSlewWrite_kept {s0 : State} (v : Word) {s : State} (h : Kept s0 s) :
    Kept.Out s0 (execTbSlewWrite v s) := by
  unfold execTbSlewWrite
  with_reducible repeat' first | assumption | apply State.pfReach_kept | apply State.tbSlewWrite_kept | apply Kept.outFault | apply Kept.outRefused | apply Kept.outNext

theorem State.updRef_kept {s0 s : State} (r : ℕ) (f : TimeRef → TimeRef) (h : Kept s0 s) :
    Kept s0 (State.updRef s r f) := by
  unfold State.updRef
  with_reducible repeat' first | assumption | dsimp only | split | refine Kept.upd ?_

theorem State.refCount_kept {s0 s : State} (r : ℕ) (h : Kept s0 s) :
    Kept s0 (State.refCount s r) := by
  unfold State.refCount
  with_reducible repeat' first | assumption | apply State.sootEvent_kept | apply State.bump_kept

theorem State.refSwitch_kept {s0 s : State} (r : ℕ) (w : Option ℤ) (h : Kept s0 s) :
    Kept s0 (State.refSwitch s r w) := by
  unfold State.refSwitch
  with_reducible repeat' first | assumption | apply State.setFld_kept | apply State.refCount_kept | dsimp only | split | refine Kept.upd ?_

theorem State.refLose_kept {s0 s : State} (r : ℕ) (w : Option ℤ) (h : Kept s0 s) :
    Kept s0 (State.refLose s r w) := by
  unfold State.refLose
  with_reducible repeat' first | assumption | apply State.refSwitch_kept | apply State.refCount_kept | dsimp only | split | refine Kept.upd ?_

theorem State.refPick_kept {s0 s : State} (h : Kept s0 s) :
    Kept s0 (State.refPick s) := by
  unfold State.refPick
  with_reducible repeat' first | assumption | apply State.refSwitch_kept | apply State.setFld_kept | dsimp only | split | refine Kept.upd ?_

theorem State.refFail_kept {s0 s : State} (r : ℕ) (h : Kept s0 s) :
    Kept s0 (State.refFail s r) := by
  unfold State.refFail
  with_reducible repeat' first | assumption | apply State.updRef_kept | apply State.setFld_kept | apply State.setFlag_kept | apply State.refLose_kept | dsimp only | split

theorem execRefFailTimeout_kept {s0 : State} (r : Fin 2) {s : State} (h : Kept s0 s) :
    Kept.Out s0 (execRefFailTimeout r s) := by
  unfold execRefFailTimeout
  with_reducible repeat' first | assumption | apply State.refFail_kept | apply Kept.outFault | apply Kept.outRefused | apply Kept.outNext | dsimp only | split

theorem State.refMeasure_kept {s0 s : State} (r : ℕ) (d : ℤ) (h : Kept s0 s) :
    Kept s0 (State.refMeasure s r d) := by
  unfold State.refMeasure
  split
  · exact h
  · extract_lets was t clearFail inRun0 a0 out run word a1 w0 w1 w2 a2 ins a3 drift a4 a5 p
    have h0 : Kept s0 a0 := by
      simp only [a0]
      split
      · exact State.setFlag_kept _ _ _ h
      · exact h
    have h1 : Kept s0 a1 := State.updRef_kept _ _ h0
    have h3 : Kept s0 a3 := State.setFld_kept _ _ _ _ (State.setReg_kept _ _ h1)
    have h4 : Kept s0 a4 := by
      simp only [a4]
      split
      · exact State.refLose_kept _ _ (State.setFlag_kept _ _ _ h3)
      · exact h3
    have h5 : Kept s0 a5 := by
      simp only [a5]
      split
      · exact State.refPick_kept h4
      · exact h4
    split
    · exact State.refSwitch_kept _ _ h5
    · exact h5

theorem execRefMeasurement_kept {s0 : State} (r : Fin 2) (dev : ℤ) {s : State} (h : Kept s0 s) :
    Kept.Out s0 (execRefMeasurement r dev s) := by
  unfold execRefMeasurement
  with_reducible repeat' first | assumption | apply State.refMeasure_kept | apply Kept.outFault | apply Kept.outRefused | apply Kept.outNext

theorem State.servoAct_kept {s0 s : State} (r : ℕ) (theta : ℤ) (h : Kept s0 s) :
    Kept s0 (State.servoAct s r theta) := by
  unfold State.servoAct
  with_reducible repeat' first | assumption | apply Kept.ite | apply State.stepCounter_kept | dsimp only | split | refine Kept.upd ?_

theorem State.refSample_kept {s0 s : State} (r : ℕ) (theta : Word) (h : Kept s0 s) :
    Kept s0 (State.refSample s r theta) := by
  unfold State.refSample
  with_reducible repeat' first | assumption | apply State.updRef_kept | apply State.setReg_kept | apply State.servoAct_kept | dsimp only | split

theorem State.tbOffsetWrite_kept {s0 s : State} (r : ℕ) (theta : Word) (h : Kept s0 s) :
    Kept s0 (State.tbOffsetWrite s r theta) := by
  unfold State.tbOffsetWrite
  with_reducible repeat' first | assumption | apply State.refSample_kept | dsimp only | split

theorem execOffsetSample_kept {s0 : State} (r : Fin 2) (theta : Word) {s : State} (h : Kept s0 s) :
    Kept.Out s0 (execOffsetSample r theta s) := by
  unfold execOffsetSample
  with_reducible repeat' first | assumption | apply State.pfReach_kept | apply State.tbOffsetWrite_kept | apply Kept.outFault | apply Kept.outRefused | apply Kept.outNext

theorem execPpsEdge_kept {s0 : State} (r : Fin 2) {s : State} (h : Kept s0 s) :
    Kept.Out s0 (execPpsEdge r s) := by
  unfold execPpsEdge
  with_reducible repeat' first | assumption | apply State.refSample_kept | apply Kept.outFault | apply Kept.outRefused | apply Kept.outNext | dsimp only | split

theorem State.refCfgWrite_kept {s0 s : State} (r : ℕ) (v : Word) (h : Kept s0 s) :
    Kept s0 (State.refCfgWrite s r v) := by
  unfold State.refCfgWrite
  with_reducible repeat' first | assumption | apply State.lockViolation_kept | apply State.setReg_kept | apply State.refFail_kept | dsimp only | split

theorem execRefCfgWrite_kept {s0 : State} (r : Fin 2) (v : Word) {s : State} (h : Kept s0 s) :
    Kept.Out s0 (execRefCfgWrite r v s) := by
  unfold execRefCfgWrite
  with_reducible repeat' first | assumption | apply State.pfReach_kept | apply State.refCfgWrite_kept | apply Kept.outFault | apply Kept.outRefused | apply Kept.outNext

theorem State.tbCtrlAfter_kept {s0 s : State} (old : Word) (h : Kept s0 s) :
    Kept s0 (State.tbCtrlAfter s old) := by
  unfold State.tbCtrlAfter
  with_reducible repeat' first | assumption | apply State.refSwitch_kept | apply State.refPick_kept | dsimp only | split | refine Kept.upd ?_

theorem State.trigCfgWrite_kept {s0 s : State} (k : ℕ) (v : Word) (h : Kept s0 s) :
    Kept s0 (State.trigCfgWrite s k v) := by
  unfold State.trigCfgWrite
  with_reducible repeat' first | assumption | apply State.setReg_kept | apply State.updTrig_kept | apply State.setFlag_kept | dsimp only | split

theorem execTrigArm_kept {s0 : State} (k : Fin 8) (v : Word) {s : State} (h : Kept s0 s) :
    Kept.Out s0 (execTrigArm k v s) := by
  unfold execTrigArm
  with_reducible repeat' first | assumption | apply State.pfReach_kept | apply State.trigCfgWrite_kept | apply Kept.outFault | apply Kept.outRefused | apply Kept.outNext

theorem execTriggerFire_kept {s0 : State} (k : Fin 8) {s : State} (h : Kept s0 s) :
    Kept.Out s0 (execTriggerFire k s) := by
  unfold execTriggerFire
  with_reducible repeat' first | assumption | apply State.trigFire_kept | apply Kept.outFault | apply Kept.outRefused | apply Kept.outNext | dsimp only | split

theorem execCaptureEdge_kept {s0 : State} (k : Fin 8) (falling : Bool) {s : State} (h : Kept s0 s) :
    Kept.Out s0 (execCaptureEdge k falling s) := by
  unfold execCaptureEdge
  with_reducible repeat' first | assumption | apply State.sootEvent_kept | apply State.setFlag_kept | apply Kept.outFault | apply Kept.outRefused | apply Kept.outNext | dsimp only | split | refine Kept.upd ?_

theorem State.capPop_kept {s0 s : State} (k : ℕ) (h : Kept s0 s) :
    Kept s0 (State.capPop s k) := by
  unfold State.capPop
  with_reducible repeat' first | assumption | dsimp only | split | refine Kept.upd ?_

theorem execCapPop_kept {s0 : State} (k : Fin 8) {s : State} (h : Kept s0 s) :
    Kept.Out s0 (execCapPop k s) := by
  unfold execCapPop
  with_reducible repeat' first | assumption | apply State.pfReach_kept | apply State.capPop_kept | apply Kept.outFault | apply Kept.outRefused | apply Kept.outNext

theorem execControlCycleInterrupt_kept {s0 s : State} (h : Kept s0 s) :
    Kept.Out s0 (execControlCycleInterrupt s) := by
  unfold execControlCycleInterrupt
  with_reducible repeat' first | assumption | apply Kept.outFault | apply Kept.outRefused | apply Kept.outNext | dsimp only | split | refine Kept.upd ?_

end Sys2Proof.Machine
end

