-- ==== Sys2Proof/Laws/KeptRunCore.lean ====
section
/-!
SUPPORT. What the operations of Machine/RunCore.lean keep (Kept).
-/

namespace Sys2Proof.Machine

set_option simprocs false
set_option Elab.async false

theorem State.updLantern_kept {s0 s : State} (n : ℕ) (f : Lantern → Lantern) (h : Kept s0 s) :
    Kept s0 (State.updLantern s n f) := by
  unfold State.updLantern
  with_reducible repeat' first | assumption | apply State.setLantern_kept

theorem State.updCtx_kept {s0 s : State} (n q : ℕ) (f : SeqCtx → SeqCtx) (h : Kept s0 s) :
    Kept s0 (State.updCtx s n q f) := by
  unfold State.updCtx
  with_reducible repeat' first | assumption | apply State.updLantern_kept

theorem State.mapMoved_kept {s0 s : State} (mask : Word) (h : Kept s0 s) :
    Kept s0 (State.mapMoved s mask) := by
  unfold State.mapMoved
  with_reducible repeat' first | assumption | dsimp only | split | refine Kept.upd ?_

theorem State.runError_kept {s0 s : State} (id : ℕ) (st : Status) (tag : ℕ) (h : Kept s0 s) :
    Kept s0 (State.runError s id st tag) := by
  unfold State.runError
  with_reducible repeat' first | assumption | apply State.updCmd_kept

theorem State.stageDone_kept {s0 s : State} (id : ℕ) (h : Kept s0 s) :
    Kept s0 (State.stageDone s id) := by
  unfold State.stageDone
  with_reducible repeat' first | assumption | apply State.updCmd_kept

theorem State.lnFault_kept {s0 s : State} (n kind : ℕ) (arr dpu k : ℕ) (h : Kept s0 s) :
    Kept s0 (State.lnFault s n kind arr dpu k) := by
  unfold State.lnFault
  with_reducible repeat' first | assumption | apply State.setFld_kept | apply State.bump_kept | dsimp only | split

theorem State.ticketsBack_kept {s0 s : State} (n : ℕ) (h : Kept s0 s) :
    Kept s0 (State.ticketsBack s n) := by
  unfold State.ticketsBack
  with_reducible repeat' first | assumption | dsimp only | split | refine Kept.upd ?_

theorem State.dropLantern_kept {s0 s : State} (n : ℕ) (h : Kept s0 s) :
    Kept s0 (State.dropLantern s n) := by
  unfold State.dropLantern
  with_reducible repeat' first | assumption | apply State.ticketsBack_kept | apply State.runError_kept | apply State.stageDone_kept | refine Kept.foldl ?_ (fun _ _ _ => ?_) | refine Kept.foldlFst ?_ (fun _ _ _ => ?_) | dsimp only | split | refine Kept.updTabs ?_ (fun ⟨a, b, c, d, e, f, g, h, i, j⟩ => ⟨a, b, c, d, e, f, g, sparseSet_rising _ _ _ _ h, i, j⟩)

theorem State.quarantineLantern_kept {s0 s : State} (n : ℕ) (kind : ℕ) (h : Kept s0 s) :
    Kept s0 (State.quarantineLantern s n kind) := by
  unfold State.quarantineLantern
  with_reducible repeat' first | assumption | apply State.dropLantern_kept | apply State.mapMoved_kept | apply State.lnFault_kept | apply State.setFlag_kept | apply State.setDom_kept | apply State.sootEvent_kept | refine Kept.foldl ?_ (fun _ _ _ => ?_) | refine Kept.foldlFst ?_ (fun _ _ _ => ?_) | dsimp only | split

end Sys2Proof.Machine
end

