-- ==== Sys2Proof/Laws/KeptArbiter.lean ====
section
/-!
SUPPORT. What the operations of Machine/Arbiter.lean keep (Kept).
-/

namespace Sys2Proof.Machine

set_option simprocs false
set_option Elab.async false

theorem State.arbRefill_kept {s0 s : State} (u : ℕ) (ready : List ℕ) (n : ℕ) (h : Kept s0 s) :
    Kept s0 (State.arbRefill s u ready n) := by
  unfold State.arbRefill
  with_reducible repeat' first | assumption | apply State.setCredit_kept | refine Kept.foldl ?_ (fun _ _ _ => ?_) | refine Kept.foldlFst ?_ (fun _ _ _ => ?_) | dsimp only | split

theorem State.arbDecide_kept {s0 s : State} (u : ℕ) (ready : List ℕ) (h : Kept s0 s) :
    Kept s0 (State.arbDecide s u ready) := by
  unfold State.arbDecide
  with_reducible repeat' first | assumption | apply State.setArb_kept | apply State.arbRefill_kept | dsimp only | split

theorem State.arbCharge_kept {s0 s : State} (u p : ℕ) (t steps : ℕ) (h : Kept s0 s) :
    Kept s0 (State.arbCharge s u p t steps) := by
  unfold State.arbCharge
  with_reducible repeat' first | assumption | apply State.setCredit_kept | apply State.setPart_kept

theorem State.arbEnd_kept {s0 s : State} (u steps : ℕ) (h : Kept s0 s) :
    Kept s0 (State.arbEnd s u steps) := by
  unfold State.arbEnd
  with_reducible repeat' first | assumption | apply State.setArb_kept | apply State.arbCharge_kept | refine Kept.ofFst (by assumption) ?_ | dsimp only | split

theorem State.arbStart_kept {s0 s : State} (u p : ℕ) (ready : List ℕ) (h : Kept s0 s) :
    Kept s0 (State.arbStart s u p ready).1 := by
  unfold State.arbStart
  with_reducible repeat' first | assumption | apply State.arbEnd_kept | apply State.arbDecide_kept | apply State.setArb_kept | refine Kept.ofFst (by assumption) ?_ | dsimp only | split

end Sys2Proof.Machine
end

