-- ==== Sys2Proof/Laws/KeptRmoCore.lean ====
section
/-!
SUPPORT. What the operations of Machine/RmoCore.lean keep (Kept).
-/

namespace Sys2Proof.Machine

set_option simprocs false
set_option Elab.async false

theorem State.loseShared_kept {s0 s : State} (k : ℕ) (h : Kept s0 s) :
    Kept s0 (State.loseShared s k) := by
  unfold State.loseShared
  with_reducible repeat' first | assumption | dsimp only | split | refine Kept.updTabs ?_ (fun ⟨a, b, c, d, e, f, g, h, i, j⟩ => ⟨Kept.ordered_map _ (fun _ => rfl) a, b, c, d, e, f, g, h, i, j⟩)

theorem State.quarantineBank_kept {s0 s : State} (k : ℕ) (h : Kept s0 s) :
    Kept s0 (State.quarantineBank s k) := by
  unfold State.quarantineBank
  with_reducible repeat' first | assumption | apply State.sootEvent_kept | apply State.loseShared_kept | apply State.setDom_kept | apply State.setBank_kept | dsimp only | split

theorem State.setChan_kept {s0 s : State} (n : ℕ) (c : ℕ) (v : Chan) (h : Kept s0 s) :
    Kept s0 (State.setChan s n c v) := by
  unfold State.setChan
  with_reducible repeat' first | assumption | dsimp only | split | refine Kept.upd ?_ | intro _

theorem State.dramReadyUpdate_kept {s0 s : State} (h : Kept s0 s) :
    Kept s0 (State.dramReadyUpdate s) := by
  unfold State.dramReadyUpdate
  with_reducible repeat' first | assumption | apply State.setFlag_kept | dsimp only | split | refine Kept.upd ?_ | intro _

theorem State.chanFail_kept {s0 s : State} (n : ℕ) (c : ℕ) (h : Kept s0 s) :
    Kept s0 (State.chanFail s n c) := by
  unfold State.chanFail
  with_reducible repeat' first | assumption | apply State.setChan_kept | refine Kept.ofFst (by assumption) ?_ | dsimp only | split | refine Kept.upd ?_ | intro _

theorem State.mcFail_kept {s0 s : State} (n : ℕ) (k : McFailKind) (h : Kept s0 s) :
    Kept s0 (State.mcFail s n k) := by
  unfold State.mcFail
  with_reducible repeat' first | assumption | apply Kept.ite | apply State.setDom_kept | apply State.setFlag_kept | apply State.setReg_kept | apply State.sootEvent_kept | apply State.dramReadyUpdate_kept | apply State.chanFail_kept | refine Kept.foldl ?_ (fun _ _ _ => ?_) | refine Kept.foldlFst ?_ (fun _ _ _ => ?_) | dsimp only | split | refine Kept.upd ?_ | intro _

theorem State.memError_kept {s0 s : State} (da : ℕ) (h : Kept s0 s) :
    Kept s0 (State.memError s da) := by
  unfold State.memError
  with_reducible repeat' first | assumption | apply Kept.ite | apply State.bump_kept | apply State.setReg_kept | apply State.sootEvent_kept | apply State.setIngotErr_kept | apply State.quarantineLantern_kept | apply State.setBank_kept | apply State.quarantineBank_kept | apply State.mcFail_kept | refine Kept.ofFst (by assumption) ?_ | dsimp only | split | refine Kept.upd ?_

theorem State.retest_kept {s0 s : State} (da len : ℕ) (h : Kept s0 s) :
    Kept s0 (State.retest s da len) := by
  unfold State.retest
  with_reducible repeat' first | assumption | dsimp only | split | refine Kept.upd ?_

theorem State.waitErrors_kept {s0 s : State} (rs : List Rmo) (h : Kept s0 s) :
    Kept s0 (State.waitErrors s rs) := by
  unfold State.waitErrors
  with_reducible repeat' first | assumption | apply State.memError_kept | refine Kept.foldl ?_ (fun _ _ _ => ?_) | refine Kept.foldlFst ?_ (fun _ _ _ => ?_) | dsimp only | split | refine Kept.upd ?_ | intro _

theorem State.retestRead_kept {s0 s : State} (da : ℕ) (len : ℕ) (h : Kept s0 s) :
    Kept s0 (State.retestRead s da len) := by
  unfold State.retestRead
  with_reducible repeat' first | assumption | apply State.waitErrors_kept | apply State.retest_kept | dsimp only | split | refine Kept.upd ?_ | intro _

theorem State.cancelBack_kept {s0 s : State} (da : ℕ) (len : ℕ) (h : Kept s0 s) :
    Kept s0 (State.cancelBack s da len) := by
  unfold State.cancelBack
  dsimp only
  refine Kept.ite h (Kept.updTabs h fun ⟨a, b, c, d, e, f, g, h, i, j⟩ =>
    ⟨a, b, c, d, e, Kept.ordered_filterMap _ (fun x y hxy => ?_) f, Kept.ordered_filterMap _ (fun x y hxy => ?_) g, h, i, j⟩) <;>
  · split at hxy
    · cases hxy
    · cases hxy; rfl

theorem State.store_kept {s0 s : State} (da : ℕ) (bs : List Byte) (h : Kept s0 s) :
    Kept s0 (State.store s da bs) := by
  unfold State.store
  with_reducible repeat' first | assumption | apply State.retest_kept | apply State.cancelBack_kept | apply State.writeMem_kept

theorem State.storeUnits_kept {s0 s : State} (zs : ℕ) (zs2 : ℕ) (zs3 : List Byte) (h : Kept s0 s) :
    Kept s0 (State.storeUnits s zs zs2 zs3) := by
  induction zs generalizing s zs2 zs3 with
  | zero =>
    rw [State.storeUnits]
    with_reducible repeat' first | apply ih | assumption | apply State.memError_kept | apply State.store_kept | dsimp only | split | refine Kept.upd ?_ | intro _
  | succ zs ih =>
    rw [State.storeUnits]
    with_reducible repeat' first | apply ih | assumption | apply State.memError_kept | apply State.store_kept | dsimp only | split | refine Kept.upd ?_ | intro _

theorem State.storeNat_kept {s0 s : State} (da n v : ℕ) (h : Kept s0 s) :
    Kept s0 (State.storeNat s da n v) := by
  unfold State.storeNat
  with_reducible repeat' first | assumption | apply State.store_kept

theorem State.noteFault_kept {s0 s : State} (block : ℕ) (part : ℕ) (e : Status × Option ℕ) (h : Kept s0 s) :
    Kept s0 (State.noteFault s block part e) := by
  unfold State.noteFault
  with_reducible repeat' first | assumption | apply State.memError_kept | apply State.sootEvent_kept | refine Kept.ofFst (by assumption) ?_ | dsimp only | split | refine Kept.upd ?_ | intro _

theorem State.poisonCopy_kept {s0 s : State} (dst : ℕ) (h : Kept s0 s) :
    Kept s0 (State.poisonCopy s dst) := by
  unfold State.poisonCopy
  with_reducible repeat' first | assumption | apply State.drawFree_kept | apply State.store_kept | apply State.retestRead_kept | apply State.setPoison_kept | refine Kept.ofFst (by assumption) ?_ | refine Kept.ofSnd (by assumption) ?_ | dsimp only | split

theorem State.copyWords_kept {s0 s : State} (src : ℕ) (dst : ℕ) (st : Status) (bad : List ℕ) (zs : ℕ) (h : Kept s0 s) :
    Kept s0 (State.copyWords s src dst st bad zs).1 := by
  induction zs generalizing s src dst st bad with
  | zero =>
    rw [State.copyWords]
    with_reducible repeat' first | apply ih | assumption
  | succ zs ih =>
    rw [State.copyWords]
    with_reducible repeat' first | apply ih | assumption | apply State.memError_kept | apply State.store_kept | apply State.poisonCopy_kept | refine Kept.ofFst (by assumption) ?_ | dsimp only | split

theorem State.clearRow_kept {s0 s : State} (da : ℕ) (len : ℕ) (bad : List ℕ) (h : Kept s0 s) :
    Kept s0 (State.clearRow s da len bad) := by
  unfold State.clearRow
  with_reducible repeat' first | assumption | dsimp only | split | refine Kept.upd ?_ | intro _

theorem State.rowStart_kept {s0 s : State} (dst : ℕ) (len : ℕ) (st : Status) (h : Kept s0 s) :
    Kept s0 (State.rowStart s dst len st).1 := by
  unfold State.rowStart
  with_reducible repeat' first | assumption | apply State.memError_kept | refine Kept.ofFst (by assumption) ?_ | dsimp only | split | refine Kept.upd ?_ | intro _

theorem State.copyRow_kept {s0 s : State} (src : ℕ) (dst : ℕ) (n : ℕ) (st : Status) (h : Kept s0 s) :
    Kept s0 (State.copyRow s src dst n st).1 := by
  unfold State.copyRow
  with_reducible repeat' first | assumption | apply State.rowStart_kept | apply State.copyWords_kept | apply State.clearRow_kept

theorem State.copyRows_kept {s0 s : State} (src : ℕ) (dst : ℕ) (len : ℕ) (ss : ℕ) (ds : ℕ) (st : Status) (zs : ℕ) (h : Kept s0 s) :
    Kept s0 (State.copyRows s src dst len ss ds st zs).1 := by
  induction zs generalizing s src dst len ss ds st with
  | zero =>
    rw [State.copyRows]
    with_reducible repeat' first | apply ih | assumption
  | succ zs ih =>
    rw [State.copyRows]
    with_reducible repeat' first | apply ih | assumption | apply State.copyRow_kept | refine Kept.ofFst (by assumption) ?_ | dsimp only | split

theorem State.fillWords_kept {s0 s : State} (dst : ℕ) (pat : List Byte) (st : Status) (zs : ℕ) (h : Kept s0 s) :
    Kept s0 (State.fillWords s dst pat st zs).1 := by
  induction zs generalizing s dst pat st with
  | zero =>
    rw [State.fillWords]
    with_reducible repeat' first | apply ih | assumption
  | succ zs ih =>
    rw [State.fillWords]
    with_reducible repeat' first | apply ih | assumption | apply State.store_kept | refine Kept.ofFst (by assumption) ?_ | dsimp only | split

theorem State.fillRow_kept {s0 s : State} (dst : ℕ) (n : ℕ) (pat : List Byte) (st : Status) (h : Kept s0 s) :
    Kept s0 (State.fillRow s dst n pat st).1 := by
  unfold State.fillRow
  with_reducible repeat' first | assumption | apply State.rowStart_kept | apply State.fillWords_kept | apply State.clearRow_kept

theorem State.fillRows_kept {s0 s : State} (dst : ℕ) (len : ℕ) (ds : ℕ) (pat : List Byte) (st : Status) (zs : ℕ) (h : Kept s0 s) :
    Kept s0 (State.fillRows s dst len ds pat st zs).1 := by
  induction zs generalizing s dst len ds pat st with
  | zero =>
    rw [State.fillRows]
    with_reducible repeat' first | apply ih | assumption
  | succ zs ih =>
    rw [State.fillRows]
    with_reducible repeat' first | apply ih | assumption | apply State.fillRow_kept | refine Kept.ofFst (by assumption) ?_ | dsimp only | split

theorem State.setLocal_kept {s0 s : State} (i : ℕ) (off : ℕ) (bs : List Byte) (h : Kept s0 s) :
    Kept s0 (State.setLocal s i off bs) := localBufs_kept i off bs h

theorem State.takeWords_kept {s0 s : State} (put : State → ℕ → List Byte → State) (src : ℕ) (off : ℕ) (st : Status) (bad : List ℕ) (zs : ℕ) (h : Kept s0 s) (hput : ∀ a b c, Kept s0 a → Kept s0 (put a b c)) :
    Kept s0 (State.takeWords s put src off st bad zs).1 := by
  induction zs generalizing s src off st bad with
  | zero =>
    rw [State.takeWords]
    with_reducible repeat' first | apply ih | assumption | apply hput | apply State.drawFree_kept | apply State.memError_kept | refine Kept.ofFst (by assumption) ?_ | refine Kept.ofSnd (by assumption) ?_ | dsimp only | split | refine Kept.upd ?_ | intro _
  | succ zs ih =>
    rw [State.takeWords]
    with_reducible repeat' first | apply ih | assumption | apply hput | apply State.drawFree_kept | apply State.memError_kept | refine Kept.ofFst (by assumption) ?_ | refine Kept.ofSnd (by assumption) ?_ | dsimp only | split | refine Kept.upd ?_ | intro _

theorem State.takeRows_kept {s0 s : State} (put : State → ℕ → List Byte → State) (src : ℕ) (off : ℕ) (len : ℕ) (ss : ℕ) (ds : ℕ) (st : Status) (zs : ℕ) (h : Kept s0 s) (hput : ∀ a b c, Kept s0 a → Kept s0 (put a b c)) :
    Kept s0 (State.takeRows s put src off len ss ds st zs).1 := by
  induction zs generalizing s src off len ss ds st with
  | zero =>
    rw [State.takeRows]
    with_reducible repeat' first | apply ih | assumption | apply hput | apply State.takeWords_kept | refine Kept.ofFst (by assumption) ?_ | dsimp only | split | refine Kept.upd ?_ | intro _
  | succ zs ih =>
    rw [State.takeRows]
    with_reducible repeat' first | apply ih | assumption | apply hput | apply State.takeWords_kept | refine Kept.ofFst (by assumption) ?_ | dsimp only | split | refine Kept.upd ?_ | intro _

theorem State.wordAccess_kept {s0 s : State} (da n : ℕ) (h : Kept s0 s) :
    Kept s0 (State.wordAccess s da n).1 := by
  unfold State.wordAccess
  with_reducible repeat' first | assumption | apply State.memError_kept | refine Kept.ofFst (by assumption) ?_ | dsimp only | split

theorem State.returnOld_kept {s0 s : State} (r : RmoReq) (db : ℕ) (old : Dword) (h : Kept s0 s) :
    Kept s0 (State.returnOld s r db old) := by
  unfold State.returnOld
  with_reducible repeat' first | assumption | apply State.storeNat_kept | dsimp only | split

end Sys2Proof.Machine
end

