-- ==== Sys2Proof/Laws/KeptLantern.lean ====
section
/-!
SUPPORT. What the operations of Machine/Lantern.lean keep (Kept).
-/

namespace Sys2Proof.Machine

set_option simprocs false
set_option Elab.async false

theorem State.updArr_kept {s0 s : State} (n a : ℕ) (f : Arr → Arr) (h : Kept s0 s) :
    Kept s0 (State.updArr s n a f) := by
  unfold State.updArr
  with_reducible repeat' first | assumption | apply State.updLantern_kept

theorem State.setHeld_kept {s0 s : State} (n i : ℕ) (h3 : Held) (h : Kept s0 s) :
    Kept s0 (State.setHeld s n i h3) := by
  unfold State.setHeld
  with_reducible repeat' first | assumption | apply State.updLantern_kept

theorem State.updDesc_kept {s0 s : State} (n q seq : ℕ) (f : Desc → Desc) (h : Kept s0 s) :
    Kept s0 (State.updDesc s n q seq f) := by
  unfold State.updDesc
  with_reducible repeat' first | assumption | apply State.updCtx_kept

theorem State.setClip_kept {s0 s : State} (n q slot : ℕ) (v : ℕ × ℕ) (h : Kept s0 s) :
    Kept s0 (State.setClip s n q slot v) := by
  unfold State.setClip
  with_reducible repeat' first | assumption | apply State.updLantern_kept

theorem State.wr_kept {s0 s : State} (p pda : ℕ) (bs : List Byte) (h : Kept s0 s) :
    Kept.Rs s0 (State.wr s p pda bs) := by
  unfold State.wr
  with_reducible repeat' first | assumption | apply State.store_kept | apply Kept.rsErr | apply Kept.rsOk | refine Kept.ofFst (by assumption) ?_ | dsimp only | split

theorem State.seqError_kept {s0 s : State} (n q : ℕ) (st : Status) (ty tag : ℕ) (stop : Bool) (h : Kept s0 s) :
    Kept s0 (State.seqError s n q st ty tag stop) := by
  unfold State.seqError
  with_reducible repeat' first | assumption | apply State.updCtx_kept | apply State.runError_kept | dsimp only | split

theorem State.finishCtx_kept {s0 s : State} (n q : ℕ) (h : Kept s0 s) :
    Kept s0 (State.finishCtx s n q) := by
  unfold State.finishCtx
  with_reducible repeat' first | assumption | apply State.updCtx_kept | apply State.stageDone_kept | dsimp only | split

theorem State.descDone_kept {s0 s : State} (n q seq : ℕ) (st : Status) (h : Kept s0 s) :
    Kept s0 (State.descDone s n q seq st) := by
  unfold State.descDone
  with_reducible repeat' first | assumption | apply State.updDesc_kept

theorem State.descFail_kept {s0 s : State} (n : ℕ) (q : ℕ) (seq : ℕ) (e : Status × Option ℕ) (h : Kept s0 s) :
    Kept s0 (State.descFail s n q seq e) := by
  unfold State.descFail
  with_reducible repeat' first | assumption | apply State.descDone_kept | apply State.noteFault_kept

theorem State.onDesc_kept {s0 s : State} (n q ty : ℕ) (f : Desc → State → State) (h : Kept s0 s) (hf : ∀ a b, Kept s0 b → Kept s0 (f a b)) :
    Kept s0 (State.onDesc s n q ty f) := by
  unfold State.onDesc
  with_reducible repeat' first | assumption | apply hf | dsimp only | split

theorem State.loadHeld_kept {s0 s : State} (n p i : ℕ) (r : LoadRec) (h : Kept s0 s) :
    Kept.Rs s0 (State.loadHeld s n p i r) := by
  unfold State.loadHeld
  with_reducible repeat' first | assumption | apply State.setHeld_kept | apply Kept.rsErr | apply Kept.rsOk | refine Kept.ofFst (by assumption) ?_ | dsimp only | split

theorem State.ensureHeld_kept {s0 s : State} (n q i : ℕ) (h : Kept s0 s) :
    Kept.Rs s0 (State.ensureHeld s n q i) := by
  unfold State.ensureHeld
  with_reducible repeat' first | assumption | apply State.loadHeld_kept | refine Kept.ofOk (by assumption) ?_ | apply Kept.rsErr | apply Kept.rsOk | dsimp only | split

theorem State.ensureAll_kept {s0 s : State} (n q : ℕ) (zs : List ℕ) (h : Kept s0 s) :
    Kept.Rs s0 (State.ensureAll s n q zs) := by
  induction zs generalizing s n q with
  | nil =>
    rw [State.ensureAll]
    with_reducible repeat' first | apply ih | assumption | apply State.ensureHeld_kept | refine Kept.ofOk (by assumption) ?_ | apply Kept.rsErr | apply Kept.rsOk
  | cons z zs ih =>
    rw [State.ensureAll]
    with_reducible repeat' first | apply ih | assumption | apply State.ensureHeld_kept | refine Kept.ofOk (by assumption) ?_ | apply Kept.rsErr | apply Kept.rsOk | dsimp only | split

end Sys2Proof.Machine
end

