-- ==== Sys2Proof/Laws/KeptOutWriter.lean ====
section
/-!
SUPPORT. What the operations of Machine/OutWriter.lean keep (Kept).
-/

namespace Sys2Proof.Machine

set_option simprocs false
set_option Elab.async false

theorem State.wrElem_kept {s0 s : State} (p pda : ℕ) (code i raw : ℕ) (h : Kept s0 s) :
    Kept.Rs s0 (State.wrElem s p pda code i raw) := by
  unfold State.wrElem
  with_reducible repeat' first | assumption | apply State.wr_kept | refine Kept.ofOk (by assumption) ?_ | apply Kept.rsErr | apply Kept.rsOk | dsimp only | split

theorem State.padRow_kept {s0 s : State} (v : OutEnv) (a row : ℕ) (zero zs zs6 : ℕ) (h : Kept s0 s) :
    Kept.Rs s0 (State.padRow s v a row zero zs zs6) := by
  induction zs generalizing s v a row zero zs6 with
  | zero =>
    rw [State.padRow]
    with_reducible repeat' first | apply ih | assumption | apply State.wrElem_kept | refine Kept.ofOk (by assumption) ?_ | apply Kept.rsErr | apply Kept.rsOk
  | succ zs ih =>
    rw [State.padRow]
    with_reducible repeat' first | apply ih | assumption | apply State.wrElem_kept | refine Kept.ofOk (by assumption) ?_ | apply Kept.rsErr | apply Kept.rsOk | dsimp only | split

theorem State.outWrite_kept {s0 s : State} (v : OutEnv) (e : Elem) (raw : ℕ) (h : Kept s0 s) :
    Kept.Rs s0 (State.outWrite s v e raw) := by
  unfold State.outWrite
  with_reducible repeat' first | assumption | apply State.wrElem_kept | refine Kept.ofOk (by assumption) ?_ | apply State.padRow_kept | apply Kept.rsErr | apply Kept.rsOk | dsimp only | split

theorem State.outCount_kept {s0 s : State} (v : OutEnv) (clipped : Bool) (h : Kept s0 s) :
    Kept s0 (State.outCount s v clipped) := by
  unfold State.outCount
  with_reducible repeat' first | assumption | apply State.setClip_kept

theorem emitPlain_kept {s0 : State} (v : OutEnv) (zs : List Elem) {zs2 : Emit} (h : Kept s0 zs2.s) :
    Kept s0 (emitPlain v zs zs2).s := by
  induction zs generalizing v zs2 with
  | nil =>
    rw [emitPlain]
    with_reducible repeat' first | apply ih | assumption
  | cons z zs ih =>
    rw [emitPlain]
    with_reducible repeat' first | apply ih | assumption | apply State.outWrite_kept | refine Kept.ofOk (by assumption) ?_ | apply State.outCount_kept | apply Kept.rsErr | apply Kept.rsOk | dsimp only | split

theorem emitCodes_kept {s0 : State} (v : OutEnv) (zs : List Elem) {zs2 : Emit} (zs3 : List (ℕ × ℕ)) (h : Kept s0 zs2.s) :
    Kept s0 (emitCodes v zs zs2 zs3).1.s := by
  induction zs generalizing v zs2 zs3 with
  | nil =>
    rw [emitCodes]
    with_reducible repeat' first | apply ih | assumption
  | cons z zs ih =>
    rw [emitCodes]
    with_reducible repeat' first | apply ih | assumption | apply State.outCount_kept | refine Kept.ofFst (by assumption) ?_ | dsimp only | split

theorem amgWrite_kept {s0 : State} (v : OutEnv) (codes : List (ℕ × ℕ)) (zs : List ℕ) {zs3 : Emit} (h : Kept s0 zs3.s) :
    Kept s0 (amgWrite v codes zs zs3).s := by
  induction zs generalizing v codes zs3 with
  | nil =>
    rw [amgWrite]
    with_reducible repeat' first | apply ih | assumption
  | cons z zs ih =>
    rw [amgWrite]
    with_reducible repeat' first | apply ih | assumption | apply State.wr_kept | refine Kept.ofOk (by assumption) ?_ | apply Kept.rsErr | apply Kept.rsOk | dsimp only | split

theorem emitElems_kept {s0 : State} (v : OutEnv) (es : List Elem) {s : State} (h : Kept s0 s) :
    Kept s0 (emitElems v es s).s := by
  unfold emitElems
  with_reducible repeat' first | assumption | apply emitPlain_kept | apply emitCodes_kept | apply amgWrite_kept | refine Kept.ofEmitFst (by assumption) ?_ | dsimp only | split

theorem State.digWrite_kept {s0 s : State} (p : ℕ) (o : Cap) (i d : ℕ) (h : Kept s0 s) :
    Kept.Rs s0 (State.digWrite s p o i d) := by
  unfold State.digWrite
  with_reducible repeat' first | assumption | apply State.wr_kept | refine Kept.ofOk (by assumption) ?_ | apply Kept.rsErr | apply Kept.rsOk | dsimp only | split

theorem State.syncSet_kept {s0 s : State} (p : ℕ) (c : Cap) (off : ℕ) (v : ℕ) (h : Kept s0 s) :
    Kept.Rs s0 (State.syncSet s p c off v) := by
  unfold State.syncSet
  with_reducible repeat' first | assumption | apply State.wordAccess_kept | apply State.storeNat_kept | apply Kept.rsErr | apply Kept.rsOk | refine Kept.ofFst (by assumption) ?_ | dsimp only | split

theorem State.syncDone_kept {s0 s : State} (p : ℕ) (c : Cap) (g : RowGeo) (a : ℕ) (zs : ℕ) (h : Kept s0 s) :
    Kept.Rs s0 (State.syncDone s p c g a zs) := by
  induction zs generalizing s p c g a with
  | zero =>
    rw [State.syncDone]
    with_reducible repeat' first | apply ih | assumption | apply State.syncSet_kept | refine Kept.ofOk (by assumption) ?_ | apply Kept.rsErr | apply Kept.rsOk
  | succ zs ih =>
    rw [State.syncDone]
    with_reducible repeat' first | apply ih | assumption | apply State.syncSet_kept | refine Kept.ofOk (by assumption) ?_ | apply Kept.rsErr | apply Kept.rsOk | dsimp only | split

theorem State.syncAfter_kept {s0 s : State} (p : ℕ) (c : Cap) (g : RowGeo) (a : ℕ) (b : ℕ) (h : Kept s0 s) :
    Kept.Rs s0 (State.syncAfter s p c g a b) := by
  unfold State.syncAfter
  with_reducible repeat' first | assumption | apply State.syncDone_kept | refine Kept.ofOk (by assumption) ?_ | apply State.syncSet_kept | apply Kept.rsErr | apply Kept.rsOk | dsimp only | split

theorem State.syncWait_kept {s0 s : State} (n q : ℕ) (d : Desc) (p da : ℕ) (val timeout : ℕ) (h : Kept s0 s) :
    Kept s0 (State.syncWait s n q d p da val timeout) := by
  unfold State.syncWait
  with_reducible repeat' first | assumption | apply State.fresh_kept | apply State.updDesc_kept | refine Kept.ofFst (by assumption) ?_ | refine Kept.ofSnd (by assumption) ?_ | dsimp only | split | refine Kept.upd ?_

theorem State.syncTry_kept {s0 s : State} (n : ℕ) (q : ℕ) (d : Desc) (p : ℕ) (c : Cap) (g : RowGeo) (writes : Bool) (y : ℕ) (h : Kept s0 s) :
    Kept s0 (State.syncTry s n q d p c g writes y).1 := by
  unfold State.syncTry
  with_reducible repeat' first | assumption | apply State.syncWait_kept | apply State.descFail_kept | refine Kept.ofFst (by assumption) ?_ | dsimp only | split

theorem State.syncGate_kept {s0 s : State} (n : ℕ) (q : ℕ) (d : Desc) (p : ℕ) (g : RowGeo) (writes : Bool) (y : ℕ) (h : Kept s0 s) :
    Kept s0 (State.syncGate s n q d p g writes y).1 := by
  unfold State.syncGate
  with_reducible repeat' first | assumption | apply State.syncTry_kept | apply State.updDesc_kept | apply State.descDone_kept | refine Kept.ofFst (by assumption) ?_ | dsimp only | split | refine Kept.upd ?_

end Sys2Proof.Machine
end

