-- ==== Sys2Proof/Laws/KeptMma.lean ====
section
/-!
SUPPORT. What the operations of Machine/Mma.lean keep (Kept).
-/

namespace Sys2Proof.Machine

set_option simprocs false
set_option Elab.async false

theorem State.psumWr_kept {s0 s : State} (p : ℕ) (c : Cap) (a m n : ℕ) (x : Acc32) (h : Kept s0 s) :
    Kept.Rs s0 (State.psumWr s p c a m n x) := by
  unfold State.psumWr
  with_reducible repeat' first | assumption | apply State.wr_kept | refine Kept.ofOk (by assumption) ?_ | apply Kept.rsErr | apply Kept.rsOk | dsimp only | split

theorem foldRes_kept {s0 : State} {α : Type} (f : State → α → Res State) (zs : List α) {zs3 : State} (h : Kept s0 zs3) (hf : ∀ a b, Kept s0 a → Kept.Rs s0 (f a b)) :
    Kept s0 (foldRes f zs zs3).1 := by
  induction zs generalizing zs3 with
  | nil =>
    rw [foldRes]
    with_reducible repeat' first | apply ih | assumption
  | cons z zs ih =>
    rw [foldRes]
    with_reducible repeat' first | apply ih | assumption | apply hf | refine Kept.ofFst (by assumption) ?_ | apply Kept.rsErr | apply Kept.rsOk | refine Kept.ofOk (by assumption) ?_ | dsimp only | split

theorem State.atomicAdd_kept {s0 s : State} (v : OutEnv) (e : Elem) (h : Kept s0 s) :
    Kept.Rs s0 (State.atomicAdd s v e) := by
  unfold State.atomicAdd
  with_reducible repeat' first | assumption | apply State.wordAccess_kept | apply State.storeNat_kept | apply Kept.rsErr | apply Kept.rsOk | refine Kept.ofFst (by assumption) ?_ | dsimp only | split

theorem State.psumTile_kept {s0 s : State} (p : ℕ) (c : Cap) (u : MmaUnit) (t : TileBox) (as : List Acc32) (h : Kept s0 s) :
    Kept s0 (State.psumTile s p c u t as).1 := by
  unfold State.psumTile
  with_reducible repeat' first | assumption | apply foldRes_kept | apply State.psumWr_kept | refine Kept.ofOk (by assumption) ?_ | apply Kept.rsErr | apply Kept.rsOk | refine Kept.ofFst (by assumption) ?_ | dsimp only | split | refine Kept.upd ?_ | intro _

theorem State.tileDrain_kept {s0 s : State} (n : ℕ) (q : ℕ) (p : ℕ) (d : Desc) (u : MmaUnit) (t : TileBox) (as : List Acc32) (h : Kept s0 s) :
    Kept s0 (State.tileDrain s n q p d u t as).s := by
  unfold State.tileDrain
  with_reducible repeat' first | assumption | apply emitElems_kept | apply State.psumTile_kept | refine Kept.ofFst (by assumption) ?_ | dsimp only | split

theorem State.stageRows_kept {s0 s : State} (p : ℕ) (d : Desc) (half : ℕ) (r0 : ℕ) (zs : List ℕ) (h : Kept s0 s) :
    Kept.Rs s0 (State.stageRows s p d half r0 zs) := by
  induction zs generalizing s p d half r0 with
  | nil =>
    rw [State.stageRows]
    with_reducible repeat' first | apply ih | assumption | apply State.wr_kept | refine Kept.ofOk (by assumption) ?_ | apply Kept.rsErr | apply Kept.rsOk
  | cons z zs ih =>
    rw [State.stageRows]
    with_reducible repeat' first | apply ih | assumption | apply State.wr_kept | refine Kept.ofOk (by assumption) ?_ | apply Kept.rsErr | apply Kept.rsOk | dsimp only | split

theorem State.mmaDigests_kept {s0 s : State} (p : ℕ) (d : Desc) (u : MmaUnit) (codes : List (ℕ × ℕ × ℕ)) (h : Kept s0 s) :
    Kept s0 (State.mmaDigests s p d u codes).1 := by
  unfold State.mmaDigests
  with_reducible repeat' first | assumption | apply foldRes_kept | apply State.digWrite_kept | refine Kept.ofOk (by assumption) ?_ | apply Kept.rsErr | apply Kept.rsOk | refine Kept.ofFst (by assumption) ?_ | dsimp only | split | refine Kept.upd ?_ | intro _

theorem State.descBegin_kept {s0 s : State} (n q : ℕ) (d : Desc) (h : Kept s0 s) :
    Kept s0 (State.descBegin s n q d) := by
  unfold State.descBegin
  with_reducible repeat' first | assumption | apply State.updDesc_kept | apply State.setClip_kept | refine Kept.ofFst (by assumption) ?_ | dsimp only | split

theorem State.ticketDone_kept {s0 s : State} (d : Desc) (t : ℕ) (h : Kept s0 s) :
    Kept s0 (State.ticketDone s d t) := by
  unfold State.ticketDone
  with_reducible repeat' first | assumption | dsimp only | split | refine Kept.upd ?_

theorem State.holdPass_kept {s0 s : State} (n : ℕ) (p : ℕ) (d : Desc) (a : ℕ) (m0 : ℕ) (w : WBuf) (h : Kept s0 s) :
    Kept s0 (State.holdPass s n p d a m0 w) := by
  unfold State.holdPass
  with_reducible repeat' first | assumption | apply State.updArr_kept

theorem State.mmaBegin_kept {s0 s : State} (n : ℕ) (q : ℕ) (d : Desc) (h : Kept s0 s) :
    Kept s0 (State.mmaBegin s n q d) := by
  unfold State.mmaBegin
  with_reducible repeat' first | assumption | apply State.descFail_kept | apply State.descBegin_kept | apply State.updDesc_kept | refine Kept.ofFst (by assumption) ?_ | dsimp only | split

theorem State.holdTile_kept {s0 s : State} (n : ℕ) (p : ℕ) (d : Desc) (u : MmaUnit) (i : ℕ) (o : TileOps) (h : Kept s0 s) :
    Kept s0 (State.holdTile s n p d u i o) := by
  unfold State.holdTile
  with_reducible repeat' first | assumption | apply Kept.ite | apply State.holdPass_kept | refine Kept.foldl ?_ (fun _ _ _ => ?_)

theorem State.clearArrays_kept {s0 s : State} (n : ℕ) (h : Kept s0 s) :
    Kept s0 (State.clearArrays s n) := by
  unfold State.clearArrays
  with_reducible repeat' first | assumption | apply State.updLantern_kept

theorem State.tileReady_kept {s0 s : State} (n : ℕ) (q : ℕ) (p : ℕ) (d : Desc) (u : MmaUnit) (i : ℕ) (h : Kept s0 s) :
    Kept s0 (State.tileReady s n q p d u i).1 := by
  unfold State.tileReady
  with_reducible repeat' first | assumption | apply State.syncGate_kept | apply State.stageRows_kept | refine Kept.ofOk (by assumption) ?_ | apply State.descFail_kept | apply State.updDesc_kept | apply Kept.rsErr | apply Kept.rsOk | refine Kept.ofFst (by assumption) ?_ | dsimp only | split

theorem State.mmaAtoms_kept {s0 s : State} (n : ℕ) (q : ℕ) (p : ℕ) (d : Desc) (codes : List (ℕ × ℕ × ℕ)) (h : Kept s0 s) :
    Kept s0 (State.mmaAtoms s n q p d codes).1 := by
  unfold State.mmaAtoms
  with_reducible repeat' first | assumption | apply foldRes_kept | apply State.atomicAdd_kept | refine Kept.ofOk (by assumption) ?_ | apply Kept.rsErr | apply Kept.rsOk | refine Kept.ofFst (by assumption) ?_ | dsimp only | split | refine Kept.upd ?_ | intro _

theorem State.unitAfter_kept {s0 s : State} (n : ℕ) (q : ℕ) (p : ℕ) (d : Desc) (u : MmaUnit) (codes : List (ℕ × ℕ × ℕ)) (h : Kept s0 s) :
    Kept s0 (State.unitAfter s n q p d u codes) := by
  unfold State.unitAfter
  with_reducible repeat' first | assumption | apply Kept.ite | apply State.mmaAtoms_kept | apply State.descFail_kept | apply State.mmaDigests_kept | apply State.updDesc_kept | apply State.ticketDone_kept | refine Kept.ofFst (by assumption) ?_ | dsimp only | split

theorem State.tileFlags_kept {s0 s : State} (n : ℕ) (q : ℕ) (p : ℕ) (d : Desc) (u : MmaUnit) (i : ℕ) (h : Kept s0 s) :
    Kept s0 (State.tileFlags s n q p d u i) := by
  unfold State.tileFlags
  with_reducible repeat' first | assumption | apply Kept.ite | apply State.syncAfter_kept | refine Kept.ofOk (by assumption) ?_ | apply State.descFail_kept | apply Kept.rsErr | apply Kept.rsOk | refine Kept.ofFst (by assumption) ?_ | dsimp only | split | refine Kept.upd ?_

theorem State.tileOut_kept {s0 s : State} (n : ℕ) (q : ℕ) (p : ℕ) (d : Desc) (u : MmaUnit) (i : ℕ) (kept : Option (List Acc32)) (as : List Acc32) (h : Kept s0 s) :
    Kept s0 (State.tileOut s n q p d u i kept as) := by
  unfold State.tileOut
  with_reducible repeat' first | assumption | apply Kept.ite | apply State.psumTile_kept | apply State.descFail_kept | apply State.tileDrain_kept | apply State.updDesc_kept | apply State.unitAfter_kept | apply State.tileFlags_kept | refine Kept.ofFst (by assumption) ?_ | dsimp only | split

theorem State.tileDo_kept {s0 s : State} (n : ℕ) (q : ℕ) (p : ℕ) (d : Desc) (u : MmaUnit) (i : ℕ) (h : Kept s0 s) :
    Kept s0 (State.tileDo s n q p d u i) := by
  unfold State.tileDo
  with_reducible repeat' first | assumption | apply Kept.ite | apply State.descFail_kept | apply State.tileOut_kept | apply State.holdTile_kept | refine Kept.ofFst (by assumption) ?_ | dsimp only | split

theorem State.mmaTile_kept {s0 s : State} (n : ℕ) (q : ℕ) (p : ℕ) (seq : ℕ) (h : Kept s0 s) :
    Kept s0 (State.mmaTile s n q p seq).1 := by
  unfold State.mmaTile
  with_reducible repeat' first | assumption | apply State.descDone_kept | apply State.tileReady_kept | apply State.tileDo_kept | refine Kept.ofFst (by assumption) ?_ | dsimp only | split

theorem State.mmaRun_kept {s0 : State} (n : ℕ) (q : ℕ) (p : ℕ) (seq : ℕ) (zs : ℕ) {zs5 : State} (h : Kept s0 zs5) :
    Kept s0 (State.mmaRun n q p seq zs zs5) := by
  induction zs generalizing n q p seq zs5 with
  | zero =>
    rw [State.mmaRun]
    with_reducible repeat' first | apply ih | assumption
  | succ zs ih =>
    rw [State.mmaRun]
    with_reducible repeat' first | apply ih | assumption | apply State.mmaTile_kept | refine Kept.ofFst (by assumption) ?_ | dsimp only | split

theorem State.opMma_kept {s0 : State} (n : ℕ) (q : ℕ) (d : Desc) {s : State} (h : Kept s0 s) :
    Kept s0 (State.opMma n q d s) := by
  unfold State.opMma
  with_reducible repeat' first | assumption | apply State.clearArrays_kept | apply State.mmaRun_kept | apply State.mmaBegin_kept

theorem execMma_kept {s0 : State} (n : LnIx) (q : QIx) {s : State} (h : Kept s0 s) :
    Kept.Out s0 (execMma n q s) := by
  unfold execMma
  with_reducible repeat' first | assumption | apply State.onDesc_kept | apply State.opMma_kept | apply Kept.outFault | apply Kept.outRefused | apply Kept.outNext

theorem State.opTicket_kept {s0 : State} (n q : ℕ) (d : Desc) {s : State} (h : Kept s0 s) :
    Kept s0 (State.opTicket n q d s) := by
  unfold State.opTicket
  with_reducible repeat' first | assumption | apply State.descDone_kept | apply State.updDesc_kept | dsimp only | split | refine Kept.upd ?_

theorem execTicketTake_kept {s0 : State} (n : LnIx) (q : QIx) {s : State} (h : Kept s0 s) :
    Kept.Out s0 (execTicketTake n q s) := by
  unfold execTicketTake
  with_reducible repeat' first | assumption | apply State.onDesc_kept | apply State.opTicket_kept | apply Kept.outFault | apply Kept.outRefused | apply Kept.outNext

theorem State.reduceBlock_kept {s0 s : State} (n : ℕ) (q : ℕ) (p : ℕ) (d : Desc) (a : ℕ) (total : ℕ) (i : ℕ) (h : Kept s0 s) :
    Kept s0 (State.reduceBlock s n q p d a total i) := by
  unfold State.reduceBlock
  with_reducible repeat' first | assumption | apply Kept.ite | apply State.descFail_kept | apply emitElems_kept | apply State.digWrite_kept | refine Kept.ofOk (by assumption) ?_ | apply State.updDesc_kept | apply State.syncAfter_kept | apply Kept.rsErr | apply Kept.rsOk | refine Kept.ofFst (by assumption) ?_ | dsimp only | split

theorem State.reduceRun_kept {s0 : State} (n : ℕ) (q : ℕ) (p : ℕ) (seq : ℕ) (a : ℕ) (total : ℕ) (zs : ℕ) {zs7 : State} (h : Kept s0 zs7) :
    Kept s0 (State.reduceRun n q p seq a total zs zs7) := by
  induction zs generalizing n q p seq a total zs7 with
  | zero =>
    rw [State.reduceRun]
    with_reducible repeat' first | apply ih | assumption
  | succ zs ih =>
    rw [State.reduceRun]
    with_reducible repeat' first | apply ih | assumption | apply Kept.ite | apply State.descDone_kept | apply State.syncGate_kept | apply State.reduceBlock_kept | refine Kept.ofFst (by assumption) ?_ | dsimp only | split

theorem State.opReduce_kept {s0 : State} (n : ℕ) (q : ℕ) (d : Desc) {s : State} (h : Kept s0 s) :
    Kept s0 (State.opReduce n q d s) := by
  unfold State.opReduce
  with_reducible repeat' first | assumption | apply State.descFail_kept | apply State.reduceRun_kept | apply State.descBegin_kept | refine Kept.ofFst (by assumption) ?_ | dsimp only | split

theorem execOrderedReduction_kept {s0 : State} (n : LnIx) (q : QIx) {s : State} (h : Kept s0 s) :
    Kept.Out s0 (execOrderedReduction n q s) := by
  unfold execOrderedReduction
  with_reducible repeat' first | assumption | apply State.onDesc_kept | apply State.opReduce_kept | apply Kept.outFault | apply Kept.outRefused | apply Kept.outNext

end Sys2Proof.Machine
end

