-- ==== Sys2Proof/Laws/KeptVecUnit.lean ====
section
/-!
SUPPORT. What the operations of Machine/VecUnit.lean keep (Kept).
-/

namespace Sys2Proof.Machine

set_option simprocs false
set_option Elab.async false

theorem State.rowsEnd_kept {s0 s : State} (n q p : ℕ) (d : Desc) (j : RowJob) (h : Kept s0 s) :
    Kept s0 (State.rowsEnd s n q p d j) := by
  unfold State.rowsEnd
  with_reducible repeat' first | assumption | apply State.digWrite_kept | refine Kept.ofOk (by assumption) ?_ | apply State.descDone_kept | apply State.descFail_kept | apply Kept.rsErr | apply Kept.rsOk | refine Kept.ofFst (by assumption) ?_ | dsimp only | split

theorem State.rowsRun_kept {s0 : State} (n q : ℕ) (p seq : ℕ) (j : RowJob) (zs : ℕ) {zs6 : State} (h : Kept s0 zs6) :
    Kept s0 (State.rowsRun n q p seq j zs zs6) := by
  induction zs generalizing n q p seq j zs6 with
  | zero =>
    rw [State.rowsRun]
    with_reducible repeat' first | apply ih | assumption
  | succ zs ih =>
    rw [State.rowsRun]
    with_reducible repeat' first | apply ih | assumption | apply Kept.ite | apply State.updDesc_kept | apply State.descFail_kept | apply emitElems_kept | apply State.syncAfter_kept | refine Kept.ofOk (by assumption) ?_ | apply State.syncGate_kept | apply State.rowsEnd_kept | apply Kept.rsErr | apply Kept.rsOk | refine Kept.ofFst (by assumption) ?_ | dsimp only | split

theorem State.spLoad_kept {s0 s : State} (n p : ℕ) (d : Desc) (h : Kept s0 s) :
    Kept.Rs s0 (State.spLoad s n p d) := by
  unfold State.spLoad
  with_reducible repeat' first | assumption | apply State.updLantern_kept | apply Kept.rsErr | apply Kept.rsOk | refine Kept.ofFst (by assumption) ?_ | dsimp only | split

theorem State.opSpill_kept {s0 : State} (n q : ℕ) (d : Desc) {s : State} (h : Kept s0 s) :
    Kept s0 (State.opSpill n q d s) := by
  unfold State.opSpill
  with_reducible repeat' first | assumption | apply State.descBegin_kept | apply State.spLoad_kept | refine Kept.ofOk (by assumption) ?_ | apply State.descFail_kept | apply State.rowsRun_kept | apply Kept.rsErr | apply Kept.rsOk | refine Kept.ofFst (by assumption) ?_ | dsimp only | split

theorem execSpill_kept {s0 : State} (n : LnIx) (q : QIx) {s : State} (h : Kept s0 s) :
    Kept.Out s0 (execSpill n q s) := by
  unfold execSpill
  with_reducible repeat' first | assumption | apply State.onDesc_kept | apply State.opSpill_kept | apply Kept.outFault | apply Kept.outRefused | apply Kept.outNext

theorem State.opTaper_kept {s0 : State} (n q : ℕ) (d : Desc) {s : State} (h : Kept s0 s) :
    Kept s0 (State.opTaper n q d s) := by
  unfold State.opTaper
  with_reducible repeat' first | assumption | apply State.rowsRun_kept | apply State.descBegin_kept

theorem execTaper_kept {s0 : State} (n : LnIx) (q : QIx) {s : State} (h : Kept s0 s) :
    Kept.Out s0 (execTaper n q s) := by
  unfold execTaper
  with_reducible repeat' first | assumption | apply State.onDesc_kept | apply State.opTaper_kept | apply Kept.outFault | apply Kept.outRefused | apply Kept.outNext

theorem State.opVu_kept {s0 : State} (op n q : ℕ) (d : Desc) {s : State} (h : Kept s0 s) :
    Kept s0 (State.opVu op n q d s) := by
  unfold State.opVu
  with_reducible repeat' first | assumption | apply State.rowsRun_kept | apply State.descBegin_kept | dsimp only | split

theorem execVuDepthwise_kept {s0 : State} (n : LnIx) (q : QIx) {s : State} (h : Kept s0 s) :
    Kept.Out s0 (execVuDepthwise n q s) := by
  unfold execVuDepthwise
  with_reducible repeat' first | assumption | apply State.onDesc_kept | apply State.opVu_kept | apply Kept.outFault | apply Kept.outRefused | apply Kept.outNext

theorem execVuMaxPool_kept {s0 : State} (n : LnIx) (q : QIx) {s : State} (h : Kept s0 s) :
    Kept.Out s0 (execVuMaxPool n q s) := by
  unfold execVuMaxPool
  with_reducible repeat' first | assumption | apply State.onDesc_kept | apply State.opVu_kept | apply Kept.outFault | apply Kept.outRefused | apply Kept.outNext

theorem execVuAvgPoolPadCounted_kept {s0 : State} (n : LnIx) (q : QIx) {s : State} (h : Kept s0 s) :
    Kept.Out s0 (execVuAvgPoolPadCounted n q s) := by
  unfold execVuAvgPoolPadCounted
  with_reducible repeat' first | assumption | apply State.onDesc_kept | apply State.opVu_kept | apply Kept.outFault | apply Kept.outRefused | apply Kept.outNext

theorem execVuAvgPoolPadNotCounted_kept {s0 : State} (n : LnIx) (q : QIx) {s : State} (h : Kept s0 s) :
    Kept.Out s0 (execVuAvgPoolPadNotCounted n q s) := by
  unfold execVuAvgPoolPadNotCounted
  with_reducible repeat' first | assumption | apply State.onDesc_kept | apply State.opVu_kept | apply Kept.outFault | apply Kept.outRefused | apply Kept.outNext

theorem execVuSoftmax_kept {s0 : State} (n : LnIx) (q : QIx) {s : State} (h : Kept s0 s) :
    Kept.Out s0 (execVuSoftmax n q s) := by
  unfold execVuSoftmax
  with_reducible repeat' first | assumption | apply State.onDesc_kept | apply State.opVu_kept | apply Kept.outFault | apply Kept.outRefused | apply Kept.outNext

theorem execVuLayerNorm_kept {s0 : State} (n : LnIx) (q : QIx) {s : State} (h : Kept s0 s) :
    Kept.Out s0 (execVuLayerNorm n q s) := by
  unfold execVuLayerNorm
  with_reducible repeat' first | assumption | apply State.onDesc_kept | apply State.opVu_kept | apply Kept.outFault | apply Kept.outRefused | apply Kept.outNext

theorem execVuGroupNorm_kept {s0 : State} (n : LnIx) (q : QIx) {s : State} (h : Kept s0 s) :
    Kept.Out s0 (execVuGroupNorm n q s) := by
  unfold execVuGroupNorm
  with_reducible repeat' first | assumption | apply State.onDesc_kept | apply State.opVu_kept | apply Kept.outFault | apply Kept.outRefused | apply Kept.outNext

theorem execVuResizeNearest_kept {s0 : State} (n : LnIx) (q : QIx) {s : State} (h : Kept s0 s) :
    Kept.Out s0 (execVuResizeNearest n q s) := by
  unfold execVuResizeNearest
  with_reducible repeat' first | assumption | apply State.onDesc_kept | apply State.opVu_kept | apply Kept.outFault | apply Kept.outRefused | apply Kept.outNext

theorem execVuResizeBilinear_kept {s0 : State} (n : LnIx) (q : QIx) {s : State} (h : Kept s0 s) :
    Kept.Out s0 (execVuResizeBilinear n q s) := by
  unfold execVuResizeBilinear
  with_reducible repeat' first | assumption | apply State.onDesc_kept | apply State.opVu_kept | apply Kept.outFault | apply Kept.outRefused | apply Kept.outNext

theorem execVuStagesOnly_kept {s0 : State} (n : LnIx) (q : QIx) {s : State} (h : Kept s0 s) :
    Kept.Out s0 (execVuStagesOnly n q s) := by
  unfold execVuStagesOnly
  with_reducible repeat' first | assumption | apply State.onDesc_kept | apply State.opVu_kept | apply Kept.outFault | apply Kept.outRefused | apply Kept.outNext

end Sys2Proof.Machine
end

