-- ==== Sys2Proof/Laws/KeptSequencer.lean ====
section
/-!
SUPPORT. What the operations of Machine/Sequencer.lean keep (Kept).
-/

namespace Sys2Proof.Machine

set_option simprocs false
set_option Elab.async false

theorem State.seqStop_kept {s0 s : State} (n q : ℕ) (st : Status) (ty tag : ℕ) (h : Kept s0 s) :
    Kept s0 (State.seqStop s n q st ty tag) := by
  unfold State.seqStop
  with_reducible repeat' first | assumption | apply State.finishCtx_kept | apply State.seqError_kept

theorem State.seqFetch_kept {s0 s : State} (n : ℕ) (q : ℕ) (h : Kept s0 s) :
    Kept s0 (State.seqFetch s n q) := by
  unfold State.seqFetch
  with_reducible repeat' first | assumption | apply Kept.ite | apply State.updCtx_kept | apply State.seqStop_kept | apply State.noteFault_kept | refine Kept.ofFst (by assumption) ?_ | dsimp only | split

theorem execDescriptorFetch_kept {s0 : State} (n : LnIx) (q : QIx) {s : State} (h : Kept s0 s) :
    Kept.Out s0 (execDescriptorFetch n q s) := by
  unfold execDescriptorFetch
  with_reducible repeat' first | assumption | apply State.seqFetch_kept | apply Kept.outFault | apply Kept.outRefused | apply Kept.outNext

theorem State.joinCounter_kept {s0 s : State} (n q : ℕ) (d : Desc) (cmd : ℕ) (h : Kept s0 s) :
    Kept s0 (State.joinCounter s n q d cmd) := by
  unfold State.joinCounter
  with_reducible repeat' first | assumption | apply Kept.ite | apply State.updCtx_kept | apply State.updDesc_kept | apply State.descDone_kept | apply State.fresh_kept | refine Kept.ofFst (by assumption) ?_ | refine Kept.ofSnd (by assumption) ?_ | dsimp only | split | refine Kept.upd ?_

theorem State.seqSwitch_kept {s0 s : State} (n q p : ℕ) (h : Kept s0 s) :
    Kept s0 (State.seqSwitch s n q p) := by
  unfold State.seqSwitch
  with_reducible repeat' first | assumption | apply State.updLantern_kept | apply State.setFld_kept | refine Kept.ofFst (by assumption) ?_ | dsimp only | split

theorem State.powerUp_kept {s0 s : State} (d : ℕ) (h : Kept s0 s) :
    Kept s0 (State.powerUp s d) := by
  unfold State.powerUp
  with_reducible repeat' first | assumption | apply State.windowGap_kept | apply State.bumpEpoch_kept | apply State.setDom_kept | dsimp only | split

theorem State.wake_kept {s0 s : State} (n ty : ℕ) (h : Kept s0 s) :
    Kept s0 (State.wake s n ty) := by
  unfold State.wake
  with_reducible repeat' first | assumption | apply State.powerUp_kept | refine Kept.foldl ?_ (fun _ _ _ => ?_) | refine Kept.foldlFst ?_ (fun _ _ _ => ?_) | dsimp only | split

theorem State.issueDesc_kept {s0 s00 : State} (n : ℕ) (q : ℕ) (id : ℕ) (ty : ℕ) (modes : InputModes) (bs : List Byte) (h : Kept s0 s00) :
    Kept s0 (State.issueDesc s00 n q id ty modes bs) := by
  unfold State.issueDesc
  extract_lets s
  have hs : Kept s0 s := Kept.ite (State.drawFree_kept h) h
  clear_value s
  with_reducible repeat' first | assumption | apply Kept.ite | apply State.updCtx_kept | apply State.seqSwitch_kept | apply State.ensureAll_kept | refine Kept.ofOk (by assumption) ?_ | apply State.wake_kept | apply State.descFail_kept | apply State.joinCounter_kept | apply Kept.rsErr | apply Kept.rsOk | refine Kept.ofFst (by assumption) ?_ | dsimp only | split

theorem State.seqDecide_kept {s0 s : State} (n : ℕ) (ty : ℕ) (h : Kept s0 s) :
    Kept s0 (State.seqDecide s n ty) := by
  unfold State.seqDecide
  with_reducible repeat' first | assumption | apply State.arbDecide_kept | apply State.setArb_kept

theorem State.seqTurn_kept {s0 s : State} (n : ℕ) (ty : ℕ) (p : ℕ) (h : Kept s0 s) :
    Kept s0 (State.seqTurn s n ty p).1 := by
  unfold State.seqTurn
  with_reducible repeat' first | assumption | apply State.seqDecide_kept | apply State.setArb_kept | refine Kept.ofFst (by assumption) ?_ | dsimp only | split

theorem State.seqIssue_kept {s0 s : State} (n : ℕ) (q : ℕ) (modes : InputModes) (h : Kept s0 s) :
    Kept s0 (State.seqIssue s n q modes) := by
  unfold State.seqIssue
  with_reducible repeat' first | assumption | apply Kept.ite | apply State.seqStop_kept | apply State.seqTurn_kept | apply State.issueDesc_kept | refine Kept.ofFst (by assumption) ?_ | dsimp only | split

theorem execDescriptorIssue_kept {s0 : State} (n : LnIx) (x : IssueCall) {s : State} (h : Kept s0 s) :
    Kept.Out s0 (execDescriptorIssue n x s) := by
  unfold execDescriptorIssue
  with_reducible repeat' first | assumption | apply State.seqIssue_kept | apply Kept.outFault | apply Kept.outRefused | apply Kept.outNext

theorem State.seqComplete_kept {s0 s : State} (n q seq : ℕ) (h : Kept s0 s) :
    Kept s0 (State.seqComplete s n q seq) := by
  unfold State.seqComplete
  with_reducible repeat' first | assumption | apply State.arbCharge_kept | apply State.updCtx_kept | apply State.seqError_kept | apply State.finishCtx_kept | dsimp only | split

theorem execDescriptorComplete_kept {s0 : State} (n : LnIx) (q : QIx) (seq : ℕ) {s : State} (h : Kept s0 s) :
    Kept.Out s0 (execDescriptorComplete n q seq s) := by
  unfold execDescriptorComplete
  with_reducible repeat' first | assumption | apply State.seqComplete_kept | apply Kept.outFault | apply Kept.outRefused | apply Kept.outNext

theorem execNopDescriptor_kept {s0 : State} (n : LnIx) (q : QIx) {s : State} (h : Kept s0 s) :
    Kept.Out s0 (execNopDescriptor n q s) := by
  unfold execNopDescriptor
  with_reducible repeat' first | assumption | apply State.onDesc_kept | apply State.descDone_kept | apply Kept.outFault | apply Kept.outRefused | apply Kept.outNext | dsimp only | split | refine Kept.upd ?_ | intro _

theorem State.onCtrl_kept {s0 s : State} (n q op : ℕ) (f : Desc → State → State) (h : Kept s0 s) (hf : ∀ a b, Kept s0 b → Kept s0 (f a b)) :
    Kept s0 (State.onCtrl s n q op f) := by
  unfold State.onCtrl
  with_reducible repeat' first | assumption | apply hf | apply State.descDone_kept | dsimp only | split

theorem State.seqJump_kept {s0 s : State} (n q : ℕ) (d : Desc) (h : Kept s0 s) :
    Kept s0 (State.seqJump s n q d) := by
  unfold State.seqJump
  with_reducible repeat' first | assumption | apply State.updCtx_kept

theorem State.opEnd_kept {s0 : State} (n q : ℕ) (x_Sys2ProofMachineSequencer1088047489_hygCtx_hyg4 : Desc) {s : State} (h : Kept s0 s) :
    Kept s0 (State.opEnd n q x_Sys2ProofMachineSequencer1088047489_hygCtx_hyg4 s) := by
  unfold State.opEnd
  with_reducible repeat' first | assumption | apply State.updCtx_kept

theorem State.opJumpErr_kept {s0 : State} (n q : ℕ) (d : Desc) {s : State} (h : Kept s0 s) :
    Kept s0 (State.opJumpErr n q d s) := by
  unfold State.opJumpErr
  with_reducible repeat' first | assumption | apply State.seqJump_kept | dsimp only | split

theorem State.opLoop_kept {s0 : State} (n q : ℕ) (d : Desc) {s : State} (h : Kept s0 s) :
    Kept s0 (State.opLoop n q d s) := by
  unfold State.opLoop
  with_reducible repeat' first | assumption | apply State.seqJump_kept | apply State.updCtx_kept | dsimp only | split

theorem execCtrlEnd_kept {s0 : State} (n : LnIx) (q : QIx) {s : State} (h : Kept s0 s) :
    Kept.Out s0 (execCtrlEnd n q s) := by
  unfold execCtrlEnd
  with_reducible repeat' first | assumption | apply State.onCtrl_kept | apply State.opEnd_kept | apply Kept.outFault | apply Kept.outRefused | apply Kept.outNext

theorem execCtrlJump_kept {s0 : State} (n : LnIx) (q : QIx) {s : State} (h : Kept s0 s) :
    Kept.Out s0 (execCtrlJump n q s) := by
  unfold execCtrlJump
  with_reducible repeat' first | assumption | apply State.onCtrl_kept | apply State.seqJump_kept | apply Kept.outFault | apply Kept.outRefused | apply Kept.outNext | dsimp only | split | refine Kept.upd ?_ | intro _

theorem execCtrlJumpErr_kept {s0 : State} (n : LnIx) (q : QIx) {s : State} (h : Kept s0 s) :
    Kept.Out s0 (execCtrlJumpErr n q s) := by
  unfold execCtrlJumpErr
  with_reducible repeat' first | assumption | apply State.onCtrl_kept | apply State.opJumpErr_kept | apply Kept.outFault | apply Kept.outRefused | apply Kept.outNext

theorem execCtrlLoop_kept {s0 : State} (n : LnIx) (q : QIx) {s : State} (h : Kept s0 s) :
    Kept.Out s0 (execCtrlLoop n q s) := by
  unfold execCtrlLoop
  with_reducible repeat' first | assumption | apply State.onCtrl_kept | apply State.opLoop_kept | apply Kept.outFault | apply Kept.outRefused | apply Kept.outNext

theorem State.opLoad_kept {s0 : State} (n q : ℕ) (d : Desc) {s : State} (h : Kept s0 s) :
    Kept s0 (State.opLoad n q d s) := by
  unfold State.opLoad
  with_reducible repeat' first | assumption | apply Kept.ite | apply State.descDone_kept | apply State.updCtx_kept | apply State.loadHeld_kept | refine Kept.ofOk (by assumption) ?_ | apply State.descFail_kept | apply Kept.rsErr | apply Kept.rsOk | refine Kept.ofFst (by assumption) ?_ | dsimp only | split

theorem State.onLoad_kept {s0 s : State} (n q what : ℕ) (h : Kept s0 s) :
    Kept s0 (State.onLoad s n q what) := by
  unfold State.onLoad
  with_reducible repeat' first | assumption | apply State.opLoad_kept | dsimp only | split

theorem execLoadVuTable_kept {s0 : State} (n : LnIx) (q : QIx) {s : State} (h : Kept s0 s) :
    Kept.Out s0 (execLoadVuTable n q s) := by
  unfold execLoadVuTable
  with_reducible repeat' first | assumption | apply State.onLoad_kept | apply Kept.outFault | apply Kept.outRefused | apply Kept.outNext

theorem execLoadTaperWeights_kept {s0 : State} (n : LnIx) (q : QIx) {s : State} (h : Kept s0 s) :
    Kept.Out s0 (execLoadTaperWeights n q s) := by
  unfold execLoadTaperWeights
  with_reducible repeat' first | assumption | apply State.onLoad_kept | apply Kept.outFault | apply Kept.outRefused | apply Kept.outNext

theorem execLoadOutCodebook_kept {s0 : State} (n : LnIx) (q : QIx) {s : State} (h : Kept s0 s) :
    Kept.Out s0 (execLoadOutCodebook n q s) := by
  unfold execLoadOutCodebook
  with_reducible repeat' first | assumption | apply State.onLoad_kept | apply Kept.outFault | apply Kept.outRefused | apply Kept.outNext

theorem execOut_kept {s0 : State} (n : LnIx) (q : QIx) {s : State} (h : Kept s0 s) :
    Kept.Out s0 (execOut n q s) := by
  unfold execOut
  with_reducible repeat' first | assumption | apply State.onDesc_kept | apply State.descDone_kept | apply State.updCtx_kept | apply Kept.outFault | apply Kept.outRefused | apply Kept.outNext | dsimp only | split | refine Kept.upd ?_ | intro _

theorem execSync_kept {s0 : State} (n : LnIx) (q : QIx) {s : State} (h : Kept s0 s) :
    Kept.Out s0 (execSync n q s) := by
  unfold execSync
  with_reducible repeat' first | assumption | apply State.onDesc_kept | apply State.descDone_kept | apply State.updCtx_kept | apply Kept.outFault | apply Kept.outRefused | apply Kept.outNext | dsimp only | split | refine Kept.upd ?_ | intro _

theorem State.statWrite_kept {s0 s : State} (n q : ℕ) (d : Desc) (v : ℕ) (h : Kept s0 s) :
    Kept s0 (State.statWrite s n q d v) := by
  unfold State.statWrite
  with_reducible repeat' first | assumption | apply State.descFail_kept | apply State.descDone_kept | apply State.wr_kept | refine Kept.ofOk (by assumption) ?_ | apply Kept.rsErr | apply Kept.rsOk | refine Kept.ofFst (by assumption) ?_ | dsimp only | split

theorem State.opDigFold_kept {s0 : State} (n q : ℕ) (d : Desc) {s : State} (h : Kept s0 s) :
    Kept s0 (State.opDigFold n q d s) := by
  unfold State.opDigFold
  with_reducible repeat' first | assumption | apply State.descFail_kept | apply State.descDone_kept | apply State.statWrite_kept | refine Kept.ofFst (by assumption) ?_ | dsimp only | split

theorem State.opClipStore_kept {s0 : State} (n q : ℕ) (d : Desc) {s : State} (h : Kept s0 s) :
    Kept s0 (State.opClipStore n q d s) := by
  unfold State.opClipStore
  with_reducible repeat' first | assumption | apply State.statWrite_kept

theorem State.opClipClr_kept {s0 : State} (n q : ℕ) (d : Desc) {s : State} (h : Kept s0 s) :
    Kept s0 (State.opClipClr n q d s) := by
  unfold State.opClipClr
  with_reducible repeat' first | assumption | apply State.descDone_kept | apply State.setClip_kept

theorem State.onStat_kept {s0 s : State} (n q op : ℕ) (f : Desc → State → State) (h : Kept s0 s) (hf : ∀ a b, Kept s0 b → Kept s0 (f a b)) :
    Kept s0 (State.onStat s n q op f) := by
  unfold State.onStat
  with_reducible repeat' first | assumption | apply hf | dsimp only | split

theorem execDigFold_kept {s0 : State} (n : LnIx) (q : QIx) {s : State} (h : Kept s0 s) :
    Kept.Out s0 (execDigFold n q s) := by
  unfold execDigFold
  with_reducible repeat' first | assumption | apply State.onStat_kept | apply State.opDigFold_kept | apply Kept.outFault | apply Kept.outRefused | apply Kept.outNext

theorem execClipStore_kept {s0 : State} (n : LnIx) (q : QIx) {s : State} (h : Kept s0 s) :
    Kept.Out s0 (execClipStore n q s) := by
  unfold execClipStore
  with_reducible repeat' first | assumption | apply State.onStat_kept | apply State.opClipStore_kept | apply Kept.outFault | apply Kept.outRefused | apply Kept.outNext

theorem execClipClr_kept {s0 : State} (n : LnIx) (q : QIx) {s : State} (h : Kept s0 s) :
    Kept.Out s0 (execClipClr n q s) := by
  unfold execClipClr
  with_reducible repeat' first | assumption | apply State.onStat_kept | apply State.opClipClr_kept | apply Kept.outFault | apply Kept.outRefused | apply Kept.outNext

theorem State.lnQselWrite_kept {s0 s : State} (n : ℕ) (v : Word) (h : Kept s0 s) :
    Kept s0 (State.lnQselWrite s n v) := by
  unfold State.lnQselWrite
  with_reducible repeat' first | assumption | apply State.setReg_kept | apply State.setClip_kept | refine Kept.ofFst (by assumption) ?_ | dsimp only | split

theorem execLnQselClr_kept {s0 : State} (n : LnIx) (v : Word) {s : State} (h : Kept s0 s) :
    Kept.Out s0 (execLnQselClr n v s) := by
  unfold execLnQselClr
  with_reducible repeat' first | assumption | apply State.pfReach_kept | apply State.lnQselWrite_kept | apply Kept.outFault | apply Kept.outRefused | apply Kept.outNext

end Sys2Proof.Machine
end

