-- ==== Sys2Proof/Laws/KeptArrays.lean ====
section
/-!
SUPPORT. What the operations of Machine/Arrays.lean keep (Kept).
-/

namespace Sys2Proof.Machine

set_option simprocs false
set_option Elab.async false

theorem State.switchTo_kept {s0 s : State} (n : ℕ) (a : ℕ) (q : ℕ) (d : Desc) (u : MmaUnit) (h6 : ℕ × ℕ × ℕ) (rest : List (ℕ × ℕ × ℕ)) (h : Kept s0 s) :
    Kept s0 (State.switchTo s n a q d u h6 rest) := by
  unfold State.switchTo
  with_reducible repeat' first | assumption | apply Kept.ite | apply State.clearArrays_kept | apply State.descFail_kept | apply State.holdPass_kept | apply State.updDesc_kept | apply State.updArr_kept | refine Kept.ofFst (by assumption) ?_ | dsimp only | split

theorem State.weightSwitch_kept {s0 s : State} (n : ℕ) (a : ℕ) (h : Kept s0 s) :
    Kept s0 (State.weightSwitch s n a) := by
  unfold State.weightSwitch
  with_reducible repeat' first | assumption | apply Kept.ite | apply State.mmaBegin_kept | apply State.switchTo_kept | apply State.tileReady_kept | refine Kept.ofFst (by assumption) ?_ | dsimp only | split

theorem execWeightBufferSwitch_kept {s0 : State} (n : LnIx) (arr : ArrayId) {s : State} (h : Kept s0 s) :
    Kept.Out s0 (execWeightBufferSwitch n arr s) := by
  unfold execWeightBufferSwitch
  with_reducible repeat' first | assumption | apply State.weightSwitch_kept | apply Kept.outFault | apply Kept.outRefused | apply Kept.outNext

theorem State.stepPlain_kept {s0 s : State} (n : ℕ) (a : ℕ) (h : Kept s0 s) :
    Kept s0 (State.stepPlain s n a) := by
  unfold State.stepPlain
  with_reducible repeat' first | assumption | apply Kept.ite | apply State.clearArrays_kept | apply State.descFail_kept | apply State.updArr_kept | refine Kept.ofFst (by assumption) ?_ | dsimp only | split

theorem State.afterArrayFault_kept {s0 s : State} (n : ℕ) (a : ℕ) (h : Kept s0 s) :
    Kept s0 (State.afterArrayFault s n a) := by
  unfold State.afterArrayFault
  with_reducible repeat' first | assumption | apply Kept.ite | apply State.updArr_kept | apply State.updDesc_kept | apply State.clearArrays_kept | apply State.descDone_kept | refine Kept.ofFst (by assumption) ?_ | dsimp only | split | refine Kept.upd ?_

theorem State.arrayOff_kept {s0 s : State} (n : ℕ) (a : ℕ) (h : Kept s0 s) :
    Kept s0 (State.arrayOff s n a) := by
  unfold State.arrayOff
  with_reducible repeat' first | assumption | apply State.mapMoved_kept | apply State.setFlag_kept

theorem State.arrayFault_kept {s0 s : State} (n a : ℕ) (kind dpu : ℕ) (h : Kept s0 s) :
    Kept s0 (State.arrayFault s n a kind dpu) := by
  unfold State.arrayFault
  with_reducible repeat' first | assumption | apply State.afterArrayFault_kept | apply State.sootEvent_kept | apply State.arrayOff_kept | apply State.lnFault_kept

theorem State.arrayFaultBoth_kept {s0 s : State} (n kind dpu : ℕ) (h : Kept s0 s) :
    Kept s0 (State.arrayFaultBoth s n kind dpu) := by
  unfold State.arrayFaultBoth
  with_reducible repeat' first | assumption | apply State.afterArrayFault_kept | apply State.sootEvent_kept | apply State.arrayOff_kept | apply State.lnFault_kept

theorem State.ingotCorrected_kept {s0 s : State} (n off : ℕ) (h : Kept s0 s) :
    Kept s0 (State.ingotCorrected s n off) := by
  unfold State.ingotCorrected
  with_reducible repeat' first | assumption | apply State.setIngotErr_kept | apply State.bump_kept

theorem State.stepUncorrectable_kept {s0 s : State} (n a off : ℕ) (h : Kept s0 s) :
    Kept s0 (State.stepUncorrectable s n a off) := by
  unfold State.stepUncorrectable
  with_reducible repeat' first | assumption | apply State.memError_kept | apply State.setPoison_kept | apply State.clearArrays_kept | apply State.descDone_kept | refine Kept.ofFst (by assumption) ?_ | dsimp only | split

theorem State.arrayStep_kept {s0 s : State} (n : ℕ) (a : ℕ) (e : StepEvent) (h : Kept s0 s) :
    Kept s0 (State.arrayStep s n a e) := by
  unfold State.arrayStep
  with_reducible repeat' first | assumption | apply Kept.ite | apply State.stepPlain_kept | apply State.arrayFault_kept | apply State.arrayFaultBoth_kept | apply State.ingotCorrected_kept | apply State.stepUncorrectable_kept | apply State.quarantineLantern_kept | refine Kept.ofFst (by assumption) ?_ | dsimp only | split

theorem execArrayStep_kept {s0 : State} (n : LnIx) (arr : ArrayId) (e : StepEvent) {s : State} (h : Kept s0 s) :
    Kept.Out s0 (execArrayStep n arr e s) := by
  unfold execArrayStep
  with_reducible repeat' first | assumption | apply State.arrayStep_kept | apply Kept.outFault | apply Kept.outRefused | apply Kept.outNext

theorem State.drainTile_kept {s0 s : State} (n : ℕ) (q : ℕ) (d : Desc) (u : MmaUnit) (i : ℕ) (as : List Acc32) (h : Kept s0 s) :
    Kept s0 (State.drainTile s n q d u i as) := by
  unfold State.drainTile
  with_reducible repeat' first | assumption | apply Kept.ite | apply State.clearArrays_kept | apply State.descFail_kept | apply State.tileOut_kept | refine Kept.ofFst (by assumption) ?_ | dsimp only | split

theorem State.drainSpan_kept {s0 s : State} (n : ℕ) (q : ℕ) (d : Desc) (u : MmaUnit) (t : Tile) (as : List Acc32) (h : Kept s0 s) :
    Kept s0 (State.drainSpan s n q d u t as) := by
  unfold State.drainSpan
  with_reducible repeat' first | assumption | apply State.updDesc_kept | apply State.drainTile_kept | refine Kept.ofFst (by assumption) ?_ | dsimp only | split

theorem State.accDrain_kept {s0 s : State} (n : ℕ) (a : ℕ) (h : Kept s0 s) :
    Kept s0 (State.accDrain s n a) := by
  unfold State.accDrain
  with_reducible repeat' first | assumption | apply Kept.ite | apply State.drainSpan_kept | apply State.updArr_kept | refine Kept.ofFst (by assumption) ?_ | dsimp only | split

theorem execAccumulatorDrain_kept {s0 : State} (n : LnIx) (arr : ArrayId) {s : State} (h : Kept s0 s) :
    Kept.Out s0 (execAccumulatorDrain n arr s) := by
  unfold execAccumulatorDrain
  with_reducible repeat' first | assumption | apply State.accDrain_kept | apply Kept.outFault | apply Kept.outRefused | apply Kept.outNext

theorem execIngotEccWriteback_kept {s0 : State} (x : IngotCycle) {s : State} (h : Kept s0 s) :
    Kept.Out s0 (execIngotEccWriteback x s) := by
  unfold execIngotEccWriteback
  with_reducible repeat' first | assumption | apply State.ingotCorrected_kept | apply State.setPoison_kept | apply State.setIngotErr_kept | apply Kept.outFault | apply Kept.outRefused | apply Kept.outNext | dsimp only | split

theorem execCrucibleEccWriteback_kept {s0 : State} (x : BankCycle) {s : State} (h : Kept s0 s) :
    Kept.Out s0 (execCrucibleEccWriteback x s) := by
  unfold execCrucibleEccWriteback
  with_reducible repeat' first | assumption | apply State.setBank_kept | apply State.setPoison_kept | apply Kept.outFault | apply Kept.outRefused | apply Kept.outNext | dsimp only | split

theorem State.zeroRange_kept {s0 s : State} (da len : ℕ) (h : Kept s0 s) :
    Kept s0 (State.zeroRange s da len) := by
  refine State.retest_kept _ _ (State.cancelBack_kept _ _ (h.trans ⟨rfl, rfl, fun hm => ?_, id, Nat.le_refl _, id, id⟩))
  obtain ⟨h1, h2, h3⟩ := (memory_wf_iff s).mp hm
  exact (memory_wf_iff _).mpr ⟨minus_wf _ _ da len h1, h2, h3⟩

theorem State.undefRange_kept {s0 s : State} (da len : ℕ) (h : Kept s0 s) :
    Kept s0 (State.undefRange s da len) := by
  refine State.retest_kept _ _ (State.cancelBack_kept _ _ (h.trans ⟨rfl, rfl, fun hm => ?_, id, Nat.le_add_right _ _, id, id⟩))
  obtain ⟨h1, h2, h3⟩ := (memory_wf_iff s).mp hm
  exact (memory_wf_iff _).mpr ⟨undef_wf _ _ da len _ h1, h2, h3⟩

theorem State.cycleDom_kept {s0 s : State} (d : ℕ) (h : Kept s0 s) :
    Kept s0 (State.cycleDom s d) := by
  unfold State.cycleDom
  with_reducible repeat' first | assumption | apply State.windowGap_kept | apply State.bumpEpoch_kept | dsimp only | split

theorem State.clearLantern_kept {s0 s : State} (n : ℕ) (st : Status) (h : Kept s0 s) :
    Kept s0 (State.clearLantern s n st) := by
  unfold State.clearLantern
  with_reducible repeat' first | assumption | apply State.setLantern_kept | apply State.ticketsBack_kept | apply State.runError_kept | apply State.stageDone_kept | refine Kept.foldl ?_ (fun _ _ _ => ?_) | refine Kept.foldlFst ?_ (fun _ _ _ => ?_) | dsimp only | split | refine Kept.upd ?_

theorem State.arrayReadmit_kept {s0 s : State} (n : ℕ) (a : ℕ) (ok : Bool) (h : Kept s0 s) :
    Kept s0 (State.arrayReadmit s n a ok) := by
  unfold State.arrayReadmit
  with_reducible repeat' first | assumption | apply Kept.ite | apply State.selfTest_kept | apply State.clearLantern_kept | apply State.mapMoved_kept | apply State.setFlag_kept | apply State.cycleDom_kept | apply State.sootEvent_kept | refine Kept.foldl ?_ (fun _ _ _ => ?_) | refine Kept.foldlFst ?_ (fun _ _ _ => ?_) | refine Kept.ofFst (by assumption) ?_ | dsimp only | split

theorem execArrayReadmit_kept {s0 : State} (n : LnIx) (arr : ArrayId) (selfTestOk : Bool) {s : State} (h : Kept s0 s) :
    Kept.Out s0 (execArrayReadmit n arr selfTestOk s) := by
  unfold execArrayReadmit
  with_reducible repeat' first | assumption | apply State.arrayReadmit_kept | apply Kept.outFault | apply Kept.outRefused | apply Kept.outNext

theorem State.lanternReadmit_kept {s0 s : State} (n : ℕ) (ok : Bool) (h : Kept s0 s) :
    Kept s0 (State.lanternReadmit s n ok) := by
  unfold State.lanternReadmit
  with_reducible repeat' first | assumption | apply State.selfTest_kept | apply State.setFlag_kept | apply State.setIngotErr_kept | refine Kept.ofFst (by assumption) ?_ | dsimp only | split

theorem execLanternReadmit_kept {s0 : State} (n : LnIx) (selfTestOk : Bool) {s : State} (h : Kept s0 s) :
    Kept.Out s0 (execLanternReadmit n selfTestOk s) := by
  unfold execLanternReadmit
  with_reducible repeat' first | assumption | apply State.lanternReadmit_kept | apply Kept.outFault | apply Kept.outRefused | apply Kept.outNext

theorem State.lanternBack_kept {s0 s : State} (n : ℕ) (h : Kept s0 s) :
    Kept s0 (State.lanternBack s n) := by
  unfold State.lanternBack
  with_reducible repeat' first | assumption | apply State.setIngotErr_kept | apply State.setFlag_kept | apply State.powerUp_kept | apply State.sootEvent_kept | refine Kept.foldl ?_ (fun _ _ _ => ?_) | refine Kept.foldlFst ?_ (fun _ _ _ => ?_) | dsimp only | split

theorem State.ingotScrubbed_kept {s0 s : State} (n : ℕ) (h : Kept s0 s) :
    Kept s0 (State.ingotScrubbed s n) := by
  unfold State.ingotScrubbed
  with_reducible repeat' first | assumption | apply State.zeroRange_kept | apply State.setFlag_kept | apply State.setIngotErr_kept | apply State.lanternBack_kept | refine Kept.foldl ?_ (fun _ _ _ => ?_) | refine Kept.foldlFst ?_ (fun _ _ _ => ?_) | refine Kept.ofFst (by assumption) ?_ | dsimp only | split

theorem State.bankScrubbed_kept {s0 s : State} (k : ℕ) (h : Kept s0 s) :
    Kept s0 (State.bankScrubbed s k) := by
  unfold State.bankScrubbed
  with_reducible repeat' first | assumption | apply State.zeroRange_kept | apply State.setBank_kept | refine Kept.foldl ?_ (fun _ _ _ => ?_)

theorem State.bankReadmit_kept {s0 s : State} (k : ℕ) (ok : Bool) (h : Kept s0 s) :
    Kept s0 (State.bankReadmit s k ok) := by
  unfold State.bankReadmit
  with_reducible repeat' first | assumption | apply State.sootEvent_kept | apply State.undefRange_kept | apply State.powerUp_kept | apply State.setBank_kept | dsimp only | split

theorem execCrucibleBankReadmit_kept {s0 : State} (k : CbIx) (selfTestOk : Bool) {s : State} (h : Kept s0 s) :
    Kept.Out s0 (execCrucibleBankReadmit k selfTestOk s) := by
  unfold execCrucibleBankReadmit
  with_reducible repeat' first | assumption | apply State.bankReadmit_kept | apply Kept.outFault | apply Kept.outRefused | apply Kept.outNext

end Sys2Proof.Machine
end

