-- ==== Sys2Proof/Laws/KeptPewter.lean ====
section
/-!
SUPPORT. What the operations of Machine/Pewter.lean keep (Kept).
-/

namespace Sys2Proof.Machine

set_option simprocs false
set_option Elab.async false

theorem State.runOp_kept {s0 s : State} (id opcode : ℕ) (f : Cmd → State → State) (h : Kept s0 s) (hf : ∀ a b, Kept s0 b → Kept s0 (f a b)) :
    Kept s0 (State.runOp s id opcode f) := by
  unfold State.runOp
  with_reducible repeat' first | assumption | apply hf | dsimp only | split

theorem State.useHandle_kept {s0 s : State} (p h2 : ℕ) (off len : ℕ) (h : Kept s0 s) :
    Kept s0 (State.useHandle s p h2 off len).1 := by
  unfold State.useHandle
  with_reducible repeat' first | assumption | apply State.bump_kept | apply State.sootEvent_kept | refine Kept.ofFst (by assumption) ?_ | dsimp only | split

theorem State.takeBufs_kept {s0 s : State} (p pool zs : ℕ) (h : Kept s0 s) :
    Kept.Opt s0 (State.takeBufs s p pool zs) := by
  induction zs generalizing s p pool with
  | zero =>
    rw [State.takeBufs]
    with_reducible repeat' first | apply ih | assumption | apply State.setBuf_kept | apply Kept.optNone | apply Kept.optSome
  | succ zs ih =>
    rw [State.takeBufs]
    with_reducible repeat' first | apply ih | assumption | apply State.setBuf_kept | apply Kept.optNone | apply Kept.optSome | refine Kept.ofSome (by assumption) ?_ | refine Kept.ofSomeP (by assumption) ?_ | refine Kept.ofFst (by assumption) ?_ | dsimp only | split

theorem State.allocBufs_kept {s0 s : State} (p size n : ℕ) (h : Kept s0 s) :
    Kept.Opt s0 (State.allocBufs s p size n) := by
  unfold State.allocBufs
  with_reducible repeat' first | assumption | apply State.takeBufs_kept | refine Kept.ofSome (by assumption) ?_ | refine Kept.ofSomeP (by assumption) ?_ | apply Kept.optNone | apply Kept.optSome | dsimp only | split

theorem State.allocPool_kept {s0 s : State} (p k : ℕ) (h : Kept s0 s) :
    Kept.Opt s0 (State.allocPool s p k) := by
  unfold State.allocPool
  with_reducible repeat' first | assumption | apply State.takeBufs_kept | refine Kept.ofSome (by assumption) ?_ | refine Kept.ofSomeP (by assumption) ?_ | apply Kept.optNone | apply Kept.optSome | dsimp only | split

theorem State.freeHold_kept {s0 s : State} (pool ix p : ℕ) (h : Kept s0 s) :
    Kept s0 (State.freeHold s pool ix p).1 := by
  unfold State.freeHold
  with_reducible repeat' first | assumption | apply State.setBuf_kept | refine Kept.ofFst (by assumption) ?_ | dsimp only | split

theorem State.unitFree_kept {s0 s : State} (p : ℕ) (h2 : ℕ) (h : Kept s0 s) :
    Kept s0 (State.unitFree s p h2) := by
  unfold State.unitFree
  with_reducible repeat' first | assumption | apply State.useHandle_kept | apply State.freeHold_kept | refine Kept.ofFst (by assumption) ?_ | dsimp only | split

theorem State.dropOwner_kept {s0 s : State} (p : ℕ) (h : Kept s0 s) :
    Kept s0 (State.dropOwner s p) := by
  unfold State.dropOwner
  with_reducible repeat' first | assumption | dsimp only | split | refine Kept.updTabs ?_ (fun ⟨a, b, c, d, e, f, g, h, i, j⟩ => ⟨a, b, Kept.ordered_filterMap _ (fun _ _ h => by (repeat' split at h) <;> cases h <;> rfl) c, d, e, f, g, h, i, j⟩)

theorem State.opPoolFree_kept {s0 : State} (c : Cmd) {s : State} (h : Kept s0 s) :
    Kept s0 (State.opPoolFree c s) := by
  unfold State.opPoolFree
  with_reducible repeat' first | assumption | apply State.useHandle_kept | apply State.endCmd_kept | apply State.freeHold_kept | refine Kept.ofFst (by assumption) ?_ | dsimp only | split

theorem execPoolFree_kept {s0 : State} (id : ℕ) {s : State} (h : Kept s0 s) :
    Kept.Out s0 (execPoolFree id s) := by
  unfold execPoolFree
  with_reducible repeat' first | assumption | apply State.runOp_kept | apply State.opPoolFree_kept | apply Kept.outFault | apply Kept.outRefused | apply Kept.outNext

theorem State.opPoolShare_kept {s0 : State} (c : Cmd) {s : State} (h : Kept s0 s) :
    Kept s0 (State.opPoolShare c s) := by
  unfold State.opPoolShare
  with_reducible repeat' first | assumption | apply State.useHandle_kept | apply State.endCmd_kept | apply State.setBuf_kept | refine Kept.ofFst (by assumption) ?_ | dsimp only | split

theorem execPoolShare_kept {s0 : State} (id : ℕ) {s : State} (h : Kept s0 s) :
    Kept.Out s0 (execPoolShare id s) := by
  unfold execPoolShare
  with_reducible repeat' first | assumption | apply State.runOp_kept | apply State.opPoolShare_kept | apply Kept.outFault | apply Kept.outRefused | apply Kept.outNext

theorem State.cfgRefused_kept {s0 s : State} (off : ℕ) (h : Kept s0 s) :
    Kept s0 (State.cfgRefused s off) := by
  unfold State.cfgRefused
  with_reducible repeat' first | assumption | apply State.ignoredWrite_kept | apply State.setFlag_kept

theorem State.poolEnable_kept {s0 s : State} (k : ℕ) (h : Kept s0 s) :
    Kept s0 (State.poolEnable s k) := by
  unfold State.poolEnable
  with_reducible repeat' first | assumption | apply State.setFlag_kept | apply State.cfgRefused_kept | refine Kept.ofFst (by assumption) ?_ | dsimp only | split | refine Kept.updTabs ?_ (fun ⟨a, b, c, d, e, f, g, h, i, j⟩ => ⟨a, b, Kept.ordered_filter _ c, d, e, f, g, h, i, j⟩)

theorem State.poolDisable_kept {s0 s : State} (k : ℕ) (h : Kept s0 s) :
    Kept s0 (State.poolDisable s k) := by
  unfold State.poolDisable
  with_reducible repeat' first | assumption | apply State.setFlag_kept | apply State.cfgRefused_kept | refine Kept.ofFst (by assumption) ?_ | dsimp only | split | refine Kept.upd ?_

theorem State.pwCtrlWrite_kept {s0 s : State} (v : Word) (h : Kept s0 s) :
    Kept s0 (State.pwCtrlWrite s v) := by
  unfold State.pwCtrlWrite
  with_reducible repeat' first | assumption | apply State.setFlag_kept | apply State.lockViolation_kept | apply State.poolDisable_kept | apply State.poolEnable_kept | refine Kept.foldl ?_ (fun _ _ _ => ?_) | refine Kept.foldlFst ?_ (fun _ _ _ => ?_) | dsimp only | split

theorem execPoolEnable_kept {s0 : State} (k : PoolIx) {s : State} (h : Kept s0 s) :
    Kept.Out s0 (execPoolEnable k s) := by
  unfold execPoolEnable
  with_reducible repeat' first | assumption | apply State.pfReach_kept | apply State.pwCtrlWrite_kept | apply Kept.outFault | apply Kept.outRefused | apply Kept.outNext

theorem execPoolDisable_kept {s0 : State} (k : PoolIx) {s : State} (h : Kept s0 s) :
    Kept.Out s0 (execPoolDisable k s) := by
  unfold execPoolDisable
  with_reducible repeat' first | assumption | apply State.pfReach_kept | apply State.pwCtrlWrite_kept | apply Kept.outFault | apply Kept.outRefused | apply Kept.outNext

theorem execPoolStateInitDone_kept {s0 : State} (k : PoolIx) {s : State} (h : Kept s0 s) :
    Kept.Out s0 (execPoolStateInitDone k s) := by
  unfold execPoolStateInitDone
  with_reducible repeat' first | assumption | apply Kept.outFault | apply Kept.outRefused | apply Kept.outNext | dsimp only | split | refine Kept.upd ?_

theorem State.pwCfgWrite_kept {s0 s : State} (off : ℕ) (mask : Word) (busy : Bool) (v : Word) (h : Kept s0 s) :
    Kept s0 (State.pwCfgWrite s off mask busy v) := by
  unfold State.pwCfgWrite
  with_reducible repeat' first | assumption | apply State.lockViolation_kept | apply State.cfgRefused_kept | apply State.setReg_kept | dsimp only | split

end Sys2Proof.Machine
end

