-- ==== Sys2Proof/Laws/KeptQueue.lean ====
section
/-!
SUPPORT. What the operations of Machine/Queue.lean keep (Kept).
-/

namespace Sys2Proof.Machine

set_option simprocs false
set_option Elab.async false

theorem State.updShade_kept {s0 s : State} (p path : ℕ) (f : Shade → Shade) (h : Kept s0 s) :
    Kept s0 (State.updShade s p path f) := by
  unfold State.updShade
  with_reducible repeat' first | assumption | apply State.setPart_kept

theorem State.shadeAsk_kept {s0 s : State} (p path : ℕ) (key n : ℕ) (h : Kept s0 s) :
    Kept s0 (State.shadeAsk s p path key n).1 := by
  unfold State.shadeAsk
  with_reducible repeat' first | assumption | apply State.updShade_kept | refine Kept.ofFst (by assumption) ?_ | dsimp only | split

theorem State.shadeAskFrom_kept {s0 s : State} (p key : ℕ) (l : List (ℕ × ℕ)) (zs : List ℕ) (h : Kept s0 s) :
    Kept s0 (State.shadeAskFrom s p key l zs).1 := by
  induction zs generalizing s p key l with
  | nil =>
    rw [State.shadeAskFrom]
    with_reducible repeat' first | apply ih | assumption
  | cons z zs ih =>
    rw [State.shadeAskFrom]
    with_reducible repeat' first | apply ih | assumption | apply State.updShade_kept | apply State.shadeAsk_kept | refine Kept.ofFst (by assumption) ?_ | dsimp only | split

theorem State.shadeAskAll_kept {s0 s : State} (p key : ℕ) (l : List (ℕ × ℕ)) (h : Kept s0 s) :
    Kept s0 (State.shadeAskAll s p key l).1 := by
  unfold State.shadeAskAll
  with_reducible repeat' first | assumption | apply State.shadeAskFrom_kept

theorem State.shadeTake_kept {s0 s : State} (p path n : ℕ) (h : Kept s0 s) :
    Kept s0 (State.shadeTake s p path n) := by
  unfold State.shadeTake
  with_reducible repeat' first | assumption | apply State.updShade_kept | dsimp only | split

theorem execShadeGrant_kept {s0 : State} (p : PartIx) (path : Fin 7) {s : State} (h : Kept s0 s) :
    Kept.Out s0 (execShadeGrant p path s) := by
  unfold execShadeGrant
  with_reducible repeat' first | assumption | apply State.updShade_kept | apply Kept.outFault | apply Kept.outRefused | apply Kept.outNext | refine Kept.ofFst (by assumption) ?_ | dsimp only | split

theorem State.commitRing_kept {s0 s : State} (r : ℕ) (new : List Word) (h : Kept s0 s) :
    Kept s0 (State.commitRing s r new).1 := by
  unfold State.commitRing
  with_reducible repeat' first | assumption | apply State.setRing_kept | refine Kept.ofFst (by assumption) ?_ | dsimp only | split

theorem State.rqSelWrite_kept {s0 s : State} (v : Word) (h : Kept s0 s) :
    Kept s0 (State.rqSelWrite s v) := by
  unfold State.rqSelWrite
  with_reducible repeat' first | assumption | apply State.setReg_kept | refine Kept.ofFst (by assumption) ?_ | dsimp only | split | refine Kept.upd ?_

theorem execRqSelWrite_kept {s0 : State} (v : Word) {s : State} (h : Kept s0 s) :
    Kept.Out s0 (execRqSelWrite v s) := by
  unfold execRqSelWrite
  with_reducible repeat' first | assumption | apply State.pfReach_kept | apply State.rqSelWrite_kept | apply Kept.outFault | apply Kept.outRefused | apply Kept.outNext

theorem State.rqStage_kept {s0 s : State} (k : ℕ) (v : Word) (h : Kept s0 s) :
    Kept s0 (State.rqStage s k v) := by
  unfold State.rqStage
  with_reducible repeat' first | assumption | dsimp only | split | refine Kept.upd ?_

theorem execRqCtxStage_kept {s0 : State} (k : Fin 7) (v : Word) {s : State} (h : Kept s0 s) :
    Kept.Out s0 (execRqCtxStage k v s) := by
  unfold execRqCtxStage
  with_reducible repeat' first | assumption | apply State.pfReach_kept | apply State.rqStage_kept | apply Kept.outFault | apply Kept.outRefused | apply Kept.outNext

theorem State.rqCommit_kept {s0 s : State} (v : Word) (h : Kept s0 s) :
    Kept s0 (State.rqCommit s v) := by
  unfold State.rqCommit
  with_reducible repeat' first | assumption | apply State.commitRing_kept | apply State.setFlag_kept | refine Kept.ofFst (by assumption) ?_ | dsimp only | split | refine Kept.upd ?_

theorem execRqCtx7Commit_kept {s0 : State} (v : Word) {s : State} (h : Kept s0 s) :
    Kept.Out s0 (execRqCtx7Commit v s) := by
  unfold execRqCtx7Commit
  with_reducible repeat' first | assumption | apply State.pfReach_kept | apply State.rqCommit_kept | apply Kept.outFault | apply Kept.outRefused | apply Kept.outNext

theorem State.ringMessage_kept {s0 s : State} (r : ℕ) (h : Kept s0 s) :
    Kept s0 (State.ringMessage s r) := by
  unfold State.ringMessage
  with_reducible repeat' first | assumption | apply State.msixDue_kept | apply State.setRing_kept

theorem State.countIrq_kept {s0 s : State} (r : ℕ) (h : Kept s0 s) :
    Kept s0 (State.countIrq s r) := by
  unfold State.countIrq
  with_reducible repeat' first | assumption | apply State.setRing_kept | apply State.ringMessage_kept | dsimp only | split

theorem execModerationTimeout_kept {s0 : State} (r : RingIx) {s : State} (h : Kept s0 s) :
    Kept.Out s0 (execModerationTimeout r s) := by
  unfold execModerationTimeout
  with_reducible repeat' first | assumption | apply State.ringMessage_kept | apply Kept.outFault | apply Kept.outRefused | apply Kept.outNext | dsimp only | split

theorem State.doorIgnored_kept {s0 s : State} (off : ℕ) (h : Kept s0 s) :
    Kept s0 (State.doorIgnored s off) := by
  unfold State.doorIgnored
  with_reducible repeat' first | assumption | apply State.ignoredWrite_kept

theorem State.doorWrite_kept {s0 s : State} (d : Door) (f : State → ℕ → ℕ → State) (h : Kept s0 s) (hf : ∀ a b c, Kept s0 a → Kept s0 (f a b c)) :
    Kept s0 (State.doorWrite s d f) := by
  unfold State.doorWrite
  with_reducible repeat' first | assumption | apply hf | apply State.doorIgnored_kept | refine Kept.ofFst (by assumption) ?_ | dsimp only | split

theorem State.sqTail_kept {s0 : State} (v : Word) {s : State} (r off : ℕ) (h : Kept s0 s) :
    Kept s0 (State.sqTail v s r off) := by
  unfold State.sqTail
  with_reducible repeat' first | assumption | apply State.doorIgnored_kept | apply State.setRing_kept | dsimp only | split

theorem execSqTailDoorbell_kept {s0 : State} (d : Door) (v : Word) {s : State} (h : Kept s0 s) :
    Kept.Out s0 (execSqTailDoorbell d v s) := by
  unfold execSqTailDoorbell
  with_reducible repeat' first | assumption | apply State.doorWrite_kept | apply State.sqTail_kept | apply Kept.outFault | apply Kept.outRefused | apply Kept.outNext

theorem State.cqHead_kept {s0 : State} (v : Word) {s : State} (r off : ℕ) (h : Kept s0 s) :
    Kept s0 (State.cqHead v s r off) := by
  unfold State.cqHead
  with_reducible repeat' first | assumption | apply State.doorIgnored_kept | apply State.setRing_kept | dsimp only | split

theorem execCqHeadDoorbell_kept {s0 : State} (d : Door) (v : Word) {s : State} (h : Kept s0 s) :
    Kept.Out s0 (execCqHeadDoorbell d v s) := by
  unfold execCqHeadDoorbell
  with_reducible repeat' first | assumption | apply State.doorWrite_kept | apply State.cqHead_kept | apply Kept.outFault | apply Kept.outRefused | apply Kept.outNext

theorem State.irqArmRing_kept {s0 : State} (v : Word) {s : State} (r _off : ℕ) (h : Kept s0 s) :
    Kept s0 (State.irqArmRing v s r _off) := by
  unfold State.irqArmRing
  with_reducible repeat' first | assumption | apply State.setRing_kept | apply State.ringMessage_kept | dsimp only | split

theorem execIrqArm_kept {s0 : State} (d : Door) (v : Word) {s : State} (h : Kept s0 s) :
    Kept.Out s0 (execIrqArm d v s) := by
  unfold execIrqArm
  with_reducible repeat' first | assumption | apply State.doorWrite_kept | apply State.irqArmRing_kept | apply Kept.outFault | apply Kept.outRefused | apply Kept.outNext

theorem State.ringWrite_kept {s0 s : State} (r p addr : ℕ) (bs : List Byte) (h : Kept s0 s) :
    Kept s0 (State.ringWrite s r p addr bs) := by
  unfold State.ringWrite
  with_reducible repeat' first | assumption | apply State.writeHost_kept | apply State.store_kept | dsimp only | split

theorem State.statusBlock_kept {s0 s : State} (r p : ℕ) (h : Kept s0 s) :
    Kept s0 (State.statusBlock s r p) := by
  unfold State.statusBlock
  with_reducible repeat' first | assumption | apply State.ringWrite_kept | apply State.setRing_kept

end Sys2Proof.Machine
end

