-- ==== Sys2Proof/Laws/KeptRmo.lean ====
section
/-!
SUPPORT. What the operations of Machine/Rmo.lean keep (Kept).
-/

namespace Sys2Proof.Machine

set_option simprocs false
set_option Elab.async false

theorem State.rmoPut_kept {s0 s : State} (x : RmoCall) (f : ℕ → Rmo) (h : Kept s0 s) :
    Kept s0 (State.rmoPut s x f) := by
  unfold State.rmoPut
  with_reducible repeat' first | assumption | apply State.fresh_kept | apply State.updDesc_kept | refine Kept.ofFst (by assumption) ?_ | refine Kept.ofSnd (by assumption) ?_ | dsimp only | split | refine Kept.upd ?_

theorem State.rmoCopy_kept {s0 s : State} (x : RmoCall) (k : RmoKind) (r : RmoReq) (da : ℕ) (db : ℕ) (h : Kept s0 s) :
    Kept s0 (State.rmoCopy s x k r da db).1 := by
  unfold State.rmoCopy
  with_reducible repeat' first | assumption | apply State.takeRows_kept | apply State.setLocal_kept | apply State.copyRows_kept | refine Kept.ofFst (by assumption) ?_ | dsimp only | split | refine Kept.upd ?_ | intro _

theorem State.rmoWord_kept {s0 s : State} (k : RmoKind) (r : RmoReq) (da db : ℕ) (h : Kept s0 s) :
    Kept s0 (State.rmoWord s k r da db).1 := by
  unfold State.rmoWord
  with_reducible repeat' first | assumption | apply State.wordAccess_kept | apply State.storeNat_kept | apply State.returnOld_kept | refine Kept.ofFst (by assumption) ?_ | dsimp only | split

theorem State.rmoWaitPut_kept {s0 s : State} (x : RmoCall) (r : RmoReq) (da db : ℕ) (h : Kept s0 s) :
    Kept s0 (State.rmoWaitPut s x r da db) := by
  unfold State.rmoWaitPut
  with_reducible repeat' first | assumption | apply State.wordAccess_kept | apply State.rmoPut_kept | refine Kept.ofFst (by assumption) ?_ | dsimp only | split

theorem State.rmoPerform_kept {s0 s : State} (x : RmoCall) (k : RmoKind) (r : RmoReq) (da db : ℕ) (h : Kept s0 s) :
    Kept s0 (State.rmoPerform s x k r da db) := by
  unfold State.rmoPerform
  with_reducible repeat' first | assumption | apply State.rmoCopy_kept | apply State.rmoPut_kept | apply State.rmoWaitPut_kept | apply State.rmoWord_kept | refine Kept.ofFst (by assumption) ?_ | dsimp only | split

theorem State.rmoRefuse_kept {s0 s : State} (x : RmoCall) (k : RmoKind) (r : RmoReq) (st : Status) (addr : ℕ) (h : Kept s0 s) :
    Kept s0 (State.rmoRefuse s x k r st addr) := by
  unfold State.rmoRefuse
  with_reducible repeat' first | assumption | apply State.rmoPut_kept | apply State.noteFault_kept

theorem State.rmoShade_kept {s0 s : State} (x : RmoCall) (k : RmoKind) (r : RmoReq) (da db : ℕ) (h : Kept s0 s) :
    Kept s0 (State.rmoShade s x k r da db).1 := by
  unfold State.rmoShade
  with_reducible repeat' first | assumption | apply State.shadeAskAll_kept | refine Kept.ofFst (by assumption) ?_ | dsimp only | split

theorem State.rmoStep_kept {s0 s : State} (k : RmoKind) (src : RmoSrc) (h : Kept s0 s) :
    Kept s0 (State.rmoStep s k src) := by
  unfold State.rmoStep
  with_reducible repeat' first | assumption | apply State.rmoRefuse_kept | apply State.rmoShade_kept | apply State.rmoPerform_kept | refine Kept.ofFst (by assumption) ?_ | dsimp only | split

theorem execRmoPut_kept {s0 : State} (src : RmoSrc) {s : State} (h : Kept s0 s) :
    Kept.Out s0 (execRmoPut src s) := by
  unfold execRmoPut
  with_reducible repeat' first | assumption | apply State.rmoStep_kept | apply Kept.outFault | apply Kept.outRefused | apply Kept.outNext

theorem execRmoGet_kept {s0 : State} (src : RmoSrc) {s : State} (h : Kept s0 s) :
    Kept.Out s0 (execRmoGet src s) := by
  unfold execRmoGet
  with_reducible repeat' first | assumption | apply State.rmoStep_kept | apply Kept.outFault | apply Kept.outRefused | apply Kept.outNext

theorem execRmoAdd32_kept {s0 : State} (src : RmoSrc) {s : State} (h : Kept s0 s) :
    Kept.Out s0 (execRmoAdd32 src s) := by
  unfold execRmoAdd32
  with_reducible repeat' first | assumption | apply State.rmoStep_kept | apply Kept.outFault | apply Kept.outRefused | apply Kept.outNext

theorem execRmoAddf32_kept {s0 : State} (src : RmoSrc) {s : State} (h : Kept s0 s) :
    Kept.Out s0 (execRmoAddf32 src s) := by
  unfold execRmoAddf32
  with_reducible repeat' first | assumption | apply State.rmoStep_kept | apply Kept.outFault | apply Kept.outRefused | apply Kept.outNext

theorem execRmoSwap64_kept {s0 : State} (src : RmoSrc) {s : State} (h : Kept s0 s) :
    Kept.Out s0 (execRmoSwap64 src s) := by
  unfold execRmoSwap64
  with_reducible repeat' first | assumption | apply State.rmoStep_kept | apply Kept.outFault | apply Kept.outRefused | apply Kept.outNext

theorem execRmoCas64_kept {s0 : State} (src : RmoSrc) {s : State} (h : Kept s0 s) :
    Kept.Out s0 (execRmoCas64 src s) := by
  unfold execRmoCas64
  with_reducible repeat' first | assumption | apply State.rmoStep_kept | apply Kept.outFault | apply Kept.outRefused | apply Kept.outNext

theorem execRmoSignal_kept {s0 : State} (src : RmoSrc) {s : State} (h : Kept s0 s) :
    Kept.Out s0 (execRmoSignal src s) := by
  unfold execRmoSignal
  with_reducible repeat' first | assumption | apply State.rmoStep_kept | apply Kept.outFault | apply Kept.outRefused | apply Kept.outNext

theorem execRmoWait_kept {s0 : State} (src : RmoSrc) {s : State} (h : Kept s0 s) :
    Kept.Out s0 (execRmoWait src s) := by
  unfold execRmoWait
  with_reducible repeat' first | assumption | apply State.rmoStep_kept | apply Kept.outFault | apply Kept.outRefused | apply Kept.outNext

theorem execRmoFence_kept {s0 : State} (src : RmoSrc) {s : State} (h : Kept s0 s) :
    Kept.Out s0 (execRmoFence src s) := by
  unfold execRmoFence
  with_reducible repeat' first | assumption | apply State.rmoStep_kept | apply Kept.outFault | apply Kept.outRefused | apply Kept.outNext

theorem State.rmoDone_kept {s0 s : State} (id : ℕ) (h : Kept s0 s) :
    Kept s0 (State.rmoDone s id) := by
  unfold State.rmoDone
  with_reducible repeat' first | assumption | apply State.returnOld_kept | apply State.updDesc_kept | apply State.descDone_kept | refine Kept.ofFst (by assumption) ?_ | dsimp only | split | refine Kept.upd ?_

theorem execRmoComplete_kept {s0 : State} (id : ℕ) {s : State} (h : Kept s0 s) :
    Kept.Out s0 (execRmoComplete id s) := by
  unfold execRmoComplete
  with_reducible repeat' first | assumption | apply State.rmoDone_kept | apply Kept.outFault | apply Kept.outRefused | apply Kept.outNext

theorem execWaitRetest_kept {s0 : State} (da : ℕ) {s : State} (h : Kept s0 s) :
    Kept.Out s0 (execWaitRetest da s) := by
  unfold execWaitRetest
  with_reducible repeat' first | assumption | apply State.retestRead_kept | apply Kept.outFault | apply Kept.outRefused | apply Kept.outNext

theorem State.waitTest_kept {s0 s : State} (id : ℕ) (sel : Rmo → Bool) (expired : Bool) (h : Kept s0 s) :
    Kept s0 (State.waitTest s id sel expired) := by
  unfold State.waitTest
  with_reducible repeat' first | assumption | apply State.waitErrors_kept | dsimp only | split | refine Kept.upd ?_

theorem execWaitPoll_kept {s0 : State} (id : ℕ) {s : State} (h : Kept s0 s) :
    Kept.Out s0 (execWaitPoll id s) := by
  unfold execWaitPoll
  with_reducible repeat' first | assumption | apply State.waitTest_kept | apply Kept.outFault | apply Kept.outRefused | apply Kept.outNext

theorem execWaitTimeout_kept {s0 : State} (id : ℕ) {s : State} (h : Kept s0 s) :
    Kept.Out s0 (execWaitTimeout id s) := by
  unfold execWaitTimeout
  with_reducible repeat' first | assumption | apply State.waitTest_kept | apply Kept.outFault | apply Kept.outRefused | apply Kept.outNext

end Sys2Proof.Machine
end

