-- ==== Sys2Proof/Laws/KeptDram.lean ====
section
/-!
SUPPORT. What the operations of Machine/Dram.lean keep (Kept).
-/

namespace Sys2Proof.Machine

set_option simprocs false
set_option Elab.async false

theorem State.applyDelays_kept {s0 s : State} (n c : ℕ) (h : Kept s0 s) :
    Kept s0 (State.applyDelays s n c) := by
  unfold State.applyDelays
  with_reducible repeat' first | assumption | apply State.setReg_kept | apply State.setChan_kept | refine Kept.foldl ?_ (fun _ _ _ => ?_)

theorem State.refreshBank_kept {s0 s : State} (n c b : ℕ) (h : Kept s0 s) :
    Kept s0 (State.refreshBank s n c b) := by
  unfold State.refreshBank
  with_reducible repeat' first | assumption | apply State.applyDelays_kept | apply State.setChan_kept

theorem execRefresh_kept {s0 : State} (n : McIx) (c : ChIx) {s : State} (h : Kept s0 s) :
    Kept.Out s0 (execRefresh n c s) := by
  unfold execRefresh
  with_reducible repeat' first | assumption | apply State.refreshBank_kept | apply Kept.outFault | apply Kept.outRefused | apply Kept.outNext | refine Kept.ofFst (by assumption) ?_ | dsimp only | split

theorem State.dramWrite_kept {s0 s : State} (r : DramReq) (h : Kept s0 s) :
    Kept s0 (State.dramWrite s r) := by
  unfold State.dramWrite
  with_reducible repeat' first | assumption | apply State.storeUnits_kept

theorem State.dramUncorrectable_kept {s0 s : State} (da : ℕ) (h : Kept s0 s) :
    Kept s0 (State.dramUncorrectable s da) := by
  unfold State.dramUncorrectable
  with_reducible repeat' first | assumption | apply State.setPoison_kept | apply State.memError_kept | dsimp only | split

theorem State.dramReadEvent_kept {s0 s : State} (n da : ℕ) (ev : DramEvent) (h : Kept s0 s) :
    Kept s0 (State.dramReadEvent s n da ev).1 := by
  unfold State.dramReadEvent
  with_reducible repeat' first | assumption | apply State.bump_kept | apply State.dramUncorrectable_kept | refine Kept.ofFst (by assumption) ?_ | dsimp only | split

theorem State.dramAdmit_kept {s0 s : State} (n c zs : ℕ) (h : Kept s0 s) :
    Kept s0 (State.dramAdmit s n c zs) := by
  induction zs generalizing s n c with
  | zero =>
    rw [State.dramAdmit]
    with_reducible repeat' first | apply ih | assumption
  | succ zs ih =>
    rw [State.dramAdmit]
    with_reducible repeat' first | apply ih | assumption | apply State.setChan_kept | apply State.dramWrite_kept | dsimp only | split

theorem State.dramArrive_kept {s0 s : State} (n c : ℕ) (zs : List DramReq) (h : Kept s0 s) :
    Kept s0 (State.dramArrive s n c zs) := by
  induction zs generalizing s n c with
  | nil =>
    rw [State.dramArrive]
    with_reducible repeat' first | apply ih | assumption
  | cons z zs ih =>
    rw [State.dramArrive]
    with_reducible repeat' first | apply ih | assumption | apply State.setChan_kept | dsimp only | split | refine Kept.upd ?_

theorem State.touchRow_kept {s0 s : State} (n c da : ℕ) (h : Kept s0 s) :
    Kept s0 (State.touchRow s n c da) := by
  unfold State.touchRow
  with_reducible repeat' first | assumption | apply State.setChan_kept

theorem State.dramPromo_kept {s0 s : State} (n : ℕ) (q : QReq) (h : Kept s0 s) :
    Kept s0 (State.dramPromo s n q) := by
  unfold State.dramPromo
  with_reducible repeat' first | assumption | apply State.bump_kept | dsimp only | split

theorem State.dramServeRead_kept {s0 s : State} (n c : ℕ) (q : QReq) (ev : DramEvent) (h : Kept s0 s) :
    Kept s0 (State.dramServeRead s n c q ev) := by
  unfold State.dramServeRead
  with_reducible repeat' first | assumption | apply State.dramPromo_kept | apply State.touchRow_kept | apply State.setChan_kept | apply State.dramReadEvent_kept | refine Kept.ofFst (by assumption) ?_ | dsimp only | split | refine Kept.upd ?_

theorem State.dramServeWrite_kept {s0 s : State} (n c : ℕ) (q : QReq) (h : Kept s0 s) :
    Kept s0 (State.dramServeWrite s n c q) := by
  unfold State.dramServeWrite
  with_reducible repeat' first | assumption | apply State.dramPromo_kept | apply State.touchRow_kept | apply State.setChan_kept

theorem State.dramSlot_kept {s0 s : State} (n c : ℕ) (arrivals : List DramReq) (ev : DramEvent) (h : Kept s0 s) :
    Kept s0 (State.dramSlot s n c arrivals ev) := by
  unfold State.dramSlot
  with_reducible repeat' first | assumption | apply State.dramArrive_kept | apply State.dramAdmit_kept | apply State.refreshBank_kept | apply State.setChan_kept | apply State.dramServeWrite_kept | apply State.dramServeRead_kept | dsimp only | split

theorem execChannelCommandSlot_kept {s0 : State} (n : McIx) (c : ChIx) (arrivals : List DramReq) (ev : DramEvent) {s : State} (h : Kept s0 s) :
    Kept.Out s0 (execChannelCommandSlot n c arrivals ev s) := by
  unfold execChannelCommandSlot
  with_reducible repeat' first | assumption | apply State.dramSlot_kept | apply Kept.outFault | apply Kept.outRefused | apply Kept.outNext | dsimp only | split

theorem State.mr4Chan_kept {s0 s : State} (n c v : ℕ) (h : Kept s0 s) :
    Kept s0 (State.mr4Chan s n c v) := by
  unfold State.mr4Chan
  with_reducible repeat' first | assumption | apply State.setFld_kept | apply State.setChan_kept | apply State.setFlag_kept | apply State.sootEvent_kept | dsimp only | split

theorem execMr4Poll_kept {s0 : State} (n : McIx) (c0 : Fin 5) (c1 : Fin 5) (c2 : Fin 5) (c3 : Fin 5) {s : State} (h : Kept s0 s) :
    Kept.Out s0 (execMr4Poll n c0 c1 c2 c3 s) := by
  unfold execMr4Poll
  with_reducible repeat' first | assumption | apply State.mr4Chan_kept | apply Kept.outFault | apply Kept.outRefused | apply Kept.outNext | dsimp only | split

theorem execPageIdleClose_kept {s0 : State} (n : McIx) (c : ChIx) (bank : Fin 16) {s : State} (h : Kept s0 s) :
    Kept.Out s0 (execPageIdleClose n c bank s) := by
  unfold execPageIdleClose
  with_reducible repeat' first | assumption | apply State.setChan_kept | apply Kept.outFault | apply Kept.outRefused | apply Kept.outNext

theorem State.patrolRead_kept {s0 s : State} (n c : ℕ) (ev : DramEvent) (h : Kept s0 s) :
    Kept s0 (State.patrolRead s n c ev) := by
  unfold State.patrolRead
  with_reducible repeat' first | assumption | apply State.setChan_kept | apply State.drawFree_kept | apply State.dramReadEvent_kept | refine Kept.ofFst (by assumption) ?_ | refine Kept.ofSnd (by assumption) ?_ | dsimp only | split

theorem execPatrolRead_kept {s0 : State} (n : McIx) (c : ChIx) (ev : DramEvent) {s : State} (h : Kept s0 s) :
    Kept.Out s0 (execPatrolRead n c ev s) := by
  unfold execPatrolRead
  with_reducible repeat' first | assumption | apply State.patrolRead_kept | apply Kept.outFault | apply Kept.outRefused | apply Kept.outNext

theorem State.delayReplan_kept {s0 s : State} (n : ℕ) (c : ℕ) (lane : ℕ) (h : Kept s0 s) :
    Kept s0 (State.delayReplan s n c lane) := by
  unfold State.delayReplan
  with_reducible repeat' first | assumption | apply Kept.ite | apply State.setChan_kept | apply State.troubleLog_kept | apply State.sootEvent_kept | refine Kept.foldl ?_ (fun _ _ _ => ?_) | refine Kept.foldlFst ?_ (fun _ _ _ => ?_) | refine Kept.ofFst (by assumption) ?_ | dsimp only | split

theorem State.marginStep_kept {s0 s : State} (n c lane : ℕ) (dir : ScanDir) (passed : Bool) (h : Kept s0 s) :
    Kept s0 (State.marginStep s n c lane dir passed) := by
  unfold State.marginStep
  with_reducible repeat' first | assumption | apply State.setChan_kept | apply State.delayReplan_kept | apply State.setFld_kept | refine Kept.ofFst (by assumption) ?_ | dsimp only | split

theorem execMarginScanStep_kept {s0 : State} (n : McIx) (c : ChIx) (lane : Fin 2) (dir : ScanDir) (passed : Bool) {s : State} (h : Kept s0 s) :
    Kept.Out s0 (execMarginScanStep n c lane dir passed s) := by
  unfold execMarginScanStep
  with_reducible repeat' first | assumption | apply State.marginStep_kept | apply Kept.outFault | apply Kept.outRefused | apply Kept.outNext

theorem execDelayPlanSave_kept {s0 s : State} (h : Kept s0 s) :
    Kept.Out s0 (execDelayPlanSave s) := by
  unfold execDelayPlanSave
  with_reducible repeat' first | assumption | apply Kept.outFault | apply Kept.outRefused | apply Kept.outNext | dsimp only | split | refine Kept.upd ?_

theorem execControllerFailure_kept {s0 : State} (n : McIx) (kind : McFailKind) {s : State} (h : Kept s0 s) :
    Kept.Out s0 (execControllerFailure n kind s) := by
  unfold execControllerFailure
  with_reducible repeat' first | assumption | apply State.mcFail_kept | apply Kept.outFault | apply Kept.outRefused | apply Kept.outNext

theorem State.dramRefreshStatus_kept {s0 s : State} (h : Kept s0 s) :
    Kept s0 (State.dramRefreshStatus s) := by
  unfold State.dramRefreshStatus
  with_reducible repeat' first | assumption | apply State.setReg_kept

theorem State.dramCfgWrite_kept {s0 s : State} (v : Word) (h : Kept s0 s) :
    Kept s0 (State.dramCfgWrite s v) := by
  unfold State.dramCfgWrite
  with_reducible repeat' first | assumption | apply State.lockViolation_kept | apply State.dramRefreshStatus_kept | apply State.setReg_kept | dsimp only | split

theorem State.mcCtrlWrite_kept {s0 s : State} (n : ℕ) (v : Word) (h : Kept s0 s) :
    Kept s0 (State.mcCtrlWrite s n v) := by
  unfold State.mcCtrlWrite
  with_reducible repeat' first | assumption | apply State.dramReadyUpdate_kept | apply State.setReg_kept

end Sys2Proof.Machine
end

