-- ==== Sys2Proof/Laws/KeptStreamCore.lean ====
section
/-!
SUPPORT. What the operations of Machine/StreamCore.lean keep (Kept).
-/

namespace Sys2Proof.Machine

set_option simprocs false
set_option Elab.async false

theorem State.updStream_kept {s0 s : State} (p ix : ℕ) (f : Stream → Stream) (h : Kept s0 s) :
    Kept s0 (State.updStream s p ix f) := by
  unfold State.updStream
  with_reducible repeat' first | assumption | dsimp only | split | refine Kept.upd ?_

theorem State.updDec_kept {s0 s : State} (c : ℕ) (f : DecCtx → DecCtx) (h : Kept s0 s) :
    Kept s0 (State.updDec s c f) := by
  unfold State.updDec
  with_reducible repeat' first | assumption | dsimp only | split | refine Kept.upd ?_

theorem State.updEntry_kept {s0 s : State} (e : ℕ) (f : Entry → Entry) (h : Kept s0 s) :
    Kept s0 (State.updEntry s e f) := by
  unfold State.updEntry
  with_reducible repeat' first | assumption | dsimp only | split | refine Kept.upd ?_

theorem State.chainDrop_kept {s0 s : State} (c frame : ℕ) (h : Kept s0 s) :
    Kept s0 (State.chainDrop s c frame) := by
  unfold State.chainDrop
  with_reducible repeat' first | assumption | apply State.updDec_kept

theorem State.frameToChain_kept {s0 s : State} (p ix : ℕ) (c frame : ℕ) (desc : List Byte) (grain : List Byte) (h : Kept s0 s) :
    Kept s0 (State.frameToChain s p ix c frame desc grain) := by
  unfold State.frameToChain
  with_reducible repeat' first | assumption | apply State.chainDrop_kept | apply State.updStream_kept | dsimp only | split

theorem State.finishJob_kept {s0 s : State} (p ix i : ℕ) (h : Kept s0 s) :
    Kept s0 (State.finishJob s p ix i) := by
  unfold State.finishJob
  with_reducible repeat' first | assumption | apply State.updStream_kept | dsimp only | split

theorem State.bmrGone_kept {s0 s : State} (p ix : ℕ) (h : Kept s0 s) :
    Kept s0 (State.bmrGone s p ix) := by
  unfold State.bmrGone
  with_reducible repeat' first | assumption | apply State.updStream_kept | apply State.updCmd_kept | refine Kept.foldl ?_ (fun _ _ _ => ?_) | refine Kept.foldlFst ?_ (fun _ _ _ => ?_) | dsimp only | split

theorem State.bmrSkips_kept {s0 s : State} (p : ℕ) (ix : ℕ) (i : ℕ) (h : Kept s0 s) :
    Kept s0 (State.bmrSkips s p ix i) := by
  unfold State.bmrSkips
  with_reducible repeat' first | assumption | apply State.updStream_kept

theorem State.ringTailWrite_kept {s0 s : State} (r p : ℕ) (bs : List Byte) (h : Kept s0 s) :
    Kept s0 (State.ringTailWrite s r p bs) := by
  unfold State.ringTailWrite
  with_reducible repeat' first | assumption | apply State.ringWrite_kept | dsimp only | split

theorem State.bmrWrite_kept {s0 s : State} (p : ℕ) (ix : ℕ) (h : Kept s0 s) :
    Kept s0 (State.bmrWrite s p ix) := by
  unfold State.bmrWrite
  with_reducible repeat' first | assumption | apply Kept.ite | apply State.shadeAskAll_kept | apply State.bmrSkips_kept | apply State.ringTailWrite_kept | apply State.statusBlock_kept | apply State.setRing_kept | apply State.bmrGone_kept | apply State.countIrq_kept | apply State.updStream_kept | refine Kept.ofFst (by assumption) ?_ | dsimp only | split

theorem execBmrWrite_kept {s0 : State} (p : PartIx) (ix : StreamIx) {s : State} (h : Kept s0 s) :
    Kept.Out s0 (execBmrWrite p ix s) := by
  unfold execBmrWrite
  with_reducible repeat' first | assumption | apply State.bmrWrite_kept | apply Kept.outFault | apply Kept.outRefused | apply Kept.outNext

end Sys2Proof.Machine
end

