-- ==== Sys2Proof/Laws/KeptShaper.lean ====
section
/-!
SUPPORT. What the operations of Machine/Shaper.lean keep (Kept).
-/

namespace Sys2Proof.Machine

set_option simprocs false
set_option Elab.async false

theorem State.engineTurn_kept {s0 s : State} (u : ℕ) (c : Cmd) (sel : Cmd → Bool) (h : Kept s0 s) :
    Kept s0 (State.engineTurn s u c sel).1 := by
  unfold State.engineTurn
  with_reducible repeat' first | assumption | apply State.arbStart_kept | apply State.updCmd_kept | refine Kept.ofFst (by assumption) ?_ | dsimp only | split

theorem State.updJob_kept {s0 s : State} (c : Cmd) (f : FrameJob → FrameJob) (h : Kept s0 s) :
    Kept s0 (State.updJob s c f) := by
  unfold State.updJob
  with_reducible repeat' first | assumption | apply State.updStream_kept | dsimp only | split

theorem State.putPixel_kept {s0 s : State} (f : List Byte) (da x y : ℕ) (codes : List ℕ) (h : Kept s0 s) :
    Kept s0 (State.putPixel s f da x y codes) := by
  unfold State.putPixel
  with_reducible repeat' first | assumption | apply State.store_kept | refine Kept.foldl ?_ (fun _ _ _ => ?_) | refine Kept.foldlFst ?_ (fun _ _ _ => ?_) | refine Kept.ofFst (by assumption) ?_ | dsimp only | split

theorem State.frameFail_kept {s0 s : State} (block : ℕ) (p : ℕ) (e : FrameErr) (h : Kept s0 s) :
    Kept s0 (State.frameFail s block p e) := by
  unfold State.frameFail
  with_reducible repeat' first | assumption | apply State.useHandle_kept | apply State.noteFault_kept | refine Kept.ofFst (by assumption) ?_ | dsimp only | split

theorem State.shapePixels_kept {s0 s : State} (p : ℕ) (f : List Byte) (d : List Byte) (g : Geom) (da : ℕ) (i : ℕ) (sat : ℕ) (zs : ℕ) (h : Kept s0 s) :
    Kept s0 (State.shapePixels s p f d g da i sat zs).1 := by
  induction zs generalizing s p f d g da i sat with
  | zero =>
    rw [State.shapePixels]
    with_reducible repeat' first | apply ih | assumption
  | succ zs ih =>
    rw [State.shapePixels]
    with_reducible repeat' first | apply ih | assumption | apply State.putPixel_kept | apply State.frameFail_kept | refine Kept.ofFst (by assumption) ?_ | dsimp only | split

theorem State.keepProfiles_kept {s0 s : State} (id : ℕ) (l : List (ℕ × List Byte)) (h : Kept s0 s) :
    Kept s0 (State.keepProfiles s id l) := by
  unfold State.keepProfiles
  with_reducible repeat' first | assumption | apply State.updCmd_kept

theorem State.shapeEnd_kept {s0 s : State} (c : Cmd) (n : ℕ) (st : Status) (detail : Word) (h : Kept s0 s) :
    Kept s0 (State.shapeEnd s c n st detail) := by
  unfold State.shapeEnd
  with_reducible repeat' first | assumption | apply State.bump_kept | apply State.endCmd_kept | dsimp only | split

theorem State.shapeRun_kept {s0 s : State} (c : Cmd) (n : ℕ) (f : List Byte) (d : List Byte) (da : ℕ) (h : Kept s0 s) :
    Kept s0 (State.shapeRun s c n f d da) := by
  unfold State.shapeRun
  with_reducible repeat' first | assumption | apply Kept.ite | apply State.shadeAskAll_kept | apply State.keepProfiles_kept | apply State.shapePixels_kept | apply State.shapeEnd_kept | apply State.bump_kept | refine Kept.ofFst (by assumption) ?_ | dsimp only | split

theorem State.shapeFail_kept {s0 s : State} (c : Cmd) (n : ℕ) (e : Status × Option ℕ) (h : Kept s0 s) :
    Kept s0 (State.shapeFail s c n e) := by
  unfold State.shapeFail
  with_reducible repeat' first | assumption | apply State.shapeEnd_kept | apply State.noteFault_kept

theorem State.shapeMove_kept {s0 s : State} (c : Cmd) (h : Kept s0 s) :
    Kept s0 (State.shapeMove s c) := by
  unfold State.shapeMove
  with_reducible repeat' first | assumption | apply State.updCmd_kept | apply State.endCmd_kept | dsimp only | split

theorem State.opShape_kept {s0 : State} (c : Cmd) {s : State} (h : Kept s0 s) :
    Kept s0 (State.opShape c s) := by
  unfold State.opShape
  with_reducible repeat' first | assumption | apply Kept.ite | apply State.shapeMove_kept | apply State.engineTurn_kept | apply State.shapeFail_kept | apply State.shapeEnd_kept | apply State.shapeRun_kept | refine Kept.ofFst (by assumption) ?_ | dsimp only | split

theorem execShape_kept {s0 : State} (id : ℕ) {s : State} (h : Kept s0 s) :
    Kept.Out s0 (execShape id s) := by
  unfold execShape
  with_reducible repeat' first | assumption | apply State.runOp_kept | apply State.opShape_kept | apply Kept.outFault | apply Kept.outRefused | apply Kept.outNext

end Sys2Proof.Machine
end

