-- ==== Sys2Proof/Laws/KeptSnuffer.lean ====
section
/-!
SUPPORT. What the operations of Machine/Snuffer.lean keep (Kept).
-/

namespace Sys2Proof.Machine

set_option simprocs false
set_option Elab.async false

theorem State.snuffDone_kept {s0 s : State} (c : Cmd) (q : ℕ) (o : SnuffOut) (h : Kept s0 s) :
    Kept s0 (State.snuffDone s c q o) := by
  unfold State.snuffDone
  with_reducible repeat' first | assumption | apply State.bump_kept | apply State.updStream_kept | apply State.updJob_kept | apply State.endCmd_kept | dsimp only | split

theorem State.opSnuff_kept {s0 : State} (c : Cmd) {s : State} (h : Kept s0 s) :
    Kept s0 (State.opSnuff c s) := by
  unfold State.opSnuff
  with_reducible repeat' first | assumption | apply Kept.ite | apply State.endCmd_kept | apply State.engineTurn_kept | apply State.noteFault_kept | apply State.shadeAskAll_kept | apply State.keepProfiles_kept | apply State.snuffDone_kept | refine Kept.ofFst (by assumption) ?_ | dsimp only | split

theorem execSnuff_kept {s0 : State} (id : ℕ) {s : State} (h : Kept s0 s) :
    Kept.Out s0 (execSnuff id s) := by
  unfold execSnuff
  with_reducible repeat' first | assumption | apply State.runOp_kept | apply State.opSnuff_kept | apply Kept.outFault | apply Kept.outRefused | apply Kept.outNext

end Sys2Proof.Machine
end

