-- ==== Sys2Proof/Laws/KeptTracker.lean ====
section
/-!
SUPPORT. What the operations of Machine/Tracker.lean keep (Kept).
-/

namespace Sys2Proof.Machine

set_option simprocs false
set_option Elab.async false

theorem State.auction_kept {s0 s : State} (f : List Byte) (ps : List Pair) (dets : List ℕ) (prices : Tab Word) (m : List (ℕ × ℕ)) (zs : ℕ) (h : Kept s0 s) :
    Kept s0 (State.auction s f ps dets prices m zs).1 := by
  induction zs generalizing s f ps dets prices m with
  | zero =>
    rw [State.auction]
    with_reducible repeat' first | apply ih | assumption
  | succ zs ih =>
    rw [State.auction]
    with_reducible repeat' first | apply ih | assumption | apply State.drawFree_kept | refine Kept.ofFst (by assumption) ?_ | refine Kept.ofSnd (by assumption) ?_ | dsimp only | split

theorem State.associate_kept {s0 s : State} (f : List Byte) (det : Bool) (ds : List Det) (ts : List (ℕ × Track)) (h : Kept s0 s) :
    Kept s0 (State.associate s f det ds ts).1 := by
  unfold State.associate
  with_reducible repeat' first | assumption | apply State.auction_kept | refine Kept.ofFst (by assumption) ?_ | dsimp only | split

theorem State.rebuildIndex_kept {s0 s : State} (q : ℕ) (h : Kept s0 s) :
    Kept s0 (State.rebuildIndex s q) := by
  unfold State.rebuildIndex
  with_reducible repeat' first | assumption | apply State.setQuad_kept

theorem execIndexRebuildPass_kept {s0 : State} (n : QuadIx) {s : State} (h : Kept s0 s) :
    Kept.Out s0 (execIndexRebuildPass n s) := by
  unfold execIndexRebuildPass
  with_reducible repeat' first | assumption | apply State.rebuildIndex_kept | apply Kept.outFault | apply Kept.outRefused | apply Kept.outNext | dsimp only | split

theorem State.indexBoundary_kept {s0 s : State} (q : ℕ) (h : Kept s0 s) :
    Kept s0 (State.indexBoundary s q) := by
  unfold State.indexBoundary
  with_reducible repeat' first | assumption | apply State.setQuad_kept | apply State.bump_kept | refine Kept.ofFst (by assumption) ?_ | dsimp only | split

theorem State.lostObj_kept {s0 s : State} (t : Track) (h : Kept s0 s) :
    Kept s0 (State.lostObj s t).2 := by
  unfold State.lostObj
  with_reducible repeat' first | assumption | apply State.drawFree_kept

theorem State.lostObjs_kept {s0 s : State} (zs : List Track) (h : Kept s0 s) :
    Kept s0 (State.lostObjs s zs).1 := by
  induction zs generalizing s with
  | nil =>
    rw [State.lostObjs]
    with_reducible repeat' first | apply ih | assumption
  | cons z zs ih =>
    rw [State.lostObjs]
    with_reducible repeat' first | apply ih | assumption | apply State.lostObj_kept

theorem State.trackRun_kept {s0 s : State} (p ix : ℕ) (st : Stream) (f : List Byte) (det : Bool) (seq digest : ℕ) (sn : SnuffOut) (h : Kept s0 s) :
    Kept s0 (State.trackRun s p ix st f det seq digest sn).1 := by
  unfold State.trackRun
  with_reducible repeat' first | assumption | apply State.associate_kept | apply State.lostObjs_kept | apply State.bump_kept | apply State.setQuad_kept

theorem State.trackEmit_kept {s0 s : State} {old : State} (c : Cmd) (st : Stream) (d : List Byte) (o : TrackOut) (h : Kept s0 s) (h1 : Kept s0 old) :
    Kept s0 (State.trackEmit s old c st d o) := by
  unfold State.trackEmit
  with_reducible repeat' first | assumption | apply Kept.ite | apply State.updStream_kept | apply State.endCmd_kept | apply State.updJob_kept | apply State.wr_kept | refine Kept.ofOk (by assumption) ?_ | apply State.noteFault_kept | apply State.updCmd_kept | apply Kept.rsErr | apply Kept.rsOk | refine Kept.ofFst (by assumption) ?_ | dsimp only | split

theorem State.trackGo_kept {s0 s : State} (c : Cmd) (st : Stream) (f : List Byte) (d : List Byte) (digest : ℕ) (tokens : List TokenList) (h : Kept s0 s) :
    Kept s0 (State.trackGo s c st f d digest tokens) := by
  unfold State.trackGo
  with_reducible repeat' first | assumption | apply State.trackRun_kept | apply State.updStream_kept | apply State.trackEmit_kept

theorem State.trackFail_kept {s0 s : State} (c : Cmd) (e : Status × Option ℕ) (h : Kept s0 s) :
    Kept s0 (State.trackFail s c e) := by
  unfold State.trackFail
  with_reducible repeat' first | assumption | apply State.endCmd_kept | apply State.noteFault_kept

theorem State.opTrack_kept {s0 : State} (tokens : List TokenList) (c : Cmd) {s : State} (h : Kept s0 s) :
    Kept s0 (State.opTrack tokens c s) := by
  unfold State.opTrack
  with_reducible repeat' first | assumption | apply Kept.ite | apply State.endCmd_kept | apply State.engineTurn_kept | apply State.indexBoundary_kept | apply State.trackFail_kept | apply State.trackGo_kept | refine Kept.ofFst (by assumption) ?_ | dsimp only | split

theorem execTrack_kept {s0 : State} (x : TrackCall) {s : State} (h : Kept s0 s) :
    Kept.Out s0 (execTrack x s) := by
  unfold execTrack
  with_reducible repeat' first | assumption | apply State.runOp_kept | apply State.opTrack_kept | apply Kept.outFault | apply Kept.outRefused | apply Kept.outNext

theorem State.dropTracks_kept {s0 s : State} (q p ix : ℕ) (h : Kept s0 s) :
    Kept s0 (State.dropTracks s q p ix) := by
  unfold State.dropTracks
  with_reducible repeat' first | assumption | apply State.setQuad_kept

theorem State.opTrackReset_kept {s0 : State} (c : Cmd) {s : State} (h : Kept s0 s) :
    Kept s0 (State.opTrackReset c s) := by
  unfold State.opTrackReset
  with_reducible repeat' first | assumption | apply State.endCmd_kept | apply State.engineTurn_kept | apply State.updStream_kept | apply State.dropTracks_kept | refine Kept.ofFst (by assumption) ?_ | dsimp only | split

theorem execTrackReset_kept {s0 : State} (id : ℕ) {s : State} (h : Kept s0 s) :
    Kept.Out s0 (execTrackReset id s) := by
  unfold execTrackReset
  with_reducible repeat' first | assumption | apply State.runOp_kept | apply State.opTrackReset_kept | apply Kept.outFault | apply Kept.outRefused | apply Kept.outNext

end Sys2Proof.Machine
end

