-- ==== Sys2Proof/Laws/KeptJpeg.lean ====
section
/-!
SUPPORT. What the operations of Machine/Jpeg.lean keep (Kept).
-/

namespace Sys2Proof.Machine

set_option simprocs false
set_option Elab.async false

theorem State.lateBmr_kept {s0 s : State} (p ix : ℕ) (f : List Byte → List Byte) (h : Kept s0 s) :
    Kept s0 (State.lateBmr s p ix f) := by
  unfold State.lateBmr
  with_reducible repeat' first | assumption | apply State.updStream_kept

theorem State.snapMissed_kept {s0 s : State} (cmd p ix : ℕ) (h : Kept s0 s) :
    Kept s0 (State.snapMissed s cmd p ix) := by
  unfold State.snapMissed
  with_reducible repeat' first | assumption | apply State.updJob_kept | apply State.lateBmr_kept | dsimp only | split

theorem State.snapRef_kept {s0 s : State} (cmd p ix : ℕ) (r : SnapRef) (h : Kept s0 s) :
    Kept s0 (State.snapRef s cmd p ix r) := by
  unfold State.snapRef
  with_reducible repeat' first | assumption | apply State.updJob_kept | apply State.lateBmr_kept | dsimp only | split

theorem State.opSnapshot_kept {s0 : State} (c : Cmd) {s : State} (h : Kept s0 s) :
    Kept s0 (State.opSnapshot c s) := by
  unfold State.opSnapshot
  with_reducible repeat' first | assumption | apply Kept.ite | apply State.endCmd_kept | apply State.noteFault_kept | apply State.bump_kept | apply State.snapMissed_kept | apply State.updCmd_kept | refine Kept.ofFst (by assumption) ?_ | dsimp only | split | refine Kept.upd ?_

theorem execSnapshot_kept {s0 : State} (id : ℕ) {s : State} (h : Kept s0 s) :
    Kept.Out s0 (execSnapshot id s) := by
  unfold execSnapshot
  with_reducible repeat' first | assumption | apply State.runOp_kept | apply State.opSnapshot_kept | apply Kept.outFault | apply Kept.outRefused | apply Kept.outNext

theorem State.snapStep_kept {s0 s : State} (cmd : ℕ) (missed : Bool) (h : Kept s0 s) :
    Kept s0 (State.snapStep s cmd missed) := by
  unfold State.snapStep
  with_reducible repeat' first | assumption | apply State.endCmd_kept | refine Kept.ofFst (by assumption) ?_ | dsimp only | split | refine Kept.upd ?_

theorem State.snapStore_kept {s0 s : State} (p pool : ℕ) (bs : List Byte) (h : Kept s0 s) :
    Kept.Opt s0 (State.snapStore s p pool bs) := by
  unfold State.snapStore
  with_reducible repeat' first | assumption | apply State.allocPool_kept | refine Kept.ofSome (by assumption) ?_ | refine Kept.ofSomeP (by assumption) ?_ | apply State.store_kept | apply Kept.optNone | apply Kept.optSome | refine Kept.ofFst (by assumption) ?_ | dsimp only | split

theorem State.encodeObject_kept {s0 s : State} (n : ℕ) (j : SnapJob) (h : Kept s0 s) :
    Kept s0 (State.encodeObject s n j) := by
  unfold State.encodeObject
  with_reducible repeat' first | assumption | apply Kept.ite | apply State.snapStep_kept | apply State.bump_kept | apply State.snapMissed_kept | apply State.frameFail_kept | apply State.shadeAskAll_kept | apply State.snapStore_kept | refine Kept.ofSome (by assumption) ?_ | refine Kept.ofSomeP (by assumption) ?_ | apply State.snapRef_kept | apply Kept.optNone | apply Kept.optSome | refine Kept.ofFst (by assumption) ?_ | dsimp only | split

theorem State.snapshotEncode_kept {s0 s : State} (n : ℕ) (h : Kept s0 s) :
    Kept s0 (State.snapshotEncode s n) := by
  unfold State.snapshotEncode
  with_reducible repeat' first | assumption | apply Kept.ite | apply State.snapStep_kept | apply State.bump_kept | apply State.snapMissed_kept | apply State.encodeObject_kept | apply State.arbEnd_kept | apply State.arbDecide_kept | apply State.setArb_kept | refine Kept.ofFst (by assumption) ?_ | dsimp only | split | refine Kept.upd ?_

theorem execSnapshotObjectEncode_kept {s0 : State} (n : SeIx) {s : State} (h : Kept s0 s) :
    Kept.Out s0 (execSnapshotObjectEncode n s) := by
  unfold execSnapshotObjectEncode
  with_reducible repeat' first | assumption | apply State.snapshotEncode_kept | apply Kept.outFault | apply Kept.outRefused | apply Kept.outNext

end Sys2Proof.Machine
end

