-- ==== Sys2Proof/Laws/KeptIngest.lean ====
section
/-!
SUPPORT. What the operations of Machine/Ingest.lean keep (Kept).
-/

namespace Sys2Proof.Machine

set_option simprocs false
set_option Elab.async false

theorem State.entryCount_kept {s0 s : State} (e k n : ℕ) (h : Kept s0 s) :
    Kept s0 (State.entryCount s e k n) := by
  unfold State.entryCount
  with_reducible repeat' first | assumption | apply State.updEntry_kept

theorem State.auDropped_kept {s0 s : State} (e : ℕ) (h : Kept s0 s) :
    Kept s0 (State.auDropped s e) := by
  unfold State.auDropped
  with_reducible repeat' first | assumption | apply State.updEntry_kept | apply State.entryCount_kept

theorem State.auQueue_kept {s0 s : State} (e : ℕ) (x : Entry) (a : AuOpen) (gap : Bool) (inc : Bool) (h : Kept s0 s) :
    Kept s0 (State.auQueue s e x a gap inc) := by
  unfold State.auQueue
  with_reducible repeat' first | assumption | apply Kept.ite | apply State.updDec_kept | apply State.auDropped_kept | apply State.allocPool_kept | refine Kept.ofSome (by assumption) ?_ | refine Kept.ofSomeP (by assumption) ?_ | apply State.store_kept | apply State.shadeTake_kept | apply State.fresh_kept | apply State.updEntry_kept | apply State.entryCount_kept | apply Kept.optNone | apply Kept.optSome | refine Kept.ofFst (by assumption) ?_ | refine Kept.ofSnd (by assumption) ?_ | dsimp only | split

theorem State.auClose_kept {s0 s : State} (e : ℕ) (h : Kept s0 s) :
    Kept s0 (State.auClose s e) := by
  unfold State.auClose
  with_reducible repeat' first | assumption | apply State.updEntry_kept | apply State.entryCount_kept | apply State.auQueue_kept | dsimp only | split

theorem State.depacketise_kept {s0 s : State} (e : ℕ) (k : Packet) (h : Kept s0 s) :
    Kept s0 (State.depacketise s e k) := by
  unfold State.depacketise
  with_reducible repeat' first | assumption | apply State.auClose_kept | apply State.updEntry_kept | apply State.entryCount_kept | refine Kept.ofFst (by assumption) ?_ | dsimp only | split

theorem State.release_kept {s0 s : State} (e zs : ℕ) (h : Kept s0 s) :
    Kept s0 (State.release s e zs) := by
  induction zs generalizing s e with
  | zero =>
    rw [State.release]
    with_reducible repeat' first | apply ih | assumption
  | succ zs ih =>
    rw [State.release]
    with_reducible repeat' first | apply ih | assumption | apply State.unitFree_kept | apply State.updEntry_kept | apply State.depacketise_kept | dsimp only | split

theorem State.skipTo_kept {s0 s : State} (e : ℕ) (lim : ℤ) (h : Kept s0 s) :
    Kept s0 (State.skipTo s e lim) := by
  unfold State.skipTo
  with_reducible repeat' first | assumption | apply State.updEntry_kept | apply State.entryCount_kept | refine Kept.ofFst (by assumption) ?_ | dsimp only | split

theorem State.gapLost_kept {s0 s : State} (e : ℕ) (h : Kept s0 s) :
    Kept s0 (State.gapLost s e) := by
  unfold State.gapLost
  with_reducible repeat' first | assumption | apply State.release_kept | apply State.skipTo_kept | dsimp only | split

theorem State.advanceTo_kept {s0 s : State} (e : ℕ) (lim : ℤ) (zs : ℕ) (h : Kept s0 s) :
    Kept s0 (State.advanceTo s e lim zs) := by
  induction zs generalizing s e lim with
  | zero =>
    rw [State.advanceTo]
    with_reducible repeat' first | apply ih | assumption
  | succ zs ih =>
    rw [State.advanceTo]
    with_reducible repeat' first | apply ih | assumption | apply State.skipTo_kept | apply State.gapLost_kept | dsimp only | split

theorem State.makeRoom_kept {s0 s : State} (e n zs : ℕ) (h : Kept s0 s) :
    Kept s0 (State.makeRoom s e n zs) := by
  induction zs generalizing s e n with
  | zero =>
    rw [State.makeRoom]
    with_reducible repeat' first | apply ih | assumption
  | succ zs ih =>
    rw [State.makeRoom]
    with_reducible repeat' first | apply ih | assumption | apply State.gapLost_kept | dsimp only | split

theorem State.expireGaps_kept {s0 s : State} (e zs : ℕ) (h : Kept s0 s) :
    Kept s0 (State.expireGaps s e zs) := by
  induction zs generalizing s e with
  | zero =>
    rw [State.expireGaps]
    with_reducible repeat' first | apply ih | assumption
  | succ zs ih =>
    rw [State.expireGaps]
    with_reducible repeat' first | apply ih | assumption | apply State.gapLost_kept | dsimp only | split

theorem execGapHoldExpiry_kept {s0 : State} (e : StreamIx) {s : State} (h : Kept s0 s) :
    Kept.Out s0 (execGapHoldExpiry e s) := by
  unfold execGapHoldExpiry
  with_reducible repeat' first | assumption | apply State.expireGaps_kept | apply Kept.outFault | apply Kept.outRefused | apply Kept.outNext

theorem execAuIdleClose_kept {s0 : State} (e : StreamIx) {s : State} (h : Kept s0 s) :
    Kept.Out s0 (execAuIdleClose e s) := by
  unfold execAuIdleClose
  with_reducible repeat' first | assumption | apply State.auClose_kept | apply Kept.outFault | apply Kept.outRefused | apply Kept.outNext | dsimp only | split

theorem State.storePacket_kept {s0 s : State} (e : ℕ) (k : Packet) (bytes : List Byte) (h : Kept s0 s) :
    Kept.Opt s0 (State.storePacket s e k bytes) := by
  unfold State.storePacket
  with_reducible repeat' first | assumption | apply State.allocPool_kept | refine Kept.ofSome (by assumption) ?_ | refine Kept.ofSomeP (by assumption) ?_ | apply State.store_kept | apply State.shadeTake_kept | apply State.updEntry_kept | apply State.entryCount_kept | apply Kept.optNone | apply Kept.optSome | refine Kept.ofFst (by assumption) ?_ | dsimp only | split

theorem State.dropCands_kept {s0 s : State} (e : ℕ) (h : Kept s0 s) :
    Kept s0 (State.dropCands s e) := by
  unfold State.dropCands
  with_reducible repeat' first | assumption | apply State.updEntry_kept | apply State.unitFree_kept | refine Kept.foldl ?_ (fun _ _ _ => ?_) | refine Kept.foldlFst ?_ (fun _ _ _ => ?_) | dsimp only | split

theorem State.accept_kept {s0 s : State} (e : ℕ) (k : Packet) (bytes : List Byte) (h : Kept s0 s) :
    Kept s0 (State.accept s e k bytes) := by
  unfold State.accept
  with_reducible repeat' first | assumption | apply State.makeRoom_kept | apply State.storePacket_kept | refine Kept.ofSome (by assumption) ?_ | refine Kept.ofSomeP (by assumption) ?_ | apply State.entryCount_kept | apply State.updEntry_kept | apply State.release_kept | apply Kept.optNone | apply Kept.optSome | refine Kept.ofFst (by assumption) ?_ | dsimp only | split

theorem State.jumpReset_kept {s0 s : State} (e : ℕ) (h : Kept s0 s) :
    Kept s0 (State.jumpReset s e) := by
  unfold State.jumpReset
  with_reducible repeat' first | assumption | apply Kept.ite | apply State.advanceTo_kept | apply State.updEntry_kept | apply State.entryCount_kept | apply State.updDec_kept | apply State.sootEvent_kept | apply State.release_kept | refine Kept.foldl ?_ (fun _ _ _ => ?_) | refine Kept.foldlFst ?_ (fun _ _ _ => ?_) | refine Kept.ofFst (by assumption) ?_ | dsimp only | split

theorem State.candidate_kept {s0 s : State} (e : ℕ) (k : Packet) (bytes : List Byte) (h : Kept s0 s) :
    Kept s0 (State.candidate s e k bytes) := by
  unfold State.candidate
  with_reducible repeat' first | assumption | apply State.dropCands_kept | apply State.storePacket_kept | refine Kept.ofSome (by assumption) ?_ | refine Kept.ofSomeP (by assumption) ?_ | apply State.entryCount_kept | apply State.updEntry_kept | apply State.jumpReset_kept | apply Kept.optNone | apply Kept.optSome | refine Kept.ofFst (by assumption) ?_ | dsimp only | split

theorem State.classify_kept {s0 s : State} (e : ℕ) (x : Entry) (k : Packet) (bytes : List Byte) (h : Kept s0 s) :
    Kept s0 (State.classify s e x k bytes) := by
  unfold State.classify
  with_reducible repeat' first | assumption | apply Kept.ite | apply State.accept_kept | apply State.updEntry_kept | apply State.candidate_kept | apply State.entryCount_kept | apply State.dropCands_kept | apply State.advanceTo_kept | refine Kept.ofFst (by assumption) ?_ | dsimp only | split

theorem State.rtpPacket_kept {s0 s : State} (e : ℕ) (x : Entry) (d : Datagram) (bytes : List Byte) (arrived : ℕ) (h : Kept s0 s) :
    Kept s0 (State.rtpPacket s e x d bytes arrived) := by
  unfold State.rtpPacket
  with_reducible repeat' first | assumption | apply State.entryCount_kept | apply State.classify_kept | dsimp only | split

theorem State.excPush_kept {s0 s : State} (port link : ℕ) (fr : List Byte) (h : Kept s0 s) :
    Kept s0 (State.excPush s port link fr) := by
  unfold State.excPush
  with_reducible repeat' first | assumption | apply State.bump_kept | refine Kept.ofFst (by assumption) ?_ | dsimp only | split | refine Kept.upd ?_

theorem State.rtcpPacket_kept {s0 s : State} (e : ℕ) (x : Entry) (d : Datagram) (port link : ℕ) (fr : List Byte) (h : Kept s0 s) :
    Kept s0 (State.rtcpPacket s e x d port link fr) := by
  unfold State.rtcpPacket
  with_reducible repeat' first | assumption | apply State.entryCount_kept | apply State.updEntry_kept | apply State.excPush_kept | dsimp only | split

theorem State.ethReceive_kept {s0 s : State} (port link : ℕ) (fr : List Byte) (fcsOk : Bool) (full : Bool) (h : Kept s0 s) :
    Kept s0 (State.ethReceive s port link fr fcsOk full) := by
  unfold State.ethReceive
  with_reducible repeat' first | assumption | apply State.bump_kept | apply State.excPush_kept | apply State.rtcpPacket_kept | apply State.rtpPacket_kept | dsimp only | split

theorem execEthFrameReceive_kept {s0 : State} (port : EpIx) (link : Fin 4) (frame : List Byte) (fcsOk : Bool) (full : Bool) {s : State} (h : Kept s0 s) :
    Kept.Out s0 (execEthFrameReceive port link frame fcsOk full s) := by
  unfold execEthFrameReceive
  with_reducible repeat' first | assumption | apply State.ethReceive_kept | apply Kept.outFault | apply Kept.outRefused | apply Kept.outNext

theorem execEthLinkChange_kept {s0 : State} (port : EpIx) (link : Fin 4) (up : Bool) {s : State} (h : Kept s0 s) :
    Kept.Out s0 (execEthLinkChange port link up s) := by
  unfold execEthLinkChange
  with_reducible repeat' first | assumption | apply State.setFlag_kept | apply Kept.outFault | apply Kept.outRefused | apply Kept.outNext

theorem State.ingSselWrite_kept {s0 s : State} (v : Word) (h : Kept s0 s) :
    Kept s0 (State.ingSselWrite s v) := by
  unfold State.ingSselWrite
  with_reducible repeat' first | assumption | apply State.setReg_kept | refine Kept.foldl ?_ (fun _ _ _ => ?_) | refine Kept.foldlFst ?_ (fun _ _ _ => ?_) | refine Kept.ofFst (by assumption) ?_ | dsimp only | split

theorem execIngSselSnap_kept {s0 : State} (v : Word) {s : State} (h : Kept s0 s) :
    Kept.Out s0 (execIngSselSnap v s) := by
  unfold execIngSselSnap
  with_reducible repeat' first | assumption | apply State.pfReach_kept | apply State.ingSselWrite_kept | apply Kept.outFault | apply Kept.outRefused | apply Kept.outNext

/-- Free values drawn and something put out. -/
theorem Kept.draws {s x : State} (n : Nat) (o : Outs) (h : Kept s x) : Kept s { x with freeCtr := x.freeCtr + 4 + n, outs := o } :=
  h.trans ⟨rfl, rfl, id, id, by show x.freeCtr ≤ x.freeCtr + 4 + n; omega, id, id⟩

theorem State.bmrSend_kept {s0 s : State} (p : ℕ) (ix : ℕ) (h : Kept s0 s) :
    Kept s0 (State.bmrSend s p ix) := by
  unfold State.bmrSend
  with_reducible repeat' first | assumption | apply Kept.ite | apply State.shadeAskAll_kept | apply State.bmrSkips_kept | apply State.bmrGone_kept | apply State.updStream_kept | refine Kept.ofFst (by assumption) ?_ | dsimp only | split | refine Kept.draws _ _ ?_

theorem execBmrDatagramSend_kept {s0 : State} (p : PartIx) (ix : StreamIx) {s : State} (h : Kept s0 s) :
    Kept.Out s0 (execBmrDatagramSend p ix s) := by
  unfold execBmrDatagramSend
  with_reducible repeat' first | assumption | apply State.bmrSend_kept | apply Kept.outFault | apply Kept.outRefused | apply Kept.outNext

end Sys2Proof.Machine
end

