-- ==== Sys2Proof/Laws/KeptSmelter.lean ====
section
/-!
SUPPORT. What the operations of Machine/Smelter.lean keep (Kept).
-/

namespace Sys2Proof.Machine

set_option simprocs false
set_option Elab.async false

theorem State.allocMany_kept {s0 s : State} (p k n : ℕ) (h : Kept s0 s) :
    Kept.Opt s0 (State.allocMany s p k n) := by
  unfold State.allocMany
  with_reducible repeat' first | assumption | apply State.takeBufs_kept | refine Kept.ofSome (by assumption) ?_ | refine Kept.ofSomeP (by assumption) ?_ | apply Kept.optNone | apply Kept.optSome | dsimp only | split

theorem State.writeSegs_kept {s0 s : State} (p : ℕ) (segs : List ℕ) (size : ℕ) (off : ℕ) (bs : List Byte) (h : Kept s0 s) :
    Kept s0 (State.writeSegs s p segs size off bs) := by
  unfold State.writeSegs
  with_reducible repeat' first | assumption | apply Kept.ite | apply State.useHandle_kept | apply State.store_kept | refine Kept.foldl ?_ (fun _ _ _ => ?_) | refine Kept.foldlFst ?_ (fun _ _ _ => ?_) | refine Kept.ofFst (by assumption) ?_ | dsimp only | split

theorem State.frameBuffers_kept {s0 s : State} (c : ℕ) (d : DecCtx) (n : ℕ) (h : Kept s0 s) :
    Kept.Opt s0 (State.frameBuffers s c d n) := by
  unfold State.frameBuffers
  with_reducible repeat' first | assumption | apply State.allocMany_kept | refine Kept.ofSome (by assumption) ?_ | refine Kept.ofSomeP (by assumption) ?_ | apply Kept.optNone | apply Kept.optSome | dsimp only | split

theorem execFrameBufferGrant_kept {s0 : State} (c : StreamIx) {s : State} (h : Kept s0 s) :
    Kept.Out s0 (execFrameBufferGrant c s) := by
  unfold execFrameBufferGrant
  with_reducible repeat' first | assumption | apply State.updDec_kept | apply Kept.outFault | apply Kept.outRefused | apply Kept.outNext | refine Kept.ofFst (by assumption) ?_ | dsimp only | split

theorem State.auEnd_kept {s0 s : State} (c flags : ℕ) (h : Kept s0 s) :
    Kept s0 (State.auEnd s c flags) := by
  unfold State.auEnd
  with_reducible repeat' first | assumption | apply State.updDec_kept | apply State.unitFree_kept | apply State.endCmd_kept | dsimp only | split

theorem State.auDiscard_kept {s0 s : State} (n c flags : ℕ) (seqUp : Bool) (h : Kept s0 s) :
    Kept s0 (State.auDiscard s n c flags seqUp) := by
  unfold State.auDiscard
  with_reducible repeat' first | assumption | apply State.updDec_kept | apply State.auEnd_kept | apply State.bump_kept

theorem State.smTurn_kept {s0 s : State} (n : ℕ) (ready : List ℕ) (h : Kept s0 s) :
    Kept s0 (State.smTurn s n ready).1 := by
  unfold State.smTurn
  with_reducible repeat' first | assumption | apply State.arbDecide_kept | refine Kept.ofFst (by assumption) ?_ | dsimp only | split

theorem State.smPick_kept {s0 s : State} (n : ℕ) (h : Kept s0 s) :
    Kept s0 (State.smPick s n).1 := by
  unfold State.smPick
  with_reducible repeat' first | assumption | apply State.smTurn_kept | refine Kept.foldl ?_ (fun _ _ _ => ?_) | refine Kept.foldlFst ?_ (fun _ _ _ => ?_) | refine Kept.ofFst (by assumption) ?_ | dsimp only | split

theorem State.smRun_kept {s0 s : State} (n c : ℕ) (d : DecCtx) (p : Pic) (h : Kept s0 s) :
    Kept s0 (State.smRun s n c d p) := by
  unfold State.smRun
  with_reducible repeat' first | assumption | apply State.arbEnd_kept | apply State.setArb_kept | apply State.setFld_kept | apply State.setSmelter_kept

theorem State.smSequence_kept {s0 s : State} (c : ℕ) (d : DecCtx) (i : PictureInfo) (h : Kept s0 s) :
    Kept s0 (State.smSequence s c d i) := by
  unfold State.smSequence
  with_reducible repeat' first | assumption | apply State.sootEvent_kept | apply State.updDec_kept | dsimp only | split

theorem State.frameOut_kept {s0 s : State} (n : ℕ) (c : ℕ) (a : Au) (frame : ℕ) (h : Kept s0 s) :
    Kept s0 (State.frameOut s n c a frame) := by
  unfold State.frameOut
  with_reducible repeat' first | assumption | apply Kept.ite | apply State.updDec_kept | apply State.frameToChain_kept | apply State.bump_kept | dsimp only | split

theorem State.outputWaiting_kept {s0 s : State} (n : ℕ) (c : ℕ) (a : Au) (keep : ℕ) (lat : Option ℕ) (zs : ℕ) (h : Kept s0 s) :
    Kept s0 (State.outputWaiting s n c a keep lat zs) := by
  induction zs generalizing s n c a keep lat with
  | zero =>
    rw [State.outputWaiting]
    with_reducible repeat' first | apply ih | assumption
  | succ zs ih =>
    rw [State.outputWaiting]
    with_reducible repeat' first | apply ih | assumption | apply State.frameOut_kept | dsimp only | split

theorem State.outputShown_kept {s0 s : State} (n : ℕ) (c : ℕ) (a : Au) (h : Kept s0 s) :
    Kept s0 (State.outputShown s n c a) := by
  unfold State.outputShown
  with_reducible repeat' first | assumption | apply State.frameOut_kept | apply State.updDec_kept | refine Kept.foldl ?_ (fun _ _ _ => ?_) | refine Kept.foldlFst ?_ (fun _ _ _ => ?_) | dsimp only | split

theorem State.auFinish_kept {s0 s : State} (n : ℕ) (c : ℕ) (a : Au) (h : Kept s0 s) :
    Kept s0 (State.auFinish s n c a) := by
  unfold State.auFinish
  with_reducible repeat' first | assumption | apply State.outputShown_kept | apply State.outputWaiting_kept | apply State.auEnd_kept | dsimp only | split

theorem State.showExisting_kept {s0 s : State} (n : ℕ) (c : ℕ) (d : DecCtx) (a : Au) (i : PictureInfo) (frame : ℕ) (h : Kept s0 s) :
    Kept s0 (State.showExisting s n c d a i frame) := by
  unfold State.showExisting
  with_reducible repeat' first | assumption | apply Kept.ite | apply State.updDec_kept | apply State.frameOut_kept | apply State.auFinish_kept | dsimp only | split

theorem State.smAccess_kept {s0 s : State} (n : ℕ) (c : ℕ) (d : DecCtx) (a : Au) (i : PictureInfo) (h : Kept s0 s) :
    Kept s0 (State.smAccess s n c d a i) := by
  unfold State.smAccess
  with_reducible repeat' first | assumption | apply Kept.ite | apply State.smSequence_kept | apply State.auDiscard_kept | apply State.updDec_kept | apply State.showExisting_kept | apply State.frameBuffers_kept | refine Kept.ofSome (by assumption) ?_ | refine Kept.ofSomeP (by assumption) ?_ | apply State.smRun_kept | apply Kept.optNone | apply Kept.optSome | refine Kept.ofFst (by assumption) ?_ | dsimp only | split | refine Kept.upd ?_

theorem State.pictureStart_kept {s0 s : State} (n : ℕ) (i : PictureInfo) (h : Kept s0 s) :
    Kept s0 (State.pictureStart s n i) := by
  unfold State.pictureStart
  with_reducible repeat' first | assumption | apply Kept.ite | apply State.smPick_kept | apply State.smRun_kept | apply State.updDec_kept | apply State.useHandle_kept | apply State.auDiscard_kept | apply State.smAccess_kept | refine Kept.ofFst (by assumption) ?_ | dsimp only | split

theorem execPictureStart_kept {s0 : State} (n : SmIx) (info : PictureInfo) {s : State} (h : Kept s0 s) :
    Kept.Out s0 (execPictureStart n info s) := by
  unfold execPictureStart
  with_reducible repeat' first | assumption | apply State.pictureStart_kept | apply Kept.outFault | apply Kept.outRefused | apply Kept.outNext

theorem State.quarantineSmelter_kept {s0 s : State} (n : ℕ) (h : Kept s0 s) :
    Kept s0 (State.quarantineSmelter s n) := by
  unfold State.quarantineSmelter
  with_reducible repeat' first | assumption | apply State.setDom_kept | apply State.setFlag_kept | apply State.sootEvent_kept | refine Kept.ofFst (by assumption) ?_ | dsimp only | split | refine Kept.upd ?_

theorem State.smParity_kept {s0 s : State} (n c kind : ℕ) (h : Kept s0 s) :
    Kept s0 (State.smParity s n c kind) := by
  unfold State.smParity
  with_reducible repeat' first | assumption | apply State.setFld_kept | apply State.sootEvent_kept | apply State.bump_kept | apply State.setSmelter_kept | apply State.quarantineSmelter_kept | dsimp only | split

theorem State.writeFrame_kept {s0 s : State} (d : DecCtx) (i : PictureInfo) (r : PictureResult) (g : List PicArea) (grain : List Byte) (segs : List ℕ) (h : Kept s0 s) :
    Kept s0 (State.writeFrame s d i r g grain segs) := by
  unfold State.writeFrame
  with_reducible repeat' first | assumption | apply Kept.ite | apply State.writeSegs_kept | refine Kept.foldl ?_ (fun _ _ _ => ?_)

theorem State.outputPrior_kept {s0 s : State} (n : ℕ) (c : ℕ) (a : Au) (p : Pic) (h : Kept s0 s) :
    Kept s0 (State.outputPrior s n c a p) := by
  unfold State.outputPrior
  with_reducible repeat' first | assumption | apply State.updDec_kept | apply State.outputWaiting_kept | dsimp only | split

theorem State.outputFrame_kept {s0 s : State} (n : ℕ) (c : ℕ) (a : Au) (p : Pic) (h : Kept s0 s) :
    Kept s0 (State.outputFrame s n c a p) := by
  unfold State.outputFrame
  with_reducible repeat' first | assumption | apply Kept.ite | apply State.outputWaiting_kept | apply State.updDec_kept | apply State.frameOut_kept | dsimp only | split

theorem State.smSteps_kept {s0 s : State} (n : ℕ) (d : DecCtx) (steps : ℕ) (h : Kept s0 s) :
    Kept s0 (State.smSteps s n d steps) := by
  unfold State.smSteps
  with_reducible repeat' first | assumption | apply State.setSmelter_kept | apply State.arbEnd_kept

theorem State.smFinish_kept {s0 s : State} (n : ℕ) (c : ℕ) (p : Pic) (d : DecCtx) (a : Au) (r : PictureResult) (h : Kept s0 s) :
    Kept s0 (State.smFinish s n c p d a r) := by
  unfold State.smFinish
  with_reducible repeat' first | assumption | apply Kept.ite | apply State.outputPrior_kept | apply State.writeFrame_kept | apply State.updDec_kept | apply State.smSteps_kept | apply State.outputFrame_kept | apply State.auDiscard_kept | apply State.auFinish_kept | apply State.smParity_kept | refine Kept.ofFst (by assumption) ?_ | dsimp only | split

theorem State.pictureComplete_kept {s0 s : State} (n : ℕ) (r : PictureResult) (h : Kept s0 s) :
    Kept s0 (State.pictureComplete s n r) := by
  unfold State.pictureComplete
  with_reducible repeat' first | assumption | apply State.shadeAskAll_kept | apply State.smFinish_kept | refine Kept.ofFst (by assumption) ?_ | dsimp only | split

theorem execPictureComplete_kept {s0 : State} (n : SmIx) (r : PictureResult) {s : State} (h : Kept s0 s) :
    Kept.Out s0 (execPictureComplete n r s) := by
  unfold execPictureComplete
  with_reducible repeat' first | assumption | apply State.pictureComplete_kept | apply Kept.outFault | apply Kept.outRefused | apply Kept.outNext

theorem State.frameRelease_kept {s0 s : State} (c frame : ℕ) (h : Kept s0 s) :
    Kept s0 (State.frameRelease s c frame) := by
  unfold State.frameRelease
  with_reducible repeat' first | assumption | apply State.updDec_kept | apply State.unitFree_kept | refine Kept.foldl ?_ (fun _ _ _ => ?_) | refine Kept.foldlFst ?_ (fun _ _ _ => ?_) | dsimp only | split

theorem execFrameRelease_kept {s0 : State} (c : StreamIx) (frame : ℕ) {s : State} (h : Kept s0 s) :
    Kept.Out s0 (execFrameRelease c frame s) := by
  unfold execFrameRelease
  with_reducible repeat' first | assumption | apply State.frameRelease_kept | apply Kept.outFault | apply Kept.outRefused | apply Kept.outNext

theorem State.recordedSuspend_kept {s0 s : State} (n : ℕ) (h : Kept s0 s) :
    Kept s0 (State.recordedSuspend s n) := by
  unfold State.recordedSuspend
  with_reducible repeat' first | assumption | apply Kept.ite | apply State.updDec_kept | apply State.setArb_kept | apply State.setSmelter_kept | refine Kept.ofFst (by assumption) ?_ | dsimp only | split

theorem execRecordedSuspend_kept {s0 : State} (n : SmIx) {s : State} (h : Kept s0 s) :
    Kept.Out s0 (execRecordedSuspend n s) := by
  unfold execRecordedSuspend
  with_reducible repeat' first | assumption | apply State.recordedSuspend_kept | apply Kept.outFault | apply Kept.outRefused | apply Kept.outNext

theorem execRecMinWindow_kept {s0 : State} (n : SmIx) (recRan allRan : ℕ) {s : State} (h : Kept s0 s) :
    Kept.Out s0 (execRecMinWindow n recRan allRan s) := by
  unfold execRecMinWindow
  with_reducible repeat' first | assumption | apply State.setSmelter_kept | apply Kept.outFault | apply Kept.outRefused | apply Kept.outNext

theorem State.auCut_kept {s0 s : State} (n : ℕ) (c : ℕ) (h : Kept s0 s) :
    Kept s0 (State.auCut s n c) := by
  unfold State.auCut
  with_reducible repeat' first | assumption | apply State.auDiscard_kept | apply State.auEnd_kept | dsimp only | split

theorem State.contextRehome_kept {s0 s : State} (c : ℕ) (stateOk : Bool) (h : Kept s0 s) :
    Kept s0 (State.contextRehome s c stateOk) := by
  unfold State.contextRehome
  with_reducible repeat' first | assumption | apply Kept.ite | apply State.powerUp_kept | apply State.updDec_kept | apply State.auCut_kept | refine Kept.ofFst (by assumption) ?_ | dsimp only | split

theorem execContextRehome_kept {s0 : State} (c : StreamIx) (stateOk : Bool) {s : State} (h : Kept s0 s) :
    Kept.Out s0 (execContextRehome c stateOk s) := by
  unfold execContextRehome
  with_reducible repeat' first | assumption | apply State.contextRehome_kept | apply Kept.outFault | apply Kept.outRefused | apply Kept.outNext

theorem State.smelterReadmit_kept {s0 s : State} (n : ℕ) (ok : Bool) (h : Kept s0 s) :
    Kept s0 (State.smelterReadmit s n ok) := by
  unfold State.smelterReadmit
  with_reducible repeat' first | assumption | apply State.selfTest_kept | apply State.sootEvent_kept | apply State.powerUp_kept | apply State.setSmelter_kept | apply State.setFlag_kept | refine Kept.ofFst (by assumption) ?_ | dsimp only | split

theorem execSmelterReadmit_kept {s0 : State} (n : SmIx) (selfTestOk : Bool) {s : State} (h : Kept s0 s) :
    Kept.Out s0 (execSmelterReadmit n selfTestOk s) := by
  unfold execSmelterReadmit
  with_reducible repeat' first | assumption | apply State.smelterReadmit_kept | apply Kept.outFault | apply Kept.outRefused | apply Kept.outNext

theorem State.smCselWrite_kept {s0 s : State} (n : ℕ) (v : Word) (h : Kept s0 s) :
    Kept s0 (State.smCselWrite s n v) := by
  unfold State.smCselWrite
  with_reducible repeat' first | assumption | apply State.setReg_kept | refine Kept.foldl ?_ (fun _ _ _ => ?_) | refine Kept.foldlFst ?_ (fun _ _ _ => ?_) | refine Kept.ofFst (by assumption) ?_ | dsimp only | split

theorem execSmCselSnap_kept {s0 : State} (n : SmIx) (v : Word) {s : State} (h : Kept s0 s) :
    Kept.Out s0 (execSmCselSnap n v s) := by
  unfold execSmCselSnap
  with_reducible repeat' first | assumption | apply State.pfReach_kept | apply State.smCselWrite_kept | apply Kept.outFault | apply Kept.outRefused | apply Kept.outNext

end Sys2Proof.Machine
end

