-- ==== Sys2Proof/Laws/KeptGang.lean ====
section
/-!
SUPPORT. What the operations of Machine/Gang.lean keep (Kept).
-/

namespace Sys2Proof.Machine

set_option simprocs false
set_option Elab.async false

theorem State.updResidency_kept {s0 s : State} (p e : ℕ) (f : Residency → Residency) (h : Kept s0 s) :
    Kept s0 (State.updResidency s p e f) := by
  unfold State.updResidency
  with_reducible repeat' first | assumption | apply State.setPart_kept

theorem State.placeSection_kept {s0 s : State} (x : Section) (h : Kept s0 s) :
    Kept s0 (State.placeSection s x).1 := by
  unfold State.placeSection
  with_reducible repeat' first | assumption | apply State.store_kept | apply State.memError_kept | refine Kept.foldl ?_ (fun _ _ _ => ?_) | refine Kept.foldlFst ?_ (fun _ _ _ => ?_) | refine Kept.ofFst (by assumption) ?_ | dsimp only | split

theorem State.placeSections_kept {s0 s : State} (zs : List Section) (h : Kept s0 s) :
    Kept s0 (State.placeSections s zs).1 := by
  induction zs generalizing s with
  | nil =>
    rw [State.placeSections]
    with_reducible repeat' first | apply ih | assumption
  | cons z zs ih =>
    rw [State.placeSections]
    with_reducible repeat' first | apply ih | assumption | apply State.placeSection_kept | refine Kept.ofFst (by assumption) ?_ | dsimp only | split

theorem State.recordLoad_kept {s0 s : State} (p key : ℕ) (swapped : Bool) (t : ResTag) (h : Kept s0 s) :
    Kept s0 (State.recordLoad s p key swapped t) := by
  unfold State.recordLoad
  with_reducible repeat' first | assumption | apply State.updResidency_kept

theorem State.loadModel_kept {s0 s : State} (p : ℕ) (key : ℕ) (id : ℕ) (members : List ℕ) (image : ℕ) (model : ℕ) (swapped : Bool) (h : Kept s0 s) :
    Kept s0 (State.loadModel s p key id members image model swapped).1 := by
  unfold State.loadModel
  with_reducible repeat' first | assumption | apply State.shadeAskAll_kept | apply State.noteFault_kept | apply State.placeSections_kept | apply State.recordLoad_kept | refine Kept.ofFst (by assumption) ?_ | dsimp only | split

theorem State.opModelLoad_kept {s0 : State} (c : Cmd) {s : State} (h : Kept s0 s) :
    Kept s0 (State.opModelLoad c s) := by
  unfold State.opModelLoad
  with_reducible repeat' first | assumption | apply State.endCmd_kept | apply State.loadModel_kept | refine Kept.ofFst (by assumption) ?_ | dsimp only | split

theorem execModelLoad_kept {s0 : State} (id : ℕ) {s : State} (h : Kept s0 s) :
    Kept.Out s0 (execModelLoad id s) := by
  unfold execModelLoad
  with_reducible repeat' first | assumption | apply State.runOp_kept | apply State.opModelLoad_kept | apply Kept.outFault | apply Kept.outRefused | apply Kept.outNext

theorem State.opModelEvict_kept {s0 : State} (c : Cmd) {s : State} (h : Kept s0 s) :
    Kept s0 (State.opModelEvict c s) := by
  unfold State.opModelEvict
  with_reducible repeat' first | assumption | apply State.endCmd_kept | apply State.updResidency_kept | dsimp only | split

theorem execModelEvict_kept {s0 : State} (id : ℕ) {s : State} (h : Kept s0 s) :
    Kept.Out s0 (execModelEvict id s) := by
  unfold execModelEvict
  with_reducible repeat' first | assumption | apply State.runOp_kept | apply State.opModelEvict_kept | apply Kept.outFault | apply Kept.outRefused | apply Kept.outNext

theorem State.runRefused_kept {s0 s : State} (c : Cmd) (st : Status) (h : Kept s0 s) :
    Kept s0 (State.runRefused s c st) := by
  unfold State.runRefused
  with_reducible repeat' first | assumption | apply State.endCmd_kept

theorem State.placeOn_kept {s0 s : State} (c : Cmd) (key : ℕ) (ms : List ℕ) (h : Kept s0 s) :
    Kept s0 (State.placeOn s c key ms) := by
  unfold State.placeOn
  with_reducible repeat' first | assumption | apply State.runRefused_kept | apply State.updCmd_kept | dsimp only | split

theorem State.placeRun_kept {s0 s : State} (c : Cmd) (b : List Byte) (h : Kept s0 s) :
    Kept s0 (State.placeRun s c b) := by
  unfold State.placeRun
  with_reducible repeat' first | assumption | apply State.placeOn_kept | apply State.runRefused_kept | apply State.loadModel_kept | refine Kept.ofFst (by assumption) ?_ | dsimp only | split

theorem State.resolveRun_kept {s0 s : State} (c : Cmd) (h : Kept s0 s) :
    Kept s0 (State.resolveRun s c) := by
  unfold State.resolveRun
  with_reducible repeat' first | assumption | apply State.placeRun_kept | apply State.placeOn_kept | dsimp only | split

theorem State.startMember_kept {s0 s : State} (c : Cmd) (root n : ℕ) (q base : ℕ) (h : Kept s0 s) :
    Kept s0 (State.startMember s c root n q base) := by
  unfold State.startMember
  with_reducible repeat' first | assumption | apply State.updCtx_kept

theorem State.startRun_kept {s0 s : State} (c : Cmd) (h : Kept s0 s) :
    Kept s0 (State.startRun s c) := by
  unfold State.startRun
  with_reducible repeat' first | assumption | apply State.runRefused_kept | apply State.startMember_kept | apply State.updCmd_kept | refine Kept.foldl ?_ (fun _ _ _ => ?_) | refine Kept.foldlFst ?_ (fun _ _ _ => ?_) | refine Kept.ofFst (by assumption) ?_ | dsimp only | split | refine Kept.upd ?_

theorem State.opRun_kept {s0 : State} (c : Cmd) {s : State} (h : Kept s0 s) :
    Kept s0 (State.opRun c s) := by
  unfold State.opRun
  with_reducible repeat' first | assumption | apply State.endCmd_kept | apply State.resolveRun_kept | apply State.startRun_kept | dsimp only | split

theorem execRun_kept {s0 : State} (id : ℕ) {s : State} (h : Kept s0 s) :
    Kept.Out s0 (execRun id s) := by
  unfold execRun
  with_reducible repeat' first | assumption | apply State.runOp_kept | apply State.opRun_kept | apply Kept.outFault | apply Kept.outRefused | apply Kept.outNext

theorem execRunChain_kept {s0 : State} (id : ℕ) {s : State} (h : Kept s0 s) :
    Kept.Out s0 (execRunChain id s) := by
  unfold execRunChain
  with_reducible repeat' first | assumption | apply State.runOp_kept | apply State.opRun_kept | apply Kept.outFault | apply Kept.outRefused | apply Kept.outNext

theorem State.stopCtx_kept {s0 s : State} (n q : ℕ) (h : Kept s0 s) :
    Kept s0 (State.stopCtx s n q) := by
  unfold State.stopCtx
  with_reducible repeat' first | assumption | apply State.clearArrays_kept | apply State.updCtx_kept | refine Kept.ofFst (by assumption) ?_ | dsimp only | split | refine Kept.upd ?_

theorem State.shadeDrop_kept {s0 s : State} (p key : ℕ) (h : Kept s0 s) :
    Kept s0 (State.shadeDrop s p key) := by
  unfold State.shadeDrop
  with_reducible repeat' first | assumption | apply State.setPart_kept

theorem State.dropFed_kept {s0 s : State} (id : ℕ) (h : Kept s0 s) :
    Kept s0 (State.dropFed s id) := by
  unfold State.dropFed
  with_reducible repeat' first | assumption | apply State.updDec_kept | apply State.unitFree_kept | refine Kept.ofFst (by assumption) ?_ | dsimp only | split

theorem State.abortCmd_kept {s0 s : State} (c : Cmd) (h : Kept s0 s) :
    Kept s0 (State.abortCmd s c) := by
  unfold State.abortCmd
  with_reducible repeat' first | assumption | apply Kept.ite | apply State.updCmd_kept | apply State.stopCtx_kept | apply State.shadeDrop_kept | apply State.dropFed_kept | apply State.endCmd_kept | refine Kept.foldl ?_ (fun _ _ _ => ?_) | refine Kept.foldlFst ?_ (fun _ _ _ => ?_) | refine Kept.ofFst (by assumption) ?_ | dsimp only | split | refine Kept.upd ?_

end Sys2Proof.Machine
end

