-- ==== Sys2Proof/Laws/KeptDomains.lean ====
section
/-!
SUPPORT. What the operations of Machine/Domains.lean keep (Kept).
-/

namespace Sys2Proof.Machine

set_option simprocs false
set_option Elab.async false

theorem State.domUp_kept {s0 s : State} (d : ℕ) (h : Kept s0 s) :
    Kept s0 (State.domUp s d) := by
  unfold State.domUp
  with_reducible repeat' first | assumption | apply State.setDom_kept | apply State.windowGap_kept | apply State.bumpEpoch_kept | apply State.setLantern_kept | apply State.undefRange_kept | dsimp only | split

theorem State.domainPowerUp_kept {s0 s : State} (d : ℕ) (h : Kept s0 s) :
    Kept s0 (State.domainPowerUp s d) := by
  unfold State.domainPowerUp
  with_reducible repeat' first | assumption | apply State.domUp_kept | dsimp only | split

theorem execDomainPowerUp_kept {s0 : State} (d : DomIx) {s : State} (h : Kept s0 s) :
    Kept.Out s0 (execDomainPowerUp d s) := by
  unfold execDomainPowerUp
  with_reducible repeat' first | assumption | apply State.domainPowerUp_kept | apply Kept.outFault | apply Kept.outRefused | apply Kept.outNext

theorem State.lanternOff_kept {s0 s : State} (n : ℕ) (h : Kept s0 s) :
    Kept s0 (State.lanternOff s n) := by
  unfold State.lanternOff
  with_reducible repeat' first | assumption | apply State.setDom_kept | apply State.setLantern_kept | refine Kept.foldl ?_ (fun _ _ _ => ?_) | refine Kept.foldlFst ?_ (fun _ _ _ => ?_) | dsimp only | split

theorem State.linksDown_kept {s0 s : State} (p : ℕ) (h : Kept s0 s) :
    Kept s0 (State.linksDown s p) := by
  unfold State.linksDown
  with_reducible repeat' first | assumption | apply State.setFld_kept

theorem State.dropBegun_kept {s0 s : State} (d : ℕ) (h : Kept s0 s) :
    Kept s0 (State.dropBegun s d) := by
  unfold State.dropBegun
  with_reducible repeat' first | assumption | apply State.endCmd_kept | refine Kept.foldl ?_ (fun _ _ _ => ?_)

theorem State.domainPowerDown_kept {s0 s : State} (d : ℕ) (retain : Bool) (h : Kept s0 s) :
    Kept s0 (State.domainPowerDown s d retain) := by
  unfold State.domainPowerDown
  with_reducible repeat' first | assumption | apply Kept.ite | apply State.lanternOff_kept | apply State.clearLantern_kept | apply State.setDom_kept | apply State.linksDown_kept | apply State.dropBegun_kept | apply State.setQuad_kept

theorem execDomainPowerDown_kept {s0 : State} (d : DomIx) (retain : Bool) {s : State} (h : Kept s0 s) :
    Kept.Out s0 (execDomainPowerDown d retain s) := by
  unfold execDomainPowerDown
  with_reducible repeat' first | assumption | apply State.domainPowerDown_kept | apply Kept.outFault | apply Kept.outRefused | apply Kept.outNext

theorem State.idleGate_kept {s0 s : State} (n : ℕ) (u : GateUnit) (h : Kept s0 s) :
    Kept s0 (State.idleGate s n u) := by
  unfold State.idleGate
  with_reducible repeat' first | assumption | apply State.setDom_kept | apply State.updArr_kept | apply State.updLantern_kept | refine Kept.ofFst (by assumption) ?_ | dsimp only | split

theorem execArrayIdleGate_kept {s0 : State} (n : LnIx) (u : GateUnit) {s : State} (h : Kept s0 s) :
    Kept.Out s0 (execArrayIdleGate n u s) := by
  unfold execArrayIdleGate
  with_reducible repeat' first | assumption | apply State.idleGate_kept | apply Kept.outFault | apply Kept.outRefused | apply Kept.outNext

theorem State.park_kept {s0 s : State} (n : ℕ) (h : Kept s0 s) :
    Kept s0 (State.park s n) := by
  unfold State.park
  with_reducible repeat' first | assumption | apply State.setFlag_kept | apply State.lanternOff_kept | dsimp only | split

theorem execLanternPark_kept {s0 : State} (n : LnIx) {s : State} (h : Kept s0 s) :
    Kept.Out s0 (execLanternPark n s) := by
  unfold execLanternPark
  with_reducible repeat' first | assumption | apply State.park_kept | apply Kept.outFault | apply Kept.outRefused | apply Kept.outNext

theorem State.unpark_kept {s0 s : State} (n : ℕ) (h : Kept s0 s) :
    Kept s0 (State.unpark s n) := by
  unfold State.unpark
  with_reducible repeat' first | assumption | apply State.setFlag_kept | apply State.domUp_kept | dsimp only | split

theorem execLanternUnpark_kept {s0 : State} (n : LnIx) {s : State} (h : Kept s0 s) :
    Kept.Out s0 (execLanternUnpark n s) := by
  unfold execLanternUnpark
  with_reducible repeat' first | assumption | apply State.unpark_kept | apply Kept.outFault | apply Kept.outRefused | apply Kept.outNext

theorem State.resetRegs_kept {s0 s : State} (base len keep stat : ℕ) (h : Kept s0 s) :
    Kept s0 (State.resetRegs s base len keep stat) := by
  unfold State.resetRegs
  extract_lets q s1
  have h1 : Kept s0 s1 := regs_filter_kept _ h
  split
  · exact State.setFlag_kept _ _ _ h1
  · exact h1

theorem State.resetLantern_kept {s0 s : State} (n : ℕ) (h : Kept s0 s) :
    Kept s0 (State.resetLantern s n) := by
  unfold State.resetLantern
  with_reducible repeat' first | assumption | apply State.clearLantern_kept | apply State.cycleDom_kept | apply State.resetRegs_kept | refine Kept.foldl ?_ (fun _ _ _ => ?_)

theorem State.resetSmelter_kept {s0 s : State} (n : ℕ) (h : Kept s0 s) :
    Kept s0 (State.resetSmelter s n) := by
  unfold State.resetSmelter
  with_reducible repeat' first | assumption | apply State.auDiscard_kept | apply State.setSmelter_kept | apply State.arbEnd_kept | apply State.resetRegs_kept | apply State.cycleDom_kept | refine Kept.ofFst (by assumption) ?_ | dsimp only | split | refine Kept.upd ?_

theorem State.unitReset_kept {s0 s : State} (ty : ℕ) (i : ℕ) (h : Kept s0 s) :
    Kept.OptS s0 (State.unitReset s ty i) := by
  unfold State.unitReset
  with_reducible repeat' first | assumption | apply State.resetLantern_kept | apply State.resetSmelter_kept | apply State.resetRegs_kept | apply State.cycleDom_kept | apply State.dropBegun_kept | apply State.setQuad_kept | apply Kept.optSNone | apply Kept.optSSome | dsimp only | split

theorem State.doBlockReset_kept {s0 s : State} (ty i : ℕ) (h : Kept s0 s) :
    Kept s0 (State.doBlockReset s ty i) := by
  unfold State.doBlockReset
  with_reducible repeat' first | assumption | apply State.unitReset_kept | refine Kept.ofSomeS (by assumption) ?_ | apply State.setFlag_kept | apply Kept.optSNone | apply Kept.optSSome | dsimp only | split

theorem State.rstBlockWrite_kept {s0 s : State} (v : Word) (h : Kept s0 s) :
    Kept s0 (State.rstBlockWrite s v) := by
  unfold State.rstBlockWrite
  with_reducible repeat' first | assumption | apply State.setFlag_kept | apply State.setFld_kept | apply State.doBlockReset_kept | refine Kept.ofFst (by assumption) ?_ | dsimp only | split | refine Kept.upd ?_

theorem execRstBlock_kept {s0 : State} (v : Word) {s : State} (h : Kept s0 s) :
    Kept.Out s0 (execRstBlock v s) := by
  unfold execRstBlock
  with_reducible repeat' first | assumption | apply State.pfReach_kept | apply State.rstBlockWrite_kept | apply Kept.outFault | apply Kept.outRefused | apply Kept.outNext

end Sys2Proof.Machine
end

