-- ==== Sys2Proof/Laws/KeptPartition.lean ====
section
/-!
SUPPORT. What the operations of Machine/Partition.lean keep (Kept).
-/

namespace Sys2Proof.Machine

set_option simprocs false
set_option Elab.async false

theorem State.putShadow_kept {s0 s : State} (p key : ℕ) (w : Word) (h : Kept s0 s) :
    Kept s0 (State.putShadow s p key w) := by
  unfold State.putShadow
  with_reducible repeat' first | assumption | apply State.setPart_kept

theorem State.shadowWrite_kept {s0 s : State} (p key : ℕ) (w : Word) (h : Kept s0 s) :
    Kept s0 (State.shadowWrite s p key w) := by
  unfold State.shadowWrite
  with_reducible repeat' first | assumption | apply State.putShadow_kept | refine Kept.ofFst (by assumption) ?_ | dsimp only | split | refine Kept.upd ?_

theorem State.winSelWrite_kept {s0 s : State} (v : Word) (h : Kept s0 s) :
    Kept s0 (State.winSelWrite s v) := by
  unfold State.winSelWrite
  with_reducible repeat' first | assumption | apply State.setReg_kept | dsimp only | split | refine Kept.upd ?_

theorem execWinSelWrite_kept {s0 : State} (v : Word) {s : State} (h : Kept s0 s) :
    Kept.Out s0 (execWinSelWrite v s) := by
  unfold execWinSelWrite
  with_reducible repeat' first | assumption | apply State.pfReach_kept | apply State.winSelWrite_kept | apply Kept.outFault | apply Kept.outRefused | apply Kept.outNext

theorem State.winLoWrite_kept {s0 s : State} (v : Word) (h : Kept s0 s) :
    Kept s0 (State.winLoWrite s v) := by
  unfold State.winLoWrite
  with_reducible repeat' first | assumption | dsimp only | split | refine Kept.upd ?_

theorem execWinLoWrite_kept {s0 : State} (v : Word) {s : State} (h : Kept s0 s) :
    Kept.Out s0 (execWinLoWrite v s) := by
  unfold execWinLoWrite
  with_reducible repeat' first | assumption | apply State.pfReach_kept | apply State.winLoWrite_kept | apply Kept.outFault | apply Kept.outRefused | apply Kept.outNext

theorem State.winHiWrite_kept {s0 s : State} (v : Word) (h : Kept s0 s) :
    Kept s0 (State.winHiWrite s v) := by
  unfold State.winHiWrite
  with_reducible repeat' first | assumption | apply State.shadowWrite_kept | apply State.setFlag_kept | dsimp only | split | refine Kept.upd ?_

theorem execWinHiWrite_kept {s0 : State} (v : Word) {s : State} (h : Kept s0 s) :
    Kept.Out s0 (execWinHiWrite v s) := by
  unfold execWinHiWrite
  with_reducible repeat' first | assumption | apply State.pfReach_kept | apply State.winHiWrite_kept | apply Kept.outFault | apply Kept.outRefused | apply Kept.outNext

theorem State.ptAdvance_kept {s0 s : State} (h : Kept s0 s) :
    Kept s0 (State.ptAdvance s) := by
  unfold State.ptAdvance
  with_reducible repeat' first | assumption | apply State.setFld_kept

theorem State.ptWrite_kept {s0 s : State} (v : Word) (h : Kept s0 s) :
    Kept s0 (State.ptWrite s v) := by
  unfold State.ptWrite
  with_reducible repeat' first | assumption | apply State.shadowWrite_kept | apply State.setFlag_kept | apply State.ptAdvance_kept | dsimp only | split

theorem execPtDataWrite_kept {s0 : State} (v : Word) {s : State} (h : Kept s0 s) :
    Kept.Out s0 (execPtDataWrite v s) := by
  unfold execPtDataWrite
  with_reducible repeat' first | assumption | apply State.pfReach_kept | apply State.ptWrite_kept | apply Kept.outFault | apply Kept.outRefused | apply Kept.outNext

theorem State.ptRead_kept {s0 s : State} (h : Kept s0 s) :
    Kept s0 (State.ptRead s).1 := by
  unfold State.ptRead
  with_reducible repeat' first | assumption | apply State.ptAdvance_kept

theorem execPtDataRead_kept {s0 s : State} (h : Kept s0 s) :
    Kept.Out s0 (execPtDataRead s) := by
  unfold execPtDataRead
  with_reducible repeat' first | assumption | apply State.pfRead_kept | apply State.ptRead_kept | apply Kept.outFault | apply Kept.outRefused | apply Kept.outNext | refine Kept.ofFst (by assumption) ?_ | dsimp only | split | refine Kept.upd ?_

theorem State.runMgmt_kept {s0 s : State} (id opcode : ℕ) (f : Cmd → State → State) (h : Kept s0 s) (hf : ∀ a b, Kept s0 b → Kept s0 (f a b)) :
    Kept s0 (State.runMgmt s id opcode f) := by
  unfold State.runMgmt
  with_reducible repeat' first | assumption | apply hf | apply State.runOp_kept | dsimp only | split | refine Kept.upd ?_ | intro _

theorem State.writeShadow_kept {s0 s : State} (c : Cmd) (h : Kept s0 s) :
    Kept s0 (State.writeShadow s c) := by
  unfold State.writeShadow
  with_reducible repeat' first | assumption | apply Kept.ite | apply State.endCmd_kept | apply State.noteFault_kept | apply State.shadeAskAll_kept | apply State.putShadow_kept | apply State.memError_kept | refine Kept.foldl ?_ (fun _ _ _ => ?_) | refine Kept.foldlFst ?_ (fun _ _ _ => ?_) | refine Kept.ofFst (by assumption) ?_ | dsimp only | split

theorem State.opPartWriteShadow_kept {s0 : State} (c : Cmd) {s : State} (h : Kept s0 s) :
    Kept s0 (State.opPartWriteShadow c s) := by
  unfold State.opPartWriteShadow
  with_reducible repeat' first | assumption | apply State.updCmd_kept | apply State.writeShadow_kept | dsimp only | split | refine Kept.upd ?_

theorem execPartWriteShadow_kept {s0 : State} (id : ℕ) {s : State} (h : Kept s0 s) :
    Kept.Out s0 (execPartWriteShadow id s) := by
  unfold execPartWriteShadow
  with_reducible repeat' first | assumption | apply State.runMgmt_kept | apply State.opPartWriteShadow_kept | apply Kept.outFault | apply Kept.outRefused | apply Kept.outNext

theorem State.dropQueued_kept {s0 s : State} (ctx : ℕ) (d : DecCtx) (h : Kept s0 s) :
    Kept s0 (State.dropQueued s ctx d) := by
  unfold State.dropQueued
  with_reducible repeat' first | assumption | apply Kept.ite | apply State.bump_kept | apply State.unitFree_kept | apply State.endCmd_kept | apply State.updDec_kept | refine Kept.foldl ?_ (fun _ _ _ => ?_) | refine Kept.foldlFst ?_ (fun _ _ _ => ?_) | refine Kept.ofFst (by assumption) ?_ | dsimp only | split

theorem State.unbindStart_kept {s0 s : State} (p : ℕ) (ix : ℕ) (st : Stream) (h : Kept s0 s) :
    Kept s0 (State.unbindStart s p ix st) := by
  unfold State.unbindStart
  with_reducible repeat' first | assumption | apply Kept.ite | apply State.unitFree_kept | apply State.updDec_kept | apply State.dropQueued_kept | apply State.updStream_kept | refine Kept.foldl ?_ (fun _ _ _ => ?_) | refine Kept.foldlFst ?_ (fun _ _ _ => ?_) | dsimp only | split | refine Kept.upd ?_

theorem State.unbindLeaving_kept {s0 s : State} (r : SwapReq) (h : Kept s0 s) :
    Kept s0 (State.unbindLeaving s r) := by
  unfold State.unbindLeaving
  with_reducible repeat' first | assumption | apply State.unbindStart_kept | refine Kept.foldl ?_ (fun _ _ _ => ?_) | refine Kept.foldlFst ?_ (fun _ _ _ => ?_) | refine Kept.ofFst (by assumption) ?_ | dsimp only | split

theorem State.removeStream_kept {s0 s : State} (p ix : ℕ) (h : Kept s0 s) :
    Kept s0 (State.removeStream s p ix) := by
  unfold State.removeStream
  with_reducible repeat' first | assumption | apply Kept.ite | apply State.unitFree_kept | apply State.endCmd_kept | apply State.setSmelter_kept | apply State.arbEnd_kept | apply State.dropTracks_kept | refine Kept.foldl ?_ (fun _ _ _ => ?_) | refine Kept.foldlFst ?_ (fun _ _ _ => ?_) | refine Kept.ofFst (by assumption) ?_ | dsimp only | split | refine Kept.upd ?_

theorem State.removeStreams_kept {s0 s : State} (p : ℕ) (h : Kept s0 s) :
    Kept s0 (State.removeStreams s p) := by
  unfold State.removeStreams
  with_reducible repeat' first | assumption | apply State.removeStream_kept | refine Kept.foldl ?_ (fun _ _ _ => ?_)

theorem State.swapPower_kept {s0 s : State} (old : List WordTab) (new : List WordTab) (h : Kept s0 s) :
    Kept s0 (State.swapPower s old new) := by
  unfold State.swapPower
  with_reducible repeat' first | assumption | apply State.domUp_kept | refine Kept.foldl ?_ (fun _ _ _ => ?_) | refine Kept.foldlFst ?_ (fun _ _ _ => ?_) | dsimp only | split

theorem State.swapScrub_kept {s0 s : State} (old : List WordTab) (new : List WordTab) (h : Kept s0 s) :
    Kept s0 (State.swapScrub s old new) := by
  unfold State.swapScrub
  with_reducible repeat' first | assumption | apply State.setFlag_kept | apply State.setIngotErr_kept | apply State.setBank_kept | refine Kept.foldl ?_ (fun _ _ _ => ?_) | refine Kept.foldlFst ?_ (fun _ _ _ => ?_) | refine Kept.ofFst (by assumption) ?_ | dsimp only | split

theorem State.partBorn_kept {s0 s : State} (p : ℕ) (h : Kept s0 s) :
    Kept s0 (State.partBorn s p) := by
  unfold State.partBorn
  with_reducible repeat' first | assumption | apply State.setPart_kept | refine Kept.ofFst (by assumption) ?_ | dsimp only | split | refine Kept.updTabs ?_ (fun ⟨a, b, c, d, e, f, g, h, i, j⟩ => ⟨a, b, c, Kept.ordered_filter _ d, e, f, g, h, i, j⟩)

theorem State.movePart_kept {s0 s : State} (p : ℕ) (old : WordTab) (new : WordTab) (h : Kept s0 s) :
    Kept s0 (State.movePart s p old new) := by
  unfold State.movePart
  with_reducible repeat' first | assumption | apply State.updStream_kept | apply State.dropTracks_kept | refine Kept.foldl ?_ (fun _ _ _ => ?_) | refine Kept.foldlFst ?_ (fun _ _ _ => ?_) | refine Kept.ofFst (by assumption) ?_ | dsimp only | split | refine Kept.upd ?_

theorem State.flipPart_kept {s0 s : State} (p : ℕ) (new : WordTab) (h : Kept s0 s) :
    Kept s0 (State.flipPart s p new) := by
  unfold State.flipPart
  with_reducible repeat' first | assumption | apply State.dropOwner_kept | apply State.removeStreams_kept | apply State.setPart_kept | apply State.partBorn_kept | apply State.movePart_kept | refine Kept.ofFst (by assumption) ?_ | dsimp only | split

theorem State.swapLoad_kept {s0 s : State} (fault : Bool) (p e : ℕ) (h : Kept s0 s) :
    Kept s0 (State.swapLoad s fault p e).1 := by
  unfold State.swapLoad
  with_reducible repeat' first | assumption | apply State.updResidency_kept | apply State.placeSections_kept | apply State.recordLoad_kept | apply State.memError_kept | refine Kept.ofFst (by assumption) ?_ | dsimp only | split

theorem State.swapLoads_kept {s0 s : State} (fault : Bool) (zs : List (ℕ × ℕ)) (h : Kept s0 s) :
    Kept s0 (State.swapLoads s fault zs).1 := by
  induction zs generalizing s fault with
  | nil =>
    rw [State.swapLoads]
    with_reducible repeat' first | apply ih | assumption
  | cons z zs ih =>
    rw [State.swapLoads]
    with_reducible repeat' first | apply ih | assumption | apply State.swapLoad_kept | refine Kept.ofFst (by assumption) ?_ | dsimp only | split

theorem State.applyHeld_kept {s0 s : State} (h : Kept s0 s) :
    Kept s0 (State.applyHeld s) := by
  unfold State.applyHeld
  with_reducible repeat' first | assumption | apply State.putShadow_kept | apply State.writeShadow_kept | apply State.updCmd_kept | refine Kept.foldl ?_ (fun _ _ _ => ?_) | refine Kept.foldlFst ?_ (fun _ _ _ => ?_) | refine Kept.ofFst (by assumption) ?_ | dsimp only | split | refine Kept.upd ?_

theorem State.reformReport_kept {s0 s : State} (p e n : ℕ) (h : Kept s0 s) :
    Kept s0 (State.reformReport s p e n) := by
  unfold State.reformReport
  with_reducible repeat' first | assumption | apply State.sootEvent_kept | apply State.notify_kept | refine Kept.foldl ?_ (fun _ _ _ => ?_)

theorem State.reformShadow_kept {s0 s : State} (p : ℕ) (old : WordTab) (new : WordTab) (h : Kept s0 s) :
    Kept s0 (State.reformShadow s p old new) := by
  unfold State.reformShadow
  with_reducible repeat' first | assumption | apply State.setPart_kept | refine Kept.foldl ?_ (fun _ _ _ => ?_) | refine Kept.foldlFst ?_ (fun _ _ _ => ?_) | dsimp only | split

theorem State.swapFlip_kept {s0 s : State} (r : SwapReq) (fault : Bool) (h : Kept s0 s) :
    Kept s0 (State.swapFlip s r fault).1 := by
  unfold State.swapFlip
  with_reducible repeat' first | assumption | apply State.flipPart_kept | apply State.swapLoads_kept | apply State.reformReport_kept | apply State.reformShadow_kept | refine Kept.foldl ?_ (fun _ _ _ => ?_) | refine Kept.foldlFst ?_ (fun _ _ _ => ?_) | refine Kept.ofFst (by assumption) ?_ | dsimp only | split

theorem State.setPhase_kept {s0 s : State} (k : ℕ) (h : Kept s0 s) :
    Kept s0 (State.setPhase s k) := by
  unfold State.setPhase
  with_reducible repeat' first | assumption | apply State.setFld_kept

theorem State.swapResult_kept {s0 s : State} (r : SwapReq) (st : Status) (d : Word) (h : Kept s0 s) :
    Kept s0 (State.swapResult s r st d) := by
  unfold State.swapResult
  with_reducible repeat' first | assumption | apply State.setFld_kept | apply State.endCmd_kept | dsimp only | split

theorem State.swapReport_kept {s0 s : State} (r : SwapReq) (st : Status) (d : Word) (h : Kept s0 s) :
    Kept s0 (State.swapReport s r st d) := by
  unfold State.swapReport
  with_reducible repeat' first | assumption | apply State.swapResult_kept | apply State.setPhase_kept

theorem State.drainStart_kept {s0 s : State} (r : SwapReq) (t : List SwapReq) (h : Kept s0 s) :
    Kept s0 (State.drainStart s r t) := by
  unfold State.drainStart
  with_reducible repeat' first | assumption | apply State.unbindLeaving_kept | apply State.setPhase_kept | dsimp only | split | refine Kept.upd ?_

theorem State.swapStart_kept {s0 s : State} (zs : List SwapReq) (h : Kept s0 s) :
    Kept s0 (State.swapStart s zs) := by
  induction zs generalizing s with
  | nil =>
    rw [State.swapStart]
    with_reducible repeat' first | apply ih | assumption | apply State.swapReport_kept | apply State.drainStart_kept | dsimp only | split | refine Kept.upd ?_
  | cons z zs ih =>
    rw [State.swapStart]
    with_reducible repeat' first | apply ih | assumption | apply State.swapReport_kept | apply State.drainStart_kept | dsimp only | split

theorem State.swapNext_kept {s0 s : State} (h : Kept s0 s) :
    Kept s0 (State.swapNext s) := by
  unfold State.swapNext
  with_reducible repeat' first | assumption | apply State.swapStart_kept | dsimp only | split

theorem State.resetPartition_kept {s0 s : State} (p : ℕ) (h : Kept s0 s) :
    Kept s0 (State.resetPartition s p) := by
  unfold State.resetPartition
  with_reducible repeat' first | assumption | apply State.abortCmd_kept | apply State.removeStreams_kept | apply State.setFlag_kept | apply State.setPart_kept | refine Kept.foldl ?_ (fun _ _ _ => ?_) | refine Kept.foldlFst ?_ (fun _ _ _ => ?_) | refine Kept.ofFst (by assumption) ?_ | dsimp only | split | refine Kept.updTabs ?_ (fun ⟨a, b, c, d, e, f, g, h, i, j⟩ => ⟨a, Kept.ordered_map _ (fun _ => by (repeat' split) <;> rfl) b, c, d, e, f, g, h, i, j⟩)

theorem State.rstPartWrite_kept {s0 s : State} (v : Word) (h : Kept s0 s) :
    Kept s0 (State.rstPartWrite s v) := by
  unfold State.rstPartWrite
  with_reducible repeat' first | assumption | apply State.setFld_kept | apply State.setFlag_kept | apply State.resetPartition_kept | dsimp only | split | refine Kept.upd ?_

theorem execRstPart_kept {s0 : State} (v : Word) {s : State} (h : Kept s0 s) :
    Kept.Out s0 (execRstPart v s) := by
  unfold execRstPart
  with_reducible repeat' first | assumption | apply State.pfReach_kept | apply State.rstPartWrite_kept | apply Kept.outFault | apply Kept.outRefused | apply Kept.outNext

theorem State.afterSwap_kept {s0 s : State} (h : Kept s0 s) :
    Kept s0 (State.afterSwap s) := by
  unfold State.afterSwap
  with_reducible repeat' first | assumption | apply State.resetPartition_kept | apply State.setFlag_kept | apply State.doBlockReset_kept | apply State.swapNext_kept | refine Kept.ofFst (by assumption) ?_ | dsimp only | split | refine Kept.upd ?_

theorem State.opPartSwap_kept {s0 : State} (c : Cmd) {s : State} (h : Kept s0 s) :
    Kept s0 (State.opPartSwap c s) := by
  unfold State.opPartSwap
  with_reducible repeat' first | assumption | apply State.swapResult_kept | apply State.updCmd_kept | apply State.swapNext_kept | refine Kept.ofFst (by assumption) ?_ | dsimp only | split | refine Kept.upd ?_

theorem execPartSwap_kept {s0 : State} (id : ℕ) {s : State} (h : Kept s0 s) :
    Kept.Out s0 (execPartSwap id s) := by
  unfold execPartSwap
  with_reducible repeat' first | assumption | apply State.runMgmt_kept | apply State.opPartSwap_kept | apply Kept.outFault | apply Kept.outRefused | apply Kept.outNext

theorem State.gangReform_kept {s0 s : State} (p e n : ℕ) (h : Kept s0 s) :
    Kept s0 (State.gangReform s p e n) := by
  unfold State.gangReform
  with_reducible repeat' first | assumption | apply State.swapNext_kept | refine Kept.ofFst (by assumption) ?_ | dsimp only | split | refine Kept.upd ?_

theorem execGangReform_kept {s0 : State} (p : PartIx) (entry : Fin 64) (n : LnIx) {s : State} (h : Kept s0 s) :
    Kept.Out s0 (execGangReform p entry n s) := by
  unfold execGangReform
  with_reducible repeat' first | assumption | apply State.gangReform_kept | apply Kept.outFault | apply Kept.outRefused | apply Kept.outNext

theorem State.drainLate_kept {s0 s : State} (r : SwapReq) (h : Kept s0 s) :
    Kept s0 (State.drainLate s r) := by
  unfold State.drainLate
  with_reducible repeat' first | assumption | apply State.abortCmd_kept | refine Kept.foldl ?_ (fun _ _ _ => ?_) | refine Kept.foldlFst ?_ (fun _ _ _ => ?_) | dsimp only | split | refine Kept.upd ?_

theorem execSwapDrainTimeout_kept {s0 s : State} (h : Kept s0 s) :
    Kept.Out s0 (execSwapDrainTimeout s) := by
  unfold execSwapDrainTimeout
  with_reducible repeat' first | assumption | apply State.drainLate_kept | apply Kept.outFault | apply Kept.outRefused | apply Kept.outNext | dsimp only | split

theorem State.swapAborted_kept {s0 s : State} (r : SwapReq) (h : Kept s0 s) :
    Kept s0 (State.swapAborted s r) := by
  unfold State.swapAborted
  with_reducible repeat' first | assumption | apply State.afterSwap_kept | apply State.applyHeld_kept | apply State.swapReport_kept | dsimp only | split | refine Kept.upd ?_

theorem State.swapFinish_kept {s0 s : State} (r : SwapReq) (fault : Bool) (h : Kept s0 s) :
    Kept s0 (State.swapFinish s r fault) := by
  unfold State.swapFinish
  with_reducible repeat' first | assumption | apply State.swapFlip_kept | apply State.swapReport_kept | apply State.afterSwap_kept | apply State.applyHeld_kept | refine Kept.ofFst (by assumption) ?_ | dsimp only | split | refine Kept.upd ?_

theorem State.drained_kept {s0 s : State} (r : SwapReq) (fault : Bool) (h : Kept s0 s) :
    Kept s0 (State.drained s r fault) := by
  unfold State.drained
  with_reducible repeat' first | assumption | apply State.swapPower_kept | apply State.swapFinish_kept | apply State.swapScrub_kept | apply State.setPhase_kept | dsimp only | split | refine Kept.upd ?_

theorem State.drainEnd_kept {s0 : State} {s00 : State} (fault : Bool) (h : Kept s0 s00) :
    Kept s0 (State.drainEnd s00 fault) := by
  unfold State.drainEnd
  with_reducible repeat' first | assumption | apply State.swapAborted_kept | apply State.unbindLeaving_kept | apply State.drained_kept | dsimp only | split

theorem execSwapDrainEnd_kept {s0 : State} (loadFault : Bool) {s : State} (h : Kept s0 s) :
    Kept.Out s0 (execSwapDrainEnd loadFault s) := by
  unfold execSwapDrainEnd
  with_reducible repeat' first | assumption | apply State.drainEnd_kept | apply Kept.outFault | apply Kept.outRefused | apply Kept.outNext

theorem State.setShare_kept {s0 s : State} (p cls new : ℕ) (h : Kept s0 s) :
    Kept s0 (State.setShare s p cls new) := by
  unfold State.setShare
  with_reducible repeat' first | assumption | apply State.setPart_kept | apply State.setCredit_kept | refine Kept.foldl ?_ (fun _ _ _ => ?_)

theorem State.opShareSet_kept {s0 : State} (c : Cmd) {s : State} (h : Kept s0 s) :
    Kept s0 (State.opShareSet c s) := by
  unfold State.opShareSet
  with_reducible repeat' first | assumption | apply State.endCmd_kept | apply State.setShare_kept | dsimp only | split

theorem execShareSet_kept {s0 : State} (id : ℕ) {s : State} (h : Kept s0 s) :
    Kept.Out s0 (execShareSet id s) := by
  unfold execShareSet
  with_reducible repeat' first | assumption | apply State.runMgmt_kept | apply State.opShareSet_kept | apply Kept.outFault | apply Kept.outRefused | apply Kept.outNext

theorem State.setShade_kept {s0 s : State} (p path : ℕ) (rate depth : ℕ) (h : Kept s0 s) :
    Kept s0 (State.setShade s p path rate depth) := by
  unfold State.setShade
  with_reducible repeat' first | assumption | apply State.updShade_kept

theorem State.opShadeSet_kept {s0 : State} (c : Cmd) {s : State} (h : Kept s0 s) :
    Kept s0 (State.opShadeSet c s) := by
  unfold State.opShadeSet
  with_reducible repeat' first | assumption | apply State.endCmd_kept | apply State.setShade_kept | dsimp only | split

theorem execShadeSet_kept {s0 : State} (id : ℕ) {s : State} (h : Kept s0 s) :
    Kept.Out s0 (execShadeSet id s) := by
  unfold execShadeSet
  with_reducible repeat' first | assumption | apply State.runMgmt_kept | apply State.opShadeSet_kept | apply Kept.outFault | apply Kept.outRefused | apply Kept.outNext

theorem State.acctSelWrite_kept {s0 s : State} (v : Word) (h : Kept s0 s) :
    Kept s0 (State.acctSelWrite s v) := by
  unfold State.acctSelWrite
  with_reducible repeat' first | assumption | apply State.setReg_kept | refine Kept.ofFst (by assumption) ?_ | dsimp only | split

theorem execAcctSelSnap_kept {s0 : State} (v : Word) {s : State} (h : Kept s0 s) :
    Kept.Out s0 (execAcctSelSnap v s) := by
  unfold execAcctSelSnap
  with_reducible repeat' first | assumption | apply State.pfReach_kept | apply State.acctSelWrite_kept | apply Kept.outFault | apply Kept.outRefused | apply Kept.outNext

theorem State.lanternSteps_kept {s0 s : State} (n steps : ℕ) (h : Kept s0 s) :
    Kept s0 (State.lanternSteps s n steps) := by
  unfold State.lanternSteps
  with_reducible repeat' first | assumption | apply State.arbCharge_kept | dsimp only | split

theorem State.arbitrate_kept {s0 s : State} (u : ArbUnit) (steps : ℕ) (h : Kept s0 s) :
    Kept s0 (State.arbitrate s u steps) := by
  unfold State.arbitrate
  with_reducible repeat' first | assumption | apply State.lanternSteps_kept | apply State.seqDecide_kept | apply State.arbEnd_kept | apply State.arbDecide_kept | dsimp only | split

theorem execArbitrationDecision_kept {s0 : State} (u : ArbUnit) (steps : ℕ) {s : State} (h : Kept s0 s) :
    Kept.Out s0 (execArbitrationDecision u steps s) := by
  unfold execArbitrationDecision
  with_reducible repeat' first | assumption | apply State.arbitrate_kept | apply Kept.outFault | apply Kept.outRefused | apply Kept.outNext

theorem State.unitScrubbed_kept {s0 s : State} (i : ℕ) (h : Kept s0 s) :
    Kept s0 (State.unitScrubbed s i) := by
  unfold State.unitScrubbed
  with_reducible repeat' first | assumption | apply State.swapAborted_kept | apply State.swapFinish_kept | dsimp only | split | refine Kept.upd ?_

theorem execScrubComplete_kept {s0 : State} (u : ScrubUnit) {s : State} (h : Kept s0 s) :
    Kept.Out s0 (execScrubComplete u s) := by
  unfold execScrubComplete
  with_reducible repeat' first | assumption | apply State.unitScrubbed_kept | apply State.ingotScrubbed_kept | apply State.bankScrubbed_kept | apply Kept.outFault | apply Kept.outRefused | apply Kept.outNext | dsimp only | split

theorem State.abortOne_kept {s0 s : State} (c : Cmd) (h : Kept s0 s) :
    Kept s0 (State.abortOne s c) := by
  unfold State.abortOne
  with_reducible repeat' first | assumption | apply State.abortCmd_kept | dsimp only | split | refine Kept.upd ?_

theorem State.opRunAbort_kept {s0 : State} (c : Cmd) {s : State} (h : Kept s0 s) :
    Kept s0 (State.opRunAbort c s) := by
  unfold State.opRunAbort
  with_reducible repeat' first | assumption | apply State.endCmd_kept | apply State.abortOne_kept | refine Kept.foldl ?_ (fun _ _ _ => ?_)

theorem execRunAbort_kept {s0 : State} (id : ℕ) {s : State} (h : Kept s0 s) :
    Kept.Out s0 (execRunAbort id s) := by
  unfold execRunAbort
  with_reducible repeat' first | assumption | apply State.runMgmt_kept | apply State.opRunAbort_kept | apply Kept.outFault | apply Kept.outRefused | apply Kept.outNext

end Sys2Proof.Machine
end

