-- ==== Sys2Proof/Laws/KeptCommands.lean ====
section
/-!
SUPPORT. What the operations of Machine/Commands.lean keep (Kept).
-/

namespace Sys2Proof.Machine

set_option simprocs false
set_option Elab.async false

theorem State.newCmd_kept {s0 s : State} (src : CmdSrc) (p fn pos : ℕ) (h5 : List Byte) (params : List Byte) (st : Status) (h : Kept s0 s) :
    Kept s0 (State.newCmd s src p fn pos h5 params st) := by
  unfold State.newCmd
  with_reducible repeat' first | assumption | dsimp only | split | refine Kept.upd ?_

theorem State.fetchFrom_kept {s0 s : State} (d r : ℕ) (bs : List Byte) (h : Kept s0 s) :
    Kept s0 (State.fetchFrom s d r bs) := by
  unfold State.fetchFrom
  with_reducible repeat' first | assumption | apply State.newCmd_kept | apply State.setRing_kept | refine Kept.ofFst (by assumption) ?_ | dsimp only | split | refine Kept.upd ?_

theorem State.fetch_kept {s0 s : State} (d : ℕ) (h : Kept s0 s) :
    Kept s0 (State.fetch s d) := by
  unfold State.fetch
  with_reducible repeat' first | assumption | apply Kept.ite | apply State.shadeAskAll_kept | apply State.fetchFrom_kept | refine Kept.ofFst (by assumption) ?_ | dsimp only | split

theorem execCommandFetch_kept {s0 : State} (d : DsIx) {s : State} (h : Kept s0 s) :
    Kept.Out s0 (execCommandFetch d s) := by
  unfold execCommandFetch
  with_reducible repeat' first | assumption | apply State.fetch_kept | apply Kept.outFault | apply Kept.outRefused | apply Kept.outNext

theorem State.pickShaper_kept {s0 s : State} (c : Cmd) (h : Kept s0 s) :
    Kept s0 (State.pickShaper s c).1 := by
  unfold State.pickShaper
  with_reducible repeat' first | assumption | apply State.drawFree_kept | refine Kept.ofSnd (by assumption) ?_ | dsimp only | split

theorem State.placeCmd_kept {s0 s : State} (c : Cmd) (h : Kept s0 s) :
    Kept s0 (State.placeCmd s c).1 := by
  unfold State.placeCmd
  with_reducible repeat' first | assumption | apply State.pickShaper_kept | refine Kept.ofFst (by assumption) ?_ | dsimp only | split

theorem State.endAtIssue_kept {s0 s : State} (r : ℕ) (c : Cmd) (st : Status) (d : Word) (h : Kept s0 s) :
    Kept s0 (State.endAtIssue s r c st d) := by
  unfold State.endAtIssue
  with_reducible repeat' first | assumption | apply State.endCmd_kept | apply State.setRing_kept

theorem State.sendCmd_kept {s0 s : State} (c : Cmd) (h : Kept s0 s) :
    Kept s0 (State.sendCmd s c) := by
  unfold State.sendCmd
  with_reducible repeat' first | assumption | apply State.placeCmd_kept | apply State.fresh_kept | apply State.updCmd_kept | apply State.endCmd_kept | refine Kept.ofFst (by assumption) ?_ | refine Kept.ofSnd (by assumption) ?_ | dsimp only | split

theorem State.issueRing_kept {s0 s : State} (r : RingIx) (h : Kept s0 s) :
    Kept s0 (State.issueRing s r) := by
  unfold State.issueRing
  with_reducible repeat' first | assumption | apply Kept.ite | apply State.updCmd_kept | apply State.endAtIssue_kept | apply State.sendCmd_kept | apply State.setRing_kept | refine Kept.ofFst (by assumption) ?_ | dsimp only | split

theorem State.issueFrame_kept {s0 s : State} (p : PartIx) (ix : StreamIx) (slot : ℕ) (h : Kept s0 s) :
    Kept s0 (State.issueFrame s p ix slot) := by
  unfold State.issueFrame
  with_reducible repeat' first | assumption | apply Kept.ite | apply State.endCmd_kept | apply State.sendCmd_kept | dsimp only | split

theorem execCommandIssue_kept {s0 : State} (src : CmdSrc) {s : State} (h : Kept s0 s) :
    Kept.Out s0 (execCommandIssue src s) := by
  unfold execCommandIssue
  with_reducible repeat' first | assumption | apply State.issueRing_kept | apply State.issueFrame_kept | apply Kept.outFault | apply Kept.outRefused | apply Kept.outNext | dsimp only | split

theorem State.dropCmd_kept {s0 s : State} (id : ℕ) (h : Kept s0 s) :
    Kept s0 (State.dropCmd s id) := by
  unfold State.dropCmd
  with_reducible repeat' first | assumption | dsimp only | split | refine Kept.upd ?_

theorem State.writeRecord_kept {s0 s : State} (r : ℕ) (c : Cmd) (h : Kept s0 s) :
    Kept s0 (State.writeRecord s r c) := by
  unfold State.writeRecord
  with_reducible repeat' first | assumption | apply State.setRing_kept | apply State.ringWrite_kept | apply State.statusBlock_kept | apply State.countIrq_kept | apply State.dropCmd_kept | dsimp only | split

theorem State.completeRing_kept {s0 s : State} (r : ℕ) (c : Cmd) (h : Kept s0 s) :
    Kept s0 (State.completeRing s r c) := by
  unfold State.completeRing
  with_reducible repeat' first | assumption | apply State.shadeAskAll_kept | apply State.writeRecord_kept | refine Kept.ofFst (by assumption) ?_ | dsimp only | split

theorem State.finishJobs_kept {s0 s : State} (p ix zs : ℕ) (h : Kept s0 s) :
    Kept s0 (State.finishJobs s p ix zs) := by
  induction zs generalizing s p ix with
  | zero =>
    rw [State.finishJobs]
    with_reducible repeat' first | apply ih | assumption
  | succ zs ih =>
    rw [State.finishJobs]
    with_reducible repeat' first | apply ih | assumption | apply State.finishJob_kept | dsimp only | split

theorem State.completeFrame_kept {s0 s : State} (p ix : ℕ) (c : Cmd) (h : Kept s0 s) :
    Kept s0 (State.completeFrame s p ix c) := by
  unfold State.completeFrame
  with_reducible repeat' first | assumption | apply State.dropCmd_kept | apply State.updJob_kept | apply State.chainDrop_kept | apply State.finishJobs_kept | dsimp only | split

theorem State.unbindEnd_kept {s0 s : State} (c : Cmd) (h : Kept s0 s) :
    Kept s0 (State.unbindEnd s c) := by
  unfold State.unbindEnd
  with_reducible repeat' first | assumption | apply State.endCmd_kept | apply State.removeStream_kept | dsimp only | split

theorem State.complete_kept {s0 s : State} (id : ℕ) (h : Kept s0 s) :
    Kept s0 (State.complete s id) := by
  unfold State.complete
  with_reducible repeat' first | assumption | apply State.unbindEnd_kept | apply State.completeRing_kept | apply State.completeFrame_kept | dsimp only | split

theorem execCommandComplete_kept {s0 : State} (id : ℕ) {s : State} (h : Kept s0 s) :
    Kept.Out s0 (execCommandComplete id s) := by
  unfold execCommandComplete
  with_reducible repeat' first | assumption | apply State.complete_kept | apply Kept.outFault | apply Kept.outRefused | apply Kept.outNext

theorem State.opNop_kept {s0 : State} (c : Cmd) {s : State} (h : Kept s0 s) :
    Kept s0 (State.opNop c s) := by
  unfold State.opNop
  with_reducible repeat' first | assumption | apply State.endCmd_kept

theorem execNop_kept {s0 : State} (id : ℕ) {s : State} (h : Kept s0 s) :
    Kept.Out s0 (execNop id s) := by
  unfold execNop
  with_reducible repeat' first | assumption | apply State.runOp_kept | apply State.opNop_kept | apply Kept.outFault | apply Kept.outRefused | apply Kept.outNext

theorem State.opFence_kept {s0 : State} (c : Cmd) {s : State} (h : Kept s0 s) :
    Kept s0 (State.opFence c s) := by
  unfold State.opFence
  with_reducible repeat' first | assumption | apply State.endCmd_kept | dsimp only | split

theorem execFence_kept {s0 : State} (id : ℕ) {s : State} (h : Kept s0 s) :
    Kept.Out s0 (execFence id s) := by
  unfold execFence
  with_reducible repeat' first | assumption | apply State.runOp_kept | apply State.opFence_kept | apply Kept.outFault | apply Kept.outRefused | apply Kept.outNext

theorem State.opTimestamp_kept {s0 : State} (c : Cmd) {s : State} (h : Kept s0 s) :
    Kept s0 (State.opTimestamp c s) := by
  unfold State.opTimestamp
  with_reducible repeat' first | assumption | apply State.endCmd_kept | apply State.noteFault_kept | apply State.shadeAskAll_kept | apply State.wr_kept | refine Kept.ofOk (by assumption) ?_ | apply Kept.rsErr | apply Kept.rsOk | refine Kept.ofFst (by assumption) ?_ | dsimp only | split

theorem execTimestamp_kept {s0 : State} (id : ℕ) {s : State} (h : Kept s0 s) :
    Kept.Out s0 (execTimestamp id s) := by
  unfold execTimestamp
  with_reducible repeat' first | assumption | apply State.runOp_kept | apply State.opTimestamp_kept | apply Kept.outFault | apply Kept.outRefused | apply Kept.outNext

theorem State.bindStream_kept {s0 s : State} (c : Cmd) (tpl : List (List Byte)) (home ctx entry : ℕ) (h : Kept s0 s) :
    Kept s0 (State.bindStream s c tpl home ctx entry) := by
  unfold State.bindStream
  with_reducible repeat' first | assumption | apply Kept.ite | apply State.endCmd_kept | apply State.powerUp_kept | refine Kept.ofFst (by assumption) ?_ | dsimp only | split | refine Kept.upd ?_

theorem State.opStreamBind_kept {s0 : State} (c : Cmd) {s : State} (h : Kept s0 s) :
    Kept s0 (State.opStreamBind c s) := by
  unfold State.opStreamBind
  with_reducible repeat' first | assumption | apply Kept.ite | apply State.endCmd_kept | apply State.bindStream_kept | refine Kept.ofFst (by assumption) ?_ | dsimp only | split

theorem execStreamBind_kept {s0 : State} (id : ℕ) {s : State} (h : Kept s0 s) :
    Kept.Out s0 (execStreamBind id s) := by
  unfold execStreamBind
  with_reducible repeat' first | assumption | apply State.runOp_kept | apply State.opStreamBind_kept | apply Kept.outFault | apply Kept.outRefused | apply Kept.outNext

theorem State.opStreamFeed_kept {s0 : State} (c : Cmd) {s : State} (h : Kept s0 s) :
    Kept s0 (State.opStreamFeed c s) := by
  unfold State.opStreamFeed
  with_reducible repeat' first | assumption | apply Kept.ite | apply State.endCmd_kept | apply State.useHandle_kept | apply State.fresh_kept | apply State.updCmd_kept | apply State.updStream_kept | apply State.updDec_kept | refine Kept.ofFst (by assumption) ?_ | refine Kept.ofSnd (by assumption) ?_ | dsimp only | split

theorem execStreamFeed_kept {s0 : State} (id : ℕ) {s : State} (h : Kept s0 s) :
    Kept.Out s0 (execStreamFeed id s) := by
  unfold execStreamFeed
  with_reducible repeat' first | assumption | apply State.runOp_kept | apply State.opStreamFeed_kept | apply Kept.outFault | apply Kept.outRefused | apply Kept.outNext

theorem State.opStreamUnbind_kept {s0 : State} (c : Cmd) {s : State} (h : Kept s0 s) :
    Kept s0 (State.opStreamUnbind c s) := by
  unfold State.opStreamUnbind
  with_reducible repeat' first | assumption | apply State.endCmd_kept | apply State.updCmd_kept | apply State.unbindStart_kept | dsimp only | split

theorem execStreamUnbind_kept {s0 : State} (id : ℕ) {s : State} (h : Kept s0 s) :
    Kept.Out s0 (execStreamUnbind id s) := by
  unfold execStreamUnbind
  with_reducible repeat' first | assumption | apply State.runOp_kept | apply State.opStreamUnbind_kept | apply Kept.outFault | apply Kept.outRefused | apply Kept.outNext

theorem State.opPoolAlloc_kept {s0 : State} (c : Cmd) {s : State} (h : Kept s0 s) :
    Kept s0 (State.opPoolAlloc c s) := by
  unfold State.opPoolAlloc
  with_reducible repeat' first | assumption | apply Kept.ite | apply State.endCmd_kept | apply State.noteFault_kept | apply State.shadeAskAll_kept | apply State.allocBufs_kept | refine Kept.ofSome (by assumption) ?_ | refine Kept.ofSomeP (by assumption) ?_ | apply State.store_kept | apply Kept.optNone | apply Kept.optSome | refine Kept.ofFst (by assumption) ?_ | dsimp only | split

theorem execPoolAlloc_kept {s0 : State} (id : ℕ) {s : State} (h : Kept s0 s) :
    Kept.Out s0 (execPoolAlloc id s) := by
  unfold execPoolAlloc
  with_reducible repeat' first | assumption | apply State.runOp_kept | apply State.opPoolAlloc_kept | apply Kept.outFault | apply Kept.outRefused | apply Kept.outNext

theorem State.opRangeScan_kept {s0 : State} (c : Cmd) {s : State} (h : Kept s0 s) :
    Kept s0 (State.opRangeScan c s) := by
  unfold State.opRangeScan
  with_reducible repeat' first | assumption | apply Kept.ite | apply State.endCmd_kept | apply State.noteFault_kept | apply State.shadeAskAll_kept | apply State.wr_kept | refine Kept.ofOk (by assumption) ?_ | apply Kept.rsErr | apply Kept.rsOk | refine Kept.ofFst (by assumption) ?_ | dsimp only | split

theorem execRangeScan_kept {s0 : State} (id : ℕ) {s : State} (h : Kept s0 s) :
    Kept.Out s0 (execRangeScan id s) := by
  unfold execRangeScan
  with_reducible repeat' first | assumption | apply State.runOp_kept | apply State.opRangeScan_kept | apply Kept.outFault | apply Kept.outRefused | apply Kept.outNext

theorem State.copyRefused_kept {s0 s : State} (c : Cmd) (st : Status) (addr : ℕ) (h : Kept s0 s) :
    Kept s0 (State.copyRefused s c st addr) := by
  unfold State.copyRefused
  with_reducible repeat' first | assumption | apply State.endCmd_kept | apply State.noteFault_kept

theorem State.pumpReads_kept {s0 s : State} (c : Cmd) (l : List (ℕ × ℕ × ℕ)) (h : Kept s0 s) :
    Kept s0 (State.pumpReads s c l) := by
  unfold State.pumpReads
  with_reducible repeat' first | assumption | apply State.updCmd_kept | refine Kept.ofFst (by assumption) ?_ | dsimp only | split | refine Kept.upd ?_

theorem State.copyFromHost_kept {s0 s : State} (c : Cmd) (r : RmoReq) (h : Kept s0 s) :
    Kept s0 (State.copyFromHost s c r) := by
  unfold State.copyFromHost
  with_reducible repeat' first | assumption | apply State.copyRefused_kept | apply State.shadeAskAll_kept | apply State.pumpReads_kept | apply State.updCmd_kept | refine Kept.ofFst (by assumption) ?_ | dsimp only | split

theorem State.copyGoesOn_kept {s0 s : State} (id : ℕ) (h : Kept s0 s) :
    Kept s0 (State.copyGoesOn s id) := by
  unfold State.copyGoesOn
  with_reducible repeat' first | assumption | apply State.pumpReads_kept | apply State.endCmd_kept | refine Kept.ofFst (by assumption) ?_ | dsimp only | split

theorem State.opCopy_kept {s0 : State} (c : Cmd) {s : State} (h : Kept s0 s) :
    Kept s0 (State.opCopy c s) := by
  unfold State.opCopy
  with_reducible repeat' first | assumption | apply Kept.ite | apply State.endCmd_kept | apply State.copyRefused_kept | apply State.copyFromHost_kept | apply State.shadeAskAll_kept | apply State.takeRows_kept | apply State.writeHost_kept | apply State.copyRows_kept | refine Kept.ofFst (by assumption) ?_ | dsimp only | split

theorem execCopy_kept {s0 : State} (id : ℕ) {s : State} (h : Kept s0 s) :
    Kept.Out s0 (execCopy id s) := by
  unfold execCopy
  with_reducible repeat' first | assumption | apply State.runOp_kept | apply State.copyGoesOn_kept | apply State.opCopy_kept | apply Kept.outFault | apply Kept.outRefused | apply Kept.outNext

theorem State.opFill_kept {s0 : State} (c : Cmd) {s : State} (h : Kept s0 s) :
    Kept s0 (State.opFill c s) := by
  unfold State.opFill
  with_reducible repeat' first | assumption | apply State.copyRefused_kept | apply State.shadeAskAll_kept | apply State.fillRows_kept | apply State.endCmd_kept | refine Kept.ofFst (by assumption) ?_ | dsimp only | split

theorem execFill_kept {s0 : State} (id : ℕ) {s : State} (h : Kept s0 s) :
    Kept.Out s0 (execFill id s) := by
  unfold execFill
  with_reducible repeat' first | assumption | apply State.runOp_kept | apply State.opFill_kept | apply Kept.outFault | apply Kept.outRefused | apply Kept.outNext

theorem State.hostReadDone_kept {s0 s : State} (id : ℕ) (bytes : List Byte) (h : Kept s0 s) :
    Kept s0 (State.hostReadDone s id bytes) := by
  unfold State.hostReadDone
  with_reducible repeat' first | assumption | apply Kept.ite | apply State.rowStart_kept | apply State.copyGoesOn_kept | apply State.store_kept | apply State.updCmd_kept | apply State.endCmd_kept | refine Kept.ofFst (by assumption) ?_ | dsimp only | split | refine Kept.upd ?_

theorem execHostReadCompletion_kept {s0 : State} (id : ℕ) (bytes : List Byte) {s : State} (h : Kept s0 s) :
    Kept.Out s0 (execHostReadCompletion id bytes s) := by
  unfold execHostReadCompletion
  with_reducible repeat' first | assumption | apply State.hostReadDone_kept | apply Kept.outFault | apply Kept.outRefused | apply Kept.outNext

theorem State.frameCmd_kept {s0 s : State} (p : PartIx) (ix : StreamIx) (st : Stream) (j : FrameJob) (slot pos : ℕ) (b : List Byte) (h : Kept s0 s) :
    Kept s0 (State.frameCmd s p ix st j slot pos b) := by
  unfold State.frameCmd
  with_reducible repeat' first | assumption | apply State.newCmd_kept | apply State.updCmd_kept

theorem State.frameChain_kept {s0 s : State} (p : PartIx) (ix : StreamIx) (h : Kept s0 s) :
    Kept s0 (State.frameChain s p ix) := by
  unfold State.frameChain
  with_reducible repeat' first | assumption | apply State.frameCmd_kept | apply State.updStream_kept | apply State.chainDrop_kept | refine Kept.foldl ?_ (fun _ _ _ => ?_) | refine Kept.foldlFst ?_ (fun _ _ _ => ?_) | refine Kept.ofFst (by assumption) ?_ | dsimp only | split

theorem execFrameChainIssue_kept {s0 : State} (p : PartIx) (ix : StreamIx) {s : State} (h : Kept s0 s) :
    Kept.Out s0 (execFrameChainIssue p ix s) := by
  unfold execFrameChainIssue
  with_reducible repeat' first | assumption | apply State.frameChain_kept | apply Kept.outFault | apply Kept.outRefused | apply Kept.outNext

end Sys2Proof.Machine
end

