-- ==== Sys2Proof/Laws/KeptPcie.lean ====
section
/-!
SUPPORT. What the operations of Machine/Pcie.lean keep (Kept).
-/

namespace Sys2Proof.Machine

set_option simprocs false
set_option Elab.async false

theorem State.fnAbort_kept {s0 s : State} (c : Cmd) (h : Kept s0 s) :
    Kept s0 (State.fnAbort s c) := by
  unfold State.fnAbort
  with_reducible repeat' first | assumption | apply State.abortCmd_kept | apply State.dropCmd_kept | apply State.removeStream_kept | dsimp only | split

theorem State.endFns_kept {s0 s : State} (fns : ℕ → Bool) (h : Kept s0 s) :
    Kept s0 (State.endFns s fns) := by
  unfold State.endFns
  with_reducible repeat' first | assumption | apply State.fnAbort_kept | refine Kept.foldl ?_ (fun _ _ _ => ?_) | refine Kept.foldlFst ?_ (fun _ _ _ => ?_) | refine Kept.ofFst (by assumption) ?_ | dsimp only | split | refine Kept.updTabs ?_ (fun ⟨a, b, c, d, e, f, g, h, i, j⟩ => ⟨a, Kept.ordered_map _ (fun _ => rfl) b, c, d, e, f, g, h, i, j⟩)

theorem State.clearMailbox_kept {s0 s : State} (f : ℕ) (h : Kept s0 s) : Kept s0 (State.clearMailbox s f) := by
  unfold State.clearMailbox
  extract_lets lo
  refine Kept.upd (regs_filterMap_kept _ h ?_)
  intro e e' he
  split at he
  · split at he
    · rename_i h1
      cases he
      exact ⟨rfl, fun _ => by rw [h1.1]; decide⟩
    · cases he
  · cases he
    exact ⟨rfl, id⟩

theorem State.clearMailboxes_kept {s0 s : State} (h : Kept s0 s) :
    Kept s0 (State.clearMailboxes s) := by
  unfold State.clearMailboxes
  with_reducible repeat' first | assumption | apply State.clearMailbox_kept | refine Kept.foldl ?_ (fun _ _ _ => ?_)

theorem State.hotColumn_kept {s0 s : State} (h : Kept s0 s) :
    Kept s0 (State.hotColumn s) := by
  unfold State.hotColumn
  with_reducible repeat' first | assumption | apply State.clearMailboxes_kept | apply State.endFns_kept | apply State.setFld_kept | refine Kept.ofFst (by assumption) ?_ | dsimp only | split | refine Kept.upd ?_

theorem State.linkDown_kept {s0 s : State} (h : Kept s0 s) :
    Kept s0 (State.linkDown s) := by
  unfold State.linkDown
  with_reducible repeat' first | assumption | apply State.setFld_kept

theorem State.pcieUp_kept {s0 s : State} (speed width : ℕ) (flit : Bool) (h : Kept s0 s) :
    Kept s0 (State.pcieUp s speed width flit) := by
  unfold State.pcieUp
  with_reducible repeat' first | assumption | apply State.setFld_kept | dsimp only | split

theorem execPcieLinkUp_kept {s0 : State} (speed : Fin 7) (width : ℕ) (flit : Bool) {s : State} (h : Kept s0 s) :
    Kept.Out s0 (execPcieLinkUp speed width flit s) := by
  unfold execPcieLinkUp
  with_reducible repeat' first | assumption | apply State.pcieUp_kept | apply Kept.outFault | apply Kept.outRefused | apply Kept.outNext | dsimp only | split

theorem State.pcieLost_kept {s0 s : State} (h : Kept s0 s) :
    Kept s0 (State.pcieLost s) := by
  unfold State.pcieLost
  with_reducible repeat' first | assumption | apply State.drawFree_kept | apply State.setFlag_kept | apply State.linkDown_kept | apply State.sootEvent_kept | apply State.endCmd_kept | apply State.hotColumn_kept | refine Kept.foldl ?_ (fun _ _ _ => ?_) | refine Kept.foldlFst ?_ (fun _ _ _ => ?_) | refine Kept.ofFst (by assumption) ?_ | refine Kept.ofSnd (by assumption) ?_ | dsimp only | split

theorem execPcieLinkLost_kept {s0 s : State} (h : Kept s0 s) :
    Kept.Out s0 (execPcieLinkLost s) := by
  unfold execPcieLinkLost
  with_reducible repeat' first | assumption | apply State.pcieLost_kept | apply Kept.outFault | apply Kept.outRefused | apply Kept.outNext

theorem execHotReset_kept {s0 s : State} (h : Kept s0 s) :
    Kept.Out s0 (execHotReset s) := by
  unfold execHotReset
  with_reducible repeat' first | assumption | apply State.setFlag_kept | apply State.hotColumn_kept | apply State.linkDown_kept | apply Kept.outFault | apply Kept.outRefused | apply Kept.outNext | dsimp only | split

theorem State.flrStart_kept {s0 s : State} (f : ℕ) (h : Kept s0 s) :
    Kept s0 (State.flrStart s f) := by
  unfold State.flrStart
  with_reducible repeat' first | assumption | apply State.endFns_kept | apply State.setFld_kept | apply State.setFunc_kept | refine Kept.ofFst (by assumption) ?_ | dsimp only | split | refine Kept.upd ?_

theorem execFlr_kept {s0 : State} (f : FnIx) {s : State} (h : Kept s0 s) :
    Kept.Out s0 (execFlr f s) := by
  unfold execFlr
  with_reducible repeat' first | assumption | apply State.flrStart_kept | apply Kept.outFault | apply Kept.outRefused | apply Kept.outNext

theorem State.flrEnd_kept {s0 s : State} (f : ℕ) (h : Kept s0 s) :
    Kept s0 (State.flrEnd s f) := by
  unfold State.flrEnd
  with_reducible repeat' first | assumption | apply State.clearMailboxes_kept | apply State.clearMailbox_kept | apply State.setFlag_kept | apply State.setFunc_kept | dsimp only | split

theorem execFlrComplete_kept {s0 : State} (f : FnIx) {s : State} (h : Kept s0 s) :
    Kept.Out s0 (execFlrComplete f s) := by
  unfold execFlrComplete
  with_reducible repeat' first | assumption | apply State.flrEnd_kept | apply Kept.outFault | apply Kept.outRefused | apply Kept.outNext

theorem State.bar4Refused_kept {s0 s : State} (h : Kept s0 s) :
    Kept s0 (State.bar4Refused s) := by
  unfold State.bar4Refused
  with_reducible repeat' first | assumption | apply State.bump_kept

theorem State.aerLog_kept {s0 s : State} (f kind : ℕ) (h : Kept s0 s) :
    Kept s0 (State.aerLog s f kind) := by
  unfold State.aerLog
  with_reducible repeat' first | assumption | dsimp only | split | refine Kept.upd ?_

theorem State.bar4Rd_kept {s0 s : State} (off n : ℕ) (h : Kept s0 s) :
    Kept s0 (State.bar4Rd s off n) := by
  unfold State.bar4Rd
  with_reducible repeat' first | assumption | apply State.memError_kept | apply State.bar4Refused_kept | dsimp only | split | refine Kept.upd ?_

theorem execBar4Read_kept {s0 : State} (off len : ℕ) {s : State} (h : Kept s0 s) :
    Kept.Out s0 (execBar4Read off len s) := by
  unfold execBar4Read
  with_reducible repeat' first | assumption | apply State.bar4Rd_kept | apply Kept.outFault | apply Kept.outRefused | apply Kept.outNext

theorem State.bar4Wr_kept {s0 s : State} (off : ℕ) (bs : List Byte) (h : Kept s0 s) :
    Kept s0 (State.bar4Wr s off bs) := by
  unfold State.bar4Wr
  with_reducible repeat' first | assumption | apply State.aerLog_kept | apply State.bar4Refused_kept | apply State.storeUnits_kept | dsimp only | split

theorem execBar4Write_kept {s0 : State} (off : ℕ) (bytes : List Byte) {s : State} (h : Kept s0 s) :
    Kept.Out s0 (execBar4Write off bytes s) := by
  unfold execBar4Write
  with_reducible repeat' first | assumption | apply State.bar4Wr_kept | apply Kept.outFault | apply Kept.outRefused | apply Kept.outNext

theorem State.readTimeout_kept {s0 s : State} (id : ℕ) (h : Kept s0 s) :
    Kept s0 (State.readTimeout s id) := by
  unfold State.readTimeout
  with_reducible repeat' first | assumption | apply State.bump_kept | apply State.aerLog_kept | apply State.endCmd_kept | dsimp only | split | refine Kept.upd ?_

theorem execCompletionTimeout_kept {s0 : State} (id : ℕ) {s : State} (h : Kept s0 s) :
    Kept.Out s0 (execCompletionTimeout id s) := by
  unfold execCompletionTimeout
  with_reducible repeat' first | assumption | apply State.readTimeout_kept | apply Kept.outFault | apply Kept.outRefused | apply Kept.outNext

theorem execPowerStateChange_kept {s0 : State} (d3 : Bool) {s : State} (h : Kept s0 s) :
    Kept.Out s0 (execPowerStateChange d3 s) := by
  unfold execPowerStateChange
  with_reducible repeat' first | assumption | apply Kept.outFault | apply Kept.outRefused | apply Kept.outNext | dsimp only | split | refine Kept.upd ?_

theorem State.vfWrite_kept {s0 s : State} (enable : Bool) (mse : Bool) (num : ℕ) (h : Kept s0 s) :
    Kept s0 (State.vfWrite s enable mse num) := by
  unfold State.vfWrite
  with_reducible repeat' first | assumption | apply State.setFld_kept | apply State.endFns_kept | apply State.clearMailbox_kept | refine Kept.foldl ?_ (fun _ _ _ => ?_) | refine Kept.foldlFst ?_ (fun _ _ _ => ?_) | refine Kept.ofFst (by assumption) ?_ | dsimp only | split | refine Kept.upd ?_

theorem execVfEnable_kept {s0 : State} (enable : Bool) (mse : Bool) (num : ℕ) {s : State} (h : Kept s0 s) :
    Kept.Out s0 (execVfEnable enable mse num s) := by
  unfold execVfEnable
  with_reducible repeat' first | assumption | apply State.vfWrite_kept | apply Kept.outFault | apply Kept.outRefused | apply Kept.outNext

theorem execMsixPendingSend_kept {s0 : State} (f : FnIx) (vec : Fin 2048) {s : State} (h : Kept s0 s) :
    Kept.Out s0 (execMsixPendingSend f vec s) := by
  unfold execMsixPendingSend
  with_reducible repeat' first | assumption | apply State.msixDue_kept | apply State.setFunc_kept | apply Kept.outFault | apply Kept.outRefused | apply Kept.outNext | dsimp only | split

theorem State.configWrite_kept {s0 s : State} (f : ℕ) (i : ConfigItem) (h : Kept s0 s) :
    Kept s0 (State.configWrite s f i) := by
  unfold State.configWrite
  with_reducible repeat' first | assumption | apply State.setFunc_kept | dsimp only | split | refine Kept.upd ?_

theorem execConfigSpaceWrite_kept {s0 : State} (f : FnIx) (item : ConfigItem) {s : State} (h : Kept s0 s) :
    Kept.Out s0 (execConfigSpaceWrite f item s) := by
  unfold execConfigSpaceWrite
  with_reducible repeat' first | assumption | apply State.configWrite_kept | apply Kept.outFault | apply Kept.outRefused | apply Kept.outNext

end Sys2Proof.Machine
end

