-- ==== Sys2Proof/Laws/KeptReset.lean ====
section
/-!
SUPPORT. What the operations of Machine/Reset.lean keep (Kept).
-/

namespace Sys2Proof.Machine

set_option simprocs false
set_option Elab.async false

theorem State.cleared_kept {s0 s : State} (h : Kept s0 s) : Kept s0 (State.cleared s) := by
  refine h.trans ⟨rfl, rfl, fun hm => ?_, id, Nat.le_refl _, fun ⟨_, _, _, _, _, f, _, _, _, _⟩ =>
    ⟨.nil, .nil, .nil, .nil, .nil, Kept.ordered_filterMap _ (fun _ _ h => by split at h <;> cases h; rfl) f, .nil, .nil, .nil, .nil⟩, id⟩
  obtain ⟨_, h2, h3, _⟩ := (memory_wf_iff s).mp hm
  exact (memory_wf_iff _).mpr ⟨rfl, h2, h3, rfl⟩

theorem State.resetEvent_kept {s0 s : State} (h : Kept s0 s) :
    Kept s0 (State.resetEvent s) := by
  unfold State.resetEvent
  with_reducible repeat' first | assumption | apply State.sootEvent_kept

theorem warmEntry_kept (s : State) (perst : Bool) (e e' : Nat × Word)
    (he : (let w := s.warmWord perst e.1 e.2; if w = resetWord e.1 then none else some (e.1, w)) = some e') :
    e'.1 = e.1 ∧ (e.2 ≠ resetWord e.1 → e'.2 ≠ resetWord e'.1) := by
  simp only at he
  split at he
  · cases he
  · cases he
    exact ⟨rfl, fun _ => by assumption⟩

theorem State.warmRegs_wf (s : State) (perst : Bool) (hr : s.regsWf = true) : ({ s with regs := s.warmRegs perst } : State).regsWf = true :=
  (regs_filterMap_kept _ (Kept.refl s) (warmEntry_kept s perst)).regs hr

theorem State.enterSafe_kept {s0 s : State} (h : Kept s0 s) : Kept s0 (State.enterSafe s) := by
  unfold State.enterSafe
  split
  · exact h
  · extract_lets hdr c regs src s1
    have hk := State.cleared_kept (Kept.refl s)
    have hr : Kept s { s with regs := regs } := by
      refine regs_filterMap_kept _ (Kept.refl s) ?_
      intro e e' he
      simp only at he
      split at he
      · cases he
      · split at he
        · cases he
          exact ⟨rfl, id⟩
        · exact warmEntry_kept s false e e' he
    have h1 : Kept s s1 := ⟨rfl, rfl, hk.mem, hr.regs, Nat.le_refl _, hk.tabs, hk.sizes⟩
    exact State.resetEvent_kept (State.setFlag_kept _ _ _ (h.trans h1))

theorem State.setSlot_kept {s0 s : State} (k : ℕ) (v : SlotState) (h : Kept s0 s) :
    Kept s0 (State.setSlot s k v) := by
  unfold State.setSlot
  with_reducible repeat' first | assumption | dsimp only | split | refine Kept.upd ?_

theorem State.recover_kept {s0 s : State} (h : Kept s0 s) :
    Kept s0 (State.recover s) := by
  unfold State.recover
  with_reducible repeat' first | assumption | apply State.setReg_kept | dsimp only | split | refine Kept.upd ?_

theorem State.startImage_kept {s0 s : State} (k : ℕ) (h : Kept s0 s) :
    Kept s0 (State.startImage s k) := by
  unfold State.startImage
  with_reducible repeat' first | assumption | apply State.setFld_kept | dsimp only | split | refine Kept.upd ?_

theorem State.startOptions_kept {s0 s : State} (h : Kept s0 s) :
    Kept s0 (State.startOptions s) := by
  unfold State.startOptions
  with_reducible repeat' first | assumption | apply State.setReg_kept | refine Kept.ofFst (by assumption) ?_ | dsimp only | split | refine Kept.upd ?_

theorem State.failCount_kept {s0 s : State} (h : Kept s0 s) :
    Kept s0 (State.failCount s) := by
  unfold State.failCount
  with_reducible repeat' first | assumption | apply State.resetEvent_kept | apply State.setFlag_kept | apply State.setFld_kept

theorem State.start_kept {s0 : State} (zs : ℕ) {zs1 : State} (h : Kept s0 zs1) :
    Kept s0 (State.start zs zs1) := by
  induction zs generalizing zs1 with
  | zero =>
    rw [State.start]
    with_reducible repeat' first | apply ih | assumption | apply State.recover_kept
  | succ zs ih =>
    rw [State.start]
    with_reducible repeat' first | apply ih | assumption | apply State.recover_kept | apply State.startImage_kept | apply State.startOptions_kept | apply State.failCount_kept | dsimp only | split | refine Kept.upd ?_

theorem State.releaseReset_kept {s0 s : State} (h : Kept s0 s) :
    Kept s0 (State.releaseReset s) := by
  unfold State.releaseReset
  with_reducible repeat' first | assumption | apply State.start_kept | dsimp only | split

theorem State.assertWarm_kept {s0 s : State} (cause : WarmCause) (h : Kept s0 s) : Kept s0 (State.assertWarm s cause) := by
  unfold State.assertWarm
  extract_lets perst c src1 src2 s1 s2
  have hk := State.cleared_kept (Kept.refl s)
  have h1 : Kept s s1 := ⟨rfl, rfl, hk.mem, s.warmRegs_wf perst, Nat.le_refl _, hk.tabs,
    fun ⟨_, h2, _, h4⟩ => ⟨rfl, (List.length_map _).trans h2, rfl, h4⟩⟩
  exact State.resetEvent_kept (State.setFlag_kept _ _ _ (h.trans (Kept.upd h1)))

theorem State.warmReset_kept {s0 s : State} (cause : WarmCause) (h : Kept s0 s) : Kept s0 (State.warmReset s cause) := by
  unfold State.warmReset
  exact State.releaseReset_kept (State.assertWarm_kept cause h)

theorem execWarmReset_kept {s0 : State} (cause : WarmCause) {s : State} (h : Kept s0 s) :
    Kept.Out s0 (execWarmReset cause s) := by
  unfold execWarmReset
  with_reducible repeat' first | assumption | apply State.warmReset_kept | apply Kept.outFault | apply Kept.outRefused | apply Kept.outNext

theorem State.perstLow_kept {s0 s : State} (h : Kept s0 s) :
    Kept s0 (State.perstLow s) := by
  unfold State.perstLow
  with_reducible repeat' first | assumption | apply State.warmReset_kept | dsimp only | split | refine Kept.upd ?_

theorem execPerst_kept {s0 s : State} (h : Kept s0 s) :
    Kept.Out s0 (execPerst s) := by
  unfold execPerst
  with_reducible repeat' first | assumption | apply State.perstLow_kept | apply Kept.outFault | apply Kept.outRefused | apply Kept.outNext

theorem execPerstNRelease_kept {s0 s : State} (h : Kept s0 s) :
    Kept.Out s0 (execPerstNRelease s) := by
  unfold execPerstNRelease
  with_reducible repeat' first | assumption | apply State.releaseReset_kept | apply Kept.outFault | apply Kept.outRefused | apply Kept.outNext | dsimp only | split | refine Kept.upd ?_

theorem State.rstGlobalWrite_kept {s0 s : State} (v : Word) (h : Kept s0 s) :
    Kept s0 (State.rstGlobalWrite s v) := by
  unfold State.rstGlobalWrite
  with_reducible repeat' first | assumption | apply State.ignoredWrite_kept | apply State.warmReset_kept | dsimp only | split

theorem execRstGlobal_kept {s0 : State} (v : Word) {s : State} (h : Kept s0 s) :
    Kept.Out s0 (execRstGlobal v s) := by
  unfold execRstGlobal
  with_reducible repeat' first | assumption | apply State.pfReach_kept | apply State.rstGlobalWrite_kept | apply Kept.outFault | apply Kept.outRefused | apply Kept.outNext

theorem State.powerOn_kept {s0 s : State} (h : Kept s0 s) : Kept s0 (State.powerOn s) := by
  unfold State.powerOn
  extract_lets src1 src2 src3 src4 src5 src6 src7 s1 s2
  have h1 : Kept s s1 := by
    refine ⟨rfl, rfl, fun hm => ?_, fun _ => rfl, Nat.le_refl _, fun _ => ⟨.nil, .nil, .nil, .nil, .nil, .nil, .nil, .nil, .nil, .nil⟩,
      fun _ => ⟨rfl, rfl, rfl, rfl⟩⟩
    obtain ⟨_, h2, h3, _⟩ := (memory_wf_iff s).mp hm
    exact (memory_wf_iff _).mpr ⟨rfl, h2, h3, rfl⟩
  have h2 : Kept s0 s2 := State.setReg_kept _ _ (h.trans h1)
  split
  · exact h2
  · exact State.start_kept _ h2

theorem execPowerOnReset_kept {s0 s : State} (h : Kept s0 s) :
    Kept.Out s0 (execPowerOnReset s) := by
  unfold execPowerOnReset
  with_reducible repeat' first | assumption | apply State.powerOn_kept | apply Kept.outFault | apply Kept.outRefused | apply Kept.outNext

theorem State.trip_kept {s0 s : State} (tj : ℤ) (h : Kept s0 s) :
    Kept s0 (State.trip s tj) := by
  unfold State.trip
  with_reducible repeat' first | assumption | apply State.warmReset_kept | apply State.resetEvent_kept | dsimp only | split | refine Kept.upd ?_

theorem execThermalTrip_kept {s0 : State} (tj : ℤ) {s : State} (h : Kept s0 s) :
    Kept.Out s0 (execThermalTrip tj s) := by
  unfold execThermalTrip
  with_reducible repeat' first | assumption | apply State.trip_kept | apply Kept.outFault | apply Kept.outRefused | apply Kept.outNext

theorem State.tripRelease_kept {s0 s : State} (tj : ℤ) (h : Kept s0 s) :
    Kept s0 (State.tripRelease s tj) := by
  unfold State.tripRelease
  with_reducible repeat' first | assumption | apply State.releaseReset_kept | dsimp only | split | refine Kept.upd ?_

theorem execThermalTripRelease_kept {s0 : State} (tj : ℤ) {s : State} (h : Kept s0 s) :
    Kept.Out s0 (execThermalTripRelease tj s) := by
  unfold execThermalTripRelease
  with_reducible repeat' first | assumption | apply State.tripRelease_kept | apply Kept.outFault | apply Kept.outRefused | apply Kept.outNext

theorem execWatchdogExpiry_kept {s0 s : State} (h : Kept s0 s) :
    Kept.Out s0 (execWatchdogExpiry s) := by
  unfold execWatchdogExpiry
  with_reducible repeat' first | assumption | apply State.warmReset_kept | apply State.resetEvent_kept | apply Kept.outFault | apply Kept.outRefused | apply Kept.outNext | dsimp only | split

theorem State.startLate_kept {s0 s : State} (h : Kept s0 s) :
    Kept s0 (State.startLate s) := by
  unfold State.startLate
  with_reducible repeat' first | assumption | apply State.warmReset_kept | apply State.setFlag_kept | apply State.setFld_kept | apply State.resetEvent_kept | dsimp only | split | refine Kept.upd ?_

theorem execStartTimeout_kept {s0 s : State} (h : Kept s0 s) :
    Kept.Out s0 (execStartTimeout s) := by
  unfold execStartTimeout
  with_reducible repeat' first | assumption | apply State.startLate_kept | apply Kept.outFault | apply Kept.outRefused | apply Kept.outNext

theorem State.optionDiffers_kept {s0 s : State} (off : ℕ) (kept : Word) (wanted : Word) (h : Kept s0 s) :
    Kept s0 (State.optionDiffers s off kept wanted) := by
  unfold State.optionDiffers
  with_reducible repeat' first | assumption | apply State.troubleLog_kept

theorem State.ozWrite_kept {s0 s : State} (off : ℕ) (fs : List (ℕ × ℕ × ℕ)) (h : Kept s0 s) :
    Kept s0 (State.ozWrite s off fs) := by
  unfold State.ozWrite
  with_reducible repeat' first | assumption | apply State.setReg_kept | apply State.optionDiffers_kept | apply State.lockViolation_kept | refine Kept.foldl ?_ (fun _ _ _ => ?_) | refine Kept.foldlFst ?_ (fun _ _ _ => ?_) | refine Kept.ofFst (by assumption) ?_ | dsimp only | split

theorem State.optIn_kept {s0 s : State} (off n : ℕ) (lo hi dflt : ℕ) (quiet : Bool) (h : Kept s0 s) :
    Kept s0 (State.optIn s off n lo hi dflt quiet).1 := by
  unfold State.optIn
  with_reducible repeat' first | assumption | apply State.sootEvent_kept | refine Kept.ofFst (by assumption) ?_ | dsimp only | split

theorem State.loadConsts_kept {s0 s : State} (h : Kept s0 s) :
    Kept s0 (State.loadConsts s) := by
  unfold State.loadConsts
  with_reducible repeat' first | assumption | apply State.optIn_kept | refine Kept.ofFst (by assumption) ?_ | dsimp only | split | refine Kept.upd ?_

theorem State.freeWord_kept {s0 s : State} (off : ℕ) (h : Kept s0 s) :
    Kept s0 (State.freeWord s off) := by
  unfold State.freeWord
  with_reducible repeat' first | assumption | apply State.drawFree_kept | apply State.setReg_kept | refine Kept.foldl ?_ (fun _ _ _ => ?_) | refine Kept.foldlFst ?_ (fun _ _ _ => ?_) | refine Kept.ofFst (by assumption) ?_ | refine Kept.ofSnd (by assumption) ?_ | dsimp only | split

theorem State.loadPlan_kept {s0 s : State} (h : Kept s0 s) :
    Kept s0 (State.loadPlan s) := by
  unfold State.loadPlan
  with_reducible repeat' first | assumption | apply State.setReg_kept | apply State.freeWord_kept | apply State.sootEvent_kept | refine Kept.foldl ?_ (fun _ _ _ => ?_) | refine Kept.foldlFst ?_ (fun _ _ _ => ?_) | refine Kept.ofFst (by assumption) ?_ | dsimp only | split | refine Kept.upd ?_

theorem State.bootDram_kept {s0 s : State} (h : Kept s0 s) :
    Kept s0 (State.bootDram s) := by
  unfold State.bootDram
  with_reducible repeat' first | assumption | apply State.loadPlan_kept | apply State.dramRefreshStatus_kept | apply State.ozWrite_kept | apply State.mcCtrlWrite_kept | apply State.powerUp_kept | apply State.undefRange_kept | refine Kept.foldl ?_ (fun _ _ _ => ?_) | refine Kept.foldlFst ?_ (fun _ _ _ => ?_) | refine Kept.ofFst (by assumption) ?_ | dsimp only | split | refine Kept.upd ?_

theorem State.bootPools_kept {s0 s : State} (h : Kept s0 s) :
    Kept s0 (State.bootPools s) := by
  unfold State.bootPools
  with_reducible repeat' first | assumption | apply State.ozWrite_kept | apply State.poolEnable_kept | refine Kept.foldl ?_ (fun _ _ _ => ?_) | refine Kept.foldlFst ?_ (fun _ _ _ => ?_) | refine Kept.ofFst (by assumption) ?_ | dsimp only | split

theorem State.bootRef_kept {s0 s : State} (r : ℕ) (h : Kept s0 s) :
    Kept s0 (State.bootRef s r) := by
  unfold State.bootRef
  with_reducible repeat' first | assumption | apply State.ozWrite_kept | apply State.refCfgWrite_kept | refine Kept.ofFst (by assumption) ?_ | dsimp only | split

theorem State.bootRegs_kept {s0 s : State} (h : Kept s0 s) :
    Kept s0 (State.bootRegs s) := by
  unfold State.bootRegs
  with_reducible repeat' first | assumption | apply Kept.ite | apply State.bootRef_kept | apply State.ozWrite_kept | refine Kept.foldl ?_ (fun _ _ _ => ?_)

theorem State.bootEnables_kept {s0 s : State} (h : Kept s0 s) :
    Kept s0 (State.bootEnables s) := by
  unfold State.bootEnables
  with_reducible repeat' first | assumption | apply State.setFlag_kept | apply State.tbCtrlAfter_kept | refine Kept.foldl ?_ (fun _ _ _ => ?_)

theorem State.bootSlots_kept {s0 s : State} (h : Kept s0 s) :
    Kept s0 (State.bootSlots s) := by
  unfold State.bootSlots
  with_reducible repeat' first | assumption | apply State.troubleLog_kept | apply State.setSlot_kept | dsimp only | split | refine Kept.upd ?_

theorem State.reachReady_kept {s0 s : State} (h : Kept s0 s) :
    Kept s0 (State.reachReady s) := by
  unfold State.reachReady
  with_reducible repeat' first | assumption | apply State.setFld_kept | apply State.bootPools_kept | apply State.bootDram_kept | apply State.bootRegs_kept | apply State.loadConsts_kept | apply State.bootSlots_kept | apply State.bootEnables_kept | apply State.domainPowerUp_kept | refine Kept.foldl ?_ (fun _ _ _ => ?_) | refine Kept.foldlFst ?_ (fun _ _ _ => ?_) | dsimp only | split | refine Kept.upd ?_

theorem execOzmelReady_kept {s0 s : State} (h : Kept s0 s) :
    Kept.Out s0 (execOzmelReady s) := by
  unfold execOzmelReady
  with_reducible repeat' first | assumption | apply State.reachReady_kept | apply Kept.outFault | apply Kept.outRefused | apply Kept.outNext

end Sys2Proof.Machine
end

