-- ==== Sys2Proof/Laws/KeptFabric.lean ====
section
/-!
SUPPORT. What the operations of Machine/Fabric.lean keep (Kept).
-/

namespace Sys2Proof.Machine

set_option simprocs false
set_option Elab.async false

theorem State.rateWindow_kept {s0 s : State} (u : RateUnit) (cycles steps : ℕ) (h : Kept s0 s) :
    Kept s0 (State.rateWindow s u cycles steps) := by
  unfold State.rateWindow
  with_reducible repeat' first | assumption | apply State.setReg_kept | refine Kept.ofFst (by assumption) ?_ | dsimp only | split | refine Kept.upd ?_

theorem execFabRateWindow_kept {s0 : State} (u : RateUnit) (cycles steps : ℕ) {s : State} (h : Kept s0 s) :
    Kept.Out s0 (execFabRateWindow u cycles steps s) := by
  unfold execFabRateWindow
  with_reducible repeat' first | assumption | apply State.rateWindow_kept | apply Kept.outFault | apply Kept.outRefused | apply Kept.outNext | dsimp only | split

theorem State.ageWindow_kept {s0 s : State} (n : ℕ) (period : BitVec 16) (h : Kept s0 s) :
    Kept s0 (State.ageWindow s n period) := by
  unfold State.ageWindow
  with_reducible repeat' first | assumption | apply State.setReg_kept | dsimp only | split | refine Kept.upd ?_

theorem execAgeRingWindow_kept {s0 : State} (n : Fin 48) (period : BitVec 16) {s : State} (h : Kept s0 s) :
    Kept.Out s0 (execAgeRingWindow n period s) := by
  unfold execAgeRingWindow
  with_reducible repeat' first | assumption | apply State.ageWindow_kept | apply Kept.outFault | apply Kept.outRefused | apply Kept.outNext

theorem State.fabCtrlAfter_kept {s0 s : State} (h : Kept s0 s) :
    Kept s0 (State.fabCtrlAfter s) := by
  unfold State.fabCtrlAfter
  with_reducible repeat' first | assumption | apply State.setReg_kept | refine Kept.foldl ?_ (fun _ _ _ => ?_) | refine Kept.foldlFst ?_ (fun _ _ _ => ?_) | dsimp only | split | refine Kept.upd ?_

theorem State.publish_kept {s0 s : State} (ring rated : ℕ) (h : Kept s0 s) :
    Kept s0 (State.publish s ring rated) := by
  unfold State.publish
  with_reducible repeat' first | assumption | apply State.setFld_kept | apply State.sootEvent_kept | refine Kept.foldl ?_ (fun _ _ _ => ?_) | refine Kept.foldlFst ?_ (fun _ _ _ => ?_) | dsimp only | split | refine Kept.upd ?_

theorem State.setFloor_kept {s0 s : State} (worst : ℕ) (h : Kept s0 s) :
    Kept s0 (State.setFloor s worst) := by
  unfold State.setFloor
  with_reducible repeat' first | assumption | apply State.setFld_kept | dsimp only | split

theorem State.replan_kept {s0 s : State} (h : Kept s0 s) :
    Kept s0 (State.replan s) := by
  unfold State.replan
  with_reducible repeat' first | assumption | apply Kept.ite | apply State.sootEvent_kept | apply State.drawFree_kept | apply State.setReg_kept | apply State.publish_kept | apply State.setFloor_kept | refine Kept.foldl ?_ (fun _ _ _ => ?_) | refine Kept.foldlFst ?_ (fun _ _ _ => ?_) | refine Kept.ofFst (by assumption) ?_ | refine Kept.ofSnd (by assumption) ?_ | dsimp only | split | refine Kept.upd ?_

theorem execMarginReplan_kept {s0 s : State} (h : Kept s0 s) :
    Kept.Out s0 (execMarginReplan s) := by
  unfold execMarginReplan
  with_reducible repeat' first | assumption | apply State.replan_kept | apply Kept.outFault | apply Kept.outRefused | apply Kept.outNext

theorem State.vddLevel_kept {s0 s : State} (mv : ℕ) (h : Kept s0 s) :
    Kept s0 (State.vddLevel s mv) := by
  unfold State.vddLevel
  with_reducible repeat' first | assumption | apply State.enterSafe_kept | apply State.releaseReset_kept | dsimp only | split | refine Kept.upd ?_

theorem execVddFabUndervoltage_kept {s0 : State} (mv : ℕ) {s : State} (h : Kept s0 s) :
    Kept.Out s0 (execVddFabUndervoltage mv s) := by
  unfold execVddFabUndervoltage
  with_reducible repeat' first | assumption | apply State.vddLevel_kept | apply Kept.outFault | apply Kept.outRefused | apply Kept.outNext

theorem State.clockStop_kept {s0 s : State} (h : Kept s0 s) :
    Kept s0 (State.clockStop s) := by
  unfold State.clockStop
  with_reducible repeat' first | assumption | apply State.hotColumn_kept | apply State.linkDown_kept | apply State.resetEvent_kept | apply State.enterSafe_kept | dsimp only | split | refine Kept.upd ?_

theorem execSysRefclkStop_kept {s0 s : State} (h : Kept s0 s) :
    Kept.Out s0 (execSysRefclkStop s) := by
  unfold execSysRefclkStop
  with_reducible repeat' first | assumption | apply State.clockStop_kept | apply Kept.outFault | apply Kept.outRefused | apply Kept.outNext

theorem execSysRefclkReturn_kept {s0 s : State} (h : Kept s0 s) :
    Kept.Out s0 (execSysRefclkReturn s) := by
  unfold execSysRefclkReturn
  with_reducible repeat' first | assumption | apply State.releaseReset_kept | apply Kept.outFault | apply Kept.outRefused | apply Kept.outNext | dsimp only | split | refine Kept.upd ?_

theorem execSafeAutoExit_kept {s0 s : State} (h : Kept s0 s) :
    Kept.Out s0 (execSafeAutoExit s) := by
  unfold execSafeAutoExit
  with_reducible repeat' first | assumption | apply State.warmReset_kept | apply Kept.outFault | apply Kept.outRefused | apply Kept.outNext | dsimp only | split

end Sys2Proof.Machine
end

