-- ==== Sys2Proof/Laws/KeptFirmware.lean ====
section
/-!
SUPPORT. What the operations of Machine/Firmware.lean keep (Kept).
-/

namespace Sys2Proof.Machine

set_option simprocs false
set_option Elab.async false

theorem State.post_kept {s0 s : State} (f : ℕ) (h : Kept s0 s) :
    Kept s0 (State.post s f) := by
  unfold State.post
  with_reducible repeat' first | assumption | apply State.setFlag_kept | dsimp only | split

theorem execMbPost_kept {s0 : State} (f : FnIx) {s : State} (h : Kept s0 s) :
    Kept.Out s0 (execMbPost f s) := by
  unfold execMbPost
  with_reducible repeat' first | assumption | apply State.post_kept | apply Kept.outFault | apply Kept.outRefused | apply Kept.outNext | dsimp only | split

theorem execMbRelease_kept {s0 : State} (f : FnIx) {s : State} (h : Kept s0 s) :
    Kept.Out s0 (execMbRelease f s) := by
  unfold execMbRelease
  with_reducible repeat' first | assumption | apply State.setFlag_kept | apply Kept.outFault | apply Kept.outRefused | apply Kept.outNext | dsimp only | split

theorem State.respond_kept {s0 s : State} (f : ℕ) (r : List Byte) (st : Status) (pl : List Byte) (h : Kept s0 s) :
    Kept s0 (State.respond s f r st pl) := by
  unfold State.respond
  with_reducible repeat' first | assumption | apply State.setMailbox_kept

theorem State.settle_kept {s0 s : State} (f zs : ℕ) (h : Kept s0 s) :
    Kept s0 (State.settle s f zs) := by
  induction zs generalizing s f with
  | zero =>
    rw [State.settle]
    with_reducible repeat' first | apply ih | assumption
  | succ zs ih =>
    rw [State.settle]
    with_reducible repeat' first | apply ih | assumption | apply State.setMailbox_kept | apply State.respond_kept | dsimp only | split

theorem State.copyRequest_kept {s0 s : State} (f : ℕ) (h : Kept s0 s) :
    Kept s0 (State.copyRequest s f) := by
  unfold State.copyRequest
  with_reducible repeat' first | assumption | apply State.setMailbox_kept | apply State.setFlag_kept | apply State.settle_kept | dsimp only | split

theorem execMbRequestCopy_kept {s0 : State} (f : FnIx) {s : State} (h : Kept s0 s) :
    Kept.Out s0 (execMbRequestCopy f s) := by
  unfold execMbRequestCopy
  with_reducible repeat' first | assumption | apply State.copyRequest_kept | apply Kept.outFault | apply Kept.outRefused | apply Kept.outNext

theorem State.putMessage_kept {s0 s : State} (f : ℕ) (msg : List Byte) (h : Kept s0 s) :
    Kept s0 (State.putMessage s f msg) := by
  unfold State.putMessage
  with_reducible repeat' first | assumption | apply State.setReg_kept | apply State.setFlag_kept | apply State.msixDue_kept | refine Kept.foldl ?_ (fun _ _ _ => ?_) | refine Kept.foldlFst ?_ (fun _ _ _ => ?_) | refine Kept.ofFst (by assumption) ?_ | dsimp only | split

theorem State.writeResponse_kept {s0 s : State} (f : ℕ) (h : Kept s0 s) :
    Kept s0 (State.writeResponse s f) := by
  unfold State.writeResponse
  with_reducible repeat' first | assumption | apply State.putMessage_kept | apply State.setMailbox_kept | apply State.notifyLost_kept | dsimp only | split

theorem execMbResponseWrite_kept {s0 : State} (f : FnIx) {s : State} (h : Kept s0 s) :
    Kept.Out s0 (execMbResponseWrite f s) := by
  unfold execMbResponseWrite
  with_reducible repeat' first | assumption | apply State.writeResponse_kept | apply Kept.outFault | apply Kept.outRefused | apply Kept.outNext

theorem State.handle_kept {s0 s : State} (f id : ℕ) (h3 : Handler) (h : Kept s0 s)
    (hh : ∀ pl t, Kept s0 t → Kept s0 (h3 pl t).1) : Kept s0 (State.handle s f id h3) := by
  unfold State.handle
  extract_lets m
  split
  · exact h
  · rename_i r t _
    split
    · exact h
    · have h1 := hh (r.drop 16) _ (State.setMailbox_kept f { m with requests := t } h)
      split
      · rename_i heq
        exact State.settle_kept _ _ (State.respond_kept _ _ _ _ (Kept.ofFst heq h1))
      · rename_i heq
        exact Kept.ofFst heq h1

theorem answer_kept {s0 : State} (st : Status) (pl : List Byte) {s : State} (h : Kept s0 s) :
    Kept s0 (answer st pl s).1 := by
  unfold answer
  with_reducible repeat' first | assumption

theorem msgGetInfo_kept {s0 : State} (f : ℕ) (a__internal_hyg0 : List Byte) {a__internal_hyg02 : State} (h : Kept s0 a__internal_hyg02) :
    Kept s0 (msgGetInfo f a__internal_hyg0 a__internal_hyg02).1 := by
  unfold msgGetInfo
  with_reducible repeat' first | assumption | apply answer_kept

theorem execGetInfo_kept {s0 : State} (f : FnIx) {s : State} (h : Kept s0 s) :
    Kept.Out s0 (execGetInfo f s) := by
  unfold execGetInfo
  with_reducible repeat' first | assumption | apply State.handle_kept | apply msgGetInfo_kept | apply Kept.outFault | apply Kept.outRefused | apply Kept.outNext

theorem msgGetTable_kept {s0 : State} (f : ℕ) (a__internal_hyg0 : List Byte) {a__internal_hyg02 : State} (h : Kept s0 a__internal_hyg02) :
    Kept s0 (msgGetTable f a__internal_hyg0 a__internal_hyg02).1 := by
  unfold msgGetTable
  with_reducible repeat' first | assumption | apply answer_kept | refine Kept.ofFst (by assumption) ?_ | dsimp only | split

theorem execGetTable_kept {s0 : State} (f : FnIx) {s : State} (h : Kept s0 s) :
    Kept.Out s0 (execGetTable f s) := by
  unfold execGetTable
  with_reducible repeat' first | assumption | apply State.handle_kept | apply msgGetTable_kept | apply Kept.outFault | apply Kept.outRefused | apply Kept.outNext

theorem msgPoolInfo_kept {s0 : State} (f : ℕ) (a__internal_hyg0 : List Byte) {a__internal_hyg02 : State} (h : Kept s0 a__internal_hyg02) :
    Kept s0 (msgPoolInfo f a__internal_hyg0 a__internal_hyg02).1 := by
  unfold msgPoolInfo
  with_reducible repeat' first | assumption | apply answer_kept | refine Kept.ofFst (by assumption) ?_ | dsimp only | split

theorem execPoolInfo_kept {s0 : State} (f : FnIx) {s : State} (h : Kept s0 s) :
    Kept.Out s0 (execPoolInfo f s) := by
  unfold execPoolInfo
  with_reducible repeat' first | assumption | apply State.handle_kept | apply msgPoolInfo_kept | apply Kept.outFault | apply Kept.outRefused | apply Kept.outNext

theorem msgRingCtx_kept {s0 : State} (f : ℕ) (a__internal_hyg0 : List Byte) {a__internal_hyg02 : State} (h : Kept s0 a__internal_hyg02) :
    Kept s0 (msgRingCtx f a__internal_hyg0 a__internal_hyg02).1 := by
  unfold msgRingCtx
  with_reducible repeat' first | assumption | apply answer_kept | apply State.commitRing_kept | refine Kept.ofFst (by assumption) ?_ | dsimp only | split

theorem execRingCtx_kept {s0 : State} (f : FnIx) {s : State} (h : Kept s0 s) :
    Kept.Out s0 (execRingCtx f s) := by
  unfold execRingCtx
  with_reducible repeat' first | assumption | apply State.handle_kept | apply msgRingCtx_kept | apply Kept.outFault | apply Kept.outRefused | apply Kept.outNext

theorem msgStreamStats_kept {s0 : State} (f : ℕ) (a__internal_hyg0 : List Byte) {a__internal_hyg02 : State} (h : Kept s0 a__internal_hyg02) :
    Kept s0 (msgStreamStats f a__internal_hyg0 a__internal_hyg02).1 := by
  unfold msgStreamStats
  with_reducible repeat' first | assumption | apply answer_kept | refine Kept.ofFst (by assumption) ?_ | dsimp only | split

theorem execStreamStats_kept {s0 : State} (f : FnIx) {s : State} (h : Kept s0 s) :
    Kept.Out s0 (execStreamStats f s) := by
  unfold execStreamStats
  with_reducible repeat' first | assumption | apply State.handle_kept | apply msgStreamStats_kept | apply Kept.outFault | apply Kept.outRefused | apply Kept.outNext

theorem msgAcct_kept {s0 : State} (f : ℕ) (a__internal_hyg0 : List Byte) {a__internal_hyg02 : State} (h : Kept s0 a__internal_hyg02) :
    Kept s0 (msgAcct f a__internal_hyg0 a__internal_hyg02).1 := by
  unfold msgAcct
  with_reducible repeat' first | assumption | apply answer_kept | refine Kept.ofFst (by assumption) ?_ | dsimp only | split

theorem execAcct_kept {s0 : State} (f : FnIx) {s : State} (h : Kept s0 s) :
    Kept.Out s0 (execAcct f s) := by
  unfold execAcct
  with_reducible repeat' first | assumption | apply State.handle_kept | apply msgAcct_kept | apply Kept.outFault | apply Kept.outRefused | apply Kept.outNext

theorem msgSensors_kept {s0 : State} (a__internal_hyg0 : List Byte) {a__internal_hyg01 : State} (h : Kept s0 a__internal_hyg01) :
    Kept s0 (msgSensors a__internal_hyg0 a__internal_hyg01).1 := by
  unfold msgSensors
  with_reducible repeat' first | assumption | apply answer_kept

theorem execSensors_kept {s0 : State} (f : FnIx) {s : State} (h : Kept s0 s) :
    Kept.Out s0 (execSensors f s) := by
  unfold execSensors
  with_reducible repeat' first | assumption | apply State.handle_kept | apply msgSensors_kept | apply Kept.outFault | apply Kept.outRefused | apply Kept.outNext

theorem msgLogRead_kept {s0 : State} (a__internal_hyg0 : List Byte) {a__internal_hyg01 : State} (h : Kept s0 a__internal_hyg01) :
    Kept s0 (msgLogRead a__internal_hyg0 a__internal_hyg01).1 := by
  unfold msgLogRead
  with_reducible repeat' first | assumption | apply answer_kept | apply State.drawFree_kept | refine Kept.ofFst (by assumption) ?_ | refine Kept.ofSnd (by assumption) ?_ | dsimp only | split

theorem execLogRead_kept {s0 : State} (f : FnIx) {s : State} (h : Kept s0 s) :
    Kept.Out s0 (execLogRead f s) := by
  unfold execLogRead
  with_reducible repeat' first | assumption | apply State.handle_kept | apply msgLogRead_kept | apply Kept.outFault | apply Kept.outRefused | apply Kept.outNext

theorem msgExcRead_kept {s0 : State} (a__internal_hyg0 : List Byte) {a__internal_hyg01 : State} (h : Kept s0 a__internal_hyg01) :
    Kept s0 (msgExcRead a__internal_hyg0 a__internal_hyg01).1 := by
  unfold msgExcRead
  with_reducible repeat' first | assumption | apply answer_kept | refine Kept.ofFst (by assumption) ?_ | dsimp only | split | refine Kept.upd ?_

theorem execExcRead_kept {s0 : State} (f : FnIx) {s : State} (h : Kept s0 s) :
    Kept.Out s0 (execExcRead f s) := by
  unfold execExcRead
  with_reducible repeat' first | assumption | apply State.handle_kept | apply msgExcRead_kept | apply Kept.outFault | apply Kept.outRefused | apply Kept.outNext

theorem msgNetCfg_kept {s0 : State} (a__internal_hyg0 : List Byte) {a__internal_hyg01 : State} (h : Kept s0 a__internal_hyg01) :
    Kept s0 (msgNetCfg a__internal_hyg0 a__internal_hyg01).1 := by
  unfold msgNetCfg
  with_reducible repeat' first | assumption | apply answer_kept | refine Kept.ofFst (by assumption) ?_ | dsimp only | split | refine Kept.upd ?_

theorem execNetCfg_kept {s0 : State} (f : FnIx) {s : State} (h : Kept s0 s) :
    Kept.Out s0 (execNetCfg f s) := by
  unfold execNetCfg
  with_reducible repeat' first | assumption | apply State.handle_kept | apply msgNetCfg_kept | apply Kept.outFault | apply Kept.outRefused | apply Kept.outNext

theorem msgMcast_kept {s0 : State} (f : ℕ) (a__internal_hyg0 : List Byte) {a__internal_hyg02 : State} (h : Kept s0 a__internal_hyg02) :
    Kept s0 (msgMcast f a__internal_hyg0 a__internal_hyg02).1 := by
  unfold msgMcast
  with_reducible repeat' first | assumption | apply answer_kept | refine Kept.ofFst (by assumption) ?_ | dsimp only | split | refine Kept.upd ?_

theorem execMcast_kept {s0 : State} (f : FnIx) {s : State} (h : Kept s0 s) :
    Kept.Out s0 (execMcast f s) := by
  unfold execMcast
  with_reducible repeat' first | assumption | apply State.handle_kept | apply msgMcast_kept | apply Kept.outFault | apply Kept.outRefused | apply Kept.outNext

theorem msgPtpCfg_kept {s0 : State} (a__internal_hyg0 : List Byte) {a__internal_hyg01 : State} (h : Kept s0 a__internal_hyg01) :
    Kept s0 (msgPtpCfg a__internal_hyg0 a__internal_hyg01).1 := by
  unfold msgPtpCfg
  with_reducible repeat' first | assumption | apply answer_kept | refine Kept.ofFst (by assumption) ?_ | dsimp only | split | refine Kept.upd ?_

theorem execPtpCfg_kept {s0 : State} (f : FnIx) {s : State} (h : Kept s0 s) :
    Kept.Out s0 (execPtpCfg f s) := by
  unfold execPtpCfg
  with_reducible repeat' first | assumption | apply State.handle_kept | apply msgPtpCfg_kept | apply Kept.outFault | apply Kept.outRefused | apply Kept.outNext

theorem msgPowerSet_kept {s0 : State} (a__internal_hyg0 : List Byte) {a__internal_hyg01 : State} (h : Kept s0 a__internal_hyg01) :
    Kept s0 (msgPowerSet a__internal_hyg0 a__internal_hyg01).1 := by
  unfold msgPowerSet
  with_reducible repeat' first | assumption | apply answer_kept | refine Kept.ofFst (by assumption) ?_ | dsimp only | split | refine Kept.upd ?_

theorem execPowerSet_kept {s0 : State} (f : FnIx) {s : State} (h : Kept s0 s) :
    Kept.Out s0 (execPowerSet f s) := by
  unfold execPowerSet
  with_reducible repeat' first | assumption | apply State.handle_kept | apply msgPowerSet_kept | apply Kept.outFault | apply Kept.outRefused | apply Kept.outNext

theorem msgThermalSet_kept {s0 : State} (a__internal_hyg0 : List Byte) {a__internal_hyg01 : State} (h : Kept s0 a__internal_hyg01) :
    Kept s0 (msgThermalSet a__internal_hyg0 a__internal_hyg01).1 := by
  unfold msgThermalSet
  with_reducible repeat' first | assumption | apply answer_kept | refine Kept.ofFst (by assumption) ?_ | dsimp only | split | refine Kept.upd ?_

theorem execThermalSet_kept {s0 : State} (f : FnIx) {s : State} (h : Kept s0 s) :
    Kept.Out s0 (execThermalSet f s) := by
  unfold execThermalSet
  with_reducible repeat' first | assumption | apply State.handle_kept | apply msgThermalSet_kept | apply Kept.outFault | apply Kept.outRefused | apply Kept.outNext

theorem msgUpdateBegin_kept {s0 : State} (a__internal_hyg0 : List Byte) {a__internal_hyg01 : State} (h : Kept s0 a__internal_hyg01) :
    Kept s0 (msgUpdateBegin a__internal_hyg0 a__internal_hyg01).1 := by
  unfold msgUpdateBegin
  with_reducible repeat' first | assumption | apply answer_kept | apply State.setSlot_kept | apply State.eraseFlash_kept | refine Kept.ofFst (by assumption) ?_ | dsimp only | split | refine Kept.upd ?_

theorem execUpdateBegin_kept {s0 : State} (f : FnIx) {s : State} (h : Kept s0 s) :
    Kept.Out s0 (execUpdateBegin f s) := by
  unfold execUpdateBegin
  with_reducible repeat' first | assumption | apply State.handle_kept | apply msgUpdateBegin_kept | apply Kept.outFault | apply Kept.outRefused | apply Kept.outNext

theorem msgUpdateData_kept {s0 : State} (a__internal_hyg0 : List Byte) {a__internal_hyg01 : State} (h : Kept s0 a__internal_hyg01) :
    Kept s0 (msgUpdateData a__internal_hyg0 a__internal_hyg01).1 := by
  unfold msgUpdateData
  with_reducible repeat' first | assumption | apply answer_kept | apply State.writeFlash_kept | refine Kept.ofFst (by assumption) ?_ | dsimp only | split | refine Kept.upd ?_

theorem execUpdateData_kept {s0 : State} (f : FnIx) {s : State} (h : Kept s0 s) :
    Kept.Out s0 (execUpdateData f s) := by
  unfold execUpdateData
  with_reducible repeat' first | assumption | apply State.handle_kept | apply msgUpdateData_kept | apply Kept.outFault | apply Kept.outRefused | apply Kept.outNext

theorem msgUpdateCommit_kept {s0 : State} (a__internal_hyg0 : List Byte) {a__internal_hyg01 : State} (h : Kept s0 a__internal_hyg01) :
    Kept s0 (msgUpdateCommit a__internal_hyg0 a__internal_hyg01).1 := by
  unfold msgUpdateCommit
  with_reducible repeat' first | assumption | apply answer_kept | apply State.troubleLog_kept | apply State.setSlot_kept | refine Kept.ofFst (by assumption) ?_ | dsimp only | split | refine Kept.upd ?_

theorem execUpdateCommit_kept {s0 : State} (f : FnIx) {s : State} (h : Kept s0 s) :
    Kept.Out s0 (execUpdateCommit f s) := by
  unfold execUpdateCommit
  with_reducible repeat' first | assumption | apply State.handle_kept | apply msgUpdateCommit_kept | apply Kept.outFault | apply Kept.outRefused | apply Kept.outNext

theorem msgUpdateActivate_kept {s0 : State} (r : List Byte) (a__internal_hyg0 : List Byte) {a__internal_hyg02 : State} (h : Kept s0 a__internal_hyg02) :
    Kept s0 (msgUpdateActivate r a__internal_hyg0 a__internal_hyg02).1 := by
  unfold msgUpdateActivate
  with_reducible repeat' first | assumption | apply answer_kept | apply State.warmReset_kept | apply State.setReg_kept | refine Kept.ofFst (by assumption) ?_ | dsimp only | split | refine Kept.upd ?_

theorem execUpdateActivate_kept {s0 : State} (f : FnIx) {s : State} (h : Kept s0 s) :
    Kept.Out s0 (execUpdateActivate f s) := by
  unfold execUpdateActivate
  with_reducible repeat' first | assumption | apply State.handle_kept | apply msgUpdateActivate_kept | apply Kept.outFault | apply Kept.outRefused | apply Kept.outNext

theorem State.resume_kept {s0 s : State} (accepted : Bool) (h : Kept s0 s) :
    Kept s0 (State.resume s accepted) := by
  unfold State.resume
  with_reducible repeat' first | assumption | apply State.setFld_kept | apply State.swapNext_kept | apply State.settle_kept | apply State.respond_kept | apply State.warmReset_kept | dsimp only | split | refine Kept.upd ?_

theorem execHandoverResume_kept {s0 : State} (accepted : Bool) {s : State} (h : Kept s0 s) :
    Kept.Out s0 (execHandoverResume accepted s) := by
  unfold execHandoverResume
  with_reducible repeat' first | assumption | apply State.resume_kept | apply Kept.outFault | apply Kept.outRefused | apply Kept.outNext

theorem execSlotConfirmed_kept {s0 s : State} (h : Kept s0 s) :
    Kept.Out s0 (execSlotConfirmed s) := by
  unfold execSlotConfirmed
  with_reducible repeat' first | assumption | apply State.troubleLog_kept | apply State.setSlot_kept | apply Kept.outFault | apply Kept.outRefused | apply Kept.outNext | dsimp only | split

theorem State.avs_kept {s0 s : State} (vout : Option ℕ) (h : Kept s0 s) :
    Kept s0 (State.avs s vout) := by
  unfold State.avs
  with_reducible repeat' first | assumption | apply Kept.ite | apply State.setFloor_kept | apply State.troubleLog_kept | apply State.drawFree_kept | refine Kept.ofFst (by assumption) ?_ | refine Kept.ofSnd (by assumption) ?_ | dsimp only | split | refine Kept.upd ?_

theorem execAvsCycle_kept {s0 : State} (vout : Option ℕ) {s : State} (h : Kept s0 s) :
    Kept.Out s0 (execAvsCycle vout s) := by
  unfold execAvsCycle
  with_reducible repeat' first | assumption | apply State.avs_kept | apply Kept.outFault | apply Kept.outRefused | apply Kept.outNext

theorem State.throttleReport_kept {s0 s : State} (cause : ℕ) (h : Kept s0 s) :
    Kept s0 (State.throttleReport s cause) := by
  unfold State.throttleReport
  with_reducible repeat' first | assumption | apply State.drawFree_kept | apply State.troubleLog_kept | apply State.sootEvent_kept | apply State.notify_kept | refine Kept.ofFst (by assumption) ?_ | refine Kept.ofSnd (by assumption) ?_ | dsimp only | split | refine Kept.upd ?_

theorem State.powerStep_kept {s0 s : State} (w : ℕ) (h : Kept s0 s) :
    Kept s0 (State.powerStep s w) := by
  unfold State.powerStep
  with_reducible repeat' first | assumption | apply State.throttleReport_kept | dsimp only | split | refine Kept.upd ?_

theorem execPowerWindow_kept {s0 : State} (watts : ℕ) {s : State} (h : Kept s0 s) :
    Kept.Out s0 (execPowerWindow watts s) := by
  unfold execPowerWindow
  with_reducible repeat' first | assumption | apply State.powerStep_kept | apply Kept.outFault | apply Kept.outRefused | apply Kept.outNext

theorem State.thermalStep_kept {s0 s : State} (tj : ℤ) (h : Kept s0 s) :
    Kept s0 (State.thermalStep s tj) := by
  unfold State.thermalStep
  with_reducible repeat' first | assumption | apply State.throttleReport_kept | dsimp only | split | refine Kept.upd ?_

theorem execThermalLoop_kept {s0 : State} (tj : ℤ) {s : State} (h : Kept s0 s) :
    Kept.Out s0 (execThermalLoop tj s) := by
  unfold execThermalLoop
  with_reducible repeat' first | assumption | apply State.thermalStep_kept | apply Kept.outFault | apply Kept.outRefused | apply Kept.outNext

theorem State.fanStep_kept {s0 s : State} (tj : ℤ) (inlet : Option ℤ) (t0 t1 : ℕ) (h : Kept s0 s) :
    Kept s0 (State.fanStep s tj inlet t0 t1) := by
  unfold State.fanStep
  with_reducible repeat' first | assumption | apply Kept.ite | apply State.drawFree_kept | apply State.troubleLog_kept | apply State.sootEvent_kept | apply State.notify_kept | refine Kept.ofFst (by assumption) ?_ | refine Kept.ofSnd (by assumption) ?_ | dsimp only | split | refine Kept.upd ?_

theorem execFanLoop_kept {s0 : State} (tj : ℤ) (inlet : Option ℤ) (tach0 tach1 : ℕ) {s : State} (h : Kept s0 s) :
    Kept.Out s0 (execFanLoop tj inlet tach0 tach1 s) := by
  unfold execFanLoop
  with_reducible repeat' first | assumption | apply State.fanStep_kept | apply Kept.outFault | apply Kept.outRefused | apply Kept.outNext

theorem execTroubleLogFlush_kept {s0 s : State} (h : Kept s0 s) :
    Kept.Out s0 (execTroubleLogFlush s) := by
  unfold execTroubleLogFlush
  with_reducible repeat' first | assumption | apply Kept.outFault | apply Kept.outRefused | apply Kept.outNext | dsimp only | split | refine Kept.upd ?_

theorem State.handleFrame_kept {s0 s : State} (h : Kept s0 s) :
    Kept s0 (State.handleFrame s) := by
  unfold State.handleFrame
  with_reducible repeat' first | assumption | dsimp only | split | refine Kept.upd ?_

theorem execExceptionFrameHandle_kept {s0 s : State} (h : Kept s0 s) :
    Kept.Out s0 (execExceptionFrameHandle s) := by
  unfold execExceptionFrameHandle
  with_reducible repeat' first | assumption | apply State.handleFrame_kept | apply Kept.outFault | apply Kept.outRefused | apply Kept.outNext

end Sys2Proof.Machine
end

