-- ==== Sys2Proof/Laws/KeptPeripherals.lean ====
section
/-!
SUPPORT. What the operations of Machine/Peripherals.lean keep (Kept).
-/

namespace Sys2Proof.Machine

set_option simprocs false
set_option Elab.async false

theorem State.cageSet_kept {s0 s : State} (c bit : ℕ) (h : Kept s0 s) :
    Kept s0 (State.cageSet s c bit) := by
  unfold State.cageSet
  with_reducible repeat' first | assumption | apply State.setFlag_kept | apply State.msixDue_kept | apply State.drawFree_kept | apply State.sootEvent_kept | refine Kept.ofFst (by assumption) ?_ | refine Kept.ofSnd (by assumption) ?_ | dsimp only | split

theorem State.i2cOver_kept {s0 s : State} (nack : Bool) (err : Bool) (h : Kept s0 s) :
    Kept s0 (State.i2cOver s nack err) := by
  unfold State.i2cOver
  with_reducible repeat' first | assumption | apply State.setFlag_kept | dsimp only | split | refine Kept.upd ?_

theorem State.cageOff_kept {s0 s : State} (c : ℕ) (h : Kept s0 s) :
    Kept s0 (State.cageOff s c) := by
  unfold State.cageOff
  with_reducible repeat' first | assumption | apply State.setFlag_kept | apply State.i2cOver_kept | dsimp only | split | refine Kept.upd ?_

theorem execCagePresenceChange_kept {s0 : State} (c : EpIx) (present : Bool) {s : State} (h : Kept s0 s) :
    Kept.Out s0 (execCagePresenceChange c present s) := by
  unfold execCagePresenceChange
  with_reducible repeat' first | assumption | apply State.cageSet_kept | apply State.setFlag_kept | apply State.linksDown_kept | apply State.cageOff_kept | apply Kept.outFault | apply Kept.outRefused | apply Kept.outNext | dsimp only | split

theorem execCageButtonPress_kept {s0 : State} (c : EpIx) {s : State} (h : Kept s0 s) :
    Kept.Out s0 (execCageButtonPress c s) := by
  unfold execCageButtonPress
  with_reducible repeat' first | assumption | apply State.cageSet_kept | apply Kept.outFault | apply Kept.outRefused | apply Kept.outNext

theorem State.cgCtrlWrite_kept {s0 s : State} (c : ℕ) (v : Word) (h : Kept s0 s) :
    Kept s0 (State.cgCtrlWrite s c v) := by
  unfold State.cgCtrlWrite
  with_reducible repeat' first | assumption | apply State.setReg_kept | apply State.cageOff_kept | dsimp only | split

theorem execCagePwrEnWrite_kept {s0 : State} (c : EpIx) (v : Word) {s : State} (h : Kept s0 s) :
    Kept.Out s0 (execCagePwrEnWrite c v s) := by
  unfold execCagePwrEnWrite
  with_reducible repeat' first | assumption | apply State.pfReach_kept | apply State.cgCtrlWrite_kept | apply Kept.outFault | apply Kept.outRefused | apply Kept.outNext

theorem State.cageFault_kept {s0 s : State} (c : ℕ) (h : Kept s0 s) :
    Kept s0 (State.cageFault s c) := by
  unfold State.cageFault
  with_reducible repeat' first | assumption | apply State.linksDown_kept | apply State.cageSet_kept | apply State.cageOff_kept

theorem execCagePowerFault_kept {s0 : State} (c : EpIx) {s : State} (h : Kept s0 s) :
    Kept.Out s0 (execCagePowerFault c s) := by
  unfold execCagePowerFault
  with_reducible repeat' first | assumption | apply State.cageFault_kept | apply Kept.outFault | apply Kept.outRefused | apply Kept.outNext

theorem execPwrGoodTimeout_kept {s0 : State} (c : EpIx) {s : State} (h : Kept s0 s) :
    Kept.Out s0 (execPwrGoodTimeout c s) := by
  unfold execPwrGoodTimeout
  with_reducible repeat' first | assumption | apply State.cageFault_kept | apply Kept.outFault | apply Kept.outRefused | apply Kept.outNext | dsimp only | split

theorem execCagePwrGood_kept {s0 : State} (c : EpIx) {s : State} (h : Kept s0 s) :
    Kept.Out s0 (execCagePwrGood c s) := by
  unfold execCagePwrGood
  with_reducible repeat' first | assumption | apply State.setFlag_kept | apply Kept.outFault | apply Kept.outRefused | apply Kept.outNext

theorem execModuleResetRelease_kept {s0 : State} (c : EpIx) {s : State} (h : Kept s0 s) :
    Kept.Out s0 (execModuleResetRelease c s) := by
  unfold execModuleResetRelease
  with_reducible repeat' first | assumption | apply Kept.outFault | apply Kept.outRefused | apply Kept.outNext | dsimp only | split | refine Kept.upd ?_

theorem execModuleIntChange_kept {s0 : State} (c : EpIx) (low : Bool) {s : State} (h : Kept s0 s) :
    Kept.Out s0 (execModuleIntChange c low s) := by
  unfold execModuleIntChange
  with_reducible repeat' first | assumption | apply State.setFlag_kept | apply State.cageSet_kept | apply Kept.outFault | apply Kept.outRefused | apply Kept.outNext | dsimp only | split

theorem State.setBufBytes_kept {s0 s : State} (off : ℕ) (bs : List Byte) (h : Kept s0 s) :
    Kept s0 (State.setBufBytes s off bs) := by
  unfold State.setBufBytes
  with_reducible repeat' first | assumption | apply State.setFld_kept | refine Kept.foldl ?_ (fun _ _ _ => ?_)

theorem State.i2cXferWrite_kept {s0 s : State} (v : Word) (h : Kept s0 s) :
    Kept s0 (State.i2cXferWrite s v) := by
  unfold State.i2cXferWrite
  with_reducible repeat' first | assumption | apply State.setReg_kept | apply State.setFlag_kept | dsimp only | split | refine Kept.upd ?_

theorem execI2c0XferGo_kept {s0 : State} (v : Word) {s : State} (h : Kept s0 s) :
    Kept.Out s0 (execI2c0XferGo v s) := by
  unfold execI2c0XferGo
  with_reducible repeat' first | assumption | apply State.pfReach_kept | apply State.i2cXferWrite_kept | apply Kept.outFault | apply Kept.outRefused | apply Kept.outNext

theorem execI2c0XferEnd_kept {s0 : State} (e : I2cEnd) {s : State} (h : Kept s0 s) :
    Kept.Out s0 (execI2c0XferEnd e s) := by
  unfold execI2c0XferEnd
  with_reducible repeat' first | assumption | apply State.i2cOver_kept | apply State.setBufBytes_kept | apply Kept.outFault | apply Kept.outRefused | apply Kept.outNext | dsimp only | split

theorem execSmbusReadByte_kept {s0 : State} (cmd : Byte) {s : State} (h : Kept s0 s) :
    Kept.Out s0 (execSmbusReadByte cmd s) := by
  unfold execSmbusReadByte
  with_reducible repeat' first | assumption | apply Kept.outFault | apply Kept.outRefused | apply Kept.outNext | dsimp only | split | refine Kept.upd ?_

theorem State.gpioSync_kept {s0 s : State} (h : Kept s0 s) :
    Kept s0 (State.gpioSync s) := by
  unfold State.gpioSync
  with_reducible repeat' first | assumption | apply State.setReg_kept

theorem execGpioInputChange_kept {s0 : State} (pin : Fin 16) (level : Bool) {s : State} (h : Kept s0 s) :
    Kept.Out s0 (execGpioInputChange pin level s) := by
  unfold execGpioInputChange
  with_reducible repeat' first | assumption | apply State.gpioSync_kept | apply Kept.outFault | apply Kept.outRefused | apply Kept.outNext | dsimp only | split | refine Kept.upd ?_

theorem State.uartIrq_kept {s0 s : State} (h : Kept s0 s) :
    Kept s0 (State.uartIrq s) := by
  unfold State.uartIrq
  with_reducible repeat' first | assumption | apply State.msixDue_kept | dsimp only | split

theorem State.uartErr_kept {s0 s : State} (bit : ℕ) (h : Kept s0 s) :
    Kept s0 (State.uartErr s bit) := by
  unfold State.uartErr
  with_reducible repeat' first | assumption | apply State.uartIrq_kept | apply State.setFlag_kept

theorem State.uartPump_kept {s0 s : State} (h : Kept s0 s) :
    Kept s0 (State.uartPump s) := by
  unfold State.uartPump
  with_reducible repeat' first | assumption | dsimp only | split | refine Kept.upd ?_

theorem State.uartWrite_kept {s0 s : State} (v : Word) (h : Kept s0 s) :
    Kept s0 (State.uartWrite s v) := by
  unfold State.uartWrite
  with_reducible repeat' first | assumption | apply State.uartErr_kept | apply State.uartPump_kept | dsimp only | split | refine Kept.upd ?_

theorem execUartDataWrite_kept {s0 : State} (v : Word) {s : State} (h : Kept s0 s) :
    Kept.Out s0 (execUartDataWrite v s) := by
  unfold execUartDataWrite
  with_reducible repeat' first | assumption | apply State.pfReach_kept | apply State.uartWrite_kept | apply Kept.outFault | apply Kept.outRefused | apply Kept.outNext

theorem State.uartTake_kept {s0 s : State} (h : Kept s0 s) :
    Kept s0 (State.uartTake s).2 := by
  unfold State.uartTake
  with_reducible repeat' first | assumption | dsimp only | split | refine Kept.upd ?_

theorem execUartDataRead_kept {s0 s : State} (h : Kept s0 s) :
    Kept.Out s0 (execUartDataRead s) := by
  unfold execUartDataRead
  with_reducible repeat' first | assumption | apply State.uartTake_kept | apply State.pfRead_kept | apply Kept.outFault | apply Kept.outRefused | apply Kept.outNext | refine Kept.ofFst (by assumption) ?_ | refine Kept.ofSnd (by assumption) ?_ | dsimp only | split | refine Kept.upd ?_

theorem State.uartStore_kept {s0 s : State} (b : Byte) (h : Kept s0 s) :
    Kept s0 (State.uartStore s b) := by
  unfold State.uartStore
  with_reducible repeat' first | assumption | apply State.uartErr_kept | apply State.uartIrq_kept | dsimp only | split | refine Kept.upd ?_

theorem State.uartReceive_kept {s0 s : State} (l : List Bool) (h : Kept s0 s) :
    Kept s0 (State.uartReceive s l) := by
  unfold State.uartReceive
  with_reducible repeat' first | assumption | apply State.uartErr_kept | apply State.uartStore_kept | dsimp only | split

theorem execUartCharacterReceive_kept {s0 : State} (samples : List Bool) {s : State} (h : Kept s0 s) :
    Kept.Out s0 (execUartCharacterReceive samples s) := by
  unfold execUartCharacterReceive
  with_reducible repeat' first | assumption | apply State.uartReceive_kept | apply Kept.outFault | apply Kept.outRefused | apply Kept.outNext | dsimp only | split

theorem execUartCharacterSent_kept {s0 s : State} (h : Kept s0 s) :
    Kept.Out s0 (execUartCharacterSent s) := by
  unfold execUartCharacterSent
  with_reducible repeat' first | assumption | apply State.uartPump_kept | apply State.uartStore_kept | apply Kept.outFault | apply Kept.outRefused | apply Kept.outNext | dsimp only | split | refine Kept.upd ?_

theorem State.spiXferWrite_kept {s0 s : State} (v : Word) (h : Kept s0 s) :
    Kept s0 (State.spiXferWrite s v) := by
  unfold State.spiXferWrite
  with_reducible repeat' first | assumption | apply State.setReg_kept | apply State.ignoredWrite_kept | apply State.setFlag_kept | refine Kept.ofFst (by assumption) ?_ | dsimp only | split | refine Kept.upd ?_

theorem execSpiXferGo_kept {s0 : State} (v : Word) {s : State} (h : Kept s0 s) :
    Kept.Out s0 (execSpiXferGo v s) := by
  unfold execSpiXferGo
  with_reducible repeat' first | assumption | apply State.pfReach_kept | apply State.spiXferWrite_kept | apply Kept.outFault | apply Kept.outRefused | apply Kept.outNext

theorem State.pageProgram_kept {s0 s : State} (a : ℕ) (bs : List Byte) (h : Kept s0 s) :
    Kept s0 (State.pageProgram s a bs) := by
  unfold State.pageProgram
  with_reducible repeat' first | assumption | apply State.writeFlash_kept | refine Kept.foldl ?_ (fun _ _ _ => ?_)

theorem execSpiXferEnd_kept {s0 : State} (read : List Byte) {s : State} (h : Kept s0 s) :
    Kept.Out s0 (execSpiXferEnd read s) := by
  unfold execSpiXferEnd
  with_reducible repeat' first | assumption | apply State.setFlag_kept | apply State.setBufBytes_kept | apply State.pageProgram_kept | apply State.writeFlash_kept | apply Kept.outFault | apply Kept.outRefused | apply Kept.outNext | refine Kept.ofFst (by assumption) ?_ | dsimp only | split | refine Kept.upd ?_

theorem execJtagInstruction_kept {s0 : State} (i : JtagInstr) {s : State} (h : Kept s0 s) :
    Kept.Out s0 (execJtagInstruction i s) := by
  unfold execJtagInstruction
  with_reducible repeat' first | assumption | apply State.drawFree_kept | apply Kept.outFault | apply Kept.outRefused | apply Kept.outNext | refine Kept.ofSnd (by assumption) ?_ | dsimp only | split | refine Kept.upd ?_

end Sys2Proof.Machine
end

