-- ==== Sys2Proof/Laws/KeptAccess.lean ====
section
/-!
SUPPORT. What the operations of Machine/Access.lean keep (Kept).
-/

namespace Sys2Proof.Machine

set_option simprocs false
set_option Elab.async false

theorem State.lnCtrlWrite_kept {s0 s : State} (n : ℕ) (v : Word) (h : Kept s0 s) :
    Kept s0 (State.lnCtrlWrite s n v) := by
  unfold State.lnCtrlWrite
  with_reducible repeat' first | assumption | apply State.plainWrite_kept

theorem State.ethPortWrite_kept {s0 s : State} (p : ℕ) (v : Word) (h : Kept s0 s) :
    Kept s0 (State.ethPortWrite s p v) := by
  unfold State.ethPortWrite
  with_reducible repeat' first | assumption | apply State.plainWrite_kept | apply State.setFld_kept | dsimp only | split

theorem State.ppCtrlWrite_kept {s0 s : State} (off : ℕ) (v : Word) (h : Kept s0 s) :
    Kept s0 (State.ppCtrlWrite s off v) := by
  unfold State.ppCtrlWrite
  with_reducible repeat' first | assumption | apply State.plainWrite_kept

theorem State.msixTableWrite_kept {s0 s : State} (f k : ℕ) (v : Word) (h : Kept s0 s) :
    Kept s0 (State.msixTableWrite s f k v) := by
  unfold State.msixTableWrite
  with_reducible repeat' first | assumption | apply State.setFunc_kept

theorem State.mailboxWrite_kept {s0 s : State} (f o : ℕ) (v : Word) (h : Kept s0 s) :
    Kept s0 (State.mailboxWrite s f o v) := by
  unfold State.mailboxWrite
  with_reducible repeat' first | assumption | apply State.setReg_kept | apply State.plainWrite_kept | apply State.post_kept | dsimp only | split

theorem State.writeTb_kept {s0 s : State} (off : ℕ) (v : Word) (h : Kept s0 s) :
    Kept s0 (State.writeTb s off v) := by
  unfold State.writeTb
  with_reducible repeat' first | assumption | apply Kept.ite | apply State.tbCtrlAfter_kept | apply State.plainWrite_kept | apply State.tbCmdWrite_kept | apply State.tbIncrCommit_kept | apply State.tbSlewWrite_kept | apply State.tbOffsetWrite_kept | apply State.refCfgWrite_kept | apply State.trigCfgWrite_kept | apply State.capPop_kept | dsimp only | split | refine Kept.upd ?_

theorem State.writeSoot_kept {s0 s : State} (off : ℕ) (v : Word) (h : Kept s0 s) :
    Kept s0 (State.writeSoot s off v) := by
  unfold State.writeSoot
  with_reducible repeat' first | assumption | apply Kept.ite | apply State.fieldWrite_kept | apply State.plainWrite_kept | dsimp only | split | refine Kept.upd ?_ | intro _

theorem State.writeQueue_kept {s0 s : State} (off : ℕ) (v : Word) (h : Kept s0 s) :
    Kept s0 (State.writeQueue s off v) := by
  unfold State.writeQueue
  with_reducible repeat' first | assumption | apply Kept.ite | apply State.rqSelWrite_kept | apply State.rqStage_kept | apply State.rqCommit_kept | apply State.pwCtrlWrite_kept | apply State.pwCfgWrite_kept | apply State.winSelWrite_kept | apply State.winLoWrite_kept | apply State.winHiWrite_kept | apply State.ptWrite_kept | apply State.acctSelWrite_kept | apply State.plainWrite_kept

theorem State.writePeriph_kept {s0 s : State} (off : ℕ) (v : Word) (h : Kept s0 s) :
    Kept s0 (State.writePeriph s off v) := by
  unfold State.writePeriph
  with_reducible repeat' first | assumption | apply State.gpioSync_kept | apply State.plainWrite_kept | apply State.i2cXferWrite_kept | apply State.uartWrite_kept | apply State.uartPump_kept | apply State.spiXferWrite_kept | dsimp only | split

theorem State.writeOne_kept {s0 s : State} (off : ℕ) (v : Word) (h : Kept s0 s) :
    Kept s0 (State.writeOne s off v) := by
  unfold State.writeOne
  with_reducible repeat' first | assumption | apply Kept.ite | apply State.rstGlobalWrite_kept | apply State.rstPartWrite_kept | apply State.rstBlockWrite_kept | apply State.plainWrite_kept | apply State.writeTb_kept | apply State.writeSoot_kept | apply State.writeQueue_kept | apply State.mailboxWrite_kept | apply State.fabCtrlAfter_kept | apply State.lnCtrlWrite_kept | apply State.lnQselWrite_kept | apply State.smCselWrite_kept | apply State.ppCtrlWrite_kept | apply State.dramCfgWrite_kept | apply State.mcCtrlWrite_kept | apply State.ethPortWrite_kept | apply State.ingSselWrite_kept | apply State.cgCtrlWrite_kept | apply State.msixTableWrite_kept | apply State.writePeriph_kept

theorem State.writePf_kept {s0 s : State} (off : ℕ) (v : Word) (h : Kept s0 s) :
    Kept s0 (State.writePf s off v) := by
  unfold State.writePf
  with_reducible repeat' first | assumption | apply Kept.ite | apply State.pfReach_kept | apply State.plainWrite_kept | apply State.writeOne_kept | refine Kept.foldl ?_ (fun _ _ _ => ?_)

theorem State.writeDoor_kept {s0 s : State} (d : Door) (o : ℕ) (v : Word) (h : Kept s0 s) :
    Kept s0 (State.writeDoor s d o v) := by
  unfold State.writeDoor
  with_reducible repeat' first | assumption | apply State.doorWrite_kept | apply State.sqTail_kept | apply State.cqHead_kept | apply State.irqArmRing_kept | dsimp only | split

theorem State.writeVf_kept {s0 s : State} (f : FnIx) (off : ℕ) (v : Word) (h : Kept s0 s) :
    Kept s0 (State.writeVf s f off v) := by
  unfold State.writeVf
  with_reducible repeat' first | assumption | apply State.mailboxWrite_kept | apply State.msixTableWrite_kept | apply State.writeDoor_kept | dsimp only | split

theorem State.writeBar_kept {s0 s : State} (bar : RegBar) (off : ℕ) (v : Word) (h : Kept s0 s) :
    Kept s0 (State.writeBar s bar off v) := by
  unfold State.writeBar
  with_reducible repeat' first | assumption | apply State.writePf_kept | apply State.writeVf_kept | apply State.writeDoor_kept | dsimp only | split

theorem execRegisterWrite_kept {s0 : State} (bar : RegBar) (off : ℕ) (size : AccessSize) (v : Dword) {s : State} (h : Kept s0 s) :
    Kept.Out s0 (execRegisterWrite bar off size v s) := by
  unfold execRegisterWrite
  with_reducible repeat' first | assumption | apply State.writeBar_kept | apply Kept.outFault | apply Kept.outRefused | apply Kept.outNext | refine Kept.foldl ?_ (fun _ _ _ => ?_) | refine Kept.foldlFst ?_ (fun _ _ _ => ?_) | refine Kept.ofFst (by assumption) ?_ | dsimp only | split

theorem State.readPf_kept {s0 s : State} (off o n : ℕ) (h : Kept s0 s) :
    Kept s0 (State.readPf s off o n).2 := by
  unfold State.readPf
  with_reducible repeat' first | assumption | apply State.tbLatch_kept | apply State.sootLatch_kept | apply State.ptRead_kept | apply State.uartTake_kept | apply State.setReg_kept | refine Kept.ofFst (by assumption) ?_ | refine Kept.ofSnd (by assumption) ?_ | dsimp only | split

theorem State.readBar_kept {s0 s : State} (bar : RegBar) (off o n : ℕ) (h : Kept s0 s) :
    Kept s0 (State.readBar s bar off o n).2 := by
  unfold State.readBar
  with_reducible repeat' first | assumption | apply State.readPf_kept | refine Kept.ofSnd (by assumption) ?_ | dsimp only | split

theorem execRcRegisterRead_kept {s0 : State} (bar : RegBar) (off : ℕ) (size : AccessSize) {s : State} (h : Kept s0 s) :
    Kept.Out s0 (execRcRegisterRead bar off size s) := by
  unfold execRcRegisterRead
  refine Kept.outNext (Kept.ite h ?_)
  split
  rename_i heq
  refine Kept.upd (Kept.ofSnd heq (Kept.foldlSnd h ?_))
  intro t a ht
  exact State.readBar_kept _ _ _ _ ht

end Sys2Proof.Machine
end

