-- ==== Sys2Proof/Laws/Tables.lean ====
section
/-!
SUPPORT. Reading an entry of an ordered table after it, or another entry, has been replaced.
-/

namespace Sys2Proof.Machine

set_option Elab.async false

theorem State.part_setPart_same (s : State) (k : Nat) (v : Part) (h : Ordered s.parts) : (s.setPart k v).part k = v :=
  sparseGet_set_same _ _ _ _ h

theorem State.part_setPart_other (s : State) (k j : Nat) (v : Part) (h : j ≠ k) : (s.setPart k v).part j = s.part j :=
  sparseGet_set_other _ _ _ _ _ h

theorem State.ring_setRing_same (s : State) (k : Nat) (v : Ring) (h : Ordered s.rings) : (s.setRing k v).ring k = v :=
  sparseGet_set_same _ _ _ _ h

theorem State.ring_setRing_other (s : State) (k j : Nat) (v : Ring) (h : j ≠ k) : (s.setRing k v).ring j = s.ring j :=
  sparseGet_set_other _ _ _ _ _ h

theorem State.bank_setBank_same (s : State) (k : Nat) (v : Bank) (h : Ordered s.banks) : (s.setBank k v).bank k = v :=
  sparseGet_set_same _ _ _ _ h

theorem State.bank_setBank_other (s : State) (k j : Nat) (v : Bank) (h : j ≠ k) : (s.setBank k v).bank j = s.bank j :=
  sparseGet_set_other _ _ _ _ _ h

theorem State.ingotErr_setIngotErr_same (s : State) (k : Nat) (v : IngotErr) (h : Ordered s.ingots) : (s.setIngotErr k v).ingotErr k = v :=
  sparseGet_set_same _ _ _ _ h

theorem State.ingotErr_setIngotErr_other (s : State) (k j : Nat) (v : IngotErr) (h : j ≠ k) : (s.setIngotErr k v).ingotErr j = s.ingotErr j :=
  sparseGet_set_other _ _ _ _ _ h

theorem State.lantern_setLantern_same (s : State) (k : Nat) (v : Lantern) (h : Ordered s.lanterns) : (s.setLantern k v).lantern k = v :=
  sparseGet_set_same _ _ _ _ h

theorem State.lantern_setLantern_other (s : State) (k j : Nat) (v : Lantern) (h : j ≠ k) : (s.setLantern k v).lantern j = s.lantern j :=
  sparseGet_set_other _ _ _ _ _ h

theorem State.smelter_setSmelter_same (s : State) (k : Nat) (v : Smelter) (h : Ordered s.smelters) : (s.setSmelter k v).smelter k = v :=
  sparseGet_set_same _ _ _ _ h

theorem State.smelter_setSmelter_other (s : State) (k j : Nat) (v : Smelter) (h : j ≠ k) : (s.setSmelter k v).smelter j = s.smelter j :=
  sparseGet_set_other _ _ _ _ _ h

theorem State.quad_setQuad_same (s : State) (k : Nat) (v : Quad) (h : Ordered s.quads) : (s.setQuad k v).quad k = v :=
  sparseGet_set_same _ _ _ _ h

theorem State.quad_setQuad_other (s : State) (k j : Nat) (v : Quad) (h : j ≠ k) : (s.setQuad k v).quad j = s.quad j :=
  sparseGet_set_other _ _ _ _ _ h

theorem State.arb_setArb_same (s : State) (k : Nat) (v : Arb) (h : Ordered s.arbs) : (s.setArb k v).arb k = v :=
  sparseGet_set_same _ _ _ _ h

theorem State.arb_setArb_other (s : State) (k j : Nat) (v : Arb) (h : j ≠ k) : (s.setArb k v).arb j = s.arb j :=
  sparseGet_set_other _ _ _ _ _ h

theorem State.buf_setBuf_same (s : State) (p i : Nat) (v : PBuf) (h : Ordered s.bufs) : (s.setBuf p i v).buf p i = v :=
  sparseGet_set_same _ _ _ _ h

theorem State.buf_setBuf_other (s : State) (p i q j : Nat) (v : PBuf) (h : 2 ^ 24 * q + j ≠ 2 ^ 24 * p + i) :
    (s.setBuf p i v).buf q j = s.buf q j :=
  sparseGet_set_other _ _ _ _ _ h

theorem State.credit_setCredit_same (s : State) (u p : Nat) (c : Int) (h : Ordered s.credits) :
    (s.setCredit u p c).credit u p = clampInt (-(2 ^ 31)) (2 ^ 31) c :=
  sparseGet_set_same _ _ _ _ h

end Sys2Proof.Machine
end

