-- ==== Sys2Proof/Laws/TimebaseFrames.lean ====
section
/-!
SUPPORT. What a tick, a jump of the counter and a step can do to the state.
-/

namespace Sys2Proof.Machine

set_option Elab.async false

@[simp] theorem State.reg_updTrig (s : State) (k : Nat) (f : Trig → Trig) (o : Nat) : (s.updTrig k f).reg o = s.reg o :=
  State.reg_congr (s := s) rfl o

@[simp] theorem State.reg_updRef (s : State) (r : Nat) (f : TimeRef → TimeRef) (o : Nat) : (s.updRef r f).reg o = s.reg o :=
  State.reg_congr (s := s) rfl o

@[simp] theorem State.reg_setCounter (s : State) (x : Int) (o : Nat) : (s.setCounter x).reg o = s.reg o :=
  State.reg_congr (s := s) rfl o

/-! ### The counter -/

/-- The counter set to a total reads as that total reduced to 2^48 s. -/
theorem State.setCounter_counter (s : State) (x : Int) : (s.setCounter x).counter = x % (2 ^ 48 * (1000000000 * 2 ^ 32)) := by
  simp only [State.setCounter, State.counter]
  have h1 : 0 ≤ x / (1000000000 * 2 ^ 32) % 2 ^ 48 := Int.emod_nonneg _ (by decide)
  have h2 : 0 ≤ x % (1000000000 * 2 ^ 32) := Int.emod_nonneg _ (by decide)
  rw [Int.toNat_of_nonneg h1, Int.toNat_of_nonneg h2]
  omega

theorem State.setCounter_range (s : State) (x : Int) : (s.setCounter x).tb.sub < 1000000000 * 2 ^ 32 ∧ (s.setCounter x).tb.sec < 2 ^ 48 := by
  simp only [State.setCounter]
  omega

/-- The pulses of a tick change the triggers' records alone. -/
theorem State.trigTick_frame (s : State) (k : Nat) : ∃ T, s.trigTick k = { s with tb := { s.tb with trigs := T } } := by
  simp only [State.trigTick]
  split <;> exact ⟨_, rfl⟩

theorem State.trigTicks_frame (l : List Nat) (s : State) :
    ∃ T, l.foldl (fun s k => s.trigTick k) s = { s with tb := { s.tb with trigs := T } } := by
  induction l generalizing s with
  | nil => exact ⟨_, rfl⟩
  | cons a t ih =>
    obtain ⟨T, hT⟩ := s.trigTick_frame a
    obtain ⟨T', hT'⟩ := ih (s.trigTick a)
    refine ⟨T', ?_⟩
    rw [List.foldl_cons, hT', hT]

/-! ### A jump of the counter -/

/-- What a jump does to one trigger: its record, and its control register. -/
theorem State.trigJump_frame (s : State) (k : Nat) : ∃ R T, s.trigJump k = { s with regs := R, tb := { s.tb with trigs := T } } := by
  simp only [State.trigJump]
  split
  · exact ⟨_, _, rfl⟩
  · simp only [State.trigFire]
    split
    · exact ⟨_, _, rfl⟩
    · split <;> exact ⟨_, _, rfl⟩

theorem State.trigJump_regs (s : State) (k : Nat) (h : Rising s.regs) :
    Rising (s.trigJump k).regs ∧ ∀ o, o ≠ Reg.trigCfg k → (s.trigJump k).reg o = s.reg o := by
  simp only [State.trigJump]
  split
  · exact ⟨h, fun _ _ => rfl⟩
  · split
    · exact ⟨h, fun _ _ => rfl⟩
    · simp only [State.trigFire]
      split
      · exact ⟨State.bump_rising _ _ _ _ _ h, fun o ho => State.reg_bump_other _ _ _ _ _ _ ho⟩
      · exact ⟨State.setFlag_rising _ _ _ _ h, fun o ho => State.reg_setFlag_other _ _ _ _ _ ho⟩

/-- What a jump does to every trigger. -/
theorem State.trigsJump_frame (s : State) : ∃ R T, s.trigsJump = { s with regs := R, tb := { s.tb with trigs := T } } := by
  have h : ∀ (l : List Nat) (s : State), ∃ R T, l.foldl (fun s k => s.trigJump k) s = { s with regs := R, tb := { s.tb with trigs := T } } := by
    intro l
    induction l with
    | nil => exact fun s => ⟨_, _, rfl⟩
    | cons a t ih =>
      intro s
      obtain ⟨R, T, e⟩ := s.trigJump_frame a
      obtain ⟨R', T', e'⟩ := ih (s.trigJump a)
      refine ⟨R', T', ?_⟩
      rw [List.foldl_cons, e', e]
  exact h _ s

theorem State.trigsJump_regs (s : State) (h : Rising s.regs) :
    Rising s.trigsJump.regs ∧ ∀ o, (∀ k < 8, o ≠ Reg.trigCfg k) → s.trigsJump.reg o = s.reg o := by
  have g : ∀ (l : List Nat) (s : State), (∀ k ∈ l, k < 8) → Rising s.regs → Rising (l.foldl (fun s k => s.trigJump k) s).regs ∧
      ∀ o, (∀ k < 8, o ≠ Reg.trigCfg k) → (l.foldl (fun s k => s.trigJump k) s).reg o = s.reg o := by
    intro l
    induction l with
    | nil => exact fun s _ hr => ⟨hr, fun _ _ => rfl⟩
    | cons a t ih =>
      intro s hl hr
      obtain ⟨r1, f1⟩ := s.trigJump_regs a hr
      obtain ⟨r2, f2⟩ := ih (s.trigJump a) (fun k hk => hl k (List.mem_cons_of_mem _ hk)) r1
      exact ⟨r2, fun o ho => (f2 o ho).trans (f1 o (ho a (hl a (List.mem_cons_self ..))))⟩
  exact g _ s (fun k hk => List.mem_range.mp hk) h

/-- A SET or STEP that has changed the counter touches the recorder, the triggers, registers, and the servo's mode and count. -/
theorem State.afterStep_frame (s : State) (d : Int) : ∃ R S F T V G, s.afterStep d =
    { s with regs := R, soot := S, freeCtr := F, tb := { s.tb with trigs := T, servo := V, good := G } } := by
  simp only [State.afterStep]
  rw [State.sootEvent_eq]
  obtain ⟨R, T, e⟩ := State.trigsJump_frame { s.bump Reg.tbStatus 15 8 1 with
    regs := ((s.bump Reg.tbStatus 15 8 1).sootEvent 0x0431 (BitVec.ofNat 64 (wrapInt 64 d)) none).regs
    soot := ((s.bump Reg.tbStatus 15 8 1).sootEvent 0x0431 (BitVec.ofNat 64 (wrapInt 64 d)) none).soot
    freeCtr := ((s.bump Reg.tbStatus 15 8 1).sootEvent 0x0431 (BitVec.ofNat 64 (wrapInt 64 d)) none).freeCtr }
  rw [e]
  split <;> exact ⟨_, _, _, _, _, _, rfl⟩

/-- It adds 1 to STEPS, and returns a servo in charge of a selected reference to ACQUIRE. -/
theorem State.afterStep_effect (s : State) (d : Int) (h : Rising s.regs) :
    Rising (s.afterStep d).regs ∧ (s.afterStep d).fld Reg.tbStatus 15 8 = min 255 (s.fld Reg.tbStatus 15 8 + 1) ∧
      (∀ o, o ≠ Reg.tbStatus → o ≠ Reg.sootDrop → (∀ k < 8, o ≠ Reg.trigCfg k) → (s.afterStep d).reg o = s.reg o) ∧
      (s.flag Reg.tbCtrl 0 = true → s.tb.servo ≠ .freerun → s.tb.servo ≠ .holdover → (s.afterStep d).tb.servo = .acquire) := by
  have hb := State.bump_rising s Reg.tbStatus 15 8 1 h
  have he := State.sootEvent_rising (s.bump Reg.tbStatus 15 8 1) 0x0431 (BitVec.ofNat 64 (wrapInt 64 d)) none hb
  obtain ⟨hr, hf⟩ := State.trigsJump_regs _ he
  have hcfg : ∀ o, o < 0x40100 → ∀ k < 8, o ≠ Reg.trigCfg k := by
    intro o ho k _
    simp only [Reg.trigCfg]
    omega
  have hreg : ∀ x : State, ∀ c : Bool, ((if c = true then { x with tb := { x.tb with servo := .acquire, good := 0 } } else x) : State).regs = x.regs := by
    intro x c
    cases c <;> rfl
  refine ⟨?_, ?_, ?_, ?_⟩
  · simp only [State.afterStep]
    rw [hreg]
    exact hr
  · have e1 : (s.afterStep d).reg Reg.tbStatus = (s.bump Reg.tbStatus 15 8 1).reg Reg.tbStatus := by
      simp only [State.afterStep, State.reg]
      rw [hreg]
      exact (hf Reg.tbStatus (hcfg _ (by decide))).trans (State.reg_sootEvent _ _ _ _ _ (by decide))
    rw [State.fld, e1]
    have := State.fld_setFld_same s Reg.tbStatus 15 8 (min (2 ^ (15 + 1 - 8) - 1) (s.fld Reg.tbStatus 15 8 + 1)) h (by decide)
    simp only [State.fld, State.bump] at this ⊢
    rw [this]
    omega
  · intro o h1 h2 h3
    simp only [State.afterStep, State.reg]
    rw [hreg]
    exact (hf o h3).trans ((State.reg_sootEvent _ _ _ _ _ h2).trans (State.reg_bump_other _ _ _ _ _ _ h1))
  · intro hc h1 h2
    have e1 : (((s.bump Reg.tbStatus 15 8 1).sootEvent 0x0431 (BitVec.ofNat 64 (wrapInt 64 d)) none).trigsJump).flag Reg.tbCtrl 0 = true := by
      rw [State.flag, hf Reg.tbCtrl (hcfg _ (by decide)), State.reg_sootEvent _ _ _ _ _ (by decide), State.reg_bump_other _ _ _ _ _ _ (by decide)]
      exact hc
    have e2 : (((s.bump Reg.tbStatus 15 8 1).sootEvent 0x0431 (BitVec.ofNat 64 (wrapInt 64 d)) none).trigsJump).tb.servo = s.tb.servo := by
      obtain ⟨R, T, e⟩ := State.trigsJump_frame ((s.bump Reg.tbStatus 15 8 1).sootEvent 0x0431 (BitVec.ofNat 64 (wrapInt 64 d)) none)
      rw [e]
      simp
    simp only [State.afterStep]
    rw [e1, e2]
    have b1 : (s.tb.servo != .freerun) = true := bne_iff_ne.mpr h1
    have b2 : (s.tb.servo != .holdover) = true := bne_iff_ne.mpr h2
    simp [b1, b2]

end Sys2Proof.Machine
end

