-- ==== Sys2Proof/Tests/Slice0.lean ====
section
/-!
SUPPORT. Tests: ill-formed operands are refused; values that the spec prints come out as it prints them; and for every statement of
Certificates/Slice0 a concrete state and operands meet the hypotheses of each of its clauses (test_witness_<statement>).
-/

namespace Sys2Proof.Tests

open Sys2Proof.Machine

set_option maxRecDepth 20000
set_option Elab.async false

/-! ### Helpers -/

/-- A state with some registers written. -/
def withRegs (s : State) (l : List (Nat × Nat)) : State := l.foldl (fun s e => s.setReg e.1 (BitVec.ofNat 32 e.2)) s

/-- A state with some bytes of device memory written. -/
def withMem (s : State) (l : List (Nat × List Byte)) : State := l.foldl (fun s e => s.writeMem e.1 e.2) s

/-- Fields (offset, bytes, value) laid over n zero bytes. -/
def bytesOf (n : Nat) (l : List (Nat × Nat × Nat)) : List Byte := l.foldl (fun b e => overlay b e.1 (leBytes e.2.1 e.2.2)) (List.replicate n 0)

/-- A table of words written in order. -/
def tabOf (l : List (Nat × Nat)) : WordTab := l.foldl (fun t e => wordSet t e.1 (BitVec.ofNat 32 e.2)) []

/-- Command 7, of ring 0 and partition 1, issued to its engine. -/
def cmd (op : Nat) (params : List Byte) : Cmd where
  id := 7
  src := .ring 0
  opcode := op
  ordered := false
  chain := false
  irq := false
  fence := false
  tag := 5
  index := 3
  part := 1
  fn := 0
  params := params
  det := false
  phase := .issued
  status := .ok
  detail := 0
  aux := 0
  mapMask := 0
  gang := 0
  members := []
  pos := 0
  latched := leBytes 16 9

/-- The state with one command in flight. -/
def withCmd (s : State) (c : Cmd) : State := { s with cmds := [c] }

/-- The table words of partition 1: windows onto Ingot 0, Crucible bank 0 and DRAM with every permission, 4 MiB of Lantern 0 as quota 0,
VALID, and rings 0 to 15 of the PF. -/
def words : List (Nat × Nat) :=
  [(tabKey 0 0, 0x00030000), (tabKey 0 1, 0xF0080000), (tabKey 0 2, 0x00030008), (tabKey 0 3, 0xF0080080), (tabKey 0 4, 0x00070010),
   (tabKey 0 5, 0xF0000000), (tabKey 1 0, 0x80000002), (tabKey 3 0, 1), (tabKey 4 0, 0x00100000)]

/-- The state with partition 1 holding a table. -/
def withTab (s : State) (l : List (Nat × Nat)) : State := { s with parts := [(1, { Part.reset with active := tabOf l, shadow := tabOf l })] }

/-- A device at work: link up, READY, every domain on, 256 MiB of DRAM, Lantern, Smelter and Shaper 0 enabled, and partition 1 as above. -/
def dev : State :=
  withRegs (withTab { State.reset with ozmel := { Ozmel.reset with running := true, ready := true } } words)
    ([(Reg.peStatus, 0x80000000), (Reg.dramStatus, 1)] ++ ((List.range 8).map fun n => (Reg.pdState n, 0x55555555)) ++
      ((List.range 8).map fun n => (Reg.mcCtrl n, 0x00780007)) ++ [(Reg.lnCtrl 0, 7), (Reg.smCtrl 0, 0xA01), (Reg.shCtrl 0, 1)])

/-- PDAs at the reference slots of a captured descriptor: 16 to 71. -/
def refs : List Nat := [0, 0, 0x1000, 0x1000000, 0x2000, 0x2800, 0x3000, 0x4000, 0x5000]

/-- A descriptor of a type with some fields. -/
def desc (ty : Nat) (l : List (Nat × Nat × Nat)) : Desc where
  seq := 4
  cap := ⟨bytesOf 128 ((0, 1, ty) :: l), refs⟩
  out := none
  sync := none
  at_ := 0
  started := false
  prog := 0
  drained := []
  ctl := 7
  modes := ⟨0, 0⟩
  free := 0
  wcb := []
  acb := []
  sums := []
  staged := []
  runs := []
  codes := []
  counter := none
  tickets := []
  tookZero := false
  ticketEnd := false
  rmo := none
  done := none
  detail := 0

/-- A context of partition 1 that runs command 7 and has issued some descriptors. -/
def ctxOf (ds : List Desc) : SeqCtx := { SeqCtx.reset with cmd := some 7, part := 1, issued := ds, nextSeq := 5 }

/-- The state in which context 0 of Lantern 0 is c. -/
def withCtx (s : State) (c : SeqCtx) : State := s.updCtx 0 0 fun _ => c

theorem ok_of {α ε : Type} {r : Except ε α} {P : α → Bool} (h : (match r with | .ok x => P x | .error _ => false) = true) :
    ∃ x, r = .ok x ∧ P x = true := by
  cases r with
  | ok x => exact ⟨x, rfl, h⟩
  | error _ => cases h

/-- A state is canonical, by evaluation. -/
def canon (s : State) : Bool := decide (Memory.wf s = true ∧ s.regsWf = true ∧ s.TablesOrdered ∧ SizesFixed s.tb s.periph)

theorem canon_ok {s : State} (h : canon s = true) : s.Canonical :=
  have h := of_decide_eq_true h
  ⟨h.1, h.2.1, h.2.2.1, h.2.2.2⟩

theorem reset_canonical : State.reset.Canonical := canon_ok (by decide)
theorem dev_canonical : dev.Canonical := canon_ok (by decide)

/-! ### Ill-formed operands -/

/-- One term for each check of WellFormed, which it refuses. -/
theorem test_illFormed : ∀ i ∈ [Instr.registerWrite .pf 0 .b32 0x100000000, .fabRateWindow (.lantern 0) 0x10000 0, .fabRateWindow (.lantern 0) 4 5,
    .sqTailDoorbell (.vf 1 896) 0, .cqHeadDoorbell (.vf 1 896) 0,
    .irqArm (.vf 1 896) 0, .pcieLinkUp 0 16 false, .pcieLinkUp 5 3 false, .bar4Read 0 0, .bar4Write 0 [], .vfEnable true true 256,
    .configSpaceWrite 0 (.bar4Size 3), .i2c0XferEnd (.done (List.replicate 33 0)), .spiXferEnd (List.replicate 65 0), .recMinWindow 0 2 1],
    WellFormed i = false := by decide

/-- The same commands at the last value that each check lets pass. -/
theorem test_wellFormed : ∀ i ∈ [Instr.registerWrite .pf 0 .b32 0xFFFFFFFF, .fabRateWindow (.lantern 0) 0xFFFF 0xFFFF,
    .sqTailDoorbell (.vf 1 895) 0, .cqHeadDoorbell (.pf 16383) 0,
    .irqArm (.vf 1 895) 0, .pcieLinkUp 6 16 false, .bar4Read 0 1, .bar4Write 0 [0], .vfEnable true true 255,
    .configSpaceWrite 0 (.bar4Size 128), .i2c0XferEnd (.done (List.replicate 32 0)), .i2c0XferEnd .nack, .spiXferEnd (List.replicate 64 0),
    .recMinWindow 0 1 1],
    WellFormed i = true := by decide

/-- No row of the table gives bits, so no word spells a command. -/
theorem test_noWordSpellsACommand : decodeTableWord 32 0 = none ∧ State.reset.withFetchWord 32 0 = State.reset := by decide

/-! ### Witnesses: the machine, registers and tables -/

/-- A command in front of another. -/
def queued : State := { dev with pending := [.gpioInputChange 0 true, .tbTick] }

theorem test_witness_StepRunsFrontCommand :
    queued.pending = .gpioInputChange 0 true :: [.tbTick] ∧ State.reset.pending = [] := by decide

theorem test_witness_StepKeepsCanonical : queued.Canonical ∧ ∃ t, step queued = .next t := ⟨canon_ok (by decide), _, rfl⟩

theorem test_witness_EveryCommandCompletes :
    (WellFormed (.jtagInstruction .debug) = true ∧ ¬ (Instr.jtagInstruction .debug = .jtagInstruction .debug ∧ State.reset.flag Reg.dbgCtrl 0 = true)) ∧
    exec (.jtagInstruction .debug) (withRegs State.reset [(Reg.dbgCtrl, 1)]) = .refused .debugUnit ∧
    exec (.pcieLinkUp 0 16 false) State.reset = .fault .illFormed := ⟨by decide, rfl, rfl⟩

theorem test_witness_RegisterWriteFollowsAccessCodes :
    dev.Canonical ∧ dev.PfReaches Reg.globalCtrl ∧ Reg.globalCtrl % 4 = 0 ∧ Reg.globalCtrl / 0x10000 ∈ [0x01, 0x03, 0x30, 0x31, 0x32, 0x33, 0x38, 0x50] ∧
    (∃ k, regKindOf Reg.globalCtrl = some k ∧ k.violates (dev.lockedKind k) (dev.reg Reg.globalCtrl) 1 = false) ∧
    (let s := withRegs dev [(Reg.globalCtrl, 0x80000000)]
     s.Canonical ∧ s.PfReaches Reg.globalCtrl ∧
      ∃ k, regKindOf Reg.globalCtrl = some k ∧ k.violates (s.lockedKind k) (s.reg Reg.globalCtrl) 1 = true) := by
  refine ⟨dev_canonical, by decide, by decide, by decide, ⟨_, rfl, by decide⟩, canon_ok (by decide), by decide, ⟨_, rfl, by decide⟩⟩

/-- VF 1 is enabled and visible. -/
def devVf : State := { dev with pcie := { dev.pcie with vfEnable := true, vfMse := true, numVf := 1 } }

/-- The last byte, the upper half and the whole of a word; two words; the lowest VF. -/
theorem test_witness_AccessSizesAndAlignment :
    dev.Canonical ∧ devVf.Canonical ∧ dev.barAnswers .pf = true ∧ devVf.barAnswers (.vf 1) = true ∧ devVf.fnAnswers 1 = true ∧
    dev.PfReaches (Reg.errStatus + 3) ∧ Reg.errStatus + 3 < 0x4000000 ∧ (regKindOf ((Reg.errStatus + 3) / 4 * 4)).isSome = true ∧
    Reg.errStatus ∉ [Reg.tbTimeNs, Reg.sootRdata 0, Reg.ptData, Reg.uartData] ∧
    (∀ o ∈ [Reg.pdEpoch 0, Reg.pdEpoch 0 + 4], dev.PfReaches o ∧ (regKindOf o).isSome = true ∧
      o ∉ [Reg.tbTimeNs, Reg.sootRdata 0, Reg.ptData, Reg.uartData]) ∧ Reg.pdEpoch 0 % 4 = 0 ∧
    dev.barAnswers (.config 0) = true ∧ devVf.barAnswers (.config 1) = true := by
  refine ⟨dev_canonical, canon_ok (by decide), ?_⟩
  decide

/-- A window entry selected in the shadow table, its low word staged. -/
def winSt (sel : Nat) (lo : Option Word) (sw : Swap) : State :=
  { withRegs dev [(Reg.winSel, sel)] with winLoStaged := lo, swap := sw }

def swapOf1 : Swap := { Swap.reset with current := some { cmd := none, mask := 2, arrived := 0, reform := none } }

theorem test_witness_WindowEntriesCommitInPairs :
    (winSt 0x80000100 (some 5) Swap.reset).Canonical ∧
    (∀ o ∈ [Reg.winSel, Reg.winLo, Reg.winHi], (winSt 0x80000100 (some 5) Swap.reset).PfReaches o) ∧
    (let s := winSt 0x80000100 (some 5) Swap.reset
     s.flag Reg.winSel 31 = true ∧ s.fld Reg.winSel 13 8 = 1 ∧ s.swapping 1 = false ∧ s.winLoStaged = some 5) ∧
    (let s := winSt 0x80000100 none Swap.reset
     s.flag Reg.winSel 31 = true ∧ s.swapping 1 = false ∧ s.winLoStaged = none ∧ s.swap.held = [] ∧ tableWord (s.part 1).shadow 0 0 = 0x00030000) ∧
    (let s := winSt 0x80000100 (some 5) swapOf1
     s.flag Reg.winSel 31 = true ∧ s.swapping 1 = true ∧ s.winLoStaged = some 5) ∧
    (winSt 0x100 (some 5) Swap.reset).flag Reg.winSel 31 = false := by
  refine ⟨canon_ok (by decide), ?_⟩
  decide

/-- The last word of table 3, and the first beyond it. -/
theorem test_witness_PartitionPortAccess :
    (let s := withRegs dev [(Reg.ptSel, 0x8301000F)]
     s.Canonical ∧ s.PfReaches Reg.ptData ∧ s.PfReaches Reg.acctSel ∧ s.flag Reg.ptSel 31 = true ∧ s.fld Reg.ptSel 26 24 = 3 ∧
      s.fld Reg.ptSel 21 16 = 1 ∧ s.fld Reg.ptSel 8 0 + 1 = tableWords 3 ∧ s.swapping 1 = false) ∧
    (let s : State := { withRegs dev [(Reg.ptSel, 0x8301000F)] with swap := swapOf1 }
     s.Canonical ∧ s.PfReaches Reg.ptData ∧ s.swapping 1 = true) ∧
    (let s := withRegs dev [(Reg.ptSel, 0x83010010)]
     s.Canonical ∧ s.PfReaches Reg.ptData ∧ tableWords (s.fld Reg.ptSel 26 24) ≤ s.fld Reg.ptSel 8 0) ∧
    bitsOf (0x80000401 : Word) 10 8 = 4 := by
  refine ⟨⟨canon_ok (by decide), by decide⟩, ⟨canon_ok (by decide), by decide⟩, ⟨canon_ok (by decide), by decide⟩, by decide⟩

/-- Ring 0 is valid with a period of 500 ps, which is the fused BASE. -/
def aged : State := withRegs dev [(Reg.ageRing 0, 0x800001F4)]

theorem test_witness_RingWindowsAndMarginReplan :
    (aged.Canonical ∧ 0 < 0xFFFF ∧ aged.flag Reg.fabCtrl 0 = true ∧ aged.fabric.refclk = true ∧ aged.domOn (rateRing (.lantern 0)).1 = true ∧
      (rateRing (.lantern 0)).1 ∉ aged.fabric.rateGap ∧ aged.ringRuns (some (rateRing (.lantern 0)).1) = true) ∧
    State.reset.ringRuns (some (rateRing (.lantern 0)).1) = false ∧ State.reset.domOn (rateRing (.lantern 0)).1 = false ∧
    ((∀ d, ageDom 0 = some d → aged.domOn d = true) ∧ 0 ∉ aged.fabric.ageGap ∧ aged.ringRuns (ageDom 0) = true ∧
      State.reset.ringRuns (ageDom 0) = false ∧ (withRegs aged [(Reg.fabCtrl, 0)]).flag Reg.fabCtrl 0 = false ∧ (∃ d, ageDom 0 = some d ∧ State.reset.domOn d = false)) ∧
    (aged.ozmel.ready = true ∧ aged.ozmel.handover = none ∧ aged.flag Reg.fabCtrl 0 = true ∧
      (∀ k < 48, bitOf (aged.ageWord k) 31 = true → aged.ringFaulty k = false) ∧
      bitsOf (aged.peek (Reg.ageBase 0)) 15 0 = 500 ∧ aged.fabric.ratedHist.length < 359 ∧
      ∃ w, (0, w) ∈ aged.normRings ∧ ∀ x ∈ aged.normRings, x ≠ (0, w) → x.2 < w) := by
  refine ⟨⟨canon_ok (by decide), by decide⟩, by decide, by decide, ⟨?_, by decide, by decide, by decide, by decide, ⟨0, by decide, by decide⟩⟩, by decide, by decide, by decide, by decide, by decide, by decide, ?_⟩
  · intro d h
    have e : d = 0 := by simpa [ageDom, lnDom] using h.symm
    subst e
    decide
  · have e : ((List.range 48).filter fun n => bitOf (aged.ageWord n) 31 && !aged.ringFaulty n) = [0] := by decide
    simp [State.normRings, e]

/-! ### Witnesses: remote memory operations -/

/-- Eight bytes from the Ingot to the Crucible. -/
def putReq : RmoReq := { a := 0x1000, b := 0x1000000, len := 8 }
/-- Sixteen bytes from the Crucible to the own Ingot. -/
def getReq : RmoReq := { a := 0x1000000, b := 0x2000, len := 16 }
/-- A word of the Ingot. -/
def wordReq : RmoReq := { a := 0x1008, b := 0, val := 3 }

theorem test_witness_RemoteTransfersCopyAndRefuse :
    (∃ x r, dev.rmoCall .put (.unit (.dispatcher 0) 1 putReq) = some x ∧ x.req = r ∧ dev.rmoMay x.issuer .put r.fence = true ∧
      dev.rmoCheck x.issuer x.part .put r x.det = .pass (ingotBase + 0x1000) crucibleBase ∧
      dev.rmoShade x .put r (ingotBase + 0x1000) crucibleBase = (dev, true) ∧ r.rows ≤ 1 ∧ dev.poison = [] ∧
      (∀ i < r.len, dev.accessStatus (ingotBase + 0x1000 + i) = .ok ∧ dev.accessStatus (crucibleBase + i) = .ok) ∧
      ingotBase + 0x1000 + r.len ≤ crucibleBase) ∧
    (∃ x r, dev.rmoCall .get (.unit (.lantern 0) 1 getReq) = some x ∧ x.req = r ∧ dev.rmoMay x.issuer .get r.fence = true ∧
      dev.rmoCheck x.issuer x.part .get r x.det = .pass crucibleBase (ingotBase + 0x2000) ∧
      dev.rmoShade x .get r crucibleBase (ingotBase + 0x2000) = (dev, true) ∧ r.toLocal = false ∧ r.rows ≤ 1 ∧
      (∀ i < r.len, dev.accessStatus (crucibleBase + i) = .ok ∧ dev.accessStatus (ingotBase + 0x2000 + i) = .ok) ∧
      ingotBase + 0x2000 + r.len ≤ crucibleBase) ∧
    (∃ x r, dev.rmoCall .get (.unit (.dispatcher 0) 1 { getReq with toLocal := true }) = some x ∧ x.req = r ∧ dev.rmoMay x.issuer .get r.fence = true ∧
      dev.rmoCheck x.issuer x.part .get r x.det = .pass crucibleBase 0x2000 ∧ dev.rmoShade x .get r crucibleBase 0x2000 = (dev, true) ∧
      r.toLocal = true ∧ r.rows ≤ 1 ∧ (∀ i < r.len, dev.accessStatus (crucibleBase + i) = .ok)) ∧
    (∃ x r, dev.rmoCall .put (.unit (.dispatcher 0) 1 { putReq with a := 4 }) = some x ∧ x.req = r ∧
      dev.rmoMay x.issuer .put r.fence = true ∧ dev.rmoCheck x.issuer x.part .put r x.det = .fail .align 4) ∧
    (∃ x r, dev.rmoCall .wait (.unit (.lantern 0) 1 { wordReq with a := 0x800000 }) = some x ∧ x.req = r ∧
      dev.rmoMay x.issuer .wait r.fence = true ∧ dev.rmoCheck x.issuer x.part .wait r x.det = .fail .bounds 0x800000) := by
  refine ⟨⟨_, _, rfl, rfl, by decide, by decide, rfl, by decide⟩, ⟨_, _, rfl, rfl, by decide, by decide, rfl, by decide⟩,
    ⟨_, _, rfl, rfl, by decide, by decide, rfl, by decide⟩, ⟨_, _, rfl, rfl, by decide, by decide⟩, ⟨_, _, rfl, rfl, by decide, by decide⟩⟩

/-- A 4-byte word at a multiple of 4, an 8-byte word, and a compare that meets its word and one that does not. -/
theorem test_witness_RemoteWordOperations :
    (∃ x r, dev.rmoCall .add32 (.unit (.lantern 0) 1 { wordReq with a := 0x1004 }) = some x ∧ x.req = r ∧
      dev.rmoMay x.issuer .add32 r.fence = true ∧ dev.rmoCheck x.issuer x.part .add32 r x.det = .pass (ingotBase + 0x1004) 0 ∧
      dev.rmoShade x .add32 r (ingotBase + 0x1004) 0 = (dev, true) ∧ r.ret = false ∧ dev.poison = [] ∧
      dev.accessStatus (ingotBase + 0x1004) = .ok) ∧
    (∀ k ∈ [RmoKind.addf32, .swap64, .cas64, .signal], dev.rmoMay (.lantern 0) k false = true ∧
      dev.rmoCheck (.lantern 0) 1 k wordReq false = .pass (ingotBase + 0x1008) 0) ∧
    (∃ x, dev.rmoCall .signal (.unit (.lantern 0) 1 wordReq) = some x ∧ x.req = wordReq ∧
      dev.rmoShade x .signal wordReq (ingotBase + 0x1008) 0 = (dev, true)) ∧
    (dev.readNat (ingotBase + 0x1008) 8 = (0 : Dword).toNat ∧ dev.readNat (ingotBase + 0x1008) 8 ≠ (1 : Dword).toNat) ∧
    (∃ x r, dev.rmoCall .fence (.unit (.lantern 0) 1 wordReq) = some x ∧ x.req = r ∧ dev.rmoMay x.issuer .fence r.fence = true ∧
      dev.rmoShade x .fence r 0 0 = (dev, true)) := by
  refine ⟨⟨_, _, rfl, rfl, by decide, by decide, rfl, by decide⟩, by decide, ⟨_, rfl, rfl, rfl⟩, by decide, ⟨_, _, rfl, rfl, by decide, rfl⟩⟩

/-- An operation that has been performed, of a descriptor or of none. -/
def rmoDone (k : RmoKind) (d : Option (LnIx × QIx × Nat)) : Rmo where
  id := 3
  issuer := .lantern 0
  part := 1
  kind := k
  req := { wordReq with ret := true }
  da := ingotBase + 0x1008
  db := ingotBase + 0x2000
  done := true
  status := .ok
  old := 0
  entry := false
  desc := d
  detail := 0

theorem test_witness_RemoteWaitsAndCompletion :
    (∃ x r, dev.rmoCall .wait (.unit (.lantern 0) 1 wordReq) = some x ∧ x.req = r ∧ dev.rmoMay x.issuer .wait r.fence = true ∧
      dev.rmoCheck x.issuer x.part .wait r x.det = .pass (ingotBase + 0x1008) 0 ∧
      dev.rmoShade x .wait r (ingotBase + 0x1008) 0 = (dev, true) ∧ dev.poison = [] ∧ dev.accessStatus (ingotBase + 0x1008) = .ok) ∧
    (dev.accessStatus (rmoDone .wait none).da = .ok ∧ dev.poisoned (rmoDone .wait none).da 8 = false ∧
      ({ dev with poison := [(rmoDone .wait none).da / 8] } : State).poisoned (rmoDone .wait none).da 8 = true ∧
      (withRegs dev [(Reg.pdState 0, 0), (Reg.pdState 1, 0)]).accessStatus (rmoDone .wait none).da = .isolated) ∧
    (let r : Rmo := { rmoDone .wait none with done := false, entry := true }
     let s : State := { dev with rmos := [r] }
     s.rmos.filter (fun r => r.kind == .wait && !r.done && r.entry && decide (r.da < r.da / 8 * 8 + 8)) = [r] ∧
      s.accessStatus r.da = .ok ∧ s.poisoned r.da 8 = false) ∧
    (let first : Rmo := { rmoDone .wait none with id := 2, entry := true }
     let r : Rmo := { rmoDone .wait none with entry := true }
     let s : State := { dev with rmos := [first, r] }
     s.waitTurn first = true ∧ s.waitTurn r = false ∧ r.id = 3) ∧
    (let s : State := { dev with rmos := [rmoDone .wait none] }
     (s.rmos.find? fun r => r.id == 3 && r.done && s.waitTurn r) = some (rmoDone .wait none) ∧ (rmoDone .wait none).desc = none) ∧
    (let r := rmoDone .cas64 (some (0, 0, 4))
     let s : State := { withCtx dev (ctxOf [desc 0x10 []]) with rmos := [r] }
     (s.rmos.find? fun r => r.id == 3 && r.done && s.waitTurn r) = some r ∧ s.syncEntry r = false) ∧
    (let r := rmoDone .wait (some (0, 0, 4))
     let s : State := { withCtx dev (ctxOf [desc 0x23 []]) with rmos := [r] }
     (s.rmos.find? fun r => r.id == 3 && r.done && s.waitTurn r) = some r ∧ s.syncEntry r = true) := by
  refine ⟨⟨_, _, rfl, rfl, by decide, by decide, rfl, by decide⟩, by decide, by decide, by decide, by decide, by decide, by decide⟩

/-! ### Witnesses: arrays, sequencers and compute descriptors -/

/-- An INT32 MMA of one row, one position and 128 elements of 8 bits: one block, one tile, two passes. -/
def mmaDesc : Desc :=
  { desc 0x20 [(9, 1, 0x88), (12, 2, 1), (16, 4, 128), (20, 4, 1), (36, 4, 128)] with
    out := some ⟨bytesOf 96 [(0, 1, 9), (8, 1, 0xB0)], refs⟩, started := true }

/-- Two positions, each an L2 block of its own. -/
def mmaDesc2 : Desc :=
  { mmaDesc with cap := ⟨bytesOf 128 [(0, 1, 0x20), (9, 1, 0x88), (12, 2, 1), (16, 4, 128), (20, 4, 2), (36, 4, 128), (100, 4, 1)], refs⟩ }

/-- The same with KSPLIT. -/
def mmaSplitDesc : Desc :=
  { mmaDesc2 with cap := ⟨bytesOf 128 [(0, 1, 0x20), (9, 1, 0xC8), (12, 2, 1), (16, 4, 128), (20, 4, 2), (36, 4, 128), (100, 4, 1)], refs⟩ }

/-- The weight buffer of its first or of its second pass. -/
def wbuf (kg : Nat) : WBuf := ⟨[List.replicate 64 0], [], [0], [0], 0, 0, 1, kg, decide (kg = 0), decide (kg = 1)⟩

/-- Lantern 0 with the MMA issued, and array A as given. -/
def arrSt (d : Desc) (x : Arr) : State := (withCtx dev (ctxOf [d])).updArr 0 0 fun _ => x

/-- An array in the middle of the tile, and one whose first pass is over. -/
def arrMid (kg steps : Nat) : Arr :=
  { Arr.reset with front := some (wbuf kg), steps := steps, cur := some ⟨0, 0, 1, [], false⟩, i32 := true, job := some (0, 4) }

/-- An array with a complete tile. -/
def arrFull : Arr := { Arr.reset with half := some ⟨0, 0, 1, [(0, 5, false)], true⟩ }

/-- The one unit of the MMA. -/
def mmaUnit : MmaUnit := ⟨[(0, 0)], 0, 128, none⟩

/-- A tile can leave: its codes and sums are put out without an error, and the descriptor goes on. -/
def drains (v : State) (d : Desc) (as : List Acc32) : Bool :=
  let m := v.tileDrain 0 0 1 d mmaUnit (tileAt d.cap mmaUnit 0) as
  let w := m.s.updDesc 0 0 4 fun y => { y with
    drained := y.drained ++ [0], codes := y.codes ++ m.codes, sums := y.sums.filter fun x => x.1 != 0
    runs := (y.runs ++ (v.tileArrays 0 d 0).filter fun a => !y.runs.contains a).filter fun a =>
      v.arrLeft 0 { y with drained := y.drained ++ [0] } mmaUnit a }
  let r := if (tilesOpen d mmaUnit).all fun j => j == 0 then w.unitAfter 0 0 1 d mmaUnit (d.codes ++ m.codes) else w
  m.err == none && (match r.descNow 0 0 4 with | some e => e.done == none && e.sync.isNone | none => false)

/-- A step of the middle pass, on one array and on both; a switch to the first pass of the tile and to its last; a drain of one array and of
both. -/
theorem test_witness_ArraysStepSwitchAndDrain :
    (let s := arrSt mmaDesc (arrMid 1 0)
     s.Canonical ∧ s.stepDue 0 0 = some (0, mmaDesc, wbuf 1, ⟨0, 0, 1, [], false⟩) ∧ mmaUnitOf mmaDesc = some mmaUnit ∧
      (match mmaSrc mmaDesc (tileAt mmaDesc.cap mmaUnit 0) with | .ok x => (s.mmaActGroup 1 mmaDesc x 0 1).toOption.isSome | .error _ => false) = true ∧
      (arrSt mmaDesc Arr.reset).stepDue 0 0 = none ∧ (s.updArr 0 1 fun _ => arrMid 1 0).stepDue 0 0 ≠ none ∧
      (s.updArr 0 1 fun _ => arrMid 1 0).stepDue 0 1 ≠ none) ∧
    (Ordered ([] : Tab (Word × Bool)) ∧ 0 < (wbuf 1).hi.length) ∧
    (let s := arrSt mmaDesc Arr.reset
     s.arrJob 0 0 = some (0, mmaDesc) ∧ mmaDesc.done = none ∧ mmaDesc.started = true ∧ s.descNow 0 0 4 = some mmaDesc ∧
      s.arrOnFor 0 mmaDesc 0 = true ∧ (s.arr 0 0).spent (mmaP mmaDesc.cap) = true ∧ s.nextPasses 0 0 mmaDesc mmaUnit = [(0, 0, 0), (0, 0, 1)] ∧
      (s.arr 0 0).has 0 = false ∧ s.tileReady 0 0 1 mmaDesc mmaUnit 0 = (s, some mmaDesc) ∧ (s.arr 0 0).makeRoom false = some (s.arr 0 0) ∧
      (match s.tileStart 1 0 mmaDesc mmaUnit (s.mmaSplit 0 mmaDesc) 0 0 with | .ok (some _) => true | _ => false) = true ∧
      (∃ f, s.passBuf 0 1 mmaDesc mmaUnit 0 (0, 0, 0) = .ok f ∧
        (f.1.first && (match (((s.updDesc 0 0 4 fun y => { y with runs := [0] }).holdPass 0 1 mmaDesc 0 f.2.1 f.1).updArr 0 0 fun y =>
          { y with books := some f.2 }).passBuf 0 1 { mmaDesc with runs := [0] } mmaUnit 0 (0, 0, 1) with | .ok _ => true | .error _ => false)) = true)) ∧
    (let s := arrSt mmaDesc (arrMid 0 (mmaP mmaDesc.cap))
     s.arrJob 0 0 = some (0, mmaDesc) ∧ (s.arr 0 0).spent (mmaP mmaDesc.cap) = true ∧ s.nextPasses 0 0 mmaDesc mmaUnit = [(0, 0, 1)] ∧
      (s.arr 0 0).has 0 = true ∧ ∃ f, s.passBuf 0 1 mmaDesc mmaUnit 0 (0, 0, 1) = .ok f ∧ (!f.1.first) = true) ∧
    ((arrSt mmaDesc (arrMid 1 0)).arr 0 0).spent (mmaP mmaDesc.cap) = false ∧
    (let s := arrSt mmaDesc2 arrFull
     s.arrJob 0 0 = some (0, mmaDesc2) ∧ mmaUnitOf mmaDesc2 = some mmaUnit ∧ (s.arr 0 0).drainable = some ⟨0, 0, 1, [(0, 5, false)], true⟩ ∧
      (unitSpans mmaDesc2.cap mmaUnit).length = 1 ∧ keepEnd mmaDesc2.cap mmaUnit ≤ mmaUnit.k0 ∧ s.mmaSplit 0 mmaDesc2 = false ∧
      drains (s.updArr 0 0 (Arr.dropTile 0 0)) mmaDesc2 (tileAccList (tileAt mmaDesc2.cap mmaUnit 0) ⟨0, 0, 1, [(0, 5, false)], true⟩) = true) ∧
    (let s := (arrSt mmaSplitDesc arrFull).updArr 0 1 fun _ => arrFull
     let x : Tile := ⟨0, 0, 1, [(0, 5, false)], true⟩
     let l := tileAccList (tileAt mmaSplitDesc.cap mmaUnit 0) x
     let g := spanGroups mmaSplitDesc.cap true 1 (0, 128)
     mmaUnitOf mmaSplitDesc = some mmaUnit ∧ s.mmaSplit 0 mmaSplitDesc = true ∧ g.1 < g.2 ∧ unitSpans mmaSplitDesc.cap mmaUnit = [(0, 128)] ∧
      keepEnd mmaSplitDesc.cap mmaUnit ≤ mmaUnit.k0 ∧ (s.arr 0 0).drainable = some x ∧ (s.arr 0 1).drainable = some x ∧
      drains ((s.updArr 0 0 (Arr.dropTile 0 0)).updArr 0 1 (Arr.dropTile 0 0)) mmaSplitDesc
        ((l.zip l).map fun o => accSum (mmaI32 mmaSplitDesc.cap) o.1 o.2) = true) := by
  refine ⟨⟨canon_ok (by decide), by decide, by decide, by decide, by decide, by decide, by decide⟩, by decide,
    ⟨by decide, by decide, by decide, by decide, by decide, by decide, by decide, by decide, rfl, by decide, by decide, ok_of (by decide)⟩,
    ⟨by decide, by decide, by decide, by decide, ok_of (by decide)⟩, by decide, by decide, by decide⟩

theorem test_witness_IntegerAccumulationIsExact :
    mmaI32 mmaDesc.cap = true ∧ mmaDesc.cap.fld 104 4 % mmaGrp mmaDesc.cap = 0 ∧ 1 ≤ mmaK mmaDesc.cap ∧
    ((List.replicate 2 (⟨[], [], 0⟩ : Group)).zip (List.replicate 2 (⟨[], [], 0⟩ : Group))).length = ceilDiv (mmaK mmaDesc.cap) (mmaGrp mmaDesc.cap) := by
  decide

/-- A context about to issue the descriptor whose bytes are fetched. -/
def issuing (bs : List Byte) (c : SeqCtx) : State := withCtx dev { c with pc := 0x1000, fetched := bs }

/-- A NOP descriptor, and a VU descriptor of one element that passes it through. -/
def nopBytes : List Byte := bytesOf 32 [(1, 1, 0x11)]
def vuBytes : List Byte := bytesOf 64 [(0, 1, 0x23), (1, 1, 0x12), (8, 1, 10), (9, 1, 0xA0), (12, 2, 1), (14, 2, 1), (16, 2, 1), (40, 8, 0x2800)]
def outCap : Cap := ⟨bytesOf 96 [(0, 1, 9), (8, 1, 0xA0)], refs⟩

/-- A line that ends where the quota begins, and one that begins there; a header that is right, and one of another version; a fresh and a
stale epoch; compute descriptors with and without an OUT state; a status of each sort. -/
theorem test_witness_DescriptorsFetchIssueComplete :
    (let s := issuing [] (ctxOf [])
     s.Canonical ∧ (s.ctx 0 0).live = true ∧ s.seqOn 0 = true ∧ s.quotaFor 1 0 = some (0, ingotBase, 0x400000) ∧
      (s.ctx 0 0).fetched.length < (s.ctx 0 0).needs ∧ ∃ l, s.rd 1 0x1000 512 = .ok l ∧ decide (l.length = 512) = true) ∧
    (let s := issuing [] { ctxOf [] with bases := [0x2000] }
     (s.ctx 0 0).live = true ∧ 0x1000 < listAt 0 (s.ctx 0 0).bases 0 ∧ (s.ctx 0 0).fetched.length < (s.ctx 0 0).needs) ∧
    (let s := issuing nopBytes (ctxOf [])
     s.Canonical ∧ (s.ctx 0 0).live = true ∧ (s.ctx 0 0).needs ≤ nopBytes.length ∧ headerStatus nopBytes = none ∧
      s.issueHeld 0 0 0 ⟨nopBytes, []⟩ = false ∧ s.epcStale 0 nopBytes = false ∧ isCompute 0 = false) ∧
    headerStatus (bytesOf 32 [(1, 1, 0x21)]) = some .badVersion ∧
    (issuing nopBytes (ctxOf [desc 0 []])).issueHeld 0 0 0 ⟨nopBytes, []⟩ = true ∧
    dev.epcStale 0 (bytesOf 32 [(1, 1, 0x11), (2, 1, 0x20), (4, 1, 0x77)]) = true ∧
    (let s := issuing vuBytes { ctxOf [] with out := some outCap }
     (s.ctx 0 0).live = true ∧ (s.ctx 0 0).cmd = some 7 ∧ (s.ctx 0 0).needs ≤ vuBytes.length ∧ headerStatus vuBytes = none ∧
      s.issueHeld 0 0 0x23 ⟨vuBytes, []⟩ = false ∧ s.epcStale 0 vuBytes = false ∧ (s.seqReadyFor 0 0x23).length < 2 ∧ isCompute 0x23 = true ∧
      s.computeCheck 0 0 false ⟨0, 0⟩ 0x23 ((s.ctx 0 0).capture vuBytes) (some outCap) none = none ∧
      usesTables 0x23 ((s.ctx 0 0).capture vuBytes) outCap = [] ∧
      s.computeCheck 0 0 false ⟨0, 0⟩ 0x23 ((s.ctx 0 0).capture vuBytes) none none = some .badOpcode) ∧
    (let d := { desc 0 [] with done := some .ok }
     (withCtx dev (ctxOf [d])).descNow 0 0 4 = some d ∧ Status.ok.success = true ∧ Status.bounds.success = false) := by
  refine ⟨⟨canon_ok (by decide), by decide, by decide, by decide, by decide, ok_of (by decide)⟩, by decide, ⟨canon_ok (by decide), by decide⟩,
    by decide, by decide, by decide, by decide, by decide⟩

/-- A CTRL descriptor of an operation with a count of 1. -/
def ctrlDesc (op : Nat) : Desc := desc 1 [(8, 1, op), (12, 4, 1)]

/-- A loop whose count is reached, and one whose count is not. -/
theorem test_witness_SequencerDescriptorsAct :
    (∀ ty ∈ [0x00, 0x09, 0x0A], (withCtx dev (ctxOf [desc ty []])).findDesc 0 0 ty = some (desc ty [])) ∧
    (∀ op ∈ [0, 1, 2, 3], ((withCtx dev (ctxOf [ctrlDesc op])).ctx 0 0).issued.find?
      (fun d => d.ty == 1 && d.done.isNone && d.cap.fld 8 1 == op) = some (ctrlDesc op)) ∧
    (withCtx dev { ctxOf [ctrlDesc 2] with err := some ⟨.bounds, 0, 0⟩ }).Canonical ∧
    ((withCtx dev { ctxOf [ctrlDesc 2] with err := some ⟨.bounds, 0, 0⟩ }).ctx 0 0).err.isSome = true ∧
    ((withCtx dev (ctxOf [ctrlDesc 2])).ctx 0 0).err = none ∧
    (ctrlDesc 3).cap.fld 12 4 ≤ (listAt 0 (ctxOf []).lcs ((ctrlDesc 3).cap.bits 9 1 0) + 1) % 2 ^ 32 ∧
    (listAt 0 (ctxOf []).lcs 0 + 1) % 2 ^ 32 < (desc 1 [(8, 1, 3), (12, 4, 2)]).cap.fld 12 4 := by
  refine ⟨by decide, by decide, canon_ok (by decide), by decide⟩

/-- A LOAD of VU table 0 (what = 0), of the Taper weights (1) and of the output codebooks (2), and a STAT of an operation. -/
def loadDesc (what : Nat) : Desc := desc 8 [(2, 1, 0x10), (8, 1, 16 * what), (12, 4, 8)]
def statDesc (op : Nat) : Desc := desc 2 [(8, 1, op), (12, 4, 1)]
/-- A VU descriptor whose OUT state applies table 0. -/
def tableUser : Desc := { desc 0x23 [] with out := some ⟨bytesOf 96 [(71, 1, 0x10)], refs⟩ }

theorem test_witness_TablesAndClipCounters :
    (∀ w ∈ [0, 1, 2], ((withCtx dev (ctxOf [loadDesc w])).ctx 0 0).issued.find?
      (fun d => d.ty == 8 && d.done.isNone && d.cap.bits 8 7 4 == w) = some (loadDesc w)) ∧
    (let s := withCtx dev (ctxOf [loadDesc 0])
     s.tableBusy 0 0 = false ∧ (loadDesc 0).cap.ref 16 = some 0x1000 ∧ s.inOwnIngot 0 1 0x1000 8 = true ∧ s.inOwnIngot 0 1 0x1000000 8 = false ∧
      (s.heldAt 0 0).owner ≠ some (s.ownMark 0 1) ∧ ∃ l, s.rd 1 0x1000 8 = .ok l ∧ decide (l.length = 8) = true) ∧
    (let s := (withCtx dev (ctxOf [loadDesc 0])).setHeld 0 0 ⟨some (dev.ownMark 0 1), 0, 0, [1]⟩
     (loadDesc 0).reuse = true ∧ (s.heldAt 0 0).owner = some (s.ownMark 0 1) ∧ (s.heldAt 0 0).rtag = BitVec.ofNat 32 ((loadDesc 0).cap.fld 24 4)) ∧
    (withCtx dev (ctxOf [loadDesc 0, tableUser])).tableBusy 0 0 = true ∧
    (∀ op ∈ [0, 1, 2], ((withCtx dev (ctxOf [statDesc op])).ctx 0 0).issued.find?
      (fun d => d.ty == 2 && d.done.isNone && d.cap.fld 8 1 == op) = some (statDesc op)) ∧
    (let s := withCtx dev (ctxOf [statDesc 0])
     (statDesc 0).cap.ref 16 = some 0x1000 ∧ (statDesc 0).cap.ref 24 = some 0x1000000 ∧ 0x1000 % 8 = 0 ∧ 0x1000000 % 8 = 0 ∧
      (s.ctx 0 0).part = 1 ∧ ∃ l, s.rd 1 0x1000 8 = .ok l ∧ (s.wr 1 0x1000000 (leBytes 8 (crc64 l))).toOption.isSome = true) ∧
    dev.PfReaches (Reg.lnQsel 0) ∧ bitOf (0x80000000 : Word) 31 = true ∧ bitOf (0x3F : Word) 31 = false := by
  refine ⟨by decide, ⟨by decide, by decide, by decide, by decide, by decide, ok_of (by decide)⟩, by decide, by decide, by decide,
    ⟨by decide, by decide, by decide, by decide, by decide, ok_of (by decide)⟩, by decide⟩

/-- Rows out of a job of one row, by evaluation. -/
def rowOk (j : RowJob) (s : State) : Bool :=
  match j.row s 0 with
  | .ok es => decide ((emitElems j.env es s).err = none)
  | .error _ => false

theorem rowsOut_one {n q seq : Nat} {j : RowJob} {s : State} (hr : j.rows = 1) (h : rowOk j s = true) : ∃ t, RowsOut n q seq j s j.rows t := by
  rw [hr]
  unfold rowOk at h
  split at h
  · next es he => exact ⟨_, s, es, rfl, he, of_decide_eq_true h, rfl⟩
  · cases h

/-- The state after the one row of a job, by evaluation. -/
def rowNext (n q seq : Nat) (j : RowJob) (s : State) : State :=
  match j.row s 0 with
  | .ok es => (emitElems j.env es s).s.updDesc n q seq fun d => { d with prog := d.prog + 1, codes := d.codes ++ (emitElems j.env es s).codes }
  | .error _ => s

theorem rowsOut_next {n q seq : Nat} {j : RowJob} {s : State} (hr : j.rows = 1) (h : rowOk j s = true) :
    RowsOut n q seq j s j.rows (rowNext n q seq j s) := by
  rw [hr]
  unfold rowOk at h
  split at h
  · next es he => exact ⟨s, es, rfl, he, of_decide_eq_true h, by simp only [rowNext, he]⟩
  · cases h

/-- A SPILL of one element in INT32, a TAPER of one element, and a VU operation on one element. -/
def spillDesc : Desc :=
  { desc 0x21 [(9, 1, 0xA1), (12, 2, 1), (16, 4, 64), (20, 4, 64)] with out := some ⟨bytesOf 96 [(0, 1, 9), (8, 1, 0xB0)], refs⟩ }
def taperDesc : Desc :=
  { desc 0x22 [(8, 1, 0x40), (12, 2, 1), (14, 2, 1), (16, 2, 1), (18, 2, 1)] with out := some ⟨bytesOf 96 [(0, 1, 9), (8, 1, 0xB0)], refs⟩ }
def vuDesc (op : Nat) : Desc :=
  { desc 0x23 [(8, 1, op), (9, 1, 0xA0), (12, 2, 1), (14, 2, 1), (16, 2, 1), (22, 2, 1), (24, 2, 1), (28, 4, 4), (32, 4, 4)] with out := some outCap }

/-- An element passed through, with a digest. -/
def digDesc : Desc := { desc 0x23 [(2, 1, 8), (8, 1, 10), (9, 1, 0xA0), (12, 2, 1), (14, 2, 1), (16, 2, 1)] with out := some outCap }

def spJob (d : Desc) : RowJob := ⟨1, ⟨1, 1, 1, 0, 1⟩, rowEnv 0 0 1 d (spI32 d.cap) (spN d.cap) (spM d.cap) (spN d.cap), fun s _ => s.spElems 0 1 d.cap⟩
def tpJob (d : Desc) : RowJob :=
  ⟨tpOh d.cap, ⟨tpHin d.cap, tpSh d.cap, tpKh d.cap, tpPt d.cap, tpOh d.cap⟩,
    rowEnv 0 0 1 d (tpI32 d.cap) (tpOw d.cap) (tpCout d.cap) (tpOh d.cap * tpOw d.cap), fun s y => s.tpRow 0 1 d y⟩
def vuJob (d : Desc) : RowJob :=
  ⟨vuOh d.cap, vuGeo d.cap, rowEnv 0 0 1 d false (vuOw d.cap) (vuC d.cap) (vuOh d.cap * vuOw d.cap), fun s y => s.vuRow 0 1 d y⟩

/-- A state that runs one descriptor. -/
def running (d : Desc) : State := withCtx dev (ctxOf [d])

theorem test_witness_ComputeRowsLeaveInOrder :
    ((running spillDesc).Canonical ∧ (running spillDesc).findDesc 0 0 0x21 = some spillDesc ∧ (running spillDesc).descNow 0 0 4 = some spillDesc ∧
      ∃ s1, ((running spillDesc).descBegin 0 0 spillDesc).spLoad 0 1 spillDesc = .ok s1 ∧ rowOk (spJob spillDesc) s1 = true) ∧
    ((running taperDesc).Canonical ∧ (running taperDesc).findDesc 0 0 0x22 = some taperDesc ∧
      ∃ t, RowsOut 0 0 4 (tpJob taperDesc) ((running taperDesc).descBegin 0 0 taperDesc) (tpJob taperDesc).rows t) ∧
    (∀ op ∈ [1, 2, 3, 4, 5, 6, 7, 8, 9, 10], let d := vuDesc op
      (running d).Canonical ∧ (running d).findDesc 0 0 0x23 = some d ∧ d.dig = false ∧
      ∃ t, RowsOut 0 0 4 (vuJob d) ((running d).descBegin 0 0 d) (vuJob d).rows t) ∧
    (digDesc.dig = true ∧ let t := rowNext 0 0 4 (vuJob digDesc) ((running digDesc).descBegin 0 0 digDesc)
      RowsOut 0 0 4 (vuJob digDesc) ((running digDesc).descBegin 0 0 digDesc) (vuJob digDesc).rows t ∧
      ∃ d', t.descNow 0 0 4 = some d' ∧
        (t.digWrite 1 (vuJob digDesc).env.out 0 (blockDigest (outCode (vuJob digDesc).env.out) d'.codes)).toOption.isSome = true) := by
  refine ⟨⟨canon_ok (by decide), by decide, by decide, ok_of (by decide)⟩, ⟨canon_ok (by decide), by decide, rowsOut_one (by decide) (by decide)⟩, ?_,
    by decide, rowsOut_next (by decide) (by decide), _, rfl, by decide⟩
  intro op h
  have hc : ∀ op ∈ [1, 2, 3, 4, 5, 6, 7, 8, 9, 10], canon (running (vuDesc op)) = true ∧ (running (vuDesc op)).findDesc 0 0 0x23 = some (vuDesc op) ∧
    (vuDesc op).dig = false ∧ (vuJob (vuDesc op)).rows = 1 ∧ rowOk (vuJob (vuDesc op)) ((running (vuDesc op)).descBegin 0 0 (vuDesc op)) = true := by decide
  obtain ⟨h1, h2, h3, h4, h5⟩ := hc op h
  exact ⟨canon_ok h1, h2, h3, rowsOut_one h4 h5⟩
/-! ### Witnesses: gangs, models and streams -/

/-- Gang entry 1 of partition 1 is Lantern 0. -/
def gangDev : State := withTab dev (words ++ [(tabKey 2 8, 0x00800001)])

def runCmd (op : Nat) (e : Nat) : Cmd :=
  cmd op (if op = 0x30 then bytesOf 56 [(0, 1, e), (4, 4, 0x1000)] else bytesOf 112 [(0, 1, 2), (56, 1, e), (58, 4, 0x1000)])

/-- Another command runs on context 0 of Lantern 0. -/
def busyDev : State := gangDev.updCtx 0 0 fun _ => { ctxOf [] with cmd := some 8 }

/-- A chain of no stage and one of five; a gang without members; a free member and a busy one. -/
theorem test_witness_RunsStartOnGangs :
    (∀ k ∈ [0, 5], (withCmd gangDev (cmd 0x31 (bytesOf 112 [(0, 1, k)]))).Issued (cmd 0x31 (bytesOf 112 [(0, 1, k)])) 0x31 ∧
      ((cmd 0x31 (bytesOf 112 [(0, 1, k)])).stages = 0 ∨ 4 < (cmd 0x31 (bytesOf 112 [(0, 1, k)])).stages)) ∧
    (∀ op ∈ [0x30, 0x31],
      (let c := runCmd op 0
       let s := withCmd gangDev c
       s.Issued c op ∧ gangKind (gangEntry (s.part 1).active c.stageGang) ≠ 3 ∧ (1 ≤ c.stages ∧ c.stages ≤ 4) ∧ c.members = [] ∧
        s.gangCheck 1 c.stageGang (gangMembers (s.part 1).active c.stageGang) = .error .bounds) ∧
      (let c := runCmd op 1
       let s := withCmd gangDev c
       s.Issued c op ∧ gangKind (gangEntry (s.part 1).active 1) ≠ 3 ∧ (1 ≤ c.stages ∧ c.stages ≤ 4) ∧ c.stageGang = 1 ∧
        gangMembers (s.part 1).active 1 = [0] ∧ s.gangCheck 1 1 [0] = .ok [0] ∧ s.runCtx 1 0 = some (0, ingotBase) ∧
        s.pdaOf 1 ingotBase = some 0 ∧ (s.ctx 0 0).cmd = none ∧ ((withCmd busyDev c).ctx 0 0).cmd = some 8 ∧
        (withCmd busyDev c).Issued c op ∧ (withCmd busyDev c).runCtx 1 0 = some (0, ingotBase))) := by
  decide

/-- An image of one section: 8 bytes to offset 0 of the member's Ingot. -/
def imageDev (c : Cmd) : State :=
  withCmd (withMem gangDev [(ingotBase + 0x8000, bytesOf 96 [(0, 2, 0x4D49), (2, 1, 1), (4, 2, 1), (36, 4, 8), (40, 8, 64)])]) c

def loadCmd (e sw : Nat) : Cmd := cmd 0x40 (bytesOf 56 [(0, 8, 0x8000), (8, 1, e), (9, 1, sw), (10, 2, 3)])
def evictCmd (e : Nat) : Cmd := cmd 0x41 (bytesOf 56 [(0, 1, e), (2, 2, 3)])

/-- A result that answers a value, and what is true of it. -/
def isOk {ε α : Type} (r : Except ε α) (P : α → Bool) : Bool := match r with | .ok x => P x | .error _ => false

theorem shade_free {s : State} {p : Nat} (h : (s.part p).shades = List.replicate 7 Shade.reset) (path : Nat) : (s.shade p path).rate = 0 := by
  have e : ∀ l : List Shade, (∀ x ∈ l, x.rate = 0) → (listAt Shade.reset l path).rate = 0 := by
    intro l hl
    unfold listAt
    rw [List.getD_eq_getElem?_getD]
    cases hp : l[path]? with
    | none => rfl
    | some x => exact hl x (List.mem_of_getElem? hp)
  refine e _ ?_
  rw [h]
  decide

def tag9 : ResTag := ⟨9, [], [(ingotBase, 8)], [], false⟩

/-- A resident model of another number holds gang entry 1. -/
def heldModel (c : Cmd) : State :=
  (imageDev c).updResidency 1 1 fun r => { r with resident := some tag9 }

theorem test_witness_ModelsLoadAndEvict :
    ((imageDev (loadCmd 0 0)).Issued (loadCmd 0 0) 0x40 ∧ gangMembers ((imageDev (loadCmd 0 0)).part 1).active 0 = []) ∧
    (∀ path, ((imageDev (loadCmd 1 0)).shade 1 path).rate = 0 ∧ ((imageDev (loadCmd 1 1)).shade 1 path).rate = 0) ∧
    (∀ sw ∈ [0, 1], let c := loadCmd 1 sw
      let s := imageDev c
      let xs := (s.planImage (s.part 1).active [0] 0x8000 (sw == 1)).1
      s.Issued c 0x40 ∧ gangMembers (s.part 1).active 1 = [0] ∧ (s.planImage (s.part 1).active [0] 0x8000 (sw == 1)).2 = (.ok, none) ∧
      s.residentBlocked 1 1 3 [0] = false ∧ s.swappedBlocked xs = false ∧ (s.placeSections xs).2 = (1, .ok) ∧ (heldModel c).Issued c 0x40 ∧
      (heldModel c).residentBlocked 1 1 3 [0] = true ∧ (heldModel c).swappedBlocked xs = true ∧
      (heldModel c).planImage ((heldModel c).part 1).active [0] 0x8000 (sw == 1) = (xs, .ok, none)) ∧
    (∀ sw ∈ [0, 1], let c := loadCmd 1 sw
      let s := withCmd gangDev c
      let x := s.planImage (s.part 1).active [0] 0x8000 (sw == 1)
      s.Issued c 0x40 ∧ gangMembers (s.part 1).active 1 = [0] ∧ x.2.1 ≠ .ok ∧ s.residentBlocked 1 1 3 [0] = false ∧ s.swappedBlocked x.1 = false ∧
        ((s.noteFault 0x06 1 x.2).placeSections x.1).2.2 = .ok) ∧
    ((imageDev (evictCmd 0)).Issued (evictCmd 0) 0x41 ∧ (imageDev (evictCmd 1)).Issued (evictCmd 1) 0x41 ∧ (imageDev (evictCmd 1)).gangRuns 1 1 = [] ∧
      let s := { imageDev (evictCmd 1) with cmds := [evictCmd 1, { cmd 0x30 [] with id := 8, phase := .active, gang := 1 }] }
      s.Issued (evictCmd 1) 0x41 ∧ s.gangRuns 1 1 ≠ []) := by
  refine ⟨by decide, fun path => ⟨shade_free (by decide) path, shade_free (by decide) path⟩, by decide +kernel, by decide +kernel, by decide⟩

/-- The state after the one tile of mmaDesc. -/
def tileNext (s : State) : State := (s.tileReady 0 0 1 mmaDesc mmaUnit 0).1.tileDo 0 0 1 mmaDesc mmaUnit 0

theorem tilesOut_one : TilesOut 0 0 1 4 1 (running mmaDesc) (tileNext (running mmaDesc)) :=
  ⟨mmaDesc, mmaUnit, 0, [], _, mmaDesc, rfl, rfl, rfl, by decide, by decide, Prod.ext rfl (by decide), rfl⟩

/-- Dispatches with counter 9 and no ticket held, and with K tickets of which ticket 0 was taken. -/
def dispDesc : Desc :=
  { desc 0x20 [(9, 1, 0x88), (12, 2, 1), (16, 4, 128), (20, 4, 1), (36, 4, 128), (96, 1, 2)] with
    out := some ⟨bytesOf 96 [(0, 1, 9), (8, 1, 0xB0)], refs⟩, started := true, counter := some 9 }
def kDispDesc : Desc :=
  { desc 0x20 [(9, 1, 0x88), (12, 2, 1), (16, 4, 128), (20, 4, 1), (36, 4, 128), (96, 1, 0x82)] with
    out := some ⟨bytesOf 96 [(0, 1, 9), (8, 1, 0xB0)], refs⟩, started := true, counter := some 9, tookZero := true }

/-- Command 7 runs on Lantern 0 with a dispatch counter. -/
def counted (d : Desc) (next total : Nat) (again fin : List Nat) : State :=
  { running d with cmds := [{ cmd 0x30 [] with phase := .active, members := [0] }], counters := [⟨9, 7, 0, 0, total, next, again, fin, 0⟩] }

/-- The state after the one block of a reduction, whose counter has one ticket. -/
def blockNext (s : State) : State :=
  (s.syncGate 0 0 kDispDesc 1 (mmaGeo kDispDesc.cap) true (tileLastRow kDispDesc.cap (blockBox kDispDesc.cap 0))).1.reduceBlock 0 0 1 kDispDesc 0x5000 1 0

theorem blocksOut_one : BlocksOut 0 0 1 4 0x5000 1 1 (counted kDispDesc 1 1 [] [0]) (blockNext (counted kDispDesc 1 1 [] [0])) :=
  ⟨kDispDesc, 0, [], _, rfl, rfl, by decide, Prod.ext rfl (by decide), rfl⟩

/-- An MMA of one tile; dispatches that wait for a ticket, for their reduction, and that are over; an MMA without an array; a counter with a
re-issued ticket, with one to take, with none, and one that no member can run. -/
theorem test_witness_MmaUnitsTicketsAndReduction :
    ((running mmaDesc).findDesc 0 0 0x20 = some mmaDesc ∧ (running mmaDesc).mmaBegin 0 0 mmaDesc = running mmaDesc ∧
      ∃ t, TilesOut 0 0 1 4 1 (running mmaDesc) t ∧ ∃ e, t.descNow 0 0 4 = some e ∧
        e.done = none ∧ 1 < mmaFuel mmaDesc ∧ mmaUnitOf e = none ∧ mmaDisp e.cap = false) ∧
    (∀ x ∈ [(dispDesc, true), (kDispDesc, true), ({ dispDesc with ticketEnd := true }, false), ({ kDispDesc with ticketEnd := true }, true)],
      (running x.1).findDesc 0 0 0x20 = some x.1 ∧ (running x.1).descNow 0 0 4 = some x.1 ∧ x.1.started = true ∧ x.1.done = none ∧
        mmaUnitOf x.1 = none ∧ (mmaDisp x.1.cap && (!x.1.ticketEnd || (mmaKdisp x.1.cap && !mmaAtomic x.1.cap && x.1.tookZero))) = x.2) ∧
    (let d := { mmaDesc with ctl := 0 }
     (running d).findDesc 0 0 0x20 = some d ∧ (running d).descNow 0 0 4 = some d ∧ mmaUnitOf d = some mmaUnit ∧ (running d).arraysOf 0 d = [] ∧
      mmaDisp d.cap = false) ∧
    (∀ x ∈ [(dispDesc, 1, [0], false, true), (dispDesc, 1, [], false, true), (dispDesc, 3, [], false, false),
        ({ dispDesc with ctl := 0 }, 1, [], true, true)],
      let s := counted x.1 x.2.1 3 x.2.2.1 []
      s.findDesc 0 0 0x20 = some x.1 ∧ s.counterOf x.1 = some ⟨9, 7, 0, 0, 3, x.2.1, x.2.2.1, [], 0⟩ ∧ x.1.tickets.length < 2 ∧
        s.noMember ⟨9, 7, 0, 0, 3, x.2.1, x.2.2.1, [], 0⟩ = x.2.2.2.1 ∧ (decide (x.2.1 < 3) || !x.2.2.1.isEmpty) = x.2.2.2.2 ∧
        (x.2.2.2.1 = false → s.arraysOf 0 x.1 ≠ [])) ∧
    (let s := counted kDispDesc 1 1 [] [0]
     s.findDesc 0 0 0x20 = some kDispDesc ∧ s.counterOf kDispDesc = some ⟨9, 7, 0, 0, 1, 1, [], [0], 0⟩ ∧ mmaKdisp kDispDesc.cap = true ∧
      mmaAtomic kDispDesc.cap = false ∧ kDispDesc.tookZero = true ∧ kDispDesc.tickets = [] ∧ kDispDesc.cap.ref 64 = some 0x5000 ∧
      s.descBegin 0 0 kDispDesc = s ∧ 1 ≤ (mmaBlocks kDispDesc.cap).length ∧ ∃ t, BlocksOut 0 0 1 4 0x5000 1 1 s t ∧
        ∃ e, t.descNow 0 0 4 = some e ∧ e.done = none ∧ blocksOpen e = []) := by
  refine ⟨⟨by decide, rfl, _, tilesOut_one, _, rfl, by decide⟩, by decide, by decide, by decide, by decide, by decide, by decide, by decide, by decide,
    by decide, by decide, rfl, by decide, _, blocksOut_one, _, rfl, by decide⟩


/-- Partition 1 may bind 16 streams on Quad 0 and Smelters 0 and 1 and owns every buffer of Pewter; pool 4 has 16 buffers, of which it holds buffer 0.
A template of SHAPE and TRACK stands at PDA 0x9000. -/
def streamDev : State :=
  { withMem (withRegs (withTab dev (words ++ [(tabKey 2 8, 0x00800001), (tabKey 3 0, 0x00100001), (tabKey 3 1, 0x00030010), (tabKey 3 2, 0x310),
        (tabKey 3 3, 0x00100000), (tabKey 3 7, 0xFFFFFFFF), (tabKey 3 8, 0xFFFFFFFF), (tabKey 3 9, 0xFFFFFFFF), (tabKey 3 10, 0xFFFFFFFF)]))
      [(Reg.pwCtrl, 0x10), (Reg.pwPoolCount 4, 16), (Reg.ingCtrl, 3), (Reg.ppCtrl 0, 3), (Reg.seCtrl, 1)])
    [(ingotBase + 0x9000, bytesOf 128 [(0, 1, 0x20), (1, 1, 0x10), (6, 2, 3), (64, 1, 0x51), (65, 1, 0x10), (70, 2, 4)])] with
    bufs := [(0x4000000, ⟨0, [some 1, none, none, none]⟩)] }

def hdl : Nat := handleOf 0 4 0

/-- STREAM_BIND of a stream with an entry, or of a host-fed one. -/
def bindBytes (feed cnt : Nat) : List Byte :=
  bytesOf 192 [(6, 2, cnt), (64, 1, feed * 128), (130, 1, 1), (144, 8, 0x9000), (152, 1, 2), (156, 4, 64), (160, 8, 0x5000)]
/-- Its records go to ring 1, which takes records. -/
def bindCmd (feed cnt : Nat) : Cmd := cmd 0x10 (overlay (bindBytes feed cnt) 12 (leBytes 2 1))
def bindDev : State := { streamDev with rings := [(1, { Ring.reset with ctx := [0, 0, 0, 0, 0, 0, 0x00C00E00, 0] })] }

/-- Stream 3 of partition 1 and its decode context 0, with 0 or 1 entry. -/
def stream3 (ent : Option Nat) : Stream :=
  { bind := bindBytes (if ent.isSome then 0 else 1) 16, template := [bytesOf 64 [(0, 1, 0x20), (1, 1, 0x10), (6, 2, 3)], bytesOf 64 [(0, 1, 0x51), (1, 1, 0x10), (6, 2, 4)]],
    ring := 0, entry := ent, ctx := 0, quad := 0, base := 0, count := 16, nextTrack := 1, lastSeq := none, jobs := [], skipped := 0, snuff := none,
    objs := [], bmrs := [], unbind := false, auOut := 0 }
def dec0 : DecCtx :=
  { part := 1, stream := 3, home := 0, live := true, codec := 0, block := bytesOf 16 [(0, 1, 4), (2, 1, 1)], queue := [], work := { frames := 0, outs := 0, flags := 0, taint := false }, frames := [],
    nextFrame := 0, nextSeq := 0, waitRap := false, waitFb := none, granted := false, seqBad := none, susp := none, paramDue := false, params := [],
    rehome := false, unbound := false, counts := List.replicate 10 0 }
def entry5 : Entry :=
  { part := 1, stream := 3, ctx := 0, ingest := List.replicate 64 0, ssrc := none, sr := none, seq := none, packets := [], cands := [], open_ := none,
    lost := false, gap := false, counts := List.replicate 8 0, jitter := 0, transit := none }
def bound (st : Stream) (d : DecCtx) (es : Tab Entry) (cs : List Cmd) : State :=
  { streamDev with streams := [(streamKey 1 3, st)], decs := [(0, d)], entries := es, cmds := cs }

def unit0 (gap : Bool) : Au := ⟨hdl, 100, gap, false, 0, 0, none, 0, []⟩

def feedCmd (len h : Nat) : Cmd := cmd 0x11 (bytesOf 56 [(0, 8, h), (8, 4, len), (16, 8, 5)])
def frameJob : FrameJob := ⟨some 0, 0, bytesOf 64 [(0, 4, 9)], [], false, 0, 0, .ok, none, none, [], false⟩

/-- A count of tracks at its bound and one beyond it, with an entry and without; an access unit with length 0, with a handle that fails and with
one that passes; an unbind with and without an entry; a frame whose chain is due. -/
theorem test_witness_StreamsBindFeedAndUnbind :
    (∀ feed ∈ [0, 1], let c := bindCmd feed 16
      let s := withCmd bindDev c
      s.Issued c 0x10 ∧ bindFields s c = none ∧ s.bindLimits c = none ∧ c.par 144 8 < 2 ^ 37 ∧ c.par 160 8 < 2 ^ 37 ∧ c.par 168 8 % 2 ^ 63 < 2 ^ 37 ∧ natBits (fieldAt ((c.params.drop 64).take 64) 56 8) 63 52 = 0 ∧
      coveredOnce (s.part c.part).active (c.par 160 8) ((if c.par 0 1 % 16 = 0 then 4 else c.par 0 1 % 16) * c.par 156 4) = true ∧
      (match s.readTemplate c.part (c.par 144 8) (c.par 152 1 % 16) with | .ok t => templateOk t | .error _ => false) = true ∧
      s.smHome (s.limit c.part 6 2 % 4096) (bindHint c) = some 0 ∧ freeKey s.decs 1024 = some 0 ∧ freeKey s.entries 1024 = some 0) ∧
    (withCmd bindDev (bindCmd 0 17)).bindLimits (bindCmd 0 17) = some (.quota, 0) ∧ bindFields (withCmd bindDev (bindCmd 0 17)) (bindCmd 0 17) = none ∧
    bindFields (withCmd bindDev (bindCmd 0 0)) (bindCmd 0 0) = some .badOpcode ∧ (withCmd bindDev (bindCmd 0 0)).Issued (bindCmd 0 0) 0x10 ∧
    (withCmd bindDev (bindCmd 0 16)).Canonical ∧
    (∀ x ∈ [(0, hdl), (65536, hdl), (65537, hdl)], let c := feedCmd x.1 x.2
      let s := bound (stream3 none) dec0 [] [c]
      s.Issued c 0x11 ∧ s.streamTurn c [0x11, 0x12] = true ∧ s.stream? c.part c.index = some (stream3 none) ∧ s.dec? 0 = some dec0 ∧ s.flag (Reg.smStatus 0) 31 = false) ∧
    (let s := withRegs (bound (stream3 none) dec0 [] [feedCmd 0 hdl]) [(Reg.smStatus 0, 0x80000000)]
     s.Issued (feedCmd 0 hdl) 0x11 ∧ s.streamTurn (feedCmd 0 hdl) [0x11, 0x12] = true ∧ s.flag (Reg.smStatus dec0.home) 31 = true) ∧
    64 ≤ (List.replicate 64 (unit0 false)).length ∧
    (bound (stream3 none) dec0 [] [feedCmd 65536 hdl]).handleCheck 1 hdl 0 65536 = .pass 4 0 ∧
    (bound (stream3 none) dec0 [] [feedCmd 65537 hdl]).handleCheck 1 hdl 0 65537 = .fail .bounds ∧
    (∀ ent ∈ [none, some 5], let c := cmd 0x12 []
      let s := bound (stream3 ent) dec0 [(5, entry5)] [c]
      s.Issued c 0x12 ∧ s.streamTurn c [0x11, 0x12] = true ∧ s.stream? c.part c.index = some (stream3 ent) ∧ s.dec? 0 = some dec0 ∧ dec0.susp = none ∧
      (s.smelter dec0.home).pic = none ∧ s.entry? 5 = some entry5) ∧
    (let st := { stream3 none with jobs := [frameJob] }
     (bound st dec0 [] []).stream? 1 3 = some st ∧ (st.jobs.find? fun j => !j.issued) = some frameJob ∧ frameJob.slot = some 0 ∧
      (st.template.any fun b => fieldAt b 0 1 == 0x20 || fieldAt b 0 1 == 0x60) = true) := by
  refine ⟨by decide +kernel, by decide +kernel, by decide, by decide, by decide, canon_ok (by decide), by decide, by decide, by decide, by decide, by decide, by decide, by decide⟩

/-! ### Witnesses: ingest and decode -/

/-- Entry 5 takes RTP to 10.0.0.1 port 5000 and RTCP to port 5001 on link 0 of port 0, and has seen SSRC 7. -/
def entryNet : Entry :=
  { entry5 with ingest := bytesOf 64 [(1, 1, 0x10), (6, 2, 5000), (10, 2, 5001), (16, 4, 0x0100000A), (50, 1, 4)], ssrc := some 7, seq := some (100, 90) }
/-- Ports 0 and 1 are on; link 0 of port 0 is up. -/
def netDev : State :=
  { withRegs streamDev [(Reg.ethPort 0, 0x10010000), (Reg.ethPort 1, 0x00020001)] with
    entries := [(5, entryNet)], streams := [(streamKey 1 3, stream3 (some 5))], decs := [(0, dec0)] }

/-- A frame of a type, n bytes long. -/
def ethOf (ty n : Nat) : List Byte := bytesOf n [(12, 1, ty / 256), (13, 1, ty % 256)]
/-- A UDP datagram in IPv4, from 10.0.0.2 to 10.0.0.1. -/
def udpFrame (ipSum dport : Nat) (udpSum : Byte) (pl : List Byte) : List Byte :=
  let n := pl.length
  bytesOf 14 [(12, 1, 8)] ++ [0x45, 0, 0, BitVec.ofNat 8 (28 + n), 0, 0, 0, 0, 0x40, 0x11, BitVec.ofNat 8 (ipSum / 256), BitVec.ofNat 8 ipSum, 10, 0, 0, 2, 10, 0, 0, 1] ++
    [0, 99, BitVec.ofNat 8 (dport / 256), BitVec.ofNat 8 dport, 0, BitVec.ofNat 8 (8 + n), 0, udpSum] ++ pl
def rtpFrame (dport : Nat) : List Byte := udpFrame 0x66BD dport 0 (bytesOf 18 [(0, 1, 0x80)])
def srFrame (udpSum : Byte) : List Byte := udpFrame 0x66B3 5001 udpSum (bytesOf 28 [(0, 1, 0x80), (1, 1, 200), (3, 1, 6), (7, 1, 7)])

theorem udp_of {k : FrameKind} {P : Datagram → Bool} (h : (match k with | .udp d => P d | _ => false) = true) : ∃ d, k = .udp d ∧ P d = true := by
  cases k with
  | udp d => exact ⟨d, rfl, h⟩
  | _ => cases h

theorem other_of {k : FrameKind} (h : (match k with | .other => true | _ => false) = true) : k = .other := by cases k <;> first | rfl | cases h
theorem ptp_of {k : FrameKind} (h : (match k with | .ptp => true | _ => false) = true) : k = .ptp := by cases k <;> first | rfl | cases h
theorem bad_of {k : FrameKind} (h : (match k with | .bad => true | _ => false) = true) : k = .bad := by cases k <;> first | rfl | cases h

def packetOf (num : Int) : Packet := ⟨num, 7, 0, 0, false, [], hdl, 0⟩

/-- A frame of 64 bytes and one of 63, with FCS; one for each kind; a known and an unknown port; a report whose checksum is right and one whose is
not; a number equal to HIGH, one beyond it, and one below it that is inside and one that is behind NEXT; a link that may come up and two that may not. -/
theorem test_witness_FramesAreFilteredAndOrdered :
    (netDev.linkUp 0 0 = true ∧ netDev.linkUp 0 1 = false ∧ (ethOf 0x88F7 60).length + 4 = 64 ∧ (ethOf 0x88F7 59).length + 4 < 64 ∧
      frameKind (ethOf 0x88F7 60) = .ptp ∧ frameKind (ethOf 0x0806 60) = .other ∧ frameKind (udpFrame 0 5000 0 (List.replicate 18 0)) = .bad) ∧
    (∃ d, frameKind (rtpFrame 5000) = .udp d ∧ (rtpFrame 5000).length + 4 = 64 ∧ (netDev.matchEntry 0 0 d == some 5 && !entryNet.isRtcp d) = true) ∧
    (∃ d, frameKind (rtpFrame 5002) = .udp d ∧ (netDev.matchEntry 0 0 d == none) = true) ∧
    (∃ d, frameKind (srFrame 0) = .udp d ∧
      (netDev.matchEntry 0 0 d == some 5 && entryNet.isRtcp d && d.csumOk && (findSr 7 d.payload d.payload.length).isSome) = true) ∧
    (∃ d, frameKind (srFrame 1) = .udp d ∧ (netDev.matchEntry 0 0 d == some 5 && entryNet.isRtcp d && !d.csumOk) = true) ∧
    (netDev.flag Reg.ingCtrl 0 = true ∧ netDev.entry? 5 = some entryNet ∧ entryNet.locked = some 7) ∧
    ((withRegs netDev [(Reg.ingCtrl, 1)]).flag Reg.ingCtrl 1 = false ∧ netDev.flag Reg.ingCtrl 1 = true ∧ netDev.excq.length < 64 ∧
      64 ≤ (List.replicate 64 (0, 0, ([] : List Byte))).length) ∧
    (entryNet.seq = some (100, 90) ∧ (100 - 100 : Int) % 65536 = 0 ∧ (0 : Int) < (105 - 100) % 65536 ∧ (105 - 100 : Int) % 65536 < 0x8000 ∧ (100 + 5 : Int) < 90 + 512 ∧
      (0x8000 : Int) < (95 - 100) % 65536 ∧ (90 : Int) ≤ 100 - (0x10000 - (95 - 100) % 65536) ∧ (∀ q ∈ entryNet.packets, q.num ≠ 95) ∧
      (0x8000 : Int) < (89 - 100) % 65536 ∧ 100 - (0x10000 - (89 - 100) % 65536 : Int) < 90 ∧ (90 - 512 : Int) ≤ 100 - (0x10000 - (89 - 100) % 65536)) ∧
    (let w := netDev.reg (Reg.ethPort 0)
     netDev.domOn (epDom 0) = true ∧ bitOf w 16 = true ∧ bitOf w 17 = false ∧ bitOf w 0 = false ∧ bitsOf w 9 8 = 0) ∧
    (let w := netDev.reg (Reg.ethPort 1)
     netDev.domOn (epDom 1) = true ∧ bitOf w 17 = true ∧ bitOf w 0 = true ∧ bitsOf w 9 8 ≠ 3) := by
  refine ⟨⟨by decide, by decide, by decide, by decide, ptp_of (by decide), other_of (by decide), bad_of (by decide)⟩, ?_, udp_of (by decide),
    udp_of (by decide), udp_of (by decide), by decide, by decide, by decide, by decide, by decide⟩
  obtain ⟨d, h1, h2⟩ := udp_of (k := frameKind (rtpFrame 5000)) (P := fun d => netDev.matchEntry 0 0 d == some 5 && !entryNet.isRtcp d) (by decide)
  exact ⟨d, h1, by decide, h2⟩

/-- One packet is held beyond the gap. -/
def heldEntry : Entry := { entryNet with seq := some (95, 90), packets := [packetOf 95] }
/-- An access unit of one NAL unit is open. -/
def openEntry : Entry := { entryNet with open_ := some ⟨9, 0, 0, [[0x65, 1]], .idle, false, false, false, 0⟩ }
/-- Time has passed. -/
def later (s : State) : State := { s with tb := { s.tb with sec := 1 } }

/-- A gap whose hold time is over, and one whose time is not; the same for an open access unit. -/
theorem test_witness_IngestTimersAndSnapshot :
    (let s : State := { later netDev with entries := [(5, heldEntry)] }
     s.entry? 5 = some heldEntry ∧ heldEntry.packets = [packetOf 95] ∧ heldEntry.seq = some (95, 90) ∧ (90 : Int) < (packetOf 95).num ∧
      (packetOf 95).arrived + heldEntry.late ≤ s.nowNs) ∧
    (let s : State := { netDev with entries := [(5, heldEntry)] }
     s.entry? 5 = some heldEntry ∧ ∀ k ∈ heldEntry.packets, s.nowNs < k.arrived + heldEntry.late) ∧
    (let s : State := { later netDev with entries := [(5, openEntry)] }
     let a : AuOpen := ⟨9, 0, 0, [[0x65, 1]], .idle, false, false, false, 0⟩
     s.entry? 5 = some openEntry ∧ openEntry.open_ = some a ∧ a.last + openEntry.late ≤ s.nowNs ∧ a.units ≠ [] ∧ (∀ bs, a.frag ≠ .good bs) ∧
      s.dec? openEntry.ctx = some dec0 ∧ dec0.queue.length < 64 ∧ dec0.paramDue = false ∧
      (frameUnits openEntry.format a.units).length ≤ poolSize openEntry.auPool ∧ (s.allocPool openEntry.part openEntry.auPool).isSome = true ∧
      netDev.nowNs < a.last + openEntry.late) ∧
    (netDev.Canonical ∧ netDev.PfReaches Reg.ingSsel) := by
  refine ⟨by decide, by decide, ⟨by decide, by decide, by decide, by decide, fun _ => by simp, by decide⟩, canon_ok (by decide), by decide⟩

/-- An IDR picture of 16 x 16, and one that is no random access point. -/
def info : PictureInfo := { profile := .constrainedBaseline, kind := .idr, codedW := 16, codedH := 16 }
def pinfo : PictureInfo := { info with kind := .other }
def pic : Pic := { info := info, frame := 0, start := 0 }
/-- A finished picture without errors. -/
def good (last : Bool) : PictureResult := { luma := [], cb := [], cr := [], areas := [{ x := 0, y := 0, w := 16, h := 16 }], isRef := true, last := last }
def decQ (gap : Bool) : DecCtx := { dec0 with queue := [unit0 gap] }
def decPic : DecCtx :=
  { decQ false with frames := [{ id := 0, segs := [], ref := false, disp := false, chain := 0, taint := false, desc := [], grain := [] }], nextFrame := 1 }
/-- Context 0 alone. -/
def oneDec (d : DecCtx) : State := { streamDev with decs := [(0, d)] }
/-- CONCEAL = 1. -/
def concealing (d : DecCtx) : DecCtx := { d with block := bytesOf 16 [(0, 1, 0x84), (2, 1, 1)] }
/-- Smelter 0 decodes the picture of context 0, and a live context 1 waits for it. -/
def decoding (live : Bool) : State :=
  { streamDev with decs := [(0, { decPic with live := live }), (1, { decQ false with stream := 4 })] }.setSmelter 0 ⟨some (0, pic), [], 0, 0, 0, 0, 0⟩

/-- A Smelter that is off; a suspended picture; access units that are discarded before a random access point, for a gap, and in a sequence that
cannot be decoded; a picture that starts, and one that waits for a frame; a picture that completes; a suspension; moves of a context from a
Smelter that works, and from a quarantined one with and without an access unit in progress. -/
theorem test_witness_PicturesAreDecoded :
    (State.reset.domOn (smDom 0) = false ∧ ((decoding true).smelter 0).pic.isSome = true) ∧
    (let s := oneDec { decQ false with susp := some pic }
     s.domOn (smDom 0) = true ∧ s.flag (Reg.smCtrl 0) 0 = true ∧ s.flag (Reg.smStatus 0) 31 = false ∧ (s.smelter 0).pic = none ∧
      (s.smPick 0).2 = some (0, { decQ false with susp := some pic })) ∧
    (∀ x ∈ [({ decQ false with waitRap := true }, pinfo), ({ decQ true with waitRap := true }, info), (concealing (decQ true), info),
        (decQ false, { info with profile := .other }), (decQ false, info)],
      let s := oneDec x.1
      s.domOn (smDom 0) = true ∧ s.flag (Reg.smCtrl 0) 0 = true ∧ s.flag (Reg.smStatus 0) 31 = false ∧ (s.smelter 0).pic = none ∧
      (s.smPick 0).2 = some (0, x.1) ∧ x.1.susp = none ∧ (s.smPick 0).1.handleCheck x.1.part hdl 0 100 = .pass 4 0 ∧ x.1.work.frames = 0) ∧
    (isRap 0 pinfo = false ∧ isRap 0 info = true ∧ info.badHeader = false ∧ info.existing = none ∧ (decQ true).conceal = false ∧
      (concealing (decQ true)).conceal = true ∧ (decQ false).waitRap = false ∧ (decQ false).unfit info = 0) ∧
    ((((oneDec (decQ false)).smPick 0).1.smSequence 0 (decQ false) { info with profile := .other }).dec? 0).any (fun y => y.staleFlags != 0) = true ∧
    ((((oneDec (decQ false)).smPick 0).1.smSequence 0 (decQ false) info).dec? 0).any (fun y => y.staleFlags == 0) = true ∧
    ((((oneDec (decQ false)).smPick 0).1.smSequence 0 (decQ false) info).frameBuffers 0 (decQ false) (frameSegs info 4)).isSome = true ∧ (decQ false).pool = 4 ∧
    (let d := { decQ false with block := bytesOf 16 [(0, 1, 4)] }
     ((oneDec d).smPick 0).2 = some (0, d) ∧ d.unfit info = 0 ∧
      (((oneDec d).smPick 0).1.smSequence 0 d info |>.frameBuffers 0 d (frameSegs info d.pool)) = none) ∧
    ((decoding true).Canonical ∧ ((decoding true).smelter 0).pic = some (0, pic) ∧ (decoding true).dec? 0 = some decPic ∧ decPic.queue = [unit0 false] ∧
      (∀ path, ((decoding true).shade 1 path).rate = 0) ∧ (good true).last = true ∧ (good false).last = false ∧ decPic.work.frames < 7 ∧
      (∀ l ∈ [false, true], (pictureDamage decPic (unit0 false) info (good l)).flags = 0 ∧ (good l).parity = none) ∧
      (decPic.frames.find? fun f => f.id == pic.frame).isSome = true) ∧
    ((decoding false).dec? 0 = some { decPic with live := false } ∧ (decoding false).smReady 0 true ≠ [] ∧ (decoding false).smOwed 0 = false) ∧
    (∀ x ∈ [(false, decQ false), (true, decQ false), (true, { decQ false with susp := some pic })], let d := { x.2 with rehome := true }
      let s : State := (if x.1 then withRegs streamDev [(Reg.smStatus 0, 0x80000000)] else streamDev)
      let u : State := { s with decs := [(0, d)] }
      u.dec? 0 = some d ∧ (u.smelter 0).pic = none ∧ u.flag (Reg.smStatus d.home) 31 = x.1 ∧ d.queue = [unit0 false] ∧ d.work.frames = 0 ∧
      u.smHome (u.limit d.part 6 2 % 4096) d.hint = some (boolNat x.1)) := by
  refine ⟨by decide, by decide, by decide, by decide, by decide, by decide, by decide, by decide, by decide,
    ⟨canon_ok (by decide), by decide, by decide, by decide, shade_free (by decide), by decide⟩, by decide, by decide⟩

/-- Contexts 0 and 1 of one group; frame 0 of context 0 with some marks; context 0 waits for a frame at a place, or not. -/
def frameDec (f : DFrame) : DecCtx := { dec0 with frames := [f] }
def waiting (place : Option Nat) : DecCtx := { dec0 with waitFb := place, askedSegs := 1 }
def frame0 : DFrame := { id := 0, segs := [hdl], ref := false, disp := false, chain := 0, taint := false, desc := [], grain := [] }
def sharing (d e : DecCtx) : State := { streamDev with decs := [(0, d), (1, e)] }

theorem test_witness_FramesAreSharedAndReleased :
    (∀ f ∈ [frame0, { frame0 with chain := 1 }, { frame0 with ref := true }, { frame0 with disp := true }],
      (sharing (frameDec f) dec0).dec? 0 = some (frameDec f) ∧ ((frameDec f).frames.find? fun x => x.id == 0) = some f ∧
      (frameDec f).unbound = false ∧ (sharing (frameDec f) dec0).framePending 0 0 (frameDec f) = false) ∧
    (let d := { frameDec { frame0 with ref := true } with unbound := true }
     (sharing d dec0).dec? 0 = some d ∧ d.queue = [] ∧ (sharing d dec0).framePending 0 0 d = false) ∧
    (let s := sharing (waiting (some 1)) (waiting (some 2))
     s.dec? 0 = some (waiting (some 1)) ∧ s.groupHeld (waiting (some 1)) < s.groupBudget (waiting (some 1)) ∧ (s.allocMany 1 (waiting (some 1)).pool 1).isSome = true ∧
      ((s.groupCtxs (waiting (some 1))).any fun e => e.1 != 0 && e.2.waitFb.isSome && servedBefore (waiting (some 1)) e.2) = false) ∧
    (let s := sharing (waiting (some 2)) (waiting (some 1))
     s.dec? 0 = some (waiting (some 2)) ∧
      ((s.groupCtxs (waiting (some 2))).any fun e => e.1 != 0 && e.2.waitFb.isSome && servedBefore (waiting (some 2)) e.2) = true) ∧
    streamDev.Canonical ∧ streamDev.PfReaches (Reg.smCsel 0) := by
  refine ⟨by decide, by decide, by decide, by decide, canon_ok (by decide), by decide⟩

/-! ### Witnesses: shaping, post-processing and records -/

/-- Profiles at PDA 0xA000 (Shaper: an output of one pixel, planar, fitted), 0xA100 (Snuffer: one level of one anchor, one class), 0xA200
(Tracker), 0xA300 (encoder) and 0xA400 (a Shaper profile without an output), and at 0xB000 the descriptor of a frame of 2 x 2 in buffer 0. -/
def visDev : State :=
  withMem streamDev
    [(ingotBase + 0xA000, bytesOf 64 [(0, 1, 1), (1, 1, 2), (2, 1, 4), (12, 2, 1), (14, 2, 1)]),
     (ingotBase + 0xA100, bytesOf 128 [(0, 1, 1), (1, 1, 1), (4, 2, 1), (6, 2, 1), (8, 2, 1), (64 + 2, 1, 1)]),
     (ingotBase + 0xA200, bytesOf 64 [(0, 1, 1), (2, 1, 1), (3, 1, 1), (16, 4, 0x3F800000), (36, 4, 0x3F800000)]),
     (ingotBase + 0xA300, bytesOf 32 [(0, 1, 1), (1, 1, 50), (3, 1, 4), (4, 2, 16), (12, 1, 1)]),
     (ingotBase + 0xA400, bytesOf 64 [(0, 1, 1), (1, 1, 2), (2, 1, 4)]),
     (ingotBase + 0xB000, bytesOf 72 [(4, 2, 2), (6, 2, 2), (8, 4, 64), (12, 4, 128), (36, 2, 1), (44, 4, 65536), (64, 8, hdl)])]

def visSt (c : Cmd) (st : Stream) : State := { visDev with streams := [(streamKey 1 3, st)], cmds := [c] }

def shapeCmd (prof : Nat) : Cmd := { cmd 0x20 (bytesOf 56 [(0, 8, prof), (8, 8, 0xB000), (16, 8, 0x10000)]) with members := [0] }

theorem test_witness_ShapeWritesItsTensor :
    (∀ prof ∈ [0xA000, 0xA400], let c := shapeCmd prof
      let s := visSt c (stream3 none)
      let t := s.engineTurn 32 c (fun x => x.opcode == 0x20 && x.members == [0])
      s.Issued c 0x20 ∧ c.members = [0] ∧ s.domOn (shDom 0) = true ∧ s.flag (Reg.shCtrl 0) 0 = true ∧ t.2 = true ∧
      (isOk (t.1.readProfile c prof 64) fun f => isOk (t.1.frameDesc c 8) fun d =>
        if prof = 0xA400 then !shapeOk f d
        else shapeOk f d && (match t.1.translate 1 0x10000 (shapeExtent f) .wr with
          | some da => decide (t.1.rangeStatus da (shapeExtent f) = .ok) &&
              decide ((t.1.shapePixels 1 f d (shapeGeom f d) da 0 0 (spOw f * spOh f)).2.2 = .ok)
          | none => false)) = true) ∧
    (∀ path, ((visSt (shapeCmd 0xA000) (stream3 none)).shade 1 path).rate = 0) ∧
    (isOk ((visSt (shapeCmd 4) (stream3 none)).readProfile (shapeCmd 4) 4 64) fun _ => true) = false ∧
    (let s := withCmd (withTab State.reset words) (shapeCmd 0xA000)
     s.Issued (shapeCmd 0xA000) 0x20 ∧ s.domOn (shDom 0) = false ∧ ∀ m < 4, (s.limit 1 8 1).testBit m = true → s.domOn (shDom m) = false) ∧
    (let g : Geom := ⟨0, 0, 4, 4, 4, 4, 2, 2, 1, 1⟩
     0 < g.px ∧ g.px + g.rw ≤ 3) := by
  refine ⟨by decide +kernel, shade_free (by decide), by decide, by decide, by decide⟩

/-- Quad 0 without its Snuffer and Tracker. -/
def noQuad (s : State) : State := withRegs s [(Reg.ppCtrl 0, 0)]

def snuffCmd : Cmd := { cmd 0x50 (bytesOf 56 [(0, 8, 0xA100), (8, 8, 0xA000), (16, 8, 0xB000), (24, 8, 0x3000)]) with members := [0] }
def trackCmd : Cmd := { cmd 0x51 (bytesOf 56 [(0, 8, 0xA200), (8, 8, 0xB000)]) with members := [0] }
def trackResetCmd : Cmd := { cmd 0x52 [] with members := [0] }
def frameTrackCmd : Cmd := { trackCmd with src := .frame 1 3 0 }

theorem test_witness_SnuffAndTrackCommands :
    (let c := snuffCmd
     let s := visSt c (stream3 none)
     s.Issued c 0x50 ∧ s.stream? 1 c.stream = some (stream3 none) ∧ s.flag (Reg.ppCtrl 0) 0 = true ∧ s.domOn (quadDom 0) = true ∧
      (noQuad s).flag (Reg.ppCtrl 0) 0 = false ∧ c.begun = false ∧
      (s.engineTurn 40 c (fun x => x.opcode == 0x50 && x.members == [0])).2 = true ∧
      (isOk ((s.engineTurn 40 c (fun x => x.opcode == 0x50 && x.members == [0])).1.snuffInputs c) fun _ => true) = true) ∧
    (∀ path, ((visSt snuffCmd (stream3 none)).shade 1 path).rate = 0) ∧
    (∀ x ∈ [(trackCmd, stream3 none), (frameTrackCmd, { stream3 none with jobs := [{ frameJob with issued := true, left := 1 }] })],
      let s := visSt x.1 x.2
      let t := s.engineTurn 48 x.1 (fun y => (y.opcode == 0x51 || y.opcode == 0x52) && y.members == [0])
      s.Issued x.1 0x51 ∧ s.stream? 1 x.1.stream = some x.2 ∧ s.flag (Reg.ppCtrl 0) 1 = true ∧ (noQuad s).flag (Reg.ppCtrl 0) 1 = false ∧ x.1.begun = false ∧ t.2 = true ∧
      (isOk ((t.1.indexBoundary 0).readProfile x.1 0xA200 64) fun f => tkOk f) = true ∧ (isOk ((t.1.indexBoundary 0).frameDesc x.1 8) fun _ => true) = true ∧
      (isOk ((t.1.indexBoundary 0).trackDigest x.1 x.2) fun _ => true) = true ∧ x.1.par 16 8 = 0 ∧ x.2.outRing = false ∧ x.2.outEth = false) ∧
    (let c := trackResetCmd
     let s := visSt c (stream3 none)
     s.Canonical ∧ s.Issued c 0x52 ∧ s.stream? 1 c.stream = some (stream3 none) ∧
      (s.engineTurn 48 c (fun x => (x.opcode == 0x51 || x.opcode == 0x52) && x.members == [0])).2 = true) ∧
    State.reset.domOn (quadDom 0) = false ∧ visDev.domOn (quadDom 0) = true := by
  refine ⟨by decide +kernel, shade_free (by decide), by decide +kernel, ⟨canon_ok (by decide), by decide⟩, by decide⟩

def objOf (coast : Bool) : Obj := ⟨⟨0, 0, 0x40000000, 0x40000000, 0x3F800000, 0, []⟩, 1, 2, true, coast, 0, 0, 1, 0, 0⟩
def snapCmd (prof : Nat) : Cmd := cmd 0x60 (bytesOf 56 [(0, 8, prof), (8, 8, 0xB000)])
def snapJob : SnapJob :=
  ⟨7, 1, 3, bytesOf 72 [(4, 2, 2), (6, 2, 2), (8, 4, 64), (12, 4, 128), (36, 2, 1), (44, 4, 65536), (64, 8, hdl)],
    bytesOf 32 [(0, 1, 1), (1, 1, 50), (3, 1, 4), (4, 2, 16), (12, 1, 1)], [(0, (objOf false).det)], 0, 0, none⟩

/-- A job whose turn it is at encoder 0. -/
def encoding : State :=
  { visSt { snapCmd 0xA300 with phase := .active } (stream3 none) with snaps := [snapJob], arbs := (visDev.setArb 56 { visDev.arb 56 with chosen := some 1 }).arbs }

theorem store_of {s : State} {p k : Nat} {bs : List Byte} (hb : bs.length ≤ poolSize k)
    (h : (match s.allocPool p k with
      | some (t, x) => decide (t.accessStatus (t.bufDa (natBits x 54 52) (natBits x 47 24)) = .ok)
      | none => false) = true) : ∃ v hd, s.snapStore p k bs = some (v, hd) := by
  unfold State.snapStore
  rw [if_neg (by omega)]
  cases e : s.allocPool p k with
  | none => rw [e] at h; cases h
  | some y =>
    obtain ⟨t, x⟩ := y
    rw [e] at h
    exact ⟨_, _, if_pos (of_decide_eq_true h)⟩

/-- An encoder's turn; its JPEG exists, and one of at most 64 KiB finds a buffer. -/
theorem test_witness_SnapshotsAreEncoded :
    (∀ coast ∈ [false, true], let c := snapCmd 0xA300
      let st := { stream3 none with objs := [objOf coast] }
      let s := visSt c st
      s.Issued c 0x60 ∧ s.stream? 1 c.stream = some st ∧ s.jobOf c = none ∧
      (isOk (s.readProfile c 0xA300 32) fun f => seOk f && decide ((snapSelect f st.objs = []) ↔ coast = true)) = true ∧
      (isOk (s.frameDesc c 8) fun _ => true) = true ∧ s.encoders 1 = [0] ∧ (withRegs s [(Reg.seCtrl, 0)]).encoders 1 = []) ∧
    (isOk ((visSt (snapCmd 0xA200) (stream3 none)).readProfile (snapCmd 0xA200) 0xA200 32) fun f => !seOk f) = true ∧
    (let s : State := { encoding with regs := (withRegs encoding [(Reg.seCtrl, 0)]).regs }
     (s.snaps.find? fun x => (s.encoders x.part).isEmpty) = some snapJob) ∧
    ((∀ x ∈ encoding.snaps, encoding.encoders x.part ≠ []) ∧ (encoding.snaps.filter fun x => encoding.jobFor 0 x) = [snapJob] ∧
      ((encoding.snaps.filter fun x => encoding.jobFor 0 x).find? fun x => x.begun == some 0) = none ∧
      ((encoding.arbEnd 56 0).arb 56).chosen = some 1 ∧ (visDev.snaps.filter fun x => visDev.jobFor 0 x) = [] ∧
      natBits (fieldAt snapJob.profile 3 1) 2 0 = 4) ∧
    (let j := { snapJob with begun := some 0 }
     let s : State := { encoding with snaps := [j] }
     (∀ x ∈ s.snaps, s.encoders x.part ≠ []) ∧ ((s.snaps.filter fun x => s.jobFor 0 x).find? fun x => x.begun == some 0) = some j) ∧
    (let s0 := encoding.arbEnd 56 0
     let u := ({ s0 with snaps := s0.snaps.map fun x => if x.cmd = 7 then { x with begun := some 0 } else x } : State).setArb 56
       { s0.arb 56 with chosen := none, work := some (1, s0.nowNs) }
     4 ∉ u.poolInit ∧ (isOk (u.snapJpeg 1 snapJob.profile snapJob.desc (objOf false).det) fun _ => true) = true ∧
      (∀ path, (u.shade 1 path).rate = 0) ∧ ∀ bs : List Byte, bs.length ≤ 65536 → ∃ v hd, u.snapStore 1 4 bs = some (v, hd)) := by
  refine ⟨by decide +kernel, by decide +kernel, by decide +kernel, by decide +kernel, by decide +kernel, by decide +kernel, by decide +kernel,
    shade_free (by decide +kernel), fun bs hb => store_of (k := 4) hb (by decide +kernel)⟩

/-- Ring 0 takes records, of which it has room for 2^14 units. -/
def metaRing0 : Ring := { Ring.reset with ctx := [0, 0, 0, 0, 0, 0, 0x00C00E00, 0] }
def record (ring eth : Bool) : Bmr := ⟨bytesOf 64 [(0, 2, 0x4D42)], 5, none, none, ring, eth, false⟩

def recording (r e : Bool) (tail : Word) : State :=
  State.setRing { visDev with streams := [(streamKey 1 3, { stream3 none with bmrs := [record r e] })] } 0 { metaRing0 with cqTail := tail }

/-- Room for the record's one unit, and none; a link that is down and one that is up. -/
theorem test_witness_RecordsLeaveInOrder :
    (let st := { stream3 none with bmrs := [record true false] }
     (recording true false 0).stream? 1 3 = some st ∧ st.bmrs[0]? = some (record true false) ∧ (st.bmrs.findIdx? fun x => x.ring) = some 0 ∧
      (recording true false 0x3FFF).metaRoom st.metaRing ((padTo 64 (record true false).bytes).length / 64) = true ∧
      (recording true false 0x4000).metaRoom st.metaRing ((padTo 64 (record true false).bytes).length / 64) = false ∧
      (recording true false 0).snapsOpen 1 3 5 = false ∧
      ({ recording true false 0 with snaps := [{ snapJob with desc := leBytes 4 5 }] } : State).snapsOpen 1 3 5 = true) ∧
    (recording true false 0).Canonical ∧ (∀ path, ((recording true false 0).shade 1 path).rate = 0) ∧
    (∀ path, ((recording false true 0).shade 1 path).rate = 0) ∧
    (let st := { stream3 none with bmrs := [record false true] }
     (recording false true 0).stream? 1 3 = some st ∧ st.bmrs[0]? = some (record false true) ∧ (st.bmrs.findIdx? fun x => x.eth) = some 0 ∧
      (recording false true 0).snapsOpen 1 3 5 = false ∧
      (recording false true 0).linkUp (natBits (st.par 38 1) 2 2) (natBits (st.par 38 1) 1 0) = false ∧
      (withRegs (recording false true 0) [(Reg.ethPort 0, 0x10010000)]).stream? 1 3 = some st ∧
      (withRegs (recording false true 0) [(Reg.ethPort 0, 0x10010000)]).linkUp 0 0 = true ∧ natBits (st.par 38 1) 2 0 = 0) ∧
    (∀ path, ((withRegs (recording false true 0) [(Reg.ethPort 0, 0x10010000)]).shade 1 path).rate = 0) := by
  refine ⟨by decide, canon_ok (by decide), shade_free (by decide), shade_free (by decide), by decide, shade_free (by decide)⟩

/-! ### Witnesses: rings, commands and pools -/

/-- Ring 0 in host memory: 16 slots at 0x10000, 16 records at 0x20000, status at 0x30000, vector 5, and a moderation time. -/
def hostCtx : List Word := [0x10000, 0, 0x20000, 0, 0x30000, 0, 0x00A00404, 0x0A000005]
def hostRing (head tail chead ctail : Word) (armed : Bool) (counted : Nat) : Ring :=
  { Ring.reset with ctx := hostCtx, sqHead := head, sqTail := tail, cqHead := chead, cqTail := ctail, armed := armed, counted := counted }
/-- The PF is bus master with MSI-X on, and ring 0 is as given; a NOP and a packet of another version stand in its slots 0 and 1. -/
def hostDev (rg : Ring) (cs : List Cmd) : State :=
  let s := (withRegs streamDev [(Reg.qmCtrl, 1)]).setFunc 0 { Func.reset with busMaster := true, msixEnable := true, table := [(23, 0)] }
  ({ s with rings := [(0, rg)], cmds := cs }.writeHost 0x10000 (bytesOf 64 [(1, 1, 0x10)])).writeHost 0x10040 (bytesOf 64 [(1, 1, 0x20)])

/-- A context staged for a disabled ring and for an enabled one; a size at its bound and one below it. -/
theorem test_witness_RingContextsCommit :
    (hostDev Ring.reset []).Canonical ∧ (∀ o ∈ [Reg.rqSel, Reg.rqCtx 0, Reg.rqCtx 6, Reg.rqCtx 7], (hostDev Ring.reset []).PfReaches o) ∧
    (∀ rg ∈ [Ring.reset, hostRing 0 0 0 0 false 0], let old := ((hostDev rg []).ring 0).ctx
      ctxOk (ctxCommit old (hostCtx.take 7 ++ [0x0A000005])) 0 = true) ∧
    ((hostDev Ring.reset []).ring 0).enabled = false ∧ ((hostDev (hostRing 0 0 0 0 false 0) []).ring 0).enabled = true ∧
    ctxOk (ctxCommit Ring.reset.ctx (hostCtx.take 6 ++ [0x00A00403, 0])) 0 = false := by
  refine ⟨canon_ok (by decide), ?_⟩
  decide

/-- A masked vector, a value at each bound of the doorbells and one beyond it, a counted and an uncounted ring, a ring without an owner. -/
theorem test_witness_DoorbellsAndInterrupts :
    (let s := hostDev (hostRing 2 10 3 7 true 4) []
     s.Canonical ∧ s.doorRing (.pf 0) = (some 0, 0, 0) ∧ s.fnAnswers 0 = true ∧ s.msixReady 0 5 = true ∧
      (s.setFunc 0 { s.func 0 with functionMask := true }).msixReady 0 5 = false ∧ (s.ring 0).sqSize = 16 ∧
      ((18 - (s.ring 0).sqHead).toNat ≤ 16 ∧ 2 ^ 31 < ((s.ring 0).sqTail - 18).toNat) ∧ 16 < (19 - (s.ring 0).sqHead).toNat ∧
      1 ≤ ((s.ring 0).sqTail - 9).toNat ∧ ((s.ring 0).sqTail - 10).toNat = 0 ∧
      (7 - (s.ring 0).cqHead).toNat ≤ ((s.ring 0).cqTail - (s.ring 0).cqHead).toNat ∧
      ((s.ring 0).cqTail - (s.ring 0).cqHead).toNat < (8 - (s.ring 0).cqHead).toNat ∧
      (s.ring 0).armed = true ∧ 0 < (s.ring 0).counted ∧ (s.ring 0).modUs ≠ 0 ∧ ((s.ringOwner 0).map (·.2)) = some 0 ∧ s.pfAnswers = true ∧ s.doorRing (.pf (0 : RingIx)) = (some 0, 0, 0) ∧ (s.ring 0).vec = 5) ∧
    ((hostDev (hostRing 2 10 3 7 false 0) []).ring 0).counted = 0 ∧ bitOf (1 : Word) 0 = true ∧ bitOf (2 : Word) 0 = false ∧
    ((hostDev Ring.reset []).doorRing (.pf 64)).1 = none ∧ ((hostDev Ring.reset []).doorRing (.pf 64)).2.1 = 0 := by
  refine ⟨⟨canon_ok (by decide), ?_⟩, ?_⟩
  · decide
  · decide

theorem oneRing (rg : Ring) (cs : List Cmd) (q : Nat) (h : q ≠ 0) : (hostDev rg cs).ring q = Ring.reset := by
  have e : (hostDev rg cs).rings = [(0, rg)] := rfl
  unfold State.ring sparseGet
  rw [e]
  simp [sparseGet, h]

/-- A NOP fetched, issued and ended, and a packet whose header failed. -/
def ringCmd (op : Nat) (ph : CmdPhase) (st : Status) : Cmd := { cmd op [] with phase := ph, status := st }

theorem test_witness_CommandsPassThroughRings :
    (∀ i ∈ [0, 1], let s := hostDev (hostRing (BitVec.ofNat 32 i) 2 0 0 false 0) []
      (∃ bs, s.nextPacket 0 = some bs ∧ headerCheck bs = (if i = 0 then .ok else .badVersion)) ∧ s.servedBy 0 = some (1, 0) ∧ 0 ∈ s.rings.map (·.1) ∧
      (∀ q, q / 2048 = 0 → q ≠ 0 → s.nextPacket q = none) ∧ ∀ path, (s.shade 1 path).rate = 0) ∧
    (hostDev (hostRing 0 2 0 0 false 0) []).Canonical ∧
    (∀ st ∈ [Status.ok, .badVersion], let c := ringCmd 0 .fetched st
      let s := hostDev (hostRing 1 1 0 15 false 0) [c]
      (s.cmds.filter fun x => x.src == .ring 0) = [c] ∧ s.cmd? c.id = some c ∧ (s.ring 0).chainPrev = none ∧ (s.ring 0).chainFail = none ∧
      (s.ring 0).chainLen = 0 ∧ s.ringOwner 0 = some (c.part, c.fn) ∧ s.partValid c.part = true ∧
      ((s.ring 0).cqTail - (s.ring 0).cqHead).toNat + 1 ≤ (s.ring 0).cqSize ∧
      (st = .ok → c.chain = false ∧ s.issueHeld' c [] = false ∧ s.issueCheck c (s.ring 0) 0 = none ∧ c.opcode ∉ [0x20, 0x38, 0x50, 0x51, 0x52])) ∧
    (let c := ringCmd 0 .ended .bounds
     let s := hostDev (hostRing 1 1 0 0 false 0) [c]
     s.Canonical ∧ s.cmd? c.id = some c ∧ c.phase = .ended ∧ c.src = .ring 0 ∧ s.shapeBehind c = false ∧ (s.ring 0).loc = true ∧ s.hostWritable c.fn = true ∧
      (∀ path, (s.shade c.part path).rate = 0) ∧ c.irq = false ∧ (s.ring 0).errIrq = false) := by
  refine ⟨?_, canon_ok (by decide), by decide, canon_ok (by decide), by decide, by decide, by decide, by decide, by decide, by decide, shade_free (by decide), by decide, by decide⟩
  intro i h
  have hc : ∀ i ∈ [0, 1], let s := hostDev (hostRing (BitVec.ofNat 32 i) 2 0 0 false 0) []
      s.nextPacket 0 = some ((s.nextPacket 0).getD []) ∧ headerCheck ((s.nextPacket 0).getD []) = (if i = 0 then .ok else .badVersion) ∧
      s.servedBy 0 = some (1, 0) ∧ 0 ∈ s.rings.map (·.1) ∧
      (s.part 1).shades = List.replicate 7 Shade.reset := by decide
  obtain ⟨h1, h2, h3, h4, h5⟩ := hc i h
  refine ⟨⟨_, h1, h2⟩, h3, h4, fun q _ hq => ?_, shade_free h5⟩
  have e : (hostDev (hostRing (BitVec.ofNat 32 i) 2 0 0 false 0) []).servedBy q = none := by
    unfold State.servedBy
    rw [oneRing _ _ _ hq]
    rfl
  unfold State.nextPacket
  rw [e]

/-- Latched bytes go to the Ingot; a FENCE behind another command of its ring. -/
def stampCmd (dst : Nat) : Cmd := cmd 0x02 (bytesOf 56 [(0, 8, dst)])
def scanCmd : Cmd := cmd 0x38 (bytesOf 56 [(0, 1, 8), (8, 8, 0x1000), (16, 4, 1), (24, 8, 0x2000)])
def fillCmd : Cmd := cmd 0x71 (bytesOf 32 [(0, 8, 0x1000), (8, 4, 16), (24, 8, 0x0102030405060708)])
def copyCmd (dir src dst len : Nat) : Cmd := cmd 0x70 (bytesOf 40 [(0, 8, src), (8, 8, dst), (16, 4, len), (32, 1, dir)])
def hostRead : HostRead := ⟨9, 0, 7, 0x10FF0, 16, ingotBase + 0x1000⟩
def reading : State :=
  let s := hostDev Ring.reset [{ copyCmd 2 0x10FF0 0x1000 16 with phase := .active, gang := ingotBase + 0x1000, aux := 1 }]
  { s with pcie := { s.pcie with reads := [hostRead] } }

/-- A length that ends at a 4 KiB boundary of host memory. -/
theorem test_witness_DispatcherCommands :
    (∀ op ∈ [0x00, 0x01], (withCmd dev (cmd op [])).Issued (cmd op []) op) ∧
    (∀ dst ∈ [0, 4, 0x1000], (withCmd dev (stampCmd dst)).Issued (stampCmd dst) 0x02) ∧
    (dev.translate 1 0x1000 (stampCmd 0x1000).latched.length .wr = some (ingotBase + 0x1000) ∧
      dev.rangeStatus (ingotBase + 0x1000) (stampCmd 0x1000).latched.length = .ok ∧
      dev.partialPoison (ingotBase + 0x1000) (stampCmd 0x1000).latched.length = none) ∧
    (let c := scanCmd
     let s := withCmd dev c
     s.Issued c 0x38 ∧ (c.members.any fun m => s.lanternOut m) = false ∧ c.par 0 1 % 16 = 8 ∧ c.par 1 1 % 16 ≤ 5 ∧ c.par 4 4 ≤ 1000000 ∧ c.par 16 4 ≠ 0 ∧
      (isOk (s.rdRaws c.part (c.par 8 8) (c.par 0 1 % 16) (c.par 16 4)) fun raws =>
        let r := scanRecord ((c.par 2 1).testBit 0) (c.par 1 1 % 16) (c.par 4 4) (raws.map fun x => codeNum (c.par 0 1 % 16) x)
        match s.translate c.part (c.par 24 8) r.length .wr with
        | some da => decide (s.rangeStatus da r.length = .ok ∧ s.partialPoison da r.length = none)
        | none => false) = true) ∧
    (let c := fillCmd
     let s := withCmd dev c
     s.Issued c 0x71 ∧ s.Canonical ∧ s.poison = [] ∧ c.par 12 4 ≤ 1 ∧ copyAligned (copyReq c) false = true ∧ s.copyBehind c = false ∧
      s.translate c.part (c.par 0 8) (c.par 8 4) .wr = some (ingotBase + 0x1000) ∧ (∀ i < c.par 8 4, s.accessStatus (ingotBase + 0x1000 + i) = .ok)) ∧
    (let c := copyCmd 0 0x1000 0x1000000 16
     let s := withCmd dev c
     s.Issued c 0x70 ∧ s.Canonical ∧ c.par 20 4 ≤ 1 ∧ copyAligned (copyReq c) true = true ∧ s.copyBehind c = false ∧ c.par 32 1 % 4 = 0 ∧ c.par 0 8 < 2 ^ 37 ∧ c.par 8 8 < 2 ^ 37 ∧
      s.translate c.part (c.par 0 8) (c.par 16 4) .rd = some (ingotBase + 0x1000) ∧ s.translate c.part (c.par 8 8) (c.par 16 4) .wr = some crucibleBase ∧
      ingotBase + 0x1000 + c.par 16 4 ≤ crucibleBase ∧
      (∀ i < c.par 16 4, s.accessStatus (ingotBase + 0x1000 + i) = .ok ∧ s.accessStatus (crucibleBase + i) = .ok)) ∧
    (let c := copyCmd 1 0x1000 0x50000 16
     let s := hostDev Ring.reset [c]
     s.Issued c 0x70 ∧ s.Canonical ∧ s.poison = [] ∧ copyAligned (copyReq c) true = true ∧ s.copyBehind c = false ∧ c.par 32 1 % 4 = 1 ∧ s.hostWritable c.fn = true ∧
      s.translate c.part (c.par 0 8) (c.par 16 4) .rd = some (ingotBase + 0x1000) ∧ s.rangeStatus (ingotBase + 0x1000) (c.par 16 4) = .ok) ∧
    (let c := copyCmd 2 0x10FF0 0x1000 16
     let s := hostDev Ring.reset [c]
     s.Issued c 0x70 ∧ copyAligned (copyReq c) true = true ∧ s.copyBehind c = false ∧ c.par 32 1 % 4 = 2 ∧ s.hostReadable c.fn = true ∧ s.pcie.reads = [] ∧ c.aux = 0 ∧
      c.par 16 4 = 4096 - c.par 0 8 % 4096 ∧ s.translate c.part (c.par 8 8) (c.par 16 4) .wr = some (ingotBase + 0x1000)) ∧
    (∀ path, (dev.shade 1 path).rate = 0) ∧
    (let c := { copyCmd 2 0x10FF0 0x1000 16 with phase := .active, gang := ingotBase + 0x1000, aux := 1 }
     reading.Canonical ∧ reading.pcie.reads = [hostRead] ∧ reading.cmd? 7 = some c ∧ c.phase = .active ∧ c.status = .ok ∧ c.params.length = 40 ∧
      reading.hostReadable c.fn = true ∧ reading.poison = [] ∧ (List.replicate 16 (1 : Byte)).length = hostRead.len ∧
      reading.rangeStatus hostRead.dst hostRead.len = .ok) := by
  refine ⟨by decide, by decide, by decide, by decide +kernel, ⟨by decide, canon_ok (by decide), by decide⟩, ⟨by decide, canon_ok (by decide), by decide +kernel⟩,
    ⟨by decide, canon_ok (by decide), by decide⟩, by decide, shade_free (by decide), canon_ok (by decide), by decide⟩

/-- Partition 2 is valid and has no quota of buffers; buffer 0 of pool 4 has the owners given. -/
def owned (sl : List (Option Nat)) (c : Cmd) : State :=
  { streamDev with cmds := [c], bufs := [(0x4000000, ⟨0, sl⟩)], parts := streamDev.parts ++ [(2, { Part.reset with active := tabOf [(tabKey 3 0, 1)] })] }
def allocCmd (size n dst : Nat) : Cmd := cmd 0x72 (bytesOf 56 [(0, 4, size), (4, 2, n), (8, 8, dst)])
def freeCmd (h : Nat) : Cmd := cmd 0x73 (bytesOf 56 [(0, 8, h)])
def shareCmd (h q : Nat) : Cmd := cmd 0x74 (bytesOf 56 [(0, 8, h), (8, 1, q)])
/-- Pool 4 of 32 buffers at 130 MiB and the state table at 128 MiB, with PW_CTRL as given. -/
def poolSt (ctrl count : Nat) (bufs : Tab PBuf) : State :=
  { withRegs streamDev [(Reg.pwCtrl, ctrl), (Reg.pwState, 64), (Reg.pwPoolBase 4, 65), (Reg.pwPoolCount 4, count)] with bufs := bufs }

/-- Sizes and counts at their bounds; all of a pool's free buffers and one more; one hold and two; four holds. -/
theorem test_witness_PoolsAllocateAndEnable :
    (∀ x ∈ [(0, 1), (0x400001, 1), (1, 0), (1, 257), (0x400000, 1), (1, 256), (65536, 1), (65536, 15), (65536, 16)],
      (withCmd streamDev (allocCmd x.1 x.2 0x1000)).Issued (allocCmd x.1 x.2 0x1000) 0x72) ∧
    (∀ n ∈ [15, 16], let c := allocCmd 65536 n 0x1000
      let s := withCmd streamDev c
      c.par 8 8 % 8 = 0 ∧ s.translate c.part (c.par 8 8) (8 * c.par 4 2) .wr = some (ingotBase + 0x1000) ∧ s.accessStatus (ingotBase + 0x1000) = .ok ∧
      s.allocWaits (c.par 0 4) = false ∧ ({ s with poolInit := [4] } : State).allocWaits (c.par 0 4) = true ∧
      (s.allocBufs c.part (c.par 0 4) (c.par 4 2)).isSome = (n == 15)) ∧
    (∀ path, (streamDev.shade 1 path).rate = 0) ∧
    (poolFor 65536 = some 4 ∧ streamDev.poolEn 4 = true ∧ 4 ∉ streamDev.poolInit ∧ streamDev.quotaAllows 1 4 1 = true ∧ streamDev.stateTableLost = false ∧
      streamDev.eligible 1 4 = some 1) ∧
    (∀ sl ∈ [[some 1, none, none, none], [some 1, some 1, none, none]], let c := freeCmd hdl
      (owned sl c).Issued c 0x73 ∧ (owned sl c).handleCheck 1 hdl 0 0 = .pass 4 0 ∧ (lastSlot ((owned sl c).buf 4 0).slots 1).isSome = true) ∧
    (∀ x ∈ [([some 1, none, none, none], 1), ([some 1, none, none, none], 2), ([some 1, none, none, none], 3), ([some 1, some 2, some 1, some 1], 1)],
      let c := shareCmd hdl x.2
      (owned x.1 c).Issued c 0x74 ∧ (owned x.1 c).handleCheck 1 hdl 0 0 = .pass 4 0 ∧ (owned x.1 c).partValid x.2 = (x.2 != 3)) ∧
    ((owned [some 1, none, none, none] (shareCmd hdl 2)).quotaAllows 2 4 1 = false ∧
      ((owned [some 1, none, none, none] (shareCmd hdl 2)).buf 4 0).owns 2 = false) ∧
    (∀ c ∈ [freeCmd 5, shareCmd 5 1], (withCmd streamDev c).handleCheck 1 (c.par 0 8) 0 0 = .fail .bounds) ∧
    ((poolSt 0 32 []).Canonical ∧ (poolSt 0 32 []).PfReaches Reg.pwCtrl ∧ (poolSt 0 32 []).flag Reg.pwCtrl 31 = false ∧ (poolSt 0 32 []).poolEn 4 = false ∧
      (poolSt 0 32 []).poolEnableOk 4 = true ∧ (poolSt 0 31 []).poolEnableOk 4 = false) ∧
    ((poolSt 0x10 32 []).poolEn 4 = true ∧ (poolSt 0x10 32 []).poolLive 4 = [] ∧
      (poolSt 0x10 32 [(0x4000000, ⟨0, [some 1, none, none, none]⟩)]).poolLive 4 ≠ []) ∧
    ((poolSt 0x80000010 32 []).flag Reg.pwCtrl 31 = true ∧ (poolSt 0x80000010 32 []).poolEn 4 = true ∧ (poolSt 0x80000000 32 []).poolEn 4 = false) := by
  refine ⟨by decide, by decide +kernel, shade_free (by decide), by decide, by decide, by decide +kernel, by decide, by decide, ⟨canon_ok (by decide), by decide⟩, by decide, by decide⟩

/-- A swap of partition 1 is in progress. -/
def swapReq : SwapReq := { cmd := none, mask := 2, arrived := 0, reform := none }
def inSwap (s : State) : State := { s with swap := { Swap.reset with current := some swapReq } }
def shadowCmd (p tb len src : Nat) : Cmd := cmd 0x80 (bytesOf 56 [(0, 1, p), (1, 1, tb), (4, 4, len), (8, 8, src)])
def swapCmd (mask : Nat) : Cmd := cmd 0x81 (bytesOf 56 [(0, 8, mask)])
def abortCmd (all : Nat) : Cmd := cmd 0x84 (bytesOf 56 [(0, 2, 6), (2, 1, all)])

/-- The last table and one beyond it; a length that is right and one that is not. -/
theorem test_witness_ShadowWriteAndRunAbort :
    (∀ x ∈ [(3, 4 * tableWords 3), (5, 64), (3, 4 * tableWords 3 - 4)], let c := shadowCmd 1 x.1 x.2 0x1000
      (withCmd dev c).MgmtIssued c 0x80 ∧ (withCmd dev c).swapping 1 = false ∧ (inSwap (withCmd dev c)).MgmtIssued c 0x80 ∧
      (inSwap (withCmd dev c)).swapping 1 = true) ∧
    (∀ tb ∈ [0, 1, 2, 3, 4], (dev.translate 1 0x1000 (4 * tableWords tb) .rd).isSome = true) ∧
    (dev.translate 1 0x800000 64 .rd = none ∧ dev.translate 1 0x1000 64 .rd = some (ingotBase + 0x1000) ∧
      dev.readStatus (ingotBase + 0x1000) (4 * tableWords 3) = (.ok, none)) ∧
    (∀ path, (dev.shade 1 path).rate = 0) ∧
    (∀ all ∈ [0, 1], (withCmd dev (abortCmd all)).MgmtIssued (abortCmd all) 0x84) ∧
    (let s : State := { dev with cmds := [abortCmd 1, { swapCmd 2 with id := 8, phase := .active }] }
     s.MgmtIssued (abortCmd 1) 0x84 ∧ (s.cmds.filter fun x => x.src == .ring 0 && x.id != 7 && x.phase != .ended && x.status != .aborted) =
       [{ swapCmd 2 with id := 8, phase := .active }] ∧
     (∃ r, ({ s with swap := { Swap.reset with current := some { swapReq with cmd := some 8 } } } : State).swap.current = some r ∧ r.cmd = some 8)) := by
  refine ⟨by decide, by decide, by decide, shade_free (by decide), by decide, by decide, by decide, _, rfl, rfl⟩

/-- Partition 1, whose shadow table differs as given: its window onto Ingot 0 is 8 MiB, and its quota 4 MiB or 8 MiB. -/
def swapSt (c : Cmd) (sh : List (Nat × Nat)) : State :=
  { dev with cmds := [c], parts := [(1, { Part.reset with active := tabOf words, shadow := tabOf (words ++ sh) })] }
/-- Gang entry 1 may be re-formed, and its Lantern is isolated. -/
def reformSt : State := withRegs (withTab dev (words ++ [(tabKey 2 8, 0x00800005)])) [(Reg.lnStatus 0, 0x80000000)]

/-- A swap in progress with its request as given. -/
def swapping (r : SwapReq) (sh : List (Nat × Nat)) : State :=
  { swapSt (swapCmd 2) sh with swap := { Swap.reset with current := some r }, cmds := [] }

theorem stays {s : State} {r : SwapReq} (h : (r.parts.filter fun p => s.leaves r p).isEmpty = true) : s.unbindLeaving r = s := by
  unfold State.unbindLeaving
  rw [List.isEmpty_iff.mp h]
  rfl

/-- What the end of a phase asks: a swap that nothing waits behind, tables that differ, and no stream that must leave. -/
def swapReady (r : SwapReq) (sh : List (Nat × Nat)) : Bool :=
  let s := swapping r sh
  canon s && decide (s.swap.current = some r ∧ s.swap.queue = [] ∧ s.swap.held = [] ∧ s.swap.heldCmds = [] ∧ s.swap.resetPart = none ∧
    s.swap.resetBlock = none ∧ s.ozmel.activateWaits = none ∧ s.cmds = []) && decide (r.reform = none ∧ (s.part 1).active ≠ (s.part 1).shadow) &&
    (r.parts.filter fun p => s.leaves r p).isEmpty

/-- The units that a swap scrubs. -/
def swapUnits (r : SwapReq) (sh : List (Nat × Nat)) : List Nat :=
  let s := swapping r sh
  let old := (List.range 64).map fun p => (s.part p).active
  (s.swapPower old (s.newTables r)).scrubUnits old (s.newTables r)

/-- The end of a drain with nothing to scrub, and of one with Ingot 0 to scrub. -/
theorem test_witness_PartitionSwapPhases_drain :
    (∀ sh ∈ [[(tabKey 0 4, 0x00060010)], [(tabKey 1 0, 0x80000004)]], swapReady { swapReq with late := true } sh = true) ∧
    swapUnits { swapReq with late := true } [(tabKey 0 4, 0x00060010)] = [] ∧ swapUnits { swapReq with late := true } [(tabKey 1 0, 0x80000004)] = [0] ∧
    (∀ p < 64, ∀ e < 64, (2 : Dword).toNat.testBit p = true →
      loadsImage ((swapping swapReq [(tabKey 0 4, 0x00060010)]).part p).active ((swapping swapReq [(tabKey 0 4, 0x00060010)]).part p).shadow e = false) := by
  refine ⟨by decide +kernel, by decide +kernel, by decide +kernel, by decide +kernel⟩

/-- The last scrub and one before it; a swap that has been aborted. -/
theorem test_witness_PartitionSwapPhases_scrub :
    (∀ r ∈ [{ swapReq with scrubs := [0] }, { swapReq with scrubs := [0, 16] }, { swapReq with aborted := true }],
      swapReady r [(tabKey 0 4, 0x00060010)] = true) ∧
    (([0] : List Nat).contains 0 = true ∧ ([0] : List Nat).filter (· != 0) = [] ∧ ([0, 16] : List Nat).contains 16 = true ∧
      ([0, 16] : List Nat).filter (· != 16) ≠ []) := by
  refine ⟨by decide +kernel, by decide⟩

def shareSetCmd (k v : Nat) : Cmd := cmd 0x82 (bytesOf 56 [(0, 1, 1), (1, 1, k), (2, 2, v)])
def shadeSetCmd (path rate depth : Nat) : Cmd := cmd 0x83 (bytesOf 56 [(0, 1, 1), (1, 1, path), (4, 4, rate), (8, 4, depth)])
/-- A SHAPE of partition 1 is ready at Shaper 0, with the arbitration there as given. -/
def arbSt (x : Arb) : State := (({ dev with cmds := [{ cmd 0x20 [] with members := [0] }] } : State).setCredit 32 1 8).setArb 32 x

/-- The last class and path and one beyond them; the least and the greatest depth and one beyond each. -/
theorem test_witness_SharesShadesAndDecisions :
    (∀ x ∈ [(4, 1), (5, 1), (4, 0)], (withCmd dev (shareSetCmd x.1 x.2)).MgmtIssued (shareSetCmd x.1 x.2) 0x82) ∧
    (withCmd dev (shareSetCmd 4 1)).Canonical ∧
    (∀ x ∈ [(6, 1, 4096), (7, 1, 4096), (6, 0, 0), (6, 1, 4095), (6, 1, 2 ^ 30), (6, 1, 2 ^ 30 + 1)],
      (withCmd dev (shadeSetCmd x.1 x.2.1 x.2.2)).MgmtIssued (shadeSetCmd x.1 x.2.1 x.2.2) 0x83) ∧
    (let s := dev.updShade 1 2 fun h => { h with rate := 8, depth := 4096, waiting := [(7, 64)] }
     (s.shade 1 2).waiting = [(7, 64)] ∧ 0 ≤ s.shadeTokens 1 2) ∧
    (let s := arbSt Arb.reset
     s.unitBusy (.shaper 0) = false ∧ (s.arb (arbCode (.shaper 0))).work = none ∧ s.unitReady (.shaper 0) = [1] ∧ s.arbFirst (arbCode (.shaper 0)) (s.unitReady (.shaper 0)) = some 1) ∧
    (let s := arbSt { Arb.reset with work := some (1, 0) }
     s.Canonical ∧ s.unitBusy (.shaper 0) = false ∧ (s.arb (arbCode (.shaper 0))).work = some (1, 0)) ∧
    (decoding true).unitBusy (.smelter 0) = true := by
  refine ⟨by decide, canon_ok (by decide), by decide, by decide, by decide, ⟨canon_ok (by decide), by decide⟩, by decide⟩

/-! ### Witnesses: DRAM and the endpoint -/

/-- Channel 0 of controller 0 is as given, and the device corrects as it reads. -/
def chanSt (ch : Chan) : State := (withRegs dev [(Reg.dramCfg, 0x100)]).setChan 0 0 ch
def qreq (w : Bool) : QReq := ⟨⟨1, w, 0, 0x100, List.replicate 8 7, 0⟩, 0, 0⟩

theorem postponed_zero {s : State} (h : s.nowNs = 0) (n c b : Nat) : s.postponed n c b < 8 := by
  unfold State.postponed
  rw [h, Nat.zero_sub, Nat.zero_div]
  decide

/-- The state eight refresh intervals after its start. -/
def lateBy8 (s : State) : State := { s with tb := { s.tb with sec := 8 * s.refInterval 0 0 } }

theorem lateBy8_postponed (s : State) (h : (s.chan 0 0).refreshed = []) : 8 ≤ (lateBy8 s).postponed 0 0 0 := by
  have p : 0 < s.refInterval 0 0 := by unfold State.refInterval; omega
  have n : 8 * s.refInterval 0 0 ≤ (lateBy8 s).nowNs := by
    have : (lateBy8 s).nowNs = 1000000000 * (8 * s.refInterval 0 0) + s.tbNs := rfl
    omega
  have c : (lateBy8 s).chan 0 0 = s.chan 0 0 := rfl
  have i : (lateBy8 s).refInterval 0 0 = s.refInterval 0 0 := rfl
  unfold State.postponed
  rw [c, h, i, Nat.le_div_iff_mul_le p]
  simpa [sparseGet] using n

/-- The state one refresh interval after its start. -/
def lateBy1 (s : State) : State := { s with tb := { s.tb with sub := s.refInterval 0 0 * 2 ^ 32 } }

theorem lateBy1_now (s : State) (h : s.tb.sec = 0) : (lateBy1 s).nowNs = s.refInterval 0 0 := by
  have e : (lateBy1 s).nowNs = 1000000000 * s.tb.sec + s.refInterval 0 0 * 2 ^ 32 / 2 ^ 32 := rfl
  rw [e, h, Nat.mul_div_cancel _ (by decide)]
  omega

theorem postponed_one {s : State} (h : s.nowNs = s.refInterval 0 0) (hr : (s.chan 0 0).refreshed = []) (b : Nat) : s.postponed 0 0 b = 1 := by
  have p : 0 < s.refInterval 0 0 := by unfold State.refInterval; omega
  unfold State.postponed
  rw [hr, h]
  simp [sparseGet, Nat.div_self p]

/-- A read that has just arrived opens its row one refresh interval after the start. -/
theorem first_of {s : State} {q : QReq} (h : s.nowNs = s.refInterval 0 0) (hr : (s.chan 0 0).refreshed = []) (hq : s.nowNs ≤ q.arrived)
    (hw : (s.chan 0 0).rows = []) : s.refreshFirst 0 0 q = true := by
  have a : s.aged 0 q = false := decide_eq_false (by omega)
  simp [State.refreshFirst, postponed_one h hr, hw, a, tabFind]

/-- The channel's state at the start of its slot. -/
def slotStart (s : State) : State := s.setChan 0 0 { s.chan 0 0 with draining := false, drained := 0 }

theorem slotStart_now (s : State) : (slotStart s).nowNs = s.nowNs := rfl
theorem slotStart_interval (s : State) : (slotStart s).refInterval 0 0 = s.refInterval 0 0 := rfl

/-- A read that arrives one refresh interval after the start. -/
def lateRead : QReq := { qreq false with arrived := (chanSt Chan.reset).refInterval 0 0 }
def lateSt : State := lateBy1 (chanSt { Chan.reset with rq := [lateRead] })

theorem lateBy1_interval (s : State) : (lateBy1 s).refInterval 0 0 = s.refInterval 0 0 := rfl
theorem lateSt_now : lateSt.nowNs = lateSt.refInterval 0 0 := by
  unfold lateSt
  rw [lateBy1_now _ (by decide), lateBy1_interval]
theorem interval_regs {s t : State} (h : s.regs = t.regs) : s.refInterval 0 0 = t.refInterval 0 0 := by
  simp only [State.refInterval, State.fld, State.reg, h]
theorem lateSt_first : (slotStart lateSt).refreshFirst 0 0 lateRead = true := by
  refine first_of ?_ rfl ?_ rfl
  · rw [slotStart_now, slotStart_interval, lateSt_now]
  · rw [slotStart_now, lateSt_now]
    exact Nat.le_of_eq (interval_regs (s := lateSt) (t := chanSt Chan.reset) rfl)

/-- A scanned lane: the four directions have results, or only some. -/
def scanned (l : List Nat) : Chan := { Chan.reset with scan := l.map fun d => (d, ⟨9, some 9⟩) }

/-- A read waits, a write drains, nothing waits, and a refresh is overdue; 63 taps and 62; three directions known, and four. -/
theorem test_witness_DramChannelsAndMargins :
    ((chanSt Chan.reset).flag (Reg.mcCtrl 0) 0 = true ∧ ((chanSt Chan.reset).chan 0 0).gasket = [] ∧ Chan.reset.mostOverdue = 0) ∧
    8 ≤ (lateBy8 (chanSt Chan.reset)).postponed 0 0 0 ∧
    (let s := chanSt { Chan.reset with rq := [qreq false], rows := [(chanSt Chan.reset).bankRow 0x100] }
     let u := slotStart s
     s.postponed 0 0 0 < 8 ∧ s.dramDrains 0 0 = false ∧ u.dramPick 0 0 (u.dramReadable 0 0) = some (qreq false) ∧ u.refreshFirst 0 0 (qreq false) = false ∧
      s.poison = [] ∧ s.aged 0 (qreq false) = false) ∧
    ((lateSt.chan 0 0).mostOverdue = 0 ∧ lateSt.postponed 0 0 0 < 8 ∧ lateSt.dramDrains 0 0 = false ∧
      (slotStart lateSt).dramPick 0 0 ((slotStart lateSt).dramReadable 0 0) = some lateRead ∧ (slotStart lateSt).refreshFirst 0 0 lateRead = true) ∧
    (let ch := { Chan.reset with wq := [qreq true] }
     let s := chanSt ch
     s.postponed 0 0 0 < 8 ∧ s.dramDrains 0 0 = true ∧ (s.setChan 0 0 { ch with draining := true, drained := 0 }).dramPick 0 0 ch.wq = some (qreq true)) ∧
    (let s := chanSt Chan.reset
     let r : DramReq := ⟨1, true, 0, s.usableTop - 8, List.replicate 8 7, 0⟩
     r.da + r.bytes.length ≤ s.usableTop ∧ ([] : List QReq).length < 64 ∧ (∀ k < 4, (s.chan 0 k).gasket = []) ∧ s.poison = [] ∧ s.heldBack 0 0 ⟨r, s.nowNs, s.dram.nextSeq⟩ = false) ∧
    ((chanSt Chan.reset).Canonical ∧ (chanSt Chan.reset).flag (Reg.mcCtrl 0) 1 = true ∧ (chanSt Chan.reset).flag (Reg.mcCtrl 0) 2 = true ∧
      (chanSt Chan.reset).flag Reg.dramCfg 8 = true ∧ (chanSt Chan.reset).flag (Reg.mcStatus 0) 31 = false) ∧
    (∀ taps ∈ [62, 63], let s := chanSt { Chan.reset with scan := [(2, ⟨taps, none⟩), (0, ⟨9, some 9⟩), (1, ⟨9, some 9⟩)] }
      (s.chan 0 0).rq = [] ∧ (s.chan 0 0).wq = [] ∧ sparseGet ⟨0, none⟩ (s.chan 0 0).scan 2 = ⟨taps, none⟩ ∧ (s.chan 0 0).scanResult 0 3 = none ∧ s.ozmel.handover = none) ∧
    (∀ d < 4, ((chanSt (scanned [0, 1, 2, 3])).chan 0 0).scanResult 0 d = some 9) ∧ (chanSt Chan.reset).fld (Reg.mcScan 0) 23 16 ≤ 9 := by
  refine ⟨by decide, lateBy8_postponed _ (by decide), ⟨postponed_zero (by decide) _ _ _, by decide, by decide, by decide, by decide⟩,
    ⟨by decide, by rw [postponed_one lateSt_now rfl]; decide, by decide, rfl, lateSt_first⟩,
    ⟨postponed_zero (by decide) _ _ _, by decide, by decide⟩, by decide, ⟨canon_ok (by decide), by decide⟩, by decide, by decide, by decide⟩

/-- The link is down and may train. -/
def linkDown : State := withRegs dev [(Reg.peStatus, 0)]
/-- A command of ring 0, fetched by the PF, with or without a read of host memory outstanding. -/
def fetched (rs : List HostRead) (ph : CmdPhase) : State :=
  let s := hostDev Ring.reset [{ cmd 0x70 [] with phase := ph }]
  { s with pcie := { s.pcie with reads := rs, vfEnable := true, numVf := 1 } }
def inFlr (f : FnIx) : State := dev.setFunc f { Func.reset with flr := true }

theorem test_witness_LinkAndFunctionResets :
    (linkDown.Canonical ∧ linkDown.pcie.perst = false ∧ linkDown.fabric.refclk = true ∧ linkDown.flag Reg.peStatus 31 = false ∧
      (6 : Fin 7).val ≠ 0 ∧ 16 ∈ [1, 2, 4, 8, 16] ∧ 3 ∉ [1, 2, 4, 8, 16] ∧ dev.flag Reg.peStatus 31 = true) ∧
    (let s := fetched [] .fetched
     s.flag Reg.peStatus 31 = true ∧ s.pcie.reads = [] ∧ (s.func 0).flr = false ∧ s.fnExists 1 = true ∧ s.fnExists 0 = true ∧ (s.func 1).flr = false ∧
      s.pcie.vfEnable = true ∧ (∀ c ∈ s.cmds, c.ofFn (fun _ => true) = true → c.phase = .fetched) ∧ (s.cmds.map (·.id)).Nodup ∧
      (∀ c ∈ s.cmds, c.ofFn (fun g => g == 1) = false) ∧ s.Canonical) ∧
    (let s := fetched [hostRead] .active
     s.flag Reg.peStatus 31 = true ∧ (s.cmds.map (·.id)).Nodup ∧ (∀ c ∈ s.cmds, c.id ∈ s.pcie.reads.map (·.cmd)) ∧ (∀ c ∈ s.cmds, s.cmdLoc c = false)) ∧
    (∀ f ∈ [(0 : FnIx), 255], ((inFlr f).func f).flr = true) ∧ (inFlr 0).Canonical ∧ (inFlr 255).Canonical ∧ dev.fnExists 1 = false := by
  refine ⟨⟨canon_ok (by decide), by decide⟩, ⟨by decide, by decide, by decide, by decide, by decide, by decide, by decide, by decide, by decide, by decide,
    canon_ok (by decide)⟩, by decide, by decide, canon_ok (by decide), canon_ok (by decide), by decide⟩

/-- The window is enabled for reads and writes at DRAM address 0, or for reads only; the last byte below the usable top and the first above. -/
def bar4St (w : Word) (p : List Nat) : State := { withRegs dev [(Reg.peBar4, w.toNat)] with poison := p }

theorem test_witness_DramWindowAndConfiguration :
    (let s := bar4St 0x60000000 []
     s.bar4Hit 0x0FFFFFF8 8 = true ∧ s.bar4Hit 0x3FFFFFF9 8 = false ∧ (s.func 0).flr = false ∧ s.flag Reg.peBar4 30 = true ∧ s.flag Reg.peBar4 29 = true ∧
      mib2 * s.fld Reg.peBar4 26 0 + 0x0FFFFFF8 + 8 ≤ s.usableTop ∧ s.usableTop < mib2 * s.fld Reg.peBar4 26 0 + 0x0FFFFFF9 + 8 ∧
      s.rangeStatus 0x0FFFFFF8 8 = .ok ∧ s.poison = [] ∧ s.poisoned 0x0FFFFFF8 8 = false ∧ (bar4St 0x60000000 [0x1FFFFFF]).poisoned 0x0FFFFFF8 8 = true) ∧
    (withRegs (bar4St 0x60000000 []) ((List.range 8).map fun n => (Reg.mcCtrl n, 0))).rangeStatus 0x0FFFFFF8 8 = .isolated ∧
    (bar4St 0x40000000 []).flag Reg.peBar4 29 = false ∧ (bar4St 0 []).flag Reg.peBar4 30 = false ∧
    ((fetched [hostRead] .active).pcie.reads.find? fun x => x.id == 9) = some hostRead ∧ (∀ x ∈ (fetched [hostRead] .active).pcie.reads, x.id ≠ 8) ∧
    (dev.fnExists 0 = true ∧ dev.discState ≠ 2 ∧ dev.pcie.vfEnable = false ∧ (withRegs dev [(Reg.rstBoot, 0x80000000)]).discState = 2 ∧
      (withRegs dev [(Reg.rstBoot, 0x80000000)]).fnExists 0 = true ∧ devVf.pcie.vfEnable = true ∧ devVf.fnExists 0 = true) ∧ devVf.Canonical ∧
    (let fn := { (hostDev Ring.reset []).func 0 with pba := [5] }
     let s := (hostDev Ring.reset []).setFunc 0 fn
     5 ∈ (s.func 0).pba ∧ fn.msixEnable = true ∧ fn.functionMask = false ∧ fn.busMaster = true ∧ fn.flr = false ∧ s.pcie.d3 = false ∧
      bitOf (fn.msixWord (5 * 4 + 3)) 0 = false ∧ 6 ∉ (s.func 0).pba) := by
  refine ⟨by decide, by decide, by decide, by decide, by decide, by decide, by decide, canon_ok (by decide), by decide⟩

/-! ### Witnesses: the timebase -/

/-- A device whose timebase is as given. -/
def tbSt (regs : List (Nat × Nat)) (f : Timebase → Timebase) : State := let s := withRegs dev regs; { s with tb := f s.tb }

/-- A tick with nothing committed, in servo mode and in slew mode with a slew of either sign; a committed SET and STEP. -/
theorem test_witness_TimebaseCountsSetsAndSteps :
    (dev.fabric.refclk = true ∧ dev.tb.pendingSet = none ∧ dev.tb.pendingStep = none ∧ dev.flag Reg.tbCtrl 1 = false) ∧
    (∀ r ∈ [(-5 : Int), 0, 5], let s := tbSt [(Reg.tbCtrl, 2)] fun t => { t with slewRem := r }
      s.flag Reg.tbCtrl 1 = true ∧ s.tb.slewRem = r ∧ s.fabric.refclk = true ∧ s.tb.pendingSet = none ∧ s.tb.pendingStep = none) ∧
    (dev.Canonical ∧ ∀ o ∈ [Reg.tbCmd, Reg.tbTimeNs, Reg.tbIncrHi, Reg.tbSlew], dev.PfReaches o) ∧
    (let s := tbSt [] fun t => { t with pendingSet := some ⟨3, 1000000000, 0xFFFF⟩ }
     s.Canonical ∧ s.fabric.refclk = true ∧ s.tb.pendingSet = some ⟨3, 1000000000, 0xFFFF⟩ ∧ s.tb.pendingStep = none) ∧
    (let s := tbSt [(Reg.tbCtrl, 1)] fun t => { t with pendingSet := some ⟨3, 5, 0⟩, servo := .locked }
     s.servoOn = true ∧ s.tb.servo = .locked ∧ s.Canonical) ∧
    (let s := tbSt [] fun t => { t with pendingStep := some (-7), incrStaged := some 4 }
     s.Canonical ∧ s.tb.pendingSet = none ∧ s.tb.pendingStep = some (-7) ∧ s.tb.incrStaged = some 4) ∧
    dev.tb.incrStaged = none := by
  refine ⟨by decide, by decide, ⟨dev_canonical, by decide⟩, ⟨canon_ok (by decide), by decide⟩, ⟨by decide, by decide, canon_ok (by decide)⟩,
    ⟨canon_ok (by decide), by decide⟩, by decide⟩

/-- References 0 and 1 are of the kinds given, reference 0 is selected, and the servo is in charge in a state. -/
def refSt (k0 k1 : Nat) (sv : ServoState) (more : List (Nat × Nat)) : State :=
  tbSt ([(Reg.tbCtrl, 1), (Reg.refCfg 0, k0), (Reg.refCfg 1, k1)] ++ more) fun t => { t with servo := sv, refs := [{ TimeRef.reset with inRun := 8, prevWord := some 4 }, { TimeRef.reset with inRun := 8 }] }

/-- A sample of each source and servo state, with a jump where it is allowed and without. -/
theorem test_witness_OffsetSampleDrivesServo :
    (∀ sv ∈ [ServoState.acquire, .pullin, .locked], ∀ k ∈ [1, 2], let s := refSt k 0 sv []
      s.PfReaches (Reg.tbOffset 0) ∧ s.refSrc 0 = k ∧ s.servoOn = true ∧ s.refSelected 0 = true ∧ s.tb.servo = sv) ∧
    (let s := refSt 1 0 .locked [(Reg.tbCtrl, 0x21)]
     s.servoOn = true ∧ s.flag Reg.tbCtrl 5 = true ∧ s.servoStepNs ≤ (signedOf 32 (0x80000000 : Word).toNat).natAbs ∧ ¬ s.servoStepNs ≤ (signedOf 32 (1 : Word).toNat).natAbs) ∧
    (∀ ns ∈ [499999999, 500000000], let s := let s := refSt 3 0 .locked []; { s with tb := { s.tb with sub := ns * 2 ^ 32 } }
      s.refSrc 0 = 3 ∧ s.tbNs = ns) ∧
    signedOf 32 (BitVec.ofNat 32 499999999).toNat = 499999999 ∧ signedOf 32 (BitVec.ofNat 32 (2 ^ 32 - 500000000)).toNat = 500000000 - 1000000000 ∧
    (refSt 1 0 .locked []).Canonical ∧ dev.servoOn = false := by
  refine ⟨by decide, by decide, by decide, by decide, by decide, canon_ok (by decide), by decide⟩

/-- A deviation within the tolerance and one beyond it; the eighth beyond it in a row of the selected reference, with the other usable. -/
theorem test_witness_MeasurementJudgesReference :
    (let s := refSt 1 2 .locked [(Reg.refStat 0, 0x07000000)]
     s.Canonical ∧ s.refSrc 0 ≠ 0 ∧ s.flag (Reg.refStat 0) 30 = false ∧ s.fld (Reg.refStat 0) 27 24 = 7 ∧ s.refOut 0 0 = false ∧ s.refOut 0 1000000 = true ∧
      s.refSelected 0 = true ∧ s.refUsable 1 = true ∧ s.flag Reg.tbCtrl 7 = false) := ⟨canon_ok (by decide), by decide⟩

theorem test_witness_ReferenceFailureSwitchesOrHolds :
    (∀ k ∈ [0, 2], let s := refSt 1 k .locked []
      s.refSrc 0 ≠ 0 ∧ s.PfReaches (Reg.refCfg 0) ∧ s.flag Reg.tbCtrl 31 = false ∧ s.refSelected 0 = true ∧ s.refUsable 1 = (k == 2) ∧
      (s.tref 0).prevWord = some 4 ∧ s.refSelected 1 = false) ∧
    (refSt 1 2 .locked []).Canonical ∧ (refSt 1 0 .locked []).Canonical ∧
    (let s := refSt 1 2 .locked [(Reg.tbCtrl, 0x80000000)]
     s.Canonical ∧ s.PfReaches (Reg.refCfg 0) ∧ s.flag Reg.tbCtrl 31 = true ∧ ((7 : Word) &&& 0xF07) ≠ s.reg (Reg.refCfg 0)) := by
  refine ⟨by decide, canon_ok (by decide), canon_ok (by decide), canon_ok (by decide), by decide⟩

/-- A target ahead of the time, one that is not, and an edge that has come, one-shot and periodic. -/
theorem test_witness_TriggersAndCaptures :
    (let s := withRegs dev [(Reg.trigNs 7, 1)]
     s.Canonical ∧ s.PfReaches (Reg.trigCfg 7) ∧ tbAhead (s.trigTarget 7) s.nowNs = true ∧ tbAhead (dev.trigTarget 7) dev.nowNs = false ∧
      bitOf (0x80000000 : Word) 31 = true ∧ bitOf (0x80000000 : Word) 29 = false) ∧
    (∀ w ∈ [0x80000001, 0xA0000001], let s := tbSt [(Reg.trigCfg 7, w)] fun t => { t with trigs := List.replicate 7 ⟨false, none, 0⟩ ++ [⟨false, some 0, 0⟩] }
      canon s = true ∧ (s.trig 7).next = some 0 ∧ tbAhead 0 s.nowNs = false ∧ s.flag (Reg.trigCfg 7) 29 = (w == 0xA0000001)) ∧
    (∀ n ∈ [3, 4], let s := tbSt [(Reg.capCfg 7, 0xC0000000)] fun t => { t with caps := List.replicate 7 [] ++ [List.replicate n ⟨true, 0, 0⟩] }
      canon s = true ∧ (∀ f ∈ [false, true], capWants (s.reg (Reg.capCfg 7)) f = true) ∧ (s.capList 7).length = n ∧ s.flag (Reg.capCfg 7) 28 = false ∧
      s.PfReaches (Reg.capCfg 7)) := by
  refine ⟨⟨canon_ok (by decide), by decide⟩, by decide, by decide⟩

/-! ### Witnesses: resets, power and the mailboxes -/

/-- Each cause of a warm reset at a bound: the trip temperature, the armed watchdog, the option that leaves SAFE state by itself. -/
theorem test_witness_WarmResetKeepsAndClears :
    dev.Canonical ∧ dev.PfReaches Reg.rstGlobal ∧ (bitsOf (0x4B440001 : Word) 31 16 = 0x4B44 ∧ bitOf (0x4B440001 : Word) 0 = true ∧ bitsOf (0x4B450001 : Word) 31 16 ≠ 0x4B44) ∧
    (let s : State := { dev with ozmel := { dev.ozmel with wdogArmed := true } }
     s.Canonical ∧ s.ozmel.wdogArmed = true) ∧ (dev.tripTj : Int) ≤ 115 ∧
    (let s : State := { dev with options := bytesOf 128 [(3, 1, 2)], fabric := { dev.fabric with safe := true } }
     s.Canonical ∧ s.fabric.safe = true ∧ (s.opt 3 1).testBit 1 = true ∧ s.fabric.refclk = true ∧ s.fabric.vddLow = false) := by
  refine ⟨dev_canonical, by decide, by decide, ⟨canon_ok (by decide), by decide⟩, by decide, canon_ok (by decide), by decide⟩

/-- A warm reset is held, or not, with PERST_N, THERMTRIP_N and the supply as given. -/
def heldSt (held perst trip low : Bool) : State :=
  { dev with pcie := { dev.pcie with perst := perst }, outs := { dev.outs with thermtrip := trip }, fabric := { dev.fabric with vddLow := low, resetHeld := held } }
/-- The device is starting. -/
def starting : State := { dev with ozmel := { dev.ozmel with ready := false } }

theorem test_witness_PowerOnAndStarts :
    dev.Canonical ∧
    ((heldSt true true false false).pcie.perst = true ∧ (heldSt true false true false).outs.thermtrip = true ∧
      (94 : Int) < ((heldSt true false true false).tripTj : Int) - 20 ∧ ¬ (95 : Int) < ((heldSt true false true false).tripTj : Int) - 20) ∧
    (∀ s ∈ [heldSt true false false false, heldSt true false true false, heldSt true true false true], s.fabric.resetHeld = true ∧ s.fabric.refclk = true) ∧
    (heldSt false true false false).fabric.resetHeld = false ∧
    (starting.Canonical ∧ starting.discState = 0 ∧ starting.fabric.resetHeld = false ∧ starting.ozmel.running = true) := by
  refine ⟨dev_canonical, by decide, by decide, by decide, canon_ok (by decide), by decide⟩

theorem test_witness_SafeStateHoldsAndClears :
    dev.Canonical ∧ dev.fabric.safe = false ∧ dev.fabric.refclk = true ∧ 559 < 560 := ⟨dev_canonical, by decide⟩

/-- Lantern 0's domains as given (two bits each), and the park bits. -/
def domSt (w park : Nat) : State := withRegs dev [(Reg.pdState 0, w), (Reg.pdPark, park), (Reg.pdAuto, 0x10000)]

/-- A logic domain and an Ingot that are wanted; one domain of each kind that is not; a park and an unpark. -/
theorem test_witness_DomainsFollowPolicy :
    (∀ x ∈ [(0, 0x55555554), (4, 0x55555455)], let s := domSt x.2 0
      s.domState x.1 = 0 ∧ s.wantsOn x.1 = true ∧ (x.1 % 5 = 4 → s.domOn (lnDom (x.1 / 5)) = true)) ∧
    (domSt 0x55555554 0).Canonical ∧ (domSt 0x55555455 0).Canonical ∧
    (∀ d ∈ [75, 79, 80, 92, 96, 107, 108, 118], dev.domState d = 1 ∧ dev.wantsOn d = false) ∧ dev.Canonical ∧
    (let s := domSt 0x55555555 0
     s.flag Reg.pdAuto 16 = true ∧ (s.arr 0 0).job = none ∧ (s.arr 0 1).job = none ∧ s.domOn (arrDom 0 false) = true ∧ s.domOn (arrDom 0 true) = true ∧
      (∀ q < 4, s.findDesc 0 q 0x21 = none) ∧ s.domOn (spillDom 0) = true) ∧
    (let s := domSt 0x55555555 1
     s.Canonical ∧ s.flag Reg.pdPark 0 = true ∧ s.flag Reg.pdPark 16 = false ∧ (∀ c ∈ (s.lantern 0).ctxs, c.cmd = none)) ∧
    (let s := domSt 0x55555600 0x10000
     s.Canonical ∧ s.flag Reg.pdPark 0 = false ∧ s.flag Reg.pdPark 16 = true ∧ s.domState (lnDom 0) = 0 ∧ s.domState (ingotDom 0) = 2 ∧
      s.hasQuota 0 = true ∧ s.ozmel.ready = true ∧ s.flag (Reg.lnStatus 0) 31 = false) := by
  refine ⟨by decide, canon_ok (by decide), canon_ok (by decide), by decide, dev_canonical, by decide, ⟨canon_ok (by decide), by decide⟩, canon_ok (by decide), by decide⟩

theorem test_witness_UnitsReadmittedAndReset :
    (let s := withRegs dev [(Reg.arrayRuntimeMap, 1)]
     s.Canonical ∧ s.flag Reg.arrayRuntimeMap (arrBit 0 0) = true ∧ s.issuedAll 0 = [] ∧ s.flag (Reg.lnStatus 0) 31 = false ∧
      (∀ c ∈ (s.lantern 0).ctxs, c.cmd = none) ∧ s.domOn (lnDom 0) = true ∧ s.failedTests.contains (arrBit 0 0) = false ∧
      ({ s with failedTests := [arrBit 0 0] } : State).failedTests.contains (arrBit 0 0) = true) ∧
    (let s := withRegs dev [(Reg.lnStatus 0, 0x80000000)]
     s.flag (Reg.lnStatus 0) 31 = true ∧ (s.ingotErr 0).readmit = false ∧ s.failedTests.contains 32 = false) ∧
    (let s := withRegs dev [(Reg.smStatus 0, 0x80000000), (Reg.pdState 5, 0x55555554)]
     s.Canonical ∧ s.flag (Reg.smStatus 0) 31 = true ∧ s.domState (smDom 0) = 0 ∧ s.failedTests.contains 64 = false) ∧
    (let s := (withRegs dev [(Reg.pdState 6, 0x55555455)]).setBank 0 { Bank.reset with quarantined := true }
     (s.bank 0).quarantined = true ∧ s.domOn (cbDom 0) = false) ∧
    (let s := dev.setIngotErr 0 { IngotErr.reset with ranges := [(ingotBase, 64)] }
     s.Canonical ∧ (s.ingotErr 0).ranges = [(ingotBase, 64)] ∧ (s.ingotErr 0).readmit = false ∧ s.swap.current = none) ∧
    (dev.Canonical ∧ dev.PfReaches Reg.rstBlock ∧ dev.PfReaches Reg.rstPart ∧ bitOf (0x80003003 : Word) 31 = true ∧ bitOf (0x80003003 : Word) 29 = false ∧
      dev.flag Reg.rstBlock 30 = false ∧ dev.swap.current = none ∧ bitsOf (0x80003003 : Word) 15 8 = 0x30 ∧ bitsOf (0x80003003 : Word) 4 0 = 3 ∧
      dev.domOn (shDom 3) = true ∧ bitOf (0x80000001 : Word) 31 = true ∧ dev.flag Reg.rstPart 30 = false ∧ bitsOf (0x80000001 : Word) 5 0 = 1 ∧
      (∀ c ∈ dev.cmds, c.part ≠ 1) ∧ dev.streamsOf 1 = []) := by
  refine ⟨⟨canon_ok (by decide), by decide⟩, by decide, ⟨canon_ok (by decide), by decide⟩, by decide, ⟨canon_ok (by decide), by decide⟩, dev_canonical, by decide⟩

/-- A request of an ID, sequence 9, with a payload. -/
def mbReq (id : Nat) (pl : List Byte) : List Byte := bytesOf 16 [(0, 2, 0x4B44), (2, 1, 1), (4, 2, id), (6, 2, 9), (8, 2, pl.length)] ++ pl
/-- A request is posted in the PF's mailbox: its header words are as given. -/
def posted (h0 h1 h2 : Nat) : State := withRegs dev [(mbKey 0 0, h0), (mbKey 0 4, h1), (mbKey 0 8, h2), (mbH2d 0, 2)]
/-- The PF's mailbox is as given. -/
def withBox (m : Mailbox) : State := dev.setMailbox 0 m

/-- A request that passes its check and one of an unknown ID; a payload at its least and greatest length and one byte beyond each. -/
theorem test_witness_MailboxExchange :
    (dev.fnAnswers 0 = true ∧ dev.blockAnswers Reg.mbH2dCtl = true ∧ dev.flag (mbH2d 0) 1 = false ∧ (posted 0 0 0).flag (mbH2d 0) 1 = true) ∧
    (∀ x ∈ [(0x00014B44, 0x00090001, none), (0x00014B44, 0x00090099, some Status.badOpcode), (0x00024B44, 0x00090001, some .badVersion)],
      let s := posted x.1 x.2.1 0
      s.mbServed = true ∧ (s.func 0).flr = false ∧ (s.mailbox 0).requests = [] ∧
      s.mbCheck 0 ((s.mbArea 0 0).take (16 + min 2016 (fieldAt (s.mbArea 0 0) 8 2))) = x.2.2) ∧
    (posted 0x00014B44 0x00090001 0).Canonical ∧
    (∀ x ∈ [(5, some Status.badOpcode), (6, none)], mbNeed (mbReq 2 (List.replicate x.1 0)) = some 6 ∧ dev.mbCheck 0 (mbReq 2 (List.replicate x.1 0)) = x.2) ∧
    (mbNeed (mbReq 2 (List.replicate 2017 0)) = some 6 ∧ fieldAt (mbReq 2 (List.replicate 2017 0)) 8 2 = 2017) ∧
    (dev.mbCheck 1 (mbReq 0x20 [0, 0, 0, 0]) = some .notOwner ∧ dev.flag Reg.rstBoot 31 = false ∧ dev.flag Reg.mbH2dCtl 31 = false ∧
      (withRegs dev [(Reg.mbH2dCtl, 0x80000000)]).flag Reg.mbH2dCtl 31 = true ∧ 0x20 ∈ mbSettings) ∧
    (∀ m ∈ [(⟨[], [[1, 2]], [], 0⟩ : Mailbox), ⟨[], [], [[1, 2]], 0⟩], canon (withBox m) = true ∧ (withBox m).mbServed = true ∧
      (withBox m).flag (mbD2h 0) 31 = false ∧ ((withBox m).func 0).flr = false ∧
      ((withBox m).mailbox 0).responses ++ ((withBox m).mailbox 0).notifs = [[1, 2]]) ∧
    ((dev.mailbox 0).notifs.length < 32 ∧ 32 ≤ ((withBox ⟨[], [], List.replicate 32 [], 0⟩).mailbox 0).notifs.length) := by
  refine ⟨by decide, by decide, canon_ok (by decide), by decide, by decide, by decide, by decide, by decide⟩

/-! ### Witnesses: messages, loops, events and peripherals -/

/-- A request stands at the front of a function's mailbox. -/
def asks (s : State) (f id : Nat) (pl : List Byte) : State := s.setMailbox f ⟨[mbReq id pl], [], [], 0⟩

/-- Fields of a message at their bounds and one beyond, by ID. -/
def payloads : List (Nat × List Byte) :=
  [(0x01, []), (0x52, []), (0x32, []), (0x33, [0]), (0x33, [1]), (0x03, [1]), (0x05, [3, 0, 1]),
   (0x02, bytesOf 6 [(0, 1, 6), (1, 1, 1), (4, 2, 64)]), (0x02, bytesOf 6 [(0, 1, 7), (4, 2, 64)]), (0x02, bytesOf 6 [(4, 2, 2001)]),
   (0x02, bytesOf 6 [(0, 1, 2), (2, 2, 48), (4, 2, 2000)]), (0x02, bytesOf 6 [(0, 1, 2), (2, 2, 49), (4, 2, 2000)]),
   (0x06, [4, 1]), (0x06, [5, 1]), (0x40, [0, 0, 0, 0, 62]), (0x40, [0, 0, 0, 0, 63]), (0x12, [8]), (0x12, [9]),
   (0x10, bytesOf 64 [(32, 1, 32)]), (0x10, bytesOf 64 [(32, 1, 33)]), (0x10, bytesOf 64 [(0, 1, 1), (1, 1, 3), (8, 1, 1), (32, 1, 128)]),
   (0x11, bytesOf 48 [(4, 2, 4095)]), (0x11, bytesOf 48 [(4, 2, 4096)]), (0x11, bytesOf 48 [(0, 1, 1), (1, 1, 1), (2, 1, 3), (4, 2, 0xFFFF)]),
   (0x20, [1, 0, 2, 0]), (0x20, [0, 0, 3, 0]), (0x50, [100, 0, 30, 95]), (0x50, [99, 0, 30, 95]),
   (0x51, [95, 100, 20, 0, 1, 100, 1, 100, 100, 10]), (0x51, [95, 99, 20, 0, 1, 100, 1, 100, 100, 10])]

theorem test_witness_MessagesAreAnswered_fields : ∀ x ∈ payloads, (asks dev 0 x.1 x.2).Asks 0 x.1 (mbReq x.1 x.2) [] ∧ (mbReq x.1 x.2).drop 16 = x.2 := by decide

/-- Partition 1 gives rings 0 to 15 to VF 1. -/
def vfDev : State := withTab dev ((words.filter fun e => e.1 / 512 != 4) ++ [(tabKey 4 0, 0x00100000), (tabKey 4 1, 1)])
/-- The log holds an entry, the exception queue a frame, and a group has another member. -/
def reportDev : State :=
  { dev with excq := [(0, 0, List.replicate 72 0)], ozmel := { dev.ozmel with
      log := [⟨1, 2, 3, 0x0970, 0, 1, List.replicate 28 0, false⟩]
      mcast := [(1, mcastKey (bytesOf 48 [(0, 1, 1), (1, 1, 1), (2, 1, 3), (4, 2, 0xFFFF)]))] } }

/-- What the reports ask beside their payload. -/
theorem test_witness_MessagesAreAnswered_reports :
    (dev.fnPart 1 = none ∧ vfDev.fnPart 1 = some 1 ∧ vfDev.vfRing 1 15 = some 15 ∧ vfDev.vfRing 1 16 = none) ∧
    (∀ k ∈ [15, 16], let pl := bytesOf 40 [(0, 2, k), (32, 4, 0x00A00404)]
      (asks vfDev 1 4 pl).Asks 1 4 (mbReq 4 pl) [] ∧ fieldAt ((mbReq 4 pl).drop 16) 0 2 = k) ∧
    (dev.stream? 1 3 = none ∧ netDev.stream? 1 3 = some (stream3 (some 5)) ∧ (stream3 (some 5)).entry = some 5 ∧ netDev.dec? 0 = some dec0 ∧
      (asks netDev 0 5 [3, 0, 1]).Asks 0 5 (mbReq 5 [3, 0, 1]) []) ∧
    (reportDev.ozmel.log ≠ [] ∧ dev.ozmel.log = [] ∧ (asks reportDev 0 0x40 [0, 0, 0, 0, 1]).Asks 0 0x40 (mbReq 0x40 [0, 0, 0, 0, 1]) [] ∧
      (asks reportDev 0 0x12 [1]).Asks 0 0x12 (mbReq 0x12 [1]) []) ∧
    (let pl := bytesOf 48 [(0, 1, 1), (1, 1, 1), (2, 1, 3), (4, 2, 0xFFFF)]
     (asks reportDev 0 0x11 pl).Asks 0 0x11 (mbReq 0x11 pl) [] ∧ (0, mcastKey pl) ∉ reportDev.ozmel.mcast ∧ (1, mcastKey pl) ∈ reportDev.ozmel.mcast ∧
      pl.length = 48 ∧ dev.ozmel.mcast.length < 256) := by decide +kernel

/-- A number of n bytes, high byte first. -/
def hex (n v : Nat) : List Byte := (leBytes n v).reverse
/-- The header of an image without bytes, sequence 3, signed by a key whose hash is keyHash. -/
def imageHeader : List Byte :=
  leBytes 4 0x4F5A4D4C ++ leBytes 4 3 ++ leBytes 4 0 ++ leBytes 4 0x00020001 ++
  hex 32 0xe3b0c44298fc1c149afbf4c8996fb92427ae41e4649b934ca495991b7852b855 ++
  hex 32 0x114239a2f1d9281ece5a8983df7951edfe91936885456e6ea31f3d8d56d9d743 ++ hex 32 0x6f9a412aef868cbaef56b796e82e6b4200d17505c3dcb710b5deafc89cc545f3 ++
  hex 32 0xb382802992f6a779f2d981d98ece0e88fea001880a448b7dc5d28803aacf73d2 ++ hex 32 0x1b6f6b6520d56b72a341f6cb43de7d9d49cd68914db7b312d5b5505be3d4057b ++
  List.replicate 76 0 ++ leBytes 4 0x6ee75540
def keyHash : List Byte := hex 32 0x6cf79a570f854e5f9592063a044b521fe3b8a75e393df86af63886f2b2db6ca1

/-- Slots of 2 MiB at 1 MiB and 3 MiB; an update of 16 bytes with 8 received, or a committed slot 1. -/
def slotDev (len : Option Nat) (done : Option Nat) : State :=
  { dev with
    options := bytesOf 128 [(16, 4, 0x100000), (20, 4, 0x300000), (24, 4, 0x200000)]
    fuses := { dev.fuses with keyHash := keyHash }
    ozmel := { dev.ozmel with updLen := len, updEnd := 8, updCommitted := done } }
def data (off len : Nat) : List Byte := bytesOf (8 + len) [(0, 4, off), (4, 4, len)]

/-- The SHA-256 of no bytes, as FIPS 180-4's examples give it. -/
theorem test_sha256_empty : sha256 [] = hex 32 0xe3b0c44298fc1c149afbf4c8996fb92427ae41e4649b934ca495991b7852b855 := by decide +kernel

/-- A signed image stands in the idle slot of the device. -/
def signedDev : State := (slotDev (some 256) none).writeFlash 0x300000 imageHeader
theorem test_witness_MessagesAreAnswered_image :
    (asks signedDev 0 0x32 []).Asks 0 0x32 (mbReq 0x32 []) [] ∧ signedDev.idleSlot = 1 ∧ signedDev.ozmel.updLen ≠ none ∧ signedDev.ozmel.updEnd ≠ 0 ∧ signedDev.slotOk 1 = true := by
  decide +kernel

/-- An update that fits exactly and one that does not; data of the least length at its place and at another; a slot with an image that passes (above)
and one without; a committed slot with and without RESET, in recovery mode, and during a swap. -/
theorem test_witness_MessagesAreAnswered_update :
    (∀ x ∈ [0x200000, 0x200001], let pl := leBytes 4 x
      (asks (slotDev none none) 0 0x30 pl).Asks 0 0x30 (mbReq 0x30 pl) [] ∧ fieldAt ((mbReq 0x30 pl).drop 16) 0 4 = x ∧ (slotDev none none).slotSize = 0x200000) ∧
    (∀ x ∈ [(8, 8), (8, 7), (9, 8), (8, 9)], let pl := data x.1 x.2
      (asks (slotDev (some 16) none) 0 0x31 pl).Asks 0 0x31 (mbReq 0x31 pl) [] ∧ fieldAt ((mbReq 0x31 pl).drop 16) 0 4 = x.1 ∧
      fieldAt ((mbReq 0x31 pl).drop 16) 4 4 = x.2) ∧
    ((slotDev (some 16) none).ozmel.updLen = some 16 ∧ (slotDev (some 16) none).ozmel.updEnd = 8 ∧ dev.ozmel.updLen = none ∧ dev.ozmel.updEnd = 0) ∧
    ((asks (slotDev (some 16) none) 0 0x32 []).Asks 0 0x32 (mbReq 0x32 []) [] ∧ (slotDev (some 16) none).idleSlot = 1 ∧ (slotDev (some 16) none).slotOk 1 = false) ∧
    (∀ x ∈ [0, 1], (asks (slotDev none (some 1)) 0 0x33 [BitVec.ofNat 8 x]).Asks 0 0x33 (mbReq 0x33 [BitVec.ofNat 8 x]) [] ∧
      (slotDev none (some 1)).ozmel.updCommitted = some 1 ∧ (slotDev none (some 1)).flag Reg.rstBoot 31 = false ∧ (slotDev none (some 1)).swap.current = none) ∧
    (dev.ozmel.updCommitted = none ∧ (withRegs dev [(Reg.rstBoot, 0x80000000)]).flag Reg.rstBoot 31 = true ∧ (inSwap dev).swap.current ≠ none) := by decide +kernel

/-- Each step of the loops at a bound. -/
def loopDev (f : Fabric → Fabric) (o : Ozmel → Ozmel) : State := { dev with fabric := f dev.fabric, ozmel := o dev.ozmel }
def shortArp : List Byte := List.replicate 8 0 ++ bytesOf 60 [(12, 1, 8), (13, 1, 6)]
/-- An ARP request for 10.0.0.1, Ethernet on IPv4. -/
def arpFrame : List Byte :=
  List.replicate 8 0 ++ bytesOf 14 [(12, 1, 8), (13, 1, 6)] ++ [0, 1, 8, 0, 6, 4, 0, 1, 2, 0, 0, 0, 0, 9, 10, 0, 0, 2, 0, 0, 0, 0, 0, 0, 10, 0, 0, 1] ++ List.replicate 18 0
def arpDev (fr : List Byte) (net : List NetCfg) (up : Nat) : State :=
  { withRegs dev [(Reg.ethPort 0, up)] with excq := [(0, 0, List.replicate 68 0), (0, 0, fr)], ozmel := { dev.ozmel with net := net } }
def net0 : NetCfg := ⟨0, 0, bytesOf 64 [(2, 1, 2), (16, 4, 0x0100000A)]⟩

theorem test_witness_OzmelLoopsAndRecords :
    (starting.loopsRun = false ∧ dev.loopsRun = true) ∧
    (∀ n ∈ [1, 2, 3], (loopDev (fun x => { x with vSilent := n }) id).loopsRun = true ∧ (loopDev (fun x => { x with vSilent := n }) id).fabric.vSilent = n) ∧
    (let v := dev.fabric.vCmdMv
     v + 5 ≤ v + 5 ∧ v ≤ v + 5 + 5 ∧ v + 5 < v + 6) ∧
    ((withRegs dev [(Reg.fabCtrl, 4)]).flag Reg.fabCtrl 2 = true ∧ dev.ozmel.consts.pwrLimit - 30 + 30 ≤ dev.ozmel.consts.pwrLimit ∧
      dev.fabric.tj ≤ (dev.ozmel.consts.boostTj : Int)) ∧
    (decide (dev.targetRate < 2000) = dev.ozmel.throttled ∧ (dev.mailbox 0).notifs.length < 31) ∧
    (let s := loopDev id fun o => { o with powerRate := 1999999 }
     decide (s.targetRate < 2000) ≠ s.ozmel.throttled ∧ (s.mailbox 0).notifs.length < 32) ∧
    (∀ x ∈ [(28, true), (29, false)], let s := loopDev id fun o => { o with fanDuty := 30000000, fanFailRuns := [x.1, 0] }
      s.loopsRun = true ∧ s.ozmel.fanFail = false ∧ decide (∀ n ∈ failRuns s.ozmel.fanDuty s.ozmel.fanFailRuns [299, 300], n < 30) = x.2) ∧
    ((loopDev id fun o => { o with fanFail := true }).ozmel.fanFail = true) ∧
    ((loopDev id fun o => { o with handover := some (mbReq 0x33 [0]), updCommitted := some 1 }).ozmel.handover = some (mbReq 0x33 [0]) ∧ dev.ozmel.handover = none) ∧
    (dev.slotState (dev.fld Reg.rstBoot 9 8) ≠ .trial ∧
      (loopDev id fun o => { o with slotStates := [.trial, .invalid] }).slotState 0 = .trial ∧ dev.fld Reg.rstBoot 9 8 = 0 ∧ dev.ozmel.ready = true) ∧
    (State.reset.ozmel.running = false ∧ dev.ozmel.running = true ∧ dev.ozmel.handover = none) ∧
    ((∀ e ∈ [(0, 0, List.replicate 68 (0 : Byte))], ozmelFrame (e.2.2.drop 8) = false) ∧
      (∀ x ∈ [(shortArp, [], 0), (shortArp, [net0], 0), (arpFrame, [net0], 0x10000000)], let s := arpDev x.1 x.2.1 x.2.2
        s.loopsRun = true ∧ (s.excq.findIdx? fun e => ozmelFrame (e.2.2.drop 8)) = some 1 ∧ listAt (0, 0, []) s.excq 1 = (0, 0, x.1) ∧
        (s.ozmel.net.find? fun c => c.port == 0 && c.link == 0) = x.2.1.head? ∧ s.flag (Reg.ethPort 0) 28 = decide (x.2.2 ≠ 0)) ∧
      netAnswer net0 (shortArp.drop 8) = none ∧ (netAnswer net0 (arpFrame.drop 8)).isSome = true) := by decide +kernel

/-- An event of Soot. -/
def event (trig : Option Nat) : SootEvent := ⟨0x0A40, 1, some 1, 2, 3, false, trig, List.replicate 8 0, 0⟩
/-- Soot is enabled and n events wait; trigger 3 is armed, with ONCE or without. -/
def sootDev (n : Nat) (trig : Option Nat) (once : Nat) : State :=
  { withRegs dev [(Reg.sootCtrl, 1)] with soot := { dev.soot with
      queue := List.replicate n (event trig), trigs := tabOf [(48, 0x80000000 + once)], rates := [(0x0A40, 0xFFFF)] } }

/-- Soot disabled; a queue with one place left and a full one; an event with a trigger that stays armed and with one that disarms. -/
theorem test_witness_SootQueuesAndRecords :
    ((withRegs dev [(Reg.sootCtrl, 0)]).flag Reg.sootCtrl 0 = false ∧ dev.soot.queue = [] ∧ dev.PfReaches (Reg.sootRdata 0)) ∧
    (∀ n ∈ [63, 64], let s := sootDev n none 0
      s.flag Reg.sootCtrl 0 = true ∧ bitsOf (s.sootRate 0x0A40) 15 0 = 0xFFFF ∧ s.soot.queue.length = n ∧ s.fabric.refclk = true) ∧
    (∀ x ∈ [(none, 0), (some 3, 0), (some 3, 0x40000000)], (sootDev 1 x.1 x.2).soot.queue = event x.1 :: [] ∧
      bitOf (wordGet (sootDev 1 x.1 x.2).soot.trigs 48) 30 = decide (x.2 ≠ 0)) := by decide +kernel

/-- Cage 1: CG_CTRL, CG_STATUS, and a transfer to it. -/
def cageDev (ctrl status : Nat) : State :=
  let s := withRegs dev [(Reg.cgCtrl 1, ctrl), (Reg.cgStatus 1, status), (Reg.i2c0Xfer, 0x48500404), (Reg.ethPort 1, 0xF0000000)]
  { s with periph := { s.periph with i2c := some 0x08500404, cgReleased := [false, true] } }

theorem test_witness_CagesReportAndSwitch :
    ((cageDev 0x90 0xC0).Canonical ∧ (1 : Nat) < 2 ∧ (7 : Nat) < 8 ∧ (cageDev 0x10 0xC0).flag (Reg.cgCtrl 1) 15 = false) ∧
    (let s := (withRegs dev [(Reg.cgCtrl 1, 0x00058000)]).setFunc 0 { Func.reset with busMaster := true, msixEnable := true, table := [(23, 0)] }
     s.Canonical ∧ s.flag (Reg.cgCtrl 1) 15 = true ∧ s.fld (Reg.cgCtrl 1) 26 16 = 5 ∧ s.msixReady 0 5 = true) ∧
    ((cageDev 0 0x80).flag (Reg.cgStatus 1) 7 = true ∧ (cageDev 0 0).flag (Reg.cgStatus 1) 7 = false ∧ (cageDev 0 0x80).flag (Reg.cgCtrl 1) 8 = false ∧
      (cageDev 0x110 0xC0).Canonical ∧ (cageDev 0x110 0xC0).flag (Reg.cgStatus 1) 7 = true ∧ (cageDev 0x110 0xC0).flag (Reg.cgCtrl 1) 8 = true) ∧
    ((cageDev 0x10 0xC0).Canonical ∧ (cageDev 0x10 0xC0).PfReaches (Reg.cgCtrl 1) ∧
      (∀ x ∈ [(0x10, 0xC0, true), (0, 0xC0, false), (0x10, 0, false)],
        bitOf ((if (cageDev 0x10 x.2.1).flag (Reg.cgStatus 1) 7 then BitVec.ofNat 32 x.1 else setBits (BitVec.ofNat 32 x.1) 4 4 0) &&& 0x07FF8133) 4 = x.2.2) ∧
      (cageDev 0x10 0xC0).periph.i2c = some 0x08500404 ∧ boolNat (bitOf (0x08500404 : Word) 27) = 1) ∧
    ((cageDev 0x10 0x80).Canonical ∧ (cageDev 0x10 0x80).flag (Reg.cgCtrl 1) 4 = true ∧ (cageDev 0x10 0x80).flag (Reg.cgStatus 1) 6 = false) ∧
    ((cageDev 0 0x80).flag (Reg.cgCtrl 1) 4 = false ∧ (cageDev 0x10 0xC0).flag (Reg.cgStatus 1) 6 = true) ∧
    ((cageDev 0x30 0xC0).Canonical ∧ (cageDev 0x30 0xC0).flag (Reg.cgCtrl 1) 4 = true ∧ (cageDev 0x30 0xC0).flag (Reg.cgStatus 1) 6 = true) ∧
    ((cageDev 0 0x20).flag (Reg.cgStatus 1) 5 = true ∧ (cageDev 0 0).flag (Reg.cgStatus 1) 5 = false) := by
  refine ⟨⟨canon_ok (by decide), by decide⟩, ⟨canon_ok (by decide), by decide⟩, ⟨by decide, by decide, by decide, canon_ok (by decide), by decide⟩,
    ⟨canon_ok (by decide), by decide⟩, ⟨canon_ok (by decide), by decide⟩, by decide, ⟨canon_ok (by decide), by decide⟩, by decide⟩

/-- A transfer to cage 1 with power, without, and while BUSY; the bytes read at the greatest length; a pin that the device drives and one that it does not;
debug enabled. -/
theorem test_witness_SerialBusesAndPins :
    (let v : Word := 0x88502004
     bitOf v 31 = true ∧ bitOf (0x08502004 : Word) 31 = false ∧ boolNat (bitOf v 27) = 1 ∧ dev.PfReaches Reg.i2c0Xfer ∧ bitOf (dev.reg Reg.i2c0Xfer) 30 = false ∧
      dev.flag (Reg.cgStatus 1) 6 = false ∧ (withRegs dev [(Reg.cgStatus 1, 0xC0)]).Canonical ∧ (withRegs dev [(Reg.cgStatus 1, 0xC0)]).flag (Reg.cgStatus 1) 6 = true ∧
      bitOf ((cageDev 0x10 0xC0).reg Reg.i2c0Xfer) 30 = true) ∧
    (dev.periph.i2c = none ∧ (cageDev 0x10 0xC0).Canonical ∧ (cageDev 0x10 0xC0).periph.i2c = some 0x08500404 ∧ (3 : Nat) < min 32 (bitsOf (0x08500404 : Word) 7 0)) ∧
    (dev.Canonical ∧ (withRegs dev [(Reg.gpioOut, 0x80008000)]).flag Reg.gpioOut 31 = true ∧ dev.flag Reg.gpioOut 31 = false) ∧
    (dev.flag Reg.dbgCtrl 0 = false ∧ (withRegs dev [(Reg.dbgCtrl, 1)]).flag Reg.dbgCtrl 0 = true) := by
  refine ⟨⟨by decide, by decide, by decide, by decide, by decide, by decide, canon_ok (by decide), by decide⟩, ⟨by decide, canon_ok (by decide), by decide⟩, ⟨dev_canonical, by decide⟩, by decide⟩

/-- The line over a character of n cells of 16 samples each; the last cell is as given. -/
def lineOf (cells : List Bool) : List Bool := (cells.map fun c => List.replicate 16 c).flatten
/-- The character 0x55 from the start bit on, then a parity bit where there is one, and the stop bit. -/
def char (rest : List Bool) : List Bool := lineOf ([false, true, false, true, false, true, false, true, false] ++ rest)
/-- The UART with its control word, and characters in its FIFOs. -/
def uartDev (ctrl : Nat) (tx rx : List Byte) (snd : Option Byte) : State :=
  let s := withRegs dev [(Reg.uartCtrl, ctrl)]
  { s with periph := { s.periph with uartTx := tx, uartRx := rx, uartSending := snd } }
/-- The SPI port in recovery mode, or in another state. -/
def spiDev (boot xfer : Nat) (x : Option (Word × Word)) : State :=
  let s := withRegs dev [(Reg.rstBoot, boot), (Reg.spiXfer, xfer)]
  { s with periph := { s.periph with spi := x } }

/-- FIFOs with a place left and full; a character with its stop bit high and low; a wrong parity bit; the last character; a transfer in and out of
recovery mode and while BUSY; each flash operation. -/
theorem test_witness_DebugUartAndFlashPort :
    (dev.PfReaches Reg.uartData ∧ (uartDev 1 (List.replicate 16 0) [] none).periph.uartTx.length = 16 ∧
      (uartDev 1 (List.replicate 15 0) [] (some 0)).periph.uartTx.length < 16 ∧ (uartDev 1 (List.replicate 15 0) [] (some 0)).periph.uartSending ≠ none ∧
      (uartDev 1 [] [] none).periph.uartTx = [] ∧ (uartDev 1 [] [] none).periph.uartSending = none ∧ (uartDev 1 [] [] none).flag Reg.uartCtrl 0 = true ∧
      (uartDev 0 [] [] none).flag Reg.uartCtrl 0 = false ∧ (uartDev 2 [] [1] none).periph.uartRx = 1 :: []) ∧
    (∀ n ∈ [15, 16], let s := uartDev 2 [] (List.replicate n 0) none
      s.flag Reg.uartCtrl 1 = true ∧ s.flag Reg.uartCtrl 6 = false ∧ s.flag Reg.uartCtrl 2 = false ∧ s.fld Reg.uartCtrl 5 4 = 0 ∧
      s.flag Reg.uartCtrl 15 = false ∧ s.periph.uartRx.length = n) ∧
    ((uartDev 2 [] (List.replicate 16 0) none).Canonical ∧ (∀ st ∈ [true, false], (∀ k < 8, lineBit (char [st]) (k + 1) = (0x55 : Byte).getLsbD k) ∧ lineSample (char [st]) 9 8 = st)) ∧
    (∀ x ∈ [(0x12, true), (0x22, false)], let s := uartDev x.1 [] [] none
      canon s = true ∧ s.flag Reg.uartCtrl 1 = true ∧ s.flag Reg.uartCtrl 6 = false ∧ s.flag Reg.uartCtrl 2 = false ∧ s.fld Reg.uartCtrl 5 4 = (if x.2 then 1 else 2) ∧
      ((List.range 8).map fun k => boolNat (lineBit (char [x.2, true]) (k + 1))).sum % 2 ≠ 1 ∧ lineBit (char [x.2, true]) 9 = x.2 ∧ lineSample (char [x.2, true]) 10 8 = true) ∧
    (∀ tx ∈ [[], [(1 : Byte)]], (uartDev 1 tx [] (some 2)).periph.uartSending = some 2 ∧ (uartDev 1 tx [] (some 2)).flag Reg.uartCtrl 6 = false) ∧
    (let v : Word := 0xB0000412
     bitOf v 31 = true ∧ (spiDev 0 0 none).PfReaches Reg.spiXfer ∧ (spiDev 0 0 none).discState ≠ 2 ∧ (spiDev 0x80000000 0 none).PfReaches Reg.spiXfer ∧
      (spiDev 0x80000000 0 none).discState = 2 ∧ (spiDev 0x80000000 0 none).flag Reg.spiXfer 30 = false ∧ (spiDev 0x80000000 0x40000000 none).flag Reg.spiXfer 30 = true ∧
      (spiDev 0 0 none).periph.spi = none) ∧
    ((spiDev 0x80000000 0 none).Canonical ∧ (spiDev 0x80000000 0x40000000 (some (0x10004013, 4096))).Canonical) ∧
    (∀ w : Word, (spiDev 0x80000000 0x40000000 (some (w, 4096))).periph.spi = some (w, 4096)) ∧
    (bitOf (0x10004013 : Word) 28 = true ∧ bitOf (0x10004013 : Word) 29 = false ∧ bitsOf (0x10004013 : Word) 14 8 = 64 ∧ bitsOf (0x10004013 : Word) 7 0 = 0x13 ∧
      bitsOf (0x00000203 : Word) 14 8 ≠ 0 ∧ bitOf (0x00000203 : Word) 29 = false ∧ bitOf (0x30000812 : Word) 28 = true ∧ bitOf (0x30000812 : Word) 29 = true ∧
      bitOf (0x10000021 : Word) 28 = true ∧ bitsOf (0x10000021 : Word) 14 8 = 0 ∧ bitOf (0x30000421 : Word) 29 = true ∧ bitsOf (0x00000006 : Word) 14 8 = 0) := by
  refine ⟨by decide, by decide, ⟨canon_ok (by decide), by decide +kernel⟩, by decide +kernel, by decide, by decide, ⟨canon_ok (by decide), canon_ok (by decide)⟩, fun _ => rfl, by decide⟩

end Sys2Proof.Tests
end

/-!
PROOFS. Register accesses: a write follows the access codes of its bits (R13-R15), and what an access of each size does (R12, R14).
-/

namespace Sys2Proof.Machine

/-! ### Folds over the fields of a register -/

/-- The fields of a kind lie within the word and do not meet: the table lists them from the highest bit down. -/
def RegKind.FieldsWf (k : RegKind) : Prop := (∀ f ∈ k.fields, f.hi < 32) ∧ k.fields.Pairwise fun f g => g.hi < f.lo

theorem fieldsWf_of_mem_regKinds : ∀ k ∈ regKinds, k.FieldsWf := by
  unfold RegKind.FieldsWf
  decide +kernel

theorem fieldsWf_of_regKindOf {off : Nat} {k : RegKind} (h : regKindOf off = some k) : k.FieldsWf :=
  fieldsWf_of_mem_regKinds k (List.mem_of_find?_eq_some h)

/-- A rewriting of a word field by field: g changes the bits of its field alone, each as upd has it. -/
def RewritesFields (g : Word → Fld → Word) (upd : Fld → Nat → Bool → Bool) : Prop :=
  ∀ r f i, f.hi < 32 → bitOf (g r f) i = if f.lo ≤ i ∧ i ≤ f.hi then upd f i (bitOf r i) else bitOf r i

section RewritesFields

variable {g : Word → Fld → Word} {upd : Fld → Nat → Bool → Bool}

/-- A bit outside every field stays. -/
theorem RewritesFields.bitOf_outside (hs : RewritesFields g upd) (i : Nat) (fs : List Fld) (w : Word)
    (h32 : ∀ f ∈ fs, f.hi < 32) (hout : ∀ f ∈ fs, i < f.lo ∨ f.hi < i) : bitOf (fs.foldl g w) i = bitOf w i := by
  induction fs generalizing w with
  | nil => rfl
  | cons f t ih =>
    have hf := hout f (List.mem_cons_self ..)
    rw [List.foldl_cons, ih _ (fun f hf => h32 f (List.mem_cons_of_mem _ hf)) fun f hf => hout f (List.mem_cons_of_mem _ hf),
      hs _ _ _ (h32 f (List.mem_cons_self ..)), if_neg (by omega)]

/-- A bit of a field is rewritten once: the other fields do not hold it. -/
theorem RewritesFields.bitOf_inside (hs : RewritesFields g upd) (i : Nat) (fs : List Fld) (w : Word)
    (h32 : ∀ f ∈ fs, f.hi < 32) (hd : fs.Pairwise fun f g => g.hi < f.lo) (f : Fld) (hf : f ∈ fs) (hlo : f.lo ≤ i) (hhi : i ≤ f.hi) :
    bitOf (fs.foldl g w) i = upd f i (bitOf w i) := by
  induction fs generalizing w with
  | nil => simp at hf
  | cons e t ih =>
    obtain ⟨het, ht⟩ := List.pairwise_cons.mp hd
    have h32t : ∀ f ∈ t, f.hi < 32 := fun f hf => h32 f (List.mem_cons_of_mem _ hf)
    have he := h32 e (List.mem_cons_self ..)
    rw [List.foldl_cons]
    rcases List.mem_cons.mp hf with rfl | hft
    · have hout : ∀ e ∈ t, i < e.lo ∨ e.hi < i := fun e he => .inr (Nat.lt_of_lt_of_le (het e he) hlo)
      rw [hs.bitOf_outside i t _ h32t hout, hs _ _ _ he, if_pos ⟨hlo, hhi⟩]
    · have := het f hft
      rw [ih _ h32t ht hft, hs _ _ _ he, if_neg (by omega)]

end RewritesFields

/-! ### A word after a write (R14) -/

/-- What a write of the bit v leaves in a bit that was b, by the access code of its field. -/
def Acc.written (locked : Bool) (b v : Bool) : Acc → Bool
  | .rw => v
  | .rwl => if locked then b else v
  | .w1c => b && !v
  | _ => b

theorem bitOf_and_not (w m : Word) (i : Nat) : bitOf (w &&& ~~~m) i = (bitOf w i && !bitOf m i) := by
  simp only [bitOf, BitVec.testBit_toNat, BitVec.getLsbD_and, BitVec.getLsbD_not]
  by_cases h : i < 32
  · simp [h]
  · simp [BitVec.getLsbD_of_ge w i (Nat.le_of_not_lt h)]

theorem bitOf_zero (i : Nat) : bitOf 0 i = false := Nat.zero_testBit i

theorem bitOf_setBits_bitsOf (w v : Word) (hi lo i : Nat) (h : hi < 32) :
    bitOf (setBits w hi lo (bitsOf v hi lo)) i = if lo ≤ i ∧ i ≤ hi then bitOf v i else bitOf w i := by
  rw [bitOf_setBits _ _ _ _ _ h, testBit_bitsOf]
  split
  · next hin => simp [Nat.sub_add_cancel hin.1, show i - lo < hi + 1 - lo by omega]
  · rfl

/-- The step of RegKind.merge rewrites its field by the access code. -/
theorem merge_rewritesFields (locked : Bool) (v : Word) :
    RewritesFields (fun r f => match f.acc with
      | .rw => setBits r f.hi f.lo (bitsOf v f.hi f.lo)
      | .rwl => if locked then r else setBits r f.hi f.lo (bitsOf v f.hi f.lo)
      | .w1c => r &&& ~~~(setBits 0 f.hi f.lo (bitsOf v f.hi f.lo))
      | .ro => r
      | .wo1 => r
      | .rc => r
      | .wo => r) fun f i b => f.acc.written locked b (bitOf v i) := by
  rintro r ⟨hi, lo, acc⟩ i h
  cases acc with
  | rw => exact bitOf_setBits_bitsOf r v hi lo i h
  | rwl =>
    cases locked
    · exact bitOf_setBits_bitsOf r v hi lo i h
    · simp [Acc.written]
  | w1c =>
    simp only [Acc.written, bitOf_and_not, bitOf_setBits_bitsOf _ _ _ _ _ h, bitOf_zero]
    split <;> simp
  | ro | wo1 | rc | wo => simp [Acc.written]

theorem RegKind.bitOf_merge_field {k : RegKind} (hk : k.FieldsWf) (l : Bool) (w v : Word) (f : Fld) (hf : f ∈ k.fields) (i : Nat)
    (hlo : f.lo ≤ i) (hhi : i ≤ f.hi) : bitOf (k.merge l w v) i = f.acc.written l (bitOf w i) (bitOf v i) :=
  (merge_rewritesFields l v).bitOf_inside i k.fields w hk.1 hk.2 f hf hlo hhi

theorem RegKind.bitOf_merge_outside {k : RegKind} (hk : k.FieldsWf) (l : Bool) (w v : Word) (i : Nat)
    (h : ∀ f ∈ k.fields, i < f.lo ∨ f.hi < i) : bitOf (k.merge l w v) i = bitOf w i :=
  (merge_rewritesFields l v).bitOf_outside i k.fields w hk.1 h

/-! ### A plain write (R15) -/

/-- Only a register with an RWL field can be violated. -/
theorem RegKind.rwl_of_violates {k : RegKind} {l : Bool} {w v : Word} (h : k.violates l w v = true) : ∃ f ∈ k.fields, f.acc = .rwl := by
  simp only [RegKind.violates, Bool.and_eq_true, List.any_eq_true, beq_iff_eq] at h
  obtain ⟨-, f, hf, hacc, -⟩ := h
  exact ⟨f, hf, hacc⟩

/-- The registers that a lock violation writes have no lock of their own. -/
theorem off_of_violates {off : Nat} {k : RegKind} {l : Bool} {w v : Word} (hk : regKindOf off = some k) (h : k.violates l w v = true) :
    off ≠ Reg.errStatus ∧ off ≠ Reg.sootDrop := by
  have key : ∀ o ∈ [Reg.errStatus, Reg.sootDrop], (regKindOf o).all (fun k => k.fields.all fun f => f.acc != .rwl) = true := by decide
  obtain ⟨f, hf, hacc⟩ := RegKind.rwl_of_violates h
  have hno : off ∉ [Reg.errStatus, Reg.sootDrop] := by
    intro hmem
    have hall := key off hmem
    rw [hk, Option.all_some, List.all_eq_true] at hall
    simpa [hacc] using hall f hf
  simpa using hno

section PlainWrite

variable {s : State} {off : Nat} {k : RegKind} (v : Word) (hk : regKindOf off = some k)
include hk

theorem State.plainWrite_unlocked (h : k.violates (s.lockedKind k) (s.reg off) v = false) :
    s.plainWrite off v = s.setReg off (k.merge (s.lockedKind k) (s.reg off) v) := by
  simp [State.plainWrite, State.fieldWrite, hk, h]

theorem State.plainWrite_violation (h : k.violates (s.lockedKind k) (s.reg off) v = true) :
    s.plainWrite off v = (s.setReg off (k.merge (s.lockedKind k) (s.reg off) v)).lockViolation (srcOf off) off := by
  simp [State.plainWrite, State.fieldWrite, hk, h]

/-- The register itself holds the merged word, whether the write violates a lock or not. -/
theorem State.reg_plainWrite_same (hr : Rising s.regs) :
    (s.plainWrite off v).reg off = k.merge (s.lockedKind k) (s.reg off) v := by
  cases hv : k.violates (s.lockedKind k) (s.reg off) v with
  | false => rw [State.plainWrite_unlocked v hk hv, State.reg_setReg_same _ _ _ hr]
  | true =>
    obtain ⟨herr, hdrop⟩ := off_of_violates hk hv
    rw [State.plainWrite_violation v hk hv, State.reg_lockViolation _ _ _ _ herr hdrop, State.reg_setReg_same _ _ _ hr]

end PlainWrite

/-- A lock violation sets ERR_STATUS.LOCK_VIOL. -/
theorem State.flag_lockViolation (s : State) (src off : Nat) (hr : Rising s.regs) : (s.lockViolation src off).flag Reg.errStatus 0 = true := by
  have h : Reg.errStatus ≠ Reg.sootDrop := by decide
  rw [State.lockViolation, State.flag, State.reg_sootEvent _ _ _ _ _ h]
  exact State.flag_setFlag_same _ _ _ _ hr (by decide)

/-! ### The way of a 32-bit write -/

theorem exec_registerWrite_b32 (s : State) (bar : RegBar) (off : Nat) (v : Dword) (h : off % 4 = 0) :
    exec (.registerWrite bar off .b32 v) s = .next (s.writeBar bar off (v.setWidth 32)) := by
  simp [exec, execRegisterWrite, accessParts, h]

theorem exec_registerWrite_b64 (s : State) (bar : RegBar) (off : Nat) (v : Dword) (h : off % 4 = 0) :
    exec (.registerWrite bar off .b64 v) s =
      .next ((s.writeBar bar off (v.setWidth 32)).writeBar bar (off + 4) ((v >>> 32).setWidth 32)) := by
  simp [exec, execRegisterWrite, accessParts, h]

/-- An access of no part writes nothing. -/
theorem exec_registerWrite_none (s : State) (bar : RegBar) (off : Nat) (size : AccessSize) (v : Dword) (h : accessParts off size = []) :
    exec (.registerWrite bar off size v) s = .next s := by
  simp [exec, execRegisterWrite, h]

/-- A part of less than 4 bytes writes nothing. -/
theorem exec_registerWrite_short (s : State) (bar : RegBar) (off n : Nat) (size : AccessSize) (v : Dword)
    (h : accessParts off size = [(off, n)]) (hn : n ≠ 4) : exec (.registerWrite bar off size v) s = .next s := by
  simp [exec, execRegisterWrite, h, hn]

theorem State.pfReach_of_reaches {s : State} {off : Nat} (h : s.PfReaches off) (t : State) : s.pfReach off t = t := by
  simp [State.pfReach, h.1, h.2]

/-- Outside the broadcast windows a 32-bit write through PF BAR0 goes to one register. -/
theorem exec_registerWrite_pf (s : State) (off : Nat) (v : Word) (ha : off % 4 = 0) (hb : off / 0x10000 < 0x400)
    (hln : off / 0x10000 ≠ 0x0F) (hsm : off / 0x10000 ≠ 0x2F) :
    exec (.registerWrite .pf off .b32 (v.setWidth 64)) s = .next (s.pfReach off (s.writeOne off v)) := by
  have hmask : ¬ (off = Reg.lnBcastMask ∨ off = Reg.smBcastMask) := by
    simp only [Reg.lnBcastMask, Reg.smBcastMask]
    omega
  rw [exec_registerWrite_b32 _ _ _ _ ha, State.writeBar, if_pos (by omega), State.writePf, if_neg hmask, if_neg (by omega), if_neg (by omega)]
  simp

/-- The blocks whose registers are all plain: Global, power domains, Shapers, snapshot encoders, endpoint. -/
def plainBlocks : List Nat := [0x01, 0x03, 0x30, 0x31, 0x32, 0x33, 0x38, 0x50]

theorem mem_plainBlocks {b : Nat} : b ∈ plainBlocks ↔
    b = 0x01 ∨ b = 0x03 ∨ b = 0x30 ∨ b = 0x31 ∨ b = 0x32 ∨ b = 0x33 ∨ b = 0x38 ∨ b = 0x50 := by simp [plainBlocks]

theorem State.writeOne_plain (s : State) (off : Nat) (v : Word) (h : off / 0x10000 ∈ plainBlocks) :
    s.writeOne off v = s.plainWrite off v := by
  have hne : ∀ o, o / 0x10000 ∉ plainBlocks → off ≠ o := fun o ho e => ho (e ▸ h)
  have h1 := hne Reg.dramCfg (by decide)
  have h2 := hne (Reg.ethPort 0) (by decide)
  have h3 := hne (Reg.ethPort 1) (by decide)
  have h4 := hne Reg.ingSsel (by decide)
  have h5 := hne (Reg.cgCtrl 0) (by decide)
  have h6 := hne (Reg.cgCtrl 1) (by decide)
  have h7 : ¬ (0x540000 ≤ off ∧ off < 0x548000) := by
    rw [mem_plainBlocks] at h
    omega
  rw [mem_plainBlocks] at h
  rcases h with h | h | h | h | h | h | h | h <;> simp [State.writeOne, h, h1, h2, h3, h4, h5, h6, h7]

/-- Registers whose write is a command of its own, with the command. -/
def writeCommands (v : Word) : List (Nat × Instr) :=
  [(Reg.winSel, .winSelWrite v), (Reg.winLo, .winLoWrite v), (Reg.winHi, .winHiWrite v), (Reg.ptData, .ptDataWrite v),
   (Reg.rqSel, .rqSelWrite v), (Reg.rqCtx 7, .rqCtx7Commit v), (Reg.tbIncrHi, .tbIncrCommit v), (Reg.tbSlew, .tbSlewWrite v),
   (Reg.refCfg 0, .refCfgWrite 0 v), (Reg.refCfg 1, .refCfgWrite 1 v), (Reg.rstGlobal, .rstGlobal v), (Reg.rstPart, .rstPart v),
   (Reg.rstBlock, .rstBlock v), (Reg.uartData, .uartDataWrite v)]

/-- Such a command does what the write of its register does, where the register is reached. -/
theorem exec_writeCommand (s : State) (v : Word) (off : Nat) (c : Instr) (h : (off, c) ∈ writeCommands v) :
    (off % 4 = 0 ∧ off / 0x10000 < 0x400 ∧ off / 0x10000 ≠ 0x0F ∧ off / 0x10000 ≠ 0x2F) ∧
      exec c s = .next (s.pfReach off (s.writeOne off v)) := by
  simp only [writeCommands, List.mem_cons, List.not_mem_nil, or_false, Prod.mk.injEq] at h
  rcases h with ⟨rfl, rfl⟩ | ⟨rfl, rfl⟩ | ⟨rfl, rfl⟩ | ⟨rfl, rfl⟩ | ⟨rfl, rfl⟩ | ⟨rfl, rfl⟩ | ⟨rfl, rfl⟩ | ⟨rfl, rfl⟩ | ⟨rfl, rfl⟩ |
    ⟨rfl, rfl⟩ | ⟨rfl, rfl⟩ | ⟨rfl, rfl⟩ | ⟨rfl, rfl⟩ | ⟨rfl, rfl⟩ <;> exact ⟨by decide, rfl⟩

/-! ### The obligation on writes -/

/-- Settles O6: in the plain blocks the write ends in plainWrite, whose word is the merged one bit by bit and which a lock violation does not
touch again; at the other offsets it is the command's own operation. -/
theorem registerWriteFollowsAccessCodes : Obligations.RegisterWriteFollowsAccessCodes := by
  unfold Obligations.RegisterWriteFollowsAccessCodes
  refine ⟨?_, ?_⟩
  · intro s off v k hc ha hb hk hreach
    have hwin : off / 0x10000 < 0x400 ∧ off / 0x10000 ≠ 0x0F ∧ off / 0x10000 ≠ 0x2F := by
      have := mem_plainBlocks.mp hb
      omega
    obtain ⟨hlt, hln, hsm⟩ := hwin
    have hwf := fieldsWf_of_regKindOf hk
    have hreg := State.reg_plainWrite_same v hk hc.rising
    refine ⟨s.plainWrite off v, ?_, ?_, ?_, ?_, ?_⟩
    · rw [exec_registerWrite_pf s off v ha hlt hln hsm, s.writeOne_plain off v hb, State.pfReach_of_reaches hreach]
    · intro f hf i hlo hhi
      rw [State.flag, hreg, k.bitOf_merge_field hwf _ _ _ f hf i hlo hhi]
      cases f.acc <;> rfl
    · intro i hout
      rw [State.flag, hreg, k.bitOf_merge_outside hwf _ _ _ i hout, State.flag]
    · intro hv
      rw [State.plainWrite_unlocked v hk hv]
      exact ⟨rfl, fun o ho => State.reg_setReg_other _ _ _ _ (by simpa using ho)⟩
    · intro hv
      rw [State.plainWrite_violation v hk hv]
      refine ⟨State.flag_lockViolation _ _ _ (State.setReg_rising _ _ _ hc.rising), State.lockViolation_eq _ _ _, fun o ho => ?_⟩
      obtain ⟨hoff, herr, hdrop⟩ : o ≠ off ∧ o ≠ Reg.errStatus ∧ o ≠ Reg.sootDrop := by simpa using ho
      rw [State.reg_lockViolation _ _ _ _ herr hdrop, State.reg_setReg_other _ _ _ _ hoff]
  · intro s v off c hmem
    obtain ⟨⟨ha, hlt, hln, hsm⟩, hexec⟩ := exec_writeCommand s v off c hmem
    rw [exec_registerWrite_pf s off v ha hlt hln hsm, hexec]

/-! ### Parts of an access (R12) -/

theorem accessParts_b64 {off : Nat} (h : off % 4 = 0) : accessParts off .b64 = [(off, 4), (off + 4, 4)] := if_pos h

/-- The sizes of at most one word, with their numbers of bytes. -/
def wordSizes : List (AccessSize × Nat) := [(AccessSize.b8, 1), (.b16, 2), (.b32, 4)]

/-- An access within one word is one part. -/
theorem accessParts_within {off n : Nat} {size : AccessSize} (hsize : (size, n) ∈ wordSizes)
    (h : off % 4 + n ≤ 4) : accessParts off size = [(off, n)] := by
  simp only [wordSizes, List.mem_cons, List.not_mem_nil, or_false, Prod.mk.injEq] at hsize
  rcases hsize with ⟨rfl, rfl⟩ | ⟨rfl, rfl⟩ | ⟨rfl, rfl⟩
  · rfl
  · exact if_neg (by omega)
  · exact if_pos (by omega)

/-! ### Reads -/

/-- A misaligned access performs no part, and the bus returns 0. -/
theorem exec_rcRegisterRead_none (s : State) (bar : RegBar) (off : Nat) (size : AccessSize) (hb : s.barAnswers bar = true)
    (h : accessParts off size = []) :
    exec (.rcRegisterRead bar off size) s = .next { s with outs := { s.outs with busData := 0 } } := by
  simp [exec, execRcRegisterRead, hb, h]

/-- An access of one part returns what the BAR gives for it. -/
theorem exec_rcRegisterRead_one (s : State) (bar : RegBar) (off n a : Nat) (size : AccessSize) (s1 : State) (hb : s.barAnswers bar = true)
    (h : accessParts off size = [(off, n)]) (h1 : s.readBar bar (off / 4 * 4) (off % 4) n = (a, s1)) :
    exec (.rcRegisterRead bar off size) s = .next { s1 with outs := { s1.outs with busData := BitVec.ofNat 64 a } } := by
  simp [exec, execRcRegisterRead, hb, h, h1]

/-- A 64-bit read at a multiple of 4: the lower word, then the upper one in the state that the first read left. -/
theorem exec_rcRegisterRead_b64 (s : State) (bar : RegBar) (off a b : Nat) (s1 s2 : State) (hb : s.barAnswers bar = true) (h : off % 4 = 0)
    (h1 : s.readBar bar off 0 4 = (a, s1)) (h2 : s1.readBar bar (off + 4) 0 4 = (b, s2)) :
    exec (.rcRegisterRead bar off .b64) s =
      .next { s2 with outs := { s2.outs with busData := BitVec.ofNat 64 (a + b * 2 ^ 32) } } := by
  have e1 : off / 4 * 4 = off := by omega
  have e2 : (off + 4) / 4 * 4 = off + 4 := by omega
  have e3 : (off + 4) % 4 = 0 := by omega
  simp only [exec, execRcRegisterRead, hb, accessParts_b64 h, List.foldl_cons, List.foldl_nil, e1, e2, e3, h, h1, h2]
  simp

/-- Bytes cut from a word fit the bus. -/
theorem toNat_ofNat_bytes (w : Word) (a b : Nat) : (BitVec.ofNat 64 (w.toNat / a % b)).toNat = w.toNat / a % b := by
  rw [BitVec.toNat_ofNat]
  exact Nat.mod_eq_of_lt (Nat.lt_of_le_of_lt ((Nat.mod_le _ _).trans (Nat.div_le_self _ _)) (w.isLt.trans (by decide)))

/-! ### RC fields (R14) -/

/-- The step of RegKind.clearRc clears its field when it is RC and wholly within the bytes read. -/
theorem clearRc_rewritesFields (o n : Nat) :
    RewritesFields (fun r f => if f.acc == .rc && decide (8 * o ≤ f.lo) && decide (f.hi < 8 * (o + n)) then setBits r f.hi f.lo 0 else r)
      fun f _ b => if f.acc = .rc ∧ 8 * o ≤ f.lo ∧ f.hi < 8 * (o + n) then false else b := by
  intro r f i h
  by_cases hc : f.acc = .rc ∧ 8 * o ≤ f.lo ∧ f.hi < 8 * (o + n)
  · obtain ⟨h1, h2, h3⟩ := hc
    simp [h1, h2, h3, bitOf_setBits _ _ _ _ _ h]
  · have hb : (f.acc == .rc && decide (8 * o ≤ f.lo) && decide (f.hi < 8 * (o + n))) = false := by
      rw [← Bool.not_eq_true]
      simpa [and_assoc] using hc
    simp [hb, hc]

theorem RegKind.bitOf_clearRc_field {k : RegKind} (hk : k.FieldsWf) (o n : Nat) (w : Word) (f : Fld) (hf : f ∈ k.fields) (i : Nat)
    (hlo : f.lo ≤ i) (hhi : i ≤ f.hi) :
    bitOf (k.clearRc o n w) i = if f.acc = .rc ∧ 8 * o ≤ f.lo ∧ f.hi < 8 * (o + n) then false else bitOf w i :=
  (clearRc_rewritesFields o n).bitOf_inside i k.fields w hk.1 hk.2 f hf hlo hhi

theorem RegKind.bitOf_clearRc_outside {k : RegKind} (hk : k.FieldsWf) (o n : Nat) (w : Word) (i : Nat)
    (h : ∀ f ∈ k.fields, i < f.lo ∨ f.hi < i) : bitOf (k.clearRc o n w) i = bitOf w i :=
  (clearRc_rewritesFields o n).bitOf_outside i k.fields w hk.1 h

/-- Without an RC field nothing is cleared. -/
theorem RegKind.clearRc_of_no_rc {k : RegKind} (h : ∀ f ∈ k.fields, f.acc ≠ .rc) (o n : Nat) (w : Word) : k.clearRc o n w = w := by
  have hstep : k.clearRc o n w = k.fields.foldl (fun r _ => r) w := List.foldl_ext _ _ _ fun r f hf => by simp [h f hf]
  exact hstep.trans (List.foldl_fixed _)

/-! ### Reads through PF BAR0 -/

/-- The blocks begin at multiples of 4, so a block answers for a word as for its bytes. -/
theorem State.blockAnswers_word (s : State) (off : Nat) : s.blockAnswers (off / 4 * 4) = s.blockAnswers off := by
  have hlt : ∀ m, m % 4 = 0 → (off / 4 * 4 < m ↔ off < m) := by omega
  have hle : ∀ m, m % 4 = 0 → (m ≤ off / 4 * 4 ↔ m ≤ off) := by omega
  simp only [State.blockAnswers, hlt 0x20000 (by decide), hlt 0x30000 (by decide), hlt 0x60000 (by decide), hlt 0xA0000 (by decide),
    hlt 0x550000 (by decide), hlt 0x590000 (by decide), hle 0x50000 (by decide), hle 0x90000 (by decide), hle 0x540000 (by decide),
    hle 0x580000 (by decide)]

/-- RST_BOOT, which tells the state of the device, has no RC field: no read changes it. -/
theorem State.reg_rstBoot_clearRc {s : State} {off : Nat} {k : RegKind} (hk : regKindOf off = some k) (hr : Rising s.regs) (o n : Nat) :
    (s.setReg off (k.clearRc o n (s.reg off))).reg Reg.rstBoot = s.reg Reg.rstBoot := by
  by_cases h : off = Reg.rstBoot
  · subst h
    have hrc : (regKindOf Reg.rstBoot).all (fun k => k.fields.all fun f => f.acc != .rc) = true := by decide
    rw [hk, Option.all_some, List.all_eq_true] at hrc
    have hno : ∀ f ∈ k.fields, f.acc ≠ .rc := by simpa using hrc
    rw [State.reg_setReg_same _ _ _ hr, RegKind.clearRc_of_no_rc hno]
  · exact State.reg_setReg_other _ _ _ _ (Ne.symm h)

/-- So the blocks answer after a read as before it. -/
theorem State.blockAnswers_clearRc {s : State} {off : Nat} {k : RegKind} (hk : regKindOf off = some k) (hr : Rising s.regs) (o n a : Nat) :
    (s.setReg off (k.clearRc o n (s.reg off))).blockAnswers a = s.blockAnswers a := by
  have hdisc : (s.setReg off (k.clearRc o n (s.reg off))).discState = s.discState := by
    rw [State.discState, State.flag, State.reg_rstBoot_clearRc hk hr]
    rfl
  rw [State.blockAnswers, hdisc]
  rfl

/-- Registers whose read latches, advances or takes something. -/
def effectReads : List Nat := [Reg.tbTimeNs, Reg.sootRdata 0, Reg.ptData, Reg.uartData]

/-- A read of any other register. -/
theorem State.readPf_stored {s : State} {off : Nat} {k : RegKind} (hk : regKindOf off = some k) (h : off ∉ effectReads) (o n : Nat) :
    s.readPf off o n = (s.peekAny off, s.setReg off (k.clearRc o n (s.reg off))) := by
  simp only [effectReads, List.mem_cons, List.not_mem_nil, or_false, not_or] at h
  obtain ⟨h1, h2, h3, h4⟩ := h
  simp [State.readPf, h1, h2, h3, h4, hk]

theorem State.readBar_pf_stored {s : State} {off : Nat} {k : RegKind} (hk : regKindOf off = some k)
    (h : off ∉ effectReads) (hb : s.blockAnswers off = true) (hlt : off < 0x4000000) (o n : Nat) :
    s.readBar .pf off o n = ((s.peekAny off).toNat / 2 ^ (8 * o) % 2 ^ (8 * n), s.setReg off (k.clearRc o n (s.reg off))) := by
  rw [State.readBar, if_pos ⟨hlt, hb⟩, State.readPf_stored hk h]

section PfReads

variable {s : State} (hc : s.Canonical)
include hc

/-- A read of bytes within one word of the PF: the bytes returned, the RC fields cleared, and what stays. -/
theorem State.Canonical.pfRead_within {off n : Nat} {k : RegKind} {size : AccessSize} (hreach : s.PfReaches off) (hlt : off < 0x4000000)
    (hk : regKindOf (off / 4 * 4) = some k) (hst : off / 4 * 4 ∉ effectReads) (hsize : (size, n) ∈ wordSizes)
    (hin : off % 4 + n ≤ 4) :
    let w := off / 4 * 4
    let i := off % 4
    ∃ t, exec (.rcRegisterRead .pf off size) s = .next t ∧
      t.outs.busData.toNat = (s.peekAny w).toNat / 2 ^ (8 * i) % 2 ^ (8 * n) ∧
      (∀ f ∈ k.fields, ∀ b, f.lo ≤ b → b ≤ f.hi →
        t.flag w b = if f.acc = .rc ∧ 8 * i ≤ f.lo ∧ f.hi < 8 * (i + n) then false else s.flag w b) ∧
      (∀ b, (∀ f ∈ k.fields, b < f.lo ∨ f.hi < b) → t.flag w b = s.flag w b) ∧
      t = { s with regs := t.regs, outs := { s.outs with busData := t.outs.busData } } ∧ SameRegs s t [w] := by
  intro w i
  obtain ⟨hblock, hpf⟩ := hreach
  have hwf := fieldsWf_of_regKindOf hk
  have hbar := State.readBar_pf_stored hk hst ((s.blockAnswers_word off).trans hblock) (by omega) i n
  have hexec := exec_rcRegisterRead_one s .pf off n _ size _ hpf (accessParts_within hsize hin) hbar
  have hreg := s.reg_setReg_same w (k.clearRc i n (s.reg w)) hc.rising
  refine ⟨_, hexec, toNat_ofNat_bytes _ _ _, ?_, ?_, rfl, fun o ho => s.reg_setReg_other _ _ _ (by simpa using ho)⟩
  · intro f hf b hlo hhi
    exact (congrArg (bitOf · b) hreg).trans (k.bitOf_clearRc_field hwf i n (s.reg w) f hf b hlo hhi)
  · intro b hout
    exact (congrArg (bitOf · b) hreg).trans (k.bitOf_clearRc_outside hwf i n (s.reg w) b hout)

/-- A 64-bit read of the PF is the read of the lower word, then that of the upper one. -/
theorem State.Canonical.pfRead_b64 {off : Nat} {k k' : RegKind} (hreach : s.PfReaches off) (hreach' : s.PfReaches (off + 4))
    (ha : off % 4 = 0) (hlt : off + 4 < 0x4000000) (hk : regKindOf off = some k) (hk' : regKindOf (off + 4) = some k')
    (hst : off ∉ effectReads) (hst' : off + 4 ∉ effectReads) :
    let s1 := s.setReg off (k.clearRc 0 4 (s.reg off))
    exec (.rcRegisterRead .pf off .b64) s = .next { s1.setReg (off + 4) (k'.clearRc 0 4 (s1.reg (off + 4))) with
      outs := { s.outs with busData := BitVec.ofNat 64 ((s.peekAny off).toNat + (s1.peekAny (off + 4)).toNat * 2 ^ 32) } } := by
  intro s1
  have hblock : s1.blockAnswers (off + 4) = true := (State.blockAnswers_clearRc hk hc.rising 0 4 (off + 4)).trans hreach'.1
  have hfull : ∀ w : Word, w.toNat / 2 ^ (8 * 0) % 2 ^ (8 * 4) = w.toNat := by
    intro w
    have := w.isLt
    omega
  have h1 := State.readBar_pf_stored hk hst hreach.1 (by omega) 0 4
  have h2 := State.readBar_pf_stored hk' hst' hblock hlt 0 4
  rw [hfull] at h1 h2
  exact exec_rcRegisterRead_b64 s .pf off _ _ _ _ hreach.2 ha h1 h2

end PfReads

/-! ### Configuration space (R311) -/

/-- A read of an aligned word of configuration space. -/
theorem exec_configRead (s : State) (f : FnIx) (off : Nat) (ha : off % 4 = 0) (hb : s.barAnswers (.config f) = true) :
    exec (.rcRegisterRead (.config f) off .b32) s =
      .next { s with outs := { s.outs with busData := BitVec.ofNat 64 (s.configRead f.val off).toNat } } := by
  have e : off / 4 * 4 = off := by omega
  have hw := (s.configRead f.val off).isLt
  refine exec_rcRegisterRead_one s (.config f) off 4 _ .b32 s hb (if_pos ha) ?_
  simp [State.readBar, e, ha, Nat.mod_eq_of_lt hw]

theorem State.configRead_device (s : State) (f : Nat) : (s.configRead f 0).toNat / 2 ^ 16 = if f = 0 then 0x7216 else 0x7217 := by
  have hv := Config.pciVendor.isLt
  simp only [State.configRead, if_pos, BitVec.toNat_ofNat]
  split <;> omega

theorem State.configRead_class (s : State) (f : Nat) : (s.configRead f 8).toNat = 0x12000000 + s.fuses.stepping.toNat := by
  have hv := s.fuses.stepping.isLt
  simp [State.configRead]
  omega

theorem leNat_lt (l : List Byte) : leNat l < 256 ^ l.length := by
  induction l with
  | nil => simp [leNat]
  | cons b t ih =>
    have := b.isLt
    simp only [leNat, List.length_cons, Nat.pow_succ]
    omega

/-- A field of n bytes of the option table is below 256 ^ n. -/
theorem State.opt_lt (s : State) (off n : Nat) : s.opt off n < 256 ^ n :=
  Nat.lt_of_lt_of_le (leNat_lt _) (Nat.pow_le_pow_right (by decide) (List.length_take_le _ _))

theorem State.configRead_subsystem (s : State) (f : Nat) : (s.configRead f 0x2C).toNat = s.opt 6 2 * 2 ^ 16 + s.opt 4 2 := by
  have h1 := s.opt_lt 6 2
  have h2 := s.opt_lt 4 2
  simp [State.configRead]
  omega

/-! ### The obligation on sizes -/

/-- Settles O7: an access is the fold of its parts; the parts of each size are listed, and each part is one write, or one read of the BAR. -/
theorem accessSizesAndAlignment : Obligations.AccessSizesAndAlignment := by
  unfold Obligations.AccessSizesAndAlignment
  intro s hc
  refine ⟨?writes, ?misaligned, ?within, ?wide, ?vf, ?config⟩
  case writes =>
    intro bar off v
    refine ⟨exec_registerWrite_short s bar off 1 .b8 v rfl (by decide), ?_, ?_, ?_⟩
    · by_cases h : off % 4 = 3
      · exact exec_registerWrite_none s bar off .b16 v (if_pos h)
      · exact exec_registerWrite_short s bar off 2 .b16 v (if_neg h) (by decide)
    · intro h
      exact ⟨exec_registerWrite_none s bar off .b32 v (if_neg h), exec_registerWrite_none s bar off .b64 v (if_neg h)⟩
    · intro h
      refine ⟨_, exec_registerWrite_b32 s bar off v h, ?_⟩
      rw [exec_registerWrite_b64 s bar off v h, exec_registerWrite_b32 _ bar (off + 4) _ (by omega)]
  case misaligned =>
    intro bar off hb
    refine ⟨fun h => ⟨?_, ?_⟩, fun h => ?_⟩
    · exact exec_rcRegisterRead_none s bar off .b32 hb (if_neg h)
    · exact exec_rcRegisterRead_none s bar off .b64 hb (if_neg h)
    · exact exec_rcRegisterRead_none s bar off .b16 hb (if_pos h)
  case within =>
    intro off k size n hreach hlt hk hst hsize hin
    exact hc.pfRead_within hreach hlt hk hst hsize hin
  case wide =>
    intro off k k' hreach hreach' ha hlt hk hk' hst hst'
    exact hc.pfRead_b64 hreach hreach' ha hlt hk hk' hst hst'
  case vf =>
    intro f off size n hf hfn hsize hin
    have hb : s.barAnswers (.vf f) = true := by simp [State.barAnswers, hf, hfn]
    exact exec_rcRegisterRead_one s (.vf f) off n _ size s hb (accessParts_within hsize hin) rfl
  case config =>
    intro f hb
    refine ⟨⟨_, exec_configRead s f 0 rfl hb, rfl, ?_⟩, ?_, ?_⟩
    · have hw := (s.configRead f.val 0).isLt
      rw [← s.configRead_device f.val, BitVec.toNat_ofNat, Nat.mod_eq_of_lt (by omega)]
    · rw [exec_configRead s f 8 rfl hb, s.configRead_class]
    · rw [exec_configRead s f 0x2C rfl hb, s.configRead_subsystem]

end Sys2Proof.Machine

/-!
PROOFS. The architecture chapter: the state after reset (R24, R33), how a stream is bound, fed, unbound and gets its commands (R20, R25, R211,
R242-R244), and how its records leave (R23, R169, R245).
-/

namespace Sys2Proof.Machine

/-! ### The state after reset -/

/-- At reset no word is listed: every register holds its reset word. -/
theorem State.reg_reset (off : Nat) : State.reset.reg off = resetWord off := rfl

theorem resetWord_pdState : ∀ w < 8, resetWord (Reg.pdState w) = 0 := by decide +kernel

theorem State.domState_reset {d : Nat} (h : d < 120) : State.reset.domState d = 0 := by
  have hw : d / 16 < 8 := by omega
  simp [State.domState, State.fld, State.reg_reset, resetWord_pdState _ hw, bitsOf]

/-- Settles O5: no register word is listed at reset, so each register named reads the reset word of its kind. -/
theorem resetValues : Obligations.ResetValues := by
  unfold Obligations.ResetValues
  simp only [State.reg_reset]
  refine ⟨?nonzero, ?cages, ?controllers, ?smelters, ?quads, ?zero, fun d hd => State.domState_reset hd, fun _ => rfl, rfl, rfl, rfl, rfl⟩
  case nonzero => decide +kernel
  case cages => decide +kernel
  case controllers => decide +kernel
  case smelters => decide +kernel
  case quads => decide +kernel
  case zero => decide +kernel

/-! ### Tables by key, and lists by index -/

theorem tabFind_cons {α : Type} (e : Nat × α) (t : Tab α) (k : Nat) : tabFind (e :: t) k = if e.1 = k then some e.2 else tabFind t k := by
  by_cases h : e.1 = k <;> simp [tabFind, h]

/-- The entry just put is the one found. -/
theorem tabFind_tabPut_same {α : Type} (t : Tab α) (k : Nat) (v : α) : tabFind (tabPut t k v) k = some v := by
  induction t with
  | nil => simp [tabPut, tabFind_cons]
  | cons e t ih =>
    by_cases hlt : k < e.1
    · simp [tabPut, tabFind_cons, hlt]
    · by_cases heq : k = e.1
      · simp [tabPut, tabFind_cons, heq]
      · simp [tabPut, tabFind_cons, hlt, heq, Ne.symm heq, ih]

theorem tabUpd_cons {α : Type} (e : Nat × α) (t : Tab α) (k : Nat) (f : α → α) :
    tabUpd (e :: t) k f = (if e.1 = k then (e.1, f e.2) else e) :: tabUpd t k f := rfl

theorem tabFind_tabUpd_same {α : Type} (t : Tab α) (k : Nat) (f : α → α) : tabFind (tabUpd t k f) k = (tabFind t k).map f := by
  induction t with
  | nil => rfl
  | cons e t ih =>
    by_cases h : e.1 = k
    · simp [tabUpd_cons, tabFind_cons, h]
    · simp [tabUpd_cons, tabFind_cons, h, ih]

theorem tabFind_tabUpd_other {α : Type} (t : Tab α) (k j : Nat) (f : α → α) (h : j ≠ k) : tabFind (tabUpd t k f) j = tabFind t j := by
  induction t with
  | nil => rfl
  | cons e t ih =>
    by_cases hk : e.1 = k
    · have hj : k ≠ j := Ne.symm h
      simp [tabUpd_cons, tabFind_cons, hk, hj, ih]
    · simp [tabUpd_cons, tabFind_cons, hk, ih]

theorem getElem?_listUpd_same {α : Type} (l : List α) (i : Nat) (f : α → α) : (listUpd l i f)[i]? = l[i]?.map f := by
  induction l generalizing i with
  | nil => rfl
  | cons a t ih =>
    cases i with
    | zero => rfl
    | succ i => exact ih i

/-! ### Streams, contexts and commands replaced -/

theorem State.stream?_updStream_same (s : State) (p ix : Nat) (f : Stream → Stream) :
    (s.updStream p ix f).stream? p ix = (s.stream? p ix).map f := tabFind_tabUpd_same ..

theorem State.dec?_updDec_same (s : State) (c : Nat) (f : DecCtx → DecCtx) : (s.updDec c f).dec? c = (s.dec? c).map f :=
  tabFind_tabUpd_same ..

theorem State.dec?_updDec_other (s : State) (c j : Nat) (f : DecCtx → DecCtx) (h : j ≠ c) : (s.updDec c f).dec? j = s.dec? j :=
  tabFind_tabUpd_other _ _ _ _ h

/-- A command in flight after an update that keeps its identity. -/
theorem State.cmd?_updCmd_same (s : State) (id : Nat) (f : Cmd → Cmd) (hf : ∀ c, (f c).id = c.id) :
    (s.updCmd id f).cmd? id = (s.cmd? id).map f := by
  simp only [State.cmd?, State.updCmd, List.find?_map]
  have hpred : ((fun c : Cmd => c.id == id) ∘ fun c => if c.id = id then f c else c) = fun c => c.id == id := by
    funext c
    by_cases h : c.id = id <;> simp [h, hf]
  rw [hpred]
  cases hc : s.cmds.find? fun c => c.id == id with
  | none => rfl
  | some c =>
    have hid : c.id = id := by simpa using List.find?_some hc
    simp [hid]

section Apart

variable (s : State)

@[simp] theorem State.dec?_updStream (p ix c : Nat) (f : Stream → Stream) : (s.updStream p ix f).dec? c = s.dec? c := rfl
@[simp] theorem State.dec?_updCmd (id c : Nat) (f : Cmd → Cmd) : (s.updCmd id f).dec? c = s.dec? c := rfl
@[simp] theorem State.dec?_fresh (c : Nat) : s.fresh.2.dec? c = s.dec? c := rfl
@[simp] theorem State.stream?_updDec (c p ix : Nat) (f : DecCtx → DecCtx) : (s.updDec c f).stream? p ix = s.stream? p ix := rfl
@[simp] theorem State.stream?_updCmd (id p ix : Nat) (f : Cmd → Cmd) : (s.updCmd id f).stream? p ix = s.stream? p ix := rfl
@[simp] theorem State.stream?_fresh (p ix : Nat) : s.fresh.2.stream? p ix = s.stream? p ix := rfl
@[simp] theorem State.cmd?_updStream (p ix id : Nat) (f : Stream → Stream) : (s.updStream p ix f).cmd? id = s.cmd? id := rfl
@[simp] theorem State.cmd?_updDec (c id : Nat) (f : DecCtx → DecCtx) : (s.updDec c f).cmd? id = s.cmd? id := rfl
@[simp] theorem State.cmd?_fresh (id : Nat) : s.fresh.2.cmd? id = s.cmd? id := rfl
@[simp] theorem State.regs_updStream (p ix : Nat) (f : Stream → Stream) : (s.updStream p ix f).regs = s.regs := rfl
@[simp] theorem State.regs_updDec (c : Nat) (f : DecCtx → DecCtx) : (s.updDec c f).regs = s.regs := rfl
@[simp] theorem State.entries_updStream (p ix : Nat) (f : Stream → Stream) : (s.updStream p ix f).entries = s.entries := rfl
@[simp] theorem State.entries_updDec (c : Nat) (f : DecCtx → DecCtx) : (s.updDec c f).entries = s.entries := rfl
@[simp] theorem State.bufs_updStream (p ix : Nat) (f : Stream → Stream) : (s.updStream p ix f).bufs = s.bufs := rfl
@[simp] theorem State.bufs_updDec (c : Nat) (f : DecCtx → DecCtx) : (s.updDec c f).bufs = s.bufs := rfl

end Apart

/-- The command that its engine takes up (R240). -/
theorem State.cmd?_activated {s : State} {c : Cmd} (h : s.cmd? c.id = some c) :
    (s.updCmd c.id fun c => { c with phase := .active }).cmd? c.id = some { c with phase := .active } := by
  rw [State.cmd?_updCmd_same s c.id (fun c => { c with phase := .active }) fun _ => rfl, h]
  rfl

/-- The step of an opcode on a command of that opcode that is issued. -/
theorem State.runOp_issued {s : State} {c : Cmd} {op : Nat} (h : s.Issued c op) (f : Cmd → State → State) : s.runOp c.id op f = f c s := by
  obtain ⟨hc, hph, hop⟩ := h
  simp [State.runOp, hc, hph, hop]

/-! ### Shades without a rate -/

theorem State.shadeAskFrom_unregulated {s : State} {p : Nat} (h : ∀ path, (s.shade p path).rate = 0) (key : Nat) (l : List (Nat × Nat))
    (paths : List Nat) : s.shadeAskFrom p key l paths = (s, true) := by
  induction paths with
  | nil => rfl
  | cons path t ih => simp [State.shadeAskFrom, State.shadeAsk, h, ih]

/-- A partition whose Shades have no rate waits for none of them (R271). -/
theorem State.shadeAskAll_unregulated {s : State} {p : Nat} (h : ∀ path, (s.shade p path).rate = 0) (key : Nat) (l : List (Nat × Nat)) :
    s.shadeAskAll p key l = (s, true) := State.shadeAskFrom_unregulated h key l _

/-! ### Rings kept by the writes to their memory -/

theorem State.store_rings (s : State) (da : Nat) (bs : List Byte) : (s.store da bs).rings = s.rings := by
  have hclear : (s.clearPoison da bs.length).rings = s.rings := by
    unfold State.clearPoison
    split <;> rfl
  have hback : ((s.writeMem da bs).cancelBack da bs.length).rings = (s.writeMem da bs).rings := by
    unfold State.cancelBack
    dsimp only
    split <;> rfl
  have htest : (s.store da bs).rings = ((s.writeMem da bs).cancelBack da bs.length).rings := by
    unfold State.store State.retest
    split <;> rfl
  exact htest.trans (hback.trans hclear)

theorem State.ringWrite_rings (s : State) (r p addr : Nat) (bs : List Byte) : (s.ringWrite r p addr bs).rings = s.rings := by
  unfold State.ringWrite
  split
  · rfl
  · split
    · rfl
    · split
      · exact State.store_rings ..
      · rfl

theorem State.ringTailWrite_rings (s : State) (r p : Nat) (bs : List Byte) : (s.ringTailWrite r p bs).rings = s.rings := by
  unfold State.ringTailWrite
  dsimp only
  split
  · rw [State.ringWrite_rings, State.ringWrite_rings]
  · exact State.ringWrite_rings ..

theorem State.ring_congr {s t : State} (h : t.rings = s.rings) (r : Nat) : t.ring r = s.ring r := by
  rw [State.ring, State.ring, h]

/-- The status block leaves the ring with its count raised (R233). -/
theorem State.ring_statusBlock (s : State) (r p : Nat) (h : Ordered s.rings) :
    (s.statusBlock r p).ring r = { s.ring r with statusCount := (s.ring r).statusCount + 1 } := by
  unfold State.statusBlock
  rw [State.ring_congr (State.ringWrite_rings ..), State.ring_setRing_same _ _ _ h]

/-! ### A record that is being put out (R23) -/

/-- The bytes that a record leaves with: it takes the skipped frames of its stream unless it has taken them before. -/
def Bmr.sent (b : Bmr) (skipped : Nat) : List Byte := if b.fixed then b.bytes else overlay b.bytes 36 (leBytes 2 skipped)

section Record

variable {s : State} {p ix k : Nat} {st : Stream} {b : Bmr} (hst : s.stream? p ix = some st) (hb : st.bmrs[k]? = some b)
include hst hb

theorem State.bmrAt_of_stream : s.bmrAt p ix k = b.bytes := by simp [State.bmrAt, hst, hb]

theorem State.bmrAt_bmrSkips : (s.bmrSkips p ix k).bmrAt p ix k = b.sent st.skipped := by
  have hs : (s.bmrSkips p ix k).stream? p ix = (s.stream? p ix).map _ := State.stream?_updStream_same ..
  cases hf : b.fixed <;> simp [State.bmrAt, hs, hst, hb, hf, Bmr.sent, getElem?_listUpd_same]

end Record

/-! ### The write to a METADATA ring (R245) -/

/-- The state in which record k of a stream has been written at the tail of ring r as the bytes w, in n units, from s0 on. -/
def State.bmrWritten (s0 : State) (p ix k r n : Nat) (w : List Byte) : State :=
  let s1 := s0.ringTailWrite r p w
  let s2 := (s1.setRing r { s1.ring r with cqTail := (s1.ring r).cqTail + BitVec.ofNat 32 n }).statusBlock r p
  ((s2.updStream p ix fun x => { x with bmrs := listUpd x.bmrs k fun y => { y with ring := false } }).countIrq r).bmrGone p ix

section BmrWrite

variable {s : State} {p : PartIx} {ix : StreamIx} {k : Nat} {st : Stream} {b : Bmr} (hst : s.stream? p.val ix.val = some st)
  (hb : st.bmrs[k]? = some b) (hk : (st.bmrs.findIdx? fun x => x.ring) = some k)
include hst hb hk

theorem exec_bmrWrite_blocked
    (h : s.metaRoom st.metaRing ((padTo 64 b.bytes).length / 64) = false ∨ s.snapsOpen p ix b.seq = true) :
    exec (.bmrWrite p ix) s = .next s := by
  simp [exec, execBmrWrite, State.bmrWrite, hst, hk, hb, State.bmrAt_of_stream hst hb, h]

theorem exec_bmrWrite_open (hshade : ∀ path, (s.shade p path).rate = 0) (hroom : s.metaRoom st.metaRing ((padTo 64 b.bytes).length / 64) = true)
    (hsnap : s.snapsOpen p ix b.seq = false) :
    exec (.bmrWrite p ix) s =
      .next ((s.bmrSkips p ix k).bmrWritten p ix k st.metaRing ((padTo 64 b.bytes).length / 64) (padTo 64 (b.sent st.skipped))) := by
  simp [exec, execBmrWrite, State.bmrWrite, hst, hk, hb, State.bmrAt_of_stream hst hb, State.bmrAt_bmrSkips hst hb, hroom, hsnap,
    State.shadeAskAll_unregulated hshade, State.bmrWritten]

end BmrWrite

/-! ### The datagrams (R169, R242) -/

theorem map_zipIdx_range {α β : Type} (n : Nat) (f : Nat → α) (g : α × Nat → β) :
    ((List.range n).map f).zipIdx.map g = (List.range n).map fun i => g (f i, i) := by
  apply List.ext_getElem <;> simp

theorem length_leBytes (n v : Nat) : (leBytes n v).length = n := by
  induction n generalizing v with
  | zero => rfl
  | succ n ih => simp [leBytes, ih]

@[simp] theorem length_beBytes (n v : Nat) : (beBytes n v).length = n := by rw [beBytes, List.length_reverse, length_leBytes]

@[simp] theorem length_bytesFrom (l : List Byte) (off n : Nat) : (bytesFrom l off n).length = n := by simp [bytesFrom]

/-- Bytes of an address of the stream's destination (R242). -/
def Stream.addrLen (st : Stream) : Nat := if (st.par 38 1).testBit 3 then 16 else 4

/-- Where the UDP header begins in a frame of the stream: after the Ethernet header, tagged or not, and the IP header. -/
def Stream.udpOff (st : Stream) : Nat := (if (st.par 38 1).testBit 4 then 18 else 14) + (if (st.par 38 1).testBit 3 then 40 else 20)

/-- E_SPORT and E_DPORT as the UDP header has them. -/
def Stream.udpPorts (st : Stream) : List Byte := beBytes 2 (st.par 34 2) ++ beBytes 2 (st.par 32 2)

theorem bmrUdp_layout (st : Stream) (n : Nat) (own pl : List Byte) :
    ∃ mid, mid.length = 4 ∧ bmrUdp st n own pl = st.udpPorts ++ (mid ++ pl) := by
  have hregroup : ∀ u len sum : List Byte, u ++ len ++ sum ++ pl = u ++ ((len ++ sum) ++ pl) := by simp
  refine ⟨_, ?_, hregroup _ _ _⟩
  simp

theorem append_regroup {α : Type} (a h s d u z : List α) : a ++ (h ++ (s ++ d) ++ u) ++ z = (a ++ (h ++ s)) ++ (d ++ (u ++ z)) := by simp

/-- A frame of a stream: what stands before E_DST, E_DST, the datagram, and the padding. -/
theorem bmrFrame_layout (st : Stream) (mac own ip : List Byte) (v : Nat) (pl : List Byte) :
    ∃ pre mid pad, pre.length + st.addrLen = st.udpOff ∧ mid.length = 4 ∧
      bmrFrame st mac own ip v pl = pre ++ (bytesFrom st.bind 16 st.addrLen ++ (st.udpPorts ++ (mid ++ (pl ++ pad)))) := by
  obtain ⟨mid, hmid, hudp⟩ := bmrUdp_layout st st.addrLen (bytesFrom ip 0 st.addrLen) pl
  have hlayout : ∃ pre pad, pre.length + st.addrLen = st.udpOff ∧ bmrFrame st mac own ip v pl =
      pre ++ (bytesFrom st.bind 16 st.addrLen ++ (bmrUdp st st.addrLen (bytesFrom ip 0 st.addrLen) pl ++ pad)) := by
    cases hv6 : (st.par 38 1).testBit 3 with
    | false =>
      simp only [bmrFrame, Stream.addrLen, Stream.udpOff, hv6, Bool.false_eq_true, if_false]
      refine ⟨_, _, ?_, append_regroup _ _ _ _ _ _⟩
      cases (st.par 38 1).testBit 4 <;> simp
    | true =>
      simp only [bmrFrame, Stream.addrLen, Stream.udpOff, hv6, if_true]
      refine ⟨_, _, ?_, append_regroup _ _ _ _ _ _⟩
      cases (st.par 38 1).testBit 4 <;> simp
  obtain ⟨pre, pad, hpre, hframe⟩ := hlayout
  exact ⟨pre, mid, pad, hpre, hmid, by rw [hframe, hudp]; simp⟩

/-- An Ethernet frame is padded to 60 bytes without its FCS. -/
theorem le_length_bmrFrame (st : Stream) (mac own ip : List Byte) (v : Nat) (pl : List Byte) : 60 ≤ (bmrFrame st mac own ip v pl).length := by
  unfold bmrFrame
  dsimp only
  rw [List.length_append, List.length_replicate]
  omega

theorem take_drop_middle {α : Type} {l a b c : List α} {i n : Nat} (hl : l = a ++ (b ++ c)) (hi : a.length = i) (hn : b.length = n) :
    (l.drop i).take n = b := by
  subst hl hi hn
  simp

/-- Where a frame of a stream carries E_DST, the ports and its payload (R242). -/
theorem bmrFrame_fields (st : Stream) (mac own ip : List Byte) (v : Nat) (pl : List Byte) :
    ((bmrFrame st mac own ip v pl).drop (st.udpOff - st.addrLen)).take st.addrLen = bytesFrom st.bind 16 st.addrLen ∧
    ((bmrFrame st mac own ip v pl).drop st.udpOff).take 4 = st.udpPorts ∧
    ((bmrFrame st mac own ip v pl).drop (st.udpOff + 8)).take pl.length = pl := by
  obtain ⟨pre, mid, pad, hpre, hmid, hframe⟩ := bmrFrame_layout st mac own ip v pl
  have hports : st.udpPorts.length = 4 := by simp [Stream.udpPorts]
  refine ⟨take_drop_middle hframe (by omega) (by simp), ?_, ?_⟩
  · refine take_drop_middle (a := pre ++ bytesFrom st.bind 16 st.addrLen) (c := mid ++ (pl ++ pad)) ?_ ?_ hports
    · rw [hframe, List.append_assoc]
    · simp [hpre]
  · refine take_drop_middle (a := pre ++ (bytesFrom st.bind 16 st.addrLen ++ (st.udpPorts ++ mid))) (c := pad) ?_ ?_ rfl
    · rw [hframe]
      simp
    · simp only [List.length_append, length_bytesFrom, hports, hmid]
      omega

/-- Frame i of a record of the stream, from the state that sends it (log entry 62). -/
def State.bmrFrameAt (s : State) (st : Stream) (port link i : Nat) (pl : List Byte) : List Byte :=
  bmrFrame st (leBytes 6 (Config.freeValue (s.freeCtr + 3)).toNat) (s.linkOwn port link).1 (s.linkOwn port link).2
    (Config.freeValue (s.freeCtr + 4 + i)).toNat pl

theorem State.bmrFrames_range (s : State) (st : Stream) (port link n : Nat) (frag : Nat → List Byte) :
    s.bmrFrames st port link ((List.range n).map frag) = (List.range n).map fun i => s.bmrFrameAt st port link i (frag i) :=
  map_zipIdx_range ..

/-- The state in which record k of a stream has left as the frames fs, of n fragments, from s0 on. -/
def State.bmrSent (s0 : State) (p ix k n : Nat) (fs : List (Nat × Nat × List Byte)) : State :=
  let s1 : State := { s0 with freeCtr := s0.freeCtr + 4 + n, outs := { s0.outs with eth := fs.reverse ++ s0.outs.eth } }
  (s1.updStream p ix fun x => { x with bmrs := listUpd x.bmrs k fun y => { y with eth := false } }).bmrGone p ix

/-- Port, link and number of fragments of a record of a stream (R169, R242). -/
def Stream.sendPort (st : Stream) : Nat := natBits (st.par 38 1) 2 2
def Stream.sendLink (st : Stream) : Nat := natBits (st.par 38 1) 1 0
def Stream.fragCount (st : Stream) (b : Bmr) : Nat := (b.bytes.length + st.fragMax - 1) / st.fragMax

/-- The frames of a record that has taken its stream's skipped frames, in index order, with their port and link. -/
def State.bmrDatagrams (s : State) (st : Stream) (ix : Nat) (b : Bmr) : List (Nat × Nat × List Byte) :=
  (List.range (st.fragCount b)).map fun i => (st.sendPort, st.sendLink, s.bmrFrameAt st st.sendPort st.sendLink i
    (bmrFragment ix b.seq i (st.fragCount b) st.fragMax (b.sent st.skipped)))

section BmrSend

variable {s : State} {p : PartIx} {ix : StreamIx} {k : Nat} {st : Stream} {b : Bmr} (hst : s.stream? p.val ix.val = some st)
  (hb : st.bmrs[k]? = some b) (hk : (st.bmrs.findIdx? fun x => x.eth) = some k)
include hst hb hk

theorem exec_bmrDatagramSend_blocked (h : s.snapsOpen p ix b.seq = true) : exec (.bmrDatagramSend p ix) s = .next s := by
  simp [exec, execBmrDatagramSend, State.bmrSend, hst, hk, hb, h]

/-- The datagrams leave on the stream's port and link, or are discarded there when it is down (R401). -/
theorem exec_bmrDatagramSend_open (hshade : ∀ path, (s.shade p path).rate = 0) (h : s.snapsOpen p ix b.seq = false) :
    exec (.bmrDatagramSend p ix) s = .next ((s.bmrSkips p ix k).bmrSent p ix k (st.fragCount b)
      (if s.linkUp st.sendPort st.sendLink then s.bmrDatagrams st ix b else [])) := by
  have hframes : ((s.bmrSkips p ix k).bmrFrames st st.sendPort st.sendLink ((List.range (st.fragCount b)).map fun i =>
      bmrFragment ix b.seq i (st.fragCount b) st.fragMax (b.sent st.skipped))).map (fun f => (st.sendPort, st.sendLink, f)) =
      s.bmrDatagrams st ix b := by
    rw [State.bmrFrames_range, List.map_map]
    rfl
  have hup : (s.bmrSkips p ix k).linkUp st.sendPort st.sendLink = s.linkUp st.sendPort st.sendLink := rfl
  unfold Stream.fragCount Stream.sendPort Stream.sendLink at hframes
  unfold Stream.sendPort Stream.sendLink at hup ⊢
  simp only [exec, execBmrDatagramSend, State.bmrSend, hst, hk, hb, h, State.shadeAskAll_unregulated hshade, State.bmrAt_bmrSkips hst hb,
    Bool.false_eq_true, if_false, hframes, hup]
  split <;> rfl

end BmrSend

/-! ### The obligation on records -/

/-- Settles O32: each output is one case of bmrWrite or bmrSend, whose Shades let it pass at once; the frame's fields are read off its layout. -/
theorem recordsLeaveInOrder : Obligations.RecordsLeaveInOrder := by
  unfold Obligations.RecordsLeaveInOrder
  intro s p ix st k b hst hb hshade s0 w
  refine ⟨?ring, ?ethBlocked, ?eth, ?frame⟩
  case ring =>
    intro hk n r
    refine ⟨fun h => exec_bmrWrite_blocked hst hb hk h, fun hroom hsnap => ?_⟩
    intro s1 s2
    have hrings : s1.rings = s.rings := State.ringTailWrite_rings ..
    refine ⟨exec_bmrWrite_open hst hb hk hshade hroom hsnap, State.ring_congr hrings r, fun hc => ?_⟩
    have hord : Ordered s1.rings := hrings ▸ hc.tabs.2.1
    rw [State.ring_statusBlock _ _ _ (sparseSet_rising _ _ _ _ hord), State.ring_setRing_same _ _ _ hord, State.ring_congr hrings]
  case ethBlocked => exact fun hk h => exec_bmrDatagramSend_blocked hst hb hk h
  case eth =>
    intro hk hsnap m cnt frag port link u done
    have hexec := exec_bmrDatagramSend_open hst hb hk hshade hsnap
    refine ⟨fun hdown => ?_, fun hup => ?_⟩
    · have hneg : ¬ s.linkUp st.sendPort st.sendLink = true := by
        rw [Bool.not_eq_true]
        exact hdown
      rw [hexec, if_neg hneg]
      rfl
    · refine ⟨leBytes 6 (Config.freeValue (s.freeCtr + 3)).toNat, (s.linkOwn port link).1, (s.linkOwn port link).2,
        fun i => (Config.freeValue (s.freeCtr + 4 + i)).toNat, fun c hc => ?_, ?_⟩
      · simp [State.linkOwn, hc]
      · rw [hexec, if_pos (show s.linkUp st.sendPort st.sendLink = true from hup)]
        rfl
  case frame =>
    intro mac own ip v pl f n off
    obtain ⟨hdst, hports, hpl⟩ := bmrFrame_fields st mac own ip v pl
    exact ⟨le_length_bmrFrame .., hdst, hports, hpl⟩

/-! ### A domain switched on (R384) -/

theorem State.domState_congr_reg {s t : State} {d : Nat} (h : t.reg (Reg.pdState (d / 16)) = s.reg (Reg.pdState (d / 16))) :
    t.domState d = s.domState d := by
  rw [State.domState, State.domState, State.fld, State.fld, h]

theorem State.domState_setDom_same (s : State) (d v : Nat) (h : Rising s.regs) : (s.setDom d v).domState d = v % 2 ^ 2 := by
  have hw : d % 16 * 2 + 1 + 1 - d % 16 * 2 = 2 := by omega
  rw [State.domState, State.setDom, State.fld_setFld_same _ _ _ _ _ h (by omega), hw]

theorem State.domOn_congr {s t : State} (h : t.regs = s.regs) (d : Nat) : t.domOn d = s.domOn d := by
  rw [State.domOn, State.domOn, State.domState_congr_reg (State.reg_congr h _)]

/-- The state words of the domains lie below the epochs. -/
theorem pdState_ne_pdEpoch {d : Nat} (h : d < 120) : Reg.pdState (d / 16) ≠ Reg.pdEpoch (d / 4) := by
  unfold Reg.pdState Reg.pdEpoch
  omega

theorem State.reg_windowGap (s : State) (d o : Nat) : (s.windowGap d).reg o = s.reg o := rfl

theorem State.domOn_powerUp (s : State) {d : Nat} (hd : d < 120) (h : Rising s.regs) : (s.powerUp d).domOn d = true := by
  by_cases hon : s.domOn d = true
  · rw [State.powerUp, if_pos hon, hon]
  · have hstate : (((s.setDom d 1).bumpEpoch d).windowGap d).domState d = (s.setDom d 1).domState d := by
      apply State.domState_congr_reg
      rw [State.reg_windowGap, State.bumpEpoch, State.reg_setFld_other _ _ _ _ _ _ (pdState_ne_pdEpoch hd)]
    rw [State.powerUp, if_neg hon, State.domOn, hstate, State.domState_setDom_same s d 1 h]
    rfl

section Bindings

variable (s : State) (x : Tab Stream) (y : Tab DecCtx) (z : Tab Entry)

/-- The state with other streams, contexts and entries. -/
def State.withBindings : State := { s with streams := x, decs := y, entries := z }

theorem State.setFld_withBindings (off hi lo v : Nat) :
    (s.withBindings x y z).setFld off hi lo v = (s.setFld off hi lo v).withBindings x y z := rfl

theorem State.epoch_withBindings (d : Nat) : (s.withBindings x y z).epoch d = s.epoch d := rfl

theorem State.domOn_withBindings (d : Nat) : (s.withBindings x y z).domOn d = s.domOn d := rfl

theorem State.withBindings_regs : (s.withBindings x y z).regs = s.regs := rfl

theorem State.windowGap_withBindings (d : Nat) : (s.withBindings x y z).windowGap d = (s.windowGap d).withBindings x y z := rfl

/-- The switch of a domain does not see the streams, contexts and entries. -/
theorem State.powerUp_withBindings (d : Nat) : (s.withBindings x y z).powerUp d = (s.powerUp d).withBindings x y z := by
  unfold State.powerUp
  rw [State.domOn_withBindings]
  split
  · rfl
  · rw [State.setDom, State.setFld_withBindings, State.bumpEpoch, State.epoch_withBindings, State.setFld_withBindings,
      State.windowGap_withBindings, State.bumpEpoch, State.setDom]

end Bindings

/-! ### The home of a stream (R194) -/

/-- A fold that keeps the choice before or takes the present element chooses an element. -/
theorem mem_of_foldl_choice {α : Type} {g : Option α → α → Option α} (hg : ∀ m n, g m n = some n ∨ g m n = m) (l : List α) (m : Option α) :
    ∀ h, l.foldl g m = some h → h ∈ l ∨ m = some h := by
  induction l generalizing m with
  | nil => exact fun h hm => .inr hm
  | cons n t ih =>
    intro h hfold
    rcases ih (g m n) h hfold with hmem | hstep
    · exact .inl (List.mem_cons_of_mem _ hmem)
    · rcases hg m n with hn | hm
      · rw [hn, Option.some.injEq] at hstep
        simp [hstep]
      · exact .inr (hm.symm.trans hstep)

/-- The home is one of the twelve Smelters. -/
theorem State.smHome_lt {s : State} {mask h : Nat} {hint : Option Nat} (hh : s.smHome mask hint = some h) : h < 12 := by
  have hfree : ∀ n ∈ (List.range 12).filter fun n => mask.testBit n && s.smFree n, n < 12 := by
    intro n hn
    simpa using (List.mem_filter.mp hn).1
  unfold State.smHome at hh
  dsimp only at hh
  split at hh
  next x hx =>
    obtain rfl := Option.some.inj hh
    exact hfree x (by simpa using (Option.filter_eq_some_iff.mp hx).2)
  next =>
    refine (mem_of_foldl_choice (fun m n => ?_) _ _ h hh).elim (hfree h) (by simp)
    cases m with
    | none => exact .inl rfl
    | some b =>
      dsimp only
      split
      · exact .inl rfl
      · exact .inr rfl

/-! ### STREAM_BIND (R25, R175, R194, R242) -/

/-- HOST_FED of the ingest fields is bit 7 of parameter byte 64. -/
theorem Cmd.par_ingest (c : Cmd) : fieldAt ((c.params.drop 64).take 64) 0 1 = c.par 64 1 := by
  simp [fieldAt, Cmd.par, List.take_take]

/-- DETAIL of a stream bound: its home, context and entry (R242). -/
def bindDetail (c : Cmd) (home ctx ent : Nat) : Word :=
  BitVec.ofNat 32 (2 ^ 28 * home + 2 ^ 16 * ctx + (if (c.par 64 1).testBit 7 then 2 ^ 10 else ent))

/-- What a binding leaves: the stream, its context and, unless it is host-fed, its entry. -/
theorem State.bindStream_eq (s : State) (c : Cmd) (tpl : List (List Byte)) (home ctx ent : Nat) :
    ∃ st d e, s.bindStream c tpl home ctx ent = ((s.powerUp (smDom home)).withBindings (tabPut s.streams (streamKey c.part c.index) st)
        (tabPut s.decs ctx d) (if (c.par 64 1).testBit 7 then s.entries else tabPut s.entries ent e)).endCmd c.id .ok (bindDetail c home ctx ent) ∧
      (st.bind = c.params ∧ st.template = tpl ∧ st.ctx = ctx ∧ st.quad = c.par 1 1 % 4 ∧ st.base = c.par 4 2 % 4096 ∧ st.count = c.par 6 2 % 8192 ∧
        st.entry = (if (c.par 64 1).testBit 7 then none else some ent) ∧ st.jobs = [] ∧ st.unbind = false) ∧
      (d.part = c.part ∧ d.stream = c.index ∧ d.home = home ∧ d.live = !(c.par 0 1).testBit 7 ∧ d.queue = [] ∧ d.frames = []) ∧
      (e.part = c.part ∧ e.stream = c.index ∧ e.ctx = ctx ∧ e.ingest = (c.params.drop 64).take 64) := by
  unfold State.bindStream bindDetail
  rw [← c.par_ingest]
  exact ⟨_, _, _, congrArg (fun t : State => t.endCmd c.id .ok _) (s.powerUp_withBindings _ _ _ _), ⟨rfl, rfl, rfl, rfl, rfl, rfl, rfl, rfl, rfl⟩,
    ⟨rfl, rfl, rfl, rfl, rfl, rfl⟩, rfl, rfl, rfl, rfl⟩

/-- A host-fed stream has no entry, so none is chosen for it. -/
theorem State.bindStream_entry (s : State) (c : Cmd) (tpl : List (List Byte)) (home ctx : Nat) {ent ent' : Nat}
    (h : (c.par 64 1).testBit 7 = false → ent = ent') : s.bindStream c tpl home ctx ent = s.bindStream c tpl home ctx ent' := by
  cases hfeed : (c.par 64 1).testBit 7 with
  | false => rw [h hfeed]
  | true =>
    rw [← c.par_ingest] at hfeed
    simp [State.bindStream, hfeed]

/-- A STREAM_BIND that passes every check binds the stream. -/
theorem State.opStreamBind_passes {s : State} {c : Cmd} {tpl : List (List Byte)} {home ctx : Nat} (hfields : bindFields s c = none)
    (hlimits : s.bindLimits c = none) (h144 : c.par 144 8 < 2 ^ 37) (h160 : c.par 160 8 < 2 ^ 37) (h168 : c.par 168 8 % 2 ^ 63 < 2 ^ 37)
    (hslots : coveredOnce (s.part c.part).active (c.par 160 8) ((if c.par 0 1 % 16 = 0 then 4 else c.par 0 1 % 16) * c.par 156 4) = true)
    (hparams : 0 < natBits (fieldAt ((c.params.drop 64).take 64) 56 8) 63 52 →
      s.translate c.part (natBits (fieldAt ((c.params.drop 64).take 64) 56 8) 36 0) (natBits (fieldAt ((c.params.drop 64).take 64) 56 8) 63 52) .rd ≠ none)
    (htpl : s.readTemplate c.part (c.par 144 8) (c.par 152 1 % 16) = .ok tpl) (hok : templateOk tpl = true)
    (hhome : s.smHome (s.limit c.part 6 2 % 4096) (bindHint c) = some home) (hctx : freeKey s.decs 1024 = some ctx) :
    State.opStreamBind c s = s.bindStream c tpl home ctx ((freeKey s.entries 1024).getD 0) := by
  unfold State.opStreamBind
  simp only [hfields, hlimits]
  rw [if_neg]
  · simp [htpl, hok, hhome, hctx]
  · rintro (⟨hlen, hnone⟩ | hge | hge | hge | hout)
    · exact hparams hlen hnone
    · omega
    · omega
    · omega
    · exact Bool.noConfusion (hslots.symm.trans hout)

section Bind

variable {s : State} {c : Cmd} (hi : s.Issued c 0x10)
include hi

theorem exec_streamBind : exec (.streamBind c.id) s = .next (State.opStreamBind c s) := by
  simp only [exec, execStreamBind, State.runOp_issued hi]

theorem exec_streamBind_badFields {st : Status} (h : bindFields s c = some st) : exec (.streamBind c.id) s = .next (s.endCmd c.id st 0) := by
  rw [exec_streamBind hi, State.opStreamBind]
  simp only [h]

theorem exec_streamBind_badLimits {st : Status} {d : Word} (h : bindFields s c = none) (h' : s.bindLimits c = some (st, d)) :
    exec (.streamBind c.id) s = .next (s.endCmd c.id st d) := by
  rw [exec_streamBind hi, State.opStreamBind]
  simp only [h, h']

end Bind

/-! ### STREAM_FEED (R187, R204, R244) -/

theorem State.useHandle_pass {s : State} {p h off len k i : Nat} (hh : s.handleCheck p h off len = .pass k i) :
    s.useHandle p h off len = (s, .pass k i) := by
  rw [State.useHandle, hh]

theorem State.useHandle_fail {s : State} {p h off len : Nat} {e : Status} (hh : s.handleCheck p h off len = .fail e) :
    s.useHandle p h off len = ((s.useHandle p h off len).1, .fail e) := by
  simp only [State.useHandle, hh]

/-- The access unit that a STREAM_FEED queues to a context. -/
def State.fedUnit (s : State) (c : Cmd) (d : DecCtx) : Au where
  handle := c.par 0 8
  len := c.par 8 4
  gap := (c.par 12 1).testBit 0
  inc := (c.par 12 1).testBit 1
  time := if c.par 16 8 = 0 then 2 ^ 32 * fieldAt c.latched 6 4 + fieldAt c.latched 2 4 else c.par 16 8
  srcTs := c.par 16 8 % 2 ^ 32
  cmd := some c.id
  queued := s.nextId
  param := if d.paramDue then d.params else []

/-- The state in which an access unit of a command has been queued to a context. -/
def State.feedUnit (s : State) (c : Cmd) (ctx : Nat) (au : Au) : State :=
  ((s.fresh.2.updDec ctx fun d => { d with queue := d.queue ++ [au], paramDue := false }).updStream c.part c.index
    fun st => { st with auOut := min 0xFFFFFFFF (st.auOut + 1) }).updCmd c.id fun c => { c with phase := .active }

section FeedUnit

variable {s : State} {c : Cmd} {ctx : Nat} (au : Au)

theorem State.dec?_feedUnit {d : DecCtx} (hd : s.dec? ctx = some d) :
    (s.feedUnit c ctx au).dec? ctx = some { d with queue := d.queue ++ [au], paramDue := false } := by
  simp [State.feedUnit, State.dec?_updDec_same, hd]

theorem State.dec?_feedUnit_other {x : Nat} (h : x ≠ ctx) : (s.feedUnit c ctx au).dec? x = s.dec? x := by
  simp [State.feedUnit, State.dec?_updDec_other _ _ _ _ h]

theorem State.stream?_feedUnit {st : Stream} (hst : s.stream? c.part c.index = some st) :
    (s.feedUnit c ctx au).stream? c.part c.index = some { st with auOut := min 0xFFFFFFFF (st.auOut + 1) } := by
  simp [State.feedUnit, State.stream?_updStream_same, hst]

theorem State.cmd?_feedUnit (hc : s.cmd? c.id = some c) : (s.feedUnit c ctx au).cmd? c.id = some { c with phase := .active } :=
  State.cmd?_activated hc

end FeedUnit

theorem exec_streamFeed {s : State} {c : Cmd} (hi : s.Issued c 0x11) : exec (.streamFeed c.id) s = .next (State.opStreamFeed c s) := by
  simp only [exec, execStreamFeed, State.runOp_issued hi]

section Feed

variable {s : State} {c : Cmd} {st : Stream} {d : DecCtx} (hi : s.Issued c 0x11) (hturn : s.streamTurn c [0x11, 0x12] = true)
  (hst : s.stream? c.part c.index = some st)
include hi hturn hst

theorem exec_streamFeed_entry (h : st.entry.isSome = true) : exec (.streamFeed c.id) s = .next (s.endCmd c.id .badOpcode 0) := by
  simp [exec_streamFeed hi, State.opStreamFeed, hturn, hst, h]

variable (hentry : st.entry = none) (hd : s.dec? st.ctx = some d)
include hentry hd

theorem exec_streamFeed_quarantined (h : s.flag (Reg.smStatus d.home) 31 = true) :
    exec (.streamFeed c.id) s = .next (s.endCmd c.id .isolated 0) := by
  simp [exec_streamFeed hi, State.opStreamFeed, hturn, hst, hentry, hd, h]

variable (hhome : s.flag (Reg.smStatus d.home) 31 = false)
include hhome

theorem exec_streamFeed_full (h : 64 ≤ d.queue.length) : exec (.streamFeed c.id) s = .next s := by
  simp [exec_streamFeed hi, State.opStreamFeed, hturn, hst, hentry, hd, hhome, h]

variable (hroom : d.queue.length < 64)
include hroom

theorem exec_streamFeed_empty (h : c.par 8 4 = 0) : exec (.streamFeed c.id) s = .next (s.endCmd c.id .bounds 0) := by
  simp [exec_streamFeed hi, State.opStreamFeed, hturn, hst, hentry, hd, hhome, hroom, h]

theorem exec_streamFeed_badHandle (h : c.par 8 4 ≠ 0) {e : Status} (he : s.handleCheck c.part (c.par 0 8) 0 (c.par 8 4) = .fail e) :
    exec (.streamFeed c.id) s = .next ((s.useHandle c.part (c.par 0 8) 0 (c.par 8 4)).1.endCmd c.id e 0) := by
  simp only [exec_streamFeed hi, State.opStreamFeed, hturn, hst, hentry, hd, hhome]
  rw [State.useHandle_fail he]
  simp [h, hroom]

theorem exec_streamFeed_pass (h : c.par 8 4 ≠ 0) {k i : Nat} (he : s.handleCheck c.part (c.par 0 8) 0 (c.par 8 4) = .pass k i) :
    exec (.streamFeed c.id) s = .next (s.feedUnit c st.ctx (s.fedUnit c d)) := by
  simp only [exec_streamFeed hi, State.opStreamFeed, hturn, hst, hentry, hd, hhome, h, State.useHandle_pass he,
    Nat.not_le.mpr hroom, Bool.true_eq_false, Bool.false_eq_true, Option.isSome_none, if_false]
  rfl

end Feed

/-! ### Buffers given up (R279, R283) -/

/-- What giving up holds on buffers may change: the buffers, the counts of failed checks, and what an event writes. -/
def BufsGivenUp (s t : State) : Prop :=
  t = { s with bufs := t.bufs, regs := t.regs, soot := t.soot, freeCtr := t.freeCtr } ∧ SameRegs s t [Reg.pwErr, Reg.sootDrop]

theorem BufsGivenUp.refl (s : State) : BufsGivenUp s s := ⟨rfl, fun _ _ => rfl⟩

theorem BufsGivenUp.trans {s t u : State} (h : BufsGivenUp s t) (g : BufsGivenUp t u) : BufsGivenUp s u := by
  obtain ⟨ht, hregs⟩ := h
  obtain ⟨hu, gregs⟩ := g
  exact ⟨hu.trans (by rw [ht]), fun o ho => (gregs o ho).trans (hregs o ho)⟩

theorem BufsGivenUp.foldl {α : Type} {f : State → α → State} (hf : ∀ s a, BufsGivenUp s (f s a)) (l : List α) (s : State) :
    BufsGivenUp s (l.foldl f s) := by
  induction l generalizing s with
  | nil => exact .refl s
  | cons a t ih => exact (hf s a).trans (ih (f s a))

theorem State.bump_pwErr_bufsGivenUp (s : State) (hi lo n : Nat) : BufsGivenUp s (s.bump Reg.pwErr hi lo n) :=
  ⟨rfl, fun _ ho => State.reg_bump_other _ _ _ _ _ _ fun h => ho (by simp [h])⟩

theorem State.sootEvent_bufsGivenUp (s : State) (code : Nat) (arg : Dword) (part : Option Nat) : BufsGivenUp s (s.sootEvent code arg part) := by
  refine ⟨?_, fun _ ho => State.reg_sootEvent _ _ _ _ _ fun h => ho (by simp [h])⟩
  conv => lhs; rw [State.sootEvent_eq]
  rw [State.sootEvent_bufs]

theorem State.useHandle_bufsGivenUp (s : State) (p h off len : Nat) : BufsGivenUp s (s.useHandle p h off len).1 := by
  unfold State.useHandle
  split
  · exact .refl s
  · refine BufsGivenUp.trans ?_ (State.sootEvent_bufsGivenUp _ _ _ _)
    split
    · exact s.bump_pwErr_bufsGivenUp _ _ _
    · exact .refl s
    · exact s.bump_pwErr_bufsGivenUp _ _ _

theorem State.freeHold_bufsGivenUp (s : State) (pool ix p : Nat) : BufsGivenUp s (s.freeHold pool ix p).1 := by
  unfold State.freeHold
  dsimp only
  split
  · exact .refl s
  · split <;> exact ⟨rfl, fun _ _ => rfl⟩

theorem State.unitFree_bufsGivenUp (s : State) (p h : Nat) : BufsGivenUp s (s.unitFree p h) := by
  have huse := s.useHandle_bufsGivenUp p h 0 0
  unfold State.unitFree
  split
  next s1 e heq => simpa [heq] using huse
  next s1 k ix heq =>
    rw [heq] at huse
    exact huse.trans (s1.freeHold_bufsGivenUp k ix p)

/-! ### STREAM_UNBIND (R188, R211, R244) -/

/-- The state in which the buffers that an entry holds are given up. -/
def State.entryFreed (s : State) (p e : Nat) : State :=
  match s.entry? e with
  | none => s
  | some x => (x.packets ++ x.cands).foldl (fun s k => s.unitFree p k.handle) s

/-- The state in which an entry, if there is one, matches no more and holds nothing. -/
def State.entryEnded (s : State) (p : Nat) : Option Nat → State
  | none => s
  | some e => { s.entryFreed p e with entries := tabErase (s.entryFreed p e).entries e }

theorem State.entryFreed_bufsGivenUp (s : State) (p e : Nat) : BufsGivenUp s (s.entryFreed p e) := by
  unfold State.entryFreed
  split
  · exact .refl s
  · exact .foldl (fun s (k : Packet) => s.unitFree_bufsGivenUp p k.handle) _ s

theorem State.entryFreed_empty {s : State} {e : Nat} {x : Entry} (p : Nat) (hx : s.entry? e = some x) (hp : x.packets = []) (hc : x.cands = []) :
    s.entryFreed p e = s := by
  simp [State.entryFreed, hx, hp, hc]

theorem State.entryEnded_frame (s : State) (p : Nat) (entry : Option Nat) :
    s.entryEnded p entry = { s with
      entries := (s.entryEnded p entry).entries, bufs := (s.entryEnded p entry).bufs, regs := (s.entryEnded p entry).regs,
      soot := (s.entryEnded p entry).soot, freeCtr := (s.entryEnded p entry).freeCtr } ∧
    SameRegs s (s.entryEnded p entry) [Reg.pwErr, Reg.sootDrop] := by
  cases entry with
  | none => exact ⟨rfl, fun _ _ => rfl⟩
  | some e =>
    obtain ⟨hfreed, hregs⟩ := s.entryFreed_bufsGivenUp p e
    refine ⟨?_, hregs⟩
    unfold State.entryEnded
    dsimp only
    rw [hfreed]

theorem State.entryEnded_entries (s : State) (p e : Nat) : (s.entryEnded p (some e)).entries = tabErase s.entries e := by
  obtain ⟨hfreed, -⟩ := s.entryFreed_bufsGivenUp p e
  have hentries : (s.entryFreed p e).entries = s.entries := by rw [hfreed]
  rw [← hentries]
  rfl

/-- An entry that holds nothing leaves the buffers as they are. -/
theorem State.entryEnded_bufs_empty {s : State} {e : Nat} {x : Entry} (p : Nat) (hx : s.entry? e = some x) (hp : x.packets = [])
    (hc : x.cands = []) : (s.entryEnded p (some e)).bufs = s.bufs := by
  have hbufs : (s.entryEnded p (some e)).bufs = (s.entryFreed p e).bufs := rfl
  rw [hbufs, State.entryFreed_empty p hx hp hc]

@[simp] theorem State.dec?_entryEnded (s : State) (p c : Nat) (entry : Option Nat) : (s.entryEnded p entry).dec? c = s.dec? c := by
  rw [(s.entryEnded_frame p entry).1]
  rfl

@[simp] theorem State.stream?_entryEnded (s : State) (p q ix : Nat) (entry : Option Nat) :
    (s.entryEnded p entry).stream? q ix = s.stream? q ix := by
  rw [(s.entryEnded_frame p entry).1]
  rfl

@[simp] theorem State.cmd?_entryEnded (s : State) (p id : Nat) (entry : Option Nat) : (s.entryEnded p entry).cmd? id = s.cmd? id := by
  rw [(s.entryEnded_frame p entry).1]
  rfl

@[simp] theorem State.smelter_entryEnded (s : State) (p n : Nat) (entry : Option Nat) : (s.entryEnded p entry).smelter n = s.smelter n := by
  rw [(s.entryEnded_frame p entry).1]
  rfl

/-- The state in which a context is marked: its stream ends. -/
def State.ctxUnbound (s : State) (ctx : Nat) : State :=
  match s.dec? ctx with
  | none => s
  | some d => (s.dropQueued ctx d).updDec ctx fun d => { d with unbound := true }

/-- An unbinding begins in three steps: at the entry, at the context, at the stream. -/
theorem State.unbindStart_eq (s : State) (p ix : Nat) (st : Stream) :
    s.unbindStart p ix st =
      ((s.entryEnded p st.entry).ctxUnbound st.ctx).updStream p ix fun st => { st with entry := none, unbind := true } := by
  unfold State.unbindStart
  cases st.entry <;> rfl

/-- A context with no picture in progress keeps its queue when its stream ends. -/
theorem State.ctxUnbound_idle {s : State} {ctx : Nat} {d : DecCtx} (hd : s.dec? ctx = some d) (hsusp : d.susp = none)
    (hpic : (s.smelter d.home).pic = none) : s.ctxUnbound ctx = s.updDec ctx fun d => { d with unbound := true } := by
  simp [State.ctxUnbound, State.dropQueued, hd, hsusp, hpic]

/-- The state in which the unbinding of a stream has begun. -/
def State.streamUnbound (s : State) (c : Cmd) (st : Stream) : State :=
  (((s.entryEnded c.part st.entry).updDec st.ctx fun d => { d with unbound := true }).updStream c.part c.index
    fun st => { st with entry := none, unbind := true }).updCmd c.id fun c => { c with phase := .active }

section Unbind

variable {s : State} {c : Cmd} {st : Stream} {d : DecCtx} (hi : s.Issued c 0x12) (hst : s.stream? c.part c.index = some st)
  (hd : s.dec? st.ctx = some d)

include hi hst hd in
theorem exec_streamUnbind_idle (hturn : s.streamTurn c [0x11, 0x12] = true) (hsusp : d.susp = none) (hpic : (s.smelter d.home).pic = none) :
    exec (.streamUnbind c.id) s = .next (s.streamUnbound c st) := by
  have hidle : (s.entryEnded c.part st.entry).ctxUnbound st.ctx =
      (s.entryEnded c.part st.entry).updDec st.ctx fun d => { d with unbound := true } :=
    State.ctxUnbound_idle (d := d) (by simp [hd]) hsusp (by simp [hpic])
  simp only [exec, execStreamUnbind, State.runOp_issued hi, State.opStreamUnbind, hturn, hst, Bool.true_eq_false, if_false,
    State.unbindStart_eq, hidle, State.streamUnbound]

include hd in
theorem State.dec?_streamUnbound : (s.streamUnbound c st).dec? st.ctx = some { d with unbound := true } := by
  simp [State.streamUnbound, State.dec?_updDec_same, hd]

include hst in
theorem State.stream?_streamUnbound :
    (s.streamUnbound c st).stream? c.part c.index = some { st with entry := none, unbind := true } := by
  simp [State.streamUnbound, State.stream?_updStream_same, hst]

include hi in
theorem State.cmd?_streamUnbound : (s.streamUnbound c st).cmd? c.id = some { c with phase := .active } :=
  State.cmd?_activated (by simpa using hi.1)

theorem State.streamUnbound_entries : (s.streamUnbound c st).entries = (s.entryEnded c.part st.entry).entries := by
  simp [State.streamUnbound]

theorem State.streamUnbound_bufs : (s.streamUnbound c st).bufs = (s.entryEnded c.part st.entry).bufs := by
  simp [State.streamUnbound]

theorem State.streamUnbound_frame :
    SameRegs s (s.streamUnbound c st) [Reg.pwErr, Reg.sootDrop] ∧
    s.streamUnbound c st = { s with
      entries := (s.streamUnbound c st).entries, bufs := (s.streamUnbound c st).bufs, decs := (s.streamUnbound c st).decs,
      streams := (s.streamUnbound c st).streams, cmds := (s.streamUnbound c st).cmds, regs := (s.streamUnbound c st).regs,
      soot := (s.streamUnbound c st).soot, freeCtr := (s.streamUnbound c st).freeCtr } := by
  obtain ⟨hframe, hregs⟩ := s.entryEnded_frame c.part st.entry
  have hsame : (s.streamUnbound c st).regs = (s.entryEnded c.part st.entry).regs := by simp [State.streamUnbound]
  refine ⟨fun o ho => (State.reg_congr hsame o).trans (hregs o ho), ?_⟩
  unfold State.streamUnbound
  rw [hframe]
  rfl

end Unbind

/-! ### FRAME_CHAIN_ISSUE (R20, R243) -/

section FrameChain

variable (p : PartIx) (ix : StreamIx) (st : Stream) (j : FrameJob) (k : Nat)

/-- A command of the chain of a frame, as it is issued. -/
def ChainCmd (c : Cmd) : Prop :=
  c.src = .frame p ix k ∧ c.part = p.val ∧ c.index = ix.val ∧ c.tag = fieldAt j.desc 0 4 % 65536 ∧
    c.phase = .fetched ∧ c.status = .ok ∧ c.irq = false ∧ c.fence = false ∧ c.ordered = false

/-- What the packets of a template have added to a state: commands after those in flight, none of which changed but for identities never
used before; news are the new ones. -/
def ChainAdded (s t : State) (news : List Cmd) : Prop :=
  ∃ g : Cmd → Cmd, t = { s with cmds := s.cmds.map g ++ news, nextId := s.nextId + news.length } ∧ ∀ x, x.id < s.nextId → g x = x

theorem State.frameCmd_adds (s : State) (pos : Nat) (b : List Byte) :
    ∃ c, ChainAdded s (s.frameCmd p ix st j k pos b) [c] ∧ (c.id, c.opcode, c.pos) = (s.nextId, fieldAt b 0 1, pos) ∧ ChainCmd p ix j k c := by
  unfold ChainAdded State.frameCmd State.newCmd State.updCmd
  simp only [List.map_append, List.map_cons, List.map_nil, if_true]
  refine ⟨_, ⟨_, rfl, fun x hx => if_neg (Nat.ne_of_lt hx)⟩, rfl, rfl, rfl, rfl, rfl, rfl, rfl, rfl, rfl, rfl⟩

theorem ChainAdded.trans {s t u : State} {l m : List Cmd} (h : ChainAdded s t l) (hl : ∀ c ∈ l, c.id < t.nextId) (g : ChainAdded t u m) :
    ChainAdded s u (l ++ m) := by
  obtain ⟨f, rfl, hf⟩ := h
  obtain ⟨f', rfl, hf'⟩ := g
  refine ⟨f' ∘ f, ?_, fun x hx => ?_⟩
  · have hnew : l.map f' = l := (List.map_congr_left fun c hc => hf' c (hl c hc)).trans (List.map_id l)
    simp [hnew, Nat.add_assoc]
  · have hx' : x.id < s.nextId + l.length := by omega
    rw [Function.comp, hf x hx, hf' x hx']

theorem State.frameChain_adds (bs : List (List Byte)) (n base : Nat) (s : State) (hs : s.nextId = base + n) :
    ∃ news, ChainAdded s ((bs.zipIdx n).foldl (fun s b => s.frameCmd p ix st j k b.2 b.1) s) news ∧
      news.map (fun c => (c.id, c.opcode, c.pos)) = (bs.zipIdx n).map (fun b => (base + b.2, fieldAt b.1 0 1, b.2)) ∧
      ∀ c ∈ news, ChainCmd p ix j k c := by
  induction bs generalizing n s with
  | nil => exact ⟨[], ⟨id, by simp, fun _ _ => rfl⟩, rfl, by simp⟩
  | cons b bs ih =>
    obtain ⟨c, hadd, hkey, hc⟩ := s.frameCmd_adds p ix st j k n b
    have hid : c.id = s.nextId := congrArg Prod.fst hkey
    have hnext : (s.frameCmd p ix st j k n b).nextId = s.nextId + 1 := by
      obtain ⟨g, heq, -⟩ := hadd
      rw [heq]
      rfl
    obtain ⟨news, hadds, hkeys, hnews⟩ := ih (n + 1) (s.frameCmd p ix st j k n b) (by omega)
    refine ⟨[c] ++ news, hadd.trans (by simp; omega) hadds, ?_, ?_⟩
    · simp [hkeys, hkey, hs]
    · simpa using ⟨hc, hnews⟩

end FrameChain

/-- Readers of the frame in a stream's template: its SHAPE and SNAPSHOT packets. -/
def Stream.chainReaders (st : Stream) : Nat := (st.template.filter fun b => fieldAt b 0 1 == 0x20 || fieldAt b 0 1 == 0x60).length

/-- A stream whose job of slot k waits for the chain of the template, with a number of readers (R243). -/
def Stream.chainWaits (st : Stream) (k readers : Nat) : Stream :=
  st.updJob k fun j => { j with issued := true, left := st.template.length, readers := readers }

/-- The state in which the commands of a chain stand after those in flight and the job of slot k waits for them. -/
def State.chainIssued (s : State) (p : PartIx) (ix : StreamIx) (st : Stream) (j : FrameJob) (k : Nat) : State :=
  (st.template.zipIdx.foldl (fun s b => s.frameCmd p ix st j k b.2 b.1) s).updStream p.val ix.val fun x => x.chainWaits k st.chainReaders

theorem State.chainIssued_eq (s : State) (p : PartIx) (ix : StreamIx) (st : Stream) (j : FrameJob) (k : Nat) :
    ∃ g news, s.chainIssued p ix st j k =
        ({ s with cmds := s.cmds.map g ++ news, nextId := s.nextId + st.template.length } : State).updStream p.val ix.val (fun x => x.chainWaits k st.chainReaders) ∧
      (∀ x, x.id < s.nextId → g x = x) ∧ news.length = st.template.length ∧
      news.map (fun c => (c.id, c.opcode, c.pos)) = st.template.zipIdx.map (fun b => (s.nextId + b.2, fieldAt b.1 0 1, b.2)) ∧
      ∀ c ∈ news, ChainCmd p ix j k c := by
  obtain ⟨news, ⟨g, hadds, hold⟩, hkeys, hnews⟩ := State.frameChain_adds p ix st j k st.template 0 s.nextId s rfl
  have hlen : news.length = st.template.length := by simpa using congrArg List.length hkeys
  rw [hlen] at hadds
  exact ⟨g, news, by rw [State.chainIssued, hadds], hold, hlen, hkeys, hnews⟩

/-- A template with a SHAPE or a SNAPSHOT leaves its frame marked until its readers are over. -/
theorem exec_frameChainIssue {s : State} {p : PartIx} {ix : StreamIx} {st : Stream} {j : FrameJob} {k : Nat}
    (hst : s.stream? p.val ix.val = some st) (hj : (st.jobs.find? fun j => !j.issued) = some j) (hk : j.slot = some k)
    (hreads : (st.template.any fun b => fieldAt b 0 1 == 0x20 || fieldAt b 0 1 == 0x60) = true) :
    exec (.frameChainIssue p ix) s = .next (s.chainIssued p ix st j k) := by
  have hrd : st.chainReaders ≠ 0 := by
    obtain ⟨b, hb, hop⟩ := List.any_eq_true.mp hreads
    exact Nat.ne_of_gt (List.length_pos_of_mem (List.mem_filter.mpr ⟨hb, hop⟩))
  simp only [exec, execFrameChainIssue, State.frameChain, hst, hj, hk]
  exact congrArg _ (if_neg hrd)

/-! ### The obligation on streams -/

/-- Settles O23: each command's outcome is one branch of its operation; what changes in a binding, a feed and an unbinding is read off the
tables just written, and the chain of a frame by induction over the packets of its template. -/
theorem streamsBindFeedAndUnbind : Obligations.StreamsBindFeedAndUnbind := by
  unfold Obligations.StreamsBindFeedAndUnbind
  refine ⟨⟨?bind, ?feed, ?unbind⟩, ?chain⟩
  case bind =>
    intro s c hi
    refine ⟨fun st h => exec_streamBind_badFields hi h, fun st d h h' => exec_streamBind_badLimits hi h h', ?_⟩
    intro tpl home ctx ent hfields hlimits h144 h160 h168 hslots plen hparams htpl hok hhome hctx feed hent
    have hexec : exec (.streamBind c.id) s = .next (s.bindStream c tpl home ctx ent) := by
      rw [exec_streamBind hi, State.opStreamBind_passes hfields hlimits h144 h160 h168 hslots hparams htpl hok hhome hctx]
      exact congrArg _ (s.bindStream_entry c tpl home ctx fun h => by rw [hent h, Option.getD_some])
    obtain ⟨st, d, e, hbound, hstream, hdec, hentry⟩ := s.bindStream_eq c tpl home ctx ent
    rw [hbound] at hexec
    refine ⟨_, hexec, ⟨st, tabFind_tabPut_same .., hstream⟩, ⟨d, tabFind_tabPut_same .., hdec⟩, fun hfeed => ⟨e, ?_, hentry⟩, fun hfeed => if_pos hfeed,
      fun hc => ?_, rfl⟩
    · refine Eq.trans ?_ (tabFind_tabPut_same s.entries ent e)
      exact congrArg (fun t => tabFind t ent) (if_neg (by simp [show (c.par 64 1).testBit 7 = false from hfeed]))
    · have hdom : smDom home < 120 := by
        have hlt := State.smHome_lt hhome
        unfold smDom
        omega
      exact (State.domOn_congr (by rw [State.endCmd_regs, State.withBindings_regs]) _).trans (State.domOn_powerUp s hdom hc.rising)
  case feed =>
    intro s c st d hi hturn hst
    refine ⟨fun h => exec_streamFeed_entry hi hturn hst h, fun hentry hd h => exec_streamFeed_quarantined hi hturn hst hentry hd h,
      fun hentry hd hhome h => exec_streamFeed_full hi hturn hst hentry hd hhome h, fun hentry hd hhome hroom => ⟨?_, ?_, ?_⟩⟩
    · exact exec_streamFeed_empty hi hturn hst hentry hd hhome hroom
    · exact fun h e he => exec_streamFeed_badHandle hi hturn hst hentry hd hhome hroom h he
    · intro h k i he
      exact ⟨_, s.fedUnit c d, exec_streamFeed_pass hi hturn hst hentry hd hhome hroom h he, State.dec?_feedUnit _ hd, rfl, rfl, rfl, rfl, rfl,
        fun hpts => if_neg hpts, rfl, rfl, State.cmd?_feedUnit _ hi.1, fun x hx => State.dec?_feedUnit_other _ hx, State.stream?_feedUnit _ hst, rfl⟩
  case unbind =>
    intro s c st d hi hturn hst hd hsusp hpic
    obtain ⟨hregs, hframe⟩ := s.streamUnbound_frame (c := c) (st := st)
    refine ⟨_, exec_streamUnbind_idle hi hst hd hturn hsusp hpic, State.dec?_streamUnbound hd, State.stream?_streamUnbound hst,
      State.cmd?_streamUnbound hi, fun e he => ⟨?_, fun x hx hp hcands => ?_⟩, fun he => ⟨?_, ?_⟩, hregs, hframe⟩
    · rw [State.streamUnbound_entries, he, State.entryEnded_entries]
    · rw [State.streamUnbound_bufs, he, State.entryEnded_bufs_empty c.part hx hp hcands]
    · rw [State.streamUnbound_entries, he, State.entryEnded]
    · rw [State.streamUnbound_bufs, he, State.entryEnded]
  case chain =>
    intro s p ix st j k hst hj hk hreads
    obtain ⟨g, news, hissued, hold, hlen, hkeys, hnews⟩ := s.chainIssued_eq p ix st j k
    have hexec := exec_frameChainIssue hst hj hk hreads
    rw [hissued] at hexec
    have hdrop : (s.cmds.map g ++ news).drop s.cmds.length = news := List.drop_left' (by simp)
    refine ⟨_, hexec, ?_, fun x hx hid => ?_, ?_, ?_, ⟨st.chainWaits k st.chainReaders, ?_, rfl, rfl⟩, rfl⟩
    · exact (List.length_append ..).trans (by rw [List.length_map, hlen])
    · exact List.mem_append_left _ (List.mem_map.mpr ⟨x, hx, hold x hid⟩)
    · exact (congrArg _ hdrop).trans hkeys
    · exact fun c hc => hnews c (hdrop ▸ hc)
    · exact (State.stream?_updStream_same ..).trans (congrArg _ hst)

end Sys2Proof.Machine

/-!
PROOFS. The fabric chapter: SAFE state holds the always-on registers and the counter and clears the units (R29, R37, R321, R333, R369); the
windows of the rings are latched, and a re-plan takes the slowest ring (R30, R31).
-/

namespace Sys2Proof.Machine

/-! ### Registers dropped or rewritten by a pass over the register file -/

/-- A pass that keeps the keys, and the entry at k, leaves the value at k. -/
theorem sparseGet_filterMap_kept {α : Type} {d : α} {f : Nat × α → Option (Nat × α)} {k : Nat} (hkey : ∀ e e', f e = some e' → e'.1 = e.1)
    (hk : ∀ e, e.1 = k → f e = some e) (l : List (Nat × α)) : sparseGet d (l.filterMap f) k = sparseGet d l k := by
  induction l with
  | nil => rfl
  | cons e t ih =>
    by_cases h : e.1 = k
    · rw [List.filterMap_cons_some (hk e h), sparseGet, sparseGet, if_pos h.symm, if_pos h.symm]
    · rw [sparseGet, if_neg (Ne.symm h), ← ih]
      cases he : f e with
      | none => rw [List.filterMap_cons_none he]
      | some e' => rw [List.filterMap_cons_some he, sparseGet, if_neg (by rw [hkey e e' he]; exact Ne.symm h)]

/-- A pass that keeps the keys and drops the entries at k leaves the default at k. -/
theorem sparseGet_filterMap_dropped {α : Type} {d : α} {f : Nat × α → Option (Nat × α)} {k : Nat} (hkey : ∀ e e', f e = some e' → e'.1 = e.1)
    (hk : ∀ e, e.1 = k → f e = none) (l : List (Nat × α)) : sparseGet d (l.filterMap f) k = d := by
  have habsent : ∀ e' ∈ l.filterMap f, e'.1 ≠ k := by
    intro e' he' hk'
    obtain ⟨e, -, he⟩ := List.mem_filterMap.mp he'
    simp [hk e ((hkey e e' he).symm.trans hk')] at he
  rcases sparseGet_mem d (l.filterMap f) k with h | h
  · exact h
  · exact absurd rfl (habsent _ h)

/-! ### The always-on part of the device -/

/-- What lies outside the switched domains and the work of the units, the registers among it. -/
def State.alwaysOn (s : State) : Bool × Timebase × Periph × List Host.Cell × List Host.Cell × List (Nat × Word) :=
  (s.fabric.safe, s.tb, s.periph, s.host, s.flash, s.regs)

/-- SAFE state, the counter, the peripherals, host memory, flash, and the registers of block 0x05 and below but SOOT_DROP stay. -/
structure HoldsAlwaysOn (s t : State) : Prop where
  safe : t.fabric.safe = s.fabric.safe
  tb : t.tb = s.tb
  periph : t.periph = s.periph
  host : t.host = s.host
  flash : t.flash = s.flash
  regs : ∀ off < 0x60000, off ≠ Reg.sootDrop → t.reg off = s.reg off

namespace HoldsAlwaysOn

theorem of_eq {s t : State} (h : t.alwaysOn = s.alwaysOn) : HoldsAlwaysOn s t := by
  simp only [State.alwaysOn, Prod.mk.injEq] at h
  obtain ⟨hsafe, htb, hperiph, hhost, hflash, hregs⟩ := h
  exact ⟨hsafe, htb, hperiph, hhost, hflash, fun off _ _ => State.reg_congr hregs off⟩

theorem refl (s : State) : HoldsAlwaysOn s s := .of_eq rfl

theorem trans {s t u : State} (h : HoldsAlwaysOn s t) (g : HoldsAlwaysOn t u) : HoldsAlwaysOn s u :=
  ⟨g.safe.trans h.safe, g.tb.trans h.tb, g.periph.trans h.periph, g.host.trans h.host, g.flash.trans h.flash,
    fun off hlt hdrop => (g.regs off hlt hdrop).trans (h.regs off hlt hdrop)⟩

theorem foldl {α : Type} {f : State → α → State} (hf : ∀ s a, HoldsAlwaysOn s (f s a)) (l : List α) (s : State) :
    HoldsAlwaysOn s (l.foldl f s) := by
  induction l generalizing s with
  | nil => exact .refl s
  | cons a t ih => exact (hf s a).trans (ih (f s a))

theorem ite {s x y : State} {c : Prop} [Decidable c] (h : HoldsAlwaysOn s x) (g : HoldsAlwaysOn s y) : HoldsAlwaysOn s (if c then x else y) := by
  split
  · exact h
  · exact g

theorem setFld (s : State) {off : Nat} (hi lo v : Nat) (h : 0x60000 ≤ off) : HoldsAlwaysOn s (s.setFld off hi lo v) :=
  ⟨rfl, rfl, rfl, rfl, rfl, fun _ _ _ => State.reg_setFld_other _ _ _ _ _ _ (by omega)⟩

theorem withPcie (s : State) (x : Pcie) : HoldsAlwaysOn s { s with pcie := x } := .of_eq rfl

end HoldsAlwaysOn

/-- Buffers are given up with a count in PW_ERR, which lies above the always-on blocks. -/
theorem BufsGivenUp.holdsAlwaysOn {s t : State} (h : BufsGivenUp s t) : HoldsAlwaysOn s t := by
  obtain ⟨ht, hregs⟩ := h
  refine ⟨by rw [ht], by rw [ht], by rw [ht], by rw [ht], by rw [ht], fun off hlt hdrop => hregs off ?_⟩
  have hpw : off ≠ Reg.pwErr := Nat.ne_of_lt (Nat.lt_trans hlt (by decide))
  simp [hpw, hdrop]

/-! ### The work of the functions ends (R324) -/

theorem State.stopCtx_holdsAlwaysOn (s : State) (n q : Nat) : HoldsAlwaysOn s (s.stopCtx n q) := by
  refine .of_eq ?_
  unfold State.stopCtx
  dsimp only
  split <;> rfl

theorem State.unitFree_holdsAlwaysOn (s : State) (p h : Nat) : HoldsAlwaysOn s (s.unitFree p h) := (s.unitFree_bufsGivenUp p h).holdsAlwaysOn

theorem State.dropFed_holdsAlwaysOn (s : State) (id : Nat) : HoldsAlwaysOn s (s.dropFed id) := by
  unfold State.dropFed
  split
  · exact .refl s
  split
  · exact .refl s
  refine .ite (.of_eq rfl) ?_
  split
  · exact .refl s
  · exact (State.unitFree_holdsAlwaysOn _ _ _).trans (.of_eq rfl)

theorem State.abortCmd_holdsAlwaysOn (s : State) (c : Cmd) : HoldsAlwaysOn s (s.abortCmd c) := by
  unfold State.abortCmd
  split
  · exact .refl s
  · exact .of_eq rfl
  · refine .ite (.of_eq rfl) (.ite (.refl s) ?_)
    extract_lets s1 s2 s3 s4
    have h1 : HoldsAlwaysOn s s1 := .foldl (fun s (x : Nat × Nat) => s.stopCtx_holdsAlwaysOn x.1 x.2) _ s
    have h2 : HoldsAlwaysOn s1 s2 := .of_eq rfl
    have h3 : HoldsAlwaysOn s2 s3 := (s2.dropFed_holdsAlwaysOn c.id).trans (.of_eq rfl)
    exact ((h1.trans h2).trans h3).trans (.of_eq rfl)

theorem State.arbEnd_holdsAlwaysOn (s : State) (u steps : Nat) : HoldsAlwaysOn s (s.arbEnd u steps) := by
  unfold State.arbEnd
  split
  · exact .refl s
  · exact .of_eq rfl

theorem State.removeStream_holdsAlwaysOn (s : State) (p ix : Nat) : HoldsAlwaysOn s (s.removeStream p ix) := by
  unfold State.removeStream
  split
  · exact .refl s
  next st _ =>
    extract_lets s1 s2 s3
    have h1 : HoldsAlwaysOn s s1 := by
      unfold s1
      split
      · exact .refl s
      split
      · exact .refl s
      · exact .foldl (fun s (k : Packet) => s.unitFree_holdsAlwaysOn p k.handle) _ s
    have h2 : HoldsAlwaysOn s1 s2 := by
      unfold s2
      split
      · exact .refl s1
      next d _ =>
        extract_lets t1 t2 t3
        have ht1 : HoldsAlwaysOn s1 t1 := .foldl (fun s (a : Au) => s.unitFree_holdsAlwaysOn p a.handle) _ s1
        have ht2 : HoldsAlwaysOn t1 t2 := .foldl (fun s (h : Nat) => s.unitFree_holdsAlwaysOn p h) _ t1
        have ht3 : HoldsAlwaysOn t2 t3 := by
          refine .foldl (fun s (a : Au) => ?_) _ t2
          split <;> exact .of_eq rfl
        refine (ht1.trans ht2).trans (ht3.trans ?_)
        split
        · split
          · exact (t3.arbEnd_holdsAlwaysOn _ _).trans (.of_eq rfl)
          · exact .refl t3
        · exact .refl t3
    have h3 : HoldsAlwaysOn s2 s3 := .of_eq rfl
    exact ((h1.trans h2).trans h3).trans (.of_eq rfl)

theorem State.fnAbort_holdsAlwaysOn (s : State) (c : Cmd) : HoldsAlwaysOn s (s.fnAbort c) := by
  unfold State.fnAbort
  have h := s.abortCmd_holdsAlwaysOn c
  dsimp only
  split
  · split
    · exact (h.trans (State.removeStream_holdsAlwaysOn _ _ _)).trans (.of_eq rfl)
    · exact h.trans (.of_eq rfl)
  · exact h

theorem State.endFns_holdsAlwaysOn (s : State) (fns : Nat → Bool) : HoldsAlwaysOn s (s.endFns fns) :=
  (HoldsAlwaysOn.foldl (fun s (c : Cmd) => s.fnAbort_holdsAlwaysOn c) _ s).trans (.of_eq rfl)

/-- The mailboxes lie above the always-on blocks. -/
theorem le_mbKey (f : Nat) : 0x60000 ≤ mbKey f 0 := by
  unfold mbKey
  split <;> omega

theorem State.clearMailbox_holdsAlwaysOn (s : State) (f : Nat) : HoldsAlwaysOn s (s.clearMailbox f) := by
  refine ⟨rfl, rfl, rfl, rfl, rfl, fun off hlt _ => sparseGet_filterMap_kept ?_ ?_ s.regs⟩
  · intro e e' he
    split at he
    · split at he
      · cases he
        rfl
      · cases he
    · cases he
      rfl
  · intro e he
    have := le_mbKey f
    exact if_neg (by omega)

theorem State.hotColumn_holdsAlwaysOn (s : State) : HoldsAlwaysOn s s.hotColumn := by
  have hfns := s.endFns_holdsAlwaysOn fun _ => true
  have hmail : HoldsAlwaysOn (s.endFns fun _ => true) (s.endFns fun _ => true).clearMailboxes :=
    .foldl State.clearMailbox_holdsAlwaysOn _ _
  exact (hfns.trans hmail).trans (.trans (.withPcie _ _) (.setFld _ _ _ _ (by decide)))

theorem State.linkDown_holdsAlwaysOn (s : State) : HoldsAlwaysOn s s.linkDown :=
  .trans (.trans (.setFld _ _ _ _ (by decide)) (.setFld _ _ _ _ (by decide))) (.setFld _ _ _ _ (by decide))

/-! ### SAFE state is entered (R29, R37, R369) -/

/-- An entry of the register file as SAFE state leaves it: the states of the domains go, the always-on blocks stay, the rest is reset. -/
def State.safeEntry (s : State) (e : Nat × Word) : Option (Nat × Word) :=
  if Reg.pdState 0 ≤ e.1 ∧ e.1 < Reg.pdState 8 then none
  else if safeKeeps e.1 then some e
  else if s.warmWord false e.1 e.2 = resetWord e.1 then none else some (e.1, s.warmWord false e.1 e.2)

/-- The device as SAFE state holds it, before the cause is set. -/
def State.safeBare (s : State) : State :=
  { s.cleared with
    regs := s.regs.filterMap s.safeEntry, periph := s.periph
    fabric := { s.cleared.fabric with safe := true, safeHeader := (bytesWords s.discHeader).zipIdx.foldl (fun t w => wordSet t w.2 w.1) [] } }

theorem State.enterSafe_eq {s : State} (h : s.fabric.safe = false) :
    s.enterSafe = (s.safeBare.setFlag Reg.rstCause 9 true).resetEvent := by
  rw [State.enterSafe, if_neg (by simp [h])]
  rfl

/-- The event changes the recorder alone: every other field of the device in SAFE state is the one before the cause. -/
theorem State.enterSafe_rest {s : State} (h : s.fabric.safe = false) :
    s.enterSafe = { s.safeBare with regs := s.enterSafe.regs, soot := s.enterSafe.soot, freeCtr := s.enterSafe.freeCtr } := by
  rw [State.enterSafe_eq h, State.resetEvent]
  conv => lhs; rw [State.sootEvent_eq]
  rfl

theorem State.safeEntry_key {s : State} {e e' : Nat × Word} (h : s.safeEntry e = some e') : e'.1 = e.1 := by
  unfold State.safeEntry at h
  split at h
  · cases h
  split at h
  · cases h
    rfl
  split at h
  · cases h
  · cases h
    rfl

theorem State.safeBare_rising {s : State} (h : Rising s.regs) : Rising s.safeBare.regs := by
  refine List.Pairwise.filterMap s.safeEntry (fun e f hlt e' he f' hf => ?_) h
  rw [State.safeEntry_key he, State.safeEntry_key hf]
  exact hlt

theorem State.reg_safeBare_pdState (s : State) {w : Nat} (h : w < 8) : s.safeBare.reg (Reg.pdState w) = 0 := by
  refine (sparseGet_filterMap_dropped (fun _ _ => State.safeEntry_key) (fun e he => if_pos ?_) s.regs).trans (resetWord_pdState w h)
  rw [he]
  unfold Reg.pdState
  omega

theorem State.reg_safeBare_alwaysOn (s : State) {off : Nat} (hlt : off < 0x60000) (hpd : ¬ (Reg.pdState 0 ≤ off ∧ off < Reg.pdState 8)) :
    s.safeBare.reg off = s.reg off := by
  refine sparseGet_filterMap_kept (fun _ _ => State.safeEntry_key) (fun e he => ?_) s.regs
  subst he
  rw [State.safeEntry, if_neg hpd, if_pos (by simp [safeKeeps, hlt])]

/-- Beside RST_CAUSE and SOOT_DROP the cause and its event leave the registers. -/
theorem State.reg_enterSafe {s : State} (h : s.fabric.safe = false) {off : Nat} (hcause : off ≠ Reg.rstCause) (hdrop : off ≠ Reg.sootDrop) :
    s.enterSafe.reg off = s.safeBare.reg off := by
  rw [State.enterSafe_eq h, State.resetEvent, State.reg_sootEvent _ _ _ _ _ hdrop, State.reg_setFlag_other _ _ _ _ _ hcause]

theorem State.flag_enterSafe_cause {s : State} (h : s.fabric.safe = false) (hr : Rising s.regs) : s.enterSafe.flag Reg.rstCause 9 = true := by
  rw [State.enterSafe_eq h, State.resetEvent, State.flag, State.reg_sootEvent _ _ _ _ _ (by decide)]
  exact State.flag_setFlag_same _ _ _ _ (State.safeBare_rising hr) (by decide)

theorem State.domState_enterSafe {s : State} (h : s.fabric.safe = false) {d : Nat} (hd : d < 120) : s.enterSafe.domState d = 0 := by
  have hw : d / 16 < 8 := by omega
  have hne : Reg.pdState (d / 16) ≠ Reg.rstCause ∧ Reg.pdState (d / 16) ≠ Reg.sootDrop := by
    unfold Reg.pdState Reg.rstCause Reg.sootDrop
    omega
  rw [State.domState, State.fld, State.reg_enterSafe h hne.1 hne.2, s.reg_safeBare_pdState hw]
  simp [bitsOf]

/-- The state in which SAFE is entered for the supply. -/
def State.underVolt (s : State) (mv : Nat) : State := { s with fabric := { s.fabric with vddMv := mv, vddLow := decide (mv < 560) } }

theorem exec_vddFabUndervoltage {s : State} {mv : Nat} (h : mv < 560) :
    exec (.vddFabUndervoltage mv) s = .next (s.underVolt mv).enterSafe := by
  simp [exec, execVddFabUndervoltage, State.vddLevel, h, State.underVolt]

/-- The state without SYS_REFCLK. -/
def State.withoutClock (s : State) : State := { s with fabric := { s.fabric with refclk := false } }

theorem State.withoutClock_holdsAlwaysOn (s : State) : HoldsAlwaysOn s s.withoutClock := .of_eq rfl

/-- The state in which SAFE is entered for the clock: the link is down and the work of the functions has ended. -/
def State.clockStopped (s : State) : State := s.linkDown.hotColumn.withoutClock

theorem State.clockStopped_holdsAlwaysOn (s : State) : HoldsAlwaysOn s s.clockStopped :=
  (s.linkDown_holdsAlwaysOn.trans s.linkDown.hotColumn_holdsAlwaysOn).trans (State.withoutClock_holdsAlwaysOn _)

theorem exec_sysRefclkStop {s : State} (hsafe : s.fabric.safe = false) (hclk : s.fabric.refclk = true) :
    exec .sysRefclkStop s = .next s.clockStopped.enterSafe := by
  have h : s.clockStopped.fabric.safe = false := s.clockStopped_holdsAlwaysOn.safe.trans hsafe
  have hstop : s.clockStop = if s.clockStopped.fabric.safe then s.clockStopped.resetEvent else s.clockStopped.enterSafe :=
    if_neg (by simp [hclk])
  rw [h, if_neg (by decide)] at hstop
  exact congrArg _ hstop

/-- SAFE state is entered from a state that holds the always-on part, with the cause of the entry noted. -/
theorem exec_entersSafe {s : State} {c : Instr} (hsafe : s.fabric.safe = false)
    (h : (∃ mv, c = .vddFabUndervoltage mv ∧ mv < 560) ∨ (c = .sysRefclkStop ∧ s.fabric.refclk = true)) :
    ∃ u, exec c s = .next u.enterSafe ∧ HoldsAlwaysOn s u ∧ Kept s u ∧ (u.fabric.vddLow = true ∨ u.fabric.refclk = false) := by
  rcases h with ⟨mv, rfl, hmv⟩ | ⟨rfl, hclk⟩
  · exact ⟨s.underVolt mv, exec_vddFabUndervoltage hmv, .of_eq rfl, (Kept.refl s).upd, .inl (decide_eq_true hmv)⟩
  · exact ⟨s.clockStopped, exec_sysRefclkStop hsafe hclk, s.clockStopped_holdsAlwaysOn,
      (State.hotColumn_kept (State.linkDown_kept (Kept.refl s))).upd, .inr rfl⟩

/-- The units are those of reset. -/
theorem State.enterSafe_units {s : State} (h : s.fabric.safe = false) :
    s.enterSafe.cmds = [] ∧ s.enterSafe.rmos = [] ∧ s.enterSafe.lanterns = [] ∧ s.enterSafe.parts = [] ∧ s.enterSafe.rings = [] ∧
      s.enterSafe.bufs = [] ∧ s.enterSafe.streams = [] := by
  rw [State.enterSafe_rest h]
  exact ⟨rfl, rfl, rfl, rfl, rfl, rfl, rfl⟩

/-! ### The obligation on SAFE state -/

/-- Settles O51: both causes enter SAFE state from a state that holds the always-on part; there one pass over the register file drops the
states of the domains and keeps the always-on blocks, and the units are those of reset. -/
theorem safeStateHoldsAndClears : Obligations.SafeStateHoldsAndClears := by
  unfold Obligations.SafeStateHoldsAndClears
  intro s c hc hsafe hcause
  obtain ⟨u, hexec, hold, kept, hnoted⟩ := exec_entersSafe hsafe hcause
  have hu : u.fabric.safe = false := hold.safe.trans hsafe
  have hrising : Rising u.regs := ((State.regsWf_iff u).mp (kept.regs hc.regs)).1
  have hrest := State.enterSafe_rest hu
  refine ⟨u.enterSafe, hexec, by rw [hrest]; rfl, State.flag_enterSafe_cause hu hrising, fun d hd => State.domState_enterSafe hu hd,
    by rw [hrest]; exact hnoted, fun off hlt hpd hoff hdrop => ?_, by rw [hrest]; exact hold.tb, by rw [hrest]; exact hold.periph,
    by rw [hrest]; exact hold.host, by rw [hrest]; exact hold.flash, by rw [hrest]; exact kept.fuses, by rw [hrest]; exact kept.pending,
    State.enterSafe_units hu⟩
  rw [State.reg_enterSafe hu hoff hdrop, u.reg_safeBare_alwaysOn hlt hpd, hold.regs off hlt hdrop]

/-! ### Windows of the rings (R30, R31) -/

theorem mem_insertSorted_self (k : Nat) (l : List Nat) : k ∈ insertSorted k l := by
  induction l with
  | nil => simp [insertSorted]
  | cons y t ih =>
    unfold insertSorted
    split
    · exact List.mem_cons_self ..
    · split
      · next h => exact h ▸ List.mem_cons_self ..
      · exact List.mem_cons_of_mem _ ih

/-- A window in which the ring ran clears the mark of a cut window. -/
theorem not_mem_gapAfter {gap : List Nat} {k : Nat} {runs : Bool} (h : runs = true) : k ∉ gapAfter gap k runs := by
  simp [gapAfter, h]

/-- Any other sets it. -/
theorem mem_gapAfter {gap : List Nat} {k : Nat} {runs : Bool} (h : runs = false) : k ∈ gapAfter gap k runs := by
  rw [gapAfter, h]
  exact mem_insertSorted_self k gap

/-- The domain of a ring is ON; a ring without one is always on. -/
def State.ringOn (s : State) (d : Option Nat) : Bool := match d with
  | some d => s.domOn d
  | none => true

theorem State.ringRuns_eq (s : State) (d : Option Nat) : s.ringRuns d = (s.flag Reg.fabCtrl 0 && s.fabric.refclk && s.ringOn d) := rfl

theorem State.ageWord_eq (s : State) (n : Nat) :
    s.ageWord n = if s.ringOn (ageDom n) && !s.fabric.ageGap.contains n then s.reg (Reg.ageRing n) else 0 := rfl

theorem State.ringOn_of_all {s : State} {o : Option Nat} (h : ∀ d, o = some d → s.domOn d = true) : s.ringOn o = true := by
  cases o with
  | none => rfl
  | some d => exact h d rfl

/-- What a register presents that latched w for a window of a ring that ran throughout it. -/
theorem shown_whole {gap : List Nat} {k : Nat} {on runs : Bool} (hon : on = true) (hruns : runs = true) (w : Word) :
    (if on && !(gapAfter gap k runs).contains k then w else 0) = w := by
  simp [hon, not_mem_gapAfter hruns]

/-- What it presents for a window that was cut. -/
theorem shown_cut {gap gap' : List Nat} {k : Nat} {on runs : Bool} {w : Word} (h : on = false ∨ k ∈ gap ∨ runs = false) :
    (if on && !gap'.contains k then (if runs && !gap.contains k then w else 0) else 0) = 0 := by
  rcases h with h | h | h <;> simp [h]

/-- The state words of the domains lie apart from the registers of the fabric monitors. -/
theorem State.domOn_setReg (s : State) {d off : Nat} (w : Word) (hd : d < 120) (hoff : 0xA0000 ≤ off) : (s.setReg off w).domOn d = s.domOn d := by
  have hne : Reg.pdState (d / 16) ≠ off := by
    unfold Reg.pdState
    omega
  rw [State.domOn, State.domOn, State.domState_congr_reg (State.reg_setReg_other s _ _ w hne)]

/-! ### The window of a rate ring (R30) -/

/-- The share of a window in 0.1 %, cut off or rounded up. -/
def rateUtil (cycles steps : Nat) : Nat :=
  steps * 1000 / cycles + (if steps * 1000 % cycles ≠ 0 ∧ Config.roundUpUtil steps cycles = true then 1 else 0)

theorem rateUtil_cases (cycles steps : Nat) :
    rateUtil cycles steps = steps * 1000 / cycles ∨ steps * 1000 % cycles ≠ 0 ∧ rateUtil cycles steps = steps * 1000 / cycles + 1 := by
  unfold rateUtil
  split
  · next h => exact .inr ⟨h.1, rfl⟩
  · exact .inl rfl

theorem rateUtil_lt {cycles steps : Nat} (h : steps ≤ cycles) : rateUtil cycles steps < 2 ^ 11 := by
  have hle : steps * 1000 / cycles ≤ 1000 := Nat.div_le_of_le_mul (Nat.mul_le_mul_right 1000 h)
  rcases rateUtil_cases cycles steps with h | ⟨-, h⟩ <;> omega

/-- The latched word: VALID, the share and the cycles. -/
def rateLatch (cycles steps : Nat) : Word := BitVec.ofNat 32 (2 ^ 31 + rateUtil cycles steps * 2 ^ 16 + cycles)

theorem rateLatch_fields {cycles steps : Nat} (hc : cycles ≤ 0xFFFF) (hs : steps ≤ cycles) :
    bitOf (rateLatch cycles steps) 31 = true ∧ bitsOf (rateLatch cycles steps) 15 0 = cycles ∧
      bitsOf (rateLatch cycles steps) 26 16 = rateUtil cycles steps := by
  have hu := rateUtil_lt hs
  have hn : (rateLatch cycles steps).toNat = 2 ^ 31 + rateUtil cycles steps * 2 ^ 16 + cycles := Nat.mod_eq_of_lt (by omega)
  simp only [bitOf, bitsOf, hn, Nat.testBit_eq_decide_div_mod_eq, decide_eq_true_eq]
  refine ⟨?_, ?_, ?_⟩ <;> omega

/-- What a window leaves in the register of a rate ring. -/
def State.rateLatched (s : State) (u : RateUnit) (cycles steps : Nat) : Word :=
  if s.ringRuns (some (rateRing u).1) && !s.fabric.rateGap.contains (rateRing u).1 then rateLatch cycles steps else 0

/-- The state whose mark of a rate ring follows the window. -/
def State.rateMarked (s : State) (d : Nat) : State :=
  { s with fabric := { s.fabric with rateGap := gapAfter s.fabric.rateGap d (s.ringRuns (some d)) } }

theorem exec_fabRateWindow (s : State) (u : RateUnit) {cycles steps : Nat} (h0 : 0 < cycles) (hc : cycles ≤ 0xFFFF) (hs : steps ≤ cycles) :
    exec (.fabRateWindow u cycles steps) s = .next ((s.rateMarked (rateRing u).1).setReg (rateRing u).2 (s.rateLatched u cycles steps)) := by
  have hin : ¬ (0xFFFF < cycles ∨ cycles < steps) := by omega
  simp only [exec, execFabRateWindow, if_neg hin, State.rateWindow, h0, decide_true, Bool.and_true, State.rateLatched]
  split <;> rfl

theorem rateRing_bounds (u : RateUnit) : (rateRing u).1 < 120 ∧ 0xA0000 ≤ (rateRing u).2 := by
  cases u <;> simp only [rateRing, lnDom, smDom, Reg.fabRateLn, Reg.fabRateSm] <;> omega

/-- The register of a rate ring after a window. -/
theorem State.rateWord_window {s : State} (hr : Rising s.regs) (u : RateUnit) (cycles steps : Nat) :
    ((s.rateMarked (rateRing u).1).setReg (rateRing u).2 (s.rateLatched u cycles steps)).rateWord (rateRing u).1 (rateRing u).2 =
      if s.ringOn (some (rateRing u).1) && !(gapAfter s.fabric.rateGap (rateRing u).1 (s.ringRuns (some (rateRing u).1))).contains (rateRing u).1
      then s.rateLatched u cycles steps else 0 := by
  obtain ⟨hd, hoff⟩ := rateRing_bounds u
  rw [State.rateWord, State.domOn_setReg _ _ hd hoff, State.reg_setReg_same (s.rateMarked _) _ _ hr]
  rfl

/-! ### The window of an ageing ring (R31) -/

/-- What a window leaves in the register of an ageing ring. -/
def State.ageLatched (s : State) (n : Nat) (period : BitVec 16) : Word :=
  if s.ringRuns (ageDom n) && !s.fabric.ageGap.contains n then BitVec.ofNat 32 (2 ^ 31 + period.toNat) else 0

/-- The state whose mark of an ageing ring follows the window. -/
def State.ageMarked (s : State) (n : Nat) : State :=
  { s with fabric := { s.fabric with ageGap := gapAfter s.fabric.ageGap n (s.ringRuns (ageDom n)) } }

theorem exec_ageRingWindow (s : State) (n : Fin 48) (period : BitVec 16) :
    exec (.ageRingWindow n period) s = .next ((s.ageMarked n).setReg (Reg.ageRing n) (s.ageLatched n period)) := rfl

theorem ageDom_lt {n d : Nat} (h : ageDom n = some d) : d < 120 := by
  unfold ageDom at h
  split at h
  · split at h <;> cases h <;> simp only [lnDom, ingotDom] <;> omega
  · split at h
    · cases h
      simp only [smDom]
      omega
    · cases h

theorem le_ageRing (n : Nat) : 0xA0000 ≤ Reg.ageRing n := by
  unfold Reg.ageRing
  omega

theorem State.ringOn_setReg (s : State) (n : Nat) {off : Nat} (w : Word) (hoff : 0xA0000 ≤ off) :
    (s.setReg off w).ringOn (ageDom n) = s.ringOn (ageDom n) := by
  cases h : ageDom n with
  | none => rfl
  | some d => exact s.domOn_setReg w (ageDom_lt h) hoff

/-- The register of an ageing ring after a window. -/
theorem State.ageWord_window {s : State} (hr : Rising s.regs) (n : Nat) (period : BitVec 16) :
    ((s.ageMarked n).setReg (Reg.ageRing n) (s.ageLatched n period)).ageWord n =
      if s.ringOn (ageDom n) && !(gapAfter s.fabric.ageGap n (s.ringRuns (ageDom n))).contains n then s.ageLatched n period else 0 := by
  rw [State.ageWord_eq, State.ringOn_setReg _ _ _ (le_ageRing n), State.reg_setReg_same (s.ageMarked n) _ _ hr]
  rfl

/-! ### The re-plan (R31-R33) -/

theorem slowest_mem {l : List (Nat × Nat)} {x : Nat × Nat} (h : slowest l = some x) : x ∈ l := by
  induction l generalizing x with
  | nil => cases h
  | cons y t ih =>
    unfold slowest at h
    split at h
    · cases h
      exact List.mem_cons_self ..
    · next z hz =>
      cases h
      split
      · exact List.mem_cons_of_mem _ (ih hz)
      · exact List.mem_cons_self ..

/-- A ring slower than every other one is the slowest. -/
theorem slowest_eq {l : List (Nat × Nat)} {x : Nat × Nat} (hx : x ∈ l) (hmax : ∀ y ∈ l, y ≠ x → y.2 < x.2) : slowest l = some x := by
  induction l with
  | nil => cases hx
  | cons y t ih =>
    have hmaxt : ∀ z ∈ t, z ≠ x → z.2 < x.2 := fun z hz => hmax z (List.mem_cons_of_mem _ hz)
    unfold slowest
    by_cases hyx : y = x
    · subst hyx
      split
      · rfl
      · next z hz =>
        by_cases hzy : z = y
        · simp [hzy]
        · have := hmaxt z (slowest_mem hz) hzy
          rw [if_neg (by omega)]
    · rw [ih ((List.mem_cons.mp hx).resolve_left (Ne.symm hyx)) hmaxt]
      exact congrArg some (if_pos (hmax y (List.mem_cons_self ..) hyx))

theorem State.normRings_lt {s : State} {n w : Nat} (h : (n, w) ∈ s.normRings) : n < 48 := by
  obtain ⟨k, hk, he⟩ := List.mem_map.mp h
  cases he
  exact List.mem_range.mp (List.mem_of_mem_filter hk)

/-- Before 360 rates have been computed none is published. -/
theorem State.publish_short {s : State} (h : s.fabric.ratedHist.length < 359) (ring rated : Nat) :
    s.publish ring rated = { s with fabric := { s.fabric with ratedHist := rated :: s.fabric.ratedHist } } := by
  have htake : (rated :: s.fabric.ratedHist).take 360 = rated :: s.fabric.ratedHist := List.take_of_length_le (by simp; omega)
  rw [State.publish, htake]
  exact if_neg fun hfull => by
    have := hfull.1
    simp at this
    omega

theorem State.floorMv_lt (s : State) (w : Nat) : s.floorMv w < 2 ^ 16 := by
  have hcap : s.capMv ≤ 900 := by
    unfold State.capMv
    split <;> decide
  unfold State.floorMv
  dsimp only
  split <;> omega

/-- The floor depends on FAB_CTRL, the management complex and the temperature. -/
theorem State.floorMv_congr {s t : State} (hctrl : t.reg Reg.fabCtrl = s.reg Reg.fabCtrl) (hozmel : t.ozmel = s.ozmel)
    (htj : t.fabric.tj = s.fabric.tj) (w : Nat) : t.floorMv w = s.floorMv w := by
  have hboost : t.boostInUse = s.boostInUse := by rw [State.boostInUse, State.boostInUse, State.fld, State.fld, hctrl, hozmel, htj]
  have htarget : t.targetRate = s.targetRate := by rw [State.targetRate, State.targetRate, hboost, hozmel]
  have hcap : t.capMv = s.capMv := by rw [State.capMv, State.capMv, hboost]
  rw [State.floorMv, State.floorMv, htarget, hcap, htj]

/-- The floor changes the register file alone. -/
theorem State.setFloor_eq (s : State) (w : Nat) : s.setFloor w = { s with regs := (s.setFloor w).regs } := by
  unfold State.setFloor
  split <;> rfl

/-- Of the registers it changes FAB_RATED alone. -/
theorem State.reg_setFloor_other (s : State) (w : Nat) {o : Nat} (h : o ≠ Reg.fabRated) : (s.setFloor w).reg o = s.reg o := by
  unfold State.setFloor
  split
  · exact State.reg_setFld_other _ _ _ _ _ _ h
  · rfl

theorem State.fld_setFloor {s : State} (hr : Rising s.regs) (w : Nat) :
    (s.setFloor w).fld Reg.fabRated 31 16 = (if s.flag Reg.fabCtrl 1 then s.floorMv w else s.fld Reg.fabRated 31 16) ∧
      (s.setFloor w).fld Reg.fabRated 15 0 = s.fld Reg.fabRated 15 0 := by
  unfold State.setFloor
  split
  · constructor
    · exact (State.fld_setFld_same _ _ _ _ _ hr (by decide)).trans (Nat.mod_eq_of_lt (s.floorMv_lt w))
    · rw [State.fld, State.reg_setFld_same _ _ _ _ _ hr]
      exact bitsOf_setBits_other _ _ _ _ _ _ (by decide) (by decide)
  · exact ⟨rfl, rfl⟩

/-- The state in which the slowest ring, its degradation and its period are noted, and the count of free values is c. -/
def State.planned (s : State) (n w degrade c : Nat) : State :=
  ({ s with freeCtr := c, fabric := { s.fabric with worstPs := w } } : State).setReg Reg.fabAge (BitVec.ofNat 32 (n * 2 ^ 16 + degrade))

theorem State.planned_rising {s : State} (hr : Rising s.regs) (n w degrade c : Nat) : Rising (s.planned n w degrade c).regs :=
  State.setReg_rising _ _ _ hr

theorem State.reg_planned_other (s : State) (n w degrade c : Nat) {o : Nat} (h : o ≠ Reg.fabAge) : (s.planned n w degrade c).reg o = s.reg o :=
  State.reg_setReg_other _ _ _ _ h

/-- The state after a re-plan that notes a ring and its period, sets the floor and publishes no rate. -/
def State.replanned (s : State) (n w degrade c : Nat) : State :=
  let u := (s.planned n w degrade c).setFloor w
  { u with fabric := { u.fabric with ratedHist := min 65535 (1000000 / w) :: u.fabric.ratedHist } }

/-- A re-plan without faulty rings whose slowest ring is n. Its degradation is a free value below the BASE of the ring (log entry 111). -/
theorem State.replan_eq {s : State} {n w : Nat} (hready : s.ozmel.ready = true) (hover : s.ozmel.handover = none)
    (hmon : s.flag Reg.fabCtrl 0 = true) (hsound : ∀ k < 48, bitOf (s.ageWord k) 31 = true → s.ringFaulty k = false)
    (hslow : slowest s.normRings = some (n, w))
    (hhist : s.fabric.ratedHist.length < 359) :
    ∃ degrade c, degrade < 2 ^ 16 ∧ s.replan = s.replanned n w degrade c ∧
      (0 < bitsOf (s.peek (Reg.ageBase n)) 15 0 → bitsOf (s.peek (Reg.ageBase n)) 15 0 ≤ w →
        degrade = min 65535 ((w - bitsOf (s.peek (Reg.ageBase n)) 15 0) * 10000 / bitsOf (s.peek (Reg.ageBase n)) 15 0) ∧ c = s.freeCtr) := by
  have hmay : ¬ (s.ozmel.ready = false ∨ s.ozmel.handover.isSome = true ∨ s.flag Reg.fabCtrl 0 = false) := by simp [hready, hover, hmon]
  have hbad : ((List.range 48).filter fun k => bitOf (s.ageWord k) 31 && s.ringFaulty k) = [] := by
    refine List.filter_eq_nil_iff.mpr fun k hk hbad => ?_
    obtain ⟨hvalid, hfaulty⟩ := (Bool.and_eq_true _ _).mp hbad
    simp [hsound k (List.mem_range.mp hk) hvalid] at hfaulty
  have hshort : ∀ degrade c, ((s.planned n w degrade c).setFloor w).publish n (min 65535 (1000000 / w)) = s.replanned n w degrade c :=
    fun degrade c => State.publish_short (by rw [State.setFloor_eq]; exact hhist) _ _
  rw [State.replan, if_neg hmay]
  simp only [hbad, List.foldl_nil, hslow]
  split
  · next hlow => exact ⟨_, _, Nat.mod_lt _ (by decide), hshort _ _, fun h0 hle => absurd hlow (by omega)⟩
  · exact ⟨_, s.freeCtr, by omega, hshort _ _, fun _ _ => ⟨rfl, rfl⟩⟩

/-- Beside the registers a re-plan changes the count of free values, the worst period and the rates computed. -/
theorem State.replanned_eq (s : State) (n w degrade c : Nat) :
    s.replanned n w degrade c = { s with
      regs := (s.replanned n w degrade c).regs, freeCtr := c
      fabric := { s.fabric with worstPs := w, ratedHist := min 65535 (1000000 / w) :: s.fabric.ratedHist } } := by
  unfold State.replanned
  dsimp only
  conv => lhs; rw [State.setFloor_eq]
  rfl

theorem State.reg_replanned_other (s : State) (n w degrade c : Nat) {o : Nat} (hage : o ≠ Reg.fabAge) (hrated : o ≠ Reg.fabRated) :
    (s.replanned n w degrade c).reg o = s.reg o :=
  (State.reg_setFloor_other _ _ hrated).trans (s.reg_planned_other _ _ _ _ hage)

/-- FAB_AGE after a re-plan. -/
theorem State.fld_replanned_age {s : State} (hr : Rising s.regs) {n w degrade c : Nat} (hn : n < 48) (hd : degrade < 2 ^ 16) :
    (s.replanned n w degrade c).fld Reg.fabAge 23 16 = n ∧ (s.replanned n w degrade c).fld Reg.fabAge 15 0 = degrade := by
  have hreg : (s.replanned n w degrade c).reg Reg.fabAge = BitVec.ofNat 32 (n * 2 ^ 16 + degrade) :=
    (State.reg_setFloor_other _ _ (by decide)).trans (State.reg_setReg_same _ _ _ hr)
  have hnat : (BitVec.ofNat 32 (n * 2 ^ 16 + degrade)).toNat = n * 2 ^ 16 + degrade := Nat.mod_eq_of_lt (by omega)
  rw [State.fld, State.fld, hreg, bitsOf, bitsOf, hnat]
  omega

/-- FAB_RATED after a re-plan: the floor in its half while MARGIN_AUTO is set, and the rate as it was. -/
theorem State.fld_replanned_rated {s : State} (hr : Rising s.regs) (n w degrade c : Nat) :
    (s.replanned n w degrade c).fld Reg.fabRated 31 16 = (if s.flag Reg.fabCtrl 1 then s.floorMv w else s.fld Reg.fabRated 31 16) ∧
      (s.replanned n w degrade c).fld Reg.fabRated 15 0 = s.fld Reg.fabRated 15 0 := by
  obtain ⟨hfloor, hrate⟩ := State.fld_setFloor (State.planned_rising hr n w degrade c) w
  have hctrl : (s.planned n w degrade c).reg Reg.fabCtrl = s.reg Reg.fabCtrl := s.reg_planned_other _ _ _ _ (by decide)
  have hrated : ∀ hi lo, (s.planned n w degrade c).fld Reg.fabRated hi lo = s.fld Reg.fabRated hi lo := fun hi lo =>
    congrArg (bitsOf · hi lo) (s.reg_planned_other _ _ _ _ (by decide))
  rw [State.flag, hctrl, State.floorMv_congr hctrl rfl rfl, hrated] at hfloor
  exact ⟨hfloor, hrate.trans (hrated 15 0)⟩

/-! ### The obligation on windows and re-plans -/

/-- Settles O10: a window is latched exactly where the ring runs and no mark of a cut stands, and the mark follows the window; a re-plan writes
FAB_AGE from the slowest ring, then the floor in its half of FAB_RATED, and publishes nothing before the 360th rate. -/
theorem ringWindowsAndMarginReplan : Obligations.RingWindowsAndMarginReplan := by
  unfold Obligations.RingWindowsAndMarginReplan
  intro s hc
  have hr := hc.rising
  refine ⟨?rate, ?age, ?replan⟩
  case rate =>
    intro u cycles steps h0 hcyc hsteps d off
    have hreg : ((s.rateMarked d).setReg off (s.rateLatched u cycles steps)).reg off = s.rateLatched u cycles steps :=
      State.reg_setReg_same (s.rateMarked d) _ _ hr
    have hword := State.rateWord_window hr u cycles steps
    refine ⟨_, exec_fabRateWindow s u h0 hcyc hsteps, not_mem_gapAfter, mem_gapAfter, fun hmon hclk hon hgap => ?_, fun hcut => ?_,
      rfl, fun o ho => State.reg_setReg_other _ _ _ _ (by simpa using ho)⟩
    · have hruns : s.ringRuns (some d) = true := by simp [State.ringRuns_eq, State.ringOn, hmon, hclk, hon]
      have hlatch : s.rateLatched u cycles steps = rateLatch cycles steps := if_pos (Bool.and_eq_true_iff.mpr ⟨hruns, by simpa using hgap⟩)
      obtain ⟨hvalid, hcycles, hshare⟩ := rateLatch_fields hcyc hsteps
      refine ⟨(hword.trans (shown_whole hon hruns _)).trans hreg.symm, ?_, ?_, ?_⟩
      · rw [State.flag, hreg, hlatch, hvalid]
      · rw [State.fld, hreg, hlatch, hcycles]
      · rw [State.fld, hreg, hlatch, hshare]
        exact rateUtil_cases cycles steps
    · refine hword.trans (shown_cut ?_)
      rcases hcut with hoff | hgap | hmon
      · exact .inl hoff
      · exact .inr (.inl hgap)
      · exact .inr (.inr (by simp [State.ringRuns_eq, hmon]))
  case age =>
    intro n period
    have hword := State.ageWord_window hr n period
    refine ⟨_, exec_ageRingWindow s n period, not_mem_gapAfter, mem_gapAfter, fun hmon hclk hon hgap => ?_, fun hcut => ?_,
      rfl, fun o ho => State.reg_setReg_other _ _ _ _ (by simpa using ho)⟩
    · have hon' : s.ringOn (ageDom n) = true := State.ringOn_of_all hon
      have hruns : s.ringRuns (ageDom n) = true := by simp [State.ringRuns_eq, hmon, hclk, hon']
      exact (hword.trans (shown_whole hon' hruns _)).trans (if_pos (by simp [hruns, hgap]))
    · refine hword.trans (shown_cut ?_)
      rcases hcut with ⟨d, hd, hoff⟩ | hgap | hmon
      · exact .inl (by rw [hd]; exact hoff)
      · exact .inr (.inl hgap)
      · exact .inr (.inr (by simp [State.ringRuns_eq, hmon]))
  case replan =>
    intro n w hready hover hmon hsound hmem hmax base hhist
    obtain ⟨degrade, c, hdeg, hreplan, hbase⟩ := State.replan_eq hready hover hmon hsound (slowest_eq hmem hmax) hhist
    obtain ⟨hring, hdegrade⟩ := State.fld_replanned_age (w := w) (c := c) hr (State.normRings_lt hmem) hdeg
    obtain ⟨hfloor, hrate⟩ := State.fld_replanned_rated hr n w degrade c
    have hframe := s.replanned_eq n w degrade c
    refine ⟨_, congrArg Host.Outcome.next hreplan, hring, fun h0 hle => ⟨hdegrade.trans (hbase h0 hle).1, ?_⟩, hfloor, hrate, ?_, ?_, fun o ho => ?_⟩
    · rw [hframe]
      exact (hbase h0 hle).2
    · rw [hframe]
    · conv => lhs; rw [hframe]
      rw [hframe]
    · obtain ⟨hage, hrated⟩ : o ≠ Reg.fabAge ∧ o ≠ Reg.fabRated := by simpa using ho
      exact s.reg_replanned_other _ _ _ _ hage hrated

end Sys2Proof.Machine

/-!
PROOFS. The address space and remote memory operations: window entries (R44, R274, R275), and what a remote memory operation reads, writes
and leaves (R45-R54).
-/

namespace Sys2Proof.Machine

/-! ### Window entries (R44, R274, R275) -/

theorem bitOf_and (w m : Word) (i : Nat) : bitOf (w &&& m) i = (bitOf w i && bitOf m i) := by
  simp [bitOf, Nat.testBit_and]

/-- A field that a mask covers is read through it. -/
theorem bitsOf_and_of_covered (w m : Word) {hi lo : Nat} (h : bitsOf m hi lo = 2 ^ (hi + 1 - lo) - 1) :
    bitsOf (w &&& m) hi lo = bitsOf w hi lo := by
  refine Nat.eq_of_testBit_eq fun i => ?_
  have hm : (bitsOf m hi lo).testBit i = decide (i < hi + 1 - lo) := by rw [h, Nat.testBit_two_pow_sub_one]
  rw [testBit_bitsOf] at hm
  rw [testBit_bitsOf, testBit_bitsOf, bitOf_and]
  generalize decide (i < hi + 1 - lo) = inside at hm ⊢
  cases inside
  · rfl
  · rw [show bitOf m (i + lo) = true from hm, Bool.and_true]

/-- The word of WIN_SEL after a write: its fields, and WR_REFUSED as a 1 clears it. -/
def winSelWord (v : Word) (refused : Bool) : Word := setBits (v &&& 0x80003F3F) 30 30 (boolNat refused)

theorem winSelWord_fields (v : Word) (refused : Bool) :
    bitOf (winSelWord v refused) 31 = bitOf v 31 ∧ bitsOf (winSelWord v refused) 13 8 = bitsOf v 13 8 ∧
      bitsOf (winSelWord v refused) 5 0 = bitsOf v 5 0 ∧ bitOf (winSelWord v refused) 30 = refused := by
  refine ⟨?_, ?_, ?_, bitOf_setFlag_same _ _ _ (by decide)⟩
  · rw [winSelWord, bitOf_setBits_other _ _ _ _ _ (by decide) (by decide), bitOf_and, show bitOf 0x80003F3F 31 = true from by decide,
      Bool.and_true]
  · rw [winSelWord, bitsOf_setBits_other _ _ _ _ _ _ (by decide) (by decide), bitsOf_and_of_covered _ _ (by decide)]
  · rw [winSelWord, bitsOf_setBits_other _ _ _ _ _ _ (by decide) (by decide), bitsOf_and_of_covered _ _ (by decide)]

theorem exec_winSelWrite {s : State} (v : Word) (h : s.PfReaches Reg.winSel) :
    exec (.winSelWrite v) s =
      .next { s.setReg Reg.winSel (winSelWord v (s.flag Reg.winSel 30 && !bitOf v 30)) with winLoStaged := none } :=
  congrArg Host.Outcome.next (State.pfReach_of_reaches h _)

theorem exec_winLoWrite {s : State} (v : Word) (h : s.PfReaches Reg.winLo) :
    exec (.winLoWrite v) s = .next { s with winLoStaged := some v } :=
  congrArg Host.Outcome.next (State.pfReach_of_reaches h _)

theorem exec_winHiWrite {s : State} (v : Word) (h : s.PfReaches Reg.winHi) : exec (.winHiWrite v) s = .next (s.winHiWrite v) :=
  congrArg Host.Outcome.next (State.pfReach_of_reaches h _)

/-- The low word that a commit through WIN_HI takes: the staged one, or the one that the entry then holds. -/
def State.winLow (s : State) (p e : Nat) : Word := s.winLoStaged.getD (s.shadowWord p (tabKey 0 (2 * e)))

theorem State.winLow_staged {s : State} {lo : Word} (h : s.winLoStaged = some lo) (p e : Nat) : s.winLow p e = lo := by
  rw [State.winLow, h, Option.getD_some]

/-- While no write is held the entry holds the word of the shadow table. -/
theorem State.winLow_shadow {s : State} (h : s.winLoStaged = none) (hheld : s.swap.held = []) (p e : Nat) :
    s.winLow p e = tableWord (s.part p).shadow 0 (2 * e) := by
  simp [State.winLow, h, State.shadowWord, hheld, tableWord]

section WinHi

variable {s : State} (v : Word)

theorem State.winHiWrite_refused (h : s.flag Reg.winSel 31 = false) : s.winHiWrite v = s.setFlag Reg.winSel 30 true :=
  if_neg (by rw [State.flag] at h; simp [h])

theorem State.winHiWrite_shadow (h : s.flag Reg.winSel 31 = true) :
    s.winHiWrite v = { (s.shadowWrite (s.fld Reg.winSel 13 8) (tabKey 0 (2 * s.fld Reg.winSel 5 0))
        (s.winLow (s.fld Reg.winSel 13 8) (s.fld Reg.winSel 5 0))).shadowWrite (s.fld Reg.winSel 13 8) (tabKey 0 (2 * s.fld Reg.winSel 5 0 + 1)) v
      with winLoStaged := none } := by
  refine (if_pos h).trans ?_
  cases hlo : s.winLoStaged <;> simp [State.winLow, hlo, State.fld]

end WinHi

theorem State.shadowWrite_put {s : State} {p : Nat} (h : s.swapping p = false) (key : Nat) (w : Word) :
    s.shadowWrite p key w = s.putShadow p key w := if_neg (by simp [h])

theorem State.shadowWrite_held {s : State} {p : Nat} (h : s.swapping p = true) (key : Nat) (w : Word) :
    s.shadowWrite p key w = { s with swap := { s.swap with held := s.swap.held ++ [(p, key, w)] } } := if_pos h

/-- Settles O8: WIN_SEL's fields pass its mask and the staged word goes; WIN_HI writes both words of the entry, or holds both for the flip, or
sets WR_REFUSED alone. -/
theorem windowEntriesCommitInPairs : Obligations.WindowEntriesCommitInPairs := by
  unfold Obligations.WindowEntriesCommitInPairs
  intro s v hc
  have hr := hc.rising
  refine ⟨?select, exec_winLoWrite v, ?high⟩
  case select =>
    intro hreach
    have hreg := s.reg_setReg_same Reg.winSel (winSelWord v (s.flag Reg.winSel 30 && !bitOf v 30)) hr
    obtain ⟨hshadow, hpart, hentry, hrefused⟩ := winSelWord_fields v (s.flag Reg.winSel 30 && !bitOf v 30)
    exact ⟨_, exec_winSelWrite v hreach, rfl, (congrArg (bitOf · 31) hreg).trans hshadow, (congrArg (bitsOf · 13 8) hreg).trans hpart,
      (congrArg (bitsOf · 5 0) hreg).trans hentry, (congrArg (bitOf · 30) hreg).trans hrefused, rfl,
      fun o ho => s.reg_setReg_other _ _ _ (by simpa using ho)⟩
  case high =>
    intro hreach p e
    refine ⟨fun lo hsh hopen hlo => ?_, fun lo hsh hswap hlo => ?_, fun hsh => ?_⟩
    · have hlow : s.winLow p e = lo := by
        rcases hlo with hlo | ⟨hnone, hheld, rfl⟩
        · exact State.winLow_staged hlo p e
        · exact State.winLow_shadow hnone hheld p e
      rw [exec_winHiWrite v hreach, State.winHiWrite_shadow v hsh, hlow, State.shadowWrite_put hopen, State.shadowWrite_put (by exact hopen)]
    · rw [exec_winHiWrite v hreach, State.winHiWrite_shadow v hsh, State.winLow_staged hlo, State.shadowWrite_held hswap,
        State.shadowWrite_held (by exact hswap)]
      simp [p, e]
    · refine ⟨_, (exec_winHiWrite v hreach).trans (congrArg _ (State.winHiWrite_refused v hsh)),
        State.flag_setFlag_same _ _ _ _ hr (by decide), fun i hi => ?_, rfl, fun o ho => s.reg_setFlag_other _ _ _ _ (by simpa using ho)⟩
      rw [State.flag, State.setFlag, State.reg_setFld_same _ _ _ _ _ hr]
      exact bitOf_setBits_other _ _ _ _ _ (by decide) (by omega)

/-! ### Stores to device memory -/

theorem length_readMem (s : State) (a n : Nat) : (s.readMem a n).length = n := by simp [State.readMem]

theorem getD_readMem (s : State) (a : Nat) {n i : Nat} (h : i < n) : (s.readMem a n).getD i 0 = s.memByte (a + i) := by
  simp [State.readMem, h]

/-- Words that wait to be written back are dropped from the records of the Ingots and the banks alone. -/
theorem State.cancelBack_eq (s : State) (da len : Nat) :
    ∃ ingots banks, s.cancelBack da len = { s with ingots := ingots, banks := banks } := by
  unfold State.cancelBack
  dsimp only
  split
  · exact ⟨s.ingots, s.banks, rfl⟩
  · exact ⟨_, _, rfl⟩

/-- A re-test changes the entries alone. -/
theorem State.retest_eq (s : State) (da len : Nat) : ∃ rmos, s.retest da len = { s with rmos := rmos } := by
  unfold State.retest
  split
  · exact ⟨s.rmos, rfl⟩
  · exact ⟨_, rfl⟩

/-- t is s but for the bytes of device memory, the words that wait to be written back, and what the entries of WAITs have found. -/
def StoredOver (s t : State) : Prop :=
  ∃ mem ingots banks rmos, t = { s with mem := mem, ingots := ingots, banks := banks, rmos := rmos }

theorem StoredOver.refl (s : State) : StoredOver s s := ⟨_, _, _, _, rfl⟩

theorem StoredOver.trans {s t u : State} (h : StoredOver s t) (g : StoredOver t u) : StoredOver s u := by
  obtain ⟨_, _, _, _, rfl⟩ := h
  obtain ⟨_, _, _, _, rfl⟩ := g
  exact ⟨_, _, _, _, rfl⟩

section Stored

variable {s t : State} (h : StoredOver s t)
include h

theorem StoredOver.poison : t.poison = s.poison := by
  obtain ⟨_, _, _, _, rfl⟩ := h
  rfl

theorem StoredOver.accessStatus (a : Nat) : t.accessStatus a = s.accessStatus a := by
  obtain ⟨_, _, _, _, rfl⟩ := h
  rfl

end Stored

section Store

variable {s : State} (da : Nat) (bs : List Byte)

/-- What a store changes while no word is poisoned: its bytes, words that wait to be written back, and entries of WAITs. -/
theorem State.store_eq (hp : s.poison = []) :
    ∃ ingots banks rmos, s.store da bs =
      { s with mem := memWrite s.undef s.mem da bs, ingots := ingots, banks := banks, rmos := rmos } := by
  have hwrite : s.writeMem da bs = { s with mem := memWrite s.undef s.mem da bs } := by
    rw [State.writeMem, State.clearPoison, if_pos (by simp [hp])]
  obtain ⟨ingots, banks, hback⟩ := (s.writeMem da bs).cancelBack_eq da bs.length
  obtain ⟨rmos, htest⟩ := ((s.writeMem da bs).cancelBack da bs.length).retest_eq da bs.length
  exact ⟨ingots, banks, rmos, by rw [State.store, htest, hback, hwrite]⟩

theorem State.store_storedOver (hp : s.poison = []) : StoredOver s (s.store da bs) := by
  obtain ⟨_, _, _, h⟩ := s.store_eq da bs hp
  exact ⟨_, _, _, _, h⟩

variable (hp : s.poison = []) (hw : memWf s.undef s.mem = true)
include hp hw

theorem State.store_memWf : memWf (s.store da bs).undef (s.store da bs).mem = true := by
  obtain ⟨_, _, _, h⟩ := s.store_eq da bs hp
  rw [h]
  exact memWrite_wf _ _ _ _ hw

/-- A byte of device memory after a store. -/
theorem State.memByte_store (x : Nat) :
    (s.store da bs).memByte x = if da ≤ x ∧ x < da + bs.length then bs.getD (x - da) 0 else s.memByte x := by
  obtain ⟨_, _, _, h⟩ := s.store_eq da bs hp
  rw [h]
  exact byteOf_write _ _ _ _ _ hw

theorem State.store_sameMemBut : SameMemBut s (s.store da bs) da bs.length := fun x hx => by
  rw [State.memByte_store da bs hp hw, if_neg (by omega)]

theorem State.readMem_store_same : (s.store da bs).readMem da bs.length = bs := by
  refine List.ext_getElem (length_readMem _ _ _) fun i h₁ h₂ => ?_
  simp [State.readMem, State.memByte_store da bs hp hw, h₂]

end Store

theorem leNat_leBytes (n v : Nat) : leNat (leBytes n v) = v % 256 ^ n := by
  induction n generalizing v with
  | zero => simp [leBytes, leNat, Nat.mod_one]
  | succ n ih =>
    rw [leBytes, leNat, ih, BitVec.toNat_ofNat, pow_succ' 256 n]
    exact Nat.mod_mul.symm

section StoreNat

variable {s : State} (da n v : Nat) (hp : s.poison = []) (hw : memWf s.undef s.mem = true)
include hp hw

theorem State.readNat_storeNat_same : (s.storeNat da n v).readNat da n = v % 256 ^ n := by
  have h := State.readMem_store_same da (leBytes n v) hp hw
  rw [length_leBytes] at h
  rw [State.readNat, State.storeNat, h, leNat_leBytes]

theorem State.storeNat_sameMemBut : SameMemBut s (s.storeNat da n v) da n := by
  have h := State.store_sameMemBut da (leBytes n v) hp hw
  rwa [length_leBytes] at h

end StoreNat

theorem State.readNat_lt (s : State) (da n : Nat) : s.readNat da n < 256 ^ n := by
  have h := leNat_lt (s.readMem da n)
  rwa [length_readMem] at h

theorem State.poisoned_of_nil {s : State} (hp : s.poison = []) (da len : Nat) : s.poisoned da len = false := by
  simp [State.poisoned, hp]

/-! ### Copies (R45, R54) -/

/-- After n words copied from src to dst, a byte of the destination holds the source's, and every other byte is as it was. -/
def Copied (s t : State) (src dst len : Nat) : Prop :=
  ∀ x, t.memByte x = if dst ≤ x ∧ x < dst + len then s.memByte (src + (x - dst)) else s.memByte x

theorem Copied.dst {s t : State} {src dst len : Nat} (h : Copied s t src dst len) {i : Nat} (hi : i < len) :
    t.memByte (dst + i) = s.memByte (src + i) := by
  rw [h, if_pos (by omega), Nat.add_sub_cancel_left]

theorem Copied.sameMemBut {s t : State} {src dst len : Nat} (h : Copied s t src dst len) : SameMemBut s t dst len := fun x hx => by
  rw [h, if_neg (by omega)]

/-- Words without poison, in memories that answer, are copied in full when source and destination lie apart. -/
theorem State.copyWords_apart {s : State} (hp : s.poison = []) (hw : memWf s.undef s.mem = true) (src dst n : Nat) (st : Status) (bad : List Nat)
    (hsrc : ∀ i < n, s.accessStatus (src + 8 * i) = .ok) (hdst : ∀ i < n, s.accessStatus (dst + 8 * i) = .ok)
    (hapart : src + 8 * n ≤ dst ∨ dst + 8 * n ≤ src) :
    ∃ t, s.copyWords src dst st bad n = (t, st, bad, 0) ∧ StoredOver s t ∧ Copied s t src dst (8 * n) := by
  induction n generalizing s src dst with
  | zero => exact ⟨s, rfl, .refl s, fun x => (if_neg (by omega)).symm⟩
  | succ n ih =>
    have hone := s.store_storedOver dst (s.readMem src 8) hp
    have hbyte := State.memByte_store dst (s.readMem src 8) hp hw
    rw [length_readMem] at hbyte
    obtain ⟨t, hcopy, hover, hcopied⟩ := ih (hone.poison.trans hp) (State.store_memWf _ _ hp hw) (src + 8) (dst + 8)
      (fun i hi => by rw [hone.accessStatus, show src + 8 + 8 * i = src + 8 * (i + 1) by omega]; exact hsrc _ (by omega))
      (fun i hi => by rw [hone.accessStatus, show dst + 8 + 8 * i = dst + 8 * (i + 1) by omega]; exact hdst _ (by omega)) (by omega)
    refine ⟨t, ?_, hone.trans hover, fun x => ?_⟩
    · have hs := hsrc 0 (by omega)
      have hd := hdst 0 (by omega)
      rw [Nat.mul_zero, Nat.add_zero] at hs hd
      rw [State.copyWords]
      simp only [hs, hd, State.poisoned_of_nil hp, hcopy, Bool.false_eq_true, if_false]
    · rw [hcopied]
      by_cases hlow : dst ≤ x ∧ x < dst + 8
      · rw [if_neg (by omega), hbyte, if_pos hlow, getD_readMem _ _ (by omega), if_pos (by omega)]
      · by_cases hin : dst ≤ x ∧ x < dst + 8 * (n + 1)
        · rw [if_pos (by omega), hbyte, if_neg (by omega), if_pos hin, show src + 8 + (x - (dst + 8)) = src + (x - dst) by omega]
        · rw [if_neg (by omega), hbyte, if_neg hlow, if_neg hin]

/-- A transfer of one row into memory. -/
theorem State.copyRows_one_apart {s : State} (hp : s.poison = []) (hw : memWf s.undef s.mem = true) {src dst len : Nat} (ss ds : Nat)
    (h8 : len % 8 = 0) (hok : ∀ i < len, s.accessStatus (src + i) = .ok ∧ s.accessStatus (dst + i) = .ok)
    (hapart : src + len ≤ dst ∨ dst + len ≤ src) :
    ∃ t, s.copyRows src dst len ss ds .ok 1 = (t, .ok) ∧ StoredOver s t ∧ Copied s t src dst len := by
  have hlen : 8 * (len / 8) = len := by omega
  obtain ⟨t, hcopy, hover, hcopied⟩ := State.copyWords_apart hp hw src dst (len / 8) .ok []
    (fun i hi => (hok _ (by omega)).1) (fun i hi => (hok _ (by omega)).2) (by omega)
  rw [hlen] at hcopied
  have hstart : s.rowStart dst (8 * (len / 8)) .ok = (s, .ok) := by simp [State.rowStart, State.partialPoison, hp]
  have hclear : t.clearRow dst (8 * (len / 8)) [] = t := if_pos (by simp [hover.poison, hp])
  have hrow : s.copyRow src dst (len / 8) .ok = (t, .ok) := by
    simp only [State.copyRow, hstart, hcopy, Nat.sub_zero, hclear]
  exact ⟨t, by simp [State.copyRows, hrow, Status.goesOn], hover, hcopied⟩

/-! ### Local buffers (R45) -/

/-- A byte of an issuer's local buffer. -/
def State.localByte (s : State) (i x : Nat) : Byte := sparseGet memDefault (sparseGet [] s.localBufs i) x

theorem sparseGet_cellsWrite (d : Byte) (m : List Host.Cell) (a x : Nat) (bs : List Byte) (h : Rising m) :
    sparseGet d (cellsWrite d m a bs) x = if a ≤ x ∧ x < a + bs.length then bs.getD (x - a) 0 else sparseGet d m x := by
  induction bs generalizing m a with
  | nil => exact (if_neg (by simp)).symm
  | cons b t ih =>
    rw [cellsWrite, ih _ _ (sparseSet_rising d m a b h)]
    by_cases hxa : x = a
    · subst hxa
      rw [if_neg (by omega), sparseGet_set_same _ _ _ _ h, if_pos (by simp)]
      simp
    · rw [sparseGet_set_other _ _ _ _ _ hxa]
      by_cases hin : a + 1 ≤ x ∧ x < a + 1 + t.length
      · rw [if_pos hin, if_pos (by simp; omega), show x - a = (x - (a + 1)) + 1 by omega, List.getD_cons_succ]
      · rw [if_neg hin, if_neg (by simp; omega)]

theorem localsWf_iff (l : List (Nat × List Host.Cell)) :
    localsWf l = true ↔ Rising l ∧ ∀ e ∈ l, cellsWf memDefault e.2 = true := by
  simp [localsWf]

theorem rising_sparseGet_locals {l : List (Nat × List Host.Cell)} (h : localsWf l = true) (i : Nat) : Rising (sparseGet [] l i) := by
  rcases sparseGet_mem [] l i with hnone | hmem
  · rw [hnone]
    exact List.Pairwise.nil
  · exact ((cellsWf_iff _ _).mp (((localsWf_iff l).mp h).2 _ hmem)).1

section SetLocal

variable {s : State} (i off : Nat) (bs : List Byte)

theorem State.setLocal_wf (hm : Memory.wf s = true) : Memory.wf (s.setLocal i off bs) = true :=
  (s.setLocal_kept i off bs (.refl s)).mem hm

theorem State.localByte_setLocal (hm : Memory.wf s = true) (x : Nat) :
    (s.setLocal i off bs).localByte i x = if off ≤ x ∧ x < off + bs.length then bs.getD (x - off) 0 else s.localByte i x := by
  obtain ⟨-, -, -, hl⟩ := (memory_wf_iff s).mp hm
  rw [State.localByte, State.setLocal, sparseGet_set_same _ _ _ _ ((localsWf_iff _).mp hl).1]
  exact sparseGet_cellsWrite _ _ _ _ _ (rising_sparseGet_locals hl i)

end SetLocal

/-- t is s but for the local buffers. -/
def LocalOver (s t : State) : Prop := ∃ bufs, t = { s with localBufs := bufs }

/-- Words without poison, in memories that answer, are put into a local buffer in full. -/
theorem State.takeWords_local {s : State} (hp : s.poison = []) (hm : Memory.wf s = true) (i src off n : Nat) (st : Status) (bad : List Nat)
    (hsrc : ∀ j < n, s.accessStatus (src + 8 * j) = .ok) :
    ∃ t, s.takeWords (fun s => s.setLocal i) src off st bad n = (t, st) ∧ LocalOver s t ∧
      ∀ x, t.localByte i x = if off ≤ x ∧ x < off + 8 * n then s.memByte (src + (x - off)) else s.localByte i x := by
  induction n generalizing s src off with
  | zero => exact ⟨s, rfl, ⟨_, rfl⟩, fun x => (if_neg (by omega)).symm⟩
  | succ n ih =>
    have hbyte := State.localByte_setLocal i off (s.readMem src 8) hm
    rw [length_readMem] at hbyte
    obtain ⟨t, htake, ⟨bufs, hover⟩, hread⟩ := ih (s := s.setLocal i off (s.readMem src 8)) hp (s.setLocal_wf i off _ hm) (src + 8) (off + 8)
      (fun j hj => by rw [show src + 8 + 8 * j = src + 8 * (j + 1) by omega]; exact hsrc _ (by omega))
    refine ⟨t, ?_, ⟨bufs, hover⟩, fun x => ?_⟩
    · have hs := hsrc 0 (by omega)
      rw [Nat.mul_zero, Nat.add_zero] at hs
      rw [State.takeWords]
      simp only [hs, State.poisoned_of_nil hp, htake, Bool.false_eq_true, if_false]
    · rw [hread]
      by_cases hlow : off ≤ x ∧ x < off + 8
      · rw [if_neg (by omega), hbyte, if_pos hlow, getD_readMem _ _ (by omega), if_pos (by omega)]
      · by_cases hin : off ≤ x ∧ x < off + 8 * (n + 1)
        · rw [if_pos (by omega), if_pos hin, show src + 8 + (x - (off + 8)) = src + (x - off) by omega]
          rfl
        · rw [if_neg (by omega), hbyte, if_neg hlow, if_neg hin]

/-- A transfer of one row into a local buffer. -/
theorem State.takeRows_one_local {s : State} (hp : s.poison = []) (hm : Memory.wf s = true) (i : Nat) {src off len : Nat} (ss ds : Nat)
    (h8 : len % 8 = 0) (hok : ∀ j < len, s.accessStatus (src + j) = .ok) :
    ∃ t, s.takeRows (fun s => s.setLocal i) src off len ss ds .ok 1 = (t, .ok) ∧ LocalOver s t ∧
      ∀ j < len, t.localByte i (off + j) = s.memByte (src + j) := by
  obtain ⟨t, htake, hover, hread⟩ := State.takeWords_local hp hm i src off (len / 8) .ok [] fun j hj => hok _ (by omega)
  refine ⟨t, by simp [State.takeRows, htake, Status.goesOn], hover, fun j hj => ?_⟩
  rw [hread, if_pos (by omega), Nat.add_sub_cancel_left]

/-! ### The way of a remote memory operation -/

/-- The commands that perform a remote memory operation, with its kind. -/
def rmoCommands (src : RmoSrc) : List (Instr × RmoKind) :=
  [(.rmoPut src, .put), (.rmoGet src, .get), (.rmoAdd32 src, .add32), (.rmoAddf32 src, .addf32), (.rmoSwap64 src, .swap64),
   (.rmoCas64 src, .cas64), (.rmoSignal src, .signal), (.rmoWait src, .wait), (.rmoFence src, .fence)]

theorem exec_rmoCommand (s : State) {src : RmoSrc} {c : Instr} {k : RmoKind} (h : (c, k) ∈ rmoCommands src) :
    exec c s = .next (s.rmoStep k src) := by
  simp only [rmoCommands, List.mem_cons, List.not_mem_nil, or_false, Prod.mk.injEq] at h
  obtain ⟨rfl, rfl⟩ | ⟨rfl, rfl⟩ | ⟨rfl, rfl⟩ | ⟨rfl, rfl⟩ | ⟨rfl, rfl⟩ | ⟨rfl, rfl⟩ | ⟨rfl, rfl⟩ | ⟨rfl, rfl⟩ | ⟨rfl, rfl⟩ := h <;> rfl

section RmoStep

variable {s : State} {k : RmoKind} {src : RmoSrc} {x : RmoCall} {c : Instr} (hc : (c, k) ∈ rmoCommands src) (hx : s.rmoCall k src = some x)
  (hmay : s.rmoMay x.issuer k x.req.fence = true)
include hc hx hmay

/-- An operation that may be issued, passes its checks and is let through is performed. -/
theorem exec_rmo_pass {da db : Nat} (hcheck : s.rmoCheck x.issuer x.part k x.req x.det = .pass da db)
    (hshade : s.rmoShade x k x.req da db = (s, true)) : exec c s = .next (s.rmoPerform x k x.req da db) := by
  rw [exec_rmoCommand s hc, State.rmoStep]
  simp only [hx, hmay, hcheck, hshade, if_true]

/-- One that fails a check is refused. -/
theorem exec_rmo_fail {st : Status} {a : Nat} (hcheck : s.rmoCheck x.issuer x.part k x.req x.det = .fail st a) :
    exec c s = .next (s.rmoRefuse x k x.req st a) := by
  rw [exec_rmoCommand s hc, State.rmoStep]
  simp only [hx, hmay, hcheck, if_true]

end RmoStep

/-- Putting an entry adds it, uses an identity up, and notes it with its descriptor. -/
theorem State.rmoPut_eq (s : State) (x : RmoCall) (f : Nat → Rmo) :
    s.rmoPut x f = { s with rmos := s.rmos ++ [f s.nextId], nextId := s.nextId + 1, lanterns := (s.rmoPut x f).lanterns } := by
  unfold State.rmoPut State.fresh
  dsimp only
  split <;> rfl

theorem State.rmoPut_frame (s : State) (x : RmoCall) (f : Nat → Rmo) :
    s.rmoPut x f = { s with rmos := (s.rmoPut x f).rmos, nextId := s.nextId + 1, lanterns := (s.rmoPut x f).lanterns } := by
  conv => lhs; rw [State.rmoPut_eq]
  rw [State.rmoPut_eq]

section RmoPut

variable (s : State) (x : RmoCall) (f : Nat → Rmo)

@[simp] theorem State.rmoPut_rmos : (s.rmoPut x f).rmos = s.rmos ++ [f s.nextId] := by rw [State.rmoPut_eq]
@[simp] theorem State.rmoPut_mem : (s.rmoPut x f).mem = s.mem := by rw [State.rmoPut_eq]
@[simp] theorem State.rmoPut_undef : (s.rmoPut x f).undef = s.undef := by rw [State.rmoPut_eq]
@[simp] theorem State.rmoPut_localBufs : (s.rmoPut x f).localBufs = s.localBufs := by rw [State.rmoPut_eq]

@[simp] theorem State.memByte_rmoPut (a : Nat) : (s.rmoPut x f).memByte a = s.memByte a := by
  rw [memByte_eq, memByte_eq, State.rmoPut_mem, State.rmoPut_undef]

@[simp] theorem State.readNat_rmoPut (a n : Nat) : (s.rmoPut x f).readNat a n = s.readNat a n := by
  simp [State.readNat, State.readMem]

end RmoPut

/-- An entry put after stores. -/
theorem StoredOver.rmoPut_eq {s u : State} (h : StoredOver s u) (x : RmoCall) (f : Nat → Rmo) :
    u.rmoPut x f = { s with
      mem := (u.rmoPut x f).mem, rmos := (u.rmoPut x f).rmos, ingots := (u.rmoPut x f).ingots, banks := (u.rmoPut x f).banks
      nextId := s.nextId + 1, lanterns := (u.rmoPut x f).lanterns } := by
  obtain ⟨_, _, _, _, rfl⟩ := h
  conv => lhs; rw [State.rmoPut_eq]
  rw [State.rmoPut_eq]

theorem StoredOver.nextId {s u : State} (h : StoredOver s u) : u.nextId = s.nextId := by
  obtain ⟨_, _, _, _, rfl⟩ := h
  rfl

/-- The entry just put. -/
theorem State.exists_rmoPut_entry {s : State} {n : Nat} (hn : s.nextId = n) (x : RmoCall) (f : Nat → Rmo) {P : Rmo → Prop} (h : P (f n)) :
    ∃ e ∈ (s.rmoPut x f).rmos, P e := ⟨f n, by simp [hn], h⟩

/-! ### The checks (R53) -/

/-- A transfer that passes its checks has whole words. -/
theorem State.len_of_pass {s : State} {i : Issuer} {p : Nat} {k : RmoKind} {r : RmoReq} {det : Bool} {da db : Nat} (hk : k = .put ∨ k = .get)
    (h : s.rmoCheck i p k r det = .pass da db) : r.len % 8 = 0 := by
  have haligned : copyAligned r true = true := by
    by_contra hbad
    rw [Bool.not_eq_true] at hbad
    rcases hk with rfl | rfl <;> cases (if_pos hbad).symm.trans h
  simp only [copyAligned, Bool.and_eq_true, decide_eq_true_eq] at haligned
  obtain ⟨⟨⟨⟨⟨-, hwords⟩, -⟩, -⟩, -⟩, -⟩ := haligned
  exact hwords

/-- The destination of a GET into a local buffer is the offset that the operation names. -/
theorem State.dst_of_local_pass {s : State} {i : Issuer} {p : Nat} {r : RmoReq} {det : Bool} {da db : Nat} (hl : r.toLocal = true)
    (h : s.rmoCheck i p .get r det = .pass da db) : db = r.b := by
  simp only [State.rmoCheck, hl] at h
  split at h
  · cases h
  · split at h
    · cases h
    · split at h
      · cases h
      · cases h
        rfl

/-- A result address fails with BOUNDS alone. -/
theorem State.rmoResult_fail {s : State} {i : Issuer} {p : Nat} {r : RmoReq} {da : Nat} {st : Status} {a : Nat}
    (h : s.rmoResult i p r da = .fail st a) : st = .bounds := by
  unfold State.rmoResult at h
  split at h
  · split at h
    · cases h; rfl
    · split at h <;> cases h
      rfl
  · cases h

/-- A check fails with ALIGN, BOUNDS or DET_FORBIDDEN. -/
theorem State.rmoCheck_fail {s : State} {i : Issuer} {p : Nat} {k : RmoKind} {r : RmoReq} {det : Bool} {st : Status} {a : Nat}
    (h : s.rmoCheck i p k r det = .fail st a) : st ∈ [Status.align, .bounds, .detForbidden] := by
  unfold State.rmoCheck at h
  split at h
  · cases h
  · -- PUT
    split at h
    · cases h; simp
    · split at h
      · cases h; simp
      · split at h <;> cases h
        simp
  · -- GET
    split at h
    · cases h; simp
    · split at h
      · cases h; simp
      · split at h
        · cases h; simp
        · split at h
          · cases h
          · split at h
            · cases h; simp
            · split at h <;> cases h
              simp
  · -- the word operations and WAIT
    split at h
    · cases h; simp
    · split at h
      · cases h; simp
      · split at h
        · cases h; simp
        · split at h
          · cases h; simp
          · split at h
            · next hresult =>
              cases h
              rw [State.rmoResult_fail hresult]
              simp
            · split at h <;> cases h
              simp

/-- A refusal records the address and puts the entry. -/
theorem State.rmoRefuse_eq {s : State} {x : RmoCall} {k : RmoKind} {r : RmoReq} {st : Status} {a : Nat} {det : Bool}
    (h : s.rmoCheck x.issuer x.part k r det = .fail st a) :
    s.rmoRefuse x k r st a = (s.sootEvent (issuerBlock x.issuer * 256 + 0x20) (BitVec.ofNat 64 a) (some x.part)).rmoPut x
      fun id => rmoEntry id x k r 0 0 st 0 0 := by
  have hst : st ≠ .unitFault := by
    rintro rfl
    simpa using State.rmoCheck_fail h
  rw [State.rmoRefuse, State.noteFault]
  simp only [hst, if_false]

/-! ### Transfers (R45, R51, R53, R54) -/

/-- The entry of a transfer is put once its bytes have moved. -/
theorem State.rmoPerform_transfer {s u : State} {x : RmoCall} {k : RmoKind} {r : RmoReq} {da db : Nat} {st : Status} (hk : k = .put ∨ k = .get)
    (h : s.rmoCopy x k r da db = (u, st)) : s.rmoPerform x k r da db = u.rmoPut x fun id => rmoEntry id x k r da db st 0 0 := by
  rcases hk with rfl | rfl <;> simp only [State.rmoPerform, h]

/-- Settles O11: a row of words without poison is copied word by word, into memory or into the local buffer, and the entry is put after it; a
failing check is no memory error, so that it leaves a Soot event and the entry. -/
theorem remoteTransfersCopyAndRefuse : Obligations.RemoteTransfersCopyAndRefuse := by
  unfold Obligations.RemoteTransfersCopyAndRefuse
  refine ⟨?copy, ?fill, ?refuse⟩
  case copy =>
    rintro s k c src x r da db hcan hmem hx rfl hmay hcheck hshade hdest hrows hp hok hapart
    have hsub : [(Instr.rmoPut src, RmoKind.put), (.rmoGet src, .get)] ⊆ rmoCommands src := by simp [rmoCommands]
    have hk : k = .put ∨ k = .get := by simpa using List.mem_map_of_mem (f := Prod.snd) hmem
    obtain ⟨hw, -⟩ := (memory_wf_iff s).mp hcan.mem
    obtain ⟨u, hrow, hover, hcopied⟩ :=
      State.copyRows_one_apart hp hw x.req.srcStride x.req.dstStride (State.len_of_pass hk hcheck) hok hapart
    have hcopy : s.rmoCopy x k x.req da db = (u, .ok) := by
      have hmemory : ¬ (k = .get ∧ x.req.toLocal = true) := by rcases hdest with rfl | hl <;> simp [*]
      rw [State.rmoCopy, if_neg hmemory, Nat.max_eq_left hrows, hrow]
    refine ⟨_, (exec_rmo_pass (hsub hmem) hx hmay hcheck hshade).trans (congrArg _ (State.rmoPerform_transfer hk hcopy)),
      fun i hi => ?_, fun a ha => ?_,
      State.exists_rmoPut_entry hover.nextId _ _ ⟨rfl, rfl, rfl, rfl, rfl⟩, hover.rmoPut_eq _ _⟩
    · rw [State.memByte_rmoPut, hcopied.dst hi]
    · rw [State.memByte_rmoPut, hcopied.sameMemBut a ha]
  case fill =>
    rintro s src x r da db hcan hx rfl hmay hcheck hshade hl hrows hp hok
    have hdb := State.dst_of_local_pass hl hcheck
    subst hdb
    obtain ⟨u, hrow, ⟨bufs, hover⟩, hread⟩ := State.takeRows_one_local hp hcan.mem (issuerCode x.issuer) (off := x.req.b) x.req.srcStride
      x.req.dstStride (State.len_of_pass (.inr rfl) hcheck) hok
    have hcopy : s.rmoCopy x .get x.req da x.req.b = (u, .ok) := by
      rw [State.rmoCopy, if_pos ⟨rfl, hl⟩, Nat.max_eq_left hrows, hrow]
    have hnext : u.nextId = s.nextId := by rw [hover]
    refine ⟨_, (exec_rmo_pass (src := src) (by simp [rmoCommands]) hx hmay hcheck hshade).trans
      (congrArg _ (State.rmoPerform_transfer (.inr rfl) hcopy)), fun i hi => ?_,
      State.exists_rmoPut_entry hnext _ _ ⟨rfl, rfl, rfl, rfl, rfl⟩, ?_⟩
    · rw [State.rmoPut_localBufs]
      exact hread i hi
    · conv => lhs; rw [State.rmoPut_frame]
      rw [State.rmoPut_localBufs, hover]
  case refuse =>
    rintro s k c src x r st a hmem hx rfl hmay hcheck
    have hc : (c, k) ∈ rmoCommands src := List.mem_append_left [(Instr.rmoFence src, RmoKind.fence)] hmem
    refine ⟨_, (exec_rmo_fail hc hx hmay hcheck).trans (congrArg _ (State.rmoRefuse_eq hcheck)), by simp, by simp,
      ⟨_, by rw [State.rmoPut_rmos, State.sootEvent_rmos], State.sootEvent_nextId .., rfl, rfl, rfl⟩, ?_⟩
    conv => lhs; rw [State.rmoPut_frame]
    rw [State.sootEvent_nextId]

/-! ### Word operations (R45-R47, R50) -/

/-- The operations that change a word. -/
def wordKinds : List RmoKind := [.add32, .addf32, .swap64, .cas64, .signal]

theorem wordSize_eq (k : RmoKind) : (if k = .add32 ∨ k = .addf32 then 4 else 8) = k.wordSize := by cases k <;> rfl

theorem pow_wordSize_le (k : RmoKind) : 256 ^ k.wordSize ≤ 2 ^ 64 := by cases k <;> decide

theorem ofNat64_eq_iff {n : Nat} (h : n < 2 ^ 64) (d : Dword) : BitVec.ofNat 64 n = d ↔ n = d.toNat := by
  rw [← BitVec.toNat_inj, BitVec.toNat_ofNat, Nat.mod_eq_of_lt h]

/-- What a word of an operation holds after it, when it held old. -/
def wordAfter (k : RmoKind) (r : RmoReq) (old : Nat) : Nat :=
  match rmoNew k r (BitVec.ofNat 64 old) with
  | some v => v.toNat % 256 ^ k.wordSize
  | none => old

theorem wordAfter_add32 (r : RmoReq) (old : Nat) : wordAfter .add32 r old = (old + r.val.toNat) % 2 ^ 32 := by
  simp [wordAfter, rmoNew, RmoKind.wordSize]

theorem wordAfter_addf32 (r : RmoReq) (old : Nat) :
    wordAfter .addf32 r old = (f32Add (BitVec.ofNat 32 old) (r.val.setWidth 32)).toNat := by
  have hlt := (f32Add (BitVec.ofNat 32 old) (r.val.setWidth 32)).isLt
  have hcut : (BitVec.ofNat 64 old).setWidth 32 = BitVec.ofNat 32 old := by
    refine BitVec.eq_of_toNat_eq ?_
    simp
  simp only [wordAfter, rmoNew, RmoKind.wordSize, hcut, BitVec.toNat_setWidth]
  omega

theorem wordAfter_swap64 (r : RmoReq) (old : Nat) : wordAfter .swap64 r old = r.val.toNat := Nat.mod_eq_of_lt r.val.isLt

theorem wordAfter_cas64 (r : RmoReq) {old : Nat} (h : old < 2 ^ 64) :
    wordAfter .cas64 r old = if old = r.exp.toNat then r.val.toNat else old := by
  have hnew : rmoNew .cas64 r (BitVec.ofNat 64 old) = if old = r.exp.toNat then some r.val else none :=
    if_congr (ofNat64_eq_iff h _) rfl rfl
  rw [wordAfter, hnew]
  by_cases heq : old = r.exp.toNat
  · simp only [if_pos heq]
    exact Nat.mod_eq_of_lt r.val.isLt
  · simp only [if_neg heq]

theorem wordAfter_signal (r : RmoReq) (old : Nat) :
    wordAfter .signal r old = if r.cond = 1 then (old + r.val.toNat) % 2 ^ 64 else r.val.toNat := by
  have hv := r.val.isLt
  simp only [wordAfter, rmoNew, RmoKind.wordSize]
  split
  · rw [BitVec.toNat_add, BitVec.toNat_ofNat]
    omega
  · omega

/-- A word operation without poison, in a memory that answers, and without a result address. -/
theorem State.rmoWord_sound {s : State} {r : RmoReq} {da : Nat} (hp : s.poison = []) (hw : memWf s.undef s.mem = true)
    (hok : s.accessStatus da = .ok) (hret : r.ret = false) (k : RmoKind) (db : Nat) :
    ∃ u, s.rmoWord k r da db = (u, .ok, BitVec.ofNat 64 (s.readNat da k.wordSize),
        if k = .cas64 ∧ BitVec.ofNat 64 (s.readNat da k.wordSize) ≠ r.exp then 1 else 0) ∧
      StoredOver s u ∧ SameMemBut s u da k.wordSize ∧ u.readNat da k.wordSize = wordAfter k r (s.readNat da k.wordSize) := by
  have hacc : s.wordAccess da k.wordSize = (s, .ok) := by simp [State.wordAccess, hok, State.poisoned_of_nil hp]
  unfold State.rmoWord wordAfter
  simp only [hacc, State.returnOld, hret, Bool.false_eq_true, if_false]
  cases rmoNew k r (BitVec.ofNat 64 (s.readNat da k.wordSize)) with
  | none => exact ⟨s, rfl, .refl s, fun _ _ => rfl, rfl⟩
  | some v =>
    exact ⟨_, rfl, s.store_storedOver _ _ hp, State.storeNat_sameMemBut _ _ _ hp hw, State.readNat_storeNat_same _ _ _ hp hw⟩

/-- The entry of a word operation is put once the word is written. -/
theorem State.rmoPerform_word {s u : State} {x : RmoCall} {k : RmoKind} {r : RmoReq} {da db : Nat} {st : Status} {old : Dword} {detail : Word}
    (hk : k ∈ wordKinds) (h : s.rmoWord k r da db = (u, st, old, detail)) :
    s.rmoPerform x k r da db = u.rmoPut x fun id => rmoEntry id x k r da db st old detail := by
  simp only [wordKinds, List.mem_cons, List.not_mem_nil, or_false] at hk
  obtain rfl | rfl | rfl | rfl | rfl := hk <;> simp only [State.rmoPerform, h]

theorem State.rmoPerform_fence (s : State) (x : RmoCall) (r : RmoReq) (da db : Nat) :
    s.rmoPerform x .fence r da db = s.rmoPut x fun id => rmoEntry id x .fence r 0 0 .ok 0 0 := rfl

/-- Settles O12: a word operation reads, computes and stores its word, and its entry holds what it read; FENCE puts its entry alone. -/
theorem remoteWordOperations : Obligations.RemoteWordOperations := by
  unfold Obligations.RemoteWordOperations
  refine ⟨?word, ?fence⟩
  case word =>
    rintro s k c src x r da db hcan hmem hx rfl hmay hcheck hshade hret hp hok n old val new
    have hc : (c, k) ∈ rmoCommands src := List.mem_append_right [(Instr.rmoPut src, RmoKind.put), (.rmoGet src, .get)]
      (List.mem_append_left [(Instr.rmoWait src, RmoKind.wait), (.rmoFence src, .fence)] hmem)
    have hk : k ∈ wordKinds := List.mem_map_of_mem (f := Prod.snd) hmem
    obtain ⟨hw, -⟩ := (memory_wf_iff s).mp hcan.mem
    obtain ⟨u, hword, hover, hsame, hread⟩ := State.rmoWord_sound hp hw hok hret k db
    rw [← wordSize_eq k] at hword hsame hread
    have hold : old < 2 ^ 64 := by
      have hlt := Nat.lt_of_lt_of_le (s.readNat_lt da k.wordSize) (pow_wordSize_le k)
      rwa [← wordSize_eq k] at hlt
    have hnew : wordAfter k x.req old = new := by
      simp only [wordKinds, List.mem_cons, List.not_mem_nil, or_false] at hk
      obtain rfl | rfl | rfl | rfl | rfl := hk
      · exact wordAfter_add32 _ _
      · exact wordAfter_addf32 _ _
      · exact wordAfter_swap64 _ _
      · exact wordAfter_cas64 _ hold
      · exact wordAfter_signal _ _
    refine ⟨_, (exec_rmo_pass hc hx hmay hcheck hshade).trans (congrArg _ (State.rmoPerform_word hk hword)), ?_, fun a ha => ?_,
      State.exists_rmoPut_entry hover.nextId _ _ ⟨rfl, rfl, rfl, rfl, Nat.mod_eq_of_lt hold, ?_⟩, hover.rmoPut_eq _ _⟩
    · rw [State.readNat_rmoPut, hread, hnew]
    · rw [State.memByte_rmoPut, hsame a ha]
    · exact if_congr (and_congr_right fun _ => not_congr (ofNat64_eq_iff hold _)) rfl rfl
  case fence =>
    rintro s src x r hx rfl hmay hshade
    exact ⟨_, (exec_rmo_pass (src := src) (by simp [rmoCommands]) hx hmay rfl hshade).trans (congrArg _ (s.rmoPerform_fence x x.req 0 0)),
      ⟨_, s.rmoPut_rmos x _, rfl, rfl, rfl, rfl, rfl⟩, s.rmoPut_frame x _⟩

/-! ### Waits (R48, R89) -/

/-- A WAIT with an entry, at the first word of DRAM. -/
def lostWaiter : Rmo where
  id := 1
  issuer := .lantern 0
  part := 1
  kind := .wait
  req := { a := 0, b := 0 }
  da := 0
  db := 0
  done := false
  status := .ok
  old := 0
  entry := true
  desc := none
  detail := 0

/-- 256 MiB of DRAM whose 8-way region is lost (R306), with that WAIT pending. -/
def lostWait : State := { State.reset.setReg Reg.dramStatus 0x801 with rmos := [lostWaiter] }

/-- The lost region answers with the status of a memory error, without poison. -/
theorem lostWait_accessStatus : lostWait.accessStatus lostWaiter.da = .unitFault := by decide

/-- A re-test takes that answer for an error found in the word: MC_ECC_ADDR of controller 0 becomes valid. -/
theorem lostWait_retested :
    (lostWait.retest 0 8).flag (Reg.mcEccAddr 0) 31 = false ∧ (lostWait.retestRead 0 8).flag (Reg.mcEccAddr 0) 31 = true := by decide

/-- Refutes O13: where a word cannot be read because its DRAM region is lost, the access ends with UNIT_FAULT (R306), and the test of a WAIT
there counts a memory error although nothing is poisoned. The clause on tests lets only poison do that. -/
theorem not_remoteWaitsAndCompletion : ¬ Obligations.RemoteWaitsAndCompletion := by
  unfold Obligations.RemoteWaitsAndCompletion
  rintro ⟨-, -, htest, -⟩
  obtain ⟨-, hquiet⟩ := htest lostWait (.waitRetest 0) _ false (.inl ⟨0, rfl, rfl, rfl⟩)
  have hstopped : ∀ r ∈ lostWait.rmos, lostWait.accessStatus r.da ≠ .ok := fun r hr => by
    rw [List.mem_singleton.mp hr, lostWait_accessStatus]
    decide
  have hsame : lostWait.retestRead 0 8 = lostWait.retest 0 8 := hquiet fun r hr _ => .inl (hstopped r hr)
  obtain ⟨hbefore, hafter⟩ := lostWait_retested
  rw [hsame, hbefore] at hafter
  exact Bool.false_ne_true hafter

end Sys2Proof.Machine

/-!
PROOFS. The numeric formats chapter: INT32 accumulation is exact however K is tiled and split (R66, R80, R108, R111), and which SYNC state the
drain of a tile follows (R79, R139).
-/

namespace Sys2Proof.Machine

/-! ### INT32 positions add modulo 2^32 (R66, R80) -/

/-- The bits of an INT32 position add modulo 2^32, whatever its sticky bit (R66). -/
theorem accI32_bits (p : Acc32) (v : Int) : (accI32 p v).bits = p.bits + BitVec.ofInt 32 v := by
  refine BitVec.eq_of_toNat_eq ?_
  have hp := p.bits.isLt
  simp only [accI32, wrapInt, signedOf, BitVec.toNat_add, BitVec.toNat_ofInt, BitVec.toNat_ofNat]
  split <;> omega

/-- A number read as signed and put back is the same word. -/
theorem ofInt_signedOf (w : Word) : BitVec.ofInt 32 (signedOf 32 w.toNat) = w := by
  refine BitVec.eq_of_toNat_eq ?_
  have hw := w.isLt
  simp only [signedOf, BitVec.toNat_ofInt]
  split <;> omega

/-- Two INT32 positions add modulo 2^32 (R80). -/
theorem accSum_bits (x y : Acc32) : (accSum true x y).bits = x.bits + y.bits := by
  rw [accSum, if_pos rfl, accI32_bits, ofInt_signedOf]

/-! ### Sums of groups (R65, R66, R80) -/

/-- The exact dot product of the first k groups. -/
def dotUpTo (ws as : List Group) (k : Nat) : Int := (((ws.zip as).take k).map fun x => treeI32 x.1.hi x.2.hi).sum

@[simp] theorem dotUpTo_zero (ws as : List Group) : dotUpTo ws as 0 = 0 := rfl

theorem dotUpTo_length (ws as : List Group) :
    dotUpTo ws as (ws.zip as).length = ((ws.zip as).map fun x => treeI32 x.1.hi x.2.hi).sum := by
  rw [dotUpTo, List.take_length]

theorem foldl_accGroup_bits (sh : Int) (l : List (Group × Group)) (p : Acc32) :
    (l.foldl (fun p x => accGroup true sh p x.1 x.2) p).bits = p.bits + BitVec.ofInt 32 (l.map fun x => treeI32 x.1.hi x.2.hi).sum := by
  induction l generalizing p with
  | nil => simp
  | cons x l ih =>
    rw [List.foldl_cons, ih, accGroup, if_pos rfl, accI32_bits, List.map_cons, List.sum_cons, BitVec.ofInt_add, BitVec.add_assoc]

/-- A run of groups adds the difference of the dot products at its ends. -/
theorem accRange_bits (sh : Int) (ws as : List Group) {g0 g1 : Nat} (h : g0 ≤ g1) (p : Acc32) :
    (accRange true sh ws as g0 g1 p).bits = p.bits + BitVec.ofInt 32 (dotUpTo ws as g1 - dotUpTo ws as g0) := by
  have hcut : dotUpTo ws as g1 = dotUpTo ws as g0 + ((((ws.zip as).drop g0).take (g1 - g0)).map fun x => treeI32 x.1.hi x.2.hi).sum := by
    obtain ⟨m, rfl⟩ := Nat.exists_eq_add_of_le h
    rw [dotUpTo, List.take_add, List.map_append, List.sum_append, Nat.add_sub_cancel_left, dotUpTo]
  rw [accRange, foldl_accGroup_bits, hcut, add_sub_cancel_left]

/-- Groups a to b of one tile, on one array or on two. -/
def accSpan (i32 split : Bool) (sh : Int) (ws as : List Group) (a b : Nat) (p : Acc32) : Acc32 :=
  if split then
    let mid := a + ceilDiv (b - a) 2
    let x := accRange i32 sh ws as a mid p
    if mid < b then accSum i32 x (accRange i32 sh ws as mid b ⟨0, false⟩) else x
  else accRange i32 sh ws as a b p

theorem accTiles_eq_foldl_accSpan (c : Cap) (split : Bool) (sh : Int) (ws as : List Group) (k0 k1 : Nat) (p : Acc32) :
    accTiles c split sh ws as k0 k1 p = (List.range (ceilDiv (k1 - k0) (mmaKt c))).foldl (fun p i =>
      accSpan (mmaI32 c) split sh ws as ((k0 + i * mmaKt c) / mmaGrp c) (ceilDiv (min k1 (k0 + (i + 1) * mmaKt c)) (mmaGrp c)) p) p := rfl

/-- A K-split changes nothing of an exact sum: the two partial sums add up to that of the whole run (R80). -/
theorem accSpan_bits (split : Bool) (sh : Int) (ws as : List Group) {a b : Nat} (h : a ≤ b) (p : Acc32) :
    (accSpan true split sh ws as a b p).bits = p.bits + BitVec.ofInt 32 (dotUpTo ws as b - dotUpTo ws as a) := by
  cases split with
  | false => exact accRange_bits sh ws as h p
  | true =>
    have hmid : a + ceilDiv (b - a) 2 ≤ b := by unfold ceilDiv; omega
    simp only [accSpan, if_true]
    split
    · rw [accSum_bits, accRange_bits sh ws as (Nat.le_add_right _ _), accRange_bits sh ws as hmid, show Acc32.bits ⟨0, false⟩ = 0 from rfl,
        zero_add, BitVec.add_assoc, ← BitVec.ofInt_add, add_comm (_ - _) (_ - _), sub_add_sub_cancel]
    · have hend : a + ceilDiv (b - a) 2 = b := by omega
      rw [hend, accRange_bits sh ws as h]

/-! ### Tiles of K (R108, R111) -/

theorem mmaGrp_pos (c : Cap) : 0 < mmaGrp c := by
  unfold mmaGrp tileShape
  rcases mmaTs c with _ | _ | _ | _ | _ | _ | _ <;> simp [listAt]

theorem mmaKt_pos (c : Cap) : 0 < mmaKt c := by
  unfold mmaKt
  split <;> omega

theorem ceilDiv_le_iff {a b k : Nat} (hb : 0 < b) : ceilDiv a b ≤ k ↔ a ≤ k * b := by
  rw [ceilDiv, Nat.div_le_iff_le_mul_add_pred hb, Nat.mul_comm]
  omega

theorem lt_ceilDiv_iff {a b k : Nat} (hb : 0 < b) : k < ceilDiv a b ↔ k * b < a := by
  rw [← not_le, ceilDiv_le_iff hb, not_le]

theorem ceilDiv_mul_right (m : Nat) {b : Nat} (hb : 0 < b) : ceilDiv (m * b) b = m := by
  rw [ceilDiv, Nat.add_sub_assoc hb, Nat.mul_comm, Nat.mul_add_div hb, Nat.div_eq_of_lt (by omega), Nat.add_zero]

/-- A tile that is not past the end of K begins at a whole group, where the tile before it ends: K_t is a multiple of the group, or the
whole of K is one tile (R108, R111). -/
theorem ceilDiv_tileStart {c : Cap} (hg : c.fld 104 4 % mmaGrp c = 0) {n : Nat} (hn : n * mmaKt c < mmaK c) :
    ceilDiv (n * mmaKt c) (mmaGrp c) = n * mmaKt c / mmaGrp c := by
  have hdvd : mmaGrp c ∣ n * mmaKt c := by
    by_cases hk : c.fld 104 4 = 0
    · have hzero : n = 0 := by
        rw [mmaKt, if_pos hk] at hn
        by_contra hne
        have := Nat.le_mul_of_pos_left (max 1 (mmaK c)) (Nat.pos_of_ne_zero hne)
        omega
      simp [hzero]
    · rw [mmaKt, if_neg hk]
      exact Nat.dvd_mul_left_of_dvd (Nat.dvd_of_mod_eq_zero hg) n
  obtain ⟨m, hm⟩ := hdvd
  rw [hm, Nat.mul_comm, ceilDiv_mul_right m (mmaGrp_pos c), Nat.mul_div_cancel _ (mmaGrp_pos c)]

/-- After its first n tiles an element from zero holds the dot product of the groups that they cover. -/
theorem foldl_accSpan_bits {c : Cap} (hg : c.fld 104 4 % mmaGrp c = 0) (split : Bool) (sh : Int) (ws as : List Group) {n : Nat}
    (hn : n ≤ ceilDiv (mmaK c) (mmaKt c)) :
    ((List.range n).foldl (fun p i => accSpan true split sh ws as ((0 + i * mmaKt c) / mmaGrp c)
      (ceilDiv (min (mmaK c) (0 + (i + 1) * mmaKt c)) (mmaGrp c)) p) ⟨0, false⟩).bits =
    BitVec.ofInt 32 (dotUpTo ws as (ceilDiv (min (mmaK c) (n * mmaKt c)) (mmaGrp c))) := by
  induction n with
  | zero =>
    have hnone : ceilDiv 0 (mmaGrp c) = 0 := by simpa using ceilDiv_mul_right 0 (mmaGrp_pos c)
    simp [hnone]
  | succ n ih =>
    have hlt : n * mmaKt c < mmaK c := (lt_ceilDiv_iff (mmaKt_pos c)).mp hn
    have hstart := ceilDiv_tileStart hg hlt
    have hend : n * mmaKt c / mmaGrp c ≤ ceilDiv (min (mmaK c) ((n + 1) * mmaKt c)) (mmaGrp c) := by
      rw [← hstart]
      refine Nat.div_le_div_right ?_
      rw [Nat.succ_mul]
      omega
    rw [List.range_succ, List.foldl_append, List.foldl_cons, List.foldl_nil, Nat.zero_add, Nat.zero_add, accSpan_bits split sh ws as hend,
      ih (by omega), Nat.min_eq_right hlt.le, hstart, ← BitVec.ofInt_add, add_sub_cancel]

/-- Settles O15: every tile adds, modulo 2^32, the dot product of its groups, split or not, and the tiles cut the groups of K without a gap. -/
theorem integerAccumulationIsExact : Obligations.IntegerAccumulationIsExact := by
  unfold Obligations.IntegerAccumulationIsExact
  intro c split sh ws as hi32 hg _ hlen
  have hcover : mmaK c ≤ ceilDiv (mmaK c) (mmaKt c) * mmaKt c := (ceilDiv_le_iff (mmaKt_pos c)).mp le_rfl
  rw [accTiles_eq_foldl_accSpan, hi32, Nat.sub_zero, foldl_accSpan_bits hg split sh ws as le_rfl, Nat.min_eq_left hcover, ← hlen,
    dotUpTo_length]

/-! ### The drain of a tile with a SYNC state (R79, R139) -/

/-- An INT32 MMA of one row, one position and one element of K, with an OUT state, and a SYNC state that announces its output row at PDA
0x1000 (R139, R140). -/
def syncedMma : Desc where
  seq := 4
  cap := ⟨[0x20, 0, 0, 0, 0, 0, 0, 0, 0, 0x80, 0, 0, 1, 0, 0, 0, 1, 0, 0, 0, 1] ++ List.replicate 107 0, []⟩
  out := some ⟨[9, 0, 0, 0, 0, 0, 0, 0, 0xB0] ++ List.replicate 87 0, [0, 0, 0, 0, 0x2000]⟩
  sync := some ⟨[10, 0, 0, 0, 0, 0, 0, 0, 2] ++ List.replicate 55 0, [0, 0, 0, 0, 0x1000]⟩
  at_ := 0
  started := true
  prog := 0
  drained := []
  ctl := 7
  modes := {}
  free := 0
  wcb := []
  acb := []
  sums := []
  staged := []
  runs := [0]
  codes := []
  counter := none
  tickets := []
  tookZero := false
  ticketEnd := false
  rmo := none
  done := none
  detail := 0

/-- A VU descriptor with the same number and no SYNC state. -/
def plainTwin : Desc := { syncedMma with cap := ⟨0x23 :: List.replicate 63 0, []⟩, sync := none }

/-- The one unit of the MMA, and its one tile, complete. -/
def syncedUnit : MmaUnit := ⟨[(0, 0)], 0, 1, none⟩
def syncedTile : Tile := ⟨0, 0, 1, [(0, 5, false)], true⟩

/-- The domains of Lantern 0 are on, and partition 1 has its Ingot from PDA 0 on; a context of Lantern 0 has issued the two descriptors, and
array A is to drain. The canonical form does not ask for distinct numbers. -/
def twinNumbers : State :=
  { State.reset.setReg (Reg.pdState 0) 0x55555555 with
    parts := [(1, { Part.reset with active := [(tabKey 0 0, 0x00030000), (tabKey 0 1, 0xF0080000)] })]
    lanterns := [(0, { Lantern.reset with
      ctxs := listUpd Lantern.reset.ctxs 0 fun c => { c with cmd := some 7, part := 1, issued := [plainTwin, syncedMma], nextSeq := 5 }
      arrs := listUpd Lantern.reset.arrs 0 fun x => { x with half := some syncedTile, i32 := true, job := some (0, 4) } })] }

theorem twinNumbers_canonical : twinNumbers.Canonical := ⟨by decide, by decide, by decide, by decide⟩

/-- The state that the statement gives for the drain of a tile without a K-split, whose SYNC state it leaves out. -/
def drainedPlain (s : State) (n a q : Nat) (d : Desc) (u : MmaUnit) (t : Tile) : State :=
  let v := s.updArr n a (Arr.dropTile t.tile t.span)
  let m := v.tileDrain n q (v.ctx n q).part d u (tileAt d.cap u t.tile) (tileAccList (tileAt d.cap u t.tile) t)
  let w := m.s.updDesc n q d.seq fun d => { d with
    drained := d.drained ++ [t.tile], codes := d.codes ++ m.codes, sums := d.sums.filter fun x => x.1 != t.tile
    runs := (d.runs ++ (v.tileArrays n d t.tile).filter fun a => !d.runs.contains a).filter fun a =>
      v.arrLeft n { d with drained := d.drained ++ [t.tile] } u a }
  if (tilesOpen d u).all fun j => j == t.tile then w.unitAfter n q (v.ctx n q).part d u (d.codes ++ m.codes) else w

/-- The drain announces the MMA's row in the flag at PDA 0x1000; the state of the statement leaves the flag alone. -/
theorem twinNumbers_flag :
    (twinNumbers.accDrain 0 0).memByte (ingotBase + 0x1000) = 1 ∧
    (drainedPlain twinNumbers 0 0 0 syncedMma syncedUnit syncedTile).memByte (ingotBase + 0x1000) = 0 := by decide

/-- Refutes O14, by its clause on drains: the drain follows the SYNC state of the descriptor that the array works on (R139), while the
clause looks for one in the first descriptor of the same number. Its hypotheses let two descriptors share a number, which issuing never gives
twice, and then the flag of the complete output row, which the drain sets, is not set in the clause's state. -/
theorem not_arraysStepSwitchAndDrain : ¬ Obligations.ArraysStepSwitchAndDrain := by
  intro h
  have hfound : ((drainedPlain twinNumbers 0 0 0 syncedMma syncedUnit syncedTile).descNow 0 0 4).any
      (fun e => e.done.isNone && e.sync.isNone) = true := by decide
  obtain ⟨e, hnow, he⟩ := (Option.any_eq_true ..).mp hfound
  obtain ⟨hdone, hsync⟩ : e.done = none ∧ e.sync = none := by simpa using he
  obtain ⟨-, -, -, hdrain⟩ := h twinNumbers 0 .a twinNumbers_canonical
  have hnext : Host.Outcome.next (twinNumbers.accDrain 0 0) = .next (drainedPlain twinNumbers 0 0 0 syncedMma syncedUnit syncedTile) :=
    hdrain 0 syncedMma syncedUnit syncedTile (by decide) (by decide) (by decide) (by decide) (by decide) _ _ e
      (.inl ⟨by decide, rfl, rfl⟩) (by decide) hnow hdone hsync
  obtain ⟨hset, hclear⟩ := twinNumbers_flag
  rw [Host.Outcome.next.inj hnext, hclear] at hset
  exact absurd hset (by decide)

end Sys2Proof.Machine

/-!
PROOFS. The Lantern core chapter: the sequencer's own descriptors (R127, R133, R134, R136-R138), the rows of the compute descriptors
(R79, R81-R86, R143-R145), MMA units, tickets and the ordered reduction (R114-R116, R140-R142), the start of a RUN on its gang (R95, R246,
R256, R265), and how units are re-admitted and reset (R91, R97, R209, R381, R386, R387, R402).
-/

namespace Sys2Proof.Machine

/-! ### The contexts of a Lantern -/

theorem State.Canonical.lanternsOrdered {s : State} (hc : s.Canonical) : Ordered s.lanterns := by
  obtain ⟨-, -, -, -, -, -, -, h, -⟩ := hc.tabs
  exact h

/-- The context q of Lantern n is one of its list, in a table of Lanterns that is in order: what is written to it is what it reads. -/
structure State.HasCtx (s : State) (n q : Nat) : Prop where
  ordered : Ordered s.lanterns
  lt : q < (s.lantern n).ctxs.length

/-- A context past the list has issued nothing. -/
theorem State.hasCtx_of_issued {s : State} (h : Ordered s.lanterns) {n q : Nat} {d : Desc} (hd : d ∈ (s.ctx n q).issued) : s.HasCtx n q := by
  refine ⟨h, ?_⟩
  by_contra hq
  have hreset : s.ctx n q = SeqCtx.reset := by
    rw [State.ctx, listAt, List.getD_eq_default _ _ (Nat.le_of_not_lt hq)]
  rw [hreset] at hd
  exact List.not_mem_nil hd

theorem State.lantern_updCtx_same {s : State} (h : Ordered s.lanterns) (n q : Nat) (f : SeqCtx → SeqCtx) :
    (s.updCtx n q f).lantern n = { s.lantern n with ctxs := listUpd (s.lantern n).ctxs q f } :=
  State.lantern_setLantern_same _ _ _ h

theorem State.HasCtx.updCtx {s : State} {n q : Nat} (h : s.HasCtx n q) (f : SeqCtx → SeqCtx) : (s.updCtx n q f).HasCtx n q := by
  refine ⟨sparseSet_rising _ _ _ _ h.ordered, ?_⟩
  rw [State.lantern_updCtx_same h.ordered, listUpd_length]
  exact h.lt

theorem State.ctx_updCtx_same {s : State} {n q : Nat} (h : s.HasCtx n q) (f : SeqCtx → SeqCtx) : (s.updCtx n q f).ctx n q = f (s.ctx n q) := by
  rw [State.ctx, State.lantern_updCtx_same h.ordered]
  exact listAt_listUpd_same _ _ _ _ h.lt

theorem State.CtxBecomes.refl (s : State) (n q : Nat) : s.CtxBecomes s n q (s.ctx n q) := ⟨rfl, fun _ _ => rfl, fun _ _ => rfl, rfl, rfl⟩

/-- The context is replaced once more. -/
theorem State.CtxBecomes.updCtx {s t : State} {n q : Nat} {x : SeqCtx} (h : t.CtxBecomes s n q x) (ht : t.HasCtx n q) (f : SeqCtx → SeqCtx) :
    (t.updCtx n q f).CtxBecomes s n q (f x) := by
  obtain ⟨hsame, hctx, hother, hown, hrest⟩ := h
  have hnew := State.lantern_updCtx_same ht.ordered n q f
  refine ⟨by rw [State.ctx_updCtx_same ht, hsame], fun r hr => ?_, fun m hm => ?_, ?_, ?_⟩
  · rw [← hctx r hr, State.ctx, hnew]
    exact listAt_listUpd_other _ _ _ _ _ hr
  · exact (State.lantern_setLantern_other _ _ _ _ hm).trans (hother m hm)
  · rw [hnew, hown]
  · exact congrArg (fun u : State => { u with lanterns := (t.updCtx n q f).lanterns }) hrest

theorem State.CtxBecomes.descDone {s t : State} {n q : Nat} {x : SeqCtx} (h : t.CtxBecomes s n q x) (ht : t.HasCtx n q) (seq : Nat)
    (st : Status) : (t.descDone n q seq st).CtxBecomes s n q (x.withDone seq st) :=
  h.updCtx ht fun c => c.withDone seq st

/-! ### The sequencer's own descriptors (R127, R133, R134, R136-R138) -/

/-- The oldest CTRL descriptor of an OP in a context that has not ended (R134). -/
def SeqCtx.ctrl (c : SeqCtx) (op : Nat) : Option Desc := c.issued.find? fun d => d.ty == 1 && d.done.isNone && d.cap.fld 8 1 == op

/-- The context after a jump (R134). -/
def SeqCtx.jumped (c : SeqCtx) (d : Desc) : SeqCtx :=
  let t := (c.lastPc : Int) + signedOf 32 (d.cap.fld 16 4) * 32
  { c with pc := if t < 0 then 2 ^ 37 else t.toNat, fetched := [] }

/-- The counter of a LOOP, counted up (R134). -/
def SeqCtx.counted (c : SeqCtx) (d : Desc) : Nat := (listAt 0 c.lcs (d.cap.bits 9 1 0) + 1) % 2 ^ 32

/-- The context with the counter of a LOOP replaced. -/
def SeqCtx.withCounter (c : SeqCtx) (d : Desc) (v : Nat) : SeqCtx := { c with lcs := listUpd c.lcs (d.cap.bits 9 1 0) fun _ => v }

theorem State.onDesc_found {s : State} {n q ty : Nat} {d : Desc} (h : s.findDesc n q ty = some d) (f : Desc → State → State) :
    s.onDesc n q ty f = f d s := by
  rw [State.onDesc, h]

theorem State.onCtrl_found {s : State} {n q op : Nat} {d : Desc} (h : (s.ctx n q).ctrl op = some d) (f : Desc → State → State) :
    s.onCtrl n q op f = (f d s).descDone n q d.seq .ok := by
  rw [SeqCtx.ctrl] at h
  rw [State.onCtrl, h]

theorem State.seqJump_eq (s : State) (n q : Nat) (d : Desc) : s.seqJump n q d = s.updCtx n q fun c => c.jumped d := rfl

theorem State.opJumpErr_error {s : State} {n q : Nat} (h : (s.ctx n q).err.isSome = true) (d : Desc) :
    State.opJumpErr n q d s = s.updCtx n q fun c => c.jumped d := by
  rw [State.opJumpErr, if_pos h, State.seqJump_eq]

theorem State.opJumpErr_none {s : State} {n q : Nat} (h : (s.ctx n q).err = none) (d : Desc) : State.opJumpErr n q d s = s := by
  rw [State.opJumpErr, h]
  exact if_neg (by decide)

theorem State.opLoop_below {s : State} {n q : Nat} {d : Desc} (h : (s.ctx n q).counted d < d.cap.fld 12 4) :
    State.opLoop n q d s = (s.updCtx n q fun c => c.withCounter d ((s.ctx n q).counted d)).updCtx n q fun c => c.jumped d :=
  if_pos h

theorem State.opLoop_reached {s : State} {n q : Nat} {d : Desc} (h : d.cap.fld 12 4 ≤ (s.ctx n q).counted d) :
    State.opLoop n q d s = s.updCtx n q fun c => c.withCounter d 0 :=
  if_neg (Nat.not_lt.mpr h)

/-- Settles O17: a CTRL, OUT or SYNC replaces its context at most twice, each time in place, and then ends there. -/
theorem sequencerDescriptorsAct : Obligations.SequencerDescriptorsAct := by
  unfold Obligations.SequencerDescriptorsAct
  intro s n q d hs
  have hself := State.CtxBecomes.refl s n q
  have hfound {ty : Nat} (h : s.findDesc n q ty = some d) : s.HasCtx n q :=
    State.hasCtx_of_issued hs.lanternsOrdered (List.mem_of_find?_eq_some h)
  have hctrl {op : Nat} (h : (s.ctx n q).ctrl op = some d) : s.HasCtx n q :=
    State.hasCtx_of_issued hs.lanternsOrdered (List.mem_of_find?_eq_some h)
  refine ⟨fun h => ⟨_, rfl, ?_⟩, fun h => ⟨_, rfl, ?_⟩, fun h => ⟨_, rfl, ?_⟩, fun h herr => ⟨_, rfl, ?_⟩, fun h herr => ⟨_, rfl, ?_⟩,
    fun h hlt => ⟨_, rfl, ?_⟩, fun h hle => ⟨_, rfl, ?_⟩, fun h => ⟨_, rfl, ?_⟩, fun h => ⟨_, rfl, ?_⟩⟩
  case refine_1 =>
    rw [State.onDesc_found h]
    exact hself.descDone (hfound h) _ _
  case refine_2 =>
    rw [State.onCtrl_found h]
    exact (hself.updCtx (hctrl h) _).descDone ((hctrl h).updCtx _) _ _
  case refine_3 =>
    rw [State.onCtrl_found h]
    exact (hself.updCtx (hctrl h) fun c => c.jumped d).descDone ((hctrl h).updCtx _) _ _
  case refine_4 =>
    rw [State.onCtrl_found h, State.opJumpErr_error herr]
    exact (hself.updCtx (hctrl h) fun c => c.jumped d).descDone ((hctrl h).updCtx _) _ _
  case refine_5 =>
    rw [State.onCtrl_found h, State.opJumpErr_none herr]
    exact hself.descDone (hctrl h) _ _
  case refine_6 =>
    have honce := (hctrl h).updCtx fun c => c.withCounter d ((s.ctx n q).counted d)
    rw [State.onCtrl_found h, State.opLoop_below hlt]
    exact ((hself.updCtx (hctrl h) _).updCtx honce fun c => c.jumped d).descDone (honce.updCtx _) _ _
  case refine_7 =>
    rw [State.onCtrl_found h, State.opLoop_reached hle]
    exact (hself.updCtx (hctrl h) fun c => c.withCounter d 0).descDone ((hctrl h).updCtx _) _ _
  case refine_8 =>
    rw [State.onDesc_found h]
    exact (hself.updCtx (hfound h) _).descDone ((hfound h).updCtx _) _ _
  case refine_9 =>
    rw [State.onDesc_found h]
    exact (hself.updCtx (hfound h) _).descDone ((hfound h).updCtx _) _ _


/-! ### Lists of results -/

theorem mapRes_cons_ok {α β : Type} {f : α → Res β} {x : α} {t : List α} {r : List β} (h : mapRes f (x :: t) = .ok r) :
    ∃ y l, f x = .ok y ∧ mapRes f t = .ok l ∧ r = y :: l := by
  rw [mapRes] at h
  split at h
  · cases h
  next y hy =>
    split at h
    next l hl =>
      cases h
      exact ⟨y, l, hy, hl, rfl⟩
    · cases h

/-- The results stand in the order of the list, one for each element. -/
theorem mapRes_forall₂ {α β : Type} {f : α → Res β} {l : List α} {r : List β} (h : mapRes f l = .ok r) :
    List.Forall₂ (fun x y => f x = .ok y) l r := by
  induction l generalizing r with
  | nil =>
    cases h
    exact .nil
  | cons x t ih =>
    obtain ⟨y, l, hy, hl, rfl⟩ := mapRes_cons_ok h
    exact .cons hy (ih hl)

theorem mapRes_length {α β : Type} {f : α → Res β} {l : List α} {r : List β} (h : mapRes f l = .ok r) : r.length = l.length :=
  (mapRes_forall₂ h).length_eq.symm

/-- The result at an index below n. -/
theorem mapRes_range {β : Type} {f : Nat → Res β} {n : Nat} {r : List β} (h : mapRes f (List.range n) = .ok r) {i : Nat} (hi : i < n) :
    ∃ y, f i = .ok y ∧ r[i]? = some y := by
  have hr : i < r.length := by rw [mapRes_length h, List.length_range]; exact hi
  have hget := (mapRes_forall₂ h).get (List.length_range.symm ▸ hi) hr
  refine ⟨r[i], ?_, List.getElem?_eq_getElem hr⟩
  simpa using hget

/-- Element i of part x of a list cut into parts of one length. -/
theorem getElem?_flatten_of_length {α : Type} {l : List (List α)} {w : Nat} (h : ∀ p ∈ l, p.length = w) {x i : Nat} (hi : i < w) {p : List α}
    (hp : l[x]? = some p) : l.flatten[x * w + i]? = p[i]? := by
  induction l generalizing x with
  | nil => cases hp
  | cons a t ih =>
    have ha : a.length = w := h a List.mem_cons_self
    cases x with
    | zero =>
      obtain rfl : a = p := by simpa using hp
      rw [List.flatten_cons, Nat.zero_mul, Nat.zero_add, List.getElem?_append_left (by omega)]
    | succ x =>
      have hw : (x + 1) * w + i = a.length + (x * w + i) := by rw [ha, Nat.add_mul, Nat.one_mul]; omega
      rw [List.flatten_cons, hw, List.getElem?_append_right (by omega), Nat.add_sub_cancel_left]
      exact ih (fun p hp => h p (List.mem_cons_of_mem _ hp)) (by simpa using hp)

theorem length_flatten_of_length {α : Type} {l : List (List α)} {w : Nat} (h : ∀ p ∈ l, p.length = w) : l.flatten.length = l.length * w := by
  rw [List.length_flatten, List.map_congr_left h, List.map_const', List.sum_replicate, smul_eq_mul]

theorem kernelTaps_length (kh kw : Nat) : (kernelTaps kh kw).length = kh * kw := by
  simp [kernelTaps, List.length_flatten, Function.comp_def]

/-! ### One row of a VU operation (R85, R86) -/

/-- What one position's values become: elements with the position and their channels. -/
def vuElems (y x : Nat) (l : List Word) : List Elem := l.zipIdx.map fun v => ⟨y, x, v.2, v.1, false⟩

theorem vuElems_length (y x : Nat) (l : List Word) : (vuElems y x l).length = l.length := by simp [vuElems]

theorem vuElems_getElem? (y x : Nat) {l : List Word} {ch : Nat} {w : Word} (h : l[ch]? = some w) :
    (vuElems y x l)[ch]? = some ⟨y, x, ch, w, false⟩ := by
  simp [vuElems, h]

/-- The operations whose elements each follow from their own window or place: all but softmax and the normalisations. -/
def vuPointwise (c : Cap) : Prop := vuOp c ≠ 5 ∧ vuOp c ≠ 6 ∧ vuOp c ≠ 7

/-- The value of one element of such an operation. -/
def State.vuValue (s : State) (p : Nat) (d : Desc) (y x ch : Nat) : Res Word :=
  if vuWindowed d.cap then
    match s.vuWindow p d y x ch with
    | .ok w => s.vuWinOp p d.cap ch w
    | .error e => .error e
  else s.vuPoint p d y x ch

theorem State.vuPosValues_pointwise {d : Desc} (h : vuPointwise d.cap) (s : State) (n p : Nat) (st : List (Word × Word)) (y x : Nat) :
    s.vuPosValues n p d st y x = mapRes (fun ch => s.vuValue p d y x ch) (List.range (vuC d.cap)) := by
  obtain ⟨h5, h6, h7⟩ := h
  unfold State.vuPosValues State.vuValue
  by_cases hw : vuWindowed d.cap = true
  · simp only [hw, if_true] <;> rfl
  · simp only [hw, h5, h6, h7, or_self, if_false] <;> rfl

/-- The elements of one position of such an operation. -/
def State.vuPosElems (s : State) (p : Nat) (d : Desc) (y x : Nat) : Res (List Elem) :=
  match mapRes (fun ch => s.vuValue p d y x ch) (List.range (vuC d.cap)) with
  | .ok vs => .ok (vuElems y x vs)
  | .error e => .error e

theorem State.vuPosElems_ok {s : State} {p y x : Nat} {d : Desc} {es : List Elem} (h : s.vuPosElems p d y x = .ok es) :
    es.length = vuC d.cap ∧ ∀ ch < vuC d.cap, ∃ v, s.vuValue p d y x ch = .ok v ∧ es[ch]? = some ⟨y, x, ch, v, false⟩ := by
  unfold State.vuPosElems at h
  split at h
  next vs hvs =>
    cases h
    refine ⟨by rw [vuElems_length, mapRes_length hvs, List.length_range], fun ch hch => ?_⟩
    obtain ⟨v, hv, hget⟩ := mapRes_range hvs hch
    exact ⟨v, hv, vuElems_getElem? y x hget⟩
  · cases h

theorem State.vuRow_pointwise {s : State} {n p y : Nat} {d : Desc} {es : List Elem} (hp : vuPointwise d.cap) (h : s.vuRow n p d y = .ok es) :
    ∃ l, mapRes (fun x => s.vuPosElems p d y x) (List.range (vuOw d.cap)) = .ok l ∧ es = l.flatten := by
  obtain ⟨-, -, h7⟩ := id hp
  simp only [State.vuRow, h7, if_false, State.vuPosValues_pointwise hp] at h
  split at h
  next l hl =>
    cases h
    exact ⟨l, hl, rfl⟩
  · cases h

/-- The elements of a row stand in raster order, and each has the value of its position and channel. -/
theorem State.vuRow_raster {s : State} {n p y : Nat} {d : Desc} {es : List Elem} (hp : vuPointwise d.cap) (h : s.vuRow n p d y = .ok es) :
    es.length = vuOw d.cap * vuC d.cap ∧ ∀ x < vuOw d.cap, ∀ ch < vuC d.cap,
      ∃ v, s.vuValue p d y x ch = .ok v ∧ es[x * vuC d.cap + ch]? = some ⟨y, x, ch, v, false⟩ := by
  obtain ⟨l, hl, rfl⟩ := State.vuRow_pointwise hp h
  have hlen : ∀ es ∈ l, es.length = vuC d.cap := fun es hes => by
    obtain ⟨x, hx, rfl⟩ := List.getElem_of_mem hes
    obtain ⟨es', hes', hget⟩ := mapRes_range hl (i := x) (by rw [← List.length_range (n := vuOw d.cap), ← mapRes_length hl]; exact hx)
    rw [List.getElem?_eq_getElem hx, Option.some.injEq] at hget
    rw [hget]
    exact (State.vuPosElems_ok hes').1
  refine ⟨by rw [length_flatten_of_length hlen, mapRes_length hl, List.length_range], fun x hx ch hch => ?_⟩
  obtain ⟨es, hes, hget⟩ := mapRes_range hl hx
  obtain ⟨v, hv, hat⟩ := (State.vuPosElems_ok hes).2 ch hch
  exact ⟨v, hv, (getElem?_flatten_of_length hlen hch hget).trans hat⟩

theorem Cap.ref_of_need {c : Cap} {off a : Nat} (h : c.need off = .ok a) : c.ref off = some a := by
  unfold Cap.need at h
  split at h
  next x hx =>
    cases h
    exact hx
  · cases h

theorem State.vuDepth_ok {s : State} {p ch : Nat} {c : Cap} {w : List (Option Word)} {v : Word} (h : s.vuDepth p c ch w = .ok v) :
    ∃ a taps, c.ref 48 = some a ∧ s.rd p (a + 4 * (ch * w.length)) (4 * w.length) = .ok taps ∧
      v = (w.zipIdx).foldl (fun acc o => f32Add acc (f32Mul (o.1.getD 0) (BitVec.ofNat 32 (fieldAt taps (4 * o.2) 4)))) 0 := by
  unfold State.vuDepth at h
  split at h
  · cases h
  next a ha =>
    split at h
    · cases h
    next taps htaps =>
      cases h
      exact ⟨a, taps, Cap.ref_of_need ha, htaps, rfl⟩

/-- An operation with a window gives what it makes of the whole window. -/
theorem State.vuValue_windowed {s : State} {p y x ch : Nat} {d : Desc} {v : Word} (h : s.vuValue p d y x ch = .ok v) (h1 : 1 ≤ vuOp d.cap)
    (h4 : vuOp d.cap ≤ 4) :
    ∃ w, s.vuWindow p d y x ch = .ok w ∧ w.length = vuKh d.cap * vuKw d.cap ∧ s.vuWinOp p d.cap ch w = .ok v := by
  rw [State.vuValue, if_pos (by simp [vuWindowed, h1, h4])] at h
  split at h
  next w hw => exact ⟨w, hw, (mapRes_length hw).trans (kernelTaps_length _ _), h⟩
  · cases h

theorem State.vuValue_point {s : State} {p y x ch : Nat} {d : Desc} (h : 4 < vuOp d.cap) :
    s.vuValue p d y x ch = s.vuPoint p d y x ch := by
  rw [State.vuValue, if_neg (by simp [vuWindowed]; omega)]

theorem State.vuPoint_nearest {s : State} {p y x ch : Nat} {d : Desc} (h : vuOp d.cap = 8) :
    s.vuPoint p d y x ch = s.vuElem p d (nearestIx (vuH d.cap) (vuOh d.cap) y) (nearestIx (vuW d.cap) (vuOw d.cap) x) ch := by
  simp only [State.vuPoint, h]

theorem State.vuPoint_plain {s : State} {p y x ch : Nat} {d : Desc} (h : 10 ≤ vuOp d.cap) : s.vuPoint p d y x ch = s.vuElem p d y x ch := by
  unfold State.vuPoint
  dsimp only
  split
  · omega
  · omega
  · rfl

/-- What the windowed operations make of a window (R85, R86). -/
theorem State.vuWinOp_cases {s : State} {p ch : Nat} {c : Cap} {w : List (Option Word)} {v : Word} (h : s.vuWinOp p c ch w = .ok v) :
    (vuOp c = 1 → s.vuDepth p c ch w = .ok v) ∧ (vuOp c = 2 → v = (w.filterMap id).foldl f32Max 0xFF800000) ∧
    (vuOp c = 3 → v = f32Div (vuSum (w.map fun o => o.getD 0)) (f32OfInt w.length)) ∧
    (vuOp c = 4 → v = f32Div (vuSum (w.filterMap id)) (f32OfInt (w.filterMap id).length)) := by
  unfold State.vuWinOp at h
  refine ⟨fun ho => ?_, fun ho => ?_, fun ho => ?_, fun ho => ?_⟩ <;> simp only [ho] at h
  case refine_1 => exact h
  all_goals exact (Except.ok.inj h).symm

/-! ### What the output of a row leaves alone (R79, R138) -/

/-- A store changes device memory and what hangs on its words: poison, words that wait to be written back, and entries of WAITs. -/
theorem State.store_frame (s : State) (da : Nat) (bs : List Byte) : ∃ mem poison ingots banks rmos,
    s.store da bs = { s with mem := mem, poison := poison, ingots := ingots, banks := banks, rmos := rmos } := by
  have hwrite : ∃ mem poison, s.writeMem da bs = { s with mem := mem, poison := poison } := by
    unfold State.writeMem State.clearPoison
    split
    · exact ⟨_, s.poison, rfl⟩
    · exact ⟨_, _, rfl⟩
  obtain ⟨mem, poison, hmem⟩ := hwrite
  obtain ⟨ingots, banks, hback⟩ := (s.writeMem da bs).cancelBack_eq da bs.length
  obtain ⟨rmos, htest⟩ := ((s.writeMem da bs).cancelBack da bs.length).retest_eq da bs.length
  exact ⟨mem, poison, ingots, banks, rmos, by rw [State.store, htest, hback, hmem]⟩

theorem State.wr_lanterns {s t : State} {p a : Nat} {bs : List Byte} (h : s.wr p a bs = .ok t) : t.lanterns = s.lanterns := by
  unfold State.wr at h
  split at h
  · cases h
  next da _ =>
    split at h
    · split at h
      · cases h
      · cases h
        obtain ⟨_, _, _, _, _, hstore⟩ := s.store_frame da bs
        rw [hstore]
    · cases h

theorem State.wrElem_lanterns {s t : State} {p a code i raw : Nat} (h : s.wrElem p a code i raw = .ok t) : t.lanterns = s.lanterns := by
  unfold State.wrElem at h
  split at h
  · split at h
    · cases h
    · exact State.wr_lanterns h
  · exact State.wr_lanterns h

theorem State.padRow_lanterns {v : OutEnv} {a row raw n : Nat} {s t : State} {k : Nat} (h : s.padRow v a row raw n k = .ok t) :
    t.lanterns = s.lanterns := by
  induction n generalizing s k with
  | zero =>
    cases h
    rfl
  | succ n ih =>
    rw [State.padRow] at h
    split at h
    next u hu => exact (ih h).trans (State.wrElem_lanterns hu)
    · cases h

theorem State.outWrite_lanterns {s t : State} {v : OutEnv} {e : Elem} {raw : Nat} (h : s.outWrite v e raw = .ok t) :
    t.lanterns = s.lanterns := by
  unfold State.outWrite at h
  split at h
  · cases h
  split at h
  · exact State.wrElem_lanterns h
  dsimp only at h
  split at h
  · cases h
  next u hu =>
    split at h
    · exact (State.padRow_lanterns h).trans (State.wrElem_lanterns hu)
    · cases h
      exact State.wrElem_lanterns hu

theorem State.digWrite_lanterns {s t : State} {p i w : Nat} {o : Cap} (h : s.digWrite p o i w = .ok t) : t.lanterns = s.lanterns := by
  unfold State.digWrite at h
  split at h
  · cases h
  split at h
  · cases h
  · exact State.wr_lanterns h

/-- t has the contexts of s, in a table of Lanterns that is in order if that of s is. -/
def KeepsContexts (s t : State) : Prop := Ordered s.lanterns → Ordered t.lanterns ∧ ∀ m, (t.lantern m).ctxs = (s.lantern m).ctxs

namespace KeepsContexts

theorem of_lanterns {s t : State} (h : t.lanterns = s.lanterns) : KeepsContexts s t := fun hs =>
  ⟨h ▸ hs, fun m => by rw [State.lantern, h, State.lantern]⟩

theorem refl (s : State) : KeepsContexts s s := of_lanterns rfl

theorem trans {s t u : State} (h : KeepsContexts s t) (g : KeepsContexts t u) : KeepsContexts s u := fun hs => by
  obtain ⟨ht, hctxs⟩ := h hs
  obtain ⟨hu, gctxs⟩ := g ht
  exact ⟨hu, fun m => (gctxs m).trans (hctxs m)⟩

/-- An update of a Lantern that does not touch its contexts. -/
theorem updLantern (s : State) (n : Nat) {f : Lantern → Lantern} (hf : ∀ l, (f l).ctxs = l.ctxs) : KeepsContexts s (s.updLantern n f) := fun hs => by
  refine ⟨sparseSet_rising _ _ _ _ hs, fun m => ?_⟩
  by_cases hm : m = n
  · subst hm
    rw [State.updLantern, State.lantern_setLantern_same _ _ _ hs, hf]
  · rw [State.updLantern, State.lantern_setLantern_other _ _ _ _ hm]

theorem setClip (s : State) (n q slot : Nat) (v : Nat × Nat) : KeepsContexts s (s.setClip n q slot v) := updLantern s n fun _ => rfl

section HasCtx

variable {s t : State} {n q : Nat} (h : KeepsContexts s t) (hs : s.HasCtx n q)
include h hs

theorem hasCtx : t.HasCtx n q := by
  obtain ⟨hord, hctxs⟩ := h hs.ordered
  exact ⟨hord, by rw [hctxs n]; exact hs.lt⟩

theorem ctx : t.ctx n q = s.ctx n q := by
  rw [State.ctx, (h hs.ordered).2 n, State.ctx]

theorem descNow (seq : Nat) : t.descNow n q seq = s.descNow n q seq := by
  rw [State.descNow, h.ctx hs, State.descNow]

end HasCtx

end KeepsContexts

theorem emitPlain_keepsContexts (v : OutEnv) (es : List Elem) (m : Emit) : KeepsContexts m.s (emitPlain v es m).s := by
  induction es generalizing m with
  | nil => exact .refl m.s
  | cons e es ih =>
    rw [emitPlain]
    split
    · exact .refl m.s
    split
    · exact .refl m.s
    next r _ _ u hu =>
      have hcount : KeepsContexts m.s (m.s.outCount v r.2) := .setClip _ _ _ _ _
      exact (hcount.trans (.of_lanterns (State.outWrite_lanterns hu))).trans (ih { m with s := u, codes := _ })

theorem emitCodes_keepsContexts (v : OutEnv) (es : List Elem) (m : Emit) (acc : List (Nat × Nat)) :
    KeepsContexts m.s (emitCodes v es m acc).1.s := by
  induction es generalizing m acc with
  | nil => exact .refl m.s
  | cons e es ih =>
    rw [emitCodes]
    split
    · exact .refl m.s
    next r _ =>
      have hcount : KeepsContexts m.s (m.s.outCount v r.2) := .setClip _ _ _ _ _
      exact hcount.trans (ih { m with s := m.s.outCount v r.2, codes := _ } _)

theorem amgWrite_keepsContexts (v : OutEnv) (codes : List (Nat × Nat)) (js : List Nat) (m : Emit) :
    KeepsContexts m.s (amgWrite v codes js m).s := by
  induction js generalizing m with
  | nil => exact .refl m.s
  | cons j js ih =>
    rw [amgWrite]
    split
    · exact .refl m.s
    split
    · exact .refl m.s
    next u hu => exact (KeepsContexts.of_lanterns (State.wr_lanterns hu)).trans (ih { m with s := u })

theorem emitElems_keepsContexts (v : OutEnv) (es : List Elem) (s : State) : KeepsContexts s (emitElems v es s).s := by
  unfold emitElems
  dsimp only
  split
  · exact emitPlain_keepsContexts v es ⟨s, [], none⟩
  have hcodes := emitCodes_keepsContexts v es ⟨s, [], none⟩ []
  split
  · exact hcodes
  · exact hcodes.trans (amgWrite_keepsContexts _ _ _ _)

/-! ### The present form of a descriptor -/

/-- The descriptor with a number after an update of it that keeps the number. -/
theorem State.descNow_updDesc_same {s : State} {n q seq : Nat} {d : Desc} (hs : s.HasCtx n q) (hd : s.descNow n q seq = some d)
    {f : Desc → Desc} (hf : ∀ x, (f x).seq = x.seq) : (s.updDesc n q seq f).descNow n q seq = some (f d) := by
  have hseq : d.seq = seq := by
    have hfound := List.find?_some hd
    exact beq_iff_eq.mp hfound
  have hkeeps : ∀ x : Desc, ((if x.seq = seq then f x else x).seq == seq) = (x.seq == seq) := fun x => by
    split
    · rw [hf]
    · rfl
  rw [State.descNow] at hd
  rw [State.descNow, State.updDesc, State.ctx_updCtx_same hs, List.find?_map]
  simp only [Function.comp_def, hkeeps, hd, Option.map_some, hseq, if_true]

theorem State.HasCtx.updDesc {s : State} {n q : Nat} (h : s.HasCtx n q) (seq : Nat) (f : Desc → Desc) : (s.updDesc n q seq f).HasCtx n q :=
  h.updCtx _

/-! ### Rows one after another (R79) -/

/-- After k rows of a descriptor it has progressed by k, and its codes alone are new. -/
theorem RowsOut.descNow {n q seq k : Nat} {j : RowJob} {s t : State} {d : Desc} (h : RowsOut n q seq j s k t) (hs : s.HasCtx n q)
    (hd : s.descNow n q seq = some d) :
    t.HasCtx n q ∧ ∃ codes, t.descNow n q seq = some { d with prog := d.prog + k, codes := codes } := by
  induction k generalizing t with
  | zero =>
    rw [RowsOut] at h
    subst h
    exact ⟨hs, d.codes, hd⟩
  | succ k ih =>
    obtain ⟨u, es, hu, -, -, rfl⟩ := h
    obtain ⟨huctx, codes, hcodes⟩ := ih hu
    have hkeep := emitElems_keepsContexts j.env es u
    have hemit := hkeep.hasCtx huctx
    refine ⟨hemit.updDesc _ _, _, State.descNow_updDesc_same hemit ((hkeep.descNow huctx seq).trans hcodes) fun _ => rfl⟩

/-- One row more of a descriptor without a SYNC state. -/
theorem State.rowsRun_row {n q p seq fuel : Nat} {j : RowJob} {s : State} {d : Desc} {es : List Elem} (hd : s.descNow n q seq = some d)
    (hdone : d.done = none) (hprog : d.prog < j.rows) (hsync : d.sync = none) (hes : j.row s d.prog = .ok es)
    (herr : (emitElems j.env es s).err = none) :
    s.rowsRun n q p seq j (fuel + 1) = ((emitElems j.env es s).s.updDesc n q seq fun d =>
      { d with prog := d.prog + 1, codes := d.codes ++ (emitElems j.env es s).codes }).rowsRun n q p seq j fuel := by
  have hgate : s.syncGate n q d p j.geo true d.prog = (s, true) := by rw [State.syncGate, hsync]
  rw [State.rowsRun]
  simp only [hd, hdone, Option.isSome_none, Bool.false_eq_true, if_false, Nat.not_le.mpr hprog, hgate, hes, herr, hsync]

/-- The end of a descriptor whose rows are all out. -/
theorem State.rowsRun_end {n q p seq fuel : Nat} {j : RowJob} {s : State} {d : Desc} (hd : s.descNow n q seq = some d) (hdone : d.done = none)
    (hprog : j.rows ≤ d.prog) : s.rowsRun n q p seq j (fuel + 1) = s.rowsEnd n q p d j := by
  rw [State.rowsRun]
  simp only [hd, hdone, Option.isSome_none, Bool.false_eq_true, if_false, hprog, if_true]

section Rows

variable {n q p seq : Nat} {j : RowJob} {s : State} {d : Desc} (hs : s.HasCtx n q) (hd : s.descNow n q seq = some d) (hdone : d.done = none)
  (hsync : d.sync = none) (hprog : d.prog = 0)
include hs hd hdone hsync hprog

/-- A run over k rows that go out goes on from the state after them. -/
theorem State.rowsRun_rowsOut {k fuel : Nat} {t : State} (h : RowsOut n q seq j s k t) (hk : k ≤ j.rows) :
    s.rowsRun n q p seq j (k + fuel) = t.rowsRun n q p seq j fuel := by
  induction k generalizing t fuel with
  | zero =>
    rw [RowsOut] at h
    rw [h, Nat.zero_add]
  | succ k ih =>
    obtain ⟨u, es, hu, hes, herr, rfl⟩ := h
    obtain ⟨-, codes, hnow⟩ := hu.descNow hs hd
    have hat : d.prog + k = k := by rw [hprog, Nat.zero_add]
    rw [hat] at hnow
    rw [Nat.add_right_comm, Nat.add_assoc, ih hu (Nat.le_of_succ_le hk)]
    exact State.rowsRun_row hnow hdone hk hsync hes herr

/-- A run over all the rows ends the descriptor, in the present form that has all the codes. -/
theorem State.rowsRun_all {t : State} (h : RowsOut n q seq j s j.rows t) : ∃ codes,
    t.descNow n q seq = some { d with prog := j.rows, codes := codes } ∧
    s.rowsRun n q p seq j (j.rows + 1) = t.rowsEnd n q p { d with prog := j.rows, codes := codes } j := by
  obtain ⟨-, codes, hnow⟩ := h.descNow hs hd
  rw [hprog, Nat.zero_add] at hnow
  refine ⟨codes, hnow, ?_⟩
  rw [State.rowsRun_rowsOut hs hd hdone hsync hprog h (Nat.le_refl _)]
  exact State.rowsRun_end hnow hdone (Nat.le_refl _)

end Rows

/-! ### The beginning of a compute descriptor -/

theorem State.descNow_descBegin {s : State} {n q : Nat} {d : Desc} (hs : s.HasCtx n q) (hd : s.descNow n q d.seq = some d) :
    (s.descBegin n q d).HasCtx n q ∧ (s.descBegin n q d).descNow n q d.seq = some { d with started := true } := by
  unfold State.descBegin
  split
  next hstart =>
    have hsame : { d with started := true } = d := by rw [← hstart]
    rw [hsame]
    exact ⟨hs, hd⟩
  have hctx : (s.updDesc n q d.seq fun d => { d with started := true }).HasCtx n q := hs.updDesc _ _
  have hnow := State.descNow_updDesc_same hs hd (f := fun d => { d with started := true }) fun _ => rfl
  dsimp only
  split
  · split
    · have hkeep := KeepsContexts.setClip (s.updDesc n q d.seq fun d => { d with started := true })
      exact ⟨(hkeep _ _ _ _).hasCtx hctx, ((hkeep _ _ _ _).descNow hctx _).trans hnow⟩
    · exact ⟨hctx, hnow⟩
  · exact ⟨hctx, hnow⟩

theorem State.spLoad_keepsContexts {s t : State} {n p : Nat} {d : Desc} (h : s.spLoad n p d = .ok t) : KeepsContexts s t := by
  unfold State.spLoad at h
  dsimp only at h
  split at h
  · cases h
    exact .refl s
  split at h
  · cases h
  · cases h
  · split at h
    · cases h
      exact .updLantern s n fun _ => rfl
    · cases h

/-! ### Row-wise descriptors (R79, R143-R145) -/

/-- The VU's commands, with the operation of each (R85). -/
def vuCommands (n : LnIx) (q : QIx) : List (Instr × Nat) :=
  [(.vuDepthwise n q, 1), (.vuMaxPool n q, 2), (.vuAvgPoolPadCounted n q, 3), (.vuAvgPoolPadNotCounted n q, 4), (.vuSoftmax n q, 5),
    (.vuLayerNorm n q, 6), (.vuGroupNorm n q, 7), (.vuResizeNearest n q, 8), (.vuResizeBilinear n q, 9), (.vuStagesOnly n q, 10)]

theorem exec_vuCommand {n : LnIx} {q : QIx} {i : Instr} {op : Nat} (h : (i, op) ∈ vuCommands n q) (s : State) :
    exec i s = .next (s.onDesc n q 0x23 (State.opVu op n q)) := by
  simp only [vuCommands, List.mem_cons, Prod.mk.injEq, List.not_mem_nil, or_false] at h
  obtain ⟨rfl, rfl⟩ | ⟨rfl, rfl⟩ | ⟨rfl, rfl⟩ | ⟨rfl, rfl⟩ | ⟨rfl, rfl⟩ | ⟨rfl, rfl⟩ | ⟨rfl, rfl⟩ | ⟨rfl, rfl⟩ | ⟨rfl, rfl⟩ | ⟨rfl, rfl⟩ := h <;>
    rfl

section Jobs

variable {s : State} {n : LnIx} {q : QIx} {d : Desc}

/-- The rows of a SPILL (R143). -/
def spJob (s : State) (n q : Nat) (d : Desc) : RowJob :=
  let p := (s.ctx n q).part
  let c := d.cap
  ⟨1, ⟨1, 1, 1, 0, 1⟩, rowEnv n q p d (spI32 c) (spN c) (spM c) (spN c), fun s _ => s.spElems n p c⟩

/-- The rows of a TAPER (R144). -/
def tpJob (s : State) (n q : Nat) (d : Desc) : RowJob :=
  let p := (s.ctx n q).part
  let c := d.cap
  ⟨tpOh c, ⟨tpHin c, tpSh c, tpKh c, tpPt c, tpOh c⟩, rowEnv n q p d (tpI32 c) (tpOw c) (tpCout c) (tpOh c * tpOw c), fun s y => s.tpRow n p d y⟩

/-- The rows of a VU operation (R85). -/
def vuJob (s : State) (n q : Nat) (d : Desc) : RowJob :=
  let p := (s.ctx n q).part
  let c := d.cap
  ⟨vuOh c, vuGeo c, rowEnv n q p d false (vuOw c) (vuC c) (vuOh c * vuOw c), fun s y => s.vuRow n p d y⟩

theorem exec_spill {s1 : State} (h : s.findDesc n q 0x21 = some d) (hload : (s.descBegin n q d).spLoad n (s.ctx n q).part d = .ok s1) :
    exec (.spill n q) s = .next (s1.rowsRun n q (s.ctx n q).part d.seq (spJob s n q d) ((spJob s n q d).rows + 1)) := by
  have hop : State.opSpill n q d s = s1.rowsRun n q (s.ctx n q).part d.seq (spJob s n q d) ((spJob s n q d).rows + 1) := by
    simp only [State.opSpill, hload] <;> rfl
  exact congrArg _ ((State.onDesc_found h _).trans hop)

theorem exec_taper (h : s.findDesc n q 0x22 = some d) :
    exec (.taper n q) s = .next ((s.descBegin n q d).rowsRun n q (s.ctx n q).part d.seq (tpJob s n q d) ((tpJob s n q d).rows + 1)) :=
  congrArg _ (State.onDesc_found h _)

theorem exec_vu {i : Instr} (hi : (i, vuOp d.cap) ∈ vuCommands n q) (h : s.findDesc n q 0x23 = some d) :
    exec i s = .next ((s.descBegin n q d).rowsRun n q (s.ctx n q).part d.seq (vuJob s n q d) ((vuJob s n q d).rows + 1)) :=
  (exec_vuCommand hi s).trans (congrArg _ ((State.onDesc_found h _).trans (if_pos rfl)))

end Jobs

theorem State.rowsEnd_plain {t : State} {n q p : Nat} {d : Desc} (h : d.dig = false) (j : RowJob) : t.rowsEnd n q p d j = t.descDone n q d.seq .ok := by
  simp only [State.rowsEnd, h, Bool.false_eq_true, if_false]

theorem State.rowsEnd_digest {t u : State} {n q p : Nat} {d : Desc} {j : RowJob} (h : d.dig = true)
    (hdig : t.digWrite p j.env.out 0 (blockDigest (outCode j.env.out) d.codes) = .ok u) : t.rowsEnd n q p d j = u.descDone n q d.seq .ok := by
  simp only [State.rowsEnd, h, if_true, hdig]

/-- The three kinds of row-wise descriptor run all their rows from a state in which the descriptor has begun. -/
theorem exec_rows {s s1 : State} {n : LnIx} {q : QIx} {d : Desc} {i : Instr} {ty : Nat} {j : RowJob} (hs : s.HasCtx n q)
    (hkind : (ty = 0x21 ∧ i = .spill n q ∧ (s.descBegin n q d).spLoad n (s.ctx n q).part d = .ok s1 ∧ j = spJob s n q d) ∨
      (ty = 0x22 ∧ i = .taper n q ∧ s1 = s.descBegin n q d ∧ j = tpJob s n q d) ∨
      (ty = 0x23 ∧ (i, vuOp d.cap) ∈ vuCommands n q ∧ s1 = s.descBegin n q d ∧ j = vuJob s n q d))
    (hfound : s.findDesc n q ty = some d) (hnow : s.descNow n q d.seq = some d) :
    exec i s = .next (s1.rowsRun n q (s.ctx n q).part d.seq j (j.rows + 1)) ∧ s1.HasCtx n q ∧
      s1.descNow n q d.seq = some { d with started := true } := by
  have hbegin := State.descNow_descBegin hs hnow
  rcases hkind with ⟨rfl, rfl, hload, rfl⟩ | ⟨rfl, rfl, rfl, rfl⟩ | ⟨rfl, hi, rfl, rfl⟩
  · have hkeep := State.spLoad_keepsContexts hload
    exact ⟨exec_spill hfound hload, hkeep.hasCtx hbegin.1, (hkeep.descNow hbegin.1 _).trans hbegin.2⟩
  · exact ⟨exec_taper hfound, hbegin⟩
  · exact ⟨exec_vu hi hfound, hbegin⟩

theorem Desc.done_of_findDesc {s : State} {n q ty : Nat} {d : Desc} (h : s.findDesc n q ty = some d) : d.done = none := by
  have hfound := List.find?_some h
  simp only [Bool.and_eq_true, Option.isNone_iff_eq_none] at hfound
  exact hfound.2

/-- Settles O19: the rows run one by one because a row leaves the descriptor as it was but for its progress and its codes, and an element of
a row is the one of its place in the raster. -/
theorem computeRowsLeaveInOrder : Obligations.ComputeRowsLeaveInOrder := by
  unfold Obligations.ComputeRowsLeaveInOrder
  refine ⟨fun s n q d i ty j s1 t hs hkind hfound hnow hsync hprog hrows => ?_, fun s n p y d es hrow h5 h6 h7 => ?_⟩
  · have hctx : s.HasCtx n q := State.hasCtx_of_issued hs.lanternsOrdered (List.mem_of_find?_eq_some hfound)
    have hdone := Desc.done_of_findDesc hfound
    obtain ⟨hexec, hctx1, hnow1⟩ := exec_rows hctx hkind hfound hnow
    obtain ⟨codes, hend, hrun⟩ := State.rowsRun_all (p := (s.ctx n q).part) hctx1 hnow1 hdone hsync hprog hrows
    refine ⟨fun hdig => ?_, fun hdig d' u hd' hwrite => ?_⟩
    · rw [hexec, hrun, State.rowsEnd_plain (by exact hdig)]
    · obtain rfl := Option.some.inj (hd'.symm.trans hend)
      rw [hexec, hrun, State.rowsEnd_digest (by exact hdig) hwrite]
  · obtain ⟨hlen, helem⟩ := State.vuRow_raster ⟨h5, h6, h7⟩ hrow
    refine ⟨hlen, fun x hx ch hch => ?_⟩
    obtain ⟨v, hv, hget⟩ := helem x hx ch hch
    refine ⟨_, hget, rfl, rfl, rfl, fun h1 h4 => ?_, fun h8 => ?_, fun h10 => ?_⟩
    · obtain ⟨w, hw, hwlen, hop⟩ := State.vuValue_windowed hv h1 h4
      obtain ⟨hdepth, hmax, hcounted, hreal⟩ := State.vuWinOp_cases hop
      exact ⟨w, hw, hwlen, hmax, fun h3 => hwlen ▸ hcounted h3, hreal, fun hop1 => State.vuDepth_ok (hdepth hop1)⟩
    · rw [State.vuValue_point (by omega), State.vuPoint_nearest h8] at hv
      exact hv
    · rw [State.vuValue_point (by omega), State.vuPoint_plain h10] at hv
      exact hv


/-! ### Tiles of an MMA one after another (R78, R79, R110) -/

/-- The MMA waits at its last unit: for a ticket, or as the member that reduces for the partials of the others (R141, R142). -/
def mmaWaits (e : Desc) : Bool := mmaDisp e.cap && (!e.ticketEnd || (mmaKdisp e.cap && !mmaAtomic e.cap && e.tookZero))

theorem State.mmaRun_tilesOut {n q p seq k fuel : Nat} {s t : State} (h : TilesOut n q p seq k s t) :
    s.mmaRun n q p seq (k + fuel) = t.mmaRun n q p seq fuel := by
  induction k generalizing s with
  | zero =>
    rw [TilesOut] at h
    rw [h, Nat.zero_add]
  | succ k ih =>
    obtain ⟨d, u, i, rest, v, e, hd, hdone, hu, harr, hopen, hready, hrest⟩ := h
    have htile : s.mmaTile n q p seq = (v.tileDo n q p e u i, true) := by
      simp only [State.mmaTile, hd, hdone, Option.isSome_none, Bool.false_eq_true, if_false, hu, List.isEmpty_iff, harr, hopen, hready]
    rw [Nat.add_right_comm, State.mmaRun, htile]
    exact ih hrest

/-- The run stops at a state that has no further tile. -/
theorem State.mmaRun_stop {n q p seq fuel : Nat} {s t : State} (h : s.mmaTile n q p seq = (t, false)) (hfuel : 0 < fuel) :
    s.mmaRun n q p seq fuel = t := by
  obtain ⟨fuel, rfl⟩ := Nat.exists_eq_succ_of_ne_zero hfuel.ne'
  rw [State.mmaRun, h]

section MmaTile

variable {t : State} {n q p seq : Nat} {e : Desc} (he : t.descNow n q seq = some e) (hdone : e.done = none)
include he hdone

theorem State.mmaTile_ended (hu : mmaUnitOf e = none) (hw : mmaWaits e = false) : t.mmaTile n q p seq = (t.descDone n q seq .ok, false) := by
  rw [mmaWaits] at hw
  simp only [State.mmaTile, he, hdone, Option.isSome_none, Bool.false_eq_true, if_false, hu, hw]

theorem State.mmaTile_waits (hu : mmaUnitOf e = none) (hw : mmaWaits e = true) : t.mmaTile n q p seq = (t, false) := by
  rw [mmaWaits] at hw
  simp only [State.mmaTile, he, hdone, Option.isSome_none, Bool.false_eq_true, if_false, hu, hw, if_true]

theorem State.mmaTile_noArray {u : MmaUnit} (hu : mmaUnitOf e = some u) (harr : t.arraysOf n e = []) (hdisp : mmaDisp e.cap = false) :
    t.mmaTile n q p seq = (t.descDone n q seq .unitFault, false) := by
  simp only [State.mmaTile, he, hdone, Option.isSome_none, Bool.false_eq_true, if_false, hu, harr, List.isEmpty_nil, if_true, hdisp]

end MmaTile

/-- An MMA whose tiles have gone as far as t ends with the step that its arrays take there. -/
theorem exec_mma {s t u : State} {n : LnIx} {q : QIx} {d : Desc} {k : Nat} (hfound : s.findDesc n q 0x20 = some d)
    (ht : TilesOut n q (s.ctx n q).part d.seq k (s.mmaBegin n q d) t) (hk : k < mmaFuel d)
    (hstop : t.mmaTile n q (s.ctx n q).part d.seq = (u, false)) : exec (.mma n q) s = .next (u.clearArrays n) := by
  obtain ⟨fuel, hfuel⟩ := Nat.exists_eq_add_of_lt hk
  have hrun : State.opMma n q d s = u.clearArrays n := by
    rw [State.opMma, hfuel, Nat.add_assoc, State.mmaRun_tilesOut ht, State.mmaRun_stop hstop (Nat.succ_pos fuel)]
  exact congrArg _ ((State.onDesc_found hfound _).trans hrun)

/-! ### Tickets (R114, R115, R141) -/

/-- Tickets of a counter that no member has taken, or that have come back. -/
def Counter.left (k : Counter) : Bool := decide (k.next < k.total) || !k.reissue.isEmpty

/-- A counter of the device replaced. -/
def State.withCounter (s : State) (k k' : Counter) : State := { s with counters := s.counters.map fun x => if x.id = k.id then k' else x }

/-- A descriptor that holds one more ticket. -/
def Desc.withTicket (d : Desc) (t : Nat) : Desc := { d with tickets := d.tickets ++ [t], tookZero := d.tookZero || t == 0, ticketEnd := false }

theorem exec_ticketTake {s : State} {n : LnIx} {q : QIx} {d : Desc} (hfound : s.findDesc n q 0x20 = some d) :
    exec (.ticketTake n q) s = .next (State.opTicket n q d s) := congrArg _ (State.onDesc_found hfound _)

section Tickets

variable {s : State} {n q : Nat} {d : Desc} {k : Counter} (hk : s.counterOf d = some k)
include hk

theorem State.opTicket_noMember (hm : s.noMember k = true) (hl : k.left = true) : State.opTicket n q d s = s.descDone n q d.seq .unitFault := by
  rw [Counter.left] at hl
  simp only [State.opTicket, hk, hm, hl, Bool.and_self, if_true]

/-- What a member with room for a ticket gets of a counter: the re-issued ticket, the lowest one not yet taken, or END. -/
def State.ticketGiven (s : State) (n q : Nat) (d : Desc) (k : Counter) : State :=
  match k.reissue with
  | t :: r => if (s.arraysOf n d).isEmpty then s else (s.withCounter k { k with reissue := r }).updDesc n q d.seq fun d => d.withTicket t
  | [] =>
    if k.next < k.total then
      (if (s.arraysOf n d).isEmpty then s else (s.withCounter k { k with next := k.next + 1 }).updDesc n q d.seq fun d => d.withTicket k.next)
    else s.updDesc n q d.seq fun d => { d with ticketEnd := true }

theorem State.opTicket_gives (hm : s.noMember k = false ∨ k.left = false) (ht : d.tickets.length < 2) :
    State.opTicket n q d s = s.ticketGiven n q d k := by
  have hmay : (s.noMember k && (decide (k.next < k.total) || !k.reissue.isEmpty)) = false := by
    rw [Bool.and_eq_false_iff]
    exact hm
  simp only [State.opTicket, hk, hmay, Bool.false_eq_true, if_false, Nat.not_le.mpr ht, decide_false] <;> rfl

end Tickets

section TicketGiven

variable {s : State} {n q : Nat} {d : Desc} {k : Counter}

theorem State.ticketGiven_reissue {t : Nat} {r : List Nat} (hr : k.reissue = t :: r) (harr : s.arraysOf n d ≠ []) :
    s.ticketGiven n q d k = (s.withCounter k { k with reissue := r }).updDesc n q d.seq fun d => d.withTicket t := by
  simp only [State.ticketGiven, hr, List.isEmpty_iff, harr, if_false]

variable (hr : k.reissue = [])
include hr

theorem State.ticketGiven_next (hlt : k.next < k.total) (harr : s.arraysOf n d ≠ []) :
    s.ticketGiven n q d k = (s.withCounter k { k with next := k.next + 1 }).updDesc n q d.seq fun d => d.withTicket k.next := by
  simp only [State.ticketGiven, hr, hlt, List.isEmpty_iff, harr, if_true, if_false]

theorem State.ticketGiven_end (hle : k.total ≤ k.next) :
    s.ticketGiven n q d k = s.updDesc n q d.seq fun d => { d with ticketEnd := true } := by
  simp only [State.ticketGiven, hr, Nat.not_lt.mpr hle, if_false]

end TicketGiven

/-! ### The ordered reduction (R116, R142) -/

theorem State.reduceRun_blocksOut {n q p seq a total j fuel : Nat} {s t : State} (h : BlocksOut n q p seq a total j s t) :
    s.reduceRun n q p seq a total (j + fuel) = t.reduceRun n q p seq a total fuel := by
  induction j generalizing s with
  | zero =>
    rw [BlocksOut] at h
    rw [h, Nat.zero_add]
  | succ j ih =>
    obtain ⟨d, i, rest, v, hd, hdone, hopen, hgate, hrest⟩ := h
    rw [Nat.add_right_comm, State.reduceRun]
    simp only [hd, hdone, Option.isSome_none, Bool.false_eq_true, if_false, hopen, hgate]
    exact ih hrest

theorem State.reduceRun_end {n q p seq a total fuel : Nat} {t : State} {e : Desc} (he : t.descNow n q seq = some e) (hdone : e.done = none)
    (hopen : blocksOpen e = []) (hfuel : 0 < fuel) : t.reduceRun n q p seq a total fuel = t.descDone n q seq .ok := by
  obtain ⟨fuel, rfl⟩ := Nat.exists_eq_succ_of_ne_zero hfuel.ne'
  rw [State.reduceRun]
  simp only [he, hdone, Option.isSome_none, Bool.false_eq_true, if_false, hopen]

theorem Cap.need_of_ref {c : Cap} {off a : Nat} (h : c.ref off = some a) : c.need off = .ok a := by rw [Cap.need, h]

/-- The member that took ticket 0 reduces once every ticket is finished. -/
theorem exec_orderedReduction {s : State} {n : LnIx} {q : QIx} {d : Desc} {k : Counter} {a : Nat} (hfound : s.findDesc n q 0x20 = some d)
    (hk : s.counterOf d = some k) (hkdisp : mmaKdisp d.cap = true) (hatomic : mmaAtomic d.cap = false) (hzero : d.tookZero = true)
    (hfin : k.finished.length = k.total) (htickets : d.tickets = []) (ha : d.cap.ref 64 = some a) :
    exec (.orderedReduction n q) s =
      .next ((s.descBegin n q d).reduceRun n q (s.ctx n q).part d.seq a k.total ((mmaBlocks d.cap).length + 1)) := by
  refine congrArg _ ((State.onDesc_found hfound _).trans ?_)
  simp only [State.opReduce, hk, hkdisp, hatomic, hzero, hfin, htickets, Cap.need_of_ref ha, Bool.not_false, Bool.and_self, decide_true,
    List.isEmpty_nil, if_true]

/-- Settles O20: the tiles and the blocks that a run does are those of its fuel, and what it finds behind them ends it. -/
theorem mmaUnitsTicketsAndReduction : Obligations.MmaUnitsTicketsAndReduction := by
  unfold Obligations.MmaUnitsTicketsAndReduction
  intro s n q d hfound
  refine ⟨fun k t e htiles he hdone hk => ?_, fun k hk => ?_, fun k x j t e hk hkdisp hatomic hzero hfin htickets hx hblocks hj he hdone hopen => ?_⟩
  · exact ⟨fun hu hw => exec_mma hfound htiles hk (State.mmaTile_ended he hdone hu hw),
      fun hu hw => exec_mma hfound htiles hk (State.mmaTile_waits he hdone hu hw),
      fun u hu harr hdisp => exec_mma hfound htiles hk (State.mmaTile_noArray he hdone hu harr hdisp)⟩
  · rw [exec_ticketTake hfound]
    refine ⟨fun hm hl => congrArg _ (State.opTicket_noMember hk hm hl), fun hm ht => ?_⟩
    rw [State.opTicket_gives hk hm ht]
    exact ⟨fun t r hr harr => congrArg _ (State.ticketGiven_reissue hr harr), fun hr hlt harr => congrArg _ (State.ticketGiven_next hr hlt harr),
      fun hr hle => congrArg _ (State.ticketGiven_end hr hle)⟩
  · obtain ⟨fuel, hfuel⟩ := Nat.exists_eq_add_of_le hj
    rw [exec_orderedReduction hfound hk hkdisp hatomic hzero hfin htickets hx, hfuel, Nat.add_assoc, State.reduceRun_blocksOut hblocks,
      State.reduceRun_end he hdone hopen (Nat.succ_pos fuel)]


/-! ### A RUN on the gang of its stage (R95, R246, R256, R265) -/

/-- The commands whose opcode is RUN or RUN_CHAIN. -/
theorem exec_runCommand {s : State} {c : Cmd} {op : Nat} {i : Instr} (hi : (i, op) ∈ [(Instr.run c.id, 0x30), (.runChain c.id, 0x31)])
    (h : s.Issued c op) : exec i s = .next (State.opRun c s) := by
  simp only [List.mem_cons, Prod.mk.injEq, List.not_mem_nil, or_false] at hi
  obtain ⟨rfl, rfl⟩ | ⟨rfl, rfl⟩ := hi
  · exact congrArg _ (State.runOp_issued h _)
  · exact congrArg _ (State.runOp_issued h _)

/-- The command with the gang of its present stage and that gang's members. -/
def Cmd.placed (c : Cmd) (g : Nat) (l : List Nat) : Cmd := { c with gang := g, members := l }

/-- The state in which a stage has its gang: a stage that has members already keeps it. -/
def State.withGang (s : State) (c : Cmd) (g : Nat) (l : List Nat) : State :=
  if c.members = [] then s.updCmd c.id fun x => x.placed g l else s

/-- What a stage that may start finds: the gang that its entry names, checked, or the one that it has. -/
def State.GangOf (s : State) (c : Cmd) (g : Nat) (l : List Nat) : Prop :=
  let ms := gangMembers (s.part c.part).active c.stageGang
  (c.members = [] ∧ gangKind (gangEntry (s.part c.part).active c.stageGang) ≠ 3 ∧ s.gangCheck c.part c.stageGang ms = .ok ms ∧
    g = c.stageGang ∧ l = ms) ∨ (c.members ≠ [] ∧ g = c.gang ∧ l = c.members)

theorem State.gangCheck_nil (s : State) (p e : Nat) : s.gangCheck p e [] = .error .bounds := rfl

section Run

variable {s : State} {c : Cmd}

theorem State.cmd?_endCmd (h : s.cmd? c.id = some c) (st : Status) (d : Word) :
    (s.endCmd c.id st d).cmd? c.id = some { c with phase := .ended, status := st, detail := d } := by
  rw [State.endCmd, State.cmd?_updCmd_same s c.id (fun c => { c with phase := .ended, status := st, detail := d }) fun _ => rfl, h]
  rfl

theorem State.opRun_badStages (hop : c.opcode = 0x31) (h : c.stages = 0 ∨ 4 < c.stages) : State.opRun c s = s.endCmd c.id .badOpcode 0 :=
  if_pos ⟨hop, h⟩

theorem State.resolveRun_entry (hkind : gangKind (gangEntry (s.part c.part).active c.stageGang) ≠ 3) :
    s.resolveRun c = s.placeOn c c.stageGang (gangMembers (s.part c.part).active c.stageGang) := if_neg hkind

theorem State.cmd?_placed {op : Nat} (h : s.Issued c op) {g : Nat} {l : List Nat} (hg : s.GangOf c g l) :
    (s.withGang c g l).cmd? c.id = some (c.placed g l) := by
  obtain ⟨hc, -, -⟩ := h
  rcases hg with ⟨hm, -⟩ | ⟨hm, rfl, rfl⟩
  · rw [State.withGang, if_pos hm, State.cmd?_updCmd_same s c.id (fun x => x.placed g l) fun _ => rfl, hc]
    rfl
  · rw [State.withGang, if_neg hm]
    exact hc

theorem State.withGang_frame (s : State) (c : Cmd) (g : Nat) (l : List Nat) : ∃ cmds, s.withGang c g l = { s with cmds := cmds } := by
  unfold State.withGang
  split
  · exact ⟨_, rfl⟩
  · exact ⟨s.cmds, rfl⟩

theorem State.GangOf.members_ne {g : Nat} {l : List Nat} (hg : s.GangOf c g l) : l ≠ [] := by
  rcases hg with ⟨-, -, hcheck, -, rfl⟩ | ⟨hm, -, rfl⟩
  · intro hnil
    rw [hnil, State.gangCheck_nil] at hcheck
    cases hcheck
  · exact hm

variable {op : Nat} (h : s.Issued c op) (hst : op = 0x31 → 1 ≤ c.stages ∧ c.stages ≤ 4)
include h hst

theorem State.opRun_stages : State.opRun c s =
    let s1 := if c.members.isEmpty then s.resolveRun c else s
    match s1.cmd? c.id with
    | none => s1
    | some c1 => if c1.phase = .issued ∧ c1.members.isEmpty = false then s1.startRun c1 else s1 := by
  obtain ⟨-, -, rfl⟩ := h
  have hstages : ¬ (c.opcode = 0x31 ∧ (c.stages = 0 ∨ 4 < c.stages)) := fun ⟨hop, hbad⟩ => by
    have := hst hop
    omega
  exact if_neg hstages

/-- A gang whose check fails ends the command, which then does not start. -/
theorem State.opRun_refused {st : Status} (hm : c.members = []) (hkind : gangKind (gangEntry (s.part c.part).active c.stageGang) ≠ 3)
    (hcheck : s.gangCheck c.part c.stageGang (gangMembers (s.part c.part).active c.stageGang) = .error st) :
    State.opRun c s = s.endCmd c.id st (runDetail { c with detail := 0 } c.aux) := by
  have hresolve : s.resolveRun c = s.endCmd c.id st (runDetail { c with detail := 0 } c.aux) := by
    rw [State.resolveRun_entry hkind, State.placeOn, hcheck]
    rfl
  obtain ⟨hc, -, -⟩ := id h
  rw [State.opRun_stages h hst]
  simp only [List.isEmpty_iff.mpr hm, if_true, hresolve, State.cmd?_endCmd hc, reduceCtorEq, false_and, if_false]

/-- A stage that has its gang tries to start. -/
theorem State.opRun_starts {g : Nat} {l : List Nat} (hg : s.GangOf c g l) : State.opRun c s = (s.withGang c g l).startRun (c.placed g l) := by
  have hplaced : (if c.members.isEmpty then s.resolveRun c else s) = s.withGang c g l := by
    rcases hg with ⟨hm, hkind, hcheck, rfl, rfl⟩ | ⟨hm, -, -⟩
    · rw [if_pos (List.isEmpty_iff.mpr hm), State.withGang, if_pos hm, State.resolveRun_entry hkind, State.placeOn, hcheck]
      rfl
    · rw [if_neg (mt List.isEmpty_iff.mp hm), State.withGang, if_neg hm]
  have hgo : (c.placed g l).phase = .issued ∧ (c.placed g l).members.isEmpty = false := by
    obtain ⟨-, hph, -⟩ := h
    exact ⟨hph, by rw [List.isEmpty_eq_false_iff]; exact hg.members_ne⟩
  rw [State.opRun_stages h hst]
  simp only [hplaced, State.cmd?_placed h hg, hgo, and_self, if_true]

end Run

/-! ### The start on every member (R123) -/

/-- The context of a Lantern that runs a partition's programs, and the PDA of its window. -/
def State.memberCtx (s : State) (p n : Nat) : Option (Nat × Nat × Nat) :=
  match s.runCtx p n with
  | none => none
  | some (q, da) => (s.pdaOf p da).map fun pda => (n, q, pda)

/-- The program is started on some contexts, the first of which has its root. -/
def State.startAll (s : State) (c : Cmd) (xs : List (Nat × Nat × Nat)) : State :=
  xs.foldl (fun u x => u.startMember c (xs.headD (0, 0, 0)).2.2 x.1 x.2.1 x.2.2) s

/-- The command once its stage runs (R123). -/
def Cmd.started (c : Cmd) : Cmd := { c with phase := .active, mapMask := c.mapMask ||| lanternMask c.members }

/-- The state in which a stage has started on some contexts: ticket counters of the command are gone. -/
def State.runStarted (s : State) (c : Cmd) (xs : List (Nat × Nat × Nat)) : State :=
  ({ s with lanterns := (s.startAll c xs).lanterns, counters := s.counters.filter fun k => k.cmd != c.id } : State).updCmd c.id Cmd.started

theorem State.lanterns_startMember_congr {s t : State} (h : t.lanterns = s.lanterns) (c : Cmd) (root n q base : Nat) :
    (t.startMember c root n q base).lanterns = (s.startMember c root n q base).lanterns := by
  simp only [State.startMember, State.updCtx, State.updLantern, State.setLantern, State.lantern, h]

theorem State.foldl_startMember_frame (c : Cmd) (root : Nat) (xs : List (Nat × Nat × Nat)) (s : State) :
    ∃ lanterns, xs.foldl (fun u x => u.startMember c root x.1 x.2.1 x.2.2) s = { s with lanterns := lanterns } := by
  induction xs generalizing s with
  | nil => exact ⟨s.lanterns, rfl⟩
  | cons x xs ih =>
    obtain ⟨lanterns, h⟩ := ih (s.startMember c root x.1 x.2.1 x.2.2)
    exact ⟨lanterns, h⟩

theorem State.foldl_startMember_congr (c : Cmd) (root : Nat) (xs : List (Nat × Nat × Nat)) {s t : State} (h : t.lanterns = s.lanterns) :
    (xs.foldl (fun u x => u.startMember c root x.1 x.2.1 x.2.2) t).lanterns =
      (xs.foldl (fun u x => u.startMember c root x.1 x.2.1 x.2.2) s).lanterns := by
  induction xs generalizing s t with
  | nil => exact h
  | cons x xs ih => exact ih (State.lanterns_startMember_congr h c root x.1 x.2.1 x.2.2)

theorem State.startAll_frame (s : State) (c : Cmd) (xs : List (Nat × Nat × Nat)) :
    s.startAll c xs = { s with lanterns := (s.startAll c xs).lanterns } := by
  obtain ⟨lanterns, h⟩ := State.foldl_startMember_frame c (xs.headD (0, 0, 0)).2.2 xs s
  rw [State.startAll, h]

/-- The start of a stage, given the contexts of its members. -/
def State.startWith (s : State) (c : Cmd) (cs : List (Option (Nat × Nat × Nat))) : State :=
  if cs.any (·.isNone) then s.runRefused c .bounds
  else
    let l := cs.filterMap id
    if l.any fun x => (s.ctx x.1 x.2.1).cmd.isSome then s
    else
      let root := match l with | [] => 0 | x :: _ => x.2.2
      let s1 := l.foldl (fun s x => s.startMember c root x.1 x.2.1 x.2.2) s
      ({ s1 with counters := s1.counters.filter fun k => k.cmd != c.id } : State).updCmd c.id Cmd.started

theorem State.startRun_eq_startWith (s : State) (c : Cmd) : s.startRun c = s.startWith c (c.members.map (s.memberCtx c.part)) := rfl

theorem State.runStarted_eq (s : State) (c : Cmd) (xs : List (Nat × Nat × Nat)) :
    ({ s.startAll c xs with counters := (s.startAll c xs).counters.filter fun k => k.cmd != c.id } : State).updCmd c.id Cmd.started =
      s.runStarted c xs := by
  rw [s.startAll_frame c xs]
  rfl

/-- A stage whose members all have a context starts when these are free, and else waits. -/
theorem State.startRun_eq (s : State) (c : Cmd) {xs : List (Nat × Nat × Nat)} (hxs : c.members.map (s.memberCtx c.part) = xs.map some) :
    s.startRun c = if xs.any fun x => (s.ctx x.1 x.2.1).cmd.isSome then s else s.runStarted c xs := by
  have hall : (xs.map some).any (·.isNone) = false := by simp
  have hid : (xs.map some).filterMap id = xs := by simp
  rw [← State.runStarted_eq, State.startRun_eq_startWith, hxs, State.startWith]
  simp only [hall, hid, Bool.false_eq_true, if_false]
  cases xs <;> rfl

section Start

variable {s : State} {c : Cmd} {g : Nat} {l : List Nat} {xs : List (Nat × Nat × Nat)} (hxs : l.map (s.memberCtx c.part) = xs.map some)
include hxs

theorem State.startRun_busy (hbusy : ∃ x ∈ xs, (s.ctx x.1 x.2.1).cmd.isSome = true) :
    (s.withGang c g l).startRun (c.placed g l) = s.withGang c g l := by
  obtain ⟨cmds, hu⟩ := s.withGang_frame c g l
  have hany : (xs.any fun x => ((s.withGang c g l).ctx x.1 x.2.1).cmd.isSome) = true := by
    rw [hu, List.any_eq_true]
    exact hbusy
  rw [State.startRun_eq _ _ (xs := xs) (by rw [hu]; exact hxs), if_pos hany]

theorem State.startRun_free (hfree : ∀ x ∈ xs, (s.ctx x.1 x.2.1).cmd = none) (hc : (s.withGang c g l).cmd? c.id = some (c.placed g l)) :
    let t := (s.withGang c g l).startRun (c.placed g l)
    t.cmd? c.id = some { c with phase := .active, mapMask := c.mapMask ||| lanternMask l, gang := g, members := l } ∧
    t.lanterns = (s.startAll c xs).lanterns ∧ t.counters = s.counters.filter (fun k => k.cmd != c.id) ∧
    t = { s with cmds := t.cmds, lanterns := t.lanterns, counters := t.counters } := by
  obtain ⟨cmds, hu⟩ := s.withGang_frame c g l
  have hany : ¬ (xs.any fun x => ((s.withGang c g l).ctx x.1 x.2.1).cmd.isSome) = true := by
    rw [hu, List.any_eq_true]
    rintro ⟨x, hx, hsome⟩
    have hnone : ({ s with cmds := cmds }.ctx x.1 x.2.1).cmd = none := hfree x hx
    rw [hnone] at hsome
    cases hsome
  have hlanterns : ((s.withGang c g l).startAll (c.placed g l) xs).lanterns = (s.startAll c xs).lanterns :=
    State.foldl_startMember_congr c _ xs (by rw [hu])
  dsimp only
  rw [State.startRun_eq _ _ (xs := xs) (by rw [hu]; exact hxs), if_neg hany]
  refine ⟨?_, hlanterns, ?_, ?_⟩
  · rw [State.runStarted]
    exact (State.cmd?_updCmd_same _ c.id Cmd.started fun _ => rfl).trans (congrArg (Option.map Cmd.started) hc)
  · rw [hu]
    rfl
  · rw [hu]
    rfl

end Start

/-- Settles O21: once the stage has its gang, both commands come to the same start. -/
theorem runsStartOnGangs : Obligations.RunsStartOnGangs := by
  unfold Obligations.RunsStartOnGangs
  intro s c op i hi h
  have hexec := exec_runCommand hi h
  refine ⟨fun hop hbad => ?_, fun hst => ⟨fun st hm hkind hcheck => ?_, fun g l xs hg hxs => ⟨fun hbusy => ?_, fun hfree => ?_⟩⟩⟩
  · obtain ⟨-, -, rfl⟩ := h
    rw [hexec, State.opRun_badStages hop hbad]
  · rw [hexec, State.opRun_refused h hst hm hkind hcheck]
  · rw [hexec, State.opRun_starts h hst hg, State.startRun_busy hxs hbusy]
    rfl
  · exact ⟨_, hexec.trans (congrArg _ (State.opRun_starts h hst hg)), State.startRun_free hxs hfree (State.cmd?_placed h hg)⟩


/-! ### Write-backs (R89, R402, R432) -/

theorem State.Canonical.ingotsOrdered {s : State} (hc : s.Canonical) : Ordered s.ingots := by
  obtain ⟨-, -, -, -, -, -, h, -, -, -⟩ := hc.tabs
  exact h

theorem State.Canonical.banksOrdered {s : State} (hc : s.Canonical) : Ordered s.banks := by
  obtain ⟨-, -, -, -, -, h, -, -, -, -⟩ := hc.tabs
  exact h

theorem State.fld_bump_same (s : State) {off hi lo : Nat} (k : Nat) (hr : Rising s.regs) (hi32 : hi < 32) :
    (s.bump off hi lo k).fld off hi lo = min (2 ^ (hi + 1 - lo) - 1) (s.fld off hi lo + k) := by
  have hpos := Nat.two_pow_pos (hi + 1 - lo)
  rw [State.bump, State.fld_setFld_same _ _ _ _ _ hr hi32]
  exact Nat.mod_eq_of_lt (by omega)

/-- Poison changes the list of poisoned words alone. -/
theorem State.setPoison_frame (s : State) (da : Nat) : ∃ poison, s.setPoison da = { s with poison := poison } := by
  unfold State.setPoison
  dsimp only
  split
  · exact ⟨s.poison, rfl⟩
  · exact ⟨_, rfl⟩

theorem exec_ingotEccWriteback_none (s : State) (n : LnIx) : exec (.ingotEccWriteback ⟨n, .none⟩) s =
    .next (s.setIngotErr n { s.ingotErr n with writeback := (s.ingotErr n).writeback.drop 1 }) := rfl

theorem exec_ingotEccWriteback_upset (s : State) (n : LnIx) (off : BitVec 23) : exec (.ingotEccWriteback ⟨n, .upset off⟩) s =
    .next ((s.setPoison (ingotBase + mib8 * n + off.toNat)).setIngotErr n { s.ingotErr n with writeback := (s.ingotErr n).writeback.drop 1 }) := by
  obtain ⟨poison, hp⟩ := s.setPoison_frame (ingotBase + mib8 * n + off.toNat)
  have herr : (s.setPoison (ingotBase + mib8 * n + off.toNat)).ingotErr n = s.ingotErr n := by rw [hp, State.ingotErr, State.ingotErr]
  rw [← herr]
  rfl

/-- A corrected word is queued behind the others before the oldest is written back. -/
theorem exec_ingotEccWriteback_corrected {s : State} (hc : s.Canonical) (n : LnIx) (off : BitVec 23) :
    ∃ t, exec (.ingotEccWriteback ⟨n, .corrected off⟩) s = .next t ∧
      (t.ingotErr n).writeback = ((s.ingotErr n).writeback ++ [ingotBase + mib8 * n + off.toNat / 8 * 8]).drop 1 ∧
      t.fld (Reg.lnEcc n) 15 0 = min 0xFFFF (s.fld (Reg.lnEcc n) 15 0 + 1) ∧ SameRegs s t [Reg.lnEcc n] ∧
      t = { s with regs := t.regs, ingots := t.ingots } := by
  have hordered : Ordered (s.ingotCorrected n off.toNat).ingots := sparseSet_rising _ _ _ _ hc.ingotsOrdered
  have hqueued : ((s.ingotCorrected n off.toNat).ingotErr n).writeback =
      (s.ingotErr n).writeback ++ [ingotBase + mib8 * n + off.toNat / 8 * 8] := by
    rw [State.ingotCorrected, State.ingotErr_setIngotErr_same _ _ _ (by exact hc.ingotsOrdered)]
  refine ⟨_, rfl, ?_, s.fld_bump_same 1 hc.rising (by decide), fun o ho => s.reg_bump_other _ _ _ _ _ (by simpa using ho), rfl⟩
  rw [State.ingotErr_setIngotErr_same _ _ _ hordered, ← hqueued]

theorem exec_crucibleEccWriteback_upset (s : State) (k : CbIx) (off : BitVec 23) : exec (.crucibleEccWriteback ⟨k, .upset off⟩) s =
    .next ((s.setPoison (crucibleBase + mib8 * k + off.toNat)).setBank k { s.bank k with writeback := (s.bank k).writeback.drop 1 }) := by
  obtain ⟨poison, hp⟩ := s.setPoison_frame (crucibleBase + mib8 * k + off.toNat)
  have hbank : (s.setPoison (crucibleBase + mib8 * k + off.toNat)).bank k = s.bank k := by rw [hp, State.bank, State.bank]
  rw [← hbank]
  rfl

theorem exec_crucibleEccWriteback_corrected {s : State} (hc : s.Canonical) (k : CbIx) (off : BitVec 23) :
    ∃ t, exec (.crucibleEccWriteback ⟨k, .corrected off⟩) s = .next t ∧
      (t.bank k).writeback = ((s.bank k).writeback ++ [crucibleBase + mib8 * k + off.toNat / 8 * 8]).drop 1 ∧ t = { s with banks := t.banks } := by
  refine ⟨_, rfl, ?_, rfl⟩
  rw [State.bank_setBank_same _ _ _ (sparseSet_rising _ _ _ _ hc.banksOrdered), State.bank_setBank_same _ _ _ hc.banksOrdered]

/-! ### Self-tests (R97) -/

/-- A self-test of a unit, and f once it has passed. -/
def State.afterTest (s : State) (u : Nat) (ok : Bool) (f : State → State) : State :=
  if (s.selfTest u ok).2 then f (s.selfTest u ok).1 else (s.selfTest u ok).1

theorem State.afterTest_failed {s : State} {u : Nat} (h : s.failedTests.contains u = true) (ok : Bool) (f : State → State) :
    s.afterTest u ok f = s := by
  rw [State.afterTest, State.selfTest, if_pos h]
  rfl

section NotFailed

variable {s : State} {u : Nat} (h : s.failedTests.contains u = false) (f : State → State)
include h

theorem State.afterTest_fails : s.afterTest u false f = { s with failedTests := s.failedTests ++ [u] } := by
  simp only [State.afterTest, State.selfTest, h, Bool.false_eq_true, if_false]

theorem State.afterTest_passes : s.afterTest u true f = f s := by
  simp only [State.afterTest, State.selfTest, h, Bool.false_eq_true, if_false, if_true]

end NotFailed

/-- The state with some domains power-cycled. -/
def State.cycleDoms (s : State) (ds : List Nat) : State := ds.foldl (fun s d => s.cycleDom d) s

/-- An array whose self-test has passed serves again (R97). -/
def State.arrayBack (s : State) (n a : Nat) : State :=
  ((((s.setFlag Reg.arrayRuntimeMap (arrBit n a) false).mapMoved (BitVec.ofNat 32 (2 ^ arrBit n a))).clearLantern n .staleEpoch).cycleDoms
    [lnDom n, arrDom n false, arrDom n true, spillDom n]).sootEvent 0x1012 (BitVec.ofNat 64 n) none

/-- The scrub begins that ends the quarantine of a Lantern (R91, R97). -/
def State.lanternScrub (s : State) (n : Nat) : State :=
  (s.setIngotErr n { s.ingotErr n with ranges := [(ingotBase + mib8 * n, mib8)], readmit := true }).setFlag (Reg.lnStatus n) 30 true

/-- A Smelter whose self-test has passed serves again (R97, R209). -/
def State.smelterBack (s : State) (n : Nat) : State :=
  (((s.setFlag (Reg.smStatus n) 31 false).setSmelter n Smelter.reset).powerUp (smDom n)).sootEvent 0x2012 (BitVec.ofNat 64 n) none

theorem State.ingotErr_selfTest (s : State) (u n : Nat) (ok : Bool) : (s.selfTest u ok).1.ingotErr n = s.ingotErr n := by
  unfold State.selfTest
  split
  · rfl
  · split <;> rfl

theorem State.arrayReadmit_asks {s : State} {n a : Nat} (hmap : s.flag Reg.arrayRuntimeMap (arrBit n a) = true) (hidle : s.issuedAll n = [])
    (hquar : s.flag (Reg.lnStatus n) 31 = false) (ok : Bool) :
    s.arrayReadmit n a ok = s.afterTest (arrBit n a) ok fun s => s.arrayBack n a := by
  simp only [State.arrayReadmit, State.afterTest, hmap, hidle, hquar, List.isEmpty_nil, Bool.not_false, Bool.and_self, if_true]
  rcases s.selfTest (arrBit n a) ok with ⟨s0, _ | _⟩ <;> rfl

theorem State.lanternReadmit_asks {s : State} {n : Nat} (hquar : s.flag (Reg.lnStatus n) 31 = true) (hre : (s.ingotErr n).readmit = false) (ok : Bool) :
    s.lanternReadmit n ok = s.afterTest (32 + n) ok fun s => s.lanternScrub n := by
  have herr := s.ingotErr_selfTest (32 + n) n ok
  simp only [State.lanternReadmit, State.afterTest, State.lanternScrub, hquar, hre, herr, Bool.not_false, Bool.and_self, if_true]
  rcases s.selfTest (32 + n) ok with ⟨s0, _ | _⟩ <;> rfl

theorem State.smelterReadmit_asks {s : State} {n : Nat} (hquar : s.flag (Reg.smStatus n) 31 = true) (ok : Bool) :
    s.smelterReadmit n ok = s.afterTest (64 + n) ok fun s => s.smelterBack n := by
  simp only [State.smelterReadmit, State.afterTest, hquar, if_true]
  rcases s.selfTest (64 + n) ok with ⟨s0, _ | _⟩ <;> rfl

/-- Every re-admission begins with the self-test of its unit. -/
theorem exec_readmit {s : State} {u : Nat} {ok : Bool} {c : Instr}
    (h : (∃ (n : LnIx) (x : ArrayId), c = .arrayReadmit n x ok ∧ u = arrBit n (arrIx x) ∧ s.flag Reg.arrayRuntimeMap u = true ∧ s.issuedAll n = [] ∧
        s.flag (Reg.lnStatus n) 31 = false) ∨
      (∃ n : LnIx, c = .lanternReadmit n ok ∧ u = 32 + n.val ∧ s.flag (Reg.lnStatus n) 31 = true ∧ (s.ingotErr n).readmit = false) ∨
      (∃ n : SmIx, c = .smelterReadmit n ok ∧ u = 64 + n.val ∧ s.flag (Reg.smStatus n) 31 = true)) :
    ∃ f, exec c s = .next (s.afterTest u ok f) := by
  rcases h with ⟨n, x, rfl, rfl, hmap, hidle, hquar⟩ | ⟨n, rfl, rfl, hquar, hre⟩ | ⟨n, rfl, rfl, hquar⟩
  · exact ⟨_, congrArg _ (State.arrayReadmit_asks hmap hidle hquar ok)⟩
  · exact ⟨_, congrArg _ (State.lanternReadmit_asks hquar hre ok)⟩
  · exact ⟨_, congrArg _ (State.smelterReadmit_asks hquar ok)⟩

/-! ### Epochs (R384) -/

theorem State.epoch_congr {s t : State} {d : Nat} (h : t.reg (Reg.pdEpoch (d / 4)) = s.reg (Reg.pdEpoch (d / 4))) : t.epoch d = s.epoch d := by
  rw [State.epoch, State.epoch, State.fld, State.fld, h]

theorem State.epoch_windowGap (s : State) (d e : Nat) : (s.windowGap d).epoch e = s.epoch e := State.epoch_congr (s.reg_windowGap d _)

theorem nextEpoch_lt {e : Nat} (h : e < 256) : nextEpoch e < 256 := by
  unfold nextEpoch
  split <;> omega

theorem State.epoch_bumpEpoch_same (s : State) (d : Nat) (hr : Rising s.regs) : ((s.bumpEpoch d).epoch d).toNat = nextEpoch (s.epoch d).toNat := by
  have hw : d % 4 * 8 + 7 + 1 - d % 4 * 8 = 8 := by omega
  have hlt := nextEpoch_lt (s.epoch d).isLt
  rw [State.epoch, State.bumpEpoch, State.fld_setFld_same _ _ _ _ _ hr (by omega), hw, BitVec.toNat_ofNat]
  omega

theorem State.epoch_bumpEpoch_other (s : State) {d e : Nat} (h : e ≠ d) (hr : Rising s.regs) : (s.bumpEpoch d).epoch e = s.epoch e := by
  by_cases hreg : e / 4 = d / 4
  · rw [State.epoch, State.bumpEpoch, State.fld, hreg, State.reg_setFld_same _ _ _ _ _ hr,
      bitsOf_setBits_other _ _ _ _ _ _ (by omega) (by omega), State.epoch, State.fld, hreg]
  · refine State.epoch_congr (State.reg_setFld_other _ _ _ _ _ _ ?_)
    unfold Reg.pdEpoch
    omega

/-- A register is not one of the epochs of the 120 domains. -/
def NotEpoch (o : Nat) : Prop := ∀ d < 120, o ≠ Reg.pdEpoch (d / 4)

theorem notEpoch_of_outside {o : Nat} (h : o < Reg.pdEpoch 0 ∨ Reg.pdEpoch 30 ≤ o) : NotEpoch o := fun d hd => by
  unfold Reg.pdEpoch at h ⊢
  omega

theorem notEpoch_pdState {d : Nat} (h : d < 120) : NotEpoch (Reg.pdState (d / 16)) :=
  notEpoch_of_outside (.inl (by unfold Reg.pdState Reg.pdEpoch; omega))

/-- A power cycle is a new epoch in a window that has a gap. -/
theorem State.cycleDom_on {s : State} {d : Nat} (h : s.domOn d = true) : s.cycleDom d = (s.bumpEpoch d).windowGap d := if_pos h

theorem State.cycleDom_off {s : State} {d : Nat} (h : ¬ s.domOn d = true) : s.cycleDom d = s := if_neg h

theorem State.cycleDom_frame (s : State) (d : Nat) : s.cycleDom d = { s with regs := (s.cycleDom d).regs, fabric := (s.cycleDom d).fabric } := by
  unfold State.cycleDom
  split <;> rfl

theorem State.cycleDom_rising {s : State} (hr : Rising s.regs) (d : Nat) : Rising (s.cycleDom d).regs := by
  unfold State.cycleDom
  split
  · exact State.setFld_rising _ _ _ _ _ hr
  · exact hr

theorem State.reg_cycleDom (s : State) {d : Nat} (hd : d < 120) {o : Nat} (h : NotEpoch o) : (s.cycleDom d).reg o = s.reg o := by
  unfold State.cycleDom
  split
  · rw [State.reg_windowGap]
    exact State.reg_setFld_other _ _ _ _ _ _ (h _ hd)
  · rfl

theorem State.epoch_cycleDom_same {s : State} (hr : Rising s.regs) {d : Nat} (h : s.domOn d = true) :
    ((s.cycleDom d).epoch d).toNat = nextEpoch (s.epoch d).toNat := by
  rw [State.cycleDom_on h, State.epoch_windowGap, State.epoch_bumpEpoch_same s d hr]

theorem State.epoch_cycleDom_other {s : State} (hr : Rising s.regs) {d e : Nat} (h : e ≠ d) : (s.cycleDom d).epoch e = s.epoch e := by
  unfold State.cycleDom
  split
  · rw [State.epoch_windowGap, s.epoch_bumpEpoch_other h hr]
  · rfl

theorem State.cycleDoms_frame (s : State) (ds : List Nat) :
    s.cycleDoms ds = { s with regs := (s.cycleDoms ds).regs, fabric := (s.cycleDoms ds).fabric } := by
  induction ds generalizing s with
  | nil => rfl
  | cons d ds ih =>
    have hfirst := s.cycleDom_frame d
    exact (ih (s.cycleDom d)).trans (congrArg (fun u : State =>
      { u with regs := (s.cycleDoms (d :: ds)).regs, fabric := (s.cycleDoms (d :: ds)).fabric }) hfirst)

theorem State.reg_cycleDoms (s : State) {ds : List Nat} (hds : ∀ d ∈ ds, d < 120) {o : Nat} (h : NotEpoch o) : (s.cycleDoms ds).reg o = s.reg o := by
  induction ds generalizing s with
  | nil => rfl
  | cons d ds ih =>
    exact (ih (s.cycleDom d) fun e he => hds e (List.mem_cons_of_mem _ he)).trans (s.reg_cycleDom (hds d List.mem_cons_self) h)

theorem State.epoch_cycleDoms_other {s : State} (hr : Rising s.regs) {ds : List Nat} {e : Nat} (h : e ∉ ds) : (s.cycleDoms ds).epoch e = s.epoch e := by
  induction ds generalizing s with
  | nil => rfl
  | cons d ds ih =>
    have hrest := ih (State.cycleDom_rising hr d) (List.not_mem_of_not_mem_cons h)
    exact hrest.trans (State.epoch_cycleDom_other hr (List.ne_of_not_mem_cons h))

/-- A domain that is cycled once among others takes its next epoch. -/
theorem State.epoch_cycleDoms_head {s : State} (hr : Rising s.regs) {d : Nat} {ds : List Nat} (h : d ∉ ds) (hon : s.domOn d = true) :
    ((s.cycleDoms (d :: ds)).epoch d).toNat = nextEpoch (s.epoch d).toNat := by
  have hrest : ((s.cycleDom d).cycleDoms ds).epoch d = (s.cycleDom d).epoch d := State.epoch_cycleDoms_other (State.cycleDom_rising hr d) h
  exact (congrArg BitVec.toNat hrest).trans (State.epoch_cycleDom_same hr hon)

/-! ### ARRAY_READMIT (R97) -/

/-- The logic domain of a Lantern on which no RUN is active loses its state, its tickets and its RMOs. -/
theorem State.clearLantern_idle {s : State} {n : Nat} (h : ∀ c ∈ (s.lantern n).ctxs, c.cmd = none) (st : Status) : ∃ rmos counters,
    s.clearLantern n st = { s with lanterns := (s.setLantern n Lantern.reset).lanterns, rmos := rmos, counters := counters } := by
  have hids : (s.lantern n).ctxs.filterMap (fun c => c.cmd) = [] := List.filterMap_eq_nil_iff.mpr h
  simp only [State.clearLantern, hids, List.foldl_nil]
  exact ⟨_, _, rfl⟩

theorem arrBit_lt (n : LnIx) (x : ArrayId) : arrBit n (arrIx x) < 32 := by
  have := n.isLt
  cases x <;> simp only [arrBit, arrIx] <;> omega

/-- The state of a re-admitted array before its domains are cycled. -/
def State.arrayCleared (s : State) (n a : Nat) : State :=
  ((s.setFlag Reg.arrayRuntimeMap (arrBit n a) false).mapMoved (BitVec.ofNat 32 (2 ^ arrBit n a))).clearLantern n .staleEpoch

theorem State.arrayCleared_frame {s : State} {n : Nat} (h : ∀ c ∈ (s.lantern n).ctxs, c.cmd = none) (a : Nat) : ∃ rmos counters,
    s.arrayCleared n a = { s with
      regs := (s.setFlag Reg.arrayRuntimeMap (arrBit n a) false).regs
      cmds := (s.mapMoved (BitVec.ofNat 32 (2 ^ arrBit n a))).cmds
      lanterns := (s.setLantern n Lantern.reset).lanterns
      rmos := rmos
      counters := counters } :=
  State.clearLantern_idle (s := (s.setFlag Reg.arrayRuntimeMap (arrBit n a) false).mapMoved (BitVec.ofNat 32 (2 ^ arrBit n a))) h .staleEpoch

/-- The domains that ARRAY_READMIT cycles. -/
def arrayDoms (n : Nat) : List Nat := [lnDom n, arrDom n false, arrDom n true, spillDom n]

theorem ingotDom_not_mem_arrayDoms (n : Nat) : ingotDom n ∉ arrayDoms n := by
  simp [arrayDoms, ingotDom, lnDom, arrDom, spillDom, boolNat]

theorem lnDom_not_mem_tail (n : Nat) : lnDom n ∉ [arrDom n false, arrDom n true, spillDom n] := by
  simp [lnDom, arrDom, spillDom, boolNat]
  omega

theorem State.arrayBack_eq (s : State) (n a : Nat) :
    s.arrayBack n a = ((s.arrayCleared n a).cycleDoms (arrayDoms n)).sootEvent 0x1012 (BitVec.ofNat 64 n) none := rfl

theorem State.flag_setFlag_other (s : State) {off i j : Nat} (b : Bool) (hr : Rising s.regs) (hi : i < 32) (h : j ≠ i) :
    (s.setFlag off i b).flag off j = s.flag off j := by
  rw [State.flag, State.setFlag, State.reg_setFld_same _ _ _ _ _ hr]
  exact bitOf_setBits_other _ _ _ _ _ hi (by omega)

theorem notEpoch_arrayRuntimeMap : NotEpoch Reg.arrayRuntimeMap := notEpoch_of_outside (.inl (by decide))

theorem notEpoch_sootDrop : NotEpoch Reg.sootDrop := notEpoch_of_outside (.inr (by decide))

theorem arrayDoms_lt (n : LnIx) : ∀ d ∈ arrayDoms n, d < 120 := by
  have := n.isLt
  simp [arrayDoms, lnDom, arrDom, spillDom, boolNat]
  omega

section ArrayBack

variable {s : State} (n : LnIx) (x : ArrayId)

/-- The epoch of a domain of a re-admitted Lantern is the one after the cycle. -/
theorem State.epoch_arrayBack {d : Nat} (hd : d < 120) :
    (s.arrayBack n (arrIx x)).epoch d = ((s.arrayCleared n (arrIx x)).cycleDoms (arrayDoms n)).epoch d :=
  State.epoch_congr (State.reg_sootEvent _ _ _ _ _ (notEpoch_sootDrop d hd).symm)

variable (hidle : ∀ c ∈ (s.lantern n).ctxs, c.cmd = none)
include hidle

/-- Registers of a re-admitted array other than epochs and SOOT_DROP: ARRAY_RUNTIME_MAP alone is new. -/
theorem State.reg_arrayBack {o : Nat} (hepoch : NotEpoch o) (hdrop : o ≠ Reg.sootDrop) :
    (s.arrayBack n (arrIx x)).reg o = (s.setFlag Reg.arrayRuntimeMap (arrBit n (arrIx x)) false).reg o := by
  obtain ⟨rmos, counters, hclear⟩ := State.arrayCleared_frame hidle (arrIx x)
  rw [State.arrayBack_eq, State.reg_sootEvent _ _ _ _ _ hdrop, State.reg_cycleDoms _ (arrayDoms_lt n) hepoch, hclear]
  exact State.reg_congr rfl o

theorem State.arrayBack_frame : (s.arrayBack n (arrIx x)).lanterns = (s.setLantern n Lantern.reset).lanterns ∧ (s.arrayBack n (arrIx x)).mem = s.mem ∧
    (s.arrayBack n (arrIx x)).cmds = (s.mapMoved (BitVec.ofNat 32 (2 ^ arrBit n (arrIx x)))).cmds := by
  obtain ⟨rmos, counters, hclear⟩ := State.arrayCleared_frame hidle (arrIx x)
  rw [State.arrayBack_eq, State.sootEvent_mem, State.sootEvent_lanterns, State.sootEvent_cmds, State.cycleDoms_frame, hclear]
  exact ⟨rfl, rfl, rfl⟩

variable (hc : s.Canonical)
include hc

theorem State.arrayCleared_regs : Rising (s.arrayCleared n (arrIx x)).regs ∧
    ∀ o, o ≠ Reg.arrayRuntimeMap → (s.arrayCleared n (arrIx x)).reg o = s.reg o := by
  obtain ⟨rmos, counters, hclear⟩ := State.arrayCleared_frame hidle (arrIx x)
  rw [hclear]
  exact ⟨s.setFlag_rising _ _ _ hc.rising, fun o ho => s.reg_setFlag_other _ _ _ _ ho⟩

/-- What ARRAY_READMIT leaves once the self-test has passed (R97). -/
theorem State.arrayBack_spec : let t := s.arrayBack n (arrIx x)
    t.flag Reg.arrayRuntimeMap (arrBit n (arrIx x)) = false ∧
    (∀ i, i ≠ arrBit n (arrIx x) → t.flag Reg.arrayRuntimeMap i = s.flag Reg.arrayRuntimeMap i) ∧
    (s.domOn (lnDom n) = true → (t.epoch (lnDom n)).toNat = nextEpoch (s.epoch (lnDom n)).toNat) ∧ t.epoch (ingotDom n) = s.epoch (ingotDom n) := by
  have hn := n.isLt
  have hbit := arrBit_lt n x
  have hln : lnDom n < 120 := by unfold lnDom; omega
  have hingot : ingotDom n < 120 := by unfold ingotDom; omega
  have hmap := State.reg_arrayBack n x hidle notEpoch_arrayRuntimeMap (by decide)
  obtain ⟨hrising, hregs⟩ := State.arrayCleared_regs n x hidle hc
  have hepoch : ∀ d < 120, (s.arrayCleared n (arrIx x)).epoch d = s.epoch d := fun d hd => State.epoch_congr (hregs _ (notEpoch_arrayRuntimeMap d hd).symm)
  refine ⟨?_, fun i hi => ?_, fun hon => ?_, ?_⟩
  · rw [State.flag, hmap]
    exact s.flag_setFlag_same _ _ _ hc.rising hbit
  · rw [State.flag, hmap]
    exact s.flag_setFlag_other _ hc.rising hbit hi
  · have hdom : (s.arrayCleared n (arrIx x)).domOn (lnDom n) = true := by
      rw [State.domOn, State.domState_congr_reg (hregs _ (by unfold Reg.pdState Reg.arrayRuntimeMap; omega))]
      exact hon
    rw [State.epoch_arrayBack n x hln, ← hepoch _ hln]
    exact State.epoch_cycleDoms_head hrising (lnDom_not_mem_tail n) hdom
  · rw [State.epoch_arrayBack n x hingot, State.epoch_cycleDoms_other hrising (ingotDom_not_mem_arrayDoms n), hepoch _ hingot]

end ArrayBack

/-! ### Smelters and banks (R97, R209, R381, R402) -/

theorem State.powerUp_off {s : State} {d : Nat} (h : ¬ s.domOn d = true) : s.powerUp d = ((s.setDom d 1).bumpEpoch d).windowGap d := if_neg h

/-- A domain that comes up takes its next epoch. -/
theorem State.powerUp_off_spec {s : State} (hr : Rising s.regs) {d : Nat} (hd : d < 120) (h : s.domState d = 0) : (s.powerUp d).domState d = 1 ∧
    ((s.powerUp d).epoch d).toNat = nextEpoch (s.epoch d).toNat ∧
    (∀ o, NotEpoch o → o ≠ Reg.pdState (d / 16) → (s.powerUp d).reg o = s.reg o) ∧
    s.powerUp d = { s with regs := (s.powerUp d).regs, fabric := (s.powerUp d).fabric } := by
  have hoff : ¬ s.domOn d = true := by
    rw [State.domOn, h]
    decide
  have hon := s.domOn_powerUp hd hr
  have hepoch : (s.setDom d 1).epoch d = s.epoch d := State.epoch_congr (s.reg_setFld_other _ _ _ _ _ (notEpoch_pdState hd d hd).symm)
  rw [State.powerUp_off hoff] at hon ⊢
  refine ⟨by simpa [State.domOn] using hon, ?_, fun o hepoch hstate => ?_, rfl⟩
  · rw [State.epoch_windowGap, State.epoch_bumpEpoch_same _ d (by exact s.setFld_rising _ _ _ _ hr), hepoch]
  · rw [State.reg_windowGap, State.bumpEpoch, State.reg_setFld_other _ _ _ _ _ _ (hepoch d hd), State.setDom,
      State.reg_setFld_other _ _ _ _ _ _ hstate]

/-- A Smelter out of quarantine, before it is powered. -/
def State.quarEnded (s : State) (n : Nat) : State := (s.setFlag (Reg.smStatus n) 31 false).setSmelter n Smelter.reset

theorem State.smelterBack_eq (s : State) (n : Nat) :
    s.smelterBack n = ((s.quarEnded n).powerUp (smDom n)).sootEvent 0x2012 (BitVec.ofNat 64 n) none := rfl

/-- What SMELTER_READMIT leaves once the self-test has passed (R97, R209). -/
theorem State.smelterBack_spec {s : State} (hc : s.Canonical) (n : SmIx) (hoff : s.domState (smDom n) = 0) : let t := s.smelterBack n
    t.flag (Reg.smStatus n) 31 = false ∧ t.domState (smDom n) = 1 ∧ (t.epoch (smDom n)).toNat = nextEpoch (s.epoch (smDom n)).toNat ∧
    t = { s with regs := t.regs, smelters := t.smelters, fabric := t.fabric, soot := t.soot, freeCtr := t.freeCtr } := by
  have hn := n.isLt
  have hdom : smDom n < 120 := by unfold smDom; omega
  have hepoch : NotEpoch (Reg.smStatus n) := notEpoch_of_outside (.inr (by unfold Reg.pdEpoch Reg.smStatus; omega))
  have hstate : Reg.smStatus n ≠ Reg.pdState (smDom n / 16) := by unfold Reg.pdState Reg.smStatus; omega
  have hdrop : Reg.smStatus n ≠ Reg.sootDrop := by unfold Reg.sootDrop Reg.smStatus; omega
  have hr : Rising (s.quarEnded n).regs := s.setFlag_rising _ _ _ hc.rising
  have hoff' : (s.quarEnded n).domState (smDom n) = 0 := (State.domState_congr_reg (s.reg_setFlag_other _ _ _ _ hstate.symm)).trans hoff
  have hsame : (s.quarEnded n).epoch (smDom n) = s.epoch (smDom n) := State.epoch_congr (s.reg_setFlag_other _ _ _ _ (hepoch _ hdom).symm)
  obtain ⟨hon, hnew, hregs, hframe⟩ := State.powerUp_off_spec hr hdom hoff'
  refine ⟨?_, ?_, ?_, ?_⟩
  · rw [State.smelterBack_eq, State.flag, State.reg_sootEvent _ _ _ _ _ hdrop, hregs _ hepoch hstate]
    exact s.flag_setFlag_same _ _ _ hc.rising (by decide)
  · rw [State.smelterBack_eq, State.domState_congr_reg (State.reg_sootEvent _ _ _ _ _ (by unfold Reg.pdState Reg.sootDrop; omega)), hon]
  · rw [State.smelterBack_eq, State.epoch_congr (State.reg_sootEvent _ _ _ _ _ (notEpoch_sootDrop _ hdom).symm), hnew, hsame]
  · rw [State.smelterBack_eq, State.sootEvent_eq, hframe]
    rfl


/-- CRUCIBLE_BANK_READMIT powers the bank's domain, which is off (R381, R402). -/
theorem exec_crucibleBankReadmit {s : State} {k : CbIx} (hquar : (s.bank k).quarantined = true) (hoff : s.domOn (cbDom k) = false) :
    exec (.crucibleBankReadmit k true) s = .next ((((((s.setBank k Bank.reset).setDom (cbDom k) 1).bumpEpoch (cbDom k)).windowGap
      (cbDom k)).undefRange (crucibleBase + mib8 * k) mib8).sootEvent 0x0112 (BitVec.ofNat 64 k) none) := by
  have hdom : ¬ (s.setBank k Bank.reset).domOn (cbDom k) = true := by
    have hsame : (s.setBank k Bank.reset).domOn (cbDom k) = s.domOn (cbDom k) := State.domOn_congr rfl _
    rw [hsame, hoff]
    decide
  have hback : s.bankReadmit k true =
      (((s.setBank k Bank.reset).powerUp (cbDom k)).undefRange (crucibleBase + mib8 * k) mib8).sootEvent 0x0112 (BitVec.ofNat 64 k) none := by
    simp only [State.bankReadmit, hquar, Bool.and_self, if_true]
  rw [← State.powerUp_off hdom, ← hback]
  rfl

/-! ### A range after its scrub (R91, R260) -/

section ZeroRange

variable {da len a : Nat}

theorem tabFind_filter_kept {m : List Host.Cell} {p : Host.Cell → Bool} (h : ∀ e, e.1 = a → p e = true) : tabFind (m.filter p) a = tabFind m a := by
  have hsame : (fun e : Host.Cell => decide (p e = true ∧ (e.1 == a) = true)) = fun e => e.1 == a := funext fun e => by
    by_cases he : e.1 = a
    · simp [h e he, he]
    · simp [he]
  rw [tabFind, List.find?_filter, hsame, tabFind]

theorem tabFind_filter_dropped {m : List Host.Cell} {p : Host.Cell → Bool} (h : ∀ e, e.1 = a → p e = false) : tabFind (m.filter p) a = none := by
  have hnone : (m.filter p).find? (fun e => e.1 == a) = none := List.find?_eq_none.mpr fun e he ha => by
    have := h e (eq_of_beq ha)
    simp [this] at he
  rw [tabFind, hnone]
  rfl

/-- A piece left outside a range shows the bytes of its whole there, and none of the range. -/
theorem Undef.of_mem_minus {u v : Undef} (h : v ∈ u.minus da len) : v.byte a = u.byte a ∧
    (v.has a = true → u.has a = true ∧ (a < da ∨ da + len ≤ a)) := by
  unfold Undef.minus at h
  rcases List.mem_append.mp h with h | h
  · split at h
    · obtain rfl := List.mem_singleton.mp h
      exact ⟨rfl, by simp only [Undef.has, Bool.and_eq_true, decide_eq_true_eq]; omega⟩
    · simp at h
  · split at h
    · obtain rfl := List.mem_singleton.mp h
      exact ⟨rfl, by simp only [Undef.has, Bool.and_eq_true, decide_eq_true_eq]; omega⟩
    · simp at h

/-- An undefined range in the place of its remainder, for an address outside. -/
theorem Undef.find_minus (u : Undef) (h : a < da ∨ da + len ≤ a) :
    (undefFind (u.minus da len) a).map (fun v => v.byte a) = if u.has a then some (u.byte a) else none := by
  cases hf : undefFind (u.minus da len) a with
  | none =>
    have hnot : ¬ u.has a = true := fun hu => by
      obtain ⟨v, hv, hva⟩ := minus_has [u] da len a h ⟨u, List.mem_singleton_self u, hu⟩
      exact List.find?_eq_none.mp hf v (by simpa using hv) hva
    rw [if_neg hnot]
    rfl
  | some v =>
    obtain ⟨hbyte, hhas⟩ := Undef.of_mem_minus (a := a) (List.mem_of_find?_eq_some hf)
    obtain ⟨hu, -⟩ := hhas (List.find?_some (p := fun v : Undef => v.has a) hf)
    rw [if_pos hu, Option.map_some, hbyte]

theorem unlistedByte_eq (us : List Undef) (a : Nat) : unlistedByte us a = ((undefFind us a).map fun u => u.byte a).getD memDefault := by
  unfold unlistedByte
  cases undefFind us a <;> rfl

theorem undefFind_cons (u : Undef) (us : List Undef) (a : Nat) : undefFind (u :: us) a = if u.has a then some u else undefFind us a := by
  rw [undefFind, List.find?_cons]
  cases u.has a <;> rfl

theorem undefFind_append (us vs : List Undef) (a : Nat) : undefFind (us ++ vs) a = (undefFind us a).or (undefFind vs a) := List.find?_append

/-- Outside a range, cutting it out of the undefined ranges changes no byte. -/
theorem undefFind_minus (us : List Undef) (h : a < da ∨ da + len ≤ a) :
    (undefFind (us.map (Undef.minus da len)).flatten a).map (fun u => u.byte a) = (undefFind us a).map fun u => u.byte a := by
  induction us with
  | nil => rfl
  | cons u us ih =>
    have hu := u.find_minus h
    rw [List.map_cons, List.flatten_cons, undefFind_append, undefFind_cons]
    by_cases hhas : u.has a = true
    · obtain ⟨v, hv, hbyte⟩ := Option.map_eq_some_iff.mp (hu.trans (if_pos hhas))
      rw [hv, Option.some_or, if_pos hhas, Option.map_some, Option.map_some, hbyte]
    · have hnone := Option.map_eq_none_iff.mp (hu.trans (if_neg hhas))
      rw [hnone, Option.none_or, if_neg hhas, ih]

/-- Inside the range, no undefined range is left. -/
theorem undefFind_minus_inside (us : List Undef) (hlo : da ≤ a) (hhi : a < da + len) : undefFind (us.map (Undef.minus da len)).flatten a = none := by
  refine List.find?_eq_none.mpr fun v hv hva => ?_
  obtain ⟨u, -, hv⟩ := List.mem_flatMap.mp (by rwa [List.flatMap_def])
  obtain ⟨-, hhas⟩ := Undef.of_mem_minus (a := a) hv
  obtain ⟨-, hout⟩ := hhas hva
  omega

theorem State.memByte_congr {s t : State} (hm : t.mem = s.mem) (hu : t.undef = s.undef) (a : Nat) : t.memByte a = s.memByte a := by
  rw [memByte_eq, memByte_eq, hm, hu]

/-- A scrub of a range changes device memory, the undefined ranges, poison, write-backs and what waits on words alone. -/
theorem State.zeroRange_frame (s : State) (da len : Nat) : ∃ poison ingots banks rmos, s.zeroRange da len = { s with
    mem := s.mem.filter fun e => !(decide (da ≤ e.1) && decide (e.1 < da + len))
    undef := (s.undef.map (Undef.minus da len)).flatten
    poison := poison
    ingots := ingots
    banks := banks
    rmos := rmos } := by
  unfold State.zeroRange
  dsimp only
  obtain ⟨rmos, htest⟩ := State.retest_eq (State.cancelBack _ da len) da len
  rw [htest]
  obtain ⟨ingots, banks, hback⟩ := State.cancelBack_eq _ da len
  rw [hback]
  exact ⟨_, ingots, banks, rmos, rfl⟩

/-- Every byte of a scrubbed range is zero (R91). -/
theorem State.memByte_zeroRange_inside (s : State) (hlo : da ≤ a) (hhi : a < da + len) : (s.zeroRange da len).memByte a = 0 := by
  obtain ⟨poison, ingots, banks, rmos, h⟩ := s.zeroRange_frame da len
  have hlisted : tabFind (s.mem.filter fun e => !(decide (da ≤ e.1) && decide (e.1 < da + len))) a = none :=
    tabFind_filter_dropped fun e he => by simp [he, hlo, hhi]
  rw [h, memByte_eq, byteOf, hlisted, unlistedByte_eq, undefFind_minus_inside _ hlo hhi]
  rfl

theorem State.memByte_zeroRange_outside (s : State) (hout : a < da ∨ da + len ≤ a) : (s.zeroRange da len).memByte a = s.memByte a := by
  obtain ⟨poison, ingots, banks, rmos, h⟩ := s.zeroRange_frame da len
  have hlisted : tabFind (s.mem.filter fun e => !(decide (da ≤ e.1) && decide (e.1 < da + len))) a = tabFind s.mem a :=
    tabFind_filter_kept fun e he => by
      subst he
      simp only [Bool.not_eq_true', Bool.and_eq_false_iff, decide_eq_false_iff_not]
      omega
  rw [h, memByte_eq, byteOf, hlisted, unlistedByte_eq, undefFind_minus _ hout, ← unlistedByte_eq, memByte_eq, byteOf]

end ZeroRange

/-- The swap waits for no scrub of a unit. -/
theorem State.unitScrubbed_none {s : State} {i : Nat} (h : ∀ r, s.swap.current = some r → r.scrubs.contains i = false) : s.unitScrubbed i = s := by
  unfold State.unitScrubbed
  cases hcur : s.swap.current with
  | none => rfl
  | some r => simp only [h r hcur, Bool.false_eq_true, if_false]

/-- An Ingot after a scrub of one range that ends no quarantine. -/
theorem State.ingotScrubbed_one {s : State} {n da len : Nat} (hranges : (s.ingotErr n).ranges = [(da, len)]) (hre : (s.ingotErr n).readmit = false) :
    ∃ e, s.ingotScrubbed n = ((s.zeroRange da len).setIngotErr n e).setFlag (Reg.lnStatus n) 30 false := by
  simp only [State.ingotScrubbed, hranges, hre, List.foldl_cons, List.foldl_nil, Bool.false_eq_true, if_false]
  exact ⟨_, rfl⟩

/-- SCRUB_COMPLETE of an Ingot with one range zeroes that range alone (R91). -/
theorem exec_scrubComplete_ingot {s : State} (hc : s.Canonical) {n : LnIx} {da len : Nat} (hranges : (s.ingotErr n).ranges = [(da, len)])
    (hre : (s.ingotErr n).readmit = false) (hswap : ∀ r, s.swap.current = some r → r.scrubs.contains n.val = false) :
    ∃ t, exec (.scrubComplete (.ingot n)) s = .next t ∧ t.flag (Reg.lnStatus n) 30 = false ∧
      (∀ a, da ≤ a → a < da + len → t.memByte a = 0) ∧ SameMemBut s t da len ∧ t.parts = s.parts ∧ t.host = s.host := by
  obtain ⟨e, hdone⟩ := State.ingotScrubbed_one hranges hre
  obtain ⟨poison, ingots, banks, rmos, hzero⟩ := s.zeroRange_frame da len
  have hkeep : (((s.zeroRange da len).setIngotErr n e).setFlag (Reg.lnStatus n) 30 false).unitScrubbed n =
      ((s.zeroRange da len).setIngotErr n e).setFlag (Reg.lnStatus n) 30 false :=
    State.unitScrubbed_none (by rw [hzero]; exact hswap)
  have hexec : exec (.scrubComplete (.ingot n)) s = .next (((s.zeroRange da len).setIngotErr n e).setFlag (Reg.lnStatus n) 30 false) := by
    rw [← hkeep, ← hdone]
    rfl
  have hbyte (a : Nat) : (((s.zeroRange da len).setIngotErr n e).setFlag (Reg.lnStatus n) 30 false).memByte a = (s.zeroRange da len).memByte a :=
    State.memByte_congr rfl rfl a
  refine ⟨_, hexec, State.flag_setFlag_same _ _ _ _ ?_ (by decide), fun a hlo hhi => ?_, fun a hout => ?_, ?_, ?_⟩
  · rw [hzero]
    exact hc.rising
  · rw [hbyte, s.memByte_zeroRange_inside hlo hhi]
  · rw [hbyte, s.memByte_zeroRange_outside hout]
  · rw [hzero]
    rfl
  · rw [hzero]
    rfl

/-! ### The reset of one unit (R387) -/

theorem sparseGet_filter_kept {d : Word} {p : Nat × Word → Bool} {k : Nat} (h : ∀ e, e.1 = k → p e = true) (l : List (Nat × Word)) :
    sparseGet d (l.filter p) k = sparseGet d l k := by
  rw [← List.filterMap_eq_filter]
  refine sparseGet_filterMap_kept (fun e e' he => ?_) (fun e he => ?_) l
  · obtain ⟨rfl, -⟩ := Option.guard_eq_some_iff.mp he
    rfl
  · exact Option.guard_eq_some_iff.mpr ⟨rfl, h e he⟩

theorem sparseGet_filter_dropped {d : Word} {p : Nat × Word → Bool} {k : Nat} (h : ∀ e, e.1 = k → p e = false) (l : List (Nat × Word)) :
    sparseGet d (l.filter p) k = d := by
  rw [← List.filterMap_eq_filter]
  refine sparseGet_filterMap_dropped (fun e e' he => ?_) (fun e he => ?_) l
  · obtain ⟨rfl, -⟩ := Option.guard_eq_some_iff.mp he
    rfl
  · exact Option.guard_eq_none_iff.mpr (h e he)

section ResetRegs

variable (s : State) {base len keep stat : Nat}

/-- The registers left by a unit reset, before the bit that it keeps. -/
def keptRegs (regs : List (Nat × Word)) (base len keep : Nat) : List (Nat × Word) :=
  regs.filter fun e => !(decide (base ≤ e.1) && decide (e.1 < base + len)) || e.1 == keep

theorem State.resetRegs_cases (base len keep stat : Nat) :
    s.resetRegs base len keep stat = { s with regs := keptRegs s.regs base len keep } ∨
    s.resetRegs base len keep stat = ({ s with regs := keptRegs s.regs base len keep } : State).setFlag stat 31 true := by
  unfold State.resetRegs
  dsimp only
  split
  · exact .inr rfl
  · exact .inl rfl

theorem State.resetRegs_frame (base len keep stat : Nat) :
    s.resetRegs base len keep stat = { s with regs := (s.resetRegs base len keep stat).regs } := by
  rcases s.resetRegs_cases base len keep stat with h | h <;> rw [h] <;> rfl

variable {s} in
theorem State.resetRegs_rising (hr : Rising s.regs) (base len keep stat : Nat) : Rising (s.resetRegs base len keep stat).regs := by
  have hkept : Rising (keptRegs s.regs base len keep) := hr.filter _
  rcases s.resetRegs_cases base len keep stat with h | h <;> rw [h]
  · exact hkept
  · exact State.setFlag_rising _ _ _ _ hkept

variable {o : Nat}

theorem State.reg_resetRegs (h : o ≠ stat) : (s.resetRegs base len keep stat).reg o = sparseGet (resetWord o) (keptRegs s.regs base len keep) o := by
  rcases s.resetRegs_cases base len keep stat with hreset | hreset <;> rw [hreset]
  · rfl
  · exact State.reg_setFlag_other _ _ _ _ _ h

theorem State.reg_resetRegs_inside (hlo : base ≤ o) (hhi : o < base + len) (hkeep : o ≠ keep) (h : o ≠ stat) :
    (s.resetRegs base len keep stat).reg o = resetWord o := by
  rw [s.reg_resetRegs h]
  exact sparseGet_filter_dropped (fun e he => by simp [he, hlo, hhi, hkeep]) s.regs

theorem State.reg_resetRegs_outside (hout : o < base ∨ base + len ≤ o) (h : o ≠ stat) : (s.resetRegs base len keep stat).reg o = s.reg o := by
  rw [s.reg_resetRegs h]
  refine sparseGet_filter_kept (fun e he => ?_) s.regs
  simp only [he, Bool.or_eq_true, Bool.not_eq_true', Bool.and_eq_false_iff, decide_eq_false_iff_not]
  omega

end ResetRegs

/-- Commands ended one after the other. -/
theorem foldl_endCmd_frame (l : List Cmd) (st : Status) (s : State) :
    l.foldl (fun s c => s.endCmd c.id st 0) s = { s with cmds := (l.foldl (fun s c => s.endCmd c.id st 0) s).cmds } := by
  induction l generalizing s with
  | nil => rfl
  | cons c l ih => exact ih (s.endCmd c.id st 0)

theorem foldl_endCmd_congr (l : List Cmd) (st : Status) {s t : State} (h : t.cmds = s.cmds) :
    (l.foldl (fun s c => s.endCmd c.id st 0) t).cmds = (l.foldl (fun s c => s.endCmd c.id st 0) s).cmds := by
  induction l generalizing s t with
  | nil => exact h
  | cons c l ih => exact ih (by simp only [State.endCmd, State.updCmd, h])

theorem State.dropBegun_frame (s : State) (d : Nat) : s.dropBegun d = { s with cmds := (s.dropBegun d).cmds } := foldl_endCmd_frame _ _ s

theorem State.dropBegun_congr {s t : State} (h : t.cmds = s.cmds) (d : Nat) : (t.dropBegun d).cmds = (s.dropBegun d).cmds := by
  rw [State.dropBegun, State.dropBegun, h]
  exact foldl_endCmd_congr _ _ h

/-- The state with the unit of a reset named in RST_BLOCK. -/
def State.unitNamed (s : State) (v : Word) : State := (s.setFld Reg.rstBlock 15 8 (bitsOf v 15 8)).setFld Reg.rstBlock 4 0 (bitsOf v 4 0)

theorem State.reg_unitNamed (s : State) (v : Word) {o : Nat} (h : o ≠ Reg.rstBlock) : (s.unitNamed v).reg o = s.reg o := by
  rw [State.unitNamed, State.reg_setFld_other _ _ _ _ _ _ h, State.reg_setFld_other _ _ _ _ _ _ h]

/-- RST_BLOCK with GO performs the reset at once while no swap is in progress. -/
theorem exec_rstBlock_go {s : State} {v : Word} (h : s.PfReaches Reg.rstBlock) (hgo : bitOf v 31 = true) (hrefused : bitOf v 29 = false)
    (hbusy : s.flag Reg.rstBlock 30 = false) (hswap : s.swap.current = none) :
    exec (.rstBlock v) s = .next ((s.unitNamed v).doBlockReset (bitsOf v 15 8) (bitsOf v 4 0)) := by
  have hidle : (s.unitNamed v).swap.current = none := hswap
  have hwrite : s.rstBlockWrite v = (s.unitNamed v).doBlockReset (bitsOf v 15 8) (bitsOf v 4 0) := by
    rw [State.unitNamed] at hidle ⊢
    simp only [State.rstBlockWrite, hgo, hrefused, hbusy, hidle, Option.isSome_none, Bool.not_false, Bool.and_self, Bool.false_eq_true, if_false,
      if_true]
  exact congrArg Host.Outcome.next ((State.pfReach_of_reaches h _).trans hwrite)

/-- A Shaper after its reset. -/
def State.shaperReset (s : State) (i : Nat) : State :=
  ((s.dropBegun (shDom i)).cycleDom (shDom i)).resetRegs (0x300000 + 0x10000 * i) 0x10000 0 0

theorem State.doBlockReset_shaper (s : State) {i : Nat} (h : i < 4) : s.doBlockReset 0x30 i = (s.shaperReset i).setFlag Reg.rstCause 7 true := by
  have hunit : s.unitReset 0x30 i = some (s.shaperReset i) := if_pos h
  rw [State.doBlockReset, hunit]

theorem shDom_lt {i : Nat} (h : i < 4) : shDom i < 120 := by unfold shDom; omega

section ShaperReset

variable (s : State) {i : Nat}

theorem State.shaperReset_frame (i : Nat) : s.shaperReset i = { s with
    regs := (s.shaperReset i).regs
    fabric := (s.shaperReset i).fabric
    cmds := (s.dropBegun (shDom i)).cmds } := by
  rw [State.shaperReset, State.resetRegs_frame, State.cycleDom_frame, State.dropBegun_frame]

variable {s} in
theorem State.shaperReset_rising (hr : Rising s.regs) (i : Nat) : Rising (s.shaperReset i).regs := by
  refine State.resetRegs_rising (State.cycleDom_rising ?_ _) _ _ _ _
  rw [State.dropBegun_frame]
  exact hr

theorem State.reg_shaperReset_inside {o : Nat} (hlo : 0x300000 + 0x10000 * i ≤ o) (hhi : o < 0x300000 + 0x10000 * i + 0x10000) :
    (s.shaperReset i).reg o = resetWord o :=
  State.reg_resetRegs_inside _ hlo hhi (by omega) (by omega)

/-- A Shaper's domain takes its next epoch as the Shaper is reset. -/
theorem State.epoch_shaperReset (hr : Rising s.regs) (hi : i < 4) (hon : s.domOn (shDom i) = true) :
    ((s.shaperReset i).epoch (shDom i)).toNat = nextEpoch (s.epoch (shDom i)).toNat := by
  have hdrop := s.dropBegun_frame (shDom i)
  have hregs : (s.dropBegun (shDom i)).regs = s.regs := by rw [hdrop]
  have hon' : (s.dropBegun (shDom i)).domOn (shDom i) = true := (State.domOn_congr hregs _).trans hon
  have hlast : (s.shaperReset i).epoch (shDom i) = ((s.dropBegun (shDom i)).cycleDom (shDom i)).epoch (shDom i) :=
    State.epoch_congr (State.reg_resetRegs_outside _ (.inl (by unfold Reg.pdEpoch shDom; omega)) (by unfold Reg.pdEpoch; omega))
  rw [hlast, State.epoch_cycleDom_same (by rw [hregs]; exact hr) hon', State.epoch_congr (State.reg_congr hregs _)]

end ShaperReset

/-- RST_BLOCK resets a Shaper (R387). -/
theorem exec_rstBlock_shaper {s : State} {v : Word} {i : Nat} (hc : s.Canonical) (h : s.PfReaches Reg.rstBlock) (hgo : bitOf v 31 = true)
    (hrefused : bitOf v 29 = false) (hbusy : s.flag Reg.rstBlock 30 = false) (hswap : s.swap.current = none) (htype : bitsOf v 15 8 = 0x30)
    (hnamed : i = bitsOf v 4 0) (hi : i < 4) (hon : s.domOn (shDom i) = true) :
    ∃ t, exec (.rstBlock v) s = .next t ∧ t.flag Reg.rstCause 7 = true ∧ (t.epoch (shDom i)).toNat = nextEpoch (s.epoch (shDom i)).toNat ∧
      t.reg (Reg.shCtrl i) = resetWord (Reg.shCtrl i) ∧ t.reg (Reg.shStat i) = resetWord (Reg.shStat i) ∧
      t.cmds = (s.dropBegun (shDom i)).cmds ∧ t = { s with regs := t.regs, fabric := t.fabric, cmds := t.cmds } := by
  have hexec : exec (.rstBlock v) s = .next (((s.unitNamed v).shaperReset i).setFlag Reg.rstCause 7 true) := by
    rw [exec_rstBlock_go h hgo hrefused hbusy hswap, htype, ← hnamed, State.doBlockReset_shaper _ hi]
  have hr : Rising (s.unitNamed v).regs := State.setFld_rising _ _ _ _ _ (State.setFld_rising _ _ _ _ _ hc.rising)
  have hframe := (s.unitNamed v).shaperReset_frame i
  have hcmds : (s.unitNamed v).cmds = s.cmds := rfl
  have hdom : (s.unitNamed v).domOn (shDom i) = true := by
    rw [State.domOn, State.domState_congr_reg (s.reg_unitNamed v (by unfold Reg.pdState Reg.rstBlock; omega))]
    exact hon
  have hepoch : (s.unitNamed v).epoch (shDom i) = s.epoch (shDom i) :=
    State.epoch_congr (s.reg_unitNamed v (by unfold Reg.pdEpoch Reg.rstBlock; omega))
  refine ⟨_, hexec, State.flag_setFlag_same _ _ _ _ (State.shaperReset_rising hr i) (by decide), ?_, ?_, ?_, ?_, ?_⟩
  · rw [State.epoch_congr (State.reg_setFlag_other _ _ _ _ _ (by unfold Reg.pdEpoch Reg.rstCause; omega)), State.epoch_shaperReset _ hr hi hdom, hepoch]
  · rw [State.reg_setFlag_other _ _ _ _ _ (by unfold Reg.shCtrl Reg.rstCause; omega)]
    exact State.reg_shaperReset_inside _ (by unfold Reg.shCtrl; omega) (by unfold Reg.shCtrl; omega)
  · rw [State.reg_setFlag_other _ _ _ _ _ (by unfold Reg.shStat Reg.rstCause; omega)]
    exact State.reg_shaperReset_inside _ (by unfold Reg.shStat; omega) (by unfold Reg.shStat; omega)
  · rw [← State.dropBegun_congr hcmds, hframe]
    rfl
  · rw [hframe]
    rfl

/-! ### The reset of one partition (R386) -/

/-- A partition with no command in flight and no stream loses its rings and its tags. -/
theorem State.resetPartition_idle {s : State} {p : Nat} (hcmds : ∀ c ∈ s.cmds, c.part ≠ p) (hstreams : s.streamsOf p = []) :
    ∃ rings, s.resetPartition p = ((({ s with rings := rings } : State).setPart p { s.part p with residency := [] }).setFlag Reg.rstCause 6
      true).setFlag Reg.rstPart 30 false := by
  have hnone : s.cmds.filter (fun c => c.part == p) = [] := List.filter_eq_nil_iff.mpr fun c hcm => by simpa using hcmds c hcm
  have hkeep : s.removeStreams p = s := by rw [State.removeStreams, hstreams, List.foldl_nil]
  simp only [State.resetPartition, hnone, List.foldl_nil, hkeep]
  exact ⟨_, rfl⟩

/-- RST_PART with GO performs the reset at once while no swap is in progress. -/
theorem exec_rstPart_go {s : State} {v : Word} (h : s.PfReaches Reg.rstPart) (hgo : bitOf v 31 = true) (hbusy : s.flag Reg.rstPart 30 = false)
    (hswap : s.swap.current = none) :
    exec (.rstPart v) s = .next ((s.setFld Reg.rstPart 5 0 (bitsOf v 5 0)).resetPartition (bitsOf v 5 0)) := by
  have hidle : (s.setFld Reg.rstPart 5 0 (bitsOf v 5 0)).swap.current = none := hswap
  have hwrite : s.rstPartWrite v = (s.setFld Reg.rstPart 5 0 (bitsOf v 5 0)).resetPartition (bitsOf v 5 0) := by
    simp only [State.rstPartWrite, hgo, hbusy, hidle, Option.isSome_none, Bool.not_false, Bool.and_self, Bool.false_eq_true, if_false, if_true]
  exact congrArg Host.Outcome.next ((State.pfReach_of_reaches h _).trans hwrite)

/-- RST_PART resets a partition without work (R386). -/
theorem exec_rstPart_idle {s : State} {v : Word} (hc : s.Canonical) (h : s.PfReaches Reg.rstPart) (hgo : bitOf v 31 = true)
    (hbusy : s.flag Reg.rstPart 30 = false) (hswap : s.swap.current = none) (hcmds : ∀ c ∈ s.cmds, c.part ≠ bitsOf v 5 0)
    (hstreams : s.streamsOf (bitsOf v 5 0) = []) :
    ∃ t, exec (.rstPart v) s = .next t ∧ t.flag Reg.rstCause 6 = true ∧
      t.parts = (s.setPart (bitsOf v 5 0) { s.part (bitsOf v 5 0) with residency := [] }).parts ∧
      t = { s with regs := t.regs, rings := t.rings, parts := t.parts } ∧ SameRegs s t [Reg.rstPart, Reg.rstCause] := by
  obtain ⟨rings, hreset⟩ := State.resetPartition_idle (s := s.setFld Reg.rstPart 5 0 (bitsOf v 5 0)) hcmds hstreams
  refine ⟨_, (exec_rstPart_go h hgo hbusy hswap).trans (congrArg _ hreset), ?_, rfl, rfl, fun o ho => ?_⟩
  · rw [State.flag, State.reg_setFlag_other _ _ _ _ _ (by decide)]
    exact State.flag_setFlag_same _ _ _ _ (by exact s.setFld_rising _ _ _ _ hc.rising) (by decide)
  · have hpart : o ≠ Reg.rstPart := fun h => ho (by simp [h])
    have hcause : o ≠ Reg.rstCause := fun h => ho (by simp [h])
    rw [State.reg_setFlag_other _ _ _ _ _ hpart, State.reg_setFlag_other _ _ _ _ _ hcause]
    exact s.reg_setFld_other _ _ _ _ _ hpart

/-- Settles O53: write-backs, self-tests, re-admissions, scrubs and resets, each by the lemma about its command. -/
theorem unitsReadmittedAndReset : Obligations.UnitsReadmittedAndReset := by
  unfold Obligations.UnitsReadmittedAndReset
  refine ⟨fun s n off => ⟨exec_ingotEccWriteback_none s n, fun hc => exec_ingotEccWriteback_corrected hc n off, exec_ingotEccWriteback_upset s n off⟩,
    fun s k off => ⟨rfl, fun hc => exec_crucibleEccWriteback_corrected hc k off, exec_crucibleEccWriteback_upset s k off⟩,
    fun s u ok c h => ?selfTests, fun s n x hc hmap hissued hquar hidle htest => ?array, fun s n hquar hre htest => ?lantern,
    fun s n hc hquar hoff htest => ?smelter, fun s k hquar hoff => exec_crucibleBankReadmit hquar hoff,
    fun s n da len hc hranges hre hswap => exec_scrubComplete_ingot hc hranges hre hswap,
    fun s v i hc h hgo hrefused hbusy hswap htype hnamed hi hon => exec_rstBlock_shaper hc h hgo hrefused hbusy hswap htype hnamed hi hon,
    fun s v hc h hgo hbusy hswap hcmds hstreams => exec_rstPart_idle hc h hgo hbusy hswap hcmds hstreams⟩
  case selfTests =>
    obtain ⟨f, hexec⟩ := exec_readmit h
    refine ⟨fun hfailed => ?_, fun hnot hok => ?_⟩
    · rw [hexec, State.afterTest_failed hfailed]
    · rw [hexec, hok, State.afterTest_fails hnot]
  case array =>
    have hexec : exec (.arrayReadmit n x true) s = .next (s.arrayBack n (arrIx x)) :=
      congrArg Host.Outcome.next ((State.arrayReadmit_asks hmap hissued hquar true).trans (State.afterTest_passes htest _))
    obtain ⟨hlanterns, hmem, hcmds⟩ := State.arrayBack_frame n x hidle
    obtain ⟨hbit, hother, hnew, hsame⟩ := State.arrayBack_spec n x hidle hc
    exact ⟨_, hexec, hbit, hother, hlanterns, hnew, hsame, hmem, hcmds⟩
  case lantern =>
    exact congrArg Host.Outcome.next ((State.lanternReadmit_asks hquar hre true).trans (State.afterTest_passes htest _))
  case smelter =>
    have hexec : exec (.smelterReadmit n true) s = .next (s.smelterBack n) :=
      congrArg Host.Outcome.next ((State.smelterReadmit_asks hquar true).trans (State.afterTest_passes htest _))
    exact ⟨_, hexec, State.smelterBack_spec hc n hoff⟩
end Sys2Proof.Machine

/-!
PROOFS. The Lantern descriptor chapter: how program lines are fetched and descriptors issue and leave (R123-R125, R128-R133), table loads and
the STAT operations (R69, R136, R137, R433), and the SHAPE command (R145, R212-R223, R228).
-/

namespace Sys2Proof.Machine

/-! ### Contexts in use -/

/-- A context past the list reads as its reset. -/
theorem State.hasCtx_of_ne_reset {s : State} (h : Ordered s.lanterns) {n q : Nat} (hne : s.ctx n q ≠ SeqCtx.reset) : s.HasCtx n q := by
  refine ⟨h, ?_⟩
  by_contra hq
  exact hne (List.getD_eq_default _ _ (Nat.le_of_not_lt hq))

theorem State.hasCtx_of_live {s : State} (h : Ordered s.lanterns) {n q : Nat} (hlive : (s.ctx n q).live = true) : s.HasCtx n q := by
  refine State.hasCtx_of_ne_reset h fun hreset => ?_
  rw [hreset] at hlive
  exact absurd hlive (by decide)

theorem SeqCtx.exists_cmd_of_live {c : SeqCtx} (h : c.live = true) : ∃ id, c.cmd = some id := by
  simp only [SeqCtx.live, Bool.and_eq_true] at h
  exact Option.isSome_iff_exists.mp h.1.1

/-! ### Fetch (R123, R124) -/

/-- Where a context fetches next, and the end of the 512-byte line there. -/
def SeqCtx.fetchAt (c : SeqCtx) : Nat := c.pc + c.fetched.length
def SeqCtx.lineEnd (c : SeqCtx) : Nat := (c.fetchAt / 512 + 1) * 512

section Fetch

variable {s : State} {n q i da len : Nat} (hlive : (s.ctx n q).live = true) (hon : s.seqOn n = true)
  (hquota : s.quotaFor (s.ctx n q).part n = some (i, da, len))
include hlive hon hquota

theorem State.seqFetch_line (hlo : listAt 0 (s.ctx n q).bases 0 ≤ (s.ctx n q).fetchAt)
    (hhi : (s.ctx n q).lineEnd ≤ listAt 0 (s.ctx n q).bases 0 + len) (hnear : (s.ctx n q).lineEnd ≤ (s.ctx n q).pc + 2048) {l : List Byte}
    (hrd : s.rd (s.ctx n q).part (s.ctx n q).fetchAt ((s.ctx n q).lineEnd - (s.ctx n q).fetchAt) = .ok l) :
    s.seqFetch n q = s.updCtx n q fun c => { c with fetched := c.fetched ++ l } := by
  simp only [SeqCtx.lineEnd, SeqCtx.fetchAt] at hlo hhi hnear hrd
  simp only [State.seqFetch, hlive, hon, Bool.and_self, if_true, hquota, hlo, hhi, and_self, hnear, hrd]

theorem State.seqFetch_outside (hout : (s.ctx n q).fetchAt < listAt 0 (s.ctx n q).bases 0 ∨
      listAt 0 (s.ctx n q).bases 0 + len < (s.ctx n q).lineEnd) (hneeds : (s.ctx n q).fetched.length < (s.ctx n q).needs) :
    s.seqFetch n q = s.seqStop n q .bounds 0 0 := by
  have hquotaFails : ¬ (listAt 0 (s.ctx n q).bases 0 ≤ (s.ctx n q).fetchAt ∧
      (s.ctx n q).lineEnd ≤ listAt 0 (s.ctx n q).bases 0 + len) := by omega
  simp only [SeqCtx.lineEnd, SeqCtx.fetchAt] at hquotaFails
  simp only [State.seqFetch, hlive, hon, Bool.and_self, if_true, hquota, hquotaFails, if_false, hneeds]

end Fetch

/-! ### What an issue finds (R125, R128-R132) -/

/-- The bytes of the descriptor that is next to issue. -/
def SeqCtx.head (c : SeqCtx) : List Byte := c.fetched.take c.needs

section Issue

variable {s : State} {n q id : Nat} {md : InputModes} (hcmd : (s.ctx n q).cmd = some id) (hlive : (s.ctx n q).live = true)
  (hon : s.seqOn n = true) (hfull : (s.ctx n q).needs ≤ (s.ctx n q).fetched.length)
include hcmd hlive hon hfull

theorem State.seqIssue_badHeader {st : Status} (h : headerStatus (s.ctx n q).head = some st) :
    s.seqIssue n q md = s.seqStop n q st (fieldAt (s.ctx n q).head 0 1) (fieldAt (s.ctx n q).head 6 2) := by
  rw [SeqCtx.head] at h
  simp only [State.seqIssue, hcmd, hlive, hon, hfull, decide_true, Bool.and_self, if_true, h] <;> rfl

variable (hheader : headerStatus (s.ctx n q).head = none)
include hheader

theorem State.seqIssue_held (hheld : s.issueHeld n q (fieldAt (s.ctx n q).head 0 1) ⟨(s.ctx n q).head, []⟩ = true) :
    s.seqIssue n q md = s := by
  rw [SeqCtx.head] at hheader hheld
  simp only [State.seqIssue, hcmd, hlive, hon, hfull, decide_true, Bool.and_self, if_true, hheader, hheld]

variable (hfree : s.issueHeld n q (fieldAt (s.ctx n q).head 0 1) ⟨(s.ctx n q).head, []⟩ = false)
include hfree

theorem State.seqIssue_stale (hstale : s.epcStale n (s.ctx n q).head = true) :
    s.seqIssue n q md = s.seqStop n q .staleEpoch (fieldAt (s.ctx n q).head 0 1) (fieldAt (s.ctx n q).head 6 2) := by
  rw [SeqCtx.head] at hheader hfree hstale
  simp only [State.seqIssue, hcmd, hlive, hon, hfull, decide_true, Bool.and_self, if_true, hheader, hfree, Bool.false_eq_true, if_false,
    hstale] <;> rfl

/-- A descriptor that nothing holds back and whose engine no second partition asks for is issued. -/
theorem State.seqIssue_issues (hstale : s.epcStale n (s.ctx n q).head = false)
    (hturn : isCompute (fieldAt (s.ctx n q).head 0 1) = false ∨ (s.seqReadyFor n (fieldAt (s.ctx n q).head 0 1)).length < 2) :
    s.seqIssue n q md = s.issueDesc n q id (fieldAt (s.ctx n q).head 0 1) md (s.ctx n q).head := by
  have hwins : s.seqTurn n (fieldAt (s.ctx n q).head 0 1) (s.ctx n q).part = (s, true) := if_pos hturn
  rw [SeqCtx.head] at hheader hfree hstale hwins
  simp only [State.seqIssue, hcmd, hlive, hon, hfull, decide_true, Bool.and_self, if_true, hheader, hfree, Bool.false_eq_true, if_false,
    hstale, hwins] <;> rfl

end Issue

/-! ### The switch between partitions (R92) -/

/-- Two fields of one register that do not meet. -/
theorem State.fld_setFld_apart {s : State} (h : Rising s.regs) {off hi lo a b : Nat} (v : Nat) (h32 : hi < 32) (hd : a < lo ∨ hi < b) :
    (s.setFld off hi lo v).fld off a b = s.fld off a b := by
  rw [State.fld, State.reg_setFld_same _ _ _ _ _ h, bitsOf_setBits_other _ _ _ _ _ _ h32 hd, State.fld]

/-- A Lantern that no partition owns anything of (R92). -/
def Lantern.disowned (l : Lantern) : Lantern :=
  { l with
    held := l.held.map fun h => { h with owner := none }
    spill := { l.spill with owner := none }
    arrs := l.arrs.map fun x => { x with held := { x.held with owner := none } } }

/-- A switch names the context in LN_STATUS; before that it touches no more than the owner marks of its Lantern. -/
theorem State.seqSwitch_eq (s : State) (n q p : Nat) :
    ∃ u : State, KeepsContexts s u ∧ (∀ m, m ≠ n → u.lantern m = s.lantern m) ∧ u = { s with lanterns := u.lanterns } ∧
      s.seqSwitch n q p = (u.setFld (Reg.lnStatus n) 7 6 q).setFld (Reg.lnStatus n) 13 8 p := by
  by_cases hsame : (decide (s.fld (Reg.lnStatus n) 7 6 = q) && decide (s.fld (Reg.lnStatus n) 13 8 = p)) = true
  · exact ⟨s, .refl s, fun _ _ => rfl, rfl, by rw [State.seqSwitch, if_pos hsame]⟩
  · exact ⟨s.updLantern n Lantern.disowned, .updLantern s n fun _ => rfl, fun m hm => State.lantern_setLantern_other _ _ _ _ hm, rfl,
      by rw [State.seqSwitch, if_neg hsame] <;> rfl⟩

theorem State.seqSwitch_keepsContexts (s : State) (n q p : Nat) : KeepsContexts s (s.seqSwitch n q p) := by
  obtain ⟨u, hkeep, -, -, heq⟩ := s.seqSwitch_eq n q p
  rw [heq]
  exact hkeep.trans (.of_lanterns rfl)

theorem State.lantern_seqSwitch_other (s : State) (n q p m : Nat) (hm : m ≠ n) : (s.seqSwitch n q p).lantern m = s.lantern m := by
  obtain ⟨u, -, hother, -, heq⟩ := s.seqSwitch_eq n q p
  rw [heq]
  exact hother m hm

theorem State.seqSwitch_frame (s : State) (n q p : Nat) :
    s.seqSwitch n q p = { s with lanterns := (s.seqSwitch n q p).lanterns, regs := (s.seqSwitch n q p).regs } := by
  obtain ⟨u, -, -, hframe, heq⟩ := s.seqSwitch_eq n q p
  rw [heq, hframe] <;> rfl

/-- A context replaced after the switch: no more than Lanterns and registers have changed. -/
theorem State.updCtx_seqSwitch_frame (s : State) (n q p : Nat) (f : SeqCtx → SeqCtx) :
    (s.seqSwitch n q p).updCtx n q f =
      { s with lanterns := ((s.seqSwitch n q p).updCtx n q f).lanterns, regs := ((s.seqSwitch n q p).updCtx n q f).regs } :=
  congrArg (fun u : State => { u with lanterns := ((s.seqSwitch n q p).updCtx n q f).lanterns }) (s.seqSwitch_frame n q p)

theorem State.seqSwitch_regs {s : State} (h : Rising s.regs) (n : Nat) (q : QIx) (p : Nat) :
    (s.seqSwitch n q p).fld (Reg.lnStatus n) 7 6 = q.val ∧ (s.seqSwitch n q p).fld (Reg.lnStatus n) 13 8 = p % 64 ∧
      SameRegs s (s.seqSwitch n q p) [Reg.lnStatus n] := by
  obtain ⟨u, -, -, hframe, heq⟩ := s.seqSwitch_eq n q p
  have hu : u.regs = s.regs := by rw [hframe]
  have hrising := u.setFld_rising (Reg.lnStatus n) 7 6 q (hu ▸ h)
  rw [heq]
  refine ⟨?_, State.fld_setFld_same _ _ _ _ _ hrising (by decide), fun o ho => ?_⟩
  · rw [State.fld_setFld_apart hrising _ (by decide) (by decide), State.fld_setFld_same _ _ _ _ _ (hu ▸ h) (by decide)]
    exact Nat.mod_eq_of_lt q.isLt
  · have hne : o ≠ Reg.lnStatus n := by simpa using ho
    rw [State.reg_setFld_other _ _ _ _ _ _ hne, State.reg_setFld_other _ _ _ _ _ _ hne, State.reg_congr hu]

/-! ### The descriptor that issues (R126, R129) -/

/-- The descriptor that a context issues from its bytes, with the OUT and SYNC states and the status that it has at its issue. -/
def State.newDesc (s : State) (n q : Nat) (md : InputModes) (bs : List Byte) (out sync : Option Cap) (done : Option Status) (free : Nat) : Desc :=
  { seq := (s.ctx n q).nextSeq, cap := (s.ctx n q).capture bs, out := out, sync := sync, at_ := s.nowNs, started := false, prog := 0, drained := [],
    ctl := s.reg (Reg.lnCtrl n), modes := md, free := free, wcb := [], acb := [], sums := [], staged := [], runs := [], codes := [],
    counter := none, tickets := [], tookZero := false, ticketEnd := false, rmo := none, done := done, detail := 0 }

/-- The context once a descriptor of some bytes has issued. -/
def SeqCtx.issue (c : SeqCtx) (bs : List Byte) (d : Desc) (sync : Option Cap) : SeqCtx :=
  { c with
    pc := c.pc + bs.length
    fetched := c.fetched.drop bs.length
    lastPc := c.pc
    nextSeq := c.nextSeq + 1
    issued := c.issued ++ [d]
    sync := sync }

/-- A TAPER draws the free value of its codebook entries (log entry 174). -/
def State.drawFor (s : State) (ty : Nat) : State := if ty = 0x22 then { s with freeCtr := s.freeCtr + 1 } else s

section DrawFor

variable (s : State) (ty : Nat)

@[simp] theorem State.ctx_drawFor (n q : Nat) : (s.drawFor ty).ctx n q = s.ctx n q := by
  unfold State.drawFor
  split <;> rfl

@[simp] theorem State.cmd?_drawFor (id : Nat) : (s.drawFor ty).cmd? id = s.cmd? id := by
  unfold State.drawFor
  split <;> rfl

@[simp] theorem State.reg_drawFor (off : Nat) : (s.drawFor ty).reg off = s.reg off := by
  unfold State.drawFor
  split <;> rfl

@[simp] theorem State.nowNs_drawFor : (s.drawFor ty).nowNs = s.nowNs := by
  unfold State.drawFor
  split <;> rfl

end DrawFor

/-- No sequencer descriptor, STAT or RMO wakes a gated unit (R382). -/
theorem State.wake_of_not_compute {ty : Nat} (h : isCompute ty = false) (s : State) (n : Nat) : s.wake n ty = s := by
  unfold State.wake
  split
  · cases h
  · cases h
  · rfl

/-- The sequencer's own descriptors, STAT and RMO have no check but that of their fields. -/
theorem State.issueDesc_sequencer {ty : Nat} (h : isCompute ty = false) (s : State) (n q id : Nat) (md : InputModes) (bs : List Byte) :
    s.issueDesc n q id ty md bs = (s.seqSwitch n q (s.ctx n q).part).updCtx n q fun c => c.issue bs
      (s.newDesc n q md bs none none (if seqFieldsOk ty ((s.ctx n q).capture bs) then none else some .badOpcode) s.freeCtr) c.sync := by
  have hmma : ty ≠ 0x20 := by rintro rfl; cases h
  have htaper : ty ≠ 0x22 := by rintro rfl; cases h
  simp only [State.issueDesc, h, hmma, htaper, false_and, if_false, Bool.false_eq_true, State.wake_of_not_compute h, ite_self] <;> rfl

/-- The status that a compute descriptor has at its issue. -/
def State.issueStatus (s : State) (n q id ty : Nat) (md : InputModes) (bs : List Byte) : Option Status :=
  (s.drawFor ty).computeCheck n q (match s.cmd? id with | some c => c.det | none => false) md ty ((s.ctx n q).capture bs) (s.ctx n q).out
    (s.ctx n q).sync

/-- The compute descriptor that issues. -/
def State.computeDesc (s : State) (n q id ty : Nat) (md : InputModes) (bs : List Byte) : Desc :=
  s.newDesc n q md bs (s.ctx n q).out (s.ctx n q).sync (s.issueStatus n q id ty md bs) s.freeCtr

/-- The state in which it has issued; the SYNC state is used up (R138). -/
def State.computeIssued (s : State) (n q id ty : Nat) (md : InputModes) (bs : List Byte) : State :=
  ((s.drawFor ty).seqSwitch n q (s.ctx n q).part).updCtx n q fun c => c.issue bs (s.computeDesc n q id ty md bs) none

/-- What the tables of a descriptor make of it: ready, they let it wake its units (R382, R433). -/
def State.withTables (s : State) (n q seq ty : Nat) : Res State → State
  | .ok v => v.wake n ty
  | .error e => s.descFail n q seq e

section Compute

variable {s : State} {n q id ty : Nat} {md : InputModes} {bs : List Byte} (hty : isCompute ty = true) (hmma : ty ≠ 0x20)
include hty hmma

theorem State.issueDesc_compute : s.issueDesc n q id ty md bs =
    if (s.issueStatus n q id ty md bs).isSome = true then s.computeIssued n q id ty md bs
    else (s.computeIssued n q id ty md bs).withTables n q (s.ctx n q).nextSeq ty
      ((s.computeIssued n q id ty md bs).ensureAll n q (usesTables ty ((s.ctx n q).capture bs) ((s.ctx n q).out.getD ⟨[], []⟩))) := by
  unfold State.issueDesc
  extract_lets t x cap det out sync bad d u w
  have ht : t = s.drawFor ty := rfl
  clear_value t
  subst ht
  simp only [w, u, d, bad, sync, out, det, cap, x, hty, hmma, if_true, false_and, if_false, State.ctx_drawFor, State.cmd?_drawFor,
    State.reg_drawFor, State.nowNs_drawFor] <;> rfl

/-- One that fails its check ends with that status at once. -/
theorem State.issueDesc_failed {st : Status} (hst : s.issueStatus n q id ty md bs = some st) :
    s.issueDesc n q id ty md bs = s.computeIssued n q id ty md bs := by
  rw [State.issueDesc_compute hty hmma, hst, Option.isSome_some, if_pos rfl]

/-- One that passes it has its tables made ready, and wakes its units. -/
theorem State.issueDesc_passed (hst : s.issueStatus n q id ty md bs = none) {v : State}
    (htables : (s.computeIssued n q id ty md bs).ensureAll n q
      (usesTables ty ((s.ctx n q).capture bs) ((s.ctx n q).out.getD ⟨[], []⟩)) = .ok v) :
    s.issueDesc n q id ty md bs = v.wake n ty := by
  rw [State.issueDesc_compute hty hmma, hst, htables, Option.isSome_none, if_neg Bool.false_ne_true, State.withTables]

end Compute

/-! ### The end of a descriptor (R133) -/

section Complete

variable {s : State} {n q seq : Nat} {d : Desc} {st : Status} (hd : s.descNow n q seq = some d) (hdone : d.done = some st)
include hd hdone

/-- The state in which an ended descriptor has left its context and its time is charged (R267). -/
def State.descLeaves (s : State) (n q seq : Nat) (d : Desc) : State :=
  (s.arbCharge n (s.ctx n q).part (s.nowNs - d.at_) 0).updCtx n q fun c => { c with issued := c.issued.filter fun x => x.seq != seq }

theorem State.seqComplete_success (hst : st.success = true) : s.seqComplete n q seq = (s.descLeaves n q seq d).finishCtx n q := by
  simp only [State.seqComplete, hd, hdone, hst, if_true] <;> rfl

theorem State.seqComplete_failure (hst : st.success = false) :
    s.seqComplete n q seq = ((s.descLeaves n q seq d).seqError n q st d.ty d.tag (!d.cont || st.stops)).finishCtx n q := by
  simp only [State.seqComplete, hd, hdone, hst, Bool.false_eq_true, if_false] <;> rfl

end Complete

theorem exec_descriptorIssue {s t : State} {n : LnIx} {q : QIx} {md : InputModes} (h : s.seqIssue n q md = t) :
    exec (.descriptorIssue n ⟨q, md⟩) s = .next t := congrArg Host.Outcome.next h

theorem exec_descriptorComplete {s t : State} {n : LnIx} {q : QIx} {seq : Nat} (h : s.seqComplete n q seq = t) :
    exec (.descriptorComplete n q seq) s = .next t := congrArg Host.Outcome.next h

theorem exec_descriptorFetch {s t : State} {n : LnIx} {q : QIx} (h : s.seqFetch n q = t) :
    exec (.descriptorFetch n q) s = .next t := congrArg Host.Outcome.next h

/-! ### The obligation on descriptors -/

/-- Settles O16: a fetch, an issue and a completion each take the branch that their hypotheses name; the issue of a sequencer descriptor
replaces its context in a state that the switch has left as it was but for LN_STATUS and owner marks. -/
theorem descriptorsFetchIssueComplete : Obligations.DescriptorsFetchIssueComplete := by
  unfold Obligations.DescriptorsFetchIssueComplete
  intro s n q md hs
  refine ⟨fun hlive hon i da len hquota => ⟨fun hlo hhi hnear l hrd => ?line, fun hout hneeds => ?outside⟩,
    fun hlive hon hfull => ?issue, fun seq d st hd hdone => ?complete⟩
  case line =>
    refine ⟨_, exec_descriptorFetch (State.seqFetch_line hlive hon hquota hlo hhi hnear hrd), ?_⟩
    exact (State.CtxBecomes.refl s n q).updCtx (State.hasCtx_of_live hs.lanternsOrdered hlive) _
  case outside => exact exec_descriptorFetch (State.seqFetch_outside hlive hon hquota hout hneeds)
  case issue =>
    obtain ⟨id, hcmd⟩ := SeqCtx.exists_cmd_of_live hlive
    refine ⟨fun st hst => exec_descriptorIssue (State.seqIssue_badHeader hcmd hlive hon hfull hst),
      fun hheader hheld => exec_descriptorIssue (State.seqIssue_held hcmd hlive hon hfull hheader hheld),
      fun hheader hfree hstale => exec_descriptorIssue (State.seqIssue_stale hcmd hlive hon hfull hheader hfree hstale),
      fun hheader hfree hstale hty => ?sequencer, fun hheader hfree hstale hturn id' hcmd' hty hmma => ?compute⟩
    case sequencer =>
      have hexec := (State.seqIssue_issues (md := md) hcmd hlive hon hfull hheader hfree hstale (.inl hty)).trans (State.issueDesc_sequencer hty ..)
      have hctx := State.hasCtx_of_live hs.lanternsOrdered hlive
      have hkeep := s.seqSwitch_keepsContexts n q (s.ctx n q).part
      obtain ⟨hq, hp, hregs⟩ := State.seqSwitch_regs hs.rising n q (s.ctx n q).part
      refine ⟨_, s.newDesc n q md (s.ctx n q).head none none _ s.freeCtr, exec_descriptorIssue hexec, ?_, rfl, rfl, rfl, rfl, rfl, hq, hp, hregs,
        fun m hm => ?_, ?_⟩
      · rw [State.ctx_updCtx_same (hkeep.hasCtx hctx), hkeep.ctx hctx] <;> rfl
      · exact (State.lantern_setLantern_other _ _ _ _ hm).trans (State.lantern_seqSwitch_other _ _ _ _ _ hm)
      · exact s.updCtx_seqSwitch_frame n q (s.ctx n q).part _
    case compute =>
      have hissue := State.seqIssue_issues (md := md) hcmd' hlive hon hfull hheader hfree hstale (.inr hturn)
      exact ⟨s.computeDesc n q id' (fieldAt (s.ctx n q).head 0 1) md (s.ctx n q).head, rfl, rfl, rfl, rfl, rfl, rfl,
        fun st hst => exec_descriptorIssue (hissue.trans (State.issueDesc_failed hty hmma hst)),
        fun v hst htables => exec_descriptorIssue (hissue.trans (State.issueDesc_passed hty hmma hst htables))⟩
  case complete =>
    exact ⟨fun hst => exec_descriptorComplete (State.seqComplete_success hd hdone hst),
      fun hst => exec_descriptorComplete (State.seqComplete_failure hd hdone hst)⟩

/-! ### Table loads (R136, R137, R433) -/

/-- Each LOAD command, with the WHAT that it acts on (R136). -/
def loadCommands (n : LnIx) (q : QIx) : List (Instr × Nat) := [(.loadVuTable n q, 0), (.loadTaperWeights n q, 1), (.loadOutCodebook n q, 2)]

theorem exec_loadCommand {n : LnIx} {q : QIx} {i : Instr} {what : Nat} (h : (i, what) ∈ loadCommands n q) (s : State) :
    exec i s = .next (s.onLoad n q what) := by
  simp only [loadCommands, List.mem_cons, Prod.mk.injEq, List.not_mem_nil, or_false] at h
  obtain ⟨rfl, rfl⟩ | ⟨rfl, rfl⟩ | ⟨rfl, rfl⟩ := h <;> rfl

/-- The oldest LOAD of a WHAT in a context whose engine has not finished. -/
def SeqCtx.load (c : SeqCtx) (what : Nat) : Option Desc := c.issued.find? fun d => d.ty == 8 && d.done.isNone && d.cap.bits 8 7 4 == what

theorem SeqCtx.what_of_load {c : SeqCtx} {what : Nat} {d : Desc} (h : c.load what = some d) : d.cap.bits 8 7 4 = what := by
  have hfound := List.find?_some h
  simp only [Bool.and_eq_true, beq_iff_eq] at hfound
  exact hfound.2

theorem State.onLoad_found {s : State} {n q what : Nat} {d : Desc} (h : (s.ctx n q).load what = some d) : s.onLoad n q what = s.opLoad n q d := by
  rw [SeqCtx.load] at h
  rw [State.onLoad, h]

/-- The VU tables are the targets of WHAT 0. -/
theorem loadTarget_le_three (c : Cap) : loadTarget c ≤ 3 ↔ c.bits 8 7 4 = 0 := by
  have hvu : c.bits 8 1 0 < 4 := Nat.mod_lt _ (by decide)
  unfold loadTarget
  split
  next h => simp only [h, iff_true]; omega
  next h => simp [h]
  next h0 h1 => exact iff_of_false (by decide) h0

/-- The Taper weights are the target of WHAT 1. -/
theorem loadTarget_eq_four (c : Cap) : loadTarget c = 4 ↔ c.bits 8 7 4 = 1 := by
  have hvu : c.bits 8 1 0 < 4 := Nat.mod_lt _ (by decide)
  unfold loadTarget
  split
  next h => simp only [h]; omega
  next h => simp [h]
  next h0 h1 => exact iff_of_false (by decide) h1

/-- The element code of a LOAD, and the bytes of its source. -/
def loadCode (c : Cap) : Nat := if c.bits 8 7 4 = 0 then 0 else c.bits 9 3 0
def loadBytes (c : Cap) : Nat := if c.bits 8 7 4 = 1 then codeBytes (loadCode c) (c.fld 12 4) else c.fld 12 4

/-- The record that a LOAD leaves in its context (R433). -/
def loadRec (c : Cap) (a : Nat) : LoadRec := ⟨a, c.fld 12 4, loadCode c, BitVec.ofNat 32 (c.fld 24 4)⟩

/-- The context of a LOAD with its record. -/
def State.recorded (s : State) (n q : Nat) (c : Cap) (a : Nat) : State :=
  s.updCtx n q fun x => { x with recs := listUpd x.recs (loadTarget c) fun _ => some (loadRec c a) }

/-- Reads of device memory do not depend on the contexts. -/
theorem State.rd_updCtx (s : State) (n q p a len : Nat) (f : SeqCtx → SeqCtx) : (s.updCtx n q f).rd p a len = s.rd p a len := rfl

theorem State.loadHeld_recorded {s : State} {n q p a : Nat} {c : Cap} {l : List Byte} (h : s.rd p a (loadBytes c) = .ok l) :
    (s.recorded n q c a).loadHeld n p (loadTarget c) (loadRec c a) = .ok ((s.recorded n q c a).setHeld n (loadTarget c)
      ⟨some (s.ownMark n p), BitVec.ofNat 32 (c.fld 24 4), loadCode c, l⟩) := by
  rw [loadBytes] at h
  simp only [State.loadHeld, State.recorded, loadRec, loadTarget_eq_four, State.rd_updCtx, h] <;> rfl

section Load

variable {s : State} {n q : Nat} {d : Desc}

theorem State.opLoad_busy (h : s.tableBusy n (loadTarget d.cap) = true) : s.opLoad n q d = s := if_pos h

variable {a : Nat} (hfree : s.tableBusy n (loadTarget d.cap) = false) (ha : d.cap.ref 16 = some a)
include hfree ha

theorem State.opLoad_outside (hout : s.inOwnIngot n (s.ctx n q).part a (loadBytes d.cap) = false) :
    s.opLoad n q d = s.descFail n q d.seq (.bounds, some a) := by
  simp only [loadBytes, loadCode] at hout
  simp only [State.opLoad, loadTarget_le_three, loadTarget_eq_four, hfree, Bool.false_eq_true, if_false, Cap.need_of_ref ha, hout, if_true]

variable (hin : s.inOwnIngot n (s.ctx n q).part a (loadBytes d.cap) = true)
include hin

theorem State.opLoad_reused (hreuse : d.reuse = true) (howner : (s.heldAt n (loadTarget d.cap)).owner = some (s.ownMark n (s.ctx n q).part))
    (hrtag : (s.heldAt n (loadTarget d.cap)).rtag = BitVec.ofNat 32 (d.cap.fld 24 4)) :
    s.opLoad n q d = (s.recorded n q d.cap a).descDone n q d.seq .ok := by
  simp only [loadBytes, loadCode] at hin
  simp only [State.opLoad, loadTarget_le_three, loadTarget_eq_four, hfree, Bool.false_eq_true, if_false, Cap.need_of_ref ha, hin,
    Bool.true_eq_false, hreuse, howner, hrtag, decide_true, Bool.and_self, if_true] <;> rfl

theorem State.opLoad_reads (hreuse : d.reuse = false ∨ (s.heldAt n (loadTarget d.cap)).owner ≠ some (s.ownMark n (s.ctx n q).part) ∨
      (s.heldAt n (loadTarget d.cap)).rtag ≠ BitVec.ofNat 32 (d.cap.fld 24 4)) {l : List Byte}
    (hrd : s.rd (s.ctx n q).part a (loadBytes d.cap) = .ok l) :
    s.opLoad n q d = ((s.recorded n q d.cap a).setHeld n (loadTarget d.cap)
      ⟨some (s.ownMark n (s.ctx n q).part), BitVec.ofNat 32 (d.cap.fld 24 4), loadCode d.cap, l⟩).descDone n q d.seq .ok := by
  have hskip : (d.reuse && decide ((s.heldAt n (loadTarget d.cap)).owner = some (s.ownMark n (s.ctx n q).part)) &&
      decide ((s.heldAt n (loadTarget d.cap)).rtag = BitVec.ofNat 32 (d.cap.fld 24 4))) = false := by
    rcases hreuse with h | h | h <;> simp [h]
  have hload := State.loadHeld_recorded (n := n) (q := q) hrd
  simp only [State.recorded, loadRec, loadCode] at hload
  simp only [loadBytes, loadCode] at hin
  simp only [State.opLoad, loadTarget_le_three, loadTarget_eq_four, hfree, Bool.false_eq_true, if_false, Cap.need_of_ref ha, hin,
    Bool.true_eq_false, hskip, hload] <;> rfl

end Load

/-! ### STAT (R69, R137, R145) -/

/-- The oldest STAT of an OP in a context whose engine has not finished. -/
def SeqCtx.stat (c : SeqCtx) (op : Nat) : Option Desc := c.issued.find? fun d => d.ty == 2 && d.done.isNone && d.cap.fld 8 1 == op

theorem State.onStat_found {s : State} {n q op : Nat} {d : Desc} (h : (s.ctx n q).stat op = some d) (f : Desc → State → State) :
    s.onStat n q op f = f d s := by
  rw [SeqCtx.stat] at h
  rw [State.onStat, h]

/-- Each STAT command, with its OP (R137). -/
def statCommands (n : LnIx) (q : QIx) : List (Instr × Nat) := [(.digFold n q, 0), (.clipStore n q, 1), (.clipClr n q, 2)]

/-- What a STAT of an OP does. -/
def State.opStat (n q op : Nat) : Desc → State → State :=
  match op with
  | 0 => State.opDigFold n q
  | 1 => State.opClipStore n q
  | _ => State.opClipClr n q

theorem exec_statCommand {n : LnIx} {q : QIx} {i : Instr} {op : Nat} (h : (i, op) ∈ statCommands n q) {s : State} {d : Desc}
    (hd : (s.ctx n q).stat op = some d) : exec i s = .next (State.opStat n q op d s) := by
  simp only [statCommands, List.mem_cons, Prod.mk.injEq, List.not_mem_nil, or_false] at h
  obtain ⟨rfl, rfl⟩ | ⟨rfl, rfl⟩ | ⟨rfl, rfl⟩ := h <;> exact congrArg Host.Outcome.next (State.onStat_found hd _)

section Stat

variable {s u : State} {n q b : Nat} {d : Desc} (hb : d.cap.ref 24 = some b) (halign : b % 8 = 0)
include hb halign

theorem State.statWrite_ok {v : Nat} (hwr : s.wr (s.ctx n q).part b (leBytes 8 v) = .ok u) : s.statWrite n q d v = u.descDone n q d.seq .ok := by
  simp only [State.statWrite, Cap.need_of_ref hb, halign, ne_eq, not_true_eq_false, if_false, hwr]

theorem State.opDigFold_ok {a : Nat} {l : List Byte} (ha : d.cap.ref 16 = some a) (halignA : a % 8 = 0)
    (hrd : s.rd (s.ctx n q).part a (8 * d.cap.fld 12 4) = .ok l) (hwr : s.wr (s.ctx n q).part b (leBytes 8 (crc64 l)) = .ok u) :
    State.opDigFold n q d s = u.descDone n q d.seq .ok := by
  simp only [State.opDigFold, Cap.need_of_ref ha, halignA, ne_eq, not_true_eq_false, if_false, hrd, State.statWrite_ok hb halign hwr]

theorem State.opClipStore_ok (hwr : s.wr (s.ctx n q).part b (leBytes 8 ((s.clip n q (d.cap.bits 9 3 0)).1 +
      2 ^ 32 * (s.clip n q (d.cap.bits 9 3 0)).2)) = .ok u) : State.opClipStore n q d s = u.descDone n q d.seq .ok :=
  State.statWrite_ok hb halign hwr

end Stat

/-- A write of LN_QSEL (R69). -/
theorem exec_lnQselClr {s : State} {n : LnIx} (v : Word) (h : s.PfReaches (Reg.lnQsel n)) :
    exec (.lnQselClr n v) s = .next (s.lnQselWrite n v) := congrArg Host.Outcome.next (State.pfReach_of_reaches h _)

theorem State.lnQselWrite_eq (s : State) (n : Nat) (v : Word) : s.lnQselWrite n v =
    if bitOf v 31 = true then (s.setReg (Reg.lnQsel n) (v &&& 0x3F)).setClip n (bitsOf v 5 4) (bitsOf v 3 0) (0, 0)
    else s.setReg (Reg.lnQsel n) (v &&& 0x3F) := rfl

/-- Settles O18: a LOAD finds its target by its WHAT, and each STAT operation has one write or one pair of counters to clear. -/
theorem tablesAndClipCounters : Obligations.TablesAndClipCounters := by
  unfold Obligations.TablesAndClipCounters
  refine ⟨fun s n q d what i hi hd => ?load, fun s n q d op i hi hd => ?stat, fun s n v hreach => ?qsel⟩
  case load =>
    obtain rfl := SeqCtx.what_of_load hd
    have hexec : exec i s = .next (s.opLoad n q d) := by rw [exec_loadCommand hi, State.onLoad_found hd]
    rw [hexec]
    exact ⟨fun hbusy => congrArg _ (State.opLoad_busy hbusy), fun a hfree ha => ⟨fun hout => congrArg _ (State.opLoad_outside hfree ha hout),
      fun hin => ⟨fun hreuse howner hrtag => congrArg _ (State.opLoad_reused hfree ha hin hreuse howner hrtag),
        fun l hreuse hrd => congrArg _ (State.opLoad_reads hfree ha hin hreuse hrd)⟩⟩⟩
  case stat =>
    rw [exec_statCommand hi hd]
    refine ⟨fun a b l u hop ha hb halignA halign hrd hwr => ?_, fun b u hop hb halign hwr => ?_, fun hop => ?_⟩ <;> subst hop
    · exact congrArg _ (State.opDigFold_ok hb halign ha halignA hrd hwr)
    · exact congrArg _ (State.opClipStore_ok hb halign hwr)
    · rfl
  case qsel =>
    rw [exec_lnQselClr v hreach, State.lnQselWrite_eq]
    exact ⟨fun hclr => congrArg _ (if_neg (by simp [hclr])), fun hclr => congrArg _ (if_pos hclr)⟩

/-! ### SHAPE at its Shaper's turn (R212-R223) -/

theorem exec_shape {s t : State} {c : Cmd} (hc : s.Issued c 0x20) (h : State.opShape c s = t) : exec (.shape c.id) s = .next t :=
  congrArg Host.Outcome.next ((State.runOp_issued hc State.opShape).trans h)

section AtTurn

variable {s s1 : State} {c : Cmd} {n : Nat} (hmem : c.members = [n]) (hdom : s.domOn (shDom n) = true) (hon : s.flag (Reg.shCtrl n) 0 = true)
  (hturn : s.engineTurn (32 + n) c (fun x => x.opcode == 0x20 && x.members == [n]) = (s1, true))
include hmem hdom hon hturn

theorem State.opShape_noProfile {e : Status × Option Nat} (h : s1.readProfile c (c.par 0 8) 64 = .error e) :
    State.opShape c s = (s1.noteFault 0x30 c.part e).shapeEnd c n e.1 0 := by
  simp only [State.opShape, hmem, List.headD_cons, hdom, hon, Bool.true_eq_false, false_and, if_false, hturn, h, State.shapeFail]

variable {f d : List Byte} (hf : s1.readProfile c (c.par 0 8) 64 = .ok f) (hd : s1.frameDesc c 8 = .ok d)
include hf hd

theorem State.opShape_badFields (h : shapeOk f d = false) :
    State.opShape c s = (s1.bump (Reg.shStat n) 23 16 1).endCmd c.id .badOpcode 0 := by
  simp only [State.opShape, hmem, List.headD_cons, hdom, hon, Bool.true_eq_false, false_and, if_false, hturn, hf, hd, h, if_true,
    State.shapeEnd, true_or]

theorem State.opShape_runs (h : shapeOk f d = true) {da : Nat} (hda : s1.translate c.part (c.par 16 8) (shapeExtent f) .wr = some da)
    (hrange : s1.rangeStatus da (shapeExtent f) = .ok) : State.opShape c s = s1.shapeRun c n f d da := by
  simp only [State.opShape, hmem, List.headD_cons, hdom, hon, Bool.true_eq_false, false_and, if_false, hturn, hf, hd, h, hda, hrange]

end AtTurn

/-- With its Shades open, a SHAPE whose pixels are all written counts what saturated and reports its Shaper (R145, R223). -/
theorem State.shapeRun_ok {s s2 : State} {c : Cmd} {n da sat : Nat} {f d : List Byte} (hshades : ∀ path, (s.shade c.part path).rate = 0)
    (hpixels : s.shapePixels c.part f d (shapeGeom f d) da 0 0 (spOw f * spOh f) = (s2, sat, .ok)) :
    s.shapeRun c n f d da = (s2.bump (Reg.shStat n) 15 0 sat).endCmd c.id .ok (BitVec.ofNat 32 n) := by
  have hneither : ¬ (Status.ok = .badOpcode ∨ Status.ok = .bounds) := by decide
  simp only [State.shapeRun, State.shadeAskAll_unregulated hshades, hpixels, State.shapeEnd, hneither, if_false, if_true]

/-! ### SHAPE without a Shaper (R228) -/

theorem State.opShape_noShaper {s : State} {c : Cmd} {n : Nat} (hmem : c.members = [n]) (hdom : s.domOn (shDom n) = false)
    (hnone : ∀ m < 4, (s.limit c.part 8 1).testBit m = true → s.domOn (shDom m) = false) : State.opShape c s = s.endCmd c.id .isolated 0 := by
  have hfind : (List.range 4).find? (fun m => (s.limit c.part 8 1).testBit m && s.domOn (shDom m)) = none := by
    rw [List.find?_eq_none]
    intro m hm
    cases hbit : (s.limit c.part 8 1).testBit m with
    | false => simp
    | true => simp [hnone m (List.mem_range.mp hm) hbit]
  simp only [State.opShape, hmem, List.headD_cons, hdom, if_true, State.shapeMove, hfind]

/-! ### Pixels beside the image (R216) -/

theorem State.shapePixel_letterbox {s : State} {p x y : Nat} {f d : List Byte} {g : Geom}
    (hout : x < g.px ∨ g.px + g.rw ≤ x ∨ y < g.py ∨ g.py + g.rh ≤ y) : s.shapePixel p f d g x y = .ok (padRgb f) :=
  if_neg (by omega)

/-- Settles O28: a SHAPE that has its turn goes through its checks in order, and once they pass its pixels decide its end. -/
theorem shapeWritesItsTensor : Obligations.ShapeWritesItsTensor := by
  unfold Obligations.ShapeWritesItsTensor
  refine ⟨fun s c n s1 f d da hc hmem hdom hon hturn => ?turn,
    fun s c n hc hmem hdom hnone => exec_shape hc (State.opShape_noShaper hmem hdom hnone),
    fun s p f d g x y hout => State.shapePixel_letterbox hout⟩
  case turn =>
    refine ⟨fun e he => exec_shape hc (State.opShape_noProfile hmem hdom hon hturn he), fun hf hd =>
      ⟨fun hbad => exec_shape hc (State.opShape_badFields hmem hdom hon hturn hf hd hbad), fun hok hda hrange hshades s2 sat hpixels => ?_⟩⟩
    have hruns := State.opShape_runs hmem hdom hon hturn hf hd hok hda hrange
    exact exec_shape hc (hruns.trans (State.shapeRun_ok hshades hpixels))

end Sys2Proof.Machine

/-!
PROOFS. The Snuffer and Tracker chapter: suppression (R153), the SNUFF, TRACK and TRACK_RESET commands (R148-R166, R171, R241), and the
rebuild of the grid index (R165, R166).
-/

namespace Sys2Proof.Machine

/-! ### Suppression (R153) -/

/-- A candidate x, accepted before c, removes it. -/
abbrev Cand.Suppresses (agn : Bool) (thr : Word) (x c : Cand) : Prop := (agn = true ∨ x.cls = c.cls) ∧ iouAbove thr c x = true

theorem any_suppresses_iff {agn : Bool} {thr : Word} {c : Cand} {acc : List Cand} :
    acc.any (fun a => (agn || a.cls == c.cls) && iouAbove thr c a) = true ↔ ∃ x ∈ acc, x.Suppresses agn thr c := by
  simp [Cand.Suppresses]

/-- What suppression accepts of its list it puts behind what it had accepted, in the list's order. -/
theorem suppress_extends (agn : Bool) (thr : Word) (limit : Nat) (l acc : List Cand) :
    ∃ k, k.Sublist l ∧ (suppress agn thr limit l acc).1 = acc.reverse ++ k := by
  fun_induction suppress agn thr limit l acc with
  | case1 acc => exact ⟨[], .slnil, by simp⟩
  | case2 c t acc hfull => exact ⟨[], List.nil_sublist _, by simp⟩
  | case3 c t acc hroom hsup ih =>
    obtain ⟨k, hk, hres⟩ := ih
    exact ⟨k, hk.cons c, hres⟩
  | case4 c t acc hroom hfree ih =>
    obtain ⟨k, hk, hres⟩ := ih
    exact ⟨c :: k, hk.cons_cons c, by simp [hres]⟩

theorem mem_suppress_of_accepted {agn : Bool} {thr : Word} {limit : Nat} {l acc : List Cand} {x : Cand} (hx : x ∈ acc) :
    x ∈ (suppress agn thr limit l acc).1 := by
  obtain ⟨k, -, hres⟩ := suppress_extends agn thr limit l acc
  simp [hres, hx]

theorem suppress_length_le {agn : Bool} {thr : Word} {limit : Nat} {l acc : List Cand} (hacc : acc.length ≤ limit) :
    (suppress agn thr limit l acc).1.length ≤ limit := by
  fun_induction suppress agn thr limit l acc with
  | case1 acc | case2 c t acc hfull => simpa using hacc
  | case3 c t acc hroom hsup ih => exact ih hacc
  | case4 c t acc hroom hfree ih => exact ih (Nat.lt_of_not_le hroom)

/-- A candidate is accepted only when none accepted before it suppresses it, so no two accepted ones overlap. -/
theorem suppress_pairwise {agn : Bool} {thr : Word} {limit : Nat} {l acc : List Cand}
    (hacc : acc.reverse.Pairwise fun x y => ¬ x.Suppresses agn thr y) :
    (suppress agn thr limit l acc).1.Pairwise fun x y => ¬ x.Suppresses agn thr y := by
  fun_induction suppress agn thr limit l acc with
  | case1 acc | case2 c t acc hfull => exact hacc
  | case3 c t acc hroom hsup ih => exact ih hacc
  | case4 c t acc hroom hfree ih =>
    have hnone : ∀ x ∈ acc, ¬ x.Suppresses agn thr c := fun x hx hs => hfree (any_suppresses_iff.mpr ⟨x, hx, hs⟩)
    refine ih ?_
    rw [List.reverse_cons, List.pairwise_append]
    exact ⟨hacc, List.pairwise_singleton _ _, by simpa using hnone⟩

/-- When the limit cuts nothing off, every candidate is accepted or suppressed by one that is. -/
theorem suppress_complete {agn : Bool} {thr : Word} {limit : Nat} {l acc : List Cand} (hend : (suppress agn thr limit l acc).2 = false) :
    ∀ c ∈ l, c ∈ (suppress agn thr limit l acc).1 ∨ ∃ x ∈ (suppress agn thr limit l acc).1, x.Suppresses agn thr c := by
  fun_induction suppress agn thr limit l acc with
  | case1 acc => exact fun c hc => absurd hc List.not_mem_nil
  | case2 c t acc hfull => exact absurd hend Bool.noConfusion
  | case3 c t acc hroom hsup ih =>
    obtain ⟨x, hx, hs⟩ := any_suppresses_iff.mp hsup
    exact List.forall_mem_cons.mpr ⟨.inr ⟨x, mem_suppress_of_accepted hx, hs⟩, ih hend⟩
  | case4 c t acc hroom hfree ih =>
    exact List.forall_mem_cons.mpr ⟨.inl (mem_suppress_of_accepted List.mem_cons_self), ih hend⟩

/-- Settles O29: each part is an invariant of the list of accepted candidates, which begins empty. -/
theorem suppressionKeepsNoOverlap : Obligations.SuppressionKeepsNoOverlap := by
  unfold Obligations.SuppressionKeepsNoOverlap
  intro agn thr limit l
  obtain ⟨k, hk, hres⟩ := suppress_extends agn thr limit l []
  have hapart := suppress_pairwise (agn := agn) (thr := thr) (limit := limit) (l := l) (acc := []) List.Pairwise.nil
  refine ⟨suppress_length_le (Nat.zero_le _), ?_, hapart.imp ?_, suppress_complete⟩
  · rw [hres]
    exact hk
  · exact fun hnot hclass => Bool.eq_false_iff.mpr fun habove => hnot ⟨hclass, habove⟩

/-! ### SNUFF (R148-R155, R241) -/

theorem exec_snuff {s t : State} {c : Cmd} (hc : s.Issued c 0x50) (h : State.opSnuff c s = t) : exec (.snuff c.id) s = .next t :=
  congrArg Host.Outcome.next ((State.runOp_issued hc State.opSnuff).trans h)

theorem State.opSnuff_off {s : State} {c : Cmd} {st : Stream} (hst : s.stream? c.part c.stream = some st)
    (hoff : (s.flag (Reg.ppCtrl st.quad) 0 = false ∧ c.begun = false) ∨ s.domOn (quadDom st.quad) = false) :
    State.opSnuff c s = s.endCmd c.id .isolated 0 := by
  simp only [State.opSnuff, hst, hoff, if_true]

/-- With its Shades open, a SNUFF that has its turn and its inputs ends with its list. -/
theorem State.opSnuff_done {s s1 : State} {c : Cmd} {st : Stream} {f sp d : List Byte} {vs : List Level}
    (hst : s.stream? c.part c.stream = some st) (hon : s.flag (Reg.ppCtrl st.quad) 0 = true) (hdom : s.domOn (quadDom st.quad) = true)
    (hturn : s.engineTurn (40 + st.quad) c (fun x => x.opcode == 0x50 && x.members == [st.quad]) = (s1, true))
    (hin : s1.snuffInputs c = .ok (f, sp, d, vs)) (hshades : ∀ path, (s1.shade c.part path).rate = 0) :
    State.opSnuff c s = s1.snuffDone c st.quad (snuffList f sp d vs) := by
  simp only [State.opSnuff, hst, hon, hdom, Bool.true_eq_false, false_and, or_self, if_false, hturn, hin,
    State.shadeAskAll_unregulated hshades]

/-! ### TRACK (R156-R166, R171, R241) -/

theorem exec_track {s t : State} {c : Cmd} {tk : List TokenList} (hc : s.Issued c 0x51) (h : State.opTrack tk c s = t) :
    exec (.track ⟨c.id, tk⟩) s = .next t :=
  congrArg Host.Outcome.next ((State.runOp_issued hc (State.opTrack tk)).trans h)

theorem State.opTrack_off {s : State} {c : Cmd} {st : Stream} (tk : List TokenList) (hst : s.stream? c.part c.stream = some st)
    (hoff : (s.flag (Reg.ppCtrl st.quad) 1 = false ∧ c.begun = false) ∨ s.domOn (quadDom st.quad) = false) :
    State.opTrack tk c s = s.endCmd c.id .isolated 0 := by
  simp only [State.opTrack, hst, hoff, if_true]

/-- A TRACK that has its turn, its inputs and a place for its record does its work after the boundary of the index. -/
theorem State.opTrack_goes {s s0 : State} {c : Cmd} {st : Stream} {f d : List Byte} {dg : Nat} (tk : List TokenList)
    (hst : s.stream? c.part c.stream = some st) (hon : s.flag (Reg.ppCtrl st.quad) 1 = true) (hdom : s.domOn (quadDom st.quad) = true)
    (hturn : s.engineTurn (48 + st.quad) c (fun x => (x.opcode == 0x51 || x.opcode == 0x52) && x.members == [st.quad]) = (s0, true))
    (hf : (s0.indexBoundary st.quad).readProfile c (c.par 0 8) 64 = .ok f) (hok : tkOk f = true)
    (hd : (s0.indexBoundary st.quad).frameDesc c 8 = .ok d) (hdg : (s0.indexBoundary st.quad).trackDigest c st = .ok dg)
    (hdst : (s0.indexBoundary st.quad).trackDstOk c = true) :
    State.opTrack tk c s = (s0.indexBoundary st.quad).trackGo c st f d dg tk := by
  simp only [State.opTrack, hst, hon, hdom, Bool.true_eq_false, false_and, or_self, if_false, hturn, hf, hok, hd, hdg, hdst, if_true]

theorem State.trackDstOk_frame {s : State} {c : Cmd} {p : PartIx} {ix : StreamIx} {slot : Nat} (h : c.src = .frame p ix slot) : s.trackDstOk c = true := by
  simp only [State.trackDstOk, h]

theorem State.trackDstOk_noAddress {s : State} {c : Cmd} (h : c.par 16 8 = 0) : s.trackDstOk c = true := by
  unfold State.trackDstOk
  split
  · rfl
  · simp [h]

theorem State.trackEmit_frame {s old : State} {c : Cmd} {st : Stream} {d : List Byte} {o : TrackOut} {p : PartIx}
    {ix : StreamIx} {slot : Nat} (h : c.src = .frame p ix slot) :
    s.trackEmit old c st d o = ((s.updStream c.part c.stream fun x => { x with objs := o.objs }).updJob c fun j =>
      { j with track := some o }).endCmd c.id .ok (BitVec.ofNat 32 (o.objs.length % 65536)) := by
  simp only [State.trackEmit, h]

/-- A TRACK on a ring without a destination, of a stream without outputs, leaves no record. -/
theorem State.trackEmit_ring {s old : State} {c : Cmd} {st : Stream} {d : List Byte} {o : TrackOut} {r : RingIx}
    (h : c.src = .ring r) (hdst : c.par 16 8 = 0) (hring : st.outRing = false) (heth : st.outEth = false) :
    s.trackEmit old c st d o = (s.updStream c.part c.stream fun x => { x with objs := o.objs }).endCmd c.id .ok
      (BitVec.ofNat 32 (o.objs.length % 65536)) := by
  simp only [State.trackEmit, h, hdst, ne_eq, not_true_eq_false, if_false, hring, heth, Bool.or_self, Bool.false_eq_true]

theorem State.trackGo_eq {s s2 : State} {c : Cmd} {st : Stream} {f d : List Byte} {dg next : Nat} {o : TrackOut} (tk : List TokenList)
    (hrun : s.trackRun c.part c.stream st f c.det (fieldAt d 0 4) dg (s.trackDets c st) = (s2, o, next)) :
    s.trackGo c st f d dg tk = (s2.updStream c.part c.stream fun x =>
      { x with nextTrack := next, lastSeq := some (fieldAt d 0 4), snuff := none }).trackEmit s c st d { o with tokens := tk } := by
  simp only [State.trackGo, hrun]

/-! ### TRACK_RESET (R164) -/

theorem exec_trackReset {s t : State} {c : Cmd} (hc : s.Issued c 0x52) (h : State.opTrackReset c s = t) :
    exec (.trackReset c.id) s = .next t :=
  congrArg Host.Outcome.next ((State.runOp_issued hc State.opTrackReset).trans h)

theorem State.opTrackReset_turn {s s1 : State} {c : Cmd} {st : Stream} (hst : s.stream? c.part c.stream = some st)
    (hturn : s.engineTurn (48 + st.quad) c (fun x => (x.opcode == 0x51 || x.opcode == 0x52) && x.members == [st.quad]) = (s1, true)) :
    State.opTrackReset c s = ((s1.dropTracks st.quad c.part c.stream).updStream c.part c.stream fun x =>
      { x with nextTrack := 1, lastSeq := none }).endCmd c.id .ok (BitVec.ofNat 32 ((s1.quad st.quad).ofStream c.part c.stream).length) := by
  simp only [State.opTrackReset, hst, hturn]

theorem State.TablesOrdered.quads {s : State} (h : s.TablesOrdered) : Ordered s.quads := by
  obtain ⟨-, -, -, -, -, -, -, -, -, hquads⟩ := h
  exact hquads

theorem State.tracks_dropTracks {s : State} (h : Ordered s.quads) (q p ix : Nat) :
    ((s.dropTracks q p ix).quad q).tracks =
      (s.quad q).tracks.filter fun x => !(((s.quad q).ofStream p ix).map (·.1)).contains x.1 := by
  rw [State.dropTracks, State.quad_setQuad_same _ _ _ h]

/-- A track of the stream that were still there would have its slot among the dropped ones. -/
theorem State.ofStream_dropTracks {s : State} (h : Ordered s.quads) (q p ix : Nat) :
    ((s.dropTracks q p ix).quad q).ofStream p ix = [] := by
  rw [Quad.ofStream, State.tracks_dropTracks h, List.filter_eq_nil_iff]
  intro x hx hstream
  obtain ⟨hmem, hkept⟩ := List.mem_filter.mp hx
  have hgone : x.1 ∈ ((s.quad q).ofStream p ix).map (·.1) := List.mem_map_of_mem (List.mem_filter.mpr ⟨hmem, hstream⟩)
  simp [hgone] at hkept

/-! ### The rebuild of the index (R165, R166) -/

theorem exec_indexRebuildPass_off {s : State} {q : QuadIx} (h : s.domOn (quadDom q) = false) : exec (.indexRebuildPass q) s = .next s :=
  congrArg Host.Outcome.next (if_neg (by simp [h]))

theorem exec_indexRebuildPass_on {s : State} {q : QuadIx} (h : s.domOn (quadDom q) = true) :
    exec (.indexRebuildPass q) s = .next (s.rebuildIndex q) :=
  congrArg Host.Outcome.next (if_pos h)

/-- Settles O30: with the turn and the inputs given, every check on a command's way passes and its last operation remains; the tables stay
ordered up to the turn of a TRACK_RESET, so the Quad written there is the one read back. -/
theorem snuffAndTrackCommands : Obligations.SnuffAndTrackCommands := by
  unfold Obligations.SnuffAndTrackCommands
  refine ⟨fun s c st s1 f sp d vs hc hst => ⟨fun hoff => exec_snuff hc (State.opSnuff_off hst hoff), fun hon hdom hturn hin hshades =>
      exec_snuff hc (State.opSnuff_done hst hon hdom hturn hin hshades)⟩,
    fun s c st s0 f d dg tk hc hst => ⟨fun hoff => exec_track hc (State.opTrack_off tk hst hoff),
      fun hon hdom hturn hf hok hd hdg s2 o next hrun => ?track⟩,
    fun s c st s1 hc hst hturn => ⟨exec_trackReset hc (State.opTrackReset_turn hst hturn), fun hcanon => ?reset⟩,
    fun s q => ⟨exec_indexRebuildPass_off, exec_indexRebuildPass_on⟩⟩
  case track =>
    have hgo := fun hdst => (State.opTrack_goes tk hst hon hdom hturn hf hok hd hdg hdst).trans (State.trackGo_eq tk hrun)
    exact ⟨fun p ix slot hsrc => exec_track hc ((hgo (State.trackDstOk_frame hsrc)).trans (State.trackEmit_frame hsrc)),
      fun r hsrc hdst hring heth =>
        exec_track hc ((hgo (State.trackDstOk_noAddress hdst)).trans (State.trackEmit_ring hsrc hdst hring heth))⟩
  case reset =>
    have hkept : Kept s s1 := .ofFst hturn (State.engineTurn_kept _ c _ (Kept.refl s))
    have hquads := (hkept.tabs hcanon.tabs).quads
    exact ⟨State.ofStream_dropTracks hquads .., State.tracks_dropTracks hquads ..⟩

end Sys2Proof.Machine

/-!
PROOFS. The network ingest chapter: frames on the links (R172-R174, R176, R177), sequence order and gap holds (R179, R180), idle access
units (R182, R185), and the snapshot of an entry (R190, R191).
-/

namespace Sys2Proof.Machine

/-! ### Frames on a link (R172-R174, R176, R177) -/

theorem exec_ethFrameReceive {s t : State} {port : EpIx} {link : Fin 4} {fr : List Byte} {ok full : Bool}
    (h : s.ethReceive port link fr ok full = t) : exec (.ethFrameReceive port link fr ok full) s = .next t :=
  congrArg Host.Outcome.next h

section Receive

variable {s : State} {port link : Nat} {fr : List Byte} {ok full : Bool}

theorem State.ethReceive_linkDown (h : s.linkUp port link = false) : s.ethReceive port link fr ok full = s := if_pos h

variable (hup : s.linkUp port link = true)
include hup

theorem State.ethReceive_full : s.ethReceive port link fr ok true = s.bump (Reg.ethDrop port) 15 0 1 := by
  simp [State.ethReceive, hup]

/-- A frame with an error is counted, be it one of the FCS, of the length or of the headers. -/
theorem State.ethReceive_damaged (h : ok = false ∨ 9216 < fr.length + 4 ∨ fr.length + 4 < 64 ∨ frameKind fr = .bad) :
    s.ethReceive port link fr ok false = s.bump (Reg.ethDrop port) 31 16 1 := by
  simp only [State.ethReceive, hup, Bool.true_eq_false, Bool.false_eq_true, if_false]
  by_cases hsize : ok = false ∨ 9216 < fr.length + 4 ∨ fr.length + 4 < 64
  · exact if_pos hsize
  · have hbad : frameKind fr = .bad := by tauto
    rw [if_neg hsize, hbad]

variable (hmax : fr.length + 4 ≤ 9216) (hmin : 64 ≤ fr.length + 4)
include hmax hmin

theorem State.ethReceive_ptp (h : frameKind fr = .ptp) : s.ethReceive port link fr true false = s := by
  simp [State.ethReceive, hup, Nat.not_lt.mpr hmax, Nat.not_lt.mpr hmin, h]

theorem State.ethReceive_other (h : frameKind fr = .other) : s.ethReceive port link fr true false = s.excPush port link fr := by
  simp [State.ethReceive, hup, Nat.not_lt.mpr hmax, Nat.not_lt.mpr hmin, h]

variable {d : Datagram} (hudp : frameKind fr = .udp d)
include hudp

theorem State.ethReceive_unmatched (h : s.flag Reg.ingCtrl 0 = false ∨ s.matchEntry port link d = none) :
    s.ethReceive port link fr true false = s.excPush port link fr := by
  simp only [State.ethReceive, hup, hudp, Nat.not_lt.mpr hmax, Nat.not_lt.mpr hmin, Bool.true_eq_false, Bool.false_eq_true, or_self, if_false]
  rcases h with hoff | hnone
  · exact if_pos hoff
  · rw [hnone, ite_self]

/-- A datagram that an entry takes is RTCP or RTP for it. -/
theorem State.ethReceive_matched {e : Nat} {x : Entry} (hen : s.flag Reg.ingCtrl 0 = true) (hm : s.matchEntry port link d = some e)
    (hx : s.entry? e = some x) : s.ethReceive port link fr true false =
      if x.isRtcp d then s.rtcpPacket e x d port link fr else s.rtpPacket e x d fr (s.rxTime port) := by
  simp [State.ethReceive, hup, Nat.not_lt.mpr hmax, Nat.not_lt.mpr hmin, hudp, hen, hm, hx]

end Receive

theorem State.rtcpPacket_badSum {s : State} {d : Datagram} (e : Nat) (x : Entry) (port link : Nat) (fr : List Byte) (h : d.csumOk = false) :
    s.rtcpPacket e x d port link fr = s.entryCount e 4 1 := if_pos h

theorem State.rtcpPacket_report {s : State} {x : Entry} {d : Datagram} {ss : Nat} {r : SenderReport} (e port link : Nat) (fr : List Byte)
    (hsum : d.csumOk = true) (hlock : x.locked = some ss) (hsr : findSr ss d.payload d.payload.length = some r) :
    s.rtcpPacket e x d port link fr = s.updEntry e fun y => { y with sr := some r } := by
  simp [State.rtcpPacket, hsum, hlock, hsr]

/-! ### The exception queue (R173) -/

theorem State.excPush_disabled {s : State} (port link : Nat) (fr : List Byte) (h : s.flag Reg.ingCtrl 1 = false) :
    s.excPush port link fr = s.bump Reg.ingUnm 15 0 1 := if_pos h

theorem State.excPush_full {s : State} (port link : Nat) (fr : List Byte) (hen : s.flag Reg.ingCtrl 1 = true) (h : 64 ≤ s.excq.length) :
    s.excPush port link fr = s.bump Reg.ingUnm 31 16 1 := by
  simp [State.excPush, hen, h]

theorem State.excPush_queued {s : State} (port link : Nat) (fr : List Byte) (hen : s.flag Reg.ingCtrl 1 = true) (h : s.excq.length < 64) :
    s.excPush port link fr = { s with excq := s.excq ++ [(port, link, leBytes 8 (nsStamp (s.rxTime port)) ++ fr)] } := by
  simp [State.excPush, hen, Nat.not_le.mpr h]

/-! ### A packet against HIGH (R179) -/

/-- A packet of the source in force, or before there is one, is no jump candidate for its source. -/
theorem Entry.sameSource {x : Entry} {k : Packet} (h : x.locked = none ∨ x.locked = some k.ssrc) :
    ¬ (x.locked.isSome = true ∧ x.locked ≠ some k.ssrc) := by
  rcases h with h | h <;> simp [h]

section Classify

variable {s : State} {x : Entry} {k : Packet} {high next : Int} (e : Nat) (bs : List Byte)
  (hseq : x.seq = some (high, next)) (hlock : x.locked = none ∨ x.locked = some k.ssrc)
include hseq hlock

include hseq hlock

theorem State.classify_duplicate (hd : (k.num - high) % 65536 = 0) : s.classify e x k bs = s.entryCount e 3 1 := by
  simp only [State.classify, hseq, Entry.sameSource hlock, hd, if_true, if_false]

theorem State.classify_ahead (h0 : 0 < (k.num - high) % 65536) (h1 : (k.num - high) % 65536 < 0x8000)
    (hnear : high + (k.num - high) % 65536 < next + 512) : s.classify e x k bs =
      ((s.dropCands e).updEntry e fun y => { y with seq := some (high + (k.num - high) % 65536, next) }).accept e
        { k with num := high + (k.num - high) % 65536 } bs := by
  simp only [State.classify, hseq, Entry.sameSource hlock, h0.ne', h1, Int.not_le.mpr hnear, if_true, if_false]

section Behind

variable (hd : 0x8000 < (k.num - high) % 65536)
include hd

/-- A packet behind HIGH is late below NEXT, and accepted from there on unless it is already held. -/
theorem State.classify_behind : s.classify e x k bs =
    if next ≤ high - (0x10000 - (k.num - high) % 65536) then
      if x.packets.any fun q => q.num == high - (0x10000 - (k.num - high) % 65536) then (s.dropCands e).entryCount e 3 1
      else (s.dropCands e).accept e { k with num := high - (0x10000 - (k.num - high) % 65536) } bs
    else if next - 512 ≤ high - (0x10000 - (k.num - high) % 65536) then s.entryCount e 2 1 else (s.entryCount e 2 1).candidate e k bs := by
  have h0 : (k.num - high) % 65536 ≠ 0 := by omega
  have h1 : ¬ (k.num - high) % 65536 < 0x8000 := by omega
  simp only [State.classify, hseq, Entry.sameSource hlock, h0, h1, hd, if_true, if_false]

theorem State.classify_late (hlow : high - (0x10000 - (k.num - high) % 65536) < next)
    (hnear : next - 512 ≤ high - (0x10000 - (k.num - high) % 65536)) : s.classify e x k bs = s.entryCount e 2 1 := by
  rw [State.classify_behind e bs hseq hlock hd, if_neg (Int.not_le.mpr hlow), if_pos hnear]

theorem State.classify_within (hlow : next ≤ high - (0x10000 - (k.num - high) % 65536))
    (hnew : ∀ q ∈ x.packets, q.num ≠ high - (0x10000 - (k.num - high) % 65536)) :
    s.classify e x k bs = (s.dropCands e).accept e { k with num := high - (0x10000 - (k.num - high) % 65536) } bs := by
  rw [State.classify_behind e bs hseq hlock hd, if_pos hlow, if_neg (by simpa using hnew)]

end Behind

end Classify

/-! ### Links (R172) -/

/-- What a link needs to come up: its port's domain, its enable, a port of four links or link 0, a FEC code that is not reserved, and no
BASE-R FEC on the one 100G link. -/
theorem State.linkAllowed_iff (s : State) (port link : Nat) : s.linkAllowed port link = true ↔
    s.domOn (epDom port) = true ∧ bitOf (s.reg (Reg.ethPort port)) (16 + link) = true ∧ (bitOf (s.reg (Reg.ethPort port)) 0 = true ∨ link = 0) ∧
      bitsOf (s.reg (Reg.ethPort port)) 9 8 ≠ 3 ∧ (bitOf (s.reg (Reg.ethPort port)) 0 = true ∨ bitsOf (s.reg (Reg.ethPort port)) 9 8 ≠ 2) := by
  simp [State.linkAllowed, and_assoc]

theorem exec_ethLinkChange {s : State} {port : EpIx} {link : Fin 4} {up b : Bool} (h : (up && s.linkAllowed port link) = b) :
    exec (.ethLinkChange port link up) s = .next (s.setFlag (Reg.ethPort port) (28 + link) b) := by
  subst h
  rfl

/-- Settles O24: each clause is one branch of the frame's way, of the exception queue, of the comparison with HIGH, or of the link's conditions. -/
theorem framesAreFilteredAndOrdered : Obligations.FramesAreFilteredAndOrdered := by
  unfold Obligations.FramesAreFilteredAndOrdered
  refine ⟨?frames, ?queue, ?order, ?links⟩
  case frames =>
    intro s port link fr ok full
    refine ⟨fun hdown => exec_ethFrameReceive (State.ethReceive_linkDown hdown), ?full, ?damaged, ?good⟩
    case full =>
      rintro hup rfl
      exact exec_ethFrameReceive (State.ethReceive_full hup)
    case damaged =>
      rintro hup rfl hbad
      exact exec_ethFrameReceive (State.ethReceive_damaged hup hbad)
    case good =>
      rintro hup rfl rfl hmax hmin
      refine ⟨fun hk => exec_ethFrameReceive (State.ethReceive_ptp hup hmax hmin hk),
        fun hk => exec_ethFrameReceive (State.ethReceive_other hup hmax hmin hk),
        fun d hk => ⟨fun hno => exec_ethFrameReceive (State.ethReceive_unmatched hup hmax hmin hk hno), fun e x hen hm hx => ?_⟩⟩
      have htaken := State.ethReceive_matched hup hmax hmin hk hen hm hx
      exact ⟨fun hrtp => exec_ethFrameReceive (htaken.trans (if_neg (by simp [hrtp]))),
        fun hrtcp hsum => exec_ethFrameReceive ((htaken.trans (if_pos hrtcp)).trans (State.rtcpPacket_badSum e x port link fr hsum)),
        fun ss r hrtcp hsum hlock hsr =>
          exec_ethFrameReceive ((htaken.trans (if_pos hrtcp)).trans (State.rtcpPacket_report e port link fr hsum hlock hsr))⟩
  case queue =>
    exact fun s port link fr => ⟨s.excPush_disabled port link fr, s.excPush_full port link fr, s.excPush_queued port link fr⟩
  case order =>
    exact fun s e x k bs high next hseq hlock => ⟨State.classify_duplicate e bs hseq hlock, State.classify_late e bs hseq hlock,
      State.classify_ahead e bs hseq hlock, State.classify_within e bs hseq hlock⟩
  case links =>
    intro s port link up
    refine ⟨fun hup hmay => exec_ethLinkChange ?_, fun hno => exec_ethLinkChange ?_⟩
    · rw [hup, (s.linkAllowed_iff port link).mpr hmay, Bool.and_self]
    · rcases hno with hdown | hnot
      · rw [hdown, Bool.false_and]
      · rw [Bool.eq_false_iff.mpr (mt (s.linkAllowed_iff port link).mp hnot), Bool.and_false]

/-! ### The order of an entry's packets (R179, R180) -/

theorem State.entry?_updEntry_same (s : State) (e : Nat) (f : Entry → Entry) : (s.updEntry e f).entry? e = (s.entry? e).map f :=
  tabFind_tabUpd_same ..

theorem State.entry?_congr {s t : State} (h : t.entries = s.entries) (e : Nat) : t.entry? e = s.entry? e := by
  rw [State.entry?, State.entry?, h]

theorem State.dec?_congr {s t : State} (h : t.decs = s.decs) (c : Nat) : t.dec? c = s.dec? c := by
  rw [State.dec?, State.dec?, h]

section Apart

variable (s : State) (e c k n : Nat) (f : Entry → Entry) (g : DecCtx → DecCtx)

@[simp] theorem State.dec?_updEntry : (s.updEntry e f).dec? c = s.dec? c := rfl
@[simp] theorem State.dec?_entryCount : (s.entryCount e k n).dec? c = s.dec? c := rfl
@[simp] theorem State.bufs_updEntry : (s.updEntry e f).bufs = s.bufs := rfl
@[simp] theorem State.bufs_entryCount : (s.entryCount e k n).bufs = s.bufs := rfl
@[simp] theorem State.entry?_updDec : (s.updDec c g).entry? e = s.entry? e := rfl
@[simp] theorem State.entry?_fresh : s.fresh.2.entry? e = s.entry? e := rfl

end Apart

/-- HIGH and NEXT of an entry, and the packets that it holds. -/
def State.orderOf (s : State) (e : Nat) : Option (Option (Int × Int) × List Packet) := (s.entry? e).map fun x => (x.seq, x.packets)

theorem State.orderOf_congr {s t : State} (h : t.entries = s.entries) (e : Nat) : t.orderOf e = s.orderOf e := by
  rw [State.orderOf, State.orderOf, State.entry?_congr h]

@[simp] theorem State.orderOf_updEntry (s : State) (e : Nat) {f : Entry → Entry} (hf : ∀ x, (f x).seq = x.seq ∧ (f x).packets = x.packets) :
    (s.updEntry e f).orderOf e = s.orderOf e := by
  rw [State.orderOf, State.orderOf, State.entry?_updEntry_same, Option.map_map]
  congr 1
  funext x
  obtain ⟨hseq, hpackets⟩ := hf x
  rw [Function.comp_apply, hseq, hpackets]

@[simp] theorem State.orderOf_entryCount (s : State) (e k n : Nat) : (s.entryCount e k n).orderOf e = s.orderOf e :=
  s.orderOf_updEntry e fun _ => ⟨rfl, rfl⟩

/-! ### An access unit is written and queued (R182, R185, R204) -/

/-- The conditions under which a pool gives a buffer to a partition (R277, R281). -/
def State.poolOpen (s : State) (p k : Nat) : Bool := s.poolEn k && !s.poolInit.contains k && s.quotaAllows p k 1 && !s.stateTableLost

/-- An allocation takes the eligible buffer of the pool. -/
theorem State.allocPool_eq_some_iff {s s1 : State} {p k h : Nat} : s.allocPool p k = some (s1, h) ↔ s.poolOpen p k = true ∧
    ∃ i, s.eligible p k = some i ∧ s1 = s.setBuf k i { s.buf k i with slots := [some p, none, none, none] } ∧
      h = handleOf (s.buf k i).gen.toNat k i := by
  cases hi : s.eligible p k with
  | none => simp [State.allocPool, State.takeBufs, hi]
  | some i =>
    have hexpand : s.allocPool p k = if s.poolOpen p k then
        some (s.setBuf k i { s.buf k i with slots := [some p, none, none, none] }, handleOf (s.buf k i).gen.toNat k i) else none := by
      simp only [State.allocPool, State.takeBufs, hi]
      rfl
    rw [hexpand]
    cases s.poolOpen p k <;> simp [@eq_comm _ s1, @eq_comm _ h]

/-- A taken buffer changes the records of the buffers alone. -/
theorem State.allocPool_frame {s s1 : State} {p k h : Nat} (ha : s.allocPool p k = some (s1, h)) : s1 = { s with bufs := s1.bufs } := by
  obtain ⟨-, i, -, rfl, -⟩ := State.allocPool_eq_some_iff.mp ha
  rfl

/-- The entries do not matter for an allocation: with others the same buffer is taken. -/
theorem State.allocPool_entries {s s1 : State} {p k h : Nat} (ha : s.allocPool p k = some (s1, h)) (es : Tab Entry) :
    ∃ u, ({ s with entries := es } : State).allocPool p k = some (u, h) ∧ u.entries = es ∧ u.decs = s.decs ∧ u.bufs = s1.bufs := by
  obtain ⟨hopen, i, hi, rfl, rfl⟩ := State.allocPool_eq_some_iff.mp ha
  exact ⟨_, State.allocPool_eq_some_iff.mpr ⟨hopen, i, hi, rfl, rfl⟩, rfl, rfl, rfl⟩

theorem State.shadeTake_frame (s : State) (p path n : Nat) : s.shadeTake p path n = { s with parts := (s.shadeTake p path n).parts } := by
  unfold State.shadeTake
  dsimp only
  split
  · rfl
  · split <;> rfl

/-- The state in which the ingest has written bytes to the buffer of a handle, as far as its memory answers. -/
def State.ingestStored (s : State) (h : Nat) (bs : List Byte) : State :=
  if s.accessStatus (s.handleDa h) = .ok then s.store (s.handleDa h) bs else s

/-- The state in which the bytes stored are also charged to the partition's Shade of their path (R185, R272). -/
def State.ingestWritten (s : State) (p h : Nat) (bs : List Byte) : State :=
  (s.ingestStored h bs).shadeTake p (if (s.ingestStored h bs).unitOf (s.handleDa h) = .dram then 0 else 4) bs.length

theorem State.ingestWritten_frame (s : State) (p h : Nat) (bs : List Byte) : ∃ mem poison ingots banks rmos parts,
    s.ingestWritten p h bs = { s with mem := mem, poison := poison, ingots := ingots, banks := banks, rmos := rmos, parts := parts } := by
  have hstored : ∃ mem poison ingots banks rmos,
      s.ingestStored h bs = { s with mem := mem, poison := poison, ingots := ingots, banks := banks, rmos := rmos } := by
    unfold State.ingestStored
    split
    · exact s.store_frame _ bs
    · exact ⟨_, _, _, _, _, rfl⟩
  obtain ⟨mem, poison, ingots, banks, rmos, hstored⟩ := hstored
  exact ⟨mem, poison, ingots, banks, rmos, _, by rw [State.ingestWritten, State.shadeTake_frame, hstored]⟩

@[simp] theorem State.entries_ingestWritten (s : State) (p h : Nat) (bs : List Byte) : (s.ingestWritten p h bs).entries = s.entries := by
  obtain ⟨_, _, _, _, _, _, hw⟩ := s.ingestWritten_frame p h bs
  rw [hw]

@[simp] theorem State.decs_ingestWritten (s : State) (p h : Nat) (bs : List Byte) : (s.ingestWritten p h bs).decs = s.decs := by
  obtain ⟨_, _, _, _, _, _, hw⟩ := s.ingestWritten_frame p h bs
  rw [hw]

@[simp] theorem State.bufs_ingestWritten (s : State) (p h : Nat) (bs : List Byte) : (s.ingestWritten p h bs).bufs = s.bufs := by
  obtain ⟨_, _, _, _, _, _, hw⟩ := s.ingestWritten_frame p h bs
  rw [hw]

/-- The bytes of an access unit for a decode context: the parameter sets that the context is due, and the framed units. -/
def DecCtx.auBytes (d : DecCtx) (x : Entry) (a : AuOpen) : List Byte :=
  (if d.paramDue && !a.pre then d.params else []) ++ frameUnits x.format a.units

/-- An access unit in the buffer of a handle, as it is queued. -/
def Entry.queuedAu (x : Entry) (a : AuOpen) (gap inc : Bool) (h len id : Nat) : Au := ⟨h, len, gap, inc, x.frameTime a.ts a.first, a.ts, none, id, []⟩

/-- A context with one more access unit in its queue, ahead of which it has got the parameter sets it was due. -/
def DecCtx.withAu (d : DecCtx) (due : Bool) (au : Au) : DecCtx := { d with queue := d.queue ++ [au], paramDue := d.paramDue && !due }

/-- The state in which an access unit is in its buffer and its context's queue, and its entry has counted it. -/
def State.auQueued (s : State) (e : Nat) (x : Entry) (d : DecCtx) (a : AuOpen) (gap inc : Bool) (h : Nat) : State :=
  let s3 := s.ingestWritten x.part h (d.auBytes x a)
  ((s3.fresh.2.updDec x.ctx fun y => y.withAu (d.paramDue && !a.pre) (x.queuedAu a gap inc h (d.auBytes x a).length s3.nextId)).entryCount
    e 6 1).updEntry e fun x => { x with gap := false }

section Queued

variable (s : State) (e : Nat) (x : Entry) (d : DecCtx) (a : AuOpen) (gap inc : Bool) (h : Nat)

theorem State.dec?_auQueued : ∃ id, (s.auQueued e x d a gap inc h).dec? x.ctx =
    (s.dec? x.ctx).map fun y => y.withAu (d.paramDue && !a.pre) (x.queuedAu a gap inc h (d.auBytes x a).length id) := by
  refine ⟨(s.ingestWritten x.part h (d.auBytes x a)).nextId, ?_⟩
  rw [State.auQueued, State.dec?_updEntry, State.dec?_entryCount, State.dec?_updDec_same, State.dec?_fresh,
    State.dec?_congr (s.decs_ingestWritten ..)]

theorem State.entry?_auQueued : (s.auQueued e x d a gap inc h).entry? e =
    (s.entry? e).map fun y => { y with counts := countUp y.counts 6 1, gap := false } := by
  rw [State.auQueued, State.entry?_updEntry_same, State.entryCount, State.entry?_updEntry_same, Option.map_map, State.entry?_updDec,
    State.entry?_fresh, State.entry?_congr (s.entries_ingestWritten ..)]
  rfl

theorem State.bufs_auQueued : (s.auQueued e x d a gap inc h).bufs = s.bufs := by
  rw [State.auQueued, State.bufs_updEntry, State.bufs_entryCount, State.bufs_updDec, State.fresh_bufs, State.bufs_ingestWritten]

end Queued

section Queue

variable {s : State} {x : Entry} {d : DecCtx} (e : Nat) (a : AuOpen) (gap inc : Bool) (hd : s.dec? x.ctx = some d)
include hd

theorem State.auQueue_full (hfull : 64 ≤ d.queue.length) :
    s.auQueue e x a gap inc = (s.auDropped e).updDec x.ctx fun d => { d with nextSeq := (d.nextSeq + 1) % 2 ^ 32 } := by
  simp only [State.auQueue, hd, hfull, if_true]

variable (hroom : d.queue.length < 64)
include hroom

theorem State.auQueue_long (hlong : poolSize x.auPool < (d.auBytes x a).length) : s.auQueue e x a gap inc = s.auDropped e := by
  rw [DecCtx.auBytes] at hlong
  simp only [State.auQueue, hd, Nat.not_le.mpr hroom, hlong, if_true, if_false]

variable (hfits : (d.auBytes x a).length ≤ poolSize x.auPool)
include hfits

theorem State.auQueue_noBuffer (ha : s.allocPool x.part x.auPool = none) : s.auQueue e x a gap inc = s.auDropped e := by
  rw [DecCtx.auBytes] at hfits
  simp only [State.auQueue, hd, Nat.not_le.mpr hroom, Nat.not_lt.mpr hfits, ha, if_false]

theorem State.auQueue_queued {s1 : State} {h : Nat} (ha : s.allocPool x.part x.auPool = some (s1, h)) :
    s.auQueue e x a gap inc = s1.auQueued e x d a gap inc h := by
  have hfits' := hfits
  rw [DecCtx.auBytes] at hfits'
  simp only [State.auQueue, hd, Nat.not_le.mpr hroom, Nat.not_lt.mpr hfits', ha, if_false]
  rfl

end Queue

/-! ### Queueing and depacketising keep the order of the packets -/

@[simp] theorem State.orderOf_auDropped (s : State) (e : Nat) : (s.auDropped e).orderOf e = s.orderOf e := by
  simp [State.auDropped]

theorem State.orderOf_auQueued {s s1 : State} {p k h : Nat} (ha : s.allocPool p k = some (s1, h)) (e : Nat) (x : Entry) (d : DecCtx)
    (a : AuOpen) (gap inc : Bool) : (s1.auQueued e x d a gap inc h).orderOf e = s.orderOf e := by
  have hentries : s1.entries = s.entries := by rw [State.allocPool_frame ha]
  rw [State.orderOf, State.entry?_auQueued, Option.map_map, State.entry?_congr hentries]
  rfl

@[simp] theorem State.orderOf_auQueue (s : State) (e : Nat) (x : Entry) (a : AuOpen) (gap inc : Bool) :
    (s.auQueue e x a gap inc).orderOf e = s.orderOf e := by
  cases hd : s.dec? x.ctx with
  | none => simp only [State.auQueue, hd]
  | some d =>
    by_cases hroom : d.queue.length < 64
    · by_cases hfits : (d.auBytes x a).length ≤ poolSize x.auPool
      · cases ha : s.allocPool x.part x.auPool with
        | none => rw [State.auQueue_noBuffer e a gap inc hd hroom hfits ha, State.orderOf_auDropped]
        | some r => rw [State.auQueue_queued e a gap inc hd hroom hfits ha, State.orderOf_auQueued ha]
      · rw [State.auQueue_long e a gap inc hd hroom (Nat.not_le.mp hfits), State.orderOf_auDropped]
    · rw [State.auQueue_full e a gap inc hd (Nat.not_lt.mp hroom), State.orderOf_congr (State.entries_updDec ..), State.orderOf_auDropped]

@[simp] theorem State.orderOf_auClose (s : State) (e : Nat) : (s.auClose e).orderOf e = s.orderOf e := by
  unfold State.auClose
  split
  · rfl
  · split
    · rfl
    · dsimp only
      split <;> simp

/-- The state in which the open access unit of an entry is closed when a packet has another timestamp. -/
def State.auTurned (s : State) (e : Nat) (x : Entry) (k : Packet) : State :=
  match x.open_ with
  | some a => if a.ts ≠ k.ts then s.auClose e else s
  | none => s

@[simp] theorem State.orderOf_auTurned (s : State) (e : Nat) (x : Entry) (k : Packet) : (s.auTurned e x k).orderOf e = s.orderOf e := by
  unfold State.auTurned
  split
  · split
    · exact s.orderOf_auClose e
    · rfl
  · rfl

/-- A packet that reaches the depacketiser changes the open access unit, the flags and a count of its entry; the access unit may then close. -/
theorem State.depacketise_some {s : State} {e : Nat} {x y : Entry} (k : Packet) (hx : s.entry? e = some x)
    (hy : (s.auTurned e x k).entry? e = some y) : ∃ n o, ∃ gap : Bool, let s1 := ((s.auTurned e x k).entryCount e 4 n).updEntry e fun z =>
        { z with open_ := o, lost := false, gap := if gap then false else z.gap }
      s.depacketise e k = if k.marker then s1.auClose e else s1 := by
  cases ho : x.open_ with
  | none =>
    have hsame : s.auTurned e x k = s := by simp only [State.auTurned, ho]
    rw [hsame] at hy ⊢
    simp only [State.depacketise, hx, ho]
    exact ⟨_, _, _, rfl⟩
  | some a =>
    have hturned : s.auTurned e x k = if a.ts ≠ k.ts then s.auClose e else s := by simp only [State.auTurned, ho]
    rw [hturned] at hy ⊢
    simp only [State.depacketise, hx, ho, hy]
    exact ⟨_, _, _, rfl⟩

/-- The depacketiser changes neither HIGH and NEXT nor the packets that are held. -/
@[simp] theorem State.orderOf_depacketise (s : State) (e : Nat) (k : Packet) : (s.depacketise e k).orderOf e = s.orderOf e := by
  cases hx : s.entry? e with
  | none => simp only [State.depacketise, hx]
  | some x =>
    have hturned := s.orderOf_auTurned e x k
    cases hy : (s.auTurned e x k).entry? e with
    | none => simp [State.orderOf, hx, hy] at hturned
    | some y =>
      obtain ⟨n, o, gap, hres⟩ := State.depacketise_some k hx hy
      rw [hres]
      split <;> simp

@[simp] theorem State.orderOf_unitFree (s : State) (p h e : Nat) : (s.unitFree p h).orderOf e = s.orderOf e :=
  State.orderOf_congr (by rw [(s.unitFree_bufsGivenUp p h).1]) e

/-! ### Release and gap holds (R180) -/

theorem State.entry?_of_orderOf {s : State} {e : Nat} {q : Option (Int × Int)} {l : List Packet} (h : s.orderOf e = some (q, l)) :
    ∃ y, s.entry? e = some y ∧ y.seq = q ∧ y.packets = l := by
  obtain ⟨y, hy, heq⟩ := Option.map_eq_some_iff.mp h
  cases heq
  exact ⟨y, hy, rfl, rfl⟩

/-- With no packet held, nothing is released. -/
theorem State.release_empty {s : State} {e : Nat} {q : Option (Int × Int)} (h : s.orderOf e = some (q, [])) (n : Nat) : s.release e n = s := by
  obtain ⟨y, hy, hq, hp⟩ := State.entry?_of_orderOf h
  cases n with
  | zero => rfl
  | succ n =>
    cases q <;> simp [State.release, hy, hq, hp]

/-- The one packet held is at NEXT: it is released, and NEXT passes it. -/
theorem State.orderOf_release_lone {s : State} {e : Nat} {high : Int} {k : Packet} (h : s.orderOf e = some (some (high, k.num), [k])) (n : Nat) :
    (s.release e (n + 1)).orderOf e = some (some (high, k.num + 1), []) := by
  obtain ⟨x, hx, hseq, hp⟩ := State.entry?_of_orderOf h
  have hreleased : ((((s.updEntry e fun x => { x with seq := some (high, k.num + 1), packets := x.packets.filter fun q => q.num != k.num }).unitFree
      x.part k.handle).depacketise e k)).orderOf e = some (some (high, k.num + 1), []) := by
    rw [State.orderOf_depacketise, State.orderOf_unitFree, State.orderOf, State.entry?_updEntry_same, hx]
    simp [hp]
  have hstep : s.release e (n + 1) = (((s.updEntry e fun x =>
      { x with seq := some (high, k.num + 1), packets := x.packets.filter fun q => q.num != k.num }).unitFree x.part k.handle).depacketise
        e k).release e n := by
    simp [State.release, hx, hseq, hp]
  rw [hstep, State.release_empty hreleased, hreleased]

/-- Without a packet held for LATE_US no gap is declared lost. -/
theorem State.expireGaps_idle {s : State} {e : Nat} {x : Entry} (hx : s.entry? e = some x)
    (h : ∀ k ∈ x.packets, s.nowNs < k.arrived + x.late) (n : Nat) : s.expireGaps e n = s := by
  cases n with
  | zero => rfl
  | succ n =>
    simp only [State.expireGaps, hx]
    exact if_neg (by simpa using h)

/-- NEXT moves up over a gap. -/
theorem State.skipTo_gap {s : State} {e : Nat} {x : Entry} {high next lim : Int} (hx : s.entry? e = some x) (hseq : x.seq = some (high, next))
    (hgap : next < lim) : s.skipTo e lim =
      (s.entryCount e 1 (lim - next).toNat).updEntry e fun y => { y with seq := some (high, lim), lost := true } := by
  simp only [State.skipTo, hx, hseq, hgap, if_true]

/-- The gap before the one packet held is lost: its numbers are counted, NEXT moves up to the packet, and release goes on. -/
theorem State.gapLost_lone {s : State} {e : Nat} {x : Entry} {k : Packet} {high next : Int} (hx : s.entry? e = some x) (hp : x.packets = [k])
    (hseq : x.seq = some (high, next)) (hgap : next < k.num) : s.gapLost e =
      ((s.entryCount e 1 (k.num - next).toNat).updEntry e fun y => { y with seq := some (high, k.num), lost := true }).release e 2 := by
  have hlowest : (s.entry? e).bind Entry.lowest = some k.num := by simp [hx, Entry.lowest, hp]
  have hheld : s.held e = 1 := by simp [State.held, hx, hp]
  simp only [State.gapLost, hlowest, hheld, State.skipTo_gap hx hseq hgap]

theorem exec_gapHoldExpiry (s : State) (e : StreamIx) : exec (.gapHoldExpiry e) s = .next (s.expireGaps e (s.held e + 1)) := rfl

/-- The gap before the one packet held is lost when the packet has been held for LATE_US, and the packet is released. -/
theorem exec_gapHoldExpiry_lone {s : State} {e : StreamIx} {x : Entry} {k : Packet} {high next : Int} (hx : s.entry? e = some x)
    (hp : x.packets = [k]) (hseq : x.seq = some (high, next)) (hgap : next < k.num) (hdue : k.arrived + x.late ≤ s.nowNs) :
    ∃ t y, exec (.gapHoldExpiry e) s = .next t ∧ t = ((s.entryCount e 1 (k.num - next).toNat).updEntry e fun y =>
        { y with seq := some (high, k.num), lost := true }).release e 2 ∧
      t.entry? e = some y ∧ y.packets = [] ∧ y.seq = some (high, k.num + 1) := by
  have horder : (s.gapLost e).orderOf e = some (some (high, k.num + 1), []) := by
    rw [State.gapLost_lone hx hp hseq hgap]
    refine State.orderOf_release_lone ?_ 1
    simp [State.orderOf, State.entryCount, State.entry?_updEntry_same, hx, hp]
  obtain ⟨y, hy, hyseq, hypackets⟩ := State.entry?_of_orderOf horder
  refine ⟨s.gapLost e, y, ?_, State.gapLost_lone hx hp hseq hgap, hy, hypackets, hyseq⟩
  have hheld : s.held e = 1 := by simp [State.held, hx, hp]
  have hfirst : s.expireGaps e 2 = (s.gapLost e).expireGaps e 1 := by simp [State.expireGaps, hx, hp, hdue]
  rw [exec_gapHoldExpiry, hheld, hfirst, State.expireGaps_idle hy (by simp [hypackets])]

/-! ### Idle access units (R182) -/

/-- The state in which the open access unit of an entry is taken from it, without a fragment in progress. -/
def State.auShut (s : State) (e : Nat) : State := (s.entryCount e 4 0).updEntry e fun x => { x with open_ := none }

theorem State.entry?_auShut (s : State) (e : Nat) : (s.auShut e).entry? e =
    (s.entry? e).map fun x => { x with counts := countUp x.counts 4 0, open_ := none } := by
  rw [State.auShut, State.entry?_updEntry_same, State.entryCount, State.entry?_updEntry_same, Option.map_map]
  rfl

/-- An open access unit that holds a unit and no fragment is queued as it closes. -/
theorem State.auClose_queues {s : State} {e : Nat} {x : Entry} {a : AuOpen} (hx : s.entry? e = some x) (ho : x.open_ = some a)
    (hunits : a.units ≠ []) (hfrag : ∀ bs, a.frag ≠ .good bs) :
    s.auClose e = (s.auShut e).auQueue e x a (a.gap || x.gap) a.inc := by
  cases hf : a.frag with
  | good bs => exact absurd hf (hfrag bs)
  | bad | idle => simp [State.auClose, State.auShut, hx, ho, hf, hunits, boolNat]

theorem exec_auIdleClose {s : State} {e : StreamIx} {x : Entry} {a : AuOpen} (hx : s.entry? e = some x) (ho : x.open_ = some a) :
    exec (.auIdleClose e) s = .next (if a.last + x.late ≤ s.nowNs then s.auClose e else s) := by
  refine (show exec (.auIdleClose e) s = execAuIdleClose e s from rfl).trans ?_
  simp only [execAuIdleClose, hx, ho]

/-- An access unit whose last packet lies LATE_US back is queued to its context, when there is room for it there and in a buffer. -/
theorem exec_auIdleClose_queues {s s1 : State} {e : StreamIx} {x : Entry} {a : AuOpen} {d : DecCtx} {h : Nat} (hx : s.entry? e = some x)
    (ho : x.open_ = some a) (hdue : a.last + x.late ≤ s.nowNs) (hunits : a.units ≠ []) (hfrag : ∀ bs, a.frag ≠ .good bs)
    (hd : s.dec? x.ctx = some d) (hroom : d.queue.length < 64) (hpar : d.paramDue = false)
    (hfits : (frameUnits x.format a.units).length ≤ poolSize x.auPool) (ha : s.allocPool x.part x.auPool = some (s1, h)) :
    ∃ t au y, exec (.auIdleClose e) s = .next t ∧ t.dec? x.ctx = some { d with queue := d.queue ++ [au] } ∧ au.handle = h ∧
      au.len = (frameUnits x.format a.units).length ∧ au.gap = (a.gap || x.gap) ∧ au.inc = a.inc ∧ au.time = x.frameTime a.ts a.first ∧
      au.srcTs = a.ts ∧ au.cmd = none ∧ t.entry? e = some y ∧ y.open_ = none ∧ y.gap = false ∧ y.packets = x.packets ∧ t.bufs = s1.bufs := by
  obtain ⟨u, halloc, hentries, hdecs, hbufs⟩ := State.allocPool_entries ha (s.auShut e).entries
  have hbytes : d.auBytes x a = frameUnits x.format a.units := by simp [DecCtx.auBytes, hpar]
  have hexec : exec (.auIdleClose e) s = .next (u.auQueued e x d a (a.gap || x.gap) a.inc h) := by
    rw [exec_auIdleClose hx ho, if_pos hdue, State.auClose_queues hx ho hunits hfrag]
    exact congrArg _ (State.auQueue_queued (s := s.auShut e) _ _ _ _ hd hroom (hbytes ▸ hfits) halloc)
  obtain ⟨id, hdec⟩ := u.dec?_auQueued e x d a (a.gap || x.gap) a.inc h
  have hentry := u.entry?_auQueued e x d a (a.gap || x.gap) a.inc h
  rw [State.dec?_congr hdecs, hd] at hdec
  rw [State.entry?_congr hentries, State.entry?_auShut, hx] at hentry
  refine ⟨_, x.queuedAu a (a.gap || x.gap) a.inc h (d.auBytes x a).length id, _, hexec, hdec.trans ?_, rfl, congrArg _ hbytes, rfl, rfl, rfl,
    rfl, rfl, hentry, rfl, rfl, rfl, (u.bufs_auQueued ..).trans hbufs⟩
  simp [DecCtx.withAu, hpar]

/-! ### The snapshot of an entry (R190, R191) -/

/-- The state in which register off k holds word w k, for each k of a list. -/
def State.setRegs (s : State) (off : Nat → Nat) (w : Nat → Word) (l : List Nat) : State := l.foldl (fun s k => s.setReg (off k) (w k)) s

section SetRegs

variable (off : Nat → Nat) (w : Nat → Word)

theorem State.setRegs_frame (l : List Nat) (s : State) : s.setRegs off w l = { s with regs := (s.setRegs off w l).regs } := by
  induction l generalizing s with
  | nil => rfl
  | cons k t ih => exact ih (s.setReg (off k) (w k))

theorem State.setRegs_rising (l : List Nat) {s : State} (hr : Rising s.regs) : Rising (s.setRegs off w l).regs := by
  induction l generalizing s with
  | nil => exact hr
  | cons k t ih => exact ih (s.setReg_rising _ _ hr)

theorem State.reg_setRegs_other (l : List Nat) (s : State) {o : Nat} (h : ∀ k ∈ l, o ≠ off k) : (s.setRegs off w l).reg o = s.reg o := by
  induction l generalizing s with
  | nil => rfl
  | cons k t ih =>
    obtain ⟨hk, ht⟩ := List.forall_mem_cons.mp h
    exact (ih (s.setReg (off k) (w k)) ht).trans (s.reg_setReg_other _ _ _ hk)

theorem State.reg_setRegs_same (hoff : Function.Injective off) {l : List Nat} {s : State} (hr : Rising s.regs) {k : Nat} (hk : k ∈ l) :
    (s.setRegs off w l).reg (off k) = w k := by
  induction l generalizing s with
  | nil => exact absurd hk List.not_mem_nil
  | cons j t ih =>
    by_cases ht : k ∈ t
    · exact ih (s.setReg_rising _ _ hr) ht
    · obtain rfl : k = j := (List.mem_cons.mp hk).resolve_right ht
      exact (State.reg_setRegs_other off w t _ fun i hi heq => ht (by rwa [hoff heq])).trans (s.reg_setReg_same _ _ hr)

end SetRegs

theorem Reg.ingScnt_injective : Function.Injective Reg.ingScnt := fun j k h => by
  unfold Reg.ingScnt at h
  omega

theorem bitOf_or (w m : Word) (i : Nat) : bitOf (w ||| m) i = (bitOf w i || bitOf m i) := by
  simp [bitOf, Nat.testBit_or]

/-- The word of a counter of an entry, as it is latched. -/
def State.ingCountWord (s : State) (v : Word) (k : Nat) : Word := BitVec.ofNat 32 (listAt 0 (s.ingLatch (bitsOf v 9 0)).2 k)

/-- The state in which ING_SSEL names an entry and its status and counters are latched. -/
def State.ingLatched (s : State) (v : Word) : State :=
  ((s.setReg Reg.ingSsel (v &&& 0x3FF)).setReg Reg.ingSstat (s.ingLatch (bitsOf v 9 0)).1).setRegs Reg.ingScnt (s.ingCountWord v) (List.range 8)

theorem exec_ingSselSnap {s : State} (v : Word) (h : s.PfReaches Reg.ingSsel) : exec (.ingSselSnap v) s = .next (s.ingLatched v) := by
  have hsnap : bitOf (v ||| 0x80000000) 31 = true := by
    rw [bitOf_or, show bitOf 0x80000000 31 = true from by decide, Bool.or_true]
  have hsel : (v ||| 0x80000000) &&& 0x3FF = v &&& 0x3FF := by
    rw [BitVec.and_or_distrib_right]
    simp
  have hentry : bitsOf (v ||| 0x80000000) 9 0 = bitsOf v 9 0 := by
    rw [← bitsOf_and_of_covered _ 0x3FF (by decide), hsel, bitsOf_and_of_covered _ _ (by decide)]
  have hwrite : s.ingSselWrite (v ||| 0x80000000) = s.ingLatched v := by
    simp only [State.ingSselWrite, hsnap, hsel, hentry, if_true]
    rfl
  exact congrArg Host.Outcome.next ((State.pfReach_of_reaches h _).trans hwrite)

/-- Settles O25: the packet held beyond the gap is the one released, the access unit takes the buffer allocated as it closes, and the snapshot
writes its ten registers apart from each other. -/
theorem ingestTimersAndSnapshot : Obligations.IngestTimersAndSnapshot := by
  unfold Obligations.IngestTimersAndSnapshot
  refine ⟨fun s e x hx => ⟨fun hearly => ?early, fun k high next hp hseq hgap hdue => exec_gapHoldExpiry_lone hx hp hseq hgap hdue⟩,
    fun s e x a hx ho => ⟨fun hearly => (exec_auIdleClose hx ho).trans (congrArg _ (if_neg (Nat.not_le.mpr hearly))),
      fun d s1 h hdue hunits hfrag hd hroom hpar hfits ha => exec_auIdleClose_queues hx ho hdue hunits hfrag hd hroom hpar hfits ha⟩,
    fun s v hc hreach => ⟨s.ingLatched v, exec_ingSselSnap v hreach, ?_⟩⟩
  case early => rw [exec_gapHoldExpiry, State.expireGaps_idle hx hearly]
  have hr := State.setReg_rising _ Reg.ingSstat (s.ingLatch (bitsOf v 9 0)).1 (s.setReg_rising Reg.ingSsel (v &&& 0x3FF) hc.rising)
  refine ⟨?sel, ?stat, fun k hk => State.reg_setRegs_same _ _ Reg.ingScnt_injective hr (List.mem_range.mpr hk), ?others, State.setRegs_frame ..⟩
  case sel =>
    rw [State.ingLatched, State.reg_setRegs_other _ _ _ _ (by decide), State.reg_setReg_other _ _ _ _ (by decide),
      State.reg_setReg_same _ _ _ hc.rising]
  case stat =>
    rw [State.ingLatched, State.reg_setRegs_other _ _ _ _ (by decide), State.reg_setReg_same _ _ _ (s.setReg_rising _ _ hc.rising)]
  case others =>
    intro o ho
    obtain ⟨hsel, hstat, hcounts⟩ : o ≠ Reg.ingSsel ∧ o ≠ Reg.ingSstat ∧ ∀ k ∈ List.range 8, o ≠ Reg.ingScnt k := by
      simpa [eq_comm] using ho
    rw [State.ingLatched, State.reg_setRegs_other _ _ _ _ hcounts, State.reg_setReg_other _ _ _ _ hstat, State.reg_setReg_other _ _ _ _ hsel]

end Sys2Proof.Machine

/-!
PROOFS. The Smelter chapter: pictures start, complete, are suspended and move (R192-R195, R197-R199, R203-R205, R208, R209, R253), and frames are
granted, released and counted (R198, R199, R203, R210, R211, R281).
-/

namespace Sys2Proof.Machine

/-! ### The decode contexts and Smelters beside memory and buffers -/

theorem State.TablesOrdered.smelters {s : State} (h : s.TablesOrdered) : Ordered s.smelters := by
  obtain ⟨-, -, -, -, -, -, -, -, hsmelters, -⟩ := h
  exact hsmelters

/-- The decode contexts and the Smelters are as before. -/
def SameDecoders (s t : State) : Prop := t.decs = s.decs ∧ t.smelters = s.smelters

theorem SameDecoders.refl (s : State) : SameDecoders s s := ⟨rfl, rfl⟩

theorem SameDecoders.trans {s t u : State} (h : SameDecoders s t) (g : SameDecoders t u) : SameDecoders s u :=
  ⟨g.1.trans h.1, g.2.trans h.2⟩

theorem SameDecoders.foldl {α : Type} {f : State → α → State} (hf : ∀ s a, SameDecoders s (f s a)) (l : List α) (s : State) :
    SameDecoders s (l.foldl f s) := by
  induction l generalizing s with
  | nil => exact .refl s
  | cons a t ih => exact (hf s a).trans (ih (f s a))

theorem BufsGivenUp.sameDecoders {s t : State} (h : BufsGivenUp s t) : SameDecoders s t := by
  obtain ⟨ht, -⟩ := h
  exact ⟨by rw [ht], by rw [ht]⟩

theorem State.unitFree_sameDecoders (s : State) (p h : Nat) : SameDecoders s (s.unitFree p h) := (s.unitFree_bufsGivenUp p h).sameDecoders

theorem State.sameDecoders_of_useHandle {s s1 : State} {p h off len : Nat} {x : HandleCheck} (heq : s.useHandle p h off len = (s1, x)) :
    SameDecoders s s1 := by
  have huse := (s.useHandle_bufsGivenUp p h off len).sameDecoders
  rwa [heq] at huse

theorem State.store_sameDecoders (s : State) (da : Nat) (bs : List Byte) : SameDecoders s (s.store da bs) := by
  obtain ⟨_, _, _, _, _, hstore⟩ := s.store_frame da bs
  exact ⟨by rw [hstore], by rw [hstore]⟩

theorem State.powerUp_sameDecoders (s : State) (d : Nat) : SameDecoders s (s.powerUp d) := by
  unfold State.powerUp
  split <;> exact ⟨rfl, rfl⟩

theorem State.arbEnd_sameDecoders (s : State) (u steps : Nat) : SameDecoders s (s.arbEnd u steps) := by
  unfold State.arbEnd
  split <;> exact ⟨rfl, rfl⟩

theorem State.writeSegs_sameDecoders (s : State) (p : Nat) (segs : List Nat) (size off : Nat) (bs : List Byte) :
    SameDecoders s (s.writeSegs p segs size off bs) := by
  refine .foldl (fun s x => ?_) _ s
  dsimp only
  split
  · split
    next heq => exact State.sameDecoders_of_useHandle heq
    next s1 _ _ heq =>
      split
      · exact (State.sameDecoders_of_useHandle heq).trans (s1.store_sameDecoders _ _)
      · exact State.sameDecoders_of_useHandle heq
  · exact .refl s

theorem State.writeFrame_sameDecoders (s : State) (d : DecCtx) (i : PictureInfo) (r : PictureResult) (g : List PicArea) (grain : List Byte)
    (segs : List Nat) : SameDecoders s (s.writeFrame d i r g grain segs) := by
  unfold State.writeFrame
  extract_lets f sz s1 s2 s3
  have h1 : SameDecoders s s1 := .foldl (fun t _ => t.writeSegs_sameDecoders ..) _ s
  have h2 : SameDecoders s1 s2 := .foldl (fun t _ => t.writeSegs_sameDecoders ..) _ s1
  have h3 : SameDecoders s s3 := (h1.trans h2).trans (s2.writeSegs_sameDecoders ..)
  split
  · exact h3
  · exact h3.trans (s3.writeSegs_sameDecoders ..)

/-! ### One context changed -/

/-- The Smelters are as before, and so is every decode context but c. -/
def OthersKept (c : Nat) (s t : State) : Prop := t.smelters = s.smelters ∧ ∀ k, k ≠ c → t.dec? k = s.dec? k

theorem OthersKept.refl (c : Nat) (s : State) : OthersKept c s s := ⟨rfl, fun _ _ => rfl⟩

theorem OthersKept.trans {c : Nat} {s t u : State} (h : OthersKept c s t) (g : OthersKept c t u) : OthersKept c s u :=
  ⟨g.1.trans h.1, fun k hk => (g.2 k hk).trans (h.2 k hk)⟩

theorem SameDecoders.dec? {s t : State} (h : SameDecoders s t) (c : Nat) : t.dec? c = s.dec? c := State.dec?_congr h.1 c

theorem SameDecoders.othersKept {s t : State} (h : SameDecoders s t) (c : Nat) : OthersKept c s t := ⟨h.2, fun k _ => h.dec? k⟩

theorem State.updDec_othersKept (s : State) (c : Nat) (f : DecCtx → DecCtx) : OthersKept c s (s.updDec c f) :=
  ⟨rfl, fun k hk => s.dec?_updDec_other c k f hk⟩

/-! ### The end of an access unit (R204, R208) -/

/-- A context whose front access unit has ended, with `rest` behind it. -/
def DecCtx.unitEnded (d : DecCtx) (rest : List Au) : DecCtx := { d with queue := rest, work := ⟨0, 0, 0, false, 0, 0, []⟩ }

theorem State.dec?_auEnd {s : State} {c : Nat} {d : DecCtx} {a : Au} {rest : List Au} (hd : s.dec? c = some d) (hq : d.queue = a :: rest)
    (flags : Nat) : (s.auEnd c flags).dec? c = some (d.unitEnded rest) := by
  have hfreed : (s.unitFree d.part a.handle).dec? c = some d := ((s.unitFree_sameDecoders d.part a.handle).dec? c).trans hd
  simp only [State.auEnd, hd, hq]
  split <;> simp [State.endCmd, State.dec?_updDec_same, hfreed, DecCtx.unitEnded]

theorem State.auEnd_othersKept (s : State) (c flags : Nat) : OthersKept c s (s.auEnd c flags) := by
  unfold State.auEnd
  split
  · exact .refl c s
  next d _ =>
    split
    · exact .refl c s
    next a rest _ =>
      have hfreed := ((s.unitFree_sameDecoders d.part a.handle).othersKept c).trans (State.updDec_othersKept _ c fun d => d.unitEnded rest)
      dsimp only
      split <;> exact hfreed

/-- A discard counts in the context and ends its front access unit. -/
theorem State.auDiscard_eq (s : State) (n c flags : Nat) (seqUp : Bool) : ∃ (count : DecCtx → DecCtx) (none_ : Bool),
    s.auDiscard n c flags seqUp = ((s.updDec c count).bump (Reg.smErr n) 15 0 1).auEnd c (flags + boolNat none_) ∧
    ∀ d, (count d).queue = d.queue :=
  ⟨_, _, rfl, fun _ => rfl⟩

/-- A discarded access unit leaves the queue. -/
theorem State.dec?_auDiscard {s : State} {c : Nat} {d : DecCtx} {a : Au} {rest : List Au} (hd : s.dec? c = some d) (hq : d.queue = a :: rest)
    (n flags : Nat) (seqUp : Bool) : ∃ d', (s.auDiscard n c flags seqUp).dec? c = some d' ∧ d'.queue = rest := by
  obtain ⟨count, none_, heq, hqueue⟩ := s.auDiscard_eq n c flags seqUp
  have hcounted : ((s.updDec c count).bump (Reg.smErr n) 15 0 1).dec? c = some (count d) := by
    refine (s.dec?_updDec_same c count).trans ?_
    rw [hd, Option.map_some]
  exact ⟨_, heq ▸ State.dec?_auEnd hcounted ((hqueue d).trans hq) _, rfl⟩

theorem State.auDiscard_othersKept (s : State) (n c flags : Nat) (seqUp : Bool) : OthersKept c s (s.auDiscard n c flags seqUp) := by
  obtain ⟨count, none_, heq, -⟩ := s.auDiscard_eq n c flags seqUp
  rw [heq]
  exact (s.updDec_othersKept c count).trans (State.auEnd_othersKept ..)

/-! ### The start of a picture (R195, R198, R203, R204) -/

theorem exec_pictureStart (s : State) (n : SmIx) (i : PictureInfo) : exec (.pictureStart n i) s = .next (s.pictureStart n i) := rfl

/-- A Smelter that is off, disabled, quarantined or at work starts nothing. -/
theorem State.pictureStart_idle {s : State} {n : Nat} (h : s.domOn (smDom n) = false ∨ s.flag (Reg.smCtrl n) 0 = false ∨
    s.flag (Reg.smStatus n) 31 = true ∨ (s.smelter n).pic.isSome = true) (i : PictureInfo) : s.pictureStart n i = s := by
  refine if_neg fun hserves => ?_
  simp only [Bool.and_eq_true, Bool.not_eq_true', Option.isNone_iff_eq_none] at hserves
  obtain ⟨⟨⟨hon, hen⟩, hquar⟩, hfree⟩ := hserves
  simp [hon, hen, hquar, hfree] at h

/-- A Smelter that is on, enabled and idle picks context c (R203); s1 is the state with the choice made. -/
structure State.Picks (s : State) (n : Nat) (s1 : State) (c : Nat) (d : DecCtx) : Prop where
  on : s.domOn (smDom n) = true
  enabled : s.flag (Reg.smCtrl n) 0 = true
  serving : s.flag (Reg.smStatus n) 31 = false
  idle : (s.smelter n).pic = none
  pick : s.smPick n = (s1, some (c, d))

section Start

variable {s s1 : State} {n c : Nat} {d : DecCtx} (h : s.Picks n s1 c d)
include h

theorem State.Picks.resumes {p : Pic} (hsusp : d.susp = some p) (i : PictureInfo) :
    s.pictureStart n i = (s1.updDec c fun d => { d with susp := none }).smRun n c d p := by
  simp [State.pictureStart, h.on, h.enabled, h.serving, h.idle, h.pick, hsusp]

theorem State.Picks.takes {a : Au} {rest : List Au} {k b : Nat} (hsusp : d.susp = none) (hq : d.queue = a :: rest)
    (hhandle : s1.handleCheck d.part a.handle 0 a.len = .pass k b) (i : PictureInfo) : s.pictureStart n i = s1.smAccess n c d a i := by
  simp [State.pictureStart, h.on, h.enabled, h.serving, h.idle, h.pick, hsusp, hq, State.useHandle_pass hhandle]

end Start

/-- An access unit with no gap before it and no bytes missing in it. -/
abbrev Au.Clean (a : Au) : Prop := a.gap = false ∧ a.inc = false

/-- The state in which the sequence of an access unit is recorded as its first picture is taken up. -/
def State.smTaken (s : State) (c : Nat) (d : DecCtx) (i : PictureInfo) : State :=
  if decide (d.work.frames = 0) then s.smSequence c d i else s

/-- The flags for which the present sequence of a context cannot be decoded. -/
def State.seqFlags (s : State) (c : Nat) : Nat := match s.dec? c with | some d => d.staleFlags | none => 0

/-- The frame that a picture is decoded into. -/
def DecCtx.newFrame (d : DecCtx) (i : PictureInfo) (segs : List Nat) : DFrame :=
  { id := d.nextFrame, segs := segs, ref := false, disp := false, chain := 0, taint := false, desc := [], grain := [],
    order := i.order, layer := i.layer, key := isRap d.codec i }

/-- A context that waits at a place for a frame of some segments. -/
def DecCtx.waitingFor (y : DecCtx) (place segs : Nat) : DecCtx :=
  { y with waitFb := some place, asked := some place, askedSegs := segs, granted := false }

section Access

variable {s : State} {n c : Nat} {d : DecCtx} {a : Au} {i : PictureInfo}

/-- Concealment discards an access unit that is not whole, and waits for a random access point. -/
theorem State.smAccess_conceals (hfirst : d.work.frames = 0) (hconceal : d.conceal = true) (hdirty : ¬ a.Clean) :
    s.smAccess n c d a i = ((s.smTaken c d i).updDec c fun d => { d with waitRap := true }).auDiscard n c ((s.smTaken c d i).seqFlags c) true :=
  if_pos (by simpa [hfirst, hconceal, or_iff_not_imp_left] using hdirty)

/-- A context that waits for a random access point discards what is not one. -/
theorem State.smAccess_awaitsRap (hfirst : d.work.frames = 0) (hkeep : d.conceal = false ∨ a.Clean) (hwait : d.waitRap = true)
    (hno : ¬ a.Clean ∨ isRap d.codec i = false ∨ i.badHeader = true) :
    s.smAccess n c d a i = (s.smTaken c d i).auDiscard n c ((s.smTaken c d i).seqFlags c) true := by
  refine (if_neg ?conceals).trans (if_pos ?waits)
  case conceals =>
    rcases hkeep with h | ⟨hgap, hinc⟩
    · simp [h]
    · simp [hgap, hinc]
  case waits => simpa [hfirst, hwait, or_assoc, or_iff_not_imp_left] using hno

/-- Neither concealment nor the wait for a random access point discards the access unit. -/
def DecCtx.TakesUp (d : DecCtx) (a : Au) (i : PictureInfo) : Prop :=
  d.work.frames = 0 → (d.conceal = false ∨ a.Clean) ∧ (d.waitRap = false ∨ a.Clean ∧ isRap d.codec i = true)

theorem DecCtx.TakesUp.conceals_eq_false (h : d.TakesUp a i) : (decide (d.work.frames = 0) && d.conceal && (a.gap || a.inc)) = false := by
  by_cases hfirst : d.work.frames = 0
  · rcases (h hfirst).1 with hconceal | ⟨hgap, hinc⟩
    · simp [hconceal]
    · simp [hgap, hinc]
  · simp [hfirst]

theorem DecCtx.TakesUp.awaits_eq_false (h : d.TakesUp a i) (hheader : i.badHeader = false) :
    (decide (d.work.frames = 0) && d.waitRap && (a.gap || a.inc || !isRap d.codec i || i.badHeader)) = false := by
  by_cases hfirst : d.work.frames = 0
  · rcases (h hfirst).2 with hwait | ⟨⟨hgap, hinc⟩, hrap⟩
    · simp [hwait]
    · simp [hgap, hinc, hrap, hheader]
  · simp [hfirst]

variable (htake : d.TakesUp a i) (hheader : i.badHeader = false)
include htake hheader

/-- An access unit of a sequence that cannot be decoded is discarded. -/
theorem State.smAccess_badSequence (hbad : (s.smTaken c d i).seqFlags c ≠ 0) :
    s.smAccess n c d a i = (s.smTaken c d i).auDiscard n c ((s.smTaken c d i).seqFlags c) true := by
  refine (if_neg (by simp [htake.conceals_eq_false])).trans ((if_neg (by simp [htake.awaits_eq_false hheader])).trans
    ((if_neg (by simp [hheader])).trans ((if_pos (.inl hbad)).trans ?_)))
  exact congrArg (State.auDiscard _ n c · true) (if_pos hbad)

/-- A new picture starts when its frame is there (R195, R203), and waits in its place when it is not (R198). -/
theorem State.smAccess_newPicture (hseq : (s.smTaken c d i).seqFlags c = 0) (hfit : d.unfit i = 0) (hnew : i.existing = none) :
    ((s.smTaken c d i).frameBuffers c d (frameSegs i d.pool) = none → s.smAccess n c d a i =
      { (s.smTaken c d i).updDec c fun y => y.waitingFor (d.asked.getD (s.smTaken c d i).nextWait) (frameSegs i d.pool) with
        nextWait := if d.asked = none then (s.smTaken c d i).nextWait + 1 else (s.smTaken c d i).nextWait }) ∧
    (∀ s3 segs, (s.smTaken c d i).frameBuffers c d (frameSegs i d.pool) = some (s3, segs) → ∃ noRasl, s.smAccess n c d a i =
      (s3.updDec c fun y => { y with
        frames := y.frames ++ [d.newFrame i segs], nextFrame := y.nextFrame + 1, granted := false, asked := none
        waitRap := y.waitRap && !decide (d.work.frames = 0), started := true, noRasl := noRasl }).smRun n c d
      { info := i, frame := d.nextFrame, start := s3.nowNs, starts := !d.started || (d.waitRap && decide (d.work.frames = 0)) }) := by
  have hplace : (s.smTaken c d i).nextWait + boolNat d.asked.isNone =
      if d.asked = none then (s.smTaken c d i).nextWait + 1 else (s.smTaken c d i).nextWait := by
    cases d.asked <;> rfl
  unfold State.smAccess
  extract_lets first dirty s1 bad
  have hdecodes : ¬ (bad ≠ 0 ∨ d.unfit i ≠ 0) := not_or.mpr ⟨not_not.mpr hseq, not_not.mpr hfit⟩
  rw [if_neg (Bool.eq_false_iff.mp htake.conceals_eq_false), if_neg (Bool.eq_false_iff.mp (htake.awaits_eq_false hheader)),
    if_neg (Bool.eq_false_iff.mp hheader), if_neg hdecodes, ← hplace]
  split
  next x hx => cases hnew.symm.trans hx
  next =>
    split
    next hb => exact ⟨fun _ => rfl, fun s3 segs hbufs => nomatch hb.symm.trans hbufs⟩
    next s2 segs hb =>
      refine ⟨fun hbufs => (nomatch hb.symm.trans hbufs), fun s3 segs hbufs => ?_⟩
      cases hb.symm.trans hbufs
      exact ⟨_, rfl⟩

end Access

/-! ### The output of frames (R199-R201) -/

/-- What the output of a frame leaves alone: its identity, REF, TAINT and its descriptor. -/
def DFrame.decoded (f : DFrame) : Nat × Bool × Bool × List Byte := (f.id, f.ref, f.taint, f.desc)

/-- A context in which frames may have been put out: they are the same frames, with the same queue and the same pictures decoded. -/
def DecCtx.OutputTo (d d' : DecCtx) : Prop :=
  d'.frames.map DFrame.decoded = d.frames.map DFrame.decoded ∧ d'.queue = d.queue ∧ d'.work.frames = d.work.frames

theorem DecCtx.OutputTo.refl (d : DecCtx) : d.OutputTo d := ⟨rfl, rfl, rfl⟩

theorem DecCtx.OutputTo.trans {d d' d'' : DecCtx} (h : d.OutputTo d') (g : d'.OutputTo d'') : d.OutputTo d'' := by
  obtain ⟨hframes, hqueue, hwork⟩ := h
  obtain ⟨gframes, gqueue, gwork⟩ := g
  exact ⟨gframes.trans hframes, gqueue.trans hqueue, gwork.trans hwork⟩

theorem map_decoded_marked {mark : DFrame → DFrame} (hmark : ∀ f, (mark f).decoded = f.decoded) (l : List DFrame) :
    (l.map mark).map DFrame.decoded = l.map DFrame.decoded :=
  List.map_map.trans (List.map_congr_left fun f _ => hmark f)

/-- Every frame of a context that was put out is as it was decoded. -/
theorem DecCtx.OutputTo.exists_decoded {d d' : DecCtx} (h : d.OutputTo d') {g : DFrame} (hg : g ∈ d'.frames) :
    ∃ f ∈ d.frames, f.decoded = g.decoded :=
  List.mem_map.mp (h.1 ▸ List.mem_map_of_mem hg)

theorem DecCtx.OutputTo.ids {d d' : DecCtx} (h : d.OutputTo d') : (d'.frames.map fun f => f.id) = d.frames.map fun f => f.id := by
  have hids := congrArg (List.map Prod.fst) h.1
  rwa [List.map_map, List.map_map] at hids

/-- The Smelters are as before, and of context c at most frames have been put out. -/
def OutputOnly (c : Nat) (s t : State) : Prop :=
  t.smelters = s.smelters ∧ ∀ d, s.dec? c = some d → ∃ d', t.dec? c = some d' ∧ d.OutputTo d'

theorem OutputOnly.refl (c : Nat) (s : State) : OutputOnly c s s := ⟨rfl, fun d hd => ⟨d, hd, .refl d⟩⟩

theorem OutputOnly.trans {c : Nat} {s t u : State} (h : OutputOnly c s t) (g : OutputOnly c t u) : OutputOnly c s u := by
  refine ⟨g.1.trans h.1, fun d hd => ?_⟩
  obtain ⟨d', hd', hout⟩ := h.2 d hd
  obtain ⟨d'', hd'', hout'⟩ := g.2 d' hd'
  exact ⟨d'', hd'', hout.trans hout'⟩

theorem OutputOnly.foldl {α : Type} {c : Nat} {f : State → α → State} (hf : ∀ s a, OutputOnly c s (f s a)) (l : List α) (s : State) :
    OutputOnly c s (l.foldl f s) := by
  induction l generalizing s with
  | nil => exact .refl c s
  | cons a t ih => exact (hf s a).trans (ih (f s a))

theorem SameDecoders.outputOnly {s t : State} (h : SameDecoders s t) (c : Nat) : OutputOnly c s t :=
  ⟨h.2, fun d hd => ⟨d, (h.dec? c).trans hd, .refl d⟩⟩

theorem State.updDec_outputOnly (s : State) (c : Nat) {f : DecCtx → DecCtx} (hf : ∀ d : DecCtx, d.OutputTo (f d)) :
    OutputOnly c s (s.updDec c f) :=
  ⟨rfl, fun d hd => ⟨f d, by rw [State.dec?_updDec_same, hd, Option.map_some], hf d⟩⟩

theorem State.chainDrop_outputOnly (s : State) (c frame : Nat) : OutputOnly c s (s.chainDrop c frame) :=
  s.updDec_outputOnly c fun _ => ⟨map_decoded_marked (fun f => by split <;> rfl) _, rfl, rfl⟩

theorem State.frameToChain_outputOnly (s : State) (p ix c frame : Nat) (desc grain : List Byte) :
    OutputOnly c s (s.frameToChain p ix c frame desc grain) := by
  unfold State.frameToChain
  split
  · exact s.chainDrop_outputOnly c frame
  next st _ =>
    dsimp only
    split
    · have hskip : SameDecoders s (s.updStream p ix fun st => { st with skipped := min 0xFFFF (st.skipped + 1) }) := ⟨rfl, rfl⟩
      exact (hskip.outputOnly c).trans (State.chainDrop_outputOnly _ c frame)
    · exact SameDecoders.outputOnly (⟨rfl, rfl⟩) c

theorem State.frameOut_outputOnly (s : State) (n c : Nat) (a : Au) (frame : Nat) : OutputOnly c s (s.frameOut n c a frame) := by
  unfold State.frameOut
  split
  · exact .refl c s
  next d _ =>
    split
    · exact .refl c s
    next f _ =>
      extract_lets desc s1
      have h1 : OutputOnly c s s1 := s.updDec_outputOnly c fun _ => ⟨map_decoded_marked (fun f => by split <;> rfl) _, rfl, rfl⟩
      have hbump : SameDecoders s1 (s1.bump (Reg.smErr n) 31 16 (boolNat f.taint)) := ⟨rfl, rfl⟩
      exact (h1.trans (hbump.outputOnly c)).trans (State.frameToChain_outputOnly ..)

theorem State.outputWaiting_outputOnly (s : State) (n c : Nat) (a : Au) (keep : Nat) (lat : Option Nat) (k : Nat) :
    OutputOnly c s (s.outputWaiting n c a keep lat k) := by
  induction k generalizing s with
  | zero => exact .refl c s
  | succ k ih =>
    unfold State.outputWaiting
    split
    · exact .refl c s
    next d _ =>
      extract_lets w late
      split
      · exact .refl c s
      next f _ =>
        split
        · exact (s.frameOut_outputOnly n c a f.id).trans (ih _)
        · exact .refl c s

theorem State.outputShown_outputOnly (s : State) (n c : Nat) (a : Au) : OutputOnly c s (s.outputShown n c a) := by
  unfold State.outputShown
  split
  · exact .refl c s
  next d _ =>
    extract_lets fs top s1
    have h1 : OutputOnly c s s1 := .foldl (fun s (f : DFrame) => s.frameOut_outputOnly n c a f.id) _ s
    exact h1.trans (s1.updDec_outputOnly c fun _ => ⟨map_decoded_marked (fun f => by split <;> rfl) _, rfl, rfl⟩)

theorem State.outputPrior_outputOnly (s : State) (n c : Nat) (a : Au) (p : Pic) : OutputOnly c s (s.outputPrior n c a p) := by
  unfold State.outputPrior
  split
  · exact .refl c s
  next d _ =>
    split
    · exact .refl c s
    split
    · exact s.updDec_outputOnly c fun _ => ⟨map_decoded_marked (fun _ => by rfl) _, rfl, rfl⟩
    · exact s.outputWaiting_outputOnly ..

theorem State.outputFrame_outputOnly (s : State) (n c : Nat) (a : Au) (p : Pic) : OutputOnly c s (s.outputFrame n c a p) := by
  unfold State.outputFrame
  split
  · exact .refl c s
  next d _ =>
    split
    · split
      · exact .refl c s
      · exact s.outputWaiting_outputOnly ..
    split
    · exact s.updDec_outputOnly c fun _ => ⟨rfl, rfl, rfl⟩
    split
    · exact s.frameOut_outputOnly ..
    · exact s.outputWaiting_outputOnly ..

/-- After its last picture an access unit leaves the queue, with what it shows put out (R188, R201). -/
theorem State.dec?_auFinish {s : State} {c : Nat} {d : DecCtx} {a : Au} {rest : List Au} (hd : s.dec? c = some d) (hq : d.queue = a :: rest)
    (n : Nat) (b : Au) : (s.auFinish n c b).smelters = s.smelters ∧
      ∃ d', d.OutputTo d' ∧ (s.auFinish n c b).dec? c = some (d'.unitEnded rest) := by
  unfold State.auFinish
  extract_lets s1 s2
  have h1 : OutputOnly c s s1 := s.outputShown_outputOnly n c b
  have h2 : OutputOnly c s1 s2 := by
    unfold s2
    split
    · split
      · exact s1.outputWaiting_outputOnly ..
      · exact .refl c s1
    · exact .refl c s1
  obtain ⟨hsmelters, hdec⟩ := h1.trans h2
  obtain ⟨d', hd', hout⟩ := hdec d hd
  have hend := s2.auEnd_othersKept c 0
  exact ⟨hend.1.trans hsmelters, d', hout, State.dec?_auEnd hd' (hout.2.1.trans hq) 0⟩

/-! ### The end of a picture (R193, R199, R201, R203, R208) -/

/-- Without a rate in its Shades a partition's picture ends at once. -/
theorem exec_pictureComplete {s : State} {n : SmIx} {c : Nat} {p : Pic} {d : DecCtx} {a : Au} {rest : List Au}
    (hpic : (s.smelter n).pic = some (c, p)) (hd : s.dec? c = some d) (hq : d.queue = a :: rest)
    (hrate : ∀ path, (s.shade d.part path).rate = 0) (r : PictureResult) :
    exec (.pictureComplete n r) s = .next (s.smFinish n c p d a r) := by
  refine (show exec (.pictureComplete n r) s = .next (s.pictureComplete n r) from rfl).trans ?_
  simp only [State.pictureComplete, hpic, hd, hq, State.shadeAskAll_unregulated hrate]

theorem State.smSteps_dec? (s : State) (n : Nat) (d : DecCtx) (steps c : Nat) : (s.smSteps n d steps).dec? c = s.dec? c :=
  (s.arbEnd_sameDecoders (16 + n) steps).dec? c

theorem State.smSteps_pic {s : State} (h : Ordered s.smelters) (n : Nat) (d : DecCtx) (steps : Nat) :
    ((s.smSteps n d steps).smelter n).pic = none := by
  have hord : Ordered (s.arbEnd (16 + n) steps).smelters := (s.arbEnd_sameDecoders (16 + n) steps).2 ▸ h
  unfold State.smSteps
  dsimp only
  rw [State.smelter_setSmelter_same _ _ _ hord]

/-- The descriptor of a picture's frame, with its segments. -/
def picDescriptor (d : DecCtx) (a : Au) (p : Pic) (r : PictureResult) (f : DFrame) : List Byte :=
  frameDescriptor d a p.info r (grainBytes d.codec (p.info.chroma == .mono) r.grain) f.segs (refTainted d r)

/-- How the end of an undamaged picture marks its context: the frames get their marks (R199), and the picture counts. -/
def DecCtx.MarkedAs (y y' : DecCtx) (p : Pic) (r : PictureResult) (taint : Bool) (desc grain : List Byte) : Prop :=
  y'.frames = finishMarks p.frame r true (y.putsOut p.info) taint desc grain y.frames ∧ y'.queue = y.queue ∧ y'.work.frames = y.work.frames + 1

/-- An undamaged picture ends: what comes before it is put out, its frame and context are marked and go to the output, its steps are charged,
and after the last one the access unit ends. -/
theorem State.smFinish_undamaged {s : State} {n c : Nat} {p : Pic} {d : DecCtx} {a : Au} {r : PictureResult} {f : DFrame}
    (hpar : r.parity = none) (hfl : (pictureDamage d a p.info r).flags = 0) (hroom : r.last = true ∨ d.work.frames < 7)
    (hf : (d.frames.find? fun f => f.id == p.frame) = some f) : ∃ s0 mark steps grain, OutputOnly c s s0 ∧
      (∀ y : DecCtx, y.MarkedAs (mark y) p r (refTainted d r) (picDescriptor d a p r f) grain) ∧
      let t := ((s0.updDec c mark).outputFrame n c a p).smSteps n d steps
      s.smFinish n c p d a r = if r.last then t.auFinish n c a else t := by
  have hextra : (!r.last && decide (7 ≤ d.work.frames)) = false := by
    rcases hroom with hlast | hlt
    · simp [hlast]
    · simp [Nat.not_le.mpr hlt]
  unfold State.smFinish
  extract_lets extra dm fl bad taint segs grain desc bins s0 s1 s2 s3
  have hflags : fl = 0 := by
    have hfl' : dm.flags = 0 := hfl
    have hextra' : extra = false := hextra
    simp [fl, hfl', hextra', boolNat]
  have hbad : bad = false := by simp [bad, hflags]
  have htaint : taint = refTainted d r := by
    have hfl' : dm.flags = 0 := hfl
    simp [taint, hfl', hpar]
  have hsegs : segs = f.segs := by simp [segs, hf]
  have hs2 : s2 = (s1.outputFrame n c a p).smSteps n d _ := congrArg (State.smSteps · n d _) (if_neg (by simp [hbad]))
  have hs3 : s3 = if r.last then s2.auFinish n c a else s2 := by
    refine (if_neg (by simp [hbad])).trans ?_
    rw [show extra = false from hextra, Bool.or_false]
  rw [hs2] at hs3
  rw [hpar]
  refine ⟨s0, _, _, grain, ((s.writeFrame_sameDecoders ..).outputOnly c).trans (State.outputPrior_outputOnly ..), ?marked, hs3⟩
  case marked =>
    intro y
    refine ⟨?_, rfl, rfl⟩
    rw [show picDescriptor d a p r f = desc by rw [picDescriptor, ← hsegs, ← htaint], ← htaint, ← show (!bad) = true by rw [hbad]; rfl]

section Marks

variable {frame : Nat} {r : PictureResult} {out taint : Bool} {desc grain : List Byte} {fs : List DFrame} {g : DFrame}

theorem finishMarks_ids (keep : Bool) : ((finishMarks frame r keep out taint desc grain fs).map fun f => f.id) = fs.map fun f => f.id := by
  refine List.map_map.trans (List.map_congr_left fun f _ => ?_)
  rw [Function.comp_apply]
  split <;> rfl

/-- The frame of an undamaged picture has its marks and its descriptor. -/
theorem finishMarks_own (hg : g ∈ finishMarks frame r true out taint desc grain fs) (hid : g.id = frame) :
    g.ref = r.isRef ∧ g.taint = taint ∧ g.desc = desc := by
  obtain ⟨f, -, rfl⟩ := List.mem_map.mp hg
  by_cases hf : f.id = frame
  · simp [hf]
  · simp [hf] at hid

/-- A frame that is still a reference is not one that the picture drops. -/
theorem finishMarks_other {keep : Bool} (hg : g ∈ finishMarks frame r keep out taint desc grain fs) (hid : g.id ≠ frame) (href : g.ref = true) :
    g.id ∉ r.dropRefs := by
  obtain ⟨f, -, rfl⟩ := List.mem_map.mp hg
  by_cases hf : f.id = frame
  · simp [hf] at hid
  · rw [if_neg hf] at href ⊢
    simp only [Bool.and_eq_true, Bool.not_eq_true', List.contains_eq_mem, decide_eq_false_iff_not] at href
    exact href.2

end Marks

/-- What the output leaves of the marks of a finished picture. -/
theorem DecCtx.MarkedAs.output {y y' w : DecCtx} {p : Pic} {r : PictureResult} {taint : Bool} {desc grain : List Byte}
    (h : y.MarkedAs y' p r taint desc grain) (hw : y'.OutputTo w) :
    ((w.frames.map fun g => g.id) = y.frames.map fun g => g.id) ∧
    (∀ g ∈ w.frames, g.id = p.frame → g.ref = r.isRef ∧ g.taint = taint ∧ g.desc = desc) ∧
    (∀ g ∈ w.frames, g.id ≠ p.frame → g.ref = true → g.id ∉ r.dropRefs) ∧
    w.queue = y.queue ∧ w.work.frames = y.work.frames + 1 := by
  obtain ⟨hframes, hqueue, hwork⟩ := h
  have hmarked : ∀ g ∈ w.frames, ∃ f ∈ finishMarks p.frame r true (y.putsOut p.info) taint desc grain y.frames,
      f.id = g.id ∧ f.ref = g.ref ∧ f.taint = g.taint ∧ f.desc = g.desc := by
    intro g hg
    obtain ⟨f, hf, hsame⟩ := hw.exists_decoded hg
    exact ⟨f, hframes ▸ hf, by simpa [DFrame.decoded] using hsame⟩
  refine ⟨?ids, ?own, ?others, hw.2.1.trans hqueue, hw.2.2.trans hwork⟩
  case ids => rw [hw.ids, hframes, finishMarks_ids]
  case own =>
    intro g hg hid
    obtain ⟨f, hf, hfid, href, htaint, hdesc⟩ := hmarked g hg
    rw [← href, ← htaint, ← hdesc]
    exact finishMarks_own hf (hfid.trans hid)
  case others =>
    intro g hg hid hr
    obtain ⟨f, hf, hfid, href, -, -⟩ := hmarked g hg
    rw [← hfid]
    exact finishMarks_other hf (hfid ▸ hid) (href.trans hr)

/-- A finished undamaged picture frees its Smelter, and its context has the frame with its marks and descriptor, without the references that the
picture drops, and without the access unit after its last picture (R199, R203, R204). -/
theorem State.smFinish_spec {s : State} {n c : Nat} {p : Pic} {d : DecCtx} {a : Au} {rest : List Au} {r : PictureResult} {f : DFrame}
    (hord : Ordered s.smelters) (hd : s.dec? c = some d) (hq : d.queue = a :: rest)
    (hpar : r.parity = none) (hfl : (pictureDamage d a p.info r).flags = 0) (hroom : r.last = true ∨ d.work.frames < 7)
    (hf : (d.frames.find? fun f => f.id == p.frame) = some f) :
    ((s.smFinish n c p d a r).smelter n).pic = none ∧ ∃ d', (s.smFinish n c p d a r).dec? c = some d' ∧
      ((d'.frames.map fun g => g.id) = d.frames.map fun g => g.id) ∧
      (∀ g ∈ d'.frames, g.id = p.frame → g.ref = r.isRef ∧ g.taint = refTainted d r ∧ g.desc = picDescriptor d a p r f) ∧
      (∀ g ∈ d'.frames, g.id ≠ p.frame → g.ref = true → g.id ∉ r.dropRefs) ∧
      d'.queue = (if r.last then rest else d.queue) ∧ d'.work.frames = (if r.last then 0 else d.work.frames + 1) := by
  obtain ⟨s0, mark, steps, grain, ⟨hsm0, hdec0⟩, hmark, heq⟩ := State.smFinish_undamaged (n := n) (c := c) (s := s) hpar hfl hroom hf
  obtain ⟨y, hy, hout0⟩ := hdec0 d hd
  have hmarked : (s0.updDec c mark).dec? c = some (mark y) := by rw [State.dec?_updDec_same, hy, Option.map_some]
  obtain ⟨hsm1, hdec1⟩ := (s0.updDec c mark).outputFrame_outputOnly n c a p
  obtain ⟨z, hz, hout1⟩ := hdec1 (mark y) hmarked
  have hord1 : Ordered ((s0.updDec c mark).outputFrame n c a p).smelters := (hsm1.trans hsm0) ▸ hord
  have hpic := State.smSteps_pic hord1 n d steps
  have hdec := (State.smSteps_dec? _ n d steps c).trans hz
  rw [heq]
  have hids := hout0.ids
  obtain ⟨-, hqueue, hwork⟩ := hout0
  obtain ⟨hzids, hown, hothers, hzqueue, hzwork⟩ := (hmark y).output hout1
  cases hlast : r.last with
  | false =>
    exact ⟨hpic, z, hdec, hzids.trans hids, hown, hothers, hzqueue.trans hqueue, hzwork.trans (congrArg (· + 1) hwork)⟩
  | true =>
    obtain ⟨hsm2, w, hout2, hw⟩ := State.dec?_auFinish hdec (hzqueue.trans (hqueue.trans hq)) n a
    obtain ⟨hwids, hownOut, hothersOut, -, -⟩ := (hmark y).output (hout1.trans hout2)
    refine ⟨?_, w.unitEnded rest, hw, hwids.trans hids, hownOut, hothersOut, rfl, rfl⟩
    rw [State.smelter, if_pos rfl, hsm2]
    exact hpic

/-! ### RECORDED pictures (R203) -/

section Suspend

variable {s : State} {n : SmIx} {c : Nat} {p : Pic} {d : DecCtx} (hpic : (s.smelter n).pic = some (c, p)) (hd : s.dec? c = some d)
include hpic hd

/-- A LIVE picture goes on, and so does a RECORDED one that is owed steps. -/
theorem exec_recordedSuspend_goesOn (h : d.live = true ∨ s.smOwed n = true) : exec (.recordedSuspend n) s = .next s := by
  refine (show exec (.recordedSuspend n) s = .next (s.recordedSuspend n) from rfl).trans ?_
  rcases h with h | h <;> simp [State.recordedSuspend, hpic, hd, h]

theorem exec_recordedSuspend_suspends (hrec : d.live = false) (hready : s.smReady n true ≠ []) (howed : s.smOwed n = false) :
    exec (.recordedSuspend n) s = .next (((s.updDec c fun d =>
        { d with susp := some { p with suspends := p.suspends + 1 }, counts := countUp d.counts 9 1 }).setSmelter n
      { s.smelter n with pic := none }).setArb (16 + n) { s.arb (16 + n) with work := none }) := by
  refine (show exec (.recordedSuspend n) s = .next (s.recordedSuspend n) from rfl).trans ?_
  simp only [State.recordedSuspend, hpic, hd]
  exact congrArg _ (if_neg (by simp [hrec, hready, howed]))

end Suspend

/-! ### A context moves (R194, R209, R253) -/

/-- The state in which a context leaves its Smelter for another, which is powered: a quarantined one has cut its access unit (R209). -/
def State.smLeft (s : State) (c : Nat) (d : DecCtx) (h : Nat) : State :=
  if s.flag (Reg.smStatus d.home) 31 then ((s.powerUp (smDom h)).auCut d.home c).updDec c fun d => { d with susp := none }
  else s.powerUp (smDom h)

/-- A context that has moved to Smelter h, restarted or not. -/
def DecCtx.movedTo (d : DecCtx) (h : Nat) (restart : Bool) : DecCtx := { (if restart then restartCtx d else d) with home := h, rehome := false }

theorem exec_contextRehome {s : State} {c : StreamIx} {d : DecCtx} {h : Nat} (hd : s.dec? c = some d) (hmove : d.rehome = true)
    (hidle : ∀ p, (s.smelter d.home).pic ≠ some (c.val, p)) (hhome : s.smHome (s.limit d.part 6 2 % 4096) d.hint = some h) (ok : Bool) :
    exec (.contextRehome c ok) s =
      .next ((s.smLeft c d h).updDec c fun y => y.movedTo h (s.flag (Reg.smStatus d.home) 31 && !ok)) := by
  have hrun : (match (s.smelter d.home).pic with | some (c', _) => c' == c.val | none => false) = false := by
    cases hp : (s.smelter d.home).pic with
    | none => rfl
    | some x =>
      obtain ⟨c', p⟩ := x
      exact beq_eq_false_iff_ne.mpr fun hc => hidle p (hc ▸ hp)
  refine (show exec (.contextRehome c ok) s = .next (s.contextRehome c ok) from rfl).trans (congrArg _ ?_)
  unfold State.contextRehome
  rw [hd]
  refine (if_neg ?_).trans ?_
  · rw [hmove]
    exact not_or.mpr ⟨Bool.noConfusion, Bool.eq_false_iff.mp hrun⟩
  · rw [hhome]
    rfl

theorem State.auCut_othersKept (s : State) (n c : Nat) : OthersKept c s (s.auCut n c) := by
  unfold State.auCut
  split
  · exact .refl c s
  split
  · exact .refl c s
  split
  · exact s.auDiscard_othersKept ..
  · exact s.auEnd_othersKept ..

section Left

variable {s : State} {c : Nat} {d : DecCtx}

/-- A context with no access unit begun keeps its queue. -/
theorem State.auCut_idle (hd : s.dec? c = some d) (hsusp : d.susp = none) (hwork : d.work.frames = 0) (n : Nat) : s.auCut n c = s := by
  simp [State.auCut, hd, hsusp, hwork]

/-- An access unit that has been begun leaves the queue. -/
theorem State.dec?_auCut {a : Au} {rest : List Au} (hd : s.dec? c = some d) (hbegun : d.susp ≠ none ∨ d.work.frames ≠ 0)
    (hq : d.queue = a :: rest) (n : Nat) : ∃ d', (s.auCut n c).dec? c = some d' ∧ d'.queue = rest := by
  have hcut : ¬ (d.susp.isNone && d.work.frames == 0) = true := by
    simpa [or_iff_not_imp_left] using hbegun
  have heq : s.auCut n c = if d.work.outs = 0 then s.auDiscard n c 0 false else s.auEnd c 0 := by
    simp only [State.auCut, hd, if_neg hcut]
  rw [heq]
  split
  · exact State.dec?_auDiscard hd hq ..
  · exact ⟨_, State.dec?_auEnd hd hq 0, rfl⟩

theorem State.smLeft_othersKept (s : State) (c : Nat) (d : DecCtx) (h : Nat) : OthersKept c s (s.smLeft c d h) := by
  have hup := (s.powerUp_sameDecoders (smDom h)).othersKept c
  unfold State.smLeft
  split
  · exact (hup.trans (State.auCut_othersKept ..)).trans (State.updDec_othersKept ..)
  · exact hup

/-- From a Smelter that works, or between access units, a context leaves as it is. -/
theorem State.smLeft_whole (hd : s.dec? c = some d) (hwhole : s.flag (Reg.smStatus d.home) 31 = false ∨ (d.susp = none ∧ d.work.frames = 0))
    (h : Nat) : (s.smLeft c d h).dec? c = some d ∧ s.smLeft c d h = { s.powerUp (smDom h) with decs := (s.smLeft c d h).decs } := by
  have hup : (s.powerUp (smDom h)).dec? c = some d := ((s.powerUp_sameDecoders (smDom h)).dec? c).trans hd
  unfold State.smLeft
  split
  next hquar =>
    obtain ⟨hsusp, hwork⟩ := hwhole.resolve_left (by simp [hquar])
    rw [State.auCut_idle hup hsusp hwork, State.dec?_updDec_same, hup, Option.map_some, ← hsusp]
    exact ⟨rfl, rfl⟩
  next => exact ⟨hup, rfl⟩

/-- From a quarantined Smelter a context leaves without the access unit that it has begun. -/
theorem State.smLeft_cut {a : Au} {rest : List Au} (hd : s.dec? c = some d) (hquar : s.flag (Reg.smStatus d.home) 31 = true)
    (hbegun : d.susp ≠ none ∨ d.work.frames ≠ 0) (hq : d.queue = a :: rest) (h : Nat) :
    ∃ d', (s.smLeft c d h).dec? c = some d' ∧ d'.queue = rest ∧ d'.susp = none := by
  have hup : (s.powerUp (smDom h)).dec? c = some d := ((s.powerUp_sameDecoders (smDom h)).dec? c).trans hd
  obtain ⟨d', hd', hqueue⟩ := State.dec?_auCut hup hbegun hq d.home
  refine ⟨{ d' with susp := none }, ?_, hqueue, rfl⟩
  rw [State.smLeft, if_pos hquar, State.dec?_updDec_same, hd', Option.map_some]

end Left

theorem DecCtx.movedTo_queue (d : DecCtx) (h : Nat) (restart : Bool) : (d.movedTo h restart).queue = d.queue := by
  cases restart <;> rfl

theorem DecCtx.movedTo_susp (d : DecCtx) (h : Nat) (restart : Bool) : (d.movedTo h restart).susp = d.susp := by
  cases restart <;> rfl

section Rehome

variable {s : State} {c : StreamIx} {d : DecCtx} {h : Nat} (hd : s.dec? c = some d) (hmove : d.rehome = true)
  (hidle : ∀ p, (s.smelter d.home).pic ≠ some (c.val, p)) (hhome : s.smHome (s.limit d.part 6 2 % 4096) d.hint = some h) (ok : Bool)
include hd hmove hidle hhome

/-- A context that leaves as it is gets its home, restarted when its state is lost; nothing else changes but the power of its Smelter. -/
theorem exec_contextRehome_whole (hwhole : s.flag (Reg.smStatus d.home) 31 = false ∨ (d.susp = none ∧ d.work.frames = 0)) :
    ∃ t, exec (.contextRehome c ok) s = .next t ∧ t.dec? c = some (d.movedTo h (s.flag (Reg.smStatus d.home) 31 && !ok)) ∧
      (∀ k, k ≠ c.val → t.dec? k = s.dec? k) ∧ t = { s.powerUp (smDom h) with decs := t.decs } := by
  obtain ⟨hleft, hframe⟩ := State.smLeft_whole hd hwhole h
  refine ⟨_, exec_contextRehome hd hmove hidle hhome ok, ?_, ((s.smLeft_othersKept c d h).trans (State.updDec_othersKept ..)).2, ?_⟩
  · rw [State.dec?_updDec_same, hleft, Option.map_some]
  · rw [hframe]
    rfl

/-- From a quarantined Smelter a context goes on at its next access unit, with nothing suspended. -/
theorem exec_contextRehome_cut {a : Au} {rest : List Au} (hquar : s.flag (Reg.smStatus d.home) 31 = true)
    (hbegun : d.susp ≠ none ∨ d.work.frames ≠ 0) (hq : d.queue = a :: rest) :
    ∃ t d', exec (.contextRehome c ok) s = .next t ∧ t.dec? c = some d' ∧ d'.queue = rest ∧ d'.home = h ∧ d'.rehome = false ∧ d'.susp = none ∧
      ∀ k, k ≠ c.val → t.dec? k = s.dec? k := by
  obtain ⟨y, hy, hyqueue, hysusp⟩ := State.smLeft_cut hd hquar hbegun hq h
  refine ⟨_, y.movedTo h (s.flag (Reg.smStatus d.home) 31 && !ok), exec_contextRehome hd hmove hidle hhome ok, ?_,
    (y.movedTo_queue ..).trans hyqueue, rfl, rfl, (y.movedTo_susp ..).trans hysusp,
    ((s.smLeft_othersKept c d h).trans (State.updDec_othersKept ..)).2⟩
  rw [State.dec?_updDec_same, hy, Option.map_some]

end Rehome

/-! ### The segments asked for -/

/-- Two replacements of the entries of a number that agree do the same to each of them. -/
theorem tabUpd_eq_iff {α : Type} {t : Tab α} {k : Nat} {f g : α → α} :
    tabUpd t k f = tabUpd t k g ↔ ∀ e ∈ t, e.1 = k → f e.2 = g e.2 := by
  refine List.map_inj_left.trans (forall₂_congr fun e _ => ?_)
  by_cases hk : e.1 = k <;> simp [hk]

/-- A picture that waits asks for its segments in buffers of the picked context's pool. The clause of O26 asks for them, in each entry of the
context's number, in buffers of that entry's pool: it makes those be the same. -/
theorem frameSegs_of_picturesAreDecoded (h : Obligations.PicturesAreDecoded) {s s1 : State} {n : SmIx} {c : Nat} {d : DecCtx} {a : Au}
    {rest : List Au} {k b : Nat} {i : PictureInfo} (hpicks : s.Picks n s1 c d) (hsusp : d.susp = none) (hq : d.queue = a :: rest)
    (hhandle : s1.handleCheck d.part a.handle 0 a.len = .pass k b) (hclean : a.Clean) (hwait : d.waitRap = false) (hheader : i.badHeader = false)
    (hseq : (s1.smTaken c d i).seqFlags c = 0) (hfit : d.unfit i = 0) (hnew : i.existing = none)
    (hbufs : (s1.smTaken c d i).frameBuffers c d (frameSegs i d.pool) = none) :
    ∀ e ∈ (s1.smTaken c d i).decs, e.1 = c → frameSegs i d.pool = frameSegs i e.2.pool := by
  unfold Obligations.PicturesAreDecoded at h
  obtain ⟨hstart, -⟩ := h
  obtain ⟨-, htakes⟩ := (hstart s n i).2 s1 c d hpicks.on hpicks.enabled hpicks.serving hpicks.idle hpicks.pick
  obtain ⟨-, -, hup⟩ := htakes a rest k b hsusp hq hhandle
  obtain ⟨hstated, -⟩ := (hup (.inr ⟨.inr hclean, .inl hwait⟩) hheader).2 hseq hfit hnew
  have htake : d.TakesUp a i := fun _ => ⟨.inr hclean, .inl hwait⟩
  obtain ⟨hwaits, -⟩ := State.smAccess_newPicture (n := n) htake hheader hseq hfit hnew
  have hmodel := (exec_pictureStart s n i).trans (congrArg _ ((hpicks.takes hsusp hq hhandle i).trans (hwaits hbufs)))
  have hsame := Host.Outcome.next.inj (hmodel.symm.trans (hstated hbufs _ rfl))
  have hdecs : tabUpd (s1.smTaken c d i).decs c (fun y => y.waitingFor (d.asked.getD (s1.smTaken c d i).nextWait) (frameSegs i d.pool)) =
      tabUpd (s1.smTaken c d i).decs c (fun y => y.waitingFor (d.asked.getD (s1.smTaken c d i).nextWait) (frameSegs i y.pool)) :=
    congrArg State.decs hsame
  exact fun e he hk => congrArg DecCtx.askedSegs (tabUpd_eq_iff.mp hdecs e he hk)

/-! ### Two entries of one context -/

/-- An IDR picture of 16 x 16. -/
def wholePicture : PictureInfo := { profile := .constrainedBaseline, kind := .idr, codedW := 16, codedH := 16 }

/-- The access unit that holds it, in buffer 0 of pool 4. -/
def queuedUnit : Au := ⟨handleOf 0 4 0, 100, false, false, 0, 0, none, 0, []⟩

/-- A context of pool 4 with the access unit queued, whose group has no frame to give: its FB_COUNT is 0. -/
def starvedCtx : DecCtx where
  part := 1
  stream := 3
  home := 0
  live := true
  codec := 0
  block := 4 :: List.replicate 15 0
  queue := [queuedUnit]
  work := ⟨0, 0, 0, false, 0, 0, []⟩
  frames := []
  nextFrame := 0
  nextSeq := 0
  waitRap := false
  waitFb := none
  granted := false
  seqBad := none
  susp := none
  paramDue := false
  params := []
  rehome := false
  unbound := false
  counts := []

/-- Smelter 0 is on and enabled, and two entries of the context table have the number 0: the context, and another of pool 0, homed on Smelter 1.
STREAM_BIND takes a free number, so no run leads here, but the statement is about every state. -/
def twinContexts : State :=
  { (((State.reset.setReg (Reg.pdState 5) 0x55555555).setReg (Reg.smCtrl 0) 1).setReg Reg.pwCtrl 0x10).setReg (Reg.pwPoolCount 4) 1 with
    bufs := [(2 ^ 24 * 4, ⟨0, [some 1, none, none, none]⟩)]
    decs := [(0, starvedCtx), (0, { starvedCtx with home := 1, block := [] })] }

theorem twinContexts_picks : twinContexts.Picks 0 (twinContexts.smPick 0).1 0 starvedCtx where
  on := by decide +kernel
  enabled := by decide +kernel
  serving := by decide +kernel
  idle := by decide +kernel
  pick := by
    have hpicked : (twinContexts.smPick 0).2 = some (0, starvedCtx) := by decide +kernel
    rw [← hpicked]

theorem twinContexts_handle :
    (twinContexts.smPick 0).1.handleCheck starvedCtx.part queuedUnit.handle 0 queuedUnit.len = .pass 4 0 := by decide +kernel

theorem twinContexts_seqFlags : ((twinContexts.smPick 0).1.smTaken 0 starvedCtx wholePicture).seqFlags 0 = 0 := by decide +kernel

theorem twinContexts_noFrame : ((twinContexts.smPick 0).1.smTaken 0 starvedCtx wholePicture).frameBuffers 0 starvedCtx
    (frameSegs wholePicture starvedCtx.pool) = none := by decide +kernel

/-- The other entry is of pool 0, whose buffers hold 256 bytes. -/
theorem twinContexts_otherPool : ((twinContexts.smPick 0).1.smTaken 0 starvedCtx wholePicture).decs.any
    (fun e => e.1 == 0 && frameSegs wholePicture starvedCtx.pool != frameSegs wholePicture e.2.pool) = true := by decide +kernel

/-- Refutes O26, by its clause on a picture that waits for its frame (R198). In `fun d => { d with askedSegs := frameSegs i d.pool }` the clause
reads the pool from each entry that it changes, while the Smelter counts the segments in buffers of the picked context's pool
(`State.smAccess_newPicture`): with two entries of one number and two pools, the other entry asks for 18 segments in the clause and for 1 in the
model. The other clauses hold: `State.pictureStart_idle`, `State.Picks.resumes`, the `State.smAccess` lemmas, `State.smFinish_spec`, and the
`exec_recordedSuspend` and `exec_contextRehome` lemmas. -/
theorem not_picturesAreDecoded : ¬ Obligations.PicturesAreDecoded := by
  intro h
  have hall := frameSegs_of_picturesAreDecoded h (n := 0) (i := wholePicture) twinContexts_picks rfl rfl twinContexts_handle ⟨rfl, rfl⟩ rfl rfl
    twinContexts_seqFlags (by decide +kernel) rfl twinContexts_noFrame
  obtain ⟨e, he, hother⟩ := List.any_eq_true.mp twinContexts_otherPool
  simp only [Bool.and_eq_true, beq_iff_eq, bne_iff_ne] at hother
  exact hother.2 (hall e he hother.1)

/-! ### Frames released (R199, R211) -/

theorem exec_frameRelease (s : State) (c : StreamIx) (frame : Nat) : exec (.frameRelease c frame) s = .next (s.frameRelease c frame) := rfl

/-- The state in which the segments of a frame are freed for a partition. -/
def State.segsFreed (s : State) (p : Nat) (segs : List Nat) : State := segs.foldl (fun u h => u.unitFree p h) s

theorem State.dec?_segsFreed (s : State) (p : Nat) (segs : List Nat) (c : Nat) : (s.segsFreed p segs).dec? c = s.dec? c :=
  (SameDecoders.foldl (fun s (h : Nat) => s.unitFree_sameDecoders p h) segs s).dec? c

section Release

variable {s : State} {c frame : Nat} {d : DecCtx} {f : DFrame} (hd : s.dec? c = some d) (hf : (d.frames.find? fun x => x.id == frame) = some f)
include hd hf

/-- A frame in a chain or due for output stays. -/
theorem State.frameRelease_shown (h : f.chain ≠ 0 ∨ f.disp = true) : s.frameRelease c frame = s := by
  simp only [State.frameRelease, hd, hf]
  refine if_pos ?_
  rcases h with hchain | hdisp
  · exact .inr (.inl hchain)
  · exact .inl (by simp [hdisp])

/-- A reference stays, as long as its context is bound or has work. -/
theorem State.frameRelease_reference (href : f.ref = true) (h : d.unbound = false ∨ d.queue ≠ []) : s.frameRelease c frame = s := by
  simp only [State.frameRelease, hd, hf]
  refine if_pos (.inl ?_)
  rcases h with hbound | hwork
  · simp [href, hbound]
  · simp [href, hwork]

theorem State.frameRelease_frees (href : f.ref = false ∨ (d.unbound = true ∧ d.queue = [])) (hdisp : f.disp = false) (hchain : f.chain = 0)
    (hpending : s.framePending c frame d = false) : s.frameRelease c frame =
      (s.segsFreed d.part f.segs).updDec c fun d => { d with frames := d.frames.filter fun g => g.id != frame } := by
  simp only [State.frameRelease, hd, hf]
  refine if_neg ?_
  rcases href with href | ⟨hunbound, hidle⟩
  · simp [href, hdisp, hchain, hpending]
  · simp [hunbound, hidle, hdisp, hchain, hpending]

end Release

/-! ### Frames granted (R198, R281) -/

theorem exec_frameBufferGrant {s : State} {c : StreamIx} {d : DecCtx} (hd : s.dec? c = some d) : exec (.frameBufferGrant c) s = .next
    (if d.waitFb.isSome = true ∧ s.groupHeld d < s.groupBudget d ∧ (s.allocMany d.part d.pool d.askedSegs).isSome = true ∧
      ((s.groupCtxs d).any fun e => e.1 != c.val && e.2.waitFb.isSome && servedBefore d e.2) = false then
      s.updDec c fun d => { d with waitFb := none, granted := true } else s) := by
  refine (show exec (.frameBufferGrant c) s = execFrameBufferGrant c s from rfl).trans ?_
  simp only [execFrameBufferGrant, hd]

/-! ### The counters of a context (R210, R211) -/

theorem Reg.smCcnt_injective (n : Nat) : Function.Injective (Reg.smCcnt n) := fun j k h => by
  unfold Reg.smCcnt at h
  omega

theorem Reg.smCsel_ne_smCstat (n : Nat) : Reg.smCsel n ≠ Reg.smCstat n := by
  unfold Reg.smCsel Reg.smCstat
  omega

theorem Reg.smCsel_ne_smCcnt (n k : Nat) : Reg.smCsel n ≠ Reg.smCcnt n k := by
  unfold Reg.smCsel Reg.smCcnt
  omega

theorem Reg.smCstat_ne_smCcnt (n k : Nat) : Reg.smCstat n ≠ Reg.smCcnt n k := by
  unfold Reg.smCstat Reg.smCcnt
  omega

/-- The word of a counter of a context, as a Smelter latches it. -/
def State.smCountWord (s : State) (n : Nat) (v : Word) (k : Nat) : Word := BitVec.ofNat 32 (listAt 0 (s.smLatch n (bitsOf v 9 0)).2 k)

/-- The state in which SM_CSEL names a context and its status and counters are latched. -/
def State.smLatched (s : State) (n : Nat) (v : Word) : State :=
  ((s.setReg (Reg.smCsel n) (v &&& 0x3FF)).setReg (Reg.smCstat n) (s.smLatch n (bitsOf v 9 0)).1).setRegs (Reg.smCcnt n) (s.smCountWord n v)
    (List.range 10)

theorem exec_smCselSnap {s : State} {n : SmIx} (v : Word) (h : s.PfReaches (Reg.smCsel n)) :
    exec (.smCselSnap n v) s = .next (s.smLatched n v) := by
  have hsnap : bitOf (v ||| 0x80000000) 31 = true := by
    rw [bitOf_or, show bitOf 0x80000000 31 = true from by decide, Bool.or_true]
  have hsel : (v ||| 0x80000000) &&& 0x3FF = v &&& 0x3FF := by
    rw [BitVec.and_or_distrib_right]
    simp
  have hctx : bitsOf (v ||| 0x80000000) 9 0 = bitsOf v 9 0 := by
    rw [← bitsOf_and_of_covered _ 0x3FF (by decide), hsel, bitsOf_and_of_covered _ _ (by decide)]
  have hwrite : s.smCselWrite n (v ||| 0x80000000) = s.smLatched n v := by
    simp only [State.smCselWrite, hsnap, hsel, hctx, if_true]
    rfl
  exact congrArg Host.Outcome.next ((State.pfReach_of_reaches h _).trans hwrite)

theorem State.reg_smLatched_sel (s : State) (n : Nat) (v : Word) (hr : Rising s.regs) : (s.smLatched n v).reg (Reg.smCsel n) = v &&& 0x3FF := by
  rw [State.smLatched, State.reg_setRegs_other _ _ _ _ fun k _ => Reg.smCsel_ne_smCcnt n k,
    State.reg_setReg_other _ _ _ _ (Reg.smCsel_ne_smCstat n), State.reg_setReg_same _ _ _ hr]

theorem State.reg_smLatched_stat (s : State) (n : Nat) (v : Word) (hr : Rising s.regs) :
    (s.smLatched n v).reg (Reg.smCstat n) = (s.smLatch n (bitsOf v 9 0)).1 := by
  rw [State.smLatched, State.reg_setRegs_other _ _ _ _ fun k _ => Reg.smCstat_ne_smCcnt n k,
    State.reg_setReg_same _ _ _ (s.setReg_rising _ _ hr)]

theorem State.reg_smLatched_count (s : State) (n : Nat) (v : Word) (hr : Rising s.regs) {k : Nat} (hk : k < 10) :
    (s.smLatched n v).reg (Reg.smCcnt n k) = s.smCountWord n v k :=
  State.reg_setRegs_same _ _ (Reg.smCcnt_injective n) (State.setReg_rising _ _ _ (s.setReg_rising _ _ hr)) (List.mem_range.mpr hk)

theorem State.smLatched_sameRegs (s : State) (n : Nat) (v : Word) :
    SameRegs s (s.smLatched n v) ([Reg.smCsel n, Reg.smCstat n] ++ (List.range 10).map (Reg.smCcnt n)) := by
  intro o ho
  obtain ⟨hsel, hstat, hcounts⟩ : o ≠ Reg.smCsel n ∧ o ≠ Reg.smCstat n ∧ ∀ k ∈ List.range 10, o ≠ Reg.smCcnt n k := by
    simpa [eq_comm] using ho
  rw [State.smLatched, State.reg_setRegs_other _ _ _ _ hcounts, State.reg_setReg_other _ _ _ _ hstat, State.reg_setReg_other _ _ _ _ hsel]

/-- Settles O27: a release and a grant each have one test, and replace their context alone; a window and a snapshot are single writes, to the
Smelter's record and to twelve registers apart from each other. -/
theorem framesAreSharedAndReleased : Obligations.FramesAreSharedAndReleased := by
  unfold Obligations.FramesAreSharedAndReleased
  refine ⟨fun s c d frame f hd hf => ⟨fun h => ?shown, fun href h => ?reference, fun href hdisp hchain hpending => ?frees⟩,
    fun s c d hd => ⟨fun hfirst => ?grants, fun hlater => (exec_frameBufferGrant hd).trans (congrArg _ (if_neg hlater))⟩,
    fun s n recRan allRan hc => ?window, fun s n v hc hreach => ?snap⟩
  case shown => rw [exec_frameRelease, State.frameRelease_shown hd hf h]
  case reference => rw [exec_frameRelease, State.frameRelease_reference hd hf href h]
  case frees =>
    refine ⟨_, (exec_frameRelease s c frame).trans (congrArg _ (State.frameRelease_frees hd hf href hdisp hchain hpending)), ?_,
      fun k hk => (State.dec?_updDec_other _ _ _ _ hk).trans (s.dec?_segsFreed ..), rfl⟩
    rw [State.dec?_updDec_same, State.dec?_segsFreed, hd, Option.map_some]
  case grants =>
    refine ⟨_, (exec_frameBufferGrant hd).trans (congrArg _ (if_pos hfirst)), ?_, fun k hk => State.dec?_updDec_other _ _ _ _ hk, rfl⟩
    rw [State.dec?_updDec_same, hd, Option.map_some]
  case window =>
    exact ⟨_, rfl, State.smelter_setSmelter_same _ _ _ hc.tabs.smelters, fun m hm => State.smelter_setSmelter_other _ _ _ _ hm, rfl⟩
  case snap =>
    exact ⟨_, exec_smCselSnap v hreach, s.reg_smLatched_sel n v hc.rising, s.reg_smLatched_stat n v hc.rising,
      fun k hk => s.reg_smLatched_count n v hc.rising hk, s.smLatched_sameRegs n v, State.setRegs_frame ..⟩

end Sys2Proof.Machine

/-!
PROOFS. The snapshots of the input shaper chapter: SNAPSHOT hands a frame's objects to the encoders (R224, R228), and an encoder takes the objects
of the partition that has the turn and gives each its reference (R224-R228, R268).
-/

namespace Sys2Proof.Machine

/-! ### SNAPSHOT (R224, R228) -/

theorem exec_snapshot {s t : State} {c : Cmd} (hc : s.Issued c 0x60) (h : State.opSnapshot c s = t) : exec (.snapshot c.id) s = .next t :=
  congrArg Host.Outcome.next ((State.runOp_issued hc State.opSnapshot).trans h)

/-- The objects among which a SNAPSHOT selects: those of its frame's TRACK, and the stream's when there is none. -/
def State.snapObjs (s : State) (c : Cmd) (st : Stream) : List Obj :=
  match s.jobOf c with
  | some j => (j.track.map fun t => t.objs).getD st.objs
  | none => st.objs

section Snapshot

variable {s : State} {c : Cmd} {st : Stream} {f : List Byte} (hst : s.stream? c.part c.stream = some st)
  (hf : s.readProfile c (c.par 0 8) 32 = .ok f)
include hst hf

theorem State.opSnapshot_badFields (h : seOk f = false) : State.opSnapshot c s = s.endCmd c.id .badOpcode 0 := by
  simp only [State.opSnapshot, hst, hf, h, if_true]

variable {d : List Byte} (hok : seOk f = true) (hd : s.frameDesc c 8 = .ok d)
include hok hd

theorem State.opSnapshot_noObject (h : snapSelect f (s.snapObjs c st) = []) : State.opSnapshot c s = s.endCmd c.id .ok 0 := by
  simp only [State.opSnapshot, hst, hf, hok, hd, Bool.true_eq_false, if_false]
  exact if_pos (List.isEmpty_iff.mpr h)

variable {l : List (Nat × Det)} (hsel : snapSelect f (s.snapObjs c st) = l) (hl : l ≠ [])
include hsel hl

/-- Selected objects wait for the encoders, or are misses when none serves. -/
theorem State.opSnapshot_selected : State.opSnapshot c s =
    if (s.encoders c.part).isEmpty then
      ((s.snapMissed c.id c.part c.stream).bump (Reg.seStat 0) 31 16 l.length).endCmd c.id .ok (BitVec.ofNat 32 (l.length * 256))
    else
      ({ s with snaps := s.snaps ++ [⟨c.id, c.part, c.stream, d, f, l, 0, 0, none⟩] } : State).updCmd c.id fun x => { x with phase := .active } := by
  subst hsel
  simp only [State.opSnapshot, hst, hf, hok, hd, Bool.true_eq_false, if_false]
  exact if_neg fun hnone => hl (List.isEmpty_iff.mp hnone)

end Snapshot

/-! ### An object at its encoder (R224-R226) -/

/-- With the Shade open and the pool's entries written, an object whose JPEG finds a buffer has its reference. -/
theorem State.encodeObject_stored {s v : State} {j : SnapJob} {ix w h hd : Nat} {o : Det} {rest : List (Nat × Det)} {bs : List Byte} (n : Nat)
    (hleft : j.left = (ix, o) :: rest) (hpool : natBits (fieldAt j.profile 3 1) 2 0 ∉ s.poolInit)
    (hshades : ∀ path, (s.shade j.part path).rate = 0) (hjpeg : s.snapJpeg j.part j.profile j.desc o = .ok (bs, w, h))
    (hstore : s.snapStore j.part (natBits (fieldAt j.profile 3 1) 2 0) bs = some (v, hd)) :
    s.encodeObject n j =
      ((v.snapRef j.cmd j.part j.stream ⟨ix, hd, bs.length, w, h⟩).bump (Reg.seStat n) 15 0 1).snapStep j.cmd false := by
  have hready : s.poolInit.contains (natBits (fieldAt j.profile 3 1) 2 0) = false := by simpa using hpool
  simp only [State.encodeObject, hleft, hready, Bool.false_eq_true, if_false, hjpeg, State.shadeAskAll_unregulated hshades, hstore]

/-! ### SNAPSHOT_OBJECT_ENCODE (R226, R228, R268) -/

theorem exec_snapshotObjectEncode {s t : State} {n : SeIx} (h : s.snapshotEncode n = t) : exec (.snapshotObjectEncode n) s = .next t :=
  congrArg Host.Outcome.next h

/-- A job whose encoders are all off loses an object, whichever encoder has its turn. -/
theorem State.snapshotEncode_dead {s : State} {j : SnapJob} (n : Nat) (h : (s.snaps.find? fun x => (s.encoders x.part).isEmpty) = some j) :
    s.snapshotEncode n = ((s.snapMissed j.cmd j.part j.stream).bump (Reg.seStat n) 31 16 1).snapStep j.cmd true := by
  simp only [State.snapshotEncode, h]

/-- The state in which an encoder has begun an object of a job, in a partition's turn. -/
def State.encodeBegun (s : State) (n : Nat) (j : SnapJob) : State :=
  ({ s with snaps := s.snaps.map fun x => if x.cmd = j.cmd then { x with begun := some n } else x } : State).setArb (56 + n)
    { s.arb (56 + n) with chosen := none, work := some (j.part, s.nowNs) }

section Served

variable {s : State} (hserved : ∀ x ∈ s.snaps, s.encoders x.part ≠ [])
include hserved

theorem State.find?_dead_eq_none : (s.snaps.find? fun x => (s.encoders x.part).isEmpty) = none :=
  List.find?_eq_none.mpr fun x hx => by simpa using hserved x hx

theorem State.snapshotEncode_idle {n : Nat} (h : (s.snaps.filter fun x => s.jobFor n x) = []) : s.snapshotEncode n = s := by
  simp only [State.snapshotEncode, State.find?_dead_eq_none hserved, h, List.find?_nil, List.isEmpty_nil, if_true]

variable {n : Nat} {mine : List SnapJob} {j : SnapJob} (hmine : (s.snaps.filter fun x => s.jobFor n x) = mine)
include hmine

theorem State.snapshotEncode_goesOn (h : (mine.find? fun x => x.begun == some n) = some j) : s.snapshotEncode n = s.encodeObject n j := by
  simp only [State.snapshotEncode, State.find?_dead_eq_none hserved, hmine, h]

/-- The choice stands while its partition has a job for the encoder, so no other is made. -/
theorem State.snapshotEncode_begins (hnone : (mine.find? fun x => x.begun == some n) = none)
    (hchosen : ((s.arbEnd (56 + n) 0).arb (56 + n)).chosen = some j.part) (hfirst : (mine.find? fun x => x.part == j.part) = some j) :
    s.snapshotEncode n = ((s.arbEnd (56 + n) 0).encodeBegun n j).encodeObject n j := by
  have hmem : j ∈ mine := List.mem_of_find?_eq_some hfirst
  have hwork : mine.isEmpty = false := List.isEmpty_eq_false_iff_exists_mem.mpr ⟨j, hmem⟩
  have hready : (mine.map (·.part)).eraseDups.contains j.part = true := by
    simpa [List.mem_eraseDups] using ⟨j, hmem, rfl⟩
  have holdest : (mine.find? fun x => some j.part == some x.part) = some j := by
    have hpred : (fun x : SnapJob => some j.part == some x.part) = fun x => x.part == j.part :=
      funext fun x => Bool.eq_iff_iff.mpr (by rw [beq_iff_eq, beq_iff_eq, Option.some.injEq, eq_comm])
    rw [hpred, hfirst]
  simp only [State.snapshotEncode, State.find?_dead_eq_none hserved, hmine, hnone, hwork, Bool.false_eq_true, if_false, hchosen, hready, if_true,
    holdest]
  rfl

end Served

/-- Settles O31: a SNAPSHOT that passes its checks is decided by its selection and by the encoders that serve; an encoder's turn leads to one
object, begun before or taken now, and the object's reference follows in either case. -/
theorem snapshotsAreEncoded : Obligations.SnapshotsAreEncoded := by
  unfold Obligations.SnapshotsAreEncoded
  refine ⟨fun s c st f d hc hst hf => ⟨fun hbad => exec_snapshot hc (State.opSnapshot_badFields hst hf hbad), fun hok hd => ?snapshot⟩,
    fun s n j hdead => exec_snapshotObjectEncode (State.snapshotEncode_dead n hdead),
    fun s n hserved => ⟨fun hidle => exec_snapshotObjectEncode (State.snapshotEncode_idle hserved hidle),
      fun j u hturn ix o rest bs w h v hd hleft hpool hshades hjpeg hstore => ?encode⟩⟩
  case snapshot =>
    refine ⟨fun hnone => exec_snapshot hc (State.opSnapshot_noObject hst hf hok hd hnone), fun hsome hoff => ?_, fun hsome hon => ?_⟩
    · exact exec_snapshot hc ((State.opSnapshot_selected hst hf hok hd rfl hsome).trans (if_pos (List.isEmpty_iff.mpr hoff)))
    · have hqueued := (State.opSnapshot_selected hst hf hok hd rfl hsome).trans (if_neg fun hoff => hon (List.isEmpty_iff.mp hoff))
      obtain ⟨hcmd, -, -⟩ := id hc
      exact ⟨_, exec_snapshot hc hqueued, rfl, State.cmd?_activated (s := { s with snaps := _ }) hcmd, rfl⟩
  case encode =>
    have hobject := State.encodeObject_stored n.val hleft hpool hshades hjpeg hstore
    rcases hturn with ⟨hbegun, rfl⟩ | ⟨hnone, hchosen, hfirst, rfl⟩
    · exact exec_snapshotObjectEncode ((State.snapshotEncode_goesOn hserved rfl hbegun).trans hobject)
    · exact exec_snapshotObjectEncode ((State.snapshotEncode_begins hserved rfl hnone hchosen hfirst).trans hobject)

end Sys2Proof.Machine

/-!
PROOF. The step: what every command keeps, which commands stop and when, and the statements on steps, reset and completion.
-/

namespace Sys2Proof.Machine

/-! ### Every command keeps the invariants -/

/-- Whatever the command, the state it leaves is kept to the one before it: the same queue and fuses, canonical forms, no free value given
back. The dispatch has one arm for each command, and each arm has its law. -/
theorem exec_kept (s : State) (c : Instr) : Kept.Out s (exec c s) :=
  match c with
  | .registerWrite .. => execRegisterWrite_kept _ _ _ _ (.refl s)
  | .rcRegisterRead .. => execRcRegisterRead_kept _ _ _ (.refl s)
  | .fabRateWindow .. => execFabRateWindow_kept _ _ _ (.refl s)
  | .ageRingWindow .. => execAgeRingWindow_kept _ _ (.refl s)
  | .marginReplan => execMarginReplan_kept (.refl s)
  | .vddFabUndervoltage .. => execVddFabUndervoltage_kept _ (.refl s)
  | .sysRefclkStop => execSysRefclkStop_kept (.refl s)
  | .sysRefclkReturn => execSysRefclkReturn_kept (.refl s)
  | .safeAutoExit => execSafeAutoExit_kept (.refl s)
  | .winSelWrite .. => execWinSelWrite_kept _ (.refl s)
  | .winLoWrite .. => execWinLoWrite_kept _ (.refl s)
  | .winHiWrite .. => execWinHiWrite_kept _ (.refl s)
  | .rmoPut .. => execRmoPut_kept _ (.refl s)
  | .rmoGet .. => execRmoGet_kept _ (.refl s)
  | .rmoAdd32 .. => execRmoAdd32_kept _ (.refl s)
  | .rmoAddf32 .. => execRmoAddf32_kept _ (.refl s)
  | .rmoSwap64 .. => execRmoSwap64_kept _ (.refl s)
  | .rmoCas64 .. => execRmoCas64_kept _ (.refl s)
  | .rmoSignal .. => execRmoSignal_kept _ (.refl s)
  | .rmoWait .. => execRmoWait_kept _ (.refl s)
  | .rmoFence .. => execRmoFence_kept _ (.refl s)
  | .rmoComplete .. => execRmoComplete_kept _ (.refl s)
  | .waitRetest .. => execWaitRetest_kept _ (.refl s)
  | .waitPoll .. => execWaitPoll_kept _ (.refl s)
  | .waitTimeout .. => execWaitTimeout_kept _ (.refl s)
  | .ingotEccWriteback .. => execIngotEccWriteback_kept _ (.refl s)
  | .crucibleEccWriteback .. => execCrucibleEccWriteback_kept _ (.refl s)
  | .arrayStep .. => execArrayStep_kept _ _ _ (.refl s)
  | .weightBufferSwitch .. => execWeightBufferSwitch_kept _ _ (.refl s)
  | .accumulatorDrain .. => execAccumulatorDrain_kept _ _ (.refl s)
  | .arrayReadmit .. => execArrayReadmit_kept _ _ _ (.refl s)
  | .lanternReadmit .. => execLanternReadmit_kept _ _ (.refl s)
  | .lnQselClr .. => execLnQselClr_kept _ _ (.refl s)
  | .descriptorFetch .. => execDescriptorFetch_kept _ _ (.refl s)
  | .descriptorIssue .. => execDescriptorIssue_kept _ _ (.refl s)
  | .descriptorComplete .. => execDescriptorComplete_kept _ _ _ (.refl s)
  | .nopDescriptor .. => execNopDescriptor_kept _ _ (.refl s)
  | .ctrlEnd .. => execCtrlEnd_kept _ _ (.refl s)
  | .ctrlJump .. => execCtrlJump_kept _ _ (.refl s)
  | .ctrlJumpErr .. => execCtrlJumpErr_kept _ _ (.refl s)
  | .ctrlLoop .. => execCtrlLoop_kept _ _ (.refl s)
  | .loadVuTable .. => execLoadVuTable_kept _ _ (.refl s)
  | .loadTaperWeights .. => execLoadTaperWeights_kept _ _ (.refl s)
  | .loadOutCodebook .. => execLoadOutCodebook_kept _ _ (.refl s)
  | .digFold .. => execDigFold_kept _ _ (.refl s)
  | .clipStore .. => execClipStore_kept _ _ (.refl s)
  | .clipClr .. => execClipClr_kept _ _ (.refl s)
  | .out .. => execOut_kept _ _ (.refl s)
  | .sync .. => execSync_kept _ _ (.refl s)
  | .mma .. => execMma_kept _ _ (.refl s)
  | .spill .. => execSpill_kept _ _ (.refl s)
  | .taper .. => execTaper_kept _ _ (.refl s)
  | .vuDepthwise .. => execVuDepthwise_kept _ _ (.refl s)
  | .vuMaxPool .. => execVuMaxPool_kept _ _ (.refl s)
  | .vuAvgPoolPadCounted .. => execVuAvgPoolPadCounted_kept _ _ (.refl s)
  | .vuAvgPoolPadNotCounted .. => execVuAvgPoolPadNotCounted_kept _ _ (.refl s)
  | .vuSoftmax .. => execVuSoftmax_kept _ _ (.refl s)
  | .vuLayerNorm .. => execVuLayerNorm_kept _ _ (.refl s)
  | .vuGroupNorm .. => execVuGroupNorm_kept _ _ (.refl s)
  | .vuResizeNearest .. => execVuResizeNearest_kept _ _ (.refl s)
  | .vuResizeBilinear .. => execVuResizeBilinear_kept _ _ (.refl s)
  | .vuStagesOnly .. => execVuStagesOnly_kept _ _ (.refl s)
  | .ticketTake .. => execTicketTake_kept _ _ (.refl s)
  | .orderedReduction .. => execOrderedReduction_kept _ _ (.refl s)
  | .indexRebuildPass .. => execIndexRebuildPass_kept _ (.refl s)
  | .bmrWrite .. => execBmrWrite_kept _ _ (.refl s)
  | .bmrDatagramSend .. => execBmrDatagramSend_kept _ _ (.refl s)
  | .ethFrameReceive .. => execEthFrameReceive_kept _ _ _ _ _ (.refl s)
  | .gapHoldExpiry .. => execGapHoldExpiry_kept _ (.refl s)
  | .auIdleClose .. => execAuIdleClose_kept _ (.refl s)
  | .ingSselSnap .. => execIngSselSnap_kept _ (.refl s)
  | .ethLinkChange .. => execEthLinkChange_kept _ _ _ (.refl s)
  | .pictureStart .. => execPictureStart_kept _ _ (.refl s)
  | .pictureComplete .. => execPictureComplete_kept _ _ (.refl s)
  | .frameRelease .. => execFrameRelease_kept _ _ (.refl s)
  | .frameBufferGrant .. => execFrameBufferGrant_kept _ (.refl s)
  | .recordedSuspend .. => execRecordedSuspend_kept _ (.refl s)
  | .recMinWindow .. => execRecMinWindow_kept _ _ _ (.refl s)
  | .contextRehome .. => execContextRehome_kept _ _ (.refl s)
  | .smCselSnap .. => execSmCselSnap_kept _ _ (.refl s)
  | .snapshotObjectEncode .. => execSnapshotObjectEncode_kept _ (.refl s)
  | .rqSelWrite .. => execRqSelWrite_kept _ (.refl s)
  | .rqCtxStage .. => execRqCtxStage_kept _ _ (.refl s)
  | .rqCtx7Commit .. => execRqCtx7Commit_kept _ (.refl s)
  | .sqTailDoorbell .. => execSqTailDoorbell_kept _ _ (.refl s)
  | .cqHeadDoorbell .. => execCqHeadDoorbell_kept _ _ (.refl s)
  | .irqArm .. => execIrqArm_kept _ _ (.refl s)
  | .commandFetch .. => execCommandFetch_kept _ (.refl s)
  | .commandIssue .. => execCommandIssue_kept _ (.refl s)
  | .commandComplete .. => execCommandComplete_kept _ (.refl s)
  | .moderationTimeout .. => execModerationTimeout_kept _ (.refl s)
  | .nop .. => execNop_kept _ (.refl s)
  | .fence .. => execFence_kept _ (.refl s)
  | .timestamp .. => execTimestamp_kept _ (.refl s)
  | .streamBind .. => execStreamBind_kept _ (.refl s)
  | .streamFeed .. => execStreamFeed_kept _ (.refl s)
  | .streamUnbind .. => execStreamUnbind_kept _ (.refl s)
  | .shape .. => execShape_kept _ (.refl s)
  | .run .. => execRun_kept _ (.refl s)
  | .runChain .. => execRunChain_kept _ (.refl s)
  | .rangeScan .. => execRangeScan_kept _ (.refl s)
  | .modelLoad .. => execModelLoad_kept _ (.refl s)
  | .modelEvict .. => execModelEvict_kept _ (.refl s)
  | .snuff .. => execSnuff_kept _ (.refl s)
  | .track .. => execTrack_kept _ (.refl s)
  | .trackReset .. => execTrackReset_kept _ (.refl s)
  | .snapshot .. => execSnapshot_kept _ (.refl s)
  | .copy .. => execCopy_kept _ (.refl s)
  | .fill .. => execFill_kept _ (.refl s)
  | .poolAlloc .. => execPoolAlloc_kept _ (.refl s)
  | .poolFree .. => execPoolFree_kept _ (.refl s)
  | .poolShare .. => execPoolShare_kept _ (.refl s)
  | .frameChainIssue .. => execFrameChainIssue_kept _ _ (.refl s)
  | .partWriteShadow .. => execPartWriteShadow_kept _ (.refl s)
  | .partSwap .. => execPartSwap_kept _ (.refl s)
  | .swapDrainTimeout => execSwapDrainTimeout_kept (.refl s)
  | .swapDrainEnd .. => execSwapDrainEnd_kept _ (.refl s)
  | .shareSet .. => execShareSet_kept _ (.refl s)
  | .shadeSet .. => execShadeSet_kept _ (.refl s)
  | .runAbort .. => execRunAbort_kept _ (.refl s)
  | .gangReform .. => execGangReform_kept _ _ _ (.refl s)
  | .arbitrationDecision .. => execArbitrationDecision_kept _ _ (.refl s)
  | .shadeGrant .. => execShadeGrant_kept _ _ (.refl s)
  | .ptDataWrite .. => execPtDataWrite_kept _ (.refl s)
  | .ptDataRead => execPtDataRead_kept (.refl s)
  | .acctSelSnap .. => execAcctSelSnap_kept _ (.refl s)
  | .poolEnable .. => execPoolEnable_kept _ (.refl s)
  | .poolDisable .. => execPoolDisable_kept _ (.refl s)
  | .poolStateInitDone .. => execPoolStateInitDone_kept _ (.refl s)
  | .channelCommandSlot .. => execChannelCommandSlot_kept _ _ _ _ (.refl s)
  | .refresh .. => execRefresh_kept _ _ (.refl s)
  | .mr4Poll .. => execMr4Poll_kept _ _ _ _ _ (.refl s)
  | .pageIdleClose .. => execPageIdleClose_kept _ _ _ (.refl s)
  | .marginScanStep .. => execMarginScanStep_kept _ _ _ _ _ (.refl s)
  | .delayPlanSave => execDelayPlanSave_kept (.refl s)
  | .patrolRead .. => execPatrolRead_kept _ _ _ (.refl s)
  | .controllerFailure .. => execControllerFailure_kept _ _ (.refl s)
  | .pcieLinkUp .. => execPcieLinkUp_kept _ _ _ (.refl s)
  | .pcieLinkLost => execPcieLinkLost_kept (.refl s)
  | .perst => execPerst_kept (.refl s)
  | .hotReset => execHotReset_kept (.refl s)
  | .flr .. => execFlr_kept _ (.refl s)
  | .flrComplete .. => execFlrComplete_kept _ (.refl s)
  | .bar4Read .. => execBar4Read_kept _ _ (.refl s)
  | .bar4Write .. => execBar4Write_kept _ _ (.refl s)
  | .completionTimeout .. => execCompletionTimeout_kept _ (.refl s)
  | .powerStateChange .. => execPowerStateChange_kept _ (.refl s)
  | .vfEnable .. => execVfEnable_kept _ _ _ (.refl s)
  | .msixPendingSend .. => execMsixPendingSend_kept _ _ (.refl s)
  | .tbTick => execTbTick_kept (.refl s)
  | .tbSet => execTbSet_kept (.refl s)
  | .tbStep => execTbStep_kept (.refl s)
  | .tbTimeLatch => execTbTimeLatch_kept (.refl s)
  | .tbIncrCommit .. => execTbIncrCommit_kept _ (.refl s)
  | .tbSlewWrite .. => execTbSlewWrite_kept _ (.refl s)
  | .offsetSample .. => execOffsetSample_kept _ _ (.refl s)
  | .ppsEdge .. => execPpsEdge_kept _ (.refl s)
  | .refMeasurement .. => execRefMeasurement_kept _ _ (.refl s)
  | .refFailTimeout .. => execRefFailTimeout_kept _ (.refl s)
  | .refCfgWrite .. => execRefCfgWrite_kept _ _ (.refl s)
  | .trigArm .. => execTrigArm_kept _ _ (.refl s)
  | .triggerFire .. => execTriggerFire_kept _ (.refl s)
  | .captureEdge .. => execCaptureEdge_kept _ _ (.refl s)
  | .capPop .. => execCapPop_kept _ (.refl s)
  | .controlCycleInterrupt => execControlCycleInterrupt_kept (.refl s)
  | .mbPost .. => execMbPost_kept _ (.refl s)
  | .mbRequestCopy .. => execMbRequestCopy_kept _ (.refl s)
  | .mbResponseWrite .. => execMbResponseWrite_kept _ (.refl s)
  | .mbRelease .. => execMbRelease_kept _ (.refl s)
  | .getInfo .. => execGetInfo_kept _ (.refl s)
  | .getTable .. => execGetTable_kept _ (.refl s)
  | .poolInfo .. => execPoolInfo_kept _ (.refl s)
  | .ringCtx .. => execRingCtx_kept _ (.refl s)
  | .streamStats .. => execStreamStats_kept _ (.refl s)
  | .acct .. => execAcct_kept _ (.refl s)
  | .netCfg .. => execNetCfg_kept _ (.refl s)
  | .mcast .. => execMcast_kept _ (.refl s)
  | .excRead .. => execExcRead_kept _ (.refl s)
  | .ptpCfg .. => execPtpCfg_kept _ (.refl s)
  | .updateBegin .. => execUpdateBegin_kept _ (.refl s)
  | .updateData .. => execUpdateData_kept _ (.refl s)
  | .updateCommit .. => execUpdateCommit_kept _ (.refl s)
  | .updateActivate .. => execUpdateActivate_kept _ (.refl s)
  | .handoverResume .. => execHandoverResume_kept _ (.refl s)
  | .logRead .. => execLogRead_kept _ (.refl s)
  | .powerSet .. => execPowerSet_kept _ (.refl s)
  | .thermalSet .. => execThermalSet_kept _ (.refl s)
  | .sensors .. => execSensors_kept _ (.refl s)
  | .slotConfirmed => execSlotConfirmed_kept (.refl s)
  | .avsCycle .. => execAvsCycle_kept _ (.refl s)
  | .powerWindow .. => execPowerWindow_kept _ (.refl s)
  | .thermalLoop .. => execThermalLoop_kept _ (.refl s)
  | .fanLoop .. => execFanLoop_kept _ _ _ _ (.refl s)
  | .troubleLogFlush => execTroubleLogFlush_kept (.refl s)
  | .powerOnReset => execPowerOnReset_kept (.refl s)
  | .ozmelReady => execOzmelReady_kept (.refl s)
  | .warmReset .. => execWarmReset_kept _ (.refl s)
  | .rstGlobal .. => execRstGlobal_kept _ (.refl s)
  | .rstPart .. => execRstPart_kept _ (.refl s)
  | .rstBlock .. => execRstBlock_kept _ (.refl s)
  | .thermalTrip .. => execThermalTrip_kept _ (.refl s)
  | .thermalTripRelease .. => execThermalTripRelease_kept _ (.refl s)
  | .watchdogExpiry => execWatchdogExpiry_kept (.refl s)
  | .startTimeout => execStartTimeout_kept (.refl s)
  | .domainPowerUp .. => execDomainPowerUp_kept _ (.refl s)
  | .domainPowerDown .. => execDomainPowerDown_kept _ _ (.refl s)
  | .arrayIdleGate .. => execArrayIdleGate_kept _ _ (.refl s)
  | .lanternPark .. => execLanternPark_kept _ (.refl s)
  | .lanternUnpark .. => execLanternUnpark_kept _ (.refl s)
  | .sootRecordWrite => execSootRecordWrite_kept (.refl s)
  | .sootRdataLatch => execSootRdataLatch_kept (.refl s)
  | .cagePresenceChange .. => execCagePresenceChange_kept _ _ (.refl s)
  | .cageButtonPress .. => execCageButtonPress_kept _ (.refl s)
  | .cagePwrEnWrite .. => execCagePwrEnWrite_kept _ _ (.refl s)
  | .cagePowerFault .. => execCagePowerFault_kept _ (.refl s)
  | .pwrGoodTimeout .. => execPwrGoodTimeout_kept _ (.refl s)
  | .moduleResetRelease .. => execModuleResetRelease_kept _ (.refl s)
  | .moduleIntChange .. => execModuleIntChange_kept _ _ (.refl s)
  | .i2c0XferGo .. => execI2c0XferGo_kept _ (.refl s)
  | .i2c0XferEnd .. => execI2c0XferEnd_kept _ (.refl s)
  | .smbusReadByte .. => execSmbusReadByte_kept _ (.refl s)
  | .gpioInputChange .. => execGpioInputChange_kept _ _ (.refl s)
  | .uartDataWrite .. => execUartDataWrite_kept _ (.refl s)
  | .uartDataRead => execUartDataRead_kept (.refl s)
  | .uartCharacterReceive .. => execUartCharacterReceive_kept _ (.refl s)
  | .uartCharacterSent => execUartCharacterSent_kept (.refl s)
  | .spiXferGo .. => execSpiXferGo_kept _ (.refl s)
  | .spiXferEnd .. => execSpiXferEnd_kept _ (.refl s)
  | .jtagInstruction .. => execJtagInstruction_kept _ (.refl s)
  | .cagePwrGood .. => execCagePwrGood_kept _ (.refl s)
  | .perstNRelease => execPerstNRelease_kept (.refl s)
  | .configSpaceWrite .. => execConfigSpaceWrite_kept _ _ (.refl s)
  | .hostReadCompletion .. => execHostReadCompletion_kept _ _ (.refl s)
  | .smelterReadmit .. => execSmelterReadmit_kept _ _ (.refl s)
  | .crucibleBankReadmit .. => execCrucibleBankReadmit_kept _ _ (.refl s)
  | .scrubComplete .. => execScrubComplete_kept _ (.refl s)
  | .exceptionFrameHandle => execExceptionFrameHandle_kept (.refl s)

theorem Kept.canonical {s t : State} (h : Kept s t) (hs : s.Canonical) : t.Canonical := ⟨h.mem hs.mem, h.regs hs.regs, h.tabs hs.tabs, h.sizes hs.sizes⟩

/-! ### The step -/

theorem step_cons {s : State} {c : Instr} {rest : List Instr} (h : s.pending = c :: rest) : step s = exec c { s with pending := rest } := by
  rw [step, h]

theorem step_nil {s : State} (h : s.pending = []) : step s = .next s := by rw [step, h]

/-- The canonical form does not speak of the queue. -/
theorem State.Canonical.withPending {s : State} (h : s.Canonical) (l : List Instr) : State.Canonical { s with pending := l } :=
  ⟨h.mem, h.regs, h.tabs, h.sizes⟩

/-- Settles O1: the two branches of the step. -/
theorem stepRunsFrontCommand : Obligations.StepRunsFrontCommand := ⟨fun _ _ _ h => step_cons h, fun _ h => step_nil h⟩

/-- Settles O2: every table of the reset state is empty, and its lists of units have their lengths. -/
theorem resetIsCanonical : Obligations.ResetIsCanonical := by
  have h : State.reset.Canonical := ⟨by decide, by decide, by decide, by decide⟩
  exact ⟨h, h.regs, h.mem⟩

/-- Settles O3: an idle step changes nothing, and a command keeps the form of the state with the rest of the queue. -/
theorem stepKeepsCanonical : Obligations.StepKeepsCanonical := by
  intro s t hs hstep
  cases hp : s.pending with
  | nil =>
    rw [step_nil hp] at hstep
    cases hstep
    exact hs
  | cons c rest =>
    rw [step_cons hp] at hstep
    exact (exec_kept _ c t hstep).canonical (hs.withPending rest)

/-! ### Completion -/

/-- What a command can do on a state: go on; be a debug instruction that DBG_EN lets through to the debug unit (R414); or carry operands that
the wires cannot carry (log entry 1). -/
def Completes (c : Instr) (s : State) : Prop :=
  (∃ t, exec c s = .next t) ∨ (exec c s = .refused .debugUnit ∧ c = .jtagInstruction .debug ∧ s.flag Reg.dbgCtrl 0 = true) ∨
    (exec c s = .fault .illFormed ∧ WellFormed c = false)

theorem completes_fabRateWindow (s : State) (u : RateUnit) (cycles steps : Nat) : Completes (.fabRateWindow u cycles steps) s := by
  by_cases h : 0xFFFF < cycles ∨ cycles < steps
  · refine .inr (.inr ⟨if_pos h, ?_⟩)
    simp only [WellFormed, Bool.and_eq_false_iff, decide_eq_false_iff_not]
    omega
  · exact .inl ⟨_, if_neg h⟩

theorem completes_pcieLinkUp (s : State) (speed : Fin 7) (width : Nat) (flit : Bool) : Completes (.pcieLinkUp speed width flit) s := by
  by_cases h : speed.val = 0 ∨ linkWidths.contains width = false
  · refine .inr (.inr ⟨if_pos h, ?_⟩)
    simp only [WellFormed, Bool.and_eq_false_iff, decide_eq_false_iff_not, not_not]
    exact h
  · exact .inl ⟨_, if_neg h⟩

theorem completes_jtagInstruction (s : State) (j : JtagInstr) : Completes (.jtagInstruction j) s := by
  cases j with
  | debug =>
    by_cases h : s.flag Reg.dbgCtrl 0 = true
    · exact .inr (.inl ⟨if_pos h, rfl, h⟩)
    · exact .inl ⟨_, if_neg h⟩
  | bypass => exact .inl ⟨_, rfl⟩
  | idcode => exact .inl ⟨_, rfl⟩
  | samplePreload => exact .inl ⟨_, rfl⟩
  | extest => exact .inl ⟨_, rfl⟩

/-- No data, mode or missing resource stops a command. -/
theorem exec_completes (c : Instr) (s : State) : Completes c s := by
  cases c
  case fabRateWindow u cycles steps => exact completes_fabRateWindow s u cycles steps
  case pcieLinkUp speed width flit => exact completes_pcieLinkUp s speed width flit
  case jtagInstruction j => exact completes_jtagInstruction s j
  case commandIssue src =>
    refine .inl ?_
    simp only [exec, execCommandIssue]
    split <;> exact ⟨_, rfl⟩
  case swapDrainTimeout =>
    refine .inl ?_
    simp only [exec, execSwapDrainTimeout]
    split <;> exact ⟨_, rfl⟩
  case shadeGrant p path =>
    refine .inl ?_
    simp only [exec, execShadeGrant]
    repeat' split
    all_goals exact ⟨_, rfl⟩
  case channelCommandSlot n ch arrivals ev =>
    refine .inl ?_
    simp only [exec, execChannelCommandSlot]
    split <;> exact ⟨_, rfl⟩
  case refresh n ch =>
    refine .inl ?_
    simp only [exec, execRefresh]
    split <;> exact ⟨_, rfl⟩
  case mr4Poll n c0 c1 c2 c3 =>
    refine .inl ?_
    simp only [exec, execMr4Poll]
    split <;> exact ⟨_, rfl⟩
  case tbTick =>
    refine .inl ?_
    simp only [exec, execTbTick]
    split <;> exact ⟨_, rfl⟩
  case ppsEdge r =>
    refine .inl ?_
    simp only [exec, execPpsEdge]
    split <;> exact ⟨_, rfl⟩
  case triggerFire k =>
    refine .inl ?_
    simp only [exec, execTriggerFire]
    split <;> exact ⟨_, rfl⟩
  case captureEdge k falling =>
    refine .inl ?_
    simp only [exec, execCaptureEdge]
    repeat' split
    all_goals exact ⟨_, rfl⟩
  case controlCycleInterrupt =>
    refine .inl ?_
    simp only [exec, execControlCycleInterrupt]
    split <;> exact ⟨_, rfl⟩
  case sootRecordWrite =>
    refine .inl ?_
    simp only [exec, execSootRecordWrite]
    split <;> exact ⟨_, rfl⟩
  case scrubComplete u =>
    refine .inl ?_
    simp only [exec, execScrubComplete]
    split <;> exact ⟨_, rfl⟩
  all_goals exact .inl ⟨_, rfl⟩

/-- Settles O4. -/
theorem everyCommandCompletes : Obligations.EveryCommandCompletes := by
  refine ⟨fun s c hw hdebug => ?_, fun s c hstop => ?_⟩
  · rcases exec_completes c s with ⟨t, ht⟩ | ⟨-, hc, hen⟩ | ⟨-, hill⟩
    · have k := exec_kept s c t ht
      exact ⟨t, ht, k.pending, k.fuses, k.free⟩
    · exact absurd ⟨hc, hen⟩ hdebug
    · rw [hw] at hill
      cases hill
  · rcases exec_completes c s with ⟨t, ht⟩ | ⟨hr, -, -⟩ | ⟨hf, hill⟩
    · exact absurd ht (hstop t)
    · exact .inl hr
    · exact .inr ⟨hf, hill⟩

end Sys2Proof.Machine

/-!
PROOF. The register file as a list: what a register holds after writes, put so that a chain of updates of the state reduces to writes of the
list.
-/

namespace Sys2Proof.Machine

/-- The word of a register in a register file. -/
def regAt (l : List (Nat × Word)) (off : Nat) : Word := sparseGet (resetWord off) l off

/-- A register file with a register's word replaced. -/
def regPut (l : List (Nat × Word)) (off : Nat) (w : Word) : List (Nat × Word) := sparseSet (resetWord off) l off w

theorem State.reg_eq_regAt (s : State) (off : Nat) : s.reg off = regAt s.regs off := rfl

theorem State.flag_eq_regAt (s : State) (off i : Nat) : s.flag off i = bitOf (regAt s.regs off) i := rfl

theorem State.fld_eq_regAt (s : State) (off hi lo : Nat) : s.fld off hi lo = bitsOf (regAt s.regs off) hi lo := rfl

theorem State.regs_setReg (s : State) (off : Nat) (w : Word) : (s.setReg off w).regs = regPut s.regs off w := rfl

theorem State.regs_setFld (s : State) (off hi lo v : Nat) : (s.setFld off hi lo v).regs = regPut s.regs off (setBits (regAt s.regs off) hi lo v) :=
  rfl

theorem State.regs_setFlag (s : State) (off i : Nat) (b : Bool) :
    (s.setFlag off i b).regs = regPut s.regs off (setBits (regAt s.regs off) i i (boolNat b)) := rfl

theorem State.regs_bump (s : State) (off hi lo n : Nat) : (s.bump off hi lo n).regs =
    regPut s.regs off (setBits (regAt s.regs off) hi lo (min (2 ^ (hi + 1 - lo) - 1) (bitsOf (regAt s.regs off) hi lo + n))) := rfl

theorem rising_regPut {l : List (Nat × Word)} (h : Rising l) (off : Nat) (w : Word) : Rising (regPut l off w) := sparseSet_rising _ _ _ _ h

theorem regAt_regPut_same {l : List (Nat × Word)} (h : Rising l) (off : Nat) (w : Word) : regAt (regPut l off w) off = w :=
  sparseGet_set_same _ _ _ _ h

theorem regAt_regPut_other {o off : Nat} (h : o ≠ off) (l : List (Nat × Word)) (w : Word) : regAt (regPut l off w) o = regAt l o :=
  sparseGet_set_key _ _ _ _ _ _ h

theorem regAt_sootEvent {o : Nat} (h : o ≠ Reg.sootDrop) (s : State) (code : Nat) (arg : Dword) (part : Option Nat) :
    regAt (s.sootEvent code arg part).regs o = regAt s.regs o := s.reg_sootEvent code arg part o h

theorem bitOf_setBits_within (w : Word) {hi lo i : Nat} (v : Nat) (h : lo ≤ i ∧ i ≤ hi) (h32 : hi < 32) :
    bitOf (setBits w hi lo v) i = v.testBit (i - lo) := by
  rw [bitOf_setBits _ _ _ _ _ h32, if_pos h]

/-- The field that a saturating counter reads after it has been raised. -/
theorem bitsOf_setBits_bump (w : Word) {hi lo : Nat} (n : Nat) (h32 : hi < 32) :
    bitsOf (setBits w hi lo (min (2 ^ (hi + 1 - lo) - 1) (bitsOf w hi lo + n))) hi lo = min (2 ^ (hi + 1 - lo) - 1) (bitsOf w hi lo + n) := by
  rw [bitsOf_setBits_same _ _ _ _ h32, Nat.mod_eq_of_lt]
  have := Nat.two_pow_pos (hi + 1 - lo)
  omega

end Sys2Proof.Machine

/-!
PROOF. The references of the timebase (R336, R337): what a switch, a loss and an election change, and the statements on measurements and
failures.
-/

namespace Sys2Proof.Machine

/-! ### Offsets of the reference registers -/

theorem Reg.refStat_ne_tbStatus (r : Nat) : Reg.refStat r ≠ Reg.tbStatus := by
  simp only [Reg.refStat, Reg.tbStatus]
  omega

theorem Reg.refStat_ne_sootDrop (r : Nat) (h : r < 2) : Reg.refStat r ≠ Reg.sootDrop := by
  simp only [Reg.refStat, Reg.sootDrop]
  omega

theorem Reg.refStat_ne_other (r : Fin 2) : Reg.refStat (1 - r.val) ≠ Reg.refStat r.val := by
  simp only [Reg.refStat]
  omega

theorem Reg.refCfg_ne_refStat (q r : Nat) : Reg.refCfg q ≠ Reg.refStat r := by
  simp only [Reg.refStat, Reg.refCfg]
  omega

theorem Reg.tbCtrl_ne_refStat (r : Nat) : Reg.tbCtrl ≠ Reg.refStat r := by
  simp only [Reg.refStat, Reg.tbCtrl]
  omega

/-! ### Elections (R337) -/

/-- t follows s by a choice of the selected reference: of the timebase the servo's state, correction and count may change, and of the
registers TB_STATUS and the recorder's drop counters. -/
def Elects (s t : State) : Prop := ∃ R S F V I f G,
  t = { s with regs := R, soot := S, freeCtr := F, tb := { s.tb with servo := V, fInt := I, f := f, good := G } } ∧
    (Rising s.regs → Rising R) ∧ ∀ o, o ≠ Reg.tbStatus → o ≠ Reg.sootDrop → regAt R o = regAt s.regs o

namespace Elects

theorem refl (s : State) : Elects s s := ⟨_, _, _, _, _, _, _, rfl, id, fun _ _ _ => rfl⟩

theorem trans {s t u : State} (h : Elects s t) (g : Elects t u) : Elects s u := by
  obtain ⟨R, S, F, V, I, f, G, rfl, hr, ho⟩ := h
  obtain ⟨R', S', F', V', I', f', G', rfl, hr', ho'⟩ := g
  exact ⟨R', S', F', V', I', f', G', rfl, fun h => hr' (hr h), fun o h1 h2 => (ho' o h1 h2).trans (ho o h1 h2)⟩

theorem setFld (s : State) (hi lo v : Nat) : Elects s (s.setFld Reg.tbStatus hi lo v) :=
  ⟨_, _, _, _, _, _, _, rfl, fun h => rising_regPut h _ _, fun _ h1 _ => regAt_regPut_other h1 _ _⟩

theorem bump (s : State) (hi lo n : Nat) : Elects s (s.bump Reg.tbStatus hi lo n) := setFld s hi lo _

theorem servo (s : State) (V : ServoState) (I f : Int) (G : Nat) :
    Elects s { s with tb := { s.tb with servo := V, fInt := I, f := f, good := G } } := ⟨_, _, _, _, _, _, _, rfl, id, fun _ _ _ => rfl⟩

theorem sootEvent (s : State) (code : Nat) (arg : Dword) (part : Option Nat) : Elects s (s.sootEvent code arg part) :=
  ⟨_, _, _, _, _, _, _, s.sootEvent_eq code arg part, s.sootEvent_rising code arg part, fun _ _ h2 => regAt_sootEvent h2 _ _ _ _⟩

theorem refs {s t : State} (h : Elects s t) : t.tb.refs = s.tb.refs := by
  obtain ⟨R, S, F, V, I, f, G, rfl, hr, ho⟩ := h
  rfl

theorem rising {s t : State} (h : Elects s t) (hs : Rising s.regs) : Rising t.regs := by
  obtain ⟨R, S, F, V, I, f, G, rfl, hr, ho⟩ := h
  exact hr hs

theorem reg {s t : State} (h : Elects s t) {o : Nat} (h1 : o ≠ Reg.tbStatus) (h2 : o ≠ Reg.sootDrop) : t.reg o = s.reg o := by
  obtain ⟨R, S, F, V, I, f, G, rfl, hr, ho⟩ := h
  exact ho o h1 h2

/-- A reference's record and status register stay. -/
theorem refStat {s t : State} (h : Elects s t) {r : Nat} (hr : r < 2) : t.reg (Reg.refStat r) = s.reg (Reg.refStat r) :=
  h.reg (Reg.refStat_ne_tbStatus r) (Reg.refStat_ne_sootDrop r hr)

theorem tref {s t : State} (h : Elects s t) (r : Nat) : t.tref r = s.tref r := by rw [State.tref, State.tref, h.refs]

end Elects

theorem State.refCount_elects (s : State) (r : Nat) : Elects s (s.refCount r) := (Elects.bump s 23 16 1).trans (.sootEvent _ _ _ _)

theorem State.refSwitch_elects (s : State) (r : Nat) (w : Option Int) : Elects s (s.refSwitch r w) :=
  ((Elects.setFld s 28 28 r).trans (.servo _ _ _ _ _)).trans (State.refCount_elects _ _)

theorem State.refLose_elects (s : State) (r : Nat) (w : Option Int) : Elects s (s.refLose r w) := by
  simp only [State.refLose]
  split
  · exact s.refSwitch_elects _ _
  · cases w with
    | some x => exact (Elects.servo s _ _ _ _).trans (State.refCount_elects _ _)
    | none => exact Elects.servo s _ _ _ _

theorem State.refPick_elects (s : State) : Elects s s.refPick := by
  simp only [State.refPick]
  split
  · exact .refl s
  · split
    · exact s.refSwitch_elects _ _
    · exact (Elects.setFld s 28 28 _).trans (.servo _ _ _ _ _)
    · exact .refl s

/-! ### A switch and a loss (R337) -/

/-- The count of switches, which a switch and an entry into HOLDOVER raise. -/
theorem State.fld_refCount {s : State} (h : Rising s.regs) (r : Nat) :
    (s.refCount r).fld Reg.tbStatus 23 16 = min 255 (s.fld Reg.tbStatus 23 16 + 1) := by
  simp only [State.refCount, State.fld_eq_regAt, State.regs_bump, regAt_sootEvent (o := Reg.tbStatus) (by decide), regAt_regPut_same h]
  exact bitsOf_setBits_bump _ 1 (by decide)

theorem State.refSel_refCount {s : State} (h : Rising s.regs) (r : Nat) : (s.refCount r).refSel = s.refSel := by
  simp only [State.refSel, State.refCount, State.fld_eq_regAt, State.regs_bump, regAt_sootEvent (o := Reg.tbStatus) (by decide),
    regAt_regPut_same h]
  exact bitsOf_setBits_other _ _ _ _ _ _ (by decide) (by decide)

@[simp] theorem State.refCount_tb (s : State) (r : Nat) : (s.refCount r).tb = s.tb := by simp [State.refCount]

/-- A switch selects its reference, in PULLIN, and is counted. -/
theorem State.refSwitch_spec {s : State} (h : Rising s.regs) {r : Nat} (hr : r < 2) (w : Option Int) :
    (s.refSwitch r w).refSel = r ∧ (s.refSwitch r w).tb.servo = .pullin ∧
      (s.refSwitch r w).fld Reg.tbStatus 23 16 = min 255 (s.fld Reg.tbStatus 23 16 + 1) := by
  have hx : ∀ tb, Rising ({ s.setFld Reg.tbStatus 28 28 r with tb := tb } : State).regs := fun _ => s.setFld_rising _ _ _ _ h
  refine ⟨?_, by simp [State.refSwitch], ?_⟩
  · simp only [State.refSwitch]
    rw [State.refSel_refCount (hx _)]
    exact (s.fld_setFld_same Reg.tbStatus 28 28 r h (by decide)).trans (Nat.mod_eq_of_lt hr)
  · simp only [State.refSwitch]
    rw [State.fld_refCount (hx _)]
    simp [State.fld_eq_regAt, State.regs_setFld, regAt_regPut_same h, bitsOf_setBits_other]

/-- The other reference takes over where it is usable. -/
theorem State.refLose_usable {s : State} {r : Nat} (h : s.refUsable (1 - r) = true) (w : Option Int) : s.refLose r w = s.refSwitch (1 - r) w := by
  simp only [State.refLose, h, if_true]

/-- Without a usable other reference a recorded word is held. -/
theorem State.refLose_holds {s : State} {r : Nat} (hr : Rising s.regs) (h : s.refUsable (1 - r) = false) (w : Int) :
    (s.refLose r (some w)).tb.servo = .holdover ∧ (s.refLose r (some w)).tb.fInt = w ∧ (s.refLose r (some w)).tb.f = w ∧
      (s.refLose r (some w)).fld Reg.tbStatus 23 16 = min 255 (s.fld Reg.tbStatus 23 16 + 1) := by
  have e : s.refLose r (some w) = ({ s with tb := { s.tb with servo := .holdover, fInt := w, f := w, good := 0 } } : State).refCount r := by
    simp [State.refLose, h]
  rw [e]
  refine ⟨by simp, by simp, by simp, ?_⟩
  rw [State.fld_refCount (by exact hr)]
  rfl

/-! ### The record of a reference -/

theorem State.regs_updRef (s : State) (r : Nat) (f : TimeRef → TimeRef) : (s.updRef r f).regs = s.regs := rfl

theorem State.tref_updRef_same {s : State} {r : Nat} (h : r < s.tb.refs.length) (f : TimeRef → TimeRef) : (s.updRef r f).tref r = f (s.tref r) :=
  listAt_listUpd_same _ _ _ _ h

theorem State.tref_updRef_other (s : State) {q r : Nat} (h : q ≠ r) (f : TimeRef → TimeRef) : (s.updRef r f).tref q = s.tref q :=
  listAt_listUpd_other _ _ _ _ _ h

/-- Whether a reference is usable rests on its two registers and its record. -/
theorem State.refUsable_congr {s t : State} {r : Nat} (hcfg : t.reg (Reg.refCfg r) = s.reg (Reg.refCfg r))
    (hstat : t.reg (Reg.refStat r) = s.reg (Reg.refStat r)) (href : t.tref r = s.tref r) : t.refUsable r = s.refUsable r := by
  rw [State.refUsable, State.refUsable, State.refSrc, State.refSrc, State.fld, State.fld, State.flag, State.flag, hcfg, hstat, href]

theorem State.Canonical.ref_lt {s : State} (h : s.Canonical) (r : Fin 2) : r.val < s.tb.refs.length := by
  have := h.sizes.1
  omega

/-! ### An outright failure (R337) -/

/-- The state in which reference r has failed, before what its loss means for the servo. -/
def State.refFailed (s : State) (r : Nat) : State :=
  ((s.setFlag (Reg.refStat r) 30 true).setFld (Reg.refStat r) 21 16 0).updRef r fun t => { t with inRun := 0, sampled := false }

theorem State.refFail_eq (s : State) (r : Nat) :
    s.refFail r = if s.refSelected r then (s.refFailed r).refLose r (s.tref r).prevWord else s.refFailed r := rfl

theorem State.refFail_elects (s : State) (r : Nat) : Elects (s.refFailed r) (s.refFail r) := by
  rw [State.refFail_eq]
  split
  · exact State.refLose_elects _ _ _
  · exact .refl _

theorem State.refFailed_rising {s : State} (h : Rising s.regs) (r : Nat) : Rising (s.refFailed r).regs :=
  State.setFld_rising _ _ _ _ _ (s.setFlag_rising _ _ _ h)

theorem State.reg_refFailed_other (s : State) (r : Nat) {o : Nat} (h : o ≠ Reg.refStat r) : (s.refFailed r).reg o = s.reg o := by
  simp only [State.refFailed, State.reg_eq_regAt, State.regs_updRef, State.regs_setFld, State.regs_setFlag, regAt_regPut_other h]

theorem State.flag_refFailed {s : State} (h : Rising s.regs) (r : Nat) : (s.refFailed r).flag (Reg.refStat r) 30 = true := by
  simp [State.flag, State.refFailed, State.reg_eq_regAt, State.regs_updRef, State.regs_setFld, State.regs_setFlag, regAt_regPut_same, rising_regPut, h,
    bitOf_setBits_other, bitOf_setFlag_same]

theorem State.refUsable_refFailed (s : State) (r : Fin 2) : (s.refFailed r).refUsable (1 - r.val) = s.refUsable (1 - r.val) :=
  State.refUsable_congr (s.reg_refFailed_other r (Reg.refCfg_ne_refStat _ _)) (s.reg_refFailed_other r (Reg.refStat_ne_other r))
    (State.tref_updRef_other _ (by omega) _)

/-- What the failure of a reference means, and what it leaves alone. -/
theorem State.refFail_spec {s : State} (hc : s.Canonical) (r : Fin 2) :
    (s.refFail r).flag (Reg.refStat r) 30 = true ∧ ((s.refFail r).tref r).inRun = 0 ∧
    (s.refSelected r = true → s.refUsable (1 - r.val) = true → (s.refFail r).refSel = 1 - r.val ∧ (s.refFail r).tb.servo = .pullin ∧
      (s.refFail r).fld Reg.tbStatus 23 16 = min 255 (s.fld Reg.tbStatus 23 16 + 1)) ∧
    (∀ w, s.refSelected r = true → s.refUsable (1 - r.val) = false → (s.tref r).prevWord = some w → (s.refFail r).tb.servo = .holdover ∧
      (s.refFail r).tb.fInt = w ∧ (s.refFail r).tb.f = w ∧ (s.refFail r).fld Reg.tbStatus 23 16 = min 255 (s.fld Reg.tbStatus 23 16 + 1)) ∧
    s.refFail r = { s with
      regs := (s.refFail r).regs, tb := (s.refFail r).tb, soot := (s.refFail r).soot, freeCtr := (s.refFail r).freeCtr } ∧
    SameRegs s (s.refFail r) [Reg.refStat r, Reg.tbStatus, Reg.sootDrop] := by
  have hr := State.refFailed_rising hc.rising r
  have he := s.refFail_elects r
  have hcount : (s.refFailed r).fld Reg.tbStatus 23 16 = s.fld Reg.tbStatus 23 16 := by
    rw [State.fld, State.fld, s.reg_refFailed_other r (Reg.refStat_ne_tbStatus r).symm]
  refine ⟨?_, ?_, fun hsel huse => ?_, fun w hsel huse hw => ?_, ?_, fun o ho => ?_⟩
  · rw [State.flag, he.refStat r.isLt]
    exact State.flag_refFailed hc.rising r
  · rw [he.tref]
    exact congrArg TimeRef.inRun (State.tref_updRef_same (hc.ref_lt r) _)
  · rw [State.refFail_eq, if_pos hsel, State.refLose_usable ((s.refUsable_refFailed r).trans huse), ← hcount]
    exact State.refSwitch_spec hr (by omega) _
  · rw [State.refFail_eq, if_pos hsel, hw, ← hcount]
    exact State.refLose_holds hr ((s.refUsable_refFailed r).trans huse) w
  · obtain ⟨R, S, F, V, I, f, G, e, -, -⟩ := he
    rw [e]
    rfl
  · simp only [List.mem_cons, List.not_mem_nil, or_false, not_or] at ho
    obtain ⟨hstat, htb, hdrop⟩ := ho
    rw [he.reg htb hdrop, s.reg_refFailed_other r hstat]

/-! ### The writes of REF_CFGr -/

theorem exec_refCfgWrite {s : State} {r : Fin 2} (v : Word) (h : s.PfReaches (Reg.refCfg r)) : exec (.refCfgWrite r v) s = .next (s.refCfgWrite r v) :=
  congrArg _ (State.pfReach_of_reaches h _)

theorem State.refSelected_congr {s t : State} (r : Nat) (hservo : t.tb.servo = s.tb.servo) (hreg : t.reg Reg.tbStatus = s.reg Reg.tbStatus) :
    t.refSelected r = s.refSelected r := by
  have hsel : t.refSel = s.refSel := by rw [State.refSel, State.refSel, State.fld, State.fld, hreg]
  rw [State.refSelected, State.refSelected, hservo, hsel]

theorem State.refSelected_setCfg (s : State) (q r : Nat) (w : Word) : (s.setReg (Reg.refCfg q) w).refSelected r = s.refSelected r :=
  State.refSelected_congr r rfl (s.reg_setReg_other _ _ _ (by simp only [Reg.refCfg, Reg.tbStatus]; omega))

/-- Without LOCK the write takes effect, and for the selected reference it counts as a failure. -/
theorem State.refCfgWrite_unlocked {s : State} (r : Nat) (v : Word) (hlock : s.flag Reg.tbCtrl 31 = false) :
    s.refCfgWrite r v = if s.refSelected r then (s.setReg (Reg.refCfg r) (v &&& 0xF07)).refFail r else s.setReg (Reg.refCfg r) (v &&& 0xF07) := by
  unfold State.refCfgWrite
  rw [hlock]
  rfl

/-- Under LOCK another value is a lock violation. -/
theorem State.refCfgWrite_locked {s : State} (r : Nat) {v : Word} (hlock : s.flag Reg.tbCtrl 31 = true) (hv : (v &&& 0xF07) ≠ s.reg (Reg.refCfg r)) :
    s.refCfgWrite r v = s.lockViolation 0x04 (Reg.refCfg r) := by
  unfold State.refCfgWrite
  rw [hlock, if_pos rfl, if_neg hv]

theorem exec_refFailTimeout {s : State} {r : Fin 2} (h : s.refSrc r ≠ 0) : exec (.refFailTimeout r) s = .next (s.refFail r) :=
  congrArg Host.Outcome.next (if_neg h)

/-- Settles O47: a failure by timeout acts on the state, one by a write on the state with the new REF_CFGr. -/
theorem referenceFailureSwitchesOrHolds : Obligations.ReferenceFailureSwitchesOrHolds := by
  intro s r hc
  refine ⟨fun c hcmd => ?_, fun v hreach => ⟨fun hlock hsel => ?_, fun hlock hv => ?_⟩⟩
  · rcases hcmd with ⟨rfl, hsrc⟩ | ⟨v, rfl, hreach, hlock, hsel⟩
    · obtain ⟨h1, h2, h3, h4, h5, h6⟩ := State.refFail_spec hc r
      exact ⟨_, exec_refFailTimeout hsrc, h1, h2, h3, h4, h5, fun o ho => h6 o fun hm => ho (List.mem_cons_of_mem _ hm)⟩
    · have hx : (s.setReg (Reg.refCfg r) (v &&& 0xF07)).Canonical := (State.setReg_kept _ _ (.refl s)).canonical hc
      have hreg : ∀ o, o ≠ Reg.refCfg r → (s.setReg (Reg.refCfg r) (v &&& 0xF07)).reg o = s.reg o := fun o ho => s.reg_setReg_other _ _ _ ho
      obtain ⟨h1, h2, h3, h4, h5, h6⟩ := State.refFail_spec hx r
      have huse := State.refUsable_congr (s := s) (r := 1 - r.val) (hreg _ (by simp only [Reg.refCfg]; omega))
        (hreg _ (Reg.refCfg_ne_refStat _ _).symm) rfl
      have hcount : (s.setReg (Reg.refCfg r) (v &&& 0xF07)).fld Reg.tbStatus 23 16 = s.fld Reg.tbStatus 23 16 := by
        rw [State.fld, hreg _ (by simp only [Reg.refCfg, Reg.tbStatus]; omega), State.fld]
      rw [s.refSelected_setCfg, huse, hcount] at h3
      rw [s.refSelected_setCfg, huse, hcount] at h4
      refine ⟨_, (exec_refCfgWrite v hreach).trans (congrArg _ ((s.refCfgWrite_unlocked r v hlock).trans (if_pos hsel))), h1, h2, h3, h4, h5,
        fun o ho => ?_⟩
      rw [List.mem_cons, not_or] at ho
      rw [h6 o ho.2, hreg o ho.1]
  · have e := (exec_refCfgWrite v hreach).trans (congrArg _ ((s.refCfgWrite_unlocked r v hlock).trans (if_neg (Bool.eq_false_iff.mp hsel))))
    exact ⟨_, e, s.reg_setReg_same _ _ hc.rising, rfl, fun o ho => s.reg_setReg_other _ _ _ (List.ne_of_not_mem_cons ho)⟩
  · refine ⟨_, (exec_refCfgWrite v hreach).trans (congrArg _ (s.refCfgWrite_locked r hlock hv)), ?_, s.flag_lockViolation _ _ hc.rising,
      s.lockViolation_eq _ _, fun o ho => ?_⟩
    · exact s.reg_lockViolation _ _ _ (by simp only [Reg.refCfg, Reg.errStatus]; omega) (by simp only [Reg.refCfg, Reg.sootDrop]; omega)
    · simp only [List.mem_cons, List.not_mem_nil, or_false, not_or] at ho
      exact s.reg_lockViolation _ _ _ ho.1 ho.2

end Sys2Proof.Machine

/-!
PROOF. A measurement of a reference (R336, R337): what it writes to REF_STATr, and when it declares drift.
-/

namespace Sys2Proof.Machine

/-! ### The parts of a measurement -/

/-- The word at the last good measurement before a run out of tolerance, as a measurement records it. -/
def State.refWord (s : State) (r : Nat) (out : Bool) : Option Int :=
  if out then (if s.fld (Reg.refStat r) 27 24 = 0 then (s.tref r).prevWord else (s.tref r).word) else none

/-- REF_STATr after a measurement, but for the count of intervals. -/
def refStatWord (w : Word) (out : Bool) (run : Nat) (d : Int) : Word :=
  let w1 := setBits (setBits (setBits w 31 31 1) 28 28 (boolNat !out)) 27 24 (if out then min 15 (run + 1) else 0)
  setBits (if out then w1 else setBits w1 29 29 0) 15 0 (wrapInt 16 (clampInt (-32768) 32767 d))

/-- The state with a reference's status and record judged, before the count of intervals. -/
def State.refNoted (s : State) (r : Nat) (d : Int) : State :=
  let out := s.refOut r d
  (s.updRef r fun t => { t with
    inRun := if out then 0 else (s.tref r).inRun + 1, lastDev := d, word := s.refWord r out, prevWord := some s.tb.f }).setReg (Reg.refStat r)
      (refStatWord (s.reg (Reg.refStat r)) out (s.fld (Reg.refStat r) 27 24) d)

/-- The state with a measurement judged, before its consequences for the selection. -/
def State.refJudged (s : State) (r : Nat) (d : Int) : State :=
  (s.refNoted r d).setFld (Reg.refStat r) 21 16
    (if (s.refNoted r d).refUsable r then (if s.refUsable r then min 63 (s.fld (Reg.refStat r) 21 16 + 1) else 0) else 0)

/-- Without a selected reference a measurement lets one be picked. -/
def State.refRepicked (s : State) : State := if s.tb.servo == .holdover || s.tb.servo == .freerun then s.refPick else s

/-- The selection rules that every measurement applies at its end: one may be picked, and REVERT_EN returns to the preferred one. -/
def State.refElected (s : State) : State :=
  let u := s.refRepicked
  if u.flag Reg.tbCtrl 7 && u.tb.servo != .freerun && decide (u.refSel ≠ u.refPref) && u.refUsable u.refPref &&
      decide (60 ≤ u.fld (Reg.refStat u.refPref) 21 16) then u.refSwitch u.refPref none
  else u

/-- A measurement declares DRIFT: the selected reference is out of tolerance for the eighth time in a row. -/
def State.refDrifts (s : State) (r : Nat) (d : Int) : Bool :=
  s.refSelected r && decide (8 ≤ s.fld (Reg.refStat r) 27 24 + 1) && s.refOut r d

theorem State.refJudged_selected (s : State) (r : Nat) (d : Int) : (s.refJudged r d).refSelected r = s.refSelected r :=
  State.refSelected_congr r rfl <| by
    simp only [State.refJudged, State.refNoted, State.reg_eq_regAt, State.regs_setFld, State.regs_setReg,
      regAt_regPut_other (Reg.refStat_ne_tbStatus r).symm, State.regs_updRef]

theorem State.refMeasure_eq {s : State} {r : Nat} (hsrc : s.refSrc r ≠ 0) (hfail : s.flag (Reg.refStat r) 30 = false) (d : Int) :
    s.refMeasure r d = (if s.refDrifts r d then ((s.refJudged r d).setFlag (Reg.refStat r) 29 true).refLose r (s.refWord r (s.refOut r d))
      else s.refJudged r d).refElected := by
  rw [State.refDrifts, ← s.refJudged_selected r d]
  unfold State.refMeasure
  rw [if_neg hsrc, hfail]
  rfl

theorem State.refElected_elects (s : State) : Elects s s.refElected := by
  have h : Elects s s.refRepicked := by
    rw [State.refRepicked]
    split
    · exact s.refPick_elects
    · exact .refl s
  simp only [State.refElected]
  split
  · exact h.trans (State.refSwitch_elects _ _ _)
  · exact h

/-- In PULLIN, and without REVERT_EN, a measurement makes no further choice. -/
theorem State.refElected_pullin {s : State} (hservo : s.tb.servo = .pullin) (hrev : s.flag Reg.tbCtrl 7 = false) : s.refElected = s := by
  simp [State.refElected, State.refRepicked, hservo, hrev]

/-! ### The status register -/

theorem refStatWord_fields (w : Word) (out : Bool) (run : Nat) (d : Int) :
    bitOf (refStatWord w out run d) 31 = true ∧ bitOf (refStatWord w out run d) 28 = !out ∧
      bitsOf (refStatWord w out run d) 27 24 = (if out then min 15 (run + 1) else 0) ∧
      bitsOf (refStatWord w out run d) 15 0 = wrapInt 16 (clampInt (-32768) 32767 d) ∧ (out = false → bitOf (refStatWord w out run d) 29 = false) := by
  have hdev : wrapInt 16 (clampInt (-32768) 32767 d) < 65536 := by
    simp only [wrapInt]
    omega
  have hrun : min 15 (run + 1) < 16 := by omega
  cases out <;>
    simp [refStatWord, bitOf_setBits, bitsOf_setBits_other, bitsOf_setBits_same, boolNat, Nat.mod_eq_of_lt hdev, Nat.mod_eq_of_lt hrun]

section Judged

variable {s : State} (hc : s.Canonical) (r : Fin 2) (d : Int)
include hc

theorem State.refJudged_rising : Rising (s.refJudged r d).regs := rising_regPut (rising_regPut hc.rising _ _) _ _

omit hc in
theorem State.refJudged_other {o : Nat} (h : o ≠ Reg.refStat r) : (s.refJudged r d).reg o = s.reg o := by
  simp only [State.refJudged, State.refNoted, State.reg_eq_regAt, State.regs_setFld, State.regs_setReg, regAt_regPut_other h, State.regs_updRef]

/-- REF_STATr is the word of the measurement with the count of intervals. -/
theorem State.refJudged_stat : ∃ n, (s.refJudged r d).reg (Reg.refStat r) =
    setBits (refStatWord (s.reg (Reg.refStat r)) (s.refOut r d) (s.fld (Reg.refStat r) 27 24) d) 21 16 n := by
  have e : (s.refNoted r d).reg (Reg.refStat r) = refStatWord (s.reg (Reg.refStat r)) (s.refOut r d) (s.fld (Reg.refStat r) 27 24) d :=
    State.reg_setReg_same _ _ _ hc.rising
  rw [← e]
  exact ⟨_, State.reg_setFld_same _ _ _ _ _ (rising_regPut hc.rising _ _)⟩

theorem State.refJudged_inRun : ((s.refJudged r d).tref r).inRun = if s.refOut r d then 0 else (s.tref r).inRun + 1 :=
  congrArg TimeRef.inRun (State.tref_updRef_same (hc.ref_lt r) _)

end Judged

/-! ### A measurement as a whole -/

/-- The state that a measurement leaves follows the judged one, with DRIFT set when it is declared, by elections. -/
theorem State.refMeasure_elects {s : State} {r : Nat} (hsrc : s.refSrc r ≠ 0) (hfail : s.flag (Reg.refStat r) 30 = false) (d : Int) :
    Elects (if s.refDrifts r d then (s.refJudged r d).setFlag (Reg.refStat r) 29 true else s.refJudged r d) (s.refMeasure r d) := by
  rw [State.refMeasure_eq hsrc hfail]
  split
  · exact (State.refLose_elects _ _ _).trans (State.refElected_elects _)
  · exact State.refElected_elects _

/-- REF_STATr after a measurement. -/
theorem State.refMeasure_stat {s : State} (hc : s.Canonical) {r : Fin 2} (hsrc : s.refSrc r ≠ 0) (hfail : s.flag (Reg.refStat r) 30 = false)
    (d : Int) : ∃ n, (s.refMeasure r d).reg (Reg.refStat r) =
      let w := setBits (refStatWord (s.reg (Reg.refStat r)) (s.refOut r d) (s.fld (Reg.refStat r) 27 24) d) 21 16 n
      if s.refDrifts r d then setBits w 29 29 1 else w := by
  obtain ⟨n, hn⟩ := State.refJudged_stat hc r d
  refine ⟨n, ?_⟩
  rw [(State.refMeasure_elects hsrc hfail d).refStat r.isLt, ← hn]
  split
  · exact State.reg_setFld_same _ _ _ _ _ (State.refJudged_rising hc r d)
  · rfl

/-- The fields of REF_STATr after a measurement. -/
theorem State.refMeasure_fields {s : State} (hc : s.Canonical) {r : Fin 2} (hsrc : s.refSrc r ≠ 0) (hfail : s.flag (Reg.refStat r) 30 = false)
    (d : Int) : (s.refMeasure r d).flag (Reg.refStat r) 31 = true ∧ (s.refMeasure r d).flag (Reg.refStat r) 28 = !s.refOut r d ∧
      (s.refMeasure r d).fld (Reg.refStat r) 27 24 = (if s.refOut r d then min 15 (s.fld (Reg.refStat r) 27 24 + 1) else 0) ∧
      (s.refMeasure r d).fld (Reg.refStat r) 15 0 = wrapInt 16 (clampInt (-32768) 32767 d) ∧
      (s.refOut r d = false → (s.refMeasure r d).flag (Reg.refStat r) 29 = false) ∧
      (s.refDrifts r d = true → (s.refMeasure r d).flag (Reg.refStat r) 29 = true) := by
  obtain ⟨n, hn⟩ := State.refMeasure_stat hc hsrc hfail d
  obtain ⟨h1, h2, h3, h4, h5⟩ := refStatWord_fields (s.reg (Reg.refStat r)) (s.refOut r d) (s.fld (Reg.refStat r) 27 24) d
  simp only [State.flag, State.fld, hn] at h1 h2 h3 h4 h5 ⊢
  by_cases hd : s.refDrifts r d = true
  · have hout : s.refOut r d = true := by
      rw [State.refDrifts, Bool.and_eq_true] at hd
      exact hd.2
    rw [hout] at h1 h2 h3 h4
    simp [hd, bitOf_setBits, bitsOf_setBits_other, h1, h2, h3, h4, hout]
  · simp [hd, bitOf_setBits, bitsOf_setBits_other, h1, h2, h3, h4]
    exact h5

/-- The eighth deviation in a row of the selected reference: the other one takes over. -/
theorem State.refMeasure_switches {s : State} (hc : s.Canonical) {r : Fin 2} (hsrc : s.refSrc r ≠ 0) (hfail : s.flag (Reg.refStat r) 30 = false)
    {d : Int} (hd : s.refDrifts r d = true) (huse : s.refUsable (1 - r.val) = true) (hrev : s.flag Reg.tbCtrl 7 = false) :
    (s.refMeasure r d).refSel = 1 - r.val ∧ (s.refMeasure r d).tb.servo = .pullin ∧
      (s.refMeasure r d).fld Reg.tbStatus 23 16 = min 255 (s.fld Reg.tbStatus 23 16 + 1) := by
  have hr : Rising ((s.refJudged r d).setFlag (Reg.refStat r) 29 true).regs := State.setFlag_rising _ _ _ _ (State.refJudged_rising hc r d)
  have hother : ∀ o, o ≠ Reg.refStat r → ((s.refJudged r d).setFlag (Reg.refStat r) 29 true).reg o = s.reg o := fun o ho =>
    (State.reg_setFlag_other _ _ _ _ _ ho).trans (s.refJudged_other r d ho)
  have huse' : ((s.refJudged r d).setFlag (Reg.refStat r) 29 true).refUsable (1 - r.val) = true :=
    (State.refUsable_congr (hother _ (Reg.refCfg_ne_refStat _ _)) (hother _ (Reg.refStat_ne_other r))
      (State.tref_updRef_other _ (by omega) _)).trans huse
  obtain ⟨hsel, hservo, hcount⟩ := State.refSwitch_spec hr (r := 1 - r.val) (by omega) (s.refWord r (s.refOut r d))
  have hctrl : (((s.refJudged r d).setFlag (Reg.refStat r) 29 true).refSwitch (1 - r.val) (s.refWord r (s.refOut r d))).flag Reg.tbCtrl 7 = false := by
    rw [State.flag, (State.refSwitch_elects _ _ _).reg (by decide) (by decide), hother _ (Reg.tbCtrl_ne_refStat _)]
    exact hrev
  rw [State.refMeasure_eq hsrc hfail, if_pos hd, State.refLose_usable huse', State.refElected_pullin hservo hctrl]
  refine ⟨hsel, hservo, hcount.trans ?_⟩
  rw [State.fld, hother _ (Reg.refStat_ne_tbStatus r).symm, State.fld]

/-- A measurement changes registers, the timebase and the recorder. -/
theorem State.refMeasure_frame {s : State} {r : Fin 2} (hsrc : s.refSrc r ≠ 0) (hfail : s.flag (Reg.refStat r) 30 = false) (d : Int) :
    s.refMeasure r d = { s with regs := (s.refMeasure r d).regs, tb := (s.refMeasure r d).tb, soot := (s.refMeasure r d).soot
                                freeCtr := (s.refMeasure r d).freeCtr } ∧
      SameRegs s (s.refMeasure r d) [Reg.refStat r, Reg.tbStatus, Reg.sootDrop] := by
  have he := State.refMeasure_elects hsrc hfail d
  constructor
  · obtain ⟨R, S, F, V, I, f, G, e, -, -⟩ := he
    rw [e]
    split <;> rfl
  · intro o ho
    simp only [List.mem_cons, List.not_mem_nil, or_false, not_or] at ho
    obtain ⟨hstat, htb, hdrop⟩ := ho
    rw [he.reg htb hdrop]
    split
    · rw [State.reg_setFlag_other _ _ _ _ _ hstat, s.refJudged_other r d hstat]
    · exact s.refJudged_other r d hstat

theorem State.refMeasure_inRun {s : State} (hc : s.Canonical) {r : Fin 2} (hsrc : s.refSrc r ≠ 0) (hfail : s.flag (Reg.refStat r) 30 = false)
    (d : Int) : ((s.refMeasure r d).tref r).inRun = if s.refOut r d then 0 else (s.tref r).inRun + 1 := by
  rw [(State.refMeasure_elects hsrc hfail d).tref, ← State.refJudged_inRun hc r d]
  split <;> rfl

/-- Settles O46. -/
theorem measurementJudgesReference : Obligations.MeasurementJudgesReference := by
  intro s r d hc hsrc hfail
  obtain ⟨hvalid, hintol, hrun, hdev, hin, hdrift⟩ := State.refMeasure_fields hc hsrc hfail d
  have hinRun := State.refMeasure_inRun hc hsrc hfail d
  obtain ⟨hframe, hregs⟩ := State.refMeasure_frame hsrc hfail d
  refine ⟨_, rfl, hvalid, hintol, hrun, hdev, fun hout => ⟨hin hout, ?_⟩, fun hout => ?_, fun hout hsel h7 huse hrev => ?_, hframe, hregs⟩
  · simpa [hout] using hinRun
  · simpa [hout] using hinRun
  · have hd : s.refDrifts r d = true := by
      rw [State.refDrifts, hsel, hout]
      simpa using h7
    exact ⟨hdrift hd, State.refMeasure_switches hc hsrc hfail hd huse hrev⟩

end Sys2Proof.Machine

/-!
PROOF. The counter of the timebase and what a tick, a SET, a STEP and the writes of its registers do to it (R330-R332, R340); offset samples
(R335, R338); triggers and captures (R343-R345).
-/

namespace Sys2Proof.Machine

/-! ### A tick (R330, R331, R340) -/

/-- The counter raised by the effective increment, with the slew that remains. -/
def State.tbAdvanced (s : State) : State :=
  { s.setCounter (s.counter + s.effIncr.1) with tb := { (s.setCounter (s.counter + s.effIncr.1)).tb with slewRem := s.effIncr.2 } }

/-- The running pulses of all triggers after a tick. -/
def State.trigsTick (s : State) : State := (List.range 8).foldl (fun s k => s.trigTick k) s

theorem exec_tbTick_advance {s : State} (hclk : s.fabric.refclk = true) (hset : s.tb.pendingSet = none) :
    exec .tbTick s = .next s.tbAdvanced.applyStep.trigsTick := by
  simp [exec, execTbTick, hclk, hset, State.tbAdvanced, State.trigsTick]

theorem exec_tbTick_set {s : State} {v : TimeSet} (hclk : s.fabric.refclk = true) (hset : s.tb.pendingSet = some v) :
    exec .tbTick s = .next s.applySet.applyStep.trigsTick := by
  simp [exec, execTbTick, hclk, hset, State.trigsTick]

/-- The pulses change the triggers' records alone. -/
theorem State.trigsTick_frame (s : State) : ∃ T, s.trigsTick = { s with tb := { s.tb with trigs := T } } := State.trigTicks_frame _ s

theorem State.counter_congr {s t : State} (hsec : t.tb.sec = s.tb.sec) (hsub : t.tb.sub = s.tb.sub) : t.counter = s.counter := by
  rw [State.counter, State.counter, hsec, hsub]

theorem State.counter_trigsTick (s : State) : s.trigsTick.counter = s.counter := by
  obtain ⟨T, e⟩ := s.trigsTick_frame
  rw [e]
  rfl

theorem State.counter_tbAdvanced (s : State) : s.tbAdvanced.counter = (s.counter + s.effIncr.1) % (2 ^ 48 * (1000000000 * 2 ^ 32)) :=
  (State.counter_congr (s := s.setCounter (s.counter + s.effIncr.1)) rfl rfl).trans (State.setCounter_counter _ _)

theorem State.effIncr_servo {s : State} (h : s.flag Reg.tbCtrl 1 = false) :
    s.effIncr = (s.tb.incr.toNat + roundDivAway (s.tb.incr.toNat * s.freqF) (4096 * 1000000000), s.tb.slewRem) := by
  simp [State.effIncr, h]

theorem State.effIncr_slewUp {s : State} (h : s.flag Reg.tbCtrl 1 = true) (hrem : 0 ≤ s.tb.slewRem) :
    s.effIncr = (s.tb.incr.toNat + min s.tb.slewRem s.slewStep, s.tb.slewRem - min s.tb.slewRem s.slewStep) := by
  simp [State.effIncr, h, hrem]

theorem State.effIncr_slewDown {s : State} (h : s.flag Reg.tbCtrl 1 = true) (hrem : s.tb.slewRem < 0) :
    s.effIncr = (s.tb.incr.toNat + max s.tb.slewRem (-s.slewStep), s.tb.slewRem - max s.tb.slewRem (-s.slewStep)) := by
  simp [State.effIncr, h, not_le.mpr hrem]

/-- A tick with nothing committed. -/
theorem exec_tbTick_plain {s : State} (hclk : s.fabric.refclk = true) (hset : s.tb.pendingSet = none) (hstep : s.tb.pendingStep = none) :
    exec .tbTick s = .next s.tbAdvanced.trigsTick := by
  have e : s.tbAdvanced.applyStep = s.tbAdvanced := by
    have h : s.tbAdvanced.tb.pendingStep = none := hstep
    rw [State.applyStep, h]
  rw [exec_tbTick_advance hclk hset, e]

/-! ### SET and STEP (R332) -/

/-- The state with a committed SET in its counter. -/
def State.tbLoaded (s : State) (v : TimeSet) : State :=
  { s with tb := { s.tb with sec := v.sec, sub := min 999999999 v.ns * 2 ^ 32 + v.frac * 2 ^ 16, pendingSet := none } }

theorem State.applySet_eq {s : State} {v : TimeSet} (h : s.tb.pendingSet = some v) :
    s.applySet = (s.tbLoaded v).afterStep (((s.tbLoaded v).nowNs : Int) - s.nowNs) := by
  rw [State.applySet, h]
  rfl

theorem State.applyStep_none {s : State} (h : s.tb.pendingStep = none) : s.applyStep = s := by rw [State.applyStep, h]

theorem State.applyStep_some {s : State} {d : Int} (h : s.tb.pendingStep = some d) :
    s.applyStep = ({ s with tb := { s.tb with pendingStep := none } } : State).stepCounter d := by rw [State.applyStep, h]

/-- The timebase fields that a SET or STEP leaves once the counter has its new value. -/
theorem State.afterStep_counter (s : State) (d : Int) : (s.afterStep d).tb.sec = s.tb.sec ∧ (s.afterStep d).tb.sub = s.tb.sub ∧
    (s.afterStep d).tb.pendingSet = s.tb.pendingSet ∧ (s.afterStep d).tb.pendingStep = s.tb.pendingStep ∧ (s.afterStep d).tb.fInt = s.tb.fInt := by
  obtain ⟨R, S, F, T, V, G, e⟩ := s.afterStep_frame d
  rw [e]
  exact ⟨rfl, rfl, rfl, rfl, rfl⟩

theorem State.trigsTick_fields (s : State) : s.trigsTick.tb.sec = s.tb.sec ∧ s.trigsTick.tb.sub = s.tb.sub ∧
    s.trigsTick.tb.pendingSet = s.tb.pendingSet ∧ s.trigsTick.tb.pendingStep = s.tb.pendingStep ∧ s.trigsTick.tb.fInt = s.tb.fInt ∧
    s.trigsTick.tb.servo = s.tb.servo ∧ s.trigsTick.regs = s.regs := by
  obtain ⟨T, e⟩ := s.trigsTick_frame
  rw [e]
  exact ⟨rfl, rfl, rfl, rfl, rfl, rfl, rfl⟩

/-- The tick that applies a SET. -/
theorem exec_tbTick_loads {s : State} (hc : s.Canonical) {v : TimeSet} (hclk : s.fabric.refclk = true) (hset : s.tb.pendingSet = some v)
    (hstep : s.tb.pendingStep = none) : ∃ t, exec .tbTick s = .next t ∧ t.tb.sec = v.sec ∧
      t.tb.sub = min 999999999 v.ns * 2 ^ 32 + v.frac * 2 ^ 16 ∧ t.tb.pendingSet = none ∧
      t.fld Reg.tbStatus 15 8 = min 255 (s.fld Reg.tbStatus 15 8 + 1) ∧ t.tb.fInt = s.tb.fInt ∧
      (s.servoOn = true → s.tb.servo = .pullin ∨ s.tb.servo = .locked → t.tb.servo = .acquire) := by
  have e : exec .tbTick s = .next ((s.tbLoaded v).afterStep (((s.tbLoaded v).nowNs : Int) - s.nowNs)).trigsTick := by
    rw [exec_tbTick_set hclk hset, State.applySet_eq hset, State.applyStep_none]
    exact (State.afterStep_counter _ _).2.2.2.1.trans hstep
  refine ⟨_, e, ?_⟩
  generalize ((s.tbLoaded v).nowNs : Int) - s.nowNs = d
  obtain ⟨hsec, hsub, hps, -, hfi⟩ := (s.tbLoaded v).afterStep_counter d
  obtain ⟨-, hsteps, -, hservo⟩ := (s.tbLoaded v).afterStep_effect d hc.rising
  obtain ⟨hsec', hsub', hps', -, hfi', hservo', hregs'⟩ := ((s.tbLoaded v).afterStep d).trigsTick_fields
  refine ⟨hsec'.trans hsec, hsub'.trans hsub, hps'.trans hps, ?_, hfi'.trans hfi, fun hon hst => hservo'.trans (hservo ?_ ?_ ?_)⟩
  · rw [State.fld_congr hregs', hsteps]
    rfl
  · exact (Bool.and_eq_true_iff.mp hon).1
  · rcases hst with h | h <;> exact fun e => nomatch e.symm.trans h
  · rcases hst with h | h <;> exact fun e => nomatch e.symm.trans h

/-- The tick that applies a STEP, against the same tick without it. -/
theorem exec_tbTick_steps {s : State} (hc : s.Canonical) {d : Int} (hclk : s.fabric.refclk = true) (hset : s.tb.pendingSet = none)
    (hstep : s.tb.pendingStep = some d) : ∃ t u, exec .tbTick { s with tb := { s.tb with pendingStep := none } } = .next u ∧
      exec .tbTick s = .next t ∧ t.counter = (u.counter + d * 2 ^ 32) % (2 ^ 48 * (1000000000 * 2 ^ 32)) ∧ t.tb.pendingStep = none ∧
      t.fld Reg.tbStatus 15 8 = min 255 (s.fld Reg.tbStatus 15 8 + 1) ∧ t.tb.fInt = s.tb.fInt := by
  have e : s.tbAdvanced.applyStep = ({ s with tb := { s.tb with pendingStep := none } } : State).tbAdvanced.stepCounter d :=
    State.applyStep_some hstep
  refine ⟨_, _, exec_tbTick_plain hclk hset rfl, (exec_tbTick_advance hclk hset).trans (by rw [e]), ?_⟩
  rw [State.counter_trigsTick, State.counter_trigsTick]
  generalize hu : ({ s with tb := { s.tb with pendingStep := none } } : State).tbAdvanced = u
  have hfields : u.regs = s.regs ∧ u.tb.fInt = s.tb.fInt ∧ u.tb.pendingStep = none := by
    rw [← hu]
    exact ⟨rfl, rfl, rfl⟩
  obtain ⟨huregs, hufi, hups⟩ := hfields
  obtain ⟨hsec, hsub, -, hps, hfi⟩ := (u.setCounter (u.counter + d * 2 ^ 32)).afterStep_counter d
  obtain ⟨-, hsteps, -, -⟩ := (u.setCounter (u.counter + d * 2 ^ 32)).afterStep_effect d (by exact huregs ▸ hc.rising)
  obtain ⟨-, -, -, hps', hfi', -, hregs'⟩ := (u.stepCounter d).trigsTick_fields
  refine ⟨(State.counter_congr hsec hsub).trans (State.setCounter_counter _ _), (hps'.trans hps).trans hups, ?_, (hfi'.trans hfi).trans hufi⟩
  rw [State.fld_congr hregs', State.stepCounter, hsteps, State.fld_congr (s := s) (t := u.setCounter (u.counter + d * 2 ^ 32)) huregs]

/-! ### Writes and reads of the timebase's registers -/

theorem exec_tbSet {s : State} (h : s.PfReaches Reg.tbCmd) : exec .tbSet s = .next (s.tbCmdWrite 1) := congrArg _ (State.pfReach_of_reaches h _)

theorem exec_tbStep {s : State} (h : s.PfReaches Reg.tbCmd) : exec .tbStep s = .next (s.tbCmdWrite 2) := congrArg _ (State.pfReach_of_reaches h _)

theorem exec_tbIncrCommit {s : State} (v : Word) (h : s.PfReaches Reg.tbIncrHi) : exec (.tbIncrCommit v) s = .next (s.tbIncrCommit v) :=
  congrArg _ (State.pfReach_of_reaches h _)

theorem exec_tbSlewWrite {s : State} (v : Word) (h : s.PfReaches Reg.tbSlew) : exec (.tbSlewWrite v) s = .next (s.tbSlewWrite v) :=
  congrArg _ (State.pfReach_of_reaches h _)

/-- A read of a register block that answers, by a PF that answers. -/
theorem State.pfRead_of_reaches {s : State} {off : Nat} (h : s.PfReaches off) (t : State) : s.pfRead off t = t := by
  simp [State.pfRead, h.1, h.2]

/-- Settles O44. -/
theorem timebaseCountsSetsAndSteps : Obligations.TimebaseCountsSetsAndSteps := by
  refine ⟨⟨rfl, fun s hclk hset hstep => ?_⟩, fun s hc => ⟨fun h => ?_, fun h => ?_, fun v hclk hset hstep => ?_, fun d hclk hset hstep => ?_⟩,
    fun s => ⟨fun h => ?_, fun h v => ⟨fun w hw => ?_, fun hw => ?_⟩, fun h v => ?_⟩⟩
  · obtain ⟨T, hT⟩ := s.tbAdvanced.trigsTick_frame
    obtain ⟨hsub, hsec⟩ := s.setCounter_range (s.counter + s.effIncr.1)
    refine ⟨_, exec_tbTick_plain hclk hset hstep, ?_⟩
    rw [State.counter_trigsTick, State.counter_tbAdvanced, hT]
    refine ⟨rfl, hsub, hsec, fun hmode => ?_, fun hmode hrem => ?_, fun hmode hrem => ?_⟩
    · simp only [State.tbAdvanced, State.effIncr_servo hmode, and_self]
    · simp only [State.tbAdvanced, State.effIncr_slewUp hmode hrem, and_self]
    · simp only [State.tbAdvanced, State.effIncr_slewDown hmode hrem, and_self]
  · exact exec_tbSet h
  · exact exec_tbStep h
  · exact exec_tbTick_loads hc hclk hset hstep
  · exact exec_tbTick_steps hc hclk hset hstep
  · exact congrArg _ (State.pfRead_of_reaches h _)
  · rw [exec_tbIncrCommit v h, State.tbIncrCommit, hw]
  · rw [exec_tbIncrCommit v h, State.tbIncrCommit, hw]
    simp
  · exact exec_tbSlewWrite v h

/-! ### Offset samples (R335, R338) -/

/-- The state in which a sample of reference r is held. -/
def State.refHeld (s : State) (r : Nat) (w : Word) : State := (s.setReg (Reg.tbOffset r) w).updRef r fun t => { t with sampled := true }

/-- The servo steps the counter for a sample (R338). -/
def State.servoJumps (s : State) (th : Int) : Prop := s.flag Reg.tbCtrl 5 = true ∧ s.servoStepNs ≤ th.natAbs

/-- The count of samples near 0 after a sample. -/
def State.servoGood (s : State) (th : Int) : Nat := if th.natAbs < s.servoLockNs then s.tb.good + 1 else 0

theorem State.servoAct_pullin {s : State} (h : s.tb.servo = .pullin) (r : Nat) (th : Int) : s.servoAct r th = { s with tb := { s.tb with
    f := s.tb.fInt - clampInt (-10000 * 2 ^ 32) (10000 * 2 ^ 32) (s.servoRate r th)
    good := s.servoGood th
    servo := if s.servoGood th = 8 then .locked else .pullin } } := by
  simp [State.servoAct, h, State.servoGood] <;> rfl

theorem State.servoAct_jump {s : State} (h : s.tb.servo = .acquire ∨ s.tb.servo = .locked) (r : Nat) {th : Int} (hj : s.servoJumps th) :
    s.servoAct r th = { s.stepCounter (-th) with
      tb := { (s.stepCounter (-th)).tb with f := (s.stepCounter (-th)).tb.fInt, servo := .acquire, good := 0 } } := by
  rcases h with h | h <;> simp [State.servoAct, h, hj.1, hj.2]

theorem State.servoAct_track {s : State} (h : s.tb.servo = .acquire ∨ s.tb.servo = .locked) (r : Nat) {th : Int} (hj : ¬ s.servoJumps th) :
    s.servoAct r th =
      let i := clampInt (-s.servoMax) s.servoMax (s.tb.fInt - s.servoRate r th / 2 ^ s.fld Reg.tbServo 7 4)
      { s with tb := { s.tb with
        fInt := i
        f := clampInt (-s.servoMax) s.servoMax (i - s.servoRate r th / 2 ^ s.fld Reg.tbServo 3 0)
        good := s.servoGood th
        servo := if 8 ≤ s.servoGood th then .locked else .acquire } } := by
  have hj' : (s.flag Reg.tbCtrl 5 && decide (s.servoStepNs ≤ th.natAbs)) = false := by
    rw [Bool.eq_false_iff, ne_eq, Bool.and_eq_true, decide_eq_true_eq]
    exact hj
  rcases h with h | h <;> simp [State.servoAct, h, hj', State.servoGood] <;> rfl

theorem State.refSelected_servo {s : State} {r : Nat} (h : s.refSelected r = true) :
    s.tb.servo = .pullin ∨ s.tb.servo = .acquire ∨ s.tb.servo = .locked := by
  rw [State.refSelected] at h
  cases e : s.tb.servo <;> simp_all

section Held

variable (s : State) (r : Fin 2) (w : Word)

theorem State.reg_refHeld_other {o : Nat} (h : o ≠ Reg.tbOffset r) : (s.refHeld r w).reg o = s.reg o := s.reg_setReg_other _ _ _ h

theorem State.flag_refHeld_ctrl (i : Nat) : (s.refHeld r w).flag Reg.tbCtrl i = s.flag Reg.tbCtrl i := by
  rw [State.flag, s.reg_refHeld_other r w (by simp only [Reg.tbOffset, Reg.tbCtrl]; omega), State.flag]

theorem State.fld_refHeld_servo (hi lo : Nat) : (s.refHeld r w).fld Reg.tbServo hi lo = s.fld Reg.tbServo hi lo := by
  rw [State.fld, s.reg_refHeld_other r w (by simp only [Reg.tbOffset, Reg.tbServo]; omega), State.fld]

theorem State.fld_refHeld_servo2 (hi lo : Nat) : (s.refHeld r w).fld Reg.tbServo2 hi lo = s.fld Reg.tbServo2 hi lo := by
  rw [State.fld, s.reg_refHeld_other r w (by simp only [Reg.tbOffset, Reg.tbServo2]; omega), State.fld]

theorem State.servoMax_refHeld : (s.refHeld r w).servoMax = s.servoMax := by rw [State.servoMax, s.fld_refHeld_servo r w, State.servoMax]

theorem State.servoJumps_refHeld (th : Int) : (s.refHeld r w).servoJumps th ↔ s.servoJumps th := by
  rw [State.servoJumps, s.flag_refHeld_ctrl r w, State.servoStepNs, s.fld_refHeld_servo2 r w, State.servoJumps, State.servoStepNs]

theorem State.servoGood_refHeld (th : Int) : (s.refHeld r w).servoGood th = s.servoGood th := by
  simp only [State.servoGood, State.servoLockNs, s.fld_refHeld_servo2 r w]
  rfl

theorem State.servoRate_refHeld (th : Int) : (s.refHeld r w).servoRate r th = s.servoRate r th := by
  have e : ∀ hi lo, (s.refHeld r w).fld (Reg.refCfg r) hi lo = s.fld (Reg.refCfg r) hi lo := fun hi lo => by
    rw [State.fld, s.reg_refHeld_other r w (by simp only [Reg.tbOffset, Reg.refCfg]; omega), State.fld]
  simp only [State.servoRate, State.refLogInt, State.refSrc, e] <;> rfl

theorem State.refSample_eq : s.refSample r w =
    if s.servoOn && s.refSelected r then (s.refHeld r w).servoAct r (signedOf 32 w.toNat) else s.refHeld r w := by
  have hon : (s.refHeld r w).servoOn = s.servoOn := by rw [State.servoOn, s.flag_refHeld_ctrl r w, s.flag_refHeld_ctrl r w, State.servoOn]
  have hsel : (s.refHeld r w).refSelected r = s.refSelected r :=
    State.refSelected_congr r rfl (s.reg_refHeld_other r w (by simp only [Reg.tbOffset, Reg.tbStatus]; omega))
  rw [← hon, ← hsel]
  rfl

end Held

/-- A sample written for a PTP reference, and one latched at an edge of a PPS reference, act alike. -/
theorem exec_sample {s : State} {r : Fin 2} {w : Word} {c : Instr}
    (h : (c = .offsetSample r w ∧ s.PfReaches (Reg.tbOffset r) ∧ (s.refSrc r = 1 ∨ s.refSrc r = 2)) ∨
      (c = .ppsEdge r ∧ s.refSrc r = 3 ∧ s.tbNs < 1000000000 ∧
        signedOf 32 w.toNat = if s.tbNs < 500000000 then (s.tbNs : Int) else s.tbNs - 1000000000)) : exec c s = .next (s.refSample r w) := by
  rcases h with ⟨rfl, hreach, hsrc⟩ | ⟨rfl, hsrc, -, hth⟩
  · have e : s.tbOffsetWrite r w = s.refSample r w := if_pos hsrc
    rw [← e]
    exact congrArg _ (State.pfReach_of_reaches hreach _)
  · simp only [exec, execPpsEdge, hsrc, if_true]
    rw [← hth, wrapInt_signedOf, BitVec.ofNat_toNat, BitVec.setWidth_eq]

/-- Settles O45: the sample is held, and where the servo acts its state chooses the case. -/
theorem offsetSampleDrivesServo : Obligations.OffsetSampleDrivesServo := by
  intro s r w c hc hcmd
  have hheld : (s.refHeld r w).reg (Reg.tbOffset r) = w := s.reg_setReg_same _ _ hc.rising
  have hsame : SameRegs s (s.refHeld r w) [Reg.tbOffset r] := fun o ho => s.reg_refHeld_other r w (List.ne_of_not_mem_cons ho)
  refine ⟨_, exec_sample hcmd, ?_⟩
  rw [s.refSample_eq r w]
  generalize hth : signedOf 32 w.toNat = th
  by_cases hacts : s.servoOn = true ∧ s.refSelected r = true
  · rw [if_pos (Bool.and_eq_true_iff.mpr hacts)]
    rcases State.refSelected_servo hacts.2 with hst | hst
    · rw [State.servoAct_pullin (s := s.refHeld r w) hst, s.servoGood_refHeld, s.servoRate_refHeld]
      refine ⟨hheld, fun h => absurd hacts h, fun _ => ⟨rfl, hsame⟩, fun _ _ => ⟨rfl, rfl, rfl, rfl⟩, fun _ h => by simp [hst] at h,
        fun _ h => by simp [hst] at h⟩
    · have hnot : s.tb.servo ≠ .pullin := by rcases hst with h | h <;> rw [h] <;> decide
      by_cases hj : s.servoJumps th
      · rw [State.servoAct_jump (s := s.refHeld r w) hst r ((s.servoJumps_refHeld r w th).mpr hj)]
        obtain ⟨hsec, hsub, -, -, hfi⟩ := ((s.refHeld r w).setCounter ((s.refHeld r w).counter + -th * 2 ^ 32)).afterStep_counter (-th)
        obtain ⟨-, -, hother, -⟩ := ((s.refHeld r w).setCounter ((s.refHeld r w).counter + -th * 2 ^ 32)).afterStep_effect (-th)
          (s.setReg_rising _ _ hc.rising)
        refine ⟨?_, fun h => absurd hacts h, fun h => absurd ⟨hacts, hnot, hj⟩ h, fun _ h => absurd h hnot, fun _ _ _ => ⟨?_, hfi, hfi, rfl, rfl⟩,
          fun _ _ h => absurd hj h⟩
        · exact (hother _ (by simp only [Reg.tbOffset, Reg.tbStatus]; omega) (by simp only [Reg.tbOffset, Reg.sootDrop]; omega)
            (fun k _ => by simp only [Reg.tbOffset, Reg.trigCfg]; omega)).trans hheld
        · refine (State.counter_congr (s := (s.refHeld r w).setCounter ((s.refHeld r w).counter + -th * 2 ^ 32)) hsec hsub).trans ?_
          rw [State.setCounter_counter, Int.sub_eq_add_neg, Int.neg_mul]
          rfl
      · rw [State.servoAct_track (s := s.refHeld r w) hst r (mt (s.servoJumps_refHeld r w th).mp hj), s.servoGood_refHeld, s.servoRate_refHeld,
          s.servoMax_refHeld, s.fld_refHeld_servo, s.fld_refHeld_servo]
        exact ⟨hheld, fun h => absurd hacts h, fun _ => ⟨rfl, hsame⟩, fun _ h => absurd h hnot, fun _ _ h => absurd h hj,
          fun _ _ _ => ⟨rfl, rfl, rfl, rfl⟩⟩
  · rw [if_neg (mt Bool.and_eq_true_iff.mp hacts)]
    exact ⟨hheld, fun _ => rfl, fun _ => ⟨rfl, hsame⟩, fun h => absurd h hacts, fun h => absurd h hacts, fun h => absurd h hacts⟩

/-! ### Triggers (R343) -/

theorem exec_trigArm {s : State} (k : Fin 8) (v : Word) (h : s.PfReaches (Reg.trigCfg k)) : exec (.trigArm k v) s = .next (s.trigCfgWrite k v) :=
  congrArg _ (State.pfReach_of_reaches h _)

theorem State.trig_updTrig_same {s : State} {k : Nat} (h : k < s.tb.trigs.length) (f : Trig → Trig) : (s.updTrig k f).trig k = f (s.trig k) :=
  listAt_listUpd_same _ _ _ _ h

theorem State.Canonical.trig_lt {s : State} (h : s.Canonical) (k : Fin 8) : k.val < s.tb.trigs.length := by
  have := h.sizes.2.1
  omega

/-- The word that a write leaves in TRIG_CFGk before the arming is decided. -/
def State.trigWord (s : State) (k : Nat) (v : Word) : Word :=
  setBits (setBits (v &&& 0xB0FFFFFF) 30 30 (boolNat (s.flag (Reg.trigCfg k) 30 && !bitOf v 30))) 27 24 (s.fld (Reg.trigCfg k) 27 24)

theorem State.bitOf_trigWord_arm (s : State) (k : Nat) (v : Word) : bitOf (s.trigWord k v) 31 = bitOf v 31 := by
  rw [State.trigWord, bitOf_setBits_other _ _ _ _ _ (by decide) (by decide), bitOf_setBits_other _ _ _ _ _ (by decide) (by decide), bitOf_and]
  have h : bitOf 0xB0FFFFFF 31 = true := by decide
  rw [h, Bool.and_true]

/-- The target lies in registers that a write to TRIG_CFGk leaves. -/
theorem State.trigTarget_setCfg (s : State) (k : Nat) (w : Word) : (s.setReg (Reg.trigCfg k) w).trigTarget k = s.trigTarget k := by
  rw [State.trigTarget, s.reg_setReg_other _ _ _ (by simp only [Reg.trigCfg, Reg.trigSec]; omega),
    s.reg_setReg_other _ _ _ (by simp only [Reg.trigCfg, Reg.trigNs]; omega), State.trigTarget]

theorem State.trigCfgWrite_ahead {s : State} {k : Nat} {v : Word} (harm : bitOf v 31 = true) (h : tbAhead (s.trigTarget k) s.nowNs = true) :
    s.trigCfgWrite k v = (s.setReg (Reg.trigCfg k) (s.trigWord k v)).updTrig k fun g => { g with next := some (s.trigTarget k) } := by
  have h' : tbAhead ((s.setReg (Reg.trigCfg k) (s.trigWord k v)).trigTarget k) (s.setReg (Reg.trigCfg k) (s.trigWord k v)).nowNs = true := by
    rw [s.trigTarget_setCfg]
    exact h
  rw [← s.trigTarget_setCfg k (s.trigWord k v)]
  exact (if_neg (by simp [harm])).trans (if_pos h')

theorem State.trigCfgWrite_late {s : State} {k : Nat} {v : Word} (harm : bitOf v 31 = true) (h : tbAhead (s.trigTarget k) s.nowNs = false)
    (hone : bitOf v 29 = false) : s.trigCfgWrite k v =
      (((s.setReg (Reg.trigCfg k) (s.trigWord k v)).setFlag (Reg.trigCfg k) 30 true).setFlag (Reg.trigCfg k) 31 false).updTrig k fun g =>
        { g with next := none } := by
  have h' : ¬ tbAhead ((s.setReg (Reg.trigCfg k) (s.trigWord k v)).trigTarget k) (s.setReg (Reg.trigCfg k) (s.trigWord k v)).nowNs = true := by
    rw [s.trigTarget_setCfg, Bool.not_eq_true]
    exact h
  exact (if_neg (by simp [harm])).trans ((if_neg h').trans (if_neg (by simp [hone])))

theorem exec_triggerFire {s : State} {k : Fin 8} {e : Nat} (h : (s.trig k).next = some e) (hdue : tbAhead e s.nowNs = false) :
    exec (.triggerFire k) s = .next (s.trigFire k e) := by
  simp [exec, execTriggerFire, h, hdue]

theorem State.trigFire_once {s : State} {k : Nat} (h : s.flag (Reg.trigCfg k) 29 = false) (e : Nat) : s.trigFire k e =
    (s.updTrig k fun _ => ⟨!s.flag (Reg.trigCfg k) 28, none, s.trigTicks k⟩).setFlag (Reg.trigCfg k) 31 false := by
  simp [State.trigFire, h]

theorem State.trigFire_periodic {s : State} {k : Nat} (h : s.flag (Reg.trigCfg k) 29 = true) (e : Nat) : s.trigFire k e =
    s.updTrig k fun _ => ⟨!s.flag (Reg.trigCfg k) 28, some ((e + s.trigPeriod k) % tbSpan), s.trigTicks k⟩ := by
  simp [State.trigFire, h]

/-! ### Captures (R344, R345) -/

theorem State.Canonical.cap_lt {s : State} (h : s.Canonical) (k : Fin 8) : k.val < s.tb.caps.length := by
  have := h.sizes.2.2.1
  omega

theorem exec_captureEdge_room {s : State} {k : Fin 8} {falling : Bool} (hw : capWants (s.reg (Reg.capCfg k)) falling = true)
    (hroom : (s.capList k).length < 4) : exec (.captureEdge k falling) s =
      .next { s with tb := { s.tb with caps := listUpd s.tb.caps k (· ++ [⟨falling, s.tb.sec % 2 ^ 32, s.tbNs⟩]) } } := by
  simp [exec, execCaptureEdge, hw, not_le.mpr hroom]

theorem exec_captureEdge_full {s : State} {k : Fin 8} {falling : Bool} (hw : capWants (s.reg (Reg.capCfg k)) falling = true)
    (hfull : 4 ≤ (s.capList k).length) (hovf : s.flag (Reg.capCfg k) 28 = false) : exec (.captureEdge k falling) s =
      .next ((s.setFlag (Reg.capCfg k) 28 true).sootEvent 0x0432 (BitVec.ofNat 64 k) none) := by
  simp [exec, execCaptureEdge, hw, hfull, hovf]

theorem exec_capPop {s : State} (k : Fin 8) (h : s.PfReaches (Reg.capCfg k)) : exec (.capPop k) s = .next (s.capPop k) :=
  congrArg _ (State.pfReach_of_reaches h _)

/-- Settles O48. -/
theorem triggersAndCaptures : Obligations.TriggersAndCaptures := by
  refine ⟨fun s k hc => ⟨fun v hreach harm => ⟨fun hahead => ?_, fun hlate hone => ?_⟩, fun e hnext hdue => ?_⟩,
    fun s k hc => ⟨fun falling hw => ⟨fun hroom => ?_, fun hfull hovf => ?_⟩, fun hreach => ?_, fun hclk => ?_⟩⟩
  · refine ⟨_, (exec_trigArm k v hreach).trans (congrArg _ (State.trigCfgWrite_ahead harm hahead)), ?_, ?_, rfl, fun o ho => ?_⟩
    · exact congrArg Trig.next (State.trig_updTrig_same (hc.trig_lt k) _)
    · rw [State.flag, State.reg_updTrig, State.reg_setReg_same _ _ _ hc.rising, State.bitOf_trigWord_arm]
      exact harm
    · exact (State.reg_updTrig _ _ _ _).trans (s.reg_setReg_other _ _ _ (List.ne_of_not_mem_cons ho))
  · refine ⟨_, (exec_trigArm k v hreach).trans (congrArg _ (State.trigCfgWrite_late harm hlate hone)), ?_, ?_, ?_, rfl, fun o ho => ?_⟩
    · exact congrArg Trig.next (State.trig_updTrig_same (hc.trig_lt k) _)
    · rw [State.flag, State.reg_updTrig]
      exact State.flag_setFlag_same _ _ _ _ (State.setFlag_rising _ _ _ _ (s.setReg_rising _ _ hc.rising)) (by decide)
    · rw [State.flag, State.reg_updTrig, State.setFlag, State.reg_setFld_same _ _ _ _ _ (State.setFlag_rising _ _ _ _ (s.setReg_rising _ _ hc.rising)),
        bitOf_setBits_other _ _ _ _ _ (by decide) (by decide)]
      exact State.flag_setFlag_same _ _ _ _ (s.setReg_rising _ _ hc.rising) (by decide)
    · have hne := List.ne_of_not_mem_cons ho
      rw [State.reg_updTrig, State.reg_setFlag_other _ _ _ _ _ hne, State.reg_setFlag_other _ _ _ _ _ hne, State.reg_setReg_other _ _ _ _ hne]
  · refine ⟨_, exec_triggerFire hnext hdue, ?_⟩
    have hone : ∀ f, ((s.updTrig k f).setFlag (Reg.trigCfg k) 31 false).trig k = f (s.trig k) := fun f => State.trig_updTrig_same (hc.trig_lt k) f
    have hper : ∀ f, (s.updTrig k f).trig k = f (s.trig k) := fun f => State.trig_updTrig_same (hc.trig_lt k) f
    cases hkind : s.flag (Reg.trigCfg k) 29 with
    | false =>
      rw [State.trigFire_once hkind, hone]
      refine ⟨rfl, rfl, fun _ => ⟨rfl, State.flag_setFlag_same _ _ _ _ hc.rising (by decide)⟩, fun h => absurd h (by decide), rfl, fun o ho => ?_⟩
      exact (State.reg_setFlag_other _ _ _ _ _ (List.ne_of_not_mem_cons ho)).trans (State.reg_updTrig _ _ _ _)
    | true =>
      rw [State.trigFire_periodic hkind, hper]
      exact ⟨rfl, rfl, fun h => absurd h (by decide), fun _ => rfl, rfl, fun o _ => State.reg_updTrig _ _ _ _⟩
  · exact ⟨_, exec_captureEdge_room hw hroom, listAt_listUpd_same _ _ _ _ (hc.cap_lt k), rfl⟩
  · refine ⟨_, exec_captureEdge_full hw hfull hovf, ?_, ?_, fun o ho => ?_⟩
    · rw [State.flag, State.reg_sootEvent _ _ _ _ _ (by simp only [Reg.capCfg, Reg.sootDrop]; omega)]
      exact State.flag_setFlag_same _ _ _ _ hc.rising (by decide)
    · exact State.sootEvent_eq _ _ _ _
    · simp only [List.mem_cons, List.not_mem_nil, or_false, not_or] at ho
      rw [State.reg_sootEvent _ _ _ _ _ ho.2, State.reg_setFlag_other _ _ _ _ _ ho.1]
  · exact ⟨_, exec_capPop k hreach, listAt_listUpd_same _ _ _ _ (hc.cap_lt k), rfl⟩
  · simp [exec, execControlCycleInterrupt, hclk]

end Sys2Proof.Machine

/-!
PROOF. Rings: their contexts (R230), doorbells (R231, R232, R315) and interrupts (R239, R323).
-/

namespace Sys2Proof.Machine

/-! ### Words masked and lists of words -/

theorem bitOf_of_le (w : Word) {i : Nat} (h : 32 ≤ i) : bitOf w i = false := by
  simp only [bitOf, BitVec.testBit_toNat]
  exact BitVec.getLsbD_of_ge _ _ h

theorem wordsBytes_length (ws : List Word) : (wordsBytes ws).length = 4 * ws.length := by
  induction ws with
  | nil => rfl
  | cons w ws ih =>
    have e : wordsBytes (w :: ws) = leBytes 4 w.toNat ++ wordsBytes ws := rfl
    rw [e, List.length_append, ih, List.length_cons]
    simp only [leBytes, List.length_cons, List.length_nil]
    omega

theorem fieldAt_of_length_le {l : List Byte} {off : Nat} (h : l.length ≤ off) (n : Nat) : fieldAt l off n = 0 := by
  simp [fieldAt, List.drop_eq_nil_of_le h, leNat]

theorem listAt_append_left {α : Type} (d : α) {l m : List α} {i : Nat} (h : i < l.length) : listAt d (l ++ m) i = listAt d l i := by
  simp only [listAt, List.getD_eq_getElem?_getD, List.getElem?_append_left h]

theorem listAt_take {α : Type} (d : α) (l : List α) {i n : Nat} (h : i < n) : listAt d (l.take n) i = listAt d l i := by
  simp only [listAt, List.getD_eq_getElem?_getD, List.getElem?_take_of_lt h]

/-! ### RQ_SEL and the staged words (R230) -/

theorem exec_rqSelWrite {s : State} (v : Word) (h : s.PfReaches Reg.rqSel) : exec (.rqSelWrite v) s = .next (s.rqSelWrite v) :=
  congrArg _ (State.pfReach_of_reaches h _)

theorem exec_rqCtxStage {s : State} (k : Fin 7) (v : Word) (h : s.PfReaches (Reg.rqCtx k)) : exec (.rqCtxStage k v) s = .next (s.rqStage k v) :=
  congrArg _ (State.pfReach_of_reaches h _)

theorem exec_rqCtx7Commit {s : State} (v : Word) (h : s.PfReaches (Reg.rqCtx 7)) : exec (.rqCtx7Commit v) s = .next (s.rqCommit v) :=
  congrArg _ (State.pfReach_of_reaches h _)

/-! ### The commit of a context (R230) -/

theorem Ring.enabled_length {r : Ring} (h : r.enabled = true) : 7 ≤ r.ctx.length := by
  by_contra hlt
  have hz : ctxField r.ctx 26 1 = 0 := fieldAt_of_length_le (by rw [wordsBytes_length]; omega) 1
  rw [Ring.enabled, hz] at h
  exact absurd h (by decide)

/-- An enabled ring keeps the first six words of its context. -/
theorem ctxCommit_enabled {r : Ring} (h : r.enabled = true) (new : List Word) {k : Nat} (hk : k < 6) :
    listAt 0 (ctxCommit r.ctx new) k = listAt 0 r.ctx k := by
  have hlen := Ring.enabled_length h
  have e : (ctxField r.ctx 26 1).testBit 7 = true := h
  have hk' : k < (r.ctx.take 6).length := by
    rw [List.length_take]
    omega
  rw [ctxCommit, if_pos e, listAt_append_left _ hk', listAt_take _ _ hk]

theorem ctxCommit_disabled {r : Ring} (h : r.enabled = false) (new : List Word) : ctxCommit r.ctx new = ctxClear new := by
  have e : ¬ (ctxField r.ctx 26 1).testBit 7 = true := Bool.not_eq_true _ ▸ h
  rw [ctxCommit, if_neg e]

/-- The words of a context with its reserved bits cleared. -/
theorem ctxClear_words {new : List Word} (h : new.length = 8) : (∀ k < 6, listAt 0 (ctxClear new) k = listAt 0 new k) ∧
    listAt 0 (ctxClear new) 6 = listAt 0 new 6 &&& 0x00F8FFFF ∧ listAt 0 (ctxClear new) 7 = listAt 0 new 7 &&& 0xFFFF07FF := by
  have hlen : (new.take 6).length = 6 := by
    rw [List.length_take, h]
    rfl
  have happ : ∀ j, listAt 0 (ctxClear new) (6 + j) = listAt 0 [listAt 0 new 6 &&& 0x00F8FFFF, listAt 0 new 7 &&& 0xFFFF07FF] j := fun j => by
    simp [ctxClear, listAt, List.getElem?_append_right, hlen]
  refine ⟨fun k hk => ?_, happ 0, happ 1⟩
  rw [ctxClear, listAt_append_left _ (by omega), listAt_take _ _ hk]

theorem bitOf_ctxMask6 (w : Word) : ∀ i < 32, bitOf (w &&& 0x00F8FFFF) i = (bitOf w i && !decide (16 ≤ i ∧ i ≤ 18 ∨ 24 ≤ i)) := by
  have h : ∀ i < 32, bitOf 0x00F8FFFF i = !decide (16 ≤ i ∧ i ≤ 18 ∨ 24 ≤ i) := by decide
  intro i hi
  rw [bitOf_and, h i hi]

theorem bitOf_ctxMask7 (w : Word) : ∀ i < 32, bitOf w i = bitOf (w &&& 0xFFFF07FF) i ∨ 11 ≤ i ∧ i ≤ 15 ∧ bitOf (w &&& 0xFFFF07FF) i = false := by
  have h : ∀ i < 32, bitOf 0xFFFF07FF i = !decide (11 ≤ i ∧ i ≤ 15) := by decide
  intro i hi
  rw [bitOf_and, h i hi]
  by_cases hr : 11 ≤ i ∧ i ≤ 15
  · exact .inr ⟨hr.1, hr.2, by simp [hr]⟩
  · exact .inl (by simp [hr])

theorem ringCommit_ctx (r : Ring) (new : List Word) : (ringCommit r new).ctx = ctxCommit r.ctx new := by
  simp only [ringCommit]
  split <;> rfl

/-- Enabling a ring sets its positions to 0. -/
theorem ringCommit_enables {r : Ring} (h : r.enabled = false) {new : List Word} (hen : (ringCommit r new).enabled = true) :
    (ringCommit r new).sqHead = 0 ∧ (ringCommit r new).sqTail = 0 ∧ (ringCommit r new).cqHead = 0 ∧ (ringCommit r new).cqTail = 0 := by
  have hen' : ({ r with ctx := ctxCommit r.ctx new } : Ring).enabled = true := by
    rw [Ring.enabled, ringCommit_ctx] at hen
    exact hen
  simp only [ringCommit, h, hen', Bool.not_false, Bool.true_and, if_true]
  exact ⟨rfl, rfl, rfl, rfl⟩

theorem ringCommit_enabled {r : Ring} (h : r.enabled = true) (new : List Word) : ringCommit r new = { r with ctx := ctxCommit r.ctx new } := by
  simp [ringCommit, h]

/-- The words that a commit through RQ_CTX7 takes: the staged ones, and the held ones where none is staged. -/
def State.rqWords (s : State) (r : Nat) (v : Word) : List Word :=
  ((List.range 7).map fun k => (tabFind s.rqStaged k).getD (listAt 0 (s.ring r).ctx k)) ++ [v]

/-- The function of a ring; the PF where no partition has it. -/
def State.ringFn (s : State) (r : Nat) : Nat := match s.ringOwner r with | some (_, f) => f | none => 0

theorem State.rqWords_length (s : State) (r : Nat) (v : Word) : (s.rqWords r v).length = 8 := by
  simp [State.rqWords]

theorem listAt_rqWords_seven (s : State) (r : Nat) (v : Word) : listAt 0 (s.rqWords r v) 7 = v := by
  simp [State.rqWords, listAt]

theorem State.commitRing_ok {s : State} {r : Nat} {new : List Word} (h : ctxOk (ctxCommit (s.ring r).ctx new) (s.ringFn r) = true) :
    s.commitRing r new = (s.setRing r (ringCommit (s.ring r) new), true) := if_pos h

theorem State.commitRing_refused {s : State} {r : Nat} {new : List Word} (h : ctxOk (ctxCommit (s.ring r).ctx new) (s.ringFn r) = false) :
    s.commitRing r new = (s, false) := if_neg (Bool.eq_false_iff.mp h)

/-- What a commit does with the answer of `commitRing`. -/
def State.rqSettle (s : State × Bool) : State := match s with
  | (s1, true) => { s1 with rqStaged := [] }
  | (s1, false) => { s1.setFlag Reg.rqSel 31 true with rqStaged := [] }

theorem State.rqCommit_eq (s : State) (v : Word) :
    s.rqCommit v = State.rqSettle (s.commitRing (s.fld Reg.rqSel 13 0) (s.rqWords (s.fld Reg.rqSel 13 0) v)) := by
  have hwords : ∀ k, (match tabFind s.rqStaged k with | some w => w | none => listAt 0 (s.ring (s.fld Reg.rqSel 13 0)).ctx k) =
      (tabFind s.rqStaged k).getD (listAt 0 (s.ring (s.fld Reg.rqSel 13 0)).ctx k) := fun k => by cases tabFind s.rqStaged k <;> rfl
  rw [State.rqWords, ← funext hwords]
  rfl

/-- A refusal sets WR_REFUSED; the committed words and the ring stay. -/
theorem exec_rqCtx7Commit_refused {s : State} {v : Word} (hr : s.PfReaches (Reg.rqCtx 7))
    (h : ctxOk (ctxCommit (s.ring (s.fld Reg.rqSel 13 0)).ctx (s.rqWords (s.fld Reg.rqSel 13 0) v)) (s.ringFn (s.fld Reg.rqSel 13 0)) = false) :
    exec (.rqCtx7Commit v) s = .next { s.setFlag Reg.rqSel 31 true with rqStaged := [] } := by
  rw [exec_rqCtx7Commit v hr, State.rqCommit_eq, State.commitRing_refused h]
  rfl

theorem exec_rqCtx7Commit_ok {s : State} {v : Word} (hr : s.PfReaches (Reg.rqCtx 7))
    (h : ctxOk (ctxCommit (s.ring (s.fld Reg.rqSel 13 0)).ctx (s.rqWords (s.fld Reg.rqSel 13 0) v)) (s.ringFn (s.fld Reg.rqSel 13 0)) = true) :
    exec (.rqCtx7Commit v) s = .next { s.setRing (s.fld Reg.rqSel 13 0)
      (ringCommit (s.ring (s.fld Reg.rqSel 13 0)) (s.rqWords (s.fld Reg.rqSel 13 0) v)) with rqStaged := [] } := by
  rw [exec_rqCtx7Commit v hr, State.rqCommit_eq, State.commitRing_ok h]
  rfl

theorem State.Canonical.ordRings {s : State} (h : s.Canonical) : Ordered s.rings := by
  obtain ⟨-, hrings, -⟩ := h.tabs
  exact hrings

/-! ### The obligation -/

/-- Settles O33, by the two outcomes of `commitRing`: the context in range, and out of range. -/
theorem ringContextsCommit : Obligations.RingContextsCommit := by
  intro s v hc
  refine ⟨fun hr => ?_, fun k hr => exec_rqCtxStage k v hr, fun hr => ⟨fun hok => ?_, fun hbad => exec_rqCtx7Commit_refused hr hbad⟩⟩
  · have hreg : (s.rqSelWrite v).reg Reg.rqSel = setBits (v &&& 0x3FFF) 31 31 (boolNat (s.flag Reg.rqSel 31 && !bitOf v 31)) :=
      s.reg_setReg_same _ _ hc.rising
    refine ⟨_, exec_rqSelWrite v hr, rfl, ?_, ?_, rfl, fun off hoff => s.reg_setReg_other _ _ _ (by simpa using hoff)⟩
    · rw [State.fld, hreg, bitsOf_setBits_other _ _ _ _ _ _ (by decide) (by decide), bitsOf_and_of_covered _ _ (by decide)]
    · rw [State.flag, hreg, bitOf_setFlag_same _ _ _ (by decide)]
  · have ht := s.ring_setRing_same (s.fld Reg.rqSel 13 0) (ringCommit (s.ring (s.fld Reg.rqSel 13 0)) (s.rqWords (s.fld Reg.rqSel 13 0) v)) hc.ordRings
    have hctx := (congrArg Ring.ctx ht).trans (ringCommit_ctx _ _)
    refine ⟨_, exec_rqCtx7Commit_ok hr hok, hctx, fun hdis => ?_, fun hdis hen => ?_, fun hen => ⟨?_, fun k hk => ?_⟩, fun q hq => ?_, rfl⟩
    · obtain ⟨hlow, h6, h7⟩ := ctxClear_words (s.rqWords_length (s.fld Reg.rqSel 13 0) v)
      rw [ctxCommit_disabled hdis] at hctx
      rw [listAt_rqWords_seven] at h7
      refine ⟨fun k hk => (congrArg (listAt 0 · k) hctx).trans (hlow k hk), fun i hi => ?_, fun i hi => ?_⟩
      · exact (congrArg (bitOf · i) ((congrArg (listAt 0 · 6) hctx).trans h6)).trans (bitOf_ctxMask6 _ i hi)
      · have e7 := (congrArg (listAt 0 · 7) hctx).trans h7
        exact e7 ▸ bitOf_ctxMask7 v i hi
    · have hstart := ringCommit_enables hdis (ht ▸ hen)
      rw [← ht] at hstart
      exact hstart
    · exact ht.trans ((ringCommit_enabled hen _).trans (by rw [← hctx]; rfl))
    · exact (congrArg (listAt 0 · k) hctx).trans (ctxCommit_enabled hen _ hk)
    · exact s.ring_setRing_other _ _ _ hq

/-! ### Messages of a ring (R239, R323) -/

theorem State.msixDue_ready {s : State} {f vec : Nat} (h : s.msixReady f vec = true) :
    s.msixDue f vec = { s with outs := { s.outs with msix := (f, vec) :: s.outs.msix } } := if_pos h

theorem State.msixDue_pending {s : State} {f vec : Nat} (h : s.msixReady f vec = false) :
    s.msixDue f vec = s.setFunc f { s.func f with pba := insertSorted vec (s.func f).pba } := if_neg (Bool.eq_false_iff.mp h)

/-- Whether it is sent or becomes pending, a message leaves the rings. -/
theorem State.rings_msixDue (s : State) (f vec : Nat) : (s.msixDue f vec).rings = s.rings := by
  cases h : s.msixReady f vec
  · rw [State.msixDue_pending h]
    rfl
  · rw [State.msixDue_ready h]

/-- A message of a state that differs from s in its rings changes the outputs and the pending bits of s beside them. -/
theorem State.msixDue_frame {s u : State} (hu : u = { s with rings := u.rings }) (f vec : Nat) :
    u.msixDue f vec = { s with rings := (u.msixDue f vec).rings, outs := (u.msixDue f vec).outs, pcie := (u.msixDue f vec).pcie } := by
  rw [hu]
  cases h : State.msixReady { s with rings := u.rings } f vec
  · rw [State.msixDue_pending h]
    rfl
  · rw [State.msixDue_ready h]

/-! ### Doorbells (R231, R232, R315) -/

theorem State.doorWrite_ring {s : State} {d : Door} {r fn off : Nat} (hd : s.doorRing d = (some r, fn, off)) (ha : s.fnAnswers fn = true)
    (f : State → Nat → Nat → State) : s.doorWrite d f = f s r off := by
  simp only [State.doorWrite, hd, if_pos ha]

theorem State.doorWrite_none {s : State} {d : Door} {off : Nat} (hd : s.doorRing d = (none, 0, off)) (ha : s.fnAnswers 0 = true)
    (f : State → Nat → Nat → State) : s.doorWrite d f = s.ignoredWrite 0x06 off := by
  simp only [State.doorWrite, hd, ha, and_self, if_true]
  rfl

section
variable {s : State} {d : Door} {r fn off : Nat} (hd : s.doorRing d = (some r, fn, off)) (ha : s.fnAnswers fn = true)
include hd ha

theorem exec_sqTailDoorbell (v : Word) : exec (.sqTailDoorbell d v) s = .next (s.sqTail v r off) :=
  congrArg Host.Outcome.next (State.doorWrite_ring hd ha _)

theorem exec_cqHeadDoorbell (v : Word) : exec (.cqHeadDoorbell d v) s = .next (s.cqHead v r off) :=
  congrArg Host.Outcome.next (State.doorWrite_ring hd ha _)

theorem exec_irqArm (v : Word) : exec (.irqArm d v) s = .next (s.irqArmRing v r off) :=
  congrArg Host.Outcome.next (State.doorWrite_ring hd ha _)

end

/-- An arming that finds counted completions sends the ring's message, in the state in which the ring is armed. -/
theorem State.irqArmRing_counted {s : State} {v : Word} {r : Nat} (off : Nat) (hv : bitOf v 0 = true) (hc : 0 < (s.ring r).counted) :
    s.irqArmRing v r off = (s.setRing r { s.ring r with armed := true }).ringMessage r := by
  simp only [State.irqArmRing, hv, if_true, if_pos hc]

theorem State.irqArmRing_uncounted {s : State} {v : Word} {r : Nat} (off : Nat) (hv : bitOf v 0 = true) (hc : (s.ring r).counted = 0) :
    s.irqArmRing v r off = s.setRing r { s.ring r with armed := true } := by
  simp [State.irqArmRing, hv, hc]

theorem State.ringMessage_armed (s : State) (r : Nat) (h : Ordered s.rings) :
    (s.setRing r { s.ring r with armed := true }).ringMessage r =
      ((s.setRing r { s.ring r with armed := true }).setRing r { s.ring r with armed := false, counted := 0 }).msixDue (s.ringFn r)
        (s.ring r).vec := by
  rw [State.ringMessage, State.ring_setRing_same _ _ _ h]
  rfl

/-- The doorbell block at an offset of PF BAR2 is that of the ring there. -/
theorem pfDoor_block (r : RingIx) {k : Nat} (hk : k < 0x40) : pfDoor (r.val / 64 * 0x1000 + r.val % 64 * 0x40 + k) = .pf r := by
  have hr := r.isLt
  have e : (r.val / 64 * 0x1000 + r.val % 64 * 0x40 + k) / 0x1000 * 64 + (r.val / 64 * 0x1000 + r.val % 64 * 0x40 + k) % 0x1000 / 0x40 = r.val := by
    omega
  rw [pfDoor, e]
  exact congrArg Door.pf (Fin.ext (Nat.mod_eq_of_lt hr))

theorem block_offset (r : RingIx) {k : Nat} (hk : k < 0x40) :
    r.val / 64 * 0x1000 + r.val % 64 * 0x40 + k < 0x100000 ∧ (r.val / 64 * 0x1000 + r.val % 64 * 0x40 + k) % 0x40 = k := by
  have hr := r.isLt
  omega

theorem State.writeBar_doorbells (s : State) (r : RingIx) {k : Nat} (hk : k < 0x40) (v : Word) :
    s.writeBar .doorbells (r.val / 64 * 0x1000 + r.val % 64 * 0x40 + k) v = s.writeDoor (.pf r) k v := by
  obtain ⟨hlt, hmod⟩ := block_offset r hk
  rw [State.writeBar, if_pos hlt, pfDoor_block r hk, hmod]

theorem State.readBar_doorbells (s : State) (r : RingIx) {k : Nat} (hk : k < 0x40) :
    s.readBar .doorbells (r.val / 64 * 0x1000 + r.val % 64 * 0x40 + k) 0 4 = ((s.doorRead (.pf r) k).toNat, s) := by
  obtain ⟨hlt, hmod⟩ := block_offset r hk
  have hw : (s.doorRead (.pf r) k).toNat / 2 ^ (8 * 0) % 2 ^ (8 * 4) = (s.doorRead (.pf r) k).toNat := by
    rw [Nat.mul_zero, Nat.pow_zero, Nat.div_one]
    exact Nat.mod_eq_of_lt (s.doorRead (.pf r) k).isLt
  simp only [State.readBar, if_pos hlt, pfDoor_block r hk, hmod, hw]

theorem State.doorRead_ring {s : State} {d : Door} {q fn o : Nat} (hd : s.doorRing d = (some q, fn, o)) (ha : s.fnAnswers fn = true) :
    s.doorRead d 0 = (s.ring q).sqHead ∧ s.doorRead d 4 = 0 ∧ s.doorRead d 8 = BitVec.ofNat 32 (boolNat (s.ring q).armed) := by
  refine ⟨?_, ?_, ?_⟩ <;> simp only [State.doorRead, hd, if_pos ha]

/-- A 32-bit read of a doorbell word answers what the block presents. -/
theorem exec_rcRegisterRead_doorbells {s : State} (r : RingIx) {k : Nat} (h4 : k % 4 = 0) (hk : k < 0x40) (ha : s.pfAnswers = true) :
    exec (.rcRegisterRead .doorbells (r.val / 64 * 0x1000 + r.val % 64 * 0x40 + k) .b32) s =
      .next { s with outs := { s.outs with busData := (s.doorRead (.pf r) k).setWidth 64 } } := by
  have hal : (r.val / 64 * 0x1000 + r.val % 64 * 0x40 + k) % 4 = 0 := by omega
  have hparts : accessParts (r.val / 64 * 0x1000 + r.val % 64 * 0x40 + k) .b32 = [(r.val / 64 * 0x1000 + r.val % 64 * 0x40 + k, 4)] := if_pos hal
  have hbar : s.readBar .doorbells ((r.val / 64 * 0x1000 + r.val % 64 * 0x40 + k) / 4 * 4) ((r.val / 64 * 0x1000 + r.val % 64 * 0x40 + k) % 4) 4 =
      ((s.doorRead (.pf r) k).toNat, s) := by
    rw [hal, Nat.div_mul_cancel (Nat.dvd_of_mod_eq_zero hal), s.readBar_doorbells r hk]
  rw [exec_rcRegisterRead_one s .doorbells _ 4 _ .b32 s ha hparts hbar, BitVec.ofNat_toNat]

/-- Settles O34, doorbell by doorbell: what each does with a ring behind it, without one, and as an access to PF BAR2. -/
theorem doorbellsAndInterrupts : Obligations.DoorbellsAndInterrupts := by
  refine ⟨fun s d v r fn off hd ha => ?_, fun s d v off c hd ha hc => ?_, fun s r v k c => ⟨fun hc => ?_, fun q fn o hp hd ha hv => ?_⟩⟩
  · rw [exec_sqTailDoorbell hd ha, exec_cqHeadDoorbell hd ha, exec_irqArm hd ha]
    refine ⟨fun hle hback => ?_, fun hbad => ?_, fun hle => ?_, fun hlt => ?_, fun hv => ?_, fun hv hc => ?_, fun hcan hv hc => ?_,
      fun r' hr' harm hc hmod => ?_, State.msixDue_ready (s := s.setRing r _), State.msixDue_pending (s := s.setRing r _)⟩
    · exact congrArg Host.Outcome.next (if_neg (by omega))
    · exact congrArg Host.Outcome.next (if_pos hbad)
    · exact congrArg Host.Outcome.next (if_neg (by omega))
    · exact congrArg Host.Outcome.next (if_pos hlt)
    · exact congrArg Host.Outcome.next (if_neg (Bool.eq_false_iff.mp hv))
    · exact congrArg Host.Outcome.next (State.irqArmRing_uncounted off hv hc)
    · have hord : Ordered (s.setRing r { s.ring r with armed := true }).rings := sparseSet_rising _ _ _ _ hcan.ordRings
      have e := (State.irqArmRing_counted off hv hc).trans (s.ringMessage_armed r hcan.ordRings)
      have hring := fun q => State.ring_congr (State.rings_msixDue ((s.setRing r { s.ring r with armed := true }).setRing r
        { s.ring r with armed := false, counted := 0 }) (s.ringFn r) (s.ring r).vec) q
      have hsame := (hring r).trans (State.ring_setRing_same _ _ _ hord)
      refine ⟨_, congrArg Host.Outcome.next e, congrArg Ring.armed hsame, congrArg Ring.counted hsame, fun q hq => ?_, fun hr => ?_, ?_⟩
      · exact (hring q).trans ((State.ring_setRing_other _ _ _ _ hq).trans (State.ring_setRing_other _ _ _ _ hq))
      · exact congrArg (fun t : State => t.outs.msix) (State.msixDue_ready (s := (s.setRing r _).setRing r _) hr)
      · exact State.msixDue_frame (s := s) (u := (s.setRing r _).setRing r _) rfl _ _
    · subst hr'
      exact congrArg Host.Outcome.next (if_pos ⟨harm, hc, hmod⟩)
  · simp only [List.mem_cons, List.not_mem_nil, or_false] at hc
    rcases hc with rfl | rfl | rfl <;> exact congrArg Host.Outcome.next (State.doorWrite_none hd ha _)
  · have hk : k % 4 = 0 ∧ k < 0x40 := by
      simp only [List.mem_cons, List.not_mem_nil, or_false, Prod.mk.injEq] at hc
      omega
    have hv : (v.setWidth 64).setWidth 32 = v := by simp
    rw [exec_registerWrite_b32 _ _ _ _ (by omega), s.writeBar_doorbells r hk.2, hv]
    simp only [List.mem_cons, List.not_mem_nil, or_false, Prod.mk.injEq] at hc
    rcases hc with ⟨rfl, rfl⟩ | ⟨rfl, rfl⟩ | ⟨rfl, rfl⟩ <;> rfl
  · have hread := State.doorRead_ring hd ha
    simp only [List.mem_cons, List.not_mem_nil, or_false, Prod.mk.injEq] at hv
    rw [exec_rcRegisterRead_doorbells r (by omega) (by omega) hp]
    rcases hv with ⟨rfl, rfl⟩ | ⟨rfl, rfl⟩ | ⟨rfl, rfl⟩
    · rw [hread.1]
    · rw [hread.2.1]
    · rw [hread.2.2]

end Sys2Proof.Machine

/-!
PROOF. The PF's DRAM window (R316, R317) and the channels of DRAM (R294): a write of no bytes.
-/

namespace Sys2Proof.Machine

/-! ### A write of no bytes -/

/-- A WAIT with a waiter entry at address 0, whose condition holds there. -/
def windowWaiter : Rmo where
  id := 0
  issuer := .lantern 0
  part := 0
  kind := .wait
  req := { a := 0, b := 0 }
  da := 0
  db := 0
  done := false
  status := .ok
  old := 0
  entry := true
  desc := none
  detail := 0

/-- 256 MiB of DRAM behind an enabled and writable window of the PF, with that WAIT pending. -/
def windowWait : State :=
  { (((State.reset.setReg Reg.dramStatus 1).setReg (Reg.mcCtrl 0) 1).setReg Reg.peStatus 0x80000000).setReg Reg.peBar4 0x60000000 with
    rmos := [windowWaiter] }

/-- The window takes a write at offset 4. -/
theorem windowWait_open : windowWait.bar4Hit 4 0 = true ∧ (windowWait.func 0).flr = false ∧ windowWait.flag Reg.peBar4 30 = true ∧
    mib2 * windowWait.fld Reg.peBar4 26 0 + 4 ≤ windowWait.usableTop ∧ windowWait.flag Reg.peBar4 29 = true ∧
    windowWait.rangeStatus (mib2 * windowWait.fld Reg.peBar4 26 0 + 4) 0 = .ok ∧ windowWait.poison = [] := by decide

/-- A store of no bytes inside the word of the WAIT tests it again; a write of no sub-block does nothing. -/
theorem windowWait_retested :
    (windowWait.store (mib2 * windowWait.fld Reg.peBar4 26 0 + 4) []).rmos.map Rmo.done = [true] ∧
    (windowWait.storeUnits 0 (mib2 * windowWait.fld Reg.peBar4 26 0 + 4) []).rmos.map Rmo.done = [false] := by decide

/-- Refutes O43, by its clause on writes of the window: with no poison it asks that the write by sub-blocks be one store, of any list of
bytes. A write of no bytes, which no bus carries (log entry 1), has no sub-block and does nothing, while the store of no bytes inside a word
still tests the WAIT of that word. -/
theorem not_dramWindowAndConfiguration : ¬ Obligations.DramWindowAndConfiguration := by
  unfold Obligations.DramWindowAndConfiguration
  rintro ⟨-, hwrite, -⟩
  obtain ⟨hhit, hflr, hen, htop, hwe, hok, hclean⟩ := windowWait_open
  obtain ⟨-, hopen⟩ := hwrite windowWait 4 []
  obtain ⟨htaken, -⟩ := hopen hhit hflr
  obtain ⟨-, hsame⟩ := htaken ⟨hen, htop⟩ hwe hok
  obtain ⟨hstore, hunits⟩ := windowWait_retested
  have hdone : [false] = [true] := hunits.symm.trans ((congrArg (fun t : State => t.rmos.map Rmo.done) (hsame hclean)).trans hstore)
  exact absurd hdone (by decide)

/-- A write of no bytes at address 4. -/
def emptyWrite : DramReq where
  id := 0
  cls := 0
  issuer := 0
  write := true
  da := 4
  bytes := []

/-- Channel 0 of controller 0 takes that write: it is enabled, and nothing waits there. -/
theorem windowWait_idle : windowWait.flag (Reg.mcCtrl 0) 0 = true ∧ (∀ k < 4, (windowWait.chan 0 k).gasket = []) ∧
    emptyWrite.da + emptyWrite.bytes.length ≤ windowWait.usableTop ∧ (windowWait.chan 0 0).wq.length < 64 ∧
    windowWait.heldBack 0 0 ⟨emptyWrite, windowWait.nowNs, windowWait.dram.nextSeq⟩ = false := by decide

/-- Refutes O41, by its clause on the write that arrives, in the same way: a request of no bytes has no sub-block to write, while a store of
no bytes inside the word of a WAIT tests it again. -/
theorem not_dramChannelsAndMargins : ¬ Obligations.DramChannelsAndMargins := by
  unfold Obligations.DramChannelsAndMargins
  rintro ⟨⟨hslot, -⟩, -⟩
  obtain ⟨hon, hgasket, htop, hroom, hfree⟩ := windowWait_idle
  obtain ⟨-, -, -, hwrite⟩ := hslot windowWait 0 0 hon (hgasket 0 (by decide))
  obtain ⟨-, -, -, hsame⟩ := hwrite emptyWrite rfl htop hroom hgasket hfree
  obtain ⟨hstore, hunits⟩ := windowWait_retested
  have hdone : [false] = [true] := hunits.symm.trans ((congrArg (fun t : State => t.rmos.map Rmo.done) (hsame rfl)).trans hstore)
  exact absurd hdone (by decide)

end Sys2Proof.Machine

/-!
PROOF. Soot: the queue of events, the records and their latch (R395-R399, R403).
-/

namespace Sys2Proof.Machine

/-! ### The CRC of a record fits its field -/

theorem crcReflSteps_lt {poly b : Nat} (hp : poly < 2 ^ b) (n : Nat) {c : Nat} (hc : c < 2 ^ b) : crcReflSteps poly n c < 2 ^ b := by
  induction n generalizing c with
  | zero => exact hc
  | succ n ih =>
    have hhalf : c / 2 < 2 ^ b := by omega
    refine ih ?_
    split
    · exact Nat.xor_lt_two_pow hhalf hp
    · exact hhalf

theorem crc32c_lt (bs : List Byte) : crc32c bs < 2 ^ 32 := by
  have hfold : ∀ (l : List Byte) (c : Nat), c < 2 ^ 32 → l.foldl (fun c b => crcReflSteps 0x82F63B78 8 (c ^^^ b.toNat)) c < 2 ^ 32 := by
    intro l
    induction l with
    | nil => exact fun c hc => hc
    | cons b l ih =>
      refine fun c hc => ih _ (crcReflSteps_lt (by decide) 8 (Nat.xor_lt_two_pow hc ?_))
      exact Nat.lt_trans b.isLt (by decide)
  exact Nat.xor_lt_two_pow (hfold bs _ (by decide)) (by decide)

/-! ### The bytes of a record (R395) -/

theorem fieldAt_append_right {l m : List Byte} {off : Nat} (h : l.length = off) (n : Nat) : fieldAt (l ++ m) off n = leNat (m.take n) := by
  rw [fieldAt, ← h, List.drop_left]

theorem sootBody_length (seq : Word) (e : SootEvent) : (sootBody seq e).length = 60 := by
  simp [sootBody, length_leBytes, wordsBytes_length]

/-- A record is its body of 60 bytes and the CRC of that. -/
theorem sootRecord_bytes (seq : Word) (e : SootEvent) : (sootRecord seq e).length = 64 ∧ fieldAt (sootRecord seq e) 8 4 = seq.toNat ∧
    fieldAt (sootRecord seq e) 60 4 = crc32c ((sootRecord seq e).take 60) := by
  have hbody := sootBody_length seq e
  refine ⟨by rw [sootRecord, List.length_append, hbody, length_leBytes], ?_, ?_⟩
  · have hsplit : ∃ m, sootRecord seq e = (leBytes 4 e.ns ++ leBytes 4 e.sec) ++ (leBytes 4 seq.toNat ++ m) :=
      ⟨_, by
        simp only [sootRecord, sootBody, List.append_assoc]
        rfl⟩
    obtain ⟨m, hm⟩ := hsplit
    rw [hm, fieldAt_append_right (by simp [length_leBytes]), List.take_append_of_le_length (by simp [length_leBytes]),
      List.take_of_length_le (by simp [length_leBytes]), leNat_leBytes]
    exact Nat.mod_eq_of_lt seq.isLt
  · have htake : (sootRecord seq e).take 60 = sootBody seq e := by rw [sootRecord, ← hbody, List.take_left]
    rw [htake, sootRecord, fieldAt_append_right hbody, List.take_of_length_le (by simp [length_leBytes]), leNat_leBytes]
    exact Nat.mod_eq_of_lt (crc32c_lt _)

/-! ### An event reaches Soot (R397-R399) -/

section
variable {s : State} {code : Nat} {arg : Dword} {part : Option Nat}

theorem State.sootEvent_disabled (h : s.flag Reg.sootCtrl 0 = false) :
    s.sootEvent code arg part = ({ s with soot := { s.soot with trigs := sootFire s.soot.trigs code } } : State).bump Reg.sootDrop 15 0 1 := if_pos h

theorem State.sootEvent_full (hen : s.flag Reg.sootCtrl 0 = true) (hrate : bitsOf (s.sootRate code) 15 0 = 0xFFFF)
    (hfull : 64 ≤ s.soot.queue.length) :
    s.sootEvent code arg part = ({ s with soot := { s.soot with trigs := sootFire s.soot.trigs code } } : State).bump Reg.sootDrop 31 16 1 := by
  have hen' : ¬ s.flag Reg.sootCtrl 0 = false := by simp [hen]
  have hrate' : ¬ (bitsOf (s.sootRate code) 15 0 ≠ 0xFFFF ∧ (bitsOf (s.sootRate code) 15 0 = 0 ∨ s.sootTokens code < 1000000000)) := fun h => h.1 hrate
  rw [State.sootEvent]
  simp only [if_neg hen', if_neg hrate', if_pos hfull]

theorem State.sootEvent_queued (hen : s.flag Reg.sootCtrl 0 = true) (hrate : bitsOf (s.sootRate code) 15 0 = 0xFFFF)
    (hroom : s.soot.queue.length < 64) (hclk : s.fabric.refclk = true) : ∃ e : SootEvent,
    (s.sootEvent code arg part).soot.queue = s.soot.queue ++ [e] ∧ e.code = code ∧ e.arg = arg ∧ e.part = part ∧ e.sec = s.tb.sec ∧
      e.ns = s.tbNs ∧ e.frozen = false ∧ (s.sootEvent code arg part).regs = s.regs := by
  have hen' : ¬ s.flag Reg.sootCtrl 0 = false := by simp [hen]
  have hrate' : ¬ (bitsOf (s.sootRate code) 15 0 ≠ 0xFFFF ∧ (bitsOf (s.sootRate code) 15 0 = 0 ∨ s.sootTokens code < 1000000000)) := fun h => h.1 hrate
  have hroom' : ¬ 64 ≤ s.soot.queue.length := by omega
  rw [State.sootEvent]
  simp only [if_neg hen', if_neg hrate', if_neg hroom', if_pos hclk]
  exact ⟨_, rfl, rfl, rfl, rfl, rfl, rfl, by rw [hclk]; rfl, trivial⟩

end

/-! ### Records (R395, R397, R399, R403) -/

/-- Settles O57: each outcome of an event, of a record write, and the latch. -/
theorem sootQueuesAndRecords : Obligations.SootQueuesAndRecords := by
  refine ⟨fun s code arg part => ⟨State.sootEvent_disabled, fun hen hrate => ⟨State.sootEvent_full hen hrate, State.sootEvent_queued hen hrate⟩⟩,
    fun s e l hq => ⟨fun ht => ?_, fun k ht => ⟨fun honce => ?_, fun honce => ?_⟩, sootRecord_bytes _ e⟩, fun s hq => ?_, fun s hr => ?_⟩
  · simp only [exec, execSootRecordWrite, hq, ht]
  · simp only [exec, execSootRecordWrite, hq, ht, honce, Bool.false_eq_true, if_false]
  · simp only [exec, execSootRecordWrite, hq, ht, honce, if_true]
  · simp only [exec, execSootRecordWrite, hq]
  · exact congrArg Host.Outcome.next (State.pfRead_of_reaches hr _)

end Sys2Proof.Machine

/-!
PROOF. Module cages: what CG_STATUS reports, and what happens when the power of a cage goes (R402, R405, R406, R415).
-/

namespace Sys2Proof.Machine

/-! ### Words -/

theorem word_ext {w v : Word} (h : ∀ i < 32, bitOf w i = bitOf v i) : w = v :=
  BitVec.eq_of_getLsbD_eq fun i hi => by simpa [bitOf, BitVec.testBit_toNat] using h i hi

/-- Clearing a bit that is clear changes nothing. -/
theorem setBits_clear {w : Word} {i : Nat} (hi : i < 32) (h : bitOf w i = false) : setBits w i i (boolNat false) = w := by
  refine word_ext fun j hj => ?_
  by_cases hji : j = i
  · rw [hji, bitOf_setFlag_same _ _ _ hi, h]
  · exact bitOf_setBits_other _ _ _ _ _ hi (by omega)

/-! ### A message of the PF leaves the registers and the peripherals -/

theorem State.regs_msixDue (s : State) (f vec : Nat) : (s.msixDue f vec).regs = s.regs := by
  cases h : s.msixReady f vec
  · rw [State.msixDue_pending h]
    rfl
  · rw [State.msixDue_ready h]

theorem State.periph_msixDue (s : State) (f vec : Nat) : (s.msixDue f vec).periph = s.periph := by
  cases h : s.msixReady f vec
  · rw [State.msixDue_pending h]
    rfl
  · rw [State.msixDue_ready h]

/-! ### A bit of CG_STATUS is set (R406) -/

section
variable (s : State) (c bit : Nat)

theorem State.reg_cageSet {o : Nat} (h : o ≠ Reg.sootDrop) : (s.cageSet c bit).reg o = (s.setFlag (Reg.cgStatus c) bit true).reg o := by
  simp only [State.cageSet]
  rw [State.reg_sootEvent _ _ _ _ _ h]
  split
  · exact State.reg_congr (State.regs_msixDue _ _ _) o
  · rfl

theorem State.periph_cageSet : (s.cageSet c bit).periph = s.periph := by
  simp only [State.cageSet, State.sootEvent_periph]
  split
  · exact State.periph_msixDue _ _ _
  · rfl

theorem cgStatus_ne_sootDrop : Reg.cgStatus c ≠ Reg.sootDrop := by
  simp only [Reg.cgStatus, Reg.sootDrop]
  omega

theorem cgCtrl_ne_sootDrop : Reg.cgCtrl c ≠ Reg.sootDrop := by
  simp only [Reg.cgCtrl, Reg.sootDrop]
  omega

theorem cgCtrl_ne_cgStatus : Reg.cgCtrl c ≠ Reg.cgStatus c := by
  simp only [Reg.cgCtrl, Reg.cgStatus]
  omega

theorem State.reg_cageSet_other {o : Nat} (h : o ≠ Reg.cgStatus c) (h' : o ≠ Reg.sootDrop) : (s.cageSet c bit).reg o = s.reg o :=
  (s.reg_cageSet c bit h').trans (s.reg_setFlag_other _ _ _ _ h)

theorem State.flag_cageSet_ctrl (i : Nat) : (s.cageSet c bit).flag (Reg.cgCtrl c) i = s.flag (Reg.cgCtrl c) i :=
  congrArg (bitOf · i) (s.reg_cageSet_other c bit (cgCtrl_ne_cgStatus c) (cgCtrl_ne_sootDrop c))

theorem State.flag_cageSet {s : State} {c bit : Nat} (hr : Rising s.regs) (hb : bit < 32) :
    (s.cageSet c bit).flag (Reg.cgStatus c) bit = true ∧ ∀ k, k ≠ bit → (s.cageSet c bit).flag (Reg.cgStatus c) k = s.flag (Reg.cgStatus c) k := by
  have hreg := s.reg_cageSet c bit (cgStatus_ne_sootDrop c)
  exact ⟨(congrArg (bitOf · bit) hreg).trans (s.flag_setFlag_same _ _ _ hr hb),
    fun k hk => (congrArg (bitOf · k) hreg).trans (s.flag_setFlag_other _ hr hb hk)⟩

/-- Without IRQ_EN no message is due. -/
theorem State.cageSet_quiet (h : s.flag (Reg.cgCtrl c) 15 = false) : (s.cageSet c bit).outs = s.outs ∧ (s.cageSet c bit).pcie = s.pcie := by
  have h' : (s.setFlag (Reg.cgStatus c) bit true).flag (Reg.cgCtrl c) 15 = false :=
    (congrArg (bitOf · 15) (s.reg_setFlag_other _ _ _ _ (cgCtrl_ne_cgStatus c))).trans h
  simp only [State.cageSet, h', State.sootEvent_outs, State.sootEvent_pcie, Bool.false_eq_true, if_false]
  exact ⟨rfl, rfl⟩

/-- With IRQ_EN the vector of the cage is sent when its conditions hold. -/
theorem State.cageSet_message (h : s.flag (Reg.cgCtrl c) 15 = true) (hready : s.msixReady 0 (s.fld (Reg.cgCtrl c) 26 16) = true) :
    (s.cageSet c bit).outs.msix = (0, s.fld (Reg.cgCtrl c) 26 16) :: s.outs.msix := by
  have hreg := s.reg_setFlag_other (Reg.cgStatus c) bit (Reg.cgCtrl c) true (cgCtrl_ne_cgStatus c)
  have h' : (s.setFlag (Reg.cgStatus c) bit true).flag (Reg.cgCtrl c) 15 = true := (congrArg (bitOf · 15) hreg).trans h
  have hvec : (s.setFlag (Reg.cgStatus c) bit true).fld (Reg.cgCtrl c) 26 16 = s.fld (Reg.cgCtrl c) 26 16 := congrArg (bitsOf · 26 16) hreg
  simp only [State.cageSet, h', if_true, State.sootEvent_outs, hvec]
  exact congrArg (fun t : State => t.outs.msix) (State.msixDue_ready (s := s.setFlag _ _ _) hready)

end

/-! ### The power of a cage goes (R406, R415) -/

theorem State.i2cOver_frame (s : State) (nack err : Bool) :
    s.i2cOver nack err = { s with regs := (s.i2cOver nack err).regs, periph := { s.periph with i2c := none } } := by
  cases nack <;> cases err <;> rfl

theorem State.reg_i2cOver_other (s : State) (nack err : Bool) {o : Nat} (h : o ≠ Reg.i2c0Xfer) : (s.i2cOver nack err).reg o = s.reg o := by
  cases nack <;> cases err <;> simp only [State.i2cOver, Bool.false_eq_true, if_false, if_true, State.reg_setFlag_other _ _ _ _ _ h] <;> rfl

/-- The end of a transfer clears BUSY and sets what it reports. -/
theorem State.i2cOver_flags {s : State} (hr : Rising s.regs) (nack err : Bool) : (s.i2cOver nack err).flag Reg.i2c0Xfer 30 = false ∧
    (s.i2cOver nack err).flag Reg.i2c0Xfer 29 = (s.flag Reg.i2c0Xfer 29 || nack) ∧
    (s.i2cOver nack err).flag Reg.i2c0Xfer 28 = (s.flag Reg.i2c0Xfer 28 || err) := by
  let s2 := ({ s with periph := { s.periph with i2c := none } } : State).setFlag Reg.i2c0Xfer 30 false
  let s3 := if nack then s2.setFlag Reg.i2c0Xfer 29 true else s2
  have hr2 : Rising s2.regs := State.setFlag_rising _ _ _ _ hr
  have hr3 : Rising s3.regs := by
    unfold s3
    split
    · exact State.setFlag_rising _ _ _ _ hr2
    · exact hr2
  have h2 : s2.flag Reg.i2c0Xfer 30 = false := State.flag_setFlag_same _ _ _ _ hr (by decide)
  have hkept : ∀ i, i ≠ 30 → s2.flag Reg.i2c0Xfer i = s.flag Reg.i2c0Xfer i := fun i hi => State.flag_setFlag_other _ _ hr (by decide) hi
  have h3 : s3.flag Reg.i2c0Xfer 29 = (s2.flag Reg.i2c0Xfer 29 || nack) ∧ ∀ i, i ≠ 29 → s3.flag Reg.i2c0Xfer i = s2.flag Reg.i2c0Xfer i := by
    unfold s3
    cases nack
    · exact ⟨(Bool.or_false _).symm, fun _ _ => rfl⟩
    · exact ⟨(State.flag_setFlag_same _ _ _ _ hr2 (by decide)).trans (Bool.or_true _).symm, fun i hi => State.flag_setFlag_other _ _ hr2 (by decide) hi⟩
  have h4 : (s.i2cOver nack err).flag Reg.i2c0Xfer 28 = (s3.flag Reg.i2c0Xfer 28 || err) ∧
      ∀ i, i ≠ 28 → (s.i2cOver nack err).flag Reg.i2c0Xfer i = s3.flag Reg.i2c0Xfer i := by
    cases err
    · exact ⟨(Bool.or_false _).symm, fun _ _ => rfl⟩
    · exact ⟨(State.flag_setFlag_same _ _ _ _ hr3 (by decide)).trans (Bool.or_true _).symm, fun i hi => State.flag_setFlag_other _ _ hr3 (by decide) hi⟩
  refine ⟨?_, ?_, ?_⟩
  · rw [h4.2 30 (by decide), h3.2 30 (by decide), h2]
  · rw [h4.2 29 (by decide), h3.1, hkept 29 (by decide)]
  · rw [h4.1, h3.2 28 (by decide), hkept 28 (by decide)]

/-- The state in which the power of a cage is off, before a transfer to it ends. -/
def State.cageDark (s : State) (c : Nat) : State :=
  let s1 := (s.setFlag (Reg.cgCtrl c) 4 false).setFlag (Reg.cgStatus c) 6 false
  { s1 with periph := { s1.periph with cgReleased := listUpd s1.periph.cgReleased c fun _ => false } }

/-- A transfer of I2C master 0 to cage c is in progress. -/
def State.i2cTo (s : State) (c : Nat) : Bool := match s.periph.i2c with
  | some w => decide (boolNat (bitOf w 27) = c)
  | none => false

theorem State.cageOff_eq (s : State) (c : Nat) : s.cageOff c = if s.i2cTo c then (s.cageDark c).i2cOver false true else s.cageDark c := by
  have hi : (s.cageDark c).periph.i2c = s.periph.i2c := rfl
  have hoff : s.cageOff c = match (s.cageDark c).periph.i2c with
    | some w => if boolNat (bitOf w 27) = c then (s.cageDark c).i2cOver false true else s.cageDark c
    | none => s.cageDark c := rfl
  rw [hoff, hi, State.i2cTo]
  cases s.periph.i2c with
  | none => rfl
  | some w => simp only [decide_eq_true_eq]

section
variable (s : State) (c : Nat)

theorem State.reg_cageOff {o : Nat} (h : o ≠ Reg.i2c0Xfer) :
    (s.cageOff c).reg o = ((s.setFlag (Reg.cgCtrl c) 4 false).setFlag (Reg.cgStatus c) 6 false).reg o := by
  have hdark : (s.cageDark c).regs = ((s.setFlag (Reg.cgCtrl c) 4 false).setFlag (Reg.cgStatus c) 6 false).regs := rfl
  rw [State.cageOff_eq, ← State.reg_congr hdark]
  split
  · exact State.reg_i2cOver_other _ _ _ h
  · rfl

theorem State.reg_cageOff_other {o : Nat} (h : o ≠ Reg.i2c0Xfer) (h1 : o ≠ Reg.cgCtrl c) (h2 : o ≠ Reg.cgStatus c) :
    (s.cageOff c).reg o = s.reg o :=
  (s.reg_cageOff c h).trans ((State.reg_setFlag_other _ _ _ _ _ h2).trans (State.reg_setFlag_other _ _ _ _ _ h1))

theorem State.cgReleased_cageOff : (s.cageOff c).periph.cgReleased = listUpd s.periph.cgReleased c fun _ => false := by
  rw [State.cageOff_eq]
  split
  · rw [State.i2cOver_frame]
    rfl
  · rfl

theorem cgCtrl_ne_i2c0Xfer : Reg.cgCtrl c ≠ Reg.i2c0Xfer := by
  simp only [Reg.cgCtrl, Reg.i2c0Xfer]
  omega

theorem cgStatus_ne_i2c0Xfer : Reg.cgStatus c ≠ Reg.i2c0Xfer := by
  simp only [Reg.cgStatus, Reg.i2c0Xfer]
  omega

theorem State.flag_cageOff {s : State} (c : Nat) (hr : Rising s.regs) : (s.cageOff c).flag (Reg.cgCtrl c) 4 = false ∧
    (s.cageOff c).flag (Reg.cgStatus c) 6 = false ∧ ∀ k, k ≠ 6 → (s.cageOff c).flag (Reg.cgStatus c) k = s.flag (Reg.cgStatus c) k := by
  have hr1 := s.setFlag_rising (Reg.cgCtrl c) 4 false hr
  have hctrl := s.reg_cageOff c (cgCtrl_ne_i2c0Xfer c)
  have hstatus := s.reg_cageOff c (cgStatus_ne_i2c0Xfer c)
  refine ⟨(congrArg (bitOf · 4) hctrl).trans ?_, (congrArg (bitOf · 6) hstatus).trans (State.flag_setFlag_same _ _ _ _ hr1 (by decide)),
    fun k hk => (congrArg (bitOf · k) hstatus).trans ((State.flag_setFlag_other _ _ hr1 (by decide) hk).trans ?_)⟩
  · exact (congrArg (bitOf · 4) (State.reg_setFlag_other _ _ _ _ _ (cgCtrl_ne_cgStatus c))).trans (s.flag_setFlag_same _ _ _ hr (by decide))
  · exact congrArg (bitOf · k) (s.reg_setFlag_other _ _ _ _ (cgCtrl_ne_cgStatus c).symm)

end

/-- CGc_RESET_N is low where it is not released. -/
theorem State.cgResetN_low {s : State} {c : Nat} {l : List Bool} (hl : s.periph.cgReleased = listUpd l c fun _ => false) (hc : c < l.length) :
    s.cgResetN c = false := by
  rw [State.cgResetN, hl, listAt_listUpd_same _ _ _ _ hc, Bool.false_and]

/-- A cage without power and a port without links. -/
structure CageGone (t : State) (c : Nat) : Prop where
  pwrEn : t.flag (Reg.cgCtrl c) 4 = false
  pwrGood : t.flag (Reg.cgStatus c) 6 = false
  resetN : t.cgResetN c = false
  links : t.fld (Reg.ethPort c) 31 28 = 0

theorem State.Canonical.cage_lt {s : State} (h : s.Canonical) (c : EpIx) : c.val < s.periph.cgReleased.length := by
  obtain ⟨-, -, -, hlen⟩ := h.sizes
  rw [hlen]
  exact c.isLt

/-- The links of a port and the registers of its cage are apart. -/
theorem cage_ne_ethPort (c : Nat) (h : c < 2) : Reg.cgCtrl c ≠ Reg.ethPort c ∧ Reg.cgStatus c ≠ Reg.ethPort c ∧ Reg.ethPort c ≠ Reg.sootDrop ∧
    Reg.ethPort c ≠ Reg.i2c0Xfer := by
  simp only [Reg.cgCtrl, Reg.cgStatus, Reg.ethPort, Reg.sootDrop, Reg.i2c0Xfer]
  omega

section
variable {s : State} {c : EpIx} (hc : s.Canonical)
include hc

/-- With its links down as well, a cage that has lost its power is gone, and of its status only PWR_GOOD has changed. -/
theorem State.cageOff_linksDown : CageGone ((s.cageOff c).linksDown c) c ∧
    (∀ k, k ≠ 6 → ((s.cageOff c).linksDown c).flag (Reg.cgStatus c) k = s.flag (Reg.cgStatus c) k) ∧
    SameRegs s ((s.cageOff c).linksDown c) [Reg.cgStatus c, Reg.cgCtrl c, Reg.ethPort c, Reg.i2c0Xfer] := by
  obtain ⟨hctrl, hstatus, hport, -⟩ := cage_ne_ethPort c c.isLt
  obtain ⟨hen, hgood, hkept⟩ := State.flag_cageOff c.val hc.rising
  have hcan : (s.cageOff c).Canonical := (State.cageOff_kept _ (Kept.refl s)).canonical hc
  have hdown : ∀ {o}, o ≠ Reg.ethPort c → ((s.cageOff c).linksDown c).reg o = (s.cageOff c).reg o := fun h => State.reg_setFld_other _ _ _ _ _ _ h
  refine ⟨⟨(congrArg (bitOf · 4) (hdown hctrl)).trans hen, (congrArg (bitOf · 6) (hdown hstatus)).trans hgood,
    State.cgResetN_low (s.cgReleased_cageOff c) (hc.cage_lt c), ?_⟩, fun k hk => (congrArg (bitOf · k) (hdown hstatus)).trans (hkept k hk), fun o ho => ?_⟩
  · exact State.fld_setFld_same _ _ _ _ _ hcan.rising (by decide)
  · simp only [List.mem_cons, List.not_mem_nil, or_false, not_or] at ho
    obtain ⟨h1, h2, h3, h4⟩ := ho
    exact (hdown h3).trans (s.reg_cageOff_other c h4 h2 h1)

/-- A removal under AUTO_OFF. -/
theorem State.cageRemoved : let t := (((s.setFlag (Reg.cgStatus c) 7 false).cageSet c 0).cageOff c).linksDown c
    CageGone t c ∧ t.flag (Reg.cgStatus c) 7 = false ∧ t.flag (Reg.cgStatus c) 0 = true ∧
    SameRegs s t [Reg.cgStatus c, Reg.cgCtrl c, Reg.ethPort c, Reg.i2c0Xfer, Reg.sootDrop] := by
  have hk : Kept s ((s.setFlag (Reg.cgStatus c) 7 false).cageSet c 0) := State.cageSet_kept _ _ (State.setFlag_kept _ _ _ (Kept.refl s))
  obtain ⟨hgone, hstatus, hsame⟩ := State.cageOff_linksDown (c := c) (hk.canonical hc)
  obtain ⟨hset, hother⟩ := State.flag_cageSet (c := c) (bit := 0) (s.setFlag_rising (Reg.cgStatus c) 7 false hc.rising) (by decide)
  refine ⟨hgone, ?_, (hstatus 0 (by decide)).trans hset, fun o ho => ?_⟩
  · exact (hstatus 7 (by decide)).trans ((hother 7 (by decide)).trans (s.flag_setFlag_same _ _ _ hc.rising (by decide)))
  · simp only [List.mem_cons, List.not_mem_nil, or_false, not_or] at ho
    obtain ⟨h1, h2, h3, h4, h5⟩ := ho
    have h := hsame o (by simp only [List.mem_cons, List.not_mem_nil, or_false, not_or]; exact ⟨h1, h2, h3, h4⟩)
    exact h.trans ((State.reg_cageSet_other _ _ _ h1 h5).trans (s.reg_setFlag_other _ _ _ _ h1))

/-- A power fault, and a missing PWR_GOOD. -/
theorem State.cageFault_gone : CageGone (s.cageFault c) c ∧ (s.cageFault c).flag (Reg.cgStatus c) 2 = true ∧
    SameRegs s (s.cageFault c) [Reg.cgStatus c, Reg.cgCtrl c, Reg.ethPort c, Reg.i2c0Xfer, Reg.sootDrop] := by
  obtain ⟨hctrl, hstatus, hport, -⟩ := cage_ne_ethPort c c.isLt
  obtain ⟨hen, hgood, -⟩ := State.flag_cageOff c.val hc.rising
  have hcan : (s.cageOff c).Canonical := (State.cageOff_kept _ (Kept.refl s)).canonical hc
  have hcan' : ((s.cageOff c).cageSet c 2).Canonical := (State.cageSet_kept _ _ (Kept.refl _)).canonical hcan
  obtain ⟨hset, hother⟩ := State.flag_cageSet (c := c) (bit := 2) hcan.rising (by decide)
  have hdown : ∀ {o}, o ≠ Reg.ethPort c → (s.cageFault c).reg o = ((s.cageOff c).cageSet c 2).reg o := fun h => State.reg_setFld_other _ _ _ _ _ _ h
  refine ⟨⟨?_, (congrArg (bitOf · 6) (hdown hstatus)).trans ((hother 6 (by decide)).trans hgood), ?_, ?_⟩,
    (congrArg (bitOf · 2) (hdown hstatus)).trans hset, fun o ho => ?_⟩
  · exact (congrArg (bitOf · 4) (hdown hctrl)).trans ((State.flag_cageSet_ctrl _ _ _ _).trans hen)
  · have hrel : (s.cageFault c).periph.cgReleased = listUpd s.periph.cgReleased c fun _ => false :=
      (congrArg Periph.cgReleased (State.periph_cageSet _ _ _)).trans (s.cgReleased_cageOff c)
    exact State.cgResetN_low hrel (hc.cage_lt c)
  · exact State.fld_setFld_same _ _ _ _ _ hcan'.rising (by decide)
  · simp only [List.mem_cons, List.not_mem_nil, or_false, not_or] at ho
    obtain ⟨h1, h2, h3, h4, h5⟩ := ho
    exact (hdown h3).trans ((State.reg_cageSet_other _ _ _ h1 h5).trans (s.reg_cageOff_other c h4 h2 h1))

end

/-! ### CG_CTRL is written (R405, R406) -/

/-- The word that a write of CG_CTRL leaves: PWR_EN reads 0 without a module. -/
def State.cgCtrlWord (s : State) (c : Nat) (v : Word) : Word := (if s.flag (Reg.cgStatus c) 7 then v else setBits v 4 4 0) &&& 0x07FF8133

theorem State.cgCtrlWrite_eq (s : State) (c : Nat) (v : Word) : s.cgCtrlWrite c v =
    if bitOf (s.cgCtrlWord c v) 4 then s.setReg (Reg.cgCtrl c) (s.cgCtrlWord c v) else (s.setReg (Reg.cgCtrl c) (s.cgCtrlWord c v)).cageOff c := by
  have hmask : bitOf (s.cgCtrlWord c v) 4 = bitOf (if s.flag (Reg.cgStatus c) 7 then v else setBits v 4 4 0) 4 := by
    rw [State.cgCtrlWord, bitOf_and, show bitOf 0x07FF8133 4 = true by decide, Bool.and_true]
  rw [hmask]
  rfl

/-- Where PWR_EN stays 0 the power goes, and CG_CTRL keeps the word written. -/
theorem State.reg_cageOff_ctrl {s : State} {c : Nat} (hr : Rising s.regs) (h : bitOf (s.reg (Reg.cgCtrl c)) 4 = false) :
    (s.cageOff c).reg (Reg.cgCtrl c) = s.reg (Reg.cgCtrl c) := by
  rw [State.reg_cageOff _ _ (cgCtrl_ne_i2c0Xfer c)]
  refine (State.reg_setFlag_other _ _ _ _ _ (cgCtrl_ne_cgStatus c)).trans ?_
  exact (State.reg_setFld_same _ _ _ _ _ hr).trans (setBits_clear (by decide) h)

/-- A transfer of I2C master 0 to the cage ends with ERR. -/
theorem State.cageOff_transfer {s : State} {c : Nat} {x : Word} (hr : Rising s.regs) (hx : s.periph.i2c = some x) (hto : boolNat (bitOf x 27) = c) :
    (s.cageOff c).flag Reg.i2c0Xfer 28 = true ∧ (s.cageOff c).flag Reg.i2c0Xfer 30 = false ∧ (s.cageOff c).periph.i2c = none := by
  have hdark : Rising (s.cageDark c).regs := State.setFlag_rising _ _ _ _ (State.setFlag_rising _ _ _ _ hr)
  have hi : s.i2cTo c = true := by simp only [State.i2cTo, hx, hto, decide_true]
  have e : s.cageOff c = (s.cageDark c).i2cOver false true := (s.cageOff_eq c).trans (if_pos hi)
  obtain ⟨hbusy, -, herr⟩ := State.i2cOver_flags hdark false true
  rw [e]
  refine ⟨herr.trans (Bool.or_true _), hbusy, ?_⟩
  rw [State.i2cOver_frame]

/-! ### The obligation -/

/-- Settles O58, event by event. -/
theorem cagesReportAndSwitch : Obligations.CagesReportAndSwitch := by
  refine ⟨fun s c bit hc hlt hbit => ?_, fun _ _ => rfl, fun s c present => ⟨fun h => ?_, fun h hstay => ?_, fun hc hin hout hauto => ?_⟩,
    fun s c v hc hreach => ?_, fun s c i hc hi => ?_, fun s c h => ?_, fun _ _ => rfl, fun s c => ⟨fun hon => ?_, fun hon hc => ?_⟩,
    fun s c low => ⟨fun h => ?_, fun hlow hint => ?_⟩⟩
  · obtain ⟨hset, hother⟩ := State.flag_cageSet (c := c) hc.rising (show bit < 32 by omega)
    refine ⟨hset, hother, fun o ho => ?_, s.periph_cageSet c bit, s.cageSet_quiet c bit, s.cageSet_message c bit⟩
    simp only [List.mem_cons, List.not_mem_nil, or_false, not_or] at ho
    exact s.reg_cageSet_other c bit ho.1 ho.2
  · exact congrArg Host.Outcome.next (if_pos h)
  · have hflag : ((s.setFlag (Reg.cgStatus c) 7 present).cageSet c 0).flag (Reg.cgCtrl c) 8 = s.flag (Reg.cgCtrl c) 8 :=
      (State.flag_cageSet_ctrl _ _ _ _).trans (congrArg (bitOf · 8) (s.reg_setFlag_other _ _ _ _ (cgCtrl_ne_cgStatus c)))
    have hstay' : (!present && ((s.setFlag (Reg.cgStatus c) 7 present).cageSet c 0).flag (Reg.cgCtrl c) 8) = false := by
      rw [hflag]
      rcases hstay with rfl | hauto
      · rfl
      · rw [hauto, Bool.and_false]
    refine congrArg Host.Outcome.next ((if_neg h).trans ?_)
    exact if_neg (Bool.eq_false_iff.mp hstay')
  · subst hout
    have hflag : ((s.setFlag (Reg.cgStatus c) 7 false).cageSet c 0).flag (Reg.cgCtrl c) 8 = true :=
      ((State.flag_cageSet_ctrl _ _ _ _).trans (congrArg (bitOf · 8) (s.reg_setFlag_other _ _ _ _ (cgCtrl_ne_cgStatus c)))).trans hauto
    obtain ⟨hgone, h7, h0, hsame⟩ := State.cageRemoved (c := c) hc
    refine ⟨_, congrArg Host.Outcome.next ((if_neg (by rw [hin]; decide)).trans (if_pos ?_)), h7, h0, hgone.pwrEn, hgone.pwrGood, hgone.resetN,
      hgone.links, hsame⟩
    exact hflag
  · have hexec : exec (.cagePwrEnWrite c v) s = .next (s.cgCtrlWrite c v) := congrArg Host.Outcome.next (State.pfReach_of_reaches hreach _)
    have hr : Rising (s.setReg (Reg.cgCtrl c) (s.cgCtrlWord c v)).regs := s.setReg_rising _ _ hc.rising
    have hword := s.reg_setReg_same (Reg.cgCtrl c) (s.cgCtrlWord c v) hc.rising
    rw [hexec, State.cgCtrlWrite_eq]
    by_cases hb : bitOf (s.cgCtrlWord c v) 4 = true
    · rw [if_pos hb]
      exact ⟨_, rfl, hword, fun _ => ⟨rfl, fun o ho => s.reg_setReg_other _ _ _ (by simpa using ho)⟩,
        fun h => absurd (hb.symm.trans h) (by decide)⟩
    · rw [if_neg hb]
      have hb' : bitOf (s.cgCtrlWord c v) 4 = false := Bool.not_eq_true _ ▸ hb
      obtain ⟨-, hgood, -⟩ := State.flag_cageOff c.val hr
      refine ⟨_, rfl, (State.reg_cageOff_ctrl hr ((congrArg (bitOf · 4) hword).trans hb')).trans hword, fun h => absurd h hb, fun _ => ⟨hgood, ?_, fun o ho => ?_, fun x hx hto => ?_⟩⟩
      · exact State.cgResetN_low (State.cgReleased_cageOff _ _) (hc.cage_lt c)
      · simp only [List.mem_cons, List.not_mem_nil, or_false, not_or] at ho
        obtain ⟨h1, h2, h3⟩ := ho
        exact (State.reg_cageOff_other _ _ h3 h1 h2).trans (s.reg_setReg_other _ _ _ h1)
      · exact State.cageOff_transfer (s := s.setReg _ _) hr hx hto
  · obtain ⟨hgone, h2, hsame⟩ := State.cageFault_gone (c := c) hc
    have hexec : exec i s = .next (s.cageFault c) := by
      rcases hi with rfl | ⟨rfl, hen, hgood⟩
      · rfl
      · refine congrArg Host.Outcome.next (if_pos ?_)
        rw [hen, hgood]
        rfl
    exact ⟨_, hexec, h2, hgone.pwrEn, hgone.pwrGood, hgone.resetN, hgone.links, hsame⟩
  · refine congrArg Host.Outcome.next (if_neg ?_)
    rcases h with h | h
    · simp only [h, Bool.false_and, Bool.false_eq_true, not_false_eq_true]
    · simp only [h, Bool.not_true, Bool.and_false, Bool.false_eq_true, not_false_eq_true]
  · exact congrArg Host.Outcome.next (if_neg (by simpa using hon))
  · refine ⟨_, congrArg Host.Outcome.next (if_pos (by simpa using hon)), ?_, rfl⟩
    have h : listAt false (listUpd s.periph.cgReleased c fun _ => true) c = true := listAt_listUpd_same _ _ _ _ (hc.cage_lt c)
    exact congrArg (· && !s.flag (Reg.cgCtrl c) 5) h
  · refine congrArg Host.Outcome.next (if_neg ?_)
    rcases h with rfl | h
    · simp only [Bool.false_and, Bool.false_eq_true, not_false_eq_true]
    · simp only [h, Bool.not_true, Bool.and_false, Bool.false_eq_true, not_false_eq_true]
  · refine congrArg Host.Outcome.next (if_pos ?_)
    rw [hlow, hint]
    rfl

end Sys2Proof.Machine

/-!
PROOF. Buffers of registers: the bytes read from one after bytes have been written (R407, R412).
-/

namespace Sys2Proof.Machine

/-! ### The bytes of words -/

theorem listAt_append_right {α : Type} (d : α) {l m : List α} {i : Nat} (h : l.length ≤ i) : listAt d (l ++ m) i = listAt d m (i - l.length) := by
  simp only [listAt, List.getD_eq_getElem?_getD, List.getElem?_append_right h]

/-- A byte of the four bytes of a number. -/
theorem listAt_leBytes_four (v : Nat) {i : Nat} (h : i < 4) : listAt 0 (leBytes 4 v) i = BitVec.ofNat 8 (v / 2 ^ (i * 8)) := by
  have hcases : i = 0 ∨ i = 1 ∨ i = 2 ∨ i = 3 := by omega
  rcases hcases with rfl | rfl | rfl | rfl
  · simp [leBytes, listAt]
  · rfl
  · exact congrArg (BitVec.ofNat 8) (Nat.div_div_eq_div_mul ..)
  · exact congrArg (BitVec.ofNat 8) ((congrArg (· / 256) (Nat.div_div_eq_div_mul ..)).trans (Nat.div_div_eq_div_mul ..))

/-- A byte of a word is a field of it. -/
theorem ofNat_bitsOf_byte (w : Word) (i : Nat) : BitVec.ofNat 8 (bitsOf w (i * 8 + 7) (i * 8)) = BitVec.ofNat 8 (w.toNat / 2 ^ (i * 8)) := by
  have hwidth : i * 8 + 7 + 1 - i * 8 = 8 := by omega
  refine BitVec.eq_of_toNat_eq ?_
  rw [bitsOf, hwidth, BitVec.toNat_ofNat, BitVec.toNat_ofNat, Nat.mod_mod]

theorem listAt_wordsBytes (ws : List Word) {i : Nat} (h : i < 4 * ws.length) :
    listAt 0 (wordsBytes ws) i = BitVec.ofNat 8 (bitsOf (listAt 0 ws (i / 4)) (i % 4 * 8 + 7) (i % 4 * 8)) := by
  induction ws generalizing i with
  | nil => exact absurd h (by simp)
  | cons w ws ih =>
    have e : wordsBytes (w :: ws) = leBytes 4 w.toNat ++ wordsBytes ws := rfl
    have hfour : (leBytes 4 w.toNat).length = 4 := length_leBytes 4 _
    by_cases hlt : i < 4
    · have hdiv : i / 4 = 0 := by omega
      have hmod : i % 4 = i := by omega
      rw [e, listAt_append_left _ (by omega), listAt_leBytes_four _ hlt, hdiv, hmod, ofNat_bitsOf_byte]
      rfl
    · have hdiv : i / 4 = (i - 4) / 4 + 1 := by omega
      have hmod : i % 4 = (i - 4) % 4 := by omega
      rw [List.length_cons] at h
      rw [e, listAt_append_right _ (by omega), hfour, ih (by omega), hdiv, hmod]
      rfl

/-! ### Bytes read from a buffer -/

theorem State.length_bufBytes (s : State) (off n : Nat) : (s.bufBytes off n).length = n := by
  simp only [State.bufBytes, List.length_take, wordsBytes_length, List.length_map, List.length_range]
  omega

theorem listAt_range_map {α : Type} (d : α) (f : Nat → α) {n i : Nat} (h : i < n) : listAt d ((List.range n).map f) i = f i := by
  simp [listAt, h]

theorem State.listAt_bufBytes (s : State) (off : Nat) {n i : Nat} (h : i < n) :
    listAt 0 (s.bufBytes off n) i = BitVec.ofNat 8 (s.fld (off + i / 4 * 4) (i % 4 * 8 + 7) (i % 4 * 8)) := by
  have hi : i < 4 * ((List.range ((n + 3) / 4)).map fun k => s.reg (off + 4 * k)).length := by
    rw [List.length_map, List.length_range]
    omega
  rw [State.bufBytes, listAt_take _ _ h, listAt_wordsBytes _ hi, listAt_range_map _ _ (by omega), Nat.mul_comm 4]
  rfl

/-- A buffer reads the same in a state whose registers there are the same. -/
theorem State.bufBytes_congr {s t : State} {off n : Nat} (h : ∀ k < (n + 3) / 4, t.reg (off + 4 * k) = s.reg (off + 4 * k)) :
    t.bufBytes off n = s.bufBytes off n := by
  have hmap : (List.range ((n + 3) / 4)).map (fun k => t.reg (off + 4 * k)) = (List.range ((n + 3) / 4)).map fun k => s.reg (off + 4 * k) :=
    List.map_congr_left fun k hk => h k (List.mem_range.mp hk)
  rw [State.bufBytes, hmap, State.bufBytes]

/-! ### Bytes written to a buffer -/

/-- Byte i of a buffer. -/
def State.bufByte (s : State) (off i : Nat) : Nat := s.fld (off + i / 4 * 4) (i % 4 * 8 + 7) (i % 4 * 8)

/-- A buffer with byte i replaced. -/
def State.setBufByte (s : State) (off i : Nat) (b : Byte) : State := s.setFld (off + i / 4 * 4) (i % 4 * 8 + 7) (i % 4 * 8) b.toNat

theorem State.bufByte_setBufByte_same {s : State} (hr : Rising s.regs) (off i : Nat) (b : Byte) : (s.setBufByte off i b).bufByte off i = b.toNat := by
  have hwidth : i % 4 * 8 + 7 + 1 - i % 4 * 8 = 8 := by omega
  rw [State.bufByte, State.setBufByte, State.fld_setFld_same _ _ _ _ _ hr (by omega), hwidth]
  exact Nat.mod_eq_of_lt b.isLt

theorem State.bufByte_setBufByte_other {s : State} (hr : Rising s.regs) (off : Nat) {i j : Nat} (b : Byte) (h : j ≠ i) :
    (s.setBufByte off i b).bufByte off j = s.bufByte off j := by
  by_cases hw : j / 4 = i / 4
  · rw [State.bufByte, State.setBufByte, hw, State.fld_setFld_apart hr _ (by omega) (by omega), State.bufByte, hw]
  · exact State.fld_setFld_other _ _ _ _ _ _ _ _ (by omega)

theorem State.setFld_regsOnly {s u : State} (h : u = { s with regs := u.regs }) (off hi lo v : Nat) :
    u.setFld off hi lo v = { s with regs := (u.setFld off hi lo v).regs } := by
  rw [h]
  rfl

/-- The first m bytes of a list written to a buffer: each can be read back, and no register beyond them changes. -/
theorem State.setBufByte_range {s : State} (hr : Rising s.regs) (off : Nat) (bs : List Byte) (m : Nat) :
    let t := (List.range m).foldl (fun s i => s.setBufByte off i (listAt 0 bs i)) s
    Rising t.regs ∧ (∀ i < m, t.bufByte off i = (listAt 0 bs i).toNat) ∧ (∀ o, (∀ i < m, o ≠ off + i / 4 * 4) → t.reg o = s.reg o) ∧
    t = { s with regs := t.regs } := by
  induction m with
  | zero => exact ⟨hr, fun i hi => absurd hi (Nat.not_lt_zero i), fun _ _ => rfl, rfl⟩
  | succ m ih =>
    obtain ⟨hrise, hread, hother, hframe⟩ := ih
    simp only [List.range_succ, List.foldl_append, List.foldl_cons, List.foldl_nil]
    refine ⟨State.setFld_rising _ _ _ _ _ hrise, fun i hi => ?_, fun o ho => ?_, ?_⟩
    · by_cases him : i = m
      · rw [him, State.bufByte_setBufByte_same hrise]
      · rw [State.bufByte_setBufByte_other hrise _ _ him, hread i (by omega)]
    · exact (State.reg_setFld_other _ _ _ _ _ _ (ho m (Nat.lt_succ_self m))).trans (hother o fun i hi => ho i (by omega))
    · exact State.setFld_regsOnly hframe _ _ _ _

section
variable {s : State} (hr : Rising s.regs) (off : Nat) (bs : List Byte)
include hr

theorem State.setBufBytes_rising : Rising (s.setBufBytes off bs).regs := (State.setBufByte_range hr off bs bs.length).1

theorem State.reg_setBufBytes_other {o : Nat} (h : ∀ i < bs.length, o ≠ off + i / 4 * 4) : (s.setBufBytes off bs).reg o = s.reg o := by
  obtain ⟨-, -, hother, -⟩ := State.setBufByte_range hr off bs bs.length
  exact hother o h

theorem State.setBufBytes_frame : s.setBufBytes off bs = { s with regs := (s.setBufBytes off bs).regs } := by
  obtain ⟨-, -, -, hframe⟩ := State.setBufByte_range hr off bs bs.length
  exact hframe

/-- What has been written is read back. -/
theorem State.listAt_bufBytes_setBufBytes {n i : Nat} (h : i < bs.length) (hn : i < n) :
    listAt 0 ((s.setBufBytes off bs).bufBytes off n) i = listAt 0 bs i := by
  obtain ⟨-, hread, -, -⟩ := State.setBufByte_range hr off bs bs.length
  rw [State.listAt_bufBytes _ _ hn]
  refine BitVec.eq_of_toNat_eq ?_
  rw [BitVec.toNat_ofNat]
  exact (congrArg (· % 2 ^ 8) (hread i h)).trans (Nat.mod_eq_of_lt (listAt 0 bs i).isLt)

theorem State.bufBytes_setBufBytes : (s.setBufBytes off bs).bufBytes off bs.length = bs := by
  refine List.ext_getElem (State.length_bufBytes _ _ _) fun i hi hb => ?_
  have h := State.listAt_bufBytes_setBufBytes hr off bs hb hb
  simpa [listAt, hi, hb] using h

end

end Sys2Proof.Machine

/-!
PROOF. I2C master 0, the SMBus target, GPIO and JTAG (R407-R409, R414).
-/

namespace Sys2Proof.Machine

theorem bitsOf_congr {w v : Word} {hi lo : Nat} (h : ∀ i, lo ≤ i → i ≤ hi → bitOf w i = bitOf v i) : bitsOf w hi lo = bitsOf v hi lo := by
  refine Nat.eq_of_testBit_eq fun i => ?_
  rw [testBit_bitsOf, testBit_bitsOf]
  by_cases hi' : i < hi + 1 - lo
  · rw [h (i + lo) (by omega) (by omega)]
  · simp [hi']

/-! ### I2C master 0 (R407) -/

/-- The word that a write of I2C0_XFER leaves: BUSY and the W1C bits that are not cleared, and the fields of a transfer. -/
def i2cWord (old v : Word) : Word := (old &&& 0x70000000 &&& ~~~(v &&& 0x30000000)) ||| (v &&& 0x0E7FFFFF)

/-- The address and the counts of the transfer are those written. -/
theorem bitsOf_i2cWord (old v : Word) {hi : Nat} (lo : Nat) (h : hi ≤ 22) : bitsOf (i2cWord old v) hi lo = bitsOf v hi lo := by
  have hmask : ∀ i < 23, bitOf 0x70000000 i = false ∧ bitOf 0x0E7FFFFF i = true := by decide
  refine bitsOf_congr fun i _ hi' => ?_
  obtain ⟨hkeep, htake⟩ := hmask i (by omega)
  rw [i2cWord, bitOf_or, bitOf_and_not, bitOf_and, bitOf_and v 0x0E7FFFFF, hkeep, htake, Bool.and_false, Bool.false_and, Bool.false_or, Bool.and_true]

section
variable {s : State} {v : Word}

theorem exec_i2c0XferGo (h : s.PfReaches Reg.i2c0Xfer) : exec (.i2c0XferGo v) s = .next (s.i2cXferWrite v) :=
  congrArg Host.Outcome.next (State.pfReach_of_reaches h _)

theorem State.i2cXferWrite_idle (h : bitOf v 31 = false ∨ bitOf (s.reg Reg.i2c0Xfer) 30 = true) :
    s.i2cXferWrite v = s.setReg Reg.i2c0Xfer (i2cWord (s.reg Reg.i2c0Xfer) v) := by
  refine if_pos ?_
  rcases h with h | h <;> simp [h]

/-- The power of a cage is seen as before the write. -/
theorem State.flag_cgStatus_i2c (s : State) (c i : Nat) (w : Word) : (s.setReg Reg.i2c0Xfer w).flag (Reg.cgStatus c) i = s.flag (Reg.cgStatus c) i :=
  congrArg (bitOf · i) (s.reg_setReg_other _ _ _ (cgStatus_ne_i2c0Xfer c))

theorem State.i2cXferWrite_dark (hgo : bitOf v 31 = true) (hbusy : bitOf (s.reg Reg.i2c0Xfer) 30 = false)
    (hoff : s.flag (Reg.cgStatus (boolNat (bitOf v 27))) 6 = false) :
    s.i2cXferWrite v = (s.setReg Reg.i2c0Xfer (i2cWord (s.reg Reg.i2c0Xfer) v)).setFlag Reg.i2c0Xfer 28 true := by
  refine (if_neg ?_).trans (if_pos ((s.flag_cgStatus_i2c _ _ _).trans hoff))
  simp [hgo, hbusy]

/-- A transfer that starts: BUSY is set, and the bytes are sent. -/
def State.i2cStarted (s : State) (w : Word) : State :=
  let u := (s.setReg Reg.i2c0Xfer w).setFlag Reg.i2c0Xfer 30 true
  { u with periph := { u.periph with i2c := some w }, outs := { u.outs with i2c := u.i2cSent w :: u.outs.i2c } }

theorem State.i2cXferWrite_starts (hgo : bitOf v 31 = true) (hbusy : bitOf (s.reg Reg.i2c0Xfer) 30 = false)
    (hon : s.flag (Reg.cgStatus (boolNat (bitOf v 27))) 6 = true) : s.i2cXferWrite v = s.i2cStarted (i2cWord (s.reg Reg.i2c0Xfer) v) := by
  refine (if_neg ?_).trans (if_neg ?_)
  · simp [hgo, hbusy]
  · exact fun h => absurd (hon.symm.trans ((s.flag_cgStatus_i2c _ _ _).symm.trans h)) (by decide)

theorem i2c0Buf_ne_i2c0Xfer (n : Nat) : Reg.i2c0Buf 0 + n ≠ Reg.i2c0Xfer := by
  simp only [Reg.i2c0Buf, Reg.i2c0Xfer]
  omega

/-- The buffer stands apart from I2C0_XFER. -/
theorem State.bufBytes_setReg_i2c (s : State) (w : Word) (b : Bool) (n : Nat) :
    ((s.setReg Reg.i2c0Xfer w).setFlag Reg.i2c0Xfer 30 b).bufBytes (Reg.i2c0Buf 0) n = s.bufBytes (Reg.i2c0Buf 0) n :=
  State.bufBytes_congr fun _ _ => (State.reg_setFlag_other _ _ _ _ _ (i2c0Buf_ne_i2c0Xfer _)).trans (s.reg_setReg_other _ _ _ (i2c0Buf_ne_i2c0Xfer _))

theorem State.i2cSent_started (s : State) (old v : Word) :
    ((s.setReg Reg.i2c0Xfer (i2cWord old v)).setFlag Reg.i2c0Xfer 30 true).i2cSent (i2cWord old v) =
      [BitVec.ofNat 8 (2 * bitsOf v 22 16)] ++ s.bufBytes (Reg.i2c0Buf 0) (min 32 (bitsOf v 15 8)) ++
        (if bitsOf v 7 0 = 0 then [] else [BitVec.ofNat 8 (2 * bitsOf v 22 16 + 1)]) := by
  rw [State.i2cSent, bitsOf_i2cWord _ _ _ (by decide), bitsOf_i2cWord _ _ _ (by decide), bitsOf_i2cWord _ _ _ (by decide),
    State.bufBytes_setReg_i2c]

end

/-! ### The SMBus target (R408) -/

theorem State.smbusByte_eq (s : State) (c : Byte) : s.smbusByte c.toNat =
    if c = 0 then BitVec.ofNat 8 s.discState
    else if c = 1 then BitVec.ofNat 8 (wrapInt 8 s.fabric.tj)
    else if c = 2 then BitVec.ofNat 8 (boolNat s.outs.thermtrip + 2 * boolNat s.fabric.safe + 4 * boolNat (s.flag Reg.rstBoot 31))
    else if c = 3 then BitVec.ofNat 8 (s.ozmel.fanDuty / 1000000).toNat
    else 0xFF := by
  by_cases h0 : c = 0
  · rw [if_pos h0, h0]
    rfl
  by_cases h1 : c = 1
  · rw [if_neg h0, if_pos h1, h1]
    rfl
  by_cases h2 : c = 2
  · rw [if_neg h0, if_neg h1, if_pos h2, h2]
    rfl
  by_cases h3 : c = 3
  · rw [if_neg h0, if_neg h1, if_neg h2, if_pos h3, h3]
    rfl
  rw [if_neg h0, if_neg h1, if_neg h2, if_neg h3]
  have hfar : ∀ k : Nat, k < 4 → c.toNat ≠ k := fun k hk h => by
    have hc : c = BitVec.ofNat 8 k := by rw [← h, BitVec.ofNat_toNat, BitVec.setWidth_eq]
    have hk' : k = 0 ∨ k = 1 ∨ k = 2 ∨ k = 3 := by omega
    rcases hk' with rfl | rfl | rfl | rfl
    · exact h0 hc
    · exact h1 hc
    · exact h2 hc
    · exact h3 hc
  unfold State.smbusByte
  split
  · next h => exact absurd h (hfar 0 (by decide))
  · next h => exact absurd h (hfar 1 (by decide))
  · next h => exact absurd h (hfar 2 (by decide))
  · next h => exact absurd h (hfar 3 (by decide))
  · rfl

/-! ### GPIO (R409) -/

theorem bitOf_shiftRight (w : Word) (n i : Nat) : bitOf (w >>> n) i = bitOf w (n + i) := by
  simp [bitOf, BitVec.toNat_ushiftRight, Nat.testBit_shiftRight]

theorem bitOf_xor (w v : Word) (i : Nat) : bitOf (w ^^^ v) i = (bitOf w i ^^ bitOf v i) := by
  simp [bitOf]

theorem bitOf_shiftLeft (w : Word) {n i : Nat} (h : i < 32) : bitOf (w <<< n) i = (decide (n ≤ i) && bitOf w (i - n)) := by
  simp only [bitOf, BitVec.testBit_toNat, BitVec.getLsbD_shiftLeft, h, decide_true, Bool.true_and]
  by_cases hn : i < n
  · simp [hn]
  · simp [hn]
    omega

theorem bitOf_gpioPins (s : State) {k : Nat} (h : k < 16) :
    bitOf s.gpioPins k = if s.flag Reg.gpioOut (16 + k) then s.flag Reg.gpioOut k else bitOf s.periph.gpioExt k := by
  have hmask : ∀ k < 16, bitOf 0xFFFF k = true := by decide
  rw [State.gpioPins, bitOf_and, hmask k h, Bool.and_true, bitOf_or, bitOf_and, bitOf_and_not, bitOf_shiftRight]
  have hflag : ∀ i, s.flag Reg.gpioOut i = bitOf (s.reg Reg.gpioOut) i := fun _ => rfl
  rw [hflag, hflag]
  cases bitOf (s.reg Reg.gpioOut) (16 + k)
  · rw [Bool.and_false, Bool.false_or, Bool.not_false, Bool.and_true, if_neg Bool.false_ne_true]
  · rw [Bool.and_true, Bool.not_true, Bool.and_false, Bool.or_false, if_pos rfl]

/-- The word of GPIO_IN once IN follows the pins. -/
theorem State.reg_gpioSync {s : State} (hr : Rising s.regs) : s.gpioSync.reg Reg.gpioIn =
    ((s.reg Reg.gpioIn &&& (0xFFFF0000 : Word)) ||| (((s.reg Reg.gpioIn &&& 0xFFFF) ^^^ s.gpioPins) <<< 16)) ||| s.gpioPins := s.reg_setReg_same _ _ hr

theorem bitOf_gpioPins_high (s : State) {k : Nat} (h : 16 ≤ k) : bitOf s.gpioPins k = false := by
  by_cases hk : k < 32
  · have hmask : ∀ k < 32, 16 ≤ k → bitOf 0xFFFF k = false := by decide
    rw [State.gpioPins, bitOf_and, hmask k hk h, Bool.and_false]
  · exact bitOf_of_le _ (by omega)

/-- IN is the level of the pin. -/
theorem State.flag_gpioSync_in {s : State} (hr : Rising s.regs) {k : Nat} (h : k < 16) : s.gpioSync.flag Reg.gpioIn k = bitOf s.gpioPins k := by
  have hmask : ∀ k < 16, bitOf 0xFFFF0000 k = false := by decide
  have hshift : ¬ 16 ≤ k := by omega
  rw [State.flag, State.reg_gpioSync hr, bitOf_or, bitOf_or, bitOf_and, hmask k h, bitOf_shiftLeft _ (by omega), decide_eq_false hshift, Bool.and_false,
    Bool.false_and, Bool.false_or, Bool.false_or]

/-- CHG keeps what it has collected, and adds the pins whose level has changed. -/
theorem State.flag_gpioSync_chg {s : State} (hr : Rising s.regs) {k : Nat} (h : k < 16) :
    s.gpioSync.flag Reg.gpioIn (16 + k) = (s.flag Reg.gpioIn (16 + k) || (bitOf s.gpioPins k != s.flag Reg.gpioIn k)) := by
  have hmask : ∀ k < 16, bitOf 0xFFFF0000 (16 + k) = true ∧ bitOf 0xFFFF k = true := by decide
  obtain ⟨hhigh, hlow⟩ := hmask k h
  rw [State.flag, State.reg_gpioSync hr, bitOf_or, bitOf_or, bitOf_and, hhigh, bitOf_shiftLeft _ (by omega), decide_eq_true (Nat.le_add_right 16 k),
    Nat.add_sub_cancel_left, bitOf_xor, bitOf_and, hlow, bitOf_gpioPins_high _ (Nat.le_add_right 16 k), Bool.and_true, Bool.and_true, Bool.true_and,
    Bool.or_false]
  exact congrArg (s.flag Reg.gpioIn (16 + k) || ·) (Bool.xor_comm _ _)

/-! ### JTAG (R414) -/

theorem State.idcode_fields (s : State) : bitsOf s.idcode 27 12 = 0x7216 ∧ bitsOf s.idcode 0 0 = 1 := by
  have hm := Config.jtagMaker.isLt
  have hs := s.fuses.stepping.isLt
  have hn : s.idcode.toNat = 2 ^ 28 * s.fuses.stepping.toNat + 0x7216 * 2 ^ 12 + Config.jtagMaker.toNat * 2 + 1 := by
    rw [State.idcode, BitVec.toNat_ofNat, Nat.mod_eq_of_lt (by omega)]
  rw [bitsOf, bitsOf, hn]
  omega

/-! ### The obligation -/

/-- The board drives a pin. -/
theorem bitOf_setBits_pin (w : Word) (pin : Fin 16) (level : Bool) {k : Nat} :
    bitOf (setBits w pin.val pin.val (boolNat level)) k = if k = pin.val then level else bitOf w k := by
  split
  · next h => rw [h, bitOf_setFlag_same _ _ _ (by omega)]
  · next h => exact bitOf_setBits_other _ _ _ _ _ (by omega) (by omega)

/-- A transfer that ends with an answer of the module: the bytes read stand in the buffer. -/
theorem exec_i2c0XferEnd_done {s : State} {w : Word} (h : s.periph.i2c = some w) (rd : List Byte) :
    exec (.i2c0XferEnd (.done rd)) s = .next ((s.setBufBytes (Reg.i2c0Buf 0) (rd.take (min 32 (bitsOf w 7 0)))).i2cOver false false) := by
  simp only [exec, execI2c0XferEnd, h]

theorem exec_i2c0XferEnd_nack {s : State} {w : Word} (h : s.periph.i2c = some w) : exec (.i2c0XferEnd .nack) s = .next (s.i2cOver true false) := by
  simp only [exec, execI2c0XferEnd, h]

theorem exec_i2c0XferEnd_err {s : State} {w : Word} (h : s.periph.i2c = some w) : exec (.i2c0XferEnd .err) s = .next (s.i2cOver false true) := by
  simp only [exec, execI2c0XferEnd, h]

/-- Settles O59, interface by interface. -/
theorem serialBusesAndPins : Obligations.SerialBusesAndPins := by
  refine ⟨fun s v hreach => ⟨fun h => ?_, fun hgo hbusy hoff => ?_, fun hc hgo hbusy hon => ?_⟩, fun s e h => ?_, fun s w e hc hw => ?_, fun s c => ?_,
    fun s pin level hc => ?_, fun s => ⟨rfl, rfl, ⟨_, rfl⟩, ⟨_, rfl⟩, fun h => ?_, fun h => ?_, s.idcode_fields⟩⟩
  · rw [exec_i2c0XferGo hreach, State.i2cXferWrite_idle h]
    rfl
  · rw [exec_i2c0XferGo hreach, State.i2cXferWrite_dark hgo hbusy hoff]
    rfl
  · rw [exec_i2c0XferGo hreach, State.i2cXferWrite_starts hgo hbusy hon]
    refine ⟨_, rfl, State.flag_setFlag_same _ _ _ _ (s.setReg_rising _ _ hc.rising) (by decide), rfl, ?_, rfl, fun o ho => ?_⟩
    · exact congrArg (· :: s.outs.i2c) (s.i2cSent_started _ v)
    · have ho' : o ≠ Reg.i2c0Xfer := by simpa using ho
      exact (State.reg_setFlag_other _ _ _ _ _ ho').trans (s.reg_setReg_other _ _ _ ho')
  · simp only [exec, execI2c0XferEnd, h]
  · cases e with
    | done rd =>
      let l := rd.take (min 32 (bitsOf w 7 0))
      have hlen : l.length = min (min 32 (bitsOf w 7 0)) rd.length := List.length_take
      have hapart : (s.setBufBytes (Reg.i2c0Buf 0) l).reg Reg.i2c0Xfer = s.reg Reg.i2c0Xfer :=
        State.reg_setBufBytes_other hc.rising _ _ fun i _ => (i2c0Buf_ne_i2c0Xfer _).symm
      obtain ⟨h30, h29, h28⟩ := State.i2cOver_flags (State.setBufBytes_rising hc.rising (Reg.i2c0Buf 0) l) false false
      refine ⟨_, exec_i2c0XferEnd_done hw rd, h30, ?_, ?_, ?_, fun rd' hrd i hi hcount => ?_, fun h => absurd rfl (h rd), ?_⟩
      · rw [State.i2cOver_frame, State.setBufBytes_frame hc.rising]
      · exact h29.trans (congrArg (bitOf · 29 || false) hapart)
      · exact h28.trans (congrArg (bitOf · 28 || false) hapart)
      · cases hrd
        have hbuf := State.bufBytes_congr (n := 32) (off := Reg.i2c0Buf 0)
          fun k _ => (s.setBufBytes (Reg.i2c0Buf 0) l).reg_i2cOver_other false false (i2c0Buf_ne_i2c0Xfer (4 * k))
        refine (congrArg (listAt 0 · i) hbuf).trans ((State.listAt_bufBytes_setBufBytes hc.rising _ l (by omega) (by omega)).trans ?_)
        exact listAt_take _ _ hcount
      · rw [State.i2cOver_frame, State.setBufBytes_frame hc.rising]
    | nack =>
      obtain ⟨h30, h29, h28⟩ := State.i2cOver_flags hc.rising true false
      refine ⟨_, exec_i2c0XferEnd_nack hw, h30, ?_, h29, h28, fun _ h => I2cEnd.noConfusion h, fun _ o ho => s.reg_i2cOver_other _ _ (by simpa using ho), ?_⟩
      · rw [State.i2cOver_frame]
      · exact s.i2cOver_frame true false
    | err =>
      obtain ⟨h30, h29, h28⟩ := State.i2cOver_flags hc.rising false true
      refine ⟨_, exec_i2c0XferEnd_err hw, h30, ?_, h29, h28, fun _ h => I2cEnd.noConfusion h, fun _ o ho => s.reg_i2cOver_other _ _ (by simpa using ho), ?_⟩
      · rw [State.i2cOver_frame]
      · exact s.i2cOver_frame false true
  · exact congrArg (fun b => Host.Outcome.next { s with outs := { s.outs with smbus := b } }) (s.smbusByte_eq c)
  · let u : State := { s with periph := { s.periph with gpioExt := setBits s.periph.gpioExt pin.val pin.val (boolNat level) } }
    refine ⟨u.gpioSync, rfl, fun k hk => ⟨?_, ?_⟩, rfl, fun o ho => State.reg_setReg_other _ _ _ _ (by simpa using ho)⟩
    · rw [State.flag_gpioSync_in (s := u) hc.rising hk, bitOf_gpioPins u hk]
      exact congrArg (fun b => if s.flag Reg.gpioOut (16 + k) then s.flag Reg.gpioOut k else b) (bitOf_setBits_pin _ _ _)
    · rw [State.flag_gpioSync_in (s := u) hc.rising hk]
      exact State.flag_gpioSync_chg (s := u) hc.rising hk
  · simp only [exec, execJtagInstruction, h, Bool.false_eq_true, if_false]
  · simp only [exec, execJtagInstruction, h, if_true]

end Sys2Proof.Machine

/-!
PROOF. The debug UART and the SPI flash port (R410-R412).
-/

namespace Sys2Proof.Machine

/-! ### Bits of a character -/

theorem bitmap_succ (n : Nat) (f : Nat → Bool) : bitmap (n + 1) f = 2 ^ n * boolNat (f n) + bitmap n f := by
  simp only [bitmap, List.range_succ, List.map_append, List.sum_append, List.map_cons, List.map_nil, List.sum_cons, List.sum_nil]
  rw [Nat.add_zero, Nat.add_comm, Nat.mul_comm]

theorem bitmap_lt (n : Nat) (f : Nat → Bool) : bitmap n f < 2 ^ n := by
  induction n with
  | zero => exact Nat.one_pos
  | succ n ih =>
    rw [bitmap_succ, Nat.pow_succ]
    cases f n
    · simp only [boolNat, Bool.false_eq_true, if_false]
      omega
    · simp only [boolNat, if_true]
      omega

theorem testBit_bitmap {n : Nat} (f : Nat → Bool) {i : Nat} (h : i < n) : (bitmap n f).testBit i = f i := by
  induction n with
  | zero => exact absurd h (Nat.not_lt_zero i)
  | succ n ih =>
    rw [bitmap_succ, Nat.testBit_two_pow_mul_add _ (bitmap_lt n f)]
    by_cases hi : i < n
    · rw [if_pos hi, ih hi]
    · have hin : i = n := by omega
      rw [if_neg hi, hin, Nat.sub_self]
      cases f n <;> rfl

theorem sum_map_boolNat (l : List Bool) : (l.map boolNat).sum = (l.filter fun x => x).length := by
  induction l with
  | nil => rfl
  | cons b l ih =>
    rw [List.map_cons, List.sum_cons, ih]
    cases b
    · exact Nat.zero_add _
    · exact Nat.add_comm _ _

theorem bitsOf_single (w : Word) (i : Nat) : bitsOf w i i = boolNat (bitOf w i) := by
  rw [bitsOf, bitOf, Nat.testBit_eq_decide_div_mod_eq, Nat.add_sub_cancel_left, Nat.pow_one]
  rcases Nat.mod_two_eq_zero_or_one (w.toNat / 2 ^ i) with h | h <;> rw [h] <;> rfl

/-! ### Error bits of the UART (R411) -/

section
variable {s : State}

theorem State.regs_uartIrq (s : State) : s.uartIrq.regs = s.regs := by
  unfold State.uartIrq
  split
  · exact State.regs_msixDue _ _ _
  · rfl

theorem State.periph_uartIrq (s : State) : s.uartIrq.periph = s.periph := by
  unfold State.uartIrq
  split
  · exact State.periph_msixDue _ _ _
  · rfl

theorem State.regs_uartErr (s : State) (bit : Nat) : (s.uartErr bit).regs = (s.setFlag Reg.uartStat bit true).regs := State.regs_uartIrq _

theorem State.periph_uartErr (s : State) (bit : Nat) : (s.uartErr bit).periph = s.periph := State.periph_uartIrq _

theorem State.reg_uartErr_other (s : State) (bit : Nat) {o : Nat} (h : o ≠ Reg.uartStat) : (s.uartErr bit).reg o = s.reg o :=
  (State.reg_congr (s.regs_uartErr bit) o).trans (s.reg_setFlag_other _ _ _ _ h)

theorem State.uartErr_rising (hr : Rising s.regs) (bit : Nat) : Rising (s.uartErr bit).regs := by
  rw [State.regs_uartErr]
  exact s.setFlag_rising _ _ _ hr

theorem State.flag_uartErr_same (hr : Rising s.regs) {bit : Nat} (h : bit < 32) : (s.uartErr bit).flag Reg.uartStat bit = true :=
  (State.flag_congr (s.regs_uartErr bit) _ _).trans (s.flag_setFlag_same _ _ _ hr h)

theorem State.flag_uartErr_other (hr : Rising s.regs) {bit k : Nat} (h : bit < 32) (hk : k ≠ bit) :
    (s.uartErr bit).flag Reg.uartStat k = s.flag Reg.uartStat k :=
  (State.flag_congr (s.regs_uartErr bit) _ _).trans (State.flag_setFlag_other _ _ hr h hk)

/-! ### Characters received (R411) -/

theorem State.uartStore_full (b : Byte) (h : 16 ≤ s.periph.uartRx.length) : s.uartStore b = s.uartErr 3 := if_pos h

/-- A byte enters the FIFO; at the level of the FIFO the vector is due. -/
theorem State.uartStore_room (b : Byte) (h : s.periph.uartRx.length < 16) : (s.uartStore b).regs = s.regs ∧
    (s.uartStore b).periph = { s.periph with uartRx := s.periph.uartRx ++ [s.uartMask b] } ∧
    (s.flag Reg.uartCtrl 15 = false → s.uartStore b = { s with periph := (s.uartStore b).periph }) := by
  have hroom : ¬ 16 ≤ s.periph.uartRx.length := by omega
  simp only [State.uartStore, if_neg hroom]
  split
  · refine ⟨State.regs_uartIrq _, State.periph_uartIrq _, fun hirq => ?_⟩
    rw [State.periph_uartIrq, State.uartIrq, if_neg]
    exact Bool.eq_false_iff.mp hirq
  · exact ⟨rfl, rfl, fun _ => rfl⟩

/-- Whatever becomes of the byte, the bits of UART_STAT other than that of an overrun stay. -/
theorem State.flag_uartStore (hr : Rising s.regs) (b : Byte) {k : Nat} (hk : k ≠ 3) : (s.uartStore b).flag Reg.uartStat k = s.flag Reg.uartStat k := by
  by_cases h : 16 ≤ s.periph.uartRx.length
  · rw [State.uartStore_full b h, State.flag_uartErr_other hr (by decide) hk]
  · obtain ⟨hregs, -⟩ := State.uartStore_room b (s := s) (by omega)
    exact State.flag_congr hregs _ _

/-- The byte of the eight data cells of a character. -/
def lineByte (l : List Bool) : Byte := BitVec.ofNat 8 (bitmap 8 fun i => lineBit l (i + 1))

theorem lineByte_eq {l : List Bool} {b : Byte} (h : ∀ k < 8, lineBit l (k + 1) = b.getLsbD k) : lineByte l = b := by
  refine BitVec.eq_of_getLsbD_eq fun i hi => ?_
  rw [lineByte, BitVec.getLsbD_ofNat, decide_eq_true hi, Bool.true_and, testBit_bitmap _ hi, h i hi]

theorem exec_uartCharacterReceive (l : List Bool) (hen : s.flag Reg.uartCtrl 1 = true) (hloop : s.flag Reg.uartCtrl 6 = false) :
    exec (.uartCharacterReceive l) s = .next (s.uartReceive l) := by
  refine congrArg Host.Outcome.next (if_pos ?_)
  rw [hen, hloop]
  rfl

section
variable (h7 : s.flag Reg.uartCtrl 2 = false)
include h7

theorem State.uartBits_eight : s.uartBits = 8 := by
  rw [State.uartBits, h7]
  rfl

theorem State.uartMask_eight (b : Byte) : s.uartMask b = b := by
  rw [State.uartMask, h7]
  rfl

/-- Without a parity bit the ninth cell after the start bit is the stop bit. -/
theorem State.uartReceive_plain (l : List Bool) (hp : s.fld Reg.uartCtrl 5 4 = 0) : s.uartReceive l =
    if lineSample l 9 8 then s.uartStore (lineByte l)
    else if (List.range 160).all fun i => !listAt true l i then (s.uartErr 0).uartErr 2 else s.uartErr 0 := by
  have hpar : s.uartParity = false := by
    rw [State.uartParity, hp]
    rfl
  simp only [State.uartReceive, State.uartBits_eight h7, hpar, Bool.false_and, Bool.false_eq_true, if_false]
  rfl

/-- With one, a bit that differs from the parity of the data sets the error bit; the byte is stored nevertheless. -/
theorem State.uartReceive_badParity (l : List Bool) (hp : s.uartParity = true)
    (hbad : (lineBit l 9 != ((((List.range 8).map fun k => boolNat (lineBit l (k + 1))).sum + boolNat (s.fld Reg.uartCtrl 5 4 == 2)) % 2 == 1)) = true)
    (hstop : lineSample l 10 8 = true) : s.uartReceive l = (s.uartErr 1).uartStore (lineByte l) := by
  have hones : ((List.range 8).map fun i => boolNat ((bitmap 8 fun i => lineBit l (i + 1)).testBit i)) =
      (List.range 8).map fun k => boolNat (lineBit l (k + 1)) :=
    List.map_congr_left fun k hk => by rw [testBit_bitmap _ (List.mem_range.mp hk)]
  simp only [State.uartReceive, State.uartBits_eight h7, hp, hones, Bool.true_and]
  exact (if_pos hstop).trans (congrArg (State.uartStore · (lineByte l)) (if_pos hbad))

end

/-- The parity bit that differs, as UART_CTRL asks for even or odd parity. -/
theorem parity_differs {p : Bool} {ones fld : Nat} (hfld : fld = 1 ∨ fld = 2) (hbad : ¬ ((p = true) ↔ if fld = 1 then ones % 2 = 1 else ¬ ones % 2 = 1)) :
    (p != ((ones + boolNat (fld == 2)) % 2 == 1)) = true := by
  rcases hfld with rfl | rfl
  · rw [if_pos rfl] at hbad
    cases p <;> simp_all [boolNat]
  · rw [if_neg (by decide)] at hbad
    have hodd : (ones + 1) % 2 = 1 ↔ ¬ ones % 2 = 1 := by omega
    cases p <;> simp_all [boolNat]

/-! ### UART_DATA -/

theorem exec_uartDataWrite {v : Word} (h : s.PfReaches Reg.uartData) : exec (.uartDataWrite v) s = .next (s.uartWrite v) :=
  congrArg Host.Outcome.next (State.pfReach_of_reaches h _)

theorem exec_uartDataRead (h : s.PfReaches Reg.uartData) : exec .uartDataRead s =
    .next { s.uartTake.2 with outs := { s.uartTake.2.outs with busData := s.uartTake.1.setWidth 64 } } :=
  congrArg Host.Outcome.next (State.pfRead_of_reaches h _)

/-! ### Characters sent (R410, R411) -/

theorem State.uartPump_idle (h : s.periph.uartTx = [] ∨ s.flag Reg.uartCtrl 0 = false ∨ s.periph.uartSending ≠ none) : s.uartPump = s := by
  unfold State.uartPump
  split
  · next hsend htx =>
    rcases h with h | h | h
    · exact absurd (htx.symm.trans h) (by simp)
    · exact if_neg (Bool.eq_false_iff.mp h)
    · exact absurd hsend h
  · rfl

theorem State.uartPump_takes {b : Byte} {l : List Byte} (hsend : s.periph.uartSending = none) (htx : s.periph.uartTx = b :: l)
    (hen : s.flag Reg.uartCtrl 0 = true) : s.uartPump = { s with periph := { s.periph with uartSending := some b, uartTx := l } } := by
  simp only [State.uartPump, hsend, htx, hen, if_true]

/-- The state in which a character has gone to UART_TX. -/
def State.uartSent (s : State) (b : Byte) : State :=
  { s with periph := { s.periph with uartSending := none }, outs := { s.outs with uart := s.uartChar b :: s.outs.uart } }

theorem exec_uartCharacterSent {b : Byte} (hsend : s.periph.uartSending = some b) (hloop : s.flag Reg.uartCtrl 6 = false) :
    exec .uartCharacterSent s = .next (s.uartSent b).uartPump := by
  simp only [exec, execUartCharacterSent, hsend, hloop, Bool.false_eq_true, if_false]
  rfl

theorem State.uartChar_eq (s : State) (b : Byte) : s.uartChar b =
    let bits := (List.range (if s.flag Reg.uartCtrl 2 then 7 else 8)).map fun i => b.toNat.testBit i
    let ones := (bits.filter fun x => x).length
    [false] ++ bits ++ (if s.fld Reg.uartCtrl 5 4 = 1 then [decide (ones % 2 = 1)] else if s.fld Reg.uartCtrl 5 4 = 2 then [decide (ones % 2 = 0)]
      else []) ++ [true] ++ (if s.flag Reg.uartCtrl 3 then [true] else []) := by
  have hstop : List.replicate (1 + s.fld Reg.uartCtrl 3 3) true = [true] ++ (if s.flag Reg.uartCtrl 3 then [true] else []) := by
    rw [State.fld, bitsOf_single, State.flag]
    cases bitOf (s.reg Reg.uartCtrl) 3 <;> rfl
  have hparity : ∀ ones p : Nat, (if (p == 1 || p == 2) = true then [((ones + boolNat (p == 2)) % 2 == 1)] else []) =
      if p = 1 then [decide (ones % 2 = 1)] else if p = 2 then [decide (ones % 2 = 0)] else [] := by
    intro ones p
    by_cases h1 : p = 1
    · rw [h1]
      rfl
    by_cases h2 : p = 2
    · have hodd : ((ones + 1) % 2 == 1) = decide (ones % 2 = 0) := by
        rw [Bool.eq_iff_iff, beq_iff_eq, decide_eq_true_iff]
        omega
      rw [h2]
      exact congrArg (fun b => [b]) hodd
    · simp [h1, h2]
  simp only [State.uartChar, State.uartBits, State.uartParity, sum_map_boolNat, hparity, hstop, List.append_assoc]

end

/-! ### The SPI flash port (R412) -/

section
variable {s : State} {v : Word}

theorem exec_spiXferGo (h : s.PfReaches Reg.spiXfer) : exec (.spiXferGo v) s = .next (s.spiXferWrite v) :=
  congrArg Host.Outcome.next (State.pfReach_of_reaches h _)

/-- The word that a write of SPI_XFER leaves. -/
def State.spiWord (s : State) (v : Word) : Word := (v &&& 0x30007FFF) ||| (if s.flag Reg.spiXfer 30 then 0x40000000 else 0)

/-- The state of the device does not depend on SPI_XFER. -/
theorem State.discState_setReg_spi (s : State) (w : Word) : (s.setReg Reg.spiXfer w).discState = s.discState := by
  have h : (s.setReg Reg.spiXfer w).flag Reg.rstBoot 31 = s.flag Reg.rstBoot 31 := congrArg (bitOf · 31) (s.reg_setReg_other _ _ _ (by decide))
  simp only [State.discState, h]
  rfl

theorem State.spiXferWrite_noGo (h : bitOf v 31 = false) : s.spiXferWrite v = s.setReg Reg.spiXfer (s.spiWord v) := by
  refine if_pos ?_
  rw [h]
  rfl

section
variable (hgo : bitOf v 31 = true)
include hgo

theorem State.spiXferWrite_ignored (h : s.discState ≠ 2) : s.spiXferWrite v = (s.setReg Reg.spiXfer (s.spiWord v)).ignoredWrite 0x58 Reg.spiXfer := by
  refine (if_neg ?_).trans (if_pos ?_)
  · simp [hgo]
  · exact fun e => h ((s.discState_setReg_spi _).symm.trans e)

theorem State.spiXferWrite_busy (h : s.discState = 2) (hb : s.flag Reg.spiXfer 30 = true) : s.spiXferWrite v = s.setReg Reg.spiXfer (s.spiWord v) := by
  refine (if_neg ?_).trans ((if_neg ?_).trans (if_pos hb))
  · simp [hgo]
  · exact fun e => e ((s.discState_setReg_spi _).trans h)

/-- A transfer that starts: BUSY is set, and the bytes are sent. -/
def State.spiStarted (s : State) (v : Word) : State :=
  let u := (s.setReg Reg.spiXfer (s.spiWord v)).setFlag Reg.spiXfer 30 true
  { u with periph := { u.periph with spi := some (v &&& 0x30007FFF, u.reg Reg.spiAddr) }, outs := { u.outs with spi := u.spiSent (v &&& 0x30007FFF) :: u.outs.spi } }

theorem State.spiXferWrite_starts (h : s.discState = 2) (hb : s.flag Reg.spiXfer 30 = false) : s.spiXferWrite v = s.spiStarted v := by
  refine (if_neg ?_).trans ((if_neg ?_).trans (if_neg (Bool.eq_false_iff.mp hb)))
  · simp [hgo]
  · exact fun e => e ((s.discState_setReg_spi _).trans h)

end

theorem spiBuf_ne_spiXfer (n : Nat) : Reg.spiBuf 0 + n ≠ Reg.spiXfer := by
  simp only [Reg.spiBuf, Reg.spiXfer]
  omega

theorem State.reg_spiStarted (s : State) (v : Word) {o : Nat} (h : o ≠ Reg.spiXfer) :
    ((s.setReg Reg.spiXfer (s.spiWord v)).setFlag Reg.spiXfer 30 true).reg o = s.reg o :=
  (State.reg_setFlag_other _ _ _ _ _ h).trans (s.reg_setReg_other _ _ _ h)

theorem State.spiSent_started (s : State) (v : Word) :
    ((s.setReg Reg.spiXfer (s.spiWord v)).setFlag Reg.spiXfer 30 true).spiSent (v &&& 0x30007FFF) =
      [BitVec.ofNat 8 (bitsOf v 7 0)] ++ (if bitOf v 28 then (leBytes 4 (s.reg Reg.spiAddr).toNat).reverse else []) ++
        (if bitOf v 29 then s.bufBytes (Reg.spiBuf 0) (min 64 (bitsOf v 14 8)) else []) := by
  have h28 : bitOf (v &&& 0x30007FFF) 28 = bitOf v 28 := by rw [bitOf_and, show bitOf 0x30007FFF 28 = true by decide, Bool.and_true]
  have h29 : bitOf (v &&& 0x30007FFF) 29 = bitOf v 29 := by rw [bitOf_and, show bitOf 0x30007FFF 29 = true by decide, Bool.and_true]
  have hbuf : ∀ n, ((s.setReg Reg.spiXfer (s.spiWord v)).setFlag Reg.spiXfer 30 true).bufBytes (Reg.spiBuf 0) n = s.bufBytes (Reg.spiBuf 0) n :=
    fun n => State.bufBytes_congr fun k _ => s.reg_spiStarted v (spiBuf_ne_spiXfer _)
  rw [State.spiSent, h28, h29, spiCnt, bitsOf_and_of_covered _ _ (by decide), bitsOf_and_of_covered _ _ (by decide), hbuf,
    s.reg_spiStarted v (by decide)]

/-- The state in which a transfer of the flash port is over. -/
def State.spiOver (s : State) : State := { s.setFlag Reg.spiXfer 30 false with periph := { s.periph with spi := none } }

variable {w ad : Word} (hw : s.periph.spi = some (w, ad)) (rd : List Byte)
include hw

theorem exec_spiXferEnd_read (h29 : bitOf w 29 = false) (hn : spiCnt w ≠ 0) : exec (.spiXferEnd rd) s = .next (s.spiOver.setBufBytes (Reg.spiBuf 0)
    (if bitsOf w 7 0 = 0x13 ∧ bitOf w 28 then s.readFlash ad.toNat (spiCnt w) else rd.take (spiCnt w))) := by
  simp only [exec, execSpiXferEnd, hw, h29, hn, ne_eq, not_false_eq_true, and_self, if_true]
  rfl

/-- With no bytes to read, the operation alone counts. -/
theorem exec_spiXferEnd_op (h : bitOf w 29 = true ∨ spiCnt w = 0) : exec (.spiXferEnd rd) s = .next
    (if bitsOf w 7 0 = 0x12 ∧ bitOf w 28 ∧ bitOf w 29 then s.spiOver.pageProgram ad.toNat (s.spiOver.bufBytes (Reg.spiBuf 0) (spiCnt w))
     else if bitsOf w 7 0 = 0x21 ∧ bitOf w 28 then s.spiOver.writeFlash (4096 * (ad.toNat / 4096)) (List.replicate 4096 0xFF)
     else s.spiOver) := by
  have hcond : ¬ (bitOf w 29 = false ∧ spiCnt w ≠ 0) := by
    rintro ⟨h29, hn⟩
    rcases h with h | h
    · exact absurd (h29.symm.trans h) (by decide)
    · exact hn h
  simp only [exec, execSpiXferEnd, hw, if_neg hcond]
  rfl

end

/-! ### The obligation -/

/-- Settles O60, port by port. -/
theorem debugUartAndFlashPort : Obligations.DebugUartAndFlashPort := by
  refine ⟨fun s v hreach => ⟨fun h => ?_, fun hroom hidle => ?_, fun htx hsend hen => ?_⟩, fun s hreach => ⟨fun h => ?_, fun b l h => ?_⟩, fun s l h => ?_,
    fun s l b hen hloop h7 hbits hp => ?_, fun s l hc hen hloop h7 hp => ?_, fun s b hsend hloop => ?_, fun s v hreach => ?_, fun s rd h => ?_,
    fun s rd w ad hw => ?_⟩
  · rw [exec_uartDataWrite hreach, State.uartWrite, if_pos h]
  · rw [exec_uartDataWrite hreach, State.uartWrite, if_neg (by omega)]
    refine congrArg Host.Outcome.next (State.uartPump_idle ?_)
    rcases hidle with h | h
    · exact .inr (.inr h)
    · exact .inr (.inl h)
  · have hroom : ¬ 16 ≤ s.periph.uartTx.length := by
      rw [htx]
      decide
    rw [exec_uartDataWrite hreach, State.uartWrite, if_neg hroom]
    refine congrArg Host.Outcome.next (State.uartPump_takes (s := { s with periph := { s.periph with uartTx := s.periph.uartTx ++ [_] } }) hsend ?_ hen)
    exact congrArg (· ++ _) htx
  · rw [exec_uartDataRead hreach]
    simp only [State.uartTake, h]
    rfl
  · rw [exec_uartDataRead hreach]
    have hword : ∀ x : Byte, (BitVec.ofNat 32 (256 + x.toNat)).setWidth 64 = BitVec.ofNat 64 (256 + x.toNat) := fun x => by
      have hx := x.isLt
      refine BitVec.eq_of_toNat_eq ?_
      rw [BitVec.toNat_setWidth, BitVec.toNat_ofNat, BitVec.toNat_ofNat]
      omega
    simp only [State.uartTake, h, State.uartMask, hword]
  · refine congrArg Host.Outcome.next (if_neg ?_)
    rcases h with h | h
    · simp only [h, Bool.false_and, Bool.false_eq_true, not_false_eq_true]
    · simp only [h, Bool.not_true, Bool.and_false, Bool.false_eq_true, not_false_eq_true]
  · rw [exec_uartCharacterReceive l hen hloop, State.uartReceive_plain h7 l hp, lineByte_eq hbits]
    refine ⟨fun hstop hroom => ?_, fun hc hstop hfull => ?_, fun hc hstop => ?_⟩
    · obtain ⟨hregs, hperiph, hquiet⟩ := State.uartStore_room b hroom
      rw [State.uartMask_eight h7] at hperiph
      exact ⟨_, congrArg _ (if_pos hstop), hperiph, hregs, hquiet⟩
    · rw [if_pos hstop, State.uartStore_full b hfull]
      exact ⟨_, rfl, s.periph_uartErr 3, State.flag_uartErr_same hc.rising (by decide), fun o ho => s.reg_uartErr_other 3 (by simpa using ho)⟩
    · rw [if_neg (Bool.eq_false_iff.mp hstop)]
      refine ⟨_, rfl, ?_⟩
      have hset := State.flag_uartErr_same hc.rising (bit := 0) (by decide)
      split
      · refine ⟨(State.periph_uartErr _ _).trans (s.periph_uartErr 0), ?_, fun o ho => ?_⟩
        · exact (State.flag_uartErr_other (State.uartErr_rising hc.rising 0) (by decide) (by decide)).trans hset
        · have ho' : o ≠ Reg.uartStat := by simpa using ho
          exact (State.reg_uartErr_other _ _ ho').trans (s.reg_uartErr_other 0 ho')
      · exact ⟨s.periph_uartErr 0, hset, fun o ho => s.reg_uartErr_other 0 (by simpa using ho)⟩
  · intro odd good hbad hstop
    have hpar : s.uartParity = true := by
      rw [State.uartParity]
      rcases hp with hp | hp <;> rw [hp] <;> rfl
    rw [exec_uartCharacterReceive l hen hloop, State.uartReceive_badParity h7 l hpar (parity_differs hp hbad) hstop]
    refine ⟨_, rfl, (State.flag_uartStore (State.uartErr_rising hc.rising 1) _ (by decide)).trans ?_⟩
    exact State.flag_uartErr_same hc.rising (by decide)
  · intro bits ones out
    have houts : (s.uartSent b).outs = { s.outs with uart := out :: s.outs.uart } :=
      congrArg (fun c => { s.outs with uart := c :: s.outs.uart }) (s.uartChar_eq b)
    rw [exec_uartCharacterSent hsend hloop]
    by_cases hidle : s.periph.uartTx = [] ∨ s.flag Reg.uartCtrl 0 = false
    · rw [State.uartPump_idle (s := s.uartSent b) (hidle.imp_right .inl)]
      refine ⟨_, rfl, houts, fun _ => rfl, fun x l htx hen => ?_, rfl⟩
      rcases hidle with h | h
      · exact absurd (htx.symm.trans h) (by simp)
      · exact absurd (hen.symm.trans h) (by decide)
    · obtain ⟨hsome, hen⟩ := not_or.mp hidle
      have hen' : s.flag Reg.uartCtrl 0 = true := Bool.not_eq_false _ ▸ hen
      obtain ⟨x, l, htx⟩ := List.exists_cons_of_ne_nil hsome
      rw [State.uartPump_takes (s := s.uartSent b) rfl htx hen']
      refine ⟨_, rfl, houts, fun h => absurd h hidle, fun y m hym _ => ?_, rfl⟩
      obtain ⟨rfl, rfl⟩ := List.cons.inj (htx.symm.trans hym)
      rfl
  · refine ⟨fun hgo => ?_, fun hgo h => ?_, fun hgo h hb => ?_, fun hc hgo h hb => ?_⟩
    · rw [exec_spiXferGo hreach, State.spiXferWrite_noGo hgo]
      rfl
    · rw [exec_spiXferGo hreach, State.spiXferWrite_ignored hgo h]
      rfl
    · rw [exec_spiXferGo hreach, State.spiXferWrite_busy hgo h hb]
      rfl
    · rw [exec_spiXferGo hreach, State.spiXferWrite_starts hgo h hb]
      refine ⟨_, rfl, State.flag_setFlag_same _ _ _ _ (s.setReg_rising _ _ hc.rising) (by decide), ?_, ?_, rfl, fun o ho => ?_⟩
      · have hne : Reg.spiAddr ≠ Reg.spiXfer := by decide
        exact congrArg (fun a => { s.periph with spi := some (v &&& 0x30007FFF, a) }) (s.reg_spiStarted v hne)
      · exact congrArg (· :: s.outs.spi) (s.spiSent_started v)
      · exact s.reg_spiStarted v (by simpa using ho)
  · simp only [exec, execSpiXferEnd, h]
  · have hbuf : s.spiOver.bufBytes (Reg.spiBuf 0) (spiCnt w) = s.bufBytes (Reg.spiBuf 0) (spiCnt w) :=
      State.bufBytes_congr fun k _ => s.reg_setFlag_other _ _ _ _ (spiBuf_ne_spiXfer _)
    refine ⟨fun hc h29 hn => ?_, fun h28 h29 hop => ?_, fun h28 h29 hop => ?_, fun h29 hop => ?_⟩
    · have hr : Rising s.spiOver.regs := s.setFlag_rising _ _ _ hc.rising
      rw [exec_spiXferEnd_read hw rd h29 hn]
      refine ⟨_, rfl, ?_, fun hop h28 => ?_, fun hop hlen => ?_, State.setBufBytes_frame hr _ _⟩
      · exact (congrArg (bitOf · 30) (State.reg_setBufBytes_other hr _ _ fun i _ => (spiBuf_ne_spiXfer _).symm)).trans
          (s.flag_setFlag_same _ _ _ hc.rising (by decide))
      · have hlen : (s.readFlash ad.toNat (spiCnt w)).length = spiCnt w := by simp [State.readFlash, cellsRead]
        have hback := State.bufBytes_setBufBytes hr (Reg.spiBuf 0) (s.readFlash ad.toNat (spiCnt w))
        rw [hlen] at hback
        rw [if_pos ⟨hop, h28⟩]
        exact hback
      · have hlen' : (rd.take (spiCnt w)).length = spiCnt w := List.length_take.trans (Nat.min_eq_left hlen)
        have hback := State.bufBytes_setBufBytes hr (Reg.spiBuf 0) (rd.take (spiCnt w))
        rw [hlen'] at hback
        rw [if_neg fun h => hop h.1]
        exact hback
    · rw [exec_spiXferEnd_op hw rd (.inl h29), if_pos ⟨hop, h28, h29⟩, hbuf]
      rfl
    · rw [exec_spiXferEnd_op hw rd h29, if_neg (fun h => absurd (hop.symm.trans h.1) (by decide)), if_pos ⟨hop, h28⟩]
      rfl
    · have h12 : ¬ (bitsOf w 7 0 = 0x12 ∧ bitOf w 28 = true ∧ bitOf w 29 = true) := by
        rintro ⟨h, h28, -⟩
        rcases hop with hop | ⟨hop, -⟩
        · exact absurd (h28.symm.trans hop) (by decide)
        · exact hop h
      have h21 : ¬ (bitsOf w 7 0 = 0x21 ∧ bitOf w 28 = true) := by
        rintro ⟨h, h28⟩
        rcases hop with hop | ⟨-, hop⟩
        · exact absurd (h28.symm.trans hop) (by decide)
        · exact hop h
      rw [exec_spiXferEnd_op hw rd h29, if_neg h12, if_neg h21]
      rfl

end Sys2Proof.Machine

/-!
PROOF. The partition port: PT_DATA and ACCT_SEL (R251, R270, R274, R275).
-/

namespace Sys2Proof.Machine

section
variable {s : State}

theorem exec_ptDataWrite (v : Word) (h : s.PfReaches Reg.ptData) : exec (.ptDataWrite v) s = .next (s.ptWrite v) :=
  congrArg Host.Outcome.next (State.pfReach_of_reaches h _)

theorem exec_ptDataRead (h : s.PfReaches Reg.ptData) : exec .ptDataRead s =
    .next { s.ptAdvance with outs := { s.ptAdvance.outs with busData := s.ptWord.setWidth 64 } } :=
  congrArg Host.Outcome.next (State.pfRead_of_reaches h _)

/-- PT_SEL selects a word that a write may change. -/
def State.ptWritable (s : State) : Prop :=
  s.flag Reg.ptSel 31 = true ∧ 1 ≤ s.fld Reg.ptSel 26 24 ∧ s.fld Reg.ptSel 26 24 ≤ 4 ∧ s.fld Reg.ptSel 8 0 < tableWords (s.fld Reg.ptSel 26 24)

theorem State.ptWrite_ok (v : Word) (h : s.ptWritable) : s.ptWrite v =
    (s.shadowWrite (s.fld Reg.ptSel 21 16) (tabKey (s.fld Reg.ptSel 26 24) (s.fld Reg.ptSel 8 0)) v).ptAdvance :=
  congrArg State.ptAdvance (if_pos h)

theorem State.ptWrite_refused (v : Word) (h : ¬ s.ptWritable) : s.ptWrite v = (s.setFlag Reg.ptSel 30 true).ptAdvance :=
  congrArg State.ptAdvance (if_neg h)

/-- Beyond the end of its table a word is 0. -/
theorem State.ptWord_beyond (h : tableWords (s.fld Reg.ptSel 26 24) ≤ s.fld Reg.ptSel 8 0) : s.ptWord = 0 := if_neg (Nat.not_lt.mpr h)

theorem State.ptWord_within (h : s.fld Reg.ptSel 8 0 < tableWords (s.fld Reg.ptSel 26 24)) (ht : s.fld Reg.ptSel 26 24 ≤ 4) : s.ptWord =
    tableWord (if s.flag Reg.ptSel 31 then (s.part (s.fld Reg.ptSel 21 16)).shadow else (s.part (s.fld Reg.ptSel 21 16)).active)
      (s.fld Reg.ptSel 26 24) (s.fld Reg.ptSel 8 0) := by
  refine (if_pos h).trans ?_
  split
  · next h5 => exact absurd (h5 ▸ ht : (5 : Nat) ≤ 4) (by decide)
  · next h6 => exact absurd (h6 ▸ ht : (6 : Nat) ≤ 4) (by decide)
  · rfl

/-! ### The accounts (R270) -/

/-- The account that a word for ACCT_SEL names. -/
def State.account (s : State) (v : Word) : Nat × Nat := listAt (0, 0) (s.part (bitsOf v 5 0)).acct (bitsOf v 10 8)

/-- The SNAP bit that a snapshot adds stands above the fields that it names. -/
theorem bitsOf_withSnap (v : Word) {hi : Nat} (lo : Nat) (h : hi < 31) : bitsOf (v ||| 0x80000000) hi lo = bitsOf v hi lo := by
  have hmask : ∀ i < 31, bitOf 0x80000000 i = false := by decide
  refine bitsOf_congr fun i _ hi' => ?_
  rw [bitOf_or, hmask i (by omega), Bool.or_false]

/-- The state in which an account has been latched. -/
def State.acctLatched (s : State) (v : Word) : State :=
  ((((s.setReg Reg.acctSel ((v ||| 0x80000000) &&& 0x73F)).setReg Reg.acctNsLo (BitVec.ofNat 32 (s.account v).1)).setReg Reg.acctNsHi
    (BitVec.ofNat 32 ((s.account v).1 / 2 ^ 32))).setReg Reg.acctStepLo (BitVec.ofNat 32 (s.account v).2)).setReg Reg.acctStepHi
    (BitVec.ofNat 32 ((s.account v).2 / 2 ^ 32))

theorem exec_acctSelSnap {v : Word} (h : s.PfReaches Reg.acctSel) (hc : bitsOf v 10 8 < 5) : exec (.acctSelSnap v) s = .next (s.acctLatched v) := by
  refine congrArg Host.Outcome.next ((State.pfReach_of_reaches h _).trans ?_)
  have hsnap : bitOf (v ||| 0x80000000) 31 = true := by rw [bitOf_or, show bitOf 0x80000000 31 = true by decide, Bool.or_true]
  simp only [State.acctSelWrite, hsnap, if_true, bitsOf_withSnap v _ (show 10 < 31 by decide), bitsOf_withSnap v _ (show 5 < 31 by decide), if_pos hc]
  rfl

/-- What the five registers hold then. -/
theorem State.reg_acctLatched (hr : Rising s.regs) (v : Word) :
    (s.acctLatched v).reg Reg.acctSel = (v ||| 0x80000000) &&& 0x73F ∧
    (s.acctLatched v).reg Reg.acctNsLo = BitVec.ofNat 32 (s.account v).1 ∧
    (s.acctLatched v).reg Reg.acctNsHi = BitVec.ofNat 32 ((s.account v).1 / 2 ^ 32) ∧
    (s.acctLatched v).reg Reg.acctStepLo = BitVec.ofNat 32 (s.account v).2 ∧
    (s.acctLatched v).reg Reg.acctStepHi = BitVec.ofNat 32 ((s.account v).2 / 2 ^ 32) := by
  have h1 : ∀ w, Rising (s.setReg Reg.acctSel w).regs := fun w => s.setReg_rising _ w hr
  have h2 : ∀ w w2, Rising ((s.setReg Reg.acctSel w).setReg Reg.acctNsLo w2).regs := fun w w2 => State.setReg_rising _ _ w2 (h1 w)
  have h3 : ∀ w w2 w3, Rising (((s.setReg Reg.acctSel w).setReg Reg.acctNsLo w2).setReg Reg.acctNsHi w3).regs :=
    fun w w2 w3 => State.setReg_rising _ _ w3 (h2 w w2)
  have h4 : ∀ w w2 w3 w4, Rising ((((s.setReg Reg.acctSel w).setReg Reg.acctNsLo w2).setReg Reg.acctNsHi w3).setReg Reg.acctStepLo w4).regs :=
    fun w w2 w3 w4 => State.setReg_rising _ _ w4 (h3 w w2 w3)
  refine ⟨?_, ?_, ?_, ?_, State.reg_setReg_same _ _ _ (h4 _ _ _ _)⟩
  · rw [State.acctLatched, State.reg_setReg_other _ _ _ _ (by decide), State.reg_setReg_other _ _ _ _ (by decide),
      State.reg_setReg_other _ _ _ _ (by decide), State.reg_setReg_other _ _ _ _ (by decide), State.reg_setReg_same _ _ _ hr]
  · rw [State.acctLatched, State.reg_setReg_other _ _ _ _ (by decide), State.reg_setReg_other _ _ _ _ (by decide),
      State.reg_setReg_other _ _ _ _ (by decide), State.reg_setReg_same _ _ _ (h1 _)]
  · rw [State.acctLatched, State.reg_setReg_other _ _ _ _ (by decide), State.reg_setReg_other _ _ _ _ (by decide),
      State.reg_setReg_same _ _ _ (h2 _ _)]
  · rw [State.acctLatched, State.reg_setReg_other _ _ _ _ (by decide), State.reg_setReg_same _ _ _ (h3 _ _ _)]

theorem bitsOf_ofNat_whole (n : Nat) : bitsOf (BitVec.ofNat 32 n) 31 0 = n % 2 ^ 32 := by
  rw [bitsOf, BitVec.toNat_ofNat, Nat.pow_zero, Nat.div_one]
  exact Nat.mod_mod _ _

/-- The two halves of a 64-bit count. -/
theorem bitsOf_halves (n : Nat) : bitsOf (BitVec.ofNat 32 n) 31 0 + 2 ^ 32 * bitsOf (BitVec.ofNat 32 (n / 2 ^ 32)) 31 0 = n % 2 ^ 64 := by
  rw [bitsOf_ofNat_whole, bitsOf_ofNat_whole]
  omega

end

/-! ### The obligation -/

theorem State.fld_ptAdvance {t : State} (hr : Rising t.regs) : t.ptAdvance.fld Reg.ptSel 8 0 = (t.fld Reg.ptSel 8 0 + 1) % 512 :=
  State.fld_setFld_same _ _ _ _ _ hr (by decide)

/-- Settles O9: the outcomes of a write and of a read of PT_DATA, and the snapshot of an account. -/
theorem partitionPortAccess : Obligations.PartitionPortAccess := by
  intro s v hc
  refine ⟨fun hreach => ⟨fun hok hswap => ?_, fun hok hswap => ?_, fun hbad => ?_, ?_⟩, fun hreach hclass => ?_⟩
  · rw [exec_ptDataWrite v hreach, State.ptWrite_ok v hok, State.shadowWrite_put hswap]
    rfl
  · rw [exec_ptDataWrite v hreach, State.ptWrite_ok v hok, State.shadowWrite_held hswap]
    rfl
  · have hword : (s.setFlag Reg.ptSel 30 true).fld Reg.ptSel 8 0 = s.fld Reg.ptSel 8 0 := State.fld_setFld_apart hc.rising _ (by decide) (by decide)
    rw [exec_ptDataWrite v hreach, State.ptWrite_refused v hbad, State.ptAdvance, hword]
  · refine ⟨_, exec_ptDataRead hreach, State.fld_ptAdvance hc.rising, fun h => ?_, fun h ht => ?_, rfl,
      fun o ho => s.reg_setFld_other _ _ _ _ _ (by simpa using ho)⟩
    · exact congrArg (BitVec.setWidth 64) (State.ptWord_beyond h)
    · exact congrArg (BitVec.setWidth 64) (State.ptWord_within h ht)
  · obtain ⟨hsel, hnsLo, hnsHi, hstepLo, hstepHi⟩ := State.reg_acctLatched hc.rising v
    refine ⟨_, exec_acctSelSnap hreach hclass, ?_, ?_, ?_, ?_, rfl, fun o ho => ?_⟩
    · rw [State.fld, hsel, bitsOf_and_of_covered _ _ (by decide), bitsOf_withSnap _ _ (by decide)]
    · rw [State.fld, hsel, bitsOf_and_of_covered _ _ (by decide), bitsOf_withSnap _ _ (by decide)]
    · rw [State.fld, State.fld, hnsLo, hnsHi, bitsOf_halves]
      rfl
    · rw [State.fld, State.fld, hstepLo, hstepHi, bitsOf_halves]
      rfl
    · simp only [List.mem_cons, List.not_mem_nil, or_false, not_or] at ho
      obtain ⟨h1, h2, h3, h4, h5⟩ := ho
      rw [State.acctLatched, State.reg_setReg_other _ _ _ _ h5, State.reg_setReg_other _ _ _ _ h4, State.reg_setReg_other _ _ _ _ h3,
        State.reg_setReg_other _ _ _ _ h2, State.reg_setReg_other _ _ _ _ h1]

end Sys2Proof.Machine

/-!
PROOF. The management commands PART_WRITE_SHADOW and RUN_ABORT (R249-R251, R275).
-/

namespace Sys2Proof.Machine

section
variable {s : State} {c : Cmd}

/-- A management command whose turn it is runs its operation. -/
theorem State.runMgmt_issued {op : Nat} (h : s.MgmtIssued c op) (f : Cmd → State → State) : s.runMgmt c.id op f = f c s := by
  obtain ⟨hissued, hturn⟩ := h
  rw [State.runMgmt, State.runOp_issued hissued, if_pos hturn]

/-! ### PART_WRITE_SHADOW (R251, R275) -/

theorem exec_partWriteShadow (h : s.MgmtIssued c 0x80) : exec (.partWriteShadow c.id) s = .next (State.opPartWriteShadow c s) :=
  congrArg Host.Outcome.next (State.runMgmt_issued h _)

theorem State.opPartWriteShadow_held (h : s.swapping (c.par 0 1 % 64) = true) : State.opPartWriteShadow c s =
    { s.updCmd c.id fun c => { c with phase := .active } with swap := { s.swap with heldCmds := s.swap.heldCmds ++ [c.id] } } := if_pos h

theorem State.opPartWriteShadow_writes (h : s.swapping (c.par 0 1 % 64) = false) : State.opPartWriteShadow c s = s.writeShadow c :=
  if_neg (Bool.eq_false_iff.mp h)

theorem State.writeShadow_badFields (h : 4 < c.par 1 1 ∨ c.par 4 4 ≠ 4 * tableWords (c.par 1 1)) : s.writeShadow c = s.endCmd c.id .badOpcode 0 :=
  if_pos h

section
variable (ht : c.par 1 1 ≤ 4) (hlen : c.par 4 4 = 4 * tableWords (c.par 1 1))
include ht hlen

theorem shadowFields_ok : ¬ (4 < c.par 1 1 ∨ c.par 4 4 ≠ 4 * tableWords (c.par 1 1)) := by
  rintro (h | h)
  · omega
  · exact h hlen

theorem State.writeShadow_bounds (h : s.translate c.part (c.par 8 8) (c.par 4 4) .rd = none) :
    s.writeShadow c = (s.noteFault 0x09 c.part (.bounds, some (c.par 8 8))).endCmd c.id .bounds 0 := by
  refine (if_neg (shadowFields_ok ht hlen)).trans ?_
  simp only [h]

theorem State.writeShadow_copies {da : Nat} (hopen : ∀ path, (s.shade c.part path).rate = 0)
    (h : s.translate c.part (c.par 8 8) (c.par 4 4) .rd = some da) (hok : s.readStatus da (c.par 4 4) = (.ok, none)) :
    s.writeShadow c = ((bytesWords (s.readMem da (c.par 4 4))).zipIdx.foldl
      (fun s w => s.putShadow (c.par 0 1 % 64) (tabKey (c.par 1 1) w.2) w.1) s).endCmd c.id .ok 0 := by
  refine (if_neg (shadowFields_ok ht hlen)).trans ?_
  simp only [h, State.shadeAskAll_unregulated hopen, hok]

end

/-! ### RUN_ABORT (R249, R250) -/

/-- The abort of a command that is not the PART_SWAP in progress. -/
theorem State.abortOne_other {x : Cmd} (h : match s.swap.current with | some r => r.cmd ≠ some x.id | none => True) : s.abortOne x = s.abortCmd x := by
  unfold State.abortOne
  cases hc : s.swap.current with
  | none => rfl
  | some r =>
    rw [hc] at h
    exact if_neg h

theorem State.abortOne_swap {x : Cmd} {r : SwapReq} (hc : s.swap.current = some r) (hx : r.cmd = some x.id) :
    s.abortOne x = { s with swap := { s.swap with current := some { r with aborted := true } } } := by
  simp only [State.abortOne, hc, if_pos hx]

end

/-- Settles O38: what PART_WRITE_SHADOW does by the swap, its fields and its source, and whom RUN_ABORT aborts. -/
theorem shadowWriteAndRunAbort : Obligations.ShadowWriteAndRunAbort := by
  refine ⟨fun s c h => ⟨fun hswap => ?_, fun hswap hbad => ?_, fun hswap ht hlen => ⟨fun hno => ?_, fun da hopen hda hok => ?_⟩⟩,
    fun s c h => ⟨congrArg Host.Outcome.next (State.runMgmt_issued h _), fun x _ hx => State.abortOne_other hx, fun x r => State.abortOne_swap⟩⟩
  · rw [exec_partWriteShadow h, State.opPartWriteShadow_held hswap]
  · rw [exec_partWriteShadow h, State.opPartWriteShadow_writes hswap, State.writeShadow_badFields hbad]
  · rw [exec_partWriteShadow h, State.opPartWriteShadow_writes hswap, State.writeShadow_bounds ht hlen hno]
  · rw [exec_partWriteShadow h, State.opPartWriteShadow_writes hswap, State.writeShadow_copies ht hlen hopen hda hok]

end Sys2Proof.Machine

/-!
PROOF. Pewter's pools: allocation, release, sharing and the pool enables (R277-R283).
-/

namespace Sys2Proof.Machine

/-! ### Allocation (R280) -/

section
variable {s : State} {c : Cmd}

/-- Buffers taken one after another: as many handles, and only the records of buffers change. -/
theorem State.takeBufs_frame (p pool n : Nat) {s s1 : State} {hs : List Nat} (h : s.takeBufs p pool n = some (s1, hs)) :
    hs.length = n ∧ s1 = { s with bufs := s1.bufs } := by
  induction n generalizing s s1 hs with
  | zero =>
    cases h
    exact ⟨rfl, rfl⟩
  | succ n ih =>
    rw [State.takeBufs] at h
    split at h
    · cases h
    dsimp only at h
    split at h
    · cases h
    next v l hl =>
      cases h
      obtain ⟨hlen, hframe⟩ := ih hl
      exact ⟨congrArg (· + 1) hlen, hframe⟩

theorem State.allocBufs_frame {p size n : Nat} {s1 : State} {hs : List Nat} (h : s.allocBufs p size n = some (s1, hs)) :
    hs.length = n ∧ s1 = { s with bufs := s1.bufs } := by
  unfold State.allocBufs at h
  split at h
  · cases h
  split at h
  · exact State.takeBufs_frame _ _ _ h
  · cases h

/-- One buffer: the eligible one of lowest index. -/
theorem State.allocBufs_one {p size k i : Nat} (hk : poolFor size = some k) (hen : s.poolEn k = true) (hinit : k ∉ s.poolInit)
    (hq : s.quotaAllows p k 1 = true) (hst : s.stateTableLost = false) (hi : s.eligible p k = some i) :
    s.allocBufs p size 1 = some (s.setBuf k i { s.buf k i with slots := [some p, none, none, none] }, [handleOf (s.buf k i).gen.toNat k i]) := by
  have hopen : (s.poolEn k && !s.poolInit.contains k && s.quotaAllows p k 1 && !s.stateTableLost) = true := by simp [hen, hinit, hq, hst]
  simp only [State.allocBufs, hk, hopen, if_true, State.takeBufs, hi]

theorem exec_poolAlloc (h : s.Issued c 0x72) : exec (.poolAlloc c.id) s = .next (State.opPoolAlloc c s) :=
  congrArg Host.Outcome.next (State.runOp_issued h _)

section
variable (hsize : 0 < c.par 0 4) (hmax : c.par 0 4 ≤ 0x400000) (hn : 0 < c.par 4 2) (hnmax : c.par 4 2 ≤ 256) (halign : c.par 8 8 % 8 = 0)
  {da : Nat} (hda : s.translate c.part (c.par 8 8) (8 * c.par 4 2) .wr = some da) (hok : s.accessStatus da = .ok)
include hsize hmax hn hnmax halign hda hok

/-- A POOL_ALLOC whose fields and destination pass. -/
theorem State.opPoolAlloc_passes : State.opPoolAlloc c s = if s.allocWaits (c.par 0 4) then s else
    match s.shadeAskAll c.part (cmdKey c.id) (s.chargePath da 2 (8 * c.par 4 2)) with
    | (s0, false) => s0
    | (s0, true) =>
      match s0.allocBufs c.part (c.par 0 4) (c.par 4 2) with
      | none => s0.endCmd c.id .noBuffer 0
      | some (s1, hs) => (s1.store da ((hs.map fun h => leBytes 8 h).flatten)).endCmd c.id .ok (BitVec.ofNat 32 (c.par 4 2)) := by
  have hfields : ¬ (c.par 0 4 = 0 ∨ 0x400000 < c.par 0 4 ∨ c.par 4 2 = 0 ∨ 256 < c.par 4 2) := by omega
  refine (if_neg hfields).trans ((if_neg (fun h => h halign)).trans ?_)
  simp only [hda, hok] <;> rfl

variable (hwait : s.allocWaits (c.par 0 4) = false) (hopen : ∀ path, (s.shade c.part path).rate = 0)
include hwait hopen

theorem State.opPoolAlloc_none (h : s.allocBufs c.part (c.par 0 4) (c.par 4 2) = none) : State.opPoolAlloc c s = s.endCmd c.id .noBuffer 0 := by
  rw [State.opPoolAlloc_passes hsize hmax hn hnmax halign hda hok, if_neg (Bool.eq_false_iff.mp hwait), State.shadeAskAll_unregulated hopen]
  simp only [h]

theorem State.opPoolAlloc_some {s1 : State} {hs : List Nat} (h : s.allocBufs c.part (c.par 0 4) (c.par 4 2) = some (s1, hs)) :
    State.opPoolAlloc c s = (s1.store da ((hs.map fun h => leBytes 8 h).flatten)).endCmd c.id .ok (BitVec.ofNat 32 (c.par 4 2)) := by
  rw [State.opPoolAlloc_passes hsize hmax hn hnmax halign hda hok, if_neg (Bool.eq_false_iff.mp hwait), State.shadeAskAll_unregulated hopen]
  simp only [h]

end

/-! ### Release and sharing (R282, R283) -/

theorem exec_poolFree (h : s.Issued c 0x73) : exec (.poolFree c.id) s = .next (State.opPoolFree c s) :=
  congrArg Host.Outcome.next (State.runOp_issued h _)

theorem exec_poolShare (h : s.Issued c 0x74) : exec (.poolShare c.id) s = .next (State.opPoolShare c s) :=
  congrArg Host.Outcome.next (State.runOp_issued h _)

section
variable {k i : Nat} (hh : s.handleCheck c.part (c.par 0 8) 0 0 = .pass k i)
include hh

theorem State.opPoolFree_pass : State.opPoolFree c s =
    (s.freeHold k i c.part).1.endCmd c.id .ok (BitVec.ofNat 32 (boolNat (s.freeHold k i c.part).2)) := by
  simp only [State.opPoolFree, State.useHandle_pass hh]

theorem State.opPoolShare_pass : State.opPoolShare c s =
    if s.partValid (c.par 8 1 % 64) = false then s.endCmd c.id .bounds 0
    else
      match (List.range 4).find? fun j => (listAt none (s.buf k i).slots j).isNone with
      | none => s.endCmd c.id .quota 0
      | some j =>
        if (s.buf k i).owns (c.par 8 1 % 64) = false ∧ s.quotaAllows (c.par 8 1 % 64) k 1 = false then s.endCmd c.id .quota 0
        else (s.setBuf k i { s.buf k i with slots := listUpd (s.buf k i).slots j fun _ => some (c.par 8 1 % 64) }).endCmd c.id .ok
          (BitVec.ofNat 32 j) := by
  simp only [State.opPoolShare, State.useHandle_pass hh] <;> rfl

end

theorem State.freeHold_last {k i p j : Nat} (hj : lastSlot (s.buf k i).slots p = some j)
    (hall : (listUpd (s.buf k i).slots j fun _ => none).all (·.isNone) = true) :
    s.freeHold k i p = (s.setBuf k i ⟨(s.buf k i).gen + 1, listUpd (s.buf k i).slots j fun _ => none⟩, true) := by
  simp only [State.freeHold, hj, hall, if_true]

theorem State.freeHold_held {k i p j : Nat} (hj : lastSlot (s.buf k i).slots p = some j)
    (hall : (listUpd (s.buf k i).slots j fun _ => none).all (·.isNone) = false) :
    s.freeHold k i p = (s.setBuf k i { s.buf k i with slots := listUpd (s.buf k i).slots j fun _ => none }, false) := by
  simp only [State.freeHold, hj, hall, Bool.false_eq_true, if_false]

/-- The lowest empty slot. -/
theorem find?_emptySlot {l : List (Option Nat)} {j : Nat} (hj : j < 4) (hf : listAt none l j = none) (hlow : ∀ i < j, listAt none l i ≠ none) :
    ((List.range 4).find? fun j => (listAt none l j).isNone) = some j := by
  rw [List.find?_range_eq_some]
  refine ⟨by rw [hf]; rfl, List.mem_range.mpr hj, fun i hi => ?_⟩
  rw [Option.isNone_eq_false_iff.mpr (Option.isSome_iff_ne_none.mpr (hlow i hi))]
  rfl

theorem State.bufs_useHandle (s : State) (p h off len : Nat) : (s.useHandle p h off len).1.bufs = s.bufs := by
  cases hh : s.handleCheck p h off len with
  | pass k i => rw [State.useHandle_pass hh]
  | fail st =>
    simp only [State.useHandle, hh, State.sootEvent_bufs]
    split <;> rfl

end

/-! ### The pool enables (R277) -/

/-- A walk over 0 to n - 1 that acts nowhere. -/
theorem foldl_range_fixed {α : Type} {f : α → Nat → α} {n : Nat} {s : α} (h : ∀ j < n, f s j = s) : (List.range n).foldl f s = s := by
  induction n with
  | zero => rfl
  | succ n ih =>
    rw [List.range_succ, List.foldl_append, ih fun j hj => h j (by omega)]
    exact h n (Nat.lt_succ_self n)

/-- A walk over 0 to n - 1 that acts at k alone. -/
theorem foldl_range_single {α : Type} {f : α → Nat → α} {n k : Nat} (hk : k < n) {s : α} (hbefore : ∀ j < k, f s j = s)
    (hafter : ∀ j < n, k < j → f (f s k) j = f s k) : (List.range n).foldl f s = f s k := by
  induction n with
  | zero => exact absurd hk (Nat.not_lt_zero k)
  | succ n ih =>
    rw [List.range_succ, List.foldl_append]
    by_cases hkn : k < n
    · rw [ih hkn fun j hj => hafter j (by omega)]
      exact hafter n (Nat.lt_succ_self n) hkn
    · have hkn' : k = n := by omega
      rw [← hkn', foldl_range_fixed hbefore]
      rfl

/-- The word with which POOL_ENABLE and POOL_DISABLE write PW_CTRL: the lock and the enables as they stand, but for one. -/
def State.poolWord (s : State) (k : PoolIx) (b : Bool) : Word := setBits (s.reg Reg.pwCtrl &&& 0x800000FF) k k (boolNat b)

theorem bitOf_poolMask (w : Word) : (∀ j, j < 8 ∨ j = 31 → bitOf (w &&& 0x800000FF) j = bitOf w j) ∧ bitOf (w &&& 0x800000FF) 30 = false := by
  have hmask : ∀ j < 32, j < 8 ∨ j = 31 → bitOf 0x800000FF j = true := by decide
  refine ⟨fun j hj => ?_, ?_⟩
  · rw [bitOf_and, hmask j (by omega) hj, Bool.and_true]
  · rw [bitOf_and, show bitOf 0x800000FF 30 = false by decide, Bool.and_false]

section
variable (s : State) (k : PoolIx) (b : Bool)

theorem State.bitOf_poolWord_same : bitOf (s.poolWord k b) k = b := bitOf_setFlag_same _ _ _ (by omega)

theorem State.bitOf_poolWord_other {j : Nat} (hj : j < 8 ∨ j = 31) (hne : j ≠ k.val) : bitOf (s.poolWord k b) j = s.flag Reg.pwCtrl j := by
  rw [State.poolWord, bitOf_setBits_other _ _ _ _ _ (by omega) (by omega), (bitOf_poolMask _).1 j hj, State.flag]

theorem State.bitOf_poolWord_refused : bitOf (s.poolWord k b) 30 = false := by
  rw [State.poolWord, bitOf_setBits_other _ _ _ _ _ (by omega) (by omega), (bitOf_poolMask _).2]

end

/-- While PW_CTRL is locked a write of another enable is a violation. -/
theorem State.pwCtrlWrite_locked {s : State} {k : PoolIx} {b : Bool} (hlock : s.flag Reg.pwCtrl 31 = true) (hen : s.poolEn k ≠ b) :
    s.pwCtrlWrite (s.poolWord k b) = s.lockViolation 0x07 Reg.pwCtrl := by
  have hdiff : (s.poolWord k b &&& 0x800000FF) ≠ (s.reg Reg.pwCtrl &&& 0x800000FF) := fun h => by
    have hk := congrArg (bitOf · k.val) h
    simp only [(bitOf_poolMask _).1 k.val (.inl k.isLt), State.bitOf_poolWord_same] at hk
    exact hen hk.symm
  unfold State.pwCtrlWrite
  simp only [State.bitOf_poolWord_refused, Bool.false_eq_true, if_false]
  exact (if_pos hlock).trans (if_neg hdiff)

/-- While it is not, the enables that the word clears are taken, then those that it sets. -/
theorem State.pwCtrlWrite_open {s : State} {k : PoolIx} {b : Bool} (hlock : s.flag Reg.pwCtrl 31 = false) :
    s.pwCtrlWrite (s.poolWord k b) = (List.range 8).foldl (fun t j => if !t.poolEn j && bitOf (s.poolWord k b) j then t.poolEnable j else t)
      ((List.range 8).foldl (fun t j => if t.poolEn j && !bitOf (s.poolWord k b) j then t.poolDisable j else t) s) := by
  have h31 : bitOf (s.poolWord k b) 31 = false := (s.bitOf_poolWord_other k b (.inr rfl) (by omega)).trans hlock
  unfold State.pwCtrlWrite
  simp only [State.bitOf_poolWord_refused, h31, Bool.false_eq_true, if_false]
  exact if_neg (Bool.eq_false_iff.mp hlock)

/-- A refusal keeps the enables. -/
theorem State.poolEn_cfgRefused {s : State} (hr : Rising s.regs) {j : Nat} (hj : j ≠ 30) : (s.cfgRefused Reg.pwCtrl).poolEn j = s.poolEn j := by
  have hreg : (s.cfgRefused Reg.pwCtrl).reg Reg.pwCtrl = (s.setFlag Reg.pwCtrl 30 true).reg Reg.pwCtrl := State.reg_sootEvent _ _ _ _ _ (by decide)
  exact (congrArg (bitOf · j) hreg).trans (State.flag_setFlag_other _ _ hr (by decide) hj)

theorem State.flag_cfgRefused {s : State} (hr : Rising s.regs) : (s.cfgRefused Reg.pwCtrl).flag Reg.pwCtrl 30 = true := by
  have hreg : (s.cfgRefused Reg.pwCtrl).reg Reg.pwCtrl = (s.setFlag Reg.pwCtrl 30 true).reg Reg.pwCtrl := State.reg_sootEvent _ _ _ _ _ (by decide)
  exact (congrArg (bitOf · 30) hreg).trans (State.flag_setFlag_same _ _ _ _ hr (by decide))

/-- Enabling or disabling a pool leaves the enables of the others. -/
theorem State.poolEn_poolEnable {s : State} (hr : Rising s.regs) {k j : Nat} (hk : k < 8) (hj : j < 8) (h : j ≠ k) :
    (s.poolEnable k).poolEn j = s.poolEn j := by
  unfold State.poolEnable
  split
  · exact State.flag_setFlag_other _ _ hr (by omega) h
  · exact State.poolEn_cfgRefused hr (by omega)

theorem State.poolEn_poolDisable {s : State} (hr : Rising s.regs) {k j : Nat} (hk : k < 8) (hj : j < 8) (h : j ≠ k) :
    (s.poolDisable k).poolEn j = s.poolEn j := by
  unfold State.poolDisable
  split
  · exact State.flag_setFlag_other _ _ hr (by omega) h
  · exact State.poolEn_cfgRefused hr (by omega)

section
variable {s : State} {k : PoolIx} (hr : Rising s.regs) (hlock : s.flag Reg.pwCtrl 31 = false)
include hr hlock

/-- A write that sets one more enable is that enable. -/
theorem State.pwCtrlWrite_enables (hen : s.poolEn k = false) : s.pwCtrlWrite (s.poolWord k true) = s.poolEnable k := by
  have hother : ∀ j < 8, j ≠ k.val → bitOf (s.poolWord k true) j = s.poolEn j := fun j hj hne => s.bitOf_poolWord_other k true (.inl hj) hne
  have hself : bitOf (s.poolWord k true) k = true := s.bitOf_poolWord_same k true
  have hfirst : (List.range 8).foldl (fun t j => if t.poolEn j && !bitOf (s.poolWord k true) j then t.poolDisable j else t) s = s := by
    refine foldl_range_fixed fun j hj => ?_
    by_cases hjk : j = k.val
    · simp only [hjk, hen, Bool.false_and, Bool.false_eq_true, if_false]
    · simp only [hother j hj hjk, Bool.and_not_self, Bool.false_eq_true, if_false]
  rw [State.pwCtrlWrite_open hlock, hfirst]
  refine (foldl_range_single k.isLt (fun j hj => ?_) fun j hj hkj => ?_).trans (if_pos ?_)
  · simp only [hother j (by omega) (by omega), Bool.not_and_self, Bool.false_eq_true, if_false]
  · simp only [hen, hself, Bool.not_false, Bool.and_self, if_true, hother j hj (by omega),
      State.poolEn_poolEnable hr k.isLt hj (show j ≠ k.val by omega), Bool.not_and_self, Bool.false_eq_true, if_false]
  · rw [hen, hself]
    rfl

/-- A write that clears one is that disable. -/
theorem State.pwCtrlWrite_disables (hen : s.poolEn k = true) : s.pwCtrlWrite (s.poolWord k false) = s.poolDisable k := by
  have hother : ∀ j < 8, j ≠ k.val → bitOf (s.poolWord k false) j = s.poolEn j := fun j hj hne => s.bitOf_poolWord_other k false (.inl hj) hne
  have hself : bitOf (s.poolWord k false) k = false := s.bitOf_poolWord_same k false
  have hfirst : (List.range 8).foldl (fun t j => if t.poolEn j && !bitOf (s.poolWord k false) j then t.poolDisable j else t) s = s.poolDisable k := by
    refine (foldl_range_single k.isLt (fun j hj => ?_) fun j hj hkj => ?_).trans (if_pos ?_)
    · simp only [hother j (by omega) (by omega), Bool.and_not_self, Bool.false_eq_true, if_false]
    · simp only [hen, hself, Bool.not_false, Bool.and_self, if_true, hother j hj (by omega),
        State.poolEn_poolDisable hr k.isLt hj (show j ≠ k.val by omega), Bool.and_not_self, Bool.false_eq_true, if_false]
    · rw [hen, hself]
      rfl
  rw [State.pwCtrlWrite_open hlock, hfirst]
  refine foldl_range_fixed fun j hj => ?_
  by_cases hjk : j = k.val
  · simp only [hjk, hself, Bool.and_false, Bool.false_eq_true, if_false]
  · simp only [hother j hj hjk, State.poolEn_poolDisable hr k.isLt hj hjk, Bool.not_and_self, Bool.false_eq_true, if_false]

end

theorem exec_poolEnable {s : State} (k : PoolIx) (h : s.PfReaches Reg.pwCtrl) : exec (.poolEnable k) s = .next (s.pwCtrlWrite (s.poolWord k true)) :=
  congrArg Host.Outcome.next (State.pfReach_of_reaches h _)

theorem exec_poolDisable {s : State} (k : PoolIx) (h : s.PfReaches Reg.pwCtrl) : exec (.poolDisable k) s = .next (s.pwCtrlWrite (s.poolWord k false)) :=
  congrArg Host.Outcome.next (State.pfReach_of_reaches h _)

/-! ### The obligation -/

/-- Settles O37, command by command. -/
theorem poolsAllocateAndEnable : Obligations.PoolsAllocateAndEnable := by
  refine ⟨⟨fun s c h => ⟨fun hbad => ?_, fun hsize hmax hn hnmax halign da hda hok => ⟨fun hw => ?_, fun hw hopen hno => ?_, fun s1 hs hw hopen ha => ?_,
    fun k i hone hk hen hinit hq hst hi => State.allocBufs_one hk hen hinit hq hst hi⟩⟩, fun s c k i h hh j hj => ⟨fun hall => ?_, fun hall => ?_⟩,
    fun s c k i h hh => ⟨fun hv => ?_, fun hv hfull => ?_, fun j hj4 hv hj hlow => ⟨fun howns hq => ?_, fun hq => ?_⟩⟩,
    fun s c op i st hi h hh => ⟨?_, s.bufs_useHandle _ _ _ _⟩⟩, fun s k hc hreach => ⟨fun hlock hen hok => ?_, fun hlock hen hbad => ?_,
    fun hlock hen hno => ?_, fun hlock hen hlive => ?_, fun hlock hen => ?_, fun hlock hen => ?_, rfl,
    State.poolEn_cfgRefused hc.rising (by omega), State.flag_cfgRefused hc.rising⟩⟩
  · rw [exec_poolAlloc h]
    exact congrArg Host.Outcome.next (if_pos hbad)
  · rw [exec_poolAlloc h, State.opPoolAlloc_passes hsize hmax hn hnmax halign hda hok, if_pos hw]
  · rw [exec_poolAlloc h, State.opPoolAlloc_none hsize hmax hn hnmax halign hda hok hw hopen hno]
  · obtain ⟨hlen, hframe⟩ := State.allocBufs_frame ha
    exact ⟨hlen, hframe, by rw [exec_poolAlloc h, State.opPoolAlloc_some hsize hmax hn hnmax halign hda hok hw hopen ha]⟩
  · rw [exec_poolFree h, State.opPoolFree_pass hh, State.freeHold_last hj hall]
    rfl
  · rw [exec_poolFree h, State.opPoolFree_pass hh, State.freeHold_held hj hall]
    rfl
  · rw [exec_poolShare h, State.opPoolShare_pass hh, if_pos hv]
  · have hnone : ((List.range 4).find? fun j => (listAt none (s.buf k i).slots j).isNone) = none := by
      rw [List.find?_eq_none]
      intro j hj
      simpa using hfull j (List.mem_range.mp hj)
    rw [exec_poolShare h, State.opPoolShare_pass hh, if_neg (by simp [hv]), hnone]
  · have hsome := find?_emptySlot hj4 hj hlow
    rw [exec_poolShare h, State.opPoolShare_pass hh, if_neg (by simp [hv]), hsome]
    exact congrArg Host.Outcome.next (if_pos ⟨howns, hq⟩)
  · have hsome := find?_emptySlot hj4 hj hlow
    have hquota : ¬ ((s.buf k i).owns (c.par 8 1 % 64) = false ∧ s.quotaAllows (c.par 8 1 % 64) k 1 = false) := by
      rintro ⟨ho, hn⟩
      rcases hq with hq | hq
      · exact absurd (hq.symm.trans ho) (by decide)
      · exact absurd (hq.symm.trans hn) (by decide)
    rw [exec_poolShare h, State.opPoolShare_pass hh, if_neg (by simp [hv]), hsome]
    exact congrArg Host.Outcome.next (if_neg hquota)
  · simp only [List.mem_cons, List.not_mem_nil, or_false, Prod.mk.injEq] at hi
    rcases hi with ⟨rfl, rfl⟩ | ⟨rfl, rfl⟩
    · rw [exec_poolFree h, State.opPoolFree, State.useHandle_fail hh]
    · rw [exec_poolShare h, State.opPoolShare, State.useHandle_fail hh]
  · rw [exec_poolEnable k hreach, State.pwCtrlWrite_enables hc.rising hlock hen]
    exact congrArg Host.Outcome.next (if_pos hok)
  · rw [exec_poolEnable k hreach, State.pwCtrlWrite_enables hc.rising hlock hen]
    exact congrArg Host.Outcome.next (if_neg (Bool.eq_false_iff.mp hbad))
  · rw [exec_poolDisable k hreach, State.pwCtrlWrite_disables hc.rising hlock hen]
    exact congrArg Host.Outcome.next (if_pos (by rw [hno]; rfl))
  · rw [exec_poolDisable k hreach, State.pwCtrlWrite_disables hc.rising hlock hen]
    exact congrArg Host.Outcome.next (if_neg (by simpa using hlive))
  · rw [exec_poolEnable k hreach, State.pwCtrlWrite_locked hlock (by rw [hen]; decide)]
  · rw [exec_poolDisable k hreach, State.pwCtrlWrite_locked hlock (by rw [hen]; decide)]

end Sys2Proof.Machine

/-!
PROOF. SHARE_SET and SHADE_SET, the grants of the Shades, and the decision points of the units (R267-R272).
-/

namespace Sys2Proof.Machine

/-! ### Credits (R269) -/

theorem State.credit_setCredit_other (s : State) {u p v q : Nat} (c : Int) (hp : p < 64) (hq : q < 64) (h : v ≠ u ∨ q ≠ p) :
    (s.setCredit u p c).credit v q = s.credit v q :=
  sparseGet_set_other _ _ _ _ _ (by omega)

/-- Credits of a partition at some units changed one after another. -/
def State.mapCredits (s : State) (p : Nat) (g : Int → Int) (l : List Nat) : State := l.foldl (fun s u => s.setCredit u p (g (s.credit u p))) s

theorem State.mapCredits_frame (p : Nat) (g : Int → Int) (l : List Nat) (s : State) :
    s.mapCredits p g l = { s with credits := (s.mapCredits p g l).credits } := by
  induction l generalizing s with
  | nil => rfl
  | cons u l ih => exact ih (s.setCredit u p (g (s.credit u p)))

section
variable {p : Nat} (hp : p < 64) (g : Int → Int)
include hp

/-- At another unit, or of another partition, a credit stays. -/
theorem State.credit_mapCredits_other {l : List Nat} {s : State} {v q : Nat} (hq : q < 64) (h : v ∉ l ∨ q ≠ p) :
    (s.mapCredits p g l).credit v q = s.credit v q := by
  induction l generalizing s with
  | nil => rfl
  | cons u l ih =>
    have hhead : v ≠ u ∨ q ≠ p := h.imp_left fun hv hvu => hv (hvu ▸ List.mem_cons_self ..)
    have htail : v ∉ l ∨ q ≠ p := h.imp_left fun hv hvl => hv (List.mem_cons_of_mem _ hvl)
    exact (ih htail).trans (s.credit_setCredit_other _ hp hq hhead)

/-- At each unit once. -/
theorem State.credit_mapCredits {l : List Nat} {s : State} (hl : l.Nodup) (hord : Ordered s.credits) {u : Nat} (hu : u ∈ l) :
    (s.mapCredits p g l).credit u p = clampInt (-(2 ^ 31)) (2 ^ 31) (g (s.credit u p)) := by
  induction l generalizing s with
  | nil => exact absurd hu List.not_mem_nil
  | cons v l ih =>
    obtain ⟨hv, hl'⟩ := List.nodup_cons.mp hl
    by_cases huv : u = v
    · subst huv
      exact (State.credit_mapCredits_other hp g hp (.inl hv)).trans (s.credit_setCredit_same _ _ _ hord)
    · have hmem : u ∈ l := (List.mem_cons.mp hu).resolve_left huv
      refine (ih hl' (sparseSet_rising _ _ _ _ hord) hmem).trans ?_
      rw [s.credit_setCredit_other _ hp hp (.inl huv)]

end

theorem classUnits_nodup {k : Nat} (h : k ≤ 4) : (classUnits k).Nodup := by
  have hall : ∀ k ≤ 4, (classUnits k).Nodup := by decide
  exact hall k h

/-! ### SHARE_SET (R249, R267, R269) -/

section
variable {s : State} {c : Cmd}

theorem exec_shareSet (h : s.MgmtIssued c 0x82) : exec (.shareSet c.id) s = .next (State.opShareSet c s) :=
  congrArg Host.Outcome.next (State.runMgmt_issued h _)

theorem State.Canonical.ordParts (h : s.Canonical) : Ordered s.parts := by
  obtain ⟨hparts, -⟩ := h.tabs
  exact hparts

theorem State.Canonical.ordCredits (h : s.Canonical) : Ordered s.credits := by
  obtain ⟨-, -, -, hcredits, -⟩ := h.tabs
  exact hcredits

theorem State.Canonical.ordArbs (h : s.Canonical) : Ordered s.arbs := by
  obtain ⟨-, -, -, -, harbs, -⟩ := h.tabs
  exact harbs

/-- The state in which a partition's share of a class has changed, before its credits are rescaled. -/
def State.withShare (s : State) (p k v : Nat) : State := s.setPart p { s.part p with shares := listUpd (s.part p).shares k fun _ => v }

/-- A credit rescaled from a share to another. -/
def rescaled (new old : Nat) (x : Int) : Int := (x * (new : Int)).tdiv (old : Int)

theorem State.setShare_eq (s : State) (p k v : Nat) : s.setShare p k v =
    (s.withShare p k v).mapCredits p (rescaled v (listAt 256 (s.part p).shares k)) (classUnits k) := rfl

theorem State.opShareSet_ok (hk : c.par 1 1 ≤ 4) (hv : c.par 2 2 ≠ 0) :
    State.opShareSet c s = (s.setShare (c.par 0 1 % 64) (c.par 1 1) (c.par 2 2)).endCmd c.id .ok 0 :=
  if_neg (by omega)

/-- What a share's change does to the tables of the partitions and the credits. -/
theorem State.setShare_spec (hc : s.Canonical) {p k : Nat} (hp : p < 64) (hk : k ≤ 4) (v : Nat) : let t := s.setShare p k v
    t.part p = { s.part p with shares := listUpd (s.part p).shares k fun _ => v } ∧ (∀ q, q ≠ p → t.part q = s.part q) ∧
    (∀ u ∈ classUnits k, t.credit u p = clampInt (-(2 ^ 31)) (2 ^ 31) ((s.credit u p * (v : Int)).tdiv (listAt 256 (s.part p).shares k : Nat))) ∧
    (∀ u q, q < 64 → u ∉ classUnits k ∨ q ≠ p → t.credit u q = s.credit u q) ∧ t = { s with parts := t.parts, credits := t.credits } := by
  have hframe := State.mapCredits_frame p (rescaled v (listAt 256 (s.part p).shares k)) (classUnits k) (s.withShare p k v)
  rw [← State.setShare_eq] at hframe
  have hparts : (s.setShare p k v).parts = (s.withShare p k v).parts := by rw [hframe]
  have hpart : ∀ q, (s.setShare p k v).part q = (s.withShare p k v).part q := fun q => congrArg (fun l => sparseGet Part.reset l q) hparts
  refine ⟨(hpart p).trans (s.part_setPart_same _ _ hc.ordParts), fun q hq => (hpart q).trans (s.part_setPart_other _ _ _ hq), fun u hu => ?_,
    fun u q hq h => ?_, ?_⟩
  · exact State.credit_mapCredits (s := s.withShare p k v) hp (rescaled v (listAt 256 (s.part p).shares k)) (classUnits_nodup hk) hc.ordCredits hu
  · exact State.credit_mapCredits_other (s := s.withShare p k v) hp (rescaled v (listAt 256 (s.part p).shares k)) hq h
  · rw [hframe]
    rfl

/-! ### SHADE_SET and the grants (R249, R271, R272) -/

theorem exec_shadeSet (h : s.MgmtIssued c 0x83) : exec (.shadeSet c.id) s = .next (State.opShadeSet c s) :=
  congrArg Host.Outcome.next (State.runMgmt_issued h _)

theorem State.opShadeSet_ok (h : ¬ (6 < c.par 1 1 ∨ (c.par 4 4 ≠ 0 ∧ (c.par 8 4 < 4096 ∨ 2 ^ 30 < c.par 8 4)))) :
    State.opShadeSet c s = (s.setShade (c.par 0 1 % 64) (c.par 1 1) (c.par 4 4) (c.par 8 4)).endCmd c.id .ok 0 := if_neg h

theorem State.setShade_open (p path depth : Nat) : s.setShade p path 0 depth = s.updShade p path fun h =>
    { h with rate := 0, depth := depth, tokens := 1000 * depth, last := s.nowNs, waiting := [], granted := [] } := rfl

theorem State.setShade_regulated (p path depth : Nat) {rate : Nat} (h : rate ≠ 0) : s.setShade p path rate depth = s.updShade p path fun h =>
    { h with rate := rate, depth := depth, last := s.nowNs, tokens := min (s.shadeTokens p path) (1000 * depth : Nat) } := by
  simp only [State.setShade, if_neg h]

theorem exec_shadeGrant {p : PartIx} {path : Fin 7} {k n : Nat} {w : List (Nat × Nat)} (hw : (s.shade p path).waiting = (k, n) :: w)
    (htok : 0 ≤ s.shadeTokens p path) : exec (.shadeGrant p path) s = .next (s.updShade p path fun h =>
      { h with tokens := s.shadeTokens p path - 1000 * n, last := s.nowNs, waiting := w
               granted := if k = ingestKey then h.granted else h.granted ++ [k] }) := by
  simp only [exec, execShadeGrant, hw, if_pos htok]

/-! ### Decision points (R267, R268, R270) -/

/-- The steps that are charged at a decision point: those of a Smelter are charged with its pictures (R193). -/
def chargedSteps (u : ArbUnit) (steps : Nat) : Nat := match u with | .smelter _ => 0 | _ => steps

/-- At the decision point of a unit other than a Lantern the work begun last ends, and the next partition is chosen. -/
theorem exec_arbitrationDecision {u : ArbUnit} (steps : Nat) (hu : 16 ≤ arbCode u) (hbusy : s.unitBusy u = false) :
    exec (.arbitrationDecision u steps) s = .next
      ((s.arbEnd (arbCode u) (chargedSteps u steps)).arbDecide (arbCode u) ((s.arbEnd (arbCode u) (chargedSteps u steps)).unitReady u)) := by
  refine congrArg Host.Outcome.next ((if_neg (Bool.eq_false_iff.mp hbusy)).trans ?_)
  cases u with
  | lantern n => exact absurd hu (by simp only [arbCode]; omega)
  | smelter n => rfl
  | shaper n => rfl
  | snuffer n => rfl
  | tracker n => rfl
  | encoder n => rfl

theorem State.arbEnd_idle {u steps : Nat} (h : (s.arb u).work = none) : s.arbEnd u steps = s := by
  simp only [State.arbEnd, h]

theorem State.arbEnd_work {u steps p t0 : Nat} (h : (s.arb u).work = some (p, t0)) :
    s.arbEnd u steps = (s.arbCharge u p (s.nowNs - t0) steps).setArb u { s.arb u with work := none } := by
  simp only [State.arbEnd, h]

theorem State.arbDecide_first {u p : Nat} {ready : List Nat} (hr : ready ≠ []) (hf : s.arbFirst u ready = some p) :
    s.arbDecide u ready = s.setArb u { s.arb u with chosen := some p, last := p } := by
  have hne : ready.isEmpty = false := by simpa using hr
  simp only [State.arbDecide, hne, Bool.false_eq_true, if_false, hf]

/-- Refill rounds change credits alone. -/
theorem State.arbRefill_frame (s : State) (u : Nat) (ready : List Nat) (n : Nat) :
    s.arbRefill u ready n = { s with credits := (s.arbRefill u ready n).credits } := by
  unfold State.arbRefill
  generalize List.range 64 = l
  induction l generalizing s with
  | nil => rfl
  | cons p l ih =>
    rw [List.foldl_cons]
    split
    · exact ih (s.setCredit u p _)
    · split
      · exact ih (s.setCredit u p 0)
      · exact ih s

/-- The credits as a choice finds them: refilled where no ready partition has any. -/
def State.arbRefilled (s : State) (u : Nat) (ready : List Nat) : State := match s.arbFirst u ready with
  | some _ => s
  | none => s.arbRefill u ready (s.arbRounds u ready)

theorem State.arbRefilled_frame (s : State) (u : Nat) (ready : List Nat) :
    s.arbRefilled u ready = { s with credits := (s.arbRefilled u ready).credits } := by
  unfold State.arbRefilled
  split
  · rfl
  · exact State.arbRefill_frame _ _ _ _

theorem State.arbDecide_eq (s : State) (u : Nat) (ready : List Nat) : s.arbDecide u ready =
    if ready.isEmpty then s.setArb u { s.arb u with chosen := none }
    else match (s.arbRefilled u ready).arbFirst u ready with
      | some p => (s.arbRefilled u ready).setArb u { (s.arbRefilled u ready).arb u with chosen := some p, last := p }
      | none => s.arbRefilled u ready := rfl

/-- A choice changes credits and the unit's record, and not the work in progress. -/
theorem State.arbDecide_frame {s : State} (hord : Ordered s.arbs) (u : Nat) (ready : List Nat) :
    s.arbDecide u ready = { s with credits := (s.arbDecide u ready).credits, arbs := (s.arbDecide u ready).arbs } ∧
    ((s.arbDecide u ready).arb u).work = (s.arb u).work := by
  have hframe := s.arbRefilled_frame u ready
  have harbs : (s.arbRefilled u ready).arbs = s.arbs := by rw [hframe]
  have harb : (s.arbRefilled u ready).arb u = s.arb u := congrArg (fun l => sparseGet Arb.reset l u) harbs
  rw [State.arbDecide_eq]
  split
  · exact ⟨rfl, by rw [s.arb_setArb_same _ _ hord]⟩
  · split
    · refine ⟨?_, by rw [State.arb_setArb_same _ _ _ (harbs ▸ hord), harb]⟩
      rw [hframe]
      rfl
    · exact ⟨by rw [hframe], by rw [harb]⟩

/-- The state in which the work begun last has been charged. -/
theorem State.arbCharge_spec (hc : s.Canonical) (u p t steps : Nat) : let v := s.arbCharge u p t steps
    (v.part p).acct = listUpd (s.part p).acct (arbClass u) (fun x => ((x.1 + t) % 2 ^ 64, (x.2 + steps) % 2 ^ 64)) ∧
    (∀ q, q ≠ p → v.part q = s.part q) ∧ v = { s with parts := v.parts, credits := v.credits } := by
  have hsame := (s.setCredit u p (s.credit u p - t)).part_setPart_same p
    { s.part p with acct := listUpd (s.part p).acct (arbClass u) fun a => ((a.1 + t) % 2 ^ 64, (a.2 + steps) % 2 ^ 64) } hc.ordParts
  exact ⟨congrArg Part.acct hsame, fun q hq => State.part_setPart_other _ _ _ _ hq, rfl⟩

/-- At a decision point the work in progress ends, charged with its time and steps, before the choice is made. -/
theorem State.arbEnd_arbDecide (hc : s.Canonical) {u p t0 : Nat} (hwork : (s.arb u).work = some (p, t0)) (k : Nat) (ready : State → List Nat) :
    let t := (s.arbEnd u k).arbDecide u (ready (s.arbEnd u k))
    (t.arb u).work = none ∧
    (t.part p).acct = listUpd (s.part p).acct (arbClass u) (fun x => ((x.1 + (s.nowNs - t0)) % 2 ^ 64, (x.2 + k) % 2 ^ 64)) ∧
    (∀ q, q ≠ p → t.part q = s.part q) ∧ t = { s with parts := t.parts, credits := t.credits, arbs := t.arbs } := by
  rw [State.arbEnd_work hwork]
  obtain ⟨hacct, hparts, -⟩ := State.arbCharge_spec hc u p (s.nowNs - t0) k
  let w := (s.arbCharge u p (s.nowNs - t0) k).setArb u { s.arb u with work := none }
  have hw : Ordered w.arbs := sparseSet_rising _ _ _ _ hc.ordArbs
  obtain ⟨hframe, hdone⟩ := State.arbDecide_frame hw u (ready w)
  have hkept : (w.arbDecide u (ready w)).parts = w.parts := by rw [hframe]
  have hpart : ∀ q, (w.arbDecide u (ready w)).part q = w.part q := fun q => congrArg (fun l => sparseGet Part.reset l q) hkept
  refine ⟨hdone.trans (congrArg Arb.work (State.arb_setArb_same _ _ _ hc.ordArbs)), (congrArg Part.acct (hpart p)).trans hacct,
    fun q hq => (hpart q).trans (hparts q hq), ?_⟩
  dsimp only
  rw [hkept]
  exact hframe

end

/-- Settles O40, command by command. -/
theorem sharesShadesAndDecisions : Obligations.SharesShadesAndDecisions := by
  refine ⟨fun s c hc h => ⟨fun hbad => ?_, fun hk hv => ?_⟩, fun s c h => ⟨fun hbad => ?_, fun hpath hrate => ?_, fun hpath hrate hlo hhi => ?_⟩,
    fun s p path k n w hw htok => exec_shadeGrant hw htok, fun s u steps p hu hbusy hidle hready hfirst => ?_,
    fun s u steps hbusy => congrArg Host.Outcome.next (if_pos hbusy), fun s u steps p t0 hc hp hu hbusy hwork => ?_⟩
  · rw [exec_shareSet h]
    exact congrArg Host.Outcome.next (if_pos hbad)
  · obtain ⟨hpart, hother, hcredit, hcredits, hframe⟩ := State.setShare_spec hc (show c.par 0 1 % 64 < 64 by omega) hk (c.par 2 2)
    rw [exec_shareSet h, State.opShareSet_ok hk hv]
    refine ⟨_, rfl, hpart, hother, hcredit, hcredits, ?_⟩
    rw [hframe]
    rfl
  · rw [exec_shadeSet h]
    exact congrArg Host.Outcome.next (if_pos hbad)
  · rw [exec_shadeSet h, State.opShadeSet_ok (by omega), hrate, State.setShade_open]
  · rw [exec_shadeSet h, State.opShadeSet_ok (by omega), State.setShade_regulated _ _ _ hrate]
  · rw [exec_arbitrationDecision steps hu hbusy, State.arbEnd_idle hidle, State.arbDecide_first hready hfirst]
  · intro k
    rw [exec_arbitrationDecision steps hu hbusy]
    exact ⟨_, rfl, State.arbEnd_arbDecide hc hwork k fun v => v.unitReady u⟩

end Sys2Proof.Machine

/-!
PROOF. The commands of the Dispatchers (R240, R241, R247): a COPY to host memory across a controller that is off.
-/

namespace Sys2Proof.Machine

/-! ### A range whose ends answer and whose middle does not -/

/-- A COPY to host memory of 2,056 bytes from PDA 0 on: the first chunk of 256 bytes of each of the eight controllers, and 8 bytes of the
first controller's second chunk. -/
def stripedCopy : Cmd where
  id := 0
  src := .ring 0
  opcode := 0x70
  tag := 0
  index := 0
  part := 0
  fn := 0
  params := List.replicate 16 0 ++ [0x08, 0x08] ++ List.replicate 14 0 ++ [0x01]
  ordered := false
  chain := false
  irq := false
  fence := false
  det := false
  phase := .issued
  status := .ok
  detail := 0
  aux := 0
  mapMask := 0
  gang := 0
  members := []
  pos := 0
  latched := []

/-- 256 MiB of DRAM behind a readable window of partition 0, with the first controller alone enabled, and a function that may write host
memory. -/
def stripedDram : State :=
  { (((State.reset.setReg Reg.dramStatus 1).setReg (Reg.mcCtrl 0) 1).setReg Reg.peStatus 0x80000000).setFunc 0
      { Func.reset with busMaster := true } with
    cmds := [stripedCopy]
    parts := [(0, { Part.reset with active := [(tabKey 0 1, 0xC0000000)] })] }

theorem stripedDram_canonical : stripedDram.Canonical where
  mem := by decide
  regs := by decide
  tabs := by decide
  sizes := by decide

/-- The Shades of partition 0 are at their reset values, without a rate. -/
theorem stripedDram_unregulated (path : Nat) : (stripedDram.shade 0 path).rate = 0 := by
  have h : (stripedDram.part 0).shades = List.replicate 7 Shade.reset := by decide
  rw [State.shade, h]
  rcases Nat.lt_or_ge path 7 with hp | hp
  · interval_cases path <;> rfl
  · simp [listAt, hp]; rfl

/-- The hypotheses of the clause: the ends of the range answer. -/
theorem stripedDram_ends : stripedDram.Issued stripedCopy 0x70 ∧ stripedCopy.par 20 4 ≤ 1 ∧ copyAligned (copyReq stripedCopy) true = true ∧
    stripedDram.copyBehind stripedCopy = false ∧ stripedCopy.par 32 1 % 4 = 1 ∧ stripedDram.hostWritable stripedCopy.fn = true ∧
    stripedDram.translate stripedCopy.part (stripedCopy.par 0 8) (stripedCopy.par 16 4) .rd = some 0 ∧
    stripedDram.rangeStatus 0 (stripedCopy.par 16 4) = .ok := by decide

/-- The commands' statuses after a command. -/
def statusesAfter (o : Host.Outcome State Fault Refusal) : List Status :=
  match o with
  | .next t => t.cmds.map Cmd.status
  | _ => []

/-- Its 33rd word lies on the second controller, which is off: the COPY stops there. -/
theorem stripedDram_stops : statusesAfter (exec (.copy stripedCopy.id) stripedDram) = [.isolated] := by decide

/-- Refutes O36, by its clause on a COPY to host memory: its hypothesis on the source asks that the first and the last byte answer, while
every word is read for itself (R54). Of a range that is striped over the controllers (R291), with the first controller alone enabled, both
ends answer and the 33rd word does not: the COPY stops there with ISOLATED. -/
theorem not_dispatcherCommands : ¬ Obligations.DispatcherCommands := by
  unfold Obligations.DispatcherCommands
  intro h
  obtain ⟨-, -, -, -, -, hcopy, -⟩ := h stripedDram stripedCopy
  obtain ⟨hissued, hrows, haligned, hfirst, hdir, hhost, htrans, hends⟩ := stripedDram_ends
  obtain ⟨-, htoHost, -⟩ := hcopy hissued stripedDram_canonical rfl stripedDram_unregulated hrows haligned hfirst
  have hok : [Status.isolated] = [Status.ok] :=
    stripedDram_stops.symm.trans (congrArg statusesAfter (htoHost hdir hhost 0 htrans hends))
  exact absurd hok (by decide)

end Sys2Proof.Machine

/-!
PROOF. The rings of the Dispatchers (R229, R233-R238): a packet becomes a command, which is issued or ended, and its record is written.
-/

namespace Sys2Proof.Machine

/-! ### A packet becomes a command (R234, R235) -/

section Fetch

variable {s : State} {d : DsIx} {r : RingIx} {bs : List Byte}

/-- The ring that alone has a whole packet is the one that the Dispatcher visits. -/
theorem fetchOrder_find (hd : r.val / 2048 = d.val) (hr : r.val ∈ s.rings.map (·.1)) (hp : s.nextPacket r = some bs)
    (hone : ∀ q, q / 2048 = d.val → q ≠ r.val → s.nextPacket q = none) (last : Nat) :
    let rs := (s.rings.map (·.1)).filter fun r => r / 2048 == d.val
    ((rs.filter fun r => decide (last < r)) ++ rs.filter fun r => decide (r ≤ last)).find? (fun r => (s.nextPacket r).isSome) = some r.val := by
  intro rs
  have hmem : r.val ∈ rs := List.mem_filter.mpr ⟨hr, by simpa using hd⟩
  have hin : r.val ∈ (rs.filter fun r => decide (last < r)) ++ rs.filter fun r => decide (r ≤ last) := by
    rcases Nat.lt_or_ge last r.val with h | h
    · exact List.mem_append_left _ (List.mem_filter.mpr ⟨hmem, by simpa using h⟩)
    · exact List.mem_append_right _ (List.mem_filter.mpr ⟨hmem, by simpa using h⟩)
  have honly : ∀ q ∈ (rs.filter fun r => decide (last < r)) ++ rs.filter fun r => decide (r ≤ last), (s.nextPacket q).isSome = true → q = r.val := by
    intro q hq hsome
    have hq : q ∈ rs := by
      rcases List.mem_append.mp hq with h | h
      · exact (List.mem_filter.mp h).1
      · exact (List.mem_filter.mp h).1
    by_contra hne
    rw [hone q (by simpa using (List.mem_filter.mp hq).2) hne] at hsome
    exact absurd hsome (by decide)
  obtain ⟨q, hq⟩ : ∃ q, ((rs.filter fun r => decide (last < r)) ++ rs.filter fun r => decide (r ≤ last)).find?
      (fun r => (s.nextPacket r).isSome) = some q := by
    rw [← Option.isSome_iff_exists, List.find?_isSome]
    exact ⟨r.val, hin, by rw [hp]; rfl⟩
  rw [hq, honly q (List.mem_of_find?_eq_some hq) (List.find?_some (p := fun r => (s.nextPacket r).isSome) hq)]

/-- A Dispatcher with one ring to visit, whose partition the Shades hold back nowhere, fetches that ring's packet. -/
theorem exec_commandFetch_one {p fn : Nat} (hd : r.val / 2048 = d.val) (hr : r.val ∈ s.rings.map (·.1)) (hp : s.nextPacket r = some bs)
    (hone : ∀ q, q / 2048 = d.val → q ≠ r.val → s.nextPacket q = none) (hown : s.servedBy r = some (p, fn))
    (hfree : ∀ path, (s.shade p path).rate = 0) : exec (.commandFetch d) s = .next (s.fetchFrom d.val r.val bs) := by
  have hfind := fetchOrder_find hd hr hp hone (listAt 0 s.dsNext d.val)
  refine congrArg Host.Outcome.next ?_
  unfold State.fetch
  simp only [hfind, hp, hown, Option.getD_some, State.shadeAskAll_unregulated hfree]

end Fetch

/-! ### A command is issued, or ended as it is interpreted (R235-R237) -/

theorem State.cmd?_updCmd_other (s : State) {id id' : Nat} (f : Cmd → Cmd) (hf : ∀ c, (f c).id = c.id) (h : id' ≠ id) :
    (s.updCmd id f).cmd? id' = s.cmd? id' := by
  have hid : ∀ c : Cmd, (if c.id = id then f c else c).id = c.id := fun c => by split <;> simp [hf]
  simp only [State.cmd?, State.updCmd]
  induction s.cmds with
  | nil => rfl
  | cons c t ih =>
    rw [List.map_cons, List.find?_cons, List.find?_cons, hid]
    by_cases hc : c.id = id'
    · simp [hc, h]
    · simp only [beq_eq_false_iff_ne.mpr hc]
      exact ih

theorem State.cmd?_congr {s t : State} (h : t.cmds = s.cmds) (id : Nat) : t.cmd? id = s.cmd? id := by simp only [State.cmd?, h]

/-- t's commands are s's, but for the first command of an identifier, which is c. -/
def CmdBecomes (s t : State) (id : Nat) (c : Cmd) : Prop := t.cmd? id = some c ∧ ∀ i, i ≠ id → t.cmd? i = s.cmd? i

theorem CmdBecomes.upd {s t u : State} {id : Nat} {c : Cmd} (h : CmdBecomes s t id c) (f : Cmd → Cmd) (hf : ∀ c, (f c).id = c.id)
    (hu : u.cmds = (t.updCmd id f).cmds) : CmdBecomes s u id (f c) := by
  obtain ⟨hsame, hother⟩ := h
  refine ⟨?_, fun i hi => ?_⟩
  · rw [State.cmd?_congr hu, State.cmd?_updCmd_same _ _ _ hf, hsame]
    rfl
  · rw [State.cmd?_congr hu, State.cmd?_updCmd_other _ _ hf hi, hother i hi]

theorem CmdBecomes.refl {s : State} {id : Nat} {c : Cmd} (h : s.cmd? id = some c) : CmdBecomes s s id c := ⟨h, fun _ _ => rfl⟩

/-- A command sent to its engine, with no unit chosen, as the k-th of all. -/
def Cmd.sentAs (c : Cmd) (k : Nat) : Cmd := { c with phase := .issued, members := [], place := k }

/-- A command that no unit has to be chosen for goes to its engine. -/
theorem State.sendCmd_unplaced (u : State) {c : Cmd} (hop : c.opcode ∉ [0x20, 0x38, 0x50, 0x51, 0x52]) :
    u.sendCmd c = u.fresh.2.updCmd c.id fun x => x.sentAs u.nextId := by
  simp only [List.mem_cons, List.not_mem_nil, or_false, not_or] at hop
  obtain ⟨h20, h38, h50, h51, h52⟩ := hop
  have hplace : u.placeCmd c = (u, .ok []) := by simp [State.placeCmd, h20, h38, h50, h51, h52]
  rw [State.sendCmd, hplace]
  rfl

/-- The state in which the command of a ring has been interpreted and its ring's chain moved on. -/
def State.interpreted (s : State) (r : Nat) (c : Cmd) : State :=
  ((s.updCmd c.id fun x => { x with part := c.part, fn := c.fn }).updCmd c.id fun x =>
    { x with mapChanged := (s.ring r).chainDet && x.opcode == 0x51 }).setRing r (chainNext (s.ring r) c)

theorem State.interpreted_cmd {s : State} {c : Cmd} (r : Nat) (hc : s.cmd? c.id = some c) :
    CmdBecomes s (s.interpreted r c) c.id { c with mapChanged := (s.ring r).chainDet && c.opcode == 0x51 } :=
  ((CmdBecomes.refl hc).upd (fun x => { x with part := c.part, fn := c.fn }) (fun _ => rfl) rfl).upd
    (fun x => { x with mapChanged := (s.ring r).chainDet && x.opcode == 0x51 }) (fun _ => rfl) rfl

theorem State.interpreted_frame (s : State) (r : Nat) (c : Cmd) :
    s.interpreted r c = { s with cmds := (s.interpreted r c).cmds, rings := (s.setRing r (chainNext (s.ring r) c)).rings } := rfl

/-- The state in which that command has gone to its engine. -/
def State.sent (s : State) (r : Nat) (c : Cmd) : State := (s.interpreted r c).fresh.2.updCmd c.id fun x => x.sentAs s.nextId

theorem State.sent_cmd {s : State} {c : Cmd} (r : Nat) (hc : s.cmd? c.id = some c) (h51 : c.opcode ≠ 0x51) :
    CmdBecomes s (s.sent r c) c.id { c with phase := .issued, members := [], place := s.nextId, mapChanged := false } := by
  have hsent := (s.interpreted_cmd r hc).upd (u := s.sent r c) (fun x => x.sentAs s.nextId) (fun _ => rfl) rfl
  rw [show ((s.ring r).chainDet && c.opcode == 0x51) = false by simp [h51]] at hsent
  exact hsent

theorem State.sent_frame (s : State) (r : Nat) (c : Cmd) : s.sent r c =
    { s with cmds := (s.sent r c).cmds, nextId := s.nextId + 1, rings := (s.setRing r (chainNext (s.ring r) c)).rings } := by
  have hlast : s.sent r c = { s.interpreted r c with cmds := (s.sent r c).cmds, nextId := (s.interpreted r c).nextId + 1 } := rfl
  rw [hlast]
  conv_lhs => rw [s.interpreted_frame r c]

section Issue

variable {s : State} {r : RingIx} {c : Cmd} (halone : (s.cmds.filter fun x => x.src == .ring r) = [c])
  (hph : c.phase = .fetched) (hprev : (s.ring r).chainPrev = none) (hown : s.ringOwner r = some (c.part, c.fn))
  (hroom : ((s.ring r).cqTail - (s.ring r).cqHead).toNat + 1 ≤ (s.ring r).cqSize)
include halone hph hprev hown hroom

/-- The one command of a ring with room for its record is interpreted. -/
theorem exec_commandIssue_one : exec (.commandIssue (.ring r)) s = .next
    (match issueEnds c (s.ring r) (s.partValid c.part && (s.ringOwner r).isSome) with
      | some (st, d) => (s.updCmd c.id fun x => { x with part := c.part, fn := c.fn }).endAtIssue r.val c st d
      | none =>
        if s.issueHeld' c [] then s
        else
          match s.issueCheck c (s.ring r) r.val with
          | some st => (s.updCmd c.id fun x => { x with part := c.part, fn := c.fn }).endAtIssue r.val c st 0
          | none => (s.interpreted r c).sendCmd c) := by
  refine congrArg Host.Outcome.next ?_
  have hbusy : ([c].filter fun c => c.phase != .fetched) = [] := by simp [hph]
  have hfind : ([c].find? fun c => c.phase == .fetched) = some c := by simp [hph]
  have hwaits : ¬ (64 ≤ ([] : List Cmd).length ∨ (s.ring r).cqSize < ([] : List Cmd).length + ((s.ring r).cqTail - (s.ring r).cqHead).toNat + 1 ∨
      false = true) := by
    simp only [List.length_nil, Nat.zero_add, Bool.false_eq_true, or_false]
    omega
  unfold State.issueRing
  simp only [halone, hbusy, hfind, hown, hprev, Option.getD_some, if_neg hwaits, Option.isSome_some] <;> rfl

/-- With nothing that holds it back and no check that it fails, it goes to its engine. -/
theorem exec_commandIssue_sent (hc : s.cmd? c.id = some c) (hfail : (s.ring r).chainFail = none) (hlen : (s.ring r).chainLen = 0)
    (hvalid : s.partValid c.part = true) (hst : c.status = .ok) (hchain : c.chain = false) (hheld : s.issueHeld' c [] = false)
    (hcheck : s.issueCheck c (s.ring r) r = none) (hop : c.opcode ∉ [0x20, 0x38, 0x50, 0x51, 0x52]) :
    ∃ t, exec (.commandIssue (.ring r)) s = .next t ∧
      CmdBecomes s t c.id { c with phase := .issued, members := [], place := s.nextId, mapChanged := false } ∧
      t = { s with cmds := t.cmds, nextId := s.nextId + 1, rings := (s.setRing r (chainNext (s.ring r) c)).rings } := by
  have hends : issueEnds c (s.ring r) (s.partValid c.part && (s.ringOwner r).isSome) = none := by
    simp [issueEnds, hfail, hlen, hst, hchain, hvalid, hown]
  have h51 : ¬ c.opcode = 0x51 := fun h => hop (by simp [h])
  have hexec : exec (.commandIssue (.ring r)) s = .next (s.sent r c) := by
    rw [exec_commandIssue_one halone hph hprev hown hroom]
    simp only [hends, hheld, hcheck, Bool.false_eq_true, if_false, State.sendCmd_unplaced _ hop]
    rfl
  exact ⟨_, hexec, s.sent_cmd r hc h51, s.sent_frame r c⟩

/-- One whose header failed ends with the status that its header gave it. -/
theorem exec_commandIssue_failed (hc : s.cmd? c.id = some c) (hfail : (s.ring r).chainFail = none) (hlen : (s.ring r).chainLen = 0)
    (hst : c.status ≠ .ok) :
    ∃ t, exec (.commandIssue (.ring r)) s = .next t ∧ CmdBecomes s t c.id { c with phase := .ended } ∧
      t = { s with cmds := t.cmds, rings := (s.setRing r (chainNext (s.ring r) c)).rings } := by
  have hends : issueEnds c (s.ring r) (s.partValid c.part && (s.ringOwner r).isSome) = some (c.status, c.detail) := by
    simp [issueEnds, hfail, hlen, hst]
  have hended := exec_commandIssue_one halone hph hprev hown hroom
  simp only [hends] at hended
  refine ⟨_, hended, ?_, rfl⟩
  have hbase := (CmdBecomes.refl hc).upd (fun x => { x with part := c.part, fn := c.fn }) (fun _ => rfl) rfl
  exact hbase.upd (fun x => { x with phase := .ended, status := c.status, detail := c.detail }) (fun _ => rfl) rfl

end Issue

/-! ### The record of a command that has ended (R233, R238) -/

/-- A ring after a record: its chain and its tail. -/
def Ring.tailed (rg : Ring) (c : Cmd) : Ring := { chainFails rg c with cqTail := rg.cqTail + 1 }

theorem Ring.tailed_loc (rg : Ring) (c : Cmd) : (rg.tailed c).loc = rg.loc := by unfold tailed chainFails; split_ifs <;> rfl
theorem Ring.tailed_sqHead (rg : Ring) (c : Cmd) : (rg.tailed c).sqHead = rg.sqHead := by unfold tailed chainFails; split_ifs <;> rfl
theorem Ring.tailed_cqTail (rg : Ring) (c : Cmd) : (rg.tailed c).cqTail = rg.cqTail + 1 := rfl
theorem Ring.tailed_statusCount (rg : Ring) (c : Cmd) : (rg.tailed c).statusCount = rg.statusCount := by
  unfold tailed chainFails; split_ifs <;> rfl
theorem Ring.tailed_statusAddr (rg : Ring) (c : Cmd) : (rg.tailed c).statusAddr = rg.statusAddr := by unfold tailed chainFails; split_ifs <;> rfl

/-- t is s but for the rings and host memory. -/
def RingHostOver (s t : State) : Prop := ∃ rings host, t = { s with rings := rings, host := host }

theorem RingHostOver.trans {s t u : State} (h : RingHostOver s t) (g : RingHostOver t u) : RingHostOver s u := by
  obtain ⟨_, _, rfl⟩ := h
  obtain ⟨_, _, rfl⟩ := g
  exact ⟨_, _, rfl⟩

theorem RingHostOver.frame {s t : State} (h : RingHostOver s t) : t = { s with rings := t.rings, host := t.host } := by
  obtain ⟨_, _, rfl⟩ := h
  rfl

theorem RingHostOver.dropCmd {s t : State} (h : RingHostOver s t) (id : Nat) : t.dropCmd id =
    { s with cmds := (t.dropCmd id).cmds, rings := t.rings, host := t.host, counters := (t.dropCmd id).counters } := by
  obtain ⟨_, _, rfl⟩ := h
  rfl

theorem RingHostOver.writeHost (s : State) (a : Nat) (bs : List Byte) : RingHostOver s (s.writeHost a bs) := ⟨_, _, rfl⟩
theorem RingHostOver.setRing (s : State) (r : Nat) (rg : Ring) : RingHostOver s (s.setRing r rg) := ⟨_, _, rfl⟩

section Record

variable {s : State} {r : RingIx} {c : Cmd}

/-- A ring with a status block counted. -/
def Ring.blockCounted (rg : Ring) : Ring := { rg with statusCount := rg.statusCount + 1 }

/-- The bytes of the next status block of a ring (R233). -/
def Ring.blockBytes (rg : Ring) : List Byte :=
  leBytes 4 rg.sqHead.toNat ++ leBytes 4 rg.cqTail.toNat ++ leBytes 4 (rg.statusCount + 1).toNat ++ leBytes 4 0

/-- A status block in host memory. -/
theorem State.statusBlock_host {u : State} {rg : Ring} (hu : Ordered u.rings) (p : Nat) (hrg : u.ring r = rg) (hloc : rg.loc = true) :
    u.statusBlock r p = (u.setRing r rg.blockCounted).writeHost rg.statusAddr rg.blockBytes := by
  subst hrg
  have hring := State.ring_setRing_same u r.val (u.ring r).blockCounted hu
  exact if_pos ((congrArg Ring.loc hring).trans hloc)

/-- The record in host memory. -/
def State.recordPut (s : State) (r : Nat) (c : Cmd) : State :=
  s.writeHost ((s.ring r).cqBase + (s.ring r).cqTail.toNat % (s.ring r).cqSize * 16) (recordBytes c s.stamp)

/-- The record written to host memory, and the ring's tail moved. -/
def State.tailMoved (s : State) (r : Nat) (c : Cmd) : State := (s.recordPut r c).setRing r ((s.ring r).tailed c)

/-- The state after the record and the status block. -/
def State.withRecord (s : State) (r : Nat) (c : Cmd) : State := (s.tailMoved r c).statusBlock r c.part

/-- A record of a ring in host memory that asks for no interrupt. -/
theorem State.writeRecord_host (hloc : (s.ring r).loc = true) (hirq : c.irq = false)
    (herr : (s.ring r).errIrq = false ∨ c.status.success = true) :
    s.writeRecord r c = (s.withRecord r c).dropCmd c.id := by
  have hquiet : (c.irq || ((s.ring r).errIrq && !c.status.success)) = false := by
    rcases herr with h | h <;> simp [hirq, h]
  have hfirst : s.ringWrite r c.part ((s.ring r).cqBase + (s.ring r).cqTail.toNat % (s.ring r).cqSize * 16) (recordBytes c s.stamp) =
      s.writeHost ((s.ring r).cqBase + (s.ring r).cqTail.toNat % (s.ring r).cqSize * 16) (recordBytes c s.stamp) := if_pos hloc
  unfold State.writeRecord
  simp only [hquiet, hfirst, Bool.false_eq_true, if_false]
  rfl

/-- The command that has ended writes its record and leaves. -/
theorem exec_commandComplete_host (hc : s.cmd? c.id = some c) (hph : c.phase = .ended) (hsrc : c.src = .ring r) (hbehind : s.shapeBehind c = false)
    (hloc : (s.ring r).loc = true) (hhost : s.hostWritable c.fn = true) (hfree : ∀ path, (s.shade c.part path).rate = 0) (hirq : c.irq = false)
    (herr : (s.ring r).errIrq = false ∨ c.status.success = true) :
    exec (.commandComplete c.id) s = .next ((s.withRecord r c).dropCmd c.id) := by
  refine congrArg Host.Outcome.next ?_
  rw [← State.writeRecord_host hloc hirq herr]
  have hactive : ¬ (c.opcode = 0x12 ∧ c.phase = .active) := by simp [hph]
  unfold State.complete
  simp only [hc, if_neg hactive]
  simp only [hph, hsrc, hbehind, if_true, Bool.false_eq_true, if_false, State.completeRing, hloc, hhost, Bool.not_true,
    Bool.and_false, State.shadeAskAll_unregulated hfree]

theorem State.recordPut_rings : (s.recordPut r c).rings = s.rings := rfl

theorem State.tailMoved_ordered (hr : Ordered s.rings) : Ordered (s.tailMoved r c).rings := by
  rw [← s.recordPut_rings (r := r) (c := c)] at hr
  exact sparseSet_rising Ring.reset (s.recordPut r c).rings r _ hr

theorem State.ring_tailMoved (hr : Ordered s.rings) : (s.tailMoved r c).ring r = (s.ring r).tailed c := by
  rw [← s.recordPut_rings (r := r) (c := c)] at hr
  exact State.ring_setRing_same (s.recordPut r c) r _ hr

theorem State.ring_tailMoved_other {q : Nat} (hq : q ≠ r.val) : (s.tailMoved r c).ring q = s.ring q :=
  (State.ring_setRing_other (s.recordPut r c) r q _ hq).trans (State.ring_congr (s.recordPut_rings (r := r) (c := c)) q)

section WithRecord

variable (hr : Ordered s.rings) (hloc : (s.ring r).loc = true)
include hr hloc

theorem State.withRecord_eq : s.withRecord r c =
    ((s.tailMoved r c).setRing r ((s.ring r).tailed c).blockCounted).writeHost ((s.ring r).tailed c).statusAddr ((s.ring r).tailed c).blockBytes :=
  State.statusBlock_host (State.tailMoved_ordered hr) c.part (State.ring_tailMoved hr) ((Ring.tailed_loc _ _).trans hloc)

theorem State.withRecord_rings : (s.withRecord r c).rings = ((s.tailMoved r c).setRing r ((s.ring r).tailed c).blockCounted).rings := by
  rw [State.withRecord_eq hr hloc, State.writeHost_rings]

theorem State.ring_withRecord_same : (s.withRecord r c).ring r = ((s.ring r).tailed c).blockCounted :=
  (State.ring_congr (State.withRecord_rings hr hloc) r).trans
    (State.ring_setRing_same (s.tailMoved r c) r _ (State.tailMoved_ordered hr))

theorem State.ring_withRecord_other {q : Nat} (hq : q ≠ r.val) : (s.withRecord r c).ring q = s.ring q :=
  (State.ring_congr (State.withRecord_rings hr hloc) q).trans
    ((State.ring_setRing_other (s.tailMoved r c) r q _ hq).trans (State.ring_tailMoved_other hq))

theorem State.withRecord_host : (s.withRecord r c).host =
    ((s.recordPut r c).writeHost (s.ring r).statusAddr ((s.ring r).tailed c).blockBytes).host := by
  have hbefore : ((s.tailMoved r c).setRing r ((s.ring r).tailed c).blockCounted).host = (s.recordPut r c).host := by
    rw [State.setRing_host, State.tailMoved, State.setRing_host]
  rw [State.withRecord_eq hr hloc, Ring.tailed_statusAddr]
  simp only [State.writeHost, hbefore]

theorem State.withRecord_over : RingHostOver s (s.withRecord r c) := by
  rw [State.withRecord_eq hr hloc]
  exact ((((RingHostOver.writeHost s _ _).trans (.setRing _ _ _)).trans (.setRing _ _ _)).trans (.writeHost _ _ _))

end WithRecord

end Record

/-! ### The obligation -/

/-- Settles O35: the Dispatcher's way of a command through its ring, by its three steps. -/
theorem commandsPassThroughRings : Obligations.CommandsPassThroughRings := by
  unfold Obligations.CommandsPassThroughRings
  refine ⟨?_, ?_, ?_⟩
  · intro s d r bs p fn hcan hd hr hp hone hown hfree
    have hown' : (s.servedBy r.val).getD (0, 0) = (p, fn) := by rw [hown]; rfl
    refine ⟨_, _, exec_commandFetch_one hd hr hp hone hown hfree, rfl, rfl, ?_, rfl, rfl, rfl, ?_, ?_, rfl, rfl, rfl, rfl, rfl, rfl,
      fun h => if_pos h, ?_, fun q hq => ?_, rfl⟩
    · exact congrArg CmdSrc.ring (Fin.ofNat_val_eq_self _)
    · exact congrArg Prod.fst hown'
    · exact congrArg Prod.snd hown'
    · exact State.ring_setRing_same _ _ _ hcan.ordRings
    · exact State.ring_setRing_other _ _ _ _ hq
  · intro s r c hcan halone hc hph hprev hfail hlen hown hvalid hroom
    refine ⟨fun hst hchain hheld hcheck hop => ?_, fun hst => ?_⟩
    · obtain ⟨t, hexec, ⟨hthis, hother⟩, hframe⟩ :=
        exec_commandIssue_sent halone hph hprev hown hroom hc hfail hlen hvalid hst hchain hheld hcheck hop
      exact ⟨t, hexec, hthis, hother, hframe⟩
    · obtain ⟨t, hexec, ⟨hthis, hother⟩, hframe⟩ := exec_commandIssue_failed halone hph hprev hown hroom hc hfail hlen hst
      exact ⟨t, hexec, hthis, hother, hframe⟩
  · intro s r c hcan hc hph hsrc hbehind hloc hhost hfree hirq herr rg
    have hexec := exec_commandComplete_host hc hph hsrc hbehind hloc hhost hfree hirq herr
    have hcmds : (s.withRecord r c).cmds = s.cmds := by rw [(State.withRecord_over (c := c) hcan.ordRings hloc).frame]
    have hblock : ((s.ring r).tailed c).blockBytes = leBytes 4 rg.sqHead.toNat ++ leBytes 4 (rg.cqTail + 1).toNat ++
        leBytes 4 (rg.statusCount + 1).toNat ++ leBytes 4 0 := by
      rw [Ring.blockBytes, Ring.tailed_sqHead, Ring.tailed_cqTail, Ring.tailed_statusCount]
    have hhosted := State.withRecord_host (c := c) hcan.ordRings hloc
    rw [hblock] at hhosted
    have hring := State.ring_withRecord_same (c := c) hcan.ordRings hloc
    rw [Ring.blockCounted, Ring.tailed_statusCount] at hring
    refine ⟨_, hexec, congrArg (List.filter _) hcmds, hring, fun q hq => State.ring_withRecord_other hcan.ordRings hloc hq, hhosted,
      (State.withRecord_over hcan.ordRings hloc).dropCmd c.id⟩

end Sys2Proof.Machine

/-!
PROOF. The mailboxes (R349-R352): requests posted, copied, checked and answered, and messages written to the device-to-host area.
-/

namespace Sys2Proof.Machine

/-! ### A function's mailbox -/

/-- What a sparse table holds at a key after a value other than the default has been put there, whatever the table's order. -/
theorem sparseGet_set_value {α : Type} [DecidableEq α] {d v : α} (hv : v ≠ d) (t : List (Nat × α)) (k : Nat) : sparseGet d (sparseSet d t k v) k = v := by
  induction t with
  | nil => simp [sparseSet, sparseGet, hv]
  | cons e t ih =>
    obtain ⟨k', v'⟩ := e
    rw [sparseSet]
    split_ifs with hlt heq
    · simp [sparseGet]
    · simp [sparseGet]
    · rw [sparseGet, if_neg heq, ih]

theorem State.mailbox_setMailbox (s : State) (f : Nat) {v : Mailbox} (hv : v ≠ ⟨[], [], [], 0⟩) : (s.setMailbox f v).mailbox f = v :=
  sparseGet_set_value hv s.ozmel.mailboxes f

/-- t is s but for the mailboxes. -/
def MailOver (s t : State) : Prop := ∃ m, t = { s with ozmel := { s.ozmel with mailboxes := m } }

theorem MailOver.refl (s : State) : MailOver s s := ⟨_, rfl⟩

theorem MailOver.trans {s t u : State} (h : MailOver s t) (g : MailOver t u) : MailOver s u := by
  obtain ⟨_, rfl⟩ := h
  obtain ⟨_, rfl⟩ := g
  exact ⟨_, rfl⟩

theorem MailOver.regs {s t : State} (h : MailOver s t) : t.regs = s.regs := by
  obtain ⟨_, rfl⟩ := h
  rfl

theorem MailOver.setMailbox (s : State) (f : Nat) (v : Mailbox) : MailOver s (s.setMailbox f v) := ⟨_, rfl⟩

theorem MailOver.respond (s : State) (f : Nat) (r : List Byte) (st : Status) (pl : List Byte) : MailOver s (s.respond f r st pl) := ⟨_, rfl⟩

/-- The answers to the requests that fail a check change the mailboxes alone. -/
theorem MailOver.settle (s : State) (f n : Nat) : MailOver s (s.settle f n) := by
  induction n generalizing s with
  | zero => exact .refl s
  | succ n ih =>
    unfold State.settle
    dsimp only
    split
    · exact .refl s
    · split
      · exact .refl s
      · exact ((MailOver.setMailbox s f _).trans (.respond _ f _ _ _)).trans (ih _)

theorem MailOver.notifyLost (s : State) (f : Nat) : MailOver s (s.notifyLost f) := by
  unfold State.notifyLost
  dsimp only
  split
  · exact .setMailbox s f _
  · exact .refl s

/-! ### Posting and releasing (R350, R352) -/

theorem State.post_free {s : State} {f : Nat} (h : s.flag (mbH2d f) 1 = false) : s.post f = s.setFlag (mbH2d f) 1 true :=
  if_neg (Bool.eq_false_iff.mp h)

theorem State.post_busy {s : State} {f : Nat} (h : s.flag (mbH2d f) 1 = true) : s.post f = s.setFlag (mbH2d f) 2 true := if_pos h

section Answers

variable {s : State} {f : FnIx} (hfn : s.fnAnswers f = true) (hblock : s.blockAnswers Reg.mbH2dCtl = true)
include hfn hblock

theorem exec_mbPost : exec (.mbPost f) s = .next (s.post f) := congrArg Host.Outcome.next (if_pos (by rw [hfn, hblock]; rfl))

theorem exec_mbRelease : exec (.mbRelease f) s = .next (s.setFlag (mbD2h f) 31 false) :=
  congrArg Host.Outcome.next (if_pos (by rw [hfn, hblock]; rfl))

end Answers

/-! ### The copy of a request (R350, R351) -/

/-- The bytes of a posted request: its header, and as much payload as LEN says and the area holds. -/
def State.posted (s : State) (f : Nat) : List Byte := (s.mbArea f 0).take (16 + min 2016 (fieldAt (s.mbArea f 0) 8 2))

/-- The state in which the posted request stands behind those that wait. -/
def State.requestCopied (s : State) (f : Nat) : State :=
  (s.setFlag (mbH2d f) 1 false).setMailbox f { s.mailbox f with requests := (s.mailbox f).requests ++ [s.posted f] }

section Copy

variable {s : State} {f : FnIx} (hserved : s.mbServed = true) (hbusy : s.flag (mbH2d f) 1 = true) (hflr : (s.func f).flr = false)

include hserved hbusy hflr in
theorem exec_mbRequestCopy : exec (.mbRequestCopy f) s = .next ((s.requestCopied f).settle f ((s.mailbox f).requests.length + 1)) :=
  congrArg Host.Outcome.next (if_neg (by simp [hserved, hbusy, hflr]))

theorem State.requestCopied_over (s : State) (f : Nat) : MailOver (s.setFlag (mbH2d f) 1 false) (s.requestCopied f) := ⟨_, rfl⟩

theorem State.mailbox_requestCopied (s : State) (f : Nat) :
    (s.requestCopied f).mailbox f = { s.mailbox f with requests := (s.mailbox f).requests ++ [s.posted f] } :=
  State.mailbox_setMailbox _ f fun h => by simpa using congrArg Mailbox.requests h

/-- The checks of a request look at two flags of the registers, which the copy keeps. -/
theorem State.mbCheck_congr {s t : State} (hboot : t.flag Reg.rstBoot 31 = s.flag Reg.rstBoot 31)
    (hlock : t.flag Reg.mbH2dCtl 31 = s.flag Reg.mbH2dCtl 31) (f : Nat) (r : List Byte) : t.mbCheck f r = s.mbCheck f r := by
  simp only [State.mbCheck, hboot, hlock]

theorem mbH2d_pf : mbH2d 0 = Reg.mbH2dCtl := rfl

theorem rstBoot_ne_mbH2d (f : Nat) : Reg.rstBoot ≠ mbH2d f := by
  have hboot : Reg.rstBoot < 0x90000 := by decide
  unfold mbH2d mbKey
  split <;> omega

theorem State.mbCheck_requestCopied {s : State} (hr : Rising s.regs) (f : Nat) (r : List Byte) : (s.requestCopied f).mbCheck f r = s.mbCheck f r := by
  refine State.mbCheck_congr ?_ ?_ f r
  · exact congrArg (bitOf · 31) (State.reg_setFlag_other s _ 1 _ false (rstBoot_ne_mbH2d f))
  · by_cases h : Reg.mbH2dCtl = mbH2d f
    · rw [h]
      exact State.flag_setFlag_other s false hr (by decide) (by decide)
    · exact congrArg (bitOf · 31) (State.reg_setFlag_other s _ 1 _ false h)

variable (hr : Rising s.regs) (hnone : (s.mailbox f).requests = [])
include hr hnone

theorem State.settle_requestCopied_passes (h : s.mbCheck f (s.posted f) = none) : (s.requestCopied f).settle f 1 = s.requestCopied f := by
  have hreq : ((s.requestCopied f).mailbox f).requests = [s.posted f] := by
    rw [State.mailbox_requestCopied, hnone]
    rfl
  simp only [State.settle, hreq, State.mbCheck_requestCopied hr, h]

/-- A request that fails a check is answered behind the responses that wait. -/
theorem State.settle_requestCopied_fails {st : Status} (h : s.mbCheck f (s.posted f) = some st) :
    ∃ l, (((s.requestCopied f).settle f 1).mailbox f).responses =
      l ++ [mbMessage (0x8000 + fieldAt (s.posted f) 4 2) (fieldAt (s.posted f) 6 2) st.code []] := by
  have hreq : ((s.requestCopied f).mailbox f).requests = [s.posted f] := by
    rw [State.mailbox_requestCopied, hnone]
    rfl
  simp only [State.settle, hreq, State.mbCheck_requestCopied hr, h, State.respond, ite_self]
  rw [State.mailbox_setMailbox _ _ fun h => by simpa using congrArg Mailbox.responses h]
  exact ⟨_, rfl⟩

end Copy

/-! ### The checks (R351) -/

section Checks

variable {s : State} {f : Nat} {r : List Byte}

theorem State.mbCheck_version (h : fieldAt r 0 2 ≠ 0x4B44 ∨ fieldAt r 2 1 ≠ 1) : s.mbCheck f r = some .badVersion := if_pos h

variable (hmagic : fieldAt r 0 2 = 0x4B44) (hversion : fieldAt r 2 1 = 1)
include hmagic hversion

theorem State.mbCheck_unlisted (h : mbNeed r = none) : s.mbCheck f r = some .badOpcode := by
  simp [State.mbCheck, hmagic, hversion, h]

theorem State.mbCheck_length {n : Nat} (hn : mbNeed r = some n) (h : 2016 < fieldAt r 8 2 ∨ fieldAt r 8 2 < n) : s.mbCheck f r = some .badOpcode := by
  simp [State.mbCheck, hmagic, hversion, hn, h]

/-- The checks that follow the length. -/
theorem State.mbCheck_listed {n : Nat} (hn : mbNeed r = some n) (hlow : n ≤ fieldAt r 8 2) (hhigh : fieldAt r 8 2 ≤ 2016) : s.mbCheck f r =
    if mbPfOnly.contains (fieldAt r 4 2) && f != 0 then some .notOwner
    else if s.flag Reg.rstBoot 31 && !mbRecovery.contains (fieldAt r 4 2) then some .isolated
    else if mbSettings.contains (fieldAt r 4 2) && s.flag Reg.mbH2dCtl 31 then some .locked
    else none := by
  have hversionOk : ¬ (fieldAt r 0 2 ≠ 0x4B44 ∨ fieldAt r 2 1 ≠ 1) := by simp [hmagic, hversion]
  have hlen : ¬ (2016 < fieldAt r 8 2 ∨ fieldAt r 8 2 < n) := by omega
  rw [State.mbCheck, if_neg hversionOk]
  simp only [hn, if_neg hlen]

end Checks

/-! ### Messages written to the device-to-host area (R352) -/

theorem leBytes_leNat (l : List Byte) : leBytes l.length (leNat l) = l := by
  induction l with
  | nil => rfl
  | cons b t ih =>
    have hlow : BitVec.ofNat 8 (b.toNat + 256 * leNat t) = b := BitVec.eq_of_toNat_eq (by
      rw [BitVec.toNat_ofNat, Nat.add_mul_mod_self_left]
      exact Nat.mod_eq_of_lt b.isLt)
    have hhigh : (b.toNat + 256 * leNat t) / 256 = leNat t := by
      rw [Nat.add_mul_div_left _ _ (by decide), Nat.div_eq_of_lt b.isLt, Nat.zero_add]
    rw [List.length_cons, leNat, leBytes, hlow, hhigh, ih]

theorem wordsBytes_bytesWords {n : Nat} {l : List Byte} (h : l.length = 4 * n) : wordsBytes (bytesWords l) = l := by
  induction n generalizing l with
  | zero =>
    rw [List.length_eq_zero_iff.mp h]
    rfl
  | succ n ih =>
    match l, h with
    | a :: b :: c :: d :: t, h =>
      have ht : t.length = 4 * n := by
        simp only [List.length_cons] at h
        omega
      have hword : leBytes 4 (BitVec.ofNat 32 (leNat [a, b, c, d])).toNat = [a, b, c, d] := by
        have hlt : leNat [a, b, c, d] < 2 ^ 32 := Nat.lt_of_lt_of_eq (leNat_lt [a, b, c, d]) (by norm_num)
        rw [BitVec.toNat_ofNat, Nat.mod_eq_of_lt hlt]
        exact leBytes_leNat [a, b, c, d]
      show leBytes 4 _ ++ wordsBytes (bytesWords t) = _
      rw [ih ht, hword]
      rfl

/-- Words written to consecutive registers, the first of them as the k-th of a block. -/
def State.putWords (s : State) (base k : Nat) (ws : List Word) : State := (ws.zipIdx k).foldl (fun s w => s.setReg (base + 4 * w.2) w.1) s

/-- Each word can be read back, and no register beyond them changes. -/
theorem State.putWords_spec {s : State} (hr : Rising s.regs) (base k : Nat) (ws : List Word) :
    Rising (s.putWords base k ws).regs ∧ (∀ j < ws.length, (s.putWords base k ws).reg (base + 4 * (k + j)) = listAt 0 ws j) ∧
    (∀ o, (∀ j < ws.length, o ≠ base + 4 * (k + j)) → (s.putWords base k ws).reg o = s.reg o) ∧
    s.putWords base k ws = { s with regs := (s.putWords base k ws).regs } := by
  induction ws generalizing s k with
  | nil => exact ⟨hr, fun j hj => absurd hj (Nat.not_lt_zero j), fun _ _ => rfl, rfl⟩
  | cons w ws ih =>
    have hstep : s.putWords base k (w :: ws) = (s.setReg (base + 4 * k) w).putWords base (k + 1) ws := rfl
    obtain ⟨hrise, hsame, hother, hframe⟩ := ih (State.setReg_rising _ _ _ hr) (k := k + 1)
    rw [hstep]
    refine ⟨hrise, fun j hj => ?_, fun o ho => ?_, hframe.trans rfl⟩
    · cases j with
      | zero => exact (hother _ fun j hj => by omega).trans (State.reg_setReg_same _ _ _ hr)
      | succ j =>
        rw [show k + (j + 1) = k + 1 + j by omega]
        exact hsame j (by simpa using hj)
    · refine (hother o fun j hj => ?_).trans (State.reg_setReg_other _ _ _ _ ?_)
      · rw [show k + 1 + j = k + (j + 1) by omega]
        exact ho (j + 1) (by simpa using hj)
      · exact ho 0 (by simp)

theorem take_zipIdx {α : Type} (l : List α) (k m : Nat) : (l.zipIdx k).take m = (l.take m).zipIdx k := by
  induction l generalizing k m with
  | nil => simp
  | cons a t ih =>
    cases m with
    | zero => rfl
    | succ m => simp [ih]

/-- The words of the device-to-host area that a message covers, the last of them filled up with the area's bytes. -/
def State.messageWords (s : State) (f : Nat) (msg : List Byte) : List Word :=
  (bytesWords (overlay (s.mbArea f 0x800) 0 msg)).take ((msg.length + 3) / 4)

/-- The area with a message in it, and VALID. -/
def State.messageShown (s : State) (f : Nat) (msg : List Byte) : State :=
  (s.putWords (mbKey f 0x800) 0 (s.messageWords f msg)).setFlag (mbD2h f) 31 true

theorem State.putMessage_eq (s : State) (f : Nat) (msg : List Byte) : s.putMessage f msg =
    if s.flag (mbD2h f) 30 then (s.messageShown f msg).msixDue f
      (if f = 0 then s.fld (mbD2h f) 26 16 else s.fld (mbD2h f) 26 16 % 64)
    else s.messageShown f msg := by
  unfold State.putMessage
  dsimp only
  rw [take_zipIdx]
  rfl

theorem mbD2h_eq (f : Nat) : mbD2h f = mbKey f 0x800 + 4 * 508 := by
  unfold mbD2h mbKey
  split <;> omega

theorem State.length_mbArea (s : State) (f off : Nat) : (s.mbArea f off).length = 4 * 508 := by
  rw [State.mbArea, wordsBytes_length, List.length_map, List.length_range]

theorem State.listAt_mbArea (s : State) (f off : Nat) {i : Nat} (h : i < 2032) :
    listAt 0 (s.mbArea f off) i = BitVec.ofNat 8 (bitsOf (s.reg (mbKey f off + 4 * (i / 4))) (i % 4 * 8 + 7) (i % 4 * 8)) := by
  have hlen : i < 4 * ((List.range 508).map fun i => s.reg (mbKey f off + 4 * i)).length := by
    rw [List.length_map, List.length_range]
    omega
  rw [State.mbArea, listAt_wordsBytes _ hlen, listAt_range_map _ _ (by omega)]

section Shown

variable {s : State} (f : Nat) {msg : List Byte} (hlen : msg.length ≤ 2032)
include hlen

theorem length_overlay_area : (overlay (s.mbArea f 0x800) 0 msg).length = 4 * 508 := by
  have harea := s.length_mbArea f 0x800
  simp only [overlay, List.take_zero, List.nil_append, Nat.zero_add, List.length_append, List.length_drop, harea]
  omega

theorem length_bytesWords_area : (bytesWords (overlay (s.mbArea f 0x800) 0 msg)).length = 508 := by
  have h := congrArg List.length (wordsBytes_bytesWords (length_overlay_area (s := s) f hlen))
  rw [wordsBytes_length, length_overlay_area f hlen] at h
  omega

theorem State.length_messageWords : (s.messageWords f msg).length = (msg.length + 3) / 4 := by
  rw [State.messageWords, List.length_take, length_bytesWords_area f hlen]
  omega

/-- A word that a message covers shows the message's bytes. -/
theorem State.listAt_messageWords {i : Nat} (h : i < msg.length) :
    BitVec.ofNat 8 (bitsOf (listAt 0 (s.messageWords f msg) (i / 4)) (i % 4 * 8 + 7) (i % 4 * 8)) = listAt 0 msg i := by
  have hwords := length_bytesWords_area (s := s) f hlen
  have hbyte := listAt_wordsBytes (bytesWords (overlay (s.mbArea f 0x800) 0 msg)) (i := i) (by omega)
  rw [wordsBytes_bytesWords (length_overlay_area f hlen)] at hbyte
  rw [State.messageWords, listAt_take _ _ (by omega), ← hbyte]
  exact listAt_append_left _ h

variable (hr : Rising s.regs)
include hr

theorem State.messageShown_spec :
    (s.messageShown f msg).flag (mbD2h f) 31 = true ∧ (∀ i < msg.length, listAt 0 ((s.messageShown f msg).mbArea f 0x800) i = listAt 0 msg i) ∧
    (∀ off, off < mbKey f 0x800 ∨ mbKey f 0xFF4 ≤ off → (s.messageShown f msg).reg off = s.reg off) ∧
    s.messageShown f msg = { s with regs := (s.messageShown f msg).regs } := by
  obtain ⟨hrise, hsame, hother, hframe⟩ := State.putWords_spec hr (mbKey f 0x800) 0 (s.messageWords f msg)
  have hcount := State.length_messageWords (s := s) f hlen
  have hd2h := mbD2h_eq f
  have hend : mbKey f 0xFF4 = mbKey f 0x800 + 4 * 509 := by
    unfold mbKey
    split <;> omega
  refine ⟨State.flag_setFlag_same _ _ _ _ hrise (by decide), fun i hi => ?_, fun off hoff => ?_, State.setFld_regsOnly hframe _ _ _ _⟩
  · rw [State.listAt_mbArea _ _ _ (by omega), State.messageShown, State.reg_setFlag_other _ _ _ _ _ (by omega),
      show 4 * (i / 4) = 4 * (0 + i / 4) by omega, hsame _ (by omega), State.listAt_messageWords f hlen hi]
  · exact (State.reg_setFlag_other _ _ _ _ _ (by omega)).trans (hother off fun j hj => by omega)

end Shown

/-- A message that goes out leaves the registers outside its area and, without IRQ_EN, everything but registers alone. -/
theorem State.putMessage_spec {s : State} (f : Nat) {msg : List Byte} (hlen : msg.length ≤ 2032) (hr : Rising s.regs) :
    (s.putMessage f msg).flag (mbD2h f) 31 = true ∧ (∀ i < msg.length, listAt 0 ((s.putMessage f msg).mbArea f 0x800) i = listAt 0 msg i) ∧
    (∀ off, off < mbKey f 0x800 ∨ mbKey f 0xFF4 ≤ off → (s.putMessage f msg).reg off = s.reg off) ∧
    (s.flag (mbD2h f) 30 = false → s.putMessage f msg = { s with regs := (s.putMessage f msg).regs }) := by
  obtain ⟨hvalid, hbytes, hother, hframe⟩ := State.messageShown_spec f hlen hr
  have hregs : (s.putMessage f msg).regs = (s.messageShown f msg).regs := by
    rw [State.putMessage_eq]
    split
    · exact State.regs_msixDue _ _ _
    · rfl
  have harea : (s.putMessage f msg).mbArea f 0x800 = (s.messageShown f msg).mbArea f 0x800 := by
    simp only [State.mbArea, State.reg_congr hregs]
  refine ⟨(State.flag_congr hregs _ _).trans hvalid, fun i hi => ?_, fun off hoff => (State.reg_congr hregs off).trans (hother off hoff), fun h => ?_⟩
  · rw [harea]
    exact hbytes i hi
  · rw [State.putMessage_eq, h]
    exact hframe

/-- What goes out next: the oldest response, or else the oldest notification. -/
theorem exec_mbResponseWrite {s : State} {f : FnIx} {r : List Byte} {tl : List (List Byte)} (hserved : s.mbServed = true)
    (hfree : s.flag (mbD2h f) 31 = false) (hflr : (s.func f).flr = false)
    (h : (s.mailbox f).responses = r :: tl ∨ ((s.mailbox f).responses = [] ∧ (s.mailbox f).notifs = r :: tl)) :
    ∃ u, MailOver s u ∧ exec (.mbResponseWrite f) s = .next (u.putMessage f r) := by
  have hopen : ¬ (s.mbServed = false ∨ s.flag (mbD2h f) 31 = true ∨ (s.func f).flr = true) := by simp [hserved, hfree, hflr]
  rcases h with h | ⟨hnone, h⟩
  · refine ⟨s.setMailbox f { s.mailbox f with responses := tl }, .setMailbox s f _, congrArg Host.Outcome.next ((if_neg hopen).trans ?_)⟩
    simp only [h]
  · refine ⟨(s.setMailbox f { s.mailbox f with notifs := tl }).notifyLost f, (MailOver.setMailbox s f _).trans (.notifyLost _ f),
      congrArg Host.Outcome.next ((if_neg hopen).trans ?_)⟩
    simp only [hnone, h]

/-! ### The obligation -/

/-- Settles O54: each step of the exchange, and the two ways of a notification. -/
theorem mailboxExchange : Obligations.MailboxExchange := by
  unfold Obligations.MailboxExchange
  refine ⟨?_, ?_, ?_, ?_, ?_, ?_⟩
  · intro s f hfn hblock
    exact ⟨fun h => (exec_mbPost hfn hblock).trans (congrArg _ (State.post_free h)),
      fun h => (exec_mbPost hfn hblock).trans (congrArg _ (State.post_busy h)), exec_mbRelease hfn hblock⟩
  · intro s f hserved hbusy hflr m a r u
    have hexec := exec_mbRequestCopy hserved hbusy hflr
    refine ⟨fun hcan => ?_, fun hcan hnone hcheck => ?_, fun st hcan hnone hcheck => ?_⟩
    · have hover := (s.requestCopied_over f).trans (.settle _ f ((s.mailbox f).requests.length + 1))
      refine ⟨_, hexec, ?_, fun o ho => ?_, ?_⟩
      · exact (State.flag_congr hover.regs _ _).trans (State.flag_setFlag_same _ _ _ _ hcan.rising (by decide))
      · exact (State.reg_congr hover.regs o).trans (State.reg_setFlag_other _ _ _ _ _ (by simpa using ho))
      · obtain ⟨mailboxes, hfinal⟩ := hover
        rw [hfinal]
        rfl
    · rw [hexec, hnone]
      exact congrArg _ (State.settle_requestCopied_passes hcan.rising hnone hcheck)
    · rw [hexec, hnone]
      exact ⟨_, rfl, State.settle_requestCopied_fails hcan.rising hnone hcheck⟩
  · intro s f r id len
    refine ⟨fun h => State.mbCheck_version h, fun hmagic hversion => ⟨fun h => State.mbCheck_unlisted hmagic hversion h, fun n hn =>
      ⟨fun h => State.mbCheck_length hmagic hversion hn h, fun hlow hhigh => ?_⟩⟩⟩
    rw [State.mbCheck_listed hmagic hversion hn hlow hhigh]
    refine ⟨fun hpf hf => if_pos (by simp [hpf, hf, id] ), fun hf hboot hset hlock => ?_, fun hf hboot hlock => ?_⟩
    · simp [hf, hboot, hlock, hset, id]
    · simp [hf, hboot, hlock]
  · intro s f r tl hcan hserved hfree hflr hlen hnext
    obtain ⟨u, hover, hexec⟩ := exec_mbResponseWrite hserved hfree hflr hnext
    have hrise : Rising u.regs := by
      rw [hover.regs]
      exact hcan.rising
    obtain ⟨hvalid, hbytes, hother, hframe⟩ := State.putMessage_spec f hlen hrise
    refine ⟨_, hexec, hvalid, hbytes, fun off hoff => (hother off hoff).trans (State.reg_congr hover.regs off), fun h => ?_⟩
    have hquiet := hframe ((State.flag_congr hover.regs _ _).trans h)
    obtain ⟨mailboxes, rfl⟩ := hover
    rw [hquiet]
  · intro s f id pl h
    have hvalue : ({ s.mailbox f with notifs := (s.mailbox f).notifs ++ [mbMessage id 0 0 pl] } : Mailbox) ≠ ⟨[], [], [], 0⟩ := fun h => by
      simpa using congrArg Mailbox.notifs h
    have hnotify : s.notify f id pl = s.setMailbox f { s.mailbox f with notifs := (s.mailbox f).notifs ++ [mbMessage id 0 0 pl] } := if_pos h
    rw [hnotify, State.mailbox_setMailbox _ _ hvalue]
  · intro s f id pl h
    have hvalue : ({ s.mailbox f with lost := (s.mailbox f).lost + 1 } : Mailbox) ≠ ⟨[], [], [], 0⟩ := fun h => by
      simpa using congrArg Mailbox.lost h
    have hnotify : s.notify f id pl = s.setMailbox f { s.mailbox f with lost := (s.mailbox f).lost + 1 } := if_neg (by omega)
    rw [hnotify, State.mailbox_setMailbox _ _ hvalue]
    exact ⟨rfl, rfl⟩

end Sys2Proof.Machine

/-!
PROOF. The power domains (R380-R384): a domain that the policy does not want while Ozmel is not READY.
-/

namespace Sys2Proof.Machine

/-- Before READY: the logic domain of Lantern 0 and its first array are ON. -/
def beforeReady : State := State.reset.setReg (Reg.pdState 0) 5

theorem beforeReady_canonical : beforeReady.Canonical where
  mem := by decide
  regs := by decide
  tabs := by decide
  sizes := by decide

/-- The array's domain is ON and the policy, which wants nothing before READY, does not want it. -/
theorem beforeReady_unwanted : beforeReady.domState (1 : DomIx) ≠ 0 ∧ beforeReady.wantsOn (1 : DomIx) = false := by decide

/-- An array stays ON while its Lantern's logic domain is. -/
theorem beforeReady_stays : exec (.domainPowerDown 1 false) beforeReady = .next beforeReady := by
  have hstays : beforeReady.domState 1 ≠ 0 ∧ beforeReady.domOn (lnDom (1 / 5)) = true := by decide
  obtain ⟨hon, hlogic⟩ := hstays
  refine congrArg Host.Outcome.next ?_
  show beforeReady.domainPowerDown 1 false = _
  rw [State.domainPowerDown, if_neg hon, if_pos (by decide), if_neg (by decide), if_neg (by decide), if_pos hlogic]

/-- Refutes O52, by its clause on DOMAIN_POWER_DOWN: it has every array that the policy does not want go OFF. Before READY the policy wants
no domain (R380), and an array whose Lantern's logic domain is ON stays ON. -/
theorem not_domainsFollowPolicy : ¬ Obligations.DomainsFollowPolicy := by
  unfold Obligations.DomainsFollowPolicy
  rintro ⟨-, hdown, -⟩
  obtain ⟨hon, hunwanted⟩ := beforeReady_unwanted
  have hoff := hdown beforeReady 1 false beforeReady_canonical hon hunwanted
  rw [beforeReady_stays, if_pos (by decide), if_neg (by decide), if_neg (by decide)] at hoff
  have hstate : beforeReady.domState 1 = (beforeReady.setDom 1 0).domState 1 :=
    congrArg (fun o : Host.Outcome State Fault Refusal => match o with | .next t => t.domState 1 | _ => 0) hoff
  exact absurd hstate (by decide)

end Sys2Proof.Machine

/-!
PROOF. The starts of the device (R372, R373, R378): what a start changes, however often it fails.
-/

namespace Sys2Proof.Machine

/-! ### The steps of a start -/

/-- A start that found no image has failed, and the next one begins. -/
def State.startFailed (s : State) : State :=
  { s.failCount with ozmel := { s.failCount.ozmel with skipFailed := false, bootWanted := none } }

/-- What its four steps keep a start keeps. -/
theorem State.start_induction {P : State → Prop} (hoptions : ∀ s, P s → P s.startOptions) (hrecover : ∀ s, P s → P s.recover)
    (himage : ∀ s k, P s → P (s.startImage k)) (hfailed : ∀ s, P s → P s.startFailed) (n : Nat) {s : State} (h : P s) : P (s.start n) := by
  induction n generalizing s with
  | zero => exact hrecover s h
  | succ n ih =>
    unfold State.start
    dsimp only
    split
    · exact hrecover _ (hoptions s h)
    · split
      · exact himage _ _ (hoptions s h)
      · exact ih (hfailed _ (hoptions s h))

/-- A start ends in the recovery monitor or in an image. -/
theorem State.start_runs (n : Nat) (s : State) : (s.start n).ozmel.running = true ∧ (s.start n).ozmel.ready = false := by
  induction n generalizing s with
  | zero => exact ⟨rfl, rfl⟩
  | succ n ih =>
    unfold State.start
    dsimp only
    split
    · exact ⟨rfl, rfl⟩
    · split
      · exact ⟨rfl, rfl⟩
      · exact ih _

theorem State.resetEvent_eq (s : State) :
    s.resetEvent = { s with regs := s.resetEvent.regs, soot := s.resetEvent.soot, freeCtr := s.resetEvent.freeCtr } := State.sootEvent_eq _ _ _ _

theorem State.reg_resetEvent (s : State) {o : Nat} (h : o ≠ Reg.sootDrop) : s.resetEvent.reg o = s.reg o := State.reg_sootEvent _ _ _ _ _ h

theorem State.resetEvent_rising {s : State} (h : Rising s.regs) : Rising s.resetEvent.regs := State.sootEvent_rising _ _ _ _ h

theorem State.resetEvent_fabric (s : State) : s.resetEvent.fabric = s.fabric := State.sootEvent_fabric s _ _ _

/-! ### What a start leaves alone -/

/-- t is s but for some registers, the options, the fabric, Ozmel, the event recorder and the free values drawn. -/
def StartOver (s t : State) : Prop := ∃ regs options fabric ozmel soot freeCtr,
  t = { s with regs := regs, options := options, fabric := fabric, ozmel := ozmel, soot := soot, freeCtr := freeCtr }

theorem StartOver.refl (s : State) : StartOver s s := ⟨_, _, _, _, _, _, rfl⟩

theorem StartOver.trans {s t u : State} (h : StartOver s t) (g : StartOver t u) : StartOver s u := by
  obtain ⟨_, _, _, _, _, _, rfl⟩ := h
  obtain ⟨_, _, _, _, _, _, rfl⟩ := g
  exact ⟨_, _, _, _, _, _, rfl⟩

theorem StartOver.resetEvent (s : State) : StartOver s s.resetEvent := ⟨_, _, _, _, _, _, s.resetEvent_eq⟩

theorem StartOver.setFld (s : State) (off hi lo v : Nat) : StartOver s (s.setFld off hi lo v) := ⟨_, _, _, _, _, _, rfl⟩

theorem StartOver.failCount (s : State) : StartOver s s.failCount :=
  ((((StartOver.resetEvent s).trans (.setFld _ _ _ _ _)).trans (.setFld _ _ _ _ _)).trans (.setFld _ _ _ _ _)).trans (.resetEvent _)

theorem StartOver.withOzmel (s : State) (o : Ozmel) : StartOver s { s with ozmel := o } := ⟨_, _, _, _, _, _, rfl⟩

theorem State.start_over (n : Nat) (s : State) : StartOver s (s.start n) :=
  State.start_induction (P := StartOver s) (fun _ h => h.trans ⟨_, _, _, _, _, _, rfl⟩) (fun _ h => h.trans ⟨_, _, _, _, _, _, rfl⟩)
    (fun _ _ h => h.trans ⟨_, _, _, _, _, _, rfl⟩) (fun t h => (h.trans (.failCount t)).trans (.withOzmel _ _)) n (.refl s)

/-- The registers of a start. -/
def startRegs : List Nat := [Reg.rstBoot, Reg.rstCause, Reg.sootDrop]

theorem ne_of_not_mem_startRegs {o : Nat} (h : o ∉ startRegs) : o ≠ Reg.rstBoot ∧ o ≠ Reg.rstCause ∧ o ≠ Reg.sootDrop := by
  simpa [startRegs] using h

theorem State.reg_failCount (s : State) {o : Nat} (h : o ∉ startRegs) : s.failCount.reg o = s.reg o := by
  obtain ⟨hboot, hcause, hdrop⟩ := ne_of_not_mem_startRegs h
  rw [State.failCount, State.reg_resetEvent _ hdrop, State.reg_setFlag_other _ _ _ _ _ hcause, State.reg_setFlag_other _ _ _ _ _ hboot,
    State.reg_setFld_other _ _ _ _ _ _ hboot, State.reg_resetEvent _ hdrop]

theorem State.start_sameRegs (n : Nat) (s : State) : SameRegs s (s.start n) startRegs :=
  State.start_induction (P := fun t => SameRegs s t startRegs)
    (fun _ h o ho => (State.reg_setReg_other _ _ _ _ (ne_of_not_mem_startRegs ho).1).trans (h o ho))
    (fun _ h o ho => (State.reg_setReg_other _ _ _ _ (ne_of_not_mem_startRegs ho).1).trans (h o ho))
    (fun _ _ h o ho => (State.reg_setFld_other _ _ _ _ _ _ (ne_of_not_mem_startRegs ho).1).trans (h o ho))
    (fun t h o ho => (t.reg_failCount ho).trans (h o ho)) n fun _ _ => rfl

/-- A start releases the reset. -/
theorem State.start_released (n : Nat) (s : State) : (s.start (n + 1)).fabric.resetHeld = false ∧ (s.start (n + 1)).fabric.safe = false := by
  have hfail : ∀ t : State, t.startFailed.fabric = t.fabric := fun t =>
    (State.resetEvent_fabric _).trans (State.resetEvent_fabric t)
  have hfrom : ∀ t : State, t.fabric.resetHeld = false ∧ t.fabric.safe = false → (t.start n).fabric.resetHeld = false ∧ (t.start n).fabric.safe = false :=
    fun t h => State.start_induction (P := fun t => t.fabric.resetHeld = false ∧ t.fabric.safe = false) (fun _ _ => ⟨rfl, rfl⟩) (fun _ h => h)
      (fun _ _ h => h) (fun t h => by rwa [hfail t]) n h
  unfold State.start
  dsimp only
  split
  · exact ⟨rfl, rfl⟩
  · split
    · exact ⟨rfl, rfl⟩
    · exact hfrom s.startOptions.startFailed (by rw [hfail]; exact ⟨rfl, rfl⟩)

/-! ### The marks that a start keeps -/

/-- The causes of resets stay, and so do the mark of a late start and the count of failed ones, which may grow. -/
structure StartMarks (s t : State) : Prop where
  rising : Rising t.regs
  cause : ∀ i, s.flag Reg.rstCause i = true → t.flag Reg.rstCause i = true
  timeout : s.flag Reg.rstBoot 27 = true → t.flag Reg.rstBoot 27 = true
  failed : s.fld Reg.rstBoot 1 0 ≤ t.fld Reg.rstBoot 1 0

namespace StartMarks

theorem refl {s : State} (hr : Rising s.regs) : StartMarks s s := ⟨hr, fun _ h => h, fun h => h, Nat.le_refl _⟩

theorem trans {s t u : State} (h : StartMarks s t) (g : StartMarks t u) : StartMarks s u :=
  ⟨g.rising, fun i hi => g.cause i (h.cause i hi), fun hb => g.timeout (h.timeout hb), Nat.le_trans h.failed g.failed⟩

theorem of_regs {s t : State} (hr : Rising s.regs) (h : t.regs = s.regs) : StartMarks s t := by
  refine ⟨h ▸ hr, fun i hi => ?_, fun hb => ?_, ?_⟩
  · rwa [State.flag_congr h]
  · rwa [State.flag_congr h]
  · rw [State.fld, State.fld, State.reg_congr h]

/-- RST_BOOT written with its mark of a late start and its count kept. -/
theorem setBoot {s : State} (hr : Rising s.regs) {w : Word} (hmark : bitOf w 27 = bitOf (s.reg Reg.rstBoot) 27)
    (hcount : bitsOf w 1 0 = bitsOf (s.reg Reg.rstBoot) 1 0) : StartMarks s (s.setReg Reg.rstBoot w) := by
  have hboot := State.reg_setReg_same s Reg.rstBoot w hr
  have hcause := State.reg_setReg_other s Reg.rstBoot Reg.rstCause w (by decide)
  refine ⟨State.setReg_rising _ _ _ hr, fun i hi => ?_, fun hb => ?_, ?_⟩
  · rwa [State.flag, hcause]
  · rw [State.flag, hboot, hmark]
    exact hb
  · rw [State.fld, State.fld, hboot, hcount]

theorem resetEvent {s : State} (hr : Rising s.regs) : StartMarks s s.resetEvent := by
  have hcause := s.reg_resetEvent (o := Reg.rstCause) (by decide)
  have hboot := s.reg_resetEvent (o := Reg.rstBoot) (by decide)
  refine ⟨State.resetEvent_rising hr, fun i hi => ?_, fun hb => ?_, ?_⟩
  · rwa [State.flag, hcause]
  · rwa [State.flag, hboot]
  · rw [State.fld, State.fld, hboot]

theorem setCause {s : State} (hr : Rising s.regs) {i : Nat} (hi : i < 32) : StartMarks s (s.setFlag Reg.rstCause i true) := by
  have hboot := State.reg_setFlag_other s Reg.rstCause i Reg.rstBoot true (by decide)
  refine ⟨State.setFlag_rising _ _ _ _ hr, fun j hj => ?_, fun hb => ?_, ?_⟩
  · by_cases h : j = i
    · rw [h, State.flag_setFlag_same _ _ _ _ hr hi]
    · rwa [State.flag_setFlag_other _ _ hr hi h]
  · rwa [State.flag, hboot]
  · rw [State.fld, State.fld, hboot]

/-- One more failed start is counted. -/
theorem setFailed {s : State} (hr : Rising s.regs) : StartMarks s (s.setFld Reg.rstBoot 1 0 (min 3 (s.fld Reg.rstBoot 1 0 + 1))) := by
  have hcause := State.reg_setFld_other s Reg.rstBoot 1 0 (min 3 (s.fld Reg.rstBoot 1 0 + 1)) Reg.rstCause (by decide)
  have hlt : s.fld Reg.rstBoot 1 0 < 2 ^ 2 := Nat.mod_lt _ (by decide)
  refine ⟨State.setFld_rising _ _ _ _ _ hr, fun i hi => ?_, fun hb => ?_, ?_⟩
  · rwa [State.flag, hcause]
  · rw [State.flag, State.reg_setFld_same _ _ _ _ _ hr, bitOf_setBits_other _ _ _ _ _ (by decide) (by decide)]
    exact hb
  · rw [State.fld_setFld_same _ _ _ _ _ hr (by decide), Nat.mod_eq_of_lt (by omega)]
    omega

theorem setTimeout {s : State} (hr : Rising s.regs) : StartMarks s (s.setFlag Reg.rstBoot 27 true) := by
  have hcause := State.reg_setFlag_other s Reg.rstBoot 27 Reg.rstCause true (by decide)
  refine ⟨State.setFlag_rising _ _ _ _ hr, fun i hi => ?_, fun _ => State.flag_setFlag_same _ _ _ _ hr (by decide), ?_⟩
  · rwa [State.flag, hcause]
  · rw [State.setFlag, State.fld_setFld_apart hr _ (by decide) (by decide)]

theorem failCount {s : State} (hr : Rising s.regs) : StartMarks s s.failCount := by
  have hevent := resetEvent hr
  have hfld : s.resetEvent.fld Reg.rstBoot 1 0 = s.fld Reg.rstBoot 1 0 := by rw [State.fld, State.reg_resetEvent _ (by decide), State.fld]
  have hcount := setFailed hevent.rising
  rw [hfld] at hcount
  have hmarked := (hevent.trans hcount).trans (setTimeout hcount.rising)
  have hcaused := hmarked.trans (setCause hmarked.rising (i := 4) (by decide))
  exact hcaused.trans (resetEvent hcaused.rising)

end StartMarks

theorem State.start_marks (n : Nat) {s : State} (hr : Rising s.regs) : StartMarks s (s.start n) := by
  refine State.start_induction (P := StartMarks s) (fun t h => h.trans ?_) (fun t h => h.trans ?_) (fun t k h => h.trans ?_) (fun t h => h.trans ?_) n (.refl hr)
  · refine (StartMarks.setBoot h.rising ?_ ?_).trans (.of_regs (State.setReg_rising _ _ _ h.rising) rfl)
    · rw [bitOf_setBits_other _ _ _ _ _ (by decide) (by decide), bitOf_setBits_other _ _ _ _ _ (by decide) (by decide)]
    · rw [bitsOf_setBits_other _ _ _ _ _ _ (by decide) (by decide), bitsOf_setBits_other _ _ _ _ _ _ (by decide) (by decide)]
  · refine (StartMarks.setBoot h.rising ?_ ?_).trans (.of_regs (State.setReg_rising _ _ _ h.rising) rfl)
    · rw [bitOf_setBits_other _ _ _ _ _ (by decide) (by decide), bitOf_setBits_other _ _ _ _ _ (by decide) (by decide)]
    · rw [bitsOf_setBits_other _ _ _ _ _ _ (by decide) (by decide), bitsOf_setBits_other _ _ _ _ _ _ (by decide) (by decide)]
  · refine (StartMarks.setBoot h.rising ?_ ?_).trans (.of_regs (State.setReg_rising _ _ _ h.rising) rfl)
    · rw [bitOf_setBits_other _ _ _ _ _ (by decide) (by decide)]
    · rw [bitsOf_setBits_other _ _ _ _ _ _ (by decide) (by decide)]
  · exact (StartMarks.failCount h.rising).trans (.of_regs (StartMarks.failCount h.rising).rising rfl)

end Sys2Proof.Machine

/-!
PROOF. The warm reset (R365, R368, R373): what it keeps and clears, whatever causes it, and whether or not a start follows at once.
-/

namespace Sys2Proof.Machine

/-! ### The register file rewritten word by word -/

/-- The register file with every word rewritten, and without the words that are then reset words. -/
def rewriteRegs (w : Nat → Word → Word) (l : List (Nat × Word)) : List (Nat × Word) :=
  l.filterMap fun e => if w e.1 e.2 = resetWord e.1 then none else some (e.1, w e.1 e.2)

theorem rewriteRegs_cons_reset {w : Nat → Word → Word} {e : Nat × Word} (h : w e.1 e.2 = resetWord e.1) (t : List (Nat × Word)) :
    rewriteRegs w (e :: t) = rewriteRegs w t := List.filterMap_cons_none (if_pos h)

theorem rewriteRegs_cons_kept {w : Nat → Word → Word} {e : Nat × Word} (h : w e.1 e.2 ≠ resetWord e.1) (t : List (Nat × Word)) :
    rewriteRegs w (e :: t) = (e.1, w e.1 e.2) :: rewriteRegs w t := List.filterMap_cons_some (if_neg h)

theorem State.warmRegs_eq (s : State) (perst : Bool) : s.warmRegs perst = rewriteRegs (s.warmWord perst) s.regs := rfl

theorem rewriteRegs_rising (w : Nat → Word → Word) {l : List (Nat × Word)} (h : Rising l) : Rising (rewriteRegs w l) := by
  refine List.Pairwise.filterMap _ (fun e f hlt e' he' f' hf' => ?_) h
  have hkey : ∀ {e e' : Nat × Word}, (if w e.1 e.2 = resetWord e.1 then none else some (e.1, w e.1 e.2)) = some e' → e'.1 = e.1 := by
    intro e e' h
    split at h
    · cases h
    · cases h
      rfl
  rw [hkey he', hkey hf']
  exact hlt

/-- A register whose reset word is rewritten to itself reads as its word rewritten. -/
theorem sparseGet_rewriteRegs (w : Nat → Word → Word) {l : List (Nat × Word)} (h : Rising l) {k : Nat} (hk : w k (resetWord k) = resetWord k) :
    sparseGet (resetWord k) (rewriteRegs w l) k = w k (sparseGet (resetWord k) l k) := by
  induction l with
  | nil => exact hk.symm
  | cons e t ih =>
    obtain ⟨hlt, ht⟩ := List.pairwise_cons.mp h
    have hrest : sparseGet (resetWord k) (rewriteRegs w t) k = w k (sparseGet (resetWord k) t k) := ih ht
    by_cases hek : k = e.1
    · have habsent : sparseGet (resetWord k) t k = resetWord k := by
        rcases sparseGet_mem (resetWord k) t k with hnone | hmem
        · exact hnone
        · exact absurd (hlt _ hmem) (by rw [hek]; exact Nat.lt_irrefl _)
      rw [sparseGet, if_pos hek]
      by_cases hreset : w e.1 e.2 = resetWord e.1
      · rw [habsent, hk] at hrest
        rw [rewriteRegs_cons_reset hreset, hrest, hek, hreset]
      · rw [rewriteRegs_cons_kept hreset, sparseGet, if_pos hek, hek]
    · rw [sparseGet, if_neg hek, ← hrest]
      by_cases hreset : w e.1 e.2 = resetWord e.1
      · rw [rewriteRegs_cons_reset hreset]
      · rw [rewriteRegs_cons_kept hreset, sparseGet, if_neg hek]

/-! ### The registers of a warm reset (R368) -/

/-- A register that a warm reset keeps whole. -/
theorem State.warmWord_kept (s : State) (perst : Bool) {off : Nat} (h : keptWhole off = true) (w : Word) : s.warmWord perst off w = w :=
  if_pos (by simp [h])

/-- A field of a word r, kept from a word w when its access code asks for it (R15). -/
def keepField (locked : Bool) (w r : Word) (f : Fld) : Word :=
  match f.acc with
  | .wo1 => setBits r f.hi f.lo (bitsOf w f.hi f.lo)
  | .rwl => if locked then setBits r f.hi f.lo (bitsOf w f.hi f.lo) else r
  | _ => r

theorem keepField_of_acc {f : Fld} (hwo : f.acc ≠ .wo1) (hrwl : f.acc ≠ .rwl) (locked : Bool) (w r : Word) : keepField locked w r f = r := by
  unfold keepField
  split
  · next h => exact absurd h hwo
  · next h => exact absurd h hrwl
  · rfl

/-- Without a field of a kept access code, what R15 keeps of a register is its reset word. -/
theorem foldl_keepField {fs : List Fld} (h : ∀ f ∈ fs, f.acc ≠ .wo1 ∧ f.acc ≠ .rwl) (locked : Bool) (w r : Word) :
    fs.foldl (keepField locked w) r = r := by
  induction fs generalizing r with
  | nil => rfl
  | cons f fs ih =>
    obtain ⟨hwo, hrwl⟩ := h f List.mem_cons_self
    rw [List.foldl_cons, keepField_of_acc hwo hrwl]
    exact ih (fun g hg => h g (List.mem_cons_of_mem _ hg)) r

/-- The words of the domains' states hold read-only fields and reset to 0. -/
theorem regKindOf_pdState : ∀ w < 8, ((regKindOf (Reg.pdState w)).map fun k =>
    (k.reset, k.fields.all fun f => decide (f.acc ≠ .wo1 ∧ f.acc ≠ .rwl))) = some (0, true) := by decide +kernel

theorem State.keptFields_pdState (s : State) {w : Nat} (hw : w < 8) (x : Word) : s.keptFields (Reg.pdState w) x = 0 := by
  have h := regKindOf_pdState w hw
  unfold State.keptFields
  cases hk : regKindOf (Reg.pdState w) with
  | none => simp [hk] at h
  | some k =>
    simp only [hk, Option.map_some, Option.some.injEq, Prod.mk.injEq, List.all_eq_true, decide_eq_true_eq] at h
    obtain ⟨hreset, hfields⟩ := h
    exact (foldl_keepField hfields _ x k.reset).trans hreset

/-- The states of the domains are none of the registers that a warm reset treats apart. -/
theorem pdState_plain : ∀ w < 8, keptWhole (Reg.pdState w) = false ∧ Reg.pdState w < 0x90000 ∧ Reg.pdState w ≠ Reg.pwCtrl ∧
    Reg.pdState w ≠ Reg.peStatus ∧ Reg.pdState w ≠ Reg.peErr ∧ Reg.pdState w ≠ Reg.cgCtrl 0 ∧ Reg.pdState w ≠ Reg.cgCtrl 1 ∧
    Reg.pdState w ≠ Reg.cgStatus 0 ∧ Reg.pdState w ≠ Reg.cgStatus 1 ∧ Reg.pdState w ≠ Reg.gpioIn := by decide

theorem State.warmWord_pdState (s : State) (perst : Bool) {w : Nat} (hw : w < 8) (x : Word) : s.warmWord perst (Reg.pdState w) x = 0 := by
  obtain ⟨hkept, hlow, hpw, hpe, herr, hc0, hc1, hs0, hs1, hin⟩ := pdState_plain w hw
  have hunit : ¬ ((0x100000 ≤ Reg.pdState w ∧ Reg.pdState w < 0x200000 ∨ 0x200000 ≤ Reg.pdState w ∧ Reg.pdState w < 0x2C0000) ∧
      Reg.pdState w % 0x10000 = 4) := by omega
  have hplain : ¬ (keptWhole (Reg.pdState w) || (Reg.pdState w == Reg.pwCtrl && bitOf x 31)) = true := by simp [hkept, hpw]
  rw [State.warmWord, if_neg hplain, if_neg hunit, if_neg (by simp [hpe, herr]), if_neg (by simp [hc0, hc1]), if_neg (by simp [hs0, hs1]),
    if_neg hin]
  exact s.keptFields_pdState hw x

/-! ### The reset asserted -/

/-- The device as a warm reset leaves it, before its cause is set. -/
def State.warmBare (s : State) (perst : Bool) : State :=
  let s1 : State := { s.cleared with
    regs := s.warmRegs perst
    tb := s.tb.warm
    pcie := { Pcie.reset with perst := s.pcie.perst, aer := if perst then [] else s.pcie.aer }
    fabric := { s.cleared.fabric with resetHeld := true } }
  { s1 with poolInit := (List.range 8).filter fun k => s1.poolEn k }

theorem State.assertWarm_eq (s : State) (cause : WarmCause) :
    s.assertWarm cause = ((s.warmBare (cause == .perst)).setFlag Reg.rstCause (warmBit cause) true).resetEvent := rfl

section Bare

variable {s : State} (hr : Rising s.regs) (perst : Bool)
include hr

theorem State.warmBare_rising : Rising (s.warmBare perst).regs := rewriteRegs_rising _ hr

theorem State.reg_warmBare_kept {off : Nat} (h : keptWhole off = true) : (s.warmBare perst).reg off = s.reg off :=
  (sparseGet_rewriteRegs _ hr (s.warmWord_kept perst h _)).trans (s.warmWord_kept perst h _)

theorem State.reg_warmBare_pdState {w : Nat} (hw : w < 8) : (s.warmBare perst).reg (Reg.pdState w) = 0 := by
  refine (sparseGet_rewriteRegs _ hr ?_).trans (s.warmWord_pdState perst hw _)
  rw [s.warmWord_pdState perst hw, resetWord_pdState w hw]

end Bare

/-- What a warm reset clears and keeps beside the registers. -/
structure WarmFields (s t : State) : Prop where
  sec : t.tb.sec = s.tb.sec
  sub : t.tb.sub = s.tb.sub
  incr : t.tb.incr = s.tb.incr
  host : t.host = s.host
  flash : t.flash = s.flash
  fuses : t.fuses = s.fuses
  pending : t.pending = s.pending
  cmds : t.cmds = []
  rmos : t.rmos = []
  lanterns : t.lanterns = []
  parts : t.parts = []
  rings : t.rings = []
  bufs : t.bufs = []
  streams : t.streams = []
  entries : t.entries = []
  decs : t.decs = []
  quads : t.quads = []
  snaps : t.snaps = []

theorem WarmFields.over {s t u : State} (h : WarmFields s t) (g : StartOver t u) : WarmFields s u := by
  obtain ⟨_, _, _, _, _, _, rfl⟩ := g
  obtain ⟨h1, h2, h3, h4, h5, h6, h7, h8, h9, h10, h11, h12, h13, h14, h15, h16, h17, h18⟩ := h
  exact ⟨h1, h2, h3, h4, h5, h6, h7, h8, h9, h10, h11, h12, h13, h14, h15, h16, h17, h18⟩

theorem State.warmBare_fields (s : State) (perst : Bool) : WarmFields s (s.warmBare perst) :=
  ⟨rfl, rfl, rfl, rfl, rfl, rfl, rfl, rfl, rfl, rfl, rfl, rfl, rfl, rfl, rfl, rfl, rfl, rfl⟩

theorem warmBit_lt (cause : WarmCause) : warmBit cause < 32 := by cases cause <;> decide

/-- Whether the device starts at once or the reset is held on. -/
theorem State.releaseReset_cases (s : State) : s.releaseReset = s ∨ s.releaseReset = s.start 4 := by
  unfold State.releaseReset
  split
  · exact .inl rfl
  · exact .inr rfl

section Release

variable (s : State)

theorem State.releaseReset_over : StartOver s s.releaseReset := by
  rcases s.releaseReset_cases with h | h
  · rw [h]
    exact .refl s
  · rw [h]
    exact s.start_over 4

theorem State.releaseReset_sameRegs : SameRegs s s.releaseReset startRegs := by
  rcases s.releaseReset_cases with h | h
  · rw [h]
    exact fun _ _ => rfl
  · rw [h]
    exact s.start_sameRegs 4

theorem State.releaseReset_marks {s : State} (hr : Rising s.regs) : StartMarks s s.releaseReset := by
  rcases s.releaseReset_cases with h | h
  · rw [h]
    exact .refl hr
  · rw [h]
    exact State.start_marks 4 hr

end Release

/-- The registers that the way from a warm reset's bare device to its end leaves alone. -/
theorem State.reg_warmReset (s : State) (cause : WarmCause) {off : Nat} (h : off ∉ startRegs) :
    (s.warmReset cause).reg off = (s.warmBare (cause == .perst)).reg off := by
  obtain ⟨-, hcause, hdrop⟩ := ne_of_not_mem_startRegs h
  rw [State.warmReset, State.releaseReset_sameRegs _ off h, State.assertWarm_eq, State.reg_resetEvent _ hdrop,
    State.reg_setFlag_other _ _ _ _ _ hcause]

theorem State.warmReset_fields (s : State) (cause : WarmCause) : WarmFields s (s.warmReset cause) := by
  have hasserted : StartOver (s.warmBare (cause == .perst)) (s.assertWarm cause) :=
    .trans (.setFld _ _ _ _ _) (.resetEvent _)
  exact (s.warmBare_fields (cause == .perst)).over (hasserted.trans (s.assertWarm cause).releaseReset_over)

theorem State.reg_warmBare_sameMarks {s : State} (hr : Rising s.regs) (perst : Bool) : StartMarks s (s.warmBare perst) := by
  have hcause := State.reg_warmBare_kept hr perst (off := Reg.rstCause) (by decide)
  have hboot := State.reg_warmBare_kept hr perst (off := Reg.rstBoot) (by decide)
  refine ⟨State.warmBare_rising hr perst, fun i hi => ?_, fun hb => ?_, ?_⟩
  · rwa [State.flag, hcause]
  · rwa [State.flag, hboot]
  · rw [State.fld, State.fld, hboot]

/-- Causes add up, and the marks of starts stay. -/
theorem State.warmReset_marks {s : State} (hr : Rising s.regs) (cause : WarmCause) :
    StartMarks s (s.warmReset cause) ∧ (s.warmReset cause).flag Reg.rstCause (warmBit cause) = true := by
  have hbare := State.reg_warmBare_sameMarks hr (cause == .perst)
  have hset := StartMarks.setCause hbare.rising (warmBit_lt cause)
  have hevent := StartMarks.resetEvent hset.rising
  have hrelease := State.releaseReset_marks hevent.rising
  refine ⟨((hbare.trans hset).trans hevent).trans hrelease, (hevent.trans hrelease).cause _ ?_⟩
  exact State.flag_setFlag_same _ _ _ _ hbare.rising (warmBit_lt cause)

theorem State.domState_warmReset {s : State} (hr : Rising s.regs) (cause : WarmCause) {d : Nat} (hd : d < 120) :
    (s.warmReset cause).domState d = 0 := by
  have hw : d / 16 < 8 := by omega
  have hplain : Reg.pdState (d / 16) ∉ startRegs := by
    simp only [startRegs, List.mem_cons, List.not_mem_nil, or_false, Reg.pdState, Reg.rstBoot, Reg.rstCause, Reg.sootDrop]
    omega
  rw [State.domState, State.fld, s.reg_warmReset cause hplain, State.reg_warmBare_pdState hr _ hw]
  simp [bitsOf]

/-! ### The causes -/

/-- s0 is s as a warm reset finds it: its registers but SOOT_DROP, its timebase, memories of the host and flash, fuses and queue. -/
structure WarmFound (s s0 : State) : Prop where
  rising : Rising s0.regs
  regs : ∀ off, off ≠ Reg.sootDrop → s0.reg off = s.reg off
  tb : s0.tb = s.tb
  host : s0.host = s.host
  flash : s0.flash = s.flash
  fuses : s0.fuses = s.fuses
  pending : s0.pending = s.pending

theorem WarmFound.resetEvent {s s0 : State} (h : WarmFound s s0) : WarmFound s s0.resetEvent := by
  obtain ⟨hr, hregs, htb, hhost, hflash, hfuses, hpending⟩ := h
  refine ⟨State.resetEvent_rising hr, fun off hoff => (s0.reg_resetEvent hoff).trans (hregs off hoff), ?_, ?_, ?_, ?_, ?_⟩ <;>
    rw [s0.resetEvent_eq] <;> assumption

/-- A state in which the thermal trip has been taken at a temperature. -/
def State.tripped (s : State) (tj : Int) : State :=
  { s with
    fabric := { s.fabric with tj := tj }
    outs := { s.outs with thermtrip := true }
    ozmel := { s.ozmel with fanDuty := 100000000 } }

/-- A command that is a warm reset with a cause, in a state that it reaches. -/
def ResetsWith (s : State) (c : Instr) (cause : WarmCause) : Prop :=
  c = .warmReset cause ∨
  (∃ v, c = .rstGlobal v ∧ s.PfReaches Reg.rstGlobal ∧ bitsOf v 31 16 = 0x4B44 ∧ bitOf v 0 = true ∧ cause = .swGlobal) ∨
  (c = .watchdogExpiry ∧ s.ozmel.wdogArmed = true ∧ cause = .wdog) ∨ (c = .perst ∧ cause = .perst) ∨
  (∃ tj, c = .thermalTrip tj ∧ (s.tripTj : Int) ≤ tj ∧ cause = .thermal) ∨
  (c = .safeAutoExit ∧ s.fabric.safe = true ∧ (s.opt 3 1).testBit 1 = true ∧ s.fabric.refclk = true ∧ s.fabric.vddLow = false ∧ cause = .safe)

theorem exec_resetsWith {s : State} {c : Instr} {cause : WarmCause} (hr : Rising s.regs) (h : ResetsWith s c cause) :
    ∃ s0, WarmFound s s0 ∧ exec c s = .next (s0.warmReset cause) := by
  have hself : WarmFound s s := ⟨hr, fun _ _ => rfl, rfl, rfl, rfl, rfl, rfl⟩
  rcases h with rfl | ⟨v, rfl, hreach, hkey, hgo, rfl⟩ | ⟨rfl, harmed, rfl⟩ | ⟨rfl, rfl⟩ | ⟨tj, rfl, htrip, rfl⟩ |
    ⟨rfl, hsafe, hauto, hclock, hvolt, rfl⟩
  · exact ⟨s, hself, rfl⟩
  · refine ⟨s, hself, congrArg Host.Outcome.next ((State.pfReach_of_reaches hreach _).trans ?_)⟩
    rw [State.rstGlobalWrite, if_neg (by simp [hkey]), if_pos hgo]
  · exact ⟨_, hself.resetEvent, congrArg Host.Outcome.next (if_pos harmed)⟩
  · exact ⟨{ s with pcie := { s.pcie with perst := true } }, ⟨hr, fun _ _ => rfl, rfl, rfl, rfl, rfl, rfl⟩, rfl⟩
  · exact ⟨(s.tripped tj).resetEvent, WarmFound.resetEvent ⟨hr, fun _ _ => rfl, rfl, rfl, rfl, rfl, rfl⟩,
      congrArg Host.Outcome.next (if_neg (by omega))⟩
  · exact ⟨s, hself, congrArg Host.Outcome.next (if_pos (by simp [hsafe, hauto, hclock, hvolt]))⟩

/-- Settles O49: every cause leads to one reset, of a state that its cause has not changed where the reset keeps anything. -/
theorem warmResetKeepsAndClears : Obligations.WarmResetKeepsAndClears := by
  unfold Obligations.WarmResetKeepsAndClears
  refine ⟨fun s c cause hcan hc => ?_, fun s v hreach hkey => ?_⟩
  · obtain ⟨s0, hfound, hexec⟩ := exec_resetsWith hcan.rising hc
    obtain ⟨hmarks, hcause⟩ := State.warmReset_marks hfound.rising cause
    have hkept : ∀ off, keptWhole off = true → off ∉ startRegs → (s0.warmReset cause).reg off = s.reg off := fun off hoff hplain => by
      rw [s0.reg_warmReset cause hplain, State.reg_warmBare_kept hfound.rising _ hoff, hfound.regs off (ne_of_not_mem_startRegs hplain).2.2]
    have hf := s0.warmReset_fields cause
    refine ⟨_, hexec, hcause, fun i hi => hmarks.cause i ?_, fun off hoff => ?_, fun w hw => ?_, fun d hd => State.domState_warmReset hfound.rising cause hd,
      hf.sec.trans (congrArg Timebase.sec hfound.tb), hf.sub.trans (congrArg Timebase.sub hfound.tb), hf.incr.trans (congrArg Timebase.incr hfound.tb),
      hf.host.trans hfound.host, hf.flash.trans hfound.flash, hf.fuses.trans hfound.fuses, hf.pending.trans hfound.pending,
      hf.cmds, hf.rmos, hf.lanterns, hf.parts, hf.rings, hf.bufs, hf.streams, hf.entries, hf.decs, hf.quads, hf.snaps⟩
    · rwa [State.flag, hfound.regs Reg.rstCause (by decide)]
    · have hall : ∀ off ∈ [Reg.globalCtrl, Reg.arrayRuntimeMap, Reg.peBar4, Reg.gpioOut], keptWhole off = true ∧ off ∉ startRegs := by decide
      exact hkept off (hall off hoff).1 (hall off hoff).2
    · have hall : ∀ w < 30, keptWhole (Reg.pdEpoch w) = true ∧ Reg.pdEpoch w ∉ startRegs := by decide
      exact hkept _ (hall w hw).1 (hall w hw).2
  · refine congrArg Host.Outcome.next ((State.pfReach_of_reaches hreach _).trans ?_)
    exact if_pos hkey

end Sys2Proof.Machine

/-!
PROOF. Power-on reset, releases, late starts and READY (R365, R372, R378, R384, R385).
-/

namespace Sys2Proof.Machine

/-! ### Power-on reset (R385) -/

/-- The device after a power-on reset, before a start: its input pins are in GPIO_IN, and every other register at its reset word. -/
def State.poweredOn (s : State) : State :=
  let s1 : State := { State.reset with
    pending := s.pending, freeCtr := s.freeCtr, host := s.host, flash := s.flash, fuses := s.fuses
    fabric := { Fabric.reset with vddMv := s.fabric.vddMv, tj := s.fabric.tj, refclk := s.fabric.refclk, vddLow := s.fabric.vddLow,
                                  flashRated := s.fabric.flashRated, resetHeld := true }
    nextId := s.nextId
    pcie := { Pcie.reset with perst := s.pcie.perst }
    ozmel := { Ozmel.reset with bootCount := s.ozmel.bootCount, slotStates := s.ozmel.slotStates, logSeq := s.ozmel.logSeq,
                                log := s.ozmel.log.filter fun e => e.saved }
    outs := { s.outs with thermtrip := false, dramResetN := false }
    dram := { Dram.reset with plan := s.dram.plan }
    periph := { Periph.reset with gpioExt := s.periph.gpioExt } }
  s1.setReg Reg.gpioIn (s.periph.gpioExt &&& 0xFFFF)

theorem exec_powerOnReset (s : State) : exec .powerOnReset s = .next s.poweredOn ∨ exec .powerOnReset s = .next (s.poweredOn.start 4) := by
  have h : exec .powerOnReset s = .next (if s.poweredOn.fabric.vddLow ∨ s.poweredOn.fabric.refclk = false then s.poweredOn else s.poweredOn.start 4) := rfl
  rw [h]
  split
  · exact .inl rfl
  · exact .inr rfl

theorem State.poweredOn_rising (s : State) : Rising s.poweredOn.regs := State.setReg_rising _ _ _ List.Pairwise.nil

theorem State.reg_poweredOn (s : State) {off : Nat} (h : off ≠ Reg.gpioIn) : s.poweredOn.reg off = resetWord off :=
  State.reg_setReg_other _ _ _ _ h

theorem State.fld_poweredOn_gpioIn (s : State) : s.poweredOn.fld Reg.gpioIn 15 0 = bitsOf s.periph.gpioExt 15 0 :=
  (congrArg (fun w => bitsOf w 15 0) (State.reg_setReg_same _ _ _ List.Pairwise.nil)).trans (bitsOf_and_of_covered _ _ (by decide))

/-- What a power-on reset leaves. -/
structure PoweredOn (s t : State) : Prop where
  regs : ∀ off, off ∉ [Reg.rstCause, Reg.rstBoot, Reg.sootDrop, Reg.gpioIn] → t.reg off = resetWord off
  cause : t.flag Reg.rstCause 0 = true
  pins : t.fld Reg.gpioIn 15 0 = bitsOf s.periph.gpioExt 15 0
  tb : t.tb = Timebase.reset
  kept : t.host = s.host ∧ t.flash = s.flash ∧ t.fuses = s.fuses ∧ t.pending = s.pending
  empty : t.mem = [] ∧ t.cmds = [] ∧ t.rmos = [] ∧ t.lanterns = [] ∧ t.parts = [] ∧ t.rings = [] ∧ t.bufs = [] ∧ t.streams = [] ∧
    t.entries = [] ∧ t.decs = [] ∧ t.quads = []
  ready : t.ozmel.ready = false

theorem State.poweredOn_spec (s : State) : PoweredOn s s.poweredOn where
  regs off h := s.reg_poweredOn (by simp_all)
  cause := by
    rw [State.flag, s.reg_poweredOn (by decide)]
    decide
  pins := s.fld_poweredOn_gpioIn
  tb := rfl
  kept := ⟨rfl, rfl, rfl, rfl⟩
  empty := ⟨rfl, rfl, rfl, rfl, rfl, rfl, rfl, rfl, rfl, rfl, rfl⟩
  ready := rfl

/-- A start keeps it. -/
theorem PoweredOn.start {s t : State} (h : PoweredOn s t) (hr : Rising t.regs) (n : Nat) : PoweredOn s (t.start n) := by
  obtain ⟨hregs, hcause, hpins, htb, hkept, hempty, -⟩ := h
  have hsame := t.start_sameRegs n
  obtain ⟨-, hready⟩ := t.start_runs n
  have hmarks := State.start_marks n hr
  refine ⟨fun off hoff => (hsame off ?_).trans (hregs off hoff), hmarks.cause 0 hcause, ?_, ?_, ?_, ?_, hready⟩
  · simp only [startRegs, List.mem_cons, List.not_mem_nil, or_false, not_or] at hoff ⊢
    obtain ⟨h1, h2, h3, -⟩ := hoff
    exact ⟨h2, h1, h3⟩
  · rw [State.fld, hsame Reg.gpioIn (by decide)]
    exact hpins
  all_goals
    obtain ⟨_, _, _, _, _, _, hover⟩ := t.start_over n
    rw [hover]
    assumption

/-! ### Releases (R369, R370, R373) -/

/-- Something holds the reset. -/
def State.heldBy (u : State) : Prop := u.pcie.perst = true ∨ u.outs.thermtrip = true ∨ u.fabric.vddLow = true ∨ u.fabric.refclk = false

theorem State.releaseReset_held {u : State} (h : u.fabric.resetHeld = false ∨ u.heldBy) : u.releaseReset = u := if_pos h

theorem State.releaseReset_free {u : State} (hheld : u.fabric.resetHeld = true) (h : ¬ u.heldBy) : u.releaseReset = u.start 4 :=
  if_neg fun hor => hor.elim (fun hfree => absurd (hfree.symm.trans hheld) (by decide)) h

/-- The end of a cause that holds the reset, and the state that it leads to. -/
def ReleasesTo (s u : State) (c : Instr) : Prop :=
  (c = .perstNRelease ∧ s.pcie.perst = true ∧ u = { s with pcie := { s.pcie with perst := false } }) ∨
  (∃ tj, c = .thermalTripRelease tj ∧ s.outs.thermtrip = true ∧ tj < (s.tripTj : Int) - 20 ∧
    u = { s with fabric := { s.fabric with tj := tj }, outs := { s.outs with thermtrip := false } }) ∨
  (c = .sysRefclkReturn ∧ u = { s with fabric := { s.fabric with refclk := true } }) ∨
  (∃ mv, c = .vddFabUndervoltage mv ∧ 560 ≤ mv ∧ u = { s with fabric := { s.fabric with vddMv := mv, vddLow := false } })

theorem exec_releasesTo {s u : State} {c : Instr} (h : ReleasesTo s u c) : exec c s = .next u.releaseReset := by
  rcases h with ⟨rfl, hperst, rfl⟩ | ⟨tj, rfl, htrip, hlow, rfl⟩ | ⟨rfl, rfl⟩ | ⟨mv, rfl, hmv, rfl⟩
  · exact congrArg Host.Outcome.next (if_pos hperst)
  · exact congrArg Host.Outcome.next (if_pos (by simp [htrip, hlow]))
  · rfl
  · have hlow : ¬ mv < 560 := by omega
    refine congrArg Host.Outcome.next ((if_neg hlow).trans ?_)
    rw [show decide (mv < 560) = false by simp [hlow]]

/-! ### A late start (R378) -/

/-- The device as a late start resets it: one more failed start, and TIMEOUT. -/
def State.lateStart (s : State) : State :=
  let s1 : State := { s with ozmel := { s.ozmel with failedSlot := some (s.fld Reg.rstBoot 9 8), skipFailed := true } }
  (s1.resetEvent.setFld Reg.rstBoot 1 0 (min 3 (s.fld Reg.rstBoot 1 0 + 1))).setFlag Reg.rstBoot 27 true

theorem exec_startTimeout {s : State} (hdisc : s.discState = 0) (hheld : s.fabric.resetHeld = false) (hrun : s.ozmel.running = true) :
    exec .startTimeout s = .next (s.lateStart.warmReset .wdog) :=
  congrArg Host.Outcome.next (if_neg (by simp [hdisc, hheld, hrun]))

theorem State.lateStart_over (s : State) : StartOver s s.lateStart :=
  .trans (.trans (.trans (.withOzmel s _) (.resetEvent _)) (.setFld _ _ _ _ _)) (.setFld _ _ _ _ _)

theorem State.lateStart_marks {s : State} (hr : Rising s.regs) : Rising s.lateStart.regs ∧ s.lateStart.flag Reg.rstBoot 27 = true ∧
    s.lateStart.fld Reg.rstBoot 1 0 = min 3 (s.fld Reg.rstBoot 1 0 + 1) := by
  have hevent : Rising (State.resetEvent { s with ozmel := { s.ozmel with failedSlot := some (s.fld Reg.rstBoot 9 8), skipFailed := true } }).regs :=
    State.resetEvent_rising hr
  have hcount := State.setFld_rising _ Reg.rstBoot 1 0 (min 3 (s.fld Reg.rstBoot 1 0 + 1)) hevent
  refine ⟨State.setFlag_rising _ _ _ _ hcount, State.flag_setFlag_same _ _ _ _ hcount (by decide), ?_⟩
  rw [State.lateStart, State.setFlag, State.fld_setFld_apart hcount _ (by decide) (by decide), State.fld_setFld_same _ _ _ _ _ hevent (by decide),
    Nat.mod_eq_of_lt (by omega)]

/-! ### READY (R372): what the way there keeps -/

/-- Host memory, flash, the reset pin of DRAM, and Ozmel's marks of READY and of its watchdog. -/
def State.bootView (s : State) : List Host.Cell × List Host.Cell × Bool × Bool × Bool :=
  (s.host, s.flash, s.outs.dramResetN, s.ozmel.ready, s.ozmel.wdogArmed)

theorem bootView_eq {s t : State} (hhost : t.host = s.host) (hflash : t.flash = s.flash) (hdram : t.outs.dramResetN = s.outs.dramResetN)
    (hready : t.ozmel.ready = s.ozmel.ready) (hwdog : t.ozmel.wdogArmed = s.ozmel.wdogArmed) : t.bootView = s.bootView := by
  rw [State.bootView, State.bootView, hhost, hflash, hdram, hready, hwdog]

theorem bootView_withLog (s : State) (log : List LogEntry) (seq : Nat) (rep : Tab (Nat × Nat)) :
    ({ s with ozmel := { s.ozmel with log := log, logSeq := seq, logRepeat := rep } } : State).bootView = s.bootView := rfl

theorem bootView_withConsts (s : State) (k : LoopConsts) : ({ s with ozmel := { s.ozmel with consts := k } } : State).bootView = s.bootView := rfl

theorem bootView_withLanterns (s : State) (l : List (Nat × Lantern)) : ({ s with lanterns := l } : State).bootView = s.bootView := rfl

theorem bootView_foldl {α : Type} {f : State → α → State} (hf : ∀ s a, (f s a).bootView = s.bootView) (l : List α) (s : State) :
    (l.foldl f s).bootView = s.bootView := by
  induction l generalizing s with
  | nil => rfl
  | cons a t ih => exact (ih (f s a)).trans (hf s a)

theorem State.bootView_sootEvent (s : State) (code : Nat) (arg : Dword) (part : Option Nat) : (s.sootEvent code arg part).bootView = s.bootView := by
  rw [State.sootEvent_eq]
  rfl

theorem State.bootView_notify (s : State) (f id : Nat) (pl : List Byte) : (s.notify f id pl).bootView = s.bootView := by
  unfold State.notify
  dsimp only
  split <;> rfl

theorem State.bootView_logEntry (s : State) (code sev : Nat) (data : List Byte) (n : Nat) : (s.logEntry code sev data n).bootView = s.bootView := by
  unfold State.logEntry
  dsimp only
  split
  · exact (State.bootView_notify _ _ _ _).trans (bootView_withLog s _ _ _)
  · exact bootView_withLog s _ _ _

theorem State.bootView_troubleLog (s : State) (code sev : Nat) (data : List Byte) : (s.troubleLog code sev data).bootView = s.bootView := by
  unfold State.troubleLog
  split
  · exact s.bootView_logEntry _ _ _ _
  · split
    · exact bootView_eq rfl rfl rfl rfl rfl
    · exact s.bootView_logEntry _ _ _ _

theorem State.bootView_lockViolation (s : State) (src off : Nat) : (s.lockViolation src off).bootView = s.bootView :=
  State.bootView_sootEvent _ _ _ _

theorem State.bootView_ozWrite (s : State) (off : Nat) (fs : List (Nat × Nat × Nat)) : (s.ozWrite off fs).bootView = s.bootView := by
  unfold State.ozWrite
  split
  · rfl
  · dsimp only
    split
    · exact (State.bootView_troubleLog _ _ _ _).trans (State.bootView_lockViolation _ _ _)
    · rfl

theorem State.bootView_optIn (s : State) (off n lo hi dflt : Nat) (quiet : Bool) : (s.optIn off n lo hi dflt quiet).1.bootView = s.bootView := by
  unfold State.optIn
  dsimp only
  split
  · rfl
  · split
    · rfl
    · exact State.bootView_sootEvent _ _ _ _

theorem State.bootView_loadConsts (s : State) : s.loadConsts.bootView = s.bootView := by
  unfold State.loadConsts
  dsimp only
  refine (bootView_withConsts _ _).trans ((State.bootView_optIn _ 128 2 10 1000 100 false).trans ?_)
  simp only [State.bootView_optIn]

theorem State.bootView_refPick (s : State) : s.refPick.bootView = s.bootView := by
  obtain ⟨_, _, _, _, _, _, _, h, -⟩ := s.refPick_elects
  rw [h]
  rfl

theorem State.bootView_refSwitch (s : State) (r : Nat) (w : Option Int) : (s.refSwitch r w).bootView = s.bootView := by
  obtain ⟨_, _, _, _, _, _, _, h, -⟩ := s.refSwitch_elects r w
  rw [h]
  rfl

theorem State.bootView_refFail (s : State) (r : Nat) : (s.refFail r).bootView = s.bootView := by
  obtain ⟨_, _, _, _, _, _, _, h, -⟩ := s.refFail_elects r
  rw [h]
  rfl

theorem State.bootView_refCfgWrite (s : State) (r : Nat) (v : Word) : (s.refCfgWrite r v).bootView = s.bootView := by
  unfold State.refCfgWrite
  split
  · split
    · rfl
    · exact s.bootView_lockViolation _ _
  · dsimp only
    split
    · exact State.bootView_refFail _ _
    · rfl

theorem State.bootView_bootRef (s : State) (r : Nat) : (s.bootRef r).bootView = s.bootView := by
  unfold State.bootRef
  dsimp only
  split
  · exact s.bootView_ozWrite _ _
  · exact s.bootView_refCfgWrite _ _

theorem State.bootView_bootRegs (s : State) : s.bootRegs.bootView = s.bootView := by
  unfold State.bootRegs
  dsimp only
  rw [State.bootView_bootRef, State.bootView_bootRef]
  exact bootView_foldl (fun s _ => s.bootView_ozWrite _ _) _ s

theorem State.bootView_retest (s : State) (da len : Nat) : (s.retest da len).bootView = s.bootView := by
  obtain ⟨_, h⟩ := s.retest_eq da len
  rw [h]
  rfl

theorem State.bootView_cancelBack (s : State) (da len : Nat) : (s.cancelBack da len).bootView = s.bootView := by
  obtain ⟨_, _, h⟩ := s.cancelBack_eq da len
  rw [h]
  rfl

theorem State.bootView_undefRange (s : State) (da len : Nat) : (s.undefRange da len).bootView = s.bootView := by
  unfold State.undefRange
  dsimp only
  rw [State.bootView_retest, State.bootView_cancelBack]
  exact bootView_eq rfl rfl rfl rfl rfl

theorem State.bootView_powerUp (s : State) (d : Nat) : (s.powerUp d).bootView = s.bootView := by
  unfold State.powerUp
  split
  · rfl
  · exact bootView_eq rfl rfl rfl rfl rfl

theorem State.bootView_freeWord (s : State) (off : Nat) : (s.freeWord off).bootView = s.bootView := by
  unfold State.freeWord
  split
  · rfl
  · exact bootView_eq rfl rfl rfl rfl rfl

theorem State.bootView_loadPlan (s : State) : s.loadPlan.bootView = s.bootView := by
  unfold State.loadPlan
  split
  · exact bootView_foldl (f := fun s (e : Nat × Word) => s.setReg e.1 e.2) (fun _ _ => rfl) _ s
  · split
    · exact bootView_foldl (fun s _ => s.bootView_freeWord _) _ s
    · refine Eq.trans (bootView_eq rfl rfl rfl rfl rfl) ((State.bootView_sootEvent _ _ _ _).trans ?_)
      exact bootView_foldl (fun s _ => s.bootView_freeWord _) _ s

theorem State.bootView_dramRefreshStatus (s : State) : s.dramRefreshStatus.bootView = s.bootView := rfl

theorem State.bootView_mcCtrlWrite (s : State) (n : Nat) (v : Word) : (s.mcCtrlWrite n v).bootView = s.bootView := rfl

/-- The steps of Ozmel's start of DRAM before its reset pin rises. -/
def State.dramStarted (s : State) : State :=
  let cfg := [(1, 0, natBits (s.opt 8 1) 1 0), (4, 2, natBits (s.opt 8 1) 4 2), (8, 8, natBits (s.opt 8 1) 5 5), (23, 12, s.opt 10 2 % 4096)]
  (List.range 8).foldl (fun s n => (s.powerUp (mcDom n)).mcCtrlWrite n (s.reg (Reg.mcCtrl n) ||| 1))
    (s.ozWrite Reg.dramCfg cfg).dramRefreshStatus.loadPlan

theorem State.bootView_dramStarted (s : State) : s.dramStarted.bootView = s.bootView := by
  unfold State.dramStarted
  dsimp only
  refine (bootView_foldl (fun s n => ?_) _ _).trans ((State.bootView_loadPlan _).trans ((State.bootView_dramRefreshStatus _).trans (s.bootView_ozWrite _ _)))
  exact (State.bootView_mcCtrlWrite _ _ _).trans (s.bootView_powerUp _)

theorem bootView_dramOut (s : State) : ({ s with outs := { s.outs with dramResetN := true } } : State).bootView =
    (s.host, s.flash, true, s.ozmel.ready, s.ozmel.wdogArmed) := rfl

/-- The view once DRAM is out of reset. -/
def State.bootViewOut (s : State) : List Host.Cell × List Host.Cell × Bool × Bool × Bool := (s.host, s.flash, true, s.ozmel.ready, s.ozmel.wdogArmed)

theorem State.bootViewOut_of_view {s t : State} (h : t.bootView = s.bootView) : t.bootViewOut = s.bootViewOut := by
  simp only [State.bootView, Prod.mk.injEq] at h
  obtain ⟨hhost, hflash, -, hready, hwdog⟩ := h
  simp only [State.bootViewOut, hhost, hflash, hready, hwdog]

/-- DRAM is out of reset once it is configured; the rest of the view stays. -/
theorem State.bootView_bootDram (s : State) : s.bootDram.bootView = s.bootViewOut :=
  (State.bootView_undefRange _ _ _).trans ((bootView_dramOut s.dramStarted).trans (State.bootViewOut_of_view s.bootView_dramStarted))

theorem State.bootView_poolEnable (s : State) (k : Nat) : (s.poolEnable k).bootView = s.bootView := by
  unfold State.poolEnable
  split
  · exact bootView_eq rfl rfl rfl rfl rfl
  · exact State.bootView_sootEvent _ _ _ _

theorem State.bootView_bootPools (s : State) : s.bootPools.bootView = s.bootView := by
  have hregs : ∀ u : State, ((List.range 8).foldl (fun s k =>
      (s.ozWrite (Reg.pwPoolBase k) [(26, 0, s.opt (32 + 8 * k) 4)]).ozWrite (Reg.pwPoolCount k) [(23, 0, s.opt (36 + 8 * k) 4)]) u).bootView = u.bootView :=
    fun u => bootView_foldl (fun s k => (State.bootView_ozWrite _ _ _).trans (s.bootView_ozWrite _ _)) _ u
  unfold State.bootPools
  dsimp only
  split
  · exact (hregs _).trans (s.bootView_ozWrite _ _)
  · refine (bootView_foldl (fun s k => ?_) _ _).trans ((hregs _).trans (s.bootView_ozWrite _ _))
    split
    · rfl
    · exact s.bootView_poolEnable k

theorem bootView_slotMarks (s : State) (f p : Option Nat) :
    ({ s with ozmel := { s.ozmel with failedSlot := f, passedTrial := p } } : State).bootView = s.bootView := rfl

theorem State.bootView_setSlot (s : State) (k : Nat) (v : SlotState) : (s.setSlot k v).bootView = s.bootView := rfl

theorem State.bootView_bootSlots (s : State) : s.bootSlots.bootView = s.bootView := by
  have hreject : ∀ (u : State) (f code sev : Nat) (d : List Byte), ((u.setSlot f .rejected).troubleLog code sev d).bootView = u.bootView :=
    fun u f code sev d => (State.bootView_troubleLog _ _ _ _).trans (u.bootView_setSlot _ _)
  unfold State.bootSlots
  extract_lets k s1 s2
  have h1 : s1.bootView = s.bootView := by
    unfold s1
    split
    · split
      · rfl
      · exact hreject _ _ _ _ _
    · rfl
  have h2 : s2.bootView = s1.bootView := by
    unfold s2
    split
    · split
      · rfl
      · exact hreject _ _ _ _ _
    · rfl
  exact (bootView_slotMarks s2 none none).trans (h2.trans h1)

theorem State.bootView_domUp (s : State) (d : Nat) : (s.domUp d).bootView = s.bootView := by
  unfold State.domUp
  split
  · rfl
  · exact bootView_eq rfl rfl rfl rfl rfl
  · dsimp only
    have hup : (((s.setDom d 1).bumpEpoch d).windowGap d).bootView = s.bootView := bootView_eq rfl rfl rfl rfl rfl
    split
    · exact (bootView_withLanterns _ _).trans hup
    · split
      · exact (State.bootView_undefRange _ _ _).trans hup
      · split
        · exact (State.bootView_undefRange _ _ _).trans hup
        · exact hup

theorem State.bootView_domainPowerUp (s : State) (d : Nat) : (s.domainPowerUp d).bootView = s.bootView := by
  unfold State.domainPowerUp
  split
  · rfl
  · exact s.bootView_domUp d

/-! ### READY: the enable bits -/

/-- The remaining adjustment is discarded as MODE leaves slew. -/
def State.slewLeft (s : State) (old : Word) : State :=
  if bitOf old 1 && !bitOf (s.reg Reg.tbCtrl) 1 && decide (s.tb.slewRem ≠ 0) then
    { s with tb := { s.tb with slewRem := 0, servo := (if s.tb.servo == .freerun || s.tb.servo == .holdover then s.tb.servo else .acquire), good := 0 } }
  else s

theorem State.tbCtrlAfter_eq (s : State) (old : Word) : s.tbCtrlAfter old =
    if !bitOf old 0 && bitOf (s.reg Reg.tbCtrl) 0 then
      (if (s.slewLeft old).refUsable (s.slewLeft old).refPref && decide ((s.slewLeft old).refSel ≠ (s.slewLeft old).refPref) &&
          (s.slewLeft old).tb.servo != .freerun then (s.slewLeft old).refSwitch (s.slewLeft old).refPref none else (s.slewLeft old).refPick)
    else s.slewLeft old := rfl

theorem State.slewLeft_rest (s : State) (old : Word) : (s.slewLeft old).bootView = s.bootView ∧ (s.slewLeft old).regs = s.regs := by
  unfold State.slewLeft
  split
  · exact ⟨rfl, rfl⟩
  · exact ⟨rfl, rfl⟩

theorem State.bootView_tbCtrlAfter (s : State) (old : Word) : (s.tbCtrlAfter old).bootView = s.bootView := by
  obtain ⟨hview, -⟩ := s.slewLeft_rest old
  rw [State.tbCtrlAfter_eq]
  split
  · split
    · exact (State.bootView_refSwitch _ _ _).trans hview
    · exact (State.bootView_refPick _).trans hview
  · exact hview

theorem State.reg_tbCtrlAfter (s : State) (old : Word) {o : Nat} (hstat : o ≠ Reg.tbStatus) (hdrop : o ≠ Reg.sootDrop) :
    (s.tbCtrlAfter old).reg o = s.reg o := by
  obtain ⟨-, hregs⟩ := s.slewLeft_rest old
  have hreg := State.reg_congr hregs o
  rw [State.tbCtrlAfter_eq]
  split
  · split
    · exact ((State.refSwitch_elects _ _ _).reg hstat hdrop).trans hreg
    · exact ((State.refPick_elects _).reg hstat hdrop).trans hreg
  · exact hreg

/-- Flags set one after the other. -/
def State.setFlags (s : State) (l : List (Nat × Nat)) : State := l.foldl (fun s x => s.setFlag x.1 x.2 true) s

theorem State.flag_setFlag_true {s : State} (hr : Rising s.regs) {x : Nat × Nat} (hx : x.2 < 32) {o i : Nat} (h : s.flag o i = true) :
    (s.setFlag x.1 x.2 true).flag o i = true := by
  by_cases ho : o = x.1
  · subst ho
    by_cases hi : i = x.2
    · rw [hi]
      exact State.flag_setFlag_same _ _ _ _ hr hx
    · rw [State.flag_setFlag_other _ _ hr hx hi, h]
  · rw [State.flag, State.reg_setFlag_other _ _ _ _ _ ho]
    exact h

/-- Each of them is set, and what was set stays. -/
theorem State.flag_setFlags {l : List (Nat × Nat)} (hl : ∀ x ∈ l, x.2 < 32) {s : State} (hr : Rising s.regs) :
    Rising (s.setFlags l).regs ∧ (∀ o i, s.flag o i = true → (s.setFlags l).flag o i = true) ∧ ∀ x ∈ l, (s.setFlags l).flag x.1 x.2 = true := by
  induction l generalizing s with
  | nil => exact ⟨hr, fun _ _ h => h, fun x hx => absurd hx (List.not_mem_nil)⟩
  | cons x l ih =>
    have hx := hl x List.mem_cons_self
    obtain ⟨hrise, hkept, hset⟩ := ih (fun y hy => hl y (List.mem_cons_of_mem _ hy)) (State.setFlag_rising s x.1 x.2 true hr)
    refine ⟨hrise, fun o i h => hkept o i (State.flag_setFlag_true hr hx h), fun y hy => ?_⟩
    rcases List.mem_cons.mp hy with rfl | hy
    · exact hkept _ _ (State.flag_setFlag_same _ _ _ _ hr hx)
    · exact hset y hy

/-- The enable bits of the units that Ozmel sets. -/
def unitEnables : List (Nat × Nat) :=
  ((List.range 16).map fun n => (Reg.lnCtrl n, 0)) ++ ((List.range 12).map fun n => (Reg.smCtrl n, 0)) ++
    ((List.range 4).map fun n => (Reg.shCtrl n, 0)) ++ [(Reg.seCtrl, 0), (Reg.seCtrl, 1), (Reg.ingCtrl, 0), (Reg.qmCtrl, 0)]

theorem unitEnables_spec : ∀ x ∈ unitEnables, x.2 < 32 ∧ x.1 ≠ Reg.tbStatus ∧ x.1 ≠ Reg.sootDrop := by decide

theorem State.bootEnables_eq (s : State) :
    s.bootEnables = ((s.setFlags unitEnables).setFlag Reg.tbCtrl 0 true).tbCtrlAfter ((s.setFlags unitEnables).reg Reg.tbCtrl) := rfl

theorem bootView_setFlag (s : State) (o i : Nat) (b : Bool) : (s.setFlag o i b).bootView = s.bootView := rfl

theorem State.bootView_bootEnables (s : State) : s.bootEnables.bootView = s.bootView := by
  rw [State.bootEnables_eq, State.bootView_tbCtrlAfter]
  exact (bootView_setFlag (s.setFlags unitEnables) _ _ _).trans
    (bootView_foldl (f := fun s (x : Nat × Nat) => s.setFlag x.1 x.2 true) (fun s x => bootView_setFlag s _ _ _) unitEnables s)

theorem State.reg_bootEnables (s : State) {o : Nat} (hstat : o ≠ Reg.tbStatus) (hdrop : o ≠ Reg.sootDrop) :
    s.bootEnables.reg o = ((s.setFlags unitEnables).setFlag Reg.tbCtrl 0 true).reg o := by
  rw [State.bootEnables_eq]
  exact State.reg_tbCtrlAfter _ _ hstat hdrop

theorem State.flag_bootEnables_eq (s : State) {o : Nat} (i : Nat) (hstat : o ≠ Reg.tbStatus) (hdrop : o ≠ Reg.sootDrop) :
    s.bootEnables.flag o i = ((s.setFlags unitEnables).setFlag Reg.tbCtrl 0 true).flag o i := by
  rw [State.flag, State.reg_bootEnables s hstat hdrop, State.flag]

theorem State.flag_bootEnables {s : State} (hr : Rising s.regs) :
    s.bootEnables.flag Reg.tbCtrl 0 = true ∧ ∀ x ∈ unitEnables, s.bootEnables.flag x.1 x.2 = true := by
  obtain ⟨hrise, -, hset⟩ := State.flag_setFlags (fun x hx => (unitEnables_spec x hx).1) hr
  refine ⟨(s.flag_bootEnables_eq 0 (by decide) (by decide)).trans (State.flag_setFlag_same _ _ _ _ hrise (by decide)), fun x hx => ?_⟩
  obtain ⟨-, h1, h2⟩ := unitEnables_spec x hx
  rw [s.flag_bootEnables_eq x.2 h1 h2]
  exact State.flag_setFlag_true hrise (x := (Reg.tbCtrl, 0)) (by decide) (hset x hx)

/-! ### READY: the whole way -/

/-- The device with its registers, DRAM and pools set, as READY begins. -/
def State.readied (s : State) : State :=
  let s1 := (s.loadConsts.bootRegs.bootDram.bootPools.setFld Reg.fabRated 15 0 s.fabric.flashRated).setFld Reg.rstBoot 1 0 0
  { s1 with ozmel := { s1.ozmel with ready := true, wdogArmed := true } }

theorem bootView_ready (s : State) : ({ s with ozmel := { s.ozmel with ready := true, wdogArmed := true } } : State).bootView =
    (s.host, s.flash, s.outs.dramResetN, true, true) := rfl

theorem State.bootView_readied (s : State) : s.readied.bootView = (s.host, s.flash, true, true, true) := by
  have hboot : (s.loadConsts.bootRegs.bootDram.bootPools.setFld Reg.fabRated 15 0 s.fabric.flashRated |>.setFld Reg.rstBoot 1 0 0).bootView =
      s.bootViewOut :=
    (State.bootView_bootPools _).trans ((State.bootView_bootDram _).trans
      (State.bootViewOut_of_view ((State.bootView_bootRegs _).trans s.bootView_loadConsts)))
  simp only [State.bootView, State.bootViewOut, Prod.mk.injEq] at hboot
  obtain ⟨hhost, hflash, hdram, -, -⟩ := hboot
  exact (bootView_ready _).trans (by rw [hhost, hflash, hdram])

/-- The device with the domains of the policy up, before its enable bits are set. -/
def State.domainsReady (s : State) : State := (List.range 40).foldl (fun s d => s.domainPowerUp (80 + d)) s.readied.bootSlots

theorem State.bootView_domainsReady (s : State) : s.domainsReady.bootView = (s.host, s.flash, true, true, true) :=
  (bootView_foldl (f := fun s d => s.domainPowerUp (80 + d)) (fun s d => s.bootView_domainPowerUp (80 + d)) _ _).trans
    ((State.bootView_bootSlots _).trans s.bootView_readied)

theorem State.domainsReady_kept (s : State) : Kept s s.domainsReady := by
  have hloaded := State.bootPools_kept (State.bootDram_kept (State.bootRegs_kept (State.loadConsts_kept (Kept.refl s))))
  have hready : Kept s s.readied := .upd (State.setFld_kept _ _ _ _ (State.setFld_kept _ _ _ _ hloaded))
  exact .foldl (State.bootSlots_kept hready) fun _ _ h => State.domainPowerUp_kept _ h

theorem exec_ozmelReady {s : State} (hdisc : s.discState = 0) (hheld : s.fabric.resetHeld = false) (hrun : s.ozmel.running = true) :
    exec .ozmelReady s = .next s.domainsReady.bootEnables := congrArg Host.Outcome.next (if_neg (by simp [hdisc, hheld, hrun]))

/-- Settles O50: a power-on reset, the releases, a late start and READY, each with what a start changes. -/
theorem powerOnAndStarts : Obligations.PowerOnAndStarts := by
  unfold Obligations.PowerOnAndStarts
  refine ⟨fun s _ => ?_, fun s u c hc => ?_, fun s hcan hdisc hheld hrun => ?_, fun s hcan hdisc hheld hrun => ?_⟩
  · obtain ⟨t, hexec, hpower⟩ : ∃ t, exec .powerOnReset s = .next t ∧ PoweredOn s t := by
      rcases exec_powerOnReset s with h | h
      · exact ⟨_, h, s.poweredOn_spec⟩
      · exact ⟨_, h, s.poweredOn_spec.start s.poweredOn_rising 4⟩
    obtain ⟨hregs, hcause, hpins, htb, ⟨hhost, hflash, hfuses, hpending⟩, ⟨hmem, hempty⟩, hready⟩ := hpower
    obtain ⟨hcmds, hrmos, hlanterns, hparts, hrings, hbufs, hstreams, hentries, hdecs, hquads⟩ := hempty
    exact ⟨t, hexec, hregs, hcause, hpins, htb, hmem, hhost, hflash, hfuses, hpending, hcmds, hrmos, hlanterns, hparts, hrings, hbufs, hstreams,
      hentries, hdecs, hquads, hready⟩
  · have hexec := exec_releasesTo hc
    refine ⟨fun h => hexec.trans (congrArg _ (State.releaseReset_held h)), fun hres hfree => ?_⟩
    obtain ⟨hres', hsafe⟩ := State.start_released 3 u
    obtain ⟨hrunning, hready⟩ := u.start_runs 4
    have hsame := u.start_sameRegs 4
    refine ⟨_, hexec.trans (congrArg _ (State.releaseReset_free hres hfree)), hres', hsafe, hrunning, hready, ?_⟩
    obtain ⟨_, _, _, _, _, _, hover⟩ := u.start_over 4
    rw [hover] at hsame ⊢
    exact ⟨rfl, rfl, rfl, rfl, rfl, rfl, hsame⟩
  · obtain ⟨hr, htimeout, hcount⟩ := State.lateStart_marks hcan.rising
    obtain ⟨hmarks, hcause⟩ := State.warmReset_marks hr .wdog
    have hf := s.lateStart.warmReset_fields .wdog
    obtain ⟨_, _, _, _, _, _, hover⟩ := s.lateStart_over
    refine ⟨_, exec_startTimeout hdisc hheld hrun, hcause, hmarks.timeout htimeout, hcount ▸ hmarks.failed, hf.cmds,
      hf.host.trans ?_, hf.flash.trans ?_⟩ <;> rw [hover]
  · have hrise := ((s.domainsReady_kept).canonical hcan).rising
    have henables := State.flag_bootEnables hrise
    obtain ⟨htb, hunits⟩ := henables
    have hln : ∀ n < 16, s.domainsReady.bootEnables.flag (Reg.lnCtrl n) 0 = true := fun n hn =>
      hunits (Reg.lnCtrl n, 0) ((by decide : ∀ n < 16, (Reg.lnCtrl n, 0) ∈ unitEnables) n hn)
    have hsm : ∀ n < 12, s.domainsReady.bootEnables.flag (Reg.smCtrl n) 0 = true := fun n hn =>
      hunits (Reg.smCtrl n, 0) ((by decide : ∀ n < 12, (Reg.smCtrl n, 0) ∈ unitEnables) n hn)
    have hview := (State.bootView_bootEnables _).trans s.bootView_domainsReady
    simp only [State.bootView, Prod.mk.injEq] at hview
    obtain ⟨hhost, hflash, hdram, hready, hwdog⟩ := hview
    exact ⟨_, exec_ozmelReady hdisc hheld hrun, hready, hwdog, hdram, hln, hsm, htb,
      hhost, hflash, (State.bootEnables_kept s.domainsReady_kept).fuses⟩

end Sys2Proof.Machine

/-!
PROOF. Models (R248, R263, R264): a load plans, asks the Shades, places its sections and records its tag; an eviction drops the tags.
-/

namespace Sys2Proof.Machine

/-! ### Sections placed and the tag recorded -/

/-- Sections that were all placed are counted. -/
theorem State.placeSections_count {xs : List Section} {s s1 : State} {k : Nat} (h : s.placeSections xs = (s1, k, .ok)) : k = xs.length := by
  induction xs generalizing s k with
  | nil => cases h; rfl
  | cons x xs ih =>
    unfold State.placeSections at h
    split at h
    · rename_i s2 _
      cases hrest : s2.placeSections xs with
      | mk s3 r =>
        obtain ⟨n, e⟩ := r
        rw [hrest] at h
        cases h
        rw [ih hrest, List.length_cons]
    · rename_i hne _
      cases h
      exact absurd rfl hne

theorem State.noteFault_ok (s : State) (kind p : Nat) : s.noteFault kind p (.ok, none) = s := rfl

/-! ### A load that the Shades let through -/

/-- The load is refused for what lies in the quotas (R263, R264). -/
def State.LoadBlocked (s : State) (p key model : Nat) (members : List Nat) (xs : List Section) (swapped : Bool) : Prop :=
  (swapped = false ∧ s.residentBlocked p key model members = true) ∨ (swapped = true ∧ s.swappedBlocked xs = true)

section
variable {s : State} {p key model image id : Nat} {members : List Nat} {swapped : Bool} {xs : List Section} {st : Status} {bad : Option Nat}

theorem State.not_loadBlocked (hres : swapped = false → s.residentBlocked p key model members = false)
    (hswap : swapped = true → s.swappedBlocked xs = false) : ¬ s.LoadBlocked p key model members xs swapped := by
  rintro (⟨h0, h⟩ | ⟨h0, h⟩)
  · exact absurd (hres h0) (by simp [h])
  · exact absurd (hswap h0) (by simp [h])

theorem State.loadModel_blocked (hplan : s.planImage (s.part p).active members image swapped = (xs, st, bad))
    (hblocked : s.LoadBlocked p key model members xs swapped) : s.loadModel p key id members image model swapped = (s, some (0, .quota)) := by
  unfold State.loadModel
  rw [hplan]
  exact if_pos hblocked

/-- What comes behind the Shades: the planned sections are placed, and a load that planned to its end is recorded. -/
theorem State.loadModel_placed (hplan : s.planImage (s.part p).active members image swapped = (xs, st, bad))
    (hfree : ¬ s.LoadBlocked p key model members xs swapped) (hrate : ∀ path, (s.shade p path).rate = 0) {s1 : State} {k : Nat}
    (hplace : (s.noteFault 0x06 p (st, bad)).placeSections xs = (s1, k, .ok)) :
    s.loadModel p key id members image model swapped =
      if st = .ok then (s1.recordLoad p key swapped (s1.tagOf model members xs), some (k, .ok)) else (s1, some (k, st)) := by
  unfold State.loadModel
  rw [hplan]
  refine (if_neg hfree).trans ?_
  rw [State.shadeAskAll_unregulated hrate]
  simp only [hplace]

end

/-- The tag recorded, with the class seen first. -/
theorem State.recordLoad_eq (s u : State) (p key model : Nat) (members : List Nat) (xs : List Section) (swapped : Bool) :
    s.recordLoad p key swapped (u.tagOf model members xs) = s.updResidency p key fun r =>
      let kept := (r.swapped.filter fun x => x.model != model) ++ [u.tagOf model members xs]
      if swapped then { r with swapped := kept.drop (kept.length - 8) }
      else { r with resident := some (u.tagOf model members xs), loadPending := false } := rfl

/-! ### The commands -/

theorem exec_modelLoad {s : State} {c : Cmd} (h : s.Issued c 0x40) : exec (.modelLoad c.id) s = .next (s.opModelLoad c) :=
  congrArg Host.Outcome.next (State.runOp_issued h State.opModelLoad)

theorem exec_modelEvict {s : State} {c : Cmd} (h : s.Issued c 0x41) : exec (.modelEvict c.id) s = .next (s.opModelEvict c) :=
  congrArg Host.Outcome.next (State.runOp_issued h State.opModelEvict)

/-- How a MODEL_LOAD that is let through and placed ends. -/
theorem State.opModelLoad_loaded {s s1 : State} {c : Cmd} {n : Nat} {st : Status} (hm : gangMembers (s.part c.part).active (c.par 8 1 % 64) ≠ [])
    (hload : s.loadModel c.part (c.par 8 1 % 64) c.id (gangMembers (s.part c.part).active (c.par 8 1 % 64)) (c.par 0 8) (c.par 10 2)
      ((c.par 9 1).testBit 0) = (s1, some (n, st))) :
    State.opModelLoad c s = s1.endCmd c.id st (if st = .ok then BitVec.ofNat 32 n else 0) := by
  unfold State.opModelLoad
  refine (if_neg (by simpa using hm)).trans ?_
  rw [hload]
  cases st <;> rfl

/-- Settles O22: MODEL_LOAD by its members, its quota, and how far its image plans; MODEL_EVICT by the RUNs of the gang. -/
theorem modelsLoadAndEvict : Obligations.ModelsLoadAndEvict := by
  unfold Obligations.ModelsLoadAndEvict
  intro s c
  refine ⟨fun hc => ⟨fun hm => ?_, fun xs bad st hm hplan => ⟨fun hblocked => ?_, ?_, ?_⟩⟩, fun hc => ⟨fun hm => ?_, fun hm hr => ?_, fun hm hr => ?_⟩⟩
  · exact (exec_modelLoad hc).trans (congrArg _ (if_pos (by simpa using hm)))
  · exact (exec_modelLoad hc).trans (congrArg _ (State.opModelLoad_loaded hm (State.loadModel_blocked hplan hblocked)))
  · intro s1 k hres hswap hrate hst hbad hplace
    subst hst hbad
    have hload := State.loadModel_placed (id := c.id) hplan (State.not_loadBlocked hres hswap) hrate hplace
    rw [if_pos rfl] at hload
    exact ⟨State.placeSections_count hplace, (exec_modelLoad hc).trans (congrArg _ (State.opModelLoad_loaded hm hload))⟩
  · intro s1 k hres hswap hrate hst hplace
    have hload := State.loadModel_placed (id := c.id) hplan (State.not_loadBlocked hres hswap) hrate hplace
    rw [if_neg hst] at hload
    refine (exec_modelLoad hc).trans (congrArg _ ((State.opModelLoad_loaded hm hload).trans ?_))
    rw [if_neg hst]
  · exact (exec_modelEvict hc).trans (congrArg _ (if_pos (by simpa using hm)))
  · exact (exec_modelEvict hc).trans (congrArg _ ((if_neg (by simpa using hm)).trans (if_pos (by simpa using hr))))
  · exact (exec_modelEvict hc).trans (congrArg _ ((if_neg (by simpa using hm)).trans (if_neg (by simpa using hr))))

end Sys2Proof.Machine

/-!
PROOF. The PCIe link and the resets of the endpoint and its functions (R309, R312, R322-R326): what ends with a function, and what stays.
-/

namespace Sys2Proof.Machine

/-! ### Mailboxes cleared -/

theorem sparseGet_tabErase_same {α : Type} (d : α) (t : Tab α) (k : Nat) : sparseGet d (tabErase t k) k = d := by
  rcases sparseGet_mem d (tabErase t k) k with h | h
  · exact h
  · exact absurd (List.mem_filter.mp h).2 (by simp)

theorem sparseGet_tabErase_other {α : Type} (d : α) (t : Tab α) {k g : Nat} (h : g ≠ k) : sparseGet d (tabErase t k) g = sparseGet d t g := by
  induction t with
  | nil => rfl
  | cons e t ih =>
    by_cases he : e.1 = k
    · have hg : g ≠ e.1 := he ▸ h
      rw [tabErase, List.filter_cons_of_neg (by simp [he]), ← tabErase, ih, sparseGet, if_neg hg]
    · rw [tabErase, List.filter_cons_of_pos (by simp [he]), ← tabErase, sparseGet, sparseGet, ih]

/-- Only registers and mailboxes differ. -/
def MailOnly (s t : State) : Prop := t = { s with regs := t.regs, ozmel := { s.ozmel with mailboxes := t.ozmel.mailboxes } }

theorem MailOnly.trans {s t u : State} (h : MailOnly s t) (g : MailOnly t u) : MailOnly s u := by
  unfold MailOnly at h g ⊢
  rw [h] at g
  exact g

theorem State.clearMailbox_mailOnly (s : State) (f : Nat) : MailOnly s (s.clearMailbox f) := rfl

theorem State.mailbox_clearMailbox_same (s : State) (f : Nat) : (s.clearMailbox f).mailbox f = ⟨[], [], [], 0⟩ :=
  sparseGet_tabErase_same _ _ _

theorem State.mailbox_clearMailbox_other (s : State) {f g : Nat} (h : g ≠ f) : (s.clearMailbox f).mailbox g = s.mailbox g :=
  sparseGet_tabErase_other _ _ h

/-- An entry of the register file as the clearing of a mailbox leaves it. -/
def mailEntry (f : Nat) (e : Nat × Word) : Option (Nat × Word) :=
  if mbKey f 0 ≤ e.1 ∧ e.1 < mbKey f 0 + 0x1000 then (if e.1 = Reg.mbH2dCtl ∧ bitOf e.2 31 = true then some (e.1, 0x80000000) else none)
  else some e

theorem State.regs_clearMailbox (s : State) (f : Nat) : (s.clearMailbox f).regs = s.regs.filterMap (mailEntry f) := rfl

theorem mailEntry_key {f : Nat} {e e' : Nat × Word} (h : mailEntry f e = some e') : e'.1 = e.1 := by
  unfold mailEntry at h
  split at h
  · split at h
    · cases h; rfl
    · cases h
  · cases h; rfl

theorem State.reg_clearMailbox_outside (s : State) {f o : Nat} (h : o < mbKey f 0 ∨ mbKey f 0 + 0x1000 ≤ o) : (s.clearMailbox f).reg o = s.reg o := by
  rw [State.reg, s.regs_clearMailbox f]
  exact sparseGet_filterMap_kept (fun _ _ h => mailEntry_key h) (fun e he => if_neg (by omega)) s.regs

theorem State.reg_clearMailbox_inside (s : State) {f o : Nat} (hf : f ≠ 0) (h : o < 0x1000) :
    (s.clearMailbox f).reg (mbKey f 0 + o) = resetWord (mbKey f 0 + o) := by
  rw [State.reg, s.regs_clearMailbox f]
  refine sparseGet_filterMap_dropped (fun _ _ h => mailEntry_key h) (fun e he => ?_) s.regs
  have hctl : e.1 ≠ Reg.mbH2dCtl := by
    rw [he, mbKey, if_neg hf, show Reg.mbH2dCtl = 0x907F0 from rfl]
    omega
  rw [mailEntry, if_pos (by omega), if_neg (fun hc => hctl hc.1)]

/-- Mailboxes cleared one after another: a mailbox named is empty, and registers outside them stay. -/
theorem State.clearMailboxes_spec (l : List Nat) (s : State) :
    let t := l.foldl (fun s f => s.clearMailbox f) s
    MailOnly s t ∧ (∀ g ∈ l, t.mailbox g = ⟨[], [], [], 0⟩) ∧ (∀ g, s.mailbox g = ⟨[], [], [], 0⟩ → t.mailbox g = ⟨[], [], [], 0⟩) ∧
      (∀ o, (∀ f ∈ l, o < mbKey f 0 ∨ mbKey f 0 + 0x1000 ≤ o) → t.reg o = s.reg o) := by
  induction l generalizing s with
  | nil => exact ⟨rfl, fun g h => absurd h List.not_mem_nil, fun _ h => h, fun _ _ => rfl⟩
  | cons f l ih =>
    obtain ⟨hframe, hin, hkept, hregs⟩ := ih (s.clearMailbox f)
    have hclear : ∀ g, s.mailbox g = ⟨[], [], [], 0⟩ ∨ g = f → (s.clearMailbox f).mailbox g = ⟨[], [], [], 0⟩ := by
      intro g h
      by_cases hg : g = f
      · exact hg ▸ s.mailbox_clearMailbox_same f
      · exact (s.mailbox_clearMailbox_other hg).trans (h.resolve_right hg)
    refine ⟨(s.clearMailbox_mailOnly f).trans hframe, fun g hg => ?_, fun g hg => hkept g (hclear g (.inl hg)), fun o ho => ?_⟩
    · rcases List.mem_cons.mp hg with rfl | hg
      · exact hkept _ (hclear _ (.inr rfl))
      · exact hin g hg
    · exact (hregs o fun f hf => ho f (List.mem_cons_of_mem _ hf)).trans (s.reg_clearMailbox_outside (ho f List.mem_cons_self))

/-- The mailboxes of the functions lie in the PF's window and above the blocks. -/
theorem outside_mbKey {o : Nat} (hlt : o < 0x10000000) (ho : o < mbKey 0 0 ∨ mbKey 0 0 + 0x1000 ≤ o) (f : Nat) :
    o < mbKey f 0 ∨ mbKey f 0 + 0x1000 ≤ o := by
  unfold mbKey at ho ⊢
  split <;> simp at ho ⊢ <;> omega

theorem State.clearMailboxes_all (s : State) : MailOnly s s.clearMailboxes ∧ (∀ g < 256, s.clearMailboxes.mailbox g = ⟨[], [], [], 0⟩) ∧
    ∀ o < 0x10000000, (o < mbKey 0 0 ∨ mbKey 0 0 + 0x1000 ≤ o) → s.clearMailboxes.reg o = s.reg o := by
  obtain ⟨hframe, hin, -, hregs⟩ := State.clearMailboxes_spec (List.range 256) s
  exact ⟨hframe, fun g hg => hin g (List.mem_range.mpr hg), fun o hlt ho => hregs o fun f _ => outside_mbKey hlt ho f⟩

/-! ### The link trains (R309) -/

theorem exec_pcieLinkUp {speed : Fin 7} {width : Nat} (flit : Bool) (s : State) (h0 : speed.val ≠ 0) (hw : width ∈ [1, 2, 4, 8, 16]) :
    exec (.pcieLinkUp speed width flit) s = .next (s.pcieUp speed.val width flit) :=
  if_neg (by simp only [List.contains_eq_mem, decide_eq_false_iff_not]; exact fun h => h.elim h0 fun h => h hw)

/-- PE_STATUS of a link that has trained. -/
def linkWord (w : Word) (speed width : Nat) (flit : Bool) : Word := setBits (setBits (setBits w 31 30 (2 + boolNat flit)) 23 20 speed) 12 8 width

theorem linkWord_spec (w : Word) {speed width : Nat} (flit : Bool) (hspeed : speed < 7) (hwidth : width ≤ 16) :
    bitOf (linkWord w speed width flit) 31 = true ∧ bitOf (linkWord w speed width flit) 30 = flit ∧
      bitsOf (linkWord w speed width flit) 23 20 = speed ∧ bitsOf (linkWord w speed width flit) 12 8 = width ∧
      bitOf (linkWord w speed width flit) 29 = bitOf w 29 := by
  have hupper : ∀ i, 29 ≤ i → bitOf (linkWord w speed width flit) i = bitOf (setBits w 31 30 (2 + boolNat flit)) i := fun i hi => by
    rw [linkWord, bitOf_setBits_other _ _ _ _ _ (by decide) (by omega), bitOf_setBits_other _ _ _ _ _ (by decide) (by omega)]
  refine ⟨?_, ?_, ?_, ?_, ?_⟩
  · rw [hupper 31 (by decide), bitOf_setBits_within _ _ (by decide) (by decide)]
    cases flit <;> rfl
  · rw [hupper 30 (by decide), bitOf_setBits_within _ _ (by decide) (by decide)]
    cases flit <;> rfl
  · rw [linkWord, bitsOf_setBits_other _ _ _ _ _ _ (by decide) (by decide), bitsOf_setBits_same _ _ _ _ (by decide)]
    exact Nat.mod_eq_of_lt (by omega)
  · rw [linkWord, bitsOf_setBits_same _ _ _ _ (by decide)]
    exact Nat.mod_eq_of_lt (by omega)
  · rw [hupper 29 (by decide), bitOf_setBits_other _ _ _ _ _ (by decide) (by decide)]

theorem State.pcieUp_trained {s : State} (hr : Rising s.regs) (speed width : Nat) (flit : Bool) (hperst : s.pcie.perst = false)
    (hclk : s.fabric.refclk = true) (hdown : s.flag Reg.peStatus 31 = false) :
    (s.pcieUp speed width flit).reg Reg.peStatus = linkWord (s.reg Reg.peStatus) speed width (flit || decide (speed = 6)) ∧
      s.pcieUp speed width flit = { s with regs := (s.pcieUp speed width flit).regs } ∧ SameRegs s (s.pcieUp speed width flit) [Reg.peStatus] := by
  have hup : s.pcieUp speed width flit = ((s.setFld Reg.peStatus 31 30 (2 + boolNat (flit || decide (speed = 6)))).setFld Reg.peStatus 23 20
      speed).setFld Reg.peStatus 12 8 width := if_neg (by simp [hperst, hclk, hdown])
  have h1 := rising_regPut hr Reg.peStatus (setBits (regAt s.regs Reg.peStatus) 31 30 (2 + boolNat (flit || decide (speed = 6))))
  rw [hup]
  refine ⟨?_, rfl, fun o ho => ?_⟩
  · simp only [State.reg_eq_regAt, State.regs_setFld, regAt_regPut_same hr, regAt_regPut_same h1, regAt_regPut_same (rising_regPut h1 _ _), linkWord]
  · have ho : o ≠ Reg.peStatus := by simpa using ho
    exact (State.reg_setFld_other _ _ _ _ _ _ ho).trans ((State.reg_setFld_other _ _ _ _ _ _ ho).trans (State.reg_setFld_other _ _ _ _ _ _ ho))

/-! ### Fetched commands of functions that end (R324) -/

/-- A command that has been aborted before it was issued. -/
def Cmd.aborted (c : Cmd) : Cmd := { c with status := .aborted, detail := 0 }

/-- A command as the end of the functions leaves it, by the commands that end: dropped when it would be recorded in host memory, else marked
ABORTED. -/
def State.abortedIn (s : State) (l : List Cmd) (x : Cmd) : Option Cmd :=
  if ∃ c ∈ l, c.id = x.id ∧ s.cmdLoc c = true then none else if ∃ c ∈ l, c.id = x.id then some x.aborted else some x

/-- The commands and the counters differ alone. -/
def CmdsOnly (s t : State) : Prop := t = { s with cmds := t.cmds, counters := t.counters }

theorem CmdsOnly.trans {s t u : State} (h : CmdsOnly s t) (g : CmdsOnly t u) : CmdsOnly s u := by
  unfold CmdsOnly at h g ⊢
  rw [h] at g
  exact g

/-- The commands and the counters differ alone, and the commands are what the abort of a list leaves. -/
def AbortsFetched (s : State) (l : List Cmd) (t : State) : Prop :=
  CmdsOnly s t ∧ ∀ x, x ∈ t.cmds ↔ ∃ y ∈ s.cmds, s.abortedIn l y = some x

theorem State.abortCmd_fetched (s : State) {c : Cmd} (h : c.phase = .fetched) : s.abortCmd c = s.updCmd c.id Cmd.aborted := by
  unfold State.abortCmd
  rw [h]
  rfl

theorem State.fnAbort_recorded (s : State) {c : Cmd} (h : c.phase = .fetched) (hloc : s.cmdLoc c = true) :
    s.fnAbort c = (s.updCmd c.id Cmd.aborted).dropCmd c.id := by
  unfold State.fnAbort
  rw [s.abortCmd_fetched h]
  exact (if_pos hloc).trans (if_neg fun ha => by simp [h] at ha)

theorem State.fnAbort_unrecorded (s : State) {c : Cmd} (h : c.phase = .fetched) (hloc : s.cmdLoc c = false) :
    s.fnAbort c = s.updCmd c.id Cmd.aborted := by
  unfold State.fnAbort
  rw [s.abortCmd_fetched h]
  exact if_neg (by simp [hloc])

theorem State.fnAbort_fetched (s : State) {c : Cmd} (h : c.phase = .fetched) : AbortsFetched s [c] (s.fnAbort c) := by
  cases hloc : s.cmdLoc c with
  | true =>
    rw [s.fnAbort_recorded h hloc]
    refine ⟨rfl, fun x => ?_⟩
    simp only [State.dropCmd, State.updCmd, List.mem_filter, List.mem_map, State.abortedIn, List.mem_singleton, exists_eq_left, hloc, and_true]
    constructor
    · rintro ⟨⟨y, hy, rfl⟩, hne⟩
      by_cases hid : y.id = c.id
      · simp [hid, Cmd.aborted] at hne
      · exact ⟨y, hy, by simp [hid, Ne.symm hid]⟩
    · rintro ⟨y, hy, hx⟩
      by_cases hid : c.id = y.id
      · simp [hid] at hx
      · simp only [hid, if_false, Option.some.injEq] at hx
        exact hx ▸ ⟨⟨y, hy, by simp [Ne.symm hid]⟩, by simp [Ne.symm hid]⟩
  | false =>
    rw [s.fnAbort_unrecorded h hloc]
    refine ⟨rfl, fun x => ?_⟩
    simp only [State.updCmd, List.mem_map, State.abortedIn, List.mem_singleton, exists_eq_left, hloc, Bool.false_eq_true, and_false, if_false]
    refine exists_congr fun y => and_congr_right fun _ => ?_
    by_cases hid : c.id = y.id
    · simp [hid]
    · simp [hid, Ne.symm hid]

/-- What is aborted first and then the rest is what is aborted in all. -/
theorem State.abortedIn_cons (s : State) (c : Cmd) (l : List Cmd) (y : Cmd) :
    s.abortedIn (c :: l) y = (s.abortedIn [c] y).bind (s.abortedIn l) := by
  by_cases hid : c.id = y.id
  · cases hloc : s.cmdLoc c with
    | true => simp [State.abortedIn, hid, hloc]
    | false => simp [State.abortedIn, hid, hloc, Cmd.aborted]
  · simp [State.abortedIn, hid]

theorem AbortsFetched.cmdLoc {s t : State} {l : List Cmd} (h : AbortsFetched s l t) (c : Cmd) : t.cmdLoc c = s.cmdLoc c := by
  rw [h.1]
  rfl

theorem AbortsFetched.abortedIn {s t : State} {l : List Cmd} (h : AbortsFetched s l t) (k : List Cmd) (c : Cmd) :
    t.abortedIn k c = s.abortedIn k c := by
  simp only [State.abortedIn, h.cmdLoc]

theorem State.fnAborts_fetched (l : List Cmd) (s : State) (h : ∀ c ∈ l, c.phase = .fetched) :
    AbortsFetched s l (l.foldl (fun s c => s.fnAbort c) s) := by
  induction l generalizing s with
  | nil => exact ⟨rfl, fun x => by simp [State.abortedIn]⟩
  | cons c l ih =>
    have hone := s.fnAbort_fetched (h c List.mem_cons_self)
    obtain ⟨hframe, hcmds⟩ := ih (s.fnAbort c) fun x hx => h x (List.mem_cons_of_mem _ hx)
    have hframe1 := hone.1
    have hcmds1 := hone.2
    refine ⟨hframe1.trans hframe, fun x => ?_⟩
    · refine (hcmds x).trans ⟨fun ⟨y, hy, hx⟩ => ?_, fun ⟨y, hy, hx⟩ => ?_⟩
      · obtain ⟨z, hz, hzy⟩ := (hcmds1 y).mp hy
        exact ⟨z, hz, by rw [s.abortedIn_cons, hzy, Option.bind_some, ← hone.abortedIn, hx]⟩
      · rw [s.abortedIn_cons] at hx
        obtain ⟨z, hyz, hzx⟩ := Option.bind_eq_some_iff.mp hx
        exact ⟨z, (hcmds1 z).mpr ⟨y, hy, hyz⟩, by rw [hone.abortedIn, hzx]⟩

/-! ### The functions end (R324) -/

/-- Memory, partitions, streams, host memory and the rest stay. -/
def WorkOver (s t : State) : Prop :=
  t = { s with cmds := t.cmds, counters := t.counters, rings := t.rings, regs := t.regs, pcie := t.pcie, soot := t.soot, freeCtr := t.freeCtr
               ozmel := { s.ozmel with mailboxes := t.ozmel.mailboxes } }

theorem WorkOver.trans {s t u : State} (h : WorkOver s t) (g : WorkOver t u) : WorkOver s u := by
  unfold WorkOver at h g ⊢
  rw [h] at g
  exact g

/-- What an end of functions whose commands have not been issued leaves of the work: the commands, the rings, the reads, and the rest. -/
structure FnsEnded (fns : Nat → Bool) (s t : State) : Prop where
  aborted : ∀ c ∈ s.cmds, c.ofFn fns = true → s.cmdLoc c = false → c.aborted ∈ t.cmds
  left : ∀ c ∈ t.cmds, c.ofFn fns = true → c.status = .aborted ∧ s.cmdLoc c = false
  others : ∀ c, c.ofFn fns = false → (c ∈ t.cmds ↔ c ∈ s.cmds)
  rings : ∀ r, t.ring r = if fns ((s.ringOwner r).elim 0 (·.2)) then (s.ring r).disable else s.ring r
  reads : ∀ x, x ∈ t.pcie.reads ↔ x ∈ s.pcie.reads ∧ fns x.fn = false
  perst : t.pcie.perst = s.pcie.perst
  aer : t.pcie.aer = s.pcie.aer
  frame : WorkOver s t

/-- The endpoint's own state differs alone, the reads, PERST# and the AER log staying. -/
structure EndpointOnly (s t : State) : Prop where
  reads : t.pcie.reads = s.pcie.reads
  perst : t.pcie.perst = s.pcie.perst
  aer : t.pcie.aer = s.pcie.aer
  frame : t = { s with regs := t.regs, pcie := t.pcie, soot := t.soot, freeCtr := t.freeCtr
                       ozmel := { s.ozmel with mailboxes := t.ozmel.mailboxes } }

theorem EndpointOnly.trans {s t u : State} (h : EndpointOnly s t) (g : EndpointOnly t u) : EndpointOnly s u := by
  obtain ⟨hreads, hperst, haer, hframe⟩ := h
  obtain ⟨greads, gperst, gaer, gframe⟩ := g
  refine ⟨greads.trans hreads, gperst.trans hperst, gaer.trans haer, ?_⟩
  rw [hframe] at gframe
  exact gframe

theorem EndpointOnly.workOver {s t : State} (h : EndpointOnly s t) : WorkOver s t := by
  unfold WorkOver
  rw [h.frame]

theorem EndpointOnly.cmds {s t : State} (h : EndpointOnly s t) : t.cmds = s.cmds := by rw [h.frame]
theorem EndpointOnly.rings {s t : State} (h : EndpointOnly s t) : t.rings = s.rings := by rw [h.frame]
theorem EndpointOnly.parts {s t : State} (h : EndpointOnly s t) : t.parts = s.parts := by rw [h.frame]

theorem State.cmdLoc_congr {s t : State} (h : t.rings = s.rings) (c : Cmd) : t.cmdLoc c = s.cmdLoc c := by
  unfold State.cmdLoc
  split
  · rw [State.ring_congr h]
  · rfl

theorem State.ringOwner_congr {s t : State} (h : t.parts = s.parts) (r : Nat) : t.ringOwner r = s.ringOwner r := by
  have hpart : t.part = s.part := funext fun p => congrArg (sparseGet Part.reset · p) h
  rw [State.ringOwner, hpart, State.ringOwner]

theorem EndpointOnly.then_ended {fns : Nat → Bool} {s t u : State} (h : EndpointOnly s t) (g : FnsEnded fns t u) : FnsEnded fns s u := by
  have hloc := State.cmdLoc_congr h.rings
  refine ⟨fun c hc hfn hl => g.aborted c (h.cmds ▸ hc) hfn ((hloc c).trans hl), fun c hc hfn => ?_, fun c hfn => ?_, fun r => ?_, fun x => ?_,
    g.perst.trans h.perst, g.aer.trans h.aer, ?_⟩
  · exact hloc c ▸ g.left c hc hfn
  · exact h.cmds ▸ g.others c hfn
  · rw [g.rings r, State.ringOwner_congr h.parts, State.ring_congr h.rings]
  · exact h.reads ▸ g.reads x
  · exact h.workOver.trans g.frame

theorem FnsEnded.then_endpoint {fns : Nat → Bool} {s t u : State} (h : FnsEnded fns s t) (g : EndpointOnly t u) : FnsEnded fns s u := by
  refine ⟨fun c hc hfn hl => g.cmds ▸ h.aborted c hc hfn hl, fun c hc => h.left c (g.cmds ▸ hc), fun c hfn => g.cmds ▸ h.others c hfn,
    fun r => (State.ring_congr g.rings r).trans (h.rings r), fun x => g.reads ▸ h.reads x, g.perst.trans h.perst, g.aer.trans h.aer, h.frame.trans g.workOver⟩

theorem sparseGet_map_value {α : Type} {d : α} (f : Nat → α → α) (l : List (Nat × α)) {k : Nat} (hd : f k d = d) :
    sparseGet d (l.map fun e => (e.1, f e.1 e.2)) k = f k (sparseGet d l k) := by
  induction l with
  | nil => exact hd.symm
  | cons e l ih =>
    rw [List.map_cons, sparseGet, sparseGet]
    by_cases h : k = e.1
    · rw [if_pos h, if_pos h, h]
    · rw [if_neg h, if_neg h, ih]

/-- A disabled ring reads ENABLE = 0. -/
theorem Ring.disable_bit (r : Ring) : bitOf (listAt 0 r.disable.ctx 6) 23 = false := by
  have hlist : ∀ (l : List Word) (i : Nat), bitOf (listAt 0 (listUpd l i fun w => setBits w 23 23 0) i) 23 = false := by
    intro l
    induction l with
    | nil => exact fun _ => (by decide : bitOf (0 : Word) 23 = false)
    | cons w l ih =>
      intro i
      cases i with
      | zero => exact (bitOf_setBits_within w 0 (by decide) (by decide)).trans rfl
      | succ i => exact ih i
  exact hlist r.ctx 6

theorem Ring.disable_reset : Ring.reset.disable = Ring.reset := by decide

/-- A ring as the end of some functions leaves it. -/
def State.ringAfter (s : State) (fns : Nat → Bool) (r : Nat) (x : Ring) : Ring :=
  if fns ((s.ringOwner r).elim 0 (·.2)) then x.disable else x

/-- The rings and the reads that an end of functions leaves, once its commands have been taken care of. -/
def State.fnsShut (s : State) (fns : Nat → Bool) : State :=
  { s with
    rings := s.rings.map fun e => (e.1, if (match s.ringOwner e.1 with | some (_, f) => fns f | none => fns 0) then e.2.disable else e.2)
    pcie := { s.pcie with reads := s.pcie.reads.filter fun x => !fns x.fn } }

theorem State.endFns_eq (s : State) (fns : Nat → Bool) :
    s.endFns fns = ((s.cmds.filter fun c => c.ofFn fns).foldl (fun s c => s.fnAbort c) s).fnsShut fns := rfl

theorem State.rings_fnsShut (s : State) (fns : Nat → Bool) : (s.fnsShut fns).rings = s.rings.map fun e => (e.1, s.ringAfter fns e.1 e.2) := by
  refine List.map_congr_left fun e _ => ?_
  unfold State.ringAfter
  cases s.ringOwner e.1 with
  | none => rfl
  | some x => rfl

theorem State.ring_fnsShut (s : State) (fns : Nat → Bool) (r : Nat) : (s.fnsShut fns).ring r = s.ringAfter fns r (s.ring r) := by
  have hreset : s.ringAfter fns r Ring.reset = Ring.reset := by
    unfold State.ringAfter
    split
    · exact Ring.disable_reset
    · rfl
  rw [State.ring, State.rings_fnsShut, sparseGet_map_value _ _ hreset, State.ring]

theorem Cmd.ofFn_aborted (c : Cmd) (fns : Nat → Bool) : c.aborted.ofFn fns = c.ofFn fns := rfl

section
variable {s : State} {fns : Nat → Bool}

/-- A command of the table is its own when ids differ: whether it ends, and whether it would be recorded. -/
theorem State.abortedIn_own (hnodup : (s.cmds.map (·.id)).Nodup) {c : Cmd} (hc : c ∈ s.cmds) :
    s.abortedIn (s.cmds.filter fun c => c.ofFn fns) c =
      if c.ofFn fns = true then (if s.cmdLoc c = true then none else some c.aborted) else some c := by
  have hown : ∀ P : Cmd → Prop, (∃ x ∈ s.cmds.filter fun c => c.ofFn fns, x.id = c.id ∧ P x) ↔ c.ofFn fns = true ∧ P c := by
    intro P
    constructor
    · rintro ⟨x, hx, hid, hP⟩
      obtain ⟨hmem, hfn⟩ := List.mem_filter.mp hx
      have heq : x = c := List.inj_on_of_nodup_map hnodup hmem hc hid
      exact heq ▸ ⟨hfn, hP⟩
    · rintro ⟨hfn, hP⟩
      exact ⟨c, List.mem_filter.mpr ⟨hc, hfn⟩, rfl, hP⟩
  have hhit : (∃ x ∈ s.cmds.filter fun c => c.ofFn fns, x.id = c.id) ↔ c.ofFn fns = true := by simpa using hown fun _ => True
  simp only [State.abortedIn, hown, hhit]
  cases c.ofFn fns <;> simp

theorem State.endFns_ended (hfetched : ∀ c ∈ s.cmds, c.ofFn fns = true → c.phase = .fetched) (hnodup : (s.cmds.map (·.id)).Nodup) :
    FnsEnded fns s (s.endFns fns) := by
  obtain ⟨hframe, hcmds⟩ := State.fnAborts_fetched (s.cmds.filter fun c => c.ofFn fns) s fun c hc => by
    obtain ⟨hmem, hfn⟩ := List.mem_filter.mp hc
    exact hfetched c hmem hfn
  rw [State.endFns_eq]
  generalize (s.cmds.filter fun c => c.ofFn fns).foldl (fun s c => s.fnAbort c) s = u at hframe hcmds
  have hrings : u.rings = s.rings := by rw [hframe]
  have hparts : u.parts = s.parts := by rw [hframe]
  have hpcie : u.pcie = s.pcie := by rw [hframe]
  have hmem : ∀ x, x ∈ (u.fnsShut fns).cmds ↔ ∃ y ∈ s.cmds, (if y.ofFn fns = true then (if s.cmdLoc y = true then none else some y.aborted) else
      some y) = some x := fun x => (hcmds x).trans (exists_congr fun y => and_congr_right fun hy => by rw [State.abortedIn_own hnodup hy])
  refine ⟨fun c hc hfn hloc => ?_, fun c hc hfn => ?_, fun c hfn => ?_, fun r => ?_, fun x => ?_, ?_, ?_, ?_⟩
  · exact (hmem _).mpr ⟨c, hc, by simp [hfn, hloc]⟩
  · obtain ⟨y, hy, hyc⟩ := (hmem c).mp hc
    split at hyc
    · split at hyc
      · cases hyc
      · next hloc =>
        cases hyc
        exact ⟨rfl, Bool.eq_false_iff.mpr hloc⟩
    · next hno =>
      cases hyc
      exact absurd hfn hno
  · refine (hmem c).trans ⟨fun ⟨y, hy, hyc⟩ => ?_, fun hc => ⟨c, hc, by simp [hfn]⟩⟩
    split at hyc
    · next hyes =>
      split at hyc
      · cases hyc
      · cases hyc
        exact absurd (hfn.symm.trans hyes) (by decide)
    · cases hyc
      exact hy
  · rw [State.ring_fnsShut, State.ringAfter, State.ringOwner_congr hparts, State.ring_congr hrings]
  · show x ∈ u.pcie.reads.filter _ ↔ _
    rw [hpcie, List.mem_filter]
    simp
  · show u.pcie.perst = s.pcie.perst
    rw [hpcie]
  · show u.pcie.aer = s.pcie.aer
    rw [hpcie]
  · have hshut : WorkOver u (u.fnsShut fns) := rfl
    refine WorkOver.trans ?_ hshut
    unfold WorkOver
    rw [hframe]

end

/-! ### The causes of an end (R324-R326) -/

theorem MailOnly.endpointOnly {s t : State} (h : MailOnly s t) : EndpointOnly s t := by
  have hpcie : t.pcie = s.pcie := by rw [h]
  refine ⟨by rw [hpcie], by rw [hpcie], by rw [hpcie], ?_⟩
  rw [h]

theorem EndpointOnly.setFld (s : State) (o hi lo v : Nat) : EndpointOnly s (s.setFld o hi lo v) := ⟨rfl, rfl, rfl, rfl⟩

theorem EndpointOnly.setFlag (s : State) (o i : Nat) (b : Bool) : EndpointOnly s (s.setFlag o i b) := ⟨rfl, rfl, rfl, rfl⟩

/-- The endpoint's record rewritten. -/
def State.mapPcie (s : State) (f : Pcie → Pcie) : State := { s with pcie := f s.pcie }

theorem EndpointOnly.mapPcie (s : State) (f : Pcie → Pcie) (hreads : ∀ p, (f p).reads = p.reads) (hperst : ∀ p, (f p).perst = p.perst)
    (haer : ∀ p, (f p).aer = p.aer) : EndpointOnly s (s.mapPcie f) := ⟨hreads _, hperst _, haer _, rfl⟩

theorem EndpointOnly.setFunc (s : State) (f : Nat) (x : Func) : EndpointOnly s (s.setFunc f x) := ⟨rfl, rfl, rfl, rfl⟩

theorem EndpointOnly.linkDown (s : State) : EndpointOnly s s.linkDown :=
  ((EndpointOnly.setFld s _ _ _ _).trans (.setFld _ _ _ _ _)).trans (.setFld _ _ _ _ _)

theorem EndpointOnly.drawFree (s : State) : EndpointOnly s s.drawFree.2 := ⟨rfl, rfl, rfl, rfl⟩

theorem EndpointOnly.sootEvent (s : State) (code : Nat) (arg : Dword) (part : Option Nat) : EndpointOnly s (s.sootEvent code arg part) := by
  have h := State.sootEvent_eq s code arg part
  have hpcie : (s.sootEvent code arg part).pcie = s.pcie := by rw [h]
  refine ⟨by rw [hpcie], by rw [hpcie], by rw [hpcie], ?_⟩
  rw [h]

/-- The endpoint after a hot reset, its mailboxes cleared (R324). -/
def Pcie.hot (p : Pcie) : Pcie := { p with funcs := [], vfEnable := false, vfMse := false, numVf := 0, bar4Gib := 1, d3 := false }

theorem State.hotColumn_eq (s : State) : s.hotColumn =
    ((s.endFns fun _ => true).clearMailboxes.mapPcie Pcie.hot).setFld Reg.peStatus 7 0 0 := rfl

theorem EndpointOnly.hot (s : State) : EndpointOnly s (s.mapPcie Pcie.hot) := .mapPcie _ _ (fun _ => rfl) (fun _ => rfl) fun _ => rfl

theorem State.hotColumn_endpoint (s : State) : EndpointOnly (s.endFns fun _ => true) s.hotColumn := by
  rw [State.hotColumn_eq]
  exact ((s.endFns fun _ => true).clearMailboxes_all.1.endpointOnly.trans (.hot _)).trans (.setFld _ _ _ _ _)

theorem State.hotColumn_ended {s : State} (hfetched : ∀ c ∈ s.cmds, c.ofFn (fun _ => true) = true → c.phase = .fetched)
    (hnodup : (s.cmds.map (·.id)).Nodup) : FnsEnded (fun _ => true) s s.hotColumn :=
  (State.endFns_ended hfetched hnodup).then_endpoint s.hotColumn_endpoint

theorem exec_hotReset {s : State} (h : s.flag Reg.peStatus 31 = true) :
    exec .hotReset s = .next (s.linkDown.hotColumn.setFlag Reg.rstCause 2 true) := congrArg Host.Outcome.next (if_pos h)

/-- The loss of the link as it is noted, before the reads' commands end (R326). -/
def State.linkNoted (s : State) : State :=
  (s.linkDown.setFlag Reg.peStatus 29 true).drawFree.2.sootEvent 0x5061 (s.linkDown.setFlag Reg.peStatus 29 true).drawFree.1 none

/-- The commands of the outstanding reads end with TIMEOUT (R326). -/
def State.readsTimedOut (s : State) : State := ((s.pcie.reads.map (·.cmd)).eraseDups).foldl (fun s id => s.endCmd id .timeout 0) s

theorem exec_pcieLinkLost {s : State} (h : s.flag Reg.peStatus 31 = true) :
    exec .pcieLinkLost s = .next (s.linkNoted.readsTimedOut.hotColumn.setFlag Reg.rstCause 2 true) :=
  congrArg Host.Outcome.next (if_neg (by simp [h]))

theorem EndpointOnly.linkNoted (s : State) : EndpointOnly s s.linkNoted :=
  (((EndpointOnly.linkDown s).trans (.setFlag _ _ _ _)).trans (.drawFree _)).trans (.sootEvent _ _ _ _)

theorem State.readsTimedOut_nil {s : State} (h : s.pcie.reads = []) : s.readsTimedOut = s := by
  unfold State.readsTimedOut
  rw [h]
  rfl

/-- FLR of the PF as the endpoint is left. -/
def Pcie.pfFlr (p : Pcie) : Pcie :=
  { p with funcs := [(0, { Func.reset with flr := true })], vfEnable := false, vfMse := false, numVf := 0, d3 := false }

theorem exec_flr_pf {s : State} (h : s.fnExists 0 = true) (hflr : (s.func 0).flr = false) : exec (.flr 0) s =
    .next (((s.endFns fun _ => true).mapPcie Pcie.pfFlr).setFld Reg.peStatus 7 0 0) :=
  congrArg Host.Outcome.next ((if_neg (by simp [h, hflr])).trans (if_pos rfl))

theorem State.pfFlr_spec (u : State) : ((u.mapPcie Pcie.pfFlr).setFld Reg.peStatus 7 0 0).func (0 : FnIx).val = { Func.reset with flr := true } ∧
    ((u.mapPcie Pcie.pfFlr).setFld Reg.peStatus 7 0 0).pcie.vfEnable = false ∧ ((u.mapPcie Pcie.pfFlr).setFld Reg.peStatus 7 0 0).pcie.numVf = 0 ∧
    ((u.mapPcie Pcie.pfFlr).setFld Reg.peStatus 7 0 0).pcie.d3 = false := ⟨rfl, rfl, rfl, rfl⟩

/-- The record of a VF in an FLR. -/
def State.vfFlr (s : State) (f : Nat) : Func := { Func.reset with flr := true, pba := (s.func f).pba, table := (s.func f).table }

theorem exec_flr_vf {s : State} {f : FnIx} (h0 : f ≠ 0) (h : s.fnExists f = true) (hflr : (s.func f).flr = false) :
    exec (.flr f) s = .next ((s.endFns fun g => g == f.val).setFunc f (s.vfFlr f)) :=
  congrArg Host.Outcome.next ((if_neg (by simp [h, hflr])).trans (if_neg fun h => h0 (Fin.ext h)))

/-- The endpoint with VF Enable cleared. -/
def Pcie.vfsOff (p : Pcie) (mse : Bool) (num : Nat) : Pcie :=
  { p with vfEnable := false, vfMse := mse, numVf := num, funcs := p.funcs.filter fun e => e.1 == 0 }

/-- The mailboxes of the VFs cleared. -/
def State.clearVfMailboxes (s : State) : State := ((List.range 255).map (· + 1)).foldl (fun s f => s.clearMailbox f) s

theorem exec_vfDisable {s : State} {mse : Bool} {num : Nat} (h : s.fnExists 0 = true) (hflr : (s.func 0).flr = false) (hnum : num ≤ 255)
    (hon : s.pcie.vfEnable = true) : exec (.vfEnable false mse num) s =
      .next (((s.endFns fun f => f != 0).clearVfMailboxes.mapPcie (·.vfsOff mse num)).setFld Reg.peStatus 7 0 0) :=
  congrArg Host.Outcome.next ((if_neg (by simp [h, hflr, hnum])).trans ((if_neg (by decide)).trans (if_pos hon)))

/-- A reset ends the functions that it concerns. -/
theorem exec_ends {s : State} {i : Instr} {fns : Nat → Bool}
    (hi : ((i = .hotReset ∨ i = .pcieLinkLost ∧ s.pcie.reads = [] ∨ i = .flr 0 ∧ (s.func 0).flr = false) ∧ s.flag Reg.peStatus 31 = true ∧
        fns = fun _ => true) ∨
      (∃ f : FnIx, f ≠ 0 ∧ i = .flr f ∧ s.fnExists f = true ∧ (s.func f).flr = false ∧ fns = fun g => g == f.val) ∨
      (∃ mse num, i = .vfEnable false mse num ∧ s.fnExists 0 = true ∧ (s.func 0).flr = false ∧ num ≤ 255 ∧ s.pcie.vfEnable = true ∧
        fns = fun g => g != 0))
    (hfetched : ∀ c ∈ s.cmds, c.ofFn fns = true → c.phase = .fetched) (hnodup : (s.cmds.map (·.id)).Nodup) :
    ∃ t, exec i s = .next t ∧ FnsEnded fns s t := by
  rcases hi with ⟨hcause, hup, rfl⟩ | ⟨f, h0, rfl, hex, hflr, rfl⟩ | ⟨mse, num, rfl, hex, hflr, hnum, hon, rfl⟩
  · rcases hcause with rfl | ⟨rfl, hreads⟩ | ⟨rfl, hflr⟩
    · have hdown := EndpointOnly.linkDown s
      exact ⟨_, exec_hotReset hup, hdown.then_ended ((State.hotColumn_ended (s := s.linkDown) hfetched hnodup).then_endpoint (.setFlag _ _ _ _))⟩
    · have hnoted := EndpointOnly.linkNoted s
      have hlost := State.readsTimedOut_nil (hnoted.reads.trans hreads)
      refine ⟨_, exec_pcieLinkLost hup, hnoted.then_ended (FnsEnded.then_endpoint ?_ (.setFlag _ _ _ _))⟩
      rw [hlost]
      exact State.hotColumn_ended (hnoted.cmds.symm ▸ hfetched) (hnoted.cmds.symm ▸ hnodup)
    · have hex : s.fnExists 0 = true := by simp [State.fnExists, hup]
      have hpf := EndpointOnly.mapPcie (s.endFns fun _ => true) Pcie.pfFlr (fun _ => rfl) (fun _ => rfl) fun _ => rfl
      exact ⟨_, exec_flr_pf hex hflr, (State.endFns_ended hfetched hnodup).then_endpoint (hpf.trans (.setFld _ _ _ _ _))⟩
  · exact ⟨_, exec_flr_vf h0 hex hflr, (State.endFns_ended hfetched hnodup).then_endpoint (.setFunc _ _ _)⟩
  · have hmail : EndpointOnly (s.endFns fun g => g != 0) (s.endFns fun g => g != 0).clearVfMailboxes :=
      (State.clearMailboxes_spec _ _).1.endpointOnly
    have hoff := EndpointOnly.mapPcie (s.endFns fun g => g != 0).clearVfMailboxes (·.vfsOff mse num) (fun _ => rfl) (fun _ => rfl) fun _ => rfl
    exact ⟨_, exec_vfDisable hex hflr hnum hon, (State.endFns_ended hfetched hnodup).then_endpoint
      ((hmail.trans hoff).trans (.setFld _ _ _ _ _))⟩

/-! ### What the end of commands leaves of the endpoint (R324, R326) -/

/-- The tables of the streams, their units and the commands differ alone. -/
def StreamsOnly (s t : State) : Prop :=
  t = { s with cmds := t.cmds, smelters := t.smelters, quads := t.quads, streams := t.streams, entries := t.entries, decs := t.decs, snaps := t.snaps }

/-- A relation of states that what ends a stream keeps. -/
structure StreamRel (R : State → State → Prop) : Prop where
  refl : ∀ s, R s s
  trans : ∀ {s t u}, R s t → R t u → R s u
  unitFree : ∀ s p h, R s (s.unitFree p h)
  arbEnd : ∀ s u k, R s (s.arbEnd u k)
  only : ∀ {s t}, StreamsOnly s t → R s t

namespace StreamRel

variable {R : State → State → Prop} (hR : StreamRel R)

include hR

theorem foldl {α : Type} {f : State → α → State} (hf : ∀ s a, R s (f s a)) (l : List α) (s : State) : R s (l.foldl f s) := by
  induction l generalizing s with
  | nil => exact hR.refl s
  | cons a l ih => exact hR.trans (hf s a) (ih (f s a))

/-- The buffers and the picture of a stream's context are given up. -/
theorem streamDec (s : State) (p ctx : Nat) (d : DecCtx) : R s (
    let t1 := d.queue.foldl (fun s a => s.unitFree p a.handle) s
    let t2 := ((d.frames.map (·.segs)).flatten).foldl (fun s h => s.unitFree p h) t1
    let t3 := d.queue.foldl (fun s a => match a.cmd with | some id => s.endCmd id .aborted 0 | none => s) t2
    match (t3.smelter d.home).pic with
    | some (c, _) => if c = ctx then (t3.arbEnd (16 + d.home) 0).setSmelter d.home { t3.smelter d.home with pic := none } else t3
    | none => t3) := by
  extract_lets t1 t2 t3
  have h1 : R s t1 := hR.foldl (fun s (a : Au) => hR.unitFree s p a.handle) _ s
  have h2 : R t1 t2 := hR.foldl (fun s (h : Nat) => hR.unitFree s p h) _ t1
  have h3 : R t2 t3 := by
    refine hR.foldl (fun s (a : Au) => ?_) _ t2
    split
    · exact hR.only rfl
    · exact hR.refl s
  refine hR.trans (hR.trans h1 (hR.trans h2 h3)) ?_
  split
  · split
    · exact hR.trans (hR.arbEnd t3 _ _) (hR.only rfl)
    · exact hR.refl t3
  · exact hR.refl t3

theorem removeStream (s : State) (p ix : Nat) : R s (s.removeStream p ix) := by
  unfold State.removeStream
  split
  · exact hR.refl s
  next st _ =>
    extract_lets s1 s2 s3
    have h1 : R s s1 := by
      unfold s1
      split
      · exact hR.refl s
      split
      · exact hR.refl s
      · exact hR.foldl (fun s (k : Packet) => hR.unitFree s p k.handle) _ s
    have h2 : R s1 s2 := by
      unfold s2
      split
      · exact hR.refl s1
      · exact hR.streamDec s1 p st.ctx _
    have h3 : R s2 s3 := hR.only rfl
    exact hR.trans (hR.trans h1 (hR.trans h2 h3)) (hR.only rfl)

end StreamRel

/-- Host memory, the queue, the endpoint's record and every register but PW_ERR and SOOT_DROP stay. -/
structure HoldsEndpoint (s t : State) : Prop where
  host : t.host = s.host
  pending : t.pending = s.pending
  pcie : t.pcie = s.pcie
  regs : SameRegs s t [Reg.pwErr, Reg.sootDrop]

namespace HoldsEndpoint

/-- The parts of the device that are held. -/
def view (s : State) : List Host.Cell × List Instr × Pcie × List (Nat × Word) := (s.host, s.pending, s.pcie, s.regs)

theorem of_eq {s t : State} (h : view t = view s) : HoldsEndpoint s t := by
  simp only [view, Prod.mk.injEq] at h
  obtain ⟨hhost, hpending, hpcie, hregs⟩ := h
  exact ⟨hhost, hpending, hpcie, fun o _ => State.reg_congr hregs o⟩

theorem refl (s : State) : HoldsEndpoint s s := .of_eq rfl

theorem trans {s t u : State} (h : HoldsEndpoint s t) (g : HoldsEndpoint t u) : HoldsEndpoint s u :=
  ⟨g.host.trans h.host, g.pending.trans h.pending, g.pcie.trans h.pcie, fun o ho => (g.regs o ho).trans (h.regs o ho)⟩

theorem foldl {α : Type} {f : State → α → State} (hf : ∀ s a, HoldsEndpoint s (f s a)) (l : List α) (s : State) : HoldsEndpoint s (l.foldl f s) := by
  induction l generalizing s with
  | nil => exact .refl s
  | cons a l ih => exact (hf s a).trans (ih (f s a))

theorem ite {s x y : State} {c : Prop} [Decidable c] (h : HoldsEndpoint s x) (g : HoldsEndpoint s y) : HoldsEndpoint s (if c then x else y) := by
  split
  · exact h
  · exact g

theorem endCmd (s : State) (id : Nat) (st : Status) (d : Word) : HoldsEndpoint s (s.endCmd id st d) := .of_eq rfl

theorem dropCmd (s : State) (id : Nat) : HoldsEndpoint s (s.dropCmd id) := .of_eq rfl

theorem unitFree (s : State) (p h : Nat) : HoldsEndpoint s (s.unitFree p h) := by
  obtain ⟨ht, hregs⟩ := s.unitFree_bufsGivenUp p h
  exact ⟨by rw [ht], by rw [ht], by rw [ht], hregs⟩

theorem stopCtx (s : State) (n q : Nat) : HoldsEndpoint s (s.stopCtx n q) := by
  refine .of_eq ?_
  unfold State.stopCtx
  dsimp only
  split <;> rfl

theorem dropFed (s : State) (id : Nat) : HoldsEndpoint s (s.dropFed id) := by
  unfold State.dropFed
  split
  · exact .refl s
  split
  · exact .refl s
  refine .ite (.of_eq rfl) ?_
  split
  · exact .refl s
  · exact (unitFree _ _ _).trans (.of_eq rfl)

theorem abortCmd (s : State) (c : Cmd) : HoldsEndpoint s (s.abortCmd c) := by
  unfold State.abortCmd
  split
  · exact .refl s
  · exact .of_eq rfl
  · refine .ite (.of_eq rfl) (.ite (.refl s) ?_)
    extract_lets s1 s2 s3 s4
    have h1 : HoldsEndpoint s s1 := .foldl (fun s (x : Nat × Nat) => stopCtx s x.1 x.2) _ s
    have h2 : HoldsEndpoint s1 s2 := .of_eq rfl
    have h3 : HoldsEndpoint s2 s3 := (dropFed s2 c.id).trans (.of_eq rfl)
    exact ((h1.trans h2).trans h3).trans (.of_eq rfl)

theorem arbEnd (s : State) (u steps : Nat) : HoldsEndpoint s (s.arbEnd u steps) := by
  unfold State.arbEnd
  split
  · exact .refl s
  · exact .of_eq rfl

theorem streamRel : StreamRel HoldsEndpoint where
  refl := refl
  trans := trans
  unitFree := unitFree
  arbEnd := arbEnd
  only h := .of_eq (by rw [h]; rfl)

theorem fnAbort (s : State) (c : Cmd) : HoldsEndpoint s (s.fnAbort c) := by
  unfold State.fnAbort
  have h := abortCmd s c
  exact .ite (.ite ((h.trans (streamRel.removeStream _ _ _)).trans (dropCmd _ _)) (h.trans (dropCmd _ _))) h

end HoldsEndpoint

/-- An end of functions leaves the endpoint's record but for the reads. -/
theorem State.endFns_endpoint (s : State) (fns : Nat → Bool) : (s.endFns fns).host = s.host ∧ (s.endFns fns).pending = s.pending ∧
    (s.endFns fns).pcie = { s.pcie with reads := s.pcie.reads.filter fun x => !fns x.fn } ∧ SameRegs s (s.endFns fns) [Reg.pwErr, Reg.sootDrop] := by
  have h := HoldsEndpoint.foldl (fun s (c : Cmd) => HoldsEndpoint.fnAbort s c) (s.cmds.filter fun c => c.ofFn fns) s
  rw [State.endFns_eq]
  generalize (s.cmds.filter fun c => c.ofFn fns).foldl (fun s c => s.fnAbort c) s = u at h
  have hpcie : (u.fnsShut fns).pcie = { u.pcie with reads := u.pcie.reads.filter fun x => !fns x.fn } := rfl
  exact ⟨h.host, h.pending, hpcie.trans (by rw [h.pcie]), h.regs⟩

/-- What the hot reset column leaves of the endpoint. -/
structure HotDone (s t : State) : Prop where
  status : t.reg Reg.peStatus = setBits (s.reg Reg.peStatus) 7 0 0
  bar4 : t.reg Reg.peBar4 = s.reg Reg.peBar4
  pcie : t.pcie = { s.pcie.hot with reads := [] }
  mail : ∀ f < 256, t.mailbox f = ⟨[], [], [], 0⟩
  host : t.host = s.host
  pending : t.pending = s.pending

/-- The end of the hot reset column, from the cleared mailboxes. -/
theorem State.hotEnd_spec {u : State} (hr : Rising u.regs) :
    ((u.mapPcie Pcie.hot).setFld Reg.peStatus 7 0 0).reg Reg.peStatus = setBits (u.reg Reg.peStatus) 7 0 0 ∧
      ((u.mapPcie Pcie.hot).setFld Reg.peStatus 7 0 0).reg Reg.peBar4 = u.reg Reg.peBar4 ∧
      ((u.mapPcie Pcie.hot).setFld Reg.peStatus 7 0 0).pcie = u.pcie.hot ∧
      (∀ f, ((u.mapPcie Pcie.hot).setFld Reg.peStatus 7 0 0).mailbox f = u.mailbox f) ∧
      ((u.mapPcie Pcie.hot).setFld Reg.peStatus 7 0 0).host = u.host ∧ ((u.mapPcie Pcie.hot).setFld Reg.peStatus 7 0 0).pending = u.pending :=
  ⟨State.reg_setFld_same _ _ _ _ _ hr, State.reg_setFld_other _ _ _ _ _ _ (by decide), rfl, fun _ => rfl, rfl, rfl⟩

theorem MailOnly.host {s t : State} (h : MailOnly s t) : t.host = s.host := by rw [h]
theorem MailOnly.pending {s t : State} (h : MailOnly s t) : t.pending = s.pending := by rw [h]
theorem MailOnly.pcie {s t : State} (h : MailOnly s t) : t.pcie = s.pcie := by rw [h]

theorem State.hotColumn_done {s : State} (hc : s.Canonical) : HotDone s s.hotColumn := by
  obtain ⟨hhost, hpending, hpcie, hregs⟩ := s.endFns_endpoint fun _ => true
  obtain ⟨hmail, hempty, hkept⟩ := (s.endFns fun _ => true).clearMailboxes_all
  have hrise := ((State.clearMailboxes_kept (State.endFns_kept (fun _ => true) (Kept.refl s))).canonical hc).rising
  have hstatus : (s.endFns fun _ => true).clearMailboxes.reg Reg.peStatus = s.reg Reg.peStatus :=
    (hkept _ (by decide) (by decide)).trans (hregs _ (by decide))
  have hbar4 : (s.endFns fun _ => true).clearMailboxes.reg Reg.peBar4 = s.reg Reg.peBar4 :=
    (hkept _ (by decide) (by decide)).trans (hregs _ (by decide))
  have hreads : (s.endFns fun _ => true).clearMailboxes.pcie = { s.pcie with reads := [] } := by
    rw [hmail.pcie, hpcie]
    simp
  obtain ⟨estatus, ebar4, epcie, email, ehost, epending⟩ := State.hotEnd_spec hrise
  rw [State.hotColumn_eq]
  refine ⟨estatus.trans (by rw [hstatus]), ebar4.trans hbar4, epcie.trans (by rw [hreads, Pcie.hot, Pcie.hot]), fun f hf => (email f).trans (hempty f hf),
    ehost.trans (hmail.host.trans hhost), epending.trans (hmail.pending.trans hpending)⟩

/-! ### A hot reset and the loss of the link, whatever was in progress (R324, R326) -/

theorem State.host_setFlag (s : State) (o i : Nat) (b : Bool) : (s.setFlag o i b).host = s.host := rfl

theorem State.pcie_setFlag (s : State) (o i : Nat) (b : Bool) : (s.setFlag o i b).pcie = s.pcie := rfl

theorem State.pending_setFlag (s : State) (o i : Nat) (b : Bool) : (s.setFlag o i b).pending = s.pending := rfl

theorem State.mailbox_setFlag (s : State) (o i : Nat) (b : Bool) (f : Nat) : (s.setFlag o i b).mailbox f = s.mailbox f := rfl

/-- The endpoint after a reset of the whole link, from a state in which it is down. -/
theorem State.hotReset_done {s u : State} (hc : u.Canonical) (hdown : u.flag Reg.peStatus 31 = false) (hpcie : u.pcie.hot = s.pcie.hot)
    (hbar4 : u.reg Reg.peBar4 = s.reg Reg.peBar4) (hhost : u.host = s.host) (hpending : u.pending = s.pending) :
    let t := u.hotColumn.setFlag Reg.rstCause 2 true
    t.flag Reg.peStatus 31 = false ∧ t.flag Reg.rstCause 2 = true ∧ t.fld Reg.peStatus 7 0 = 0 ∧
      t.pcie = { s.pcie.hot with reads := [] } ∧ t.flag Reg.peStatus 29 = u.flag Reg.peStatus 29 ∧ t.reg Reg.peBar4 = s.reg Reg.peBar4 ∧
      (∀ f < 256, t.mailbox f = ⟨[], [], [], 0⟩) ∧ t.host = s.host ∧ t.pending = s.pending := by
  have hdone := State.hotColumn_done hc
  have hrise := ((State.hotColumn_kept (Kept.refl u)).canonical hc).rising
  have hstatus : (u.hotColumn.setFlag Reg.rstCause 2 true).reg Reg.peStatus = setBits (u.reg Reg.peStatus) 7 0 0 :=
    (State.reg_setFlag_other _ _ _ _ _ (by decide)).trans hdone.status
  refine ⟨?_, State.flag_setFlag_same _ _ _ _ hrise (by decide), ?_, ?_, ?_, ?_,
    fun f hf => (State.mailbox_setFlag _ _ _ _ f).trans (hdone.mail f hf), (State.host_setFlag _ _ _ _).trans (hdone.host.trans hhost),
    (State.pending_setFlag _ _ _ _).trans (hdone.pending.trans hpending)⟩
  · rw [State.flag, hstatus, bitOf_setBits_other _ _ _ _ _ (by decide) (by decide)]
    exact hdown
  · rw [State.fld, hstatus, bitsOf_setBits_same _ _ _ _ (by decide), Nat.zero_mod]
  · exact (State.pcie_setFlag _ _ _ _).trans (hdone.pcie.trans (by rw [hpcie]))
  · rw [State.flag, hstatus, bitOf_setBits_other _ _ _ _ _ (by decide) (by decide), State.flag]
  · exact (State.reg_setFlag_other _ _ _ _ _ (by decide)).trans (hdone.bar4.trans hbar4)

theorem State.linkDown_spec {s : State} (hr : Rising s.regs) :
    s.linkDown.flag Reg.peStatus 31 = false ∧ SameRegs s s.linkDown [Reg.peStatus] := by
  have h1 := State.setFld_rising s Reg.peStatus 31 30 0 hr
  have h2 := State.setFld_rising _ Reg.peStatus 23 20 0 h1
  refine ⟨?_, fun o ho => ?_⟩
  · rw [State.linkDown, State.flag, State.reg_setFld_same _ _ _ _ _ h2, State.reg_setFld_same _ _ _ _ _ h1, State.reg_setFld_same _ _ _ _ _ hr,
      bitOf_setBits_other _ _ _ _ _ (by decide) (by decide), bitOf_setBits_other _ _ _ _ _ (by decide) (by decide),
      bitOf_setBits_within _ _ (by decide) (by decide)]
    rfl
  · have ho : o ≠ Reg.peStatus := by simpa using ho
    exact (State.reg_setFld_other _ _ _ _ _ _ ho).trans ((State.reg_setFld_other _ _ _ _ _ _ ho).trans (State.reg_setFld_other _ _ _ _ _ _ ho))

theorem State.linkNoted_kept (s : State) : Kept s s.linkNoted :=
  State.sootEvent_kept _ _ _ (State.drawFree_kept (State.setFlag_kept _ _ _ (State.linkDown_kept (Kept.refl s))))

theorem State.readsTimedOut_kept {s0 s : State} (h : Kept s0 s) : Kept s0 s.readsTimedOut := .foldl h fun _ _ h => State.endCmd_kept _ _ _ h

theorem State.readsTimedOut_holds (s : State) : HoldsEndpoint s s.readsTimedOut := .foldl (fun s id => .endCmd s id .timeout 0) _ s

theorem State.linkNoted_spec {s : State} (hc : s.Canonical) : s.linkNoted.flag Reg.peStatus 31 = false ∧ s.linkNoted.flag Reg.peStatus 29 = true ∧
    s.linkNoted.reg Reg.peBar4 = s.reg Reg.peBar4 ∧ s.linkNoted.pcie = s.pcie ∧ s.linkNoted.host = s.host ∧ s.linkNoted.pending = s.pending := by
  have hrise := ((State.linkDown_kept (Kept.refl s)).canonical hc).rising
  obtain ⟨hdown, hsame⟩ := State.linkDown_spec hc.rising
  have hreg : ∀ o, o ≠ Reg.sootDrop → s.linkNoted.reg o = (s.linkDown.setFlag Reg.peStatus 29 true).reg o := fun o ho => State.reg_sootEvent _ _ _ _ _ ho
  have heq := State.sootEvent_eq (s.linkDown.setFlag Reg.peStatus 29 true).drawFree.2 0x5061 (s.linkDown.setFlag Reg.peStatus 29 true).drawFree.1 none
  refine ⟨?_, ?_, ?_, ?_, ?_, ?_⟩
  · exact (congrArg (bitOf · 31) (hreg _ (by decide))).trans ((State.flag_setFlag_other _ _ hrise (by decide) (by decide)).trans hdown)
  · exact (congrArg (bitOf · 29) (hreg _ (by decide))).trans (State.flag_setFlag_same _ _ _ _ hrise (by decide))
  · exact (hreg _ (by decide)).trans ((State.reg_setFlag_other _ _ _ _ _ (by decide)).trans (hsame _ (by decide)))
  · exact (congrArg State.pcie heq).trans rfl
  · exact (congrArg State.host heq).trans rfl
  · exact (congrArg State.pending heq).trans rfl

/-! ### Commands that the loss of the link has ended (R326) -/

/-- A command ended by the loss of a read's completion. -/
def Cmd.timedOut (c : Cmd) : Cmd := { c with phase := .ended, status := .timeout, detail := 0 }

theorem State.cmds_endCmds (l : List Nat) (s : State) :
    (l.foldl (fun s id => s.endCmd id .timeout 0) s).cmds = s.cmds.map fun c => if c.id ∈ l then c.timedOut else c := by
  induction l generalizing s with
  | nil => simp
  | cons id l ih =>
    have hone : (s.endCmd id .timeout 0).cmds = s.cmds.map fun c => if c.id = id then c.timedOut else c := rfl
    rw [List.foldl_cons, ih, hone, List.map_map]
    refine List.map_congr_left fun c _ => ?_
    by_cases h : c.id = id
    · simp [h, Cmd.timedOut]
    · simp [h]

theorem State.rings_endCmds (l : List Nat) (s : State) : (l.foldl (fun s id => s.endCmd id .timeout 0) s).rings = s.rings := by
  induction l generalizing s with
  | nil => rfl
  | cons id l ih => exact ih _

theorem State.cmds_readsTimedOut (s : State) :
    s.readsTimedOut.cmds = s.cmds.map fun c => if c.id ∈ s.pcie.reads.map (·.cmd) then c.timedOut else c := by
  rw [State.readsTimedOut, State.cmds_endCmds]
  simp only [List.mem_eraseDups]

/-- An abort of a command that has not been issued or has ended leaves an ended one that is not recorded in host memory. -/
theorem State.fnAbort_leaves (s : State) {c x : Cmd} (hphase : c.phase = .fetched ∨ c.phase = .ended) (hx : x.phase = .ended)
    (hown : c.id = x.id → c = x) (hloc : s.cmdLoc x = false) (hmem : x ∈ s.cmds) : x ∈ (s.fnAbort c).cmds ∧ (s.fnAbort c).rings = s.rings := by
  rcases hphase with h | h
  · have hid : c.id ≠ x.id := fun he => by simp [hown he, hx] at h
    obtain ⟨hframe, hcmds⟩ := s.fnAbort_fetched h
    exact ⟨(hcmds x).mpr ⟨x, hmem, by simp [State.abortedIn, hid]⟩, by rw [hframe]⟩
  · have habort : s.abortCmd c = s := by
      unfold State.abortCmd
      rw [h]
    have hact : ¬ (c.opcode = 0x12 ∧ c.phase = .active) := fun ha => by simp [h] at ha
    cases hl : s.cmdLoc c with
    | true =>
      have heq : s.fnAbort c = s.dropCmd c.id := by
        unfold State.fnAbort
        rw [habort]
        exact (if_pos hl).trans (if_neg hact)
      have hid : x.id ≠ c.id := fun he => by
        rw [hown he.symm, hloc] at hl
        cases hl
      rw [heq]
      exact ⟨List.mem_filter.mpr ⟨hmem, by simpa using hid⟩, rfl⟩
    | false =>
      have heq : s.fnAbort c = s := by
        unfold State.fnAbort
        rw [habort]
        exact if_neg (by simp [hl])
      rw [heq]
      exact ⟨hmem, rfl⟩

theorem State.fnAborts_leave {x : Cmd} (hx : x.phase = .ended) (l : List Cmd) (s : State)
    (hphase : ∀ c ∈ l, c.phase = .fetched ∨ c.phase = .ended) (hown : ∀ c ∈ l, c.id = x.id → c = x) (hloc : s.cmdLoc x = false)
    (hmem : x ∈ s.cmds) : x ∈ (l.foldl (fun s c => s.fnAbort c) s).cmds := by
  induction l generalizing s with
  | nil => exact hmem
  | cons c l ih =>
    obtain ⟨hmem1, hrings⟩ := s.fnAbort_leaves (hphase c List.mem_cons_self) hx (hown c List.mem_cons_self) hloc hmem
    exact ih _ (fun c hc => hphase c (List.mem_cons_of_mem _ hc)) (fun c hc => hown c (List.mem_cons_of_mem _ hc))
      ((State.cmdLoc_congr hrings x).trans hloc) hmem1

/-- The command of an outstanding read, in a ring that is not in host memory, has ended with TIMEOUT. -/
theorem State.timedOut_stays {s : State} (hnodup : (s.cmds.map (·.id)).Nodup)
    (hphase : ∀ c ∈ s.cmds, c.ofFn (fun _ => true) = true → c.phase = .fetched ∨ c.id ∈ s.pcie.reads.map (·.cmd)) {c : Cmd} (hc : c ∈ s.cmds)
    (hread : c.id ∈ s.pcie.reads.map (·.cmd)) (hloc : s.cmdLoc c = false) : c.timedOut ∈ s.readsTimedOut.hotColumn.cmds := by
  have hcmds := s.cmds_readsTimedOut
  have hrings : s.readsTimedOut.rings = s.rings := State.rings_endCmds _ _
  have hmem : c.timedOut ∈ s.readsTimedOut.cmds := hcmds ▸ List.mem_map.mpr ⟨c, hc, if_pos hread⟩
  have hends : ∀ y ∈ s.readsTimedOut.cmds.filter fun c => c.ofFn fun _ => true, ∃ x ∈ s.cmds, x.ofFn (fun _ => true) = true ∧ y.id = x.id ∧
      y = if x.id ∈ s.pcie.reads.map (·.cmd) then x.timedOut else x := by
    intro y hy
    obtain ⟨hmem, hfn⟩ := List.mem_filter.mp hy
    obtain ⟨x, hx, rfl⟩ := List.mem_map.mp (hcmds ▸ hmem)
    refine ⟨x, hx, ?_, ?_, rfl⟩
    · split at hfn <;> exact hfn
    · split <;> rfl
  rw [s.readsTimedOut.hotColumn_endpoint.cmds, State.endFns_eq]
  refine State.fnAborts_leave rfl _ _ (fun y hy => ?_) (fun y hy hid => ?_) ((State.cmdLoc_congr hrings _).trans hloc) hmem
  · obtain ⟨x, hx, hfn, -, rfl⟩ := hends y hy
    split
    · exact .inr rfl
    · next hno => exact .inl ((hphase x hx hfn).resolve_right hno)
  · obtain ⟨x, hx, -, hxid, rfl⟩ := hends y hy
    have heq : x = c := List.inj_on_of_nodup_map hnodup hx hc (hxid.symm.trans hid)
    rw [heq, if_pos hread]

/-! ### Function-level reset (R324, R325) -/

/-- The mailboxes that the completion of an FLR clears. -/
def State.flrMail (s : State) (f : Nat) : State := if f = 0 then s.clearMailboxes else s.clearMailbox f

theorem State.flrMail_kept (s : State) (f : Nat) : Kept s (s.flrMail f) := by
  unfold State.flrMail
  split
  · exact State.clearMailboxes_kept (Kept.refl s)
  · exact State.clearMailbox_kept f (Kept.refl s)

theorem State.flrMail_spec (s : State) {f : Nat} (hf : f < 256) :
    MailOnly s (s.flrMail f) ∧ (∀ g < 256, f = 0 ∨ g = f → (s.flrMail f).mailbox g = ⟨[], [], [], 0⟩) ∧
      (∀ o < 0x1000, f ≠ 0 → (s.flrMail f).reg (mbKey f 0 + o) = resetWord (mbKey f 0 + o)) ∧
      ∀ o < 0x10000000, (f ≠ 0 ∨ o < mbKey 0 0 ∨ mbKey 0 0 + 0x1000 ≤ o) → (s.flrMail f).reg o = s.reg o := by
  unfold State.flrMail
  split
  · next h =>
    obtain ⟨hmail, hempty, hkept⟩ := s.clearMailboxes_all
    exact ⟨hmail, fun g hg _ => hempty g hg, fun o _ h0 => absurd h h0, fun o ho hout => hkept o ho (hout.resolve_left fun h0 => h0 h)⟩
  · next h =>
    refine ⟨s.clearMailbox_mailOnly f, fun g _ hg => hg.resolve_left h ▸ s.mailbox_clearMailbox_same f,
      fun o ho _ => s.reg_clearMailbox_inside h ho, fun o ho _ => s.reg_clearMailbox_outside (.inl ?_)⟩
    rw [mbKey, if_neg h]
    omega

theorem exec_flrComplete {s : State} {f : FnIx} (h : (s.func f).flr = true) :
    exec (.flrComplete f) s = .next (((s.flrMail f).setFunc f Func.reset).setFlag (Reg.flrCause (f / 32)) (f % 32) true) :=
  congrArg Host.Outcome.next (if_neg (by simp [h]))

theorem State.func_setFunc_value (s : State) (f : Nat) {x : Func} (hx : x ≠ Func.reset) : (s.setFunc f x).func f = x :=
  sparseGet_set_value hx _ _

theorem State.pcie_setFunc_congr {s t : State} (h : t.pcie = s.pcie) (f : Nat) (x : Func) : (t.setFunc f x).pcie = (s.setFunc f x).pcie := by
  simp only [State.setFunc, h]

theorem State.flrCompleted_spec {s : State} (hc : s.Canonical) {f : Nat} (hf : f < 256) :
    let t := ((s.flrMail f).setFunc f Func.reset).setFlag (Reg.flrCause (f / 32)) (f % 32) true
    t.flag (Reg.flrCause (f / 32)) (f % 32) = true ∧ t.pcie = (s.setFunc f Func.reset).pcie ∧
      (∀ g < 256, f = 0 ∨ g = f → t.mailbox g = ⟨[], [], [], 0⟩) ∧
      (∀ o < 0x1000, f ≠ 0 → t.reg (mbKey f 0 + o) = resetWord (mbKey f 0 + o)) ∧
      (∀ o < 0x10000000, o ≠ Reg.flrCause (f / 32) → (f ≠ 0 ∨ o < mbKey 0 0 ∨ mbKey 0 0 + 0x1000 ≤ o) → t.reg o = s.reg o) ∧
      t = { s with regs := t.regs, pcie := t.pcie, ozmel := { s.ozmel with mailboxes := t.ozmel.mailboxes } } := by
  obtain ⟨hmail, hempty, hinside, houtside⟩ := s.flrMail_spec hf
  have hrise := ((s.flrMail_kept f).canonical hc).rising
  refine ⟨State.flag_setFlag_same _ _ _ _ hrise (by omega), State.pcie_setFunc_congr hmail.pcie f Func.reset,
    fun g hg hfg => (State.mailbox_setFlag _ _ _ _ g).trans (hempty g hg hfg), fun o ho h0 => ?_, fun o ho hcause hout => ?_, ?_⟩
  · refine (State.reg_setFlag_other _ _ _ _ _ ?_).trans (hinside o ho h0)
    rw [mbKey, if_neg h0, Reg.flrCause]
    omega
  · exact (State.reg_setFlag_other _ _ _ _ _ hcause).trans (houtside o ho hout)
  · generalize s.flrMail f = u at hmail
    rw [hmail]
    rfl

/-- Settles O42: the link trains; every reset of functions by what it ends; a reset of the link; the loss of the link; an FLR and its
completion. -/
theorem linkAndFunctionResets : Obligations.LinkAndFunctionResets := by
  unfold Obligations.LinkAndFunctionResets
  refine ⟨fun s speed width flit => ⟨fun hbad => ?_, fun h0 hw => ⟨fun hoff => ?_, fun hc hperst hclk hdown => ?_⟩⟩,
    fun s i fns hi hfetched hnodup => ?_, fun s i hc hup hi => ?_, fun s hup hnodup hphase => ?_, fun s hdown => ⟨?_, ?_⟩,
    fun s f => ⟨fun h => ?_, fun hex hflr => ?_, fun hflr => ?_, fun hc hflr => ?_⟩⟩
  · exact if_pos (by simpa using hbad)
  · exact (exec_pcieLinkUp flit s h0 hw).trans (congrArg _ (if_pos (by simpa [or_assoc] using hoff)))
  · obtain ⟨hword, hframe, hregs⟩ := State.pcieUp_trained hc.rising speed.val width flit hperst hclk hdown
    have hw16 : width ≤ 16 := (by decide : ∀ w ∈ [1, 2, 4, 8, 16], w ≤ 16) width hw
    obtain ⟨h31, h30, hspeed, hwidth, h29⟩ := linkWord_spec (s.reg Reg.peStatus) (flit || decide (speed.val = 6)) speed.isLt hw16
    refine ⟨_, exec_pcieLinkUp flit s h0 hw, ?_, ?_, ?_, ?_, ?_, hframe, hregs⟩ <;> simp only [State.flag, State.fld, hword] <;> assumption
  · obtain ⟨t, hexec, haborted, hleft, hothers, hrings, hreads, hperst, haer, hframe⟩ := exec_ends hi hfetched hnodup
    refine ⟨t, hexec, haborted, hleft, hothers, fun r => ⟨fun hfn => ?_, fun hfn => ?_⟩, hreads, hperst, haer, hframe⟩
    · have hring := (hrings r).trans (if_pos hfn)
      exact ⟨hring, hring ▸ Ring.disable_bit _⟩
    · exact (hrings r).trans (if_neg (by simp [hfn]))
  · rcases hi with rfl | rfl
    · obtain ⟨hdown, hsame⟩ := State.linkDown_spec hc.rising
      obtain ⟨h31, hcause, hnum, hpcie, -, hbar4, hmail, hhost, hpending⟩ := State.hotReset_done (s := s)
        ((State.linkDown_kept (Kept.refl s)).canonical hc) hdown rfl (hsame _ (by decide)) rfl rfl
      exact ⟨_, exec_hotReset hup, h31, hcause, hnum, hpcie, nofun, hbar4, hmail, hhost, hpending⟩
    · obtain ⟨hdown, hlost, hbar4, hpcie, hhost, hpending⟩ := State.linkNoted_spec hc
      have hholds := s.linkNoted.readsTimedOut_holds
      have hreg := hholds.regs Reg.peStatus (by decide)
      obtain ⟨h31, hcause, hnum, hpcie, h29, hbar4, hmail, hhost, hpending⟩ := State.hotReset_done (s := s)
        ((State.readsTimedOut_kept s.linkNoted_kept).canonical hc) ((congrArg (bitOf · 31) hreg).trans hdown)
        (congrArg Pcie.hot (hholds.pcie.trans hpcie)) ((hholds.regs _ (by decide)).trans hbar4) (hholds.host.trans hhost)
        (hholds.pending.trans hpending)
      exact ⟨_, exec_pcieLinkLost hup, h31, hcause, hnum, hpcie, fun _ => h29.trans ((congrArg (bitOf · 29) hreg).trans hlost), hbar4, hmail, hhost,
        hpending⟩
  · have hnoted := EndpointOnly.linkNoted s
    refine ⟨_, exec_pcieLinkLost hup, fun c hc hread hloc => ?_⟩
    rw [(EndpointOnly.setFlag s.linkNoted.readsTimedOut.hotColumn Reg.rstCause 2 true).cmds]
    exact State.timedOut_stays (s := s.linkNoted) (hnoted.cmds.symm ▸ hnodup) (by rw [hnoted.cmds, hnoted.reads]; exact hphase)
      (hnoted.cmds.symm ▸ hc) (hnoted.reads.symm ▸ hread) ((State.cmdLoc_congr hnoted.rings c).trans hloc)
  · exact congrArg Host.Outcome.next (if_neg (by simp [hdown]))
  · exact congrArg Host.Outcome.next (if_pos hdown)
  · exact congrArg Host.Outcome.next (if_pos h)
  · by_cases h0 : f = 0
    · subst h0
      obtain ⟨hfunc, hvf, hnum, hd3⟩ := State.pfFlr_spec (s.endFns fun _ => true)
      refine ⟨_, exec_flr_pf hex hflr, ?_⟩
      generalize ((s.endFns fun _ => true).mapPcie Pcie.pfFlr).setFld Reg.peStatus 7 0 0 = t at hfunc hvf hnum hd3
      exact ⟨congrArg Func.flr hfunc, congrArg Func.busMaster hfunc, congrArg Func.msixEnable hfunc,
        fun _ => ⟨hvf, hnum, hd3⟩⟩
    · have hfunc := State.func_setFunc_value (s.endFns fun g => g == f.val) f.val (x := s.vfFlr f) fun h => nomatch (congrArg Func.flr h)
      exact ⟨_, exec_flr_vf h0 hex hflr, congrArg Func.flr hfunc, congrArg Func.busMaster hfunc, congrArg Func.msixEnable hfunc, fun h => absurd h h0⟩
  · exact congrArg Host.Outcome.next (if_pos hflr)
  · obtain ⟨hcause, hpcie, hmail, hinside, houtside, hframe⟩ := State.flrCompleted_spec hc f.isLt
    exact ⟨_, exec_flrComplete hflr, hcause, hpcie, fun g hg hfg => hmail g hg (hfg.imp (congrArg Fin.val) id),
      fun o ho h0 => hinside o ho fun h => h0 (Fin.ext h),
      fun o ho hcause hout => houtside o ho hcause (hout.imp (fun h0 h => h0 (Fin.ext h)) id), hframe⟩

end Sys2Proof.Machine

/-!
PROOF. PART_SWAP and re-forms: how a request takes its turn, and what its phases change (R257-R261, R274).
-/

namespace Sys2Proof.Machine

/-! ### Requests take their turn (R261) -/

theorem exec_partSwap {s : State} {c : Cmd} (h : s.MgmtIssued c 0x81) : exec (.partSwap c.id) s = .next (s.opPartSwap c) :=
  congrArg Host.Outcome.next (State.runMgmt_issued h _)

/-- The request of a PART_SWAP. -/
def Cmd.swapReq (c : Cmd) (s : State) : SwapReq := { cmd := some c.id, mask := BitVec.ofNat 64 (c.par 0 8), arrived := s.nowNs, reform := none }

/-- A request at the end of the queue. -/
def State.queueSwap (s : State) (r : SwapReq) : State := { s with swap := { s.swap with queue := s.swap.queue ++ [r] } }

theorem State.opPartSwap_empty (s : State) {c : Cmd} (h : c.par 0 8 = 0) : State.opPartSwap c s = s.swapResult (c.swapReq s) .ok 0 := if_pos h

theorem State.opPartSwap_queued (s : State) {c : Cmd} (h : c.par 0 8 ≠ 0) :
    State.opPartSwap c s = ((s.updCmd c.id fun c => { c with phase := .active }).queueSwap (c.swapReq s)).swapNext := if_neg h

theorem State.swapNext_behind {s : State} (h : s.swap.current.isSome = true) : s.swapNext = s := if_pos (.inl h)

theorem State.swapNext_free {s : State} (h : s.swap.current = none) (hh : s.ozmel.handover = none) : s.swapNext = s.swapStart s.swap.queue :=
  if_neg (by simp [h, hh])

/-- During a handover nothing starts, and with no request nothing changes but the empty queue. -/
theorem State.swapNext_empty {s : State} (h : s.swap.queue = []) : s.swapNext = s := by
  unfold State.swapNext
  split
  · rfl
  · rw [h, State.swapStart, ← h]

theorem State.mgmtTurn_handover {s : State} {c : Cmd} (h : s.mgmtTurn c = true) : s.ozmel.handover = none := by
  simp only [State.mgmtTurn, Bool.and_eq_true, Option.isNone_iff_eq_none] at h
  obtain ⟨⟨⟨-, hhandover⟩, -⟩, -⟩ := h
  exact hhandover

/-- PSWAP_STATUS as the result of a request leaves it. -/
def resultWord (w : Word) (code us : Nat) : Word := setBits (setBits w 23 16 code) 15 0 (min 0xFFFF us)

theorem resultWord_spec (w : Word) {code : Nat} (us : Nat) (h : code < 256) : bitsOf (resultWord w code us) 23 16 = code ∧
    bitsOf (resultWord w code us) 15 0 = min 0xFFFF us ∧ bitsOf (resultWord w code us) 31 28 = bitsOf w 31 28 := by
  refine ⟨?_, ?_, ?_⟩
  · rw [resultWord, bitsOf_setBits_other _ _ _ _ _ _ (by decide) (by decide), bitsOf_setBits_same _ _ _ _ (by decide)]
    exact Nat.mod_eq_of_lt h
  · rw [resultWord, bitsOf_setBits_same _ _ _ _ (by decide)]
    exact Nat.mod_eq_of_lt (by omega)
  · rw [resultWord, bitsOf_setBits_other _ _ _ _ _ _ (by decide) (by decide), bitsOf_setBits_other _ _ _ _ _ _ (by decide) (by decide)]

theorem Status.code_lt (st : Status) : st.code < 256 := by cases st <;> decide

/-- The commands with that of a request ended. -/
def State.swapCmds (s : State) (r : SwapReq) (st : Status) (d : Word) : List Cmd :=
  match r.cmd with
  | none => s.cmds
  | some id => (s.endCmd id st d).cmds

theorem State.swapResult_eq (s : State) (r : SwapReq) (st : Status) (d : Word) : s.swapResult r st d =
    { (s.setFld Reg.pswapStatus 23 16 st.code).setFld Reg.pswapStatus 15 0 (min 0xFFFF (s.swapUs r)) with cmds := s.swapCmds r st d } := by
  unfold State.swapResult State.swapCmds
  cases r.cmd <;> rfl

/-- What the result of a request changes. -/
structure ResultGiven (r : SwapReq) (st : Status) (d : Word) (s t : State) : Prop where
  status : t.reg Reg.pswapStatus = resultWord (s.reg Reg.pswapStatus) st.code ((s.nowNs - r.arrived) / 1000)
  cmds : t.cmds = s.swapCmds r st d
  frame : t = { s with regs := t.regs, cmds := t.cmds }
  regs : SameRegs s t [Reg.pswapStatus]

theorem State.swapResult_given {s : State} (hr : Rising s.regs) (r : SwapReq) (st : Status) (d : Word) :
    ResultGiven r st d s (s.swapResult r st d) := by
  rw [State.swapResult_eq]
  refine ⟨?_, rfl, rfl, fun o ho => ?_⟩
  · exact (State.reg_setFld_same _ _ _ _ _ (State.setFld_rising _ _ _ _ _ hr)).trans
      (congrArg (setBits · 15 0 _) (State.reg_setFld_same _ _ _ _ _ hr))
  · have ho : o ≠ Reg.pswapStatus := by simpa using ho
    exact (State.reg_setFld_other _ _ _ _ _ _ ho).trans (State.reg_setFld_other _ _ _ _ _ _ ho)

/-- What the end of the request in progress changes. -/
structure ReportGiven (r : SwapReq) (st : Status) (d : Word) (s t : State) : Prop where
  phase : t.fld Reg.pswapStatus 31 28 = 0
  code : t.fld Reg.pswapStatus 23 16 = st.code
  us : t.fld Reg.pswapStatus 15 0 = min 0xFFFF ((s.nowNs - r.arrived) / 1000)
  cmds : t.cmds = s.swapCmds r st d
  frame : t = { s with regs := t.regs, cmds := t.cmds }
  regs : SameRegs s t [Reg.pswapStatus]

theorem State.swapReport_given {s : State} (hr : Rising s.regs) (r : SwapReq) (st : Status) (d : Word) :
    ReportGiven r st d s (s.swapReport r st d) := by
  obtain ⟨hword, hcmds, hframe, hregs⟩ := State.swapResult_given (State.setFld_rising s Reg.pswapStatus 31 28 0 hr) r st d
  obtain ⟨hcode, hus, hphase⟩ := resultWord_spec ((s.setPhase 0).reg Reg.pswapStatus) ((s.nowNs - r.arrived) / 1000) st.code_lt
  refine ⟨?_, (congrArg (bitsOf · 23 16) hword).trans hcode, (congrArg (bitsOf · 15 0) hword).trans hus, hcmds, hframe, fun o ho => ?_⟩
  · exact (congrArg (bitsOf · 31 28) hword).trans (hphase.trans (State.fld_setFld_same _ _ _ _ _ hr (by decide)))
  · exact (hregs o ho).trans (State.reg_setFld_other _ _ _ _ _ _ (by simpa using ho))

/-- No request waits. -/
def State.emptyQueue (s : State) : State := { s with swap := { s.swap with queue := [] } }

/-- A request whose check fails makes way, and none is behind it. -/
theorem State.swapStart_refused {s : State} {r : SwapReq} {st : Status} {d : Word} (h : r.reform = none) (hc : s.swapCheck r = some (st, d)) :
    s.swapStart [r] = (s.swapReport r st d).emptyQueue := by
  rw [State.swapStart, h]
  simp only [hc]
  rfl

theorem State.swapStart_passed {s : State} {r : SwapReq} (h : r.reform = none) (hc : s.swapCheck r = none) : s.swapStart [r] = s.drainStart r [] := by
  rw [State.swapStart, h]
  simp only [hc]

theorem State.swapStart_reform {s : State} {r : SwapReq} {p e n : Nat} (h : r.reform = some (p, e, n))
    (hm : (gangMembers (s.part p).active e).contains n = true) : s.swapStart [r] = s.drainStart r [] := by
  rw [State.swapStart, h]
  exact if_pos hm

theorem exec_gangReform {s : State} {p : PartIx} {e : Fin 64} {n : LnIx} (hv : tabValid (s.part p).active = true)
    (hb : gangReformBit (gangEntry (s.part p).active e) = true) (hq : s.flag (Reg.lnStatus n) 31 = true)
    (hm : (gangMembers (s.part p).active e).contains n.val = true) : exec (.gangReform p e n) s = .next (s.queueSwap
      { cmd := none, mask := BitVec.ofNat 64 (2 ^ p.val), arrived := s.nowNs, reform := some (p, e, n) }).swapNext :=
  congrArg Host.Outcome.next (if_pos (by simp only [hv, hb, hq, hm, Bool.and_self]))

/-! ### The drain limit (R258, R274) -/

theorem exec_swapDrainTimeout {s : State} {r : SwapReq} (h : s.swap.current = some r) : exec .swapDrainTimeout s =
    .next (if s.nowNs < r.began + s.drainNs ∨ r.scrubs ≠ [] then s else s.drainLate r) := by
  have hexec : exec .swapDrainTimeout s = execSwapDrainTimeout s := rfl
  rw [hexec, execSwapDrainTimeout, h]

/-! ### What the phases of a swap leave alone -/

/-- What no phase of a swap touches before its end. -/
def State.swapView (s : State) : Swap × Ozmel × List Host.Cell × List Host.Cell × Timebase × Word :=
  (s.swap, s.ozmel, s.host, s.flash, s.tb, s.reg Reg.pswapStatus)

/-- The same and the partitions. -/
def State.swapParts (s : State) : (Swap × Ozmel × List Host.Cell × List Host.Cell × Timebase × Word) × Tab Part := (s.swapView, s.parts)

theorem foldl_view {α β : Type} {v : State → β} {f : State → α → State} {l : List α} (hf : ∀ a ∈ l, ∀ s, v (f s a) = v s) (s : State) :
    v (l.foldl f s) = v s := by
  induction l generalizing s with
  | nil => rfl
  | cons a l ih => exact (ih (fun b hb => hf b (List.mem_cons_of_mem _ hb)) (f s a)).trans (hf a List.mem_cons_self s)

theorem State.swapParts_setFld (s : State) {off : Nat} (hi lo v : Nat) (h : off ≠ Reg.pswapStatus) : (s.setFld off hi lo v).swapParts = s.swapParts :=
  congrArg (fun w => ((s.swap, s.ozmel, s.host, s.flash, s.tb, w), s.parts)) (State.reg_setFld_other s off hi lo v _ (Ne.symm h))

theorem State.swapParts_setFlag (s : State) {off : Nat} (i : Nat) (b : Bool) (h : off ≠ Reg.pswapStatus) : (s.setFlag off i b).swapParts = s.swapParts :=
  s.swapParts_setFld _ _ _ h

theorem State.swapParts_sootEvent (s : State) (code : Nat) (arg : Dword) (part : Option Nat) : (s.sootEvent code arg part).swapParts = s.swapParts := by
  have hreg := State.reg_sootEvent s code arg part Reg.pswapStatus (by decide)
  simp only [State.swapParts, State.swapView, hreg]
  rw [State.sootEvent_eq]

theorem State.swapParts_zeroRange (s : State) (da len : Nat) : (s.zeroRange da len).swapParts = s.swapParts := by
  obtain ⟨_, _, _, _, h⟩ := s.zeroRange_frame da len
  rw [h]
  rfl

theorem State.swapParts_undefRange (s : State) (da len : Nat) : (s.undefRange da len).swapParts = s.swapParts := by
  unfold State.undefRange
  extract_lets us s1
  obtain ⟨rmos, htest⟩ := State.retest_eq (s1.cancelBack da len) da len
  obtain ⟨ingots, banks, hback⟩ := State.cancelBack_eq s1 da len
  rw [htest, hback]
  rfl

theorem State.swapParts_windowGap (s : State) (d : Nat) : (s.windowGap d).swapParts = s.swapParts := rfl

/-- A domain's registers lie apart from PSWAP_STATUS. -/
theorem State.swapParts_setDom (s : State) {d : Nat} (v : Nat) (h : d < 128) : (s.setDom d v).swapParts = s.swapParts :=
  s.swapParts_setFld _ _ _ (by rw [Reg.pdState, show Reg.pswapStatus = 0x8f024 from rfl]; omega)

theorem State.swapParts_bumpEpoch (s : State) {d : Nat} (h : d < 128) : (s.bumpEpoch d).swapParts = s.swapParts :=
  s.swapParts_setFld _ _ _ (by rw [Reg.pdEpoch, show Reg.pswapStatus = 0x8f024 from rfl]; omega)

theorem State.swapParts_setLantern (s : State) (n : Nat) (l : Lantern) : (s.setLantern n l).swapParts = s.swapParts := rfl

theorem State.swapParts_domUp (s : State) {d : Nat} (h : d < 128) : (s.domUp d).swapParts = s.swapParts := by
  unfold State.domUp
  split
  · rfl
  · exact (State.swapParts_windowGap _ _).trans (s.swapParts_setDom _ h)
  · have hup : (((s.setDom d 1).bumpEpoch d).windowGap d).swapParts = s.swapParts :=
      (State.swapParts_windowGap _ _).trans ((State.swapParts_bumpEpoch _ h).trans (s.swapParts_setDom _ h))
    dsimp only
    split
    · exact (State.swapParts_setLantern _ _ _).trans hup
    split
    · exact (State.swapParts_undefRange _ _ _).trans hup
    split
    · exact (State.swapParts_undefRange _ _ _).trans hup
    · exact hup

theorem State.swapParts_powerUp (s : State) {d : Nat} (h : d < 128) : (s.powerUp d).swapParts = s.swapParts := by
  unfold State.powerUp
  split
  · rfl
  · exact (State.swapParts_windowGap _ _).trans ((State.swapParts_bumpEpoch _ h).trans (s.swapParts_setDom _ h))

theorem State.swapParts_swapPower (s : State) (old new : List WordTab) : (s.swapPower old new).swapParts = s.swapParts := by
  unfold State.swapPower
  refine (foldl_view (v := State.swapParts) (fun k hk s => ?_) _).trans (foldl_view (v := State.swapParts) (fun n hn s => ?_) s)
  · split
    · exact s.swapParts_domUp (by have := List.mem_range.mp hk; rw [cbDom]; omega)
    · rfl
  · have hn := List.mem_range.mp hn
    split
    · exact (State.swapParts_domUp _ (by rw [ingotDom]; omega)).trans (s.swapParts_domUp (by rw [lnDom]; omega))
    · rfl

theorem State.swapParts_setIngotErr (s : State) (n : Nat) (e : IngotErr) : (s.setIngotErr n e).swapParts = s.swapParts := rfl

theorem State.swapParts_setBank (s : State) (k : Nat) (b : Bank) : (s.setBank k b).swapParts = s.swapParts := rfl

theorem lnStatus_ne_pswapStatus (n : Nat) : Reg.lnStatus n ≠ Reg.pswapStatus := by
  rw [Reg.lnStatus, show Reg.pswapStatus = 0x8f024 from rfl]
  omega

theorem State.swapParts_swapScrub (s : State) (old new : List WordTab) : (s.swapScrub old new).swapParts = s.swapParts := by
  unfold State.swapScrub
  refine (foldl_view (v := State.swapParts) (fun k hk s => ?_) _).trans (foldl_view (v := State.swapParts) (fun n hn s => ?_) s)
  · dsimp only
    split
    · rfl
    · exact s.swapParts_setBank _ _
  · dsimp only
    split
    · rfl
    · exact (State.swapParts_setFlag _ _ _ (lnStatus_ne_pswapStatus n)).trans (s.swapParts_setIngotErr _ _)

theorem State.swapParts_lanternBack (s : State) {n : Nat} (h : n < 16) : (s.lanternBack n).swapParts = s.swapParts := by
  unfold State.lanternBack
  dsimp only
  refine (State.swapParts_sootEvent _ _ _ _).trans ?_
  have hback : ((s.setFlag (Reg.lnStatus n) 31 false).setIngotErr n { IngotErr.reset with writeback := [] }).swapParts = s.swapParts :=
    (State.swapParts_setIngotErr _ _ _).trans (s.swapParts_setFlag _ _ (lnStatus_ne_pswapStatus n))
  split
  · exact (foldl_view (v := State.swapParts) (fun i hi s => s.swapParts_powerUp (by have := List.mem_range.mp hi; omega)) _).trans hback
  · exact hback

theorem State.swapParts_ingotScrubbed (s : State) {n : Nat} (h : n < 16) : (s.ingotScrubbed n).swapParts = s.swapParts := by
  unfold State.ingotScrubbed
  extract_lets e s1 old s2
  have h1 : s1.swapParts = s.swapParts := foldl_view (v := State.swapParts) (fun r _ s => s.swapParts_zeroRange r.1 r.2) s
  have h2 : s2.swapParts = s.swapParts :=
    (State.swapParts_setFlag _ _ _ (lnStatus_ne_pswapStatus n)).trans ((State.swapParts_setIngotErr _ _ _).trans h1)
  split
  · exact (State.swapParts_lanternBack _ h).trans h2
  · exact h2

theorem State.swapParts_bankScrubbed (s : State) (k : Nat) : (s.bankScrubbed k).swapParts = s.swapParts := by
  unfold State.bankScrubbed
  exact (State.swapParts_setBank _ _ _).trans (foldl_view (v := State.swapParts) (fun r _ s => s.swapParts_zeroRange r.1 r.2) s)

/-! ### What the flip keeps: the tables of the partitions that do not flip (R258) -/

/-- The active and the shadow table of a partition. -/
def State.tables (s : State) (p : Nat) : WordTab × WordTab := ((s.part p).active, (s.part p).shadow)

/-- What no phase of a swap touches stays, and so do the tables, while the partitions stand in order. -/
structure HoldsTables (s t : State) : Prop where
  view : t.swapView = s.swapView
  ordered : Ordered s.parts → Ordered t.parts
  tables : Ordered s.parts → t.tables = s.tables

namespace HoldsTables

theorem of_parts {s t : State} (h : t.swapParts = s.swapParts) : HoldsTables s t := by
  simp only [State.swapParts, Prod.mk.injEq] at h
  obtain ⟨hview, hparts⟩ := h
  have hpart : t.part = s.part := funext fun p => congrArg (sparseGet Part.reset · p) hparts
  exact ⟨hview, fun h => hparts ▸ h, fun _ => funext fun p => by rw [State.tables, hpart, State.tables]⟩

theorem refl (s : State) : HoldsTables s s := .of_parts rfl

theorem trans {s t u : State} (h : HoldsTables s t) (g : HoldsTables t u) : HoldsTables s u :=
  ⟨g.view.trans h.view, fun ho => g.ordered (h.ordered ho), fun ho => (g.tables (h.ordered ho)).trans (h.tables ho)⟩

theorem foldl {α : Type} {f : State → α → State} (hf : ∀ s a, HoldsTables s (f s a)) (l : List α) (s : State) : HoldsTables s (l.foldl f s) := by
  induction l generalizing s with
  | nil => exact .refl s
  | cons a l ih => exact (hf s a).trans (ih (f s a))

/-- A partition's record is replaced, its tables staying. -/
theorem setPart (s : State) (p : Nat) {v : Part} (ha : v.active = (s.part p).active) (hs : v.shadow = (s.part p).shadow) :
    HoldsTables s (s.setPart p v) := by
  refine ⟨rfl, fun ho => sparseSet_rising _ _ _ _ ho, fun ho => funext fun q => ?_⟩
  by_cases hq : q = p
  · rw [hq, State.tables, State.part_setPart_same _ _ _ ho, ha, hs, State.tables]
  · rw [State.tables, State.part_setPart_other _ _ _ _ hq, State.tables]

theorem unitFree (s : State) (p h : Nat) : HoldsTables s (s.unitFree p h) := by
  obtain ⟨ht, hregs⟩ := s.unitFree_bufsGivenUp p h
  refine .of_parts ?_
  have hreg : (s.unitFree p h).reg Reg.pswapStatus = s.reg Reg.pswapStatus := hregs _ (by decide)
  simp only [State.swapParts, State.swapView, hreg]
  rw [ht]

theorem arbCharge (s : State) (u p t steps : Nat) : HoldsTables s (s.arbCharge u p t steps) := by
  unfold State.arbCharge
  have hcredit : HoldsTables s (s.setCredit u p (s.credit u p - t)) := .of_parts rfl
  refine hcredit.trans (setPart _ p ?_ ?_) <;> rfl

theorem arbEnd (s : State) (u steps : Nat) : HoldsTables s (s.arbEnd u steps) := by
  unfold State.arbEnd
  split
  · exact .refl s
  · exact (arbCharge s _ _ _ _).trans (.of_parts rfl)

theorem streamRel : StreamRel HoldsTables where
  refl := refl
  trans := trans
  unitFree := unitFree
  arbEnd := arbEnd
  only h := .of_parts (by rw [h]; rfl)

theorem partBorn (s : State) (p : Nat) : HoldsTables s (s.partBorn p) := by
  unfold State.partBorn
  extract_lets x s1
  have h1 : HoldsTables s s1 := by
    refine setPart s p ?_ ?_ <;> rfl
  exact h1.trans (.of_parts rfl)

theorem movePart (s : State) (p : Nat) (old new : WordTab) : HoldsTables s (s.movePart p old new) := by
  unfold State.movePart
  refine (HoldsTables.foldl (fun s (e : Nat × Stream) => ?_) _ s).trans (.of_parts rfl)
  split
  · exact .of_parts rfl
  · exact .refl s

theorem leaves (s : State) (p : Nat) : HoldsTables s ((s.removeStreams p).dropOwner p) :=
  (streamRel.foldl (fun s (e : Nat × Stream) => streamRel.removeStream s p e.1) _ s).trans (.of_parts rfl)

end HoldsTables

/-- One partition flips: its active table becomes the new one, and nothing else of the tables changes. -/
theorem State.flipPart_tables {s : State} (ho : Ordered s.parts) (p : Nat) (new : WordTab) :
    (s.flipPart p new).swapView = s.swapView ∧ Ordered (s.flipPart p new).parts ∧
      ∀ q, (s.flipPart p new).tables q = if q = p then (new, (s.tables q).2) else s.tables q := by
  unfold State.flipPart
  extract_lets old s1 x s2 s3
  have h1 : HoldsTables s s1 := by
    unfold s1
    split
    · exact .leaves s p
    · exact .refl s
  have ho1 := h1.ordered ho
  have h2 : s2.swapView = s.swapView ∧ Ordered s2.parts ∧ ∀ q, s2.tables q = if q = p then (new, (s.tables q).2) else s.tables q := by
    refine ⟨h1.view, sparseSet_rising _ _ _ _ ho1, fun q => ?_⟩
    split
    · next hq =>
      rw [hq, State.tables, State.part_setPart_same _ _ _ ho1, ← h1.tables ho]
      rfl
    · next hq =>
      rw [State.tables, State.part_setPart_other _ _ _ _ hq, ← h1.tables ho, State.tables]
  have h3 : HoldsTables s2 s3 := by
    unfold s3
    split
    · exact .partBorn s2 p
    · exact .refl s2
  have hend : ∀ t, HoldsTables s2 t → t.swapView = s.swapView ∧ Ordered t.parts ∧
      ∀ q, t.tables q = if q = p then (new, (s.tables q).2) else s.tables q := by
    intro t h
    obtain ⟨hview, hord, htab⟩ := h2
    exact ⟨h.view.trans hview, h.ordered hord, fun q => (congrFun (h.tables hord) q).trans (htab q)⟩
  split
  · exact hend _ (h3.trans (.movePart s3 p old new))
  · exact hend _ h3

/-- The partitions of a list flip. -/
theorem State.flipParts_tables (f : Nat → WordTab) (l : List Nat) {s : State} (ho : Ordered s.parts) :
    let t := l.foldl (fun s p => s.flipPart p (f p)) s
    t.swapView = s.swapView ∧ Ordered t.parts ∧ ∀ q, t.tables q = if q ∈ l then (f q, (s.tables q).2) else s.tables q := by
  induction l generalizing s with
  | nil => exact ⟨rfl, ho, fun q => by simp⟩
  | cons p l ih =>
    obtain ⟨hview, hord, htab⟩ := State.flipPart_tables ho p (f p)
    obtain ⟨hview', hord', htab'⟩ := ih hord
    refine ⟨hview'.trans hview, hord', fun q => ?_⟩
    have hq := htab' q
    rw [htab q] at hq
    refine hq.trans ?_
    by_cases hp : q = p
    · by_cases hl : q ∈ l <;> simp [hp]
    · by_cases hl : q ∈ l <;> simp [hp, hl]

/-! ### The flip, the report, and what waited (R258-R262) -/

theorem tabAt_range_map (f : Nat → WordTab) {p : Nat} (h : p < 64) : tabAt ((List.range 64).map f) p = f p := listAt_range_map _ _ h

theorem SwapReq.mem_parts {r : SwapReq} {p : Nat} : p ∈ r.parts ↔ p < 64 ∧ r.mask.toNat.testBit p = true := by
  rw [SwapReq.parts, List.mem_filter, List.mem_range]

/-- No request waits behind the swap in progress, and nothing else waits for its end. -/
structure State.SwapAlone (s : State) : Prop where
  queue : s.swap.queue = []
  held : s.swap.held = []
  heldCmds : s.swap.heldCmds = []
  resetPart : s.swap.resetPart = none
  resetBlock : s.swap.resetBlock = none
  activate : s.ozmel.activateWaits = none

/-- No partition of a request loads an image at the flip. -/
def State.LoadsNothing (s : State) (r : SwapReq) : Prop :=
  ∀ p < 64, ∀ e < 64, r.mask.toNat.testBit p = true → loadsImage (s.part p).active (s.part p).shadow e = false

theorem State.newTable_shadow (s : State) {r : SwapReq} {p : Nat} (h : r.reform = none) (hp : r.mask.toNat.testBit p = true) :
    s.newTable r p = (s.part p).shadow := by
  rw [State.newTable, if_pos hp, h]

/-- The loads of a flip: entries of its partitions that load an image. -/
def State.flipLoads (s : State) (r : SwapReq) : List (Nat × Nat) :=
  (r.parts.flatMap fun p => (List.range 64).map fun e => (p, e)).filter fun x =>
    loadsImage (tabAt ((List.range 64).map fun p => (s.part p).active) x.1) (tabAt (s.newTables r) x.1) x.2

theorem State.flipLoads_still {s : State} {r : SwapReq} (h : r.reform = none) (hstill : s.LoadsNothing r) : s.flipLoads r = [] := by
  refine List.filter_eq_nil_iff.mpr fun x hx => ?_
  obtain ⟨p, hp, hx⟩ := List.mem_flatMap.mp hx
  obtain ⟨e, he, rfl⟩ := List.mem_map.mp hx
  obtain ⟨hlt, hbit⟩ := SwapReq.mem_parts.mp hp
  dsimp only
  rw [tabAt_range_map _ hlt, State.newTables, tabAt_range_map _ hlt, s.newTable_shadow h hbit, hstill p hlt e (List.mem_range.mp he) hbit]
  decide

/-- The flip as it runs: each partition takes its table of the state in which the flip began. -/
def State.flippedTo (s : State) (r : SwapReq) : State :=
  let new := s.newTables r
  r.parts.foldl (fun s p => s.flipPart p (tabAt new p)) s

theorem State.swapFlip_still {s : State} {r : SwapReq} (h : r.reform = none) (hstill : s.LoadsNothing r) (fault : Bool) :
    s.swapFlip r fault = (s.flippedTo r, none) := by
  have hflip : s.swapFlip r fault = match r.reform with
      | none => (s.flippedTo r).swapLoads fault (s.flipLoads r)
      | some (p, e, n) => ((((s.flippedTo r).swapLoads fault (s.flipLoads r)).1.reformShadow p
          (tabAt ((List.range 64).map fun p => (s.part p).active) p) (tabAt (s.newTables r) p)).reformReport p e n,
          ((s.flippedTo r).swapLoads fault (s.flipLoads r)).2) := rfl
  rw [hflip, h, State.flipLoads_still h hstill]
  rfl

theorem State.flippedTo_spec {s : State} {r : SwapReq} (h : r.reform = none) (ho : Ordered s.parts) : (s.flippedTo r).swapView = s.swapView ∧
    ∀ p < 64, (s.flippedTo r).tables p = (if r.mask.toNat.testBit p then (s.part p).shadow else (s.part p).active, (s.part p).shadow) := by
  obtain ⟨hview, -, htab⟩ := State.flipParts_tables (tabAt (s.newTables r)) r.parts ho
  refine ⟨hview, fun p hp => (htab p).trans ?_⟩
  by_cases hbit : r.mask.toNat.testBit p = true
  · rw [if_pos (SwapReq.mem_parts.mpr ⟨hp, hbit⟩), if_pos hbit, State.newTables, tabAt_range_map _ hp, s.newTable_shadow h hbit]
    rfl
  · rw [if_neg fun hm => hbit (SwapReq.mem_parts.mp hm).2, if_neg hbit]
    rfl

theorem State.flippedTo_kept (s : State) (r : SwapReq) : Kept s (s.flippedTo r) := .foldl (Kept.refl s) fun _ _ h => State.flipPart_kept _ _ h

theorem State.applyHeld_none {s : State} (h : s.swap.held = []) (hc : s.swap.heldCmds = []) : s.applyHeld = s := by
  have hswap : ({ s.swap with held := [], heldCmds := [] } : Swap) = s.swap := by rw [← h, ← hc]
  unfold State.applyHeld
  rw [hswap, h, hc]
  rfl

/-- A swap that nothing waits for ends the work of its request. -/
theorem State.afterSwap_alone {s : State} (h : s.SwapAlone) : s.applyHeld.afterSwap = s := by
  rw [State.applyHeld_none h.held h.heldCmds]
  unfold State.afterSwap
  simp only [h.resetPart, h.resetBlock, h.activate]
  exact State.swapNext_empty h.queue

/-- The request in progress is taken away. -/
def State.noSwap (s : State) : State := { s with swap := { s.swap with current := none } }

theorem State.SwapAlone.noSwap {s : State} (h : s.SwapAlone) : s.noSwap.SwapAlone := ⟨h.1, h.2, h.3, h.4, h.5, h.6⟩

theorem State.SwapAlone.congr {s t : State} (h : s.SwapAlone) (hs : t.swap = s.swap) (ho : t.ozmel = s.ozmel) : t.SwapAlone := by
  obtain ⟨h1, h2, h3, h4, h5, h6⟩ := h
  exact ⟨hs ▸ h1, hs ▸ h2, hs ▸ h3, hs ▸ h4, hs ▸ h5, ho ▸ h6⟩

/-- The end of a request that nothing waits for. -/
theorem State.swapOver {s : State} (hr : Rising s.regs) (ha : s.SwapAlone) (r : SwapReq) (st : Status) (d : Word) :
    (s.noSwap.swapReport r st d).applyHeld.afterSwap = s.noSwap.swapReport r st d ∧
      ReportGiven r st d s.noSwap (s.noSwap.swapReport r st d) := by
  have hgiven := State.swapReport_given (s := s.noSwap) hr r st d
  have hswap : (s.noSwap.swapReport r st d).swap = s.noSwap.swap := by rw [hgiven.frame]
  have hozmel : (s.noSwap.swapReport r st d).ozmel = s.noSwap.ozmel := by rw [hgiven.frame]
  exact ⟨State.afterSwap_alone (ha.noSwap.congr hswap hozmel), hgiven⟩

theorem State.swapFinish_done {s : State} (hc : s.Canonical) {r : SwapReq} (h : r.reform = none) (hstill : s.LoadsNothing r) (ha : s.SwapAlone)
    (fault : Bool) : SwapDone r s (s.swapFinish r fault) := by
  obtain ⟨hview, htab⟩ := State.flippedTo_spec h hc.ordParts
  have hrise := ((s.flippedTo_kept r).canonical hc).rising
  have hfinish : s.swapFinish r fault =
      ((s.flippedTo r).noSwap.swapReport r .ok (BitVec.ofNat 32 ((s.flippedTo r).swapUs r))).applyHeld.afterSwap := by
    unfold State.swapFinish
    rw [State.swapFlip_still h hstill]
    rfl
  rw [hfinish]
  generalize s.flippedTo r = u at hview htab hrise
  simp only [State.swapView, Prod.mk.injEq] at hview
  obtain ⟨hswap, hozmel, hhost, hflash, htb, -⟩ := hview
  obtain ⟨hover, hgiven⟩ := State.swapOver hrise (ha.congr hswap hozmel) r .ok (BitVec.ofNat 32 (u.swapUs r))
  rw [hover]
  have hnow : u.noSwap.nowNs = s.nowNs := by
    simp only [State.nowNs, State.tbNs]
    rw [show u.noSwap.tb = s.tb from htb]
  obtain ⟨hphase, hcode, hus, -, hframe, -⟩ := hgiven
  generalize u.noSwap.swapReport r .ok (BitVec.ofNat 32 (u.swapUs r)) = t at hphase hcode hus hframe
  have htables : ∀ p, t.tables p = u.tables p := fun p => by rw [hframe]; rfl
  refine ⟨by rw [hframe]; rfl, fun p hp => ?_, fun p hp => ?_, hphase, hcode, hnow ▸ hus, ?_, ?_, ?_⟩
  · exact congrArg Prod.fst ((htables p).trans (htab p hp))
  · exact congrArg Prod.snd ((htables p).trans (htab p hp))
  · rw [hframe]; exact hhost
  · rw [hframe]; exact hflash
  · rw [hframe]; exact htb

theorem State.swapAborted_spec {s : State} (hr : Rising s.regs) (ha : s.SwapAlone) (r : SwapReq) :
    (s.swapAborted r).swap.current = none ∧ (s.swapAborted r).parts = s.parts ∧ (s.swapAborted r).fld Reg.pswapStatus 31 28 = 0 ∧
      (s.swapAborted r).fld Reg.pswapStatus 23 16 = Status.aborted.code := by
  obtain ⟨hover, hphase, hcode, -, -, hframe, -⟩ := State.swapOver hr ha r .aborted 0
  have heq : s.swapAborted r = s.noSwap.swapReport r .aborted 0 := hover
  rw [heq]
  exact ⟨by rw [hframe]; rfl, by rw [hframe]; rfl, hphase, hcode⟩

/-! ### The phases (R258, R274) -/

theorem State.swapParts_eqs {s t : State} (h : t.swapParts = s.swapParts) : t.swap = s.swap ∧ t.ozmel = s.ozmel ∧ t.host = s.host ∧
    t.flash = s.flash ∧ t.tb = s.tb ∧ t.reg Reg.pswapStatus = s.reg Reg.pswapStatus ∧ t.parts = s.parts := by
  simp only [State.swapParts, State.swapView, Prod.mk.injEq] at h
  obtain ⟨⟨hswap, hozmel, hhost, hflash, htb, hstatus⟩, hparts⟩ := h
  exact ⟨hswap, hozmel, hhost, hflash, htb, hstatus, hparts⟩

theorem State.part_congr_parts {s t : State} (h : t.parts = s.parts) (p : Nat) : t.part p = s.part p := congrArg (sparseGet Part.reset · p) h

theorem State.LoadsNothing.congr {s t : State} {r : SwapReq} (h : s.LoadsNothing r) (hp : t.parts = s.parts) : t.LoadsNothing r := by
  intro p hlt e he hbit
  rw [State.part_congr_parts hp]
  exact h p hlt e he hbit

/-- The end of a swap as it is seen from a state with the same partitions, requests, and time. -/
theorem SwapDone.of_parts {r : SwapReq} {s u t : State} (h : SwapDone r u t) (hu : u.swapParts = s.swapParts) : SwapDone r s t := by
  obtain ⟨-, -, hhost, hflash, htb, -, hparts⟩ := State.swapParts_eqs hu
  obtain ⟨hcur, hactive, hshadow, hphase, hcode, hus, thost, tflash, ttb⟩ := h
  have hnow : u.nowNs = s.nowNs := by simp only [State.nowNs, State.tbNs, htb]
  refine ⟨hcur, fun p hp => ?_, fun p hp => ?_, hphase, hcode, hnow ▸ hus, thost.trans hhost, tflash.trans hflash, ttb.trans htb⟩
  · rw [hactive p hp, State.part_congr_parts hparts]
  · rw [hshadow p hp, State.part_congr_parts hparts]

/-- The active tables of all partitions. -/
def State.activeTables (s : State) : List WordTab := (List.range 64).map fun p => (s.part p).active

theorem exec_swapDrainEnd_aborted {s : State} {r : SwapReq} (h : s.swap.current = some r) (hs : r.scrubs = []) (ha : r.aborted = true) (f : Bool) :
    exec (.swapDrainEnd f) s = .next (s.swapAborted r) := by
  refine congrArg Host.Outcome.next ?_
  unfold State.drainEnd
  rw [h]
  exact (if_neg (fun hne => hne hs)).trans (if_pos ha)

theorem exec_swapDrainEnd {s : State} {r : SwapReq} (h : s.swap.current = some r) (hs : r.scrubs = []) (ha : r.aborted = false)
    (hdrained : ∀ c ∈ s.cmds, (c.draining && s.inScope r c) = false) (hunbound : s.unbindLeaving r = s)
    (hover : r.late = true ∨ s.leavingOver r = true) (f : Bool) : exec (.swapDrainEnd f) s = .next (s.drained r f) := by
  refine congrArg Host.Outcome.next ?_
  have hno : ((s.cmds.any fun c => c.draining && s.inScope r c) || !(r.late || s.leavingOver r)) = false := by
    have hany : (s.cmds.any fun c => c.draining && s.inScope r c) = false := List.any_eq_false.mpr fun c hc => by simp [hdrained c hc]
    rw [hany]
    rcases hover with h | h <;> simp [h]
  unfold State.drainEnd
  rw [h]
  refine (if_neg (fun hne => hne hs)).trans ((if_neg (by simp [ha])).trans ?_)
  rw [hunbound]
  exact if_neg (by rw [hno]; decide)

theorem State.drained_still {s : State} {r : SwapReq} (h : (s.swapPower s.activeTables (s.newTables r)).scrubUnits s.activeTables (s.newTables r) = [])
    (f : Bool) : s.drained r f = (s.swapPower s.activeTables (s.newTables r)).swapFinish r f := by
  have hd : s.drained r f = match (s.swapPower s.activeTables (s.newTables r)).scrubUnits s.activeTables (s.newTables r) with
      | [] => (s.swapPower s.activeTables (s.newTables r)).swapFinish r f
      | us => { ((s.swapPower s.activeTables (s.newTables r)).setPhase 3).swapScrub s.activeTables (s.newTables r) with
                swap := { (s.swapPower s.activeTables (s.newTables r)).swap with current := some { r with scrubs := us, loadFault := f } } } := rfl
  rw [hd, h]

/-- The scrub phase as it begins. -/
def State.scrubbing (s : State) (old new : List WordTab) (r : SwapReq) : State :=
  { ((s.swapPower old new).setPhase 3).swapScrub old new with swap := { (s.swapPower old new).swap with current := some r } }

theorem State.drained_scrubs {s : State} {r : SwapReq} {us : List Nat} (hus : us ≠ [])
    (h : (s.swapPower s.activeTables (s.newTables r)).scrubUnits s.activeTables (s.newTables r) = us) (f : Bool) :
    s.drained r f = s.scrubbing s.activeTables (s.newTables r) { r with scrubs := us, loadFault := f } := by
  have hd : s.drained r f = match (s.swapPower s.activeTables (s.newTables r)).scrubUnits s.activeTables (s.newTables r) with
      | [] => (s.swapPower s.activeTables (s.newTables r)).swapFinish r f
      | us => s.scrubbing s.activeTables (s.newTables r) { r with scrubs := us, loadFault := f } := rfl
  rw [hd, h]
  cases us with
  | nil => exact absurd rfl hus
  | cons _ _ => rfl

theorem State.scrubbing_spec {s : State} (hc : s.Canonical) (old new : List WordTab) (r : SwapReq) :
    (s.scrubbing old new r).swap = { s.swap with current := some r } ∧ (s.scrubbing old new r).fld Reg.pswapStatus 31 28 = 11 ∧
      (s.scrubbing old new r).parts = s.parts := by
  obtain ⟨hswap, -, -, -, -, -, hparts⟩ := State.swapParts_eqs (s.swapParts_swapPower old new)
  obtain ⟨-, -, -, -, -, hstatus, hparts'⟩ := State.swapParts_eqs (((s.swapPower old new).setPhase 3).swapParts_swapScrub old new)
  have hrise := ((State.swapPower_kept old new (Kept.refl s)).canonical hc).rising
  refine ⟨?_, ?_, hparts'.trans hparts⟩
  · show ({ (s.swapPower old new).swap with current := some r } : Swap) = _
    rw [hswap]
  · exact (congrArg (bitsOf · 31 28) hstatus).trans (State.fld_setFld_same _ _ _ _ _ hrise (by decide))

/-! ### Scrubs end (R91, R258) -/

theorem State.unitScrubbed_last {u : State} {r : SwapReq} {i : Nat} (h : u.swap.current = some r) (hi : r.scrubs.contains i = true)
    (ha : r.aborted = false) (hl : r.scrubs.filter (· != i) = []) : u.unitScrubbed i = u.swapFinish { r with scrubs := [] } r.loadFault := by
  unfold State.unitScrubbed
  rw [h]
  refine (if_pos hi).trans ?_
  rw [hl]
  exact if_neg (by simp [ha])

theorem State.unitScrubbed_more {u : State} {r : SwapReq} {i : Nat} {l : List Nat} (h : u.swap.current = some r) (hi : r.scrubs.contains i = true)
    (hl : r.scrubs.filter (· != i) = l) (hne : l ≠ []) :
    u.unitScrubbed i = { u with swap := { u.swap with current := some { r with scrubs := l } } } := by
  unfold State.unitScrubbed
  rw [h]
  refine (if_pos hi).trans ?_
  rw [hl]
  cases l with
  | nil => exact absurd rfl hne
  | cons _ _ => rfl

/-- The end of a unit's scrub, before the swap that waits for it goes on. -/
theorem exec_scrubComplete {s : State} {u : ScrubUnit} {i : Nat}
    (hu : (∃ n : LnIx, u = .ingot n ∧ i = n.val) ∨ (∃ k : CbIx, u = .crucible k ∧ i = 16 + k.val)) :
    ∃ v : State, exec (.scrubComplete u) s = .next (v.unitScrubbed i) ∧ v.swapParts = s.swapParts ∧ Kept s v := by
  rcases hu with ⟨n, rfl, rfl⟩ | ⟨k, rfl, rfl⟩
  · exact ⟨_, rfl, s.swapParts_ingotScrubbed n.isLt, State.ingotScrubbed_kept _ (Kept.refl s)⟩
  · exact ⟨_, rfl, s.swapParts_bankScrubbed k.val, State.bankScrubbed_kept _ (Kept.refl s)⟩

/-- A request that stands alone in the queue starts. -/
theorem State.swapNext_queued {s u : State} {r : SwapReq} (hcur : s.swap.current = none) (hq : s.swap.queue = [])
    (hh : s.ozmel.handover = none) (hu : u.swap = s.swap := by rfl) (ho : u.ozmel = s.ozmel := by rfl) :
    (u.queueSwap r).swapNext = (u.queueSwap r).swapStart [r] := by
  have hqueue : (u.queueSwap r).swap.queue = [r] := by
    show u.swap.queue ++ [r] = [r]
    rw [hu, hq, List.nil_append]
  have hcurrent : (u.queueSwap r).swap.current = none := by
    show u.swap.current = none
    rw [hu, hcur]
  rw [State.swapNext_free hcurrent (by rw [← hh, ← ho]; rfl), hqueue]

theorem State.endCmd_updCmd (s : State) (id : Nat) (st : Status) (d : Word) :
    ((s.updCmd id fun c => { c with phase := .active }).endCmd id st d).cmds = (s.endCmd id st d).cmds := by
  simp only [State.endCmd, State.updCmd, List.map_map]
  refine List.map_congr_left fun c _ => ?_
  by_cases h : c.id = id <;> simp [h]

/-- A PART_SWAP whose check fails is reported at once. -/
theorem exec_partSwap_refused {s : State} {c : Cmd} {st : Status} {d : Word} (hr : Rising s.regs) (hc : s.MgmtIssued c 0x81) (hm : c.par 0 8 ≠ 0)
    (hcur : s.swap.current = none) (hq : s.swap.queue = [])
    (hcheck : ((s.updCmd c.id fun c => { c with phase := .active }).queueSwap (c.swapReq s)).swapCheck (c.swapReq s) = some (st, d)) :
    ∃ u : State, exec (.partSwap c.id) s = .next u.emptyQueue ∧
      ReportGiven (c.swapReq s) st d ((s.updCmd c.id fun c => { c with phase := .active }).queueSwap (c.swapReq s)) u := by
  have hrise : Rising ((s.updCmd c.id fun c => { c with phase := .active }).queueSwap (c.swapReq s)).regs := hr
  refine ⟨_, ?_, State.swapReport_given hrise (c.swapReq s) st d⟩
  refine (exec_partSwap hc).trans (congrArg _ ((s.opPartSwap_queued hm).trans ?_))
  rw [State.swapNext_queued hcur hq (State.mgmtTurn_handover hc.2)]
  exact State.swapStart_refused rfl hcheck

theorem refused_spec {s u : State} {c : Cmd} {st : Status} {d : Word}
    (h : ReportGiven (c.swapReq s) st d ((s.updCmd c.id fun c => { c with phase := .active }).queueSwap (c.swapReq s)) u) :
    u.emptyQueue.fld Reg.pswapStatus 31 28 = 0 ∧ u.emptyQueue.fld Reg.pswapStatus 23 16 = st.code ∧
      u.emptyQueue.cmds = (s.endCmd c.id st d).cmds ∧
      u.emptyQueue = { s with regs := u.emptyQueue.regs, cmds := u.emptyQueue.cmds, swap := { s.swap with queue := [] } } ∧
      SameRegs s u.emptyQueue [Reg.pswapStatus] := by
  obtain ⟨hphase, hcode, -, hcmds, hframe, hregs⟩ := h
  refine ⟨hphase, hcode, hcmds.trans (s.endCmd_updCmd c.id st d), ?_, hregs⟩
  unfold State.emptyQueue
  rw [hframe]
  rfl

/-- Settles O39: PART_SWAP, a re-form, the drain limit, and the phases of a swap that nothing waits for. -/
theorem partitionSwapPhases : Obligations.PartitionSwapPhases := by
  unfold Obligations.PartitionSwapPhases
  refine ⟨fun s c hc => ⟨fun h0 hcan => ?_, fun hm hcur => ?_, fun hm hcur hq => ⟨fun hcheck => ?_, fun st d hcan hcheck => ?_⟩⟩,
    fun s p e n hv hb hf hm => ⟨fun hcur => ?_, fun hcur hh hq => ?_⟩, fun s r hcur => ⟨fun h => ?_, fun hlate hs => ?_⟩,
    fun s r hcan hcur href hq hheld hcmds hrp hrb hact => ⟨?_, ?_, ?_, ?_⟩⟩
  · obtain ⟨hword, hcmds, hframe, hregs⟩ := State.swapResult_given hcan.rising (c.swapReq s) .ok 0
    obtain ⟨hcode, hus, -⟩ := resultWord_spec (s.reg Reg.pswapStatus) ((s.nowNs - (c.swapReq s).arrived) / 1000) (Status.code_lt .ok)
    have hzero : min 0xFFFF ((s.nowNs - (c.swapReq s).arrived) / 1000) = 0 := by
      rw [show (c.swapReq s).arrived = s.nowNs from rfl, Nat.sub_self]
      decide
    refine ⟨_, (exec_partSwap hc).trans (congrArg _ (s.opPartSwap_empty h0)), (congrArg (bitsOf · 23 16) hword).trans hcode,
      (congrArg (bitsOf · 15 0) hword).trans (hus.trans hzero), ?_, hregs⟩
    exact hframe.trans (by rw [hcmds]; rfl)
  · exact (exec_partSwap hc).trans (congrArg _ ((s.opPartSwap_queued hm).trans (State.swapNext_behind hcur)))
  · refine (exec_partSwap hc).trans (congrArg _ ((s.opPartSwap_queued hm).trans ?_))
    rw [State.swapNext_queued hcur hq (State.mgmtTurn_handover hc.2)]
    exact State.swapStart_passed rfl hcheck
  · obtain ⟨u, hexec, hgiven⟩ := exec_partSwap_refused hcan.rising hc hm hcur hq hcheck
    obtain ⟨hphase, hcode, hcmds, hframe, hregs⟩ := refused_spec hgiven
    exact ⟨_, hexec, hcmds, hphase, hcode, hframe, hregs⟩
  · exact (exec_gangReform hv hb hf hm).trans (congrArg _ (State.swapNext_behind hcur))
  · refine (exec_gangReform hv hb hf hm).trans (congrArg _ ?_)
    rw [State.swapNext_queued (s := s) hcur hq hh]
    exact State.swapStart_reform rfl hm
  · rw [exec_swapDrainTimeout hcur]
    exact congrArg _ (if_pos h)
  · rw [exec_swapDrainTimeout hcur]
    exact congrArg _ (if_neg (not_or.mpr ⟨Nat.not_lt.mpr hlate, fun hne => hne hs⟩))
  all_goals have ha : s.SwapAlone := ⟨hq, hheld, hcmds, hrp, hrb, hact⟩
  · rintro hab hs ⟨hdrained, hunbound, hover⟩ hus hstill
    have hpower := s.swapParts_swapPower s.activeTables (s.newTables r)
    obtain ⟨hswap, hozmel, -, -, -, -, hparts⟩ := State.swapParts_eqs hpower
    have hcan' := (State.swapPower_kept s.activeTables (s.newTables r) (Kept.refl s)).canonical hcan
    exact ⟨_, (exec_swapDrainEnd hcur hs hab hdrained hunbound hover false).trans (congrArg _ (State.drained_still hus false)),
      (State.swapFinish_done hcan' href (State.LoadsNothing.congr hstill hparts) (ha.congr hswap hozmel) false).of_parts hpower⟩
  · rintro hab hs ⟨hdrained, hunbound, hover⟩ hus
    obtain ⟨hswap, hphase, hparts⟩ := State.scrubbing_spec hcan s.activeTables (s.newTables r)
      { r with scrubs := (s.swapPower s.activeTables (s.newTables r)).scrubUnits s.activeTables (s.newTables r), loadFault := false }
    exact ⟨_, (exec_swapDrainEnd hcur hs hab hdrained hunbound hover false).trans (congrArg _ (State.drained_scrubs hus rfl false)), hswap, hphase,
      hparts⟩
  · intro u i l hab hfault hi hl hu
    obtain ⟨v, hexec, hview, hkept⟩ := exec_scrubComplete (s := s) hu
    obtain ⟨hswap, hozmel, -, -, -, -, hparts⟩ := State.swapParts_eqs hview
    have hcur' : v.swap.current = some r := hswap ▸ hcur
    refine ⟨fun hnil hstill => ?_, fun hne => ?_⟩
    · have hdone := State.swapFinish_done (r := { r with scrubs := [] }) (hkept.canonical hcan) href (State.LoadsNothing.congr hstill hparts)
        (ha.congr hswap hozmel) r.loadFault
      exact ⟨_, hexec.trans (congrArg _ (State.unitScrubbed_last hcur' hi hab (hl.trans hnil))), SwapDone.of_parts hdone hview⟩
    · refine ⟨_, hexec.trans (congrArg _ (State.unitScrubbed_more hcur' hi hl hne)), hparts, ?_⟩
      rw [hswap]
  · intro hab hs f
    obtain ⟨hnone, hparts, hphase, hcode⟩ := State.swapAborted_spec hcan.rising ha r
    exact ⟨_, exec_swapDrainEnd_aborted hcur hs hab f, hnone, hparts, hphase, hcode⟩

end Sys2Proof.Machine

/-!
PROOF. Ozmel's loops, the handover, the slots, the trouble log and the frames of the exception queue (R173, R348, R355-R363).
-/

namespace Sys2Proof.Machine

/-! ### The supply loop (R359) -/

/-- The command moves by at most 10 mV in a step and reaches a goal that lies within its steps. -/
theorem rampMv_spec (goal n v : Nat) : rampMv goal n v ≤ v + 10 * n ∧ v ≤ rampMv goal n v + 10 * n ∧
    (v ≤ goal + 10 * n → goal ≤ v + 10 * n → rampMv goal n v = goal) := by
  induction n generalizing v with
  | zero => exact ⟨Nat.le_refl v, Nat.le_refl v, fun h1 h2 => Nat.le_antisymm h1 h2⟩
  | succ n ih =>
    rw [rampMv]
    split
    · obtain ⟨hup, hdown, hgoal⟩ := ih (v + 10)
      exact ⟨by omega, by omega, fun h1 h2 => hgoal (by omega) (by omega)⟩
    split
    · obtain ⟨hup, hdown, hgoal⟩ := ih (v - 10)
      exact ⟨by omega, by omega, fun h1 h2 => hgoal (by omega) (by omega)⟩
    · obtain ⟨hup, hdown, hgoal⟩ := ih goal
      exact ⟨by omega, by omega, fun h1 h2 => hgoal (by omega) (by omega)⟩

/-- The state that a control cycle works on: the interrupt taken, VFLOOR following the target. -/
def State.avsFloor (s : State) : State :=
  let s0 : State := { s with tb := { s.tb with cycleIrq := false } }
  if s.flag Reg.fabCtrl 0 = true ∧ s.fabric.worstPs ≠ 0 then s0.setFloor s.fabric.worstPs else s0

theorem State.setFloor_frame (s : State) (w : Nat) : (s.setFloor w).fabric = s.fabric ∧ (s.setFloor w).freeCtr = s.freeCtr := by
  unfold State.setFloor
  split <;> exact ⟨rfl, rfl⟩

theorem State.avsFloor_frame (s : State) : s.avsFloor.fabric = s.fabric ∧ s.avsFloor.freeCtr = s.freeCtr := by
  unfold State.avsFloor
  split
  · exact State.setFloor_frame _ _
  · exact ⟨rfl, rfl⟩

/-- The supply after a silent cycle. -/
def State.avsSilent (s : State) (c : Nat) : State := { s.avsFloor with fabric := { s.fabric with vSilent := s.fabric.vSilent + 1, vCmdMv := c } }

section
variable {s : State} (h : s.loopsRun = true)

include h

theorem exec_avsCycle_none : exec (.avsCycle none) s =
    .next (if s.fabric.vSilent + 1 = 3 then
      (s.avsSilent (if s.fabric.vSilent + 1 < 3 then rampMv s.goalMv s.rampSteps s.fabric.vCmdMv else s.fabric.vCmdMv)).troubleLog 0x0A40 2 []
      else s.avsSilent (if s.fabric.vSilent + 1 < 3 then rampMv s.goalMv s.rampSteps s.fabric.vCmdMv else s.fabric.vCmdMv)) :=
  congrArg Host.Outcome.next (if_neg (by simp [h]))

/-- The supply after a cycle with a reading. -/
def State.avsRead (s x : State) (v goal : Nat) : State :=
  { x with fabric := { x.fabric with vddMv := v, vSilent := 0, vCmdMv := rampMv goal s.rampSteps s.fabric.vCmdMv } }

/-- The goal moved against the rail's error. -/
def State.avsGoal (s : State) (v k : Nat) : Nat :=
  if s.fabric.vCmdMv + 5 < v then max 600 (s.goalMv - k) else if v + 5 < s.fabric.vCmdMv then min s.capMv (s.goalMv + k) else s.goalMv

omit h in
theorem State.avsGoal_off {v : Nat} (s : State) (k : Nat) (hoff : s.fabric.vCmdMv + 5 < v ∨ v + 5 < s.fabric.vCmdMv) :
    s.avsGoal v k = if s.fabric.vCmdMv + 5 < v then max 600 (s.goalMv - k) else min s.capMv (s.goalMv + k) := by
  unfold State.avsGoal
  split
  · rfl
  · next hhi => exact if_pos (hoff.resolve_left hhi)

omit h in
theorem State.avsRead_drawn {u : State} (hfabric : u.fabric = s.fabric) (hfree : u.freeCtr = s.freeCtr) (v goal : Nat) :
    s.avsRead u.drawFree.2 v goal = { u with
      freeCtr := s.freeCtr + 1
      fabric := { s.fabric with vddMv := v, vSilent := 0, vCmdMv := rampMv goal s.rampSteps s.fabric.vCmdMv } } := by
  unfold State.avsRead
  rw [← hfabric, ← hfree]
  rfl

theorem exec_avsCycle_some (v : Nat) : exec (.avsCycle (some v)) s =
    .next (s.avsRead (if s.fabric.vCmdMv + 5 < v ∨ v + 5 < s.fabric.vCmdMv then s.avsFloor.drawFree else (0, s.avsFloor)).2 v
      (s.avsGoal v ((if s.fabric.vCmdMv + 5 < v ∨ v + 5 < s.fabric.vCmdMv then s.avsFloor.drawFree else (0, s.avsFloor)).1.toNat % 10 + 1))) :=
  congrArg Host.Outcome.next (if_neg (by simp [h]))

end

/-! ### Reports of the loops (R353, R363) -/

/-- What the loops hold of Ozmel, apart from its log and its mailboxes. -/
def Ozmel.knobs (o : Ozmel) : Bool × LoopConsts × Nat × Nat × Bool × Int × List SlotState :=
  (o.throttled, o.consts, o.powerRate, o.thermalRate, o.fanFail, o.fanDuty, o.slotStates)

/-- A report leaves the fabric, the flash, the loops' values and the registers but SOOT_DROP. -/
structure LoopsKept (s t : State) : Prop where
  fabric : t.fabric = s.fabric
  flash : t.flash = s.flash
  knobs : t.ozmel.knobs = s.ozmel.knobs
  regs : SameRegs s t [Reg.sootDrop]

theorem LoopsKept.trans {s t u : State} (h : LoopsKept s t) (g : LoopsKept t u) : LoopsKept s u :=
  ⟨g.fabric.trans h.fabric, g.flash.trans h.flash, g.knobs.trans h.knobs, fun o ho => (g.regs o ho).trans (h.regs o ho)⟩

theorem LoopsKept.drawFree (s : State) : LoopsKept s s.drawFree.2 := ⟨rfl, rfl, rfl, fun _ _ => rfl⟩

theorem LoopsKept.notify (s : State) (f id : Nat) (pl : List Byte) : LoopsKept s (s.notify f id pl) := by
  unfold State.notify
  dsimp only
  split <;> exact ⟨rfl, rfl, rfl, fun _ _ => rfl⟩

theorem LoopsKept.sootEvent (s : State) (code : Nat) (arg : Dword) (part : Option Nat) : LoopsKept s (s.sootEvent code arg part) := by
  have h := State.sootEvent_eq s code arg part
  have hozmel : (s.sootEvent code arg part).ozmel = s.ozmel := by rw [h]
  exact ⟨by rw [h], by rw [h], congrArg Ozmel.knobs hozmel, fun o ho => State.reg_sootEvent _ _ _ _ _ (by simpa using ho)⟩

/-- The log, its next sequence and its repeats replaced. -/
def State.setLog (s : State) (log : List LogEntry) (seq : Nat) (rep : Tab (Nat × Nat)) : State :=
  { s with ozmel := { s.ozmel with log := log, logSeq := seq, logRepeat := rep } }

theorem LoopsKept.setLog (s : State) (log : List LogEntry) (seq : Nat) (rep : Tab (Nat × Nat)) : LoopsKept s (s.setLog log seq rep) :=
  ⟨rfl, rfl, rfl, fun _ _ => rfl⟩

theorem State.mailbox_setLog (s : State) (log : List LogEntry) (seq : Nat) (rep : Tab (Nat × Nat)) (f : Nat) :
    (s.setLog log seq rep).mailbox f = s.mailbox f := rfl

/-- A log entry is held, and notified from ERROR on. -/
theorem State.logEntry_eq (s : State) (code severity : Nat) (data : List Byte) (repeats : Nat) : ∃ log seq rep e,
    s.logEntry code severity data repeats = if 2 ≤ severity then (s.setLog log seq rep).notify 0 0x4003 e else s.setLog log seq rep :=
  ⟨_, _, _, _, rfl⟩

theorem LoopsKept.logEntry (s : State) (code severity : Nat) (data : List Byte) (repeats : Nat) :
    LoopsKept s (s.logEntry code severity data repeats) := by
  obtain ⟨log, seq, rep, e, h⟩ := s.logEntry_eq code severity data repeats
  rw [h]
  split
  · exact (LoopsKept.setLog s _ _ _).trans (.notify _ _ _ _)
  · exact .setLog s _ _ _

theorem LoopsKept.troubleLog (s : State) (code severity : Nat) (data : List Byte) : LoopsKept s (s.troubleLog code severity data) := by
  unfold State.troubleLog
  split
  · exact .logEntry _ _ _ _ _
  · split
    · exact ⟨rfl, rfl, rfl, fun _ _ => rfl⟩
    · exact .logEntry _ _ _ _ _

/-! ### Notifications (R352) -/

theorem State.mailbox_notify (s : State) (f id : Nat) (pl : List Byte) (h : (s.mailbox f).notifs.length < 32) :
    (s.notify f id pl).mailbox f = { s.mailbox f with notifs := (s.mailbox f).notifs ++ [mbMessage id 0 0 pl] } := by
  unfold State.notify
  exact (congrArg (State.mailbox · f) (if_pos h)).trans (State.mailbox_setMailbox _ _ fun he => by simpa using congrArg Mailbox.notifs he)

/-- A notification goes behind those that wait, or is dropped. -/
theorem State.notifs_notify (s : State) (f id : Nat) (pl : List Byte) : ∃ m, ((s.notify f id pl).mailbox f).notifs = (s.mailbox f).notifs ++ m := by
  by_cases h : (s.mailbox f).notifs.length < 32
  · exact ⟨_, congrArg Mailbox.notifs (s.mailbox_notify f id pl h)⟩
  · unfold State.notify
    refine ⟨[], ?_⟩
    rw [List.append_nil]
    have hdrop := State.mailbox_setMailbox s f (v := { s.mailbox f with lost := (s.mailbox f).lost + 1 }) fun he =>
      absurd (congrArg Mailbox.lost he) (Nat.succ_ne_zero _)
    exact (congrArg (fun t : State => (t.mailbox f).notifs) (if_neg h)).trans (by rw [hdrop])

theorem State.mailbox_sootEvent (s : State) (code : Nat) (arg : Dword) (part : Option Nat) (f : Nat) :
    (s.sootEvent code arg part).mailbox f = s.mailbox f := by
  have hozmel : (s.sootEvent code arg part).ozmel = s.ozmel := by rw [State.sootEvent_eq]
  exact congrArg (fun o : Ozmel => sparseGet ⟨[], [], [], 0⟩ o.mailboxes f) hozmel

theorem State.notifs_logEntry (s : State) (code severity : Nat) (data : List Byte) (repeats : Nat) :
    ∃ m, ((s.logEntry code severity data repeats).mailbox 0).notifs = (s.mailbox 0).notifs ++ m := by
  obtain ⟨log, seq, rep, e, h⟩ := s.logEntry_eq code severity data repeats
  rw [h]
  split
  · exact State.notifs_notify _ _ _ _
  · exact ⟨[], (List.append_nil _).symm⟩

theorem State.notifs_troubleLog (s : State) (code severity : Nat) (data : List Byte) :
    ∃ m, ((s.troubleLog code severity data).mailbox 0).notifs = (s.mailbox 0).notifs ++ m := by
  unfold State.troubleLog
  split
  · exact State.notifs_logEntry _ _ _ _ _
  · split
    · exact ⟨[], (List.append_nil _).symm⟩
    · exact State.notifs_logEntry _ _ _ _ _

/-- Entries below ERROR are not notified. -/
theorem State.mailbox_troubleLog (s : State) (code : Nat) (data : List Byte) {severity : Nat} (h : severity < 2) (f : Nat) :
    (s.troubleLog code severity data).mailbox f = s.mailbox f := by
  have hentry : ∀ repeats, (s.logEntry code severity data repeats).mailbox f = s.mailbox f := fun repeats => by
    obtain ⟨log, seq, rep, e, he⟩ := s.logEntry_eq code severity data repeats
    rw [he, if_neg (by omega)]
    exact s.mailbox_setLog _ _ _ _
  unfold State.troubleLog
  split
  · exact hentry 0
  · split
    · rfl
    · exact hentry _

/-! ### Throttles (R358) -/

/-- A throttle's flag set, before its report. -/
def State.setThrottled (s : State) (now : Bool) : State := { s with ozmel := { s.ozmel with throttled := now } }

theorem State.mailbox_setThrottled (s : State) (now : Bool) (f : Nat) : (s.setThrottled now).drawFree.2.mailbox f = s.mailbox f := rfl

/-- A throttle that begins or ends is noted and reported. -/
def State.throttleNoted (s : State) (cause : Nat) (now : Bool) : State :=
  let v := (s.setThrottled now).drawFree
  let body := leBytes 1 cause ++ [0] ++ leBytes 2 (if now then s.targetRate else 0)
  ((v.2.notify 0 0x4002 body).sootEvent 0x0A40 v.1 none).troubleLog 0x0A41 1 body

theorem State.throttleReport_same {s : State} (h : decide (s.targetRate < 2000) = s.ozmel.throttled) (cause : Nat) : s.throttleReport cause = s :=
  if_pos h

theorem State.throttleReport_changed {s : State} (h : decide (s.targetRate < 2000) ≠ s.ozmel.throttled) (cause : Nat) :
    s.throttleReport cause = s.throttleNoted cause (decide (s.targetRate < 2000)) := if_neg h

theorem State.throttleNoted_kept (s : State) (cause : Nat) (now : Bool) : LoopsKept (s.setThrottled now) (s.throttleNoted cause now) :=
  (((LoopsKept.drawFree _).trans (.notify _ _ _ _)).trans (.sootEvent _ _ _ _)).trans (.troubleLog _ _ _ _)

theorem State.notifs_throttleNoted {s : State} (h : (s.mailbox 0).notifs.length < 32) (cause : Nat) (now : Bool) :
    ((s.throttleNoted cause now).mailbox 0).notifs = (s.mailbox 0).notifs ++
      [mbMessage 0x4002 0 0 (leBytes 1 cause ++ [0] ++ leBytes 2 (if now then s.targetRate else 0))] := by
  unfold State.throttleNoted
  rw [State.mailbox_troubleLog _ _ _ (by decide), State.mailbox_sootEvent]
  exact congrArg Mailbox.notifs (State.mailbox_notify (s.setThrottled now).drawFree.2 0 _ _ h)

/-! ### Fans (R361) -/

/-- The integral of the fan loop after a run. -/
def State.fanIntegral (s : State) (tj : Int) : Int :=
  clampInt (-25000000) 25000000 (s.ozmel.fanInt + (tj - s.ozmel.consts.tjTarget) * 100000 / (max 1 s.ozmel.consts.tau : Nat))

/-- The duty that the loop goes to: full while a channel is hot or was lately. -/
def State.fanGoal (s : State) (tj : Int) (inlet : Option Int) : Int :=
  if s.anyHot || decide (0 < s.ozmel.hotHold) then 100000000 else s.fanWant tj (inlet.getD 45) (s.fanIntegral tj)

/-- A run of the fan loop, by whether a fan is found failed, before a report of it. -/
def State.fanRun (s : State) (tj : Int) (inlet : Option Int) (t0 t1 : Nat) (failed : Bool) : State :=
  { s with
    fabric := { s.fabric with tj := tj }
    ozmel := { s.ozmel with
      lastInlet := inlet.getD 45, fanInt := s.fanIntegral tj, hotHold := if s.anyHot then 600 else s.ozmel.hotHold - 1
      fanFailRuns := failRuns s.ozmel.fanDuty s.ozmel.fanFailRuns [t0, t1]
      fanDuty := if failed || s.ozmel.fanFail then 100000000
        else s.ozmel.fanDuty + clampInt (-(s.ozmel.consts.slewDn : Int) * 100000) ((s.ozmel.consts.slewUp : Int) * 100000)
          (s.fanGoal tj inlet - s.ozmel.fanDuty)
      fanFail := s.ozmel.fanFail || failed, tach := [t0, t1] } }

theorem State.fanDuty_fanRun_failed (s : State) (tj : Int) (inlet : Option Int) (t0 t1 : Nat) :
    (s.fanRun tj inlet t0 t1 true).ozmel.fanDuty = 100000000 := by
  simp only [State.fanRun, Bool.true_or, if_true]

theorem State.fanGoal_eq (s : State) (tj : Int) (inlet : Option Int) : s.fanGoal tj inlet =
    if s.anyHot = true ∨ 0 < s.ozmel.hotHold then 100000000 else s.fanWant tj (inlet.getD 45) (s.fanIntegral tj) := by
  simp only [State.fanGoal, Bool.or_eq_true, decide_eq_true_eq]

/-- The report of a failed fan. -/
def State.fanReported (s : State) : State :=
  let body := leBytes 1 3 ++ [0] ++ leBytes 2 s.targetRate
  ((s.drawFree.2.notify 0 0x4002 body).sootEvent 0x5840 s.drawFree.1 none).troubleLog 0x5840 2 body

/-- A fan has read too low for 30 runs. -/
def State.fanFound (s : State) (t0 t1 : Nat) : Bool := (failRuns s.ozmel.fanDuty s.ozmel.fanFailRuns [t0, t1]).any fun n => decide (30 ≤ n)

theorem exec_fanLoop {s : State} (h : s.loopsRun = true) (tj : Int) (inlet : Option Int) (t0 t1 : Nat) : exec (.fanLoop tj inlet t0 t1) s =
    .next (if s.fanFound t0 t1 && !s.ozmel.fanFail then (s.fanRun tj inlet t0 t1 (s.fanFound t0 t1)).fanReported
      else s.fanRun tj inlet t0 t1 (s.fanFound t0 t1)) :=
  congrArg Host.Outcome.next (if_neg (by simp [h]))

theorem State.fanReported_kept (s : State) : LoopsKept s s.fanReported :=
  (((LoopsKept.drawFree s).trans (.notify _ _ _ _)).trans (.sootEvent _ _ _ _)).trans (.troubleLog _ _ _ _)

theorem State.mailbox_drawFree (s : State) (f : Nat) : s.drawFree.2.mailbox f = s.mailbox f := rfl

theorem State.notifs_fanReported {s : State} (h : (s.mailbox 0).notifs.length < 32) : ∃ m, (s.fanReported.mailbox 0).notifs =
    (s.mailbox 0).notifs ++ [mbMessage 0x4002 0 0 (leBytes 1 3 ++ [0] ++ leBytes 2 s.targetRate)] ++ m := by
  unfold State.fanReported
  obtain ⟨m, hm⟩ := State.notifs_troubleLog ((s.drawFree.2.notify 0 0x4002 (leBytes 1 3 ++ [0] ++ leBytes 2 s.targetRate)).sootEvent 0x5840 s.drawFree.1
    none) 0x5840 2 (leBytes 1 3 ++ [0] ++ leBytes 2 s.targetRate)
  refine ⟨m, hm.trans ?_⟩
  rw [State.mailbox_sootEvent, State.mailbox_notify s.drawFree.2 0 0x4002 _ h, State.mailbox_drawFree]

theorem State.fanFound_false {s : State} {t0 t1 : Nat} (h : ∀ n ∈ failRuns s.ozmel.fanDuty s.ozmel.fanFailRuns [t0, t1], n < 30) :
    s.fanFound t0 t1 = false := List.any_eq_false.mpr fun n hn => by simpa using h n hn

theorem State.fanFound_true {s : State} {t0 t1 : Nat} (h : ∃ n ∈ failRuns s.ozmel.fanDuty s.ozmel.fanFailRuns [t0, t1], 30 ≤ n) :
    s.fanFound t0 t1 = true := by
  obtain ⟨n, hn, h30⟩ := h
  exact List.any_eq_true.mpr ⟨n, hn, by simpa using h30⟩

theorem State.powerLimit_failed {s : State} (h : s.ozmel.fanFail = true) : s.powerLimit ≤ 150 := by
  rw [State.powerLimit, if_pos h]
  exact Nat.min_le_left _ _

/-! ### The other loops -/

theorem boostFits {a : Bool} {p q : Prop} [Decidable p] [Decidable q] : (a && decide p && decide q) = true ↔ a = true ∧ p ∧ q := by simp [and_assoc]

theorem exec_powerWindow {s : State} (h : s.loopsRun = true) (w : Nat) : exec (.powerWindow w) s =
    .next (({ s with ozmel := { s.ozmel with
      lastWatts := w
      boostWindows := if s.flag Reg.fabCtrl 2 && decide (w + 30 ≤ s.powerLimit) && decide (s.fabric.tj ≤ (s.ozmel.consts.boostTj : Int)) then
        s.ozmel.boostWindows + 1 else 0
      boosted := decide (10 ≤ if s.flag Reg.fabCtrl 2 && decide (w + 30 ≤ s.powerLimit) && decide (s.fabric.tj ≤ (s.ozmel.consts.boostTj : Int)) then
        s.ozmel.boostWindows + 1 else 0)
      lowWindows := if w + 10 < s.powerLimit then s.ozmel.lowWindows + 1 else 0
      powerRate := if s.powerLimit < w then max 1050000 (s.ozmel.powerRate * 98 / 100)
        else if 10 ≤ (if w + 10 < s.powerLimit then s.ozmel.lowWindows + 1 else 0) then min 2350000 (s.ozmel.powerRate * 101 / 100)
        else s.ozmel.powerRate } } : State).throttleReport 1) := congrArg Host.Outcome.next (if_neg (by simp [h]))

theorem exec_slotConfirmed {s : State} (hready : s.ozmel.ready = true) (h : s.slotState (s.fld Reg.rstBoot 9 8) = .trial) :
    exec .slotConfirmed s = .next ((s.setSlot (s.fld Reg.rstBoot 9 8) .confirmed).troubleLog 0x0972 0 (s.slotData (s.fld Reg.rstBoot 9 8))) :=
  congrArg Host.Outcome.next (if_pos (by rw [hready, h]; rfl))

/-! ### Trouble log entries leave the registers -/

theorem State.regs_notify (s : State) (f id : Nat) (pl : List Byte) : (s.notify f id pl).regs = s.regs := by
  unfold State.notify
  dsimp only
  split <;> rfl

theorem State.regs_setLog (s : State) (log : List LogEntry) (seq : Nat) (rep : Tab (Nat × Nat)) : (s.setLog log seq rep).regs = s.regs := rfl

theorem State.regs_logEntry (s : State) (code severity : Nat) (data : List Byte) (repeats : Nat) :
    (s.logEntry code severity data repeats).regs = s.regs := by
  obtain ⟨log, seq, rep, e, h⟩ := s.logEntry_eq code severity data repeats
  rw [h]
  split
  · exact (State.regs_notify _ _ _ _).trans (s.regs_setLog _ _ _)
  · exact s.regs_setLog _ _ _

theorem State.regs_troubleLog (s : State) (code severity : Nat) (data : List Byte) : (s.troubleLog code severity data).regs = s.regs := by
  unfold State.troubleLog
  split
  · exact s.regs_logEntry _ _ _ _
  · split
    · rfl
    · exact s.regs_logEntry _ _ _ _

/-! ### Frames of the exception queue (R173, R348) -/

section
variable {s : State}

theorem exec_exceptionFrameHandle_none (h : s.loopsRun = false ∨ ∀ e ∈ s.excq, ozmelFrame (e.2.2.drop 8) = false) :
    exec .exceptionFrameHandle s = .next s := by
  refine congrArg Host.Outcome.next ?_
  unfold State.handleFrame
  split
  · rfl
  · next hrun =>
    rw [List.findIdx?_eq_none_iff.mpr (h.resolve_left hrun)]

/-- The frame found leaves the queue, and what else happens to it is its answer. -/
def State.answerFrame (s u : State) (p l : Nat) (b : List Byte) : State :=
  match s.ozmel.net.find? fun c => c.port == p && c.link == l with
  | none => u
  | some c =>
    match netAnswer c (b.drop 8) with
    | none => u
    | some a => if s.flag (Reg.ethPort p) (28 + l) then { u with outs := { u.outs with eth := (p, l, a) :: u.outs.eth } } else u

theorem exec_exceptionFrameHandle {i p l : Nat} {b : List Byte} (hrun : s.loopsRun = true)
    (hi : (s.excq.findIdx? fun e => ozmelFrame (e.2.2.drop 8)) = some i) (he : listAt (0, 0, []) s.excq i = (p, l, b)) :
    exec .exceptionFrameHandle s = .next (s.answerFrame { s with excq := s.excq.eraseIdx i } p l b) := by
  refine congrArg Host.Outcome.next ?_
  unfold State.handleFrame
  refine (if_neg (by simp [hrun])).trans ?_
  rw [hi]
  simp only [he]
  rfl

end

/-- Settles O56: the supply, power, thermal and fan loops and their reports; handover, slots, log and frames. -/
theorem ozmelLoopsAndRecords : Obligations.OzmelLoopsAndRecords := by
  unfold Obligations.OzmelLoopsAndRecords
  refine ⟨⟨fun s vout w h => ⟨?_, ?_⟩, fun s h => ⟨fun hn => ?_, fun hn => ?_, fun hn => ?_, fun v hlo hhi => ?_, fun v hoff => ?_, rampMv_spec⟩,
    fun s w h => ?_, fun s tj => ⟨fun h => ?_, fun h => ?_⟩, fun s cause => ⟨fun h => State.throttleReport_same h cause, fun h => ?_⟩,
    fun s tj inlet t0 t1 => ⟨fun h => ?_, fun h => ⟨fun hok hlow => ?_, fun hfail => ?_, fun hok hlow => ?_⟩⟩⟩,
    fun s r k hr hk => ⟨?_, ?_⟩, fun s b h => ?_, fun s f r st pl => ?_, fun s => ⟨fun h => ?_, fun hready htrial => ?_⟩,
    fun s => ⟨fun h => ?_, fun hrun hh => ?_⟩, fun s h => exec_exceptionFrameHandle_none h,
    fun s i p l b hrun hi he => ⟨fun hnone => ?_, fun c hc => ⟨fun hnone => ?_, fun a hsome hlink => ?_⟩⟩⟩
  · exact congrArg Host.Outcome.next (if_pos h)
  · exact congrArg Host.Outcome.next (if_pos h)
  · rw [exec_avsCycle_none h, if_neg (by omega), if_pos hn]
    rfl
  · rw [exec_avsCycle_none h, if_pos hn, if_neg (by omega), State.avsSilent, hn]
    rfl
  · rw [exec_avsCycle_none h, if_neg (by omega), if_neg (by omega)]
    rfl
  · obtain ⟨hfabric, -⟩ := s.avsFloor_frame
    have hin : ¬ (s.fabric.vCmdMv + 5 < v ∨ v + 5 < s.fabric.vCmdMv) := by omega
    rw [exec_avsCycle_some h, if_neg hin, State.avsRead, hfabric, State.avsGoal, if_neg (by omega), if_neg (by omega)]
    rfl
  · obtain ⟨hfabric, hfree⟩ := s.avsFloor_frame
    refine ⟨s.avsFloor.drawFree.1.toNat % 10 + 1, by omega, by omega, ?_⟩
    rw [exec_avsCycle_some h, if_pos hoff, State.avsGoal_off _ _ hoff, State.avsRead_drawn hfabric hfree]
    rfl
  · refine ⟨_, fun hfit => ?_, fun hfit => ?_, exec_powerWindow h w⟩
    · exact if_pos (boostFits.mpr hfit)
    · exact if_neg fun hb => hfit (boostFits.mp hb)
  · exact congrArg Host.Outcome.next (if_pos h)
  · exact congrArg Host.Outcome.next (if_neg (by simp [h]))
  · rw [State.throttleReport_changed h]
    obtain ⟨hfabric, -, hknobs, hregs⟩ := s.throttleNoted_kept cause (decide (s.targetRate < 2000))
    simp only [Ozmel.knobs, Prod.mk.injEq] at hknobs
    obtain ⟨hthrottled, hconsts, hpower, hthermal, -⟩ := hknobs
    refine ⟨hthrottled, hfabric, hregs, hconsts, hpower, hthermal, fun hroom => ?_⟩
    exact State.notifs_throttleNoted hroom cause _
  · exact congrArg Host.Outcome.next (if_pos h)
  · rw [exec_fanLoop h, State.fanFound_false hlow]
    rw [Bool.false_and, if_neg (by decide), State.fanRun, Bool.or_false, if_neg (by simp [hok]), State.fanGoal_eq]
    rfl
  · have hkeep : (s.ozmel.fanFail || s.fanFound t0 t1) = s.ozmel.fanFail := by rw [hfail, Bool.true_or]
    rw [exec_fanLoop h, if_neg (by simp [hfail]), State.fanRun, hkeep, if_pos (by simp [hfail])]
    rfl
  · have hfound := State.fanFound_true hlow
    obtain ⟨-, -, hknobs, -⟩ := (s.fanRun tj inlet t0 t1 true).fanReported_kept
    simp only [Ozmel.knobs, Prod.mk.injEq] at hknobs
    obtain ⟨-, -, -, -, hfail, hduty, -⟩ := hknobs
    have hfail' : (s.fanRun tj inlet t0 t1 true).fanReported.ozmel.fanFail = true := hfail.trans (Bool.or_true _)
    refine ⟨_, ?_, hfail', hduty.trans (s.fanDuty_fanRun_failed tj inlet t0 t1), State.powerLimit_failed hfail', fun hroom => ?_⟩
    · rw [exec_fanLoop h, hfound, hok]
      rfl
    · exact ⟨_, State.notifs_fanReported (s := s.fanRun tj inlet t0 t1 true) (Nat.lt_succ_of_lt hroom)⟩
  · refine congrArg Host.Outcome.next ?_
    unfold State.resume
    rw [hr, hk]
    rfl
  · refine congrArg Host.Outcome.next ?_
    unfold State.resume
    rw [hr, hk]
    rfl
  · refine congrArg Host.Outcome.next ?_
    unfold State.resume
    rw [h]
  · exact congrArg Mailbox.responses (State.mailbox_setMailbox s f (v := { s.mailbox f with responses := (s.mailbox f).responses ++
      [mbMessage (0x8000 + fieldAt r 4 2) (fieldAt r 6 2) st.code (if st = .ok then pl else [])] })
      fun he => by simpa using congrArg Mailbox.responses he)
  · refine congrArg Host.Outcome.next (if_neg ?_)
    rcases h with h | h <;> simp [h]
  · obtain ⟨-, hflash, hknobs, -⟩ := LoopsKept.troubleLog (s.setSlot (s.fld Reg.rstBoot 9 8) .confirmed) 0x0972 0 (s.slotData (s.fld Reg.rstBoot 9 8))
    simp only [Ozmel.knobs, Prod.mk.injEq] at hknobs
    obtain ⟨-, -, -, -, -, -, hslots⟩ := hknobs
    exact ⟨_, exec_slotConfirmed hready htrial, hslots, State.regs_troubleLog _ _ _ _, hflash⟩
  · refine congrArg Host.Outcome.next (if_neg ?_)
    rcases h with h | h <;> simp [h]
  · exact congrArg Host.Outcome.next (if_pos (by simp [hrun, hh]))
  · have hfind : (s.ozmel.net.find? fun c => c.port == p && c.link == l) = none :=
      List.find?_eq_none.mpr fun c hc => by rcases hnone c hc with h | h <;> simp [h]
    rw [exec_exceptionFrameHandle hrun hi he, State.answerFrame, hfind]
  · rw [exec_exceptionFrameHandle hrun hi he, State.answerFrame, hc]
    simp only [hnone]
  · rw [exec_exceptionFrameHandle hrun hi he, State.answerFrame, hc]
    simp only [hsome, hlink, if_true]

end Sys2Proof.Machine

/-!
PROOF. The messages of the mailbox catalogue: what each answers and changes (R353-R358, R363).
-/

namespace Sys2Proof.Machine

/-! ### A request is handled (R353) -/

/-- What handling a request leaves, by what its handler gives. -/
def State.handled (f : Nat) (r : List Byte) (n : Nat) : State × Option (Status × List Byte) → State
  | (s, some x) => (s.respond f r x.1 x.2).settle f n
  | (s, none) => s

theorem State.handle_asked {s : State} {f id : Nat} {r : List Byte} {tl : List (List Byte)} (ha : s.Asks f id r tl) (h : Handler) :
    s.handle f id h = State.handled f r tl.length (h (r.drop 16) (s.withRequests f tl)) := by
  obtain ⟨hserved, hreq, hid⟩ := ha
  unfold State.handle
  simp only [hreq]
  refine (if_neg (by simp [hserved, hid])).trans ?_
  rfl

/-- A request whose handler answers gets its response, and those behind it are settled. -/
theorem State.handle_answers {s x : State} {f id : Nat} {r : List Byte} {tl : List (List Byte)} {st : Status} {b : List Byte} {h : Handler}
    (ha : s.Asks f id r tl) (hh : h (r.drop 16) (s.withRequests f tl) = (x, some (st, b))) :
    Host.Outcome.next (s.handle f id h) = (.next ((x.respond f r st b).settle f tl.length) : Host.Outcome State Fault Refusal) := by
  rw [State.handle_asked ha, hh]
  rfl

/-- A request whose handler does not answer now. -/
theorem State.handle_silent {s x : State} {f id : Nat} {r : List Byte} {tl : List (List Byte)} {h : Handler}
    (ha : s.Asks f id r tl) (hh : h (r.drop 16) (s.withRequests f tl) = (x, none)) :
    Host.Outcome.next (s.handle f id h) = (.next x : Host.Outcome State Fault Refusal) := by
  rw [State.handle_asked ha, hh]
  rfl

/-! ### Reports (R353) -/

section
variable {f : Nat} {pl : List Byte} {s : State} {p : Nat}

theorem msgGetTable_foreign (h : ¬ (6 < fieldAt pl 0 1 ∨ fieldAt pl 4 2 = 0 ∨ 2000 < fieldAt pl 4 2)) (hp : s.mbPart f (fieldAt pl 1 1) = none) :
    msgGetTable f pl s = answer .notOwner [] s := (if_neg h).trans (by rw [hp])

theorem msgGetTable_of_part (h : ¬ (6 < fieldAt pl 0 1 ∨ fieldAt pl 4 2 = 0 ∨ 2000 < fieldAt pl 4 2)) (hp : s.mbPart f (fieldAt pl 1 1) = some p) :
    msgGetTable f pl s = if 4 * tableWords (fieldAt pl 0 1) < fieldAt pl 2 2 + fieldAt pl 4 2 then answer .bounds [] s
      else answer .ok (((wordsBytes ((List.range (tableWords (fieldAt pl 0 1))).map fun w => (s.part p).word false (fieldAt pl 0 1) w)).drop
        (fieldAt pl 2 2)).take (fieldAt pl 4 2)) s := (if_neg h).trans (by rw [hp])

theorem msgPoolInfo_of_part (hp : s.mbPart f (fieldAt pl 0 1) = some p) : msgPoolInfo f pl s = answer .ok (((List.range 8).map fun k =>
    leBytes 8 ((s.pdaOf p (s.bufDa k 0)).getD 0) ++ leBytes 4 (s.fld (Reg.pwPoolCount k) 23 0) ++ leBytes 4 (s.poolFree k)).flatten) s := by
  unfold msgPoolInfo
  rw [hp]

theorem msgRingCtx_foreign (h : f = 0 ∨ s.vfRing f (fieldAt pl 0 2) = none) : msgRingCtx f pl s = answer .notOwner [] s := by
  unfold msgRingCtx
  split
  · rfl
  · next h0 => rw [h.resolve_left h0]

theorem msgRingCtx_of_ring {k : Nat} (h0 : f ≠ 0) (h : s.vfRing f (fieldAt pl 0 2) = some k) : msgRingCtx f pl s =
    answer (if (s.commitRing k (bytesWords ((pl.drop 8).take 32))).2 then .ok else .badOpcode) []
      (s.commitRing k (bytesWords ((pl.drop 8).take 32))).1 := by
  unfold msgRingCtx
  rw [if_neg h0, h]
  dsimp only
  rcases s.commitRing k (bytesWords ((pl.drop 8).take 32)) with ⟨s1, _ | _⟩ <;> rfl

theorem msgStreamStats_none (hp : s.mbPart f (fieldAt pl 2 1) = some p) (h : s.stream? p (fieldAt pl 0 2) = none) :
    msgStreamStats f pl s = answer .notOwner [] s := by
  unfold msgStreamStats
  rw [hp]
  simp only [h]

theorem msgStreamStats_of_entry {st : Stream} {e : Nat} {d : DecCtx} (hp : s.mbPart f (fieldAt pl 2 1) = some p)
    (h : s.stream? p (fieldAt pl 0 2) = some st) (he : st.entry = some e) (hd : s.dec? st.ctx = some d) : msgStreamStats f pl s =
    answer .ok (leBytes 4 (s.ingLatch e).1.toNat ++ ((List.range 8).map fun k => leBytes 4 (listAt 0 (s.ingLatch e).2 k)).flatten ++
      leBytes 4 (s.smLatch d.home st.ctx).1.toNat ++ ((List.range 10).map fun k => leBytes 4 (listAt 0 (s.smLatch d.home st.ctx).2 k)).flatten) s := by
  unfold msgStreamStats
  rw [hp]
  simp only [h, he, hd]

theorem msgAcct_of_part (h : fieldAt pl 0 1 % 8 ≤ 4) (hp : s.mbPart f (fieldAt pl 1 1) = some p) : msgAcct f pl s =
    answer .ok (leBytes 8 (listAt (0, 0) (s.part p).acct (fieldAt pl 0 1 % 8)).1 ++
      leBytes 8 (listAt (0, 0) (s.part p).acct (fieldAt pl 0 1 % 8)).2) s :=
  (if_neg (Nat.not_lt.mpr h)).trans (by rw [hp])

theorem msgLogRead_held {e : LogEntry} {es : List LogEntry} (h0 : 0 < fieldAt pl 4 1) (h : fieldAt pl 4 1 ≤ 62) (hl : s.ozmel.log = e :: es) :
    msgLogRead pl s = answer .ok (leBytes 4 e.seq ++
      (((s.ozmel.log.filter fun x => decide (fieldAt pl 0 4 ≤ x.seq)).take (fieldAt pl 4 1)).map LogEntry.bytes).flatten) s := by
  unfold msgLogRead
  refine (if_neg (by omega)).trans ?_
  rw [hl]

theorem msgLogRead_empty (h0 : 0 < fieldAt pl 4 1) (h : fieldAt pl 4 1 ≤ 62) (hl : s.ozmel.log = []) :
    msgLogRead pl s = answer .ok (leBytes 4 s.drawFree.1.toNat) s.drawFree.2 := by
  unfold msgLogRead
  refine (if_neg (by omega)).trans ?_
  rw [hl]

end

/-! ### Multicast groups (R353) -/

/-- A list without repeats is no longer than the list. -/
theorem length_eraseDups_le {α : Type} [BEq α] (l : List α) : l.eraseDups.length ≤ l.length := by
  induction hn : l.length using Nat.strong_induction_on generalizing l with
  | _ n ih =>
    cases l with
    | nil => simp
    | cons a t =>
      have hfilter := List.length_filter_le (fun b => !b == a) t
      have hle := ih (t.filter fun b => !b == a).length (by rw [List.length_cons] at hn; omega) _ rfl
      rw [List.eraseDups_cons, List.length_cons]
      rw [List.length_cons] at hn
      omega

/-- The port and the link in the name of a group. -/
theorem mcastKey_place {pl : List Byte} (h : 48 ≤ pl.length) :
    ((mcastKey pl).drop 1).take 2 = [BitVec.ofNat 8 (fieldAt pl 1 1), BitVec.ofNat 8 (fieldAt pl 2 1)] := by
  obtain ⟨a, b, c, t, rfl⟩ : ∃ a b c t, pl = a :: b :: c :: t := by
    match pl, h with
    | a :: b :: c :: t, _ => exact ⟨a, b, c, t, rfl⟩
  simp [mcastKey, leBytes, fieldAt, leNat]

/-- The groups of a link. -/
def mcastGroups (all : List (Nat × List Byte)) (p l : Nat) : List (List Byte) :=
  ((all.map (·.2)).eraseDups).filter fun g => (g.drop 1).take 2 == [BitVec.ofNat 8 p, BitVec.ofNat 8 l]

/-- A group that is known on its link, or a link with room. -/
theorem mcastGroups_room {pl : List Byte} (h : 48 ≤ pl.length) {all : List (Nat × List Byte)}
    (hroom : (∃ g, (g, mcastKey pl) ∈ all) ∨ all.length < 256) : ¬ ((mcastGroups all (fieldAt pl 1 1) (fieldAt pl 2 1)).contains (mcastKey pl) = false ∧
      256 ≤ (mcastGroups all (fieldAt pl 1 1) (fieldAt pl 2 1)).length) := by
  rintro ⟨hno, hfull⟩
  rcases hroom with ⟨g, hg⟩ | hlt
  · have hmem : mcastKey pl ∈ mcastGroups all (fieldAt pl 1 1) (fieldAt pl 2 1) :=
      List.mem_filter.mpr ⟨List.mem_eraseDups.mpr (List.mem_map.mpr ⟨_, hg, rfl⟩), by rw [mcastKey_place h]; exact BEq.rfl⟩
    simp [hmem] at hno
  · have hlen : (mcastGroups all (fieldAt pl 1 1) (fieldAt pl 2 1)).length ≤ all.length :=
      (List.length_filter_le _ _).trans ((length_eraseDups_le _).trans (List.length_map _).le)
    omega

/-- A request with a link or a VLAN outside its range. -/
def McastWrong (pl : List Byte) : Prop := 1 < fieldAt pl 1 1 ∨ 3 < fieldAt pl 2 1 ∨ (4095 < fieldAt pl 4 2 ∧ fieldAt pl 4 2 ≠ 0xFFFF)

theorem msgMcast_removed {f : Nat} {pl : List Byte} {s : State} (hw : ¬ McastWrong pl) (h : (fieldAt pl 0 1).testBit 0 = false) :
    msgMcast f pl s = answer .ok [] { s with ozmel := { s.ozmel with mcast := s.ozmel.mcast.filter fun m => m != (f, mcastKey pl) } } :=
  (if_neg hw).trans (if_neg (by simp [h]))

theorem msgMcast_added {f : Nat} {pl : List Byte} {s : State} (hw : ¬ McastWrong pl) (h : (fieldAt pl 0 1).testBit 0 = true)
    (hnew : (f, mcastKey pl) ∉ s.ozmel.mcast) (hlen : 48 ≤ pl.length) (hroom : (∃ g, (g, mcastKey pl) ∈ s.ozmel.mcast) ∨ s.ozmel.mcast.length < 256) :
    msgMcast f pl s = answer .ok [] { s with ozmel := { s.ozmel with mcast := s.ozmel.mcast ++ [(f, mcastKey pl)] } } :=
  (if_neg hw).trans ((if_pos h).trans ((if_neg (mcastGroups_room hlen hroom)).trans (if_neg (by simp [hnew]))))

/-! ### Live update (R354-R356) -/

theorem State.readFlash_erased {s : State} {a n i : Nat} (h : a ≤ i) (hi : i < a + n) : listAt 0 ((s.eraseFlash a n).readFlash i 1) 0 = 0xFF := by
  have hcell : sparseGet flashDefault (s.eraseFlash a n).flash i = flashDefault := by
    rcases sparseGet_mem flashDefault (s.eraseFlash a n).flash i with hd | hm
    · exact hd
    · exact absurd (List.mem_filter.mp hm).2 (by simp [h, hi])
  exact hcell

theorem State.readFlash_kept {s : State} {a n i : Nat} (h : i < a ∨ a + n ≤ i) : (s.eraseFlash a n).readFlash i 1 = s.readFlash i 1 := by
  have hcell : ∀ l : List Host.Cell, sparseGet flashDefault (l.filter fun c => !(decide (a ≤ c.1) && decide (c.1 < a + n))) i =
      sparseGet flashDefault l i := by
    intro l
    induction l with
    | nil => rfl
    | cons c t ih =>
      by_cases hc : a ≤ c.1 ∧ c.1 < a + n
      · rw [List.filter_cons_of_neg (by simp [hc]), ih, sparseGet, if_neg (by omega)]
      · rw [List.filter_cons_of_pos (by simpa [-not_and, not_and_or] using hc), sparseGet, sparseGet, ih]
  exact congrArg (fun b => [b]) (hcell s.flash)

section
variable {s : State} {pl : List Byte}

/-- The inactive slot erased and invalid, and the update begun. -/
def State.updateBegun (s : State) (len : Nat) : State :=
  let s1 := (s.eraseFlash (s.slotOff s.idleSlot) s.slotSize).setSlot s.idleSlot .invalid
  { s1 with ozmel := { s1.ozmel with updLen := some len, updEnd := 0, updCommitted := none } }

theorem msgUpdateBegin_fits (h : fieldAt pl 0 4 ≤ s.slotSize) : msgUpdateBegin pl s = answer .ok [] (s.updateBegun (fieldAt pl 0 4)) :=
  if_neg (Nat.not_lt.mpr h)

theorem listAt_listUpd_const {α : Type} (d v : α) (l : List α) (k : Nat) (h : v = d) : listAt d (listUpd l k fun _ => v) k = d := by
  subst h
  by_cases hk : k < l.length
  · exact listAt_listUpd_same _ _ _ _ hk
  · simp [listAt, Nat.not_lt.mp hk]

theorem State.slotState_updateBegun (s : State) (len : Nat) : (s.updateBegun len).slotState s.idleSlot = .invalid :=
  listAt_listUpd_const _ _ _ _ rfl

theorem msgUpdateData_none (h : s.ozmel.updLen = none) : msgUpdateData pl s = answer .badOpcode [] s := by
  unfold msgUpdateData
  rw [h]

theorem msgUpdateData_begun {n : Nat} (h : s.ozmel.updLen = some n) : msgUpdateData pl s =
    if fieldAt pl 4 4 < 8 ∨ 2008 < fieldAt pl 4 4 then answer .badOpcode [] s
    else if fieldAt pl 0 4 ≠ s.ozmel.updEnd ∨ n < fieldAt pl 0 4 + fieldAt pl 4 4 then answer .bounds [] s
    else answer .ok [] { s.writeFlash (s.slotOff s.idleSlot + fieldAt pl 0 4) ((pl.drop 8).take (fieldAt pl 4 4)) with
      ozmel := { s.ozmel with updEnd := fieldAt pl 0 4 + fieldAt pl 4 4 } } := by
  unfold msgUpdateData
  rw [h]
  rfl

theorem msgUpdateCommit_early (h : s.ozmel.updLen = none ∨ s.ozmel.updEnd = 0) : msgUpdateCommit pl s = answer .badOpcode [] s := by
  unfold msgUpdateCommit
  cases hl : s.ozmel.updLen with
  | none => rfl
  | some n => exact if_pos (h.resolve_left (by simp [hl]))

/-- The inactive slot marked TRIAL, and the update ended. -/
def State.updateCommitted (s : State) : State :=
  let s1 := (s.setSlot s.idleSlot .trial).troubleLog 0x0973 0 (s.slotData s.idleSlot)
  { s1 with ozmel := { s1.ozmel with updLen := none, updCommitted := some s.idleSlot } }

theorem State.slotStates_updateCommitted (s : State) :
    s.updateCommitted.ozmel.slotStates = listUpd s.ozmel.slotStates s.idleSlot fun _ => .trial := by
  have hknobs := (LoopsKept.troubleLog (s.setSlot s.idleSlot .trial) 0x0973 0 (s.slotData s.idleSlot)).knobs
  simp only [Ozmel.knobs, Prod.mk.injEq] at hknobs
  obtain ⟨-, -, -, -, -, -, hslots⟩ := hknobs
  exact hslots

theorem State.flash_updateCommitted (s : State) : s.updateCommitted.flash = s.flash :=
  (LoopsKept.troubleLog (s.setSlot s.idleSlot .trial) 0x0973 0 (s.slotData s.idleSlot)).flash

theorem msgUpdateCommit_given (hl : s.ozmel.updLen ≠ none) (he : s.ozmel.updEnd ≠ 0) : msgUpdateCommit pl s =
    if s.slotOk s.idleSlot then answer .ok (leBytes 4 (s.slotSeq s.idleSlot)) s.updateCommitted else answer .badVersion [] s := by
  unfold msgUpdateCommit
  cases h : s.ozmel.updLen with
  | none => exact absurd h hl
  | some n => exact if_neg he

theorem msgUpdateActivate_none {r : List Byte} (h : s.ozmel.updCommitted = none) : msgUpdateActivate r pl s = answer .badOpcode [] s := by
  unfold msgUpdateActivate
  rw [h]

/-- RST_BOOT as an activation by a reset leaves it: recovery mode ends. -/
def State.activateWord (s : State) : Word :=
  if s.flag Reg.rstBoot 31 then setBits (setBits (s.reg Reg.rstBoot) 31 31 0) 1 0 0 else s.reg Reg.rstBoot

theorem msgUpdateActivate_reset {r : List Byte} {k : Nat} (h : s.ozmel.updCommitted = some k)
    (hreset : (fieldAt pl 0 1).testBit 0 = true ∨ s.flag Reg.rstBoot 31 = true) : msgUpdateActivate r pl s =
      (({ s.setReg Reg.rstBoot s.activateWord with ozmel := { s.ozmel with bootWanted := some k } } : State).warmReset .swGlobal, none) := by
  unfold msgUpdateActivate
  rw [h]
  exact if_pos (by simpa using hreset)

theorem msgUpdateActivate_handover {r : List Byte} {k : Nat} (h : s.ozmel.updCommitted = some k)
    (h0 : (fieldAt pl 0 1).testBit 0 = false) (hboot : s.flag Reg.rstBoot 31 = false) : msgUpdateActivate r pl s =
      ({ s with ozmel := if s.swap.current.isSome then { s.ozmel with handoverStart := s.nowNs, activateWaits := some r }
        else { s.ozmel with handoverStart := s.nowNs, handover := some r } }, none) := by
  unfold msgUpdateActivate
  rw [h]
  exact if_neg (by simp [h0, hboot])

end

/-- The request at the front is what an activation answers later. -/
theorem State.front_request {s : State} {f id : Nat} {r : List Byte} {tl : List (List Byte)} (ha : s.Asks f id r tl) :
    ((s.mailbox f).requests.headD []).take 16 = r.take 16 := by
  obtain ⟨-, hreq, -⟩ := ha
  rw [hreq]
  rfl

/-- Settles O55: every message of the catalogue by its fields. -/
theorem messagesAreAnswered : Obligations.MessagesAreAnswered := by
  unfold Obligations.MessagesAreAnswered
  intro s f r tl
  refine ⟨?info, ?table, ?pools, ?ring, ?stats, ?acct, ?sensors, ?log, ?exc, ?net, ?mcast, ?ptp, ?power, ?thermal, ?begin, ?data, ?commit, ?activate⟩
  case info => exact fun ha => State.handle_answers (h := msgGetInfo f.val) ha rfl
  case table =>
    refine fun ha => ⟨fun hbad => ?_, fun ht h0 hl => ⟨fun hp => ?_, fun p hp hb => ?_, fun p hp hb => ?_⟩⟩
    · exact State.handle_answers (h := msgGetTable f.val) ha (if_pos hbad)
    · exact State.handle_answers (h := msgGetTable f.val) ha (msgGetTable_foreign (by omega) hp)
    · exact State.handle_answers (h := msgGetTable f.val) ha ((msgGetTable_of_part (s := s.withRequests f tl) (by omega) hp).trans (if_pos hb))
    · exact State.handle_answers (h := msgGetTable f.val) ha ((msgGetTable_of_part (s := s.withRequests f tl) (by omega) hp).trans (if_neg (Nat.not_lt.mpr hb)))
  case pools => exact fun ha p hp => State.handle_answers (h := msgPoolInfo f.val) ha (msgPoolInfo_of_part hp)
  case ring =>
    refine fun ha => ⟨fun h => ?_, fun k h0 hk => ?_⟩
    · exact State.handle_answers (h := msgRingCtx f.val) ha (msgRingCtx_foreign h)
    · exact State.handle_answers (h := msgRingCtx f.val) ha (msgRingCtx_of_ring h0 hk)
  case stats =>
    refine fun ha p hp => ⟨fun h => ?_, fun st e d h he hd => ?_⟩
    · exact State.handle_answers (h := msgStreamStats f.val) ha (msgStreamStats_none hp h)
    · exact State.handle_answers (h := msgStreamStats f.val) ha (msgStreamStats_of_entry hp h he hd)
  case acct =>
    refine fun ha => ⟨fun hbad => ?_, fun p hk hp => ?_⟩
    · exact State.handle_answers (h := msgAcct f.val) ha (if_pos hbad)
    · exact State.handle_answers (h := msgAcct f.val) ha (msgAcct_of_part hk hp)
  case sensors => exact fun ha => State.handle_answers (h := msgSensors) ha rfl
  case log =>
    refine fun ha => ⟨fun hbad => ?_, fun e es h0 h62 hl => ?_, fun h0 h62 hl => ?_⟩
    · exact State.handle_answers (h := msgLogRead) ha (if_pos hbad)
    · exact State.handle_answers (h := msgLogRead) ha (msgLogRead_held h0 h62 hl)
    · exact ⟨_, State.handle_answers (h := msgLogRead) ha (msgLogRead_empty h0 h62 hl)⟩
  case exc =>
    refine fun ha => ⟨fun hbad => ?_, fun h0 h8 => ?_⟩
    · exact State.handle_answers (h := msgExcRead) ha (if_pos hbad)
    · exact State.handle_answers (h := msgExcRead) ha (if_neg (by omega))
  case net =>
    refine fun ha => ⟨fun hbad => ?_, fun hok => ?_⟩
    · exact State.handle_answers (h := msgNetCfg) ha (if_pos hbad)
    · exact State.handle_answers (h := msgNetCfg) ha (if_neg hok)
  case mcast =>
    refine fun ha => ⟨fun hbad => ?_, fun hok h0 => ?_, fun hok h1 hnew hlen hroom => ?_⟩
    · exact State.handle_answers (h := msgMcast f.val) ha (if_pos hbad)
    · exact State.handle_answers (h := msgMcast f.val) ha (msgMcast_removed hok h0)
    · exact State.handle_answers (h := msgMcast f.val) ha (msgMcast_added hok h1 hnew hlen hroom)
  case ptp =>
    refine fun ha => ⟨fun hbad => ?_, fun h1 h2 => ?_⟩
    · exact State.handle_answers (h := msgPtpCfg) ha (if_pos hbad)
    · exact State.handle_answers (h := msgPtpCfg) ha (if_neg (by omega))
  case power =>
    refine fun ha => ⟨fun hbad => ?_, fun hok => ?_⟩
    · exact State.handle_answers (h := msgPowerSet) ha (if_pos hbad)
    · exact State.handle_answers (h := msgPowerSet) ha (if_neg hok)
  case thermal =>
    refine fun ha => ⟨fun hbad => ?_, fun hok => ?_⟩
    · exact State.handle_answers (h := msgThermalSet) ha (if_neg (by rw [Bool.not_eq_true]; exact hbad))
    · exact State.handle_answers (h := msgThermalSet) ha (if_pos hok)
  case begin =>
    refine fun ha => ⟨fun hbig => ?_, fun hfits => ?_⟩
    · exact State.handle_answers (h := msgUpdateBegin) ha (if_pos hbig)
    · refine ⟨_, State.handle_answers (h := msgUpdateBegin) ha (msgUpdateBegin_fits hfits), State.slotState_updateBegun _ _, rfl, rfl,
        fun a hlo hhi => ?_, fun a hout => ?_, rfl⟩
      · exact State.readFlash_erased (s := s.withRequests f tl) hlo hhi
      · exact State.readFlash_kept (s := s.withRequests f tl) hout
  case data =>
    refine fun ha => ⟨fun hnone => ?_, fun n hn => ⟨fun hbad => ?_, fun h8 h2008 hb => ?_, fun h8 h2008 hoff hb => ?_⟩⟩
    · exact State.handle_answers (h := msgUpdateData) ha (msgUpdateData_none hnone)
    · exact State.handle_answers (h := msgUpdateData) ha ((msgUpdateData_begun (s := s.withRequests f tl) hn).trans (if_pos hbad))
    · exact State.handle_answers (h := msgUpdateData) ha ((msgUpdateData_begun (s := s.withRequests f tl) hn).trans ((if_neg (by omega)).trans (if_pos hb)))
    · exact State.handle_answers (h := msgUpdateData) ha
        ((msgUpdateData_begun (s := s.withRequests f tl) hn).trans ((if_neg (by omega)).trans (if_neg fun h => h.elim (fun hne => hne hoff) (Nat.not_lt.mpr hb))))
  case commit =>
    refine fun ha => ⟨fun hearly => ?_, fun hl he hbad => ?_, fun hl he hok => ?_⟩
    · exact State.handle_answers (h := msgUpdateCommit) ha (msgUpdateCommit_early hearly)
    · exact State.handle_answers (h := msgUpdateCommit) ha ((msgUpdateCommit_given (s := s.withRequests f tl) hl he).trans (if_neg (by rw [Bool.not_eq_true]; exact hbad)))
    · refine ⟨_, State.handle_answers (h := msgUpdateCommit) ha ((msgUpdateCommit_given (s := s.withRequests f tl) hl he).trans (if_pos hok)), ?_, rfl, rfl, ?_⟩
      · exact (s.withRequests f tl).slotStates_updateCommitted
      · exact (s.withRequests f tl).flash_updateCommitted
  case activate =>
    refine fun ha => ⟨fun hnone => ?_, fun k hk => ⟨fun hreset => ?_, fun h0 hboot hswap => ?_, fun h0 hboot hswap => ?_⟩⟩
    · exact State.handle_answers (h := msgUpdateActivate _) ha (msgUpdateActivate_none hnone)
    · exact State.handle_silent (h := msgUpdateActivate _) ha (msgUpdateActivate_reset hk hreset)
    · refine State.handle_silent (h := msgUpdateActivate _) ha ((msgUpdateActivate_handover (s := s.withRequests f tl) hk h0 hboot).trans ?_)
      have hnone : (s.withRequests f tl).swap.current = none := hswap
      rw [State.front_request ha, if_neg (by rw [hnone]; decide)]
      rfl
    · refine State.handle_silent (h := msgUpdateActivate _) ha ((msgUpdateActivate_handover (s := s.withRequests f tl) hk h0 hboot).trans ?_)
      have hsome : (s.withRequests f tl).swap.current.isSome = true := Option.isSome_iff_ne_none.mpr hswap
      rw [State.front_request ha, if_pos hsome]
      rfl

end Sys2Proof.Machine
